-- ==== Sys2Proof/Word.lean ====
section
/-! DEFINITION. The widths the manual names, and the identifiers of its units (R15). -/

namespace Sys2Proof

abbrev Byte := BitVec 8
abbrev Word32 := BitVec 32
abbrev Word64 := BitVec 64

/-- Clusters CL00 to CL63 (R15). -/
abbrev Cl := Fin 64
/-- Contexts 0 to 15. -/
abbrev Ctx := Fin 16
/-- Rings 0 to 7 of a context. -/
abbrev Ring := Fin 8
/-- Caddies C0 and C1. -/
abbrev Cad := Fin 2
/-- Pots 0 and 1. -/
abbrev Pot := Fin 2
/-- HBM stacks H0 to H7. -/
abbrev Stack := Fin 8
/-- Sub-port index of a fabric port (R325). -/
abbrev Port := Fin 16
/-- Group schedulers of a TG (R227). -/
abbrev Sched := Fin 4
/-- Message queue number (R372). -/
abbrev Queue := Fin 64

end Sys2Proof
end

