-- ==== Sys2Proof/Syntax.lean ====
section
/-! DEFINITION. The commands of the block, one constructor for each row of the opcode table, and
the operand types they carry. A thread-group instruction is carried decoded: its binary encoding
lies outside the manual (00_scope.md, R2). -/

namespace Sys2Proof

/-- How a dictionary access arrives: BAR0 and MCTP are path P, SDO and RPDO1 path C, directed
frames path F (R406). -/
inductive Via | bar0 | mctp | sdo | rpdo | directed
deriving DecidableEq, Repr

/-- A frame that comes over the CAN FD bus for the SDO server (R418, R423): a request of its layout, or a classical
frame, one with a 29-bit identifier, or a request of another length or command. -/
inductive CanForm | request | classical | extended | length | command
deriving DecidableEq, Repr

/-- What the host's completion of a device read brought (R394, R395) (DESIGN CHOICE, log entry 11). -/
inductive HostRead
  | ok (data : List Byte)
  | poisoned (data : List Byte)
  | ur
  | ca
  | timeout
deriving DecidableEq, Repr

/-- A line of a vertical channel (R21; `thru`: it lies on the pass-through path, R29), or a lane
of an exchange group in one direction (R22). -/
inductive LineId
  | channel (cad : Cad) (ch : Fin 256) (line : Fin 2100) (thru : Bool)
  | lane (pot : Pot) (group : Fin 2) (dir : Fin 2) (ln : Fin 124)
deriving DecidableEq, Repr

/-- What a fill of a descriptor brings (R103): operand elements, block scales, epilogue vectors. -/
inductive SegPart | elemA | elemB | scaleA | scaleB | rowScale | colScale | bias
deriving DecidableEq, Repr

/-- One piece of a descriptor's fill: the descriptor's list position, the part, the line of the
operand (row of A, column of B; for a vector, the block of 32 values) and the K-step, and the index
in the walk of the panel or chunk it belongs to (R130). -/
structure Seg where
  pos  : Nat
  part : SegPart
  walk : Nat
  line : Nat
  step : Nat
deriving DecidableEq, Repr

/-- Who takes or posts cup tokens on a cluster: the engine, or the issue of a TG scheduler (R139). -/
inductive Taker | engine | sched (s : Sched)
deriving DecidableEq, Repr

/-- What the stack reports with a read (R195). -/
inductive Severity | none | corrected | uncorrected
deriving DecidableEq, Repr

/-- Wrong bits found in one 64-bit word of an SRAM on a read (R207): which word, how many. -/
structure WordErr where
  word : Nat
  bits : Nat
deriving DecidableEq, Repr

/-- SRAM arrays of a matrix engine whose words a command reads (R206): the cup buffer, the accumulators of the
half or set at work, the block scales, the vectors of an epilogue. -/
inductive MeArray | cup | acc | scale | vector (part : SegPart)
deriving DecidableEq, Repr

/-- Wrong bits found in a 64-bit word of an engine's arrays as a command reads it (R207). -/
structure MeErr where
  array : MeArray
  word  : Nat
  bits  : Nat
deriving DecidableEq, Repr

/-- Wrong bits found in a 64-bit word of a register file as operands are read (R207): the lane, a register of
the pair that the word holds, how many. -/
structure RegErr where
  lane : Nat
  reg  : Nat
  bits : Nat
deriving DecidableEq, Repr

/-- What the issue of a group finds (R207, R208, R266): byte offsets that lie outside the program; parity in the
instruction cache's line, registers whose cached copies fail parity, wrong bits in words of the register file. -/
structure IssueErrs where
  outside : List Nat
  icache : Bool
  rcache : List Nat
  regs   : List RegErr
deriving DecidableEq, Repr

/-- Nothing is wrong. -/
def IssueErrs.none : IssueErrs := ⟨[], false, [], []⟩

/-- The arbitration points (R199). -/
inductive ArbPoint
  | channel (cad : Cad) (ch : Fin 256) (toCaddy : Bool)
  | sliceRead (cad : Cad) (slice : Fin 256)
  | sliceWrite (cad : Cad) (slice : Fin 256)
  | saucer (toC1 : Bool)
  | bridge (cad : Cad) (toCaddy : Bool)
  | pseudo (stack : Stack) (ch : Fin 32) (pc : Fin 2)
deriving DecidableEq, Repr

/-- What every thread-group instruction command says: the cluster and scheduler whose issue set
executes it, and the bytes to the next instruction. -/
structure Th where
  cl    : Cl
  sched : Sched
  size  : Nat
deriving DecidableEq, Repr

/-- The read-only special registers of a thread (R231), and the address of the kernel's arguments
(R296) by its low and high word. -/
inductive SpecialReg | thread | block | grid | cluster | clock | argsLow | argsHigh
deriving DecidableEq, Repr

/-- A 32-bit source operand of a thread-group instruction. -/
inductive Src | reg (n : Nat) | imm (v : Word32) | special (r : SpecialReg)
deriving DecidableEq, Repr

inductive SpecialFn | recip | sqrt | rsqrt | exp2 | log2 | sin | cos
deriving DecidableEq, Repr

inductive Cmp | eq | ne | ltS | leS | ltU | leU
deriving DecidableEq, Repr

/-- The instruction classes of R265 that read and write a thread's own registers only. Control
instructions set the thread's program counter. -/
inductive AluOp
  | add (d : Nat) (a b : Src)
  | sub (d : Nat) (a b : Src)
  | cmp (c : Cmp) (d : Nat) (a b : Src)
  | select (d : Nat) (p a b : Src)
  | shl (d : Nat) (a b : Src)
  | shrL (d : Nat) (a b : Src)
  | shrA (d : Nat) (a b : Src)
  | mul32 (d : Nat) (a b : Src)
  | mul64 (d : Nat) (a b : Nat)
  | and (d : Nat) (a b : Src)
  | or (d : Nat) (a b : Src)
  | xor (d : Nat) (a b : Src)
  | fadd (d : Nat) (a b : Src)
  | fmul (d : Nat) (a b : Src)
  | ffma (d : Nat) (a b c : Src)
  | bf16fma (d : Nat) (a b c : Src)
  | special (f : SpecialFn) (d : Nat) (a : Src)
  | branch (target : Nat)
  | branchIf (p : Src) (target : Nat)
  | call (d : Nat) (target : Nat)
  | ret (a : Nat)
  | undefinedEncoding
deriving DecidableEq, Repr

/-- Element formats of a group matrix operand (R244). -/
inductive GFmt | e4m3 | e5m2 | int8 | bf16 | fp16
deriving DecidableEq, Repr

inductive PollKind | anyOf | every | bitmap
deriving DecidableEq, Repr

inductive FoldKind | sum | min | max
deriving DecidableEq, Repr

/-- Memory atomics (R259); the codes of AOP in R351. -/
inductive AtomOp | add | min | max | and | or | xor | exch | cas
deriving DecidableEq, Repr

/-- Types of an atomic; the codes of ATYPE in R351. -/
inductive AtomTy | i32 | u32 | i64 | f32 | b32 | b64
deriving DecidableEq, Repr

/-- A conversion: source and destination format codes (R47), rounding code (R75), SAT (R68). -/
structure CvtSpec where
  src : BitVec 5
  dst : BitVec 5
  rnd : BitVec 2
  sat : Bool
deriving DecidableEq, Repr

/-- A Morotik frame as it travels (R327, R351): the link fields, the IPv6 and UDP fields the switch
reads, the six header words, the poison mask and the payload. -/
structure MFrame where
  dmac    : BitVec 48
  smac    : BitVec 48
  pcp     : BitVec 3
  ecn     : BitVec 2
  hop     : Nat
  prefx   : BitVec 48
  snode   : BitVec 16
  dnode   : BitVec 16
  iid     : BitVec 64
  nextHdr : BitVec 8
  udpSrc  : BitVec 16
  udpDst  : BitVec 16
  /-- The EtherType behind the tag: 0x86DD of a Morotik frame. -/
  ety     : BitVec 16
  w0 : Word32
  w1 : Word32
  w2 : Word32
  w3 : Word32
  w4 : Word32
  w5 : Word32
  pmask   : BitVec 128
  payload : List Byte
deriving DecidableEq, Repr

/-- How a received frame's FCS stands: correct, wrong, or the correct one inverted (R342). -/
inductive Fcs | good | bad | stomped
deriving DecidableEq, Repr

/-- PTP messages a direct port sends and takes (R346). -/
inductive PtpKind | sync | syncFollowUp | pdelayReq | pdelayResp | pdelayFollowUp | announce
deriving DecidableEq, Repr

/-- What an Announce carries for best master selection, highest precedence first (R346). -/
structure Announce where
  prio1     : BitVec 8
  clockClass : BitVec 8
  accuracy  : BitVec 8
  variance  : BitVec 16
  prio2     : BitVec 8
  identity  : BitVec 64
  steps     : Nat
  sender    : BitVec 64
  domain    : BitVec 8
deriving DecidableEq, Repr

/-- The link resets of R398. -/
inductive LinkResetKind | flr | hot | perst | dlDown
deriving DecidableEq, Repr

/-- One diode's front-end report: a reading in 1/16 °C, or open or short (R451). -/
inductive Reading | temp (t : Int) | failed
deriving DecidableEq, Repr

/-- The readings of one millisecond (R450, R458): the 42 diodes in the order of 2210:01–2A, the six
thermistors, the power in W of the 16 lower-leaf zones (L0, then L2) and of the 8 caddy quarters. -/
structure Sensors where
  diodes : List Reading
  therms : List Int
  zoneW  : List Nat
  quarterW : List Nat
deriving DecidableEq, Repr

/-- One command of the block: an access from outside, an event, or a step of one of its engines. An operand with a
default is what a command may find or bring beside what it names; its default is the ordinary case. -/
inductive Instr
  | dictionaryWrite (via : Via) (idx : BitVec 16) (sub : BitVec 8) (size : Nat) (value : Word64) (poisoned : Bool)
  | counterLowRead (via : Via) (idx : BitVec 16) (sub : BitVec 8)
  | lineQualify (l : LineId) (errs : Nat)
  | spareLineSwitch (l : LineId)
  | descriptorRead (cl : Cl)
  | descriptorReadReturn (cl : Cl)
  | stationaryLoad (cl : Cl) (errs : List MeErr := [])
  | movingVectorIssue (cl : Cl) (errs : List MeErr := [])
  | osTileIssue (cl : Cl) (errs : List MeErr := [])
  | epilogueDrainStart (cl : Cl)
  | epilogueWrite (cl : Cl) (errs : List MeErr := [])
  | fillRequest (cl : Cl) (seg : Seg)
  | fillDataReturn (id : Nat)
  | multicastMemberArrive (cl : Cl)
  | multicastTimeout (cl : Cl)
  | cupTokenTakeGrant (cl : Cl) (t : Taker)
  | cupTokenPost (cl : Cl) (t : Taker)
  | cupTokenTimeout (cl : Cl) (t : Taker)
  | descriptorFsig (cl : Cl) (pos : Nat)
  | sliceRead (id : Nat) (errs : List WordErr) (tagLost : Bool)
  | markedRead (id : Nat) (errs : List WordErr := []) (tagLost : Bool := false)
  | sliceWrite (id : Nat) (errs : List WordErr := []) (tagLost : Bool := false)
  | prefetchRequest (base len : BitVec 48)
  | prefetchFetchIssue (cad : Cad) (slice : Fin 256)
  | atomicAtHomeSlice (id : Nat) (errs : List WordErr := []) (tagLost : Bool := false)
  | caddyFlush (via : Via)
  | caddyFlushDone
  | dregsguardWrite (via : Via) (value : Word32)
  | regionPlacementWrite (via : Via) (k : Fin 24) (value : Word32)
  | regionInvalidateWalkDone (region : Fin 384)
  | pinshareWrite (via : Via) (value : Word32)
  | pinRequest (via : Via) (pref : Bool) (owner : BitVec 5)
  | unpinRequest (via : Via)
  | pinFirstWalkDone
  | pinSecondWalkDone
  | pinPrefetchDone
  | unpinWalkDone
  | killUnpinWalk
  | thrashWindowEnd
  | cadeventClear (via : Via) (value : Word32)
  | hbmSectorReadReturn (id : Nat) (flip : BitVec 288) (sev : Severity)
  | hbmWriteIssue (id : Nat) (flip : BitVec 288 := 0) (sev : Severity := .none)
  | streamDetectorFree (cad : Cad) (det : Fin 64)
  | hbmTemperatureReport (stack : Stack) (temp : Int)
  | hbmRefresh (stack : Stack) (ch : Fin 32) (pc : Fin 2) (bank : Nat)
  | arbitrationGrant (p : ArbPoint)
  | ncweightDlshareWrite (via : Via) (sub : Fin 8) (value : Word32)
  | sramCorrectedWriteback
  | celogClear (via : Via) (log : Fin 10) (i : Fin 32)
  | inteventClear (via : Via) (value : Word32)
  | softRepair (cad : Cad) (i : Fin 32)
  | softRepairStore
  | scrubEnableWrite (via : Via) (idle : Bool) (value : Word32)
  | scrubHbmSector (stack : Stack) (ch : Fin 32) (pc : Fin 2) (flip : BitVec 288) (sev : Severity)
  | scrubCaddyLine (cad : Cad) (slice : Fin 256) (errs : List WordErr) (tagLost : Bool)
  | blockPlace (cl : Cl)
  | groupIssue (cl : Cl) (sched : Sched) (uses : List (Nat × List Nat)) (reuse : List Nat)
      (found : IssueErrs := .none)
  | aluInstruction (th : Th) (op : AluOp)
  | gmat (th : Th) (mask : Src) (fa fb : GFmt) (a b c : Nat)
  | xlaneGet (th : Th) (mask : Src) (d a : Nat) (lane : Src)
  | xlanePoll (th : Th) (mask : Src) (kind : PollKind) (d : Nat) (p : Src)
  | xlaneFold (th : Th) (mask : Src) (kind : FoldKind) (signed : Bool) (d : Nat) (a : Src)
  | convergenceTimeout (cl : Cl) (sched : Sched) (slot : Fin 12)
  | ld (th : Th) (d a bytes : Nat) (parityBad : Bool)
  | ldByp (th : Th) (d a bytes : Nat)
  | ldDregs (th : Th) (d a bytes : Nat)
  | loadReturn (id : Nat)
  | st (th : Th) (a v bytes : Nat)
  | memoryAtomic (th : Th) (op : AtomOp) (ty : AtomTy) (d a v : Nat)
  | localLoad (th : Th) (d : Nat) (a : Src) (bytes : Nat) (errs : List WordErr)
  | localStore (th : Th) (a : Src) (v bytes : Nat)
  | localAtomic (th : Th) (op : AtomOp) (ty : AtomTy) (d : Nat) (a : Src) (v : Nat) (errs : List WordErr := [])
  | windowLoad (th : Th) (d : Nat) (a : Src) (bytes : Nat) (errs : List WordErr := [])
  | windowStore (th : Th) (a : Src) (v bytes : Nat)
  | prefetch (th : Th) (a : Nat) (len : Src)
  | fenceBlock (th : Th)
  | fenceDevice (th : Th)
  | fenceFabric (th : Th)
  | fenceComplete (cl : Cl) (sched : Sched) (slot : Fin 12)
  | barBlock (th : Th)
  | barrierTimeout (cl : Cl) (blk : Fin 16)
  | ctTake (th : Th) (ctr n : Src)
  | ctPost (th : Th) (ctr n : Src)
  | cvt (th : Th) (c : CvtSpec) (d a : Nat)
  | cvtX2 (th : Th) (c : CvtSpec) (d a : Nat)
  | rngU32 (th : Th) (d : Nat)
  | rngNorm (th : Th) (d : Nat)
  | rngKseed (th : Th) (d key coord : Nat)
  | cvtK (th : Th) (c : CvtSpec) (d a s : Nat)
  | cvtX2K (th : Th) (c : CvtSpec) (d a s : Nat)
  | rngU32K (th : Th) (d s : Nat)
  | rngNormK (th : Th) (d s : Nat)
  | exit (th : Th)
  | tgfaultClear (via : Via) (value : Word64)
  | mqBegin (th : Th) (q : Queue)
  | mqPut (th : Th) (q : Queue) (a : Nat)
  | mqEnd (th : Th) (q : Queue) (lenb dnode dqueue : Src)
  | mqGet (th : Th) (q : Queue) (d : Nat)
  | rngseedWrite (via : Via) (ctx : Ctx) (value : Word64)
  | ringEnable (via : Via) (ctx : Ctx) (ring : Ring) (value : Word32)
  | ringDisable (via : Via) (ctx : Ctx) (ring : Ring) (value : Word32)
  | ciReadReturn (ctx : Ctx) (ring : Ring)
  | pollTick
  | piReadReturn (ctx : Ctx) (ring : Ring)
  | jobEntryFetch (ctx : Ctx) (ring : Ring)
  | jobEntryReturn (ctx : Ctx) (ring : Ring)
  | computeJobStart (job : Nat)
  | copyJobStart (job : Nat)
  | prefetchJobStart (job : Nat)
  | pinJobStart (job : Nat)
  | fenceJobStart (job : Nat)
  | collectiveJobStart (job : Nat) (slot : Fin 4)
  | jobDropLate (job : Nat)
  | computeJobComplete (job : Nat)
  | copyJobComplete (job : Nat)
  | pinJobComplete (job : Nat)
  | completionTimerExpire (ctx : Ctx)
  | cqEnable (via : Via) (ctx : Ctx) (value : Word32)
  | headaddrReadReturn (ctx : Ctx)
  | ctxSave (via : Via) (ctx : Ctx)
  | saveDrainTimeout (ctx : Ctx)
  | saveStateWrite (ctx : Ctx)
  | ctxSaved (ctx : Ctx)
  | ctxRestore (via : Via) (ctx : Ctx)
  | restoreSlotWrite (ctx : Ctx) (cl : Cl)
  | ctxRestored (ctx : Ctx)
  | ctxKill (via : Via) (ctx : Ctx)
  | ctxResume (via : Via) (ctx : Ctx)
  | ftnowRead (via : Via)
  | ftcfgSrcWrite (via : Via) (value : Word32)
  | fttodWrite (via : Via) (value : Word64)
  | ppsEdge
  | ftSourceLossTimeout
  | powerProjection
  | helloSend (port : Port)
  | helloReceive (port : Port) (smac : BitVec 48) (w0 w1 w2 w3 : Word32)
  | portAlignmentSettled (port : Port)
  | pcsAlignmentLoss (port : Port)
  | fecUncorrectableBurst (port : Port) (n : Nat) (fixed : Nat := 0)
  | helloTimeout (port : Port)
  | topologyRecordOriginate
  | topologyRecordReceive (port : Port) (w0 w1 w2 : Word32) (links : List Word32)
  | directedFrameReceive (port : Option Port) (w : List Word32)
  | directedReplyReceive (port : Port) (w : List Word32)
  | neighbourSolicitation (port : Port) (smac : BitVec 48) (prefx : BitVec 48) (node : BitVec 16) (iid : Word64)
  | morotikFrameReceive (port : Option Port) (f : MFrame) (fcs : Fcs)
  | egressTransmit (port : Port) (errs : List WordErr := [])
  | rtdataWrite (via : Via) (value : Word32)
  | nodecfgWrite (via : Via) (value : Word32)
  | ptpMessageSend (port : Port) (kind : PtpKind)
  | ptpSyncReceive (port : Port) (origin : Nat) (arrival : Nat) (correction : Int) (domain : BitVec 8 := 0)
  | ptpAnnounceReceive (port : Port) (a : Announce)
  | announceReceiptTimeout (port : Port)
  | writeReceive
  | readreqReceive
  | readrespReceive
  | atomicReceive
  | atomicrespReceive
  | ackReceive
  | ackSend (node : Fin 8192) (cls : Fin 2)
  | retransmitTimeout (node : Fin 8192) (cls : Fin 2)
  | msgReceive
  | collReceive
  | collctlRtsReceive
  | collctlCtsReceive
  | creditReceive (port : Port) (counts : List Word32)
  | creditSend (port : Port)
  | rateIncreaseInterval (node : Fin 8192) (cls : Fin 2)
  | collPhaseTime (slot : Fin 4)
  | reduceChunkCombine (slot : Fin 4) (chunk : Nat)
  | mqMessageSend (q : Queue)
  | mqFlush (via : Via) (rx : Bool) (q : Queue)
  | mqFlushRelease (rx : Bool) (q : Queue)
  | pcieLinkTrain (speed : Fin 8) (width : Nat) (replays : Nat := 0)
  | bar0WideRead (idx : BitVec 16) (sub : BitVec 8) (size : Nat := 4)
  | bar0WideWrite (idx : BitVec 16) (sub : BitVec 8) (low : Word32)
  | bar2Read (addr : Nat) (len : Nat)
  | bar2Write (addr : Nat) (data : List Byte) (poisoned : Bool)
  | bar4StagingWrite (off : Nat) (data : List Byte) (poisoned : Bool)
  | fwVerify
  | fwVerifyWrite
  | fwVerifyRun
  | fwCommandDone (flashOk : Bool)
  | msixUnmask (vec : Fin 64)
  | hostReadCompletion (id : Nat) (r : HostRead)
  | hostCompletionTimeout (id : Nat)
  | mctpSetEndpointId (eid : Byte)
  | mctpReadEntry (idx : BitVec 16) (sub : BitVec 8)
  | mctpWriteEntry (idx : BitVec 16) (sub : BitVec 8) (value : Word64)
  | mctpGetEvidence (nonce : List Byte)
  | linkReset (kind : LinkResetKind)
  | d3hotEntry
  | linkResetRecovery
  | configStore (via : Via) (value : Word32)
  | configStoreDone (flashOk : Bool)
  | configRestore (via : Via) (value : Word32)
  | configRestoreDone (flashOk : Bool)
  | sdoRead (idx : BitVec 16) (sub : BitVec 8) (form : CanForm := .request)
  | sdoWrite (idx : BitVec 16) (sub : BitVec 8) (size : Nat) (value : Word64) (form : CanForm := .request)
  | nmtStart
  | nmtStop
  | nmtEnterPreOperational
  | nmtResetNode
  | nmtResetCommunication
  | heartbeatSend
  | emcySend
  | tpdo2Send
  | rpdo1Receive (data : List Byte)
  | busOffRecovery
  | powerSlot (watts : Nat) (decivolts : Nat) (activity : Nat)
  | stepRampComplete
  | inputOvervoltage
  | inputUndervoltage
  | inputOutOfRange
  | sensorRead (x : Sensors)
  | rateDemandExpire
  | thermalDemandUpdate
  | modelGovernSwitch (zone : Fin 16)
  | standbyPowerApply
  | standbyPowerLoss
  | inputReturn
  | coldStartCommand (via : Via)
  | warmRestartCommand (via : Via)
  | firmwareVerifyDone
  | bootPhaseEnd
  | powerWave (w : Fin 8)
  | leafPowerupCheck (ok : List Bool)
  | poweringPhaseEnd
  | trainingPhaseEnd (trained : BitVec 8)
  | marchTest (cad : Cad) (responds : Bool) (failing : List (Fin 256 × Fin 2048 × Fin 24))
  | knownAnswerTest (cl : Cl) (firstFail : Option (Fin 20))
  | checkingPhaseEnd
  | converterFault
  | modRstAssert
  | modRstRelease
  | svnCommit (via : Via) (value : Word32)
  | svnFuseDone
  | standingEvidence
  | laneRepairRecordWrite
  | ageingLogWrite
  | ageingReplanDue
  | agectlGo (via : Via)
  | ageingReplan (vmin : List (Option Int))
  | snapshotArm (via : Via) (value : Word32)
  | snapshotTrigger (via : Via) (value : Word32)
  | snapshotFtMatch
  | snapInEdge
  | snapshotCopyDone
  | ppsOutPulse
  | pcsAligned (port : Port)
  | ptpPdelayReceive (port : Port) (kind : PtpKind) (t1 t2 t3 t4 : Nat) (domain : BitVec 8 := 0)
  | clusterReserve (job : Nat)
  | evidenceReady
  | d0Entry
  | canBusError (tec rec : Nat)
deriving DecidableEq, Repr

end Sys2Proof
end

