-- ==== Sys2Proof/Decode.lean ====
section
/-! DEFINITION. The command a word spells by the bits of the opcode table. No row of the table
gives bits, so no word spells a command. -/

namespace Sys2Proof

/-- (DEDUCED, log entry 10.) -/
def decodeTableWord (_nbits _w : Nat) : Option Instr := none

end Sys2Proof
end

