-- ==== Sys2Proof/Machine/Format.lean ====
section
/-! DEFINITION. Number formats, exact sums, rounding and conversion (02_number_formats.md, R47 to
R77). A value is held exactly, as a sign, a magnitude and a power of two. -/

namespace Sys2Proof.Machine

/-- An exact number, or a special value: `fin neg m e` is (−1)^neg × m × 2^e, with signed zeros. -/
inductive Num
  | nan
  | inf (neg : Bool)
  | fin (neg : Bool) (m : Nat) (e : Int)
deriving DecidableEq, Repr

/-- Numeric exceptions in the bit order of NUMEXC (R77): NANIN, INVALID, OVF, NANDROP. -/
abbrev Exc := BitVec 4
def Exc.nanin : Exc := 0b0001
def Exc.invalid : Exc := 0b0010
def Exc.ovf : Exc := 0b0100
def Exc.nandrop : Exc := 0b1000

/-- How a format treats its all-ones exponent (R49). -/
inductive Special | ieee | nanOnly | finite
deriving DecidableEq, Repr

/-- A floating-point layout (R49, R50). -/
structure FloatFmt where
  ebits   : Nat
  mbits   : Nat
  bias    : Nat
  special : Special
  /-- The NaN pattern the device writes; 0 where the format has none. -/
  nan     : Nat
deriving DecidableEq, Repr

/-- An element format. -/
inductive Fmt
  | flt (f : FloatFmt)
  | int (bits : Nat)
deriving DecidableEq, Repr

def fp32 : FloatFmt := ⟨8, 23, 127, .ieee, 0x7FC00000⟩
def bf16 : FloatFmt := ⟨8, 7, 127, .ieee, 0x7FC0⟩
def fp16 : FloatFmt := ⟨5, 10, 15, .ieee, 0x7E00⟩
def e4m3 : FloatFmt := ⟨4, 3, 7, .nanOnly, 0x7F⟩
def e5m2 : FloatFmt := ⟨5, 2, 15, .ieee, 0x7E⟩
def e3m2 : FloatFmt := ⟨3, 2, 3, .finite, 0⟩
def e2m3 : FloatFmt := ⟨2, 3, 1, .finite, 0⟩
def e2m1 : FloatFmt := ⟨2, 1, 1, .finite, 0⟩

/-- Element format of the low four bits of a code (R47). -/
def elemOf (code : BitVec 4) : Option Fmt :=
  match code with
  | 0x0 => some (.flt fp32) | 0x1 => some (.flt bf16) | 0x2 => some (.flt fp16)
  | 0x3 => some (.flt e4m3) | 0x4 => some (.flt e5m2) | 0x5 => some (.flt e3m2)
  | 0x6 => some (.flt e2m3) | 0x7 => some (.flt e2m1)
  | 0x8 => some (.int 8) | 0x9 => some (.int 4) | _ => none

/-- A format code names an MX format when bit 4 is set (R47). -/
def codeMx (c : BitVec 5) : Bool := c.getLsbD 4

/-- The element format of a listed code; none for a reserved one (R47, R48). -/
def fmtOf (c : BitVec 5) : Option Fmt :=
  if codeMx c then
    match c.toNat with
    | 0x13 | 0x14 | 0x15 | 0x16 | 0x17 => elemOf (c.setWidth 4)
    | _ => none
  else elemOf (c.setWidth 4)

def Fmt.bits : Fmt → Nat
  | .flt f => 1 + f.ebits + f.mbits
  | .int n => n

def Fmt.isInt : Fmt → Bool
  | .flt _ => false
  | .int _ => true

def FloatFmt.emin (f : FloatFmt) : Int := 1 - (f.bias : Int)
def FloatFmt.expOnes (f : FloatFmt) : Nat := 2 ^ f.ebits - 1
/-- Exponent of the last place of the largest finite value, and its significand. -/
def FloatFmt.maxFinite (f : FloatFmt) : Nat × Int :=
  match f.special with
  | .ieee => (2 ^ (f.mbits + 1) - 1, ((f.expOnes - 1 : Nat) : Int) - f.bias - f.mbits)
  | .nanOnly => (2 ^ (f.mbits + 1) - 2, (f.expOnes : Int) - f.bias - f.mbits)
  | .finite => (2 ^ (f.mbits + 1) - 1, (f.expOnes : Int) - f.bias - f.mbits)

/-- The value an element's bits encode (R49, R52). -/
def decodeFloat (f : FloatFmt) (b : Nat) : Num :=
  let m := b % 2 ^ f.mbits
  let e := b / 2 ^ f.mbits % 2 ^ f.ebits
  let neg := b / 2 ^ (f.mbits + f.ebits) % 2 == 1
  if e = f.expOnes && f.special == .ieee then
    (if m = 0 then .inf neg else .nan)
  else if e = f.expOnes && f.special == .nanOnly && m = 2 ^ f.mbits - 1 then .nan
  else if e = 0 then .fin neg m (f.emin - f.mbits)
  else .fin neg (2 ^ f.mbits + m) ((e : Int) - f.bias - f.mbits)

/-- The value of a two's-complement integer (R52): it has no negative zero. -/
def decodeInt (n : Nat) (b : Nat) : Num :=
  let v := b % 2 ^ n
  if v < 2 ^ (n - 1) then .fin false v 0 else .fin true (2 ^ n - v) 0

def decode (f : Fmt) (b : Nat) : Num :=
  match f with
  | .flt g => decodeFloat g b
  | .int n => decodeInt n b

def ofWord (w : Word32) : Num := decodeFloat fp32 w.toNat

def Num.isNan : Num → Bool
  | .nan => true
  | _ => false

def Num.neg : Num → Num
  | .nan => .nan
  | .inf n => .inf (!n)
  | .fin n m e => .fin (!n) m e

/-- Multiplication by a power of two, exact. -/
def Num.scale (k : Int) : Num → Num
  | .fin n m e => .fin n m (e + k)
  | x => x

/-- The E8M0 scale byte (R53): the exponent of the scale, none for NaN. -/
def scaleExp (s : Byte) : Option Int := if s = 0xFF then none else some ((s.toNat : Int) - 127)

/-- An MX element under its block's scale (R53). -/
def scaled (x : Num) (s : Byte) : Num :=
  match scaleExp s with
  | none => .nan
  | some k => x.scale k

/-- Exact product; 0 × ∞ is NaN (R62). -/
def mulExact : Num → Num → Num
  | .nan, _ => .nan
  | _, .nan => .nan
  | .inf a, .inf b => .inf (a != b)
  | .inf a, .fin b m _ => if m = 0 then .nan else .inf (a != b)
  | .fin a m _, .inf b => if m = 0 then .nan else .inf (a != b)
  | .fin a m e, .fin b n f => .fin (a != b) (m * n) (e + f)

/-- A signed exact magnitude at a fixed exponent. -/
def atExp (e0 : Int) : Num → Int
  | .fin neg m e =>
    let v : Int := ((m * 2 ^ (e - e0).toNat : Nat) : Int)
    if neg then -v else v
  | _ => 0

def minExp (xs : List Num) : Int :=
  xs.foldl (fun a x => match x with | .fin _ _ e => min a e | _ => a) 0

/-- The exact sum of a list of terms by the special-value rules of R62. -/
def sumExact (xs : List Num) : Num :=
  if xs.any Num.isNan then .nan
  else
    let pos := xs.any (fun x => x == .inf false)
    let neg := xs.any (fun x => x == .inf true)
    if pos && neg then .nan
    else if pos then .inf false
    else if neg then .inf true
    else
      let e0 := minExp xs
      let s := (xs.map (atExp e0)).sum
      if s = 0 then
        .fin (!xs.isEmpty && xs.all (fun x => match x with | .fin n _ _ => n | _ => false)) 0 0
      else .fin (decide (s < 0)) s.natAbs e0

/-- The rounding modes (R75), SR with its D random bits (R71). -/
inductive Rnd
  | rne
  | sr (d : Nat) (r : Nat)
  | rtz
deriving DecidableEq, Repr

/-- R70 and R71: the integer to which q = n + rem / 2^k is rounded. -/
def roundInt (mode : Rnd) (n rem k : Nat) : Nat :=
  match mode with
  | .rtz => n
  | .rne =>
    if 2 * rem > 2 ^ k then n + 1
    else if 2 * rem < 2 ^ k then n
    else if k = 0 then n
    else if n % 2 = 0 then n else n + 1
  | .sr d r => if rem * 2 ^ d / 2 ^ k + r ≥ 2 ^ d then n + 1 else n

/-- The source in units of 2^ue: whole part, remainder and the number of bits discarded. -/
def quantise (m : Nat) (e ue : Int) : Nat × Nat × Nat :=
  if ue ≤ e then (m * 2 ^ (e - ue).toNat, 0, 0)
  else
    let k := (ue - e).toNat
    (m / 2 ^ k, m % 2 ^ k, k)

/-- Exponent of the destination's last place at the source's exponent (R70). -/
def ulpExp (f : FloatFmt) (m : Nat) (e : Int) : Int :=
  max (e + Nat.log2 m) f.emin - f.mbits

/-- Is n × 2^ue above the largest finite value (R68)? -/
def overflows (f : FloatFmt) (n : Nat) (ue : Int) : Bool :=
  let (mx, me) := f.maxFinite
  if ue ≥ me then decide (n * 2 ^ (ue - me).toNat > mx)
  else decide (n > mx * 2 ^ (me - ue).toNat)

def signBit (f : FloatFmt) (neg : Bool) : Nat := if neg then 2 ^ (f.ebits + f.mbits) else 0

/-- The pattern of a representable magnitude n × 2^ue, with ue as `ulpExp` gives it. -/
def encodeFinite (f : FloatFmt) (neg : Bool) (n : Nat) (ue : Int) : Nat :=
  let (n, ue) := if n ≥ 2 ^ (f.mbits + 1) then (n / 2, ue + 1) else (n, ue)
  if n < 2 ^ f.mbits then signBit f neg + n
  else signBit f neg + (ue + f.mbits + f.bias).toNat * 2 ^ f.mbits + (n - 2 ^ f.mbits)

def infBits (f : FloatFmt) (neg : Bool) : Nat := signBit f neg + f.expOnes * 2 ^ f.mbits

def maxFiniteBits (f : FloatFmt) (neg : Bool) : Nat :=
  encodeFinite f neg f.maxFinite.1 f.maxFinite.2

/-- What an overflow or an infinite input is written as (R68, R70 for RTZ). -/
def overflowBits (f : FloatFmt) (neg sat rtz : Bool) : Nat :=
  if sat || rtz then maxFiniteBits f neg
  else match f.special with
    | .ieee => infBits f neg
    | .nanOnly => f.nan
    | .finite => maxFiniteBits f neg

def clampInt (bits : Nat) (v : Int) : Int :=
  max (-(2 ^ (bits - 1) : Int)) (min v ((2 ^ (bits - 1) : Int) - 1))

def intBits (bits : Nat) (v : Int) : Nat := (v % (2 ^ bits : Int)).toNat

/-- Conversion to a format (R67, R68, R70, R71): the pattern and the flags it raises. -/
def convert (f : Fmt) (mode : Rnd) (sat : Bool) (x : Num) : Nat × Exc :=
  match f, x with
  | .flt g, .nan =>
    (match g.special with
     | .finite => (0, Exc.nandrop)
     | _ => (g.nan, 0))
  | .flt g, .inf neg =>
    (match g.special with
     | .ieee => if sat then (maxFiniteBits g neg, Exc.ovf) else (infBits g neg, 0)
     | .nanOnly => if sat then (maxFiniteBits g neg, Exc.ovf) else (g.nan, Exc.ovf)
     | .finite => (maxFiniteBits g neg, Exc.ovf))
  | .flt g, .fin neg m e =>
    if m = 0 then (signBit g neg, 0)
    else
      let ue := ulpExp g m e
      let (n, rem, k) := quantise m e ue
      let n := roundInt mode n rem k
      if overflows g n ue then (overflowBits g neg sat (mode == .rtz), Exc.ovf)
      else (encodeFinite g neg n ue, 0)
  | .int _, .nan => (0, Exc.nandrop)
  | .int b, .inf neg =>
    (intBits b (if neg then -(2 ^ (b - 1) : Int) else (2 ^ (b - 1) : Int) - 1), Exc.ovf)
  | .int b, .fin neg m e =>
    let (n, rem, k) := quantise m e 0
    let n : Int := roundInt mode n rem k
    let v := if neg then -n else n
    let c := clampInt b v
    (intBits b c, if c = v then 0 else Exc.ovf)

/-- rne32 of R62: round to nearest even into FP32, ±∞ on overflow. -/
def rne32x (x : Num) : Word32 × Exc :=
  let (b, e) := convert (.flt fp32) .rne false x
  (BitVec.ofNat 32 b, e)

def rne32 (x : Num) : Word32 := (rne32x x).1

/-- Flags of an operation with these inputs and this exact result (R77). -/
def opExc (ins : List Num) (out : Num) : Exc :=
  if out.isNan && !ins.any Num.isNan then Exc.invalid else 0

/-- FP32 addition with one rounding (R63). -/
def addRne (a b : Word32) : Word32 × Exc :=
  let x := sumExact [ofWord a, ofWord b]
  let (r, e) := rne32x x
  (r, e ||| opExc [ofWord a, ofWord b] x)

def mulRne (a b : Word32) : Word32 × Exc :=
  let x := mulExact (ofWord a) (ofWord b)
  let (r, e) := rne32x x
  (r, e ||| opExc [ofWord a, ofWord b] x)

/-- Fused multiply-add, one rounding (R76). -/
def fmaRne (a b c : Word32) : Word32 × Exc :=
  let p := mulExact (ofWord a) (ofWord b)
  let x := sumExact [p, ofWord c]
  let (r, e) := rne32x x
  (r, e ||| opExc [ofWord a, ofWord b, ofWord c] x)

/-- Compute formats in the order of R57. -/
def computeFloats : List FloatFmt := [e2m1, e2m3, e3m2, e4m3, e5m2, fp16, bf16, fp32]

/-- Does g hold every value of f exactly: mantissa, largest value, smallest place, specials (R57)? -/
def holdsAll (g f : FloatFmt) : Bool :=
  decide (f.mbits ≤ g.mbits) && decide (g.emin - g.mbits ≤ f.emin - f.mbits)
    && !overflows g f.maxFinite.1 f.maxFinite.2
    && (match f.special with
        | .ieee => g.special == .ieee
        | .nanOnly => g.special != .finite
        | .finite => true)

/-- The compute format of two element formats (R57); none for a mix of integer and floating (R58). -/
def computeFmt (a b : Fmt) : Option Fmt :=
  match a, b with
  | .int m, .int n => some (.int (max m n))
  | .flt f, .flt g =>
    if f = g then some (.flt f)
    else (computeFloats.find? (fun h => holdsAll h f && holdsAll h g)).map .flt
  | _, _ => none

/-- Every value of the source is a value of the destination: the conversion is exact (R67). -/
def exactIn (src dst : Fmt) : Bool :=
  match src, dst with
  | .flt f, .flt g => holdsAll g f
  | .int m, .int n => decide (m ≤ n)
  | _, .flt g => g == fp32
  | _, _ => false

/-- SAT has an effect only on a conversion that can lose value (R67, R68). -/
def satOf (src dst : Fmt) (sat : Bool) : Bool := sat && !exactIn src dst

/-- A FP32 word with the NaN that the device writes (R51). -/
def canonNan (w : Word32) : Word32 := if (ofWord w).isNan then 0x7FC00000 else w

/-- Dot length of a compute format (R60). -/
def dotLength (f : Fmt) : Nat :=
  match f.bits with
  | 4 => 128
  | 6 => 64
  | 8 => 32
  | 16 => 16
  | _ => 4

/-- Mantissa width of a source for R72. -/
def srcMant : Fmt → Nat
  | .flt f => f.mbits
  | .int n => n - 2

/-- D, the random bits one SR conversion draws (R72, R73). -/
def drawBits (src dst : Fmt) : Nat :=
  match dst with
  | .flt g => srcMant src - g.mbits
  | .int _ => if src.isInt then 0 else 16

/-- The exact product of two integers: zero has no sign (R62). -/
def Num.unsignedZero : Num → Num
  | .fin _ 0 e => .fin false 0 e
  | x => x

/-- The term of a pair of operands: of integers their exact product, else as `mulExact` (R62). -/
def unitTerm (ints : Bool) (p : Num × Num) : Num :=
  let t := mulExact p.1 p.2
  if ints then t.unsignedZero else t

/-- Flags of one unit sum (R77, R134): a NaN input raises NANIN; a product or a sum that is NaN while
none of its own inputs is raises INVALID (DEDUCED, log entry 114). -/
def unitExc (ps : List (Num × Num)) : Exc :=
  let terms := ps.map (fun p => mulExact p.1 p.2)
  let made := ps.any fun p => !p.1.isNan && !p.2.isNan && (mulExact p.1 p.2).isNan
  (if ps.any (fun p => p.1.isNan || p.2.isNan) then Exc.nanin else 0)
    ||| (if made || (!terms.any Num.isNan && (sumExact terms).isNan) then Exc.invalid else 0)

/-- One unit sum: the exact sum of the products under their scales (R61, R62), and its flags. -/
def unitSum (ints : Bool) (ps : List (Num × Num)) : Num × Exc :=
  (sumExact (ps.map (unitTerm ints)), unitExc ps)

/-- One level of the adjacent-pair tree (R63). -/
def treeLevel : List Word32 → List Word32 × Exc
  | a :: b :: rest =>
    let (s, e) := addRne a b
    let (r, e') := treeLevel rest
    (s :: r, e ||| e')
  | [a] => ([a], 0)
  | [] => ([], 0)

/-- The five levels over the 32 rounded unit sums of one column (R63). -/
def treeSum (p : List Word32) : Word32 × Exc :=
  let (p1, e1) := treeLevel p
  let (p2, e2) := treeLevel p1
  let (p3, e3) := treeLevel p2
  let (p4, e4) := treeLevel p3
  let (p5, e5) := treeLevel p4
  (p5.headD 0, e1 ||| e2 ||| e3 ||| e4 ||| e5)

/-- Largest exponent of an MX element format (R69). -/
def mxEmax (f : FloatFmt) : Int := if f = e2m3 then 2 else f.maxFinite.2 + f.mbits

/-- floor(log2 |x|) of a finite non-zero value. -/
def floorLog2 (m : Nat) (e : Int) : Int := e + Nat.log2 m

/-- The larger of two magnitudes. -/
def maxMag (a b : Nat × Int) : Nat × Int :=
  let e0 := min a.2 b.2
  if a.1 * 2 ^ (a.2 - e0).toNat ≥ b.1 * 2 ^ (b.2 - e0).toNat then a else b

/-- The scale byte of an MX output block, none when it holds a NaN or an infinity (R69). -/
def mxScale (f : FloatFmt) (ys : List Num) : Option Byte :=
  if ys.any (fun y => match y with | .fin _ _ _ => false | _ => true) then none
  else
    let amax := ys.foldl (fun a y => match y with | .fin _ m e => maxMag a (m, e) | _ => a) (0, 0)
    if amax.1 = 0 then some 0
    else some (BitVec.ofNat 8 (max 0 (min (floorLog2 amax.1 amax.2 - mxEmax f + 127) 254)).toNat)

/-- One element of an MX output block under the block's scale (R69): saturating, and raising no
OVF. -/
def mxElement (f : FloatFmt) (mode : Rnd) (s : Byte) (y : Num) : Nat :=
  (convert (.flt f) mode true (y.scale (127 - (s.toNat : Int)))).1

end Sys2Proof.Machine
end

