-- ==== Sys2Proof/Config.lean ====
section
/-! DEFINITION. What one module fixes at manufacture, what the manual leaves open, and the free
values. Every constant here is opaque: no proof can see a value of it. -/

namespace Sys2Proof.Config

/-! ### Fused and strapped values (DESIGN CHOICE, log entry 8) -/

/-- MEREPAIR of engine n (R111), before the reserved fields are cleared. -/
opaque merepair : Nat → Word32
/-- MACBASE (R329), before its low four bits are cleared. -/
opaque macBase : BitVec 48
/-- θ of lower-leaf zone n, in 0.002 K/W (R459). -/
opaque theta : Nat → Byte
/-- 1018:01, the vendor identifier, whose value the manual does not print. -/
opaque vendorId : Word32
/-- Low half of 1018:03; the upper half is 0x0001 (R1). -/
opaque revisionLow : BitVec 16
/-- 1018:04, the serial number. -/
opaque serial : Word64
/-- Spare lines of a channel fused in at manufacture (R493), 0 to 64. -/
opaque fusedSpares : Nat → Nat
/-- CONST contents of the PDO entries (R429): CAN-IDs' upper bits, transmission types, mappings. -/
opaque pdoConst : Nat → Word32
/-- Objects mapped into a PDO (R429), by the index of its mapping entry. -/
opaque pdoMaps : Nat → Nat
/-- Strap pins as the tray ties them (R501): CAN_ID, POS_X, POS_Y, POS_Z, POS_V. -/
opaque canId : BitVec 7
opaque posX : BitVec 4
opaque posY : BitVec 4
opaque posZ : BitVec 5
opaque posV : Bool
/-- What the module announces of itself under IEEE 1588-2019 (R346; DESIGN CHOICE, log entry 61). -/
opaque clockIdentity : BitVec 64
opaque clockAccuracy : BitVec 8
opaque clockVariance : BitVec 16
/-- Fuses blown in the security version counter when the module was made (R482). -/
opaque svnFuses : Nat
/-- The endorsement record verifies under the vendor key (R489). -/
opaque endorsed : Bool
/-- Bytes of the image that the flash holds when the module ships: 8,192 before the body, and the body
(DESIGN CHOICE, log entry 84). -/
opaque shippedHeader : List Byte
opaque shippedBody : List Byte
/-- Words of the identity public key and of the endorsement signature (R489). -/
opaque identityKey : Nat → Word64
opaque endorsement : Nat → Word64

/-! ### ROM contents the manual does not print (DESIGN CHOICE, log entry 8) -/

/-- Polynomial ROM (R274), as numbers from which the masks are chosen. -/
opaque polyRom : Nat → Word64
/-- The known-answer test area of the boot ROM (R477). -/
opaque katRom : Nat → Byte

/-! ### Functions of named standards and circuits (DEDUCED, log entry 111) -/

/-- SHAKE256 with a 64-byte output (FIPS 202). -/
opaque shake256 : List Byte → List Byte
/-- ML-DSA-65 verification of a signed image header (FIPS 204, R480). -/
opaque imageSignatureValid : List Byte → Bool
/-- The fused digest of the vendor key (R481), and the SHAKE256 of the boot ROM (R488). -/
opaque vendorKeyDigest : List Byte
opaque bootRomDigest : List Byte
/-- The ML-DSA-65 signature of the first 344 bytes of evidence (R488). -/
opaque signEvidence : List Byte → List Byte
/-- The flow hash of a connection in its UDP source port (R327, R357), by node × 2 + class (DESIGN CHOICE, log entry 16). -/
opaque flowHash : Nat → BitVec 16

/-! ### Free values -/

/-- Source entry (bits 31:16), subindex (15:8) and bit number (7:0) in the emergency message of a code whose
source bit the manual does not name (R425; DEDUCED, log entry 14). -/
opaque emcySource : Nat → Word32

/-- A special function of an FP32 operand (R265): the manual names it and states no accuracy (DESIGN CHOICE, log entry 45). -/
opaque special : SpecialFn → Word32 → Word32
/-- Bytes of a saved slot whose layout the manual does not state (R312), at the n-th draw (DESIGN CHOICE, log
entry 137). -/
opaque slotByte : Nat → Nat → Byte
/-- The n-th value drawn where the manual states none (DESIGN CHOICE, log entry 109). -/
opaque free : Nat → Word64

end Sys2Proof.Config
end

