-- ==== Sys2Proof/Machine/NormTab.lean ====
section
/-! DEFINITION. The coefficients of the normal variates, as R286 defines them: for each segment of octaves 1 to 31
the quadratic through the three values of the inverse distribution, each coefficient rounded to FP32 (DEDUCED, log
entry 145). A row holds a, b1 and c of a segment. -/

namespace Sys2Proof.Machine

/-- Segments 8 to 69. -/
def normRows0 : List (Word32 × Word32 × Word32) :=
  [(0x3F2CAB5C, 0xBDC91FE5, 0x3B3AA1BF), (0x3F144201, 0xBDBD8281, 0x3B0EC22D), (0x3EFA40E7, 0xBDB49EA3, 0x3ADA7A4E),
   (0x3ECDF3B8, 0xBDADD052, 0x3AA50ECF), (0x3EA324B3, 0xBDA8AB8B, 0x3A717BD5), (0x3E72E51C, 0xBDA4E806, 0x3A24F44D),
   (0x3E21160D, 0xBDA255AC, 0x39C04127), (0x3DA096B0, 0xBDA0D5DB, 0x38FCAC10), (0x3F933EA6, 0xBD9B3601, 0x3B418388),
   (0x3F89EC08, 0xBD8F29BC, 0x3B1BDF41), (0x3F81475C, 0xBD8573B3, 0x3B00093C), (0x3F72604A, 0xBD7AF12D, 0x3AD5A466),
   (0x3F631C09, 0xBD6D9EAE, 0x3AB47BB6), (0x3F549C5C, 0xBD625CA5, 0x3A9A0301), (0x3F46C394, 0xBD58C0B8, 0x3A847C66),
   (0x3F3979C6, 0xBD507C32, 0x3A656423), (0x3FC45E10, 0xBD81E101, 0x3B352C25), (0x3FBC9A96, 0xBD6D3291, 0x3B12BE13),
   (0x3FB57A60, 0xBD5AE970, 0x3AF2BD5B), (0x3FAEDFC4, 0xBD4BC7B0, 0x3ACC37EC), (0x3FA8B495, 0xBD3F0B60, 0x3AAE40F2),
   (0x3FA2E7CA, 0xBD342C93, 0x3A967671), (0x3F9D6C03, 0xBD2AC91D, 0x3A833DC9), (0x3F98368A, 0xBD229843, 0x3A66F446),
   (0x3FEE6DFF, 0xBD62ECE3, 0x3B27E84E), (0x3FE7AA8D, 0xBD4E0466, 0x3B08025C), (0x3FE17E6A, 0xBD3D11B4, 0x3AE112A0),
   (0x3FDBCE22, 0xBD2F09E8, 0x3ABD7C51), (0x3FD68531, 0xBD2338CD, 0x3AA1D753), (0x3FD193E1, 0xBD192037, 0x3A8BEC11),
   (0x3FCCEDDA, 0xBD10651D, 0x3A7479A4), (0x3FC88940, 0xBD08C419, 0x3A57820B), (0x4009D915, 0xBD4B96BB, 0x3B1C37A6),
   (0x4006D1C8, 0xBD38230A, 0x3AFCD9D5), (0x400410D7, 0xBD286228, 0x3AD10DFD), (0x40018970, 0xBD1B5A0B, 0x3AAFE3C1),
   (0x3FFE6409, 0xBD10620A, 0x3A9626E5), (0x3FFA0683, 0xBD070429, 0x3A81C37D), (0x3FF5EED2, 0xBCFDD6B2, 0x3A62A828),
   (0x3FF213CD, 0xBCEFB163, 0x3A47C233), (0x401AB949, 0xBD39F959, 0x3B12400A), (0x4017F5F4, 0xBD27C382, 0x3AEC79EB),
   (0x40157475, 0xBD1907E4, 0x3AC3560D), (0x401328C0, 0xBD0CDAC2, 0x3AA435D2), (0x401109DC, 0xBD029D42, 0x3A8C132D),
   (0x400F10EA, 0xBCF3C0AD, 0x3A71F107), (0x400D3887, 0xBCE4A803, 0x3A5329F7), (0x400B7C6A, 0xBCD77A45, 0x3A39FEE0),
   (0x402A3E8C, 0xBD2C1AB0, 0x3B09C1CF), (0x4027B091, 0xBD1AF3B0, 0x3ADE88B4), (0x40256094, 0xBD0D1683, 0x3AB7A942),
   (0x4023432F, 0xBD01A3BE, 0x3A9A45E3), (0x40214FE9, 0xBCF009D7, 0x3A838052), (0x401F8045, 0xBCDFA1E5, 0x3A62FA10),
   (0x401DCF31, 0xBCD17850, 0x3A45F9B7), (0x401C38A0, 0xBCC51D52, 0x3A2E460C), (0x4038AE3E, 0xBD20D5F8, 0x3B027693),
   (0x40364B84, 0xBD10978E, 0x3AD293FF), (0x40342378, 0xBD037920, 0x3AADA991), (0x40322B49, 0xBCF14BEA, 0x3A91C59F),
   (0x40305AEA, 0xBCDF1DC1, 0x3A785904), (0x402EAC34, 0xBCCF9FE2, 0x3A5632B9)]

/-- Segments 70 to 131. -/
def normRows1 : List (Word32 × Word32 × Word32) :=
  [(0x402D1A57, 0xBCC24275, 0x3A3AB8C7), (0x402BA17E, 0xBCB69B49, 0x3A244713), (0x404639A8, 0xBD177508, 0x3AF8465C),
   (0x4043FADD, 0xBD080052, 0x3AC839CA), (0x4041F3E3, 0xBCF70E1A, 0x3AA50460), (0x40401A67, 0xBCE27BBF, 0x3A8A6E69),
   (0x403E66BD, 0xBCD13803, 0x3A6BB555), (0x403CD309, 0xBCC28404, 0x3A4B305A), (0x403B5AB4, 0xBCB5D679, 0x3A31093D),
   (0x4039FA17, 0xBCAACA12, 0x3A1BAEAE), (0x40530537, 0xBD0F8012, 0x3AED31E1), (0x4050E4DD, 0xBD00BC01, 0x3ABF2C57),
   (0x404EF9D3, 0xBCE9A64C, 0x3A9D77C4), (0x404D3A35, 0xBCD604ED, 0x3A840788), (0x404B9EAC, 0xBCC58DA1, 0x3A60B2C9),
   (0x404A219C, 0xBCB7897C, 0x3A419C02), (0x4048BEA3, 0xBCAB74FB, 0x3A289DEC), (0x40477243, 0xBCA0EF1B, 0x3A1437D5),
   (0x405F2CB7, 0xBD08A4C4, 0x3AE36717), (0x405D2691, 0xBCF4F99C, 0x3AB72F1F), (0x405B5383, 0xBCDE26CB, 0x3A96D05D),
   (0x4059AA10, 0xBCCB59D3, 0x3A7CC975), (0x40582329, 0xBCBB9681, 0x3A57042A), (0x4056B96C, 0xBCAE2CFF, 0x3A39319E),
   (0x405568A5, 0xBCA29EEF, 0x3A213A48), (0x40542D7B, 0xBC988F20, 0x3A0DAC44), (0x406AC5E8, 0xBD02A883, 0x3ADAAD5F),
   (0x4068D69C, 0xBCEA174B, 0x3AB012FF), (0x40671870, 0xBCD42750, 0x3A90E631), (0x4065823E, 0xBCC21725, 0x3A72C724),
   (0x40640D3C, 0xBCB2F3A2, 0x3A4E6D6A), (0x4062B43B, 0xBCA6134C, 0x3A31BC42), (0x40617331, 0xBC9AFC63, 0x3A1AAF3E),
   (0x406046E3, 0xBC915520, 0x3A07E1C4), (0x4075E231, 0xBCFAC0AE, 0x3AD2D83E), (0x4074070B, 0xBCE080AA, 0x3AA9B2FD),
   (0x40725B40, 0xBCCB5C12, 0x3A8B99EA), (0x4070D5FB, 0xBCB9F503, 0x3A69D237), (0x406F70AE, 0xBCAB6080, 0x3A46BF93),
   (0x406E2659, 0xBC9EFACF, 0x3A2B1292), (0x406CF315, 0xBC944E55, 0x3A14D80C), (0x406BD3C6, 0xBC8B0465, 0x3A02B76A),
   (0x408047DD, 0xBCF157EA, 0x3ACBC461), (0x407EC684, 0xBCD7F98A, 0x3AA3F1C6), (0x407D2B0F, 0xBCC38C89, 0x3A86D2BD),
   (0x407BB4D0, 0xBCB2BDFD, 0x3A61C014), (0x407A5D70, 0xBCA4AA56, 0x3A3FD596), (0x40792019, 0xBC98B311, 0x3A2513F4),
   (0x4077F904, 0xBC8E665A, 0x3A0F97C0), (0x4076E531, 0xBC857051, 0x39FC269A), (0x40856D1D, 0xBCE8E529, 0x3AC5556E),
   (0x4084908D, 0xBCD053E2, 0x3A9EB7DF), (0x4083CA24, 0xBCBC8D9B, 0x3A827CD5), (0x408315BF, 0xBCAC4971, 0x3A5A6EB6),
   (0x40827049, 0xBC9EAA9F, 0x3A3991DF), (0x4081D76B, 0xBC931767, 0x3A1FA66E), (0x40814950, 0xBC892165, 0x3A0AD750),
   (0x4080C486, 0xBC807748, 0x39F3C1A7), (0x408A65BD, 0xBCE141AE, 0x3ABF7468), (0x40899072, 0xBCC96BD2, 0x3A99F242),
   (0x4088D0A6, 0xBCB63DC6, 0x3A7D1051), (0x40882250, 0xBCA677DF, 0x3A53C2A2)]

/-- Segments 132 to 193. -/
def normRows2 : List (Word32 × Word32 × Word32) :=
  [(0x40878276, 0xBC994393, 0x3A33DC98), (0x4086EED2, 0xBC8E0B84, 0x3A1AB513), (0x4086659C, 0xBC846477, 0x3A068433),
   (0x4085E56C, 0xBC77FEE5, 0x39EC1EDD), (0x408F35E4, 0xBCDA4EB5, 0x3ABA0E78), (0x408E6736, 0xBCC324EF, 0x3A959162),
   (0x408DAD6A, 0xBCB08291, 0x3A75CF3B), (0x408D0496, 0xBCA1306E, 0x3A4DA56F), (0x408C69D3, 0xBC945DBF, 0x3A2EA253),
   (0x408BDAEA, 0xBC89792C, 0x3A162EDC), (0x408B5623, 0xBC801A65, 0x3A028F56), (0x408ADA1D, 0xBC6FE92F, 0x39E52358),
   (0x4093E120, 0xBCD3F37A, 0x3AB5140A), (0x4093187E, 0xBCBD6867, 0x3A918865), (0x4092642E, 0xBCAB46C1, 0x3A6F20CF),
   (0x4091C060, 0xBC9C5F3E, 0x3A4804A8), (0x40912A41, 0xBC8FE669, 0x3A29D313), (0x40909FA9, 0xBC854EA5, 0x3A1205C8),
   (0x40901EEB, 0xBC7864A7, 0x39FDD8B4), (0x408FA6B0, 0xBC688D42, 0x39DEB90A), (0x40986A81, 0xBCCE1BCA, 0x3AB0781D),
   (0x4097A76D, 0xBCB823A5, 0x3A8DCC97), (0x4096F826, 0xBCA67919, 0x3A68F310), (0x409658F5, 0xBC97F431, 0x3A42D0F3),
   (0x4095C717, 0xBC8BCE68, 0x3A256194), (0x40954073, 0xBC817D9A, 0x3A0E2E3E), (0x4094C367, 0xBC713D4E, 0x39F721FC),
   (0x40944EA5, 0xBC61D12D, 0x39D8CDAB), (0x409CD4B3, 0xBCC8B702, 0x3AAC2FC3), (0x409C16BF, 0xBCB34761, 0x3A8A54FA),
   (0x409B6C1D, 0xBCA20B70, 0x3A6336E9), (0x409AD12B, 0xBC93E20D, 0x3A3DFD75), (0x409A4339, 0xBC880950, 0x3A2142B8),
   (0x4099C03A, 0xBC7BF4A0, 0x3A0A9E85), (0x40994694, 0xBC6AA882, 0x39F0E95F), (0x4098D504, 0xBC5B9FC6, 0x39D351FC),
   (0x40A1220C, 0xBCC3B747, 0x3AA831B8), (0x40A068D8, 0xBCAEC6E9, 0x3A8719F2), (0x409FC282, 0xBC9DF206, 0x3A5DDF98),
   (0x409F2B7F, 0xBC901DDE, 0x3A397F4F), (0x409EA12D, 0xBC848CDB, 0x3A1D6D1D), (0x409E218C, 0xBC75762D, 0x3A074E6C),
   (0x409DAB0B, 0xBC6493E5, 0x39EB206A), (0x409D3C6E, 0xBC55E797, 0x39CE3923), (0x40A5549C, 0xBCBF10F4, 0x3AA47613),
   (0x40A49FD2, 0xBCAA9795, 0x3A841502), (0x40A3FD7C, 0xBC9A2301, 0x3A58E240), (0x40A36A20, 0xBC8C9E7A, 0x3A354D44),
   (0x40A2E32C, 0xBC815071, 0x3A19D8CB), (0x40A266AA, 0xBC6F6FAB, 0x3A043700), (0x40A1F314, 0xBC5EF028, 0x39E5BADA),
   (0x40A18733, 0xBC509A12, 0x39C9783A), (0x40A96E37, 0xBCBABA30, 0x3AA0F60A), (0x40A8BD8C, 0xBCA6B063, 0x3A814097),
   (0x40A81EF0, 0xBC969613, 0x3A543592), (0x40A78EFC, 0xBC895C24, 0x3A315F68), (0x40A70B2B, 0xBC7C99AA, 0x3A167EEE),
   (0x40A69192, 0xBC69D37A, 0x3A01524C), (0x40A620B3, 0xBC59B066, 0x39E0AE35), (0x40A5B75D, 0xBC4BAAFC, 0x39C505F2),
   (0x40AD7081, 0xBCB6AA92, 0x3A9DABC0), (0x40ACC3B1, 0xBCA309A5, 0x3A7D2FCB)]

/-- Segments 194 to 255. -/
def normRows3 : List (Word32 × Word32 × Word32) :=
  [(0x40AC2891, 0xBC934427, 0x3A4FD184), (0x40AB9BCB, 0xBC865048, 0x3A2DAEE8), (0x40AB1AE8, 0xBC76F7C0, 0x3A1359A5),
   (0x40AAA407, 0xBC649608, 0x39FD3661), (0x40AA35B1, 0xBC54C9B2, 0x39DBF177), (0x40A9CEBC, 0xBC470FF8, 0x39C0DA4C),
   (0x40B15CEE, 0xBCB2DAE2, 0x3A9A921A), (0x40B0B3BC, 0xBC9F9CC7, 0x3A782D7F), (0x40B01BE1, 0xBC90272B, 0x3A4BAF1F),
   (0x40AF9217, 0xBC837547, 0x3A2A35DB), (0x40AF13F4, 0xBC71B09E, 0x3A1063DA), (0x40AE9F9F, 0xBC5FAD71, 0x39F81A7F),
   (0x40AE33A8, 0xBC5032B6, 0x39D77CD3), (0x40ADCEED, 0xBC42C02C, 0x39BCEE5B), (0x40B534D2, 0xBCAF44E2, 0x3A97A4A4),
   (0x40B48F07, 0xBC9C6418, 0x3A737303), (0x40B3FA3F, 0xBC8D39E6, 0x3A47C850), (0x40B37343, 0xBC80C644, 0x3A26EF18),
   (0x40B2F7B4, 0xBC6CBB35, 0x3A0D991D), (0x40B285C3, 0xBC5B1133, 0x39F3493B), (0x40B21C08, 0xBC4BE36C, 0x39D34981),
   (0x40B1B963, 0xBC3EB3FE, 0x39B93C1D), (0x40B8F95C, 0xBCABE326, 0x3A94DF78), (0x40B856C7, 0xBC995AA9, 0x3A6EF9F6),
   (0x40B7C4E4, 0xBC8A77CE, 0x3A4417C4), (0x40B7408D, 0xBC7C7E17, 0x3A23D61C), (0x40B6C76C, 0xBC680FAA, 0x3A0AF58C),
   (0x40B657BC, 0xBC56B9F1, 0x39EEBBD3), (0x40B5F01A, 0xBC47D4E1, 0x39CF5193), (0x40B58F6D, 0xBC3AE4DA, 0x39B5BE50),
   (0x40BCABA2, 0xBCA8B0F1, 0x3A923F23), (0x40BC0C15, 0xBC967C2A, 0x3A6ABCB6), (0x40BB7CEF, 0xBC87DCEB, 0x3A4098CB),
   (0x40BAFB16, 0xBC77B7E5, 0x3A20E6EF), (0x40BA8442, 0xBC63A727, 0x3A0875BF), (0x40BA16B2, 0xBC52A140, 0x39EA6C59),
   (0x40B9B10B, 0xBC440109, 0x39CB8FD2), (0x40B95239, 0xBC374D08, 0x39B27055), (0x40C04CA0, 0xBCA5AA19, 0x3A8FC097),
   (0x40BFAFF2, 0xBC93C4D3, 0x3A66B64B), (0x40BF2363, 0xBC8565C6, 0x3A3D4741), (0x40BEA3E7, 0xBC733383, 0x3A1E1E0E),
   (0x40BE2F3E, 0xBC5F7BAE, 0x3A0616B2), (0x40BDC3B1, 0xBC4EC182, 0x39E65590), (0x40BD5FEA, 0xBC40629D, 0x39C7FFA5),
   (0x40BD02D8, 0xBC33E789, 0x39AF4E1B), (0x40C3DD3C, 0xBCA2CAF3, 0x3A8D6121), (0x40C34347, 0xBC91314F, 0x3A62E249),
   (0x40C2B92D, 0xBC830F50, 0x3A3A1F77), (0x40C23BEF, 0xBC6EEB4A, 0x3A1B785C), (0x40C1C955, 0xBC5B87FA, 0x3A03D5B8),
   (0x40C15FB0, 0xBC4B15CA, 0x39E272D4), (0x40C0FDAF, 0xBC3CF4F5, 0x39C49CFA), (0x40C0A247, 0xBC30AFF8, 0x39AC5406),
   (0x40C75E4B, 0xBCA0103E, 0x3A8B1E53), (0x40C6C6EC, 0xBC8EBEAB, 0x3A5F3CBF), (0x40C63F27, 0xBC80D6D3, 0x3A371E27),
   (0x40C5C40A, 0xBC6ADA39, 0x3A18F312), (0x40C55364, 0xBC57C764, 0x3A01B070), (0x40C4EB8E, 0xBC4799BA, 0x39DEC001),
   (0x40C48B3C, 0xBC39B3F9, 0x39C16431), (0x40C43168, 0xBC2DA274, 0x39A97EE2)]

/-- Segments 8 to 255. -/
def normTable : List (Word32 × Word32 × Word32) := normRows0 ++ normRows1 ++ normRows2 ++ normRows3

end Sys2Proof.Machine
end

