-- ==== Sys2Proof/Machine/Rng.lean ====
section
/-! DEFINITION. The random generators, their seeds and the normal variate (08_random_numbers.md). -/

namespace Sys2Proof.Machine

/-- The k-th number that an ascending list does not hold. -/
def unusedAt (used : List Nat) (k : Nat) : Nat := used.foldl (fun v u => if u ≤ v then v + 1 else v) k

/-- Insert before the first larger number. -/
def insertNat (n : Nat) : List Nat → List Nat
  | [] => [n]
  | m :: ms => if n < m then n :: m :: ms else m :: insertNat n ms

/-- Bits 62 to 0 of the masks of the n first polynomials, ascending: each is a free value among those that no
polynomial before it has (R274). -/
def polyUsed : Nat → List Nat
  | 0 => []
  | n + 1 => insertNat (unusedAt (polyUsed n) ((Config.polyRom n).toNat % (2 ^ 63 - n))) (polyUsed n)

/-- Mask P of polynomial i (R274): bit 63 is set, and no two are equal (DESIGN CHOICE, log entry 8). -/
def polyMask (i : Nat) : Word64 :=
  BitVec.ofNat 64 (2 ^ 63 + unusedAt (polyUsed i) ((Config.polyRom i).toNat % (2 ^ 63 - i)))

/-- One step of a generator (R273): the bit yielded and the next state. -/
def rngStep (p s : Word64) : Bool × Word64 :=
  let out := s.getLsbD 0
  let s' := s >>> 1
  (out, if out then s' ^^^ p else s')

/-- A draw of n bits, first bit yielded as bit 0 (R273). -/
def rngDraw (p : Word64) : Nat → Word64 → Nat × Word64
  | 0, s => (0, s)
  | n + 1, s =>
    let (b, s') := rngStep p s
    let (v, s'') := rngDraw p n s'
    (2 * v + b.toNat, s'')

def mix64 (x : Word64) : Word64 :=
  let x := (x ^^^ (x >>> 30)) * 0xBF58476D1CE4E5B9
  let x := (x ^^^ (x >>> 27)) * 0x94D049BB133111EB
  x ^^^ (x >>> 31)

/-- A state is never 0 (R275). -/
def nz (x : Word64) : Word64 := if x = 0 then 1 else x

def kseed (key : Word64) (r c : Word32) (h w : Nat) (dom j : Nat) : Word64 :=
  let x := mix64 key
  let x := mix64 (x ^^^ r.setWidth 64)
  let x := mix64 (x ^^^ c.setWidth 64)
  let x := mix64 (x ^^^ ((BitVec.ofNat 64 h <<< 32) ||| BitVec.ofNat 64 w))
  let x := mix64 (x ^^^ ((BitVec.ofNat 64 dom <<< 8) ||| BitVec.ofNat 64 j))
  nz x

/-- Seed of lane L of cluster c from a context's SEED (R276). -/
def laneSeed (seed : Word64) (cl lane : Nat) : Word64 :=
  nz (mix64 (mix64 seed ^^^ ((BitVec.ofNat 64 cl <<< 8) ||| BitVec.ofNat 64 lane)))

/-- Lane of TG scheduler s, thread lane t (R272). -/
def tgLane (s t : Nat) : Nat := 32 + 32 * s + t

/-- Coefficients of segment i; octave 0 holds zeros (R286). -/
def normCoef (i : Nat) : Word32 × Word32 × Word32 :=
  if i < 8 then (0, 0, 0) else normTable.getD (i - 8) (0, 0, 0)

/-- The variate of 32 bits b, and the segment it uses (R285). -/
def normVariate (b : Nat) : Word32 :=
  let w := b / 2 % 2 ^ 31 + 1
  let h := Nat.log2 w
  let e := 31 - h
  let s := if 3 ≤ h then w / 2 ^ (h - 3) % 8 else w * 2 ^ (3 - h) % 8
  let k := h - 3
  let t := rne32 (.fin false (w % 2 ^ k) (-(k : Int)))
  let (a, b1, c) := normCoef (8 * e + s)
  let z := (fmaRne (fmaRne c t b1).1 t a).1
  if b % 2 = 1 then z ^^^ 0x80000000 else z

end Sys2Proof.Machine
end

