-- ==== Sys2Proof/Machine/State.lean ====
section
/-! DEFINITION. The state of the block: every register, table, buffer, counter, mode and pin the
manual gives the device, as plain data, and the queue of commands. -/

namespace Sys2Proof.Machine

/-- A sparse table by number: strictly rising keys, and no entry equal to the table's default. -/
abbrev Tbl (α : Type) := List (Nat × α)

/-- Bytes by address; an unlisted address reads 0. -/
abbrev Mem := List Host.Cell

/-! ### Memory requests inside the device -/

/-- The master port that issued a request; its network class follows from it (R198). -/
inductive Master
  | engine (cl : Cl)
  | tg (cl : Cl)
  | seqr
  | copy (e : Fin 8)
  | peer (node : BitVec 16)
  | egress
  | pcie
  | scrub
deriving DecidableEq, Repr

inductive ReqKind
  | read
  | write
  | atomic (op : AtomOp) (ty : AtomTy)
deriving DecidableEq, Repr

/-- What the request's end is for. A thread's requests keep the byte offset of their instruction. -/
inductive Purpose
  | descr (cl : Cl)
  | fill (cl : Cl) (seg : Seg) (off : Nat)
  | epilogue (cl : Cl) (pos : Nat)
  | load (cl : Cl) (sched : Sched) (slot lane d : Nat) (keep : Bool) (pc off bytes : Nat)
  | store (cl : Cl) (sched : Sched) (slot lane pc : Nat)
  | atomicOf (cl : Cl) (sched : Sched) (slot d : Nat) (lanes : List Nat) (pc : Nat)
  | pi (ctx : Ctx) (ring : Ring)
  | ci (ctx : Ctx) (ring : Ring)
  | entry (ctx : Ctx) (ring : Ring)
  | head (ctx : Ctx)
  | job (job : Nat)
  /-- A completion record, and whether it raises the vector at once; a ring's consumer index. -/
  | record (ctx : Ctx) (irq : Bool)
  | ciWrite (ctx : Ctx) (ring : Ring)
  /-- A piece of a BAR2 access; the scrubber's read of a slice's next row; a piece of the packet that a
  connection executes, of a plan, of a chunk of a collective's local buffer, of a chunk's result, of a slot being
  saved, of a slot being restored. -/
  | bar2 (acc off : Nat)
  | scrubRow (cad : Cad) (slice : Fin 256)
  | packet (node cls run off : Nat)
  | plan (job off : Nat)
  | chunk (job phase num off : Nat)
  | result (job phase num : Nat)
  | save (ctx : Ctx)
  | restore (ctx : Ctx) (cl off : Nat)
deriving DecidableEq, Repr

/-- How a request stands: waiting on its way, served at the home slice (or answered by the host or
a peer), with the bytes it brings; or refused as an unmapped address is (R39). -/
inductive ReqStage
  | waiting
  | missing
  | done (data : List Byte) (poisoned : Bool)
  | refused
deriving DecidableEq, Repr

/-- One request on the on-die network (R198). It lies within one 128-byte line. -/
structure Req where
  id       : Nat
  master   : Master
  kind     : ReqKind
  addr     : Word64
  len      : Nat
  data     : List Byte
  /-- Operands of a combined atomic, in ascending lane order (R260). -/
  operands : List (Word64 × Word64)
  poisoned : Bool
  alloc    : Bool
  marked   : Bool
  deadline : Option (BitVec 24)
  route    : List ArbPoint
  /-- Sectors of a read taken at the slice or brought by HBM so far (R159); for a packet to or from another
  node, its payload's poisoned sectors by position (R352). -/
  got      : List (Nat × BitVec 256 × Bool)
  stage    : ReqStage
  purpose  : Purpose
  srcCtx   : Option Ctx
deriving DecidableEq, Repr

/-- One request in a pseudo-channel controller's queues (R192). -/
structure HbmReq where
  id       : Nat
  sector   : Nat
  write    : Bool
  data     : BitVec 256
  mask     : BitVec 32
  poisoned : Bool
  nc       : Fin 7
  deadline : Option (BitVec 24)
  granted  : Bool
  /-- A prefetch allocates like a demand read and answers nobody; a marked read's sectors are not
  allocated. -/
  prefetch : Bool
  noAlloc  : Bool
  /-- A read of the scrubber, which brings nothing into a caddy (R225). -/
  scrub    : Bool
deriving DecidableEq, Repr

/-! ### Caddies -/

/-- One way of a set (R149); the data of the 128-byte line, little-endian. -/
structure Line where
  tag      : BitVec 32
  valid    : BitVec 4
  dirty    : BitVec 4
  poison   : BitVec 4
  pinned   : Bool
  age      : Nat
  data     : BitVec 1024
deriving DecidableEq, Repr

def Line.empty : Line := ⟨0, 0, 0, 0, false, 0, 0⟩

/-- Counts and the victim table of one slice (R186). -/
structure SliceMon where
  victims  : List Nat
  evicted  : Nat
  refetch  : Nat
deriving DecidableEq, Repr

def SliceMon.init : SliceMon := ⟨[], 0, 0⟩

/-- One stream detector (R193): the class it follows, the last line, misses seen, prefetched to. -/
structure Detector where
  nc      : Fin 7
  line    : Nat
  hits    : Nat
  upto    : Nat
  lastHit : Nat
deriving DecidableEq, Repr

/-- The ports of a slice (R161, R162): the core clock of the last read, the clock up to which the write
port is taken, and the line and the clock of the last write. -/
structure SlicePort where
  readAt : Option Nat
  busyTo : Nat
  line   : Nat
  lineAt : Option Nat
deriving DecidableEq, Repr

def SlicePort.init : SlicePort := ⟨none, 0, 0, none⟩

inductive PinPhase | first | second
deriving DecidableEq, Repr

/-- The pin engine's request in progress (R180 to R185), in granules of 4 KiB. -/
inductive PinWork
  | pin (base len : Nat) (owner : Nat) (pref : Bool) (phase : PinPhase) (slot : Nat) (job : Option Nat)
  | unpin (base len : Nat) (job : Option Nat)
  | killWalk (base len : Nat)
deriving DecidableEq, Repr

structure Caddy where
  lines    : Tbl Line
  guard0   : List Nat
  guard1   : List Nat
  mon      : Tbl SliceMon
  detect   : Tbl Detector
  /-- Sectors a slice has noted to prefetch (R164): caddy × 256 + slice, the sector, and the class and the
  deadline of the request. -/
  notes    : List (Nat × Nat × Fin 7 × Option (BitVec 24))
  /-- Regions whose invalidation walk runs (R154). -/
  walks    : List Nat
  pin      : Option PinWork
  killQ    : List (Nat × Nat)
  /-- The PREF fetches in progress (R182): first granule, granules, owner, whether it is the last pin's. -/
  pref     : List (Nat × Nat × Nat × Bool)
  /-- Soft repairs in place, in the order made: caddy, slice, set, way (R220). -/
  repairs  : List (Nat × Nat × Nat × Nat)
  /-- Repairs applied and not yet written to the configuration area (R221). -/
  unstored : List (Nat × Nat × Nat × Nat)
  /-- Words corrected on read and not yet written back (R207). -/
  fixups   : Nat
  /-- A flush is over once no queued write has a number below this one (R169). -/
  flush    : Nat
  /-- Ports of the slices, by caddy × 256 + slice. -/
  ports    : Tbl SlicePort
deriving DecidableEq, Repr

/-! ### HBM -/

structure Hbm where
  /-- The bytes of the 384 GiB, as the sectors' codes hold them. -/
  mem      : Mem
  /-- Sectors stored as poison (R195), rising. -/
  poison   : List Nat
  queue    : List HbmReq
  /-- Per-bank refresh: core time of the last refresh of a bank, by bank key (R196). -/
  refresh  : Tbl Nat
  /-- Scrub positions: next sector of a pseudo-channel, next line of a slice (R223). -/
  scrubH   : Tbl Nat
  scrubC   : Tbl Nat
  lapH     : Nat
  lapC     : Nat
  /-- When the scrubber last read of a pseudo-channel (its number, in units of time) or of a slice (from 512 on in core
  clocks in idle-cycle mode, from 1024 on in units of time in native mode; R223, R224). -/
  scrubAt  : Tbl Nat
  /-- Bands that a stack has left, and when (R197). -/
  bands    : Tbl (List (Nat × Nat))
  /-- Stacks that did not train (R190), and whether the stacks are in self-refresh. -/
  absent   : BitVec 8
  selfRef  : Bool
  /-- Stacks held to half bandwidth (R457). -/
  slow     : BitVec 8
deriving DecidableEq, Repr

/-- Credits and the last 64 grants of one arbitration point (R199); true: a deadline grant; and whether a
shared channel is next the upper leaf's, where both request (R28). -/
structure ArbState where
  credit : List Int
  last   : List Bool
  upper  : Bool
deriving DecidableEq, Repr

def ArbState.init : ArbState := ⟨[0, 0, 0, 0, 0, 0, 0], [], false⟩

/-! ### Matrix engine -/

/-- A descriptor the engine has read, and how far it is (R118, R137, R142). -/
structure DescRun where
  pos     : Nat
  words   : List Word64
  taken   : Bool
  /-- Core clock since which the take waits. -/
  takeAt  : Option Nat
  issued  : Bool
  /-- Walk index of the stationary tile (WS, IS) or output tile (OS) in progress, and the vectors (OS: the
  K-steps) issued in it. -/
  tile    : Nat
  vec     : Nat
  loaded  : Bool
  issueEnd : Bool
  /-- Segments wholly staged, and those requested with the bytes received so far. -/
  staged  : List Seg
  asked   : List (Seg × List (Nat × Byte × Bool))
  /-- Block scales by address in the scale store, and epilogue vectors (R90), with their poison. -/
  scales  : Tbl (Byte × Bool)
  vectors : Tbl (Word32 × Bool)
  /-- Epilogue writes to memory issued and not accepted; groups still to be drained. -/
  writes  : Nat
  groupsLeft : Nat
  /-- The descriptor has joined its multicast set (R105). -/
  joined  : Bool
  posted  : Bool
  signalled : Bool
deriving DecidableEq, Repr

/-- A FP32 accumulator and its poison bit (R212). -/
structure Acc where
  val    : Word32
  poison : Bool
deriving DecidableEq, Repr

def Acc.zero : Acc := ⟨0, false⟩

/-- An accumulation group in a half or set (R94, R96): its descriptor, first row and column, rows
and columns; full once its last update has come; and the epilogue's progress through it. -/
structure GroupRun where
  pos    : Nat
  m0     : Nat
  n0     : Nat
  h      : Nat
  w      : Nat
  full   : Bool
  drain  : Bool
  read   : Nat
deriving DecidableEq, Repr

structure Engine where
  job     : Option Nat
  /-- Address of the next descriptor to read, its position, whether its read is outstanding. -/
  next    : Nat
  nextPos : Nat
  reading : Bool
  /-- The list's last descriptor has been read; or the engine runs nothing further of it. -/
  ended   : Bool
  stopped : Bool
  descs   : List DescRun
  /-- The stationary tile, by column: element patterns along K with poison, and block scales. -/
  stat    : List (List (Nat × Bool))
  statScale : List (List (Byte × Bool))
  /-- The half of the accumulator store that the next group takes, and the set of the units' accumulators
  that the next tile of OS takes (R94, R96). -/
  half    : Bool
  set     : Bool
  /-- Accumulators and groups by place: halves 0 and 1 of the store, sets 2 and 3 of the units; and the
  places waiting to drain, in the order they became full (R95). -/
  accs    : Tbl (Tbl Acc)
  groups  : Tbl GroupRun
  drainQ  : List Nat
  /-- Keyed lane states of the group the epilogue reads (R280), and a held write (R102). -/
  keyed   : List Word64
  holding : Bool
  /-- Clocks of a load, of issue, and of transfers that lose bank arbitration, still to run (R91, R114). -/
  loadClk : Nat
  busyClk : Nat
  bankClk : Nat
deriving DecidableEq, Repr

def Engine.idle : Engine :=
  ⟨none, 0, 0, false, true, false, [], [], [], false, false, [], [], [], [], false, 0, 0, 0⟩

/-- A multicast set (R104 to R107): its job, leaf, tag and mask, what its members named, who has
arrived, when the first one did. -/
structure Mcast where
  job     : Nat
  leaf    : Nat
  tag     : Nat
  mask    : BitVec 16
  name    : List Nat
  arrived : BitVec 16
  since   : Nat
deriving DecidableEq, Repr

/-! ### Thread-group processor -/

inductive FenceKind | block | device | fabric
deriving DecidableEq, Repr

/-- Why a thread is not issued (R238). At a barrier it keeps the instruction's size, which its PC
passes at the release; at a fence, the core clock in which its issue set came, which names the set (R253). -/
inductive RunSt
  | running
  | exited
  | atColl
  | atBar (size : Nat)
  | atFence (k : FenceKind) (set : Nat)
  | atTake
deriving DecidableEq, Repr

structure Thread where
  pc     : Nat
  passed : Nat
  run    : RunSt
  regs   : Tbl Word32
  /-- Poisoned 64-bit words of the register file: word w holds registers 2w and 2w + 1 (R210). -/
  poison : List Nat
  /-- Registers not yet readable: until a memory result returns, or until a core clock; `pcReg` stands for
  the thread's next instruction (R265). -/
  sb     : List (Nat × Option Nat)
deriving DecidableEq, Repr

structure Group where
  blk     : Nat
  idx     : Nat
  threads : List Thread
deriving DecidableEq, Repr

/-- A block in a block slot (R229, R232): its number, group slots, the 1 KiB granules of local
memory mapped to it, and the clocks its barrier has waited since the first arrival (R255). -/
structure Block where
  num      : Nat
  groups   : List Nat
  granules : List Nat
  barWait  : Option Nat
deriving DecidableEq, Repr

/-- An unfinished group collective (R240 to R242). -/
structure Coll where
  group   : Nat
  pc      : Nat
  mask    : Word32
  arrived : Word32
  waited  : Nat
deriving DecidableEq, Repr

structure Issue where
  group : Nat
  lanes : List Nat
  pc    : Nat
deriving DecidableEq, Repr

structure TakeRec where
  sched : Sched
  group : Nat
  lanes : List Nat
  ctr   : Nat
  n     : Nat
  since : Nat
deriving DecidableEq, Repr

structure PostRec where
  sched : Sched
  ctr   : Nat
  n     : Nat
  waits : List Nat
deriving DecidableEq, Repr

/-- A line of the L1 data cache: global line number, valid sectors, data (R227, R249). -/
structure L1Line where
  line  : Nat
  valid : BitVec 4
  data  : BitVec 1024
deriving DecidableEq, Repr

structure Tg where
  job     : Option Nat
  nextBlk : Nat
  blocks  : Tbl Block
  groups  : Tbl Group
  /-- Per scheduler: the slot last issued for, the issue set in hand, the clock it is free at. -/
  last    : Tbl Nat
  issue   : Tbl Issue
  freeAt  : Tbl Nat
  gmuAt   : Nat
  /-- The scheduler that had the group matrix unit last, and those that wait for it (R246). -/
  gmuLast : Nat
  gmuWait : List Nat
  l1      : List L1Line
  /-- Lines of the instruction cache, most recent first (R227). -/
  icache  : List Nat
  /-- Register caches, most recent first: scheduler, group, register (R235). -/
  rcache  : List (Nat × Nat × Nat)
  /-- Per scheduler: the registers of the instructions at its groups' next offsets, as last told. -/
  uses    : Tbl (List (Nat × List Nat))
  colls   : List Coll
  takes   : List TakeRec
  posts   : List PostRec
  lmem    : Mem
  lmPois  : List Nat
deriving DecidableEq, Repr

/-- (DESIGN CHOICE, log entry 7.) -/
def Tg.idle : Tg := ⟨none, 0, [], [], [], [], [], 0, 3, [], [], [], [], [], [], [], [], [], []⟩

/-! ### Cluster -/

structure Cluster where
  job    : Option Nat
  cup    : Mem
  cupPois : List Nat
  tok    : Tbl Nat
  me     : Engine
  tg     : Tg
deriving DecidableEq, Repr

/-- (DESIGN CHOICE, log entry 7.) -/
def Cluster.idle : Cluster := ⟨none, [], [], [], Engine.idle, Tg.idle⟩

/-! ### Sequencer and fabric time -/

/-- A fetched job that has not been reported (R295 to R308). -/
structure Job where
  id      : Nat
  ctx     : Ctx
  ring    : Ring
  /-- Number of its ring entry. -/
  entry   : Word32
  words   : List Word64
  /-- FT nanoseconds of the start (R308). -/
  started : Option Nat
  exc     : BitVec 4
  poison  : Bool
  startLate : Bool
  ftUnlock : Bool
  /-- First fault: cause, position, cluster; and when (R511). -/
  fault   : Option (Byte × Nat × Nat)
  faultAt : Nat
  engine  : Option (Fin 8)
  /-- A COPY has moved its data, and waits for remote writes alone. -/
  moved   : Bool
  /-- INFO of the record (R308). -/
  info    : Word32
deriving DecidableEq, Repr

structure RingRun where
  ci      : Word32
  pi      : Word32
  piBusy  : Bool
  ciBusy  : Bool
  entBusy : Bool
  /-- Entries fetched, as their order; and whether a kill has come while the entry at hand is on its way. -/
  no      : Word32
  killed  : Bool
  /-- The producer-index read that is out was asked for before EN last rose. -/
  piOld   : Bool
deriving DecidableEq, Repr

def RingRun.init : RingRun := ⟨0, 0, false, false, false, 0, false, false⟩

/-- STATUS of a record. -/
inductive JobEnd | done | fault | refused | dropped
deriving DecidableEq, Repr

/-- A job that has ended and whose record waits until its last write is accepted (R167): how it ended, with
cause, descriptor position and cluster. -/
structure Owed where
  job   : Job
  why   : JobEnd
  cause : Nat
  pos   : Nat
  cl    : Nat
deriving DecidableEq, Repr

/-- A completion record due: its words without PHASE, and whether it raises the vector at once. -/
structure Rec where
  w0  : Word64
  w1  : Word64
  w2  : Word64
  w3  : Word64
  irq : Bool
deriving DecidableEq, Repr

structure CtxRun where
  /-- Records written since EN rose, the host's consumed count as last read, held records. -/
  written : Nat
  head    : Word32
  headBusy : Bool
  held    : List Rec
  /-- Records pending for the next interrupt, and when the oldest was written (R310). -/
  pending : Nat
  oldest  : Option Nat
  /-- SEED the lane-mode states were last seeded from (R276). -/
  seed    : Word64
  /-- Save and restore (R312, R313): start of the save, saved slots, slots still to be restored. -/
  saveAt  : Nat
  saved   : List (Nat × Cluster)
  toRestore : List Nat
  /-- The slots have been written since the SAVE. -/
  stored  : Bool
  /-- When RNGSEED was last accepted (R277). -/
  seedAt  : Option Nat
deriving DecidableEq, Repr

def CtxRun.init : CtxRun := ⟨0, 0, false, [], 0, none, 0, 0, [], [], false, none⟩

/-- A fault of a thread-group processor in this clock (R266, R268): where, its cause, the instruction's offset,
the address, and the job. -/
structure TgNote where
  cl    : Nat
  sched : Nat
  slot  : Nat
  lane  : Nat
  cause : Nat
  pc    : Nat
  addr  : Word64
  job   : Nat
deriving DecidableEq, Repr

structure Seq where
  rings   : Tbl RingRun
  ctxs    : Tbl CtxRun
  jobs    : List Job
  owed    : List Owed
  /-- Thread-group faults of this clock. -/
  faults  : List TgNote
  nextJob : Nat
  /-- Fence-tag balances by context × 256 + tag (R304). -/
  tags    : Tbl Int
  /-- Jobs that have reserved their clusters (R299). -/
  reserved : List Nat
  /-- When the last poll tick fell (R292). -/
  tickAt  : Nat
  /-- One more than the number of the last FT boundary at which power was projected (R321). -/
  projAt  : Nat
  /-- Lane-mode states that have moved since seeding: (context × 64 + cluster) × 160 + lane. -/
  lanes   : Tbl Word64
deriving DecidableEq, Repr

/-- Time (R43, R315). The unit is 1/9009 ps, in which every core period is whole. -/
structure Time where
  now   : Nat
  core  : Nat
  spout : Nat
  /-- FT in the same unit since the fabric epoch, and the correction still to be slewed (R318). -/
  ft    : Nat
  slew  : Int
  /-- FT before the last clock. -/
  ftPrev : Nat
  /-- Pending FTTOD write: seconds, when written (R317). -/
  tod   : Option (Nat × Nat)
  /-- Last edge or usable Sync, successive good and bad offsets (R317, R347). -/
  lastRef : Nat
  good  : Nat
  bad   : Nat
deriving DecidableEq, Repr

/-! ### Fabric -/

/-- A frame that leaves a port, with its MACs (R328, R333): a link frame, a packet, a PTP message to
0x0180_C200_000E, a CREDIT packet, the answer to a neighbour solicitation. -/
inductive OutFrame
  | link (dmac smac : BitVec 48) (words : List Word32)
  | morotik (f : MFrame)
  | ptp (smac : BitVec 48) (kind : PtpKind) (words : List Word64)
  | credit (f : MFrame)
  | advert (dmac smac : BitVec 48) (node : BitVec 16)
deriving DecidableEq, Repr

/-- A frame queued at an egress sub-port: its VL (none: link, PTP and CREDIT frames), its bytes on
the wire, and the ingress sub-port and VL whose buffer holds it. -/
structure EgItem where
  frame : OutFrame
  vl    : Option (Fin 4)
  bytes : Nat
  src   : Option (Port × Fin 4)
  stomp : Bool
deriving DecidableEq, Repr

inductive PtpRole | listening | master | slave | passive
deriving DecidableEq, Repr

structure PortRun where
  aligned : Bool
  alignAt : Nat
  /-- The port has left UP since the last start, so it needs 10 ms of alignment (R345). -/
  settle  : Bool
  nmac    : BitVec 48
  helloAt : Nat
  /-- When the port last sent a hello (R334). -/
  hiAt    : Nat
  queue   : List EgItem
  deficit : List Nat
  turn    : Nat
  /-- Credits per VL (R362): sent, last count received, freed, freed as last reported; ingress
  occupancy in credits. -/
  sent    : List Word32
  counted : List Word32
  freed   : List Word32
  told    : List Word32
  buffer  : List Nat
  role    : PtpRole
  best    : Option Announce
  annAt   : Nat
  /-- Mean link delay, in 2^−16 ns. -/
  delay   : Int
  /-- When the port last sent Sync, Pdelay_Req and Announce. -/
  syncAt  : Nat
  pdelAt  : Nat
  annSent : Nat
  /-- First credit pending since, and the last CREDIT sent (R362). -/
  freedAt : Option Nat
  toldAt  : Nat
deriving DecidableEq, Repr

def PortRun.init : PortRun :=
  ⟨false, 0, false, 0x0180C200000E, 0, 0, [], [0, 0, 0, 0], 0, [0, 0, 0, 0], [0, 0, 0, 0],
   [0, 0, 0, 0], [0, 0, 0, 0], [0, 0, 0, 0], .listening, none, 0, 0, 0, 0, 0, none, 0⟩

/-- A packet sent and not acknowledged: its PSN and copy, whether the last bitmap marked it, whether the
hole it lies in has had its retransmission at once (R359). -/
structure Unacked where
  psn    : BitVec 24
  frame  : MFrame
  marked : Bool
  again  : Bool
deriving DecidableEq, Repr

/-- State of one connection, both directions (R355 to R364): the next PSN to send, copies, packets that
wait; the timer's start, its interval in µs and its expiries; the PSN that carries RSY; the pacing rate
in Mb/s, the last cut and the last increase; the PSN expected, packets held, packets that await an
acknowledgement and the time the oldest of them completed, ECE. -/
structure Conn where
  txPsn   : BitVec 24
  unacked : List Unacked
  waiting : List MFrame
  timer   : Option Nat
  interval : Nat
  expiries : Nat
  rsy     : Option (BitVec 24)
  rate    : Nat
  cutAt   : Option Nat
  rateAt  : Nat
  /-- ECE has come since the last increase interval began. -/
  slowed  : Bool
  rxPsn   : BitVec 24
  held    : List MFrame
  ackDue  : Nat
  ackAt   : Nat
  ece     : Bool
  /-- The packet that executes, while its requests are out, under the number they carry. -/
  exec    : Option (Nat × MFrame)
deriving DecidableEq, Repr

def Conn.init : Conn := ⟨0, [], [], none, 0, 0, none, 0, none, 0, false, 0, [], 0, 0, false, none⟩

/-- One chunk that has landed for a phase, or waits to be sent on: its input (a sub-port, or 16 for the
module itself and for the only source of a phase), its bytes and the poison of its sectors. -/
structure Chunk where
  phase : Nat
  num   : Nat
  src   : Nat
  data  : List Byte
  pois  : List Bool
deriving DecidableEq, Repr

/-- A collective job in one of the four slots (R365 to R370). Packets are named by phase, node and
chunk; receivers by phase and node. -/
structure Collective where
  job     : Nat
  collid  : Word32
  land    : Nat
  sw      : Nat
  phases  : List (List Word64)
  nbt     : Nat
  phase   : Nat
  /-- Phases whose data goes at the agreed time, phases in handshake, late phases, CTS received. -/
  timed   : List Nat
  shake   : List Nat
  late    : List Nat
  cts     : List (Nat × Nat)
  /-- Chunks landed, chunks of the local buffer brought from the host, results to be sent on. -/
  inputs  : List Chunk
  bufs    : List Chunk
  outs    : List Chunk
  sent    : List (Nat × Nat × Nat)
  acked   : List (Nat × Nat × Nat)
  written : List (Nat × Nat)
deriving DecidableEq, Repr

/-- One message queue (R372 to R377): words with their parity bit. `wp` and `rp` are the pointers that
cross, each moving by one towards the position its own side has reached (`wEnd`, `rEnd`); the two stages
of each synchroniser, oldest last. -/
structure MqRun where
  mem     : Tbl (BitVec 65)
  wp      : BitVec 11
  wEnd    : BitVec 11
  rp      : BitVec 11
  rEnd    : BitVec 11
  wSync   : List (BitVec 11)
  rSync   : List (BitVec 11)
  /-- Open message: cluster, group slot, and the next word it writes; its length slot is `wEnd`. -/
  openBy  : Option (Nat × Nat × BitVec 11)
  /-- The spout clock in which a flush began (R377). -/
  hold    : Option Nat
  /-- Words left of the message MQ.GET reads. -/
  left    : Nat
deriving DecidableEq, Repr

def MqRun.init : MqRun := ⟨[], 0, 0, 0, 0, [0, 0], [0, 0], none, none, 0⟩

structure Fabric where
  ports   : Tbl PortRun
  /-- Routing table (R339). -/
  rt      : Tbl Word32
  /-- Entries written, as they were before, and the spout clock of the write: lookups of that clock use
  them (R339). -/
  rtOld   : Tbl (Word32 × Nat)
  /-- SEQ of the last topology record originated (R335). -/
  lastSeq : Option Word32
  /-- Kept SEQ and time of acceptance by origin [12:0] (R335). -/
  kept    : Tbl (Word32 × Nat)
  inbox   : List (MFrame × Bool)
  conns   : Tbl Conn
  boots   : Tbl (BitVec 16)
  colls   : Tbl Collective
  /-- RTS held unanswered: COLLID, phase, node (R369). -/
  rtsHeld : List (Word32 × Nat × BitVec 16)
  mq      : Tbl MqRun
  /-- A port has changed state since the last topology record; when that record was sent (R335). -/
  topoDue : Bool
  topoAt  : Nat
deriving DecidableEq, Repr

/-! ### Host link, CAN port and dictionary paths -/

structure Link where
  up      : Bool
  d3      : Bool
  /-- In a link reset and the 10 ms after it (R390, R398): when it began. -/
  resetAt : Option Nat
  bar2Gib : Nat
  msix    : Tbl Word32
  pba     : BitVec 64
  eid     : Byte
  /-- BAR2 reads whose bytes are on their way: the number their requests carry, offset, length. -/
  waits   : List (Nat × Nat × Nat)
  /-- Tags in use (R392): the request each carries, and the pool it comes from, a copy engine's or, as 8,
  that of every other master. -/
  tags    : List (Nat × Nat)
deriving DecidableEq, Repr

/-- The latches each path has of its own (R404, R405, R498). -/
structure Latches where
  high : Tbl Word32
  ns   : Word32
  frac : BitVec 16
  ftns : Word64
  sel  : Word32
  view : Bool
deriving DecidableEq, Repr

def Latches.init : Latches := ⟨[], 0, 0, 0, 0, false⟩

/-- An emergency message waiting (R425). -/
structure Emcy where
  code  : BitVec 16
  err   : Byte
  idx   : BitVec 16
  sub   : Byte
  bit   : Byte
  ft    : Word64
deriving DecidableEq, Repr

structure Can where
  running : Bool
  emcy    : List Emcy
  emcyAt  : Option Nat
  tpdo1   : Option (List Byte)
  pdo1At  : Nat
  beatAt  : Nat
  pdo2At  : Nat
  /-- A change of 2B00:01 or 1001h not yet reported in TPDO2 (R427). -/
  pdo2Due : Bool
  /-- 1001h as last seen, for the code 0x0000 and the changes of R427. -/
  errSeen : Byte
  /-- An SDO request is still being served, as during a store (R423). -/
  serving : Bool
deriving DecidableEq, Repr

/-! ### Power, heat, bring-up -/

structure Power where
  /-- Mean input power of the last 1,000 slots in W and their mean voltages in 0.1 V, newest first
  (R439); slots since PWRNOW was last updated. -/
  slots   : List Nat
  volts   : List Nat
  shown   : Nat
  /-- Successive slots of STOP; activity of the last slot that was not STOP (R440, R441). -/
  stopRun : Nat
  activity : Nat
  /-- Step whose set-point the rail moves toward, and where the rail stood at a time (R437). -/
  target  : Nat
  railMv  : Nat
  railAt  : Nat
  /-- Step at which the core clocks run, or ran before STOP, and a climb from STOP in progress (R437). -/
  clk     : Nat
  climb   : Bool
  /-- Filler load in W of module input, in STOP the load of the slot before it; power of COMPUTE jobs started since the last slot and the filler
  load that they ended, both referred to step 0 (R441, R444). -/
  kettle  : Nat
  starts  : Nat
  cut     : Nat
  /-- Successive slots above 420 V, below 360 V, outside 330–440 V (R434). -/
  overCnt : Nat
  underCnt : Nat
  outCnt  : Nat
deriving DecidableEq, Repr

structure Thermal where
  /-- Readings of each diode, newest first, up to 110 (R456), in 1/16 °C. -/
  hist    : Tbl (List Int)
  /-- Sources in warning, and at their shutdown threshold in the last reading (R453, R455). -/
  warn    : List Nat
  atShut  : List Nat
  /-- When a zone's model and diode came more than 8 °C apart, or within 3 °C (R459). -/
  apart   : Tbl (Option Nat)
  close   : Tbl (Option Nat)
  /-- Rate-of-rise demand and its last detection (R456); the last update of the thermal demand. -/
  rateStep : Option Nat
  rateAt  : Nat
  demAt   : Nat
  /-- A die has no valid diode (R451). -/
  blind   : Bool
deriving DecidableEq, Repr

/-- The configuration area of the module flash (R413 to R417). -/
structure CfgArea where
  ok      : Bool
  gen     : Word32
  recs    : List (Nat × Word64)
  repairs : List (Nat × Nat × Nat × Nat)
deriving DecidableEq, Repr

inductive FlashClaim | store | restore | firmware
deriving DecidableEq, Repr

/-- One vertical channel (R491 to R493): lines that spares have replaced in service, qualified lines that
wait for theirs while the channel is held, whether a failed line lay off the pass-through path, whether
the channel is retired, and whether it has returned to service for the lower leaf at this start. -/
structure Chan where
  lines : List Nat
  wait  : List Nat
  main  : Bool
  ret   : Bool
  back  : Bool
deriving DecidableEq, Repr

def Chan.init : Chan := ⟨[], [], false, false, false⟩

/-- What the lane repair record holds (R493): channels, and lanes lost by pot × 4 + group × 2 + direction
(R22, R23). -/
structure LaneRec where
  chans : Tbl Chan
  lost  : Tbl (List Nat)
deriving DecidableEq, Repr

/-- What the ageing log holds (R494, R495): offset and need in mV, the powered time of the last re-plan,
end of life, and the entries of AGELOG, newest first. -/
structure AgeLog where
  offset  : Int
  need    : Int
  lastAt  : Nat
  eol     : Bool
  entries : List Word64
deriving DecidableEq, Repr

/-- A firmware image (R480): the 8,192 bytes before its body, and the body. -/
structure Image where
  header : List Byte
  body   : List Byte
deriving DecidableEq, Repr

/-- How far a start has come (R471 to R478). -/
structure Bring where
  /-- The 400 V input is present. -/
  hv      : Bool
  modRst  : Bool
  /-- Firmware runs (R420); the boot ROM verifies; it has found no valid image and waits (R486). -/
  firmware : Bool
  rom     : Bool
  romWait : Bool
  /-- First clock of the start, its kind, first clock of the phase, or of FAULTED. -/
  startAt : Nat
  cold    : Bool
  phaseAt : Nat
  /-- A start command waiting for a store or restore (R472): cold. -/
  waiting : Option Bool
  waves   : List Nat
  /-- Leaves whose cells are on; leaves checked and found bad (R475); known-answer and march tests done. -/
  leafOn  : BitVec 4
  checked : Bool
  leafBad : BitVec 4
  kat     : BitVec 64
  marched : BitVec 2
  /-- SHUT# is pulled low (R505); the device refuses a start until the sources have cooled (R455). -/
  shut    : Bool
  hot     : Bool
  /-- BOOTID of the start before (R356). -/
  bootPrev : BitVec 16
deriving DecidableEq, Repr

/-- The module flash and what works on it (R413 to R417, R479 to R490). -/
structure Flash where
  image   : Option Image
  cfg     : CfgArea
  claim   : Option FlashClaim
  /-- What a store or restore in progress will write (R415); the area as applied at the last start. -/
  snap    : CfgArea
  applied : Option CfgArea
  /-- Lane repair record; none when its check fails (R493). A change waits to be written. -/
  lanes   : Option LaneRec
  lanesDue : Bool
  /-- Ageing log, the same. -/
  age     : Option AgeLog
  ageDue  : Bool
  /-- BAR4 staging bytes and poisoned 32-byte units (R483), the command that runs, its last result. -/
  staging : Mem
  stagePois : List Nat
  op      : Option Nat
  result  : Nat
  /-- Bytes 0x0000–0x07FF of the running image. -/
  running : List Byte
  /-- Blown fuses of the security version counter, and the count being blown (R482, R490). -/
  svn     : Nat
  svnTo   : Option Nat
  /-- Standing evidence, when it was made; the nonce of fresh evidence being made (R489). -/
  evidence : List Byte
  evAt    : Nat
  fresh   : Option (List Byte)
deriving DecidableEq, Repr

/-- Ageing (R494, R495): as `AgeLog`, with the powered time in units, and the re-plan that is due or
runs. -/
structure Age where
  offset  : Int
  need    : Int
  units   : Nat
  lastAt  : Nat
  due     : Bool
  running : Bool
  log     : List Word64
deriving DecidableEq, Repr

structure Lanes where
  chans   : Tbl Chan
  lost    : Tbl (List Nat)
  /-- Qualified lanes that wait for their spare: the same key, and the lane. -/
  held    : List (Nat × Nat)
  /-- Disabled groups: pot × 2 + group. -/
  dead    : List Nat
deriving DecidableEq, Repr

structure Snap where
  store   : Tbl Word64
  copying : Bool
  /-- When the last snapshot latched. -/
  latched : Option Nat
deriving DecidableEq, Repr

/-- What the device has sent: the block's outward face (DESIGN CHOICE, log entry 108). -/
inductive Output
  | bar0 (ur : Bool) (value : Word64)
  | bar2 (ur : Bool) (data : List Byte) (poisoned : Bool)
  | hostRead (id : Nat) (addr : Word64) (len : Nat)
  | hostWrite (addr : Word64) (data : List Byte) (poisoned : Bool)
  | msix (vec : Nat)
  /-- An advisory non-fatal error under AER (R395). -/
  | advisory
  | mctp (status : Nat) (value : Word64)
  | evidence (status : Nat) (doc : List Byte)
  | can (id : Nat) (data : List Byte)
  | frame (port : Port) (f : OutFrame) (stomp : Bool)
  | agent (words : List Word32)
  | syncOut (ftUnits : Nat)
deriving DecidableEq, Repr

/-- The state of the block. -/
structure State where
  /-- Commands waiting, first in, first out. -/
  pending  : List Instr
  /-- Dictionary entries that differ from their Reset value, by index × 256 + subindex; a 64-bit
  counter lies whole at its low word's subindex. -/
  regs     : Tbl Word64
  time     : Time
  /-- Bits that writes of 1 have cleared in this clock, by entry, and when (R13). -/
  cleared  : Tbl (Word64 × Nat)
  latchP   : Latches
  latchC   : Latches
  latchF   : Latches
  clusters : Tbl Cluster
  mcasts   : List Mcast
  caddy    : Caddy
  hbm      : Hbm
  reqs     : List Req
  nextReq  : Nat
  arb      : Tbl ArbState
  seq      : Seq
  fabric   : Fabric
  link     : Link
  can      : Can
  power    : Power
  thermal  : Thermal
  bring    : Bring
  flash    : Flash
  age      : Age
  lanes    : Lanes
  snap     : Snap
  /-- The model's own: what has been sent, newest first; and the count of free values drawn. -/
  out      : List Output
  free     : Nat
deriving DecidableEq, Repr

/-- Why the block would stop. No rule of the manual stops it: every fault the manual gives is an
effect on the state, so this type has no constructor (DEDUCED, log entry 3). -/
inductive Fault
deriving DecidableEq, Repr

/-- Why a command is not run (DEDUCED, log entry 3). -/
inductive Refusal
  /-- The command has no meaning yet. Raised by `exec` alone; safe: nothing is claimed of it. -/
  | notModelled (mnemonic : String)
deriving DecidableEq, Repr

/-- The device when it enters BOOT after a cold start, before the configuration store is applied
(R11): every entry at its Reset value, the boot ROM verifying, nothing else in progress (DESIGN CHOICE, log entry 4)
(DESIGN CHOICE, log entry 84) (DEDUCED, log entry 100). -/
def State.reset : State where
  pending := []
  regs := []
  time := ⟨0, 0, 0, 0, 0, 0, none, 0, 0, 0⟩
  cleared := []
  latchP := .init
  latchC := .init
  latchF := .init
  clusters := []
  mcasts := []
  caddy := ⟨[], [], [], [], [], [], [], none, [], [], [], [], 0, 0, []⟩
  hbm := ⟨[], [], [], [], [], [], 0, 0, [], [], 0, false, 0⟩
  reqs := []
  nextReq := 0
  arb := []
  seq := ⟨[], [], [], [], [], 0, [], [], 0, 0, []⟩
  fabric := ⟨[], [], [], none, [], [], [], [], [], [], [], false, 0⟩
  link := ⟨false, false, none, 512, [], 0, 0, [], []⟩
  can := ⟨false, [], none, none, 0, 0, 0, false, 0, false⟩
  power := ⟨[], [], 0, 0, 0, 0, 750, 0, 0, false, 0, 0, 0, 0, 0, 0⟩
  thermal := ⟨[], [], [], [], [], none, 0, 0, false⟩
  bring := ⟨true, false, false, true, false, 0, true, 0, none, [], 0, false, 0, 0, 0, false, false, 0⟩
  flash := ⟨some ⟨Config.shippedHeader, Config.shippedBody⟩, ⟨false, 0, [], []⟩, none, ⟨false, 0, [], []⟩, none, none, false, none,
    false, [], [], none, 0, [], min 64 Config.svnFuses, none, [], 0, none⟩
  age := ⟨0, 0, 0, 0, false, false, []⟩
  lanes := ⟨[], [], [], []⟩
  snap := ⟨[], false, none⟩
  out := []
  free := 0

end Sys2Proof.Machine
end

