-- ==== Sys2Proof/Machine/Entries.lean ====
section
/-! DEFINITION. Every entry of the object dictionary (R401): its width, the access of each of its
bits, its persistent bits and its Reset value, from the field maps of all chapters; the paths that
may write it (R407); and the values it takes. -/

namespace Sys2Proof.Machine

/-- Bits [hi:lo] as a mask. -/
def mask (hi lo : Nat) : Word64 := BitVec.ofNat 64 ((2 ^ (hi + 1 - lo) - 1) * 2 ^ lo)

/-- One entry: 64 bits wide or 32; the type code of R403; which bits are RW, RW1C, WO or CONST;
which are persistent; the Reset value. Every other bit is RO or reserved. -/
structure Entry where
  wide  : Bool
  code  : Nat
  rw    : Word64
  w1c   : Word64
  wo    : Word64
  const : Word64
  pers  : Word64
  reset : Word64
deriving DecidableEq, Repr

namespace Entry

/-- An RO entry of a field map. -/
def ro (reset : Nat := 0) : Entry := ⟨false, 5, 0, 0, 0, 0, 0, BitVec.ofNat 64 reset⟩
def ro64 : Entry := ⟨true, 6, 0, 0, 0, 0, 0, 0⟩
def const32 (v : Word64) : Entry := ⟨false, 5, 0, 0, 0, mask 31 0, 0, v⟩
def const64 (v : Word64) : Entry := ⟨true, 6, 0, 0, 0, mask 63 0, 0, v⟩
/-- An entry whose RW bits are `m`, persistent. -/
def pers32 (m : Word64) (reset : Nat) : Entry := ⟨false, 5, m, 0, 0, 0, m, BitVec.ofNat 64 reset⟩
def rw32 (m : Word64) (reset : Nat) : Entry := ⟨false, 5, m, 0, 0, 0, 0, BitVec.ofNat 64 reset⟩
def rw64 (m : Word64) : Entry := ⟨true, 6, m, 0, 0, 0, 0, 0⟩
def w1c32 (m : Word64) : Entry := ⟨false, 5, 0, m, 0, 0, 0, 0⟩
def wo32 (m : Word64) : Entry := ⟨false, 5, 0, 0, m, 0, 0, 0⟩
/-- Half of a 64-bit counter. -/
def counter : Entry := ⟨false, 1, 0, 0, 0, 0, 0, 0⟩
def unsigned (v : Word64) : Entry := ⟨false, 1, 0, 0, 0, mask 31 0, 0, v⟩

def writable (e : Entry) : Bool := (e.rw ||| e.w1c ||| e.wo) != 0

end Entry

/-- CAN identifier of a PDO (R421). -/
def pdoId (base : Nat) : Word64 := BitVec.ofNat 64 (base + Config.canId.toNat)

/-- COB-ID of a communication entry (R429): bit 31 writable, the rest CONST. -/
def pdoCob (base : Nat) : Entry :=
  ⟨false, 1, mask 31 31, 0, 0, mask 30 0, mask 31 31, pdoId base⟩

/-- MEREPAIR with its reserved bits clear (R111). -/
def merepairWord (n : Nat) : Word64 := (Config.merepair n).setWidth 64 &&& (mask 13 8 ||| mask 5 0)

/-- TORUS at reset (R330): sizes, and the straps as the pins give them (R501). -/
def torusReset : Nat :=
  0x8210 + Config.posX.toNat * 2 ^ 16 + Config.posY.toNat * 2 ^ 20 + Config.posZ.toNat * 2 ^ 24
    + (if Config.posV then 2 ^ 29 else 0)

/-- Weight of class NCn at reset (R198). -/
def ncWeightReset : Nat → Nat
  | 0 => 8 | 1 => 4 | 2 => 2 | 3 => 4 | 4 => 4 | 5 => 2 | _ => 1

/-- The rows of the index's part of the dictionary: first and last subindex, and the entry (DEDUCED, log entry 13). -/
def rows10 (idx : Nat) : List (Nat × Nat × Entry) :=
  if idx = 0x1001 then [(0, 0, .ro)]
  else if idx = 0x1010 ∨ idx = 0x1011 then [(1, 1, .rw32 (mask 31 0) 1)]
  else if idx = 0x1015 then [(0, 0, .pers32 (mask 15 0) 0x000A)]
  else if idx = 0x1017 then [(0, 0, .pers32 (mask 15 0) 0x0064)]
  else if idx = 0x1018 then
    [(1, 1, .unsigned (Config.vendorId.setWidth 64)), (2, 2, .unsigned 0x2400),
     (3, 3, .unsigned (0x00010000 ||| Config.revisionLow.setWidth 64)),
     (4, 4, ⟨true, 2, 0, 0, 0, mask 63 0, 0, Config.serial⟩)]
  else if idx = 0x1400 then
    [(1, 1, pdoCob 0x200), (2, 2, .unsigned ((Config.pdoConst 0x140002).setWidth 64))]
  else if idx = 0x1800 ∨ idx = 0x1801 then
    [(1, 1, pdoCob (if idx = 0x1800 then 0x180 else 0x280)),
     (2, 2, .unsigned ((Config.pdoConst (idx * 256 + 2)).setWidth 64)),
     (3, 3, ⟨false, 1, mask 15 0, 0, 0, 0, mask 15 0, if idx = 0x1801 then 100 else 0⟩),
     (5, 5, ⟨false, 1, mask 15 0, 0, 0, 0, mask 15 0, if idx = 0x1801 then 100 else 0⟩)]
  else if idx = 0x1600 ∨ idx = 0x1A00 ∨ idx = 0x1A01 then
    (List.range (Config.pdoMaps idx)).map fun i =>
      (i + 1, i + 1, .unsigned ((Config.pdoConst (idx * 256 + i + 1)).setWidth 64))
  else []

def rows20 (idx : Nat) : List (Nat × Nat × Entry) :=
  if idx = 0x2010 then [(1, 2, .ro), (3, 3, .w1c32 1), (4, 4, .ro)]
  else if idx = 0x2011 then [(1, 1, .rw32 (mask 23 0) 0), (2, 2, .ro)]
  else if idx = 0x2012 then
    [(1, 1, ⟨true, 6, 0, 0, 0, 0, 0, Config.canId.setWidth 64⟩)]
  else if idx = 0x2100 then
    [(1, 1, .ro), (2, 2, .pers32 (mask 15 0) 0x07D0), (3, 3, .ro), (4, 4, .pers32 (mask 3 0) 0),
     (5, 5, .pers32 (mask 15 0) 0x0050), (6, 6, .pers32 (mask 15 0) 0),
     (7, 7, .pers32 (mask 1 0) 1), (8, 8, .ro), (9, 9, .w1c32 (mask 2 0))]
  else if idx = 0x2200 then [(1, 4, .ro)]
  else if idx = 0x2201 then [(1, 2, .ro 1)]
  else if idx = 0x2210 then [(1, 0x2A, .ro)]
  else if idx = 0x2211 then
    (List.range 16).map fun i =>
      (i + 1, i + 1, ⟨false, 5, 0, 0, 0, mask 31 24, 0, (Config.theta i).setWidth 64 <<< 24⟩)
  else if idx = 0x2213 then [(1, 6, .ro)]
  else if idx = 0x2220 then [(1, 1, .w1c32 (mask 3 0)), (2, 2, .ro)]
  else []

def rows23 (idx : Nat) : List (Nat × Nat × Entry) :=
  if idx = 0x2300 then [(0x10, 0x10, ⟨false, 5, mask 1 0, 0, 0, 0, mask 1 0, 0⟩)]
  else if idx = 0x2310 then
    [(4, 4, .pers32 (mask 4 0) 0x0C), (6, 6, .pers32 (mask 20 0) 0x100400),
     (8, 8, .pers32 1 1), (0x0C, 0x0C, .w1c32 (mask 7 0)), (0x0D, 0x0D, .ro64),
     (0x0E, 0x0E, .ro), (0x10, 0x10, .wo32 1)]
  else if idx = 0x2311 then
    [(1, 2, .rw64 (mask 47 0)), (3, 3, .wo32 (mask 7 0)), (4, 4, .ro)]
  else if idx = 0x2312 then [(1, 0x40, .ro64)]
  else if idx = 0x2314 then [(1, 2, .ro 0x00600000)]
  else if idx = 0x2315 then [(1, 0x11, .ro64)]
  else if idx = 0x2320 then [(1, 0x18, .pers32 (mask 31 0) 0)]
  else if idx = 0x2400 then [(0x10, 0x10, .pers32 1 1)]
  else if idx = 0x2401 then [(1, 8, .ro 1)]
  else if idx = 0x2410 then
    (List.range 7).map (fun n => (n + 1, n + 1, .pers32 (mask 7 0) (ncWeightReset n)))
      ++ [(8, 8, .pers32 (mask 6 0) 0x20)]
  else if idx = 0x2420 then [(1, 1, .w1c32 (mask 6 0)), (2, 2, .ro64)]
  else if idx = 0x2430 ∨ idx = 0x2431 then [(1, 0x20, ⟨true, 6, 0, mask 43 43, 0, 0, 0, 0⟩)]
  else if 0x2438 ≤ idx ∧ idx ≤ 0x243F then [(1, 0x10, ⟨true, 6, 0, mask 43 43, 0, 0, 0, 0⟩)]
  else if idx = 0x2450 then [(1, 1, .pers32 (mask 15 8 ||| 1) 0x0801)]
  else if idx = 0x2451 then [(1, 1, .rw32 (mask 8 0) 0), (2, 3, .ro64)]
  else if idx = 0x2460 then
    [(1, 1, .pers32 1 1), (2, 2, .pers32 (mask 13 0) 0x05A0), (3, 3, .pers32 (mask 11 0) 0x0258)]
  else if idx = 0x2461 then [(1, 1, .pers32 1 0)]
  else if idx = 0x2462 then [(1, 4, .ro)]
  else if idx = 0x2500 then
    [(1, 3, .ro64), (8, 8, .pers32 (mask 3 0) 2), (0x0A, 0x0A, .rw32 (mask 4 0) 0x14),
     (0x0B, 0x0B, .rw32 (mask 4 0) 0x18), (0x0C, 0x0C, .w1c32 (mask 3 0))]
  else if idx = 0x2510 then
    (List.range 64).map fun n => (n + 1, n + 1, .const32 (merepairWord n))
  else if idx = 0x2620 then
    [(4, 4, .pers32 (mask 4 0) 0x14), (8, 8, ⟨true, 6, 0, mask 29 29, 0, 0, 0, 0⟩), (9, 9, .ro64)]
  else []

/-- Coefficient i of table 0 (a), 1 (b1) or 2 (c) of the normal variates (R286). -/
def normEntry (table i : Nat) : Word64 :=
  let x := normCoef i
  (if table = 0 then x.1 else if table = 1 then x.2.1 else x.2.2).setWidth 64

def rows27 (idx : Nat) : List (Nat × Nat × Entry) :=
  if idx = 0x2701 then [(1, 0x10, .rw64 (mask 63 0))]
  else if idx = 0x2710 ∨ idx = 0x2711 then
    (List.range 128).map fun i =>
      (i + 1, i + 1, .const64 (polyMask (i + 128 * (idx - 0x2710))))
  else if 0x2720 ≤ idx ∧ idx ≤ 0x2725 then
    (List.range 128).map fun i =>
      (i + 1, i + 1, .const32 (normEntry ((idx - 0x2720) / 2) (i + 128 * (idx % 2))))
  else if idx = 0x2810 then [(1, 1, .pers32 (mask 19 0) 0x07D0), (2, 2, .pers32 (mask 19 0) 0)]
  else if 0x2840 ≤ idx ∧ idx ≤ 0x284F then
    ((List.range 8).map fun r =>
      [(4 * r + 1, 4 * r + 1, Entry.rw64 (mask 47 0)),
       (4 * r + 2, 4 * r + 2, ⟨false, 5, mask 5 0, mask 9 9, 0, 0, 0, 8⟩),
       (4 * r + 3, 4 * r + 4, .rw64 (mask 47 0))]).flatten
  else if 0x2850 ≤ idx ∧ idx ≤ 0x285F then
    [(1, 1, .rw64 (mask 47 0)), (2, 2, ⟨false, 5, mask 5 0, mask 6 6, 0, 0, 0, 8⟩),
     (3, 3, .rw64 (mask 47 0)), (4, 4, .rw32 (mask 23 0) 0x003210)]
  else if idx = 0x2860 then [(1, 0x10, .wo32 (mask 2 0))]
  else if idx = 0x2861 then [(1, 0x10, .rw64 (mask 47 0))]
  else if idx = 0x2870 then [(1, 1, .rw32 (mask 11 0) 0), (2, 2, .ro)]
  else if idx = 0x2880 then [(1, 1, .ro64), (2, 3, .ro), (4, 4, .ro64)]
  else if idx = 0x2881 then
    [(1, 1, .pers32 (mask 1 0) 0), (2, 2, .w1c32 (mask 3 2)), (3, 3, ⟨true, 6, 0, 0, mask 47 0, 0, 0, 0⟩)]
  else if idx = 0x2882 then [(1, 1, .pers32 1 0)]
  else if idx = 0x2890 then
    [(1, 1, .pers32 (mask 13 0) 0x03E8), (2, 2, .pers32 (mask 4 0) 8),
     (3, 3, .pers32 (mask 11 0) 0x0FA)]
  else if idx = 0x2891 then [(1, 0x10, .ro)]
  else []

def rows29 (idx : Nat) : List (Nat × Nat × Entry) :=
  if idx = 0x2900 then [(1, 1, .pers32 (mask 1 0) 0)]
  else if idx = 0x2901 then [(1, 0x10, .pers32 (mask 31 16 ||| mask 5 0) 0xFFFF0001)]
  else if idx = 0x2902 then [(1, 0x10, .ro 0xFFFF00)]
  else if idx = 0x2903 then [(1, 1, .const64 ((Config.macBase &&& ~~~0xF#48).setWidth 64))]
  else if idx = 0x2904 then [(1, 0x10, ⟨true, 6, mask 47 0, 0, 0, 0, mask 47 0, 0⟩)]
  else if idx = 0x2910 then
    [(1, 1, .pers32 (mask 17 0) 0xFFFF), (2, 2, .pers32 (mask 31 0) 0),
     (3, 3, .pers32 (mask 15 0) torusReset)]
  else if idx = 0x2920 then
    [(1, 1, ⟨true, 6, mask 47 0, 0, 0, 0, mask 47 0, 0xFD0000000000⟩),
     (2, 2, .pers32 (mask 13 0) 0x2240), (3, 3, .pers32 (mask 15 0) 0xB79A)]
  else if idx = 0x2930 then
    [(1, 1, .rw32 (mask 12 0) 0), (2, 2, .rw32 (mask 13 0) 0), (3, 3, .pers32 (mask 15 0) 0),
     (4, 4, .pers32 (mask 19 0) 0x10000)]
  else if idx = 0x2940 then [(1, 1, .pers32 (mask 23 0) 0x808000)]
  else if idx = 0x2950 then [(1, 1, .w1c32 (mask 4 0)), (2, 2, .w1c32 (mask 3 0))]
  else if idx = 0x2960 ∨ idx = 0x2961 then [(1, 0x40, ⟨false, 5, mask 4 0, 0, mask 5 5, 0, 0, 0⟩)]
  else if idx = 0x2970 then
    [(1, 1, .pers32 (mask 19 0) 0xC3204), (2, 2, .pers32 (mask 15 0) 0x3E82), (3, 3, .ro)]
  else []

/-- (DESIGN CHOICE, log entry 5.) -/
def rows2A (idx : Nat) : List (Nat × Nat × Entry) :=
  if idx = 0x2A00 then [(1, 1, .ro)]
  else if idx = 0x2A01 then [(1, 2, .ro), (3, 3, .rw32 (mask 31 0) 0)]
  else if idx = 0x2A20 then [(1, 1, .rw64 (mask 63 0))]
  else if idx = 0x2B00 then
    [(1, 1, .ro 2), (2, 2, .wo32 (mask 1 0)), (3, 3, .pers32 (mask 1 0) 1), (4, 4, .ro)]
  else if idx = 0x2B10 then [(1, 0x40, .ro)]
  else if idx = 0x2B20 then
    [(1, 1, .rw32 (mask 8 0) 0), (2, 3, .ro), (4, 4, .pers32 (mask 7 0) 0x10)]
  else if idx = 0x2B30 then [(1, 1, .wo32 1), (2, 2, .ro64)]
  else if idx = 0x2B31 then [(1, 0x10, .ro64)]
  else if idx = 0x2C00 then
    [(1, 1, ⟨false, 5, mask 6 2 ||| 1, 0, 2, 0, mask 5 5, 0⟩), (2, 2, .rw64 (mask 63 0)),
     (3, 3, .ro), (4, 4, .ro64)]
  else if idx = 0x2C10 then [(1, 0x40, .ro64)]
  else if idx = 0x2D00 then [(1, 1, .ro)]
  else if idx = 0x2D01 then [(1, 1, .wo32 (mask 6 0))]
  else if idx = 0x2D20 then [(1, 0xF4, .ro64)]
  else if idx = 0x2D21 ∨ idx = 0x2D23 then [(1, 0xFF, .ro64)]
  else if idx = 0x2D22 then [(1, 0x9F, .ro64)]
  else if idx = 0x2D24 then [(1, 0xCA, .ro64)]
  else []

/-- Subindices of a counter entry; 0 where the index holds no counters. -/
def counterTop (idx : Nat) : Nat :=
  if idx = 0x3001 then 0x12
  else if idx = 0x3100 ∨ idx = 0x3300 ∨ idx = 0x3301 then 0x14
  else if (0x3400 ≤ idx ∧ idx ≤ 0x3407) ∨ (0x3410 ≤ idx ∧ idx ≤ 0x3416)
    ∨ (0x3420 ≤ idx ∧ idx ≤ 0x3426) then 0x0A
  else if 0x3500 ≤ idx ∧ idx ≤ 0x353F then 0x10
  else if (0x3600 ≤ idx ∧ idx ≤ 0x363F) ∨ idx = 0x3800 ∨ idx = 0x3A00 then 0x0C
  else if 0x3900 ≤ idx ∧ idx ≤ 0x390F then 0x18
  else if idx = 0x3920 then 0x1A
  else 0

/-- The rows of one index, in ascending subindex. -/
def rowsOf (idx : Nat) : List (Nat × Nat × Entry) :=
  if idx < 0x2000 then rows10 idx
  else if idx < 0x2300 then rows20 idx
  else if idx < 0x2700 then rows23 idx
  else if idx < 0x2900 then rows27 idx
  else if idx < 0x2A00 then rows29 idx
  else if idx < 0x3000 then rows2A idx
  else if counterTop idx = 0 then []
  else [(1, counterTop idx, .counter)]

/-- Indices with a single entry at subindex 00 (R402). -/
def atZero (idx : Nat) : Bool := idx == 0x1001 || idx == 0x1015 || idx == 0x1017

/-- Highest subindex of an index, for its subindex 00 (R402). -/
def topSub (idx : Nat) : Nat := (rowsOf idx).foldl (fun m r => max m r.2.1) 0

/-- An index holds an entry. -/
def indexExists (idx : Nat) : Bool := (rowsOf idx).isEmpty == false

/-- The entry index:subindex, where it exists (R401, R402). -/
def entryOf (idx sub : Nat) : Option Entry :=
  if sub = 0 ∧ atZero idx = false then
    if indexExists idx then some (.unsigned (BitVec.ofNat 64 (topSub idx))) else none
  else ((rowsOf idx).find? fun r => decide (r.1 ≤ sub ∧ sub ≤ r.2.1)).map (·.2.2)

/-- The Reset value of an entry; 0 where none exists (DESIGN CHOICE, log entry 5). -/
def resetValue (idx sub : Nat) : Word64 :=
  match entryOf idx sub with
  | some e => e.reset
  | none => 0

/-- The paths of R406. -/
inductive Path | pcie | can | fab
deriving DecidableEq, Repr

def Path.of : Via → Path
  | .bar0 => .pcie
  | .mctp => .pcie
  | .sdo => .can
  | .rpdo => .can
  | .directed => .fab

/-- Entries that the entry's own chapter lets further paths write (R407): FTTOD,
CFGSTAT.DEFAULTED and ENTRYINFO.SEL. -/
def rightsOf (idx sub : Nat) : List Path :=
  if idx = 0x2881 ∧ sub = 3 then [.pcie, .can]
  else if idx = 0x2010 ∧ sub = 3 then [.pcie, .can]
  else if idx = 0x2011 ∧ sub = 1 then [.pcie, .can, .fab]
  else if 0x1000 ≤ idx ∧ idx < 0x2000 then [.pcie, .can]
  else if 0x2100 ≤ idx ∧ idx < 0x2300 then [.pcie, .can]
  else if 0x2900 ≤ idx ∧ idx < 0x2A00 then [.pcie, .fab]
  else if 0x2300 ≤ idx ∧ idx < 0x2B00 then [.pcie]
  else if 0x2B00 ≤ idx ∧ idx < 0x2C00 then [.pcie, .can]
  else if 0x2C00 ≤ idx ∧ idx < 0x2D00 then [.pcie, .can, .fab]
  else if 0x2D00 ≤ idx ∧ idx < 0x2E00 then [.pcie]
  else []

/-- ENTRYINFO.INFO (R405): existence, type, access code, rights and persistence. An entry with
several kinds of field shows the first of RW, RW1C, WO it has, CONST where all of it is constant, else RO
(DEDUCED, log entry 13). -/
def infoOf (idx sub : Nat) : Word64 :=
  match entryOf idx sub with
  | none => 0
  | some e =>
    let acc : Nat := if e.rw ≠ 0 then 1 else if e.w1c ≠ 0 then 2 else if e.wo ≠ 0 then 3
      else if e.const = mask (if e.wide then 63 else 31) 0 then 5 else 0
    let w (x : Path) : Nat := if e.writable ∧ x ∈ rightsOf idx sub then 1 else 0
    BitVec.ofNat 64 (1 + e.code * 2 + acc * 16 + w .pcie * 128 + w .can * 256 + w .fab * 512
      + (if e.pers ≠ 0 then 1024 else 0))

/-- Bits [hi:lo] of a value, as a number. -/
def fieldOf (v : Word64) (hi lo : Nat) : Nat := v.toNat / 2 ^ lo % 2 ^ (hi + 1 - lo)

/-- Whether the entry takes a value: the ranges its field map states. The value is the whole
entry after the write (DEDUCED, log entry 12). -/
def inRange (idx sub : Nat) (v : Word64) : Bool :=
  let f := fieldOf v
  let within (x lo hi : Nat) : Bool := decide (lo ≤ x ∧ x ≤ hi)
  if idx = 0x1017 then within (f 15 0) 10 65535 || f 15 0 == 0
  else if idx = 0x1010 then f 31 0 == 0x65766173
  else if idx = 0x1011 then f 31 0 == 0x64616F6C
  else if idx = 0x2100 then
    if sub = 2 then within (f 15 0) 600 2000
    else if sub = 4 then within (f 3 0) 0 7
    else if sub = 5 then within (f 15 0) 5 1000
    else if sub = 6 then within (f 15 0) 0 1200
    else true
  else if idx = 0x2300 then within (f 1 0) 0 2
  else if idx = 0x2310 then
    if sub = 4 then within (f 4 0) 0 18 else if sub = 6 then within (f 20 16) 10 24 else true
  else if idx = 0x2320 then (List.range 16).all fun j => decide (f (2 * j + 1) (2 * j) ≠ 3)
  else if idx = 0x2410 then if sub = 8 then within (f 6 0) 0 64 else true
  else if idx = 0x2450 then within (f 15 8) 1 255
  else if idx = 0x2460 then
    if sub = 2 then within (f 13 0) 60 10080
    else if sub = 3 then within (f 11 0) 10 3600 else true
  else if idx = 0x2500 then
    if sub = 8 then within (f 3 0) 0 8
    else if sub = 0x0A ∨ sub = 0x0B then within (f 4 0) 10 30 else true
  else if idx = 0x2620 then if sub = 4 then within (f 4 0) 10 30 else true
  else if idx = 0x2810 then
    if sub = 1 then within (f 19 0) 250 1000000 else within (f 19 0) 0 1000000
  else if 0x2840 ≤ idx ∧ idx ≤ 0x284F then
    if sub % 4 = 1 then f 11 0 == 0
    else if sub % 4 = 2 then within (f 5 1) 4 16
    else f 1 0 == 0
  else if 0x2850 ≤ idx ∧ idx ≤ 0x285F then
    if sub = 1 then f 11 0 == 0
    else if sub = 2 then within (f 5 1) 4 16
    else if sub = 3 then f 1 0 == 0 else true
  else if idx = 0x2861 then f 19 0 == 0
  else if idx = 0x2881 then if sub = 1 then within (f 1 0) 0 2 else true
  else if idx = 0x2890 then
    if sub = 1 then within (f 13 0) 100 10000
    else if sub = 2 then within (f 4 0) 1 16 else within (f 11 0) 0 2000
  else if idx = 0x2910 then
    if sub = 1 then within (f 17 16) 0 1
    else if sub = 3 then
      within (f 4 0) 1 16 && within (f 9 5) 1 16 && within (f 15 10) 1 32
    else true
  else if idx = 0x2920 then
    if sub = 1 then f 47 40 == 0xFD else if sub = 2 then within (f 7 0) 1 255 else true
  else if idx = 0x2970 then
    if sub = 1 then within (f 7 0) 1 255 && within (f 15 8) 1 255 && within (f 19 16) 1 15
    else within (f 3 0) 1 8
  else if idx = 0x2311 then
    if sub = 3 then f 1 0 == 2 || (f 1 0 == 1 && (within (f 7 3) 0 15 || f 7 3 == 0x1F)) else true
  else if idx = 0x2A20 then f 11 0 == 0
  else if idx = 0x2B00 then if sub = 2 then within (f 1 0) 1 2 else true
  else if idx = 0x2B20 then if sub = 4 then within (f 7 0) 1 255 else true
  else true

end Sys2Proof.Machine
end

