-- ==== Sys2Proof/Machine/Ops.lean ====
section
/-! DEFINITION. The named operations over tables, memory, dictionary entries, counters, events and
interrupts that the meanings share. -/

namespace Sys2Proof.Machine

/-! ### Tables in canonical form -/

/-- The value at key k, `d` where none is listed. -/
def Tbl.get {α : Type} (d : α) : Tbl α → Nat → α
  | [], _ => d
  | (j, v) :: t, k => if j = k then v else Tbl.get d t k

def Tbl.find {α : Type} : Tbl α → Nat → Option α
  | [], _ => none
  | (j, v) :: t, k => if j = k then some v else Tbl.find t k

def Tbl.del {α : Type} (t : Tbl α) (k : Nat) : Tbl α := t.filter fun e => e.1 ≠ k

/-- Insert before the first larger key. -/
def Tbl.insert {α : Type} (k : Nat) (v : α) : Tbl α → Tbl α
  | [] => [(k, v)]
  | (j, w) :: t => if k < j then (k, v) :: (j, w) :: t else (j, w) :: Tbl.insert k v t

/-- Set the value at k, keeping the keys rising. -/
def Tbl.set {α : Type} (t : Tbl α) (k : Nat) (v : α) : Tbl α := Tbl.insert k v (t.del k)

/-- Set the value at k; the default is never listed. -/
def Tbl.put {α : Type} [DecidableEq α] (d : α) (t : Tbl α) (k : Nat) (v : α) : Tbl α :=
  if v = d then t.del k else t.set k v

/-- Keys strictly rising. -/
def Tbl.rising {α : Type} : Tbl α → Bool
  | [] => true
  | e :: t => t.all (fun x => decide (e.1 < x.1)) && Tbl.rising t

/-- The canonical form of a table with a default. -/
def Tbl.wf {α : Type} [DecidableEq α] (d : α) (t : Tbl α) : Bool :=
  t.rising && t.all fun e => decide (e.2 ≠ d)

/-! ### Bytes -/

namespace Mem

/-- One byte; an unlisted address reads 0 (DESIGN CHOICE, log entry 6). -/
def byte (m : Mem) (a : Nat) : Byte := Tbl.get 0 m a

def setByte (m : Mem) (a : Nat) (b : Byte) : Mem := Tbl.put 0 m a b

/-- The n bytes from address a. -/
def read (m : Mem) (a n : Nat) : List Byte := (List.range n).map fun i => byte m (a + i)

/-- Store bytes at rising addresses. -/
def write (m : Mem) (a : Nat) : List Byte → Mem
  | [] => m
  | b :: bs => write (setByte m a b) (a + 1) bs

/-- Canonical form: rising addresses, and no byte listed that reads as an unlisted one. -/
def wf (m : Mem) : Bool := Tbl.wf (0 : Byte) m

end Mem

/-- Little-endian bytes of a number. -/
def leBytes : Nat → Nat → List Byte
  | 0, _ => []
  | n + 1, v => BitVec.ofNat 8 v :: leBytes n (v / 256)

/-- The number little-endian bytes hold. -/
def leNat : List Byte → Nat
  | [] => 0
  | b :: bs => b.toNat + 256 * leNat bs

/-- The 64-bit words of little-endian bytes. -/
def leWords (bs : List Byte) (n : Nat) : List Word64 :=
  (List.range n).map fun i => BitVec.ofNat 64 (leNat ((bs.drop (8 * i)).take 8))

/-! ### Dictionary entries -/

def regKey (idx sub : Nat) : Nat := idx * 256 + sub

/-- What an entry holds. -/
def State.reg (s : State) (idx sub : Nat) : Word64 :=
  Tbl.get (resetValue idx sub) s.regs (regKey idx sub)

def State.setReg (s : State) (idx sub : Nat) (v : Word64) : State :=
  { s with regs := Tbl.put (resetValue idx sub) s.regs (regKey idx sub) v }

/-- Bits [hi:lo] replaced. -/
def withField (w : Word64) (hi lo v : Nat) : Word64 :=
  (w &&& ~~~(mask hi lo)) ||| (BitVec.ofNat 64 (v * 2 ^ lo) &&& mask hi lo)

/-- Field [hi:lo] of an entry. -/
def State.fld (s : State) (idx sub hi lo : Nat) : Nat := fieldOf (s.reg idx sub) hi lo

def State.setFld (s : State) (idx sub hi lo v : Nat) : State :=
  s.setReg idx sub (withField (s.reg idx sub) hi lo v)

def State.bit (s : State) (idx sub n : Nat) : Bool := decide (s.fld idx sub n n = 1)

def State.setBit (s : State) (idx sub n : Nat) (b : Bool) : State :=
  s.setFld idx sub n n b.toNat

/-- Add to a 64-bit counter, modulo 2^64 (R115, R116); sub is its low word's subindex. -/
def State.count (s : State) (idx sub : Nat) (n : Nat := 1) : State :=
  s.setReg idx sub (s.reg idx sub + BitVec.ofNat 64 n)

/-! ### Device state and time -/

/-- DEVSTATE.STATE (2B00:01). -/
def State.dev (s : State) : Nat := s.fld 0x2B00 1 3 0

def devOff : Nat := 0
def devStandby : Nat := 1
def devBoot : Nat := 2
def devPowering : Nat := 3
def devTraining : Nat := 4
def devChecking : Nat := 5
def devReady : Nat := 6
def devDegraded : Nat := 7
def devService : Nat := 8
def devFaulted : Nat := 9

/-- The states in which jobs run and BAR2 serves: READY, DEGRADED, SERVICE. -/
def State.serving (s : State) : Bool := decide (6 ≤ s.dev ∧ s.dev ≤ 8)

/-- One nanosecond in the model's unit of time. -/
def nsUnits : Nat := 9009000

/-- FT nanoseconds since the fabric epoch. -/
def State.ftNs (s : State) : Nat := s.time.ft / nsUnits

/-- Whether `ns` nanoseconds have passed since a time in units (DESIGN CHOICE, log entry 107). -/
def State.passedNs (s : State) (since ns : Nat) : Bool :=
  decide (since + ns * nsUnits ≤ s.time.now)

/-- Core clocks since a core clock (DESIGN CHOICE, log entry 107). -/
def State.passedClk (s : State) (since n : Nat) : Bool := decide (since + n ≤ s.time.core)

/-! ### What the device sends -/

/-- (DESIGN CHOICE, log entry 108.) -/
def State.emit (s : State) (o : Output) : State := { s with out := o :: s.out }

/-- A poisoned TLP comes over the link: counted, and reported as an advisory non-fatal error (R395, R400). -/
def State.poisonedTlp (s : State) : State := (s.count 0x3A00 1).emit .advisory

/-- Vector-control word of an MSI-X table entry holds 1 after reset, the other words 0 (PRESUMED, log entry 9). -/
def msixDefault (k : Nat) : Word32 := if k % 4 = 3 then 1 else 0

/-- A word of the MSI-X table (R389), 4-byte word k of 256. -/
def State.msixWord (s : State) (k : Nat) : Word32 := Tbl.get (msixDefault k) s.link.msix k

def State.vectorMasked (s : State) (vec : Nat) : Bool := (s.msixWord (4 * vec + 3)).getLsbD 0

/-- The function sends and holds no interrupt in these conditions (R390). -/
def State.deaf (s : State) : Bool := !s.link.up || s.link.d3 || s.link.resetAt.isSome

/-- Raise an interrupt vector (R390): lost, held pending, or sent. -/
def State.raise (s : State) (vec : Nat) : State :=
  if s.deaf then s
  else if s.vectorMasked vec then
    { s with link := { s.link with pba := s.link.pba ||| (1 <<< vec) } }
  else s.emit (.msix vec)

/-- The n-th value of the model where the manual states none (DESIGN CHOICE, log entry 44)
(DESIGN CHOICE, log entry 51) (DESIGN CHOICE, log entry 82) (DESIGN CHOICE, log entry 109). -/
def State.freeWord (s : State) : Word64 := Config.free s.free
def State.drawFree (s : State) : State := { s with free := s.free + 1 }

/-! ### Error register and emergency messages -/

/-- ERRREG (1001h). VOLTAGE follows VIN once a slot has been measured (DEDUCED, log entry 15). -/
def State.errReg (s : State) : Nat :=
  let cur := (s.bit 0x2100 9 0).toNat
  let dv := s.fld 0x2100 8 15 0
  let volt := if s.power.slots ≠ [] ∧ (dv < 3600 ∨ 4200 < dv) then 1 else 0
  let temp := if s.thermal.warn ≠ [] then 1 else 0
  let comm := if s.fld 0x2012 1 17 16 = 1 then 1 else 0
  let integ := if s.fld 0x2420 1 5 0 ≠ 0 then 1 else 0
  let def_ := (s.bit 0x2010 3 0).toNat
  let others := 2 * cur + 4 * volt + 8 * temp + 16 * comm + 32 * integ + 128 * def_
  others + (if others ≠ 0 ∨ s.dev = devFaulted then 1 else 0)

/-- Queue an emergency message (R425): 16 are held, a further one is dropped and counted (DEDUCED, log entry 14). -/
def State.emergency (s : State) (code idx sub bit : Nat) : State :=
  if s.can.running = false then s
  else if s.can.emcy.length < 16 then
    { s with can := { s.can with emcy := s.can.emcy ++
        [⟨BitVec.ofNat 16 code, BitVec.ofNat 8 s.errReg, BitVec.ofNat 16 idx, BitVec.ofNat 8 sub,
          BitVec.ofNat 8 bit, BitVec.ofNat 64 s.ftNs⟩] } }
  else s.count 0x3001 0x0B

/-- A message whose source bit the manual does not name (R425) (DEDUCED, log entry 14). -/
def State.unnamedEmergency (s : State) (code : Nat) : State :=
  let src := Config.emcySource code
  s.emergency code (src >>> 16).toNat ((src >>> 8).toNat % 256) (src.toNat % 256)

/-- After a change of a source of 1001h: code 0x0000 once it has returned to 0 (R425), and the
change marks TPDO2 due (R427). -/
def State.noteErr (s : State) : State :=
  let e := BitVec.ofNat 8 s.errReg
  if e = s.can.errSeen then s
  else
    let s := { s with can := { s.can with errSeen := e, pdo2Due := true } }
    if e = 0 then s.unnamedEmergency 0 else s

/-! ### Events -/

/-- The emergency code a set event bit sends (R218, R425, R462), if any. -/
def emergencyOf (idx sub n : Nat) : Option Nat :=
  if idx = 0x2420 ∧ sub = 1 then [some 0x5010, some 0x5011, some 0x5012, none, none, some 0x5013].getD n none
  else if idx = 0x2100 ∧ sub = 9 then [some 0x2310, some 0x3210, some 0x3220].getD n none
  else if idx = 0x2220 ∧ sub = 1 then [some 0x4210, some 0x4220, some 0x4230, some 0x4240].getD n none
  else if idx = 0x2010 ∧ sub = 3 then some 0x6101
  else none

/-- The vector an event entry raises (R389). -/
def vectorOf (idx sub : Nat) : Option Nat :=
  if idx = 0x2310 then some 16
  else if idx = 0x2420 then some 17
  else if idx = 0x2620 then some 18
  else if 0x2840 ≤ idx ∧ idx < 0x2860 then some 19
  else if idx = 0x2950 then some 20
  else if (idx = 0x2100 ∧ sub = 9) ∨ (idx = 0x2220 ∧ sub = 1) then some 21
  else if idx = 0x2881 then some 23
  else none

/-- A list of numbers that precedes another, place by place. -/
def listLt : List Nat → List Nat → Bool
  | x :: xs, y :: ys => decide (x < y) || (x == y && listLt xs ys)
  | _, _ => false

/-- A write of 1 has cleared the bit in this clock, and an event of this clock leaves it clear (R13). -/
def State.heldClear (s : State) (idx sub n : Nat) : Bool :=
  match Tbl.find s.cleared (regKey idx sub) with
  | some (m, t) => t == s.time.now && m.getLsbD n
  | none => false

/-- Bits of an entry that a write of 1 has cleared now. -/
def State.noteClear (s : State) (idx sub : Nat) (m : Word64) : State :=
  if m = 0 then s
  else
    let mine := s.cleared.filter fun e => e.2.2 == s.time.now
    let old := match Tbl.find mine (regKey idx sub) with
      | some (w, _) => w
      | none => 0
    { s with cleared := Tbl.set mine (regKey idx sub) (old ||| m, s.time.now) }

/-- Set an event bit (R13, R390): only a bit going from 0 to 1 raises its vector and queues its
emergency message. -/
def State.event (s : State) (idx sub n : Nat) : State :=
  if s.bit idx sub n || s.heldClear idx sub n then s
  else
    let s := s.setBit idx sub n true
    let s := match vectorOf idx sub with
      | some v => s.raise v
      | none => s
    let s := match emergencyOf idx sub n with
      | some c => s.emergency c idx sub n
      | none => s
    s.noteErr

end Sys2Proof.Machine
end

