-- ==== Sys2Proof/Machine/Operands.lean ====
section
/-! DEFINITION. The operand forms: addresses, the fields of a matrix descriptor and the shapes it
gives an engine's work, the fields of a job entry and of a collective plan. -/

namespace Sys2Proof.Machine

/-! ### Addresses (R36 to R41) -/

def hbmBytes : Nat := 0x6000000000
def hostWindow : Nat := 0x800000000000

inductive AddrKind | hbm | host | unmapped | remote
deriving DecidableEq, Repr

/-- This module's node number (R330). -/
def State.node (s : State) : Nat := s.fld 0x2910 1 15 0

def addrNode (a : Word64) : Nat := fieldOf a 63 48
def addrLocal (a : Word64) : Nat := fieldOf a 47 0

/-- Node 0xFFFF and the module's own number are local (R40). -/
def State.isLocal (s : State) (a : Word64) : Bool :=
  addrNode a == 0xFFFF || addrNode a == s.node

/-- A range of local physical addresses lies wholly in HBM or in the host window (R36). -/
def localKind (a len : Nat) : AddrKind :=
  if a + len ≤ hbmBytes then .hbm
  else if hostWindow ≤ a ∧ a + len ≤ 2 ^ 48 then .host
  else .unmapped

/-- Host bus address of a window address (R38); none when the sum exceeds 2^64 − 1. -/
def State.hostAddr (s : State) (a : Nat) : Option Nat :=
  let h := (s.reg 0x2A20 1).toNat + (a - hostWindow)
  if h < 2 ^ 64 then some h else none

/-- Where an access of `len` bytes at a global address goes. No node maps a range that ends beyond its
48-bit addresses (R36, R39) (DEDUCED, log entry 115). -/
def State.addrKind (s : State) (a : Word64) (len : Nat) : AddrKind :=
  if s.isLocal a then
    match localKind (addrLocal a) len with
    | .host => if (s.hostAddr (addrLocal a + len - 1)).isSome then .host else .unmapped
    | k => k
  else if addrLocal a + len ≤ 2 ^ 48 then .remote
  else .unmapped

/-! ### Matrix descriptors (R120 to R125) -/

inductive DMode | ws | is | os
deriving DecidableEq, Repr

/-- The fields of a descriptor. -/
structure Desc where
  ver    : Nat
  mode   : Nat
  ssrc   : Bool
  msrc   : Bool
  fmtA   : BitVec 5
  cdst   : Bool
  opaden : Bool
  fmtB   : BitVec 5
  rscl   : Bool
  cscl   : Bool
  biasen : Bool
  fmtC   : BitVec 5
  biasBf : Bool
  calloc : Nat
  rnd    : Nat
  sat    : Bool
  keyed  : Bool
  dregsA : Bool
  dregsB : Bool
  take   : Nat
  takeN  : Nat
  post   : Nat
  postN  : Nat
  m      : Nat
  n      : Nat
  k      : Nat
  fwait  : Nat
  fsig   : Nat
  mctag  : Nat
  mcop   : Nat
  astr   : Nat
  bstr   : Nat
  cstr   : Nat
  mcmask : BitVec 16
  padA   : Nat
  padB   : Nat
  opad   : Nat
  aloc   : Word64
  bloc   : Word64
  cloc   : Word64
  scap   : Nat
  stgs   : Nat
  scbp   : Nat
  stgm   : Nat
  sccp   : Nat
  stgmsz : Nat
  srowp  : Nat
  scolp  : Nat
  biasp  : Nat
  key    : Word64
  orgm   : Nat
  orgn   : Nat
  link   : Nat
deriving DecidableEq, Repr

/-- Word i of a structure. -/
def wordAt (ws : List Word64) (i : Nat) : Word64 := ws.getD i 0

/-- The fields of the sixteen words of a descriptor (R120 to R125). -/
def Desc.ofWords (ws : List Word64) : Desc :=
  let f i := fieldOf (wordAt ws i)
  let b i k : Bool := fieldOf (wordAt ws i) k k == 1
  { ver := f 0 3 0, mode := f 0 5 4, ssrc := b 0 6, msrc := b 0 7
    fmtA := BitVec.ofNat 5 (f 0 12 8), cdst := b 0 13, opaden := b 0 14
    fmtB := BitVec.ofNat 5 (f 0 20 16), rscl := b 0 21, cscl := b 0 22, biasen := b 0 23
    fmtC := BitVec.ofNat 5 (f 0 28 24), biasBf := b 0 29, calloc := f 0 31 30
    rnd := f 0 33 32, sat := b 0 34, keyed := b 0 35, dregsA := b 0 36, dregsB := b 0 37
    take := f 0 43 40, takeN := f 0 47 44, post := f 0 51 48, postN := f 0 55 52
    m := f 1 23 0, n := f 1 47 24
    k := f 2 23 0, fwait := f 2 39 32, fsig := f 2 47 40, mctag := f 2 55 48, mcop := f 2 57 56
    astr := f 3 15 0, bstr := f 3 31 16, cstr := f 3 47 32
    mcmask := BitVec.ofNat 16 (f 3 63 48)
    padA := f 4 15 0, padB := f 4 31 16, opad := f 4 63 32
    aloc := wordAt ws 5, bloc := wordAt ws 6, cloc := wordAt ws 7
    scap := f 8 47 0, stgs := f 8 61 48, scbp := f 9 47 0, stgm := f 9 61 48
    sccp := f 10 47 0, stgmsz := f 10 61 48
    srowp := f 11 47 0, scolp := f 12 47 0, biasp := f 13 47 0
    key := wordAt ws 14, orgm := f 15 23 0, orgn := f 15 47 24, link := f 15 63 48 }

/-- A word holding numbers at bit positions. -/
def packWord (xs : List (Nat × Nat)) : Word64 :=
  BitVec.ofNat 64 (xs.foldl (fun v x => v + x.1 * 2 ^ x.2) 0)

/-- The sixteen words of a descriptor, reserved fields 0 (R12, R120 to R125). -/
def Desc.toWords (d : Desc) : List Word64 :=
  [packWord [(d.ver, 0), (d.mode, 4), (d.ssrc.toNat, 6), (d.msrc.toNat, 7), (d.fmtA.toNat, 8),
     (d.cdst.toNat, 13), (d.opaden.toNat, 14), (d.fmtB.toNat, 16), (d.rscl.toNat, 21),
     (d.cscl.toNat, 22), (d.biasen.toNat, 23), (d.fmtC.toNat, 24), (d.biasBf.toNat, 29),
     (d.calloc, 30), (d.rnd, 32), (d.sat.toNat, 34), (d.keyed.toNat, 35), (d.dregsA.toNat, 36),
     (d.dregsB.toNat, 37), (d.take, 40), (d.takeN, 44), (d.post, 48), (d.postN, 52)],
   packWord [(d.m, 0), (d.n, 24)],
   packWord [(d.k, 0), (d.fwait, 32), (d.fsig, 40), (d.mctag, 48), (d.mcop, 56)],
   packWord [(d.astr, 0), (d.bstr, 16), (d.cstr, 32), (d.mcmask.toNat, 48)],
   packWord [(d.padA, 0), (d.padB, 16), (d.opad, 32)],
   d.aloc, d.bloc, d.cloc,
   packWord [(d.scap, 0), (d.stgs, 48)], packWord [(d.scbp, 0), (d.stgm, 48)],
   packWord [(d.sccp, 0), (d.stgmsz, 48)],
   packWord [(d.srowp, 0)], packWord [(d.scolp, 0)], packWord [(d.biasp, 0)],
   d.key, packWord [(d.orgm, 0), (d.orgn, 24), (d.link, 48)]]

/-- Every field fits its bits. -/
def Desc.fits (d : Desc) : Bool :=
  decide (d.ver < 16 ∧ d.mode < 4 ∧ d.calloc < 4 ∧ d.rnd < 4 ∧ d.take < 16 ∧ d.takeN < 16
    ∧ d.post < 16 ∧ d.postN < 16 ∧ d.m < 2 ^ 24 ∧ d.n < 2 ^ 24 ∧ d.k < 2 ^ 24 ∧ d.fwait < 256
    ∧ d.fsig < 256 ∧ d.mctag < 256 ∧ d.mcop < 4 ∧ d.astr < 2 ^ 16 ∧ d.bstr < 2 ^ 16
    ∧ d.cstr < 2 ^ 16 ∧ d.padA < 2 ^ 16 ∧ d.padB < 2 ^ 16 ∧ d.opad < 2 ^ 32 ∧ d.scap < 2 ^ 48
    ∧ d.stgs < 2 ^ 14 ∧ d.scbp < 2 ^ 48 ∧ d.stgm < 2 ^ 14 ∧ d.sccp < 2 ^ 48
    ∧ d.stgmsz < 2 ^ 14 ∧ d.srowp < 2 ^ 48 ∧ d.scolp < 2 ^ 48 ∧ d.biasp < 2 ^ 48
    ∧ d.orgm < 2 ^ 24 ∧ d.orgn < 2 ^ 24 ∧ d.link < 2 ^ 16)

namespace Desc

def dmode (d : Desc) : DMode := if d.mode = 0 then .ws else if d.mode = 1 then .is else .os

/-- Element formats, FP32 standing in for a reserved code (which R146 refuses). -/
def eltA (d : Desc) : Fmt := (fmtOf d.fmtA).getD (.flt fp32)
def eltB (d : Desc) : Fmt := (fmtOf d.fmtB).getD (.flt fp32)
def eltC (d : Desc) : Fmt := (fmtOf d.fmtC).getD (.flt fp32)
def comp (d : Desc) : Fmt := (computeFmt d.eltA d.eltB).getD (.flt fp32)
/-- Dot length L of the compute format. -/
def dot (d : Desc) : Nat := dotLength d.comp
def mxA (d : Desc) : Bool := codeMx d.fmtA
def mxB (d : Desc) : Bool := codeMx d.fmtB
def mxC (d : Desc) : Bool := codeMx d.fmtC

/-- a over b, rounded up. -/
def ceilDiv (a b : Nat) : Nat := (a + b - 1) / b

/-- Elements of K in one step: 32 L in WS and IS, L in OS (R83). -/
def stepLen (d : Desc) : Nat := if d.dmode = .os then d.dot else 32 * d.dot
/-- Number of K-steps (R83). -/
def steps (d : Desc) : Nat := ceilDiv d.k d.stepLen
/-- Slot size S of an operand of w stored bits (R126). -/
def slot (d : Desc) (w : Nat) : Nat := 128 * ceilDiv (32 * d.dot * w) 1024
def slotA (d : Desc) : Nat := d.slot d.eltA.bits
def slotB (d : Desc) : Nat := d.slot d.eltB.bits
def mBlocks (d : Desc) : Nat := ceilDiv d.m 32
def nBlocks (d : Desc) : Nat := ceilDiv d.n 32
/-- Lines of the moving operand in one tile: up to 1,024 (R82, R83). -/
def tileLen (lines tile : Nat) : Nat := min 1024 (lines - 1024 * tile)
/-- Packed bytes of a row of n elements of w bits: whole groups (R55). -/
def packed (n w : Nat) : Nat := if w = 6 then 3 * ceilDiv n 4 else ceilDiv (n * w) 8

/-- The stationary operand's slot size, lines and element format; the moving operand's. In OS the
row-block area holds A and the ring holds B (R130). -/
def slotS (d : Desc) : Nat := if d.dmode = .ws then d.slotB else d.slotA
def slotM (d : Desc) : Nat := if d.dmode = .ws then d.slotA else d.slotB
def statLines (d : Desc) : Nat := if d.dmode = .ws then d.n else d.m
def movLines (d : Desc) : Nat := if d.dmode = .ws then d.m else d.n
def statElt (d : Desc) : Fmt := if d.dmode = .ws then d.eltB else d.eltA
def movElt (d : Desc) : Fmt := if d.dmode = .ws then d.eltA else d.eltB
def statMx (d : Desc) : Bool := if d.dmode = .ws then d.mxB else d.mxA
def movMx (d : Desc) : Bool := if d.dmode = .ws then d.mxA else d.mxB
def statLoc (d : Desc) : Word64 := if d.dmode = .ws then d.bloc else d.aloc
def movLoc (d : Desc) : Word64 := if d.dmode = .ws then d.aloc else d.bloc
def movStr (d : Desc) : Nat := if d.dmode = .ws then d.astr else d.bstr
def statPad (d : Desc) : Nat := if d.dmode = .ws then d.padB else d.padA
def movPad (d : Desc) : Nat := if d.dmode = .ws then d.padA else d.padB

/-- Tiles of the walk: stationary tiles in WS and IS, output tiles in OS (R82). -/
def tiles (d : Desc) : Nat :=
  if d.dmode = .os then d.mBlocks * d.nBlocks
  else ceilDiv d.movLines 1024 * ceilDiv d.statLines 32 * d.steps

/-- Stationary tile w of the walk: tile of the moving operand, block of lines, K-step (R82). -/
def tileAt (d : Desc) (w : Nat) : Nat × Nat × Nat :=
  let nb := ceilDiv d.statLines 32
  (w / (d.steps * nb), w / d.steps % nb, w % d.steps)

/-- Moving vectors of stationary tile w. -/
def vecsAt (d : Desc) (w : Nat) : Nat := tileLen d.movLines (d.tileAt w).1

/-- The place of a moving chunk in issue order: chunks of all earlier stationary tiles come first
(R130). Every earlier moving tile but this one is full. -/
def chunkAt (d : Desc) (w v : Nat) : Nat :=
  let (mt, nb, t) := d.tileAt w
  1024 * mt * ceilDiv d.statLines 32 * d.steps
    + (nb * d.steps + t) * tileLen d.movLines mt + v

/-- Slots in the moving ring (R130). -/
def ringSlots (d : Desc) : Nat := 128 * d.stgmsz / d.slotM

/-- The element pattern that padding stands for, in the operand's stored format (R133). -/
def padBits (f : Fmt) (pad : Nat) : Nat :=
  match f.bits with
  | 32 => pad * 2 ^ 16
  | w => pad % 2 ^ w

/-- Output padding in the format of C (R135). -/
def opadBits (d : Desc) : Nat := d.opad % 2 ^ d.eltC.bits

/-- Rounding mode of RND (R75): RNE, SR, RTZ. -/
def rndMode (d : Desc) : Option Nat := if d.rnd = 3 then none else some d.rnd

/-! #### Extents (R127, R147) -/

/-- A half-open byte range. -/
abbrev Range := Nat × Nat

def overlap (a b : Range) : Bool := decide (a.1 < b.2 ∧ b.1 < a.2)

/-- Last row's start plus the packed row. -/
def rowsExtent (rows stride bytes : Nat) : Nat :=
  if rows ≤ 1 then bytes else 128 * stride * (rows - 1) + bytes

/-- Byte offset of a location in the cup buffer: the bits above are ignored (DESIGN CHOICE, log entry 128). -/
def locOff (w : Word64) : Nat := fieldOf w 20 0

/-- Cup-buffer extents of a descriptor (R147). -/
def cupExtents (d : Desc) : List Range :=
  let at_ (a n : Nat) : Range := (a, a + n)
  let rowB := packed (if d.opaden then 32 * d.nBlocks else d.n) d.eltC.bits
  (if d.dmode = .os then [at_ (128 * d.stgs) (2 * d.steps * d.slotA)]
   else if d.ssrc then
     [at_ (locOff d.statLoc) (ceilDiv d.statLines 32 * d.steps * 32 * d.slotS)]
   else [at_ (128 * d.stgs) (2 * 32 * d.slotS)])
  ++ (if d.msrc then
        [at_ (locOff d.movLoc) ((if d.movLines ≤ 1 then 0 else 128 * d.movStr * (d.movLines - 1))
          + d.steps * d.slotM)]
      else [at_ (128 * d.stgm) (128 * d.stgmsz)])
  ++ (if d.cdst then
        [at_ (locOff d.cloc) (rowsExtent d.m d.cstr rowB)]
          ++ (if d.mxC then [at_ (d.sccp % 2 ^ 21) (d.m * d.nBlocks)] else [])
      else [])

/-- Cup-buffer areas that fills of a descriptor write. -/
def fillAreas (d : Desc) : List Range :=
  (if d.dmode = .os then [(128 * d.stgs, 128 * d.stgs + 2 * d.steps * d.slotA)]
   else if d.ssrc then [] else [(128 * d.stgs, 128 * d.stgs + 2 * 32 * d.slotS)])
  ++ (if d.msrc then [] else [(128 * d.stgm, 128 * d.stgm + 128 * d.stgmsz)])

/-- Memory extents with their global or local addresses (R127): operands, scales, vectors and
output. -/
def memExtents (d : Desc) : List (Word64 × Nat) :=
  let loc (p : Nat) : Word64 := BitVec.ofNat 64 (0xFFFF000000000000 + p)
  let kb := ceilDiv d.k 32
  let aMem := if d.dmode = .ws then d.msrc == false else d.ssrc == false
  let bMem := if d.dmode = .ws then d.ssrc == false else d.msrc == false
  (if aMem then [(d.aloc, rowsExtent d.m d.astr (packed d.k d.eltA.bits))] else [])
  ++ (if bMem then [(d.bloc, rowsExtent d.n d.bstr (packed d.k d.eltB.bits))] else [])
  ++ (if d.mxA then [(loc d.scap, d.m * kb)] else [])
  ++ (if d.mxB then [(loc d.scbp, d.n * kb)] else [])
  ++ (if d.rscl then [(loc d.srowp, 4 * d.m)] else [])
  ++ (if d.cscl then [(loc d.scolp, 4 * d.n)] else [])
  ++ (if d.biasen then [(loc d.biasp, (if d.biasBf then 2 else 4) * d.n)] else [])
  ++ (if d.cdst then [] else
        [(d.cloc, rowsExtent d.m d.cstr (packed d.n d.eltC.bits))]
          ++ (if d.mxC then [(loc d.sccp, d.m * d.nBlocks)] else []))

/-- Stride × 128 covers the packed row where the operand has two rows or more (R127). -/
def strideOk (rows stride bytes : Nat) : Bool := decide (rows ≤ 1 ∨ bytes ≤ 128 * stride)

end Desc

/-! ### Job entries (R295, R298) -/

namespace Job

def hdr (j : Job) : Word64 := wordAt j.words 0
def ver (j : Job) : Nat := fieldOf j.hdr 3 0
def type (j : Job) : Nat := fieldOf j.hdr 7 4
def irq (j : Job) : Bool := fieldOf j.hdr 8 8 == 1
def serial (j : Job) : Bool := fieldOf j.hdr 9 9 == 1
def dropLate (j : Job) : Bool := fieldOf j.hdr 10 10 == 1
def mej (j : Job) : Bool := fieldOf j.hdr 11 11 == 1
def tgj (j : Job) : Bool := fieldOf j.hdr 12 12 == 1
def tag (j : Job) : Nat := fieldOf j.hdr 31 16
def fwait (j : Job) : Nat := fieldOf j.hdr 39 32
def fsig (j : Job) : Nat := fieldOf j.hdr 47 40
def pwr (j : Job) : Nat := fieldOf j.hdr 63 48
def clmask (j : Job) : Word64 := wordAt j.words 1
def nbt (j : Job) : Nat := (wordAt j.words 2).toNat
def deadline (j : Job) : Nat := (wordAt j.words 3).toNat
def arg (j : Job) (n : Nat) : Word64 := wordAt j.words (4 + n)
def listBase (j : Job) : Nat := fieldOf (j.arg 0) 47 0
def lstep (j : Job) : Nat := fieldOf (j.arg 0) 63 48
def prog (j : Job) : Nat := fieldOf (j.arg 1) 47 0
def grid (j : Job) : Nat := fieldOf (j.arg 2) 23 0
def threads (j : Job) : Nat := fieldOf (j.arg 2) 34 24
def regsN (j : Job) : Nat := fieldOf (j.arg 2) 42 35
def lmem (j : Job) : Nat := fieldOf (j.arg 2) 51 43
def args (j : Job) : Nat := fieldOf (j.arg 3) 47 0
def dur (j : Job) : Nat := fieldOf (j.arg 3) 63 48
/-- COPY. -/
def copyLen (j : Job) : Nat := fieldOf (j.arg 2) 47 0
def noAlloc (j : Job) : Bool := fieldOf (j.arg 2) 48 48 == 1
/-- PREFETCH and PIN. -/
def base (j : Job) : Nat := fieldOf (j.arg 0) 47 0
def len (j : Job) : Nat := fieldOf (j.arg 1) 47 0
def pinCtl (j : Job) : Nat := fieldOf (j.arg 2) 7 0
/-- FENCE: hold pair n as tag and count. -/
def hold (j : Job) (n : Nat) : Nat × Nat :=
  let v := fieldOf (j.arg (n / 4)) (16 * (n % 4) + 15) (16 * (n % 4))
  (v % 256, v / 256)
/-- COLLECTIVE. -/
def plan (j : Job) : Nat := fieldOf (j.arg 0) 47 0

/-- The job's mask selects a cluster. -/
def hasCluster (j : Job) (c : Nat) : Bool := j.clmask.getLsbD c

end Job

/-- The first eight bytes of an entry, packed (R295): VER and TYPE in bits 0 to 7. -/
def jobHdr (ty : Nat) (irq serial drop mej tgj : Bool) (tag fwait fsig pwr : Nat) : Word64 :=
  packWord [(1, 0), (ty, 4), (irq.toNat, 8), (serial.toNat, 9), (drop.toNat, 10), (mej.toNat, 11),
    (tgj.toNat, 12), (tag, 16), (fwait, 32), (fsig, 40), (pwr, 48)]

/-! ### Elements packed in bytes (R55) -/

/-- Element i of w bits in packed bytes: bits i·w and up, bit 0 of byte 0 first. -/
def packedElem (w : Nat) (bytes : List Byte) (i : Nat) : Nat :=
  leNat ((bytes.drop (i * w / 8)).take 5) / 2 ^ (i * w % 8) % 2 ^ w

/-- Elements packed into bytes, first element in the lowest bits. -/
def packElems (w : Nat) (xs : List Nat) : List Byte :=
  leBytes (Desc.packed xs.length w)
    ((xs.zip (List.range xs.length)).foldl (fun a p => a + p.1 % 2 ^ w * 2 ^ (w * p.2)) 0)

end Sys2Proof.Machine
end

