-- ==== Sys2Proof/Machine/Flags.lean ====
section
/-! DEFINITION. The flag computations: the numeric exceptions of R77 and R78, and the clock class
of an engine (R114). -/

namespace Sys2Proof.Machine

/-! ### Numeric exceptions -/

/-- Flags raised by work of a job on a cluster: sticky in NUMEXC (R77) and in the job (R78). -/
def State.raiseExc (s : State) (job : Option Nat) (e : Exc) : State :=
  if e = 0 then s
  else
    let s := s.setReg 0x2500 0x0C (s.reg 0x2500 0x0C ||| e.setWidth 64)
    match job with
    | none => s
    | some id => { s with seq := { s.seq with jobs := s.seq.jobs.map fun j =>
        if j.id = id then { j with exc := j.exc ||| e } else j } }

/-! ### Clusters and jobs -/

def State.cluster (s : State) (c : Nat) : Cluster := Tbl.get Cluster.idle s.clusters c
def State.setCluster (s : State) (c : Nat) (x : Cluster) : State :=
  { s with clusters := Tbl.put Cluster.idle s.clusters c x }

def State.engine (s : State) (c : Nat) : Engine := (s.cluster c).me
def State.setEngine (s : State) (c : Nat) (e : Engine) : State :=
  s.setCluster c { s.cluster c with me := e }

def State.tg (s : State) (c : Nat) : Tg := (s.cluster c).tg
def State.setTg (s : State) (c : Nat) (t : Tg) : State :=
  s.setCluster c { s.cluster c with tg := t }

/-- The cluster presence map (2500h): present, absent, parked. -/
def State.present (s : State) (c : Nat) : Bool := (s.reg 0x2500 1).getLsbD c
def State.absent (s : State) (c : Nat) : Bool := (s.reg 0x2500 2).getLsbD c
def State.parked (s : State) (c : Nat) : Bool := (s.reg 0x2500 3).getLsbD c

def State.job? (s : State) (id : Nat) : Option Job := s.seq.jobs.find? fun j => j.id == id

def State.updJob (s : State) (id : Nat) (f : Job → Job) : State :=
  { s with seq := { s.seq with jobs := s.seq.jobs.map fun j => if j.id = id then f j else j } }

/-- The job running on a cluster. -/
def State.jobOn (s : State) (c : Nat) : Option Job := (s.cluster c).job.bind s.job?

/-- Core clocks stand still: in STOP (R435), and outside the states in which leaves run. -/
def State.coreStopped (s : State) : Bool :=
  s.fld 0x2100 3 3 0 == 8 || s.bring.leafOn == 0

/-! ### Descriptors in an engine -/

def DescRun.d (r : DescRun) : Desc := Desc.ofWords r.words

/-- The descriptor whose operands are to be issued next: the first that has not issued its last. -/
def Engine.current (e : Engine) : Option DescRun := e.descs.find? fun r => !r.issueEnd

def Engine.updDesc (e : Engine) (pos : Nat) (f : DescRun → DescRun) : Engine :=
  { e with descs := e.descs.map fun r => if r.pos = pos then f r else r }

def Engine.desc? (e : Engine) (pos : Nat) : Option DescRun := e.descs.find? fun r => r.pos == pos

/-- The place that the next group of a descriptor takes: a half of the store, or in OS a set of the
units' accumulators (R94, R96). -/
def Engine.place (e : Engine) (d : Desc) : Nat :=
  if d.dmode = .os then 2 + e.set.toNat else e.half.toNat

/-- The group and the accumulators of a place. -/
def Engine.group (e : Engine) (p : Nat) : Option GroupRun := Tbl.find e.groups p
def Engine.setGroup (e : Engine) (p : Nat) (g : Option GroupRun) : Engine :=
  { e with groups := match g with
      | some g => Tbl.set e.groups p g
      | none => e.groups.del p }
def Engine.acc (e : Engine) (p : Nat) : Tbl Acc := Tbl.get [] e.accs p
def Engine.setAcc (e : Engine) (p : Nat) (t : Tbl Acc) : Engine := { e with accs := Tbl.put [] e.accs p t }

/-- A fill of the descriptor has wholly arrived. -/
def DescRun.has (r : DescRun) (sg : Seg) : Bool := sg ∈ r.staged

/-- The element and scale pieces that stationary tile w needs (R91, R130). -/
def DescRun.statSegs (r : DescRun) (w : Nat) : List Seg :=
  let d := r.d
  let (_, nb, t) := d.tileAt w
  let lines := (List.range 32).map (fun i => 32 * nb + i) |>.filter (· < d.statLines)
  let (pe, ps) : SegPart × SegPart := if d.dmode = .ws then (.elemB, .scaleB) else (.elemA, .scaleA)
  (if d.ssrc then [] else lines.map fun l => ⟨r.pos, pe, w, l, t⟩)
  ++ (if d.statMx then lines.map fun l => ⟨r.pos, ps, w, l, t⟩ else [])

/-- The pieces that moving vector v of stationary tile w needs. -/
def DescRun.movSegs (r : DescRun) (w v : Nat) : List Seg :=
  let d := r.d
  let (mt, _, t) := d.tileAt w
  let l := 1024 * mt + v
  let (pe, ps) : SegPart × SegPart := if d.dmode = .ws then (.elemA, .scaleA) else (.elemB, .scaleB)
  let k := d.chunkAt w v
  (if d.msrc then [] else [⟨r.pos, pe, k, l, t⟩])
  ++ (if d.movMx then [⟨r.pos, ps, k, l, t⟩] else [])

/-- The pieces that one K-step of an output tile of OS needs: 32 rows of A and 32 columns of B. -/
def DescRun.osSegs (r : DescRun) (w t : Nat) : List Seg :=
  let d := r.d
  let mb := w / d.nBlocks
  let nb := w % d.nBlocks
  let rows := (List.range 32).map (fun i => 32 * mb + i) |>.filter (· < d.m)
  let cols := (List.range 32).map (fun i => 32 * nb + i) |>.filter (· < d.n)
  let mk (p : SegPart) (ls : List Nat) (walk : Nat) : List Seg := ls.map fun l => ⟨r.pos, p, walk, l, t⟩
  mk .elemA rows mb ++ mk .elemB cols (w * d.steps + t)
  ++ (if d.mxA then mk .scaleA rows (w * d.steps + t) else [])
  ++ (if d.mxB then mk .scaleB cols (w * d.steps + t) else [])

/-- What the next load or issue of a descriptor needs and has not got. -/
def DescRun.missing (r : DescRun) : List Seg :=
  let need :=
    if r.d.dmode = .os then r.osSegs r.tile r.vec
    else if r.loaded then r.movSegs r.tile r.vec
    else r.statSegs r.tile
  need.filter fun sg => !r.has sg

/-- The half or set that the descriptor's next operands go to is not free for them (R94, R96): a
later step of the same group goes on in the group's place. -/
def Engine.halfBusy (e : Engine) (r : DescRun) : Bool :=
  match e.group (e.place r.d) with
  | none => false
  | some g => g.full || g.pos != r.pos

/-- The clock classes of R114. -/
inductive ClockClass | busy | load | outbp | drain | bank | starve | wait | idle
deriving DecidableEq, Repr

def ClockClass.code : ClockClass → Nat
  | .busy => 0 | .load => 1 | .outbp => 2 | .drain => 3 | .bank => 4 | .starve => 5 | .wait => 6
  | .idle => 7

/-- The class a clock of the engine goes to (R114) (DESIGN CHOICE, log entry 106). -/
def Engine.clockClass (e : Engine) : ClockClass :=
  if 0 < e.loadClk then .load
  else if 0 < e.busyClk then .busy
  else if 0 < e.bankClk then .bank
  else
    match e.current with
    | none => if e.descs = [] then .idle else .drain
    | some r =>
      let held := e.halfBusy r && (r.loaded || decide (r.d.dmode = .os))
      if held && e.holding then .outbp
      else if held then .drain
      else if r.missing ≠ [] then .starve
      else .wait

end Sys2Proof.Machine
end

