-- ==== Sys2Proof/Machine/Events.lean ====
section
/-! DEFINITION. Snapshots and the event logs: what an event of the device records beside its bit
(R187, R216, R218, R496 to R498). -/

namespace Sys2Proof.Machine

/-! ### Snapshots (R496 to R498) -/

/-- SNAPCL of a cluster at a latch. -/
def State.snapCl (s : State) (c : Nat) : Word64 :=
  let e := s.engine c
  let desc := match e.current with
    | some r => r.pos
    | none => 0
  match s.jobOn c with
  | some j => packWord [(j.ctx.val, 0), (1, 4), (e.clockClass.code, 5), (desc % 2 ^ 24, 8), (j.tag, 32)]
  | none => packWord [(e.clockClass.code, 5)]

/-- Bits of SNAPINFO.SRC. -/
inductive SnapSrc | ft | pin | write | fault
deriving DecidableEq, Repr

def SnapSrc.bit : SnapSrc → Nat
  | .ft => 16 | .pin => 17 | .write => 18 | .fault => 19

/-- Every counter of 3000h to 3FFFh as it stands. -/
def State.counters (s : State) : Tbl Word64 :=
  s.regs.filter fun e => decide (0x300000 ≤ e.1 ∧ e.1 < 0x400000)

/-- The latch itself: ARM falls, the clusters and counters are held, SYNC_OUT pulses when OUTEN is
1, and the copy to the store begins. -/
def State.snapLatch (s : State) (src : SnapSrc) : State :=
  let seq := (s.fld 0x2C00 3 15 0 + 1) % 2 ^ 16
  let ign := s.fld 0x2C00 3 31 24
  let cls := (List.range 64).map fun c => (c, s.snapCl c)
  let cnt := s.counters
  let s := s.setBit 0x2C00 1 0 false
  let s := s.setReg 0x2C00 3 (packWord [(seq, 0), (1, src.bit), (ign, 24)])
  let s := s.setReg 0x2C00 4 (BitVec.ofNat 64 s.ftNs)
  let s := cls.foldl (fun s p => s.setReg 0x2C10 (p.1 + 1) p.2) s
  let s := { s with snap := ⟨cnt, true, some s.time.now⟩ }
  if s.bit 0x2C00 1 5 then s.emit (.syncOut s.time.ft) else s

/-- A trigger: latches while armed; in the clock of a latch it adds its source; otherwise it is
counted in IGN and does nothing else (DEDUCED, log entry 19). -/
def State.snapTrigger (s : State) (src : SnapSrc) : State :=
  if s.bit 0x2C00 1 0 then s.snapLatch src
  else if s.snap.copying && s.snap.latched == some s.time.now then
    s.setBit 0x2C00 3 src.bit true
  else s.setFld 0x2C00 3 31 24 (min 255 (s.fld 0x2C00 3 31 24 + 1))

/-- A fault while FLTEN is 1 (R496). -/
def State.snapFault (s : State) : State :=
  if s.bit 0x2C00 1 4 then s.snapTrigger .fault else s

/-! ### Integrity events and logs -/

/-- An INTEVENT bit (R218); every one triggers a snapshot (R496). -/
def State.intEvent (s : State) (n : Nat) : State :=
  (s.event 0x2420 1 n).snapFault

/-- An uncorrectable error on a die: the first since bits 0 to 2 were last clear is logged (R218). -/
def State.logUe (s : State) (die loc bit : Nat) : State :=
  let s := if s.fld 0x2420 1 2 0 = 0 ∧ !s.heldClear 0x2420 1 bit then
      s.setReg 0x2420 2 (packWord [(loc % 2 ^ 34, 0), (die, 34), (1, 38)]) else s
  s.intEvent bit

/-- The log of a die: its index and its number of entries. -/
def ceLog (die : Nat) : Nat × Nat := if die < 8 then (0x2438 + die, 16) else (0x2430 + (die - 8), 32)

def ceLoc (w : Word64) : Nat := fieldOf w 33 0
def ceCount (w : Word64) : Nat := fieldOf w 41 34
def ceValid (w : Word64) : Bool := fieldOf w 43 43 == 1

/-- The lowest subindex of a list that satisfies a test. -/
def firstSub (p : Nat → Bool) (n : Nat) : Option Nat := ((List.range n).map (· + 1)).find? p

/-- Entry with the lowest COUNT, the lowest-numbered of them. -/
def State.ceLeast (s : State) (idx n : Nat) : Nat :=
  ((List.range n).map (· + 1)).foldl
    (fun b i => if ceCount (s.reg idx i) < ceCount (s.reg idx b) then i else b) 1

/-- A corrected error at a location updates the log of its die (R216). -/
def State.ceUpdate (s : State) (die loc : Nat) (twoBit : Bool) : State :=
  let (idx, n) := ceLog die
  let mk (count : Nat) : Word64 :=
    packWord [(loc % 2 ^ 34, 0), (count, 34), (twoBit.toNat, 42), (1, 43)]
  let put (i count : Nat) : State := if s.heldClear idx i 43 then s else s.setReg idx i (mk count)
  match firstSub (fun i => ceValid (s.reg idx i) && ceLoc (s.reg idx i) == loc % 2 ^ 34) n with
  | some i => put i (min 255 (ceCount (s.reg idx i) + 1))
  | none =>
    match firstSub (fun i => !ceValid (s.reg idx i)) n with
    | some i => put i 1
    | none => put (s.ceLeast idx n) 1

/-- Counter entry of an integrity die (R217): stacks 0–7, caddies 8 and 9, leaves 10–13, spout 14. -/
def intCounter (die : Nat) : Nat := if die < 8 then 0x3400 + die else 0x3410 + (die - 8)

/-- A corrected error: counted, and logged for stacks and caddies. -/
def State.corrected (s : State) (die loc : Nat) (twoBit : Bool) : State :=
  let s := s.count (intCounter die) 1
  if die < 10 then s.ceUpdate die loc twoBit else s

/-- A corrected word is to be written back (R207). -/
def State.addFixup (s : State) : State := { s with caddy := { s.caddy with fixups := s.caddy.fixups + 1 } }

/-- A word of a cluster or spout SRAM read with wrong bits: put right, or lost as `lose` says (R207, R217,
R218). -/
def State.sramWord (s : State) (die word bits : Nat) (lose : State → State) : State :=
  if bits = 0 then s
  else if bits ≤ 2 then (s.corrected die word (bits == 2)).addFixup
  else (((lose s).count (intCounter die) 3).count (intCounter die) 5).logUe die word 2

/-- Poisoned words that a cluster consumes (R217) (DEDUCED, log entry 117). -/
def State.consumed (s : State) (die n : Nat) : State := if n = 0 then s else s.count (intCounter die) 7 n

/-- A read-after-last-use (R174, R187): the first since both bits were clear is logged. -/
def State.ralu (s : State) (caddy pa src : Nat) : State :=
  let s := if s.fld 0x2310 0x0C 1 0 = 0 ∧ !s.heldClear 0x2310 0x0C caddy then
      s.setReg 0x2310 0x0D (packWord [(pa / 128 * 128 % 2 ^ 48, 0), (src, 48), (1, 53)]) else s
  s.event 0x2310 0x0C caddy

/-- A thrash event of a caddy (R186, R187). -/
def State.thrash (s : State) (caddy slice count : Nat) : State :=
  let s := if s.fld 0x2310 0x0C 3 2 = 0 ∧ !s.heldClear 0x2310 0x0C (2 + caddy) then
      s.setReg 0x2310 0x0E (packWord [(caddy, 0), (slice, 1), (min count 65535, 9), (1, 25)]) else s
  s.event 0x2310 0x0C (2 + caddy)

end Sys2Proof.Machine
end

