-- ==== Sys2Proof/Machine/Memory.lean ====
section
/-! DEFINITION. Where a line lives, the lines of the caddies, the sectors of HBM, and the read, the
write and the atomic that a home slice performs (05_caddy_cache.md, R190 to R195, R210, R211). -/

namespace Sys2Proof.Machine

/-! ### Homes (R151, R152, R191) -/

/-- Bits [hi:lo] of a number. -/
def bitsOf (v hi lo : Nat) : Nat := v / 2 ^ lo % 2 ^ (hi + 1 - lo)

/-- Exclusive or of the fields of w bits from bit `lo` on, n of them. -/
def foldXor (v lo w n : Nat) : Nat :=
  (List.range n).foldl (fun a i => a ^^^ bitsOf v (lo + w * i + w - 1) (lo + w * i)) 0

/-- Placement of a region: 0 spread, 1 local to C0, 2 local to C1 (R37). -/
def State.placement (s : State) (region : Nat) : Nat :=
  s.fld 0x2320 (region / 16 + 1) (2 * (region % 16) + 1) (2 * (region % 16))

/-- Home stack of a local physical address in a placement (R151). -/
def stackAt (placement pa : Nat) : Nat :=
  if placement = 0 then foldXor pa 12 3 9
  else 4 * (placement - 1) + (bitsOf pa 38 38 ^^^ foldXor pa 12 2 13)

/-- Home caddy (R151). -/
def homeAt (placement pa : Nat) : Nat :=
  if placement = 0 then stackAt 0 pa / 4 else placement - 1

/-- (DEDUCED, log entry 110.) -/
def State.stackOf (s : State) (pa : Nat) : Nat := stackAt (s.placement (bitsOf pa 38 30)) pa
def State.homeOf (s : State) (pa : Nat) : Nat := homeAt (s.placement (bitsOf pa 38 30)) pa

/-- Slice and set of a line (R152). -/
def sliceFn (pa : Nat) : Nat := bitsOf pa 14 7 ^^^ bitsOf pa 22 15 ^^^ bitsOf pa 30 23 ^^^ bitsOf pa 38 31
def setFn (pa : Nat) : Nat := bitsOf pa 25 15 ^^^ bitsOf pa 36 26 ^^^ bitsOf pa 38 37

/-- Channel and pseudo-channel in the home stack (R191). -/
def channelFn (pa : Nat) : Nat := bitsOf pa 11 7 ^^^ bitsOf pa 20 16
def pseudoFn (pa : Nat) : Nat := bitsOf pa 15 15 ^^^ bitsOf pa 21 21

/-- State of channel ch of a caddy (R491, R492). -/
def State.chan (s : State) (cad ch : Nat) : Chan := Tbl.get Chan.init s.lanes.chans (256 * cad + ch)

/-- A channel is retired, and has not returned to service (R492). -/
def Chan.out (c : Chan) : Bool := c.ret && !c.back

/-- A slice retires with its channel (R189). -/
def State.sliceRetired (s : State) (cad sl : Nat) : Bool := (s.chan cad sl).out

/-- The slice that serves slice function value f: the nearest from f upward that is not retired. -/
def State.sliceFor (s : State) (cad f : Nat) : Nat :=
  (((List.range 256).map fun i => (f + i) % 256).find? fun sl => !s.sliceRetired cad sl).getD f

def State.sliceOf (s : State) (pa : Nat) : Nat := s.sliceFor (s.homeOf pa) (sliceFn pa)

/-! ### Lines -/

/-- Key of a way. -/
def wayKey (cad slice set way : Nat) : Nat := ((cad * 256 + slice) * 2048 + set) * 24 + way

def State.line (s : State) (key : Nat) : Line := Tbl.get Line.empty s.caddy.lines key
def State.setLine (s : State) (key : Nat) (l : Line) : State :=
  { s with caddy := { s.caddy with lines := Tbl.put Line.empty s.caddy.lines key l } }

/-- First way key of the set that serves an address. -/
def State.setBase (s : State) (pa : Nat) : Nat :=
  wayKey (s.homeOf pa) (s.sliceOf pa) (setFn pa) 0

/-- The way that holds a line (R149): present while a sector is valid. -/
def State.findWay (s : State) (pa : Nat) : Option Nat :=
  ((List.range 24).map (s.setBase pa + ·)).find? fun k =>
    let l := s.line k
    l.valid != 0 && l.tag.toNat == pa / 128

/-- Sector j of a line. -/
def Line.sector (l : Line) (j : Nat) : BitVec 256 := (l.data >>> (256 * j)).setWidth 256
def Line.putSector (l : Line) (j : Nat) (v : BitVec 256) : Line :=
  { l with data := (l.data &&& ~~~((BitVec.ofNat 1024 (2 ^ 256 - 1)) <<< (256 * j)))
             ||| (v.setWidth 1024 <<< (256 * j)) }
def Line.setBits (l : Line) (j : Nat) (valid dirty poison : Bool) : Line :=
  let b (x : BitVec 4) (v : Bool) : BitVec 4 := if v then x ||| ((1 : BitVec 4) <<< j) else x &&& ~~~((1 : BitVec 4) <<< j)
  { l with valid := b l.valid valid, dirty := b l.dirty dirty, poison := b l.poison poison }

/-- Sectors are numbered by pa / 32. -/
def sectorsOf (pa len : Nat) : List Nat :=
  if len = 0 then [] else (List.range ((pa + len - 1) / 32 - pa / 32 + 1)).map (pa / 32 + ·)

def bvBytes (v : BitVec 256) : List Byte := leBytes 32 v.toNat
def bytesBv (bs : List Byte) : BitVec 256 := BitVec.ofNat 256 (leNat bs)

/-! ### HBM sectors -/

/-- A stack did not train and is absent (R190). -/
def State.stackAbsent (s : State) (stack : Nat) : Bool := s.hbm.absent.getLsbD stack

/-- The cell of a sector: its home stack, and its address within it (DEDUCED, log entry 110). -/
def State.cellOf (s : State) (sec : Nat) : Nat := s.stackOf (32 * sec) * 2 ^ 39 + 32 * sec

/-- The contents and poison of a sector as HBM holds them; an absent stack reads poisoned (R470)
(DESIGN CHOICE, log entry 6). -/
def State.hbmGet (s : State) (sec : Nat) : BitVec 256 × Bool :=
  if s.stackAbsent (s.stackOf (32 * sec)) then (0, true)
  else
    let a := s.cellOf sec
    (bytesBv (Mem.read s.hbm.mem a 32), decide (a / 32 ∈ s.hbm.poison))

/-- Store a sector; writes to an absent stack are discarded (R470). -/
def State.hbmPut (s : State) (sec : Nat) (v : BitVec 256) (poison : Bool) : State :=
  if s.stackAbsent (s.stackOf (32 * sec)) then s
  else
    let a := s.cellOf sec
    { s with hbm := { s.hbm with
        mem := Mem.write s.hbm.mem a (bvBytes v)
        poison := if poison then insertNat (a / 32) (s.hbm.poison.filter (· ≠ a / 32))
                  else s.hbm.poison.filter (· ≠ a / 32) } }

/-- Bytes under a mask replaced. -/
def mergeBytes (old new : BitVec 256) (mask : BitVec 32) : BitVec 256 :=
  bytesBv (((List.range 32).zip ((bvBytes old).zip (bvBytes new))).map fun p =>
    if mask.getLsbD p.1 then p.2.2 else p.2.1)

/-- Contents of a sector under the writes queued for it (R192). A write of a whole sector sets its poison;
one of part of a poisoned sector leaves it poisoned (R211). -/
def State.overlay (s : State) (sec : Nat) (x : BitVec 256 × Bool) : BitVec 256 × Bool :=
  (s.hbm.queue.filter fun q => q.write && q.sector == sec).foldl
    (fun x q => (mergeBytes x.1 q.data q.mask,
      q.poisoned || (x.2 && q.mask != BitVec.allOnes 32))) x

/-- What the sector will hold once the writes queued for it have been issued. -/
def State.hbmView (s : State) (sec : Nat) : BitVec 256 × Bool := s.overlay sec (s.hbmGet sec)

/-- Add a request to a pseudo-channel's queues, with the next number. -/
def State.hbmEnqueue (s : State) (q : HbmReq) : State :=
  { s with nextReq := s.nextReq + 1
           hbm := { s.hbm with queue := s.hbm.queue ++ [{ q with id := s.nextReq }] } }

/-- Queue a write of a sector (R192). -/
def State.hbmWrite (s : State) (nc : Fin 7) (sec : Nat) (v : BitVec 256) (mask : BitVec 32)
    (poison : Bool) : State :=
  s.hbmEnqueue ⟨0, sec, true, v, mask, poison, nc, none, false, false, false, false⟩

/-- A read of a sector is outstanding, but for a scrub read. -/
def State.fetching (s : State) (sec : Nat) : Bool :=
  s.hbm.queue.any fun q => !q.write && !q.scrub && q.sector == sec

/-- Queue a read of a sector, unless one is outstanding (R159). -/
def State.hbmRead (s : State) (nc : Fin 7) (sec : Nat) (deadline : Option (BitVec 24))
    (prefetch noAlloc : Bool) : State :=
  if s.fetching sec then s
  else
    let s := s.count (0x3420 + nc.val) 5 32
    s.hbmEnqueue ⟨0, sec, false, 0, 0, false, nc, deadline, false, prefetch, noAlloc, false⟩

/-! ### Masters (R187, R198) -/

def Master.nc : Master → Fin 7
  | .engine _ => 0 | .tg _ => 1 | .seqr => 2 | .copy _ => 2 | .peer _ => 3 | .egress => 4
  | .pcie => 5 | .scrub => 6

/-- RALULOG.SRC of a master (DEDUCED, log entry 24). -/
def State.srcOf (s : State) (m : Master) : Nat :=
  match m with
  | .engine c | .tg c => match s.jobOn c with
    | some j => j.ctx.val
    | none => 0
  | .pcie => 0x10
  | .peer _ => 0x11
  | _ => 0x12

/-- The leaf of a cluster, and its caddy: leaves 0 and 1 stand on C0 (R15). -/
def leafOf (c : Nat) : Nat := c / 16
def caddyOf (c : Nat) : Nat := c / 32

/-- Leaf die of a cluster in the integrity counters. -/
def leafDie (cl : Nat) : Nat := 10 + leafOf cl

def Master.cluster? : Master → Option Nat
  | .engine c | .tg c => some c.val
  | _ => none

/-- Count a request that crosses the saucer link from a caddy (R157, R188). -/
def State.countSaucer (s : State) (cad : Nat) : State := s.count (0x3300 + cad) 0x13

/-! ### Pinned ranges (R182 to R185) -/

/-- A slot of PINRANGE: first granule, granules, owner, where valid. -/
def State.pinSlot (s : State) (i : Nat) : Option (Nat × Nat × Nat) :=
  let w := s.reg 0x2312 (i + 1)
  if fieldOf w 59 59 = 1 then some (fieldOf w 26 0, fieldOf w 53 27, fieldOf w 58 54) else none

def State.pinSlots (s : State) : List (Nat × Nat × Nat × Nat) :=
  (List.range 64).filterMap fun i => (s.pinSlot i).map (i, ·)

/-- The address lies in a pinned range. -/
def State.pinnedAt (s : State) (pa : Nat) : Bool :=
  s.pinSlots.any fun p => decide (p.2.1 ≤ pa / 4096 ∧ pa / 4096 < p.2.1 + p.2.2.1)

def State.pinWays (s : State) : Nat := s.fld 0x2310 4 4 0

/-! ### Replacement (R163) -/

/-- Bound on rounds: ages rise to 3 in three. -/
def ageRounds : Nat := 4

/-- The victim of a set of 24 ways, and the ways after ageing. -/
def pickVictim : Nat → List Line → Option (Nat × List Line)
  | 0, _ => none
  | n + 1, ls =>
    match ls.findIdx? fun l => !l.pinned && decide (3 ≤ l.age) with
    | some i => some (i, ls)
    | none => pickVictim n (ls.map fun l => if l.pinned then l else { l with age := l.age + 1 })

/-- The slice monitor of a slice. -/
def State.mon (s : State) (k : Nat) : SliceMon := Tbl.get SliceMon.init s.caddy.mon k
def State.setMon (s : State) (k : Nat) (m : SliceMon) : State :=
  { s with caddy := { s.caddy with mon := Tbl.put SliceMon.init s.caddy.mon k m } }

/-- Write back the dirty sectors of a way, which stay valid and clean (R163, R211). -/
def State.writeBack (s : State) (key : Nat) (nc : Fin 7) : State :=
  let l := s.line key
  let cad := key / (256 * 2048 * 24)
  let s := (List.range 4).foldl (fun s j =>
    if l.dirty.getLsbD j then
      ((s.hbmWrite nc (4 * l.tag.toNat + j) (l.sector j) (BitVec.allOnes 32) (l.poison.getLsbD j)).count
        (0x3300 + cad) 7).count (0x3420 + nc.val) 5 32
    else s) s
  s.setLine key { l with dirty := 0 }

/-- Evict a way: its dirty sectors are written back and the line leaves; an unpinned line enters
the victim table (R186). -/
def State.evict (s : State) (key : Nat) (nc : Fin 7) : State :=
  let l := s.line key
  let cad := key / (256 * 2048 * 24)
  let mk := key / (2048 * 24)
  let s := s.writeBack key nc
  let m := s.mon mk
  let s := if l.pinned then s else
    (s.setMon mk { m with victims := (l.tag.toNat :: m.victims).take 64, evicted := m.evicted + 1 }).count
      (0x3300 + cad) 9
  s.setLine key Line.empty

/-- A miss that allocates a line of the victim table counts as a re-fetch (R186). -/
def State.noteRefetch (s : State) (pa : Nat) : State :=
  let cad := s.homeOf pa
  let mk := cad * 256 + s.sliceOf pa
  let m := s.mon mk
  if pa / 128 ∈ m.victims then
    (s.setMon mk { m with victims := m.victims.filter (· ≠ pa / 128), refetch := m.refetch + 1 }).count
      (0x3300 + cad) 0x0B
  else s

/-- Allocate a line in its set (R163), pinned where a range covers it and the set has room (R182,
R189): the key of its way. Of an overfull set the first lines allocated are pinned, and pinned bits that a kill
has left take room until its walk (DESIGN CHOICE, log entries 132 and 133). -/
def State.allocate (s : State) (pa : Nat) (nc : Fin 7) : State × Nat :=
  let s := s.noteRefetch pa
  let base := s.setBase pa
  let ways := (List.range 24).map fun i => s.line (base + i)
  let (s, way) : State × Nat := match ways.findIdx? fun l => l.valid == 0 with
    | some i => (s, i)
    | none => match pickVictim ageRounds ways with
      | some (i, aged) =>
        ((((List.range 24).zip aged).foldl (fun (s : State) p => s.setLine (base + p.1) p.2) s).evict
          (base + i) nc, i)
      | none => (s, 0)
  let inRange := s.pinnedAt pa
  let held := (ways.filter fun (l : Line) => l.pinned && l.valid != 0).length
  let pin := inRange && decide (held < s.pinWays)
  let s := if inRange && !pin then s.event 0x2310 0x0C (4 + s.homeOf pa) else s
  (s.setLine (base + way) ⟨BitVec.ofNat 32 (pa / 128), 0, 0, 0, pin, 2, 0⟩, base + way)

/-- The way of a line, allocated where it is absent. -/
def State.wayOf (s : State) (pa : Nat) (nc : Fin 7) : State × Nat :=
  match s.findWay pa with
  | some k => (s, k)
  | none => s.allocate pa nc

/-- A fetched sector enters its line (R159); a sector valid by then holds newer data. -/
def State.fillSector (s : State) (sec : Nat) (v : BitVec 256) (poison : Bool) (nc : Fin 7) : State :=
  let (s, k) := s.wayOf (32 * sec) nc
  let l := s.line k
  if l.valid.getLsbD (sec % 4) then s
  else s.setLine k ((l.putSector (sec % 4) v).setBits (sec % 4) true false poison)

/-- A valid sector of a present line. -/
def State.sectorIn (s : State) (sec : Nat) : Option (BitVec 256 × Bool) :=
  match s.findWay (32 * sec) with
  | some k =>
    let l := s.line k
    if l.valid.getLsbD (sec % 4) then some (l.sector (sec % 4), l.poison.getLsbD (sec % 4)) else none
  | none => none

/-- A hit sets the line's age to 0. -/
def State.touch (s : State) (pa : Nat) : State :=
  match s.findWay pa with
  | some k => s.setLine k { s.line k with age := 0 }
  | none => s

/-! ### The dregs guard (R171 to R177) -/

def State.guard (s : State) (cad : Nat) : List Nat := if cad = 0 then s.caddy.guard0 else s.caddy.guard1
def State.setGuard (s : State) (cad : Nat) (g : List Nat) : State :=
  { s with caddy := if cad = 0 then { s.caddy with guard0 := g } else { s.caddy with guard1 := g } }

def State.guardOn (s : State) : Bool := s.bit 0x2310 8 0
def State.guarded (s : State) (pa : Nat) : Bool :=
  s.guardOn && decide (pa / 128 ∈ s.guard (s.homeOf pa))

/-- Enter a line as the newest of 4,096 (R173). -/
def guardAdd (g : List Nat) (line : Nat) : List Nat :=
  let g := g.filter (· ≠ line) ++ [line]
  g.drop (g.length - 4096)

def State.guardEnter (s : State) (pa : Nat) : State :=
  if s.guardOn then s.setGuard (s.homeOf pa) (guardAdd (s.guard (s.homeOf pa)) (pa / 128)) else s

/-- A write to a line in the guard removes the entry (R175). -/
def State.guardLeave (s : State) (pa : Nat) : State :=
  s.setGuard (s.homeOf pa) ((s.guard (s.homeOf pa)).filter (· ≠ pa / 128))

/-- A read or an atomic of a guarded line (R174). -/
def State.guardHit (s : State) (pa : Nat) (m : Master) (marked : Bool) : State :=
  let cad := s.homeOf pa
  let s := if marked then s.guardEnter pa else s
  (s.ralu cad pa (s.srcOf m)).count (0x3300 + cad) 0x0F

/-- Drop a line without write-back and enter it in the guard (R171). -/
def State.dropLine (s : State) (pa : Nat) : State :=
  let s := match s.findWay pa with
    | some k => (s.setLine k Line.empty).count (0x3300 + s.homeOf pa) 0x0D
    | none => s
  s.guardEnter pa

/-- Pinned line, present or to be allocated: a mark on it is ignored (R177). -/
def State.linePinned (s : State) (pa : Nat) : Bool :=
  match s.findWay pa with
  | some k => (s.line k).pinned
  | none => s.pinnedAt pa

/-! ### The operations a home slice performs -/

/-- Poisoned sectors answered to a read or an atomic (R217) (DEDUCED, log entry 117). -/
def State.countConsumed (s : State) (cad n : Nat) : State := s.consumed (8 + cad) n

/-- Bytes of a read from the sectors that hold them. -/
def cutBytes (pa len : Nat) (xs : List (BitVec 256 × Bool)) : List Byte :=
  (((xs.map fun x => bvBytes x.1).flatten).drop (pa % 32)).take len

/-- Pieces of a range by line. -/
def linePieces : Nat → Nat → Nat → List (Nat × Nat)
  | 0, _, _ => []
  | fuel + 1, pa, len =>
    if len = 0 then []
    else
      let n := min len (128 - pa % 128)
      (pa, n) :: linePieces fuel (pa + n) (len - n)

def piecesOf (pa len : Nat) : List (Nat × Nat) := linePieces (len / 128 + 2) pa len

/-- One sector of a write: its new contents and poison from the old (R211). `lo` and `bs` are the
first byte in the sector and the bytes. -/
def mergeSector (old : BitVec 256) (oldPois : Bool) (lo : Nat) (bs : List Byte) (pois : Bool) :
    BitVec 256 × Bool :=
  let whole := decide (lo = 0 ∧ bs.length = 32)
  let new := bytesBv ((bvBytes old).take lo ++ bs ++ (bvBytes old).drop (lo + bs.length))
  (new, pois || (oldPois && !whole))

/-- Bytes of a sector's mask. -/
def byteMask (lo n : Nat) : BitVec 32 := BitVec.ofNat 32 ((2 ^ n - 1) * 2 ^ lo)

/-- Write one sector of a line in the caddy (R160); a sector written in part has been fetched before. -/
def State.writeSectorIn (s : State) (sec lo : Nat) (bs : List Byte) (pois : Bool) (nc : Fin 7) : State :=
  let (s, k) := s.wayOf (32 * sec) nc
  let l := s.line k
  let x := mergeSector (l.sector (sec % 4)) (l.poison.getLsbD (sec % 4)) lo bs pois
  (s.setLine k ((l.putSector (sec % 4) x.1).setBits (sec % 4) true true x.2)).count
    (0x3300 + s.homeOf (32 * sec)) 5

/-- Pieces of bytes by sector: sector, first byte in it, bytes. -/
def sectorPieces (pa : Nat) (bs : List Byte) : List (Nat × Nat × List Byte) :=
  (sectorsOf pa bs.length).map fun sec =>
    let start := max pa (32 * sec)
    let stop := min (pa + bs.length) (32 * sec + 32)
    (sec, start % 32, (bs.drop (start - pa)).take (stop - start))

/-- A write within one line, as the home slice handles it (R160, R175). `pois` says of each sector
written whether its data is poisoned. What goes to HBM past an absent line does not count as written in the
caddy (DESIGN CHOICE, log entry 131). -/
def State.writeLine (s : State) (pa : Nat) (bs : List Byte) (pois : Nat → Bool) (alloc : Bool)
    (m : Master) : State :=
  let s := (s.count (0x3420 + m.nc.val) 3 bs.length).guardLeave pa
  let here := (s.findWay pa).isSome
  let s := if here then s.touch pa else s
  (sectorPieces pa bs).foldl (fun s p =>
    if here || alloc then s.writeSectorIn p.1 p.2.1 p.2.2 (pois p.1) m.nc
    else
      let data := bytesBv (List.replicate p.2.1 0 ++ p.2.2)
      s.hbmWrite m.nc p.1 data (byteMask p.2.1 p.2.2.length) (pois p.1)) s

/-! ### Atomics (R168, R259) -/

/-- Operations and types that go together (R259). -/
def atomForm (op : AtomOp) (ty : AtomTy) : Bool :=
  match op with
  | .add | .min | .max => decide (ty ∈ [.i32, .u32, .i64, .f32])
  | _ => decide (ty ∈ [.b32, .b64])

def atomWidth : AtomTy → Nat
  | .i64 | .b64 => 8
  | _ => 4

/-- FP32 values in order, −0 below +0 (R261). -/
def fltOrder (w : Word32) : Int :=
  let mag : Int := ((w &&& 0x7FFFFFFF).toNat : Int)
  if w.getLsbD 31 then -mag - 1 else mag

/-- FP32 minimum or maximum: of a NaN and another value, the other (R261); of two, the NaN the device
writes (R51). -/
def fltPick (least : Bool) (a b : Word32) : Word32 :=
  if (ofWord a).isNan then (if (ofWord b).isNan then BitVec.ofNat 32 fp32.nan else b)
  else if (ofWord b).isNan then a
  else if decide (fltOrder a ≤ fltOrder b) == least then a else b

/-- The new value of an atomic from the old and the operands (b: the compare-and-swap's new value). -/
def atomValue (op : AtomOp) (ty : AtomTy) (old a b : Word64) : Word64 :=
  let w32 (f : Word32 → Word32 → Word32) : Word64 :=
    (f (old.setWidth 32) (a.setWidth 32)).setWidth 64
  let wide := atomWidth ty == 8
  match op with
  | .add => if ty = .f32 then w32 (fun x y => (addRne x y).1)
      else if wide then old + a else w32 (· + ·)
  | .min => match ty with
      | .f32 => w32 (fltPick true)
      | .u32 => w32 fun x y => if x.toNat ≤ y.toNat then x else y
      | .i64 => if old.toInt ≤ a.toInt then old else a
      | _ => w32 fun x y => if x.toInt ≤ y.toInt then x else y
  | .max => match ty with
      | .f32 => w32 (fltPick false)
      | .u32 => w32 fun x y => if y.toNat ≤ x.toNat then x else y
      | .i64 => if a.toInt ≤ old.toInt then old else a
      | _ => w32 fun x y => if y.toInt ≤ x.toInt then x else y
  | .and => old &&& a
  | .or => old ||| a
  | .xor => old ^^^ a
  | .exch => a
  | .cas => if old = a then b else old

/-- One thread after another, each receiving the value before its own operand (R260). -/
def atomEach (op : AtomOp) (ty : AtomTy) : Word64 → List (Word64 × Word64) → Word64 × List Word64
  | old, [] => (old, [])
  | old, x :: xs =>
    let (new, olds) := atomEach op ty (atomValue op ty old x.1 x.2) xs
    (new, old :: olds)

/-- The exact sums of the operands before each thread, and of all (R261). -/
def prefixSums (old : Num) (xs : List Num) : List Num :=
  (List.range (xs.length + 1)).map fun i => sumExact (old :: xs.take i)

/-- A combined atomic (R260, R261): the new value, and what each thread receives. -/
def atomAll (op : AtomOp) (ty : AtomTy) (old : Word64) (xs : List (Word64 × Word64)) :
    Word64 × List Word64 :=
  if op = .add ∧ ty = .f32 then
    let first := old.setWidth 32
    let sums := prefixSums (ofWord first) (xs.map fun x => ofWord (x.1.setWidth 32))
    let r (x : Num) : Word64 := (rne32 x).setWidth 64
    (r (sums.getLastD (ofWord first)), old :: ((sums.drop 1).take (xs.length - 1)).map r)
  else atomEach op ty old xs

/-- Flags of a combined FP32 atomic (R77): of the sums that its threads and memory receive, and NANIN where
any input is NaN (DEDUCED, log entry 122). -/
def atomExc (op : AtomOp) (ty : AtomTy) (old : Word64) (xs : List (Word64 × Word64)) : Exc :=
  if ty ≠ .f32 then 0
  else
    let ins := ofWord (old.setWidth 32) :: xs.map fun x => ofWord (x.1.setWidth 32)
    let sums := if op = .add then (List.range xs.length).map fun i => ins.take (i + 2) else []
    sums.foldl (fun e ys => e ||| (rne32x (sumExact ys)).2 ||| opExc ys (sumExact ys))
      (if ins.any Num.isNan then Exc.nanin else 0)

/-- What an atomic leaves: the state, what its operands receive, whether it came poisoned, its flags. -/
structure Atomic where
  st   : State
  olds : List Word64
  bad  : Bool
  exc  : Exc

/-- An atomic in its home slice, on a sector that has been fetched (R168, R174). A poisoned sector is left as
it is (R213); a poisoned operand poisons the sector that takes its result (R210) (DEDUCED, log entry 117). -/
def State.hbmAtomic (s : State) (pa : Nat) (op : AtomOp) (ty : AtomTy)
    (xs : List (Word64 × Word64)) (m : Master) (opBad : Bool) : Atomic :=
  let n := atomWidth ty
  if s.guarded pa then ⟨(s.guardHit pa m false).countConsumed (s.homeOf pa) 1, xs.map fun _ => 0, true, 0⟩
  else
    let x := (s.sectorIn (pa / 32)).getD (0, true)
    let s := s.touch pa
    let old := BitVec.ofNat 64 (leNat (cutBytes pa n [x]))
    if x.2 then ⟨s.countConsumed (s.homeOf pa) 1, xs.map fun _ => old, true, 0⟩
    else
      let (new, olds) := atomAll op ty old xs
      let s := (s.count (0x3420 + m.nc.val) 1 n).count (0x3420 + m.nc.val) 3 n
      ⟨s.writeSectorIn (pa / 32) (pa % 32) (leBytes n new.toNat) opBad m.nc, olds, false,
        if opBad then 0 else atomExc op ty old xs⟩

end Sys2Proof.Machine
end

