-- ==== Sys2Proof/Machine/FabricOps.lean ====
section
/-! DEFINITION. The switch and the sending side of Morotik: ports, routes, egress queues, packets
and connections (10_fabric_links.md, 11_fabric_transport.md). -/

namespace Sys2Proof

/-! ### Packets (R351) -/

def MFrame.ver (f : MFrame) : Nat := f.w0.toNat / 2 ^ 28
def MFrame.op (f : MFrame) : Nat := f.w0.toNat / 2 ^ 24 % 16
def MFrame.vl (f : MFrame) : Nat := f.w0.toNat / 2 ^ 22 % 4
def MFrame.pm (f : MFrame) : Bool := f.w0.getLsbD 21
def MFrame.ece (f : MFrame) : Bool := f.w0.getLsbD 20
def MFrame.timed (f : MFrame) : Bool := f.w0.getLsbD 19
def MFrame.rsy (f : MFrame) : Bool := f.w0.getLsbD 18
def MFrame.bootid (f : MFrame) : BitVec 16 := f.w0.setWidth 16
def MFrame.psn (f : MFrame) : BitVec 24 := (f.w1 >>> 8).setWidth 24
def MFrame.status (f : MFrame) : Nat := f.w1.toNat % 256
def MFrame.len (f : MFrame) : Nat := f.w2.toNat / 2 ^ 16
def MFrame.tag (f : MFrame) : Nat := f.w2.toNat % 2 ^ 16
def MFrame.addr (f : MFrame) : Word64 := f.w3 ++ f.w4
def MFrame.aop (f : MFrame) : Nat := f.w5.toNat / 2 ^ 28
def MFrame.atype (f : MFrame) : Nat := f.w5.toNat / 2 ^ 24 % 16

/-- Class of a packet: the k of its VL (R340). -/
def MFrame.cls (f : MFrame) : Nat := f.vl / 2

/-- Bytes of the frame from destination address to FCS (R327). A frame with another EtherType has behind it what
its payload holds. -/
def MFrame.bytes (f : MFrame) : Nat :=
  if f.ety = 0x86DD then 94 + (if f.pm then 16 else 0) + f.payload.length else max 64 (18 + f.payload.length)

/-- Payload sector i is poisoned (R352). -/
def MFrame.sectorPois (f : MFrame) (i : Nat) : Bool := f.pm && f.pmask.getLsbD i

end Sys2Proof

namespace Sys2Proof.Machine


/-- Header word 0 (R351). -/
def mkW0 (op vl : Nat) (pm ece timed rsy : Bool) (boot : BitVec 16) : Word32 :=
  BitVec.ofNat 32 (2 ^ 28 + op % 16 * 2 ^ 24 + vl % 4 * 2 ^ 22 + pm.toNat * 2 ^ 21
    + ece.toNat * 2 ^ 20 + timed.toNat * 2 ^ 19 + rsy.toNat * 2 ^ 18 + boot.toNat)

def mkW1 (psn : BitVec 24) (status : Nat) : Word32 := BitVec.ofNat 32 (psn.toNat * 256 + status % 256)
def mkW2 (len tag : Nat) : Word32 := BitVec.ofNat 32 (len % 2 ^ 16 * 2 ^ 16 + tag % 2 ^ 16)

/-- Operation codes. -/
def opWrite : Nat := 1
def opReadReq : Nat := 2
def opReadResp : Nat := 3
def opAtomic : Nat := 4
def opAtomicResp : Nat := 5
def opAck : Nat := 6
def opMsg : Nat := 7
def opColl : Nat := 8
def opCollCtl : Nat := 9
def opCredit : Nat := 15

/-- Class k of an operation (R351). -/
def classOf (op : Nat) : Nat := if op = 1 ∨ op = 2 ∨ op = 4 ∨ op = 7 then 0 else 1

/-- The poison mask of payload sectors. -/
def maskOf (ps : List Bool) : BitVec 128 :=
  BitVec.ofNat 128 ((ps.zip (List.range ps.length)).foldl (fun a p => a + p.1.toNat * 2 ^ p.2) 0)

/-- BOOTID of this module (2970:03). -/
def State.bootId (s : State) : BitVec 16 := (s.reg 0x2970 3).setWidth 16

/-- A packet of this module to a node, before its PSN and MACs (R327, R332, R351). -/
def State.packet (s : State) (op node status len tag : Nat) (addr : Word64) (w5 : Word32)
    (ece timed : Bool) (payload : List Byte) (pois : List Bool) : MFrame :=
  let k := classOf op
  let pm := pois.any id
  { dmac := 0, smac := 0
    pcp := BitVec.ofNat 3 (if k = 0 then s.fld 0x2920 2 10 8 else s.fld 0x2920 2 13 11)
    ecn := 0
    hop := s.fld 0x2920 2 7 0
    prefx := (s.reg 0x2920 1).setWidth 48
    snode := BitVec.ofNat 16 s.node
    dnode := BitVec.ofNat 16 node
    iid := 1
    nextHdr := 17
    udpSrc := Config.flowHash (2 * node + k)
    udpDst := BitVec.ofNat 16 (s.fld 0x2920 3 15 0)
    ety := 0x86DD
    w0 := mkW0 op (2 * k) pm ece timed false s.bootId
    w1 := mkW1 0 status
    w2 := mkW2 len tag
    w3 := (addr >>> 32).setWidth 32
    w4 := addr.setWidth 32
    w5 := w5
    pmask := maskOf pois
    payload := payload }

/-! ### Ports -/

def State.port (s : State) (i : Nat) : PortRun := Tbl.get PortRun.init s.fabric.ports i
def State.setPort (s : State) (i : Nat) (p : PortRun) : State :=
  { s with fabric := { s.fabric with ports := Tbl.put PortRun.init s.fabric.ports i p } }

def portDown : Nat := 0
def portTraining : Nat := 1
def portUpSt : Nat := 2
def portMismatch : Nat := 3
def portDisabled : Nat := 4

/-- Sixteen ports are in force (FABMODE.EFFSPLIT). -/
def State.split (s : State) : Bool := s.bit 0x2900 1 3
def State.portExists (s : State) (i : Nat) : Bool := decide (i < (if s.split then 16 else 8))
/-- PORTSTAT.STATE. -/
def State.portState (s : State) (i : Nat) : Nat := s.fld 0x2902 (i + 1) 2 0
def State.portUp (s : State) (i : Nat) : Bool := s.portExists i && s.portState i == portUpSt
def State.portEn (s : State) (i : Nat) : Bool := s.bit 0x2901 (i + 1) 0
def State.portExt (s : State) (i : Nat) : Bool := s.bit 0x2901 (i + 1) 2
def State.portDim (s : State) (i : Nat) : Nat := s.fld 0x2901 (i + 1) 4 3
def State.portDateline (s : State) (i : Nat) : Bool := s.bit 0x2901 (i + 1) 5
def State.expNode (s : State) (i : Nat) : Nat := s.fld 0x2901 (i + 1) 31 16
/-- MAC of a port (R328). -/
def State.portMac (s : State) (i : Nat) : BitVec 48 :=
  (s.reg 0x2903 1).setWidth 48 + BitVec.ofNat 48 i
def State.gwMac (s : State) (i : Nat) : BitVec 48 := (s.reg 0x2904 (i + 1)).setWidth 48

/-- Rate of a port in Mb/s (R324). -/
def State.portRate (s : State) : Nat :=
  800000 / (if s.bit 0x2900 1 2 then 2 else 1) / (if s.split then 2 else 1)

/-- Credits of one VL of a link (R362). -/
def State.creditLimit (s : State) : Nat := if s.split then 2048 else 4096

/-- The ports work from POWERING on (R325, R337). -/
def State.switchOn (s : State) : Bool := decide (3 ≤ s.dev ∧ s.dev ≤ 9) && s.bring.hv

/-- Bytes of a PTP message, as IEEE 1588-2019 lays it out (PRESUMED, log entry 119). -/
def ptpLen : PtpKind → Nat
  | .sync => 44
  | .syncFollowUp => 44
  | .pdelayReq => 54
  | .pdelayResp => 54
  | .pdelayFollowUp => 54
  | .announce => 64

/-- Bytes of an untagged frame with n bytes behind its EtherType; Ethernet pads to 64 (PRESUMED, log
entry 119). -/
def plainBytes (n : Nat) : Nat := max 64 (18 + n)

/-- Bytes of a queued frame on the wire. -/
def OutFrame.bytes : OutFrame → Nat
  | .link _ _ ws => plainBytes (4 * ws.length)
  | .morotik f => f.bytes
  | .ptp _ k _ => plainBytes (ptpLen k)
  | .credit f => f.bytes
  | .advert _ _ _ => 90

/-- Count frames discarded at a port (R345, R350). -/
def State.countDiscard (s : State) (i n : Nat) : State :=
  if n = 0 then s else s.count (0x3900 + i) 0x17 n

/-- A port receives frames: it exists, the switch works, its PCS is aligned and it is not DISABLED
(R350). -/
def State.hears (s : State) (i : Nat) : Bool :=
  s.switchOn && s.portExists i && (s.port i).aligned && s.portState i != portDisabled

/-- A received frame is counted. -/
def State.heard (s : State) (i bytes : Nat) : State :=
  (s.count (0x3900 + i) 1).count (0x3900 + i) 5 bytes

/-- A frame that a port does not take (R329). -/
def State.refuseFrame (s : State) (i : Nat) : State := s.countDiscard i 1

/-- A port changes state: UP and MISMATCH are events, and a topology record becomes due (R334,
R335, R345, R349). -/
def State.setPortState (s : State) (i st : Nat) : State :=
  if s.portState i = st then s
  else
    let s := s.setFld 0x2902 (i + 1) 2 0 st
    let s := { s with fabric := { s.fabric with topoDue := true } }
    if st = portUpSt then s.event 0x2950 1 1
    else if st = portMismatch then s.event 0x2950 1 2
    else s

/-- Add n to the count of element v of a list. -/
def bumpAt (xs : List Word32) (v n : Nat) : List Word32 :=
  xs.modify v (· + BitVec.ofNat 32 n)

/-- Credits a frame takes (R362). -/
def creditsOf (bytes : Nat) : Nat := (bytes + 63) / 64

/-- A frame enters the ingress buffer of a port. -/
def State.ingressIn (s : State) (a v bytes : Nat) : State :=
  let p := s.port a
  s.setPort a { p with buffer := p.buffer.modify v (· + creditsOf bytes) }

/-- A frame leaves the ingress buffer: its credits are free again, and counted while a direct port is UP
(R362, R363). -/
def State.ingressOut (s : State) (a v bytes : Nat) : State :=
  let p := s.port a
  let p := { p with buffer := p.buffer.modify v (· - creditsOf bytes) }
  if s.portUp a && !s.portExt a then
    s.setPort a { p with freed := bumpAt p.freed v (creditsOf bytes)
                         freedAt := p.freedAt.or (some s.time.now) }
  else s.setPort a p

/-- The buffer that held a queued frame is free of it. -/
def State.release (s : State) (q : EgItem) : State :=
  match q.src with
  | some (a, v) => s.ingressOut a v q.bytes
  | none => s

/-- A port leaves UP (R345, R363): its queue is discarded and counted, the credit counts return to
0, and LINKDOWN is set, which may trigger a snapshot (R496). A port that goes DOWN retrains. -/
def State.linkDown (s : State) (i : Nat) (st : Nat) : State :=
  let p := s.port i
  let s := if st = portMismatch then s else s.setPort i { p with aligned := false }
  if s.portState i ≠ portUpSt then s.setPortState i st
  else
    let s := s.countDiscard i p.queue.length
    let s := s.setPort i { s.port i with
      queue := [], sent := [0, 0, 0, 0], counted := [0, 0, 0, 0], freed := [0, 0, 0, 0]
      told := [0, 0, 0, 0], deficit := [0, 0, 0, 0], settle := true, role := .listening
      best := none, freedAt := none }
    let s := s.setPortState i st
    let s := p.queue.foldl State.release s
    (s.event 0x2950 1 0).snapFault

/-! ### Egress (R338 to R342) -/

/-- The routing-table entry of a node: a lookup in the spout clock of a write sees the old value (R339). -/
def State.rt (s : State) (i : Nat) : Word32 :=
  match Tbl.find s.fabric.rtOld (i % 8192) with
  | some (old, t) => if t = s.time.spout then old else Tbl.get 0 s.fabric.rt (i % 8192)
  | none => Tbl.get 0 s.fabric.rt (i % 8192)

/-- A write of a routing-table entry. -/
def State.writeRt (s : State) (i : Nat) (v : Word32) : State :=
  let old := s.fabric.rtOld.filter fun e => e.2.2 == s.time.spout
  let f := s.fabric
  { s with fabric := { f with
      rt := Tbl.put 0 f.rt i v
      rtOld := if (Tbl.find old i).isSome then old else Tbl.set old i (Tbl.get 0 f.rt i, s.time.spout) } }

/-- UP sub-ports of EXTMASK, ascending (R338). -/
def State.hashPorts (s : State) : List Nat :=
  (List.range 16).filter fun i => (s.reg 0x2930 3).getLsbD i && s.portUp i

inductive Route
  | deliver
  | drop
  | out (port : Nat)
deriving DecidableEq, Repr

/-- The egress of a packet for a node, arrived on a sub-port (none: local) (R338). -/
def State.route (s : State) (node : Nat) (udpSrc : BitVec 16) (arrived : Option Nat) : Route :=
  if node = s.node ∧ node ≠ 0xFFFF then .deliver
  else
    let e := s.rt node
    let v := e.setWidth 64
    if fieldOf v 0 0 = 0 ∨ fieldOf v 3 1 ≠ node / 8192 then .drop
    else
      let out? : Option Nat :=
        if fieldOf v 13 13 = 1 then
          let up := s.hashPorts
          if up = [] then none else up[((node ^^^ udpSrc.toNat) % up.length)]?
        else if s.portUp (fieldOf v 7 4) then some (fieldOf v 7 4)
        else if fieldOf v 12 12 = 1 ∧ s.portUp (fieldOf v 11 8) then some (fieldOf v 11 8)
        else none
      match out? with
      | none => .drop
      | some o => if some o = arrived then .drop else .out o

/-- A route over an external port or a HASH entry (R359, R364). -/
def State.switched (s : State) (node : Nat) (udpSrc : BitVec 16) : Bool :=
  let v := (s.rt node).setWidth 64
  fieldOf v 13 13 == 1 ||
    (match s.route node udpSrc none with
     | .out o => s.portExt o
     | _ => false)

/-- The dateline bit for an egress (R340) (DEDUCED, log entry 112). -/
def State.datelineBit (s : State) (arrived : Option Nat) (out : Nat) (b : Nat) : Nat :=
  match arrived with
  | none => 0
  | some a =>
    if s.portExt out then 0
    else if s.portDateline out then 1
    else if s.portDim out = s.portDim a then b
    else 0

/-- Bytes queued at an egress on one VL. -/
def PortRun.vlBytes (p : PortRun) (v : Nat) : Nat :=
  ((p.queue.filter fun q => q.vl.any fun x => x.val == v).map (·.bytes)).foldl (· + ·) 0

/-- The VL number of a class and bit as an index. -/
def vlIdx (v : Nat) : Fin 4 := ⟨v % 4, Nat.mod_lt v (by decide)⟩

/-- Put a frame at the end of an egress queue; a port that is not UP takes none but link and PTP
frames (R345). -/
def State.enqueue (s : State) (i : Nat) (q : EgItem) : State :=
  if s.portUp i || q.vl.isNone then
    let p := s.port i
    s.setPort i { p with queue := p.queue ++ [q] }
  else s.countDiscard i 1

/-- Queue a Morotik packet at its egress: MACs, VL, hop limit and ECN mark (R327, R328, R338, R340,
R341). An external port without a gateway can send none. -/
def State.egressPacket (s : State) (f : MFrame) (arrived : Option Nat) (out : Nat) (stomp : Bool) :
    State :=
  let ext := s.portExt out
  let dmac := if ext then s.gwMac out else (s.port out).nmac
  if ext && dmac == 0 then s.countDiscard out 1
  else
    let b := s.datelineBit arrived out (f.vl % 2)
    let vl := 2 * f.cls + b
    let deep := decide ((s.port out).vlBytes vl > s.fld 0x2930 4 19 0)
    let ce := ext && deep && f.ecn != 0
    let s := if ce && f.ecn != 3 then s.count (0x3900 + out) 0x15 else s
    let f := { f with
      smac := s.portMac out, dmac := dmac
      ecn := if ce then 3 else f.ecn
      hop := if arrived.isSome then f.hop - 1 else f.hop
      w0 := (f.w0 &&& ~~~(0xC00000 : Word32)) ||| BitVec.ofNat 32 (vl * 2 ^ 22) }
    let src := arrived.map fun a => ((⟨a % 16, Nat.mod_lt a (by decide)⟩ : Port), vlIdx f.vl)
    s.enqueue out ⟨.morotik f, some (vlIdx vl), f.bytes, src, stomp⟩

/-- A NOROUTE drop (R338, R350). -/
def State.noRoute (s : State) (arrived : Option Nat) : State :=
  let s := match arrived with
    | some a => s.count (0x3900 + a) 0x11
    | none => s
  s.event 0x2950 1 3

/-- The switch's choice for one packet (R338). An unnumbered module originates none (R330). -/
def State.forward (s : State) (f : MFrame) (arrived : Option Nat) (stomp : Bool) : State :=
  match s.route f.dnode.toNat f.udpSrc arrived with
  | .deliver => { s with fabric := { s.fabric with inbox := s.fabric.inbox ++ [(f, false)] } }
  | .drop => s.noRoute arrived
  | .out o =>
    match arrived with
    | some a =>
      if f.hop ≤ 1 then s.count (0x3900 + a) 0x13 else s.egressPacket f arrived o stomp
    | none => if s.node = 0xFFFF then s else s.egressPacket f arrived o stomp

/-! ### Connections (R355 to R364) -/

def connKey (node cls : Nat) : Nat := 2 * node + cls
def State.conn (s : State) (node cls : Nat) : Conn := Tbl.get Conn.init s.fabric.conns (connKey node cls)
def State.setConn (s : State) (node cls : Nat) (c : Conn) : State :=
  { s with fabric := { s.fabric with conns := Tbl.put Conn.init s.fabric.conns (connKey node cls) c } }

/-- Serial comparison of PSNs (R355): a lies ahead of b. -/
def psnAhead (a b : BitVec 24) : Bool := let d := (a - b).toNat; decide (0 < d ∧ d < 2 ^ 23)

/-- Bytes of the retransmit copies of every connection. -/
def State.retransBytes (s : State) : Nat :=
  (s.fabric.conns.map fun c => (c.2.unacked.map fun u => u.frame.bytes).foldl (· + ·) 0).foldl (· + ·) 0

/-- Base value of the retransmit timer in µs (R359). -/
def State.rtoBase (s : State) (node : Nat) (cls : Nat) : Nat :=
  if s.switched node (Config.flowHash (2 * node + cls)) then s.fld 0x2970 1 15 8 else s.fld 0x2970 1 7 0

/-- Send the packets that wait on a connection while the limits leave room (R355). The PSN is
given as a packet is first sent; RSY marks the first one after a failure (R361). An unnumbered module sends none
(R330). -/
def State.pump : Nat → Nat → Nat → State → State
  | 0, _, _, s => s
  | fuel + 1, node, cls, s =>
    let c := s.conn node cls
    match c.waiting with
    | [] => s
    | f :: rest =>
      if s.node = 0xFFFF ∨ 1024 ≤ c.unacked.length ∨ 2 ^ 24 < s.retransBytes + f.bytes then s
      else
        let rsy := c.rsy == some c.txPsn
        let f := { f with
          w0 := if rsy then f.w0 ||| 0x40000 else f.w0
          w1 := mkW1 c.txPsn f.status
          ecn := if s.switched node f.udpSrc then 2 else 0 }
        let c' := { c with
          txPsn := c.txPsn + 1
          unacked := c.unacked ++ [⟨c.txPsn, f, false, false⟩]
          waiting := rest
          timer := c.timer.or (some s.time.now)
          interval := if c.interval = 0 then s.rtoBase node cls else c.interval
          rsy := if rsy then none else c.rsy
          rate := if c.rate = 0 then s.portRate else c.rate }
        let s := (s.setConn node cls c').count 0x3920 1
        State.pump fuel node cls (s.forward f none false)

/-- Room in the retransmit buffer lets the packets of every connection go on, in ascending order of the connections
(R355) (DESIGN CHOICE, log entry 143). -/
def State.pumpAll (s : State) : State :=
  s.fabric.conns.foldl (fun s e =>
    if e.2.waiting = [] then s else State.pump (e.2.waiting.length + 1) (e.1 / 2) (e.1 % 2) s) s

/-- Give a packet to its connection. An unnumbered module originates none (R330). -/
def State.send (s : State) (node : Nat) (f : MFrame) : State :=
  if s.node = 0xFFFF then s
  else
    let cls := f.cls
    let c := s.conn node cls
    let s := s.setConn node cls { c with waiting := c.waiting ++ [f] }
    State.pump (c.waiting.length + 1) node cls s

end Sys2Proof.Machine
end

