-- ==== Sys2Proof/Machine/Network.lean ====
section
/-! DEFINITION. The on-die network: how a request enters it, the points it passes, where it leaves
for the host or a peer, and what one arbitration point grants (R33, R155 to R158, R198 to R202). -/

namespace Sys2Proof.Machine

/-! ### Routes -/

def cadFin (n : Nat) : Cad := ⟨n % 2, Nat.mod_lt n (by decide)⟩
def byteFin (n : Nat) : Fin 256 := ⟨n % 256, Nat.mod_lt n (by decide)⟩

/-- Configuration in force on a pot: 0 twin, 1 lead, 2 share (R26). -/
def State.potCfg (s : State) (pot : Nat) : Nat := s.fld 0x2300 0x10 (5 + 2 * pot) (4 + 2 * pot)

/-- Channels a leaf may use: first one and how many (R155). -/
def State.leafChannels (s : State) (leaf : Nat) : Nat × Nat :=
  let cfg := s.potCfg (leaf / 2)
  if leaf % 2 = 1 then (128, 128)
  else if cfg = 0 then (0, 128)
  else (0, 256)

/-- Channel of a cluster's request to a slice (R155): past retired channels, the next upward. -/
def State.channelFor (s : State) (cl slice : Nat) : Nat :=
  let (first, n) := s.leafChannels (leafOf cl)
  let want := slice % n
  (((List.range n).map fun i => first + (want + i) % n).find? fun ch =>
    !(s.chan (caddyOf cl) ch).out).getD (first + want)

/-- The points a request passes on its way to its home slice (R33, R155, R157, R199). -/
def State.routeTo (s : State) (m : Master) (k : ReqKind) (pa : Nat) : List ArbPoint :=
  let home := s.homeOf pa
  let slice := s.sliceOf pa
  let port := if k = .read then ArbPoint.sliceRead (cadFin home) (byteFin slice)
    else .sliceWrite (cadFin home) (byteFin slice)
  match m.cluster? with
  | some c =>
    ArbPoint.channel (cadFin (caddyOf c)) (byteFin (s.channelFor c slice)) true
      :: (if caddyOf c = home then [] else [ArbPoint.saucer (home == 1)]) ++ [port]
  | none => [.bridge (cadFin home) true, port]

/-- The points a reply passes on its way back (DEDUCED, log entry 21). -/
def State.routeBack (s : State) (m : Master) (pa : Nat) : List ArbPoint :=
  let home := s.homeOf pa
  match m.cluster? with
  | some c =>
    (if caddyOf c = home then [] else [ArbPoint.saucer (caddyOf c == 1)])
      ++ [ArbPoint.channel (cadFin (caddyOf c)) (byteFin (s.channelFor c (s.sliceOf pa))) false]
  | none => [.bridge (cadFin home) false]

/-- The points a cluster's request passes to the spout, for the host or a peer (R205) (DEDUCED, log entry 21). -/
def State.routeOut (s : State) (m : Master) (pa : Nat) : List ArbPoint :=
  match m.cluster? with
  | some c => [.channel (cadFin (caddyOf c)) (byteFin (s.channelFor c (sliceFn pa))) true,
      .bridge (cadFin (caddyOf c)) false]
  | none => []

/-! ### Requests -/

def State.updReq (s : State) (id : Nat) (f : Req → Req) : State :=
  { s with reqs := s.reqs.map fun r => if r.id = id then f r else r }

def State.dropReq (s : State) (id : Nat) : State :=
  { s with reqs := s.reqs.filter fun r => r.id ≠ id }

def State.req? (s : State) (id : Nat) : Option Req := s.reqs.find? fun r => r.id == id

/-- AOP and ATYPE codes (R351). -/
def atomOpCode : AtomOp → Nat
  | .add => 1 | .min => 2 | .max => 3 | .and => 4 | .or => 5 | .xor => 6 | .exch => 7 | .cas => 8

def atomTyCode : AtomTy → Nat
  | .i32 => 0 | .u32 => 1 | .i64 => 2 | .f32 => 3 | .b32 => 4 | .b64 => 5

/-- Big-endian bytes of a number: the order of fields on the fabric wire (R9). -/
def beBytes (n v : Nat) : List Byte := (leBytes n v).reverse

/-- The number big-endian bytes hold (R9). -/
def beNat (bs : List Byte) : Nat := leNat bs.reverse

/-- Payload of an ATOMIC (R351): the operand, or the compare value and the swap value (DEDUCED, log entry 72). -/
def atomPayload (op : AtomOp) (n : Nat) (x : Word64 × Word64) : List Byte :=
  beBytes n x.1.toNat ++ (if op = .cas then beBytes n x.2.toNat else [])

/-- One operand that does what several do one after another, where they make one (R260) (DEDUCED, log entry 41). -/
def joinOperands (op : AtomOp) (ty : AtomTy) : List (Word64 × Word64) → Word64 × Word64
  | [] => (0, 0)
  | x :: xs => (xs.foldl (fun a y => atomValue op ty a y.1 y.2) x.1, x.2)

/-- The packet that carries a request to another node (R259, R351) (DESIGN CHOICE, log entry 18). -/
def State.reqPacket (s : State) (r : Req) : MFrame :=
  let node := addrNode r.addr
  let tag := r.id % 2 ^ 16
  let a := r.addr &&& mask 47 0
  match r.kind with
  | .read => s.packet opReadReq node 0 r.len tag a 0 false false [] []
  | .write => s.packet opWrite node 0 r.data.length tag a 0 false false r.data
      ((List.range ((r.data.length + 31) / 32)).map fun i => r.poisoned || r.got.any fun g => g.1 == i && g.2.2)
  | .atomic op ty =>
    let data := atomPayload op (atomWidth ty) (joinOperands op ty r.operands)
    s.packet opAtomic node 0 data.length tag a
      (BitVec.ofNat 32 (atomOpCode op * 2 ^ 28 + atomTyCode ty * 2 ^ 24)) false false data []

/-- The way of a reply from the spout to a cluster. -/
def State.replyFar (s : State) (r : Req) : List ArbPoint :=
  match r.master.cluster? with
  | some c => [.bridge (cadFin (caddyOf c)) true,
      .channel (cadFin (caddyOf c)) (byteFin (s.channelFor c (sliceFn (addrLocal r.addr)))) false]
  | none => []

/-- A fill unit reads the test area of the boot ROM, which is mapped during CHECKING alone and for no other master
(R36, R477). -/
def State.romRead (s : State) (r : Req) : Bool :=
  s.dev == devChecking && r.kind == .read && (match r.master with
    | .engine _ => true
    | _ => false)
  && s.isLocal r.addr && decide (hbmBytes ≤ addrLocal r.addr ∧ addrLocal r.addr + r.len ≤ hbmBytes + 2 ^ 22)

/-- The spout answers it, uncached. -/
def State.romAnswer (s : State) (r : Req) : State :=
  s.updReq r.id fun q => { q with
    stage := .done ((List.range r.len).map fun i => Config.katRom (addrLocal r.addr - hbmBytes + i)) false
    route := s.replyFar r }

/-- The pool whose tags a master's reads of host memory take (R392). -/
def Master.tagPool : Master → Nat
  | .copy e => e.val
  | _ => 8

/-- The tags of a pool. -/
def poolTags (p : Nat) : Nat := if p < 8 then 96 else 256

/-- A read that is out on the link. -/
def State.onLink (s : State) (id : Nat) : Bool := s.link.tags.any fun t => t.1 == id

/-- A read of host memory goes out with a tag; while none is free it waits (R392). -/
def State.hostAsk (s : State) (r : Req) : State :=
  let p := r.master.tagPool
  if (s.link.tags.filter fun t => t.2 == p).length < poolTags p then
    ({ s with link := { s.link with tags := s.link.tags ++ [(r.id, p)] } }).emit
      (.hostRead r.id (BitVec.ofNat 64 ((s.hostAddr (addrLocal r.addr)).getD 0)) r.len)
  else s

/-- A read of host memory at the edge of the device that waits for a tag. -/
def State.wantsTag (s : State) (r : Req) : Bool :=
  r.kind == .read && r.stage == .waiting && r.route.isEmpty && s.addrKind r.addr (max 1 r.len) == .host
    && !(s.onLink r.id)

/-- A request reaches the edge of the device: it goes out on the link or the fabric, or is refused
where none can carry it (R39, R330, R394). A write to the host is done once it has been sent (DEDUCED, log entry 22)
(DEDUCED, log entry 23). -/
def State.launch (s : State) (r : Req) : State :=
  match s.addrKind r.addr (max 1 r.len) with
  | .host =>
    if s.deaf then s.updReq r.id fun r => { r with stage := .refused }
    else
      let a := BitVec.ofNat 64 ((s.hostAddr (addrLocal r.addr)).getD 0)
      match r.kind with
      | .read => s.hostAsk r
      | .write => (s.emit (.hostWrite a r.data r.poisoned)).updReq r.id fun r =>
          { r with stage := .done [] false }
      | .atomic _ _ => s.updReq r.id fun r => { r with stage := .refused }
  | .remote =>
    if s.node = 0xFFFF then s.updReq r.id fun r => { r with stage := .refused }
    else s.send (addrNode r.addr) (s.reqPacket r)
  | .unmapped => if s.romRead r then s.romAnswer r else s.updReq r.id fun r => { r with stage := .refused }
  | .hbm => s

/-- A master issues a request: its number and its route are given here. -/
def State.request (s : State) (r : Req) : State :=
  let kind := s.addrKind r.addr (max 1 r.len)
  let route := match kind with
    | .hbm => s.routeTo r.master r.kind (addrLocal r.addr)
    | .host | .remote => s.routeOut r.master (addrLocal r.addr)
    | .unmapped => if s.romRead r then s.routeOut r.master (addrLocal r.addr) else []
  let r := { r with id := s.nextReq, route := route, stage := .waiting }
  let s := { s with reqs := s.reqs ++ [r], nextReq := s.nextReq + 1 }
  if route = [] then s.launch r else s

/-- A plain read or write of a range within one line. -/
def mkReq (m : Master) (k : ReqKind) (addr : Word64) (len : Nat) (data : List Byte) (pois : Bool)
    (alloc : Bool) (p : Purpose) (ctx : Option Ctx) : Req :=
  { id := 0, master := m, kind := k, addr := addr, len := len, data := data, operands := []
    poisoned := pois, alloc := alloc, marked := false, deadline := none, route := [], got := []
    stage := .waiting, purpose := p, srcCtx := ctx }

/-- Issue requests one after another. -/
def State.requests (s : State) (rs : List Req) : State := rs.foldl State.request s

/-- The pieces of a range by sector: offset, address, bytes. -/
def fillPieces (a : Word64) (n : Nat) : List (Nat × Word64 × Nat) :=
  let pa := a.toNat
  ((List.range ((n + 62) / 32 + 1)).map fun i =>
    let lo := max pa (32 * (pa / 32 + i))
    let hi := min (pa + n) (32 * (pa / 32 + i + 1))
    (lo - pa, BitVec.ofNat 64 lo, hi - lo)).filter fun p => p.2.2 != 0

def chunkPieces (a : Word64) (n : Nat) : List (Nat × Word64 × Nat) :=
  (List.range ((n + 4095) / 4096)).map fun i => (4096 * i, a + BitVec.ofNat 64 (4096 * i), min 4096 (n - 4096 * i))

/-- The requests a range is moved in: sectors of local HBM, else up to 4,096 bytes (R353)
(DESIGN CHOICE, log entry 50). -/
def State.piecesFor (s : State) (a : Word64) (n : Nat) : List (Nat × Word64 × Nat) :=
  match s.addrKind a n with
  | .hbm => fillPieces a n
  | _ => chunkPieces a n

/-- What the reads and the writes of a range have in common. -/
structure Move where
  master : Master
  ctx    : Option Ctx
  deadline : Option (BitVec 24)
  alloc  : Bool

/-- Read a range, each piece named by its offset (R33, R199). -/
def State.readRange (s : State) (m : Move) (a : Word64) (n : Nat) (p : Nat → Purpose) : State :=
  s.requests ((s.piecesFor a n).map fun x =>
    { mkReq m.master .read x.2.1 x.2.2 [] false true (p x.1) m.ctx with deadline := m.deadline })

/-- Write a range. Each byte comes with its poison: local sectors and packets carry it by sector, a
transaction to the host whole (R210). -/
def State.writeRange (s : State) (m : Move) (a : Word64) (bs : List (Byte × Bool)) (p : Purpose) : State :=
  s.requests ((s.piecesFor a bs.length).map fun x =>
    let mine := (bs.drop x.1).take x.2.2
    let far := s.addrKind x.2.1 x.2.2 == .remote
    { mkReq m.master .write x.2.1 x.2.2 (mine.map (·.1)) (!far && mine.any (·.2)) m.alloc p m.ctx with
      deadline := m.deadline
      got := if far then ((List.range ((x.2.2 + 31) / 32)).filter fun i =>
        ((mine.drop (32 * i)).take 32).any (·.2)).map fun i => (i, 0, true) else [] })

/-- A write or an atomic has been accepted by its home slice, here or at its node, or refused. -/
def Req.accepted (r : Req) : Bool :=
  match r.stage with
  | .done _ _ | .refused => true
  | _ => false

def Req.finished (r : Req) : Bool :=
  match r.stage with
  | .done _ _ => r.route.isEmpty
  | .refused => true
  | _ => false

/-- Bytes a finished read brought, with their poison; none of a refused one. -/
def Req.bytes (r : Req) : List (Byte × Bool) :=
  match r.stage with
  | .done data pois => data.zipIdx.map fun b => (b.1, pois || r.got.any fun g => g.1 == b.2 / 32 && g.2.2)
  | _ => []

/-- The bytes of a range from the reads of its pieces, in the order they were asked for. -/
def bytesOf (rs : List Req) : List (Byte × Bool) := (rs.map Req.bytes).flatten

/-- Leave the requests that a predicate names. -/
def State.dropReqs (s : State) (f : Req → Bool) : State := { s with reqs := s.reqs.filter fun r => !f r }

/-- The poison of the 32-byte units of a payload (R352). -/
def unitPois (bs : List (Byte × Bool)) : List Bool :=
  (List.range ((bs.length + 31) / 32)).map fun i => ((bs.drop (32 * i)).take 32).any (·.2)

/-- Bytes with the poison of their 32-byte units. -/
def withPois (data : List Byte) (pois : List Bool) : List (Byte × Bool) :=
  data.zipIdx.map fun b => (b.1, pois.getD (b.2 / 32) false)

/-- A served request starts back, with what it brings. -/
def State.reply (s : State) (r : Req) (data : List Byte) (pois : Bool) : State :=
  s.updReq r.id fun q => { q with
    stage := .done data pois
    route := if q.kind = .write then [] else s.routeBack q.master (addrLocal q.addr) }

/-- Two requests of one master to one line. -/
def Req.sameLine (q r : Req) : Bool :=
  q.master == r.master && addrLocal q.addr / 128 == addrLocal r.addr / 128 && addrNode q.addr == addrNode r.addr

/-- Requests of one master to one line reach the slice in issue order (R158). -/
def State.firstOfLine (s : State) (r : Req) : Bool :=
  !s.reqs.any fun q => decide (q.id < r.id) && q.sameLine r && (q.stage == .waiting || q.stage == .missing)

/-- The request has passed every point on its way. -/
def Req.arrived (r : Req) : Bool := r.route.isEmpty

/-! ### Arbitration (R199 to R202) -/

def pointKey : ArbPoint → Nat
  | .channel cad ch d => 2 * (256 * cad.val + ch.val) + d.toNat
  | .sliceRead cad sl => 1024 + 256 * cad.val + sl.val
  | .sliceWrite cad sl => 1536 + 256 * cad.val + sl.val
  | .saucer d => 2048 + d.toNat
  | .bridge cad d => 2050 + 2 * cad.val + d.toNat
  | .pseudo st ch pc => 2054 + 64 * st.val + 2 * ch.val + pc.val

/-- What waits at a point: number, class, deadline. -/
structure Waiter where
  id       : Nat
  nc       : Fin 7
  deadline : Option (BitVec 24)
deriving DecidableEq, Repr

/-- Deadline d1 is earlier than d2 (R200). -/
def earlier (d1 d2 : BitVec 24) : Bool := let d := (d2 - d1).toNat; decide (1 ≤ d ∧ d < 2 ^ 23)

/-- The sector's pseudo-channel: stack, channel, half. -/
def State.pseudoOf (s : State) (sec : Nat) : Nat × Nat × Nat :=
  (s.stackOf (32 * sec), channelFn (32 * sec), pseudoFn (32 * sec))

/-- Oldest-first requests waiting at a point. A pseudo-channel offers a write only where 24 writes
are queued there or no read waits (R192). No point offers a request before an older one of the same master
and line, or for the same sector (R192, R201). -/
def State.waiters (s : State) (p : ArbPoint) : List Waiter :=
  match p with
  | .pseudo st ch pc =>
    let here := s.hbm.queue.filter fun q => s.pseudoOf q.sector == (st.val, ch.val, pc.val)
    let ws := (here.filter fun q => q.write).take 32
    let rs := (here.filter fun q => !q.write).take 64
    let writes := decide (24 ≤ ws.length) || rs.all (·.granted)
    (here.filter fun q => !q.granted && (if q.write then writes && decide (q ∈ ws) else decide (q ∈ rs))
      && !here.any fun o => o.sector == q.sector && decide (o.id < q.id)).map
      fun q => ⟨q.id, q.nc, q.deadline⟩
  | p =>
    let here := s.reqs.filter fun r => r.route.head? == some p
    (here.filter fun r => !here.any fun o => decide (o.id < r.id) && o.sameLine r).map
      fun r => ⟨r.id, r.master.nc, r.deadline⟩

/-- The first of a list that no other precedes under a strict order. -/
def firstBy {α : Type} (before : α → α → Bool) : List α → Option α
  | [] => none
  | x :: xs => match firstBy before xs with
    | none => some x
    | some y => if before y x then some y else some x

/-- Earlier deadline; ties by the lower class, then by arrival (the list's order). -/
def dlBefore (a b : Waiter) : Bool :=
  match a.deadline, b.deadline with
  | some x, some y => earlier x y || (x == y && decide (a.nc < b.nc))
  | some _, none => true
  | _, _ => false

def State.ncWeight (s : State) (c : Nat) : Nat := s.fld 0x2410 (c + 1) 7 0

/-- Classes with a request waiting, ascending. -/
def classesOf (ws : List Waiter) : List (Fin 7) :=
  (List.finRange 7).filter fun c => ws.any fun w => w.nc == c

/-- The weighted branch: the class granted, and the credits after. A class of weight 0 is granted
only where no class of nonzero weight waits (R202). -/
def State.weighted (s : State) (credit : List Int) (ws : List Waiter) : Option (Fin 7 × List Int) :=
  let cs := classesOf ws
  let w (c : Fin 7) : Int := (s.ncWeight c.val : Int)
  let total := (cs.map w).foldl (· + ·) 0
  let cr := credit.zipIdx.map fun x =>
    if cs.any fun c => c.val == x.2 then x.1 + (s.ncWeight x.2 : Int) else x.1
  let able := if cs.any fun c => decide (w c ≠ 0) then cs.filter fun c => decide (w c ≠ 0) else cs
  let best := firstBy (fun a b => decide (cr.getD a.val 0 > cr.getD b.val 0)
    || (cr.getD a.val 0 == cr.getD b.val 0 && decide (a < b))) able
  best.map fun c => (c, cr.modify c.val (· - total))

/-- The grant of one point (R199): who, whether by the deadline branch, and the point after. -/
def State.grant (s : State) (a : ArbState) (ws : List Waiter) : Option (Waiter × Bool × ArbState) :=
  let recent := (a.last.filter id).length
  let dl := ws.filter fun w => w.deadline.isSome
  if dl ≠ [] ∧ recent < s.fld 0x2410 8 6 0 then
    (firstBy dlBefore dl).map fun w => (w, true, { a with last := (true :: a.last).take 64 })
  else
    (s.weighted a.credit ws).bind fun (c, credit) =>
      (firstBy dlBefore (ws.filter fun w => w.nc == c)).map fun w =>
        (w, false, { a with credit := credit, last := (false :: a.last).take 64 })

/-- The waiting request comes from the upper leaf of its pot. -/
def State.fromUpper (s : State) (w : Waiter) : Bool :=
  match (s.req? w.id).bind (·.master.cluster?) with
  | some c => leafOf c % 2 == 1
  | none => false

/-- Both leaves of a pot in share configuration request one channel (R28). -/
def State.contested (s : State) (p : ArbPoint) (ws : List Waiter) : Bool :=
  match p with
  | .channel cad _ true => s.potCfg cad.val == 2 && ws.any s.fromUpper && ws.any fun w => !s.fromUpper w
  | _ => false

/-- The grant of one point, where a contested channel is its leaves' by turns, the lower one first (R28, R155). A grant
to a leaf that requests alone leaves the turn as it is (DEDUCED, log entry 148). -/
def State.grantAt (s : State) (p : ArbPoint) (a : ArbState) (ws : List Waiter) : Option (Waiter × Bool × ArbState) :=
  if s.contested p ws then
    (s.grant a (ws.filter fun w => s.fromUpper w == a.upper)).map fun g => (g.1, g.2.1, { g.2.2 with upper := !a.upper })
  else s.grant a ws

/-- FT in deadline units (R200). -/
def State.ftDeadline (s : State) : BitVec 24 := BitVec.ofNat 24 (s.ftNs / 64)

/-- Count a grant of a request that carries a deadline (R200, R203). -/
def State.noteGrant (s : State) (w : Waiter) (byDeadline : Bool) : State :=
  let s := if byDeadline then s.count (0x3420 + w.nc.val) 7 else s
  match w.deadline with
  | some d => if earlier d s.ftDeadline then (s.count (0x3420 + w.nc.val) 9).intEvent 6 else s
  | none => s

/-- A request that crosses the saucer link is counted as it does (R188). -/
def State.noteCrossing (s : State) (p : ArbPoint) (id : Nat) : State :=
  match p, s.req? id with
  | .saucer toC1, some r => if r.stage = .waiting then s.countSaucer (if toC1 then 0 else 1) else s
  | _, _ => s

/-- The granted request goes on past the point. -/
def State.passPoint (s : State) (p : ArbPoint) (id : Nat) : State :=
  match p with
  | .pseudo _ _ _ => { s with hbm := { s.hbm with
      queue := s.hbm.queue.map fun q => if q.id = id then { q with granted := true } else q } }
  | _ =>
    let s := (s.noteCrossing p id).updReq id fun r => { r with route := r.route.tail }
    match s.req? id with
    | some r =>
      if r.route = [] ∧ r.stage = .waiting ∧ s.addrKind r.addr (max 1 r.len) ≠ .hbm then s.launch r else s
    | none => s

def State.arbState (s : State) (k : Nat) : ArbState := Tbl.get ArbState.init s.arb k
def State.setArb (s : State) (k : Nat) (a : ArbState) : State :=
  { s with arb := Tbl.put ArbState.init s.arb k a }

/-- A channel that waits for a spare line takes no new request (R491). -/
def State.pointHeld (s : State) : ArbPoint → Bool
  | .channel cad ch _ => (s.chan cad.val ch.val).wait != []
  | _ => false

/-- One grant at one point. -/
def State.arbitrate (s : State) (p : ArbPoint) : State :=
  if s.pointHeld p then s
  else match s.grantAt p (s.arbState (pointKey p)) (s.waiters p) with
  | none => s
  | some (w, dl, a) => ((s.setArb (pointKey p) a).noteGrant w dl).passPoint p w.id

end Sys2Proof.Machine
end

