-- ==== Sys2Proof/Machine/Pins.lean ====
section
/-! DEFINITION. Pinned ranges, the token ledger and the pin engine (R179 to R185, R189). -/

namespace Sys2Proof.Machine

/-! ### The ledger (R184) -/

/-- Free tokens of a caddy, two's complement in 32 bits. -/
def State.tokFree (s : State) (c : Nat) : Int := ((s.reg 0x2314 (c + 1)).setWidth 32).toInt
def State.setTokFree (s : State) (c : Nat) (v : Int) : State :=
  s.setReg 0x2314 (c + 1) ((BitVec.ofInt 32 v).setWidth 64)

/-- Entry of an owner's claim: contexts 0 to 15, then the host (0x1F). -/
def claimSub (owner : Nat) : Nat := if owner < 16 then owner + 1 else 0x11
def State.tokClaim (s : State) (owner c : Nat) : Nat :=
  s.fld 0x2315 (claimSub owner) (23 + 32 * c) (32 * c)
def State.setTokClaim (s : State) (owner c : Nat) (n : Nat) : State :=
  s.setFld 0x2315 (claimSub owner) (23 + 32 * c) (32 * c) n

/-- Lines of a range of granules homed in a caddy: 32 to a granule (R151). -/
def State.homedLines (s : State) (base len c : Nat) : Nat :=
  32 * (((List.range len).filter fun i => s.homeOf (4096 * (base + i)) == c).length)

/-- Move tokens of a range from the free pool to its owner, in one clock. -/
def State.claimTokens (s : State) (base len owner : Nat) : State :=
  [0, 1].foldl (fun (s : State) c =>
    let n := s.homedLines base len c
    (s.setTokFree c (s.tokFree c - n)).setTokClaim owner c (s.tokClaim owner c + n)) s

/-- Move them back. -/
def State.releaseTokens (s : State) (base len owner : Nat) : State :=
  [0, 1].foldl (fun (s : State) c =>
    let n := s.homedLines base len c
    (s.setTokFree c (s.tokFree c + n)).setTokClaim owner c (s.tokClaim owner c - n)) s

/-- Slices of a caddy that are not retired. -/
def State.liveSlices (s : State) (c : Nat) : Nat :=
  ((List.range 256).filter fun sl => !s.sliceRetired c sl).length

/-- Lower the capacity of a caddy by one slice (R189). -/
def State.loseSlice (s : State) (c : Nat) : State :=
  s.setTokFree c (s.tokFree c - 2048 * s.pinWays)

/-! ### Slots -/

def slotWord (base len owner : Nat) : Word64 := packWord [(base, 0), (len, 27), (owner, 54), (1, 59)]

def State.setSlot (s : State) (i : Nat) (w : Word64) : State := s.setReg 0x2312 (i + 1) w

/-- Clear a slot and return its tokens to the free pool (R183, R185). -/
def State.clearSlot (s : State) (i : Nat) : State :=
  match s.pinSlot i with
  | none => s
  | some (base, len, owner) => (s.releaseTokens base len owner).setSlot i 0

/-- Lines of pinned ranges that the set of an address would hold. -/
def State.setCount (s : State) (ranges : List (Nat × Nat)) (setKey : Nat) : Nat :=
  (ranges.map fun r => ((List.range (32 * r.2)).filter fun i =>
    s.setBase (128 * (32 * r.1 + i)) == setKey).length).foldl (· + ·) 0

def State.pinRanges (s : State) : List (Nat × Nat) := s.pinSlots.map fun p => (p.2.1, p.2.2.1)

/-- No set of a range's lines would hold more than WAYS lines of the ranges (R181). -/
def State.setsFit (s : State) (ranges : List (Nat × Nat)) (ways : Nat) : Bool :=
  ranges.all fun r => (List.range (32 * r.2)).all fun i =>
    decide (s.setCount ranges (s.setBase (128 * (32 * r.1 + i))) ≤ ways)

/-! ### PINSTAT -/

def State.pinBusy (s : State) : Bool := s.bit 0x2311 4 4

/-- BUSY follows the work at hand and the killed contexts' walks still to run. When it falls, the
running PIN jobs take PINSTAT as their INFO. -/
def State.notePinBusy (s : State) : State :=
  let busy := s.caddy.pin.isSome || !s.caddy.killQ.isEmpty
  if busy then s.setBit 0x2311 4 4 true
  else
    let s := s.setBit 0x2311 4 4 false
    let info := BitVec.ofNat 32 (s.fld 0x2311 4 11 0)
    { s with seq := { s.seq with jobs := s.seq.jobs.map fun j =>
        if j.type = 4 ∧ j.started.isSome ∧ !j.moved then { j with moved := true, info := info } else j } }

def State.setPin (s : State) (p : Option PinWork) : State := { s with caddy := { s.caddy with pin := p } }

def State.setPinStatus (s : State) (n : Nat) : State := s.setFld 0x2311 4 3 0 n

/-- A request ends: its status, and BUSY. -/
def State.pinEnd (s : State) (status : Nat) : State :=
  ((s.setPin none).setPinStatus status).notePinBusy

/-- A successful request ends with its slot shown. -/
def State.pinDone (s : State) (slot : Nat) : State := (s.setFld 0x2311 4 11 6 slot).pinEnd 0

/-! ### Requests (R180 to R183) -/

def granuleRange (base len : Nat) : Bool :=
  decide (base % 4096 = 0 ∧ len % 4096 = 0 ∧ 0 < len ∧ base + len ≤ hbmBytes)

def overlaps (a n b m : Nat) : Bool := decide (a < b + m ∧ b < a + n)

/-- The status that ends a pin request before any walk, or 0. -/
def State.pinRefusal (s : State) (base len : Nat) : Nat :=
  if !granuleRange base len then 1
  else if s.pinRanges.any fun r => overlaps (base / 4096) (len / 4096) r.1 r.2 then 2
  else if s.pinSlots.length = 64 then 3
  else 0

/-- Begin a pin request. PREFDONE falls as a pin begins (DEDUCED, log entry 27). -/
def State.pinBegin (s : State) (base len owner : Nat) (pref : Bool) (job : Option Nat) : State :=
  let st := s.pinRefusal base len
  if st ≠ 0 then s.pinEnd st
  else
    let s := s.setBit 0x2311 4 5 false
    let s := { s with caddy := { s.caddy with pref := s.caddy.pref.map fun (p : Nat × Nat × Nat × Bool) =>
      (p.1, p.2.1, p.2.2.1, false) } }
    (s.setPin (some (.pin (base / 4096) (len / 4096) owner pref .first 0 job))).notePinBusy

/-- Slot that an unpin names exactly. -/
def State.slotMatch (s : State) (base len : Nat) : Option Nat :=
  if base % 4096 = 0 ∧ len % 4096 = 0 then
    (s.pinSlots.find? fun p => p.2.1 == base / 4096 && p.2.2.1 == len / 4096).map (·.1)
  else none

/-- Begin an unpin request. -/
def State.unpinBegin (s : State) (base len : Nat) (job : Option Nat) : State :=
  match s.slotMatch base len with
  | none => s.pinEnd 5
  | some i =>
    let s := (s.clearSlot i).setFld 0x2311 4 11 6 i
    (s.setPin (some (.unpin (base / 4096) (len / 4096) job))).notePinBusy

/-- The counting walk has ended (R181, R182): refused with status 4, or committed. -/
def State.pinCommit (s : State) (base len owner : Nat) (pref : Bool) (job : Option Nat) : State :=
  let free := [0, 1].all fun c =>
    decide (0 ≤ s.tokFree c ∧ (s.homedLines base len c : Int) ≤ s.tokFree c)
  if !(s.setsFit ((base, len) :: s.pinRanges) s.pinWays && free) then s.pinEnd 4
  else
    match (List.range 64).find? fun i => (s.pinSlot i).isNone with
    | none => s.pinEnd 3
    | some i =>
      let s := (s.setSlot i (slotWord base len owner)).claimTokens base len owner
      s.setPin (some (.pin base len owner pref .second i job))

/-- Line addresses of a range of granules. -/
def rangeLines (base len : Nat) : List Nat := (List.range (32 * len)).map fun i => 128 * (32 * base + i)

/-- Set or clear the pinned bit of every line of a range that is present (R182, R183). A set keeps
no more than WAYS pinned lines; what a retired slice displaced stays unpinned (R189) (DESIGN CHOICE, log
entries 132 and 133). -/
def State.markPinned (s : State) (base len : Nat) (b : Bool) : State :=
  (rangeLines base len).foldl (fun s pa =>
    match s.findWay pa with
    | some k =>
      let held := ((List.range 24).filter fun i => (s.line (s.setBase pa + i)).pinned).length
      if b && !(s.line k).pinned && decide (s.pinWays ≤ held) then s.event 0x2310 0x0C (4 + s.homeOf pa)
      else s.setLine k { s.line k with pinned := b }
    | none => s) s

/-- Sectors of a range that are not valid and not guarded: what a prefetch fetches (R164). -/
def State.prefetchSectors (s : State) (base len : Nat) : List Nat :=
  ((rangeLines base len).map fun pa =>
    if s.guarded pa then []
    else ((List.range 4).map (pa / 32 + ·)).filter fun sec => (s.sectorIn sec).isNone).flatten

/-- The home slices note sectors to be prefetched for a class, with the deadline of the job that asks
(R164, R302). -/
def State.noteSectors (s : State) (nc : Fin 7) (dl : Option (BitVec 24)) (secs : List Nat) : State :=
  let new := secs.map fun sec => (256 * s.homeOf (32 * sec) + s.sliceOf (32 * sec), sec, nc, dl)
  { s with caddy := { s.caddy with notes := s.caddy.notes ++ new.filter fun x => x ∉ s.caddy.notes } }

/-- A prefetch of a byte range, rounded to granules and clipped to HBM (R164, R250). -/
def State.prefetchBytes (s : State) (nc : Fin 7) (dl : Option (BitVec 24)) (base len : Nat) : State :=
  let lo := base / 4096
  let hi := min ((base + len + 4095) / 4096) (hbmBytes / 4096)
  if len = 0 then s else s.noteSectors nc dl (s.prefetchSectors lo (hi - lo))

/-- Granules of a byte range whose home is the other caddy: a cluster's prefetch sends a request for each over
the saucer link (R157, R188). -/
def State.farGranules (s : State) (cl base len : Nat) : Nat :=
  let lo := base / 4096
  let hi := min ((base + len + 4095) / 4096) (hbmBytes / 4096)
  if len = 0 then 0 else ((List.range (hi - lo)).filter fun i => s.homeOf (4096 * (lo + i)) != caddyOf cl).length

/-- Release of every range a killed context owns (R185). -/
def State.killPins (s : State) (ctx : Nat) : State :=
  let mine := s.pinSlots.filter fun p => p.2.2.2 == ctx
  let s := match s.caddy.pin with
    | some (.pin _ _ o _ .first _ _) => if o = ctx then (s.setPin none).setPinStatus 6 else s
    | _ => s
  let gone := s.caddy.pref.filter fun p => p.2.2.1 == ctx
  let s := { s with caddy := { s.caddy with
    pref := s.caddy.pref.filter fun p => p.2.2.1 != ctx
    notes := s.caddy.notes.filter fun x => !gone.any fun p => decide (p.1 ≤ x.2.1 / 128 ∧ x.2.1 / 128 < p.1 + p.2.1) } }
  let s := mine.foldl (fun s p => s.clearSlot p.1) s
  let s := { s with caddy := { s.caddy with
    killQ := s.caddy.killQ ++ mine.map fun (p : Nat × Nat × Nat × Nat) => (p.2.1, p.2.2.1) } }
  s.notePinBusy

end Sys2Proof.Machine
end

