-- ==== Sys2Proof/Machine/Jobs.lean ====
section
/-! DEFINITION. Jobs as the sequencer carries them: fence tags, completion records and their
interrupts, the end of a job, the kill of a context and the faults that lead to one (R108, R267 to
R269, R301 to R314, R511). -/

namespace Sys2Proof.Machine

/-! ### Contexts -/

def ctxActive : Nat := 0
def ctxSaving : Nat := 1
def ctxSavedSt : Nat := 2
def ctxRestoring : Nat := 3
def ctxHalted : Nat := 4

/-- CTXCTL.STATE. -/
def State.ctxState (s : State) (c : Nat) : Nat := s.fld 0x2860 (c + 1) 6 4
def State.setCtxState (s : State) (c n : Nat) : State := s.setFld 0x2860 (c + 1) 6 4 n

def State.ctx (s : State) (c : Nat) : CtxRun := Tbl.get CtxRun.init s.seq.ctxs c
def State.setCtx (s : State) (c : Nat) (x : CtxRun) : State :=
  { s with seq := { s.seq with ctxs := Tbl.put CtxRun.init s.seq.ctxs c x } }

def ringKey (c r : Nat) : Nat := 8 * c + r
def State.ring (s : State) (c r : Nat) : RingRun := Tbl.get RingRun.init s.seq.rings (ringKey c r)
def State.setRing (s : State) (c r : Nat) (x : RingRun) : State :=
  { s with seq := { s.seq with rings := Tbl.put RingRun.init s.seq.rings (ringKey c r) x } }

def State.ringEn (s : State) (c r : Nat) : Bool := s.bit (0x2840 + c) (4 * r + 2) 0
def State.ringHalt (s : State) (c r : Nat) : Bool := s.bit (0x2840 + c) (4 * r + 2) 8

/-- A ring error: HALT, ERR where an index was out of range, and the sequencer's vector (R291,
R294, R394) (DEDUCED, log entry 35). -/
def State.haltRing (s : State) (c r : Nat) (err : Bool) : State :=
  if s.ringHalt c r then s
  else
    let s := s.setBit (0x2840 + c) (4 * r + 2) 8 true
    let s := if err && !s.heldClear (0x2840 + c) (4 * r + 2) 9 then s.setBit (0x2840 + c) (4 * r + 2) 9 true else s
    s.raise 19

/-- Jobs of a context. -/
def State.jobsOf (s : State) (c : Nat) : List Job := s.seq.jobs.filter fun j => j.ctx.val == c

/-- A context has a job running. -/
def State.ctxRuns (s : State) (c : Nat) : Bool := (s.jobsOf c).any fun j => j.started.isSome

/-- Some context has a job running; some cluster runs a job (R88, R154). -/
def State.anyRuns (s : State) : Bool := s.seq.jobs.any fun j => j.started.isSome
def State.clustersRun (s : State) : Bool := s.clusters.any fun c => c.2.job.isSome

/-! ### Fence tags (R304 to R306) -/

def tagKey (c t : Nat) : Nat := 256 * c + t
def State.tagBal (s : State) (c t : Nat) : Int := Tbl.get 0 s.seq.tags (tagKey c t)
def State.setTag (s : State) (c t : Nat) (v : Int) : State :=
  { s with seq := { s.seq with tags := Tbl.put 0 s.seq.tags (tagKey c t) v } }

/-- A tag is released while its balance is 0 or below; tag 0 names none. -/
def State.tagFree (s : State) (c t : Nat) : Bool := t == 0 || decide (s.tagBal c t ≤ 0)

def tagFits (v : Int) : Bool := decide (-32768 ≤ v ∧ v ≤ 32767)

/-! ### Completion records (R308 to R310) -/

def State.cqEn (s : State) (c : Nat) : Bool := s.bit (0x2850 + c) 2 0
def State.cqSize (s : State) (c : Nat) : Nat := 2 ^ s.fld (0x2850 + c) 2 5 1

/-- Jobs of a context that have ended and whose records still wait for writes (R167). -/
def State.owedBy (s : State) (c : Nat) : List Owed := s.seq.owed.filter fun o => o.job.ctx.val == c

/-- Slots not taken by records, and not owed to jobs fetched and not reported (R309). -/
def State.cqFree (s : State) (c : Nat) : Int :=
  let x := s.ctx c
  (s.cqSize c : Int) - (((BitVec.ofNat 32 x.written) - x.head).toNat : Int)
    - ((s.jobsOf c).length : Int) - ((s.owedBy c).length : Int) - (x.held.length : Int)
    - (((List.range 8).filter fun r => (s.ring c r).entBusy).length : Int)

/-- The context's completion interrupt: no record is pending after it (R310). Vectors 0 to 15. -/
def State.cqInterrupt (s : State) (c : Nat) : State :=
  (s.setCtx c { s.ctx c with pending := 0, oldest := none }).raise c

/-- The local global address of a physical address; one past 2^48 wraps (DESIGN CHOICE, log entry 127). -/
def localAddr (pa : Nat) : Word64 := BitVec.ofNat 64 (0xFFFF * 2 ^ 48 + pa % 2 ^ 48)

/-- What becomes of a small write of the sequencer's own: on its way to a home slice, posted to the host, or at
an address that is not mapped. -/
inductive SmallWrite | sent | posted | unmapped
deriving DecidableEq, Repr

/-- A small write of the sequencer's own: a record, an index. -/
def State.seqWrite (s : State) (pa : Nat) (bs : List Byte) (p : Purpose) (c : Option Ctx) : State × SmallWrite :=
  match s.addrKind (localAddr pa) bs.length with
  | .hbm => (s.request (mkReq .seqr .write (localAddr pa) bs.length bs false true p c), .sent)
  | .host =>
    (if s.deaf then s else
      s.emit (.hostWrite (BitVec.ofNat 64 ((s.hostAddr pa).getD 0)) bs false), .posted)
  | _ => (s, .unmapped)

/-- A context's number as such. -/
def ctxFin (c : Nat) : Ctx := ⟨c % 16, Nat.mod_lt c (by decide)⟩

/-- The words of a record with its PHASE. -/
def Rec.words (r : Rec) (phase : Bool) : List Word64 :=
  [if phase then r.w0 ||| (1 <<< 63) else r.w0, r.w1, r.w2, r.w3]

def wordBytes (ws : List Word64) : List Byte := (ws.map fun w => leBytes 8 w.toNat).flatten

/-- A record has been written: it is pending, and may raise the context's vector (R310). -/
def State.recWritten (s : State) (c : Nat) (irq : Bool) : State :=
  let x := s.ctx c
  let s := s.setCtx c { x with pending := x.pending + 1, oldest := x.oldest.or (some s.time.now) }
  let cnt := s.fld (0x2850 + c) 4 7 0
  if irq || (decide (cnt ≠ 0) && decide (cnt ≤ (s.ctx c).pending)) then s.cqInterrupt c else s

/-- A record that could not be stored (R309). -/
def State.recLost (s : State) (c : Nat) : State := s.event (0x2850 + c) 2 6

/-- What issued records count. -/
def State.countRec (s : State) (r : Rec) : State :=
  let s := s.count 0x3800 7
  let s := if r.w0.getLsbD 42 then s.count 0x3800 9 else s
  if r.w0.getLsbD 41 then s.count 0x3800 0x0B else s

/-- Issue the write of one record into the completion ring (R308 to R310). A record in HBM is written once its
home slice accepts it (DEDUCED, log entry 134). -/
def State.writeRec (s : State) (c : Nat) (r : Rec) : State :=
  let x := s.ctx c
  let size := s.cqSize c
  let phase := decide (x.written / size % 2 = 0)
  let pa := s.fld (0x2850 + c) 1 47 0 + 32 * (x.written % size)
  let s := (s.setCtx c { x with written := x.written + 1 }).countRec r
  match s.seqWrite pa (wordBytes (r.words phase)) (.record (ctxFin c) r.irq) (some (ctxFin c)) with
  | (s, .sent) => s
  | (s, .posted) => s.recWritten c r.irq
  | (s, .unmapped) => (s.recLost c).recWritten c r.irq

/-- Write held records while the ring is enabled and has a free slot for them (R309). -/
def State.drainHeld : Nat → Nat → State → State
  | 0, _, s => s
  | fuel + 1, c, s =>
    let x := s.ctx c
    match x.held with
    | [] => s
    | r :: rest =>
      let used := ((BitVec.ofNat 32 x.written) - x.head).toNat
      if s.cqEn c && decide (used < s.cqSize c) then
        State.drainHeld fuel c ((s.setCtx c { x with held := rest }).writeRec c r)
      else s

def JobEnd.code : JobEnd → Nat
  | .done => 0 | .fault => 1 | .refused => 2 | .dropped => 3

/-- The record of a job that ends (R301, R308, R511). A PIN job whose request has not ended shows PINSTAT as it
stands (DEDUCED, log entry 116). -/
def State.recordOf (s : State) (j : Job) (e : JobEnd) (cause pos cl : Nat) : Rec :=
  let now := s.ftNs
  let info := if j.type == 4 && !j.moved then s.fld 0x2311 4 11 0 else j.info.toNat
  let late := decide (j.deadline ≠ 0 ∧ j.deadline < now) && e != .dropped
  { w0 := packWord [(j.tag, 0), (j.ring.val, 16), (j.ctx.val, 20), (e.code, 24), (j.exc.toNat, 28),
      (cause, 32), (j.poison.toNat, 40), (late.toNat, 41), (j.startLate.toNat, 42),
      (j.ftUnlock.toNat, 43)]
    w1 := BitVec.ofNat 64 (j.started.getD now)
    w2 := BitVec.ofNat 64 now
    w3 := packWord [(pos % 2 ^ 24, 0), (cl, 24), (info, 32)]
    irq := j.irq || e == .fault || e == .refused }

/-- Clusters of a job that are its own. -/
def State.clustersOf (s : State) (id : Nat) : List Nat :=
  (List.range 64).filter fun c => (s.cluster c).job == some id

/-- Free a cluster as its job ends: the L1 and register caches are invalidated (R167); the cup buffer
and local memory keep their bytes. -/
def Cluster.free (x : Cluster) : Cluster :=
  { x with job := none, tok := [], me := Engine.idle
           tg := { Tg.idle with lmem := x.tg.lmem, lmPois := x.tg.lmPois } }

/-- The job whose work a request is, where a cluster's, a copy engine's or the collective unit's work made
it. -/
def State.jobOfReq (s : State) (r : Req) : Option Job :=
  match r.purpose with
  | .descr cl | .fill cl _ _ | .epilogue cl _ => s.jobOn cl.val
  | .load cl _ _ _ _ _ _ _ _ | .store cl _ _ _ _ | .atomicOf cl _ _ _ _ _ => s.jobOn cl.val
  | .job id | .plan id _ | .chunk id _ _ _ | .result id _ _ => s.job? id
  | .pi _ _ | .ci _ _ | .entry _ _ | .head _ | .record _ _ | .ciWrite _ _ => none
  | .bar2 _ _ | .scrubRow _ _ | .packet _ _ _ _ | .save _ | .restore _ _ _ => none

/-- What the end of a job does to its requests: its reads are discarded; its writes and atomics, which have
left, complete and answer nobody. -/
def State.orphan (s : State) (f : Job → Bool) : State :=
  { s with reqs := s.reqs.filterMap fun r => match s.jobOfReq r with
      | none => some r
      | some j =>
        if !f j then some r
        else if r.kind = .read then none
        else some { r with purpose := .job j.id } }

/-- Take a job off: its requests, its clusters, its collective slot and its place among the fetched jobs. -/
def State.removeJob (s : State) (j : Job) : State :=
  let s := s.orphan fun k => k.id == j.id
  let s := (s.clustersOf j.id).foldl (fun s c => s.setCluster c (s.cluster c).free) s
  { s with
    seq := { s.seq with jobs := s.seq.jobs.filter fun k => k.id ≠ j.id
                        reserved := s.seq.reserved.filter (· ≠ j.id) }
    mcasts := s.mcasts.filter fun m => m.job ≠ j.id
    fabric := { s.fabric with colls := s.fabric.colls.filter fun c => c.2.job ≠ j.id } }

/-- Issue the record of a job that has ended. -/
def State.issueRec (s : State) (o : Owed) : State :=
  let c := o.job.ctx.val
  let x := s.ctx c
  State.drainHeld (x.held.length + 1) c
    (s.setCtx c { x with held := x.held ++ [s.recordOf o.job o.why o.cause o.pos o.cl] })

/-- A write or an atomic of a job that has ended is still on its way (R167). -/
def State.writesOut (s : State) (id : Nat) : Bool := s.reqs.any fun r => r.purpose == .job id && !r.accepted

/-- Take a job off and issue its record, once every write of it has been accepted (R167). -/
def State.report (s : State) (j : Job) (e : JobEnd) (cause pos cl : Nat) : State :=
  let s := s.removeJob j
  let o : Owed := ⟨j, e, cause, pos, cl⟩
  if s.writesOut j.id then { s with seq := { s.seq with owed := s.seq.owed ++ [o] } } else s.issueRec o

/-- Records whose jobs' last writes have been accepted are issued. -/
def State.payOwed (s : State) : State :=
  s.seq.owed.foldl (fun s o =>
    if s.writesOut o.job.id then s
    else ({ s with seq := { s.seq with owed := s.seq.owed.filter fun p => p.job.id ≠ o.job.id } }).issueRec o) s

/-! ### The kill of a context (R267, R314) -/

/-- What a kill of context c does to the requests of its jobs (R108, R267). An entry's read is left to
return: its job ends then (DEDUCED, log entry 32). -/
def State.killReqs (s : State) (c : Nat) : State := s.orphan fun j => j.ctx.val == c

/-- A message of a killed group is abandoned: its words are given up with the queue's open claim. -/
def State.dropMq (s : State) (cls : List Nat) : State :=
  { s with fabric := { s.fabric with mq := s.fabric.mq.map fun q =>
      match q.2.openBy with
      | some (cl, _, _) => if cl ∈ cls then (q.1, { q.2 with openBy := none }) else q
      | none => q } }

/-- Why each job ends when a context is killed: the jobs that carry a cause of their own, with
descriptor position and cluster; every other job carries 0x2F. -/
abbrev Blame := List (Nat × Nat × Nat × Nat)

def blameOf (b : Blame) (id : Nat) : Nat × Nat × Nat :=
  match b.find? fun x => x.1 == id with
  | some x => x.2
  | none => (0x2F, 0, 0)

/-- End every job of a context. With `records` false they end without one (R398). -/
def State.endJobs (s : State) (c : Nat) (b : Blame) (records : Bool) : State :=
  (s.jobsOf c).foldl (fun s j =>
    if records then
      let x := blameOf b j.id
      s.report j .fault x.1 x.2.1 x.2.2
    else s.removeJob j) s

/-- Seed the lane-mode states of a context again (R276, R288). -/
def State.seedLanes (s : State) (c : Nat) : State :=
  let s := { s with seq := { s.seq with
    lanes := s.seq.lanes.filter fun e => e.1 / (64 * 160) ≠ c } }
  s.setCtx c { s.ctx c with seed := s.reg 0x2701 (c + 1) }

/-- What a kill does, whoever raises it, but for STATE and KILLCAUSE (DEDUCED, log entry 32). -/
def State.killWork (s : State) (c : Nat) (b : Blame) (records : Bool) : State :=
  let cls := (List.range 64).filter fun cl => match s.jobOn cl with
    | some j => j.ctx.val == c
    | none => false
  let s := s.killReqs c
  let s := s.dropMq cls
  let s := s.endJobs c b records
  let s := s.killPins c
  let s := s.seedLanes c
  let s := (List.range 8).foldl (fun s r =>
    if (s.ring c r).entBusy then s.setRing c r { s.ring c r with killed := true } else s) s
  let s := { s with seq := { s.seq with tags := s.seq.tags.filter fun e => e.1 / 256 ≠ c } }
  let s := s.dropReqs fun r => match r.purpose with
    | .restore k _ _ => k.val == c
    | _ => false
  let x := s.ctx c
  s.setCtx c { x with saved := [], toRestore := [], stored := false }

/-- Kill a context (R267, R314): HALTED, and the cause kept in KILLCAUSE. -/
def State.killQuiet (s : State) (c cause : Nat) (b : Blame) : State :=
  let s := s.killWork c b true
  (s.setFld 0x2860 (c + 1) 15 8 cause).setCtxState c ctxHalted

/-- A kill is also a fault that may trigger a snapshot (R496). -/
def State.killContext (s : State) (c cause : Nat) (b : Blame) : State :=
  s.snapFault.killQuiet c cause b

/-! ### Ends of jobs -/

/-- Signal a fence tag for a job or one of its descriptors (R305). Beyond the range, the context is
killed with cause 0x0A, which the job carries (R306, R314). -/
def State.signalTag (s : State) (j : Job) (t : Nat) : State :=
  if t = 0 then s
  else
    let v := s.tagBal j.ctx.val t - 1
    if tagFits v then s.setTag j.ctx.val t v
    else s.killContext j.ctx.val 0x0A [(j.id, 0x0A, 0, 0)]

/-- A job ends: its record, and its FSIG with STATUS 0x0 or 0x3 (R305, R314). A signal out of range
makes the record itself carry cause 0x0A. -/
def State.endJob (s : State) (j : Job) (e : JobEnd) (cause pos cl : Nat) : State :=
  let sig := decide (j.fsig ≠ 0) && (e == .done || e == .dropped)
  let c := j.ctx.val
  let v := s.tagBal c j.fsig - 1
  if sig && !tagFits v then
    (s.report j .fault 0x0A 0 0).killContext c 0x0A []
  else
    let s := s.report j e cause pos cl
    if sig then s.setTag c j.fsig v else s

/-- A fault that leaves the job's other clusters running: the first in time is kept, on ties the
one of the lowest cluster (R146, R511). -/
def State.jobFault (s : State) (id cause pos cl : Nat) : State :=
  let now := s.time.now
  s.updJob id fun j =>
    let first := match j.fault with
      | none => true
      | some old => j.faultAt == now && decide (cl < old.2.2)
    if first then { j with fault := some (BitVec.ofNat 8 cause, pos, cl), faultAt := now } else j

/-- A kill whose cause the faulting work of a cluster raises. -/
def State.killFrom (s : State) (cl cause pos : Nat) : State :=
  match s.jobOn cl with
  | some j => s.killContext j.ctx.val cause [(j.id, cause, pos, cl)]
  | none => s

/-- A fault of a thread-group processor is noted; what it brings comes at the end of the clock, so that the first of
several is known (R266, R268). Poisoned data is consumed (R217). -/
def State.tgFault (s : State) (cl sched slot lane cause : Nat) (pc : Nat) (addr : Word64) : State :=
  match s.jobOn cl with
  | none => s
  | some j =>
    let s := if cause = 0x25 then s.consumed (leafDie cl) 1 else s
    { s with seq := { s.seq with faults := s.seq.faults ++ [⟨cl, sched, slot, lane, cause, pc, addr, j.id⟩] } }

/-- The lower cluster, scheduler, slot, lane (R268). -/
def TgNote.before (a b : TgNote) : Bool :=
  listLt [a.cl, a.sched, a.slot, a.lane] [b.cl, b.sched, b.slot, b.lane]

/-- A context's first fault of the clock: logged where the log is free, and the context killed, where the job has
not ended (R267 to R269). -/
def State.tgKill (s : State) (f : TgNote) : State :=
  match s.jobOn f.cl with
  | none => s
  | some j =>
    if j.id ≠ f.job then s
    else
      let s :=
        if s.bit 0x2620 8 29 || s.heldClear 0x2620 8 29 then s
        else
          let s := s.setReg 0x2620 8 (packWord [(f.cause, 0), (j.ctx.val, 8), (f.cl, 12), (f.sched, 18),
            (f.slot, 20), (f.lane, 24), (f.pc % 2 ^ 32, 32)])
          (s.setReg 0x2620 9 f.addr).event 0x2620 8 29
      s.killContext j.ctx.val f.cause [(j.id, f.cause, 0, f.cl)]

/-- The clock's thread-group faults, the first one first (R268). -/
def orderFaults : Nat → List TgNote → List TgNote
  | 0, _ => []
  | n + 1, fs => match firstBy TgNote.before fs with
    | some f => f :: orderFaults n (fs.filter (· ≠ f))
    | none => []

/-- The clock's thread-group faults bring their kills: a job that the first of its context has ended has none
left. -/
def State.killFaulted (s : State) : State :=
  (orderFaults s.seq.faults.length s.seq.faults).foldl State.tgKill { s with seq := { s.seq with faults := [] } }

/-- The read of a cluster's next descriptor is no longer waited for. -/
def State.dropDescr (s : State) (cl : Nat) : State :=
  { s with reqs := s.reqs.filter fun r => match r.purpose with
      | .descr c => c.val != cl
      | _ => true }

/-- The engine of a cluster stops at a descriptor that could not be run (R119, R146, R214): the job
will end with a fault record, and earlier descriptors' effects stand. -/
def State.stopList (s : State) (cl cause pos : Nat) : State :=
  match s.jobOn cl with
  | none => s
  | some j =>
    let s := (s.jobFault j.id cause pos cl).dropDescr cl
    let e := s.engine cl
    s.setEngine cl { e with ended := true, stopped := true, reading := false
                            descs := e.descs.filter fun r => decide (r.pos < pos) }

/-! ### Lane-mode states (R276 to R279) -/

def laneKey (c cl lane : Nat) : Nat := (64 * c + cl) * 160 + lane

/-- State of a lane of a cluster in a context. -/
def State.lane (s : State) (c cl lane : Nat) : Word64 :=
  match Tbl.find s.seq.lanes (laneKey c cl lane) with
  | some v => v
  | none => laneSeed (s.ctx c).seed cl lane

def State.setLane (s : State) (c cl lane : Nat) (v : Word64) : State :=
  { s with seq := { s.seq with lanes := Tbl.set s.seq.lanes (laneKey c cl lane) v } }

end Sys2Proof.Machine
end

