-- ==== Sys2Proof/Machine/Peers.lean ====
section
/-! DEFINITION. The receiving side of Morotik: acknowledgements, the order of a connection, and the end of a
packet's execution, once its requests have been served (R351, R353, R357, R358). -/

namespace Sys2Proof.Machine

/-! ### Acknowledgements (R358) -/

/-- Bit i: PSN + 1 + i has been received. -/
def Conn.bitmap (c : Conn) : Word64 :=
  c.held.foldl (fun w f => let i := (f.psn - c.rxPsn - 1).toNat
    if i < 64 then w ||| (1 <<< i) else w) 0

/-- Send an ACK. It names its connection's class in TAG; STATUS speaks of the packet before its PSN
(DESIGN CHOICE, log entry 18). -/
def State.sendAck (s : State) (node cls status : Nat) : State :=
  if s.node = 0xFFFF then s
  else
    let c := s.conn node cls
    let f := s.packet opAck node status 0 cls c.bitmap 0 c.ece false [] []
    let f := { f with w1 := mkW1 c.rxPsn status, ecn := if s.switched node f.udpSrc then 2 else 0 }
    ((s.setConn node cls { c with ackDue := 0, ece := false }).count 0x3920 1).forward f none false

/-! ### Order of a connection (R357, R361) -/

/-- Bytes of the packets held in the reorder buffer. -/
def State.reorderBytes (s : State) : Nat :=
  (s.fabric.conns.map fun c => (c.2.held.map MFrame.bytes).foldl (· + ·) 0).foldl (· + ·) 0

/-- RSY: the receiver takes a later PSN as the one it expects; a packet that executes is given up. -/
def Conn.resync (c : Conn) (f : MFrame) : Conn :=
  if f.rsy && psnAhead f.psn c.rxPsn then
    { c with rxPsn := f.psn, exec := none, held := c.held.filter fun h => !psnAhead f.psn h.psn }
  else c

/-- A packet has been executed: the next PSN is expected, and a held packet may now follow. -/
def State.executed (s : State) (node cls : Nat) (f : MFrame) (status : Nat) : State :=
  let c := s.conn node cls
  let next := c.rxPsn + 1
  let c' := { c with
    rxPsn := next
    held := c.held.filter fun h => h.psn != next
    ackDue := c.ackDue + 1
    ackAt := if c.ackDue = 0 then s.time.now else c.ackAt
    ece := c.ece || f.ecn == 3 }
  let s := s.setConn node cls c'
  let s := { s with fabric := { s.fabric with
    inbox := ((c.held.filter fun h => h.psn == next).map (·, true)) ++ s.fabric.inbox } }
  if status ≠ 0 ∨ 4 ≤ c'.ackDue then s.sendAck node cls status else s

/-! ### Operations at the target (R353) -/

/-- Poison of payload sectors, as a function of a memory sector written at an address. -/
def framePois (f : MFrame) : List Bool := (List.range ((f.payload.length + 31) / 32)).map f.sectorPois

def framePa (f : MFrame) : Nat := fieldOf f.addr 47 0

/-- Peers reach HBM alone (R41). -/
def peerMay (pa n : Nat) : Bool := localKind pa n == .hbm

/-- Send a response to the node of a request, with its tag. -/
def State.respond (s : State) (f : MFrame) (op status : Nat) (data : List Byte) (pois : List Bool) : State :=
  s.send f.snode.toNat (s.packet op f.snode.toNat status data.length f.tag 0 0 false false data pois)

def atomOpOf (n : Nat) : Option AtomOp :=
  [none, some .add, some .min, some .max, some .and, some .or, some .xor, some .exch, some .cas].getD n none
def atomTyOf (n : Nat) : Option AtomTy :=
  [some .i32, some .u32, some .i64, some .f32, some .b32, some .b64].getD n none

/-- The operation, type and operands of an ATOMIC, where its codes and its payload agree (DEDUCED, log entry 72). -/
def frameAtomic (f : MFrame) : Option (AtomOp × AtomTy × Word64 × Word64) :=
  match atomOpOf f.aop, atomTyOf f.atype with
  | some op, some ty =>
    let n := atomWidth ty
    let word (i : Nat) : Word64 := BitVec.ofNat 64 (beNat ((f.payload.drop (n * i)).take n))
    if atomForm op ty ∧ f.payload.length = n * (if op = .cas then 2 else 1) then some (op, ty, word 0, word 1) else none
  | _, _ => none

/-- The requests of a run of a connection. -/
def Purpose.ofRun (node cls run : Nat) : Purpose → Bool
  | .packet n k i _ => n == node && k == cls && i == run
  | _ => false

/-- The answer to a packet that has executed: to a READREQ its bytes, to an ATOMIC the value before. -/
def State.answerPacket (s : State) (f : MFrame) (rs : List Req) : State :=
  let bs := bytesOf rs
  if f.op = opReadReq then s.respond f opReadResp 0 (bs.map (·.1)) (unitPois bs)
  else if f.op = opAtomic then
    let n := ((frameAtomic f).map fun x => atomWidth x.2.1).getD 0
    s.respond f opAtomicResp 0 (beBytes n (leNat ((bs.map (·.1)).take n))) [bs.any (·.2)]
  else s

/-- The packet that a connection executes is done once its requests are. -/
def State.packetDone (s : State) (node cls : Nat) : State :=
  match (s.conn node cls).exec with
  | none => s
  | some (run, f) =>
    let mine := s.reqs.filter fun r => r.purpose.ofRun node cls run
    if mine.all Req.finished then
      let s := s.dropReqs fun r => r.purpose.ofRun node cls run
      let s := s.setConn node cls { s.conn node cls with exec := none }
      (s.answerPacket f mine).executed node cls f 0
    else s

/-- Every connection's packet whose requests have been served. -/
def State.packetsDone (s : State) : State :=
  s.fabric.conns.foldl (fun s e => if e.2.exec.isSome then s.packetDone (e.1 / 2) (e.1 % 2) else s) s

end Sys2Proof.Machine
end

