-- ==== Sys2Proof/Machine/Settle.lean ====
section
/-! DEFINITION. What the acceptance or the refusal of a write brings to the master that issued it
(R39, R165, R253, R303, R354). -/

namespace Sys2Proof.Machine

/-! ### Descriptors in an engine -/

/-- A descriptor's work and its writes have ended. -/
def DescRun.drained (r : DescRun) : Bool := r.issueEnd && r.groupsLeft == 0 && r.writes == 0

/-- The wait of the current descriptor for its tokens begins. -/
def Engine.arm (e : Engine) (now : Nat) : Engine :=
  match e.current with
  | some r => if r.taken || r.takeAt.isSome then e else e.updDesc r.pos fun r => { r with takeAt := some now }
  | none => e

/-- Descriptors wholly done leave the engine. -/
def Engine.tidy (e : Engine) (now : Nat) : Engine :=
  ({ e with descs := e.descs.filter fun r => !(r.drained && r.posted && r.signalled) }).arm now

/-! ### Writes -/

/-- Change one thread of a group slot of a TG. -/
def Tg.updThread (t : Tg) (slot lane : Nat) (f : Thread → Thread) : Tg :=
  { t with groups := t.groups.map fun g =>
      if g.1 = slot then (g.1, { g.2 with threads := g.2.threads.modify lane f }) else g }

/-- Key of a group slot: 12 to a scheduler (R227). -/
def slotKey (sched : Sched) (slot : Nat) : Nat := 12 * sched.val + slot

def Tg.thread? (t : Tg) (key lane : Nat) : Option Thread :=
  (Tbl.find t.groups key).bind fun g => g.threads[lane]?

/-- A descriptor has started: it has taken tokens, loaded a tile or issued an operand. -/
def DescRun.started (r : DescRun) : Bool := r.issued || r.loaded || (r.taken && r.d.takeN != 0)

/-- An epilogue write was refused at another node (R354): the job will end with cause 0x04, and the
engine starts no further descriptor. -/
def State.epilogueRefused (s : State) (cl pos : Nat) : State :=
  match s.jobOn cl with
  | none => s
  | some j =>
    let s := (s.jobFault j.id 0x04 pos cl).dropDescr cl
    let e := s.engine cl
    s.setEngine cl { e with ended := true, stopped := true, reading := false
                            descs := e.descs.filter DescRun.started }

/-- One finished write: it leaves the network, and its master hears of it. -/
def State.settleReq (s : State) (r : Req) : State :=
  let s := s.dropReq r.id
  match r.purpose with
  | .epilogue cl pos =>
    let s := s.setEngine cl (((s.engine cl).updDesc pos fun d => { d with writes := d.writes - 1 }).tidy s.time.core)
    if r.stage = .refused then s.epilogueRefused cl pos else s
  | .store cl sched slot lane pc =>
    if r.stage = .refused then s.tgFault cl sched slot lane 0x20 pc r.addr else s
  | .job id | .result id _ _ =>
    match s.job? id with
    | some j => if r.stage = .refused then s.endJob j .fault 0x09 0 0 else s
    | none => s
  | .record c irq => s.recWritten c irq
  | _ => s

/-- The finished write of a number, where an earlier one has not taken it away. -/
def State.settleOne (s : State) (id : Nat) : State :=
  match s.req? id with
  | some r => s.settleReq r
  | none => s

/-- What a request brings that nobody waits for: of a job that has ended, of a packet or a BAR2 read given up. -/
def State.unwanted (s : State) (r : Req) : Bool :=
  match r.purpose with
  | .job id => (s.job? id).isNone
  | .packet n k run _ => match (s.conn n k).exec with
    | some x => x.1 != run
    | none => true
  | .bar2 acc _ => !s.link.waits.any fun w => w.1 == acc
  | _ => false

/-- A piece of a BAR2 read. -/
def Purpose.ofBar2 (acc : Nat) : Purpose → Bool
  | .bar2 a _ => a == acc
  | _ => false

/-- A BAR2 read is answered once its bytes have come (R215, R384). -/
def State.bar2Done (s : State) (acc : Nat) : State :=
  let mine := s.reqs.filter fun r => r.purpose.ofBar2 acc && r.kind == .read
  if mine.all Req.finished then
    let bs := bytesOf mine
    let s := s.dropReqs fun r => r.purpose.ofBar2 acc && r.kind == .read
    let s := { s with link := { s.link with waits := s.link.waits.filter fun w => w.1 ≠ acc } }
    s.emit (.bar2 false (bs.map (·.1)) (bs.any (·.2)))
  else s

def State.bar2sDone (s : State) : State := s.link.waits.foldl (fun s w => s.bar2Done w.1) s

/-- Finished writes, and what nobody waits for, leave the network; and what has waited for the last of a set
of requests goes on: records, packets, BAR2 reads. -/
def State.settle (s : State) : State :=
  let s := ((s.reqs.filter fun r => r.finished && (r.kind == .write || s.unwanted r)).map (·.id)).foldl
    State.settleOne s
  s.payOwed.packetsDone.bar2sDone

end Sys2Proof.Machine
end

