-- ==== Sys2Proof/Machine/Device.lean ====
section
/-! DEFINITION. Changes of the device state, and what entering FAULTED, DEGRADED and SERVICE brings
(R464 to R470). -/

namespace Sys2Proof.Machine

/-- Change fields of DEVSTATE: any change raises the state-change vector and makes a TPDO2 due
(R389, R427, R464). -/
def State.setDevWord (s : State) (w : Word64) : State :=
  if s.reg 0x2B00 1 = w then s
  else
    let s := (s.setReg 0x2B00 1 w).raise 22
    ({ s with can := { s.can with pdo2Due := true } }).noteErr

/-- Enter a device state. -/
def State.setDev (s : State) (n : Nat) : State :=
  s.setDevWord (withField (s.reg 0x2B00 1) 3 0 n)

/-- The emergency code of an entered state (R425). -/
def enterCode (n : Nat) : Option Nat :=
  if n = devFaulted then some 0xFF10
  else if n = devService then some 0xFF11
  else if n = devDegraded then some 0xFF12
  else none

/-- Enter a state and queue its emergency message. -/
def State.enter (s : State) (n : Nat) : State :=
  if s.dev = n then s
  else
    let s := s.setDev n
    match enterCode n with
    | some c => s.unnamedEmergency c
    | none => s

/-- Leaf regulator cells off, core clocks stopped, stacks in self-refresh (R455, R468). -/
def State.leavesOff (s : State) : State :=
  { s with bring := { s.bring with leafOn := 0 }, hbm := { s.hbm with selfRef := true } }

/-- Every context killed with cause 0x2F (DEDUCED, log entry 34). -/
def State.killAll (s : State) : State :=
  (List.range 16).foldl (fun s c => s.killQuiet c 0x2F []) s

/-- Entry to FAULTED (R466, R468, R496), from any state but OFF and STANDBY (DEDUCED, log entry 34). -/
def State.enterFaulted (s : State) : State :=
  if s.dev ≤ devStandby ∨ s.dev = devFaulted then s
  else
    let s := ((s.snapFault.killAll).leavesOff).enter devFaulted
    { s with bring := { s.bring with phaseAt := s.time.now } }

/-- An in-service loss moves READY to DEGRADED at once (R469). -/
def State.degrade (s : State) : State := if s.dev = devReady then s.enter devDegraded else s

/-- The input is in the range a start needs (R466): 360 to 420 V, as last measured, and present. -/
def State.inputGood (s : State) : Bool :=
  s.bring.hv && (s.power.volts == [] || decide (3600 ≤ s.fld 0x2100 8 15 0 ∧ s.fld 0x2100 8 15 0 ≤ 4200))

end Sys2Proof.Machine
end

