-- ==== Sys2Proof/Machine/Slices.lean ====
section
/-! DEFINITION. What a home slice and an HBM controller do with a request over time: errors found on
a read, misses, fills, marked reads, writes that fetch first, and stream detectors (R159 to R175,
R192 to R195, R207, R209). -/

namespace Sys2Proof.Machine

/-! ### Wrong bits in a caddy line (R207, R209) -/

/-- CELOG.LOC of a word of a caddy line, from its way key. -/
def caddyLoc (key sector word : Nat) : Nat :=
  let way := key % 24
  let set := key / 24 % 2048
  let slice := key / (24 * 2048) % 256
  slice + set * 2 ^ 8 + way * 2 ^ 19 + sector * 2 ^ 24 + word * 2 ^ 26

def keyCaddy (key : Nat) : Nat := key / (256 * 2048 * 24)

/-- Wrong bits in one of the two copies of a line's tag and state (R206): put right, or written again from the
other copy. Its location is logged as that of the line's first word (DESIGN CHOICE, log entry 150). -/
def State.tagError (s : State) (key bits : Nat) : State :=
  let cad := keyCaddy key
  if bits = 0 then s
  else if bits ≤ 2 then (s.corrected (8 + cad) (caddyLoc key 0 0) (bits == 2)).addFixup
  else (s.count (0x3410 + cad) 3).addFixup

/-- One word of a line read with wrong bits, for a class: of its data below 16, of its tag from there on; words of
invalid and of poisoned sectors are not. A clean sector that is lost is fetched again (R209). -/
def State.wordError (s : State) (key : Nat) (nc : Fin 7) (e : WordErr) : State :=
  let j := e.word / 4 % 4
  let l := s.line key
  let cad := keyCaddy key
  let loc := caddyLoc key j (e.word % 4)
  if 16 ≤ e.word then s.tagError key e.bits
  else if e.bits = 0 ∨ l.valid.getLsbD j = false ∨ l.poison.getLsbD j then s
  else if e.bits ≤ 2 then
    (s.corrected (8 + cad) loc (e.bits == 2)).addFixup
  else if l.dirty.getLsbD j then
    let s := s.setLine key (l.setBits j true true true)
    ((s.count (0x3410 + cad) 3).count (0x3410 + cad) 5).logUe (8 + cad) loc 1
  else
    let s := s.setLine key (l.setBits j false false false)
    ((s.count (0x3410 + cad) 3).count (0x3410 + cad) 9).hbmRead nc (4 * l.tag.toNat + j) none false false

def State.wordErrors (s : State) (key : Nat) (nc : Fin 7) (errs : List WordErr) : State :=
  errs.foldl (fun s e => s.wordError key nc e) s

/-- Both copies of a line's tag or state are lost (R209). -/
def State.tagLoss (s : State) (cad : Nat) : State := ((s.count (0x3410 + cad) 3).intEvent 5).enterFaulted

/-- What an access to a line finds wrong in the arrays. -/
def State.lineErrors (s : State) (pa : Nat) (nc : Fin 7) (errs : List WordErr) (tagLost : Bool) : State :=
  if tagLost then s.tagLoss (s.homeOf pa)
  else match s.findWay pa with
    | some k => s.wordErrors k nc errs
    | none => s

/-! ### Ports (R161, R162) -/

/-- Number of the slice that serves an address. -/
def State.portOf (s : State) (pa : Nat) : Nat := 256 * s.homeOf pa + s.sliceOf pa
def State.slicePort (s : State) (k : Nat) : SlicePort := Tbl.get SlicePort.init s.caddy.ports k
def State.setPorts (s : State) (k : Nat) (p : SlicePort) : State :=
  { s with caddy := { s.caddy with ports := Tbl.put SlicePort.init s.caddy.ports k p } }

/-- A slice can serve a read of a line in this clock: it has served none, and has not written the line, which
the read would have come before. -/
def State.readFree (s : State) (k line : Nat) : Bool :=
  let p := s.slicePort k
  p.readAt != some s.time.core && !(p.lineAt == some s.time.core && p.line == line)

def State.writeFree (s : State) (k : Nat) : Bool := decide ((s.slicePort k).busyTo ≤ s.time.core)

def State.takeRead (s : State) (k : Nat) : State :=
  s.setPorts k { s.slicePort k with readAt := some s.time.core }

/-- The write port is taken for some clocks by a write of a line. -/
def State.takeWrite (s : State) (k line clocks : Nat) : State :=
  s.setPorts k { s.slicePort k with busyTo := s.time.core + clocks, line := line, lineAt := some s.time.core }

/-- Clocks of the write port that a write takes: one more where it covers a 64-bit word in part (R161). -/
def writeClocks (pa n : Nat) : Nat := if pa % 8 = 0 ∧ n % 8 = 0 then 1 else 2

/-! ### Stream detectors (R193) -/

def State.detector (s : State) (cad i : Nat) : Option Detector := Tbl.find s.caddy.detect (64 * cad + i)
def State.setDetector (s : State) (cad i : Nat) (d : Detector) : State :=
  { s with caddy := { s.caddy with detect := Tbl.set s.caddy.detect (64 * cad + i) d } }

/-- Sectors of the lines from one up to, and not with, another that a prefetch would fetch. -/
def State.streamSectors (s : State) (lo hi : Nat) : List Nat :=
  (((List.range (min hi (hbmBytes / 128) - lo)).map (lo + ·)).map fun l =>
    if s.guarded (128 * l) then []
    else ((List.range 4).map (4 * l + ·)).filter fun sec => (s.sectorIn sec).isNone).flatten

/-- A demand miss of a class on a line, as the detectors of its home caddy see it. -/
def State.noteMiss (s : State) (nc : Fin 7) (line : Nat) : State :=
  if !s.bit 0x2400 0x10 0 then s
  else
    let cad := s.homeOf (128 * line)
    let g := line / 32
    let all := (List.range 64).filterMap fun i => (s.detector cad i).map (i, ·)
    match all.find? fun x => x.2.nc == nc && decide (3 ≤ x.2.hits) && decide (x.2.line / 32 ≤ g ∧ g ≤ x.2.upto) with
    | some (i, d) =>
      if g = d.upto then
        (s.setDetector cad i { d with line := line, lastHit := s.time.core, upto := d.upto + 1 }).noteSectors nc none
          (s.streamSectors (32 * (d.upto + 1)) (32 * (d.upto + 2)))
      else s.setDetector cad i { d with line := line, lastHit := s.time.core }
    | none =>
      match all.find? fun x => x.2.nc == nc && decide (x.2.hits < 3) && x.2.line == line with
      | some (i, d) => s.setDetector cad i { d with lastHit := s.time.core }
      | none =>
        match all.find? fun x => x.2.nc == nc && decide (x.2.hits < 3) && x.2.line + 1 == line && x.2.line / 32 == g with
        | some (i, d) =>
          if d.hits = 2 then
            (s.setDetector cad i ⟨nc, line, 3, g + 1, s.time.core⟩).noteSectors nc none
              (s.streamSectors (line + 1) (32 * (g + 2)))
          else s.setDetector cad i ⟨nc, line, d.hits + 1, 0, s.time.core⟩
        | none =>
          match (List.range 64).find? fun i => (s.detector cad i).isNone with
          | some i => s.setDetector cad i ⟨nc, line, 1, 0, s.time.core⟩
          | none => s

/-! ### Service at the home slice -/

/-- Sectors a request needs in the caddy and does not find: those a read asks for, those a write
covers in part where it updates a line (R159, R160, R168). -/
def State.needs (s : State) (r : Req) : List Nat :=
  let pa := addrLocal r.addr
  let absent := fun sec => (s.sectorIn sec).isNone
  match r.kind with
  | .read => (sectorsOf pa r.len).filter fun sec => absent sec && !r.got.any fun g => g.1 == sec
  | .atomic _ _ => (sectorsOf pa r.len).filter absent
  | .write =>
    if r.alloc || (s.findWay pa).isSome then
      ((sectorPieces pa r.data).filter fun p => decide (p.2.2.length ≠ 32) && absent p.1).map (·.1)
    else []

/-- The sector's contents for a read: as taken when it was served, or as HBM brought it. -/
def State.readOf (s : State) (r : Req) (sec : Nat) : BitVec 256 × Bool :=
  match r.got.find? fun g => g.1 == sec with
  | some g => g.2
  | none => (s.sectorIn sec).getD (0, true)

/-- Complete a read whose sectors are at hand (R159, R171, R217). -/
def State.finishRead (s : State) (r : Req) : State :=
  let pa := addrLocal r.addr
  let xs := (sectorsOf pa r.len).map (s.readOf r)
  let s := s.countConsumed (s.homeOf pa) (xs.filter (·.2)).length
  let s := if r.marked then s.dropLine pa else s
  (s.updReq r.id fun q => { q with got := [] }).reply r (cutBytes pa r.len xs) (xs.any (·.2))

/-- Values a combined atomic brings back, as bytes. -/
def oldBytes (xs : List Word64) : List Byte := wordBytes xs

/-- Perform a request whose sectors are at hand. -/
def State.perform (s : State) (r : Req) : State :=
  let pa := addrLocal r.addr
  match r.kind with
  | .read => s.finishRead r
  | .write => (s.writeLine pa r.data (fun _ => r.poisoned) r.alloc r.master).reply r [] false
  | .atomic op ty =>
    let a := s.hbmAtomic pa op ty r.operands r.master r.poisoned
    (a.st.raiseExc ((s.jobOfReq r).map (·.id)) a.exc).reply r (oldBytes a.olds) a.bad

/-- Fetch what a request lacks; it waits for the fetches (R159). -/
def State.fetchFor (s : State) (r : Req) (secs : List Nat) : State :=
  let s := secs.foldl (fun s sec => s.hbmRead r.master.nc sec r.deadline false r.marked) s
  s.updReq r.id fun q => { q with stage := .missing }

/-- Go on with a request: perform it, or fetch what it lacks. -/
def State.resume (s : State) (r : Req) : State :=
  match s.needs r with
  | [] => s.perform r
  | secs => s.fetchFor r secs

/-- A read takes the sectors that are valid as it is served (R159). -/
def State.takeValid (s : State) (r : Req) : Req :=
  { r with got := r.got ++ ((sectorsOf (addrLocal r.addr) r.len).filterMap fun sec =>
      if r.got.any fun g => g.1 == sec then none else (s.sectorIn sec).map (sec, ·)) }

/-- Counts of the first service of a read: hits and misses by sector (R188, R203). -/
def State.countRead (s : State) (r : Req) (miss : List Nat) : State :=
  let pa := addrLocal r.addr
  let cad := s.homeOf pa
  let n := (sectorsOf pa r.len).length
  let s := s.count (0x3420 + r.master.nc.val) 1 r.len
  let s := if miss.length < n then (s.touch pa).count (0x3300 + cad) 1 (n - miss.length) else s
  if miss = [] then s else s.count (0x3300 + cad) 3 miss.length

/-- A request that misses on demand is seen by the stream detectors (R193). -/
def State.noteDemand (s : State) (r : Req) (miss : List Nat) : State :=
  if miss = [] then s else s.noteMiss r.master.nc (addrLocal r.addr / 128)

/-- The region's invalidation walk holds its requests (R154). -/
def State.walking (s : State) (pa : Nat) : Bool := decide (pa / 2 ^ 30 ∈ s.caddy.walks)

/-- Fetches outstanding in a slice, and requests that wait on a sector (R159). -/
def State.missesOf (s : State) (slice : Nat) : Nat :=
  (s.hbm.queue.filter fun q => !q.write && !q.scrub && s.portOf (32 * q.sector) == slice).length

def State.waitersOn (s : State) (sec : Nat) : Nat :=
  (s.reqs.filter fun r => r.stage == .missing && decide (sec ∈ s.needs r)).length

/-- A slice can take the misses of these sectors: those not yet outstanding are new (R159). -/
def State.missRoom (s : State) (pa : Nat) (secs : List Nat) : Bool :=
  let new := secs.filter fun sec => !s.fetching sec
  decide (new = [] ∨ s.missesOf (s.portOf pa) + new.length ≤ 64) && secs.all fun sec => decide (s.waitersOn sec < 16)

/-- A request stands at its home slice and is next for its line; STOP and the stacks' self-refresh
serve nothing. -/
def State.atSlice (s : State) (r : Req) : Bool :=
  r.arrived && r.stage == .waiting && r.master != .scrub && s.addrKind r.addr (max 1 r.len) == .hbm
    && s.firstOfLine r && !s.walking (addrLocal r.addr) && !s.coreStopped && !s.hbm.selfRef

/-- An unmarked read, or a marked one (R159, R171, R174, R177). -/
def State.serveRead (s : State) (r : Req) : State :=
  let pa := addrLocal r.addr
  let k := s.portOf pa
  if !s.readFree k (pa / 128) then s
  else if s.guarded pa then
    let s := (s.takeRead k).count (0x3420 + r.master.nc.val) 1 r.len
    let n := (sectorsOf pa r.len).length
    ((s.guardHit pa r.master r.marked).countConsumed (s.homeOf pa) n).reply r (List.replicate r.len 0) true
  else
    let miss := s.needs r
    if !s.missRoom pa miss then s
    else
      let r := s.takeValid r
      let s := (((s.takeRead k).updReq r.id fun q => { q with got := r.got }).countRead r miss).noteDemand r miss
      s.resume r

/-- A dregs mark on a pinned line is ignored, and recorded (R177). -/
def State.ignoreMark (s : State) (r : Req) : State :=
  let cad := s.homeOf (addrLocal r.addr)
  let s := (s.event 0x2310 0x0C (6 + cad)).count (0x3300 + cad) 0x11
  s.updReq r.id fun q => { q with marked := false }

/-- A write or an atomic that the slice can serve in this clock begins (R159, R160, R168). -/
def State.onWritePort (s : State) (r : Req) (clocks : Nat) : State :=
  let pa := addrLocal r.addr
  let miss := s.needs r
  if !s.writeFree (s.portOf pa) || !s.missRoom pa miss then s
  else ((s.takeWrite (s.portOf pa) (pa / 128) clocks).noteDemand r miss).resume r

/-- A write at its home slice (R160, R175): it removes the line from the guard as it is served. -/
def State.serveWrite (s : State) (r : Req) : State :=
  s.onWritePort r (writeClocks (addrLocal r.addr) r.data.length)

/-- An atomic at its home slice (R168, R174). -/
def State.serveAtomic (s : State) (r : Req) : State :=
  let pa := addrLocal r.addr
  if s.guarded pa then (if s.writeFree (s.portOf pa) then (s.takeWrite (s.portOf pa) (pa / 128) 1).perform r else s)
  else s.onWritePort r 1

/-- A request that waited for fetches goes on, and fetches again what has been evicted meanwhile. -/
def State.wakeOne (s : State) (id : Nat) : State :=
  match s.req? id with
  | some r => if r.stage = .missing then s.resume r else s
  | none => s

def State.wake (s : State) (sec : Nat) : State :=
  ((s.reqs.filter fun r => r.stage == .missing
    && decide (sec ∈ sectorsOf (addrLocal r.addr) (max r.len r.data.length))).map (·.id)).foldl State.wakeOne s

/-! ### The sector code (R194, R195) -/

/-- Multiply by x in GF(2^16). -/
def gfX (a : BitVec 16) : BitVec 16 := if a.getLsbD 15 then (a <<< 1) ^^^ 0x100B else a <<< 1

def gfXn : Nat → BitVec 16 → BitVec 16
  | 0, a => a
  | n + 1, a => gfXn n (gfX a)

/-- The 18 symbols of a burst. -/
def symbols (v : BitVec 288) : List (BitVec 16) := (List.range 18).map fun i => (v >>> (16 * i)).setWidth 16

/-- Both components of a syndrome. -/
def syndrome (v : BitVec 288) : BitVec 16 × BitVec 16 :=
  ((symbols v).foldl (· ^^^ ·) 0,
   ((symbols v).zipIdx.map fun x => gfXn x.2 x.1).foldl (· ^^^ ·) 0)

/-- Both check symbols inverted. -/
def poisonFlip : BitVec 288 := (BitVec.ofNat 288 (2 ^ 32 - 1)) <<< 256

inductive SectorOutcome | good | stack | fixed | poison | bad
deriving DecidableEq, Repr

/-- The outcome of a read, and the data delivered, for stored data, its poison, and the bits found
wrong (R195). -/
def decodeSector (data : BitVec 256) (pois : Bool) (flip : BitVec 288) (sev : Severity) :
    SectorOutcome × BitVec 256 :=
  let err := if pois then flip ^^^ poisonFlip else flip
  let (s0, s1) := syndrome err
  let got := data ^^^ flip.setWidth 256
  if s0 = 0 ∧ s1 = 0 then (if sev = .none then .good else .stack, got)
  else if (s0, s1) = syndrome poisonFlip then (.poison, got)
  else
    match (List.range 18).find? fun i => gfXn i s0 == s1 with
    | some i => if s0 = 0 then (.bad, got)
      else (.fixed, got ^^^ ((s0.setWidth 288) <<< (16 * i)).setWidth 256)
    | none => (.bad, got)

/-- CELOG.LOC of a stack: bits [38:5] of the sector's address. -/
def sectorLoc (sec : Nat) : Nat := sec % 2 ^ 34

/-- A corrective write in the scrubber's class, unless a write to the sector is queued (R195). -/
def State.correctiveWrite (s : State) (sec : Nat) (v : BitVec 256) : State :=
  if s.hbm.queue.any fun q => q.write && q.sector == sec then s
  else s.hbmWrite 6 sec v (BitVec.allOnes 32) false

/-- What a read of a sector counts and records, whoever reads it. -/
def State.noteSector (s : State) (sec : Nat) (o : SectorOutcome) : State :=
  let st := s.stackOf (32 * sec)
  match o with
  | .good | .poison => s
  | .stack | .fixed => s.corrected st (sectorLoc sec) false
  | .bad => (s.count (0x3400 + st) 3).logUe st (sectorLoc sec) 0

/-- A sector read from HBM: decoded, recorded, written back where corrected; its data and poison. -/
def State.decodeAt (s : State) (sec : Nat) (flip : BitVec 288) (sev : Severity) :
    State × BitVec 256 × Bool :=
  let x := s.hbmGet sec
  let (o, v) := decodeSector x.1 x.2 flip sev
  let s := s.noteSector sec o
  match o with
  | .good => (s, v, false)
  | .stack | .fixed => (s.correctiveWrite sec v, v, false)
  | .poison => (s.consumed (s.stackOf (32 * sec)) 1, v, true)
  | .bad => (s, v, true)

/-! ### Retirement of a slice (R189) -/

/-- Way keys of a slice. -/
def State.sliceKeys (s : State) (cad sl : Nat) : List Nat :=
  (s.caddy.lines.map (·.1)).filter fun k => k / (2048 * 24) == 256 * cad + sl

/-- Write back a slice's dirty sectors and invalidate its lines. -/
def State.emptySlice (s : State) (cad sl : Nat) : State :=
  (s.sliceKeys cad sl).foldl (fun s k => (s.writeBack k 6).setLine k Line.empty) s

end Sys2Proof.Machine
end

