-- ==== Sys2Proof/Machine/Caddy.lean ====
section
/-! DEFINITION. The meanings of the commands of the caddies: requests at the home slices, prefetch,
flush, walks, pins and the thrash monitor (05_caddy_cache.md). An event whose stated condition does
not hold leaves the state as it is. -/

namespace Sys2Proof.Machine

/-- An event that acts only where its condition holds (DESIGN CHOICE, log entry 2). -/
def State.when (s : State) (b : Bool) (f : State → State) : State := if b then f s else s

/-! ### Requests -/

def State.sliceRead (s : State) (id : Nat) (errs : List WordErr) (tagLost : Bool) : State :=
  match s.req? id with
  | some r =>
    if r.kind = .read ∧ !r.marked ∧ s.atSlice r then
      if !s.readFree (s.portOf (addrLocal r.addr)) (addrLocal r.addr / 128) then s
      else
        let s := s.lineErrors (addrLocal r.addr) r.master.nc errs tagLost
        if tagLost then s else s.serveRead r
    else s
  | none => s

def execSliceRead (id : Nat) (errs : List WordErr) (tagLost : Bool) (s : State) :
    Host.Outcome State Fault Refusal :=
  .next (s.sliceRead id errs tagLost)

def State.markedRead (s : State) (id : Nat) (errs : List WordErr) (tagLost : Bool) : State :=
  match s.req? id with
  | some r =>
    if r.kind = .read ∧ r.marked ∧ s.atSlice r then
      if !s.readFree (s.portOf (addrLocal r.addr)) (addrLocal r.addr / 128) then s
      else
        let s := s.lineErrors (addrLocal r.addr) r.master.nc errs tagLost
        if tagLost then s
        else if !s.guarded (addrLocal r.addr) && s.linePinned (addrLocal r.addr) then
          (s.ignoreMark r).serveRead { r with marked := false }
        else s.serveRead r
    else s
  | none => s

def execMarkedRead (id : Nat) (s : State) (errs : List WordErr := []) (tagLost : Bool := false) :
    Host.Outcome State Fault Refusal := .next (s.markedRead id errs tagLost)

/-- A write or an atomic meets the line's words and tag as it is served. -/
def State.portErrors (s : State) (r : Req) (errs : List WordErr) (tagLost : Bool) (serve : State → Req → State) :
    State :=
  if !s.writeFree (s.portOf (addrLocal r.addr)) then s
  else
    let s := s.lineErrors (addrLocal r.addr) r.master.nc errs tagLost
    if tagLost then s else (serve s r).settle

def State.sliceWrite (s : State) (id : Nat) (errs : List WordErr) (tagLost : Bool) : State :=
  match s.req? id with
  | some r => if r.kind = .write ∧ s.atSlice r then s.portErrors r errs tagLost State.serveWrite else s
  | none => s

def execSliceWrite (id : Nat) (s : State) (errs : List WordErr := []) (tagLost : Bool := false) :
    Host.Outcome State Fault Refusal := .next (s.sliceWrite id errs tagLost)

def ReqKind.isAtomic : ReqKind → Bool
  | .atomic _ _ => true
  | _ => false

def State.atomicAtHome (s : State) (id : Nat) (errs : List WordErr) (tagLost : Bool) : State :=
  match s.req? id with
  | some r => if r.kind.isAtomic ∧ s.atSlice r then s.portErrors r errs tagLost State.serveAtomic else s
  | none => s

def execAtomicAtHomeSlice (id : Nat) (s : State) (errs : List WordErr := []) (tagLost : Bool := false) :
    Host.Outcome State Fault Refusal := .next (s.atomicAtHome id errs tagLost)

/-! ### Prefetch (R164) -/

/-- A prefetch request of a 4 KiB-aligned range, in the sequencer's class. -/
def State.prefetchReq (s : State) (base len : Nat) : State :=
  s.when (granuleRange base len) fun s => s.prefetchBytes 2 none base len

def execPrefetchRequest (base len : BitVec 48) (s : State) : Host.Outcome State Fault Refusal :=
  .next (s.prefetchReq base.toNat len.toNat)

/-- A demand miss of the slice waits to issue: a request has arrived and needs a sector that is neither valid
nor on its way. -/
def State.demandWaits (s : State) (k : Nat) : Bool :=
  s.reqs.any fun r => s.atSlice r && s.portOf (addrLocal r.addr) == k && !s.guarded (addrLocal r.addr)
    && (s.needs r).any fun sec => !s.fetching sec

/-- A slice can issue a prefetch fetch (R159, R164). -/
def State.prefetchFree (s : State) (k : Nat) : Bool :=
  !s.demandWaits k && !s.coreStopped && !s.hbm.selfRef && decide (s.missesOf k < 64)

/-- The next sector a slice has noted, in no region whose walk runs (R154). -/
def State.nextNote (s : State) (k : Nat) : Option (Nat × Nat × Fin 7 × Option (BitVec 24)) :=
  s.caddy.notes.find? fun x => x.1 == k && !s.walking (32 * x.2.1)

def State.prefetchIssue (s : State) (cad slice : Nat) : State :=
  let k := 256 * cad + slice
  if !s.prefetchFree k then s
  else
    match s.nextNote k with
    | none => s
    | some x =>
      let s := { s with caddy := { s.caddy with notes := s.caddy.notes.filter (· ≠ x) } }
      let sec := x.2.1
      if s.guarded (32 * sec) || (s.sectorIn sec).isSome then s
      else s.hbmRead x.2.2.1 sec x.2.2.2 true false

def execPrefetchFetchIssue (cad : Cad) (slice : Fin 256) (s : State) : Host.Outcome State Fault Refusal :=
  .next (s.prefetchIssue cad.val slice.val)

/-! ### Flush (R169) -/

/-- Start a flush of both caddies; the write-backs travel in the scrubber's class (DEDUCED, log entry 25). -/
def State.flush (s : State) : State :=
  let s := s.setBit 0x2310 0x10 1 true
  let s := (s.caddy.lines.map (·.1)).foldl (fun s k => s.writeBack k 6) s
  { s with caddy := { s.caddy with flush := s.nextReq } }

def State.flushDone (s : State) : State :=
  s.when (s.bit 0x2310 0x10 1 && !s.hbm.queue.any fun q => q.write && decide (q.id < s.caddy.flush)) fun s =>
    s.setBit 0x2310 0x10 1 false

def execCaddyFlushDone (s : State) : Host.Outcome State Fault Refusal := .next s.flushDone

/-! ### Region placement (R154) -/

/-- Regions a REGPLACE entry value would change. -/
def State.changedRegions (s : State) (sub : Nat) (v : Word64) : List Nat :=
  ((List.range 16).filter fun j =>
    decide (fieldOf v (2 * j + 1) (2 * j) ≠ s.placement (16 * (sub - 1) + j))).map (16 * (sub - 1) + ·)

/-- A pinned range overlaps a region. -/
def State.pinsIn (s : State) (region : Nat) : Bool :=
  s.pinRanges.any fun r => overlaps r.1 r.2 (262144 * region) 262144

/-- Issue at once the queued writes of a region, which belong to its old placement (DEDUCED, log entry 28). -/
def State.drainRegion (s : State) (region : Nat) : State :=
  let mine := s.hbm.queue.filter fun q => q.write && q.sector / 2 ^ 25 == region
  let s := mine.foldl (fun s q =>
    let x := s.hbmGet q.sector
    s.hbmPut q.sector (mergeBytes x.1 q.data q.mask) (q.poisoned || (x.2 && q.mask != BitVec.allOnes 32))) s
  { s with hbm := { s.hbm with queue := s.hbm.queue.filter fun q => !(q.write && q.sector / 2 ^ 25 == region) } }

/-- Invalidate a region's lines without write-back and remove them from both guards. -/
def State.dropRegion (s : State) (region : Nat) : State :=
  { s with caddy := { s.caddy with
      lines := s.caddy.lines.filter fun l => l.2.tag.toNat / 2 ^ 23 ≠ region
      guard0 := s.caddy.guard0.filter fun l => l / 2 ^ 23 ≠ region
      guard1 := s.caddy.guard1.filter fun l => l / 2 ^ 23 ≠ region
      walks := s.caddy.walks ++ [region] } }

/-- An accepted change of placement (DEDUCED, log entry 28). -/
def State.placeRegions (s : State) (sub : Nat) (v : Word64) : State :=
  let rs := s.changedRegions sub v
  let s := rs.foldl State.drainRegion s
  let s := rs.foldl State.dropRegion s
  s.setReg 0x2320 sub v

def State.walkDone (s : State) (region : Nat) : State :=
  { s with caddy := { s.caddy with walks := s.caddy.walks.filter (· ≠ region) } }

def execRegionInvalidateWalkDone (region : Fin 384) (s : State) : Host.Outcome State Fault Refusal :=
  .next (s.walkDone region.val)

/-! ### Pins (R179 to R185) -/

/-- WAYS changes, and FREE with the capacity (R179, R184). -/
def State.setWays (s : State) (ways : Nat) : State :=
  let old := s.pinWays
  let s := [0, 1].foldl (fun (s : State) c =>
    s.setTokFree c (s.tokFree c + ((ways : Int) - (old : Int)) * 2048 * (s.liveSlices c : Int))) s
  s.setFld 0x2310 4 4 0 ways

def State.firstWalkDone (s : State) : State :=
  match s.caddy.pin with
  | some (.pin base len owner pref .first _ job) => s.pinCommit base len owner pref job
  | _ => s

def execPinFirstWalkDone (s : State) : Host.Outcome State Fault Refusal := .next s.firstWalkDone

/-- The second walk ends: pinned bits set where lines are present, and the PREF fetch begins unless
its owner has been killed meanwhile. -/
def State.secondWalkDone (s : State) : State :=
  match s.caddy.pin with
  | some (.pin base len owner pref .second slot _) =>
    let s := s.markPinned base len true
    let live := s.pinSlot slot == some (base, len, owner)
    let s := if pref && live then
        ({ s with caddy := { s.caddy with
          pref := (base, len, owner, true) :: s.caddy.pref.map fun (p : Nat × Nat × Nat × Bool) =>
            (p.1, p.2.1, p.2.2.1, false) } }).noteSectors 2 none (s.prefetchSectors base len)
      else s
    s.pinDone slot
  | _ => s

def execPinSecondWalkDone (s : State) : Host.Outcome State Fault Refusal := .next s.secondWalkDone

/-- PREFDONE rises once every sector of the last pin's range is valid; a guarded line counts as fetched. -/
def State.prefDone (s : State) : State :=
  let gone := s.caddy.pref.filter fun p => s.prefetchSectors p.1 p.2.1 == []
  let s := { s with caddy := { s.caddy with pref := s.caddy.pref.filter fun p => s.prefetchSectors p.1 p.2.1 != [] } }
  if gone.any fun p => p.2.2.2 then s.setBit 0x2311 4 5 true else s

def execPinPrefetchDone (s : State) : Host.Outcome State Fault Refusal := .next s.prefDone

def State.unpinDone (s : State) : State :=
  match s.caddy.pin with
  | some (.unpin base len _) => (s.markPinned base len false).pinEnd 0
  | _ => s

def execUnpinWalkDone (s : State) : Host.Outcome State Fault Refusal := .next s.unpinDone

/-- One of the walks a kill left: it runs once any running request has ended. -/
def State.killWalk (s : State) : State :=
  match s.caddy.pin, s.caddy.killQ with
  | none, (base, len) :: rest =>
    let s := s.markPinned base len false
    ({ s with caddy := { s.caddy with killQ := rest } }).notePinBusy
  | _, _ => s

def execKillUnpinWalk (s : State) : Host.Outcome State Fault Refusal := .next s.killWalk

/-! ### The thrash monitor (R186) -/

/-- Slice of a caddy with the most re-fetches in the window. -/
def State.worstSlice (s : State) (cad : Nat) : Nat × Nat :=
  (List.range 256).foldl (fun b sl =>
    let n := (s.mon (256 * cad + sl)).refetch
    if b.2 < n then (sl, n) else b) (0, (s.mon (256 * cad)).refetch)

def State.thrashCaddy (s : State) (cad : Nat) : State :=
  let thr := s.fld 0x2310 6 15 0
  let (sl, n) := s.worstSlice cad
  if thr ≠ 0 ∧ thr ≤ n then s.thrash cad sl n else s

/-- A window of 2^WIN clocks ends: events, and both counts start again (DEDUCED, log entry 29). -/
def State.windowEnd (s : State) : State :=
  s.when (decide (s.time.core % 2 ^ s.fld 0x2310 6 20 16 = 0)) fun s =>
    let s := (s.thrashCaddy 0).thrashCaddy 1
    { s with caddy := { s.caddy with mon :=
        (s.caddy.mon.map fun m => (m.1, (⟨m.2.victims, 0, 0⟩ : SliceMon))).filter fun m => m.2 ≠ SliceMon.init } }

def execThrashWindowEnd (s : State) : Host.Outcome State Fault Refusal := .next s.windowEnd

end Sys2Proof.Machine
end

