-- ==== Sys2Proof/Machine/HbmOps.lean ====
section
/-! DEFINITION. The meanings of the commands of the HBM controllers, of arbitration, of repair and of
the scrubber (06_hbm_and_integrity.md). -/

namespace Sys2Proof.Machine

/-! ### Sectors (R192, R195) -/

def State.hbmReq? (s : State) (id : Nat) : Option HbmReq := s.hbm.queue.find? fun q => q.id == id

/-- A controller keeps requests for one sector in arrival order. -/
def State.hbmFirst (s : State) (q : HbmReq) : Bool :=
  !s.hbm.queue.any fun p => p.sector == q.sector && decide (p.id < q.id)

def State.dropHbm (s : State) (id : Nat) : State :=
  { s with hbm := { s.hbm with queue := s.hbm.queue.filter fun q => q.id ≠ id } }

/-- Bring a sector to the reads that wait on it (R159). -/
def State.keepSector (s : State) (sec : Nat) (v : BitVec 256) (p : Bool) : State :=
  { s with reqs := s.reqs.map fun r =>
      if r.stage = .missing ∧ r.kind = .read ∧ sec ∈ s.needs r then { r with got := (sec, v, p) :: r.got } else r }

/-- Some unmarked request waits on the sector, or a prefetch asked for it. -/
def State.sectorStays (s : State) (q : HbmReq) : Bool :=
  !q.noAlloc || s.reqs.any fun r => r.stage == .missing && !r.marked
    && decide (q.sector ∈ sectorsOf (addrLocal r.addr) (max r.len r.data.length))

/-- A fetched sector reaches its slice, under the writes accepted since it was asked for (R165). -/
def State.deliver (s : State) (q : HbmReq) (v : BitVec 256) (p : Bool) : State :=
  let x := s.overlay q.sector (v, p)
  let s := s.keepSector q.sector x.1 x.2
  let s := if s.sectorStays q then s.fillSector q.sector x.1 x.2 q.nc else s
  (s.wake q.sector).settle

/-- Mark a sector that the home caddy holds valid as dirty (R225). -/
def State.markDirty (s : State) (sec : Nat) : State :=
  match s.findWay (32 * sec) with
  | some k => s.setLine k { s.line k with dirty := (s.line k).dirty ||| ((1 : BitVec 4) <<< (sec % 4)) }
  | none => s

/-- The write that follows a scrub read takes its place, so that no other request for the sector comes between
them (R225). -/
def State.scrubWrite (s : State) (q : HbmReq) (v : BitVec 256) (p : Bool) : State :=
  { s with hbm := { s.hbm with queue := s.hbm.queue.map fun x =>
      if x.id = q.id then { q with write := true, data := v, mask := BitVec.allOnes 32, poisoned := p, granted := false }
      else x } }

/-- What the scrubber does with a sector it has read (R225). -/
def State.scrubReturn (s : State) (q : HbmReq) (flip : BitVec 288) (sev : Severity) : State :=
  let x := s.hbmGet q.sector
  let (o, v) := decodeSector x.1 x.2 flip sev
  let s := s.noteSector q.sector o
  match o with
  | .good | .poison => s.dropHbm q.id
  | .stack | .fixed => s.scrubWrite q v false
  | .bad =>
    if (s.sectorIn q.sector).isSome then (s.markDirty q.sector).dropHbm q.id
    else (s.scrubWrite q v true).count (0x3400 + s.stackOf (32 * q.sector)) 5

def State.sectorReturn (s : State) (id : Nat) (flip : BitVec 288) (sev : Severity) : State :=
  match s.hbmReq? id with
  | some q =>
    if !q.write && q.granted && s.hbmFirst q && !s.hbm.selfRef then
      if q.scrub then s.scrubReturn q flip sev
      else
        let (s, v, p) := (s.dropHbm id).decodeAt q.sector flip sev
        s.deliver q v p
    else s
  | none => s

def execHbmSectorReadReturn (id : Nat) (flip : BitVec 288) (sev : Severity) (s : State) :
    Host.Outcome State Fault Refusal :=
  .next (s.sectorReturn id flip sev)

/-- A queued write reaches the stack: of part of a sector, the controller reads it, decodes it as every read,
and merges (R160, R195); of part of a poisoned one, it leaves it poisoned (R211). -/
def State.writeIssue (s : State) (id : Nat) (flip : BitVec 288) (sev : Severity) : State :=
  match s.hbmReq? id with
  | some q =>
    if q.write && q.granted && s.hbmFirst q && !s.hbm.selfRef then
      if q.mask = BitVec.allOnes 32 then (s.dropHbm id).hbmPut q.sector q.data q.poisoned
      else
        let x := s.hbmGet q.sector
        let (o, v) := decodeSector x.1 x.2 flip sev
        let bad := o == .poison || o == .bad
        ((s.noteSector q.sector o).dropHbm id).hbmPut q.sector (mergeBytes v q.data q.mask) (q.poisoned || bad)
    else s
  | none => s

def execHbmWriteIssue (id : Nat) (s : State) (flip : BitVec 288 := 0) (sev : Severity := .none) :
    Host.Outcome State Fault Refusal := .next (s.writeIssue id flip sev)

def State.freeDetector (s : State) (cad det : Nat) : State :=
  match s.detector cad det with
  | some d => if s.passedClk d.lastHit 4096 then
      { s with caddy := { s.caddy with detect := s.caddy.detect.del (64 * cad + det) } } else s
  | none => s

def execStreamDetectorFree (cad : Cad) (det : Fin 64) (s : State) : Host.Outcome State Fault Refusal :=
  .next (s.freeDetector cad.val det.val)

/-! ### Temperature bands and refresh (R196, R197) -/

/-- Lower bound of a band in °C. -/
def bandFloor : Nat → Int
  | 1 => 0 | 2 => 85 | 3 => 95 | _ => -1000

/-- Leave bands downward where the report lies 5 °C below their floor, enter bands upward where it
reaches their floor (DEDUCED, log entry 30). -/
def nextBand (band : Nat) (t : Int) : Nat :=
  let up := [3, 2, 1, 0].find? fun b => decide (bandFloor b ≤ t)
  let up := up.getD 0
  if band ≤ up then up
  else (([3, 2, 1].filter (· ≤ band)).find? fun b => decide (bandFloor b - 5 < t)).getD 0

/-- The band in force of a stack. -/
def State.band (s : State) (st : Nat) : Nat := s.fld 0x2401 (st + 1) 1 0

/-- A report: its temperature, and the band, whose change is noted with the band that it ends (R197). -/
def State.hbmTemp (s : State) (st : Nat) (t : Int) : State :=
  let old := s.band st
  let new := nextBand old t
  let s := if new = old then s else { s with hbm := { s.hbm with
    bands := Tbl.put [] s.hbm.bands st ((old, s.time.now) :: Tbl.get [] s.hbm.bands st) } }
  (s.setFld 0x2401 (st + 1) 11 4 (BitVec.ofInt 8 t).toNat).setFld 0x2401 (st + 1) 1 0 new

/-- The limit on a hot stack's bandwidth, and the throttle event as it starts (R457). -/
def State.hbmThrottle (s : State) (st : Nat) (t : Int) : State :=
  if 95 ≤ t ∧ s.hbm.slow.getLsbD st = false then
    ({ s with hbm := { s.hbm with slow := s.hbm.slow ||| (1 <<< st) } }).event 0x2220 1 1
  else if t < 90 then { s with hbm := { s.hbm with slow := s.hbm.slow &&& ~~~((1 : BitVec 8) <<< st) } }
  else s

def execHbmTemperatureReport (stack : Stack) (temp : Int) (s : State) : Host.Outcome State Fault Refusal :=
  .next ((s.hbmTemp stack.val temp).hbmThrottle stack.val temp)

/-- Refresh interval of a bank in ns, by band. -/
def bandNs (band : Nat) : Nat := if band = 3 then 975 else if band = 2 then 1950 else 3900

def bankKey (st ch pc bank : Nat) : Nat := ((st * 32 + ch) * 2 + pc) * 256 + bank % 256

/-- A refresh last made at a time was due when a band ended, and stays due (R197). -/
def State.wasDue (s : State) (st last : Nat) : Bool :=
  (Tbl.get [] s.hbm.bands st).any fun b => decide (last + bandNs b.1 * nsUnits ≤ b.2)

/-- A bank's refresh is due: by the band in force, or by one that has ended since. -/
def State.refreshDue (s : State) (st last : Nat) : Bool := s.passedNs last (bandNs (s.band st)) || s.wasDue st last

def State.refresh (s : State) (st ch pc bank : Nat) : State :=
  let k := bankKey st ch pc bank
  s.when (s.refreshDue st (Tbl.get 0 s.hbm.refresh k) && !s.hbm.selfRef && !s.stackAbsent st) fun s =>
    { s with hbm := { s.hbm with refresh := Tbl.put 0 s.hbm.refresh k s.time.now } }

def execHbmRefresh (stack : Stack) (ch : Fin 32) (pc : Fin 2) (bank : Nat) (s : State) :
    Host.Outcome State Fault Refusal :=
  .next (s.refresh stack.val ch.val pc.val bank)

/-! ### Arbitration (R199 to R203) -/

def execArbitrationGrant (p : ArbPoint) (s : State) : Host.Outcome State Fault Refusal :=
  .next (s.arbitrate p).settle

/-- Credits of every point return to 0 (R201). -/
def State.clearCredits (s : State) : State :=
  { s with arb := (s.arb.map fun a => (a.1, { a.2 with credit := ArbState.init.credit })).filter fun a =>
      a.2 ≠ ArbState.init }

/-! ### Repair (R207, R220, R221) -/

/-- A corrected word is written back. -/
def State.fixup (s : State) : State :=
  { s with caddy := { s.caddy with fixups := s.caddy.fixups - 1 } }

def execSramCorrectedWriteback (s : State) : Host.Outcome State Fault Refusal := .next s.fixup

/-- Soft repairs of a slice, in the order made. -/
def State.repairsOf (s : State) (cad sl : Nat) : List (Nat × Nat) :=
  (s.caddy.repairs.filter fun r => r.1 == cad && r.2.1 == sl).map fun r => (r.2.2.1, r.2.2.2)

/-- Spare rows of a slice for soft repair. -/
def softRows : Nat := 4

/-- Entry i of a caddy's log has qualified its row. -/
def State.rowDue (s : State) (cad i : Nat) : Bool :=
  let w := s.reg (0x2430 + cad) (i + 1)
  ceValid w && decide (s.fld 0x2450 1 15 8 ≤ ceCount w)

/-- Switch a spare row in: the line is written back and leaves, pinned or not (DEDUCED, log entry 25). -/
def State.repairRow (s : State) (cad sl set way : Nat) : State :=
  let k := wayKey cad sl set way
  let s := (s.writeBack k 6).setLine k Line.empty
  { s with caddy := { s.caddy with
      repairs := s.caddy.repairs ++ [(cad, sl, set, way)]
      unstored := s.caddy.unstored ++ [(cad, sl, set, way)] } }

def State.softRepair (s : State) (cad i : Nat) : State :=
  if !s.rowDue cad i then s
  else
    let loc := ceLoc (s.reg (0x2430 + cad) (i + 1))
    let sl := loc % 256
    let set := loc / 2 ^ 8 % 2 ^ 11
    let way := loc / 2 ^ 19 % 32
    if softRows ≤ (s.repairsOf cad sl).length then s.intEvent 4
    else if s.bit 0x2450 1 0 then (((s.repairRow cad sl set way).setReg (0x2430 + cad) (i + 1) 0)).intEvent 3
    else s

def execSoftRepair (cad : Cad) (i : Fin 32) (s : State) : Host.Outcome State Fault Refusal :=
  .next (s.softRepair cad.val i.val)

/-- Repairs enter the soft-repair table of the configuration area, while no claim holds the flash. -/
def State.storeRepairs (s : State) : State :=
  s.when s.flash.claim.isNone fun s =>
    { s with
      flash := { s.flash with cfg := { s.flash.cfg with repairs := s.flash.cfg.repairs ++ s.caddy.unstored } }
      caddy := { s.caddy with unstored := [] } }

def execSoftRepairStore (s : State) : Host.Outcome State Fault Refusal := .next s.storeRepairs

/-! ### The scrubber (R222 to R226) -/

def State.scrubNative (s : State) : Bool := s.bit 0x2460 1 0
def State.scrubIdle (s : State) : Bool := s.bit 0x2461 1 0

def hbmSectors : Nat := hbmBytes / 32

/-- The next sector of a pseudo-channel at or above one. -/
def State.nextIn (s : State) (p : Nat × Nat × Nat) : Nat → Nat → Option Nat
  | 0, _ => none
  | fuel + 1, sec =>
    if hbmSectors ≤ sec then none
    else if s.pseudoOf sec = p then some sec
    else s.nextIn p fuel (4 * (sec / 4 + 1))

def pseudoKey (st ch pc : Nat) : Nat := (st * 32 + ch) * 2 + pc

/-- A lap of every walker is over: its time is shown, and the walks start again. -/
def State.lapDone (s : State) (caddyWalk : Bool) : State :=
  let ms (since : Nat) : Nat := min (2 ^ 32 - 1) ((s.time.now - since) / (nsUnits * 1000000))
  if caddyWalk then
    let s := s.setReg 0x2462 2 (BitVec.ofNat 64 (ms s.hbm.lapC))
    { s with hbm := { s.hbm with scrubC := [], lapC := s.time.now } }
  else
    let s := s.setReg 0x2462 1 (BitVec.ofNat 64 (ms s.hbm.lapH))
    { s with hbm := { s.hbm with scrubH := [], lapH := s.time.now } }

/-- Every pseudo-channel of a present stack, and every slice in use, stands at the end of its walk. -/
def State.hbmLapOver (s : State) : Bool :=
  (List.range 512).all fun k => s.stackAbsent (k / 64) || Tbl.get 0 s.hbm.scrubH k == hbmSectors

def sliceRows : Nat := 2048 * 24

def State.cadLapOver (s : State) : Bool :=
  (List.range 512).all fun k => s.sliceRetired (k / 256) (k % 256) || Tbl.get 0 s.hbm.scrubC k == sliceRows

/-! #### Pace (R223, R224) -/

/-- Units of time of a pass over HBM and of a pass over the caddies. -/
def State.hbmPass (s : State) : Nat := s.fld 0x2460 2 13 0 * 60 * 10 ^ 9 * nsUnits
def State.cadPass (s : State) : Nat := s.fld 0x2460 3 11 0 * 10 ^ 9 * nsUnits

/-- When a walker's last read began, where it has begun one: of a pseudo-channel in units of time; of a slice in
units and in core clocks. -/
def State.scrubbed (s : State) (k : Nat) : Option Nat := Tbl.find s.hbm.scrubAt k
def State.noteScrub (s : State) (k t : Nat) : State :=
  { s with hbm := { s.hbm with scrubAt := Tbl.set s.hbm.scrubAt k t } }

/-- A walker at a place of n places, whose lap began at a time, is on or behind its pace, and reads at no more
than four times the pace (R223) (DEDUCED, log entry 136). -/
def State.paceDue (s : State) (since pass place n : Nat) (last : Option Nat) (perWalk : Nat) : Bool :=
  decide (since + pass * place / n ≤ s.time.now)
    && (last.all fun t => decide (t + pass / (4 * perWalk) ≤ s.time.now))

/-- Sectors of a pseudo-channel. -/
def pseudoSectors : Nat := 25165824

/-- The scrubber may read the next sector of a pseudo-channel. -/
def State.scrubHbmDue (s : State) (st ch pc pos : Nat) : Bool :=
  let k := pseudoKey st ch pc
  if s.scrubNative then s.paceDue s.hbm.lapH s.hbmPass pos hbmSectors (s.scrubbed k) pseudoSectors
  else s.scrubIdle && !(s.hbm.queue.any fun q => s.pseudoOf q.sector == (st, ch, pc))
    && (s.scrubbed k).all fun t => s.passedNs t 1000

/-- The scrubber's access of a pseudo-channel that is out. -/
def State.scrubOut (s : State) (st ch pc : Nat) : Option HbmReq :=
  s.hbm.queue.find? fun q => q.scrub && s.pseudoOf q.sector == (st, ch, pc)

/-- The walk of a pseudo-channel goes on: it asks for its next sector in the scrubber's class, and what the stack
found in it comes once that read is granted. -/
def State.scrubHbm (s : State) (st ch pc : Nat) (flip : BitVec 288) (sev : Severity) : State :=
  let k := pseudoKey st ch pc
  let pos := Tbl.get 0 s.hbm.scrubH k
  match s.scrubOut st ch pc with
  | some q => s.sectorReturn q.id flip sev
  | none =>
  if !s.scrubHbmDue st ch pc pos || s.hbm.selfRef || s.stackAbsent st then s
  else
    let setPos (s : State) (n : Nat) : State :=
      { s with hbm := { s.hbm with scrubH := Tbl.put 0 s.hbm.scrubH k n } }
    match s.nextIn (st, ch, pc) hbmSectors pos with
    | some sec =>
      (setPos (s.noteScrub k s.time.now) (sec + 1)).hbmEnqueue ⟨0, sec, false, 0, 0, false, 6, none, false, false, true, true⟩
    | none =>
      let s := setPos s hbmSectors
      if s.hbmLapOver then s.lapDone false else s

def execScrubHbmSector (stack : Stack) (ch : Fin 32) (pc : Fin 2) (flip : BitVec 288) (sev : Severity) (s : State) :
    Host.Outcome State Fault Refusal := .next (s.scrubHbm stack.val ch.val pc.val flip sev)

/-- Another request waits at a slice. -/
def State.sliceBusy (s : State) (cad sl : Nat) : Bool :=
  s.reqs.any fun r => r.stage == .waiting && r.master != .scrub && s.addrKind r.addr (max 1 r.len) == .hbm
    && s.portOf (addrLocal r.addr) == 256 * cad + sl
    && (r.arrived || r.route.length == 1)

/-- The scrubber may read the next line of a slice. -/
def State.scrubLineDue (s : State) (cad sl pos : Nat) : Bool :=
  let k := 256 * cad + sl
  if s.scrubNative then s.paceDue s.hbm.lapC s.cadPass pos sliceRows (s.scrubbed (1024 + k)) sliceRows
  else s.scrubIdle && !s.sliceBusy cad sl && (s.scrubbed (512 + k)).all fun t => decide (t + 1024 ≤ s.time.core)

/-- The scrubber's request for the next row of a slice: it waits at the read port as every other. -/
def scrubReq (cad : Cad) (sl : Fin 256) (pos : Nat) : Req :=
  { mkReq .scrub .read (localAddr (128 * (wayKey cad.val sl.val 0 0 + pos))) 128 [] false true
      (.scrubRow cad sl) none with route := [.sliceRead cad sl] }

/-- The row is read: wrong words are put right or lost (R225). -/
def State.scrubRow (s : State) (cad sl pos : Nat) (errs : List WordErr) (tagLost : Bool) : State :=
  let s := (s.takeRead (256 * cad + sl))
  let s := { s with hbm := { s.hbm with scrubC := Tbl.put 0 s.hbm.scrubC (256 * cad + sl) (pos + 1) } }
  if tagLost then s.tagLoss cad else s.wordErrors (wayKey cad sl 0 0 + pos) 6 errs

/-- The walk of a slice goes on: it asks for the next line, and reads it once the read port is granted. -/
def State.scrubLine (s : State) (cad : Cad) (sl : Fin 256) (errs : List WordErr) (tagLost : Bool) : State :=
  let k := 256 * cad.val + sl.val
  let pos := Tbl.get 0 s.hbm.scrubC k
  if s.coreStopped || s.sliceRetired cad.val sl.val then s
  else
    match s.reqs.find? fun r => r.purpose == .scrubRow cad sl with
    | some r =>
      if r.arrived && (s.slicePort k).readAt != some s.time.core then
        (s.dropReq r.id).scrubRow cad.val sl.val pos errs tagLost
      else s
    | none =>
      if !s.scrubNative && !s.scrubIdle then s
      else if sliceRows ≤ pos then (if s.cadLapOver then s.lapDone true else s)
      else if !s.scrubLineDue cad.val sl.val pos then s
      else
        let s := (s.noteScrub (512 + k) s.time.core).noteScrub (1024 + k) s.time.now
        { s with reqs := s.reqs ++ [{ scrubReq cad sl pos with id := s.nextReq }], nextReq := s.nextReq + 1 }

def execScrubCaddyLine (cad : Cad) (slice : Fin 256) (errs : List WordErr) (tagLost : Bool) (s : State) :
    Host.Outcome State Fault Refusal :=
  .next (s.scrubLine cad slice errs tagLost)

end Sys2Proof.Machine
end

