-- ==== Sys2Proof/Machine/EngineOps.lean ====
section
/-! DEFINITION. What a matrix engine does with a descriptor: its checks, its fills, its stationary
loads, its moving vectors, its tiles and its epilogue (03_matrix_engines.md,
04_matrix_descriptors.md). -/

namespace Sys2Proof

/-- What a piece of a fill brings. -/
def Seg.isElem (g : Seg) : Bool := g.part == .elemA || g.part == .elemB
def Seg.isScale (g : Seg) : Bool := g.part == .scaleA || g.part == .scaleB
def Seg.isVec (g : Seg) : Bool := !g.isElem && !g.isScale

end Sys2Proof

namespace Sys2Proof.Machine

/-! ### The cup buffer -/

def cupBytes : Nat := 2 ^ 21

/-- Write bytes with their poison: a 64-bit word that receives a poisoned byte is poisoned whole; one
written whole with good data is cleared (R210, R211). -/
def poisonWords (old : List Nat) (off : Nat) (pois : List Bool) : List Nat :=
  let n := pois.length
  let words := if n = 0 then [] else (List.range ((off + n - 1) / 8 - off / 8 + 1)).map (off / 8 + ·)
  words.foldl (fun ps w =>
    let mine := (List.range 8).map fun i => 8 * w + i
    let bad := mine.any fun a => decide (off ≤ a) && pois.getD (a - off) false
    let whole := mine.all fun a => decide (off ≤ a ∧ a < off + n)
    if bad then (if w ∈ ps then ps else w :: ps)
    else if whole then ps.filter (· ≠ w) else ps) old

def Cluster.cupWrite (x : Cluster) (off : Nat) (bs : List (Byte × Bool)) : Cluster :=
  { x with cup := Mem.write x.cup off (bs.map (·.1))
           cupPois := poisonWords x.cupPois off (bs.map (·.2)) }

def Cluster.cupPoisoned (x : Cluster) (off n : Nat) : Bool :=
  (List.range n).any fun i => decide ((off + i) / 8 ∈ x.cupPois)

/-- Element i of w bits of packed elements at an offset of the cup buffer. -/
def Cluster.cupElem (x : Cluster) (w off i : Nat) : Nat × Bool :=
  let bit := i * w
  let first := off + bit / 8
  let n := (bit % 8 + w + 7) / 8
  (leNat (Mem.read x.cup first n) / 2 ^ (bit % 8) % 2 ^ w, x.cupPoisoned first n)

/-! ### Checks of one descriptor (R107, R146, R147) -/

/-- The check that fails first: whether it kills the context, and its cause. -/
def State.maskBad (s : State) (cl : Nat) (m : BitVec 16) : Bool :=
  let base := 16 * leafOf cl
  !m.getLsbD (cl - base)
    || (List.range 16).any fun i => m.getLsbD i && (s.absent (base + i) || s.parked (base + i))

def Desc.badCodes (d : Desc) : Bool :=
  d.ver != 1 || d.mode == 3 || (fmtOf d.fmtA).isNone || (fmtOf d.fmtB).isNone || (fmtOf d.fmtC).isNone
    || decide (2 ≤ d.rnd) || decide (2 ≤ d.calloc) || d.mcop == 3

def Desc.badKinds (d : Desc) : Bool :=
  let cupA := if d.dmode = .ws then d.msrc else d.ssrc
  let cupB := if d.dmode = .ws then d.ssrc else d.msrc
  (computeFmt d.eltA d.eltB).isNone
    || (d.dmode == .os && (d.ssrc || d.msrc))
    || (cupA && d.mxA) || (cupB && d.mxB)
    || (d.opaden && (!d.cdst || d.mxC))

def State.badCounts (s : State) (cl : Nat) (d : Desc) : Bool :=
  d.m == 0 || d.n == 0 || d.k == 0 || ((d.mcop == 0) != (d.mctag == 0))
    || (d.mctag != 0 && s.maskBad cl d.mcmask)

def State.badExtents (s : State) (d : Desc) : Bool :=
  d.memExtents.any fun x => decide (x.2 ≠ 0) && s.addrKind x.1 x.2 == .unmapped

def off128 (n : Nat) : Bool := n % 128 != 0

/-- The alignments of R146, with the strides of what lies in memory (R127) (DEDUCED, log entry 113). -/
def Desc.badAlign (d : Desc) : Bool :=
  let aCup := if d.dmode = .ws then d.msrc else d.ssrc
  let bCup := if d.dmode = .ws then d.ssrc else d.msrc
  off128 (addrLocal d.aloc) || off128 (addrLocal d.bloc) || off128 (addrLocal d.cloc)
    || (d.mxA && off128 d.scap) || (d.mxB && off128 d.scbp) || (d.mxC && off128 d.sccp)
    || (d.rscl && off128 d.srowp) || (d.cscl && off128 d.scolp) || (d.biasen && off128 d.biasp)
    || (!d.msrc && (128 * d.stgmsz % d.slotM != 0 || decide (128 * d.stgmsz < 2 * d.slotM)))
    || (!aCup && !Desc.strideOk d.m d.astr (Desc.packed d.k d.eltA.bits))
    || (!bCup && !Desc.strideOk d.n d.bstr (Desc.packed d.k d.eltB.bits))
    || (!d.cdst && !Desc.strideOk d.m d.cstr (Desc.packed d.n d.eltC.bits))

/-- No two of a list of ranges overlap. -/
def disjointAll : List Desc.Range → Bool
  | [] => true
  | r :: rs => rs.all (fun q => !Desc.overlap r q) && disjointAll rs

def Desc.badSizes (d : Desc) : Bool :=
  (d.cupExtents.any fun r => decide (cupBytes < r.2)) || !disjointAll d.cupExtents

inductive DescFault | record (cause : Nat) | kill (cause : Nat)
deriving DecidableEq, Repr

/-- Of several checks that fail, the first in this order is reported (DESIGN CHOICE, log entry 123). -/
def State.checkDesc (s : State) (cl : Nat) (d : Desc) : Option DescFault :=
  if d.badCodes then some (.record 0x01)
  else if d.badKinds then some (.record 0x02)
  else if s.badCounts cl d then some (.record 0x03)
  else if s.badExtents d then some (.record 0x04)
  else if d.badAlign then some (.kill 0x10)
  else if d.badSizes then some (.kill 0x11)
  else none

/-! ### The list -/

/-- Accumulation groups of a descriptor (R82). -/
def Desc.groups (d : Desc) : Nat := if d.dmode = .os then d.tiles else d.tiles / d.steps

/-- (DEDUCED, log entry 36.) -/
def DescRun.start (pos : Nat) (words : List Word64) : DescRun :=
  let d := Desc.ofWords words
  { pos := pos, words := words, taken := d.takeN == 0, takeAt := none, issued := false, tile := 0, vec := 0
    loaded := false, issueEnd := false, staged := [], asked := [], scales := [], vectors := [], writes := 0
    groupsLeft := d.groups, joined := false, posted := d.postN == 0, signalled := d.fsig == 0 }

/-- The engine of a cluster may go on with a descriptor: while its context is saved, only with one
that has issued an operand (R142). -/
def State.engineRuns (s : State) (cl : Nat) (r : DescRun) : Bool :=
  !s.coreStopped && match s.jobOn cl with
    | some j => s.ctxState j.ctx.val == ctxActive || (s.ctxState j.ctx.val == ctxSaving && r.issued)
    | none => false

/-- Its context runs, and the engine may take up something new. -/
def State.engineFree (s : State) (cl : Nat) : Bool :=
  !s.coreStopped && match s.jobOn cl with
    | some j => s.ctxState j.ctx.val == ctxActive
    | none => false

/-- Every earlier descriptor's epilogue writes have been accepted (R143). -/
def Engine.earlierDone (e : Engine) (pos : Nat) : Bool :=
  e.descs.all fun r => decide (pos ≤ r.pos) || r.drained

/-! ### Fills (R103, R127, R130, R132) -/

/-- Bytes a piece of a fill brings: global address and length. -/
def Desc.segBytes (d : Desc) (g : Seg) : Word64 × Nat :=
  let local_ (p : Nat) : Word64 := localAddr p
  let elem (base : Word64) (stride w : Nat) : Word64 × Nat :=
    let k0 := g.step * d.stepLen
    (base + BitVec.ofNat 64 (128 * stride * g.line + k0 * w / 8),
      Desc.packed (min d.stepLen (d.k - k0)) w)
  let scale (p : Nat) : Word64 × Nat :=
    let k0 := g.step * d.stepLen
    let b0 := k0 / 32
    let b1 := (min d.k (k0 + d.stepLen) - 1) / 32
    (local_ (p + g.line * Desc.ceilDiv d.k 32 + b0), b1 - b0 + 1)
  let vec (p size total : Nat) : Word64 × Nat :=
    (local_ (p + 32 * size * g.line), size * min 32 (total - 32 * g.line))
  match g.part with
  | .elemA => elem d.aloc d.astr d.eltA.bits
  | .elemB => elem d.bloc d.bstr d.eltB.bits
  | .scaleA => scale d.scap
  | .scaleB => scale d.scbp
  | .rowScale => vec d.srowp 4 d.m
  | .colScale => vec d.scolp 4 d.n
  | .bias => vec d.biasp (if d.biasBf then 2 else 4) d.n

/-- The operand of a piece is the stationary one (A in OS, which goes by row blocks). -/
def Desc.segStat (d : Desc) (g : Seg) : Bool :=
  match g.part with
  | .elemA | .scaleA => d.dmode != .ws
  | .elemB | .scaleB => d.dmode == .ws
  | _ => false

/-- The piece is one that the descriptor's walk fills. -/
def Desc.segValid (d : Desc) (g : Seg) : Bool :=
  let stat := d.segStat g
  let lines := if g.part == .elemA || g.part == .scaleA then d.m else d.n
  let mem := if d.dmode = .os then true else if stat then !d.ssrc else !d.msrc
  let mx := if g.part == .scaleA then d.mxA else d.mxB
  let walkOk := if d.dmode = .os then
      (if g.part == .elemA then g.walk == g.line / 32
       else if g.part == .scaleA then decide (g.walk / d.steps < d.tiles) && g.walk % d.steps == g.step
         && g.walk / d.steps / d.nBlocks == g.line / 32
       else decide (g.walk / d.steps < d.tiles) && g.walk % d.steps == g.step
         && g.walk / d.steps % d.nBlocks == g.line / 32)
    else if stat then
      decide (g.walk < d.tiles) && (d.tileAt g.walk).2.1 == g.line / 32 && (d.tileAt g.walk).2.2 == g.step
    else
      let mt := g.line / 1024
      decide (mt * 1024 < d.movLines) && (List.range (Desc.ceilDiv d.statLines 32)).any fun nb =>
        d.chunkAt ((mt * Desc.ceilDiv d.statLines 32 + nb) * d.steps + g.step) (g.line % 1024) == g.walk
  match g.part with
  | .elemA | .elemB => mem && decide (g.line < lines ∧ g.step < d.steps) && walkOk
  | .scaleA | .scaleB => mx && decide (g.line < lines ∧ g.step < d.steps) && walkOk
  | .rowScale => d.rscl && decide (32 * g.line < d.m)
  | .colScale => d.cscl && decide (32 * g.line < d.n)
  | .bias => d.biasen && decide (32 * g.line < d.n)

/-- Blocks of scale that one K-step of a line has, and the slots that a part of the scale store has
for the pieces of the walk (R90). -/
def Desc.stepBlocks (d : Desc) : Nat := ceilDiv d.stepLen 32
def Desc.scaleSlots (d : Desc) : Nat :=
  8192 / (if d.dmode = .os then 32 * d.stepBlocks else d.stepBlocks)

/-- Where a piece of block scales stands in the scale store: the part of 8 KiB of the stationary operand, or
of B in OS, then the ring of the moving one, or of A in OS (R90) (DESIGN CHOICE, log entry 124). -/
def Desc.scalePlace (d : Desc) (g : Seg) : Nat :=
  let q := d.stepBlocks
  if d.dmode = .os then
    (if g.part == .scaleA then 8192 else 0) + g.walk % d.scaleSlots * (32 * q) + g.line % 32 * q
  else if d.segStat g then g.walk % 2 * (32 * q) + g.line % 32 * q
  else 8192 + g.walk % d.scaleSlots * q

/-- The walk has used a piece of elements or scales: its place in staging or in the store is free. -/
def DescRun.spent (r : DescRun) (g : Seg) : Bool :=
  let d := r.d
  if g.isVec then false
  else if d.dmode = .os then
    if g.part == .elemA then decide (g.walk < r.tile / d.nBlocks)
    else decide (g.walk < r.tile * d.steps + r.vec)
  else if d.segStat g then decide (g.walk < r.tile + r.loaded.toNat)
  else decide (g.walk < d.chunkAt r.tile r.vec)

/-- Pieces that are spent leave the list of those staged. -/
def DescRun.sweep (r : DescRun) : DescRun := { r with staged := r.staged.filter fun g => !r.spent g }

/-- The accumulation group that a tile of the walk belongs to (R82). -/
def DescRun.group (r : DescRun) : GroupRun :=
  let d := r.d
  if d.dmode = .os then
    let m0 := 32 * (r.tile / d.nBlocks)
    let n0 := 32 * (r.tile % d.nBlocks)
    ⟨r.pos, m0, n0, min 32 (d.m - m0), min 32 (d.n - n0), false, false, 0⟩
  else
    let (mt, nb, _) := d.tileAt r.tile
    let mov := Desc.tileLen d.movLines mt
    let st := min 32 (d.statLines - 32 * nb)
    if d.dmode = .ws then ⟨r.pos, 1024 * mt, 32 * nb, mov, st, false, false, 0⟩
    else ⟨r.pos, 32 * nb, 1024 * mt, st, mov, false, false, 0⟩

/-- Accumulation groups of a descriptor in progress: those that hold a place, and the one being issued or
next to be. -/
def Engine.inProgress (e : Engine) (r : DescRun) : List GroupRun :=
  ((e.groups.map (·.2)).filter fun g => g.pos == r.pos) ++ (if r.issueEnd then [] else [r.group])

/-- A group's epilogue uses some value of a piece of a vector. -/
def GroupRun.uses (g : GroupRun) (p : Seg) : Bool :=
  if p.part == .rowScale then decide (32 * p.line < g.m0 + g.h ∧ g.m0 < 32 * p.line + 32)
  else decide (32 * p.line < g.n0 + g.w ∧ g.n0 < 32 * p.line + 32)

/-- Staging and the scale store hold room for a piece: the two panels or row blocks, the moving ring (R130),
the rings of block scales, and the vectors of the groups in progress (R90) (DESIGN CHOICE, log entry 124). -/
def Engine.roomFor (e : Engine) (r : DescRun) (g : Seg) : Bool :=
  let d := r.d
  if g.isVec then (e.inProgress r).any fun q => q.uses g
  else
    let used := if d.dmode = .os then r.tile * d.steps + r.vec else d.chunkAt r.tile r.vec
    let ahead := if g.isScale then d.scaleSlots else d.ringSlots
    !r.spent g &&
      if d.dmode = .os then
        if g.part == .elemA then decide (g.walk ≤ r.tile / d.nBlocks + 1) else decide (g.walk < used + ahead)
      else if d.segStat g then decide (g.walk ≤ r.tile + 1 + r.loaded.toNat)
      else decide (g.walk < used + ahead)

/-- Places of a piece of elements in the cup buffer: source byte, cup offset, bytes. -/
def Desc.places (d : Desc) (g : Seg) : List (Nat × Nat × Nat) :=
  let n := (d.segBytes g).2
  if d.dmode = .os then
    let (s, base) := if d.segStat g then
        (d.slotA, 128 * d.stgs + g.walk % 2 * (d.steps * d.slotA) + g.step * d.slotA)
      else (d.slotB, 128 * d.stgm + g.walk % d.ringSlots * d.slotB)
    let w := if d.segStat g then d.eltA.bits else d.eltB.bits
    let _ := s
    [(0, base + g.line % 32 * (d.dot * w / 8), n)]
  else if d.segStat g then
    let w := d.statElt.bits
    let run := d.dot * w / 8
    let base := 128 * d.stgs + g.walk % 2 * (32 * d.slotS)
    ((List.range 32).filter fun r => decide (r * run < n)).map fun r =>
      (r * run, base + r * d.slotS + g.line % 32 * run, min run (n - r * run))
  else [(0, 128 * d.stgm + g.walk % d.ringSlots * d.slotM, n)]

/-- Key of an epilogue value: row scale, column scale, bias; then its index. -/
def vecKey (p : SegPart) (i : Nat) : Nat :=
  4 * i + (match p with | .rowScale => 0 | .colScale => 1 | _ => 2)

/-- The poison of a 64-bit word of the scale store: any of its bytes' (R210). -/
def wholeWord (t : Tbl (Byte × Bool)) (w : Nat) : Tbl (Byte × Bool) :=
  let mine := (List.range 8).map (8 * w + ·)
  if mine.any fun a => (Tbl.find t a).any fun b => b.2 then
    t.map fun e => if e.1 / 8 = w then (e.1, e.2.1, true) else e
  else t

/-- Block scales enter the scale store. -/
def putScales (t : Tbl (Byte × Bool)) (at_ : Nat) (bs : List (Byte × Bool)) : Tbl (Byte × Bool) :=
  let t := (bs.zipIdx).foldl (fun t b => Tbl.set t (at_ + b.2) b.1) t
  ((List.range (bs.length / 8 + 2)).map (at_ / 8 + ·)).foldl wholeWord t

/-- A piece whose bytes have all come goes to staging, to the scale store or to the vectors. Two values of a
vector make a word. -/
def Cluster.place (x : Cluster) (pos : Nat) (g : Seg) (bs : List (Byte × Bool)) : Cluster :=
  match x.me.desc? pos with
  | none => x
  | some r =>
    let d := r.d
    let mark (e : Engine) (f : DescRun → DescRun) : Engine :=
      e.updDesc pos fun r => f { r with staged := g :: r.staged, asked := r.asked.filter fun a => a.1 ≠ g }
    if g.isElem then
      let x := (d.places g).foldl (fun x p => x.cupWrite p.2.1 ((bs.drop p.1).take p.2.2)) x
      { x with me := mark x.me id }
    else if g.isScale then
      { x with me := mark x.me fun r => { r with
          scales := putScales r.scales (d.scalePlace g) bs } }
    else
      let size := if g.part = .bias ∧ d.biasBf then 2 else 4
      let val (i : Nat) : Word32 × Bool :=
        let piece := (bs.drop (size * i)).take size
        let v := leNat (piece.map (·.1))
        (BitVec.ofNat 32 (if size = 2 then v * 2 ^ 16 else v), ((bs.drop (2 * size * (i / 2))).take (2 * size)).any (·.2))
      { x with me := mark x.me fun r => { r with
          vectors := (List.range (bs.length / size)).foldl (fun t i =>
            Tbl.set t (vecKey g.part (32 * g.line + i)) (val i)) r.vectors } }

/-! #### Dregs marks (R121, R171) -/

/-- Order of a piece among the reads of its operand. -/
def Desc.readKey (d : Desc) (g : Seg) : Nat :=
  if d.dmode = .os then (if g.part == .elemA then (g.walk * d.steps + g.step) * 32 + g.line % 32
    else g.walk * 32 + g.line % 32)
  else if d.segStat g then g.walk * 32 + g.line % 32
  else g.walk

/-- The last piece of the walk that reads a line and a K-step of an operand. -/
def Desc.lastOf (d : Desc) (p : SegPart) (line step : Nat) : Seg :=
  let g : Seg := ⟨0, p, 0, line, step⟩
  let walk := if d.dmode = .os then
      (if p == .elemA then line / 32
       else if p == .scaleA then (line / 32 * d.nBlocks + (d.nBlocks - 1)) * d.steps + step
       else ((d.mBlocks - 1) * d.nBlocks + line / 32) * d.steps + step)
    else
      let nb := Desc.ceilDiv d.statLines 32
      if d.segStat g then ((Desc.ceilDiv d.movLines 1024 - 1) * nb + line / 32) * d.steps + step
      else d.chunkAt ((line / 1024 * nb + (nb - 1)) * d.steps + step) (line % 1024)
  { g with walk := walk }

/-- Memory lines of a piece, by their address within its node. -/
def Desc.segLines (d : Desc) (g : Seg) : List Nat :=
  let (a, n) := d.segBytes g
  let a := addrLocal a
  if n = 0 then [] else (List.range ((a + n - 1) / 128 - a / 128 + 1)).map (a / 128 + ·)

/-- A read of a memory line by a piece is the walk's last of that line. -/
def Desc.lastRead (d : Desc) (g : Seg) (line : Nat) : Bool :=
  let lines := if g.part == .elemA || g.part == .scaleA then d.m else d.n
  let all := ((List.range lines).map fun l => (List.range d.steps).map fun t => d.lastOf g.part l t).flatten
  (all.filter fun h => decide (line ∈ d.segLines h)).all fun h => decide (d.readKey h ≤ d.readKey g)

def Desc.dregs (d : Desc) (g : Seg) : Bool :=
  match g.part with
  | .elemA | .scaleA => d.dregsA
  | .elemB | .scaleB => d.dregsB
  | _ => false

/-! ### Operands as the units see them (R54, R83, R132, R133) -/

/-- An element's pattern in its stored format, with its poison. -/
abbrev Elem := Nat × Bool

/-- Offset of a moving or stationary element's packed run, and the index in it. -/
def Desc.statPlace (d : Desc) (walk r c i : Nat) : Nat × Nat :=
  let (_, nb, t) := d.tileAt walk
  let base := if d.ssrc then Desc.locOff d.statLoc + (nb * d.steps + t) * 32 * d.slotS
    else 128 * d.stgs + walk % 2 * (32 * d.slotS)
  (base + r * d.slotS, c * d.dot + i)

/-- Stationary elements of column c of a tile, along K. -/
def Cluster.statCol (x : Cluster) (d : Desc) (walk c : Nat) : List Elem :=
  let (_, nb, t) := d.tileAt walk
  let w := d.statElt.bits
  (List.range (32 * d.dot)).map fun i =>
    if d.statLines ≤ 32 * nb + c ∨ d.k ≤ 32 * d.dot * t + i then (Desc.padBits d.statElt d.statPad, false)
    else
      let (off, idx) := d.statPlace walk (i / d.dot) c (i % d.dot)
      x.cupElem w off idx

/-- Elements of moving vector v of a tile, along K. -/
def Cluster.movVec (x : Cluster) (d : Desc) (walk v : Nat) : List Elem :=
  let (mt, _, t) := d.tileAt walk
  let line := 1024 * mt + v
  let off := if d.msrc then Desc.locOff d.movLoc + 128 * d.movStr * line + t * d.slotM
    else 128 * d.stgm + d.chunkAt walk v % d.ringSlots * d.slotM
  (List.range (32 * d.dot)).map fun i =>
    if d.k ≤ 32 * d.dot * t + i then (Desc.padBits d.movElt d.movPad, false) else x.cupElem d.movElt.bits off i

/-- The piece of block scales of a line in one K-step, as the walk uses it. -/
def Desc.scaleSeg (isA : Bool) (walk line step : Nat) : Seg :=
  ⟨0, if isA then .scaleA else .scaleB, walk, line, step⟩

/-- The block scale of element i of a piece's K-step; a block wholly beyond K has scale 1 (R54), and so has
an operand that is not MX (R59). -/
def DescRun.scaleAt (r : DescRun) (isA : Bool) (walk line step i : Nat) : Byte × Bool :=
  let d := r.d
  let mx := if isA then d.mxA else d.mxB
  let lines := if isA then d.m else d.n
  let k0 := step * d.stepLen
  if !mx || decide (lines ≤ line) || decide (d.k ≤ 32 * ((k0 + i) / 32)) then (0x7F, false)
  else Tbl.get (0x7F, false) r.scales (d.scalePlace (Desc.scaleSeg isA walk line step) + ((k0 + i) / 32 - k0 / 32))

/-- Value of an element under its scale. -/
def elemValue (f : Fmt) (e : Elem) (s : Byte) : Num := scaled (decode f e.1) s

/-! ### Accumulation (R61 to R64, R93, R96, R212) -/

/-- Products of one column of a tile with a moving vector, cut by the units' rows (R63). -/
def cutRows (dot : Nat) (ps : List (Num × Num)) : List (List (Num × Num)) :=
  (List.range 32).map fun r => (ps.drop (r * dot)).take dot

/-- One column sum of a moving vector, and its flags. -/
def columnSum (ints : Bool) (dot : Nat) (ps : List (Num × Num)) : Word32 × Exc :=
  let us := (cutRows dot ps).map (unitSum ints)
  let rs := us.map fun u => (rne32x u.1).1
  let es := us.foldl (fun e u => e ||| u.2 ||| (rne32x u.1).2) 0
  let (t, e) := treeSum rs
  (t, es ||| e)

/-- The values of one K-step's elements of a line under its scales. -/
def DescRun.values (r : DescRun) (isA : Bool) (f : Fmt) (walk line step : Nat) (es : List Elem) : List Num :=
  es.zipIdx.map fun e => elemValue f e.1 (r.scaleAt isA walk line step e.2).1

/-- Some element of a run, or a scale of it, is poisoned; padding is not. -/
def DescRun.poisoned (r : DescRun) (isA : Bool) (walk line step : Nat) (es : List Elem) : Bool :=
  es.zipIdx.any fun e => e.1.2 || (r.scaleAt isA walk line step e.2).2

/-- An accumulator after one more sum (R63). -/
def addSum (first : Bool) (old : Acc) (v : Word32) (p : Bool) : Acc × Exc :=
  if first then (⟨v, p⟩, 0)
  else
    let (x, e) := addRne old.val v
    (⟨x, old.poison || p⟩, e)

/-- Key of an accumulator of a group: moving index (row in OS), column. -/
def accKey (v c : Nat) : Nat := 32 * v + c

/-- The moving vector at hand is poisoned. -/
def Cluster.vecPoison (x : Cluster) (r : DescRun) : Bool :=
  let d := r.d
  let (mt, _, t) := d.tileAt r.tile
  r.poisoned (decide (d.dmode = .ws)) (d.chunkAt r.tile r.vec) (1024 * mt + r.vec) t (x.movVec d r.tile r.vec)

/-- One moving vector against the stationary tile held: the accumulators after it, and the flags of
the outputs that exist. -/
def Engine.multiply (e : Engine) (x : Cluster) (r : DescRun) : Tbl Acc × Exc :=
  let d := r.d
  let (mt, nb, t) := d.tileAt r.tile
  let line := 1024 * mt + r.vec
  let chunk := d.chunkAt r.tile r.vec
  let movA := decide (d.dmode = .ws)
  let mv := x.movVec d r.tile r.vec
  let mvals := r.values movA d.movElt chunk line t mv
  let mpois := x.vecPoison r
  (List.range 32).foldl (fun st c =>
    let sline := 32 * nb + c
    let col := e.stat.getD c []
    let scl := e.statScale.getD c []
    let svals := (col.zip scl).map fun p => elemValue d.statElt p.1 p.2.1
    let spois := (col.zip scl).any fun p => p.1.2 || p.2.2
    let (v, ex) := columnSum d.comp.isInt d.dot (mvals.zip svals)
    let old := Tbl.get Acc.zero st.1 (accKey r.vec c)
    let live := decide (sline < d.statLines)
    let pois := (mpois || spois) && live
    let (a, ex2) := addSum (t == 0) old v pois
    (Tbl.set st.1 (accKey r.vec c) a, if live && !a.poison then st.2 ||| ex ||| ex2 else st.2))
    (e.acc (e.place d), 0)

/-- One K-step of an output tile of OS for one unit: acc + u with one rounding (R64). -/
def osUpdate (first : Bool) (old : Acc) (u : Num) (p : Bool) : Acc × Exc :=
  let x := if first then u else sumExact [ofWord old.val, u]
  let (v, e) := rne32x x
  let inv := if first then (0 : Exc) else opExc [ofWord old.val, u] x
  (⟨v, (if first then false else old.poison) || p⟩, e ||| inv)

/-- Elements of a line at K-step t in OS. -/
def Cluster.osRun (x : Cluster) (d : Desc) (isA : Bool) (tile i t : Nat) : List Elem :=
  let mb := tile / d.nBlocks
  let nb := tile % d.nBlocks
  let f := if isA then d.eltA else d.eltB
  let line := if isA then 32 * mb + i else 32 * nb + i
  let pad := Desc.padBits f (if isA then d.padA else d.padB)
  let off := if isA then 128 * d.stgs + mb % 2 * (d.steps * d.slotA) + t * d.slotA
    else 128 * d.stgm + (tile * d.steps + t) % d.ringSlots * d.slotB
  (List.range d.dot).map fun k =>
    if (if isA then d.m else d.n) ≤ line ∨ d.k ≤ d.dot * t + k then (pad, false)
    else x.cupElem f.bits off (i * d.dot + k)

/-- One unit in one K-step of a tile. -/
def Cluster.osUnit (x : Cluster) (r : DescRun) (t i j : Nat) (old : Acc) : Acc × Exc :=
  let d := r.d
  let la := 32 * (r.tile / d.nBlocks) + i
  let lb := 32 * (r.tile % d.nBlocks) + j
  let w := r.tile * d.steps + t
  let a := x.osRun d true r.tile i t
  let b := x.osRun d false r.tile j t
  let (u, ex) := unitSum d.comp.isInt ((r.values true d.eltA w la t a).zip (r.values false d.eltB w lb t b))
  let p := r.poisoned true w la t a || r.poisoned false w lb t b
  let (acc, ex2) := osUpdate (t == 0) old u p
  (acc, ex ||| ex2)

/-- One K-step of an output tile: the accumulators after it, and the flags of the outputs that exist and
are not poisoned. -/
def Cluster.osStep (x : Cluster) (r : DescRun) (t : Nat) (acc : Tbl Acc) : Tbl Acc × Exc :=
  let d := r.d
  let la := 32 * (r.tile / d.nBlocks)
  let lb := 32 * (r.tile % d.nBlocks)
  (List.range 1024).foldl (fun st q =>
    let (a, e) := x.osUnit r t (q / 32) (q % 32) (Tbl.get Acc.zero st.1 (accKey (q / 32) (q % 32)))
    let live := decide (la + q / 32 < d.m ∧ lb + q % 32 < d.n)
    (Tbl.set st.1 (accKey (q / 32) (q % 32)) a, if live && !a.poison then st.2 ||| e else st.2)) (acc, 0)

/-- K-steps of an output tile one after another. -/
def Cluster.osSteps (x : Cluster) (r : DescRun) (ts : List Nat) (acc : Tbl Acc) : Tbl Acc × Exc :=
  ts.foldl (fun st t => ((x.osStep r t st.1).1, st.2 ||| (x.osStep r t st.1).2)) (acc, 0)

/-- The K-steps of a tile from the next on whose pieces are all staged. -/
def DescRun.osReady (r : DescRun) : List Nat :=
  ((List.range r.d.steps).filter (r.vec ≤ ·)).takeWhile fun t => (r.osSegs r.tile t).all r.has

/-- Poisoned lines of both operands in a K-step of a tile. -/
def Cluster.osPoison (x : Cluster) (r : DescRun) (t : Nat) : Nat :=
  let d := r.d
  let w := r.tile * d.steps + t
  let one (isA : Bool) (base : Nat) : Nat := ((List.range 32).filter fun i =>
    r.poisoned isA w (base + i) t (x.osRun d isA r.tile i t)).length
  one true (32 * (r.tile / d.nBlocks)) + one false (32 * (r.tile % d.nBlocks))

/-- Banks of the cup buffer that a port's transfer reads (R85). -/
def banksOf (off n : Nat) : List Nat := (List.range ((n + 127) / 128)).map fun i => (off / 128 + i) % 32

/-- The two ports of a K-step of OS want one bank: the stream port's transfer waits a clock (R86). -/
def Desc.osConflict (d : Desc) (tile t : Nat) : Bool :=
  let a := banksOf (128 * d.stgs + tile / d.nBlocks % 2 * (d.steps * d.slotA) + t * d.slotA) d.slotA
  let b := banksOf (128 * d.stgm + (tile * d.steps + t) % d.ringSlots * d.slotB) d.slotB
  a.any fun x => decide (x ∈ b)

/-- The group in hand has had its last update: it waits for the epilogue, and the next group takes
the other half or set (R94 to R96). -/
def Engine.groupFull (e : Engine) (d : Desc) : Engine :=
  let p := e.place d
  match e.group p with
  | none => e
  | some g =>
    let e := e.setGroup p (some { g with full := true })
    let e := { e with drainQ := e.drainQ ++ [p] }
    if d.dmode = .os then { e with set := !e.set } else { e with half := !e.half }

/-- The walk moves on by one tile; pieces of the tile's staging are free again. -/
def Engine.nextTile (e : Engine) (r : DescRun) (now : Nat) : Engine :=
  let last := decide (r.d.tiles ≤ r.tile + 1)
  (e.updDesc r.pos fun r =>
    ({ r with tile := r.tile + 1, vec := 0, loaded := false, issueEnd := last } : DescRun).sweep).arm now

/-! ### The epilogue (R66, R98 to R102, R135, R212, R280) -/

/-- Accumulator of output (m, n) of a group. -/
def accOf (d : Desc) (g : GroupRun) (acc : Tbl Acc) (m n : Nat) : Acc :=
  let i := m - g.m0
  let j := n - g.n0
  Tbl.get Acc.zero acc (if d.dmode = .is then accKey j i else accKey i j)

/-- Element before conversion (R66), with its poison and its flags. A NaN among the scales and the bias is a
NaN input (R77) (DEDUCED, log entry 118). -/
def DescRun.epilogueValue (r : DescRun) (g : GroupRun) (acc : Tbl Acc) (m n : Nat) : Word32 × Bool × Exc :=
  let d := r.d
  let a := accOf d g acc m n
  let step (on : Bool) (op : Word32 → Word32 → Word32 × Exc) (p : SegPart) (i : Nat)
      (x : Word32 × Bool × Exc) : Word32 × Bool × Exc :=
    if !on then x
    else
      let (v, q) := Tbl.get (0, false) r.vectors (vecKey p i)
      let (y, e) := op x.1 v
      (y, x.2.1 || q, x.2.2 ||| e ||| (if (ofWord v).isNan then Exc.nanin else 0))
  step d.biasen addRne .bias n (step d.cscl mulRne .colScale n (step d.rscl mulRne .rowScale m (a.val, a.poison, 0)))

/-- Random bits of an output lane under SR: the keyed state of the group, or the context's lane-mode
state (R272, R278, R280). -/
def State.epilogueDraw (s : State) (cl lane : Nat) (keyed : Bool) (n : Nat) : State × Nat :=
  let e := s.engine cl
  if keyed then
    let (v, st) := rngDraw (polyMask lane) n (e.keyed.getD lane 1)
    (s.setEngine cl { e with keyed := e.keyed.set lane st }, v)
  else
    match s.jobOn cl with
    | none => (s, 0)
    | some j =>
      let (v, st) := rngDraw (polyMask lane) n (s.lane j.ctx.val cl lane)
      (s.setLane j.ctx.val cl lane st, v)

/-- Rounding modes of a chunk's elements, drawing where SR asks for it. -/
def State.drawModes (cl : Nat) (d : Desc) : List Nat → State → State × List Rnd
  | [], s => (s, [])
  | n :: ns, s =>
    let bits := drawBits (.flt fp32) d.eltC
    let (s, m) : State × Rnd :=
      if d.rnd = 1 ∧ bits ≠ 0 then
        let (s, v) := s.epilogueDraw cl (n % 32) d.keyed bits
        (s, .sr bits v)
      else (s, .rne)
    let (s, ms) := State.drawModes cl d ns s
    (s, m :: ms)

/-- Patterns of a chunk, the scale byte of an MX block, and flags (R66 to R69, R212). A block with an
infinity raises no OVF (DESIGN CHOICE, log entry 121). -/
def convertChunk (d : Desc) (ys : List (Word32 × Bool × Exc)) (ms : List Rnd) :
    List (Nat × Bool) × Option Byte × Exc :=
  let bad := ys.any (·.2.1)
  let exc0 := (ys.filter fun y => !y.2.1).foldl (fun e y => e ||| y.2.2) (0 : Exc)
  match d.mxC, d.eltC with
  | true, .flt f =>
    let nums := ys.map fun y => ofWord y.1
    if bad then (ys.map fun _ => (0, true), some 0xFF, exc0)
    else match mxScale f nums with
      | some sc => ((nums.zip ms).map fun p => (mxElement f p.2 sc p.1, false), some sc, exc0)
      | none => (ys.map fun _ => (0, false), some 0xFF,
          exc0 ||| (if nums.any Num.isNan && f.special == .finite then Exc.nandrop else 0))
  | _, f =>
    let cs := (ys.zip ms).map fun p => (convert f p.2 (satOf (.flt fp32) f d.sat) (ofWord p.1.1), p.1.2.1)
    (cs.map fun c => (c.1.1, c.2), none,
      (cs.filter fun c => !c.2).foldl (fun e c => e ||| c.1.2) exc0)

/-- Columns of the next chunk of a group: up to 32 of one row, in the order of R99. -/
def GroupRun.chunk (g : GroupRun) : Nat × List Nat :=
  let m := g.m0 + g.read / g.w
  let n := g.n0 + g.read % g.w
  (m, (List.range (min 32 (g.n0 + g.w - n))).map (n + ·))

/-- Bytes of packed elements with their poison. -/
def packPoison (w : Nat) (es : List (Nat × Bool)) : List (Byte × Bool) :=
  (packElems w (es.map (·.1))).zipIdx.map fun b =>
    (b.1, es.zipIdx.any fun e => e.1.2 && decide (e.2 * w < 8 * b.2 + 8 ∧ 8 * b.2 < e.2 * w + w))

/-- A write of the epilogue to memory, by sector. -/
def State.epilogueMem (s : State) (cl : Cl) (pos : Nat) (addr : Word64) (bs : List (Byte × Bool))
    (alloc : Bool) (ctx : Option Ctx) : State :=
  (fillPieces addr bs.length).foldl (fun s p =>
    let part := (bs.drop p.1).take p.2.2
    let s := s.setEngine cl ((s.engine cl).updDesc pos fun d => { d with writes := d.writes + 1 })
    s.request (mkReq (.engine cl) .write p.2.1 p.2.2 (part.map (·.1)) (part.any (·.2)) alloc
      (.epilogue cl pos) ctx)) s

/-- Write a chunk of row m from column n on, and its scale byte. -/
def State.epilogueStore (s : State) (cl : Cl) (d : Desc) (pos m n : Nat) (bs : List (Byte × Bool))
    (scale : Option (Byte × Bool)) (ctx : Option Ctx) : State :=
  let off := 128 * d.cstr * m + n * d.eltC.bits / 8
  let soff := m * d.nBlocks + n / 32
  if d.cdst then
    let x := (s.cluster cl).cupWrite (Desc.locOff d.cloc + off) bs
    let x := match scale with
      | some b => x.cupWrite (d.sccp % 2 ^ 21 + soff) [b]
      | none => x
    s.setCluster cl x
  else
    let s := s.epilogueMem cl pos (d.cloc + BitVec.ofNat 64 off) bs (d.calloc == 0) ctx
    match scale with
    | some b => s.epilogueMem cl pos (localAddr (d.sccp + soff)) [b] (d.calloc == 0) ctx
    | none => s

/-- The job has written poisoned data (R212). -/
def State.markPoison (s : State) (cl : Nat) (p : Bool) : State :=
  if !p then s
  else match (s.cluster cl).job with
    | some id => s.updJob id fun j => { j with poison := true }
    | none => s

/-- Vectors that no group in progress uses leave the scale store (R90). -/
def Engine.dropVectors (e : Engine) (r : DescRun) : DescRun :=
  let gs := e.inProgress r
  let gone := r.staged.filter fun g => g.isVec && !gs.any fun q => q.uses g
  { r with
    staged := r.staged.filter fun g => decide (g ∉ gone)
    vectors := r.vectors.filter fun v => !gone.any fun g =>
      decide ((List.range 32).any fun i => vecKey g.part (32 * g.line + i) == v.1) }

/-- The epilogue has read the last accumulator of the group in hand: its place is free (R95). -/
def Engine.groupDone (e : Engine) (p : Nat) (pos : Nat) (now : Nat) : Engine :=
  let e := (e.setGroup p none).setAcc p []
  let e := { e with drainQ := e.drainQ.tail, keyed := [] }
  (e.updDesc pos fun r => e.dropVectors { r with groupsLeft := r.groupsLeft - 1 }).tidy now

/-- Convert and write one chunk of the draining group (DEDUCED, log entry 37). -/
def State.epilogueChunk (s : State) (cl : Cl) (h : Nat) (g : GroupRun) (r : DescRun) : State :=
  let d := r.d
  let (m, ns) := g.chunk
  let acc := (s.engine cl).acc h
  let ys := ns.map (r.epilogueValue g acc m)
  let (s, ms) := State.drawModes cl d ns s
  let (es, sc, exc) := convertChunk d ys ms
  let n := ns.headD 0
  let pad := if d.opaden ∧ d.n = n + ns.length then List.replicate (32 * d.nBlocks - d.n) (d.opadBits, false) else []
  let bs := packPoison d.eltC.bits (es ++ pad)
  let pois := es.any (·.2)
  let ctx := (s.jobOn cl).map (·.ctx)
  let s := s.raiseExc (s.cluster cl).job exc
  let s := s.consumed (leafDie cl) (ys.filter (·.2.1)).length
  let s := (s.epilogueStore cl d r.pos m n bs (sc.map fun b => (b, false)) ctx).markPoison cl pois
  let e := s.engine cl
  let read := g.read + ns.length
  if g.h * g.w ≤ read then s.setEngine cl (e.groupDone h r.pos s.time.core)
  else s.setEngine cl (e.setGroup h (some { g with read := read }))

end Sys2Proof.Machine
end

