-- ==== Sys2Proof/Machine/Engine.lean ====
section
/-! DEFINITION. The meanings of the commands of the matrix engines, of multicast sets and of the cup
tokens (03_matrix_engines.md, 04_matrix_descriptors.md, R256 to R258). -/

namespace Sys2Proof.Machine

/-! ### Descriptors -/

/-- Read the next descriptor of the list: the fill unit works on two at a time. A list base that is no
multiple of 128 is read from as it stands (DESIGN CHOICE, log entry 126), and an address past 2^48 wraps
(DESIGN CHOICE, log entry 127). -/
def State.descriptorRead (s : State) (cl : Cl) : State :=
  let e := s.engine cl
  let busy := (e.descs.filter fun r => !r.issueEnd).length
  if s.engineFree cl && (s.cluster cl).job.isSome && !e.ended && !e.reading && decide (busy < 2) then
    let s := s.setEngine cl { e with reading := true }
    s.request (mkReq (.engine cl) .read (localAddr e.next) 128 [] false true (.descr cl)
      ((s.jobOn cl).map (·.ctx)))
  else s

def execDescriptorRead (cl : Cl) (s : State) : Host.Outcome State Fault Refusal := .next (s.descriptorRead cl)

/-- A checked descriptor joins the engine's list. -/
def State.acceptDesc (s : State) (cl : Cl) (words : List Word64) : State :=
  let e := s.engine cl
  let d := Desc.ofWords words
  s.setEngine cl (({ e with
    reading := false
    next := e.next + 128 * d.link
    nextPos := e.nextPos + 1
    ended := d.link == 0
    descs := e.descs ++ [DescRun.start e.nextPos words] }).arm s.time.core)

/-- Groups of a stopped descriptor and of later ones are dropped with it. -/
def Engine.dropFrom (e : Engine) (pos : Nat) : Engine :=
  let e := { e with groups := e.groups.filter fun g => decide (g.2.pos < pos) }
  { e with drainQ := e.drainQ.filter fun h => (e.group h).isSome }

def State.stopAt (s : State) (cl cause pos : Nat) : State :=
  let s := s.stopList cl cause pos
  s.setEngine cl (((s.engine cl).dropFrom pos).tidy s.time.core)

def State.descriptorReturn (s : State) (cl : Cl) : State :=
  match s.reqs.find? fun r => r.purpose == .descr cl && r.finished with
  | none => s
  | some r =>
    let pos := (s.engine cl).nextPos
    let s := s.dropReq r.id
    match r.stage with
    | .done data false =>
      let words := leWords data 16
      match s.checkDesc cl (Desc.ofWords words) with
      | none => s.acceptDesc cl words
      | some (.record c) => s.stopAt cl c pos
      | some (.kill c) => s.killFrom cl c pos
    | .done _ true => s.stopAt cl 0x06 pos
    | _ => s.stopAt cl 0x04 pos

def execDescriptorReadReturn (cl : Cl) (s : State) : Host.Outcome State Fault Refusal :=
  .next (s.descriptorReturn cl)

/-! ### Operands -/

/-- The load and stream ports are free in this clock. -/
def Engine.portsFree (e : Engine) : Bool := e.loadClk == 0 && e.busyClk == 0 && e.bankClk == 0

/-- A chain's rule for the first read of an operand that lies in the cup buffer (R143). -/
def Engine.chainOk (e : Engine) (r : DescRun) (cup : Bool) : Bool := !cup || e.earlierDone r.pos

/-- The next descriptor of the list, if any, has been read: its read comes no later than the first
stationary load of this one (R119). -/
def Engine.nextRead (e : Engine) (r : DescRun) : Bool := e.ended || decide (r.pos + 1 < e.nextPos)

/-! #### Wrong bits in the engine's arrays (R206, R207) -/

/-- A word of two accumulators of a place is lost. -/
def Engine.loseAcc (e : Engine) (p w : Nat) : Engine :=
  e.setAcc p ([2 * w, 2 * w + 1].foldl (fun t k => Tbl.put Acc.zero t k { Tbl.get Acc.zero t k with poison := true }) (e.acc p))

/-- A word of the scale store that holds block scales, or values of a vector, of a descriptor is lost. -/
def DescRun.loseScale (r : DescRun) (w : Nat) : DescRun :=
  { r with scales := r.scales.map fun e => if e.1 / 8 = w then (e.1, e.2.1, true) else e }
def DescRun.loseVector (r : DescRun) (part : SegPart) (w : Nat) : DescRun :=
  { r with vectors := r.vectors.map fun e =>
      if e.1 = vecKey part (2 * w) ∨ e.1 = vecKey part (2 * w + 1) then (e.1, e.2.1, true) else e }

/-- Wrong bits found in a word of the cup buffer on a read (R207). -/
def State.cupError (s : State) (cl : Nat) (e : WordErr) : State :=
  if e.word ∈ (s.cluster cl).cupPois then s
  else s.sramWord (leafDie cl) e.word e.bits fun s =>
    s.setCluster cl { s.cluster cl with cupPois := e.word :: (s.cluster cl).cupPois }

/-- One word read with wrong bits by the work of a descriptor on an accumulator place. -/
def State.meError (s : State) (cl pos p : Nat) (e : MeErr) : State :=
  let upd (f : Engine → Engine) (s : State) : State := s.setEngine cl (f (s.engine cl))
  match e.array with
  | .cup => s.cupError cl ⟨e.word, e.bits⟩
  | .acc => s.sramWord (leafDie cl) e.word e.bits (upd fun x => x.loseAcc p e.word)
  | .scale => s.sramWord (leafDie cl) e.word e.bits (upd fun x => x.updDesc pos fun r => r.loseScale e.word)
  | .vector part => s.sramWord (leafDie cl) e.word e.bits (upd fun x => x.updDesc pos fun r => r.loseVector part e.word)

def State.meErrors (s : State) (cl pos p : Nat) (errs : List MeErr) : State :=
  errs.foldl (fun s e => s.meError cl pos p e) s

/-- Go on with a descriptor as the errors found have left it. -/
def State.withDesc (s : State) (cl pos : Nat) (f : State → DescRun → State) : State :=
  match (s.engine cl).desc? pos with
  | some r => f s r
  | none => s

/-- Load a stationary tile over 32 clocks (R91, R92). -/
def State.loadTile (s : State) (cl : Cl) (r : DescRun) : State :=
  let x := s.cluster cl
  let d := r.d
  let (_, nb, t) := d.tileAt r.tile
  let cols := (List.range 32).map fun c => x.statCol d r.tile c
  let scl := (List.range 32).map fun c =>
    (List.range (32 * d.dot)).map fun i => r.scaleAt (d.dmode == .is) r.tile (32 * nb + c) t i
  let bad := (cols.zip scl).filter fun p => (p.1.any (·.2)) || (p.2.any (·.2))
  (s.consumed (leafDie cl) bad.length).setEngine cl
    (({ s.engine cl with stat := cols, statScale := scl, loadClk := 32 }).updDesc r.pos fun r =>
      { r with loaded := true, vec := 0 })

/-- (DESIGN CHOICE, log entry 2.) -/
def State.stationaryLoad (s : State) (cl : Cl) (errs : List MeErr) : State :=
  let e := s.engine cl
  match e.current with
  | some r =>
    if s.engineRuns cl r && r.d.dmode != .os && r.taken && !r.loaded && e.portsFree
        && r.missing == [] && e.chainOk r r.d.ssrc && e.nextRead r then
      (s.meErrors cl r.pos 0 errs).withDesc cl r.pos fun s r => s.loadTile cl r
    else s
  | none => s

def execStationaryLoad (cl : Cl) (s : State) (errs : List MeErr := []) : Host.Outcome State Fault Refusal :=
  .next (s.stationaryLoad cl errs)

/-- Issue one moving vector (R93): the group's first vector takes the half. -/
def State.issueVector (s : State) (cl : Cl) (r : DescRun) : State :=
  let e := s.engine cl
  let d := r.d
  let p := e.place d
  let e := if (e.group p).isNone then (e.setGroup p (some r.group)).setAcc p [] else e
  let (acc, exc) := e.multiply (s.cluster cl) r
  let s := s.raiseExc (s.cluster cl).job exc
  let s := s.consumed (leafDie cl) ((s.cluster cl).vecPoison r).toNat
  let e := { ((e.setAcc p acc).updDesc r.pos fun r => { r with issued := true }) with busyClk := 1 }
  if r.vec + 1 < d.vecsAt r.tile then
    s.setEngine cl (e.updDesc r.pos fun r => ({ r with vec := r.vec + 1 } : DescRun).sweep)
  else
    let e := if (d.tileAt r.tile).2.2 + 1 = d.steps then e.groupFull d else e
    s.setEngine cl (e.nextTile r s.time.core)

def State.movingVector (s : State) (cl : Cl) (errs : List MeErr) : State :=
  let e := s.engine cl
  match e.current with
  | some r =>
    if s.engineRuns cl r && r.d.dmode != .os && r.loaded && e.portsFree && r.missing == []
        && !e.halfBusy r && e.chainOk r r.d.msrc then
      (s.meErrors cl r.pos (e.place r.d) errs).withDesc cl r.pos fun s r => s.issueVector cl r
    else s
  | none => s

def execMovingVectorIssue (cl : Cl) (s : State) (errs : List MeErr := []) : Host.Outcome State Fault Refusal :=
  .next (s.movingVector cl errs)

/-- Issue the K-steps of an output tile whose slices are staged, in order (R96): the first takes the set,
and the last hands it to the epilogue. -/
def State.issueTile (s : State) (cl : Cl) (r : DescRun) : State :=
  let e := s.engine cl
  let d := r.d
  let p := e.place d
  let ts := r.osReady
  let e := if (e.group p).isNone then (e.setGroup p (some r.group)).setAcc p [] else e
  let (acc, exc) := (s.cluster cl).osSteps r ts (e.acc p)
  let s := s.raiseExc (s.cluster cl).job exc
  let s := s.consumed (leafDie cl) ((ts.map ((s.cluster cl).osPoison r)).foldl (· + ·) 0)
  let e := { ((e.setAcc p acc).updDesc r.pos fun r => { r with issued := true }) with
    busyClk := ts.length, bankClk := (ts.filter (d.osConflict r.tile)).length }
  if r.vec + ts.length < d.steps then
    s.setEngine cl (e.updDesc r.pos fun r => ({ r with vec := r.vec + ts.length } : DescRun).sweep)
  else s.setEngine cl ((e.groupFull d).nextTile r s.time.core)

def State.osTileIssue (s : State) (cl : Cl) (errs : List MeErr) : State :=
  let e := s.engine cl
  match e.current with
  | some r =>
    if s.engineRuns cl r && r.d.dmode == .os && r.taken && e.portsFree && r.missing == [] && !e.halfBusy r then
      (s.meErrors cl r.pos (e.place r.d) errs).withDesc cl r.pos fun s r => s.issueTile cl r
    else s
  | none => s

def execOsTileIssue (cl : Cl) (s : State) (errs : List MeErr := []) : Host.Outcome State Fault Refusal :=
  .next (s.osTileIssue cl errs)

/-! ### The epilogue -/

/-- Start the drain of the half or set that finished first, and seed the keyed states (R95, R280). -/
def State.drainStart (s : State) (cl : Cl) : State :=
  let e := s.engine cl
  match e.drainQ with
  | [] => s
  | h :: _ =>
    match e.group h with
    | some g =>
      if g.drain || s.coreStopped then s
      else
        let keyed := match e.desc? g.pos with
          | some r => if r.d.rnd = 1 ∧ r.d.keyed then
              (List.range 32).map fun j => kseed r.d.key (BitVec.ofNat 32 (r.d.orgm + g.m0))
                (BitVec.ofNat 32 (r.d.orgn + g.n0)) g.h g.w 1 j
            else []
          | none => []
        s.setEngine cl { (e.setGroup h (some { g with drain := true })) with keyed := keyed }
    | none => s

def execEpilogueDrainStart (cl : Cl) (s : State) : Host.Outcome State Fault Refusal := .next (s.drainStart cl)

/-- A write of this engine still waits at its channel: the destination takes no further one (DEDUCED, log entry 37). -/
def State.epilogueBlocked (s : State) (cl : Cl) (d : Desc) : Bool :=
  !d.cdst && s.reqs.any fun r => r.master == .engine cl && r.kind == .write && r.stage == .waiting
    && r.route.length == (s.routeTo r.master .write (addrLocal r.addr)).length

/-- The epilogue values of a group's chunk are at hand. -/
def vectorsReady (r : DescRun) (g : GroupRun) : Bool :=
  let (m, ns) := g.chunk
  (!r.d.rscl || (Tbl.find r.vectors (vecKey .rowScale m)).isSome)
    && ns.all fun n => (!r.d.cscl || (Tbl.find r.vectors (vecKey .colScale n)).isSome)
      && (!r.d.biasen || (Tbl.find r.vectors (vecKey .bias n)).isSome)

def State.epilogueWrite (s : State) (cl : Cl) (errs : List MeErr) : State :=
  let e := s.engine cl
  match e.drainQ with
  | [] => s
  | h :: _ =>
    match e.group h with
    | none => s
    | some g =>
      match e.desc? g.pos with
      | none => s
      | some r =>
        if !g.drain || s.coreStopped || !vectorsReady r g then s
        else if s.epilogueBlocked cl r.d then s.setEngine cl { e with holding := true }
        else
          (((s.setEngine cl { e with holding := false }).meErrors cl g.pos h errs).withDesc cl g.pos fun s r =>
            s.epilogueChunk cl h g r).settle

def execEpilogueWrite (cl : Cl) (s : State) (errs : List MeErr := []) : Host.Outcome State Fault Refusal :=
  .next (s.epilogueWrite cl errs)

/-! ### Fills and multicast (R103 to R107, R145) -/

/-- The fill of a piece is the descriptor's multicast fill. -/
def Desc.multicast (d : Desc) (g : Seg) : Bool :=
  !g.isVec && ((d.mcop == 1 && !d.segStat g) || (d.mcop == 2 && d.segStat g))

/-- The current descriptor and the next one (R145). -/
def Engine.working (e : Engine) : List DescRun := (e.descs.filter fun r => !r.issueEnd).take 2

/-- The staging area that a piece of a fill goes to; scales and vectors go to the scale store. -/
def Desc.pieceArea (d : Desc) (g : Seg) : Option Desc.Range :=
  if !g.isElem then none
  else if d.segStat g then
    some (128 * d.stgs, 128 * d.stgs + 2 * (if d.dmode = .os then d.steps * d.slotA else 32 * d.slotS))
  else some (128 * d.stgm, 128 * d.stgm + 128 * d.stgmsz)

/-- A fill of the next descriptor keeps clear of the current one's areas (R145). -/
def Engine.clear (e : Engine) (r : DescRun) (g : Seg) : Bool :=
  match e.current, r.d.pieceArea g with
  | some c, some a => c.pos == r.pos || c.d.cupExtents.all fun b => !Desc.overlap a b
  | _, _ => true

/-- Size of the TG window in bytes (R87). -/
def State.windowBytes (s : State) : Nat := 262144 * s.fld 0x2500 8 3 0

/-- Before the take, fills stay out of the TG window (R137). -/
def State.windowClear (s : State) (r : DescRun) (g : Seg) : Bool :=
  r.taken || !g.isElem || (r.d.places g).all fun p => decide (p.2.1 + p.2.2 ≤ cupBytes - s.windowBytes)

/-- Sector requests of an engine outstanding. -/
def State.fillsOut (s : State) (cl : Cl) : Nat := (s.reqs.filter fun r => match r.purpose with
  | .fill c _ _ => c == cl
  | _ => false).length

/-- The operand of a descriptor that another descriptor's piece stands for: the stationary or the moving
one. -/
def Desc.likePart (d : Desc) (stat : Bool) (g : Seg) : Seg :=
  let isA := if d.dmode = .ws then !stat else stat
  { g with part := if g.isScale then (if isA then .scaleA else .scaleB) else (if isA then .elemA else .elemB) }

/-- Members of a multicast set that take a piece of it: cluster, descriptor, and the piece as it is there. -/
def State.fillTargets (s : State) (cl : Cl) (d : Desc) (g : Seg) : List (Nat × Nat × Seg) :=
  if d.multicast g then
    ((List.range 16).filter fun i => d.mcmask.getLsbD i).filterMap fun i =>
      let c := 16 * leafOf cl + i
      ((s.engine c).descs.find? fun r => r.joined && r.d.mctag == d.mctag && !r.issueEnd).map fun r =>
        (c, r.pos, { r.d.likePart (d.segStat g) g with pos := r.pos })
  else [(cl.val, g.pos, g)]

/-- The mark of a fill read of a memory line (R121, R171, R172). -/
def State.fillMark (s : State) (cl : Cl) (d : Desc) (g : Seg) (line : Nat) : Bool :=
  d.dregs g && d.lastRead g line
    && (s.fillTargets cl d g).all fun t => match (s.engine t.1).desc? t.2.1 with
      | some r => r.d.dregs t.2.2
      | none => true

def Engine.asked (e : Engine) (g : Seg) : Bool := match e.desc? g.pos with
  | some r => r.asked.any fun a => a.1 == g
  | none => false

/-- Ask for the sectors of a piece. Only the last sector read of a line carries its mark. -/
def State.fillIssue (s : State) (cl : Cl) (r : DescRun) (g : Seg) : State :=
  let d := r.d
  let s := (s.fillTargets cl d g).foldl (fun s t =>
    s.setEngine t.1 ((s.engine t.1).updDesc t.2.1 fun q => { q with asked := (t.2.2, []) :: q.asked })) s
  let (a, n) := d.segBytes g
  let ctx := (s.jobOn cl).map (·.ctx)
  let ps := fillPieces a n
  ps.foldl (fun s p =>
    let line := p.2.1.toNat / 128
    let lastHere := ps.all fun q => decide (q.2.1.toNat / 128 ≠ line ∨ q.1 ≤ p.1)
    let q := mkReq (.engine cl) .read p.2.1 p.2.2 [] false true (.fill cl g p.1) ctx
    s.request { q with marked := lastHere && s.fillMark cl d g (addrLocal p.2.1 / 128) }) s

/-- The FWAIT tag of a descriptor on a cluster is released (R122). -/
def State.fwaitFree (s : State) (cl : Nat) (d : Desc) : Bool :=
  match s.jobOn cl with
  | some j => s.tagFree j.ctx.val d.fwait
  | none => false

/-- A cluster can take a piece for a descriptor: its fills are not held, and it has room (R105, R122,
R130, R137, R145). -/
def State.canTake (s : State) (cl : Nat) (r : DescRun) (g : Seg) : Bool :=
  let e := s.engine cl
  !r.has g && !e.asked g && e.roomFor r g && e.clear r g && s.windowClear r g && s.fwaitFree cl r.d

/-- Descriptors whose pieces the fill unit may fetch: those it works on, and for vectors those whose
groups still drain. -/
def Engine.fillable (e : Engine) (g : Seg) : Option DescRun :=
  (if g.isVec then e.descs.filter fun r => 0 < r.groupsLeft else e.working).find? fun r => r.pos == g.pos

/-- Fetch a piece, where every cluster that it goes to can take it (R103, R105). -/
def State.fillRequest (s : State) (cl : Cl) (g : Seg) : State :=
  match (s.engine cl).fillable g with
  | none => s
  | some r =>
    let d := r.d
    let ok := s.engineRuns cl r && d.segValid g && (!d.multicast g || r.joined)
      && ((s.fillTargets cl d g).all fun t => match (s.engine t.1).desc? t.2.1 with
        | some q => s.canTake t.1 q t.2.2
        | none => true)
      && decide (s.fillsOut cl + (fillPieces (d.segBytes g).1 (d.segBytes g).2).length ≤ 512)
    if ok then s.fillIssue cl r g else s

def execFillRequest (cl : Cl) (seg : Seg) (s : State) : Host.Outcome State Fault Refusal :=
  .next (s.fillRequest cl seg)

/-- Bytes of a piece arrive at one cluster; the piece is placed once all have come. -/
def State.fillArrive (s : State) (c pos : Nat) (g : Seg) (off : Nat) (bs : List (Byte × Bool)) : State :=
  let new := bs.zipIdx.map fun b => (off + b.2, b.1.1, b.1.2)
  let s := s.setEngine c ((s.engine c).updDesc pos fun r => { r with
    asked := r.asked.map fun a => if a.1 = g then (g, a.2 ++ new) else a })
  match (s.engine c).desc? pos with
  | none => s
  | some r =>
    let n := (r.d.segBytes g).2
    match r.asked.find? fun a => a.1 == g && decide (n ≤ a.2.length) with
    | none => s
    | some a =>
      let bytes := (List.range n).map fun i => match a.2.find? fun b => b.1 == i with
        | some b => b.2
        | none => ((0 : Byte), true)
      s.setCluster c ((s.cluster c).place pos g bytes)

def State.fillReturn (s : State) (id : Nat) : State :=
  match s.req? id with
  | none => s
  | some q =>
    match q.purpose with
    | .fill cl g off =>
      if !q.finished then s
      else
        let s := s.dropReq id
        match q.stage, (s.engine cl).desc? g.pos with
        | .done data p, some r =>
          (s.fillTargets cl r.d g).foldl (fun s t => s.fillArrive t.1 t.2.1 t.2.2 off (data.map (·, p))) s
        | .refused, some r => (s.fillTargets cl r.d g).foldl (fun s t => s.stopAt t.1 0x04 t.2.1) s
        | _, _ => s
    | _ => s

def execFillDataReturn (id : Nat) (s : State) : Host.Outcome State Fault Refusal := .next (s.fillReturn id)

/-- What a member of a multicast set must name alike (R104): the source address of the fill, the shape of
what is fetched there, and the staging offset (DEDUCED, log entry 125). The mask is kept beside it. -/
def Desc.mcName (d : Desc) : List Nat :=
  let mov := d.mcop == 1
  let isA := if d.dmode = .ws then mov else !mov
  let (loc, scales, mx) := if isA then (d.aloc, d.scap, d.mxA) else (d.bloc, d.scbp, d.mxB)
  let (lines, stride, elt) := if isA then (d.m, d.astr, d.eltA) else (d.n, d.bstr, d.eltB)
  let passes := if d.dmode = .os then (if isA then 1 else d.mBlocks)
    else if mov then Desc.ceilDiv d.statLines 32 else Desc.ceilDiv d.movLines 1024
  [loc.toNat, if mx then scales + 1 else 0, lines, if lines ≤ 1 then 0 else stride, d.k, elt.bits, d.stepLen,
    passes, if mov then d.stgm else d.stgs]

/-- The piece that a multicast fill begins with. -/
def Desc.mcFirst (d : Desc) : Seg := d.likePart (d.mcop == 2) ⟨0, .elemA, 0, 0, 0⟩

/-- The descriptor of a cluster that has come to its multicast fill and has not joined its set. -/
def Engine.arriving (e : Engine) : Option DescRun :=
  e.working.find? fun r => r.d.mctag != 0 && !r.joined && e.clear r r.d.mcFirst

def Mcast.is (m : Mcast) (job leaf tag : Nat) : Bool := m.job == job && m.leaf == leaf && m.tag == tag

/-- Every member has come: the fill may start on all of them (R105). -/
def State.mcStart (s : State) (leaf tag : Nat) (mask : BitVec 16) : State :=
  ((List.range 16).filter fun i => mask.getLsbD i).foldl (fun s i =>
    let c := 16 * leaf + i
    match (s.engine c).arriving with
    | some r => if r.d.mctag = tag then
        s.setEngine c ((s.engine c).updDesc r.pos fun r => { r with joined := true }) else s
    | none => s) s

def State.mcArrive (s : State) (cl : Cl) : State :=
  match (s.engine cl).arriving, (s.cluster cl).job with
  | some r, some job =>
    let d := r.d
    let leaf := leafOf cl
    let bit : BitVec 16 := 1 <<< (cl.val % 16)
    if !s.engineRuns cl r || !s.fwaitFree cl d then s
    else
      match s.mcasts.find? fun m => m.is job leaf d.mctag with
      | some m =>
        if m.name ≠ d.mcName ∨ m.mask ≠ d.mcmask then s.killFrom cl 0x13 r.pos
        else
          let m := { m with arrived := m.arrived ||| bit }
          if m.arrived = m.mask then
            ({ s with mcasts := s.mcasts.filter fun q => !q.is job leaf d.mctag }).mcStart leaf d.mctag m.mask
          else { s with mcasts := s.mcasts.map fun q => if q.is job leaf d.mctag then m else q }
      | none =>
        if bit = d.mcmask then s.mcStart leaf d.mctag d.mcmask
        else { s with mcasts := s.mcasts ++ [⟨job, leaf, d.mctag, d.mcmask, d.mcName, bit, s.time.core⟩] }
  | _, _ => s

def execMulticastMemberArrive (cl : Cl) (s : State) : Host.Outcome State Fault Refusal := .next (s.mcArrive cl)

/-- A set of this cluster's job has waited past the multicast timeout (R106). -/
def State.mcTimeout (s : State) (cl : Cl) : State :=
  match s.mcasts.find? fun m => some m.job == (s.cluster cl).job && m.leaf == leafOf cl
      && m.arrived.getLsbD (cl.val % 16) && s.passedClk m.since (2 ^ s.fld 0x2500 0x0A 4 0) with
  | some m =>
    let pos := match (s.engine cl).descs.find? fun r => r.d.mctag == m.tag && !r.joined with
      | some r => r.pos
      | none => 0
    s.killFrom cl 0x13 pos
  | none => s

def execMulticastTimeout (cl : Cl) (s : State) : Host.Outcome State Fault Refusal := .next (s.mcTimeout cl)

/-! ### Cup tokens (R136 to R141, R256 to R258) -/

def State.tok (s : State) (cl n : Nat) : Nat := Tbl.get 0 (s.cluster cl).tok n
def State.setTok (s : State) (cl n v : Nat) : State :=
  let x := s.cluster cl
  s.setCluster cl { x with tok := Tbl.put 0 x.tok n v }

/-- The takes that wait for a taker, oldest first: counter, tokens, and a TG's record. -/
def State.takesOf (s : State) (cl : Nat) : Taker → List (Nat × Nat × Option TakeRec)
  | .engine => match (s.engine cl).current with
    | some r => if r.taken then [] else [(r.d.take, r.d.takeN, none)]
    | none => []
  | .sched x => ((s.tg cl).takes.filter fun t => t.sched == x).map fun t => (t.ctr, t.n, some t)

/-- Takers served before one (R139). -/
def takersBefore : Taker → List Taker
  | .engine => []
  | .sched x => .engine :: ((List.finRange 4).filter (· < x)).map .sched

/-- A take before this one in order, of the same counter, can be satisfied. -/
def State.outranked (s : State) (cl : Nat) (t : Taker) (ctr : Nat) : Bool :=
  (takersBefore t).any fun u => (s.takesOf cl u).any fun x => x.1 == ctr && decide (x.2.1 ≤ s.tok cl ctr)

/-- The take of a taker that is served next: the oldest that can be. Which of two goes first is not
stated (DESIGN CHOICE, log entry 129). -/
def State.takeOf (s : State) (cl : Nat) (t : Taker) : Option (Nat × Nat × Option TakeRec) :=
  (s.takesOf cl t).find? fun x => decide (x.2.1 ≤ s.tok cl x.1) && !s.outranked cl t x.1

/-- Set a group's threads of a lane list to a run state. -/
def Tg.setRun (t : Tg) (slot : Nat) (lanes : List Nat) (r : RunSt) : Tg :=
  lanes.foldl (fun t l => t.updThread slot l fun x => { x with run := r }) t

/-- The take is granted: the engine's descriptor, or the held issue set, goes on. -/
def State.takeDone (s : State) (cl : Nat) : Option TakeRec → State
  | none => match (s.engine cl).current with
    | some r => s.setEngine cl ((s.engine cl).updDesc r.pos fun r => { r with taken := true })
    | none => s
  | some t => s.setTg cl ({ (s.tg cl) with takes := (s.tg cl).takes.erase t }.setRun t.group t.lanes .running)

def State.takeGrant (s : State) (cl : Cl) (t : Taker) : State :=
  match s.takeOf cl t with
  | some (c, n, rec) => if s.engineFree cl then (s.setTok cl c (s.tok cl c - n)).takeDone cl rec else s
  | none => s

def execCupTokenTakeGrant (cl : Cl) (t : Taker) (s : State) : Host.Outcome State Fault Refusal :=
  .next (s.takeGrant cl t)

/-- The writes a TG's post waits for have been accepted (R257). -/
def State.postReady (s : State) (p : PostRec) : Bool :=
  p.waits.all fun id => match s.req? id with
    | some r => r.accepted
    | none => true

/-- The post that is due for a poster: counter, tokens, and the descriptor's position or the TG's
record. -/
def State.postOf (s : State) (cl : Nat) : Taker → Option (Nat × Nat × Nat)
  | .engine => ((s.engine cl).descs.find? fun r => r.drained && !r.posted).map fun r => (r.d.post, r.d.postN, r.pos)
  | .sched x => ((s.tg cl).posts.find? fun p => p.sched == x
      && s.postReady p).map fun p => (p.ctr, p.n, 0)

def State.postDone (s : State) (cl : Nat) (pos : Nat) : Taker → State
  | .engine =>
    s.setEngine cl (((s.engine cl).updDesc pos fun r => { r with posted := true }).tidy s.time.core)
  | .sched x => match (s.tg cl).posts.find? fun p => p.sched == x && s.postReady p with
    | some p => s.setTg cl { s.tg cl with posts := (s.tg cl).posts.erase p }
    | none => s

def State.tokenPost (s : State) (cl : Cl) (t : Taker) : State :=
  match s.postOf cl t with
  | some (c, n, pos) =>
    if s.coreStopped then s
    else if 65535 < s.tok cl c + n then s.killFrom cl 0x14 pos
    else (s.setTok cl c (s.tok cl c + n)).postDone cl pos t
  | none => s

def execCupTokenPost (cl : Cl) (t : Taker) (s : State) : Host.Outcome State Fault Refusal := .next (s.tokenPost cl t)

/-- Core clock since which a taker's take waits, and its descriptor's position. -/
def State.takeSince (s : State) (cl : Nat) : Taker → Option (Nat × Nat)
  | .engine => match (s.engine cl).current with
    | some r => if r.taken then none else r.takeAt.map (·, r.pos)
    | none => none
  | .sched x => ((s.tg cl).takes.find? fun t => t.sched == x).map fun t => (t.since, 0)

def State.tokenTimeout (s : State) (cl : Cl) (t : Taker) : State :=
  match s.takeSince cl t with
  | some (since, pos) =>
    if s.engineFree cl && s.passedClk since (2 ^ s.fld 0x2500 0x0B 4 0 + 1) then s.killFrom cl 0x12 pos else s
  | none => s

def execCupTokenTimeout (cl : Cl) (t : Taker) (s : State) : Host.Outcome State Fault Refusal :=
  .next (s.tokenTimeout cl t)

/-- FSIG of a descriptor whose memory writes have been accepted (R305). -/
def State.descFsig (s : State) (cl : Cl) (pos : Nat) : State :=
  match (s.engine cl).desc? pos, s.jobOn cl with
  | some r, some j =>
    if r.drained && !r.signalled then
      let s := s.setEngine cl (((s.engine cl).updDesc pos fun r => { r with signalled := true }).tidy s.time.core)
      s.signalTag j r.d.fsig
    else s
  | _, _ => s

def execDescriptorFsig (cl : Cl) (pos : Nat) (s : State) : Host.Outcome State Fault Refusal :=
  .next (s.descFsig cl pos)

end Sys2Proof.Machine
end

