-- ==== Sys2Proof/Machine/TgOps.lean ====
section
/-! DEFINITION. Threads of a thread-group processor: registers, issue, faults, collectives, barriers,
the L1 cache, local memory and the TG window (07_thread_groups.md). -/

namespace Sys2Proof.Machine

/-! ### The issue in hand -/

/-- The issue set that an instruction of a scheduler executes on, with its job (R237). -/
structure Ex where
  cl    : Cl
  sched : Sched
  slot  : Nat
  lanes : List Nat
  pc    : Nat
  job   : Job
deriving DecidableEq, Repr

def Ex.key (x : Ex) : Nat := slotKey x.sched x.slot

/-- What a scheduler has in hand, while its context runs; a save lets it finish. -/
def State.exOf (s : State) (cl : Cl) (sched : Sched) : Option Ex :=
  match Tbl.find (s.tg cl).issue sched.val, s.jobOn cl with
  | some i, some j =>
    if (s.ctxState j.ctx.val == ctxActive || s.ctxState j.ctx.val == ctxSaving) && !s.coreStopped then
      some ⟨cl, sched, i.group, i.lanes, i.pc, j⟩
    else none
  | _, _ => none

/-- The scheduler is done with its issue and busy for n clocks. -/
def State.issued (s : State) (x : Ex) (n : Nat) : State :=
  let t := s.tg x.cl
  s.setTg x.cl { t with issue := t.issue.del x.sched.val
                        freeAt := Tbl.put 0 t.freeAt x.sched.val (s.time.core + n) }

/-- Threads of the issue set go on to the next instruction. -/
def State.advance (s : State) (x : Ex) (size : Nat) : State :=
  s.setTg x.cl (x.lanes.foldl (fun t l => t.updThread x.key l fun th => { th with pc := th.pc + size }) (s.tg x.cl))

/-! ### Registers (R231, R235, R236, R266) -/

def State.thread (s : State) (x : Ex) (l : Nat) : Thread :=
  ((s.tg x.cl).thread? x.key l).getD ⟨0, 0, .exited, [], [], []⟩

def State.setThread (s : State) (x : Ex) (l : Nat) (f : Thread → Thread) : State :=
  s.setTg x.cl ((s.tg x.cl).updThread x.key l f)

/-- A fault of the issue set: cause, lane, address (R268). -/
structure TgF where
  cause : Nat
  lane  : Nat
  addr  : Word64
deriving DecidableEq, Repr

/-- Registers an instruction names lie below R, and pairs it needs are even (R266, R283). -/
def Ex.regsOk (x : Ex) (rs : List Nat) : Bool := rs.all fun r => decide (r < x.job.regsN)

/-- The first fault of an instruction over its lanes, in ascending lane order. -/
def firstFault (lanes : List Nat) (f : Nat → Option (Nat × Word64)) : Option TgF :=
  lanes.findSome? fun l => (f l).map fun c => ⟨c.1, l, c.2⟩

/-- Raise a fault of the issue set. -/
def State.fail (s : State) (x : Ex) (f : TgF) : State :=
  s.tgFault x.cl x.sched x.slot f.lane f.cause x.pc f.addr

/-- A source register of a lane is poisoned (R213). -/
def State.regPoison (s : State) (x : Ex) (l : Nat) (rs : List Nat) : Bool :=
  rs.any fun r => decide (r / 2 ∈ (s.thread x l).poison)

def State.rd (s : State) (x : Ex) (l r : Nat) : Word32 := Tbl.get 0 (s.thread x l).regs r

/-- Special registers of a thread (R231) (DEDUCED, log entry 46). -/
def State.special (s : State) (x : Ex) (l : Nat) (r : SpecialReg) : Word32 :=
  let g := Tbl.find (s.tg x.cl).groups x.key
  let blk := g.bind fun g => Tbl.find (s.tg x.cl).blocks g.blk
  match r with
  | .thread => match g with
    | some g => BitVec.ofNat 32 (32 * g.idx + l)
    | none => 0
  | .block => match blk with
    | some b => BitVec.ofNat 32 b.num
    | none => 0
  | .grid => BitVec.ofNat 32 x.job.grid
  | .cluster => BitVec.ofNat 32 x.cl.val
  | .clock => BitVec.ofNat 32 s.time.core
  | .argsLow => BitVec.ofNat 32 x.job.args
  | .argsHigh => BitVec.ofNat 32 (x.job.args / 2 ^ 32)

def State.src (s : State) (x : Ex) (l : Nat) : Src → Word32
  | .reg r => s.rd x l r
  | .imm v => v
  | .special r => s.special x l r

def srcRegs : Src → List Nat
  | .reg r => [r]
  | _ => []

/-- A register pair, low word in the lower register (DESIGN CHOICE, log entry 38). -/
def State.rd2 (s : State) (x : Ex) (l r : Nat) : Word64 := s.rd x l (r + 1) ++ s.rd x l r

/-- Write a register of a lane, readable `lat` clocks after the issue: half of a word of the register file, whose
poison stays (R211). -/
def State.wr (s : State) (x : Ex) (l r : Nat) (v : Word32) (lat : Nat) : State :=
  s.setThread x l fun t => { t with
    regs := Tbl.put 0 t.regs r v
    sb := (r, some (s.time.core + lat)) :: t.sb.filter fun b => b.1 ≠ r }

/-- Poison that remains where a run of registers is written: words written whole lose it (R211). -/
def poisonLeft (pois rs : List Nat) : List Nat := pois.filter fun w => decide (2 * w ∉ rs ∨ 2 * w + 1 ∉ rs)

/-- An instruction has written a run of registers. -/
def State.wrote (s : State) (x : Ex) (l : Nat) (rs : List Nat) : State :=
  s.setThread x l fun t => { t with poison := poisonLeft t.poison rs }

/-- (DESIGN CHOICE, log entry 38.) -/
def State.wr2 (s : State) (x : Ex) (l r : Nat) (v : Word64) (lat : Nat) : State :=
  ((s.wr x l r (v.setWidth 32) lat).wr x l (r + 1) ((v >>> 32).setWidth 32) lat).wrote x l [r, r + 1]

/-- Stands for a thread's next instruction among the registers it waits for (R265). -/
def pcReg : Nat := 256

/-- Mark registers of a lane as waiting for a memory result. -/
def State.await (s : State) (x : Ex) (l : Nat) (rs : List Nat) : State :=
  s.setThread x l fun t => { t with sb := rs.map (·, none) ++ t.sb.filter fun b => b.1 ∉ rs }

/-- Run an instruction on the issue in hand: a fault where it has one, else the next instruction, its
effect on every lane in ascending order, and the scheduler busy for `rate` clocks. -/
def State.perLane (s : State) (th : Th) (regs : List Nat) (rate : Nat)
    (bad : State → Ex → Nat → Option (Nat × Word64)) (f : Ex → Nat → State → State) : State :=
  match s.exOf th.cl th.sched with
  | none => s
  | some x =>
    if !x.regsOk regs then s.fail x ⟨0x22, x.lanes.headD 0, 0⟩
    else
      match firstFault x.lanes (bad s x) with
      | some e => s.fail x e
      | none => (x.lanes.foldl (fun s l => f x l s) (s.advance x th.size)).issued x rate

/-- Sources that are poisoned fault with cause 0x25 (R213). -/
def poisonBad (srcs : List Nat) (s : State) (x : Ex) (l : Nat) : Option (Nat × Word64) :=
  if s.regPoison x l srcs then some (0x25, 0) else none

/-! ### Issue (R235, R237 to R239, R271) -/

/-- Registers the instruction at a byte offset reads and writes, as the command says. -/
def usesAt (uses : List (Nat × List Nat)) (pc : Nat) : List Nat :=
  match uses.find? fun u => u.1 == pc with
  | some u => u.2
  | none => []

/-- A thread is ready: neither exited nor held, its operands available. -/
def Thread.ready (t : Thread) (uses : List (Nat × List Nat)) (now : Nat) : Bool :=
  t.run == .running && (pcReg :: usesAt uses t.pc).all fun r => t.sb.all fun b =>
    b.1 != r || (match b.2 with
      | none => false
      | some c => decide (c ≤ now))

def Group.readyLanes (g : Group) (uses : List (Nat × List Nat)) (now : Nat) : List Nat :=
  (List.range g.threads.length).filter fun l => match g.threads[l]? with
    | some t => t.ready uses now
    | none => false

/-- The passed threads' choice, else the lowest PC (R238). -/
def Group.choose (g : Group) (ready : List Nat) : Nat × List Nat :=
  let th (l : Nat) : Nat × Nat := match g.threads[l]? with
    | some t => (t.pc, t.passed)
    | none => (0, 0)
  let starved := ready.filter fun l => decide (64 ≤ (th l).2)
  let pc := match firstBy (fun a b => decide ((th b).2 < (th a).2)) starved with
    | some l => (th l).1
    | none => match firstBy (fun a b => decide ((th a).1 < (th b).1)) ready with
      | some l => (th l).1
      | none => 0
  (pc, ready.filter fun l => (th l).1 == pc)

/-- Counters of the threads passed over and issued. -/
def Group.pass (g : Group) (ready set : List Nat) : Group :=
  { g with threads := g.threads.zipIdx.map fun t =>
      if t.2 ∈ set then { t.1 with passed := 0 }
      else if t.2 ∈ ready then { t.1 with passed := t.1.passed + 1 }
      else t.1 }

/-- Group slots of a scheduler in round-robin order after the last one issued. -/
def slotOrder (last : Nat) : List Nat := (List.range 12).map fun i => (last + 1 + i) % 12

/-- The scheduler's register cache after an issue, most recent first: registers that are read again are renewed,
those that carry the hint enter, and the ones used longest ago give way (R235). -/
def cacheUse (c : List (Nat × Nat × Nat)) (sched key : Nat) (uses reuse : List Nat) : List (Nat × Nat × Nat) :=
  let again := uses.filter fun r => decide ((sched, key, r) ∈ c)
  (again ++ reuse).foldl (fun c r =>
    let e := (sched, key, r)
    let mine := (e :: (c.filter fun x => x.1 == sched && x != e)).take 32
    mine ++ c.filter fun x => x.1 != sched) c

/-- Lines of the instruction cache (R227) (DESIGN CHOICE, log entry 141). -/
def icLines : Nat := 512

/-- The fetch of the instruction at a byte offset of the program, through the instruction cache: a parity error
takes the line's copy away (R208). Where it faults, its cause and address (R266) (DESIGN CHOICE, log entry 141). -/
def State.fetch (s : State) (cl : Cl) (j : Job) (pc : Nat) (found : IssueErrs) : State × Option (Nat × Word64) :=
  let pa := j.prog + pc
  let a := localAddr pa
  let line := pa / 128
  let t := s.tg cl
  let here := decide (line ∈ t.icache)
  let others := t.icache.filter (· ≠ line)
  let s := if here && found.icache then s.corrected (leafDie cl) 0 false else s
  let filled := s.setTg cl { t with icache := (line :: others).take icLines }
  let dropped := s.setTg cl { t with icache := others }
  if pc ∈ found.outside then (dropped, some (0x20, a))
  else if here && !found.icache then (filled, none)
  else match s.addrKind a 1 with
    | .unmapped => (dropped, some (0x20, a))
    | .hbm =>
      let x := (s.sectorIn (pa / 32)).getD (s.hbmView (pa / 32))
      if x.2 then (dropped, some (0x25, a)) else (filled, none)
    | _ => (filled, none)

/-- Entries of the register cache that fail parity leave it (R208, R236). -/
def State.cacheParity (s : State) (cl : Cl) (sched key : Nat) (rs : List Nat) : State :=
  let t := s.tg cl
  let bad := rs.filter fun r => decide ((sched, key, r) ∈ t.rcache)
  bad.foldl (fun s _ => s.corrected (leafDie cl) 0 false)
    (s.setTg cl { t with rcache := t.rcache.filter fun e => !(e.1 == sched && e.2.1 == key && decide (e.2.2 ∈ bad)) })

/-- Wrong bits in a word of the register file that an issue set reads (R207). -/
def State.regError (s : State) (cl : Cl) (key : Nat) (e : RegErr) : State :=
  match (s.tg cl).thread? key e.lane with
  | none => s
  | some x =>
    let w := e.reg / 2
    if w ∈ x.poison then s
    else s.sramWord (leafDie cl) ((32 * key + e.lane) * 128 + w) e.bits fun s =>
      s.setTg cl ((s.tg cl).updThread key e.lane fun x => { x with poison := w :: x.poison })

/-- The next group's issue set, fetched and with what its operands' reads find (R207, R208). Clocks without an
eligible group are counted by the tick. -/
def State.issueGroup (s : State) (cl : Cl) (sched : Sched) (j : Job) (uses : List (Nat × List Nat))
    (reuse : List Nat) (found : IssueErrs) : State :=
  let t := s.tg cl
  let now := s.time.core
  let pick := (slotOrder (Tbl.get 11 t.last sched.val)).findSome? fun sl =>
    (Tbl.find t.groups (slotKey sched sl)).bind fun g =>
      let ready := g.readyLanes uses now
      if ready = [] then none else some (sl, g, ready)
  match pick with
  | none => s
  | some (sl, g, ready) =>
    let (pc, set) := g.choose ready
    let (s, fault) := s.fetch cl j pc found
    match fault with
    | some (c, a) => s.tgFault cl sched sl (set.headD 0) c pc a
    | none =>
      let key := slotKey sched sl
      let rs := usesAt uses pc
      let s := s.cacheParity cl sched.val key found.rcache
      let kept := (s.tg cl).rcache
      let errs := found.regs.filter fun e => decide (e.lane ∈ set ∧ e.reg ∈ rs ∧ (sched.val, key, e.reg) ∉ kept)
      let s := errs.foldl (fun s e => s.regError cl key e) s
      let t := s.tg cl
      let t := { t with
        groups := t.groups.map fun q => if q.1 = key then (key, q.2.pass ready set) else q
        last := Tbl.put 11 t.last sched.val sl
        issue := Tbl.set t.issue sched.val ⟨sl, set, pc⟩
        rcache := cacheUse t.rcache sched.val key rs reuse }
      ((s.setTg cl t).count (0x3600 + cl.val) 1).count (0x3600 + cl.val) 3 set.length

def State.groupIssue (s : State) (cl : Cl) (sched : Sched) (uses : List (Nat × List Nat))
    (reuse : List Nat) (found : IssueErrs) : State :=
  let t := s.tg cl
  match s.jobOn cl with
  | none => s
  | some j =>
    if s.ctxState j.ctx.val == ctxActive && !s.coreStopped && (Tbl.find t.issue sched.val).isNone
        && decide (Tbl.get 0 t.freeAt sched.val ≤ s.time.core) then
      (s.setTg cl { t with uses := Tbl.put [] t.uses sched.val uses }).issueGroup cl sched j uses reuse found
    else s

/-! ### Blocks (R228 to R232) -/

/-- Registers of a scheduler's quarter in use, by R of the job. -/
def rAlloc (r : Nat) : Nat := (r + 7) / 8 * 8

def Tg.groupsOf (t : Tg) (sched : Nat) : Nat := (t.groups.filter fun g => g.1 / 12 == sched).length

/-- The scheduler for the next group: most free slots, then most free registers, then the lowest;
none where it has no slot or too few registers. -/
def pickSched (used : List Nat) (r : Nat) : Option Nat :=
  let fits (i : Nat) : Bool := decide (used.getD i 0 < 12 ∧ (used.getD i 0 + 1) * 32 * rAlloc r ≤ 16384)
  match firstBy (fun a b => decide (used.getD a 0 < used.getD b 0)) [0, 1, 2, 3] with
  | some i => if fits i then some i else none
  | none => none

/-- Assign n groups in ascending number. -/
def assign (r : Nat) : Nat → List Nat → Option (List Nat)
  | 0, _ => some []
  | n + 1, used =>
    (pickSched used r).bind fun i =>
      (assign r n (used.modify i (· + 1))).map (i :: ·)

/-- Free group slots of a scheduler, ascending. -/
def Tg.freeSlots (t : Tg) (sched : Nat) : List Nat :=
  ((List.range 12).map (12 * sched + ·)).filter fun k => (Tbl.find t.groups k).isNone

/-- Slot keys for the schedulers of a list, each the lowest still free. -/
def takeSlots (t : Tg) : List Nat → List Nat → List Nat
  | [], _ => []
  | i :: is, taken =>
    let k := ((t.freeSlots i).find? (· ∉ taken)).getD 0
    k :: takeSlots t is (k :: taken)

/-- Granules of local memory not mapped to a block. -/
def Tg.freeGranules (t : Tg) : List Nat :=
  (List.range 256).filter fun g => !t.blocks.any fun b => decide (g ∈ b.2.granules)

def newThread (live : Bool) : Thread := ⟨0, 0, if live then .running else .exited, [], [], []⟩

/-- Place the next block of the grid. -/
def Tg.place (t : Tg) (j : Job) : Option Tg :=
  let n := (j.threads + 31) / 32
  let slot? := (List.range 16).find? fun b => (Tbl.find t.blocks b).isNone
  let free := t.freeGranules
  match slot?, assign j.regsN n ((List.range 4).map t.groupsOf) with
  | some b, some scheds =>
    if j.grid ≤ t.nextBlk ∨ free.length < j.lmem then none
    else
      let keys := takeSlots t scheds []
      let groups := keys.zipIdx.foldl (fun gs k =>
        Tbl.set gs k.1 ⟨b, k.2, (List.range 32).map fun l => newThread (decide (32 * k.2 + l < j.threads))⟩) t.groups
      some { t with
        nextBlk := t.nextBlk + 1
        groups := groups
        blocks := Tbl.set t.blocks b ⟨t.nextBlk, keys, free.take j.lmem, none⟩ }
  | _, _ => none

/-- Thread `i` of a block, by group and lane. -/
def Tg.blockThreads (t : Tg) (b : Block) : List Thread :=
  (b.groups.map fun k => match Tbl.find t.groups k with
    | some g => g.threads
    | none => []).flatten

/-- A block whose last thread has exited frees its slot and resources. -/
def Tg.reap (t : Tg) (blk : Nat) : Tg :=
  match Tbl.find t.blocks blk with
  | none => t
  | some b =>
    if (t.blockThreads b).all fun x => x.run == .exited then
      { t with blocks := t.blocks.del blk
               groups := t.groups.filter fun g => g.1 ∉ b.groups
               rcache := t.rcache.filter fun c => c.2.1 ∉ b.groups
               colls := t.colls.filter fun c => c.group ∉ b.groups }
    else t

/-! ### Barriers (R254, R255) -/

def RunSt.barred : RunSt → Bool
  | .atBar _ => true
  | _ => false

/-- Release a block's barrier once every thread that has not exited has come. -/
def Tg.barrier (t : Tg) (blk : Nat) : Tg :=
  match Tbl.find t.blocks blk with
  | none => t
  | some b =>
    let ths := t.blockThreads b
    if ths.any (fun x => x.run.barred) && ths.all fun x => x.run.barred || x.run == .exited then
      { t with
        blocks := Tbl.set t.blocks blk { b with barWait := none }
        groups := t.groups.map fun g => if g.1 ∈ b.groups then
          (g.1, { g.2 with threads := g.2.threads.map fun x => match x.run with
            | .atBar n => { x with run := .running, pc := x.pc + n }
            | _ => x })
          else g }
    else t

def Tg.blockOf (t : Tg) (key : Nat) : Nat := match Tbl.find t.groups key with
  | some g => g.blk
  | none => 0

/-! ### Group collectives (R240 to R243) -/

def Tg.exited (t : Tg) (key lane : Nat) : Bool := match t.thread? key lane with
  | some x => x.run == .exited
  | none => true

def maskLanes (m : Word32) : List Nat := (List.range 32).filter fun l => m.getLsbD l

/-- What is wrong with an arrival: an exited thread of the mask, a mask of 0, a lane outside its own
mask, masks that differ (DEDUCED, log entry 42). -/
def State.convergeBad (s : State) (x : Ex) (mask : Nat → Word32) (old : Option Coll) : Option TgF :=
  let m := match old with
    | some c => c.mask
    | none => mask (x.lanes.headD 0)
  match x.lanes.find? fun l => mask l == 0 || !(mask l).getLsbD l || mask l != m with
  | some l => some ⟨0x23, l, 0⟩
  | none => match (maskLanes m).find? fun l => (s.tg x.cl).exited x.key l with
    | some l => some ⟨0x23, l, 0⟩
    | none => none

/-- Clocks of the convergence timeout (2620:04). -/
def State.convClocks (s : State) : Nat := 2 ^ s.fld 0x2620 4 4 0

/-- A wait has gone on beyond the clock in which its timeout expires, in which an arrival still wins (R242, R255)
(DEDUCED, log entry 142). -/
def State.expired (s : State) (waited : Nat) : Bool := decide (s.convClocks < waited)

/-- Schedulers that wait for the group matrix unit with their GMAT in hand. -/
def Tg.gmuAsking (t : Tg) : List Nat := t.gmuWait.filter fun i => (Tbl.find t.issue i).isSome

/-- The unit takes a scheduler's GMAT in the next clock: it is free then, and no scheduler that waits comes before
in the round after the last one served (R246). -/
def State.gmuTakes (s : State) (cl sched : Nat) : Bool :=
  let t := s.tg cl
  let turn (i : Nat) : Nat := (i + 3 - t.gmuLast) % 4
  decide (t.gmuAt ≤ s.time.core + 1) && t.gmuAsking.all fun i => decide (turn sched ≤ turn i)

/-- The scheduler waits for the unit. -/
def State.gmuAsk (s : State) (cl sched : Nat) : State :=
  let t := s.tg cl
  s.setTg cl { t with gmuWait := t.gmuAsking.filter (· ≠ sched) ++ [sched] }

/-- The unit is the scheduler's for the eight clocks from the next one on. -/
def State.gmuGrant (s : State) (cl sched : Nat) : State :=
  let t := s.tg cl
  s.setTg cl { t with gmuAt := s.time.core + 9, gmuLast := sched, gmuWait := t.gmuAsking.filter (· ≠ sched) }

/-- Arrival of an issue set at a collective. Once the mask is complete the collective issues in the next clock
(R240), where `unit` is set once the group matrix unit takes it: `f` runs on the masked lanes and they go on. Until
then the arrived are held at the collective's PC. -/
def State.collective (s : State) (th : Th) (mask : Src) (srcs dsts : List Nat) (rate : Nat) (unit : Bool)
    (f : Ex → List Nat → State → State) : State :=
  match s.exOf th.cl th.sched with
  | none => s
  | some x =>
    if !x.regsOk (srcRegs mask ++ srcs ++ dsts) then s.fail x ⟨0x22, x.lanes.headD 0, 0⟩
    else
      match firstFault x.lanes (poisonBad (srcRegs mask) s x) with
      | some e => s.fail x e
      | none =>
      let t := s.tg x.cl
      let old := t.colls.find? fun c => c.group == x.key && c.pc == x.pc
      let mk := fun l => s.src x l mask
      match s.convergeBad x mk old with
      | some e => s.fail x e
      | none =>
        if old.any fun c => s.expired c.waited then s.fail x ⟨0x24, (old.map fun c => (maskLanes c.arrived).headD 0).getD 0, 0⟩
        else
        let m := mk (x.lanes.headD 0)
        let c := old.getD ⟨x.key, x.pc, m, 0, 0⟩
        let arrived := x.lanes.foldl (fun a l => a ||| ((1 : Word32) <<< l)) c.arrived
        let rest := t.colls.filter fun c => !(c.group == x.key && c.pc == x.pc)
        if arrived = m then
          let all := maskLanes m
          match firstFault all (poisonBad srcs s x) with
          | some e => s.fail x e
          | none =>
            if unit && !s.gmuTakes x.cl x.sched.val then s.gmuAsk x.cl x.sched.val
            else
              let s := s.setTg x.cl ({ t with colls := rest }.setRun x.key all .running)
              let s := if unit then s.gmuGrant x.cl x.sched.val else s
              ((f x all s).advance { x with lanes := all } th.size).issued x (rate + 1)
        else
          (s.setTg x.cl ({ t with colls := rest ++ [{ c with arrived := arrived }] }.setRun x.key x.lanes .atColl)).issued x 1

/-! ### Memory (R247 to R253) -/

/-- Bytes of a value of up to 16 bytes in consecutive registers. -/
def State.regBytes (s : State) (x : Ex) (l r n : Nat) : List Byte :=
  (((List.range ((n + 3) / 4)).map fun i => leBytes 4 (s.rd x l (r + i)).toNat).flatten).take n

def regsFor (r n : Nat) : List Nat := (List.range ((n + 3) / 4)).map (r + ·)

/-- Put loaded bytes into registers, zero-extended. -/
def Thread.load (t : Thread) (r n : Nat) (bs : List Byte) (ready : Nat) : Thread :=
  let rs := regsFor r n
  { t with
    regs := rs.foldl (fun g q => Tbl.put 0 g q (BitVec.ofNat 32 (leNat ((bs.drop (4 * (q - r))).take 4)))) t.regs
    poison := poisonLeft t.poison rs
    sb := rs.map (·, some ready) ++ t.sb.filter fun b => b.1 ∉ rs }

/-- Faults of an access to memory (R247, R248, R259). -/
def State.memBad (s : State) (a : Word64) (n : Nat) (atomic : Bool) : Option (Nat × Word64) :=
  if a.toNat % n ≠ 0 then some (0x21, a)
  else match s.addrKind a n with
    | .unmapped => some (0x20, a)
    | .host => if atomic then some (0x20, a) else none
    | _ => none

/-- Sizes an access may have (R248); another is an undefined encoding. -/
def sizeBad (n : Nat) : Bool := !decide (n ∈ [1, 2, 4, 8, 16])

/-- Line of the L1 that an address lies in: the global line, local addresses under node 0xFFFF. -/
def State.l1Line (s : State) (a : Word64) : Nat :=
  (if s.isLocal a then 0xFFFF * 2 ^ 48 + addrLocal a else a.toNat) / 128

/-- The L1 holds lines of HBM, local and remote, and none of the host window (R205). -/
def State.l1Able (s : State) (a : Word64) (n : Nat) : Bool := s.addrKind a n != .host

/-- (DESIGN CHOICE, log entry 39.) -/
def l1Lines : Nat := 1024

/-- Bytes of an aligned access within a valid sector of the L1. -/
def Tg.l1Get (t : Tg) (line off n : Nat) : Option (List Byte) :=
  match t.l1.find? fun e => e.line == line with
  | some e => if e.valid.getLsbD (off / 32) then
      some (((leBytes 128 e.data.toNat).drop off).take n) else none
  | none => none

def putBytes (v : BitVec 1024) (off : Nat) (bs : List Byte) : BitVec 1024 :=
  let old := leBytes 128 v.toNat
  BitVec.ofNat 1024 (leNat (old.take off ++ bs ++ old.drop (off + bs.length)))

/-- A fetched sector enters the L1; the line used longest ago gives way (DESIGN CHOICE, log entry 39). -/
def Tg.l1Fill (t : Tg) (line sec : Nat) (bs : List Byte) : Tg :=
  let e := (t.l1.find? fun e => e.line == line).getD ⟨line, 0, 0⟩
  let e := { e with valid := e.valid ||| ((1 : BitVec 4) <<< sec), data := putBytes e.data (32 * sec) bs }
  { t with l1 := (e :: t.l1.filter fun q => q.line ≠ line).take l1Lines }

/-- A store updates a sector the L1 holds (R249). -/
def Tg.l1Store (t : Tg) (line off : Nat) (bs : List Byte) : Tg :=
  { t with l1 := t.l1.map fun e =>
      if e.line = line ∧ e.valid.getLsbD (off / 32) then { e with data := putBytes e.data off bs } else e }

/-- A parity error or a dregs load invalidates the copy. -/
def Tg.l1Drop (t : Tg) (line : Nat) : Tg := { t with l1 := t.l1.filter fun e => e.line ≠ line }

/-- Ask memory for a lane's load. With `keep` the whole sector is fetched into the L1. -/
def State.loadReq (s : State) (x : Ex) (l d n : Nat) (a : Word64) (keep marked : Bool) : State :=
  let off := if keep then a.toNat % 32 else 0
  let p := Purpose.load x.cl x.sched x.slot l d keep x.pc off n
  let q := mkReq (.tg x.cl) .read (a - BitVec.ofNat 64 off) (if keep then 32 else n) [] false true p (some x.job.ctx)
  (s.await x l (regsFor d n)).request { q with marked := marked }

/-- One lane of LD (R249). -/
def State.ldLane (s : State) (x : Ex) (l d n : Nat) (a : Word64) : State :=
  let line := s.l1Line a
  match (s.tg x.cl).l1Get line (a.toNat % 128) n with
  | some bs => s.setThread x l fun t => t.load d n bs (s.time.core + 28)
  | none => s.loadReq x l d n a (s.l1Able a n) false

/-- A write to a line: fills of it on their way no longer enter the L1, so that a later load sees
the write (R252). -/
def State.dropFills (s : State) (cl : Cl) (line : Nat) : State :=
  { s with reqs := s.reqs.map fun r => match r.purpose with
      | .load c sc slot lane d true pc off n =>
        if c = cl ∧ s.l1Line r.addr = line then { r with purpose := .load c sc slot lane d false pc off n } else r
      | _ => r }

/-- Every line of the L1 and every register-cache entry leaves, and no fill on its way enters (R166). -/
def State.dropFirst (s : State) (cl : Cl) : State :=
  let s := s.setTg cl { s.tg cl with l1 := [], rcache := [] }
  { s with reqs := s.reqs.map fun r => match r.purpose with
      | .load c sc slot lane d true pc off n =>
        if c = cl then { r with purpose := .load c sc slot lane d false pc off n } else r
      | _ => r }

/-- One lane of a store: the L1's copy, and the write on its way. -/
def State.stLane (s : State) (x : Ex) (l v n : Nat) (a : Word64) : State :=
  let bs := s.regBytes x l v n
  let s := s.setTg x.cl ((s.tg x.cl).l1Store (s.l1Line a) (a.toNat % 128) bs)
  (s.dropFills x.cl (s.l1Line a)).request (mkReq (.tg x.cl) .write a n bs false true (.store x.cl x.sched x.slot l x.pc) (some x.job.ctx))

/-- Lanes of an issue set by the address they name, each group in ascending lane order. -/
def byAddr (xs : List (Nat × Word64)) : List (Word64 × List Nat) :=
  (xs.map (·.2)).eraseDups.map fun a => (a, (xs.filter fun p => p.2 == a).map (·.1))

/-- Operands of a lane for an atomic: the value, and a compare-and-swap's new value after it. -/
def State.atomArgs (s : State) (x : Ex) (l v n : Nat) (op : AtomOp) : Word64 × Word64 :=
  let one (r : Nat) : Word64 := if n = 8 then s.rd2 x l r else (s.rd x l r).setWidth 64
  (one v, if op = .cas then one (v + n / 4) else 0)

/-- One packet to a peer carries the operands of an issue set: they make one operand, but for a compare-and-swap
and an addition of FP32, whose combinations no operand of an ATOMIC packet expresses (DEDUCED, log entry 41). -/
def atomJoins (op : AtomOp) (ty : AtomTy) : Bool := op != .cas && !(op == .add && ty == .f32)

/-- One combined request of an issue set to one address (R260). -/
def State.atomReq (s : State) (x : Ex) (op : AtomOp) (ty : AtomTy) (d v : Nat) (a : Word64) (ls : List Nat) : State :=
  let n := atomWidth ty
  let mk (ls : List Nat) : Req :=
    { mkReq (.tg x.cl) (.atomic op ty) a n [] false true (.atomicOf x.cl x.sched x.slot d ls x.pc) (some x.job.ctx) with
      operands := ls.map fun l => s.atomArgs x l v n op }
  let rs := if s.addrKind a n = .remote ∧ !atomJoins op ty then ls.map fun l => mk [l] else [mk ls]
  let s := ls.foldl (fun s l => s.await x l (regsFor d n)) s
  let s := (s.setTg x.cl ((s.tg x.cl).l1Drop (s.l1Line a))).dropFills x.cl (s.l1Line a)
  ((s.count (0x3600 + x.cl.val) 9 rs.length).count (0x3600 + x.cl.val) 0x0B ls.length).requests rs

/-! ### Local memory and the TG window (R232, R247, R251, R259) -/

/-- Place of a block-relative address in the TG's local memory. -/
def Block.local (b : Block) (a : Nat) : Nat := 1024 * b.granules.getD (a / 1024) 0 + a % 1024

def State.blockOf (s : State) (x : Ex) : Block :=
  match Tbl.find (s.tg x.cl).blocks ((s.tg x.cl).blockOf x.key) with
  | some b => b
  | none => ⟨0, [], [], none⟩

def State.localBad (s : State) (x : Ex) (a n : Nat) : Option (Nat × Word64) :=
  if a % n ≠ 0 then some (0x21, BitVec.ofNat 64 a)
  else if 1024 * (s.blockOf x).granules.length < a + n then some (0x20, BitVec.ofNat 64 a)
  else none

/-- Some byte of local memory lies in a poisoned word. -/
def Tg.lmPoisoned (t : Tg) (a n : Nat) : Bool := (List.range n).any fun i => decide ((a + i) / 8 ∈ t.lmPois)

def Tg.lmWrite (t : Tg) (a : Nat) (bs : List Byte) : Tg :=
  { t with lmem := Mem.write t.lmem a bs, lmPois := poisonWords t.lmPois a (bs.map fun _ => false) }

/-- Wrong bits found in local memory on a read: the word's number in the TG's array (R207). -/
def State.lmError (s : State) (cl : Nat) (e : WordErr) : State :=
  if e.word ∈ (s.tg cl).lmPois then s
  else s.sramWord (leafDie cl) e.word e.bits fun s =>
    s.setTg cl { s.tg cl with lmPois := e.word :: (s.tg cl).lmPois }

def State.windowBad (s : State) (a n : Nat) : Option (Nat × Word64) :=
  if a % n ≠ 0 then some (0x21, BitVec.ofNat 64 a)
  else if a < cupBytes - s.windowBytes ∨ cupBytes < a + n then some (0x26, BitVec.ofNat 64 a)
  else none

/-! ### Conversions and random draws (R263, R272, R278, R283) -/

/-- Draw from a thread's lane-mode generator. -/
def State.tgDraw (s : State) (x : Ex) (l n : Nat) : State × Nat :=
  let lane := tgLane x.sched.val l
  let c := x.job.ctx.val
  let (v, st) := rngDraw (polyMask lane) n (s.lane c x.cl.val lane)
  (s.setLane c x.cl.val lane st, v)

/-- Draw from a register pair's state, written back advanced (DEDUCED, log entry 49). -/
def State.keyDraw (s : State) (x : Ex) (l sr n lat : Nat) : State × Nat :=
  let (v, st) := rngDraw (polyMask 255) n (s.rd2 x l sr)
  (s.wr2 x l sr st lat, v)

/-- Formats of a conversion, where its codes are valid: an MX code names no element conversion
(DEDUCED, log entry 40). -/
def cvtFmts (c : CvtSpec) : Option (Fmt × Fmt) :=
  if codeMx c.src || codeMx c.dst || c.rnd == 3 then none
  else match fmtOf c.src, fmtOf c.dst with
    | some a, some b => some (a, b)
    | _, _ => none

/-- Convert one pattern with the bits that SR drew; where SR draws none, what the destination cannot hold
is rounded by RNE (R67 to R73) (DESIGN CHOICE, log entry 120). -/
def cvtOne (c : CvtSpec) (a b : Fmt) (bits : Nat) (x : Nat) : Nat × Exc :=
  let m : Rnd := if c.rnd = 1 then (if drawBits a b = 0 then .rne else .sr (drawBits a b) bits)
    else if c.rnd = 2 then .rtz else .rne
  let v := decode a x
  let (r, e) := convert b m (satOf a b c.sat) v
  (r, e ||| (if v.isNan then Exc.nanin else 0))

/-- Element i of a packed conversion: within one register for formats up to 16 bits, else a register
each. -/
def State.packedRd (s : State) (x : Ex) (l r : Nat) (f : Fmt) (i : Nat) : Nat :=
  if f.bits = 32 then (s.rd x l (r + i)).toNat else (s.rd x l r).toNat / 2 ^ (f.bits * i) % 2 ^ f.bits

end Sys2Proof.Machine
end

