-- ==== Sys2Proof/Machine/Tg.lean ====
section
/-! DEFINITION. The meanings of the commands of the thread-group processors
(07_thread_groups.md, 08_random_numbers.md). -/

namespace Sys2Proof.Machine

/-! ### Blocks, issue and exit -/

def State.blockPlace (s : State) (cl : Cl) : State :=
  match s.jobOn cl with
  | some j =>
    if j.tgj && s.ctxState j.ctx.val == ctxActive && !s.coreStopped then
      match (s.tg cl).place j with
      | some t => s.setTg cl t
      | none => s
    else s
  | none => s

def execBlockPlace (cl : Cl) (s : State) : Host.Outcome State Fault Refusal := .next (s.blockPlace cl)

def execGroupIssue (cl : Cl) (sched : Sched) (uses : List (Nat × List Nat)) (reuse : List Nat) (s : State)
    (found : IssueErrs := .none) : Host.Outcome State Fault Refusal := .next (s.groupIssue cl sched uses reuse found)

/-- An unfinished collective of the group whose mask names an exiting lane (R241). -/
def State.exitBad (s : State) (x : Ex) : Option (Nat × Nat) :=
  (s.tg x.cl).colls.findSome? fun c =>
    if c.group = x.key then (x.lanes.find? fun l => c.mask.getLsbD l).map (·, c.pc) else none

/-- What memory still brings to threads that exit reaches no register: their loads are dropped, and their atomics
complete for nobody (R231). -/
def State.dropLoads (s : State) (x : Ex) : State :=
  { s with reqs := s.reqs.filterMap fun r => match r.purpose with
      | .load c sc sl l _ _ _ _ _ =>
        if c = x.cl ∧ sc = x.sched ∧ sl = x.slot ∧ l ∈ x.lanes then none else some r
      | .atomicOf c sc sl d ls pc =>
        if c = x.cl ∧ sc = x.sched ∧ sl = x.slot ∧ ls.all (fun l => decide (l ∈ x.lanes)) then
          some { r with purpose := .atomicOf c sc sl d [] pc } else some r
      | _ => some r }

def State.exitThreads (s : State) (th : Th) : State :=
  match s.exOf th.cl th.sched with
  | none => s
  | some x =>
    match s.exitBad x with
    | some (lane, pc) => s.tgFault x.cl x.sched x.slot lane 0x23 pc 0
    | none =>
      let s := (s.dropLoads x).issued x 1
      let blk := (s.tg x.cl).blockOf x.key
      s.setTg x.cl ((((s.tg x.cl).setRun x.key x.lanes .exited).barrier blk).reap blk)

def execExit (th : Th) (s : State) : Host.Outcome State Fault Refusal := .next (s.exitThreads th)

/-! ### Instructions on a thread's own registers (R265) -/

/-- Source registers, destination registers and issue clocks of an instruction. -/
def aluUse : AluOp → List Nat × List Nat × Nat
  | .add d a b | .sub d a b | .cmp _ d a b | .shl d a b | .shrL d a b | .shrA d a b | .mul32 d a b
  | .and d a b | .or d a b | .xor d a b | .fadd d a b | .fmul d a b => (srcRegs a ++ srcRegs b, [d], 1)
  | .select d a b c | .ffma d a b c | .bf16fma d a b c => (srcRegs a ++ srcRegs b ++ srcRegs c, [d], 1)
  | .mul64 d a b => ([a, a + 1, b, b + 1], [d, d + 1], 4)
  | .special _ d a => (srcRegs a, [d], 4)
  | .branch _ => ([], [], 1)
  | .branchIf p _ => (srcRegs p, [], 1)
  | .call d _ => ([], [d], 1)
  | .ret a => ([a], [], 1)
  | .undefinedEncoding => ([], [], 1)

/-- (DEDUCED, log entry 43.) -/
def cmpHolds (c : Cmp) (a b : Word32) : Bool :=
  match c with
  | .eq => a == b
  | .ne => a != b
  | .ltS => decide (a.toInt < b.toInt)
  | .leS => decide (a.toInt ≤ b.toInt)
  | .ltU => decide (a.toNat < b.toNat)
  | .leU => decide (a.toNat ≤ b.toNat)

/-- NANIN of a floating-point operation. -/
def nanIn (xs : List Num) : Exc := if xs.any Num.isNan then Exc.nanin else 0

/-- One half of a packed BF16 fused multiply-add: computed in FP32, then rounded to BF16 by RNE (R76). -/
def bfFma (a b c : Nat) : Nat × Exc :=
  let wide (h : Nat) : Word32 := BitVec.ofNat 32 (h * 2 ^ 16)
  let (v, e) := fmaRne (wide a) (wide b) (wide c)
  let (r, e') := convert (.flt bf16) .rne false (ofWord v)
  (r, e ||| e' ||| nanIn [ofWord (wide a), ofWord (wide b), ofWord (wide c)])

def packedFma (a b c : Word32) : Word32 × Exc :=
  let half (w : Word32) (i : Nat) : Nat := w.toNat / 2 ^ (16 * i) % 2 ^ 16
  let (l, e) := bfFma (half a 0) (half b 0) (half c 0)
  let (h, e') := bfFma (half a 1) (half b 1) (half c 1)
  (BitVec.ofNat 32 (l + h * 2 ^ 16), e ||| e')

/-- A special function: a NaN is written as the positive pattern (R51), and the flags follow from the
value (R77) (DESIGN CHOICE, log entry 45). -/
def specialFn (f : SpecialFn) (a : Word32) : Word32 × Exc :=
  let r := canonNan (Config.special f a)
  (r, nanIn [ofWord a] ||| opExc [ofWord a] (ofWord r))

/-- Write a register and raise flags. -/
def State.put (s : State) (x : Ex) (l d : Nat) (v : Word32 × Exc) (lat : Nat) : State :=
  (s.wr x l d v.1 lat).raiseExc (some x.job.id) v.2

/-- A shift by 32 or more has no stated result (DESIGN CHOICE, log entry 44). -/
def State.shift (s : State) (x : Ex) (l d : Nat) (n : Nat) (v : Word32) : State :=
  if n < 32 then s.wr x l d v 4
  else (s.drawFree).wr x l d (s.freeWord.setWidth 32) 4

/-- The thread's next instruction can issue two clocks after a control instruction (R265). -/
def State.hold2 (s : State) (x : Ex) (l : Nat) : State :=
  s.setThread x l fun t => { t with sb := (pcReg, some (s.time.core + 2)) :: t.sb.filter fun b => b.1 ≠ pcReg }

def State.jump (s : State) (x : Ex) (l target : Nat) : State :=
  (s.setThread x l fun t => { t with pc := target }).hold2 x l

/-- Effect of an instruction on one lane; the lane's PC is at the next instruction already (DEDUCED, log entry 43). -/
def State.alu (s : State) (x : Ex) (l size : Nat) : AluOp → State
  | .add d a b => s.wr x l d (s.src x l a + s.src x l b) 4
  | .sub d a b => s.wr x l d (s.src x l a - s.src x l b) 4
  | .cmp c d a b => s.wr x l d (if cmpHolds c (s.src x l a) (s.src x l b) then 1 else 0) 4
  | .select d p a b => s.wr x l d (if s.src x l p ≠ 0 then s.src x l a else s.src x l b) 4
  | .shl d a b => s.shift x l d (s.src x l b).toNat (s.src x l a <<< (s.src x l b).toNat)
  | .shrL d a b => s.shift x l d (s.src x l b).toNat (s.src x l a >>> (s.src x l b).toNat)
  | .shrA d a b => s.shift x l d (s.src x l b).toNat ((s.src x l a).sshiftRight (s.src x l b).toNat)
  | .mul32 d a b => s.wr x l d (s.src x l a * s.src x l b) 4
  | .mul64 d a b => s.wr2 x l d (s.rd2 x l a * s.rd2 x l b) 8
  | .and d a b => s.wr x l d (s.src x l a &&& s.src x l b) 4
  | .or d a b => s.wr x l d (s.src x l a ||| s.src x l b) 4
  | .xor d a b => s.wr x l d (s.src x l a ^^^ s.src x l b) 4
  | .fadd d a b =>
    let (p, q) := (s.src x l a, s.src x l b)
    let (r, e) := addRne p q
    s.put x l d (r, e ||| nanIn [ofWord p, ofWord q]) 4
  | .fmul d a b =>
    let (p, q) := (s.src x l a, s.src x l b)
    let (r, e) := mulRne p q
    s.put x l d (r, e ||| nanIn [ofWord p, ofWord q]) 4
  | .ffma d a b c =>
    let (p, q, t) := (s.src x l a, s.src x l b, s.src x l c)
    let (r, e) := fmaRne p q t
    s.put x l d (r, e ||| nanIn [ofWord p, ofWord q, ofWord t]) 4
  | .bf16fma d a b c => s.put x l d (packedFma (s.src x l a) (s.src x l b) (s.src x l c)) 4
  | .special f d a => s.put x l d (specialFn f (s.src x l a)) 12
  | .branch target => s.jump x l target
  | .branchIf p target => if s.src x l p ≠ 0 then s.jump x l target else s.hold2 x l
  | .call d target => (s.wr x l d (BitVec.ofNat 32 (x.pc + size)) 2).jump x l target
  | .ret a => s.jump x l (s.rd x l a).toNat
  | .undefinedEncoding => s

def aluBad (op : AluOp) (s : State) (x : Ex) (l : Nat) : Option (Nat × Word64) :=
  match op with
  | .undefinedEncoding => some (0x22, 0)
  | op => poisonBad (aluUse op).1 s x l

def State.aluRun (s : State) (th : Th) (op : AluOp) : State :=
  s.perLane th ((aluUse op).1 ++ (aluUse op).2.1) (aluUse op).2.2 (aluBad op)
    fun x l s => s.alu x l th.size op

def execAluInstruction (th : Th) (op : AluOp) (s : State) : Host.Outcome State Fault Refusal :=
  .next (s.aluRun th op)

/-! ### Group collectives (R240 to R246) -/

/-- The forms GMAT supports: FP8 in any mix, INT8, and BF16 or FP16 unmixed (R245). -/
def gmatForm (a b : GFmt) : Option (Fmt × Fmt) :=
  match a, b with
  | .int8, .int8 => some (.int 8, .int 8)
  | .bf16, .bf16 => some (.flt bf16, .flt bf16)
  | .fp16, .fp16 => some (.flt fp16, .flt fp16)
  | .e4m3, .e4m3 => some (.flt e4m3, .flt e4m3)
  | .e4m3, .e5m2 => some (.flt e4m3, .flt e5m2)
  | .e5m2, .e4m3 => some (.flt e5m2, .flt e4m3)
  | .e5m2, .e5m2 => some (.flt e5m2, .flt e5m2)
  | _, _ => none

/-- Element i of w bits of a fragment that starts at a register of a lane; a lane outside the mask
supplies zeros. -/
def State.fragment (s : State) (x : Ex) (mask : List Nat) (l r w i : Nat) : Nat :=
  if l ∈ mask then (s.rd x l (r + i * w / 32)).toNat / 2 ^ (i * w % 32) % 2 ^ w else 0

/-- Products of one output of GMAT: row i of A by column j of B (R244). -/
def State.gmatTerms (s : State) (x : Ex) (mask : List Nat) (fa fb : Fmt) (a b i j : Nat) : List (Num × Num) :=
  let w := fa.bits
  let k := 256 / w
  let per := k / 4
  (List.range k).map fun q =>
    (decode fa (s.fragment x mask i a w q), decode fb (s.fragment x mask (8 * (q / per) + j) b w (q % per)))

/-- The exact sum of integer products. -/
def intSum (ps : List (Num × Num)) : Int :=
  (ps.map fun p => match p with
    | (.fin s m _, .fin t n _) => if s == t then ((m * n : Nat) : Int) else -((m * n : Nat) : Int)
    | _ => 0).foldl (· + ·) 0

def State.gmatOut (s : State) (x : Ex) (mask : List Nat) (fa fb : Fmt) (a b c i j : Nat) : Word32 × Exc :=
  let old := s.rd x i (c + j)
  let ts := s.gmatTerms x mask fa fb a b i j
  if fa.isInt then (old + BitVec.ofInt 32 (intSum ts), 0)
  else
    let (u, e) := unitSum false ts
    let v := sumExact [ofWord old, u]
    let (r, e') := rne32x v
    (r, e ||| e' ||| nanIn [ofWord old] ||| opExc [ofWord old, u] v)

/-- C := C + A × B over the masked lanes, all read before any is written. -/
def State.gmatAll (s : State) (x : Ex) (mask : List Nat) (fa fb : Fmt) (a b c : Nat) : State :=
  let outs := (mask.map fun i => (List.range 8).map fun j => (i, j, s.gmatOut x mask fa fb a b c i j)).flatten
  let s := outs.foldl (fun s o => s.put x o.1 (c + o.2.1) o.2.2 21) s
  mask.foldl (fun s i => s.wrote x i ((List.range 8).map (c + ·))) s

/-- (DEDUCED, log entry 47.) -/
def State.gmat (s : State) (th : Th) (mask : Src) (fa fb : GFmt) (a b c : Nat) : State :=
  match s.exOf th.cl th.sched, gmatForm fa fb with
  | none, _ => s
  | some x, none => s.fail x ⟨0x22, x.lanes.headD 0, 0⟩
  | some _, some (f, g) =>
    let cs := (List.range 8).map (c + ·)
    s.collective th mask ((List.range 8).map (a + ·) ++ [b, b + 1] ++ cs) cs 1 true
      fun x all s => s.gmatAll x all f g a b c

def execGmat (th : Th) (mask : Src) (fa fb : GFmt) (a b c : Nat) (s : State) : Host.Outcome State Fault Refusal :=
  .next (s.gmat th mask fa fb a b c)

/-- Write one value to each of the masked lanes, readable six clocks after the collective issues, the clock after
this one. -/
def State.spread (s : State) (x : Ex) (d : Nat) (vs : List (Nat × Word32)) : State :=
  vs.foldl (fun s p => s.wr x p.1 d p.2 7) s

def execXlaneGet (th : Th) (mask : Src) (d a : Nat) (lane : Src) (s : State) : Host.Outcome State Fault Refusal :=
  .next (s.collective th mask (a :: srcRegs lane) [d] 2 false fun x all s =>
    s.spread x d (all.map fun l =>
      let from_ := (s.src x l lane).toNat % 32
      (l, if from_ ∈ all then s.rd x from_ a else 0)))

/-- ANYOF, EVERY, or the bitmap of the masked lanes' predicates. -/
def pollValue (kind : PollKind) (ps : List (Nat × Bool)) : Word32 :=
  match kind with
  | .anyOf => if ps.any (·.2) then 1 else 0
  | .every => if ps.all (·.2) then 1 else 0
  | .bitmap => ps.foldl (fun w p => if p.2 then w ||| ((1 : Word32) <<< p.1) else w) 0

def execXlanePoll (th : Th) (mask : Src) (kind : PollKind) (d : Nat) (p : Src) (s : State) :
    Host.Outcome State Fault Refusal :=
  .next (s.collective th mask (srcRegs p) [d] 2 false fun x all s =>
    let v := pollValue kind (all.map fun l => (l, s.src x l p != 0))
    s.spread x d (all.map fun l => (l, v)))

def foldStep (kind : FoldKind) (signed : Bool) (a b : Word32) : Word32 :=
  let le := if signed then decide (a.toInt ≤ b.toInt) else decide (a.toNat ≤ b.toNat)
  match kind with
  | .sum => a + b
  | .min => if le then a else b
  | .max => if le then b else a

def foldValue (kind : FoldKind) (signed : Bool) : List Word32 → Word32
  | [] => 0
  | v :: vs => vs.foldl (foldStep kind signed) v

def execXlaneFold (th : Th) (mask : Src) (kind : FoldKind) (signed : Bool) (d : Nat) (a : Src) (s : State) :
    Host.Outcome State Fault Refusal :=
  .next (s.collective th mask (srcRegs a) [d] 2 false fun x all s =>
    let v := foldValue kind signed (all.map fun l => s.src x l a)
    s.spread x d (all.map fun l => (l, v)))

def State.convTimeout (s : State) (cl : Cl) (sched : Sched) (slot : Nat) : State :=
  match (s.tg cl).colls.find? fun c => c.group == slotKey sched slot && s.expired c.waited with
  | some c => s.tgFault cl sched slot ((maskLanes c.arrived).headD 0) 0x24 c.pc 0
  | none => s

def execConvergenceTimeout (cl : Cl) (sched : Sched) (slot : Fin 12) (s : State) :
    Host.Outcome State Fault Refusal := .next (s.convTimeout cl sched slot.val)

/-! ### Memory (R247 to R253, R259 to R261) -/

/-- The first that names a fault. -/
def orElse (a b : Option (Nat × Word64)) : Option (Nat × Word64) := match a with
  | some x => some x
  | none => b

/-- What is wrong with a lane's access at the address in a register pair. -/
def accessBad (srcs : List Nat) (a n : Nat) (atomic : Bool) (s : State) (x : Ex) (l : Nat) : Option (Nat × Word64) :=
  if sizeBad n then some (0x22, 0)
  else orElse (poisonBad (a :: (a + 1) :: srcs) s x l) (s.memBad (s.rd2 x l a) n atomic)

/-- A parity error in the L1 takes the copy away, and the load is served as a miss (R208). -/
def State.l1Parity (s : State) (x : Ex) (a : Word64) (bad : Bool) : State :=
  let t := s.tg x.cl
  let line := s.l1Line a
  if bad && t.l1.any (fun e => e.line == line) then
    (s.setTg x.cl (t.l1Drop line)).corrected (leafDie x.cl) 0 false
  else s

def execLd (th : Th) (d a bytes : Nat) (parityBad : Bool) (s : State) : Host.Outcome State Fault Refusal :=
  .next (s.perLane th (a :: (a + 1) :: regsFor d bytes) 1 (accessBad [] a bytes false) fun x l s =>
    let addr := s.rd2 x l a
    (s.l1Parity x addr parityBad).ldLane x l d bytes addr)

def execLdByp (th : Th) (d a bytes : Nat) (s : State) : Host.Outcome State Fault Refusal :=
  .next (s.perLane th (a :: (a + 1) :: regsFor d bytes) 1 (accessBad [] a bytes false) fun x l s =>
    s.loadReq x l d bytes (s.rd2 x l a) false false)

/-- Each lane of the issue sends its own marked read, also where several name one line (R171) (DESIGN CHOICE, log
entry 149). -/
def execLdDregs (th : Th) (d a bytes : Nat) (s : State) : Host.Outcome State Fault Refusal :=
  .next (s.perLane th (a :: (a + 1) :: regsFor d bytes) 1 (accessBad [] a bytes false) fun x l s =>
    let addr := s.rd2 x l a
    ((s.setTg x.cl ((s.tg x.cl).l1Drop (s.l1Line addr))).dropFills x.cl (s.l1Line addr)).loadReq x l d bytes addr
      false true)

/-- Load data reaches its registers, and with it the L1 (R213, R249). -/
def State.loadDone (s : State) (r : Req) (cl : Cl) (sched : Sched) (slot lane d : Nat) (keep : Bool)
    (pc off n : Nat) : State :=
  let addr := r.addr + BitVec.ofNat 64 off
  match r.stage with
  | .done data pois =>
    if pois then s.tgFault cl sched slot lane 0x25 pc addr
    else
      let t := s.tg cl
      let t := t.updThread (slotKey sched slot) lane fun th =>
        th.load d n ((data.drop off).take n) (s.time.core + 16)
      s.setTg cl (if keep then t.l1Fill (s.l1Line r.addr) (r.addr.toNat % 128 / 32) data else t)
  | _ => s.tgFault cl sched slot lane 0x20 pc addr

/-- What each thread of a combined atomic receives: eight bytes a lane. -/
def State.atomicDone (s : State) (r : Req) (cl : Cl) (sched : Sched) (slot d : Nat) (lanes : List Nat)
    (pc : Nat) : State :=
  let n := match r.kind with
    | .atomic _ ty => atomWidth ty
    | _ => 4
  match r.stage with
  | .done data pois =>
    if pois then s.tgFault cl sched slot (lanes.headD 0) 0x25 pc r.addr
    else
      s.setTg cl (lanes.zipIdx.foldl (fun t p =>
        t.updThread (slotKey sched slot) p.1 fun th =>
          th.load d n ((data.drop (8 * p.2)).take n) (s.time.core + 20)) (s.tg cl))
  | _ => s.tgFault cl sched slot (lanes.headD 0) 0x20 pc r.addr

def State.loadReturn (s : State) (id : Nat) : State :=
  match s.req? id with
  | some r =>
    if !r.finished then s
    else match r.purpose with
      | .load cl sched slot lane d keep pc off n =>
        (s.dropReq id).loadDone r cl sched slot lane d keep pc off n
      | .atomicOf cl sched slot d lanes pc => (s.dropReq id).atomicDone r cl sched slot d lanes pc
      | _ => s
  | none => s

def execLoadReturn (id : Nat) (s : State) : Host.Outcome State Fault Refusal := .next (s.loadReturn id)

def execSt (th : Th) (a v bytes : Nat) (s : State) : Host.Outcome State Fault Refusal :=
  .next (s.perLane th (a :: (a + 1) :: regsFor v bytes) 1 (accessBad (regsFor v bytes) a bytes false)
    fun x l s => s.stLane x l v bytes (s.rd2 x l a))

/-- Registers of an atomic's operand, and of the value a compare-and-swap stores. -/
def atomRegs (op : AtomOp) (ty : AtomTy) (v : Nat) : List Nat :=
  (List.range (atomWidth ty / 4 * (if op = .cas then 2 else 1))).map (v + ·)

/-- An atomic on memory: one request for each address that the issue set names (R260) (DEDUCED, log entry 41). -/
def State.memAtomic (s : State) (th : Th) (op : AtomOp) (ty : AtomTy) (d a v : Nat) : State :=
  match s.exOf th.cl th.sched with
  | none => s
  | some x =>
    let n := atomWidth ty
    if !atomForm op ty || !x.regsOk ([a, a + 1] ++ regsFor d n ++ atomRegs op ty v) then
      s.fail x ⟨0x22, x.lanes.headD 0, 0⟩
    else
      match firstFault x.lanes (accessBad (atomRegs op ty v) a n true s x) with
      | some e => s.fail x e
      | none =>
        let sets := byAddr (x.lanes.map fun l => (l, s.rd2 x l a))
        ((sets.foldl (fun s p => s.atomReq x op ty d v p.1 p.2) s).advance x th.size).issued x 1

def execMemoryAtomic (th : Th) (op : AtomOp) (ty : AtomTy) (d a v : Nat) (s : State) :
    Host.Outcome State Fault Refusal := .next (s.memAtomic th op ty d a v)

/-! ### Local memory and the TG window -/

def localAccessBad (srcs : List Nat) (a : Src) (n : Nat) (s : State) (x : Ex) (l : Nat) : Option (Nat × Word64) :=
  if sizeBad n then some (0x22, 0)
  else orElse (poisonBad (srcRegs a ++ srcs) s x l) (s.localBad x (s.src x l a).toNat n)

/-- A read of poisoned local memory (R213). -/
def localReadBad (a : Src) (n : Nat) (s : State) (x : Ex) (l : Nat) : Option (Nat × Word64) :=
  let at_ := (s.src x l a).toNat
  orElse (localAccessBad [] a n s x l)
    (if (s.tg x.cl).lmPoisoned ((s.blockOf x).local at_) n then some (0x25, BitVec.ofNat 64 at_) else none)

/-- Words of the array that the issue set reads. -/
def State.localWords (s : State) (x : Ex) (a : Src) (n : Nat) : List Nat :=
  (x.lanes.map fun l =>
    let w := (s.blockOf x).local (s.src x l a).toNat
    (List.range ((w % 8 + n + 7) / 8)).map (w / 8 + ·)).flatten

/-- Errors found as an issue set reads local memory, where no address is at fault. -/
def State.localErrors (s : State) (th : Th) (a : Src) (n : Nat) (errs : List WordErr) : State :=
  match s.exOf th.cl th.sched with
  | none => s
  | some x =>
    if !x.regsOk (srcRegs a) || (firstFault x.lanes (localAccessBad [] a n s x)).isSome then s
    else (errs.filter fun e => decide (e.word ∈ s.localWords x a n)).foldl (fun s e => s.lmError x.cl e) s

def execLocalLoad (th : Th) (d : Nat) (a : Src) (bytes : Nat) (errs : List WordErr) (s : State) :
    Host.Outcome State Fault Refusal :=
  .next ((s.localErrors th a bytes errs).perLane th (srcRegs a ++ regsFor d bytes) 1 (localReadBad a bytes)
    fun x l s =>
      let bs := Mem.read (s.tg x.cl).lmem ((s.blockOf x).local (s.src x l a).toNat) bytes
      s.setThread x l fun t => t.load d bytes bs (s.time.core + 24))

def execLocalStore (th : Th) (a : Src) (v bytes : Nat) (s : State) : Host.Outcome State Fault Refusal :=
  .next (s.perLane th (srcRegs a ++ regsFor v bytes) 1 (localAccessBad (regsFor v bytes) a bytes) fun x l s =>
    s.setTg x.cl ((s.tg x.cl).lmWrite ((s.blockOf x).local (s.src x l a).toNat) (s.regBytes x l v bytes)))

/-- One combined atomic on local memory, at block-relative address `at_`. -/
def State.localAtom (s : State) (x : Ex) (op : AtomOp) (ty : AtomTy) (d v at_ : Nat) (ls : List Nat) : State :=
  let n := atomWidth ty
  let place := (s.blockOf x).local at_
  let old := BitVec.ofNat 64 (leNat (Mem.read (s.tg x.cl).lmem place n))
  let (new, olds) := atomAll op ty old (ls.map fun l => s.atomArgs x l v n op)
  let s := (s.setTg x.cl ((s.tg x.cl).lmWrite place (leBytes n new.toNat))).raiseExc (some x.job.id)
    (atomExc op ty old (ls.map fun l => s.atomArgs x l v n op))
  (ls.zip olds).foldl (fun s p => s.setThread x p.1 fun t =>
    t.load d n (leBytes n p.2.toNat) (s.time.core + 24)) s

def State.localAtomics (s : State) (th : Th) (op : AtomOp) (ty : AtomTy) (d : Nat) (a : Src) (v : Nat) : State :=
  match s.exOf th.cl th.sched with
  | none => s
  | some x =>
    let n := atomWidth ty
    if !atomForm op ty || !x.regsOk (srcRegs a ++ regsFor d n ++ atomRegs op ty v) then
      s.fail x ⟨0x22, x.lanes.headD 0, 0⟩
    else
      let bad (l : Nat) := orElse (localReadBad a n s x l) (poisonBad (atomRegs op ty v) s x l)
      match firstFault x.lanes bad with
      | some e => s.fail x e
      | none =>
        let sets := byAddr (x.lanes.map fun l => (l, (s.src x l a).setWidth 64))
        ((sets.foldl (fun s p => s.localAtom x op ty d v p.1.toNat p.2) s).advance x th.size).issued x 1

def execLocalAtomic (th : Th) (op : AtomOp) (ty : AtomTy) (d : Nat) (a : Src) (v : Nat) (s : State)
    (errs : List WordErr := []) : Host.Outcome State Fault Refusal :=
  .next ((s.localErrors th a (atomWidth ty) errs).localAtomics th op ty d a v)

def windowAccessBad (srcs : List Nat) (a : Src) (n : Nat) (s : State) (x : Ex) (l : Nat) : Option (Nat × Word64) :=
  if sizeBad n then some (0x22, 0)
  else orElse (poisonBad (srcRegs a ++ srcs) s x l) (s.windowBad (s.src x l a).toNat n)

def windowReadBad (a : Src) (n : Nat) (s : State) (x : Ex) (l : Nat) : Option (Nat × Word64) :=
  let at_ := (s.src x l a).toNat
  orElse (windowAccessBad [] a n s x l)
    (if (s.cluster x.cl).cupPoisoned at_ n then some (0x25, BitVec.ofNat 64 at_) else none)

/-- The words of the window that a load reads with wrong bits, where it reads at all. -/
def State.windowErrors (s : State) (th : Th) (a : Src) (n : Nat) (errs : List WordErr) : State :=
  match s.exOf th.cl th.sched with
  | none => s
  | some x =>
    if !x.regsOk (srcRegs a) || (firstFault x.lanes (windowAccessBad [] a n s x)).isSome then s
    else (errs.filter fun e => x.lanes.any fun l => decide (8 * e.word < (s.src x l a).toNat + n
      ∧ (s.src x l a).toNat < 8 * e.word + 8)).foldl (fun s e => s.cupError x.cl e) s

def execWindowLoad (th : Th) (d : Nat) (a : Src) (bytes : Nat) (s : State) (errs : List WordErr := []) :
    Host.Outcome State Fault Refusal :=
  .next ((s.windowErrors th a bytes errs).perLane th (srcRegs a ++ regsFor d bytes) 1 (windowReadBad a bytes) fun x l s =>
    let bs := Mem.read (s.cluster x.cl).cup (s.src x l a).toNat bytes
    s.setThread x l fun t => t.load d bytes bs (s.time.core + 30))

def execWindowStore (th : Th) (a : Src) (v bytes : Nat) (s : State) : Host.Outcome State Fault Refusal :=
  .next (s.perLane th (srcRegs a ++ regsFor v bytes) 1 (windowAccessBad (regsFor v bytes) a bytes) fun x l s =>
    s.setCluster x.cl ((s.cluster x.cl).cupWrite (s.src x l a).toNat ((s.regBytes x l v bytes).map (·, false))))

/-- A cluster prefetches a range of this device's memory; a request goes over the saucer link for each granule
whose home is the other caddy (R157, R164, R188). -/
def State.prefetchBy (s : State) (cl : Nat) (base len : Nat) : State :=
  let far := s.farGranules cl base len
  let s := if far = 0 then s else s.count (0x3300 + caddyOf cl) 0x13 far
  s.prefetchBytes 1 none base len

def execPrefetch (th : Th) (a : Nat) (len : Src) (s : State) : Host.Outcome State Fault Refusal :=
  .next (s.perLane th (a :: (a + 1) :: srcRegs len) 1 (poisonBad (a :: (a + 1) :: srcRegs len)) fun x l s =>
    let base := s.rd2 x l a
    s.when (s.isLocal base) fun s => s.prefetchBy x.cl (addrLocal base) (s.src x l len).toNat)

/-! ### Fences, barriers and tokens -/

/-- Hold the issue set at a fence, past which its threads will go on. -/
def State.fence (s : State) (th : Th) (k : FenceKind) : State :=
  match s.exOf th.cl th.sched with
  | none => s
  | some x =>
    let s := (s.advance x th.size).issued x 1
    s.setTg x.cl ((s.tg x.cl).setRun x.key x.lanes (.atFence k s.time.core))

def execFenceBlock (th : Th) (s : State) : Host.Outcome State Fault Refusal := .next (s.fence th .block)
def execFenceDevice (th : Th) (s : State) : Host.Outcome State Fault Refusal := .next (s.fence th .device)
def execFenceFabric (th : Th) (s : State) : Host.Outcome State Fault Refusal := .next (s.fence th .fabric)

/-- A write or an atomic of a thread is still on its way: to this device's memory or, with `far`, to
another node's. -/
def State.writesOpen (s : State) (cl : Cl) (sched : Sched) (slot lane : Nat) (far : Bool) : Bool :=
  s.reqs.any fun r =>
    (match r.purpose with
      | .store c sc sl l _ => c == cl && sc == sched && sl == slot && l == lane
      | .atomicOf c sc sl _ ls _ => c == cl && sc == sched && sl == slot && decide (lane ∈ ls)
      | _ => false)
    && !r.accepted && (s.addrKind r.addr (max 1 r.len) == .remote) == far

/-- The fence of a thread is complete (R166) (DEDUCED, log entry 48). -/
def State.fenceMet (s : State) (cl : Cl) (sched : Sched) (slot lane : Nat) : FenceKind → Bool
  | .block => true
  | .device => !s.writesOpen cl sched slot lane false
  | .fabric => !s.writesOpen cl sched slot lane false && !s.writesOpen cl sched slot lane true

/-- Threads of a group slot held at fences: the fence's kind and set, and the lane. -/
def Tg.fencing (t : Tg) (key : Nat) : List ((FenceKind × Nat) × Nat) :=
  (List.range 32).filterMap fun l => match t.thread? key l with
    | some x => match x.run with
      | .atFence k set => some ((k, set), l)
      | _ => none
    | none => none

/-- The first issue set of a group slot whose fence is complete for every thread in it (R253): its kind and its
lanes. -/
def State.fenced (s : State) (cl : Cl) (sched : Sched) (slot : Nat) : Option (FenceKind × List Nat) :=
  let held := (s.tg cl).fencing (slotKey sched slot)
  ((held.map (·.1)).eraseDups.map fun q => (q.1, (held.filter fun h => h.1 == q).map (·.2))).find? fun q =>
    q.2.all fun l => s.fenceMet cl sched slot l q.1

/-- (DEDUCED, log entry 48.) -/
def State.fenceDone (s : State) (cl : Cl) (sched : Sched) (slot : Nat) : State :=
  match s.fenced cl sched slot with
  | none => s
  | some (k, lanes) =>
    let s := s.setTg cl ((s.tg cl).setRun (slotKey sched slot) lanes .running)
    if k = .block then s else s.dropFirst cl

def execFenceComplete (cl : Cl) (sched : Sched) (slot : Fin 12) (s : State) : Host.Outcome State Fault Refusal :=
  .next (s.fenceDone cl sched slot.val)

/-- The first thread of a block held at its barrier: group slot key, lane, PC. -/
def Tg.barHolder (t : Tg) (b : Block) : Option (Nat × Nat × Nat) :=
  (firstBy (fun a b => decide (a < b)) (b.groups.filter fun k => (List.range 32).any fun l =>
    match t.thread? k l with
    | some x => x.run.barred
    | none => false)).bind fun k =>
      (List.range 32).findSome? fun l => match t.thread? k l with
        | some x => if x.run.barred then some (k, l, x.pc) else none
        | none => none

def schedOf (key : Nat) : Sched := ⟨key / 12 % 4, Nat.mod_lt _ (by decide)⟩

/-- Arrival at a block's barrier; FENCE.BLOCK is complete, since stores reach local memory and the L1
as they issue. -/
def State.barBlock (s : State) (th : Th) : State :=
  match s.exOf th.cl th.sched with
  | none => s
  | some x =>
    if (s.blockOf x).barWait.any s.expired then
      (match (s.tg x.cl).barHolder (s.blockOf x) with
       | some (k, l, pc) => s.tgFault x.cl (schedOf k) (k % 12) l 0x24 pc 0
       | none => s)
    else
    let s := s.issued x 1
    let t := (s.tg x.cl).setRun x.key x.lanes (.atBar th.size)
    let blk := t.blockOf x.key
    let t := match Tbl.find t.blocks blk with
      | some b => { t with blocks := Tbl.set t.blocks blk { b with barWait := b.barWait.or (some 0) } }
      | none => t
    s.setTg x.cl (t.barrier blk)

def execBarBlock (th : Th) (s : State) : Host.Outcome State Fault Refusal := .next (s.barBlock th)

def State.barTimeout (s : State) (cl : Cl) (blk : Nat) : State :=
  match Tbl.find (s.tg cl).blocks blk with
  | some b =>
    if b.barWait.any s.expired then
      match (s.tg cl).barHolder b with
      | some (k, l, pc) => s.tgFault cl (schedOf k) (k % 12) l 0x24 pc 0
      | none => s
    else s
  | none => s

def execBarrierTimeout (cl : Cl) (blk : Fin 16) (s : State) : Host.Outcome State Fault Refusal :=
  .next (s.barTimeout cl blk.val)

/-- Counter and count of a token instruction: those of the lowest thread of the set (R256) (DEDUCED, log entry 40). -/
def State.tokenArgs (s : State) (x : Ex) (ctr n : Src) : Option (Nat × Nat) :=
  let l := x.lanes.headD 0
  let c := (s.src x l ctr).toNat
  let k := (s.src x l n).toNat
  if c < 16 ∧ 1 ≤ k ∧ k ≤ 15 then some (c, k) else none

/-- Run a token instruction once for its issue set. -/
def State.tokenInstr (s : State) (th : Th) (ctr n : Src) (f : Ex → Nat → Nat → State → State) : State :=
  match s.exOf th.cl th.sched with
  | none => s
  | some x =>
    let low := x.lanes.headD 0
    if !x.regsOk (srcRegs ctr ++ srcRegs n) then s.fail x ⟨0x22, low, 0⟩
    else if s.regPoison x low (srcRegs ctr ++ srcRegs n) then s.fail x ⟨0x25, low, 0⟩
    else
      match s.tokenArgs x ctr n with
      | none => s.fail x ⟨0x22, low, 0⟩
      | some (c, k) => f x c k ((s.advance x th.size).issued x 1)

def execCtTake (th : Th) (ctr n : Src) (s : State) : Host.Outcome State Fault Refusal :=
  .next (s.tokenInstr th ctr n fun x c k s =>
    let t := (s.tg x.cl).setRun x.key x.lanes .atTake
    s.setTg x.cl { t with takes := t.takes ++ [⟨x.sched, x.key, x.lanes, c, k, s.time.core⟩] })

/-- Numbers of the memory writes of an issue set still on their way (R257). -/
def State.openWrites (s : State) (x : Ex) : List Nat :=
  (s.reqs.filter fun r =>
    (match r.purpose with
      | .store c sc sl l _ => c == x.cl && sc == x.sched && sl == x.slot && decide (l ∈ x.lanes)
      | .atomicOf c sc sl _ ls _ => c == x.cl && sc == x.sched && sl == x.slot && ls.any fun l => decide (l ∈ x.lanes)
      | _ => false)
    && !r.accepted && s.addrKind r.addr (max 1 r.len) != .remote).map (·.id)

def execCtPost (th : Th) (ctr n : Src) (s : State) : Host.Outcome State Fault Refusal :=
  .next (s.tokenInstr th ctr n fun x c k s =>
    s.setTg x.cl { s.tg x.cl with posts := (s.tg x.cl).posts ++ [⟨x.sched, c, k, s.openWrites x⟩] })

/-! ### Conversions and random numbers (R263, R278, R283, R285) -/

/-- Where SR bits come from: the lane generator, or the state in a register pair. -/
inductive DrawFrom | lane | pair (r : Nat)
deriving DecidableEq, Repr

def State.drawBitsFrom (s : State) (x : Ex) (l n lat : Nat) : DrawFrom → State × Nat
  | .lane => if n = 0 then (s, 0) else s.tgDraw x l n
  | .pair r => if n = 0 then (s, 0) else s.keyDraw x l r n lat

/-- What is wrong with a state pair: odd, or 0 when bits are drawn (DEDUCED, log entry 49). -/
def pairBad (d : DrawFrom) (draws : Bool) (s : State) (x : Ex) (l : Nat) : Option (Nat × Word64) :=
  match d with
  | .lane => none
  | .pair r =>
    if r % 2 = 1 ∨ (draws ∧ s.rd2 x l r = 0) then some (0x22, 0) else poisonBad [r, r + 1] s x l

def DrawFrom.regs : DrawFrom → List Nat
  | .lane => []
  | .pair r => [r, r + 1]

/-- Latency added by a keyed form. -/
def DrawFrom.late : DrawFrom → Nat
  | .lane => 0
  | .pair _ => 2

/-- D bits drawn for one element of a conversion: none unless it rounds by SR. -/
def cvtDraws (c : CvtSpec) (a b : Fmt) : Nat := if c.rnd = 1 then drawBits a b else 0

/-- Convert one pattern with bits from a source. -/
def State.cvtElem (s : State) (x : Ex) (l : Nat) (c : CvtSpec) (a b : Fmt) (from_ : DrawFrom) (lat v : Nat) :
    State × Nat :=
  let (s, bits) := s.drawBitsFrom x l (cvtDraws c a b) lat from_
  let (r, e) := cvtOne c a b bits v
  (s.raiseExc (some x.job.id) e, r)

/-- Registers of n packed elements of a format. -/
def packedRegs (r : Nat) (f : Fmt) (n : Nat) : List Nat := if f.bits = 32 then (List.range n).map (r + ·) else [r]

/-- Elements packed for the destination registers. -/
def packedOut (f : Fmt) (xs : List Nat) : List Word32 :=
  if f.bits = 32 then xs.map (BitVec.ofNat 32)
  else [BitVec.ofNat 32 (xs.zipIdx.foldl (fun a p => a + p.1 % 2 ^ f.bits * 2 ^ (f.bits * p.2)) 0)]

/-- A conversion of n elements on every lane, the lowest first. -/
def State.cvtRun (s : State) (th : Th) (c : CvtSpec) (d a n : Nat) (from_ : DrawFrom) (wide : Bool) : State :=
  match s.exOf th.cl th.sched, cvtFmts c with
  | none, _ => s
  | some x, none => s.fail x ⟨0x22, x.lanes.headD 0, 0⟩
  | some _, some (fa, fb) =>
    let draws := cvtDraws c fa fb
    let slow := wide && decide (16 < draws)
    let lat := (if slow then 7 else 6) + from_.late
    s.perLane th (packedRegs a fa n ++ packedRegs d fb n ++ from_.regs) (if slow then 2 else 1)
      (fun s x l => orElse (poisonBad (packedRegs a fa n) s x l) (pairBad from_ (draws != 0) s x l))
      fun x l s =>
        let ins := (List.range n).map (s.packedRd x l a fa)
        let (s, outs) := ins.foldl (fun (p : State × List Nat) v =>
          let (s, r) := p.1.cvtElem x l c fa fb from_ lat v
          (s, p.2 ++ [r])) (s, [])
        (((packedRegs d fb n).zip (packedOut fb outs)).foldl (fun s q => s.wr x l q.1 q.2 lat) s).wrote x l
          (packedRegs d fb n)

def execCvt (th : Th) (c : CvtSpec) (d a : Nat) (s : State) : Host.Outcome State Fault Refusal :=
  .next (s.cvtRun th c d a 1 .lane false)
def execCvtX2 (th : Th) (c : CvtSpec) (d a : Nat) (s : State) : Host.Outcome State Fault Refusal :=
  .next (s.cvtRun th c d a 2 .lane true)
def execCvtK (th : Th) (c : CvtSpec) (d a st : Nat) (s : State) : Host.Outcome State Fault Refusal :=
  .next (s.cvtRun th c d a 1 (.pair st) false)
def execCvtX2K (th : Th) (c : CvtSpec) (d a st : Nat) (s : State) : Host.Outcome State Fault Refusal :=
  .next (s.cvtRun th c d a 2 (.pair st) true)

/-- Draw 32 bits on every lane and write what `f` makes of them. -/
def State.rngRun (s : State) (th : Th) (d : Nat) (from_ : DrawFrom) (rate lat : Nat) (f : Nat → Word32) : State :=
  s.perLane th (d :: from_.regs) rate (fun s x l => pairBad from_ true s x l) fun x l s =>
    let (s, b) := s.drawBitsFrom x l 32 (lat + from_.late) from_
    s.wr x l d (f b) (lat + from_.late)

def execRngU32 (th : Th) (d : Nat) (s : State) : Host.Outcome State Fault Refusal :=
  .next (s.rngRun th d .lane 1 6 (BitVec.ofNat 32))
def execRngNorm (th : Th) (d : Nat) (s : State) : Host.Outcome State Fault Refusal :=
  .next (s.rngRun th d .lane 4 16 normVariate)
def execRngU32K (th : Th) (d st : Nat) (s : State) : Host.Outcome State Fault Refusal :=
  .next (s.rngRun th d (.pair st) 1 6 (BitVec.ofNat 32))
def execRngNormK (th : Th) (d st : Nat) (s : State) : Host.Outcome State Fault Refusal :=
  .next (s.rngRun th d (.pair st) 4 16 normVariate)

def execRngKseed (th : Th) (d key coord : Nat) (s : State) : Host.Outcome State Fault Refusal :=
  .next (s.perLane th [d, d + 1, key, key + 1, coord, coord + 1] 4
    (fun s x l => if d % 2 = 1 then some (0x22, 0) else poisonBad [key, key + 1, coord, coord + 1] s x l)
    fun x l s =>
      let c := s.rd2 x l coord
      s.wr2 x l d (kseed (s.rd2 x l key) ((c >>> 32).setWidth 32) (c.setWidth 32) 0 0 2 0) 12)

end Sys2Proof.Machine
end

