-- ==== Sys2Proof/Machine/Seq.lean ====
section
/-! DEFINITION. The sequencer: rings, job entries, the start and the end of jobs, completion rings, the
save and the restore of a context (09_sequencer_and_time.md, R365, R392 to R394). -/

namespace Sys2Proof.Machine

/-- The states in which the sequencer fetches and jobs run: READY and DEGRADED (R465). -/
def State.jobsRun (s : State) : Bool := s.dev == devReady || s.dev == devDegraded

/-! ### Reads of the sequencer's own -/

/-- Ask for a small read. -/
def State.seqRead (s : State) (pa n : Nat) (p : Purpose) (ctx : Ctx) : State :=
  s.request (mkReq .seqr .read (localAddr pa) n [] false true p (some ctx))

/-- The finished read of a purpose. -/
def State.returned (s : State) (p : Purpose) : Option Req :=
  s.reqs.find? fun r => r.purpose == p && r.finished

/-- The number a read of an index brought; none where it failed or came poisoned (R291, R394). -/
def Req.index (r : Req) : Option Word32 :=
  match r.stage with
  | .done data false => some (BitVec.ofNat 32 (leNat data))
  | _ => none

/-! ### Rings (R290 to R294) -/

def State.ringLog2n (s : State) (c r : Nat) : Nat := s.fld (0x2840 + c) (4 * r + 2) 5 1
def State.ringAddr (s : State) (c r k : Nat) : Nat := s.fld (0x2840 + c) (4 * r + k) 47 0

/-- EN of a ring rises: a halt is cleared, and the consumer index is read. A producer index still on its way
belongs to the ring as it was. -/
def State.ringStart (s : State) (c : Ctx) (r : Ring) : State :=
  let s := s.setBit (0x2840 + c.val) (4 * r.val + 2) 8 false
  let s := s.setRing c r { s.ring c r with ci := 0, pi := 0, ciBusy := true, piOld := (s.ring c r).piBusy }
  s.seqRead (s.ringAddr c r 4) 4 (.ci c r) c

def State.ciReturn (s : State) (c : Ctx) (r : Ring) : State :=
  match s.returned (.ci c r) with
  | none => s
  | some q =>
    let s := s.dropReq q.id
    let x := { s.ring c r with ciBusy := false }
    match q.index with
    | some v => s.setRing c r { x with ci := v, pi := v }
    | none => (s.setRing c r x).haltRing c r false

def execCiReadReturn (ctx : Ctx) (ring : Ring) (s : State) : Host.Outcome State Fault Refusal :=
  .next (s.ciReturn ctx ring)

/-- One ring at a poll tick: its producer index is read, unless the last read is still out (DEDUCED, log entry 54). -/
def State.pollRing (s : State) (c : Ctx) (r : Ring) : State :=
  let x := s.ring c r
  if !s.ringEn c r || s.ringHalt c r || x.ciBusy then s
  else if x.piBusy then s.count 0x3800 3
  else
    let s := (s.setRing c r { x with piBusy := true }).count 0x3800 1
    s.seqRead (s.ringAddr c r 3) 4 (.pi c r) c

/-- HEADADDR is read again while no slot is free (R309). -/
def State.pollHead (s : State) (c : Ctx) : State :=
  let x := s.ctx c
  if s.cqEn c && !x.headBusy && decide (s.cqFree c ≤ 0) then
    let s := s.setCtx c { x with headBusy := true }
    s.seqRead (s.fld (0x2850 + c.val) 3 47 0) 4 (.head c) c
  else s

def State.pollCtx (s : State) (c : Ctx) : State :=
  let s := s.pollHead c
  if s.ctxState c == ctxActive then (List.finRange 8).foldl (fun s r => s.pollRing c r) s else s

/-- (DEDUCED, log entry 54.) -/
def State.pollAll (s : State) : State :=
  if s.jobsRun && s.passedNs s.seq.tickAt (s.fld 0x2810 1 19 0) then
    let s := { s with seq := { s.seq with tickAt := s.time.now } }
    (List.finRange 16).foldl State.pollCtx s
  else s

def execPollTick (s : State) : Host.Outcome State Fault Refusal := .next s.pollAll

def State.piReturn (s : State) (c : Ctx) (r : Ring) : State :=
  match s.returned (.pi c r) with
  | none => s
  | some q =>
    let s := s.dropReq q.id
    let old := (s.ring c r).piOld
    let x := { s.ring c r with piBusy := false, piOld := false }
    let s := s.setRing c r x
    if old || !s.ringEn c r || s.ringHalt c r then s
    else
      match q.index with
      | none => s.haltRing c r false
      | some v =>
        if 2 ^ s.ringLog2n c r < (v - x.ci).toNat then s.haltRing c r true
        else s.setRing c r { x with pi := v }

def execPiReadReturn (ctx : Ctx) (ring : Ring) (s : State) : Host.Outcome State Fault Refusal :=
  .next (s.piReturn ctx ring)

/-- Fetched jobs of a ring that have not completed, the entry on its way among them. -/
def State.ringOpen (s : State) (c r : Nat) : Nat :=
  ((s.jobsOf c).filter fun j => j.ring.val == r).length + (s.ring c r).entBusy.toNat

/-- The sequencer may fetch the next entry of a ring (R293, R309). -/
def State.mayFetch (s : State) (c r : Nat) : Bool :=
  let x := s.ring c r
  s.jobsRun && s.ringEn c r && !s.ringHalt c r && s.ctxState c == ctxActive && s.cqEn c
    && !x.ciBusy && !x.entBusy && x.pi != x.ci && decide (s.ringOpen c r < 32) && decide (0 < s.cqFree c)

def State.entryFetch (s : State) (c : Ctx) (r : Ring) : State :=
  if !s.mayFetch c r then s
  else
    let x := s.ring c r
    let slot := x.ci.toNat % 2 ^ s.ringLog2n c r
    let s := (s.setRing c r { x with entBusy := true, ci := x.ci + 1 }).count 0x3800 5
    let s := s.seqRead (s.ringAddr c r 1 + 64 * slot) 64 (.entry c r) c
    let (s, w) := s.seqWrite (s.ringAddr c r 4) (leBytes 4 (x.ci + 1).toNat) (.ciWrite c r) (some c)
    if w = .unmapped then s.haltRing c r false else s

def execJobEntryFetch (ctx : Ctx) (ring : Ring) (s : State) : Host.Outcome State Fault Refusal :=
  .next (s.entryFetch ctx ring)

/-! ### The job entry (R295 to R297, R305) -/

/-- OP and OWNER of a pin operation are ones PINCTL takes (R180). -/
def pinCtlOk (ctl : Nat) : Bool := inRange 0x2311 3 (BitVec.ofNat 64 ctl)

/-- Hold pairs of a FENCE job. -/
def Job.holds (j : Job) : List (Nat × Nat) := (List.range 16).map j.hold

/-- A field of the entry is bad (R297) (DEDUCED, log entry 52). -/
def Job.bad (j : Job) : Bool :=
  j.ver != 1 || j.type == 0 || decide (6 < j.type)
  || (j.type == 1 && (j.clmask == 0 || (!j.mej && !j.tgj)))
  || (j.type != 1 && j.clmask != 0)
  || (j.type == 2 && j.copyLen == 0)
  || ((j.type == 3 || j.type == 4) && j.len == 0)
  || (j.type == 4 && !pinCtlOk j.pinCtl)
  || (j.type == 5 && j.holds.any fun h => h.1 == 0 && h.2 != 0)

/-- The shape of a grid is bad (R230). -/
def Job.badShape (j : Job) : Bool :=
  j.type == 1 && j.tgj && (j.threads == 0 || decide (1024 < j.threads) || j.regsN == 0 || decide (256 < j.lmem))

/-- The job names a cluster that is absent or parked (R32). -/
def State.lacksCluster (s : State) (j : Job) : Bool :=
  (List.range 64).any fun c => j.hasCluster c && !s.present c

/-- The cause that ends an entry at fetch, or 0 (DEDUCED, log entry 52). -/
def State.entryCause (s : State) (j : Job) : Nat :=
  if j.bad then 0x08
  else if j.badShape then 0x2E
  else if j.type = 1 ∧ s.lacksCluster j then 0x07
  else 0

/-- Add the hold pairs of a fetched FENCE job to their tags; beyond the range, the context is killed and
the job carries the cause (R306, R314). -/
def State.addHolds (j : Job) : List (Nat × Nat) → State → State
  | [], s => s
  | h :: hs, s =>
    if h.2 = 0 then State.addHolds j hs s
    else
      let v := s.tagBal j.ctx.val h.1 + h.2
      if tagFits v then State.addHolds j hs (s.setTag j.ctx.val h.1 v)
      else s.killContext j.ctx.val 0x0A [(j.id, 0x0A, 0, 0)]

/-- Add a fetched job. -/
def State.addJob (s : State) (c : Ctx) (r : Ring) (words : List Word64) : State × Job :=
  let x := s.ring c r
  let j : Job := { id := s.seq.nextJob, ctx := c, ring := r, entry := x.no, words := words, started := none
                   exc := 0, poison := false, startLate := false, ftUnlock := false, fault := none
                   faultAt := 0, engine := none, moved := false, info := 0 }
  (({ s with seq := { s.seq with jobs := s.seq.jobs ++ [j], nextJob := s.seq.nextJob + 1 } }).setRing c r
    { x with entBusy := false, no := x.no + 1, killed := false }, j)

/-- An entry returns: checked, or ended with its fault. Where its read failed, its tag is not known
(DEDUCED, log entry 31) (DESIGN CHOICE, log entry 51). -/
def State.entryReturn (s : State) (c : Ctx) (r : Ring) : State :=
  match s.returned (.entry c r) with
  | none => s
  | some q =>
    let s := s.dropReq q.id
    let killed := (s.ring c r).killed
    match q.stage with
    | .done data pois =>
      let (s, j) := s.addJob c r (leWords data 8)
      if pois then s.endJob j .fault 0x06 0 0
      else if killed then s.endJob j .fault 0x2F 0 0
      else
        match s.entryCause j with
        | 0 => if j.type = 5 then State.addHolds j j.holds s else s
        | cause => s.endJob j .fault cause 0 0
    | _ =>
      let tag := s.freeWord &&& mask 31 16
      let (s, j) := s.drawFree.addJob c r [tag]
      s.endJob j .fault 0x09 0 0

def execJobEntryReturn (ctx : Ctx) (ring : Ring) (s : State) : Host.Outcome State Fault Refusal :=
  .next (s.entryReturn ctx ring)

/-! ### Starting jobs (R298 to R300) -/

/-- The job of the ring entry before this one, while it has not completed (DEDUCED, log entry 53). -/
def State.prevJob (s : State) (j : Job) : Option Job :=
  s.seq.jobs.find? fun k => k.ctx == j.ctx && k.ring == j.ring && k.entry + 1 == j.entry

/-- Conditions 2, 3 and 5 of R298, and the clock's delay of R277. -/
def State.ready (s : State) (j : Job) : Bool :=
  s.jobsRun && j.started.isNone && s.ctxState j.ctx.val == ctxActive
  && s.tagFree j.ctx.val j.fwait && (s.ctx j.ctx.val).seedAt != some s.time.now
  && (match s.prevJob j with
      | some k => k.started.isSome && !j.serial
      | none => true)
  && !(j.dropLate && decide (j.deadline ≠ 0 ∧ j.deadline < s.ftNs))

def State.nbtReached (s : State) (j : Job) : Bool := j.nbt == 0 || decide (j.nbt ≤ s.ftNs)

/-- A cluster waits to take a saved slot back (R313). -/
def State.heldForRestore (s : State) (c : Nat) : Bool := s.seq.ctxs.any fun x => decide (c ∈ x.2.toRestore)

def State.clustersFree (s : State) (j : Job) : Bool :=
  (List.range 64).all fun c => !j.hasCluster c || ((s.cluster c).job.isNone && !s.heldForRestore c)

/-- Copy engines at work. -/
def State.copyEngines (s : State) : List (Fin 8) := s.seq.jobs.filterMap (·.engine)
def State.idleEngine (s : State) : Option (Fin 8) := (List.finRange 8).find? fun e => e ∉ s.copyEngines

/-- The resources of a job are free (R298, condition 4), but for the collective unit. -/
def State.resources (s : State) (j : Job) : Bool :=
  if j.type = 1 then s.clustersFree j && !s.age.running
  else if j.type = 2 then s.idleEngine.isSome
  else true

/-- Order of consideration (R299). -/
def jobBefore (a b : Job) : Bool :=
  let key (j : Job) : Nat × Nat × Nat × Nat := (if j.deadline = 0 then 2 ^ 64 else j.deadline, j.ctx.val, j.ring.val, j.id)
  let x := key a
  let y := key b
  decide (x.1 < y.1) || (x.1 == y.1 && (decide (x.2.1 < y.2.1) || (x.2.1 == y.2.1
    && (decide (x.2.2.1 < y.2.2.1) || (x.2.2.1 == y.2.2.1 && decide (x.2.2.2 < y.2.2.2))))))

/-- The job is due to reserve clusters it cannot have yet, since they are not free or its NBT has not come (R299)
(DEDUCED, log entry 53). -/
def State.mayReserve (s : State) (j : Job) : Bool :=
  j.type == 1 && s.ready j && !(s.nbtReached j && s.clustersFree j)
  && ((j.deadline != 0 && s.nbtReached j) || (j.nbt != 0 && decide (j.nbt ≤ s.ftNs + s.fld 0x2810 2 19 0)))

def Job.shares (a b : Job) : Bool := (a.clmask &&& b.clmask) != 0

/-- A job earlier in the order keeps this one's resources: it is itself eligible and would take them, or
it reserves clusters of this one. Copy engines and the pin request go to the first of their jobs. -/
def State.outranks (s : State) (a b : Job) : Bool :=
  jobBefore a b && a.started.isNone
  && ((a.type == 1 && b.type == 1 && a.shares b
        && (s.mayReserve a || (s.ready a && s.nbtReached a && s.resources a)))
      || (a.type == b.type && (a.type == 2 || a.type == 4) && s.ready a && s.nbtReached a))

/-- Reservations of jobs that still hold them. -/
def State.keptReserved (s : State) : List Nat := s.seq.reserved.filter fun i => (s.job? i).any s.mayReserve

/-- The sequencer would start the job now. -/
def State.eligible (s : State) (j : Job) : Bool :=
  s.ready j && s.nbtReached j && s.resources j && !s.seq.jobs.any fun a => s.outranks a j

/-- k of a step, in thousandths (R435). -/
def stepK (n : Nat) : Nat := [1000, 868, 747, 646, 553, 416, 293, 195].getD n 0

/-- Clusters on which the filler load may run (R444). -/
def State.idleClusters (s : State) : Nat :=
  ((List.range 64).filter fun c => s.present c && (s.cluster c).job.isNone).length

/-- The power that a COMPUTE job starts, and the filler load that it ends, referred to step 0 (R441): the
load of its clusters is their share of the whole (DEDUCED, log entry 75). -/
def State.notePowerStart (s : State) (j : Job) : State :=
  let n := ((List.range 64).filter j.hasCluster).length
  let share := s.power.kettle * n / max 1 s.idleClusters
  let k := stepK (if s.fld 0x2100 3 3 0 = 8 then s.power.target else s.fld 0x2100 3 3 0)
  { s with power := { s.power with
    starts := s.power.starts + (if j.pwr = 0 then 20 * n else j.pwr)
    kettle := s.power.kettle - share
    cut := s.power.cut + (if k = 0 then 0 else share * 1000 / k) } }

/-- The job starts: its START, STARTLATE and FTUNLOCK (R300, R308), and its expected power (R441). -/
def State.startJob (s : State) (j : Job) : State :=
  let now := s.ftNs
  let s := { s with seq := { s.seq with reserved := s.seq.reserved.filter (· ≠ j.id) } }
  let s := if j.type = 1 then s.notePowerStart j else s
  s.updJob j.id fun j => { j with
    started := some now
    startLate := decide (j.nbt ≠ 0 ∧ j.nbt + 1000 < now)
    ftUnlock := s.fld 0x2881 2 1 0 != 2 }

/-- Begin an eligible job of a type, by its number. -/
def State.begin (s : State) (id type : Nat) (f : Job → State → State) : State :=
  match s.job? id with
  | some j => if j.type == type && s.eligible j then f j (s.startJob j) else s
  | none => s

/-- A cluster begins a COMPUTE job (R303, R118, R229). Its first levels start empty (R167). -/
def startCluster (x : Cluster) (j : Job) (c : Nat) : Cluster :=
  { x.free with
    job := some j.id
    me := if j.mej then { Engine.idle with job := some j.id, next := j.listBase + 128 * j.lstep * c, ended := false }
          else Engine.idle
    tg := { Tg.idle with job := if j.tgj then some j.id else none, lmem := x.tg.lmem, lmPois := x.tg.lmPois } }

def State.startCompute (j : Job) (s : State) : State :=
  (List.range 64).foldl (fun s c => if j.hasCluster c then s.setCluster c (startCluster (s.cluster c) j c) else s) s

/-- A COMPUTE job starts, or ends with cause 0x07 without starting. -/
def State.computeStart (s : State) (id : Nat) : State :=
  match s.job? id with
  | some j =>
    if j.type == 1 && s.eligible j && s.lacksCluster j then s.endJob j .fault 0x07 0 0
    else s.begin id 1 State.startCompute
  | none => s

def execComputeJobStart (job : Nat) (s : State) : Host.Outcome State Fault Refusal := .next (s.computeStart job)

/-- A waiting job reserves its clusters (R299). -/
def State.reserveFor (s : State) (id : Nat) : State :=
  match s.job? id with
  | some j =>
    if s.mayReserve j && !s.seq.jobs.any (fun a => s.outranks a j) && decide (id ∉ s.seq.reserved) then
      { s with seq := { s.seq with reserved := s.keptReserved ++ [id] } }
    else { s with seq := { s.seq with reserved := s.keptReserved } }
  | none => s

def execClusterReserve (job : Nat) (s : State) : Host.Outcome State Fault Refusal := .next (s.reserveFor job)

/-! #### COPY (R296, R302, R392, R393) -/

/-- Deadline that a copy engine's requests carry (R302). -/
def State.dlTag (s : State) (j : Job) : Option (BitVec 24) :=
  if j.deadline ≠ 0 ∧ j.deadline < s.ftNs + 2 ^ 22 * 64 then some (BitVec.ofNat 24 (j.deadline / 64)) else none

/-- How a copy engine moves a job's bytes. -/
def State.copyBy (s : State) (j : Job) (e : Fin 8) : Move := ⟨.copy e, some j.ctx, s.dlTag j, !j.noAlloc⟩

/-- A copy engine starts reading, unless part of a range is unmapped (R39) (DESIGN CHOICE, log entry 50). -/
def State.startCopy (j : Job) (s : State) : State :=
  match s.idleEngine with
  | none => s
  | some e =>
    if s.addrKind (j.arg 0) j.copyLen = .unmapped ∨ s.addrKind (j.arg 1) j.copyLen = .unmapped then
      s.endJob ((s.job? j.id).getD j) .fault 0x09 0 0
    else
      let s := s.updJob j.id fun j => { j with engine := some e }
      s.readRange (s.copyBy j e) (j.arg 0) j.copyLen fun _ => .job j.id

def execCopyJobStart (job : Nat) (s : State) : Host.Outcome State Fault Refusal := .next (s.begin job 2 State.startCopy)

/-- All reads have come: the data goes out. -/
def State.copyMove (s : State) (j : Job) (e : Fin 8) (reads : List Req) : State :=
  let all := bytesOf reads
  let s := reads.foldl (fun s r => s.dropReq r.id) s
  let s := s.updJob j.id fun j => { j with moved := true, poison := j.poison || all.any (·.2) }
  (s.writeRange (s.copyBy j e) (j.arg 1) all (.job j.id)).settle

/-- A running COPY job goes on: its reads complete, its data moves, its last write is accepted. -/
def State.copyStep (s : State) (id : Nat) : State :=
  match s.job? id with
  | none => s
  | some j =>
    if j.type ≠ 2 ∨ j.started.isNone then s
    else
      let mine := s.reqs.filter fun r => r.purpose == .job id
      let s :=
        if j.moved then s
        else if mine.any (·.stage == .refused) then
          (mine.foldl (fun s r => s.dropReq r.id) s).endJob j .fault 0x09 0 0
        else if mine.all Req.finished then s.copyMove j (j.engine.getD 0) mine
        else s
      match s.job? id with
      | some j =>
        if j.moved && !s.reqs.any fun r => r.purpose == .job id then s.endJob j .done 0 0 0 else s
      | none => s

def execCopyJobComplete (job : Nat) (s : State) : Host.Outcome State Fault Refusal := .next (s.copyStep job)

/-! #### PREFETCH, PIN and FENCE -/

/-- The job as the sequencer now holds it ends. -/
def State.finish (s : State) (id : Nat) (e : JobEnd) (cause : Nat) : State :=
  match s.job? id with
  | some j => s.endJob j e cause 0 0
  | none => s

def execPrefetchJobStart (job : Nat) (s : State) : Host.Outcome State Fault Refusal :=
  .next (s.begin job 3 fun j s => (s.prefetchBytes 2 (s.dlTag j) j.base j.len).finish j.id .done 0)

def State.startPin (j : Job) (s : State) : State :=
  if s.pinBusy then s.finish j.id .refused 0x0C
  else if j.pinCtl % 4 = 1 then
    s.pinBegin j.base j.len (j.pinCtl / 8 % 32) (j.pinCtl / 4 % 2 == 1) (some j.id)
  else s.unpinBegin j.base j.len (some j.id)

def execPinJobStart (job : Nat) (s : State) : Host.Outcome State Fault Refusal := .next (s.begin job 4 State.startPin)

def execFenceJobStart (job : Nat) (s : State) : Host.Outcome State Fault Refusal :=
  .next (s.begin job 5 fun j s => s.finish j.id .done 0)

/-- A PIN job completes once BUSY has fallen (R303). -/
def State.pinComplete (s : State) (id : Nat) : State :=
  match s.job? id with
  | some j => if j.type = 4 ∧ j.started.isSome ∧ j.moved then s.endJob j .done 0 0 0 else s
  | none => s

def execPinJobComplete (job : Nat) (s : State) : Host.Outcome State Fault Refusal := .next (s.pinComplete job)

/-- FT has passed the deadline of an unstarted job that is to be dropped then (R301). -/
def State.dropLate (s : State) (id : Nat) : State :=
  match s.job? id with
  | some j =>
    if j.started.isNone && j.dropLate && decide (j.deadline ≠ 0 ∧ j.deadline < s.ftNs) then s.endJob j .dropped 0 0 0
    else s
  | none => s

def execJobDropLate (job : Nat) (s : State) : Host.Outcome State Fault Refusal := .next (s.dropLate job)

/-! #### The end of a COMPUTE job (R141, R167, R303, R511) -/

/-- Requests that a cluster's work has out, but for reads that nobody waits for. -/
def State.clusterBusy (s : State) (c : Nat) : Bool :=
  s.reqs.any fun r => r.master.cluster? == some c && !(r.kind == .read)

/-- The engine of a cluster has ended its list. -/
def Engine.done (e : Engine) : Bool := e.ended && !e.reading && e.descs.isEmpty

/-- The TG of a cluster has run its grid. -/
def Tg.done (t : Tg) (j : Job) : Bool :=
  !j.tgj || (decide (j.grid ≤ t.nextBlk) && t.blocks.isEmpty && t.posts.isEmpty)

def State.clusterDone (s : State) (j : Job) (c : Nat) : Bool :=
  (!j.mej || (s.engine c).done) && (s.tg c).done j && !s.clusterBusy c

/-- Reads of a cluster whose threads have exited leave with it. -/
def State.dropReads (s : State) (c : Nat) : State :=
  { s with reqs := s.reqs.filter fun r => !(r.master.cluster? == some c) }

def State.computeComplete (s : State) (id : Nat) : State :=
  match s.job? id with
  | none => s
  | some j =>
    let cls := s.clustersOf id
    if j.type = 1 ∧ j.started.isSome ∧ cls ≠ [] ∧ cls.all (s.clusterDone j) ∧ s.seq.faults.all (fun f => f.job ≠ id) then
      let s := cls.foldl State.dropReads s
      match j.fault with
      | some (cause, pos, cl) => s.endJob j .fault cause.toNat pos cl
      | none =>
        match cls.find? fun c => (s.cluster c).tok != [] with
        | some c => s.endJob j .fault 0x05 0 c
        | none => s.endJob j .done 0 0 0
    else s

def execComputeJobComplete (job : Nat) (s : State) : Host.Outcome State Fault Refusal := .next (s.computeComplete job)

/-! ### Completion rings (R309, R310) -/

/-- TIME has elapsed since the oldest pending record. -/
def State.cqTimer (s : State) (c : Nat) : State :=
  let us := s.fld (0x2850 + c) 4 23 8
  match (s.ctx c).oldest with
  | some t => if us ≠ 0 ∧ s.passedNs t (1000 * us) then s.cqInterrupt c else s
  | none => s

def execCompletionTimerExpire (ctx : Ctx) (s : State) : Host.Outcome State Fault Refusal := .next (s.cqTimer ctx)

/-- EN of a completion ring rises: the counts start again at slot 0, and held records are written
(DEDUCED, log entry 55). -/
def State.cqStart (s : State) (c : Nat) : State :=
  let x := s.ctx c
  State.drainHeld (x.held.length + 1) c (s.setCtx c { x with written := 0, head := 0 })

/-- (DEDUCED, log entry 55.) -/
def State.headReturn (s : State) (c : Ctx) : State :=
  match s.returned (.head c) with
  | none => s
  | some q =>
    let s := s.dropReq q.id
    let x := { s.ctx c with headBusy := false }
    match q.index with
    | some v => State.drainHeld (x.held.length + 1) c (s.setCtx c { x with head := v })
    | none => s.setCtx c x

def execHeadaddrReadReturn (ctx : Ctx) (s : State) : Host.Outcome State Fault Refusal := .next (s.headReturn ctx)

/-! ### Save and restore (R142, R270, R311 to R313) -/

/-- Clusters that run a job of a context. -/
def State.ctxClusters (s : State) (c : Nat) : List Nat :=
  (List.range 64).filter fun cl => match s.jobOn cl with
    | some j => j.ctx.val == c
    | none => false

/-- A descriptor that has issued nothing counts as not started: its take is undone and its fills will be
made afresh (R142). -/
def DescRun.undo (r : DescRun) : DescRun :=
  if r.issued then r
  else { DescRun.start r.pos r.words with posted := r.posted, signalled := r.signalled }

/-- Tokens that the undone takes of an engine return, by counter. -/
def Engine.undone (e : Engine) : List (Nat × Nat) :=
  (e.descs.filter fun r => !r.issued && r.taken && r.d.takeN != 0).map fun r => (r.d.take, r.d.takeN)

/-- The engine of a cluster is brought to rest at the start of a save (DEDUCED, log entry 56). -/
def State.undoTakes (s : State) (cl : Nat) : State :=
  let e := s.engine cl
  let fresh := (e.descs.filter fun r => !r.issued).map (·.pos)
  let s := e.undone.foldl (fun s t => s.setTok cl t.1 (s.tok cl t.1 + t.2)) s
  let s := s.setEngine cl { e with descs := e.descs.map DescRun.undo }
  { s with reqs := s.reqs.filter fun r => match r.purpose with
      | .fill c sg _ => !(c.val == cl && decide (sg.pos ∈ fresh))
      | _ => true }

/-- SAVE: fetching and starting stop, and takes without an issue are undone. -/
def State.saveStart (s : State) (c : Nat) : State :=
  let cls := s.ctxClusters c
  let s := s.setCtxState c ctxSaving
  let s := s.setCtx c { s.ctx c with saveAt := s.time.core, saved := [], stored := false }
  let s := cls.foldl State.undoTakes s
  { s with mcasts := s.mcasts.filter fun m => !(match s.job? m.job with
      | some j => j.ctx.val == c
      | none => false) }

/-- A descriptor of the cluster has issued and not posted (DEDUCED, log entry 57). -/
def Engine.unposted (e : Engine) : Bool := e.descs.any fun r => r.issued && !(r.drained && r.posted)

/-- The job on the lowest cluster whose descriptor has not posted within the token timeout of the save
carries the cause of the kill (R142, R314) (DEDUCED, log entry 57). -/
def State.saveTimeout (s : State) (c : Nat) : State :=
  if s.ctxState c = ctxSaving ∧ s.passedClk (s.ctx c).saveAt (2 ^ s.fld 0x2500 0x0B 4 0) then
    match (s.ctxClusters c).find? fun cl => (s.engine cl).unposted with
    | some cl => match s.jobOn cl with
      | some j => s.killContext c 0x0E [(j.id, 0x0E, 0, 0)]
      | none => s
    | none => s
  else s

def execSaveDrainTimeout (ctx : Ctx) (s : State) : Host.Outcome State Fault Refusal := .next (s.saveTimeout ctx)

/-- A cluster of a saving context is at rest (R142, R270). -/
def State.atRest (s : State) (cl : Nat) : Bool :=
  let t := s.tg cl
  !(s.engine cl).unposted && !(s.engine cl).reading && t.issue.isEmpty && t.posts.isEmpty
    && !s.reqs.any fun r => r.master.cluster? == some cl

/-- What a cluster's slot keeps: the first levels are not saved, and waiting takes keep how long they have
waited. -/
def Cluster.toSave (x : Cluster) (now : Nat) : Cluster :=
  { x with tg := { x.tg with
      l1 := [], rcache := []
      takes := x.tg.takes.map fun t => { t with since := now - t.since } } }

/-- Bytes of a memory with the poison of their 64-bit words, and a memory from such bytes. -/
def memBytes (m : Mem) (pois : List Nat) (n : Nat) : List (Byte × Bool) :=
  (Mem.read m 0 n).zipIdx.map fun b => (b.1, decide (b.2 / 8 ∈ pois))
def memOf (bs : List (Byte × Bool)) : Mem × List Nat :=
  (Mem.write [] 0 (bs.map (·.1)), (List.range (bs.length / 8)).filter fun w => ((bs.drop (8 * w)).take 8).any (·.2))

/-- Numbers of w bytes from the bytes of a slot, with their poison. -/
def numsOf (w : Nat) (bs : List (Byte × Bool)) : List (Nat × Bool) :=
  (List.range (bs.length / w)).map fun i =>
    let mine := (bs.drop (w * i)).take w
    (leNat (mine.map (·.1)), mine.any (·.2))

def numBytes (w : Nat) (xs : List (Nat × Bool)) : List (Byte × Bool) :=
  (xs.map fun x => (leBytes w x.1).map (·, x.2)).flatten

/-- Fill or cut a part of a slot to its size. -/
def padTo (n : Nat) (bs : List (Byte × Bool)) : List (Byte × Bool) := (bs ++ List.replicate (n - bs.length) (0, false)).take n

/-- The registers of the threads in place, by group slot, lane and register. -/
def Tg.regNums (t : Tg) (n : Nat) : List (Nat × Bool) :=
  ((t.groups.map fun g => g.2.threads.map fun x => (List.range n).map fun r =>
    ((Tbl.get 0 x.regs r).toNat, decide (r / 2 ∈ x.poison))).flatten).flatten

/-- A thread with the registers of a slot. -/
def Thread.withRegs (x : Thread) (ws : List (Nat × Bool)) : Thread :=
  { x with regs := ws.zipIdx.foldl (fun t w => Tbl.put 0 t w.2 (BitVec.ofNat 32 w.1.1)) []
           poison := ((ws.zipIdx.filter fun w => w.1.2).map fun w => w.2 / 2).eraseDups }

def threadsWith (n : Nat) : List Thread → List (Nat × Bool) → List Thread
  | [], _ => []
  | x :: xs, ws => x.withRegs (ws.take n) :: threadsWith n xs (ws.drop n)

def groupsWith (n : Nat) : List (Nat × Group) → List (Nat × Bool) → List (Nat × Group)
  | [], _ => []
  | g :: gs, ws =>
    (g.1, { g.2 with threads := threadsWith n g.2.threads ws }) :: groupsWith n gs (ws.drop (n * g.2.threads.length))

/-- Sizes of a slot's parts (R312): cup buffer, registers, local memory, and the rest; and where the rest holds
the token counters, the descriptor copies and the lane-mode states (DESIGN CHOICE, log entry 137). -/
def slotCup : Nat := 2 ^ 21
def slotRegs : Nat := 2 ^ 18
def slotLocal : Nat := 2 ^ 18
def slotRest : Nat := 8192
def restDescs : Nat := 64
def restLanes : Nat := 1024
def slotBytes : Nat := slotCup + slotRegs + slotLocal + slotRest

/-- Words of the descriptors that an engine has read. -/
def Engine.descNums (e : Engine) : List (Nat × Bool) :=
  (e.descs.map fun r => (List.range 16).map fun i => ((wordAt r.words i).toNat, false)).flatten

/-- The rest of a cluster's slot. How the scheduler state lies in it is not stated: those bytes are free. -/
def State.restPart (s : State) (c : Ctx) (cl : Nat) : List (Byte × Bool) :=
  let x := s.cluster cl
  let toks := numBytes 2 ((List.range 16).map fun i => ((Tbl.get 0 x.tok i), false))
  let lanes := numBytes 8 ((List.range 160).map fun l => ((s.lane c cl l).toNat, false))
  let fill (n : Nat) : List (Byte × Bool) := (List.range n).map fun i => (Config.slotByte s.free i, false)
  let descs := (numBytes 8 x.me.descNums).take (restLanes - restDescs)
  toks ++ fill (restDescs - toks.length) ++ descs ++ fill (restLanes - restDescs - descs.length) ++ lanes
    ++ fill (slotRest - restLanes - lanes.length)

/-- The contents of a cluster's slot (R312). -/
def State.slotImage (s : State) (c : Ctx) (cl : Nat) : List (Byte × Bool) :=
  let x := s.cluster cl
  let n := ((s.jobOn cl).map (·.regsN)).getD 0
  memBytes x.cup x.cupPois slotCup ++ padTo slotRegs (numBytes 4 (x.tg.regNums n))
    ++ memBytes x.tg.lmem x.tg.lmPois slotLocal ++ s.restPart c cl

/-- The address of a cluster's slot. -/
def State.slotAddr (s : State) (c cl : Nat) : Word64 := localAddr (s.fld 0x2861 (c + 1) 47 0 + 2 ^ 22 * cl)

/-- Write a cluster's state into its slot. -/
def State.writeSlot (s : State) (c : Ctx) (cl : Nat) : State :=
  let x := s.cluster cl
  let img := s.slotImage c cl
  let s := s.drawFree.writeRange ⟨.seqr, some c, none, true⟩ (s.slotAddr c cl) img (.save c)
  s.setCtx c { s.ctx c with saved := (s.ctx c).saved ++ [(cl, x.toSave s.time.core)] }

/-- Jobs of a context that a save lets complete (R312). -/
def State.saveWaits (s : State) (c : Nat) : Bool :=
  (s.jobsOf c).any fun j => j.started.isSome && j.type != 1

/-- (DEDUCED, log entry 56.) -/
def State.saveWrite (s : State) (c : Ctx) : State :=
  let cls := s.ctxClusters c
  if s.ctxState c = ctxSaving ∧ !(s.ctx c).stored ∧ !s.saveWaits c ∧ cls.all s.atRest
      ∧ s.seq.faults.all (fun f => f.cl ∉ cls) then
    let s := cls.foldl (fun s cl => s.writeSlot c cl) s
    s.setCtx c { s.ctx c with stored := true }
  else s

def execSaveStateWrite (ctx : Ctx) (s : State) : Host.Outcome State Fault Refusal := .next (s.saveWrite ctx)

/-- The last write of a save is accepted. -/
def State.saveDone (s : State) (c : Ctx) : State :=
  if s.ctxState c = ctxSaving ∧ (s.ctx c).stored ∧ !(s.reqs.any fun r => r.purpose == .save c && !r.accepted) then
    let s := (s.ctxClusters c).foldl (fun s cl => s.setCluster cl (s.cluster cl).free) s
    s.setCtxState c ctxSavedSt
  else s

def execCtxSaved (ctx : Ctx) (s : State) : Host.Outcome State Fault Refusal := .next (s.saveDone ctx)

/-- RESTORE: the saved clusters are reserved, or the context is killed where one is no longer present. -/
def State.restoreStart (s : State) (c : Nat) : State :=
  let x := s.ctx c
  if x.saved.all fun p => s.present p.1 then
    (s.setCtx c { x with toRestore := x.saved.map (·.1) }).setCtxState c ctxRestoring
  else s.killContext c 0x0B []

/-- What is left to a thread-group processor and an engine as their slot is written back: a TG's take goes on
waiting, an engine's take waits afresh (DESIGN CHOICE, log entry 130). -/
def Cluster.fromSave (x : Cluster) (now : Nat) : Cluster :=
  { x with tg := { x.tg with takes := x.tg.takes.map fun t => { t with since := now - t.since } }
           me := x.me.arm now }

/-- A cluster with what its slot brings: the memories, the registers, the token counters and the words of the
descriptors. -/
def Cluster.withSlot (y : Cluster) (n : Nat) (bs : List (Byte × Bool)) : Cluster :=
  let cup := memOf (bs.take slotCup)
  let loc := memOf ((bs.drop (slotCup + slotRegs)).take slotLocal)
  let rest := bs.drop (slotCup + slotRegs + slotLocal)
  let words := numsOf 8 ((rest.drop restDescs).take (restLanes - restDescs))
  { y with
    cup := cup.1, cupPois := cup.2
    tok := ((numsOf 2 (rest.take 32)).zipIdx).foldl (fun t x => Tbl.put 0 t x.2 x.1.1) []
    me := { y.me with descs := y.me.descs.zipIdx.map fun r =>
      { r.1 with words := ((words.drop (16 * r.2)).take 16).map fun w => BitVec.ofNat 64 w.1 } }
    tg := { y.tg with lmem := loc.1, lmPois := loc.2
                      groups := groupsWith n y.tg.groups (numsOf 4 ((bs.drop slotCup).take slotRegs)) } }

/-- The lane-mode states of a slot (R287). -/
def State.lanesBack (s : State) (c : Ctx) (cl : Nat) (bs : List (Byte × Bool)) : State :=
  ((numsOf 8 ((bs.drop (slotCup + slotRegs + slotLocal + restLanes)).take 1280)).zipIdx).foldl
    (fun s x => s.setLane c cl x.2 (BitVec.ofNat 64 x.1.1)) s

/-- One cluster's slot is written back. -/
def State.slotBack (s : State) (c : Ctx) (cl : Nat) (y : Cluster) (bs : List (Byte × Bool)) : State :=
  let n := (((y.job).bind s.job?).map (·.regsN)).getD 0
  let s := (s.setCluster cl ((y.fromSave s.time.core).withSlot n bs)).lanesBack c cl bs
  s.setCtx c { s.ctx c with toRestore := (s.ctx c).toRestore.filter (· ≠ cl) }

/-- A piece of a slot on its way back. -/
def Purpose.ofRestore (c : Ctx) (cl : Nat) : Purpose → Bool
  | .restore k m _ => k == c && m == cl
  | _ => false

/-- A saved cluster that is free is filled again: its slot is read, and written back once all of it has come. -/
def State.restoreSlot (s : State) (c : Ctx) (cl : Cl) : State :=
  let x := s.ctx c
  if s.ctxState c ≠ ctxRestoring ∨ cl.val ∉ x.toRestore ∨ (s.cluster cl).job.isSome then s
  else if !s.present cl then s.killContext c 0x0B []
  else
    match x.saved.find? fun p => p.1 == cl.val with
    | none => s
    | some (_, y) =>
      let mine := s.reqs.filter fun r => r.purpose.ofRestore c cl.val
      if mine = [] then s.readRange ⟨.seqr, some c, none, true⟩ (s.slotAddr c cl) slotBytes (.restore c cl.val)
      else if mine.all Req.finished then
        (s.dropReqs fun r => r.purpose.ofRestore c cl.val).slotBack c cl.val y (bytesOf mine)
      else s

def execRestoreSlotWrite (ctx : Ctx) (cl : Cl) (s : State) : Host.Outcome State Fault Refusal :=
  .next (s.restoreSlot ctx cl)

def State.restoreDone (s : State) (c : Ctx) : State :=
  if s.ctxState c = ctxRestoring ∧ (s.ctx c).toRestore = [] then
    (s.setCtx c { s.ctx c with saved := [], stored := false }).setCtxState c ctxActive
  else s

def execCtxRestored (ctx : Ctx) (s : State) : Host.Outcome State Fault Refusal := .next (s.restoreDone ctx)

/-- The valid commands of CTXCTL by state (R311); `busy` tells a resource in use from another refusal. -/
inductive CtxCheck | ok | busy | invalid
deriving DecidableEq, Repr

def State.ctxCheck (s : State) (c cmd : Nat) : CtxCheck :=
  let st := s.ctxState c
  if cmd = 1 then (if st = ctxActive then .ok else .invalid)
  else if cmd = 2 then (if st = ctxSavedSt then .ok else .invalid)
  else if cmd = 3 then
    (if st = ctxActive ∨ st = ctxSavedSt then .ok
     else if st = ctxSaving ∨ st = ctxRestoring then .busy else .invalid)
  else if cmd = 4 then (if st = ctxHalted then .ok else .invalid)
  else .invalid

/-- A valid command takes effect. -/
def State.ctxCommand (s : State) (c cmd : Nat) : State :=
  if cmd = 1 then s.saveStart c
  else if cmd = 2 then s.restoreStart c
  else if cmd = 3 then s.killContext c 0x2F []
  else s.setCtxState c ctxActive

end Sys2Proof.Machine
end

