-- ==== Sys2Proof/Machine/Ft.lean ====
section
/-! DEFINITION. Fabric time: its lock state, edges of PPS_IN, the Precision Time Protocol of the direct
ports, and the projection of power (R315 to R322, R346, R347). -/

namespace Sys2Proof.Machine

/-! ### Lock state (R316 to R318) -/

def ftFree : Nat := 0
def ftAcquiring : Nat := 1
def ftLocked : Nat := 2
def ftHoldover : Nat := 3

/-- FTSTAT.STATE. -/
def State.ftState (s : State) : Nat := s.fld 0x2881 2 1 0
/-- FTCFG.SRC. -/
def State.ftSrc (s : State) : Nat := s.fld 0x2881 1 1 0

/-- The spout runs: from BOOT on (R465). -/
def State.spoutOn (s : State) : Bool := s.bring.hv && decide (devBoot ≤ s.dev)

/-- Set STATE; leaving LOCKED is an event. -/
def State.setFtState (s : State) (n : Nat) : State :=
  let old := s.ftState
  let s := s.setFld 0x2881 2 1 0 n
  if old = ftLocked ∧ n ≠ ftLocked then s.event 0x2881 2 3 else s

/-- Counts of successive offsets. -/
def State.setLockCounts (s : State) (good bad : Nat) : State :=
  { s with time := { s.time with good := good, bad := bad } }

/-- What a change of SRC to a value brings (R317). -/
def State.ftSourceSet (s : State) (src : Nat) : State :=
  (s.setFtState (if src = 2 then ftFree else ftAcquiring)).setLockCounts 0 0

/-- A number in two's complement of 16 bits, saturating (DEDUCED, log entry 59). -/
def sat16 (x : Int) : Nat := (BitVec.ofInt 16 (max (-32768) (min 32767 x))).toNat

/-- An offset of FT, in units, is slewed or stepped away (R318) (DEDUCED, log entry 60). -/
def State.correctFt (s : State) (off : Int) : State :=
  let s := s.setFld 0x2881 2 31 16 (sat16 (Int.tdiv off nsUnits))
  if off.natAbs ≤ 1000000 * nsUnits then { s with time := { s.time with slew := -off } }
  else
    ({ s with time := { s.time with ft := ((s.time.ft : Int) - off).toNat, slew := 0 } }).event 0x2881 2 2

/-- An offset enters the counts: `n` successive ones within `inside` ns lead to LOCKED, `m` beyond 20 ns
leave it (R317, R347). -/
def State.lockStep (s : State) (off : Int) (inside n m : Nat) : State :=
  let s := { s with time := { s.time with lastRef := s.time.now } }
  if s.ftState = ftLocked then
    let bad := if 20 * nsUnits < off.natAbs then s.time.bad + 1 else 0
    if m ≤ bad then (s.setLockCounts 0 0).setFtState ftAcquiring else s.setLockCounts 0 bad
  else if s.ftState = ftFree then s
  else
    let good := if off.natAbs ≤ inside * nsUnits then s.time.good + 1 else 0
    if n ≤ good then (s.setLockCounts 0 0).setFtState ftLocked else s.setLockCounts good 0

/-! ### PPS_IN (R317) -/

/-- Units of one second. -/
def secUnits : Nat := 1000000000 * nsUnits

/-- The whole second an edge sets FT to: a write at least 100 ms old, else the second nearest to FT. -/
def State.edgeSecond (s : State) : Nat :=
  match s.time.tod with
  | some (sec, at_) => if s.passedNs at_ 100000000 then sec else (s.time.ft + secUnits / 2) / secUnits
  | none => (s.time.ft + secUnits / 2) / secUnits

/-- The pending write counts as applied. -/
def State.takeTod (s : State) : State :=
  match s.time.tod with
  | some (_, at_) => if s.passedNs at_ 100000000 then { s with time := { s.time with tod := none } } else s
  | none => s

def State.ppsEdge (s : State) : State :=
  if s.spoutOn && s.ftSrc == 1 then
    let off : Int := (s.time.ft : Int) - (s.edgeSecond * secUnits : Nat)
    ((s.takeTod).correctFt off).lockStep off 20 3 3
  else s

def execPpsEdge (s : State) : Host.Outcome State Fault Refusal := .next s.ppsEdge

/-- 2 s without a reference in LOCKED. -/
def State.sourceLoss (s : State) : State :=
  if s.ftState = ftLocked ∧ s.passedNs s.time.lastRef 2000000000 then
    (s.setLockCounts 0 0).setFtState ftHoldover
  else s

def execFtSourceLossTimeout (s : State) : Host.Outcome State Fault Refusal := .next s.sourceLoss

/-! ### Best master selection (R346) -/

/-- The first parts of the comparison of two masters: priority1, class, accuracy, variance, priority2 and
identity. -/
def masterKey (a : Announce) : List Nat :=
  [a.prio1.toNat, a.clockClass.toNat, a.accuracy.toNat, a.variance.toNat, a.prio2.toNat, a.identity.toNat]

/-- Announce a is better than b; equal grandmasters go by the steps from them, then by the sender. -/
def betterMaster (a b : Announce) : Bool :=
  if a.identity = b.identity then
    decide (a.steps < b.steps) || (a.steps == b.steps && decide (a.sender.toNat < b.sender.toNat))
  else listLt (masterKey a) (masterKey b)

/-- What the module says of its own clock. -/
def State.ownClock (s : State) : Announce :=
  { prio1 := BitVec.ofNat 8 (s.fld 0x2940 1 15 8)
    clockClass := if s.ftSrc = 1 ∧ s.ftState = ftLocked then 6 else 248
    accuracy := Config.clockAccuracy, variance := Config.clockVariance
    prio2 := BitVec.ofNat 8 (s.fld 0x2940 1 23 16), identity := Config.clockIdentity
    steps := 0, sender := Config.clockIdentity, domain := BitVec.ofNat 8 (s.fld 0x2940 1 7 0) }

/-- The better of two masters, where there is one. -/
def bestOf (a b : Option Announce) : Option Announce :=
  match a, b with
  | some x, some y => if betterMaster y x then some y else some x
  | some x, none => some x
  | none, y => y

/-- Direct ports that are UP or in MISMATCH, ascending: the ports of R346 (R334). -/
def State.ptpPorts (s : State) : List Nat := (List.range 16).filter fun i =>
  (s.portUp i || (s.portExists i && s.portState i == portMismatch)) && !s.portExt i

/-- The port whose master is the best of all. -/
def State.bestPort (s : State) : Option Nat :=
  let best := (s.ptpPorts.map fun i => (s.port i).best).foldl bestOf none
  s.ptpPorts.find? fun i => best.isSome && (s.port i).best == best

/-- The best master of all is better than a port's by topology: the same grandmaster, as many steps away, or one
step nearer and told by a clock of a lower identity than this module's (R346) (DEDUCED, log entry 62). -/
def byTopology (best r : Announce) : Bool :=
  best.identity == r.identity && (r.steps == best.steps
    || (r.steps == best.steps + 1 && decide (r.sender.toNat < Config.clockIdentity.toNat)))

/-- The role that selection gives a port. A module that takes no time from its ports is never SLAVE
(DEDUCED, log entry 62). -/
def State.roleOf (s : State) (i : Nat) : PtpRole :=
  let own := s.ownClock
  match (s.port i).best with
  | none => .master
  | some r =>
    if s.ftSrc ≠ 0 then (if betterMaster own r then .master else .passive)
    else
      match s.bestPort with
      | none => .master
      | some b =>
        match (s.port b).best with
        | none => .master
        | some e =>
          if betterMaster own e then .master
          else if b = i then .slave
          else if byTopology e r then .passive
          else .master

/-- Selection gives every port its role; while no master is known, a listening port goes on listening
(DEDUCED, log entry 62). -/
def State.selectMasters (s : State) : State :=
  let known := s.ptpPorts.any fun i => (s.port i).best.isSome
  let roles := (List.range 16).map fun i =>
    (i, if i ∈ s.ptpPorts ∧ (known ∨ (s.port i).role ≠ .listening) then s.roleOf i else .listening)
  roles.foldl (fun s r => s.setPort r.1 { s.port r.1 with role := r.2 }) s

/-- What a port announces: the module's own clock, or its master's one step further. -/
def State.announced (s : State) : Announce :=
  match (s.ptpPorts.find? fun i => (s.port i).role == .slave).bind fun i => (s.port i).best with
  | some a => { a with steps := a.steps + 1, sender := Config.clockIdentity }
  | none => s.ownClock

/-- The fields of a message as words: FT nanoseconds, domain, and what an Announce carries
(DESIGN CHOICE, log entry 61). -/
def State.ptpWords (s : State) (k : PtpKind) : List Word64 :=
  let a := s.announced
  [BitVec.ofNat 64 s.ftNs, BitVec.ofNat 64 (s.fld 0x2940 1 7 0)]
    ++ (if k = .announce then [packWord [(a.prio1.toNat, 0), (a.clockClass.toNat, 8), (a.accuracy.toNat, 16),
      (a.variance.toNat, 24), (a.prio2.toNat, 40), (a.steps % 65536, 48)], a.identity, a.sender] else [])

def State.sendPtp (s : State) (i : Nat) (k : PtpKind) : State :=
  s.enqueue i ⟨.ptp (s.portMac i) k (s.ptpWords k), none, plainBytes (ptpLen k), none, false⟩

/-- Sync, Pdelay_Req and Announce go out at their intervals, Sync with its Follow_Up and Announce from a
MASTER port. -/
def State.ptpSend (s : State) (i : Nat) (k : PtpKind) : State :=
  let p := s.port i
  if !(decide (i ∈ s.ptpPorts)) then s
  else
    match k with
    | .sync =>
      if p.role = .master ∧ s.passedNs p.syncAt 7812500 then
        ((s.setPort i { p with syncAt := s.time.now }).sendPtp i .sync).sendPtp i .syncFollowUp else s
    | .syncFollowUp => s
    | .pdelayReq =>
      if s.passedNs p.pdelAt 125000000 then
        (s.setPort i { p with pdelAt := s.time.now }).sendPtp i .pdelayReq else s
    | .announce =>
      if p.role = .master ∧ s.passedNs p.annSent 1000000000 then
        (s.setPort i { p with annSent := s.time.now }).sendPtp i .announce else s
    | .pdelayResp => s
    | .pdelayFollowUp => s

def execPtpMessageSend (port : Port) (kind : PtpKind) (s : State) : Host.Outcome State Fault Refusal :=
  .next (s.ptpSend port kind)

/-- Received messages are counted; an external port discards them (R329, R346). -/
def State.ptpHeard (s : State) (i : Nat) (ks : List PtpKind) : State :=
  let s := ks.foldl (fun s k => s.heard i (plainBytes (ptpLen k))) s
  if s.portExt i then s.countDiscard i ks.length else s

/-- A message takes effect only where the port receives it, and in the module's domain. -/
def State.ptpTake (s : State) (i : Nat) (ks : List PtpKind) (domain : BitVec 8) (f : State → State) : State :=
  if s.hears i then
    let s := s.ptpHeard i ks
    if domain.toNat = s.fld 0x2940 1 7 0 then f s else s
  else s

/-- A time in 2^−16 ns as units of FT. -/
def fracUnits (t : Int) : Int := t * nsUnits / 65536

/-- A Sync and its Follow_Up, with its origin's precise time, both in 2^−16 ns (R347): only the SLAVE port's
counts. -/
def State.ptpSync (s : State) (i origin arrival : Nat) (correction : Int) : State :=
  let p := s.port i
  if s.ftSrc = 0 ∧ p.role = .slave ∧ i ∈ s.ptpPorts then
    let off := fracUnits ((arrival : Int) - origin - correction - p.delay)
    (s.correctFt off).lockStep off 4 64 8
  else s

def execPtpSyncReceive (port : Port) (origin arrival : Nat) (correction : Int) (s : State) (domain : BitVec 8 := 0) :
    Host.Outcome State Fault Refusal :=
  .next (s.ptpTake port [.sync, .syncFollowUp] domain fun s => s.ptpSync port origin arrival correction)

/-- The peer-delay exchange: a request is answered in two steps; the answer's follow-up gives the mean
delay of the link. -/
def State.ptpPdelay (s : State) (i : Nat) (k : PtpKind) (t1 t2 t3 t4 : Nat) : State :=
  if !(decide (i ∈ s.ptpPorts)) then s
  else
    match k with
    | .pdelayReq => (s.sendPtp i .pdelayResp).sendPtp i .pdelayFollowUp
    | .pdelayFollowUp =>
      s.setPort i { s.port i with delay := (((t4 : Int) - t1) - ((t3 : Int) - t2)) / 2 }
    | .sync => s
    | .syncFollowUp => s
    | .pdelayResp => s
    | .announce => s

def execPtpPdelayReceive (port : Port) (kind : PtpKind) (t1 t2 t3 t4 : Nat) (s : State) (domain : BitVec 8 := 0) :
    Host.Outcome State Fault Refusal :=
  .next (s.ptpTake port [kind] domain fun s => s.ptpPdelay port kind t1 t2 t3 t4)

/-- An Announce of another clock: kept where it comes from the port's master
again, or is better than it (DESIGN CHOICE, log entry 61). -/
def State.ptpAnnounce (s : State) (i : Nat) (a : Announce) : State :=
  let p := s.port i
  if i ∉ s.ptpPorts ∨ a.sender = Config.clockIdentity then s
  else
    let keep := match p.best with
      | none => true
      | some b => b.sender == a.sender || betterMaster a b
    if keep then (s.setPort i { p with best := some a, annAt := s.time.now }).selectMasters else s

def execPtpAnnounceReceive (port : Port) (a : Announce) (s : State) : Host.Outcome State Fault Refusal :=
  .next (s.ptpTake port [.announce] a.domain fun s => s.ptpAnnounce port a)

/-- Three announce intervals without one: the port's master is forgotten, and a listening port takes a
role. -/
def State.announceTimeout (s : State) (i : Nat) : State :=
  let p := s.port i
  if (p.best.isSome ∨ p.role = .listening) ∧ i ∈ s.ptpPorts ∧ s.passedNs p.annAt 3000000000 then
    (s.setPort i { p with best := none, role := .master }).selectMasters
  else s

def execAnnounceReceiptTimeout (port : Port) (s : State) : Host.Outcome State Fault Refusal :=
  .next (s.announceTimeout port)

/-! ### Power feed-forward (R321, R322, R426) -/

/-- When a job is expected to run, from boundary b; no end where its run time is not known. Jobs of one
ring run one after another (DEDUCED, log entry 58). -/
def spanOf (b : Nat) (prev : Option Nat) (j : Job) : Nat × Option Nat :=
  let start := match j.started with
    | some t => some t
    | none => prev.map fun e => max b (max j.nbt e)
  match start with
  | none => (0, some 0)
  | some t => (t, if j.dur = 0 ∨ j.type = 4 ∨ j.type = 5 then none else some (t + 16000 * j.dur))

/-- Jobs of one ring with their spans. A job behind one without an end is never reached. -/
def spansOf (b : Nat) : Option Nat → List Job → List (Nat × Nat × Option Nat)
  | _, [] => []
  | prev, j :: js =>
    let x := spanOf b prev j
    let reached := j.started.isSome || prev.isSome
    let next := if reached then x.2 else none
    (if reached then [(j.pwr, x.1, x.2)] else []) ++ spansOf b next js

/-- Nanoseconds of [s, e) in [t0, t1). -/
def overlap (s : Nat) (e : Option Nat) (t0 t1 : Nat) : Nat :=
  (match e with
    | some e => min e t1
    | none => t1) - max s t0

/-- Spans of every fetched job that has not completed (DEDUCED, log entry 58). -/
def State.projected (s : State) (b : Nat) : List (Nat × Nat × Option Nat) :=
  ((List.range 16).map fun c => ((List.range 8).map fun r =>
    spansOf b (some 0) ((s.jobsOf c).filter fun j => j.ring.val == r)).flatten).flatten

/-- ann[w], in whole watts rounded up. -/
def State.announcedPower (s : State) (b w : Nat) (spans : List (Nat × Nat × Option Nat)) : Nat :=
  let win := 1000 * s.fld 0x2890 1 13 0
  let t0 := b + (w - 1) * win
  let e := (spans.map fun x => x.1 * overlap x.2.1 x.2.2 t0 (t0 + win)).foldl (· + ·) 0
  let p := s.fld 0x2890 3 11 0 + (e + win - 1) / win
  min (max p (s.fld 0x2100 6 15 0)) (s.fld 0x2100 2 15 0)

/-- The CAN port is in NMT state Operational (R421). -/
def State.canOperational (s : State) : Bool := s.can.running && s.fld 0x2012 1 15 8 == 5

/-- TPDO1 (R426). -/
def State.tpdo1Bytes (s : State) (b : Nat) (ann : List Nat) : List Byte :=
  leBytes 8 b ++ leBytes 2 (s.fld 0x2890 1 13 0) ++ leBytes 1 (s.fld 0x2890 2 4 0) ++ [0]
    ++ ((List.range 16).map fun i => leBytes 2 (ann.getD i 0)).flatten ++ [0, 0, 0, 0]

/-- Queue TPDO1; one that has not begun on the bus is replaced (DEDUCED, log entry 63). -/
def State.queueTpdo1 (s : State) (data : List Byte) : State :=
  if !s.canOperational || s.bit 0x1800 1 31 then s
  else
    let s := if s.can.tpdo1.isSome then s.count 0x3001 0x0F else s
    { s with can := { s.can with tpdo1 := some data } }

/-- The projection at a boundary that has come since the last one. -/
def State.project (s : State) : State :=
  let win := 1000 * s.fld 0x2890 1 13 0
  let n := s.ftNs / win
  if !s.spoutOn || s.seq.projAt == n + 1 then s
  else
    let b := n * win
    let spans := s.projected b
    let hor := s.fld 0x2890 2 4 0
    let ann := (List.range hor).map fun i => s.announcedPower b (i + 1) spans
    let s := { s with seq := { s.seq with projAt := n + 1 } }
    let s := (List.range 16).foldl (fun s i => s.setReg 0x2891 (i + 1) (BitVec.ofNat 64 (ann.getD i 0))) s
    s.queueTpdo1 (s.tpdo1Bytes b ann)

def execPowerProjection (s : State) : Host.Outcome State Fault Refusal := .next s.project

end Sys2Proof.Machine
end

