-- ==== Sys2Proof/Machine/Fabric.lean ====
section
/-! DEFINITION. The fabric ports: hellos, link loss, topology records, neighbour solicitations, the
reception of Morotik frames by the switch, the egress of frames and the credits of direct links
(R324 to R350, R362, R363). -/

namespace Sys2Proof.Machine

/-! ### Ports -/

/-- A port enters UP. -/
def State.portRise (s : State) (i : Nat) : State :=
  if s.portUp i then s
  else
    let p := s.port i
    (s.setPort i { p with annAt := s.time.now, syncAt := s.time.now, pdelAt := s.time.now
                          annSent := s.time.now, toldAt := s.time.now }).setPortState i portUpSt

/-- Every credit of the port's ingress buffer is free. -/
def PortRun.empty (p : PortRun) : Bool := p.buffer.all (· == 0)

/-- The PCS of a port that trains achieves alignment (R326, R334). -/
def State.pcsRise (s : State) (i : Nat) : State :=
  if s.switchOn && s.portExists i && s.portEn i then
    let s := s.setPort i { s.port i with aligned := true, alignAt := s.time.now }
    let s := if s.portState i = portDown ∨ s.portState i = portDisabled then s.setPortState i portTraining else s
    if s.portExt i && !(s.port i).settle then s.portRise i else s
  else s

def execPcsAligned (port : Port) (s : State) : Host.Outcome State Fault Refusal := .next (s.pcsRise port)

/-- 10 ms of alignment after a loss, and an empty ingress buffer (R345, R363). -/
def State.settled (s : State) (i : Nat) : State :=
  let p := s.port i
  if s.hears i && p.settle && s.passedNs p.alignAt 10000000 && p.empty then
    let s := s.setPort i { p with settle := false }
    if s.portExt i then s.portRise i else s
  else s

def execPortAlignmentSettled (port : Port) (s : State) : Host.Outcome State Fault Refusal := .next (s.settled port)

/-- 2 µs without alignment. An alignment that has returned in this instant keeps the port UP (R344). -/
def State.pcsLoss (s : State) (i : Nat) : State :=
  let p := s.port i
  if p.aligned && p.alignAt != s.time.now then
    let s := s.setPort i { p with aligned := false }
    if s.portUp i then s.linkDown i portDown else s
  else s

def execPcsAlignmentLoss (port : Port) (s : State) : Host.Outcome State Fault Refusal := .next (s.pcsLoss port)

/-- Uncorrectable codewords within one microsecond, and those that the FEC has put right (R344, R350). -/
def State.fecBurst (s : State) (i n fixed : Nat) : State :=
  if s.hears i then
    let s := (s.count (0x3900 + i) 0x0D fixed).count (0x3900 + i) 0x0F n
    if 8 ≤ n ∧ s.portUp i then s.linkDown i portDown else s
  else s

def execFecUncorrectableBurst (port : Port) (n : Nat) (s : State) (fixed : Nat := 0) : Host.Outcome State Fault Refusal :=
  .next (s.fecBurst port n fixed)

/-! ### Link frames (R333, R334) -/

/-- Header word 0 of a link frame of this module. -/
def State.linkW0 (s : State) (type i : Nat) : Word32 :=
  BitVec.ofNat 32 (2 ^ 28 + type * 2 ^ 24 + i % 16 * 2 ^ 20 + s.node)

def State.fabId (s : State) : Word32 := (s.reg 0x2910 2).setWidth 32

def linkVer (w : Word32) : Nat := w.toNat / 2 ^ 28
def linkType (w : Word32) : Nat := w.toNat / 2 ^ 24 % 16
def linkSport (w : Word32) : Nat := w.toNat / 2 ^ 20 % 16
def linkNode (w : Word32) : Nat := w.toNat % 2 ^ 16

/-- A link frame to the neighbour of a port, from the port's MAC (R328, R333). -/
def State.linkFrame (s : State) (i : Nat) (ws : List Word32) : EgItem :=
  ⟨.link (s.port i).nmac (s.portMac i) ws, none, plainBytes (4 * ws.length), none, false⟩

def State.sendLink (s : State) (i : Nat) (ws : List Word32) : State := s.enqueue i (s.linkFrame i ws)

/-- Words of this module's hello on a port. -/
def State.helloWords (s : State) (i : Nat) : List Word32 :=
  let torus := s.reg 0x2910 3
  [s.linkW0 1 i, s.fabId,
   BitVec.ofNat 32 (s.portState i * 2 ^ 29 + fieldOf torus 28 16 * 2 ^ 16 + fieldOf torus 29 29 * 2 ^ 15),
   Config.serial.setWidth 32]

/-- A direct port sends hellos from TRAINING on, 1 ms apart. -/
def State.sendHello (s : State) (i : Nat) : State :=
  let p := s.port i
  let st := s.portState i
  if s.switchOn && s.portExists i && !s.portExt i && decide (1 ≤ st ∧ st ≤ 3) && s.passedNs p.hiAt 1000000 then
    (s.setPort i { p with hiAt := s.time.now }).sendLink i (s.helloWords i)
  else s

def execHelloSend (port : Port) (s : State) : Host.Outcome State Fault Refusal := .next (s.sendHello port)

/-- The three conditions of a hello (DEDUCED, log entry 65). -/
def State.conforms (s : State) (i : Nat) (node : Nat) (fab : Word32) : Bool :=
  fab == s.fabId && (node != s.node || node == 0xFFFF || s.node == 0xFFFF)
    && (s.expNode i == 0xFFFF || node == s.expNode i)

/-- A hello sets what the port knows of its neighbour, and the port's state. -/
def State.takeHello (s : State) (i : Nat) (smac : BitVec 48) (w0 w1 : Word32) : State :=
  let node := linkNode w0
  let s := s.setPort i { s.port i with nmac := smac, helloAt := s.time.now }
  let s := (s.setFld 0x2902 (i + 1) 7 4 (linkSport w0)).setFld 0x2902 (i + 1) 23 8 node
  let s := if node = s.node ∧ node ≠ 0xFFFF then s.event 0x2950 1 4 else s
  if s.conforms i node w1 then
    let s := s.settled i
    if !(s.port i).settle then s.portRise i
    else if s.portState i = portMismatch then s.setPortState i portTraining
    else s
  else s.linkDown i portMismatch

def State.helloIn (s : State) (i : Nat) (smac : BitVec 48) (w0 w1 : Word32) : State :=
  if !s.hears i then s
  else
    let s := s.heard i (plainBytes 16)
    if s.portExt i || linkVer w0 != 1 || linkType w0 != 1 then s.refuseFrame i
    else s.takeHello i smac w0 w1

def execHelloReceive (port : Port) (smac : BitVec 48) (w0 w1 w2 w3 : Word32) (s : State) :
    Host.Outcome State Fault Refusal :=
  let _ := (w2, w3)
  .next (s.helloIn port smac w0 w1)

/-- 3.5 ms without a hello (R344). -/
def State.helloLoss (s : State) (i : Nat) : State :=
  if s.portUp i && !s.portExt i && s.passedNs (s.port i).helloAt 3500000 then s.linkDown i portDown else s

def execHelloTimeout (port : Port) (s : State) : Host.Outcome State Fault Refusal := .next (s.helloLoss port)

/-! ### Topology records (R335) -/

/-- Serial comparison modulo 2^32: a is later than b. -/
def later32 (a b : Word32) : Bool := let d := (a - b).toNat; decide (0 < d ∧ d < 2 ^ 31)

/-- LINKi of this module's record. -/
def State.linkWord (s : State) (i : Nat) : Word32 :=
  let v := s.reg 0x2902 (i + 1)
  if s.portExists i then
    BitVec.ofNat 32 (fieldOf v 23 8 * 2 ^ 16 + fieldOf v 7 4 * 2 ^ 12 + fieldOf v 2 0 * 2 ^ 9)
  else 0

/-- Send words on every UP direct port but one; W0 names the port where it is this module's own
(DEDUCED, log entry 64). -/
def State.flood (s : State) (words : Nat → List Word32) (but : Option Nat) : State :=
  (((List.range 16).filter fun i => s.portUp i && !s.portExt i && some i != but)).foldl
    (fun s i => s.sendLink i (words i)) s

/-- (DEDUCED, log entry 64.) -/
def State.setKept (s : State) (origin : Nat) (seq : Word32) : State :=
  { s with fabric := { s.fabric with kept := Tbl.set s.fabric.kept (origin % 8192) (seq, s.time.now) } }

def State.topoSend (s : State) : State :=
  if s.switchOn && (s.fabric.topoDue || s.passedNs s.fabric.topoAt 10000000000) then
    let now : Word32 := BitVec.ofNat 32 (s.ftNs / 1024)
    let seq := match s.fabric.lastSeq with
      | some old => if later32 now old then now else old + 1
      | none => now
    let s := { s with fabric := { s.fabric with lastSeq := some seq, topoDue := false, topoAt := s.time.now } }
    let s := s.setKept s.node seq
    let links := (List.range 16).map s.linkWord
    s.flood (fun i => [s.linkW0 2 i, s.fabId, seq] ++ links) none
  else s

def execTopologyRecordOriginate (s : State) : Host.Outcome State Fault Refusal := .next s.topoSend

/-- A record is accepted by its SEQ, or after 30 s without an accepted one. -/
def State.topoTake (s : State) (origin : Nat) (seq : Word32) : Bool :=
  match Tbl.find s.fabric.kept (origin % 8192) with
  | some (old, t) => later32 seq old || s.passedNs t 30000000000
  | none => true

def State.topoIn (s : State) (i : Nat) (w0 w1 w2 : Word32) (links : List Word32) : State :=
  if !s.hears i then s
  else
    let ws := [w0, w1, w2] ++ links
    let s := s.heard i (plainBytes (4 * ws.length))
    if s.portExt i || linkVer w0 != 1 || linkType w0 != 2 then s.refuseFrame i
    else if s.topoTake (linkNode w0) w2 then
      let s := (s.setKept (linkNode w0) w2).emit (.agent ws)
      if linkNode w0 = 0xFFFF then s else s.flood (fun _ => ws) (some i)
    else s

def execTopologyRecordReceive (port : Port) (w0 w1 w2 : Word32) (links : List Word32) (s : State) :
    Host.Outcome State Fault Refusal := .next (s.topoIn port w0 w1 w2 links)

/-! ### External ports (R328, R329) -/

/-- A neighbour solicitation for the module's own node address is answered, and no other (DEDUCED, log entry 68). -/
def State.solicit (s : State) (i : Nat) (smac prefx : BitVec 48) (node : BitVec 16) (iid : Word64) : State :=
  if !s.hears i then s
  else
    let s := s.heard i 90
    if s.portExt i && prefx == (s.reg 0x2920 1).setWidth 48 && node.toNat == s.node && s.node != 0xFFFF
        && iid == 1 then
      s.enqueue i ⟨.advert smac (s.portMac i) node, none, 90, none, false⟩
    else s.refuseFrame i

def execNeighbourSolicitation (port : Port) (smac prefx : BitVec 48) (node : BitVec 16) (iid : Word64) (s : State) :
    Host.Outcome State Fault Refusal := .next (s.solicit port smac prefx node iid)

/-! ### Credits (R362, R363) -/

/-- Four counts from a payload, big-endian words. -/
def beWords (bs : List Byte) (n : Nat) : List Word32 :=
  (List.range n).map fun i => BitVec.ofNat 32 (leNat ((bs.drop (4 * i)).take 4).reverse)

/-- A CREDIT packet gives the last counts received. -/
def State.creditIn (s : State) (i : Nat) (counts : List Word32) : State :=
  if s.hears i && s.portUp i && !s.portExt i && counts.length == 4 then
    s.setPort i { s.port i with counted := counts }
  else s

/-- A CREDIT packet arrives: a direct port that is UP takes it (R329, R362). -/
def State.creditFrame (s : State) (i : Nat) (counts : List Word32) : State :=
  if !s.hears i then s
  else
    let s := s.heard i 110
    if s.portExt i || !s.portUp i || counts.length != 4 then s.refuseFrame i else s.creditIn i counts

def execCreditReceive (port : Port) (counts : List Word32) (s : State) : Host.Outcome State Fault Refusal :=
  .next (s.creditFrame port counts)

/-- Credits freed and not yet reported (DEDUCED, log entry 67). -/
def PortRun.owed (p : PortRun) : Nat :=
  ((p.freed.zip p.told).map fun x => (x.1 - x.2).toNat).foldl (· + ·) 0

/-- The CREDIT packet of a port: to the neighbour's node, with hop limit 1 (R362) (DESIGN CHOICE, log entry 139). -/
def State.creditPacket (s : State) (i : Nat) : MFrame :=
  let counts := ((s.port i).freed.map fun w => beBytes 4 w.toNat).flatten
  { s.packet opCredit (s.fld 0x2902 (i + 1) 23 8) 0 16 0 0 0 false false counts [] with
    dmac := (s.port i).nmac, smac := s.portMac i, hop := 1 }

def State.creditOut (s : State) (i : Nat) : State :=
  let p := s.port i
  let due := decide (512 ≤ p.owed) || (match p.freedAt with
    | some t => s.passedNs t 500
    | none => false) || s.passedNs p.toldAt 10000
  if s.portUp i && !s.portExt i && s.node != 0xFFFF && due then
    (s.setPort i { p with told := p.freed, freedAt := none, toldAt := s.time.now }).enqueue i
      ⟨.credit (s.creditPacket i), none, 110, none, false⟩
  else s

def execCreditSend (port : Port) (s : State) : Host.Outcome State Fault Refusal := .next (s.creditOut port)

/-- Available credit of a VL: the limit minus what is sent beyond the last count, modulo 2^32. -/
def State.credit (s : State) (i v : Nat) : Nat :=
  let p := s.port i
  (BitVec.ofNat 32 s.creditLimit - ((p.sent.getD v 0) - (p.counted.getD v 0))).toNat

/-- The credits of a frame are there; an external port needs none. -/
def State.creditOk (s : State) (i v bytes : Nat) : Bool :=
  s.portExt i || (decide (creditsOf bytes ≤ s.credit i v) && decide (s.credit i v ≤ s.creditLimit))

/-! ### Egress (R341) -/

/-- A frame goes out of a port. -/
def State.transmit (s : State) (i : Nat) (q : EgItem) : State :=
  let p := s.port i
  let s := match q.vl with
    | some v => if s.portExt i then s else
        s.setPort i { p with sent := bumpAt p.sent v (creditsOf q.bytes) }
    | none => s
  let s := ((s.count (0x3900 + i) 3).count (0x3900 + i) 7 q.bytes).emit
    (.frame ⟨i % 16, Nat.mod_lt i (by decide)⟩ q.frame q.stomp)
  s.release q

/-- The first queued frame of a VL that its credits let go. -/
def State.headOf (s : State) (i v : Nat) : Option EgItem :=
  ((s.port i).queue.find? fun q => q.vl.any fun x => x.val == v).filter fun q => s.creditOk i v q.bytes

/-- Deficit round-robin: the VL served next with the deficits and the turn after, where some frame may
go. A VL with no frame queued keeps no deficit. -/
def State.drr (s : State) (i : Nat) : Nat → Nat → List Nat → Option (Nat × EgItem × List Nat)
  | 0, _, _ => none
  | fuel + 1, v, deficit =>
    match s.headOf i v with
    | some q =>
      if q.bytes ≤ deficit.getD v 0 then some (v, q, deficit.modify v (· - q.bytes))
      else
        let next := (v + 1) % 4
        s.drr i fuel next (deficit.modify next (· + 9216))
    | none =>
      let next := (v + 1) % 4
      let deficit := if (s.port i).vlBytes v = 0 then deficit.set v 0 else deficit
      s.drr i fuel next (if (s.headOf i next).isSome then deficit.modify next (· + 9216) else deficit)

/-- A 64-bit word of a packet's payload that the switch buffer lost: its sector is poisoned (R206, R210, R352)
(DESIGN CHOICE, log entry 138). -/
def losePayload (word : Nat) (q : EgItem) : EgItem :=
  match q.frame with
  | .morotik f =>
    let f := { f with w0 := f.w0 ||| 0x200000, pmask := (if f.pm then f.pmask else 0) ||| ((1 : BitVec 128) <<< (word / 4)) }
    { q with frame := .morotik f, bytes := f.bytes }
  | _ => q

/-- Words of a queued packet's payload. -/
def EgItem.words (q : EgItem) : Nat :=
  match q.frame with
  | .morotik f => (f.payload.length + 7) / 8
  | _ => 0

/-- Wrong bits found in the switch buffer as a frame leaves it (R207, R217, R218). -/
def State.spoutErrors (s : State) (q : EgItem) (errs : List WordErr) : State × EgItem :=
  (errs.filter fun e => decide (e.word < q.words)).foldl (fun p e =>
    (p.1.sramWord 14 e.word e.bits id, if e.bits ≤ 2 then p.2 else losePayload e.word p.2)) (s, q)

/-- A frame leaves its queue. -/
def State.sendOut (s : State) (i : Nat) (q : EgItem) (errs : List WordErr) : State :=
  let (s, q) := s.spoutErrors q errs
  s.transmit i q

/-- One frame goes out: link, PTP and CREDIT frames first. -/
def State.egress (s : State) (i : Nat) (errs : List WordErr) : State :=
  let p := s.port i
  let st := s.portState i
  if !s.switchOn || !s.portExists i || decide (st = portDown ∨ st = portDisabled) then s
  else
    match p.queue.find? fun q => q.vl.isNone with
    | some q => (s.setPort i { p with queue := p.queue.erase q }).sendOut i q errs
    | none =>
      if !s.portUp i then s
      else
        match s.drr i 12 p.turn p.deficit with
        | some (v, q, deficit) =>
          (s.setPort i { p with queue := p.queue.erase q, deficit := deficit, turn := v }).sendOut i q errs
        | none => s

def execEgressTransmit (port : Port) (s : State) (errs : List WordErr := []) : Host.Outcome State Fault Refusal :=
  .next (s.egress port errs)

/-! ### The switch (R327 to R332, R338, R342) -/

/-- The egress that will queue a packet, where one does. -/
def State.egressOf (s : State) (f : MFrame) (arrived : Option Nat) : Option Nat :=
  match s.route f.dnode.toNat f.udpSrc arrived with
  | .out o =>
    if arrived.isSome && decide (f.hop ≤ 1) then none
    else if s.portExt o && s.gwMac o == 0 then none
    else some o
  | .deliver => none
  | .drop => none

/-- The frame is one the port takes as Morotik (R329). -/
def State.portTakes (s : State) (i : Nat) (f : MFrame) : Bool :=
  f.ety == 0x86DD && f.dmac == s.portMac i && f.nextHdr == 17 && f.udpDst.toNat == s.fld 0x2920 3 15 0

/-- The destination address has the form of a node's address (R332). -/
def State.nodeAddress (s : State) (f : MFrame) : Bool :=
  f.prefx == (s.reg 0x2920 1).setWidth 48 && f.iid == 1

/-- Reserved operations, another version, and lengths that do not agree are discarded (R351) (DEDUCED, log entry 66). -/
def frameBad (f : MFrame) : Bool :=
  f.ver != 1 || f.op == 0 || (decide (9 < f.op) && f.op != opCredit) || decide (4096 < f.len)
    || f.payload.length != (if f.op = 2 ∨ f.op = 6 ∨ f.op = 9 then 0 else if f.op = opCredit then 16 else f.len)

/-- A frame with a bad FCS is forwarded before its end is seen where it is cut through: to an empty VL
queue, with the credits of the whole frame (R342). All ports of a module run at one rate. -/
def State.cutsThrough (s : State) (i : Nat) (f : MFrame) : Option Nat :=
  match s.egressOf f (some i) with
  | some o =>
    let v := 2 * f.cls + s.datelineBit (some i) o (f.vl % 2)
    if (s.port o).vlBytes v = 0 ∧ s.creditOk o v f.bytes ∧ 128 < f.bytes then some o else none
  | none => none

/-- The VL's share of the ingress buffer has room for the frame (R337). On a direct port credits see to it. -/
def State.ingressRoom (s : State) (i : Nat) (f : MFrame) : Bool :=
  decide ((s.port i).buffer.getD f.vl 0 + creditsOf f.bytes ≤ s.creditLimit)

/-- A frame that goes no further frees the credits it has taken (R363). -/
def State.passBuffer (s : State) (i : Nat) (f : MFrame) : State :=
  (s.ingressIn i f.vl f.bytes).ingressOut i f.vl f.bytes

/-- A packet in the ingress buffer takes its way; where no queue takes it, the buffer is free again. A full buffer
loses it (DESIGN CHOICE, log entry 140). -/
def State.switchIn (s : State) (i : Nat) (f : MFrame) (stomp : Bool) : State :=
  if !s.ingressRoom i f then s
  else
    match s.egressOf f (some i) with
    | some _ => (s.ingressIn i f.vl f.bytes).forward f (some i) stomp
    | none => (s.passBuffer i f).forward f (some i) stomp

/-- A frame with a correct FCS. -/
def State.goodFrame (s : State) (i : Nat) (f : MFrame) : State :=
  if f.op = opCredit then
    if s.portExt i || frameBad f then s.refuseFrame i else s.creditIn i (beWords f.payload 4)
  else if frameBad f then (s.passBuffer i f).refuseFrame i
  else if !s.nodeAddress f then (s.passBuffer i f).noRoute (some i)
  else s.switchIn i f false

/-- A frame whose FCS is wrong or inverted is counted and discarded, or goes on with its own FCS
inverted (DEDUCED, log entry 66). -/
def State.badFrame (s : State) (i : Nat) (f : MFrame) (c : Nat) : State :=
  let s := s.count (0x3900 + i) c
  match if s.nodeAddress f && !frameBad f && s.ingressRoom i f then s.cutsThrough i f else none with
  | some o => (s.switchIn i f true).count (0x3900 + o) 0x0B
  | none => if f.op = opCredit then s else s.passBuffer i f

/-- A frame that the port does not take; what was a packet has taken credits of a direct link. -/
def State.dropFrame (s : State) (i : Nat) (f : MFrame) (fcs : Fcs) : State :=
  let s := if f.ety = 0x86DD ∧ f.op ≠ opCredit ∧ s.portUp i ∧ f.bytes ≤ 9216 then s.passBuffer i f else s
  match fcs with
  | .good => s.refuseFrame i
  | .bad => s.count (0x3900 + i) 9
  | .stomped => s.count (0x3900 + i) 0x0B

def State.frameIn (s : State) (i : Nat) (f : MFrame) (fcs : Fcs) : State :=
  if !s.hears i then s
  else
    let s := s.heard i f.bytes
    if 9216 < f.bytes ∨ !s.portTakes i f ∨ !s.portUp i ∨ s.node = 0xFFFF then s.dropFrame i f fcs
    else
      match fcs with
      | .good => s.goodFrame i f
      | .bad => s.badFrame i f 9
      | .stomped => s.badFrame i f 0x0B

/-- A packet handed over at the local port. -/
def State.localIn (s : State) (f : MFrame) : State :=
  if s.switchOn && s.node != 0xFFFF && s.nodeAddress f && !frameBad f then s.forward f none false else s

def execMorotikFrameReceive (port : Option Port) (f : MFrame) (fcs : Fcs) (s : State) :
    Host.Outcome State Fault Refusal :=
  .next (match port with
    | some i => s.frameIn i f fcs
    | none => s.localIn f)

end Sys2Proof.Machine
end

