-- ==== Sys2Proof/Machine/Mq.lean ====
section
/-! DEFINITION. The message queues: words with parity, pointers across two clocks, the MQ instructions,
sending and receiving messages, flushes (R372 to R377). -/

namespace Sys2Proof.Machine

/-! ### Queues -/

/-- Number of a queue: MQT00 to MQT63, then MQR00 to MQR63. -/
def mqKey (rx : Bool) (q : Nat) : Nat := (if rx then 64 else 0) + q
def State.mq (s : State) (rx : Bool) (q : Nat) : MqRun := Tbl.get MqRun.init s.fabric.mq (mqKey rx q)
def State.setMq (s : State) (rx : Bool) (q : Nat) (m : MqRun) : State :=
  { s with fabric := { s.fabric with mq := Tbl.put MqRun.init s.fabric.mq (mqKey rx q) m } }

/-- MQCFG of a queue. -/
def mqIdx (rx : Bool) : Nat := if rx then 0x2961 else 0x2960
def State.mqEn (s : State) (rx : Bool) (q : Nat) : Bool := s.bit (mqIdx rx) (q + 1) 0
def State.mqOwner (s : State) (rx : Bool) (q : Nat) : Nat := s.fld (mqIdx rx) (q + 1) 4 1

def xor64 (w : Word64) : Bool := (List.range 64).foldl (fun b i => b ^^ w.getLsbD i) false

/-- A word with even parity in bit 64, inverted for poison (R372, R376). -/
def mqWord (w : Word64) (poison : Bool) : BitVec 65 :=
  w.setWidth 65 ||| (if xor64 w ^^ poison then 1 <<< 64 else 0)

def mqData (w : BitVec 65) : Word64 := w.setWidth 64
def mqBad (w : BitVec 65) : Bool := xor64 (mqData w) ^^ w.getLsbD 64

/-- The word at a pointer. -/
def MqRun.at (m : MqRun) (p : BitVec 11) : BitVec 65 := Tbl.get 0 m.mem (p.toNat % 1024)
def MqRun.store (m : MqRun) (p : BitVec 11) (w : BitVec 65) : MqRun :=
  { m with mem := Tbl.put 0 m.mem (p.toNat % 1024) w }

/-- What the writing side sees of the reader, and the reading side of the writer. -/
def MqRun.seenRp (m : MqRun) : BitVec 11 := m.rSync.getLastD 0
def MqRun.seenWp (m : MqRun) : BitVec 11 := m.wSync.getLastD 0

/-- Words that a writer at `p` may still write, and words that a reader may still read. -/
def MqRun.room (m : MqRun) (p : BitVec 11) : Nat := 1024 - (p - m.seenRp).toNat
def MqRun.ready (m : MqRun) : Nat := (m.seenWp - m.rEnd).toNat

/-- LENB, node and queue of a length word. -/
def lenB (w : Word64) : Nat := fieldOf w 12 0
def lenWord (lenb node queue : Nat) : Word64 :=
  packWord [(lenb % 2 ^ 13, 0), (node % 2 ^ 16, 16), (queue % 64, 32)]
def lenWords (lenb : Nat) : Nat := (lenb + 7) / 8

/-! ### The thread-group side (R374, R376) -/

/-- The queue may be used by the context of an issue set. -/
def State.mqAllowed (s : State) (rx : Bool) (q : Nat) (x : Ex) : Bool :=
  s.mqEn rx q && s.mqOwner rx q == x.job.ctx.val

/-- An MQ instruction: its faults; nothing while it must wait, which leaves the set at the instruction. -/
def State.mqInstr (s : State) (th : Th) (rx : Bool) (q : Nat) (regs srcs : List Nat)
    (waits : Ex → MqRun → Bool) (bad : Ex → MqRun → Option TgF) (f : Ex → MqRun → State → State) : State :=
  match s.exOf th.cl th.sched with
  | none => s
  | some x =>
    if !x.regsOk regs then s.fail x ⟨0x22, x.lanes.headD 0, 0⟩
    else if !s.mqAllowed rx q x then s.fail x ⟨0x20, x.lanes.headD 0, 0⟩
    else
      match firstFault x.lanes (poisonBad srcs s x) with
      | some e => s.fail x e
      | none =>
        let m := s.mq rx q
        if m.hold.isSome || waits x m then s.issued x 1
        else
          match bad x m with
          | some e => s.fail x e
          | none => (f x m (s.advance x th.size)).issued x 1

/-- The group holds the open message of a queue. -/
def MqRun.heldBy (m : MqRun) (x : Ex) : Option (BitVec 11) :=
  match m.openBy with
  | some (cl, key, p) => if cl = x.cl.val ∧ key = x.key then some p else none
  | none => none

def execMqBegin (th : Th) (q : Queue) (s : State) : Host.Outcome State Fault Refusal :=
  .next (s.mqInstr th false q [] []
    (fun x m => (m.openBy.isSome && (m.heldBy x).isNone) || m.room m.wEnd == 0)
    (fun _ _ => none)
    (fun x m s => s.setMq false q { m with openBy := some (x.cl.val, x.key, m.wEnd + 1) }))

/-- Write the pairs of the issue set's lanes, in ascending lane order. -/
def State.mqPutLanes (s : State) (x : Ex) (a : Nat) (m : MqRun) (p : BitVec 11) : MqRun :=
  x.lanes.zipIdx.foldl (fun m l => m.store (p + BitVec.ofNat 11 l.2) (mqWord (s.rd2 x l.1 a) false)) m

/-- (DEDUCED, log entry 73.) -/
def execMqPut (th : Th) (q : Queue) (a : Nat) (s : State) : Host.Outcome State Fault Refusal :=
  .next (s.mqInstr th false q [a, a + 1] [a, a + 1]
    (fun x m => match m.heldBy x with
      | some p => decide (m.room p < x.lanes.length)
      | none => false)
    (fun _ _ => none)
    (fun x m s => match m.heldBy x with
      | some p => s.setMq false q { s.mqPutLanes x a m p with
          openBy := some (x.cl.val, x.key, p + BitVec.ofNat 11 x.lanes.length) }
      | none => s))

/-- MQ.END takes LENB, DNODE and DQUEUE from the lowest lane. -/
def execMqEnd (th : Th) (q : Queue) (lenb dnode dqueue : Src) (s : State) : Host.Outcome State Fault Refusal :=
  .next (s.mqInstr th false q (srcRegs lenb ++ srcRegs dnode ++ srcRegs dqueue)
    (srcRegs lenb ++ srcRegs dnode ++ srcRegs dqueue)
    (fun _ _ => false)
    (fun _ _ => none)
    (fun x m s => match m.heldBy x with
      | some p =>
        let l := x.lanes.headD 0
        let w := lenWord (s.src x l lenb).toNat (s.src x l dnode).toNat (s.src x l dqueue).toNat
        s.setMq false q { m.store m.wEnd (mqWord w false) with wEnd := p, openBy := none }
      | none => s))

/-- Words that an issue set of n lanes would read, with how many are left of the message after: none while
one of them must wait. A length word waits for its whole message. -/
def MqRun.take (m : MqRun) : Nat → Nat → BitVec 11 → Option (List (BitVec 65) × Nat)
  | 0, left, _ => some ([], left)
  | n + 1, left, p =>
    let seen := (m.seenWp - p).toNat
    if seen = 0 then none
    else
      let w := m.at p
      let next : Option Nat :=
        if left = 0 then
          let k := lenWords (lenB (mqData w))
          if k < seen then some k else none
        else some (left - 1)
      next.bind fun left => (MqRun.take m n left (p + 1)).map fun r => (w :: r.1, r.2)

/-- (DEDUCED, log entry 73.) -/
def execMqGet (th : Th) (q : Queue) (d : Nat) (s : State) : Host.Outcome State Fault Refusal :=
  .next (s.mqInstr th true q [d, d + 1] []
    (fun x m => (m.take x.lanes.length m.left m.rEnd).isNone)
    (fun x m => match m.take x.lanes.length m.left m.rEnd with
      | some (ws, _) => ((x.lanes.zip ws).find? fun lw => mqBad lw.2).map fun lw => ⟨0x25, lw.1, 0⟩
      | none => none)
    (fun x m s => match m.take x.lanes.length m.left m.rEnd with
      | some (ws, left) =>
        let s := (x.lanes.zip ws).foldl (fun s lw => s.wr2 x lw.1 d (mqData lw.2) 1) s
        s.setMq true q { m with rEnd := m.rEnd + BitVec.ofNat 11 x.lanes.length, left := left }
      | none => s))

/-! ### Flushes (R377) -/

/-- Messages between a reader and a writer's position. -/
def MqRun.messages (m : MqRun) : Nat → BitVec 11 → BitVec 11 → Nat
  | 0, _, _ => 0
  | fuel + 1, p, stop =>
    if p = stop then 0
    else
      let n := 1 + lenWords (lenB (mqData (m.at p)))
      if (stop - p).toNat < n then 1 else 1 + MqRun.messages m fuel (p + BitVec.ofNat 11 n) stop

/-- Messages that a flush discards: whole ones, and one that is partly read. -/
def MqRun.losing (m : MqRun) : Nat :=
  (if m.left = 0 then 0 else 1) + m.messages 1024 (m.rEnd + BitVec.ofNat 11 m.left) m.wEnd

def State.mqFlush (s : State) (rx : Bool) (q : Nat) : State :=
  let n := (s.mq rx q).losing
  let s := s.setMq rx q { MqRun.init with hold := some s.time.spout }
  if n = 0 then s else (s.count 0x3920 0x19 n).event 0x2950 2 3

/-- The hold ends after 8 spout clocks. -/
def State.mqRelease (s : State) (rx : Bool) (q : Nat) : State :=
  let m := s.mq rx q
  match m.hold with
  | some t => if t + 8 ≤ s.time.spout then s.setMq rx q { m with hold := none } else s
  | none => s

def execMqFlushRelease (rx : Bool) (q : Queue) (s : State) : Host.Outcome State Fault Refusal :=
  .next (s.mqRelease rx q)

/-! ### The spout side (R374 to R376) -/

/-- How a message is taken by a receive queue. -/
inductive MsgEnd | taken | refused | noRoom
deriving DecidableEq, Repr

/-- The data words of a message; a poisoned 32-byte chunk is poisoned in all four words. -/
def msgWords (data : List Byte) (pois : Nat → Bool) : List (BitVec 65) :=
  (List.range (lenWords data.length)).map fun i =>
    mqWord (BitVec.ofNat 64 (leNat ((data.drop (8 * i)).take 8))) (pois (i / 4))

/-- Write a message into its receive queue. -/
def State.mqDeliver (s : State) (dq sq snode : Nat) (data : List Byte) (pois : Nat → Bool) : State × MsgEnd :=
  let m := s.mq true dq
  if !s.mqEn true dq then (s, .refused)
  else if m.hold.isSome then (s, .noRoom)
  else
    let ws := mqWord (lenWord data.length snode sq) false :: msgWords data pois
    if m.room m.wEnd < ws.length then (s.count 0x3920 0x17, .noRoom)
    else
      let m := ws.zipIdx.foldl (fun m w => m.store (m.wEnd + BitVec.ofNat 11 w.2) w.1) m
      ((s.setMq true dq { m with wEnd := m.wEnd + BitVec.ofNat 11 ws.length }).count 0x3920 0x15, .taken)

/-- The words of the message at the head of a transmit queue, once all of it is visible. -/
def MqRun.message (m : MqRun) : List (BitVec 65) :=
  (List.range (lenWords (lenB (mqData (m.at m.rEnd))))).map fun i => m.at (m.rEnd + 1 + BitVec.ofNat 11 i)

/-- Send the message at the head of a transmit queue. -/
def State.mqSend (s : State) (q : Nat) : State :=
  let m := s.mq false q
  if m.hold.isSome || m.ready == 0 then s
  else
    let lw := m.at m.rEnd
    if mqBad lw then (s.mqFlush false q).event 0x2950 2 3
    else
      let w := mqData lw
      let ws := m.message
      let lenb := lenB w
      if m.ready ≤ ws.length then s
      else
        let data := ((ws.map fun x => leBytes 8 (mqData x).toNat).flatten).take lenb
        let pois := (List.range ((lenb + 31) / 32)).map fun i => ((ws.drop (4 * i)).take 4).any mqBad
        let dnode := fieldOf w 31 16
        let dq := fieldOf w 37 32
        let sent (s : State) : State :=
          (s.setMq false q { m with rEnd := m.rEnd + BitVec.ofNat 11 (1 + ws.length) }).count 0x3920 0x13
        if dnode = 0xFFFF then
          match s.mqDeliver dq q s.node data (fun i => pois.getD i false) with
          | (t, .noRoom) => t
          | (t, _) => sent t
        else if s.node = 0xFFFF then s
        else (sent s).send dnode (s.packet opMsg dnode 0 lenb (dq + 256 * q) 0 0 false false data pois)

def execMqMessageSend (q : Queue) (s : State) : Host.Outcome State Fault Refusal := .next (s.mqSend q)

/-! ### Pointers at a clock (R373) -/

/-- One step of a pointer towards where its own side stands. -/
def pointerStep (p target : BitVec 11) : BitVec 11 := if p = target then p else p + 1

/-- A core clock: the TG side of each queue, and the two stages of the spout's pointer into it. A queue in
a flush hold stands still. -/
def MqRun.coreClock (rx : Bool) (m : MqRun) : MqRun :=
  if m.hold.isSome then m
  else if rx then { m with rp := pointerStep m.rp m.rEnd, wSync := [m.wp, m.wSync.headD 0] }
  else { m with wp := pointerStep m.wp m.wEnd, rSync := [m.rp, m.rSync.headD 0] }

/-- A spout clock: the other side. -/
def MqRun.spoutClock (rx : Bool) (m : MqRun) : MqRun :=
  if m.hold.isSome then m
  else if rx then { m with wp := pointerStep m.wp m.wEnd, rSync := [m.rp, m.rSync.headD 0] }
  else { m with rp := pointerStep m.rp m.rEnd, wSync := [m.wp, m.wSync.headD 0] }

/-- MQCFG.FILL: words in the queue, as the spout side sees them. -/
def State.mqFill (s : State) (rx : Bool) (q : Nat) : Nat :=
  let m := s.mq rx q
  if rx then (m.wp - m.seenRp).toNat else (m.seenWp - m.rp).toNat

end Sys2Proof.Machine
end

