-- ==== Sys2Proof/Machine/Coll.lean ====
section
/-! DEFINITION. The collective unit: plans, phases, the handshake, landing and combining of chunks (R365
to R370). -/

namespace Sys2Proof.Machine

/-! ### Plans (R366) -/

def planId (h : List Word64) : Word32 := (wordAt h 0).setWidth 32
def planPhases (h : List Word64) : Nat := fieldOf (wordAt h 0) 41 32
def planLand (h : List Word64) : Nat := fieldOf (wordAt h 1) 23 0
def planSw (h : List Word64) : Nat := fieldOf (wordAt h 1) 39 24

/-- The kinds of a phase. -/
inductive CollKind | send | recv | reduce | bcast | reserved
deriving DecidableEq, Repr

/-- The fields of a phase entry. -/
def phOffset (w : List Word64) : Nat := fieldOf (wordAt w 0) 31 0
def phKind (w : List Word64) : CollKind :=
  match fieldOf (wordAt w 0) 35 32 with
  | 1 => .send | 2 => .recv | 3 => .reduce | 4 => .bcast | _ => .reserved
def phOp (w : List Word64) : Nat := fieldOf (wordAt w 0) 39 36
def phLocal (w : List Word64) : Bool := fieldOf (wordAt w 0) 40 40 == 1
def phPeer (w : List Word64) : Nat := fieldOf (wordAt w 0) 63 48
def phChildren (w : List Word64) : List Nat := (List.range 16).filter fun i => (wordAt w 1).getLsbD i
def phParent (w : List Word64) : Nat := fieldOf (wordAt w 1) 20 16
def phRoot (w : List Word64) : Bool := phParent w == 0x1F
def phBuf (w : List Word64) : Nat := fieldOf (wordAt w 2) 47 0
def phLen (w : List Word64) : Nat := fieldOf (wordAt w 3) 31 0
def phChunks (w : List Word64) : Nat := (phLen w + 4095) / 4096
def chunkLen (w : List Word64) (k : Nat) : Nat := min 4096 (phLen w - 4096 * k)

/-- A reserved KIND, OP or PARENT, or no phase at all (R365). -/
def planBad (n : Nat) (ps : List (List Word64)) : Bool :=
  n == 0 || ps.any fun w => phKind w == .reserved || decide (4 < phOp w)
    || ((phKind w == .reduce || phKind w == .bcast) && decide (15 < phParent w) && !phRoot w)

/-- The phase uses the local buffer; it reads it; it writes it. -/
def phReads (w : List Word64) : Bool :=
  match phKind w with
  | .send => true
  | .recv => phOp w != 0
  | .reduce => phLocal w
  | .bcast => phRoot w
  | .reserved => false
def phWrites (w : List Word64) : Bool :=
  match phKind w with
  | .recv => true
  | .reduce => phRoot w
  | .bcast => !phRoot w
  | _ => false

/-! ### Combining (R366, R367) -/

/-- A BF16 pattern as the FP32 word of the same value. -/
def bfWide (b : Nat) : Word32 := BitVec.ofNat 32 (b % 65536 * 65536)
/-- RNE to BF16. -/
def bfRne (x : Num) : Nat := (convert (.flt bf16) .rne false x).1

/-- The larger, −0 below +0; NaN when either is NaN. -/
def maxWord (a b : Word32) : Word32 :=
  if (ofWord a).isNan || (ofWord b).isNan then BitVec.ofNat 32 fp32.nan
  else if fltOrder a ≤ fltOrder b then b else a

/-- The FP32 sum of a list, one addition after another. -/
def sumWords : List Word32 → Word32
  | [] => 0
  | x :: rest => rest.foldl (fun a b => (addRne a b).1) x

/-- The words that an element's patterns stand for, by OP. -/
def elemWords (op : Nat) (xs : List Nat) : List Word32 :=
  if op = 1 ∨ op = 3 then xs.map (BitVec.ofNat 32 ·) else xs.map bfWide

/-- One element of a reduction over its inputs in order, by OP. Sums round each addition to FP32; a BF16
sum is rounded to BF16 once, at the end. A NaN is written as R51 says. -/
def reduceElem (op : Nat) (xs : List Nat) : Nat :=
  match elemWords op xs with
  | [] => 0
  | x :: rest =>
    if op = 1 then (canonNan (sumWords (x :: rest))).toNat
    else if op = 2 then bfRne (ofWord (sumWords (x :: rest)))
    else if op = 3 then (canonNan (rest.foldl maxWord x)).toNat
    else if op = 4 then (canonNan (rest.foldl maxWord x)).toNat / 65536
    else xs.getLastD 0

/-- Flags of the FP32 additions of a sum, one after another. -/
def sumExc : List Word32 → Exc
  | [] => 0
  | x :: rest => (rest.foldl (fun a b => ((addRne a.1 b).1, a.2 ||| (addRne a.1 b).2)) (x, (0 : Exc))).2

/-- Flags of one element of a reduction (R77) (DEDUCED, log entry 122). -/
def reduceExc (op : Nat) (xs : List Nat) : Exc :=
  let ws := elemWords op xs
  if op = 0 then 0
  else
    (if ws.any fun w => (ofWord w).isNan then Exc.nanin else 0)
      ||| (if op = 1 ∨ op = 2 then sumExc ws else 0)
      ||| (if op = 2 then (convert (.flt bf16) .rne false (ofWord (sumWords ws))).2 else 0)

/-- One element of a RECV: one rounding of the exact result. -/
def recvElem (op buf x : Nat) : Nat :=
  if op = 1 then (rne32 (sumExact [ofWord (BitVec.ofNat 32 buf), ofWord (BitVec.ofNat 32 x)])).toNat
  else if op = 2 then bfRne (sumExact [ofWord (bfWide buf), ofWord (bfWide x)])
  else reduceElem op [buf, x]

/-- Flags of one element of a RECV (R77) (DEDUCED, log entry 122). -/
def recvExc (op buf x : Nat) : Exc :=
  let ins := (elemWords op [buf, x]).map ofWord
  let v := sumExact ins
  if op = 1 ∨ op = 2 then
    (if ins.any Num.isNan then Exc.nanin else 0) ||| opExc ins v
      ||| (convert (.flt (if op = 1 then fp32 else bf16)) .rne false v).2
  else reduceExc op [buf, x]

/-- Bytes of an element. -/
def elemBytes (op : Nat) : Nat := if op = 1 ∨ op = 3 then 4 else if op = 2 ∨ op = 4 then 2 else 1

/-- Combine byte strings element by element; bytes beyond the whole elements are the last input's. -/
def combineBytes (op : Nat) (f : List Nat → Nat) (ins : List (List Byte)) : List Byte :=
  let n := elemBytes op
  let last := ins.getLastD []
  let k := last.length / n
  if op = 0 then last
  else
    ((List.range k).map fun i => leBytes n (f (ins.map fun b => leNat ((b.drop (n * i)).take n)))).flatten
      ++ last.drop (n * k)

/-- Flags of combining byte strings element by element. -/
def combineExc (op : Nat) (f : List Nat → Exc) (ins : List (List Byte)) : Exc :=
  let n := elemBytes op
  if op = 0 then 0
  else (List.range ((ins.getLastD []).length / n)).foldl (fun e i =>
    e ||| f (ins.map fun b => leNat ((b.drop (n * i)).take n))) 0

/-- A sector is poisoned when it is in any input. -/
def orPois (ps : List (List Bool)) : List Bool :=
  (List.range (ps.foldl (fun n p => max n p.length) 0)).map fun i => ps.any fun p => p.getD i false

/-! ### Slots -/

def State.collAt (s : State) (slot : Nat) : Option Collective := Tbl.find s.fabric.colls slot
def State.setColl (s : State) (slot : Nat) (c : Collective) : State :=
  { s with fabric := { s.fabric with colls := Tbl.set s.fabric.colls slot c } }

/-- Change the collective of a slot, where there is one. -/
def State.updColl (s : State) (slot : Nat) (f : Collective → Collective) : State :=
  match s.collAt slot with
  | some c => s.setColl slot (f c)
  | none => s

/-- The slot that runs a COLLID. -/
def State.collSlot (s : State) (collid : Word32) : Option Nat :=
  (s.fabric.colls.find? fun c => c.2.collid == collid).map (·.1)

def Collective.ph (c : Collective) (p : Nat) : List Word64 := c.phases.getD p []

/-- Neighbour's node of a sub-port. -/
def State.nnode (s : State) (i : Nat) : Nat := s.fld 0x2902 (i + 1) 23 8

/-- Nodes that a module sends a phase's data to. -/
def State.receivers (s : State) (w : List Word64) : List Nat :=
  match phKind w with
  | .send => [phPeer w]
  | .reduce => if phRoot w then [] else [s.nnode (phParent w)]
  | .bcast => ((phChildren w).map s.nnode).eraseDups
  | _ => []

/-- Addresses of collective packets: COLLID, phase, chunk. -/
def collAddr (id : Word32) (p k : Nat) : Word64 :=
  id ++ (BitVec.ofNat 16 p ++ BitVec.ofNat 16 k : BitVec 32)
def addrColl (a : Word64) : Word32 := (a >>> 32).setWidth 32
def addrPhase (a : Word64) : Nat := fieldOf a 31 16
def addrChunk (a : Word64) : Nat := fieldOf a 15 0

/-- The job of a collective ends with cause 0x09 (R365). -/
def State.collFail (s : State) (slot : Nat) : State :=
  match s.collAt slot with
  | some c => s.finish c.job .fault 0x09
  | none => s

/-! ### Late phases and the handshake (R369, R370) -/

/-- A phase for which an RTS was sent or answered counts as late, unless the job has no NBT; the job's record
will say how many there were. -/
def State.markLate (s : State) (slot p : Nat) : State :=
  match s.collAt slot with
  | some c =>
    if c.nbt = 0 ∨ p ∈ c.late then s
    else
      let s := (s.setColl slot { c with late := p :: c.late }).updJob c.job fun j =>
        { j with info := BitVec.ofNat 32 (c.late.length + 1) }
      ((s.count 0x3920 0x11).event 0x2950 2 2).snapFault
  | none => s

def State.sendCtl (s : State) (node tag : Nat) (id : Word32) (p : Nat) : State :=
  s.send node (s.packet opCollCtl node 0 0 tag (collAddr id p 0) 0 false false [] [])

/-- A phase falls back to the handshake: an RTS to each of its receivers. -/
def State.fallBack (s : State) (slot p : Nat) : State :=
  match s.collAt slot with
  | some c =>
    if p ∈ c.shake then s
    else
      let s := s.setColl slot { c with shake := p :: c.shake, timed := c.timed.filter (· ≠ p) }
      (s.receivers (c.ph p)).foldl (fun s n => (s.sendCtl n 1 c.collid p).markLate slot p) s
  | none => s

/-- An RTS is answered where its collective has started, and held where 64 are not held yet. -/
def State.rtsIn (s : State) (node : Nat) (id : Word32) (p : Nat) : State × MsgEnd :=
  match s.collSlot id with
  | some slot => ((s.sendCtl node 2 id p).markLate slot p, .taken)
  | none =>
    if s.fabric.rtsHeld.length < 64 then
      ({ s with fabric := { s.fabric with rtsHeld := s.fabric.rtsHeld ++ [(id, p, BitVec.ofNat 16 node)] } }, .taken)
    else (s, .noRoom)

/-- Answer the held RTS of a collective that starts. -/
def State.answerHeld (s : State) (slot : Nat) (id : Word32) : State :=
  let mine := s.fabric.rtsHeld.filter fun r => r.1 == id
  let s := { s with fabric := { s.fabric with rtsHeld := s.fabric.rtsHeld.filter fun r => r.1 != id } }
  mine.foldl (fun s r => (s.sendCtl r.2.2.toNat 2 id r.2.1).markLate slot r.2.1) s

/-! ### Chunks -/

/-- How the collective unit moves a job's bytes: in the class of fabric egress, with the job's deadline (R198). -/
def State.collMove (s : State) (id : Nat) : Move :=
  ⟨.egress, (s.job? id).map (·.ctx), (s.job? id).bind s.dlTag, false⟩

/-- Ask for a chunk of the local buffer. -/
def State.askChunk (s : State) (c : Collective) (p k : Nat) : State :=
  s.readRange (s.collMove c.job) (localAddr (phBuf (c.ph p) + 4096 * k)) (chunkLen (c.ph p) k) (.chunk c.job p k)

/-- A chunk of the local buffer that has been brought. -/
def Collective.bufChunk (c : Collective) (p k : Nat) : Option (List Byte × List Bool) :=
  (c.bufs.find? fun b => b.phase == p && b.num == k).map fun b => (b.data, b.pois)

/-- Write a chunk of the local buffer. -/
def State.bufWrite (s : State) (c : Collective) (p k : Nat) (data : List Byte) (pois : List Bool) : State :=
  s.writeRange (s.collMove c.job) (localAddr (phBuf (c.ph p) + 4096 * k)) (withPois data pois) (.result c.job p k)

/-- The data of a phase may go to a node: at its agreed time, or with the node's CTS; and which. -/
def Collective.gate (c : Collective) (p node : Nat) : Option Bool :=
  if p ∈ c.shake then (if (p, node) ∈ c.cts then some false else none)
  else if p ∈ c.timed then some true else none

/-- Send one chunk of the current phase to one node, where it may go and is at hand. -/
def State.sendChunk (s : State) (slot node k : Nat) : State :=
  match s.collAt slot with
  | none => s
  | some c =>
    let p := c.phase
    match c.gate p node with
    | none => s
    | some timed =>
      if (p, node, k) ∈ c.sent then s
      else
        let own := phKind (c.ph p) == .send || (phKind (c.ph p) == .bcast && phRoot (c.ph p))
        let x := if own then c.bufChunk p k
          else (c.outs.find? fun o => o.phase == p && o.num == k).map fun o => (o.data, o.pois)
        match x with
        | none => s
        | some (data, pois) =>
          let s := s.setColl slot { c with sent := (p, node, k) :: c.sent }
          s.send node (s.packet opColl node 0 data.length 0 (collAddr c.collid p k) 0 false timed data pois)

/-- A chunk of the current phase has gone to a node. -/
def State.chunkSent (s : State) (slot node k : Nat) : Bool :=
  match s.collAt slot with
  | some c => decide ((c.phase, node, k) ∈ c.sent)
  | none => false

/-- Chunks to one node in ascending order, up to the first that cannot go yet (R366). -/
def State.sendFrom (slot node : Nat) : List Nat → State → State
  | [], s => s
  | k :: ks, s =>
    let s := s.sendChunk slot node k
    if s.chunkSent slot node k then State.sendFrom slot node ks s else s

/-- Every chunk of the current phase to every receiver, in ascending order. -/
def State.sendChunks (s : State) (slot : Nat) : State :=
  match s.collAt slot with
  | none => s
  | some c =>
    let w := c.ph c.phase
    (s.receivers w).foldl (fun s n => State.sendFrom slot n (List.range (phChunks w)) s) s

/-- One landed chunk of a RECV or a BCAST goes into the buffer, and on to a BCAST's children. -/
def State.applyChunk (s : State) (slot : Nat) (x : Chunk) : State :=
  match s.collAt slot with
  | none => s
  | some c =>
    let w := c.ph c.phase
    let copy := decide (phKind w ≠ .recv ∨ phOp w = 0)
    match (if copy then some ([], []) else c.bufChunk x.phase x.num) with
    | none => s
    | some (buf, bp) =>
      let ins := [buf, x.data]
      let data := if copy then x.data else
        combineBytes (phOp w) (fun e => recvElem (phOp w) (e.getD 0 0) (e.getD 1 0)) ins
      let pois := if copy then x.pois else orPois [bp, x.pois]
      let s := if copy then s else s.raiseExc (some c.job) (combineExc (phOp w)
        (fun e => recvExc (phOp w) (e.getD 0 0) (e.getD 1 0)) ins)
      (s.bufWrite c x.phase x.num data pois).updColl slot fun c => { c with
        inputs := c.inputs.filter (· != x)
        written := (x.phase, x.num) :: c.written
        outs := if phKind w = .bcast ∧ phChildren w ≠ [] then { x with data := data, pois := pois } :: c.outs
                else c.outs }

/-- Landed chunks of the current phase that need no other input, in ascending order. -/
def State.applyLanded (s : State) (slot : Nat) : State :=
  match s.collAt slot with
  | none => s
  | some c =>
    let w := c.ph c.phase
    if phKind w = .recv ∨ phKind w = .bcast then
      (List.range (phChunks w)).foldl (fun s k =>
        match c.inputs.find? fun x => x.phase == c.phase && x.num == k with
        | some x => s.applyChunk slot x
        | none => s) s
    else s

/-- A write of a phase's results has not been accepted. -/
def State.resultsOut (s : State) (id p : Nat) : Bool :=
  s.reqs.any fun r => !r.accepted && match r.purpose with
    | .result i q _ => i == id && q == p
    | _ => false

/-- The current phase is complete (R368). A chunk is forwarded once it is acknowledged. -/
def State.phaseDone (s : State) (c : Collective) : Bool :=
  let p := c.phase
  let w := c.ph p
  let all (f : Nat → Bool) : Bool := (List.range (phChunks w)).all f
  (!phWrites w || all fun k => decide ((p, k) ∈ c.written)) && !s.resultsOut c.job p
    && (s.receivers w).all fun n => all fun k => decide ((p, n, k) ∈ c.acked)

/-- When the agreed time of a phase is (R366). -/
def Collective.timeOf (c : Collective) (p : Nat) : Nat := c.nbt + phOffset (c.ph p)

/-- A phase becomes the current one: reads of its buffer go out; it falls back where the job has no NBT, or where
its time has passed before the module was ready for it (R369). -/
def State.enterPhase (s : State) (slot : Nat) : State :=
  match s.collAt slot with
  | none => s
  | some c =>
    let p := c.phase
    let w := c.ph p
    if c.phases.length ≤ p then s
    else if (phReads w || phWrites w) && decide (0 < phLen w)
        && s.addrKind (localAddr (phBuf w)) (phLen w) == .unmapped then s.collFail slot
    else
      let s := if phReads w then (List.range (phChunks w)).foldl (fun s k => s.askChunk c p k) s else s
      if c.nbt = 0 ∨ (c.timeOf p < s.ftNs ∧ p ∉ c.timed) then s.fallBack slot p else s

/-- A piece of a chunk of a job's buffer. -/
def Purpose.ofChunk (id p k : Nat) : Purpose → Bool
  | .chunk i q n _ => i == id && q == p && n == k
  | _ => false

/-- A chunk of the buffer whose last piece has come; a read that fails ends the job. -/
def State.takeChunk (s : State) (slot p k : Nat) : State :=
  match s.collAt slot with
  | none => s
  | some c =>
    let mine := s.reqs.filter fun r => r.purpose.ofChunk c.job p k
    if mine.any (·.stage == .refused) then s.collFail slot
    else if mine ≠ [] ∧ mine.all Req.finished then
      let bs := bytesOf mine
      (s.dropReqs fun r => r.purpose.ofChunk c.job p k).updColl slot fun c => { c with
        bufs := c.bufs ++ [⟨p, k, 16, bs.map (·.1), unitPois bs⟩] }
    else s

/-- Chunks of the current phase's buffer that have come. -/
def State.collBufs (s : State) (slot : Nat) : State :=
  match s.collAt slot with
  | none => s
  | some c => (List.range (phChunks (c.ph c.phase))).foldl (fun s k => s.takeChunk slot c.phase k) s

/-- Run a collective as far as it can go. -/
def State.collStep : Nat → Nat → State → State
  | 0, _, s => s
  | fuel + 1, slot, s =>
    let s := ((s.collBufs slot).applyLanded slot).sendChunks slot
    match s.collAt slot with
    | none => s
    | some c =>
      if s.phaseDone c && decide (c.phase < c.phases.length) then
        let s := (s.setColl slot { c with phase := c.phase + 1 }).count 0x3920 0x0F
        if c.phase + 1 < c.phases.length then State.collStep fuel slot (s.enterPhase slot)
        else s.finish c.job .done 0
      else s

/-- Advance a slot (DEDUCED, log entry 74). -/
def State.collRun (s : State) (slot : Nat) : State :=
  match s.collAt slot with
  | some c => State.collStep (c.phases.length + 1) slot s
  | none => s

/-! ### The job (R365) -/

/-- A piece of a job's plan. -/
def Purpose.ofPlan (id : Nat) : Purpose → Bool
  | .plan i _ => i == id
  | _ => false

/-- Offset of a piece of a plan. -/
def Req.planOff (r : Req) : Nat :=
  match r.purpose with
  | .plan _ off => off
  | _ => 0

/-- What the read of a plan has brought so far (R366): nothing yet, its header, or all of it. -/
inductive PlanRead
  | none_
  | waits
  | header (ws : List Word64)
  | whole (ws : List Word64)
  | poisoned
  | failed
deriving DecidableEq, Repr

def State.planRead (s : State) (id : Nat) : PlanRead :=
  let mine := s.reqs.filter fun r => r.purpose.ofPlan id
  if mine = [] then .none_
  else if mine.any (·.stage == .refused) then .failed
  else if !mine.all Req.finished then .waits
  else
    let bs := bytesOf mine
    let ws := leWords (bs.map (·.1)) (bs.length / 8)
    if bs.any (·.2) then .poisoned
    else if mine.any (fun r => decide (32 ≤ r.planOff)) || planPhases ws == 0 then .whole ws
    else .header ws

/-- Ask for a part of a plan. -/
def State.askPlan (s : State) (j : Job) (off n : Nat) : State :=
  s.readRange ⟨.seqr, some j.ctx, s.dlTag j, true⟩ (localAddr (j.plan + off)) n fun o => .plan j.id (off + o)

/-- A free slot, where there is room for a plan's memories: the one named, else the lowest that is free. Which free
slot takes a job is not stated (DESIGN CHOICE, log entry 74). -/
def State.freeSlot (s : State) (h : List Word64) (want : Nat) : Option Nat :=
  let used (f : Collective → Nat) : Nat := (s.fabric.colls.map fun c => f c.2).foldl (· + ·) 0
  if used Collective.land + planLand h ≤ 8192 ∧ used Collective.sw + planSw h ≤ 4096 then
    (want :: List.range 4).find? fun i => (s.collAt i).isNone
  else none

/-- Phase entries of a plan. -/
def planEntries (ws : List Word64) (n : Nat) : List (List Word64) :=
  (List.range n).map fun i => (ws.drop (4 + 4 * i)).take 4

/-- A collective job begins; one that starts late was not ready at the time of its first phase. -/
def State.startColl (s : State) (j : Job) (ws : List Word64) (slot : Nat) : State :=
  let n := planPhases ws
  let s := s.startJob j
  let s := s.setColl slot
    { job := j.id, collid := planId ws, land := planLand ws, sw := planSw ws, phases := planEntries ws n
      nbt := j.nbt, phase := 0, timed := [], shake := [], late := [], cts := [], inputs := [], bufs := []
      outs := [], sent := [], acked := [], written := [] }
  ((s.answerHeld slot (planId ws)).enterPhase slot).collRun slot

/-- A plan has been read whole: the job starts, ends with its fault, or waits for a slot (R365). -/
def State.planReady (s : State) (j : Job) (ws : List Word64) (want : Nat) : State :=
  let n := planPhases ws
  let drop (s : State) : State := s.dropReqs fun r => r.purpose.ofPlan j.id
  if planBad n (planEntries ws n) || decide (ws.length < 4 + 4 * n) then ((drop s).startJob j).finish j.id .fault 0x08
  else
    match s.freeSlot ws want with
    | some slot => (drop s).startColl j ws slot
    | none => s

/-- The collective unit has room for the job as far as its plan is known. -/
def State.collTakes (s : State) (j : Job) : Bool :=
  match s.planRead j.id with
  | .whole ws => planBad (planPhases ws) (planEntries ws (planPhases ws)) || (s.freeSlot ws 0).isSome
  | .poisoned | .failed => true
  | _ => (List.range 4).any fun i => (s.collAt i).isNone

/-- A collective earlier in the order starts first (R299). -/
def State.collOutranked (s : State) (j : Job) : Bool :=
  s.seq.jobs.any fun a => jobBefore a j && a.type == 6 && a.started.isNone && s.ready a && s.nbtReached a && s.collTakes a

/-- The sequencer reads the plan of an eligible job, its header and then its phases, and starts the job
(DEDUCED, log entry 74). -/
def State.collStart (s : State) (id want : Nat) : State :=
  match s.job? id with
  | none => s
  | some j =>
    if j.type != 6 || !s.eligible j || s.collOutranked j then s
    else
      match s.planRead id with
      | .none_ => s.askPlan j 0 32
      | .waits => s
      | .header ws => s.askPlan j 32 (32 * planPhases ws)
      | .whole ws => s.planReady j ws want
      | .poisoned => (s.startJob j).finish id .fault 0x06
      | .failed => (s.startJob j).finish id .fault 0x09

def execCollectiveJobStart (job : Nat) (slot : Fin 4) (s : State) : Host.Outcome State Fault Refusal :=
  .next (s.collStart job slot.val)

/-! ### The time of a phase (R368, R369) -/

/-- Phases whose t_p has come and about which nothing has been decided, ascending. -/
def State.duePhases (s : State) (c : Collective) : List Nat :=
  if c.nbt = 0 then []
  else (List.range c.phases.length).filter fun p =>
    decide (c.timeOf p ≤ s.ftNs) && !decide (p ∈ c.timed) && !decide (p ∈ c.shake) && decide (c.phase ≤ p)

/-- At t_p: a ready module with FT locked sends at the time; any other falls back. -/
def State.phaseTime (s : State) (slot p : Nat) : State :=
  match s.collAt slot with
  | none => s
  | some c =>
    if c.phase = p ∧ s.ftState = ftLocked then s.setColl slot { c with timed := p :: c.timed }
    else s.fallBack slot p

def State.collTime (s : State) (slot : Nat) : State :=
  match s.collAt slot with
  | none => s
  | some c => ((s.duePhases c).foldl (fun s p => s.phaseTime slot p) s).collRun slot

def execCollPhaseTime (slot : Fin 4) (s : State) : Host.Outcome State Fault Refusal := .next (s.collTime slot)

/-! ### REDUCE (R367) -/

/-- Inputs of a REDUCE chunk: the local one first, then the children in ascending sub-port order. -/
def wanted (w : List Word64) : List Nat := phChildren w

/-- Landed inputs of a chunk, in the order they are combined; none while one is missing. -/
def Collective.gather (c : Collective) (k : Nat) : Option (List Chunk) :=
  let xs := (wanted (c.ph c.phase)).map fun i => c.inputs.find? fun x => x.phase == c.phase && x.num == k && x.src == i
  if xs.all Option.isSome then some (xs.filterMap id) else none

/-- The chunk's result has not been made yet. -/
def Collective.open (c : Collective) (k : Nat) : Bool :=
  !decide ((c.phase, k) ∈ c.written) && !(c.outs.any fun o => o.phase == c.phase && o.num == k)
    && !(c.acked.any fun a => a.1 == c.phase && a.2.2 == k)

/-- Combine one chunk: the result is written at the root, and else goes to the parent. -/
def State.combine (s : State) (slot k : Nat) : State :=
  match s.collAt slot with
  | none => s
  | some c =>
    let w := c.ph c.phase
    let p := c.phase
    if phKind w ≠ .reduce ∨ phChunks w ≤ k ∨ c.open k = false ∨ (p ∉ c.timed ∧ p ∉ c.shake) then s
    else
      match c.gather k with
      | none => s
      | some xs =>
        match (if phLocal w then c.bufChunk p k else some ([], [])) with
        | none => s
        | some (bs, bp) =>
          let ins := (if phLocal w then [(bs, bp)] else []) ++ xs.map fun x => (x.data, x.pois)
          let data := combineBytes (phOp w) (reduceElem (phOp w)) (ins.map (·.1))
          let pois := orPois (ins.map (·.2))
          let s := s.raiseExc (some c.job) (combineExc (phOp w) (reduceExc (phOp w)) (ins.map (·.1)))
          let keep (c : Collective) : Collective :=
            { c with inputs := c.inputs.filter fun x => !(x.phase == p && x.num == k) }
          if phRoot w then
            ((s.bufWrite c p k data pois).updColl slot fun c =>
              { keep c with written := (p, k) :: c.written }).collRun slot
          else (s.updColl slot fun c => { keep c with outs := ⟨p, k, 16, data, pois⟩ :: c.outs }).collRun slot

def execReduceChunkCombine (slot : Fin 4) (chunk : Nat) (s : State) : Host.Outcome State Fault Refusal :=
  .next (s.combine slot chunk)

/-! ### Packets of a collective -/

/-- The input that a node's packet for a phase is, where the phase awaits one from it. -/
def State.inputOf (s : State) (c : Collective) (p k node : Nat) : Option Nat :=
  let w := c.ph p
  match phKind w with
  | .recv => if phPeer w = node then some 16 else none
  | .bcast => if !phRoot w ∧ s.nnode (phParent w) = node then some 16 else none
  | .reduce => (phChildren w).find? fun i => s.nnode i == node &&
      !(c.inputs.any fun x => x.phase == p && x.num == k && x.src == i)
  | _ => none

/-- A COLL packet lands; for a collective that has not started its data is discarded (R369). -/
def State.collIn (s : State) (node : Nat) (a : Word64) (data : List Byte) (pois : List Bool) : State × MsgEnd :=
  match s.collSlot (addrColl a) with
  | none => (s, .refused)
  | some slot =>
    match s.collAt slot with
    | none => (s, .refused)
    | some c =>
      let p := addrPhase a
      let k := addrChunk a
      if p < c.phase ∨ c.phases.length ≤ p ∨ phChunks (c.ph p) ≤ k then (s, .taken)
      else
        match s.inputOf c p k node with
        | none => (s, .taken)
        | some i => ((s.setColl slot { c with inputs := c.inputs ++ [⟨p, k, i, data, pois⟩] }).collRun slot, .taken)

def State.ctsIn (s : State) (node : Nat) (id : Word32) (p : Nat) : State :=
  match s.collSlot id with
  | some slot => (s.updColl slot fun c => { c with cts := (p, node) :: c.cts }).collRun slot
  | none => s

/-- A COLL packet of this module is acknowledged. -/
def State.collAcked (s : State) (node : Nat) (a : Word64) : State :=
  match s.collSlot (addrColl a) with
  | some slot =>
    (s.updColl slot fun c =>
      let t := (addrPhase a, node, addrChunk a)
      if t ∈ c.acked then c else { c with acked := t :: c.acked }).collRun slot
  | none => s

/-- It is answered with STATUS 0x04: the phase falls back, and the chunk waits for a CTS. -/
def State.collNotStarted (s : State) (node : Nat) (a : Word64) : State :=
  match s.collSlot (addrColl a) with
  | some slot =>
    let p := addrPhase a
    (s.updColl slot fun c => { c with sent := c.sent.filter (· ≠ (p, node, addrChunk a)) }).fallBack slot p |>.collRun slot
  | none => s

/-- Collectives that have sent a node packets which are not acknowledged. -/
def State.collsToward (s : State) (node : Nat) : List Nat :=
  (s.fabric.colls.filter fun c => c.2.sent.any fun t => t.2.1 == node && !decide (t ∈ c.2.acked)).map (·.1)

/-- A connection toward a node fails, or the node refuses a packet (R365). -/
def State.collsFail (s : State) (node : Nat) : State := (s.collsToward node).foldl State.collFail s

end Sys2Proof.Machine
end

