-- ==== Sys2Proof/Machine/Transport.lean ====
section
/-! DEFINITION. Morotik's transport: the order of a connection's packets, acknowledgements, retransmission,
failure and rate, and what each operation does at its receiver (R351 to R364, R375). -/

namespace Sys2Proof.Machine

/-! ### Requests of this module at other nodes -/

/-- A request of this module that has gone to a node and has not been answered. -/
def State.outstanding (s : State) (node : Nat) (r : Req) : Bool :=
  !s.isLocal r.addr && addrNode r.addr == node && r.route.isEmpty && r.stage == .waiting

/-- The oldest outstanding request that a tag names. -/
def State.tagged (s : State) (node tag : Nat) (p : ReqKind → Bool) : Option Req :=
  s.reqs.find? fun r => s.outstanding node r && r.id % 2 ^ 16 == tag && p r.kind

/-- End a request as if refused at its node (R354). -/
def State.refuseReq (s : State) (id : Nat) : State := s.updReq id fun r => { r with stage := .refused }

/-- End every request outstanding to a node (DEDUCED, log entry 17). -/
def State.refuseNode (s : State) (node : Nat) : State :=
  (((s.reqs.filter (s.outstanding node)).map (·.id)).foldl State.refuseReq s).settle

/-- The answer to a read or an atomic: its data goes back to the master. -/
def State.answer (s : State) (r : Req) (data : List Byte) (pois : List Bool) : State :=
  s.updReq r.id fun q => { q with
    stage := .done data (pois.any id && decide (q.len ≤ 128))
    got := pois.zipIdx.filterMap fun p => if p.1 then some (p.2, 0, true) else none
    route := s.replyFar q }

/-! ### Acknowledgements (R358) -/

/-- 500 ns after the oldest packet that awaits acknowledgement completed. -/
def State.ackTimer (s : State) (node cls : Nat) : State :=
  let c := s.conn node cls
  if 0 < c.ackDue ∧ s.passedNs c.ackAt 500 then s.sendAck node cls 0 else s

def execAckSend (node : Fin 8192) (cls : Fin 2) (s : State) : Host.Outcome State Fault Refusal :=
  .next (s.ackTimer node cls)

/-! ### A peer's reset (R356) -/

def State.resetConn (s : State) (node cls : Nat) : State := s.setConn node cls Conn.init

/-- The sender of a packet, as its BOOTID tells. A peer never heard before is taken as it is (DEDUCED, log entries 70 and 112). -/
def State.bootCheck (s : State) (f : MFrame) : State :=
  let n := f.snode.toNat
  let old := Tbl.get 0 s.fabric.boots n
  if old = f.bootid then s
  else
    let s := { s with fabric := { s.fabric with boots := Tbl.put 0 s.fabric.boots n f.bootid } }
    if old = 0 then s
    else
      let s := (s.resetConn n 0).resetConn n 1
      (((s.refuseNode n).collsFail n).event 0x2950 2 1).pumpAll

/-! ### Order of a connection (R357, R361) -/

/-- How the execution of a packet stands: done with a STATUS, its requests out, or to come again. -/
inductive RunEnd | done (status : Nat) | out | later
deriving DecidableEq, Repr

/-- Nothing is missing between the packet that executes and this one. -/
def Conn.follows (c : Conn) (f : MFrame) : Bool :=
  c.exec.isSome && (List.range ((f.psn - c.rxPsn).toNat - 1)).all fun i =>
    c.held.any fun h => h.psn == c.rxPsn + 1 + BitVec.ofNat 24 i

/-- A packet beyond the expected one is held where there is room (R357). It is acknowledged at once where it
comes out of order. -/
def State.holdPacket (s : State) (n k : Nat) (f : MFrame) : State :=
  let c := s.conn n k
  if (f.psn - c.rxPsn).toNat ≤ 64 ∧ s.reorderBytes + f.bytes ≤ 2 ^ 22 then
    let held := if c.held.any fun h => h.psn == f.psn then c.held else c.held ++ [f]
    let s := s.setConn n k { c with held := held }
    if c.follows f then s else s.sendAck n k 0
  else (s.count 0x3920 9).sendAck n k 0

/-- A sequenced packet: executed in its turn, held, or discarded. The expected PSN moves on as the execution
ends (DEDUCED, log entry 135). -/
def State.sequenced (s : State) (f : MFrame) (run : MFrame → State → State × RunEnd) : State :=
  let n := f.snode.toNat
  let k := f.cls
  let c := (s.conn n k).resync f
  let s := s.setConn n k c
  if f.psn = c.rxPsn then
    if c.exec.isSome then s.sendAck n k 0
    else
      match run f s with
      | (t, .done status) => t.executed n k f status
      | (t, .out) => t.packetDone n k
      | (t, .later) => t
  else if psnAhead f.psn c.rxPsn then s.holdPacket n k f
  else s.sendAck n k 0

/-- The packet at the head of the local port, where it carries an operation. -/
def State.localHead (s : State) (op : Nat) : Option (MFrame × State) :=
  match s.fabric.inbox with
  | [] => none
  | (f, _) :: rest =>
    if f.op = op then some (f, { s with fabric := { s.fabric with inbox := rest } }) else none

/-- Receive the sequenced packet at the head. -/
def State.receive (s : State) (op : Nat) (run : MFrame → State → State × RunEnd) : State :=
  match s.localHead op with
  | some (f, t) => (t.bootCheck f).sequenced f run
  | none => s

/-! ### Operations at the target (R353) -/

/-- The packet executes: its requests go out under a number of their own, in the class of peers. -/
def State.runPacket (s : State) (f : MFrame) (go : (Nat → Purpose) → Move → State → State) : State :=
  let n := f.snode.toNat
  let k := f.cls
  let run := s.nextReq
  go (.packet n k run) ⟨.peer f.snode, none, none, false⟩ (s.setConn n k { s.conn n k with exec := some (run, f) })

def runWrite (f : MFrame) (s : State) : State × RunEnd :=
  if peerMay (framePa f) f.payload.length then
    (s.runPacket f fun p m s => s.writeRange m (localAddr (framePa f)) (withPois f.payload (framePois f)) (p 0), .out)
  else (s, .done 1)

def execWriteReceive (s : State) : Host.Outcome State Fault Refusal := .next (s.receive opWrite runWrite)

def runRead (f : MFrame) (s : State) : State × RunEnd :=
  if f.len ≤ 4096 ∧ peerMay (framePa f) f.len then
    (s.runPacket f fun p m s => s.readRange m (localAddr (framePa f)) f.len p, .out)
  else (s.respond f opReadResp 1 [] [], .done 0)

def execReadreqReceive (s : State) : Host.Outcome State Fault Refusal := .next (s.receive opReadReq runRead)

/-- The request of an ATOMIC. -/
def atomicReq (f : MFrame) (op : AtomOp) (ty : AtomTy) (x : Word64 × Word64) (p : Purpose) : Req :=
  { mkReq (.peer f.snode) (.atomic op ty) (localAddr (framePa f)) (atomWidth ty) [] (f.sectorPois 0) true p none with
    operands := [x] }

/-- (DEDUCED, log entry 72.) -/
def runAtomic (f : MFrame) (s : State) : State × RunEnd :=
  match frameAtomic f with
  | some (op, ty, a, b) =>
    if peerMay (framePa f) (atomWidth ty) ∧ (framePa f) % atomWidth ty = 0 then
      (s.runPacket f fun p _ s => s.request (atomicReq f op ty (a, b) (p 0)), .out)
    else (s.respond f opAtomicResp 1 [] [], .done 0)
  | none => (s.respond f opAtomicResp 1 [] [], .done 0)

def execAtomicReceive (s : State) : Host.Outcome State Fault Refusal := .next (s.receive opAtomic runAtomic)

/-! ### Responses (R354) -/

def runReadResp (f : MFrame) (s : State) : State × RunEnd :=
  match s.tagged f.snode.toNat f.tag fun k => k == .read with
  | some r => (if f.status = 0 then s.answer r (f.payload.take r.len) (framePois f) else (s.refuseReq r.id).settle, .done 0)
  | none => (s, .done 0)

def execReadrespReceive (s : State) : Host.Outcome State Fault Refusal := .next (s.receive opReadResp runReadResp)

/-- What each thread of a combined atomic receives, from the value before it that its peer has sent (R260). -/
def Req.olds (r : Req) (old : Word64) : List Byte :=
  match r.kind with
  | .atomic op ty => ((atomEach op ty old r.operands).2.map fun v => leBytes 8 v.toNat).flatten
  | _ => leBytes 8 old.toNat

def runAtomicResp (f : MFrame) (s : State) : State × RunEnd :=
  match s.tagged f.snode.toNat f.tag ReqKind.isAtomic with
  | some r =>
    (if f.status = 0 then s.answer r (r.olds (BitVec.ofNat 64 (beNat f.payload))) (framePois f) |>.settle else (s.refuseReq r.id).settle, .done 0)
  | none => (s, .done 0)

def execAtomicrespReceive (s : State) : Host.Outcome State Fault Refusal := .next (s.receive opAtomicResp runAtomicResp)

/-! ### Messages and collectives -/

def MsgEnd.status (e : MsgEnd) (refused : Nat) : RunEnd :=
  match e with
  | .taken => .done 0
  | .refused => .done refused
  | .noRoom => .later

/-- TAG of a MSG: destination queue, source queue. -/
def runMsg (f : MFrame) (s : State) : State × RunEnd :=
  let (s, e) := s.mqDeliver (f.tag % 64) (f.tag / 256 % 64) f.snode.toNat f.payload f.sectorPois
  (s, e.status 1)

def execMsgReceive (s : State) : Host.Outcome State Fault Refusal := .next (s.receive opMsg runMsg)

def runColl (f : MFrame) (s : State) : State × RunEnd :=
  let (s, e) := s.collIn f.snode.toNat f.addr f.payload (framePois f)
  (s, e.status 4)

def execCollReceive (s : State) : Host.Outcome State Fault Refusal := .next (s.receive opColl runColl)

/-- The packet at the head is a COLLCTL of a kind. -/
def State.ctlHead (s : State) (tag : Nat) : Bool :=
  match s.fabric.inbox with
  | [] => false
  | (f, _) :: _ => f.op == opCollCtl && f.tag % 4 == tag

def runRts (f : MFrame) (s : State) : State × RunEnd :=
  let (s, e) := s.rtsIn f.snode.toNat (addrColl f.addr) (addrPhase f.addr)
  (s, e.status 0)

def execCollctlRtsReceive (s : State) : Host.Outcome State Fault Refusal :=
  .next (if s.ctlHead 1 then s.receive opCollCtl runRts else s)

/-- A COLLCTL that is no RTS: a CTS, or a kind without meaning, which is acknowledged alone. -/
def runCts (f : MFrame) (s : State) : State × RunEnd :=
  (if f.tag % 4 = 2 then s.ctsIn f.snode.toNat (addrColl f.addr) (addrPhase f.addr) else s, .done 0)

def execCollctlCtsReceive (s : State) : Host.Outcome State Fault Refusal :=
  .next (if s.ctlHead 1 then s else s.receive opCollCtl runCts)

/-! ### The sender (R355, R358 to R361, R364) -/

/-- Send a copy of a packet again. -/
def State.resend (s : State) (f : MFrame) : State :=
  if s.node = 0xFFFF then s else (s.count 0x3920 3).forward f none false

/-- What the acknowledgement of a packet brings to its sender. -/
def State.acknowledged (s : State) (node : Nat) (u : Unacked) (status : Nat) : State :=
  if u.frame.op = opWrite then
    match s.tagged node u.frame.tag fun k => k == .write with
    | some r => (s.updReq r.id fun r => { r with stage := if status = 0 then .done [] false else .refused }).settle
    | none => s
  else if u.frame.op = opColl then
    if status = 0 then s.collAcked node u.frame.addr
    else if status = 4 then s.collNotStarted node u.frame.addr
    else
      match s.collSlot (addrColl u.frame.addr) with
      | some slot => s.collFail slot
      | none => s
  else s

/-- Base of the rate's interval, in ns (R364). -/
def State.rateInterval (s : State) : Nat := 1000 * s.fld 0x2970 1 15 8

/-- An ACK with ECE cuts the rate of a switched connection, at most once in an interval
(DESIGN CHOICE, log entry 69). -/
def State.cutRate (s : State) (node cls : Nat) : State :=
  let c := s.conn node cls
  let may := match c.cutAt with
    | some t => s.passedNs t s.rateInterval
    | none => true
  let cut := s.fld 0x2970 2 3 0
  if s.switched node (Config.flowHash (2 * node + cls)) then
    s.setConn node cls { c with
      slowed := true
      cutAt := if may then some s.time.now else c.cutAt
      rate := if may then max 1000 (c.rate * (2 ^ cut - 1) / 2 ^ cut) else c.rate }
  else s

/-- Marks of a bitmap on the packets that remain. -/
def markBy (psn : BitVec 24) (bitmap : Word64) (u : Unacked) : Unacked :=
  let i := (u.psn - psn - 1).toNat
  { u with marked := decide (i < 64) && bitmap.getLsbD i }

/-- Packets of a hole: three or more beyond them have been received. -/
def holes : List Unacked → List Unacked
  | [] => []
  | u :: us =>
    (if !u.marked && !u.again && decide (3 ≤ (us.filter (·.marked)).length) then [u] else []) ++ holes us

/-- The packets of a hole go out at once, once. -/
def State.fastResend (s : State) (node cls : Nat) : State :=
  let c := s.conn node cls
  let hs := holes c.unacked
  if hs = [] then s
  else
    let us := c.unacked.map fun u => if hs.any (·.psn == u.psn) then { u with again := true } else u
    let s := s.setConn node cls { c with unacked := us }
    hs.foldl (fun s h => (s.count 0x3920 7).resend h.frame) s

/-- An ACK: everything before its PSN is acknowledged (R359, R360) (DEDUCED, log entry 17). -/
def State.ackIn (s : State) (f : MFrame) : State :=
  let n := f.snode.toNat
  let k := f.tag % 2
  let c := s.conn n k
  let p := f.psn
  if psnAhead p c.txPsn then s
  else
    let gone := c.unacked.filter fun u => psnAhead p u.psn
    let rest := (c.unacked.filter fun u => !psnAhead p u.psn).map (markBy p f.addr)
    let c' := if gone = [] then { c with unacked := rest }
      else { c with
        unacked := rest, timer := if rest = [] then none else some s.time.now
        interval := s.rtoBase n k, expiries := 0 }
    let s := s.setConn n k c'
    let s := if f.ece then (s.count 0x3920 0x0B).cutRate n k else s
    let s := gone.foldl (fun s u => s.acknowledged n u (if u.psn + 1 = p then f.status else 0)) s
    let s := s.fastResend n k
    s.pumpAll

def execAckReceive (s : State) : Host.Outcome State Fault Refusal :=
  .next (match s.localHead opAck with
    | some (f, t) => (t.bootCheck f).ackIn f
    | none => s)

/-- A connection fails: it ends what it carried, and starts again from the present PSN (R361)
(DEDUCED, log entry 70). -/
def State.connFail (s : State) (node cls : Nat) : State :=
  let c := s.conn node cls
  let s := s.setConn node cls { c with
    unacked := [], timer := none, interval := 0, expiries := 0, rsy := some c.txPsn
    waiting := c.waiting.filter fun f => f.op != opWrite && f.op != opReadReq && f.op != opAtomic }
  let s := (s.count 0x3920 0x0D).event 0x2950 2 0
  let s := if cls = 0 then s.refuseNode node else s.collsFail node
  s.pumpAll

/-- An ACK of the connection that has come is taken first (R360). -/
def State.ackFirst (s : State) (node cls : Nat) : State :=
  match s.fabric.inbox.find? fun q => q.1.op == opAck && q.1.snode.toNat == node && q.1.tag % 2 == cls with
  | some q => ({ s with fabric := { s.fabric with inbox := s.fabric.inbox.erase q } }.bootCheck q.1).ackIn q.1
  | none => s

/-- The retransmit timer expires (R359, R361). -/
def State.expire (s : State) (node cls : Nat) : State :=
  let s := s.ackFirst node cls
  let c := s.conn node cls
  match c.timer with
  | none => s
  | some t =>
    if !s.passedNs t (1000 * c.interval) then s
    else
      let s := s.count 0x3920 5
      if s.fld 0x2970 1 19 16 ≤ c.expiries + 1 then s.connFail node cls
      else
        let s := s.setConn node cls { c with
          timer := some s.time.now, expiries := c.expiries + 1
          interval := min (2 * c.interval) (8 * s.rtoBase node cls) }
        (c.unacked.filter fun u => !u.marked).foldl (fun s u => s.resend u.frame) s

def execRetransmitTimeout (node : Fin 8192) (cls : Fin 2) (s : State) : Host.Outcome State Fault Refusal :=
  .next (s.expire node cls)

/-- An interval of RTOS: without ECE the rate rises (R364) (DESIGN CHOICE, log entry 69). -/
def State.raiseRate (s : State) (node cls : Nat) : State :=
  let c := s.conn node cls
  if s.switched node (Config.flowHash (2 * node + cls)) && c.rate != 0 && s.passedNs c.rateAt s.rateInterval then
    s.setConn node cls { c with
      rateAt := s.time.now, slowed := false
      rate := if c.slowed then c.rate else min s.portRate (c.rate + s.fld 0x2970 2 15 4) }
  else s

def execRateIncreaseInterval (node : Fin 8192) (cls : Fin 2) (s : State) : Host.Outcome State Fault Refusal :=
  .next (s.raiseRate node cls)

end Sys2Proof.Machine
end

