-- ==== Sys2Proof/Machine/Power.lean ====
section
/-! DEFINITION. Power: the slots of 10 µs, the limiter's choice of the step, the rail, the kettle, and the
supervision of the input (R431 to R447, R463). -/

namespace Sys2Proof.Machine

/-! ### Steps (R435 to R437) -/

/-- The management island runs: slots are measured, in every state but OFF. -/
def State.powered (s : State) : Bool := s.dev != devOff && !s.bring.modRst

/-- PSTAT.STEP: 0 to 7, or 8 for STOP. -/
def State.step' (s : State) : Nat := s.fld 0x2100 3 3 0

/-- Base voltage of a step, in mV. -/
def baseMv (n : Nat) : Nat := [750, 725, 700, 680, 660, 640, 620, 620].getD n 620

/-- The set-point of a step: the base with the offset of the last re-plan, within 0.62 to 0.85 V (R436). -/
def State.setPoint (s : State) (n : Nat) : Nat :=
  (max 620 (min 850 ((baseMv n : Int) + s.age.offset))).toNat

/-- Where the rail stands now: it moves by 10 mV/µs toward the target's set-point. -/
def State.railNow (s : State) : Nat :=
  let moved := (s.time.now - s.power.railAt) / (100 * nsUnits)
  let goal := s.setPoint s.power.target
  if s.power.railMv ≤ goal then min goal (s.power.railMv + moved) else max goal (s.power.railMv - moved)

/-- The rail turns toward another step from where it stands. -/
def State.retarget (s : State) (n : Nat) : State :=
  let mv := s.railNow
  let s := { s with power := { s.power with target := n, railMv := mv, railAt := s.time.now } }
  s.setFld 0x2100 3 25 16 (s.setPoint n)

/-- The fastest step, no faster than one wanted, whose set-point the rail holds. -/
def State.heldStep (s : State) (want : Nat) : Nat :=
  ((List.range 8).find? fun n => decide (want ≤ n) && decide (s.setPoint n ≤ s.railNow)).getD 7

def State.setStep (s : State) (n : Nat) : State := s.setFld 0x2100 3 3 0 n

/-- The core clocks run at a step; `climb` where they are still to follow the rail from STOP. -/
def State.setClk (s : State) (n : Nat) (climb : Bool) : State :=
  { s with power := { s.power with clk := n, climb := climb } }

/-- The step of a new slot (R437, R438): STOP stops the clocks and holds the rail; a slower step moves the
clocks at once; a faster one waits for its voltage; after STOP they run at the fastest step that the rail
holds and climb from there (DEDUCED, log entry 75). -/
def State.enterStep (s : State) (n : Nat) : State :=
  if n = 8 then (s.setStep 8).setClk s.power.clk false
  else
    let fromStop := s.step' == 8
    let was := s.power.clk
    let climbs := s.power.climb
    let s := (s.retarget n).setStep n
    let held := s.heldStep n
    if fromStop then s.setClk held (held != n)
    else if was ≤ n then s.setClk n false
    else if climbs then s.setClk (min was held) (min was held != n)
    else s.setClk (if held = n then n else was) false

/-- The rail has reached the voltage of a faster step: the clocks move to it. -/
def State.rampDone (s : State) : State :=
  let n := s.heldStep s.power.target
  if s.coreStopped ∨ s.power.clk ≤ n then s
  else if s.power.climb then s.setClk n (n != s.power.target)
  else if n = s.power.target then s.setClk n false
  else s

def execStepRampComplete (s : State) : Host.Outcome State Fault Refusal := .next s.rampDone

/-! ### The limiter (R438 to R443) -/

def State.limit (s : State) : Nat := s.fld 0x2100 2 15 0
def State.ramp (s : State) : Nat := s.fld 0x2100 5 15 0

/-- The thermal demand in force (R451, R454). -/
def State.thermalDemand (s : State) : Nat := if s.thermal.blind then 7 else s.fld 0x2220 2 2 0

/-- The slowest of the demands and STEPCAP.MIN. -/
def State.slowest (s : State) : Nat :=
  max (max s.thermalDemand (s.thermal.rateStep.getD 0)) (s.fld 0x2100 4 3 0)

def sumN (xs : List Nat) : Nat := xs.foldl (· + ·) 0

/-- Caps on the next slot, in mW: of the ramp, of the 10 ms mean, of the peak. -/
def State.rcap (s : State) : Int := 1000 * ((s.power.slots.getD 999 0 : Int) + 10 * s.ramp)
def State.lcap (s : State) : Int := 1000 * (1000 * (s.limit : Int) - sumN (s.power.slots.take 999))
def State.peakCap (s : State) : Int := 1150 * s.limit

/-- E of a step, in mW (R441) (DEDUCED, log entry 75). -/
def State.estimate (s : State) (n : Nat) : Int :=
  let a : Int := s.power.activity
  let m : Int := (s.power.starts : Int) - s.power.cut
  1000 * (s.power.slots.headD 0 : Int) + (a + m) * stepK n - a * stepK s.step'

/-- The fastest step no faster than `slow` that a cap allows; STOP where none is. -/
def State.chosen (s : State) (slow : Nat) (cap : Int) : Nat :=
  ((List.range 8).find? fun n => decide (slow ≤ n) && decide (s.estimate n ≤ cap)).getD 8

/-- The step chosen for the next slot, and what of PSTAT it sets. -/
def State.chooseStep (s : State) : State × Nat × Int :=
  let slow := s.slowest
  let cap := min (min s.rcap s.lcap) s.peakCap
  let n := s.chosen slow cap
  let n := if 20 ≤ s.power.stopRun then max slow 7 else n
  let s := s.setBit 0x2100 3 4 (decide (slow < n) && decide (slow < s.chosen slow (min s.lcap s.peakCap)))
  let s := s.setBit 0x2100 3 5 (decide (slow < n) && decide (slow < s.chosen slow s.rcap))
  let s := s.setBit 0x2100 3 6 (decide (0 < s.thermalDemand))
  let s := s.setBit 0x2100 3 7 s.thermal.rateStep.isSome
  (s.setBit 0x2100 3 8 (decide (0 < s.fld 0x2100 4 3 0)), n, cap)

/-! ### The kettle (R444 to R447) -/

/-- D of a timed job: the base power and the power of every job expected to run at its NBT. -/
def State.demandAt (s : State) (spans : List (Nat × Nat × Option Nat)) (t : Nat) : Nat :=
  s.fld 0x2890 3 11 0 + sumN ((spans.filter fun x => decide (x.2.1 ≤ t) && (match x.2.2 with
    | some e => decide (t < e)
    | none => true)).map (·.1))

/-- Fetched COMPUTE jobs that have not started and have an NBT. -/
def State.timedJobs (s : State) : List Job :=
  s.seq.jobs.filter fun j => j.type == 1 && j.started.isNone && j.nbt != 0

/-- The draw that the kettle is to hold up, in mW. -/
def State.kettleWant (s : State) : Int :=
  if 0 < s.thermalDemand ∨ s.thermal.rateStep.isSome then 0
  else
    let now := s.ftNs
    let want : Int := 1000 * (min (s.fld 0x2100 6 15 0) s.limit : Nat)
    let spans := s.projected now
    let want := if s.bit 0x2100 7 0 then
        s.timedJobs.foldl (fun w j => max w
          (1000 * (s.demandAt spans j.nbt : Int) - s.ramp * ((j.nbt : Int) - now) / 1000)) want
      else want
    if s.bit 0x2100 7 1 then max want (1000 * ((s.power.slots.getD 999 0 : Int) - 10 * s.ramp)) else want

/-- The filler load for a slot at a step: whole watts, as far as the cap and the idle clusters let. In STOP
it draws nothing, and the activity still holds the load before it (R441) (DEDUCED, log entry 75). -/
def State.setKettle (s : State) (n : Nat) (cap : Int) : State :=
  let k := stepK n
  let old := stepK (if s.step' = 8 then s.power.target else s.step')
  let ref : Nat := if old = 0 then 0 else s.power.kettle * 1000 / old
  let bare : Int := s.estimate n - (ref * k : Nat)
  let need : Nat := (((s.kettleWant - bare) + 999) / 1000).toNat
  let top : Nat := min ((cap - bare) / 1000).toNat (s.idleClusters * (22 * k / 1000))
  let load := if k = 0 then 0 else min need top
  let kept := if k = 0 then s.power.kettle else load
  ({ s with power := { s.power with kettle := kept } }).setBit 0x2100 3 9 (decide (load < need))

/-! ### A slot -/

/-- The mean of the last 100 slots. -/
def mean100 (xs : List Nat) : Nat := sumN (xs.take 100) / max 1 (min 100 xs.length)

/-- Take the measurements of the slot that closes (R439, R434). -/
def State.measure (s : State) (w dv act : Nat) : State :=
  let p := s.power
  let slots := if p.slots = [] then List.replicate 1000 w else (w :: p.slots).take 1000
  let volts := if p.volts = [] then List.replicate 100 dv else (dv :: p.volts).take 100
  let stop := decide (s.step' = 8)
  let s := { s with power := { p with
    slots := slots, volts := volts
    shown := if p.shown + 1 = 100 then 0 else p.shown + 1
    stopRun := if stop then p.stopRun + 1 else 0
    activity := if stop then p.activity else act
    overCnt := if 4200 < dv then p.overCnt + 1 else 0
    underCnt := if dv < 3600 then p.underCnt + 1 else 0
    outCnt := if dv < 3300 ∨ 4400 < dv then p.outCnt + 1 else 0 } }
  let s := s.setFld 0x2100 8 15 0 (mean100 volts)
  let s := if s.power.shown = 0 then s.setFld 0x2100 1 15 0 (mean100 slots) else s
  s.noteErr

/-- A slot above 1.15 × LIMIT, or a mean more than 20 W above LIMIT, is an excursion (R442). -/
def State.checkExcursion (s : State) : State :=
  let xs := s.power.slots
  if 115 * s.limit < 100 * xs.headD 0 ∨ 1000 * (s.limit + 20) < sumN xs then s.event 0x2100 9 0 else s

/-- Count the slot by its step, and the kettle's slots (R463). -/
def State.countSlot (s : State) : State :=
  let s := s.count 0x3100 (2 * min 8 s.step' + 1)
  if s.step' ≠ 8 ∧ 0 < s.power.kettle then s.count 0x3100 0x13 else s

/-- A slot closes; the limiter chooses the step of the next while the leaves are powered. -/
def State.closeSlot (s : State) (w dv act : Nat) : State :=
  if !s.powered then s
  else
    let s := if devBoot ≤ s.dev then s.countSlot else s
    let s := (s.measure w dv act).checkExcursion
    if s.bring.leafOn = 0 then { s with power := { s.power with starts := 0, cut := 0, kettle := 0 } }
    else
      let (s, n, cap) := s.chooseStep
      let s := (s.setKettle n cap).enterStep n
      { s with power := { s.power with starts := 0, cut := 0 } }

def execPowerSlot (watts decivolts activity : Nat) (s : State) : Host.Outcome State Fault Refusal :=
  .next (s.closeSlot watts decivolts activity)

/-- 100 slots above 420 V. -/
def execInputOvervoltage (s : State) : Host.Outcome State Fault Refusal :=
  .next (if 100 ≤ s.power.overCnt then s.event 0x2100 9 1 else s)

/-- 100 slots below 360 V. -/
def execInputUndervoltage (s : State) : Host.Outcome State Fault Refusal :=
  .next (if 100 ≤ s.power.underCnt then s.event 0x2100 9 2 else s)

end Sys2Proof.Machine
end

