-- ==== Sys2Proof/Machine/Thermal.lean ====
section
/-! DEFINITION. Heat: the sensors, the model of the lower leaves, warnings, the thermal and rate-of-rise
demands, and shutdown (R450 to R460). Temperatures are in units of 1/16 °C. -/

namespace Sys2Proof.Machine

/-! ### Sources -/

/-- Diodes 0 to 41 in the order of 2210:01 on, then the six thermistors. -/
def diodeCount : Nat := 42

/-- The die of a diode: leaves 0 to 3, caddies 4 and 5, spout 6. -/
def diodeDie (i : Nat) : Nat := if i < 32 then i / 8 else if i < 40 then 4 + (i - 32) / 4 else 6

/-- Warning, throttle and shutdown thresholds of a source in °C (R452); none where it has no such
threshold. -/
def thresholds (i : Nat) : Int × Int × Option Int :=
  if i < 32 then (95, 105, some 115)
  else if i < 40 then (85, 95, some 105)
  else if i < 42 then (95, 105, some 115)
  else if i = 42 then (45, 50, none)
  else if i = 43 then (65, 70, none)
  else (105, 115, some 125)

def sources : List Nat := List.range 48

/-- A reading as a 16-bit two's complement field. -/
def temp16 (t : Int) : Nat := (BitVec.ofInt 16 t).toNat
def tempOf (v : Nat) : Int := (BitVec.ofNat 16 v).toInt

def State.diode (s : State) (i : Nat) : Int := tempOf (s.fld 0x2210 (i + 1) 15 0)
def State.diodeFail (s : State) (i : Nat) : Bool := s.bit 0x2210 (i + 1) 16

/-- Zone n of the lower leaves: 0 to 7 of L0, 8 to 15 of L2; its own diode, and the one above. -/
def zoneDiode (n : Nat) : Nat := if n < 8 then n else 16 + (n - 8)
def zoneUpper (n : Nat) : Nat := zoneDiode n + 8
def zoneOfDiode (i : Nat) : Option Nat := if i < 8 then some i else if 16 ≤ i ∧ i < 24 then some (i - 8) else none

/-- T_m of a zone, and whether it governs. -/
def State.model (s : State) (n : Nat) : Int := tempOf (s.fld 0x2211 (n + 1) 15 0)
def State.modelGov (s : State) (n : Nat) : Bool := s.bit 0x2211 (n + 1) 16
def State.setGov (s : State) (n : Nat) (b : Bool) : State :=
  (s.setBit 0x2211 (n + 1) 16 b).setBit 0x2220 2 (16 + n) b

/-- The governing value of a source (R452, R459). -/
def State.governing (s : State) (i : Nat) : Int :=
  if i < diodeCount then
    match zoneOfDiode i with
    | some n => if s.modelGov n then s.model n else s.diode i
    | none => s.diode i
  else tempOf (s.fld 0x2213 (i - diodeCount + 1) 15 0)

/-! ### Readings (R450, R451) -/

def Reading.temp? : Reading → Option Int
  | .temp t => some t
  | .failed => none

/-- A diode's front-end reports an open or a short. -/
def State.markFailed (s : State) (x : Sensors) : State :=
  (List.range diodeCount).foldl (fun s i =>
    if x.diodes[i]? = some .failed ∧ !s.diodeFail i then (s.setBit 0x2210 (i + 1) 16 true).event 0x2220 1 3 else s) s

/-- The hottest valid reading of a die. -/
def State.hottestOf (s : State) (x : Sensors) (die : Nat) : Option Int :=
  (((List.range diodeCount).filter fun i => diodeDie i == die && !s.diodeFail i).filterMap fun i =>
    (x.diodes[i]?).bind Reading.temp?).foldl (fun m t => some (match m with
      | some a => max a t
      | none => t)) none

/-- What a diode shows: its reading, or for a failed one the hottest of its die plus 5 °C; a die without
a valid diode keeps what it showed. -/
def State.showDiodes (s : State) (x : Sensors) : State :=
  let vals := (List.range diodeCount).map fun i =>
    if s.diodeFail i then (s.hottestOf x (diodeDie i)).map (· + 80) else (x.diodes[i]?).bind Reading.temp?
  let s := vals.zipIdx.foldl (fun s v => match v.1 with
    | some t => s.setFld 0x2210 (v.2 + 1) 15 0 (temp16 t)
    | none => s) s
  let blind := (List.range 7).any fun d =>
    ((List.range diodeCount).filter fun i => diodeDie i == d).all s.diodeFail
  { s with thermal := { s.thermal with blind := s.thermal.blind || blind } }

/-- While a die has no valid diode the thermal demand is 7, and THROT tells when that takes it from 0 (R451,
R454). -/
def State.blindDemand (s : State) : State :=
  let d := s.fld 0x2220 2 2 0
  if !s.thermal.blind ∨ d = 7 then s
  else
    let s := s.setFld 0x2220 2 2 0 7
    if d = 0 then s.event 0x2220 1 1 else s

def State.showTherms (s : State) (x : Sensors) : State :=
  (List.range 6).foldl (fun s i => match x.therms[i]? with
    | some t => s.setFld 0x2213 (i + 1) 15 0 (temp16 t)
    | none => s) s

/-! ### The middle layer (R458, R459) -/

/-- THETA × (2 P_l + P_c) × 0.016: θ is in 0.002 K/W, a degree is 16 units. -/
def State.modelTemp (s : State) (x : Sensors) (n : Nat) : Int :=
  let pl := x.zoneW.getD n 0
  let pc := x.quarterW.getD (n / 8 * 4 + n % 8 / 2) 0
  s.diode (zoneUpper n) + (s.fld 0x2211 (n + 1) 31 24 * (2 * pl + pc) * 16 / 1000 : Nat)

/-- Since when a condition holds. -/
def since (t : Tbl (Option Nat)) (n : Nat) (holds : Bool) (now : Nat) : Tbl (Option Nat) :=
  if holds then Tbl.put none t n ((Tbl.get none t n).or (some now)) else Tbl.put none t n none

/-- The model of every zone. A zone with a failed diode goes by its model. -/
def State.runModel (s : State) (x : Sensors) : State :=
  (List.range 16).foldl (fun s n =>
    let tm := s.modelTemp x n
    let s := s.setFld 0x2211 (n + 1) 15 0 (temp16 tm)
    let d := tm - s.diode (zoneDiode n)
    let s := { s with thermal := { s.thermal with
      apart := since s.thermal.apart n (decide (128 < d)) s.time.now
      close := since s.thermal.close n (decide (d ≤ 48)) s.time.now } }
    if s.diodeFail (zoneDiode n) && !s.modelGov n then (s.setGov n true).event 0x2220 1 3 else s) s

/-- 100 ms of difference, or of agreement, passes the zone over. -/
def State.governSwitch (s : State) (n : Nat) : State :=
  let held (t : Option Nat) : Bool := match t with
    | some a => s.passedNs a 100000000
    | none => false
  if s.modelGov n then
    if held (Tbl.get none s.thermal.close n) && !s.diodeFail (zoneDiode n) then s.setGov n false else s
  else if held (Tbl.get none s.thermal.apart n) then (s.setGov n true).event 0x2220 1 3
  else s

def execModelGovernSwitch (zone : Fin 16) (s : State) : Host.Outcome State Fault Refusal := .next (s.governSwitch zone)

/-! ### Warnings, bands and summaries (R410, R453, R460) -/

def maxOf (xs : List Int) : Int := xs.foldl max (xs.headD 0)

/-- TSUM. -/
def State.showSums (s : State) : State :=
  let leaf := maxOf ((List.range 32).map s.diode ++ (List.range 16).map s.model)
  let cad := maxOf (((List.range 8).map (32 + ·)).map s.diode)
  let s := (s.setFld 0x2200 1 15 0 (temp16 leaf)).setFld 0x2200 2 15 0 (temp16 cad)
  (s.setFld 0x2200 3 15 0 (s.fld 0x2213 1 15 0)).setFld 0x2200 4 15 0 (s.fld 0x2213 2 15 0)

/-- A source enters warning at its threshold, and leaves it 5 °C below. -/
def State.warnings (s : State) : State :=
  let now := sources.filter fun i =>
    let w := 16 * (thresholds i).1
    decide (w ≤ s.governing i) || (decide (i ∈ s.thermal.warn) && decide (w - 80 ≤ s.governing i))
  let first := s.thermal.warn == [] && now != []
  let s := { s with thermal := { s.thermal with warn := now } }
  (if first then s.event 0x2220 1 0 else s).noteErr

/-- The band of a caddy from its hottest diode (DEDUCED, log entry 30). -/
def nextCadBand (band : Nat) (t : Int) : Nat :=
  let up := ([3, 2, 1, 0].find? fun b => decide (16 * bandFloor b ≤ t)).getD 0
  if band ≤ up then up
  else (([3, 2, 1].filter (· ≤ band)).find? fun b => decide (16 * (bandFloor b - 5) < t)).getD 0

def State.cadBands (s : State) : State :=
  [0, 1].foldl (fun s c =>
    let t := maxOf ((List.range 4).map fun i => s.diode (32 + 4 * c + i))
    s.setFld 0x2201 (c + 1) 1 0 (nextCadBand (s.fld 0x2201 (c + 1) 1 0) t)) s

/-! ### Rate of rise (R456) -/

def sumI (xs : List Int) : Int := xs.foldl (· + ·) 0

/-- Keep the readings, and demand a slower step where a mean has risen by more than 1.5 °C in 100 ms. -/
def State.rateCheck (s : State) : State :=
  let hist := (List.range diodeCount).map fun i => (i, (s.diode i :: Tbl.get [] s.thermal.hist i).take 110)
  let s := { s with thermal := { s.thermal with hist := hist } }
  let rises := hist.any fun h => h.2.length == 110 && decide (240 < sumI (h.2.take 10) - sumI (h.2.drop 100))
  if !rises then s
  else
    let s := { s with thermal := { s.thermal with rateAt := s.time.now } }
    if s.thermal.rateStep.isSome then s
    else
      let s := { s with thermal := { s.thermal with rateStep := some (min 7 (s.step' + 1)) } }
      (s.setBit 0x2220 2 3 true).event 0x2220 1 1

def execRateDemandExpire (s : State) : Host.Outcome State Fault Refusal :=
  .next (if s.thermal.rateStep.isSome ∧ s.passedNs s.thermal.rateAt 100000000 then
      ({ s with thermal := { s.thermal with rateStep := none } }).setBit 0x2220 2 3 false
    else s)

/-! ### Shutdown (R455) -/

/-- Sources at or above their shutdown threshold less some degrees. -/
def State.atShutdown (s : State) (below : Int) : List Nat :=
  sources.filter fun i => match (thresholds i).2.2 with
    | some t => decide (16 * (t - below) ≤ s.governing i)
    | none => false

/-- Two successive readings of a source at its threshold shut the device down. -/
def State.shutCheck (s : State) : State :=
  let now := s.atShutdown 0
  let again := now.any fun i => decide (i ∈ s.thermal.atShut)
  let cool := s.bring.hot && s.atShutdown 5 == []
  let s := { s with
    thermal := { s.thermal with atShut := now }
    bring := { s.bring with hot := s.bring.hot && !cool, shut := s.bring.shut && !cool } }
  if again then
    let s := { s with bring := { s.bring with shut := true, hot := true }
                      power := { s.power with kettle := 0 } }
    (s.leavesOff.event 0x2220 1 2).enterFaulted
  else s

/-- The management island runs: the sensors are read in every state but OFF. -/
def State.islandOn (s : State) : Bool := decide (devStandby ≤ s.dev) && !s.bring.modRst

/-- One millisecond's readings. -/
def State.sense (s : State) (x : Sensors) : State :=
  if s.islandOn then
    (((((((((s.markFailed x).showDiodes x).blindDemand).showTherms x).runModel x).showSums).cadBands).warnings).rateCheck).shutCheck
  else s

def execSensorRead (x : Sensors) (s : State) : Host.Outcome State Fault Refusal := .next (s.sense x)

/-! ### The thermal demand (R454) -/

/-- Rise, fall or hold, every 10 ms. -/
def State.demandUpdate (s : State) : State :=
  if !s.islandOn || !s.passedNs s.thermal.demAt 10000000 then s
  else
    let s := { s with thermal := { s.thermal with demAt := s.time.now } }
    let d := s.fld 0x2220 2 2 0
    if sources.any fun i => decide (16 * (thresholds i).2.1 ≤ s.governing i) then
      let s := s.setFld 0x2220 2 2 0 (min 7 (d + 1))
      if d = 0 then s.event 0x2220 1 1 else s
    else if sources.all fun i => decide (s.governing i < 16 * ((thresholds i).2.1 - 5)) then
      s.setFld 0x2220 2 2 0 (if s.thermal.blind then d else d - 1)
    else s

def execThermalDemandUpdate (s : State) : Host.Outcome State Fault Refusal := .next s.demandUpdate

end Sys2Proof.Machine
end

