-- ==== Sys2Proof/Machine/Store.lean ====
section
/-! DEFINITION. The configuration area of the module flash: its layout, what a store and a restore write,
and how a start applies it (R412 to R417, R485). -/

namespace Sys2Proof.Machine

/-! ### Persistent entries -/

/-- Indices that hold persistent fields. -/
def persIndices : List Nat :=
  [0x1015, 0x1017, 0x1400, 0x1800, 0x1801, 0x2100, 0x2300, 0x2310, 0x2320, 0x2400, 0x2410, 0x2450,
   0x2460, 0x2461, 0x2500, 0x2620, 0x2810, 0x2881, 0x2882, 0x2890, 0x2900, 0x2901, 0x2904, 0x2910,
   0x2920, 0x2930, 0x2940, 0x2970, 0x2B00, 0x2B20, 0x2C00]

/-- Keys of the persistent entries, rising. -/
def persKeys : List Nat :=
  (persIndices.map fun idx =>
    let subs := ((rowsOf idx).filter fun r => r.2.2.pers != 0).map fun r =>
      (List.range (r.2.1 + 1 - r.1)).map (r.1 + ·)
    subs.flatten.map (regKey idx)).flatten

/-- The records a store writes: every persistent entry, whole. -/
def State.storeRecs (s : State) : List (Nat × Word64) :=
  persKeys.map fun k => (k, s.reg (k / 256) (k % 256))

/-! ### The area's bytes (R413, R414) -/

/-- One bit of the reflected CRC-32C. -/
def crcBit (c : Word32) : Word32 :=
  if c.getLsbD 0 then (c >>> 1) ^^^ 0x82F63B78 else c >>> 1

def crcBits : Nat → Word32 → Word32
  | 0, c => c
  | n + 1, c => crcBits n (crcBit c)

/-- CRC-32C of bytes. -/
def crc32c (bs : List Byte) : Word32 :=
  (bs.foldl (fun c b => crcBits 8 (c ^^^ b.setWidth 32)) 0xFFFFFFFF) ^^^ 0xFFFFFFFF

/-- One word of the soft-repair table: set, way and a valid bit, as SRDATA shows them (DEDUCED, log entry 86). -/
def repairWord (rows : List (Nat × Nat × Nat × Nat)) (i : Nat) : Nat :=
  match (rows.filter fun r => r.1 * 256 + r.2.1 == i / 4)[i % 4]? with
  | some r => r.2.2.1 + r.2.2.2 * 2 ^ 11 + 2 ^ 16
  | none => 0

/-- The 64 KiB of the area (DEDUCED, log entry 86). -/
def CfgArea.bytes (c : CfgArea) : List Byte :=
  let body := leBytes 4 0x46435A4E ++ leBytes 2 1 ++ leBytes 2 c.recs.length ++ leBytes 4 c.gen.toNat ++ leBytes 4 0
    ++ ((List.range 2048).map fun i => leBytes 4 (repairWord c.repairs i)).flatten
    ++ (c.recs.map fun r => leBytes 2 (r.1 / 256) ++ leBytes 1 (r.1 % 256) ++ leBytes 5 0 ++ leBytes 8 r.2.toNat).flatten
    ++ List.replicate (16 * (3582 - c.recs.length) + 12) 0xFF
  body ++ leBytes 4 (crc32c body).toNat

/-! ### Store and restore (R415, R416) -/

/-- CFGSTAT.GEN. -/
def State.cfgGen (s : State) : Word32 := (s.reg 0x2010 1).setWidth 32

def State.setClaim (s : State) (c : Option FlashClaim) : State :=
  { s with flash := { s.flash with claim := c } }

/-- A store begins: what it writes is taken now. -/
def State.storeBegin (s : State) : State :=
  let a : CfgArea := ⟨true, s.cfgGen + 1, s.storeRecs, s.flash.cfg.repairs⟩
  (({ s with flash := { s.flash with snap := a } }).setClaim (some .store)).setBit 0x2010 2 2 true

/-- A restore begins: no records, the soft-repair table as it stands. -/
def State.restoreBegin (s : State) : State :=
  let a : CfgArea := ⟨true, s.cfgGen + 1, [], s.flash.cfg.repairs⟩
  (({ s with flash := { s.flash with snap := a } }).setClaim (some .restore)).setBit 0x2010 2 2 true

/-- The area after a write: what was meant where it went well; else the manual does not say whether a
valid area is left (DESIGN CHOICE, log entry 82). -/
def State.areaAfter (s : State) (flashOk : Bool) : State :=
  if flashOk then
    { s with flash := { s.flash with cfg := { s.flash.snap with repairs := s.flash.cfg.repairs } } }.setReg 0x2010 1
      (s.flash.snap.gen.setWidth 64)
  else
    { s with flash := { s.flash with cfg := { s.flash.cfg with ok := s.flash.cfg.ok && s.freeWord.getLsbD 0 } } }.drawFree

/-- The claim is over. -/
def State.claimOver (s : State) : State := (s.setClaim none).setBit 0x2010 2 2 false

/-- What a start that cannot wait, or the loss of power, does to a store, a restore or an image write in
progress (R415, R417, R484) (DEDUCED, log entry 83). -/
def State.cutFlash (s : State) : State :=
  let f := s.flash
  let f := if f.claim = some .store ∨ f.claim = some .restore then { f with cfg := { f.cfg with ok := false } } else f
  let f := if f.claim = some .firmware then { f with image := none } else f
  { s with flash := { f with claim := none, op := none, svnTo := none } }

/-! ### A start applies the area (R412, R417) -/

/-- Two enables that claim one resource: of the second, the first. -/
def rivalOf (k : Nat) : Option (Nat × Nat) :=
  if k = regKey 0x2461 1 then some (regKey 0x2460 1, 0)
  else if k = regKey 0x2C00 1 then some (regKey 0x2882 1, 0)
  else none

/-- Bit of the second enable. -/
def rivalBit (k : Nat) : Nat := if k = regKey 0x2C00 1 then 5 else 0

/-- A record makes a second claim. -/
def State.recClash (s : State) (k : Nat) (v : Word64) : Bool :=
  match rivalOf k with
  | some (j, b) => v.getLsbD (rivalBit k) && s.bit (j / 256) (j % 256) b
  | none => false

/-- The value an entry takes from a record: its persistent bits alone. -/
def State.recValue (s : State) (k : Nat) (v : Word64) : Option Word64 :=
  match entryOf (k / 256) (k % 256) with
  | none => none
  | some e =>
    if e.pers = 0 then none
    else
      let w := (s.reg (k / 256) (k % 256) &&& ~~~e.pers) ||| (v &&& e.pers)
      if inRange (k / 256) (k % 256) w && !s.recClash k v then some w else none

/-- Apply one record, or skip and count it. -/
def State.applyRec (s : State) (r : Nat × Word64) : State :=
  match s.recValue r.1 r.2 with
  | some w => s.setReg (r.1 / 256) (r.1 % 256) w
  | none => s.setFld 0x2010 4 15 0 (min 65535 (s.fld 0x2010 4 15 0 + 1))

/-- Records of the communication part, 1000h to 1FFFh. -/
def isComm (k : Nat) : Bool := decide (0x100000 ≤ k ∧ k < 0x200000)

/-- The persistent communication entries take their stored values again (R422). -/
def State.reapplyComm (s : State) : State :=
  let s' := { s with regs := s.regs.filter fun e => !isComm e.1 }
  if s.flash.cfg.ok then
    (s.flash.cfg.recs.filter fun r => isComm r.1).foldl
      (fun s r => match s.recValue r.1 r.2 with
        | some w => s.setReg (r.1 / 256) (r.1 % 256) w
        | none => s) s'
  else s'

/-- Firmware checks the area during BOOT and applies it, the first enable of a resource before the second
(R412), or goes on with reset values. -/
def State.applyArea (s : State) : State :=
  let c := s.flash.cfg
  if c.ok && decide (c.recs.length ≤ 3582) then
    let s := s.setReg 0x2010 1 (c.gen.setWidth 64)
    let s := { s with
      flash := { s.flash with applied := some c }
      caddy := { s.caddy with repairs := c.repairs ++ s.caddy.unstored } }
    (c.recs.filter fun r => (rivalOf r.1).isSome).foldl State.applyRec
      ((c.recs.filter fun r => (rivalOf r.1).isNone).foldl State.applyRec s)
  else
    let s := { s with
      flash := { s.flash with applied := none, cfg := ⟨false, 0, [], []⟩ }
      caddy := { s.caddy with repairs := s.caddy.unstored } }
    (s.setReg 0x2010 1 0).event 0x2010 3 0

end Sys2Proof.Machine
end

