-- ==== Sys2Proof/Machine/Can.lean ====
section
/-! DEFINITION. The CAN FD port but for its ways into the dictionary: network management, heartbeat,
emergency messages, TPDO2, and the controller's error states (R418 to R427, R430). -/

namespace Sys2Proof.Machine

/-- CANSTAT.NMT and CANSTAT.BUS. -/
def State.nmt (s : State) : Nat := s.fld 0x2012 1 15 8
def State.canBus (s : State) : Nat := s.fld 0x2012 1 17 16
def nmtStopped : Nat := 4
def nmtOperational : Nat := 5
def nmtPre : Nat := 0x7F

/-- The port runs and its controller takes part in the bus. -/
def State.canOn (s : State) : Bool := s.can.running && s.canBus != 2

/-- (DEDUCED, log entry 91.) -/
def canNode : Nat := Config.canId.toNat

/-- Send a frame of an object with the port's node-ID. -/
def State.canSend (s : State) (base : Nat) (data : List Byte) : State :=
  if s.canOn then (s.emit (.can (base + canNode) data)).count 0x3001 3 else s

/-- A frame has been received and is one the port takes, or one it discards. -/
def State.canAccept (s : State) : State := s.count 0x3001 1
def State.canDiscard (s : State) : State := s.count 0x3001 5

/-! ### Network management (R420 to R422) -/

def State.setNmt (s : State) (n : Nat) : State := s.setFld 0x2012 1 15 8 n

/-- The boot-up message, and Operational at once (DEDUCED, log entry 89). -/
def State.bootUp (s : State) : State :=
  let s := (s.canSend 0x700 [0]).setNmt nmtOperational
  { s with can := { s.can with beatAt := s.time.now, pdo2At := s.time.now } }

/-- Firmware starts, and the port with it; a node-ID of 0 leaves it silent (DEDUCED, log entry 91). -/
def State.startCan (s : State) : State :=
  let s := { s with can := { State.reset.can with running := decide (canNode ≠ 0) } }
  if canNode ≠ 0 then s.bootUp else s

/-- An NMT command changes the state. -/
def State.nmtCommand (s : State) (n : Nat) : State := if s.canOn then s.canAccept.setNmt n else s

def execNmtStart (s : State) : Host.Outcome State Fault Refusal := .next (s.nmtCommand nmtOperational)
def execNmtStop (s : State) : Host.Outcome State Fault Refusal := .next (s.nmtCommand nmtStopped)
def execNmtEnterPreOperational (s : State) : Host.Outcome State Fault Refusal := .next (s.nmtCommand nmtPre)

/-- Both reset commands reset the port alone (DEDUCED, log entry 89). -/
def State.nmtReset (s : State) : State :=
  if s.canOn then
    let s := { s.canAccept with can := { s.can with emcy := [] } }
    s.reapplyComm.bootUp
  else s

def execNmtResetNode (s : State) : Host.Outcome State Fault Refusal := .next s.nmtReset
def execNmtResetCommunication (s : State) : Host.Outcome State Fault Refusal := .next s.nmtReset

/-! ### Heartbeat (R424) -/

def State.heartbeat (s : State) : State :=
  let t := s.fld 0x1017 0 15 0
  if s.canOn ∧ t ≠ 0 ∧ s.passedNs s.can.beatAt (1000000 * t) then
    let s := { s with can := { s.can with beatAt := s.can.beatAt + 1000000 * t * nsUnits } }
    s.canSend 0x700 [BitVec.ofNat 8 s.nmt]
  else s

def execHeartbeatSend (s : State) : Host.Outcome State Fault Refusal := .next s.heartbeat

/-! ### Emergency messages (R425) -/

def Emcy.bytes (e : Emcy) : List Byte :=
  leBytes 2 e.code.toNat ++ [e.err, 0] ++ leBytes 2 e.idx.toNat ++ [e.sub, e.bit] ++ leBytes 8 e.ft.toNat

/-- The gap that EMCYINH asks for has passed. -/
def State.emcyDue (s : State) : Bool :=
  match s.can.emcyAt with
  | some t => s.passedNs t (100000 * s.fld 0x1015 0 15 0)
  | none => true

def State.sendEmcy (s : State) : State :=
  match s.can.emcy with
  | [] => s
  | e :: es =>
    if s.canOn && (s.nmt == nmtOperational || s.nmt == nmtPre) && s.emcyDue then
      let s := { s with can := { s.can with emcy := es, emcyAt := some s.time.now } }
      (s.canSend 0x080 e.bytes).count 0x3001 9
    else s

def execEmcySend (s : State) : Host.Outcome State Fault Refusal := .next s.sendEmcy

/-! ### TPDO2 (R427, R429) -/

def State.tpdo2Bytes (s : State) : List Byte :=
  leBytes 8 s.ftNs ++ leBytes 1 (s.reg 0x2B00 1).toNat ++ leBytes 1 s.errReg ++ leBytes 2 (s.fld 0x2100 1 15 0)
    ++ leBytes 2 (s.fld 0x2100 2 15 0)
    ++ ((List.range 4).map fun i => leBytes 2 (s.fld 0x2200 (i + 1) 15 0)).flatten
    ++ leBytes 1 s.ftState ++ [0]

/-- A period has passed, or a change is to be reported and the inhibit time has passed. -/
def State.tpdo2Due (s : State) : Bool :=
  let timer := s.fld 0x1801 5 15 0
  (timer != 0 && s.passedNs s.can.pdo2At (1000000 * timer))
    || (s.can.pdo2Due && s.passedNs s.can.pdo2At (100000 * s.fld 0x1801 3 15 0))

def State.sendTpdo2 (s : State) : State :=
  if s.canOperational && s.canOn && !s.bit 0x1801 1 31 && s.tpdo2Due then
    let data := s.tpdo2Bytes
    let s := { s with can := { s.can with pdo2At := s.time.now, pdo2Due := false } }
    s.canSend 0x280 data
  else s

def execTpdo2Send (s : State) : Host.Outcome State Fault Refusal := .next s.sendTpdo2

/-! ### Error states of the controller (R418, R425) -/

/-- BUS for a pair of error counts (ISO 11898-1) (PRESUMED, log entry 90). -/
def busOf (tec rec : Nat) : Nat := if 255 < tec then 2 else if 127 < tec ∨ 127 < rec then 1 else 0

/-- The error counts change; bus-off is left by recovery alone. -/
def State.busError (s : State) (tec rec : Nat) : State :=
  if !s.canOn then s
  else
    let old := s.canBus
    let b := busOf tec rec
    let s := (s.setFld 0x2012 1 39 32 (min 255 tec)).setFld 0x2012 1 47 40 (min 255 rec)
    let s := s.setFld 0x2012 1 17 16 b
    let s := if b = 2 then s.count 0x3001 0x0D else s
    let s := if b = 1 ∧ old ≠ 1 then s.emergency 0x8120 0x2012 1 16 else s
    s.noteErr

def execCanBusError (tec rec : Nat) (s : State) : Host.Outcome State Fault Refusal := .next (s.busError tec rec)

/-- 128 occurrences of 11 recessive bits. -/
def State.busRecovered (s : State) : State :=
  if s.can.running && s.canBus == 2 then
    let s := ((s.setFld 0x2012 1 17 16 0).setFld 0x2012 1 39 32 0).setFld 0x2012 1 47 40 0
    (s.unnamedEmergency 0x8140).noteErr
  else s

def execBusOffRecovery (s : State) : Host.Outcome State Fault Refusal := .next s.busRecovered

end Sys2Proof.Machine
end

