-- ==== Sys2Proof/Machine/Image.lean ====
section
/-! DEFINITION. Firmware images: their layout, verification, BAR4's staging buffer and its commands, the
security version counter, and evidence (R479 to R490). -/

namespace Sys2Proof.Machine

/-! ### Verification (R480, R481) -/

/-- A little-endian field of bytes. -/
def leField (bs : List Byte) (off n : Nat) : Nat := leNat ((bs.drop off).take n)

def Image.bodyLen (i : Image) : Nat := leField i.header 8 4
def Image.version (i : Image) : Nat := leField i.header 0x0C 4
def Image.svn (i : Image) : Nat := leField i.header 0x10 8

/-- Magic, format, L and security version are as the layout asks. -/
def Image.headerOk (i : Image) : Bool :=
  leField i.header 0 4 == 0x4D495A4E && leField i.header 4 2 == 1
    && decide (4096 ≤ i.bodyLen ∧ i.bodyLen ≤ 16764928 ∧ i.bodyLen % 4096 = 0) && decide (i.svn ≤ 64)

/-- Verification results. -/
def romValid : Nat := 1
def romBusy : Nat := 0xA
def romNotAllowed : Nat := 9
def romFlashFailed : Nat := 8

/-- The first check that fails gives the result; poison met while a check reads gives 7. `pois a n`: a byte
of [a, a + n) is poisoned. -/
def verifyImage (svn : Nat) (i : Image) (pois : Nat → Nat → Bool) : Nat :=
  if pois 0 0x20 then 7
  else if !i.headerOk then 2
  else if pois 0x60 1952 then 7
  else if Config.shake256 ((i.header.drop 0x60).take 1952) != Config.vendorKeyDigest then 3
  else if i.svn < svn then 4
  else if pois 0 0x14ED then 7
  else if !Config.imageSignatureValid (i.header.take 0x14ED) then 5
  else if pois 0x20 64 || pois 0x2000 i.bodyLen then 7
  else if Config.shake256 i.body != (i.header.drop 0x20).take 64 then 6
  else romValid

/-- The result for the image in flash. -/
def State.flashResult (s : State) : Nat :=
  match s.flash.image with
  | some i => verifyImage s.flash.svn i fun _ _ => false
  | none => 2

/-! ### The staging buffer (R483) -/

def stagingSize : Nat := 0x0FFF000

/-- The staged image. -/
def State.staged (s : State) : Image :=
  let h := Mem.read s.flash.staging 0 0x2000
  let l := leField h 8 4
  ⟨h, if l ≤ 16764928 then Mem.read s.flash.staging 0x2000 l else []⟩

/-- Some byte of a range of the staging buffer is poisoned. -/
def State.stagePois (s : State) (a n : Nat) : Bool :=
  s.flash.stagePois.any fun u => decide (32 * u < a + n ∧ a < 32 * u + 32)

def State.stagedResult (s : State) : Nat := verifyImage s.flash.svn s.staged s.stagePois

/-- 32-byte units of a write that it covers whole, and those it touches. -/
def unitsOf (a n : Nat) : List Nat := (List.range ((a + n + 31) / 32 - a / 32)).map (a / 32 + ·)
def coversUnit (a n u : Nat) : Bool := decide (a ≤ 32 * u ∧ 32 * u + 32 ≤ a + n)

/-- Bytes enter the staging buffer; a unit a poisoned write touches is poisoned until a clean write covers
it. -/
def State.stage (s : State) (a : Nat) (data : List Byte) (poisoned : Bool) : State :=
  let us := unitsOf a data.length
  let kept := s.flash.stagePois.filter fun u => !(coversUnit a data.length u)
  let pois := if poisoned then kept.filter (· ∉ us) ++ us else kept
  { s with flash := { s.flash with staging := Mem.write s.flash.staging a data, stagePois := pois } }

/-- FWSTAT as BAR4 shows it (R483). -/
def State.fwStat (s : State) : Word64 :=
  packWord [(s.flash.op.isSome.toNat, 0), (s.flash.result, 1), (s.bring.romWait.toNat, 5)]

/-- BAR4 serves requests (R383). -/
def State.bar4On (s : State) : Bool := decide (devBoot ≤ s.dev) && !s.deaf

/-! ### Commands on BAR4 (R483 to R486) -/

def State.setResult (s : State) (r : Nat) : State := { s with flash := { s.flash with result := r } }

/-- A write to FWCMD. While a command runs it is discarded. -/
def State.fwCommand (s : State) (op : Nat) : State :=
  if !s.bar4On || s.flash.op.isSome then s
  else if op = 2 ∧ s.flash.claim.isSome then s.setResult romBusy
  else if op = 1 ∨ op = 2 ∨ (op = 3 ∧ s.bring.romWait) then
    let s := { s with flash := { s.flash with op := some op } }
    if op = 2 then s.setClaim (some .firmware) else s
  else s.setResult romNotAllowed

def execFwVerify (s : State) : Host.Outcome State Fault Refusal := .next (s.fwCommand 1)
def execFwVerifyWrite (s : State) : Host.Outcome State Fault Refusal := .next (s.fwCommand 2)
def execFwVerifyRun (s : State) : Host.Outcome State Fault Refusal := .next (s.fwCommand 3)

/-- Offsets of BAR4: the staging buffer, then the control page (DEDUCED, log entry 102). -/
def State.bar4Write (s : State) (off : Nat) (data : List Byte) (poisoned : Bool) : State :=
  if !s.bar4On || s.flash.op.isSome then s
  else if off + data.length ≤ stagingSize then s.stage off data poisoned
  else if off = stagingSize ∧ data.length = 4 ∧ !poisoned then s.fwCommand (leNat data % 16)
  else s

def execBar4StagingWrite (off : Nat) (data : List Byte) (poisoned : Bool) (s : State) :
    Host.Outcome State Fault Refusal :=
  let s := if poisoned && s.bar4On then s.poisonedTlp else s
  .next (s.bar4Write off data poisoned)

/-- Firmware starts from an image (R473, R486), and the CAN port with it. -/
def State.runImage (s : State) (i : Image) (recovery : Bool) : State :=
  let s := { s with
    bring := { s.bring with firmware := true, rom := false, romWait := false }
    flash := { s.flash with running := i.header.take 0x800, evAt := s.time.now } }
  let s := s.startCan
  if recovery then s.setDevWord (withField (s.reg 0x2B00 1) 4 4 1) else s

/-- The command that runs on BAR4 ends. An image that is written is compared; one that fails any check
leaves the old image in flash (DEDUCED, log entry 83). -/
def State.fwDone (s : State) (flashOk : Bool) : State :=
  match s.flash.op with
  | none => s
  | some op =>
    let r := s.stagedResult
    let i := s.staged
    let s := { s with flash := { s.flash with op := none } }
    let s := if op = 2 then s.setClaim none else s
    if r ≠ romValid then s.setResult r
    else if op = 2 then
      if flashOk then ({ s with flash := { s.flash with image := some i } }).setResult romValid
      else s.setResult romFlashFailed
    else if op = 3 then (s.setResult romValid).runImage i true
    else s.setResult romValid

def execFwCommandDone (flashOk : Bool) (s : State) : Host.Outcome State Fault Refusal := .next (s.fwDone flashOk)

/-- The boot ROM has verified the image in flash: firmware starts, or the ROM waits. -/
def State.verifyDone (s : State) : State :=
  if !s.bring.rom || s.bring.modRst || s.dev = devOff then s
  else
    let r := s.flashResult
    let s := s.setFld 0x2B00 4 3 0 r
    match s.flash.image with
    | some i =>
      if r = romValid then s.runImage i false
      else { s with bring := { s.bring with rom := false, romWait := true } }
    | none => { s with bring := { s.bring with rom := false, romWait := true } }

def execFirmwareVerifyDone (s : State) : Host.Outcome State Fault Refusal := .next s.verifyDone

/-! ### The security version counter (R482, R490) -/

def State.imgSvn (s : State) : Nat := leField s.flash.running 0x10 8 % 128

/-- The fuses are blown. -/
def State.fusesBlown (s : State) : State :=
  match s.flash.svnTo with
  | some n => { s with flash := { s.flash with svn := max s.flash.svn n, svnTo := none } }
  | none => s

def execSvnFuseDone (s : State) : Host.Outcome State Fault Refusal := .next s.fusesBlown

/-- SECSTAT (2D00:01). -/
def State.secStat (s : State) : Word64 :=
  packWord [(s.flash.svn, 0), (s.imgSvn, 8), ((s.bring.firmware && Config.endorsed).toNat, 15),
    (s.flash.fresh.isSome.toNat, 16)]

/-! ### Evidence (R488, R489) -/

/-- The first 344 bytes (DEDUCED, log entry 87). -/
def State.evidenceBody (s : State) (nonce : List Byte) : List Byte :=
  let f := s.flash
  leBytes 4 0x56455A4E ++ leBytes 2 1 ++ leBytes 2 3653
    ++ (List.range 32).map (fun i => nonce.getD i 0)
    ++ leBytes 8 Config.serial.toNat ++ leBytes 8 s.ftNs ++ leBytes 4 (s.reg 0x2B00 1).toNat
    ++ leBytes 4 (leField f.running 0x0C 4) ++ leBytes 8 f.svn ++ leBytes 8 (leField f.running 0x10 8)
    ++ leBytes 8 (s.reg 0x2500 1).toNat
    ++ Config.bootRomDigest ++ Config.shake256 f.running
    ++ (match f.applied with
      | some a => Config.shake256 a.bytes
      | none => List.replicate 64 0)
    ++ Config.shake256 (Config.vendorKeyDigest ++ leBytes 8 (2 ^ f.svn - 1))

def State.evidenceDoc (s : State) (nonce : List Byte) : List Byte :=
  s.evidenceBody nonce ++ Config.signEvidence (s.evidenceBody nonce)

/-- Standing evidence is due: 10 s have passed, or DEVSTATE has changed since it was made. -/
def State.evidenceDue (s : State) : Bool :=
  s.bring.firmware && (s.flash.evidence == [] || s.passedNs s.flash.evAt 10000000000
    || leField s.flash.evidence 0x38 4 != (s.reg 0x2B00 1).toNat)

def State.makeStanding (s : State) : State :=
  if s.evidenceDue then
    { s with flash := { s.flash with evidence := s.evidenceDoc [], evAt := s.time.now } }
  else s

def execStandingEvidence (s : State) : Host.Outcome State Fault Refusal := .next s.makeStanding

/-- Fresh evidence asked for over MCTP is sent. -/
def State.freshReady (s : State) : State :=
  match s.flash.fresh with
  | none => s
  | some n => ({ s with flash := { s.flash with fresh := none } }).emit (.evidence 0 (s.evidenceDoc n))

def execEvidenceReady (s : State) : Host.Outcome State Fault Refusal := .next s.freshReady

end Sys2Proof.Machine
end

