-- ==== Sys2Proof/Machine/Repair.lean ====
section
/-! DEFINITION. Wear: lines and lanes and their spares, retired channels, exchange groups, ageing; and the
commands of snapshots and of the PPS output (R22, R23, R30, R491 to R498, R504). -/

namespace Sys2Proof.Machine

/-! ### Lines of the vertical channels (R491, R492) -/

/-- The caddies run: from POWERING on. -/
def State.caddiesOn (s : State) : Bool := decide (devPowering ≤ s.dev)

def State.setChan (s : State) (cad ch : Nat) (c : Chan) : State :=
  { s with lanes := { s.lanes with chans := Tbl.put Chan.init s.lanes.chans (256 * cad + ch) c } }

/-- Spare lines of a channel not yet taken: of 64, those fused in and those assigned or awaited. -/
def State.freeSpares (s : State) (cad ch : Nat) : Nat :=
  64 - min 64 (Config.fusedSpares (256 * cad + ch)) - (s.chan cad ch).lines.length - (s.chan cad ch).wait.length

/-- A change waits to enter the lane repair record (R493). -/
def State.lanesDue (s : State) : State := { s with flash := { s.flash with lanesDue := true } }

/-- A point of a route, once a channel and its slice are out of service. -/
def State.pointNow (s : State) (m : Master) : ArbPoint → ArbPoint
  | .channel cad ch d =>
    match m.cluster? with
    | some cl => if (s.chan cad.val ch.val).out then .channel cad (byteFin (s.channelFor cl ch.val)) d else .channel cad ch d
    | none => .channel cad ch d
  | .sliceRead cad sl => .sliceRead cad (byteFin (s.sliceFor cad.val sl.val))
  | .sliceWrite cad sl => .sliceWrite cad (byteFin (s.sliceFor cad.val sl.val))
  | p => p

/-- Requests on their way and prefetches noted go by what is in service (R155, R189). -/
def State.reroute (s : State) : State :=
  { s with
    reqs := s.reqs.map fun r => { r with route := r.route.map (s.pointNow r.master) }
    caddy := { s.caddy with notes := s.caddy.notes.map fun n => (n.1 / 256 * 256 + s.sliceFor (n.1 / 256) (n.1 % 256), n.2) } }

/-- Retire a channel and its slice with it (R189, R492) (DEDUCED, log entry 77). -/
def State.retire (s : State) (cad ch : Nat) : State :=
  let s := s.emptySlice cad ch
  let s := s.setChan cad ch { s.chan cad ch with ret := true, back := false, wait := [] }
  ((s.loseSlice cad).reroute.lanesDue).degrade

/-- A line qualifies: the channel is held for a spare, or retired (DEDUCED, log entry 77)
(DESIGN CHOICE, log entry 78). -/
def State.lineOut (s : State) (cad ch line : Nat) (thru : Bool) : State :=
  let c := s.chan cad ch
  if c.out || decide (line ∈ c.lines) || decide (line ∈ c.wait) then s
  else
    let free := s.freeSpares cad ch
    let s := s.setChan cad ch { c with main := c.main || !thru }
    if 0 < free then s.setChan cad ch { s.chan cad ch with wait := c.wait ++ [line] }
    else s.retire cad ch

/-- The spare is switched in, and the channel released. -/
def State.lineSpare (s : State) (cad ch line : Nat) : State :=
  let c := s.chan cad ch
  if line ∈ c.wait then
    (s.setChan cad ch { c with lines := c.lines ++ [line], wait := c.wait.filter (· ≠ line) }).lanesDue
  else s

/-- Channels of a caddy that count under R470 (R492). -/
def State.retCount (s : State) (cad : Nat) : Nat :=
  ((List.range 256).filter fun ch => (s.chan cad ch).out).length

/-! ### The exchange (R22, R23) -/

def exKey (pot group dir : Nat) : Nat := 4 * pot + 2 * group + dir

/-- Clusters 16 ℓ to 16 ℓ + 15. -/
def leafMask (leaf : Nat) : Word64 := mask (16 * leaf + 15) (16 * leaf)

/-- Park a leaf: its cells and clocks stop, its clusters report as parked (R30). -/
def State.parkLeaf (s : State) (leaf : Nat) : State :=
  let m := leafMask leaf
  let s := s.setReg 0x2500 1 (s.reg 0x2500 1 &&& ~~~m)
  let s := s.setReg 0x2500 2 (s.reg 0x2500 2 &&& ~~~m)
  let s := s.setReg 0x2500 3 (s.reg 0x2500 3 ||| m)
  { s with bring := { s.bring with leafOn := s.bring.leafOn &&& ~~~((1 : BitVec 4) <<< leaf) } }

/-- Jobs that run on a cluster of a pot. -/
def State.jobsOnPot (s : State) (pot : Nat) : List Job :=
  s.seq.jobs.filter fun j => (s.clustersOf j.id).any fun c => c / 32 == pot

/-- Tokens of each caddy's pinned share (R184). -/
def State.fillTokens (s : State) : State :=
  [0, 1].foldl (fun (s : State) c => s.setTokFree c (s.pinWays * 2048 * s.liveSlices c : Nat)) s

/-- A pot runs in lead: the upper leaf is parked, and channels retired for their pass-through path alone
serve the lower leaf again. -/
def State.lead (s : State) (pot : Nat) : State :=
  let s := (s.setFld 0x2300 0x10 (5 + 2 * pot) (4 + 2 * pot) 1).parkLeaf (2 * pot + 1)
  let cs := s.lanes.chans.map fun e =>
    (e.1, if e.1 / 256 = pot ∧ e.2.ret ∧ !e.2.main then { e.2 with back := true } else e.2)
  { s with lanes := { s.lanes with chans := cs } }

/-- Firmware forces a pot into lead, whatever its MODE asks (R29). -/
def State.forceLead (s : State) (pot : Nat) : State := (s.setBit 0x2300 0x10 (8 + pot) true).lead pot

/-- The pot's last exchange group is gone (DEDUCED, log entry 76). -/
def State.exchangeLost (s : State) (pot : Nat) : State :=
  let js := s.jobsOnPot pot
  let b : Blame := js.map fun j => (j.id, 0x0D, 0, 0)
  let s := s.setBit 0x2300 0x10 (12 + pot) true
  let s := s.setBit 0x2300 0x10 (10 + pot) false
  let cs := (List.range 16).filter fun c => js.any fun j => j.ctx.val == c
  let s := cs.foldl (fun s c => s.killContext c 0x0D b) s
  (s.parkLeaf (2 * pot + 1)).degrade

def State.groupDead (s : State) (pot group : Nat) : Bool := decide (2 * pot + group ∈ s.lanes.dead)

/-- A group is disabled in both directions. Where the second one goes at the training in POWERING, the pot is forced
into lead (R29); later, it has lost its exchange (R23). -/
def State.disableGroup (s : State) (pot group : Nat) : State :=
  let s := { s with lanes := { s.lanes with dead := s.lanes.dead ++ [2 * pot + group] } }
  if s.groupDead pot (1 - group) then
    (if s.dev = devPowering then ((s.setBit 0x2300 0x10 (10 + pot) false).forceLead pot).fillTokens else s.exchangeLost pot)
  else (s.setBit 0x2300 0x10 (10 + pot) true).degrade

def State.lostLanes (s : State) (k : Nat) : List Nat := Tbl.get [] s.lanes.lost k
def State.heldLanes (s : State) (k : Nat) : Nat := (s.lanes.held.filter fun h => h.1 == k).length

def State.loseLane (s : State) (k lane : Nat) : State :=
  ({ s with lanes := { s.lanes with
      lost := Tbl.put [] s.lanes.lost k (s.lostLanes k ++ [lane])
      held := s.lanes.held.filter (· ≠ (k, lane)) } }).lanesDue

/-- A lane qualifies: it waits for one of the four spares, or is the fifth loss (DESIGN CHOICE, log entry 78). -/
def State.laneOut (s : State) (pot group dir lane : Nat) : State :=
  let k := exKey pot group dir
  if s.groupDead pot group || s.potCfg pot == 1 || decide (lane ∈ s.lostLanes k)
    || decide ((k, lane) ∈ s.lanes.held) then s
  else if (s.lostLanes k).length + s.heldLanes k < 4 then
    { s with lanes := { s.lanes with held := s.lanes.held ++ [(k, lane)] } }
  else (s.loseLane k lane).disableGroup pot group

def State.laneSpare (s : State) (pot group dir lane : Nat) : State :=
  let k := exKey pot group dir
  if (k, lane) ∈ s.lanes.held then s.loseLane k lane else s

def State.qualify (s : State) (l : LineId) (errs : Nat) : State :=
  if !s.caddiesOn || decide (errs < s.fld 0x2B20 4 7 0) then s
  else
    match l with
    | .channel cad ch line thru => s.lineOut cad.val ch.val line.val thru
    | .lane pot g d ln => s.laneOut pot.val g.val d.val ln.val

def execLineQualify (l : LineId) (errs : Nat) (s : State) : Host.Outcome State Fault Refusal :=
  .next (s.qualify l errs)

def State.spareIn (s : State) (l : LineId) : State :=
  match l with
  | .channel cad ch line _ => s.lineSpare cad.val ch.val line.val
  | .lane pot g d ln => s.laneSpare pot.val g.val d.val ln.val

def execSpareLineSwitch (l : LineId) (s : State) : Host.Outcome State Fault Refusal := .next (s.spareIn l)

/-! ### The lane repair record (R493) -/

/-- What the record says of a channel. -/
def Chan.recorded (c : Chan) : Chan := { c with wait := [], back := false }

def State.laneRec (s : State) : LaneRec :=
  ⟨(s.lanes.chans.map fun e => (e.1, e.2.recorded)).filter fun e => e.2 ≠ Chan.init, s.lanes.lost⟩

/-- Firmware may write a record: no claim holds the flash (R485). -/
def State.mayRecord (s : State) : Bool := s.bring.firmware && s.flash.claim.isNone

def State.writeLanes (s : State) : State :=
  if s.flash.lanesDue && s.mayRecord then
    { s with flash := { s.flash with lanes := some s.laneRec, lanesDue := false } }
  else s

def execLaneRepairRecordWrite (s : State) : Host.Outcome State Fault Refusal := .next s.writeLanes

/-- The record is applied during BOOT: groups that have lost a fifth lane are disabled. A change that still
waits to be written counts as recorded. -/
def State.applyLanes (s : State) : State :=
  let r := if s.flash.lanesDue then s.laneRec else s.flash.lanes.getD ⟨[], []⟩
  let dead := (List.range 4).filter fun g => [0, 1].any fun d => decide (5 ≤ (Tbl.get [] r.lost (2 * g + d)).length)
  { s with lanes := ⟨r.chans, r.lost, [], dead⟩ }

/-! ### Ageing (R494, R495) -/

def hourUnits : Nat := 3600 * 1000000000 * nsUnits

def State.hours (s : State) : Nat := s.age.units / hourUnits

def State.replanDue (s : State) : State :=
  if s.age.lastAt + 168 * hourUnits ≤ s.age.units then { s with age := { s.age with due := true } } else s

def execAgeingReplanDue (s : State) : Host.Outcome State Fault Refusal := .next s.replanDue

/-- A due re-plan may run. -/
def State.replanReady (s : State) : Bool :=
  s.age.due && !s.age.running
    && (s.dev == devChecking
      || ((s.dev == devReady || s.dev == devDegraded)
        && !(s.seq.jobs.any fun j => j.type == 1 && j.started.isSome)
        && !(s.seq.jobs.any fun j => decide (s.ftNs ≤ j.nbt ∧ j.nbt < s.ftNs + 100000000))))

/-- The need of a sweep: v_min of each step, none where no setting passed. -/
def replanNeed (vmin : List (Option Int)) : Int :=
  ((List.range 8).map fun n => match vmin.getD n none with
    | some v => v - (baseMv n : Int)
    | none => 75).foldl max (-45) + 15

/-- The re-plan's result is set, and waits to be logged (DESIGN CHOICE, log entry 88). -/
def State.replan (s : State) (vmin : List (Option Int)) : State :=
  if !s.replanReady then s
  else
    let need := replanNeed vmin
    let off := max (-30) (min 30 need)
    let entry := packWord [(s.ftNs / 1000000000 % 2 ^ 32, 0), (s.hours % 2 ^ 16, 32),
      ((BitVec.ofInt 8 need).toNat, 48), ((BitVec.ofInt 8 off).toNat, 56)]
    let s := { s with
      power := { s.power with kettle := 0 }
      age := { s.age with offset := off, need := need, lastAt := s.age.units, due := false, running := true
                          log := (entry :: s.age.log).take 16 }
      flash := { s.flash with ageDue := true } }
    let s := s.retarget s.power.target
    if 45 < need then s.setDevWord (withField (s.reg 0x2B00 1) 5 5 1) else s

def execAgeingReplan (vmin : List (Option Int)) (s : State) : Host.Outcome State Fault Refusal :=
  .next (s.replan vmin)

/-- The result is written, and COMPUTE starts are released (DESIGN CHOICE, log entry 88). -/
def State.writeAge (s : State) : State :=
  if s.flash.ageDue && s.mayRecord then
    { s with
      flash := { s.flash with
        age := some ⟨s.age.offset, s.age.need, s.age.lastAt, s.bit 0x2B00 1 5, s.age.log⟩, ageDue := false }
      age := { s.age with running := false } }
  else s

def execAgeingLogWrite (s : State) : Host.Outcome State Fault Refusal := .next s.writeAge

/-- Firmware reads the ageing log during BOOT. -/
def State.applyAge (s : State) : State :=
  match s.flash.age with
  | some a =>
    let a := if s.flash.ageDue then ⟨s.age.offset, s.age.need, s.age.lastAt, a.eol || decide (45 < s.age.need), s.age.log⟩ else a
    let s := { s with age := { s.age with offset := a.offset, need := a.need, lastAt := a.lastAt, log := a.entries
                                          running := false } }
    if a.eol then s.setDevWord (withField (s.reg 0x2B00 1) 5 5 1) else s
  | none =>
    if s.flash.ageDue then
      let s := { s with age := { s.age with running := false } }
      if 45 < s.age.need then s.setDevWord (withField (s.reg 0x2B00 1) 5 5 1) else s
    else { s with age := ⟨0, 0, 0, 0, true, false, []⟩ }

/-! ### Snapshots and the PPS output (R496 to R498, R504) -/

/-- FT passed a time in the last clock. -/
def State.ftReached (s : State) (units : Nat) : Bool := decide (s.time.ftPrev < units ∧ units ≤ s.time.ft)

def State.snapFt (s : State) : State :=
  if s.bit 0x2C00 1 2 && s.spoutOn && s.ftReached ((s.reg 0x2C00 2).toNat * nsUnits) then s.snapTrigger .ft else s

def execSnapshotFtMatch (s : State) : Host.Outcome State Fault Refusal := .next s.snapFt

def State.snapPin (s : State) : State :=
  if s.bit 0x2C00 1 3 && s.spoutOn then s.snapTrigger .pin else s

def execSnapInEdge (s : State) : Host.Outcome State Fault Refusal := .next s.snapPin

/-- Firmware has copied the latched values. -/
def State.snapCopied (s : State) : State :=
  if s.snap.copying && s.bring.firmware then
    ({ s with snap := { s.snap with copying := false } }).setBit 0x2C00 3 20 true
  else s

def execSnapshotCopyDone (s : State) : Host.Outcome State Fault Refusal := .next s.snapCopied

/-- SYNC_OUT rises at an FT second while PPSOUT.EN is 1. -/
def State.ppsOut (s : State) : State :=
  if s.bit 0x2882 1 0 && s.spoutOn && s.ftReached (s.time.ft / secUnits * secUnits) then s.emit (.syncOut s.time.ft) else s

def execPpsOutPulse (s : State) : Host.Outcome State Fault Refusal := .next s.ppsOut

end Sys2Proof.Machine
end

