-- ==== Sys2Proof/Machine/Bringup.lean ====
section
/-! DEFINITION. Device states: standby power, starts and their phases, faults, and the module reset input
(R464 to R478, R499 to R502). -/

namespace Sys2Proof.Machine

/-! ### What stops (R43, R46, R170, R434, R466) -/

/-- Everything outside the management island stops and loses its state. -/
def State.stopDomains (s : State) : State :=
  { s with
    clusters := [], mcasts := [], reqs := [], arb := []
    caddy := { State.reset.caddy with repairs := s.caddy.repairs, unstored := s.caddy.unstored }
    hbm := { s.hbm with queue := [], selfRef := false }
    seq := State.reset.seq, fabric := State.reset.fabric, link := State.reset.link
    lanes := { s.lanes with held := [] }
    power := { s.power with kettle := 0, starts := 0, cut := 0, overCnt := 0, underCnt := 0, outCnt := 0 }
    bring := { s.bring with waves := [], leafOn := 0, checked := false, kat := 0, marched := 0 } }

/-- Enter STANDBY from a running state. -/
def State.toStandby (s : State) : State :=
  if s.dev ≤ devStandby then s
  else
    let s := s.stopDomains.enter devStandby
    { s with time := { s.time with tod := none } }

/-- The input has been outside 330 V to 440 V for 10 slots. -/
def State.inputOut (s : State) : State :=
  if s.power.outCnt < 10 || s.dev == devOff then s
  else
    let s := { s with bring := { s.bring with hv := false } }
    s.toStandby

def execInputOutOfRange (s : State) : Host.Outcome State Fault Refusal := .next s.inputOut

/-! ### The first clock of a start (R46, R471, R473, R478) -/

/-- DEVSTATE in BOOT. -/
def bootWord (cold : Bool) (cause : Nat) : Word64 := packWord [(devBoot, 0), ((!cold).toNat, 6), (cause, 8)]

/-- Entries that a warm restart keeps: the snapshot's, and THEVENT.SHUT. -/
def State.keptRegs (s : State) (cold : Bool) : Tbl Word64 :=
  if cold then []
  else s.regs.filter fun e => decide (0x2C0003 ≤ e.1 ∧ e.1 ≤ 0x2C0004) || decide (0x2C1001 ≤ e.1 ∧ e.1 ≤ 0x2C1040)

/-- FTSTAT.STATE at the first clock: HOLDOVER where a warm restart finds FT locked (DEDUCED, log entry 79). -/
def State.ftAtStart (s : State) (cold : Bool) : Nat := if !cold && s.ftState == ftLocked then ftHoldover else ftFree

/-- Every domain reset, and the boot ROM runs (DESIGN CHOICE, log entry 80) (DESIGN CHOICE, log entry 81). -/
def State.restarted (s : State) (cold : Bool) : State :=
  let f := s.flash
  let r := State.reset
  { r with
    pending := s.pending, out := s.out, free := s.free
    regs := s.keptRegs cold
    time := { r.time with ft := if cold then 0 else s.time.ft, ftPrev := if cold then 0 else s.time.ft }
    caddy := { r.caddy with unstored := s.caddy.unstored }
    hbm := { r.hbm with mem := s.hbm.mem, poison := s.hbm.poison
                        absent := if cold then 0 else s.hbm.absent, selfRef := !cold }
    bring := { r.bring with cold := cold, bootPrev := s.bring.bootPrev }
    flash := { r.flash with
      image := f.image, cfg := f.cfg, lanes := f.lanes, lanesDue := f.lanesDue, age := f.age, ageDue := f.ageDue
      staging := f.staging, stagePois := f.stagePois, svn := f.svn }
    age := s.age, lanes := s.lanes
    snap := if cold then r.snap else { s.snap with copying := false, latched := none } }

/-- A cold start or a warm restart begins. -/
def State.startNow (s : State) (cold : Bool) (cause : Nat) : State :=
  let s := s.cutFlash
  let t := (s.restarted cold).setReg 0x2B00 1 (bootWord cold cause)
  let t := t.setFld 0x2881 2 1 0 (s.ftAtStart cold)
  if !cold then t.setBit 0x2220 1 2 (s.bit 0x2220 1 2) else t

/-! ### Standby power and the input (R466, R502) -/

/-- STBY_12V or the 12 V bus appears: the management island starts. -/
def State.standbyOn (s : State) : State :=
  if s.dev ≠ devOff then s
  else
    let s := s.setReg 0x2B00 1 (BitVec.ofNat 64 devStandby)
    { s with bring := { s.bring with rom := !s.bring.modRst } }

def execStandbyPowerApply (s : State) : Host.Outcome State Fault Refusal := .next s.standbyOn

/-- Nothing that is not in flash, in fuses or on a pin remains (DESIGN CHOICE, log entry 80)
(DESIGN CHOICE, log entry 81). -/
def State.emptied (s : State) : State :=
  let f := s.flash
  let r := State.reset
  { r with
    pending := s.pending, out := s.out, free := s.free
    bring := { r.bring with hv := false, modRst := s.bring.modRst, rom := false, bootPrev := s.bring.bootPrev }
    flash := { r.flash with image := f.image, cfg := f.cfg, lanes := f.lanes, age := f.age, svn := f.svn }
    age := { r.age with units := s.age.units } }

/-- Both supplies of the island are absent. -/
def State.standbyOff (s : State) : State :=
  if s.dev ≠ devStandby then s
  else s.cutFlash.emptied.setReg 0x2B00 1 (BitVec.ofNat 64 devOff)

def execStandbyPowerLoss (s : State) : Host.Outcome State Fault Refusal := .next s.standbyOff

/-- The input has been in range for 100 ms (DEDUCED, log entry 94). -/
def State.inputBack (s : State) : State :=
  if s.dev ≠ devStandby then s
  else
    let s := { s with bring := { s.bring with hv := true }, power := { s.power with volts := [], outCnt := 0 } }
    if s.bit 0x2B00 3 0 && !s.bring.modRst && !s.bring.hot then s.startNow true 1 else s

def execInputReturn (s : State) : Host.Outcome State Fault Refusal := .next s.inputBack

/-- MOD_RST# has been low for 2 µs: the management core is held in reset. -/
def State.modReset (s : State) : State :=
  if s.dev = devOff then { s with bring := { s.bring with modRst := true } }
  else
    let s := s.cutFlash.toStandby
    { s with
      bring := { s.bring with modRst := true, firmware := false, rom := false, romWait := false, waiting := none }
      can := State.reset.can }

def execModRstAssert (s : State) : Host.Outcome State Fault Refusal := .next s.modReset

/-- MOD_RST# is released. -/
def State.modRelease (s : State) : State :=
  if !s.bring.modRst then s
  else
    let s := { s with bring := { s.bring with modRst := false } }
    if s.dev ≠ devStandby then s
    else if s.inputGood && !s.bring.hot then s.startNow true 4
    else { s with bring := { s.bring with rom := true } }

def execModRstRelease (s : State) : Host.Outcome State Fault Refusal := .next s.modRelease

/-! ### Start commands (R455, R466, R472) -/

/-- FAULTED was entered in this clock, and takes precedence over a start (R467) (DESIGN CHOICE, log entry 147). -/
def State.faultedNow (s : State) : Bool := s.dev == devFaulted && s.bring.phaseAt == s.time.now

/-- A start command may be taken in this state. -/
def State.mayStart (s : State) (cold : Bool) : Bool :=
  if s.bring.hot || s.dev == devOff || s.faultedNow then false
  else if s.dev = devStandby then cold && s.inputGood
  else if s.dev < devReady then cold
  else true

/-- A command that is taken begins at once, or when a store or restore has finished (DEDUCED, log entry 92). -/
def State.startCommand (s : State) (cold : Bool) : State :=
  if s.flash.claim = some .store ∨ s.flash.claim = some .restore then
    { s with bring := { s.bring with waiting := some (cold || s.bring.waiting.getD false) } }
  else s.startNow cold (if cold then 2 else 3)

/-- The start that has waited (DEDUCED, log entry 92). -/
def State.waitedStart (s : State) : State :=
  match s.bring.waiting with
  | some cold => s.startNow cold (if cold then 2 else 3)
  | none => s

/-! ### The end of a store or restore (R415, R416, R472) -/

/-- The SDO response that the command has held back (R423). -/
def State.storeAnswer (s : State) (idx : Nat) : State :=
  if s.can.serving then
    let s := { s with can := { s.can with serving := false } }
    if s.nmt = nmtOperational ∨ s.nmt = nmtPre then
      s.canSend 0x580 ([0x60] ++ leBytes 2 idx ++ [1, 0, 0, 0, 0] ++ List.replicate 8 0)
    else s
  else s

def State.storeDone (s : State) (flashOk : Bool) : State :=
  if s.flash.claim ≠ some .store then s
  else
    let s := ((s.areaAfter flashOk).claimOver).setFld 0x2010 2 1 0 (if flashOk then 1 else 2)
    let s := if flashOk then (s.setBit 0x2010 3 0 false).noteErr else s
    (s.storeAnswer 0x1010).waitedStart

def execConfigStoreDone (flashOk : Bool) (s : State) : Host.Outcome State Fault Refusal := .next (s.storeDone flashOk)

def State.restoreOver (s : State) (flashOk : Bool) : State :=
  if s.flash.claim ≠ some .restore then s
  else (((s.areaAfter flashOk).claimOver).storeAnswer 0x1011).waitedStart

def execConfigRestoreDone (flashOk : Bool) (s : State) : Host.Outcome State Fault Refusal :=
  .next (s.restoreOver flashOk)

/-! ### BOOT (R331, R343, R473) -/

def State.enterPhase' (s : State) (n : Nat) : State :=
  let s := s.enter n
  { s with bring := { s.bring with phaseAt := s.time.now } }

/-- Straps and sizes of the torus: x, y, z and NX, NY, NZ. -/
def State.strapXyz (s : State) : Nat × Nat × Nat :=
  (s.fld 0x2910 3 19 16, s.fld 0x2910 3 23 20, s.fld 0x2910 3 28 24)
def State.torusSize (s : State) : Nat × Nat × Nat :=
  (s.fld 0x2910 3 4 0, s.fld 0x2910 3 9 5, s.fld 0x2910 3 15 10)

def nodeNumber (size xyz : Nat × Nat × Nat) : Nat := xyz.2.2 * size.1 * size.2.1 + xyz.2.1 * size.1 + xyz.1

/-- The straps give the module a place in the torus. -/
def State.strapPlaced (s : State) : Bool :=
  let n := s.torusSize
  let p := s.strapXyz
  s.bit 0x2910 3 29 && decide (p.1 < n.1 ∧ p.2.1 < n.2.1 ∧ p.2.2 < n.2.2)

/-- NODE, VALID and EFFSRC of this start; `stored` is the stored NODE. -/
def State.numberNode (s : State) (stored : Nat) : State :=
  let src := s.fld 0x2910 1 17 16
  let node := if src = 1 then stored else if s.strapPlaced then nodeNumber s.torusSize s.strapXyz else 0xFFFF
  let s := (s.setFld 0x2910 1 15 0 node).setFld 0x2910 1 20 19 src
  s.setBit 0x2910 1 18 (decide (node ≠ 0xFFFF))

/-- One direct port of the torus: its neighbour, dimension and dateline. -/
def State.torusPort (s : State) (port dim node : Nat) (dateline : Bool) : State :=
  let w := s.reg 0x2901 (port + 1)
  s.setReg 0x2901 (port + 1) (withField (withField (withField (withField w 2 2 0) 4 3 dim) 5 5 dateline.toNat) 31 16 node)

/-- Port by which a packet leaves toward a coordinate, in a ring of n: the + port where the offset is at
most half the ring. -/
def ringPort (plus n own dest : Nat) : Nat := if 2 * ((dest + n - own) % n) ≤ n then plus else plus + 1

/-- Routing-table entry of node d (R343). -/
def State.torusEntry (s : State) (ext d : Nat) : Word32 :=
  let n := s.torusSize
  let p := s.strapXyz
  let x := d % n.1
  let y := d / n.1 % n.2.1
  let z := d / (n.1 * n.2.1)
  let port := if x ≠ p.1 then ringPort 0 n.1 p.1 x
    else if y ≠ p.2.1 then ringPort 2 n.2.1 p.2.1 y
    else ringPort 4 n.2.2 p.2.2 z
  let alt := ((List.range 16).find? fun i => ext / 2 ^ i % 2 == 1).getD 0
  (packWord [(1, 0), (d / 2 ^ 13, 1), (port, 4), (alt, 8), ((decide (ext ≠ 0)).toNat, 12)]).setWidth 32

def State.setRoutes (s : State) (rt : Tbl Word32) : State := { s with fabric := { s.fabric with rt := rt } }

/-- Port configuration and routing table of the direct torus in strap mode. -/
def State.buildTorus (s : State) : State :=
  if s.fld 0x2910 1 20 19 ≠ 0 || s.split || !s.bit 0x2910 1 18 then s
  else
    let n := s.torusSize
    let p := s.strapXyz
    let at_ (x y z : Nat) : Nat := nodeNumber n (x % n.1, y % n.2.1, z % n.2.2)
    let ports : List (Nat × Nat × Nat × Bool) :=
      [(0, 1, at_ (p.1 + 1) p.2.1 p.2.2, p.1 + 1 == n.1), (1, 1, at_ (p.1 + n.1 - 1) p.2.1 p.2.2, p.1 == 0),
       (2, 2, at_ p.1 (p.2.1 + 1) p.2.2, p.2.1 + 1 == n.2.1), (3, 2, at_ p.1 (p.2.1 + n.2.1 - 1) p.2.2, p.2.1 == 0),
       (4, 3, at_ p.1 p.2.1 (p.2.2 + 1), p.2.2 + 1 == n.2.2), (5, 3, at_ p.1 p.2.1 (p.2.2 + n.2.2 - 1), p.2.2 == 0)]
    let s := ports.foldl (fun s t => s.torusPort t.1 t.2.1 t.2.2.1 t.2.2.2) s
    let ext := ([6, 7].filter s.portExt).foldl (fun m i => m + 2 ^ i) 0
    let s := s.setFld 0x2930 3 15 0 ext
    s.setRoutes (((List.range (n.1 * n.2.1 * n.2.2)).filter fun d => d != nodeNumber n p).map fun d =>
      (d, s.torusEntry ext d))

/-- BOOTID of this start: any value but 0 and the one before, as if drawn again until it is none of them (R356)
(DESIGN CHOICE, log entry 144). -/
def State.drawBootId (s : State) : State :=
  let prev := s.bring.bootPrev.toNat
  let k := 1 + s.freeWord.toNat % (if prev = 0 then 65535 else 65534)
  let id := BitVec.ofNat 16 (if prev ≠ 0 ∧ prev ≤ k then k + 1 else k)
  let s := s.drawFree.setReg 0x2970 3 (id.setWidth 64)
  { s with bring := { s.bring with bootPrev := id } }

/-- Ports that the stored configuration disables are dark (R326). -/
def State.darkPorts (s : State) : State :=
  (List.range 16).foldl (fun s i =>
    if s.portExists i && !s.portEn i then s.setPortState i portDisabled else s) s

/-- What firmware does in BOOT (DESIGN CHOICE, log entry 85). -/
def State.bootWork (s : State) : State :=
  let ft := s.ftState
  let s := ((s.applyArea).applyLanes).applyAge
  let s := s.numberNode (s.fld 0x2910 1 15 0)
  let s := (s.setFld 0x2900 1 2 2 (s.fld 0x2900 1 0 0)).setFld 0x2900 1 3 3 (s.fld 0x2900 1 1 1)
  let s := s.buildTorus.darkPorts.drawBootId
  let s := if ft = ftHoldover then s else s.ftSourceSet s.ftSrc
  s.fillTokens

/-! ### POWERING (R27, R29, R474, R475, R492) -/

/-- Pass-through paths of a pot that are retired. -/
def State.thruRetired (s : State) (pot : Nat) : Nat :=
  ((List.range 128).filter fun i => (s.chan pot (128 + i)).ret).length

/-- Firmware must force a pot into lead. -/
def State.mustLead (s : State) (pot : Nat) : Bool :=
  decide (8 < s.thruRetired pot) || (s.groupDead pot 0 && s.groupDead pot 1)

/-- POTCFG is applied to one pot. -/
def State.applyPot (s : State) (pot : Nat) : State :=
  let mode := s.fld 0x2300 0x10 1 0
  let s := s.setBit 0x2300 0x10 (10 + pot) (s.groupDead pot 0 != s.groupDead pot 1)
  if s.mustLead pot then s.forceLead pot
  else if mode = 1 then s.lead pot
  else s.setFld 0x2300 0x10 (5 + 2 * pot) (4 + 2 * pot) mode

/-- BOOT ends: the configuration is in force, and POWERING begins with an empty history of slots, which its
first slot fills (R439) (DESIGN CHOICE, log entry 85). -/
def State.bootEnd (s : State) : State :=
  if s.dev = devBoot ∧ s.bring.firmware then
    let s := (((s.bootWork.applyPot 0).applyPot 1).fillTokens).enterPhase' devPowering
    { s with power := { s.power with slots := [] } }
  else s

def execBootPhaseEnd (s : State) : Host.Outcome State Fault Refusal := .next s.bootEnd

def State.leafParked (s : State) (leaf : Nat) : Bool := (s.reg 0x2500 3).getLsbD (16 * leaf)

/-- A leaf has not reached its set-point: an upper one forces its pot into lead, a lower one takes its pot's
clusters with it. -/
def State.leafFailed (s : State) (leaf : Nat) : State :=
  if leaf % 2 = 0 then
    { s with bring := { s.bring with leafBad := s.bring.leafBad ||| ((3 : BitVec 4) <<< leaf)
                                     leafOn := s.bring.leafOn &&& ~~~((3 : BitVec 4) <<< leaf) } }
  else if s.bring.leafBad.getLsbD leaf then s
  else s.forceLead (leaf / 2)

/-- 6 ms into POWERING, the leaves that are not parked are checked. -/
def State.leafCheck (s : State) (ok : List Bool) : State :=
  if s.dev ≠ devPowering || s.bring.checked || !s.passedNs s.bring.phaseAt 6000000 then s
  else
    let up := (List.range 4).filter fun l => !s.leafParked l
    let on := up.foldl (fun (b : BitVec 4) l => b ||| ((1 : BitVec 4) <<< l)) 0
    let s := { s with bring := { s.bring with checked := true, leafOn := on } }
    let bad := [0, 2, 1, 3].filter fun l => decide (l ∈ up) && !ok.getD l false
    let s := bad.foldl State.leafFailed s
    s.fillTokens

def execLeafPowerupCheck (ok : List Bool) (s : State) : Host.Outcome State Fault Refusal := .next (s.leafCheck ok)

/-- A wave ramps at 10 + 20 w ms (DEDUCED, log entry 93). -/
def State.wave (s : State) (w : Nat) : State :=
  if s.dev = devPowering ∧ s.bring.checked ∧ s.bring.waves = List.range w
      ∧ s.passedNs s.bring.phaseAt (1000000 * (10 + 20 * w)) then
    { s with bring := { s.bring with waves := s.bring.waves ++ [w] } }
  else s

def execPowerWave (w : Fin 8) (s : State) : Host.Outcome State Fault Refusal := .next (s.wave w.val)

/-- POWERING ends with its last wave, and the ports begin to train. -/
def State.portsTrain (s : State) : State :=
  (List.range 16).foldl (fun s i =>
    if s.portExists i then s.setPortState i (if s.portEn i then portTraining else portDisabled) else s) s

def State.poweringEnd (s : State) : State :=
  if s.dev = devPowering ∧ s.bring.waves.length = 8 ∧ s.passedNs s.bring.phaseAt 155000000 then
    s.portsTrain.enterPhase' devTraining
  else s

def execPoweringPhaseEnd (s : State) : Host.Outcome State Fault Refusal := .next s.poweringEnd

/-! ### TRAINING (R190, R473, R478) -/

/-- The stacks have trained, or left self-refresh; a cold start has zeroed them (DEDUCED, log entry 95). -/
def State.trainingEnd (s : State) (trained : BitVec 8) : State :=
  if s.dev ≠ devTraining then s
  else
    let h := s.hbm
    let h := if s.bring.cold then { h with mem := [], poison := [], absent := ~~~trained, selfRef := false }
      else { h with absent := h.absent ||| ~~~trained, selfRef := false }
    ({ s with hbm := h }).enterPhase' devChecking

def execTrainingPhaseEnd (trained : BitVec 8) (s : State) : Host.Outcome State Fault Refusal :=
  .next (s.trainingEnd trained)

/-! ### CHECKING (R469, R470, R476, R477) -/

/-- One failing row takes a soft-repair row, or its channel is retired. -/
def State.marchRow (s : State) (cad : Nat) (row : Nat × Nat × Nat) : State :=
  let (sl, set, way) := row
  if s.sliceRetired cad sl ∨ (cad, sl, set, way) ∈ s.caddy.repairs then s
  else if (s.repairsOf cad sl).length < softRows then s.repairRow cad sl set way
  else s.retire cad sl

/-- The march test of a caddy, in a cold start (DEDUCED, log entry 95). -/
def State.march (s : State) (cad : Nat) (responds : Bool) (failing : List (Nat × Nat × Nat)) : State :=
  if s.dev ≠ devChecking || !s.bring.cold || s.bring.marched.getLsbD cad then s
  else if !responds then s.enterFaulted
  else
    let s := { s with bring := { s.bring with marched := s.bring.marched ||| ((1 : BitVec 2) <<< cad) } }
    failing.foldl (fun s r => s.marchRow cad r) s

def execMarchTest (cad : Cad) (responds : Bool) (failing : List (Fin 256 × Fin 2048 × Fin 24)) (s : State) :
    Host.Outcome State Fault Refusal :=
  .next (s.march cad.val responds (failing.map fun r => (r.1.val, r.2.1.val, r.2.2.val)))

/-- The march tests of this start are over. -/
def State.marchOver (s : State) : Bool := !s.bring.cold || s.bring.marched == 3

/-- The cells of a cluster are on. -/
def State.clusterPowered (s : State) (cl : Nat) : Bool :=
  s.bring.leafOn.getLsbD (cl / 16) && !s.parked cl && decide (cl % 16 / 2 ∈ s.bring.waves)

/-- A cluster has finished its known-answer tests (DEDUCED, log entry 93). -/
def State.katDone (s : State) (cl : Nat) (firstFail : Option Nat) : State :=
  if s.dev ≠ devChecking || !s.marchOver || !s.clusterPowered cl || s.bring.kat.getLsbD cl then s
  else
    let w := match firstFail with
      | some n => packWord [(1, 0), (1, 1), (n, 2)]
      | none => packWord [(1, 0)]
    ({ s with bring := { s.bring with kat := s.bring.kat ||| ((1 : BitVec 64) <<< cl) } }).setReg 0x2B10 (cl + 1) w

def execKnownAnswerTest (cl : Cl) (firstFail : Option (Fin 20)) (s : State) : Host.Outcome State Fault Refusal :=
  .next (s.katDone cl.val (firstFail.map (·.val)))

/-- Clusters that passed. -/
def State.katPassed (s : State) (cl : Nat) : Bool :=
  s.bring.kat.getLsbD cl && !s.parked cl && !s.bit 0x2B10 (cl + 1) 1

/-- The presence map once the tests have ended (R32). -/
def State.setPresence (s : State) : State :=
  let all := List.range 64
  let bits (p : Nat → Bool) : Word64 := (all.filter p).foldl (fun (w : Word64) c => w ||| ((1 : Word64) <<< c)) 0
  let here := bits s.katPassed
  let gone := bits fun c => !s.katPassed c && !s.parked c
  (s.setReg 0x2500 1 here).setReg 0x2500 2 gone

/-- The state at the end of CHECKING (R469, R470). -/
def State.finalState (s : State) : Nat :=
  if s.hbm.absent ≠ 0 || decide (8 < s.retCount 0) || decide (8 < s.retCount 1) || s.reg 0x2500 1 == 0
      || s.bit 0x2B00 3 1 then devService
  else if s.reg 0x2500 2 ≠ 0 || s.fld 0x2300 0x10 9 8 != 0 || s.fld 0x2300 0x10 11 10 != 0
      || s.retCount 0 != 0 || s.retCount 1 != 0 then devDegraded
  else devReady

/-- Duration of the start in ms, saturating. -/
def State.startMs (s : State) : Nat := min 65535 ((s.time.now - s.bring.startAt) / (1000000 * nsUnits))

/-- CHECKING ends: the tests are over, and no re-plan is due. -/
def State.checkingEnd (s : State) : State :=
  let tested := (List.range 64).all fun c => !s.clusterPowered c || s.bring.kat.getLsbD c
  if s.dev ≠ devChecking || !s.marchOver || !tested || s.age.due then s
  else
    let s := s.setPresence
    let s := (List.range 16).foldl State.seedLanes s
    let s := s.setFld 0x2B00 4 31 16 s.startMs
    s.enterPhase' s.finalState

def execCheckingPhaseEnd (s : State) : Host.Outcome State Fault Refusal := .next s.checkingEnd

/-! ### Faults (R466, R468, R505) -/

/-- (DEDUCED, log entry 94.) -/
def State.converterFailed (s : State) : State :=
  if s.dev ≤ devStandby then s
  else
    let s := { s with bring := { s.bring with shut := true } }
    s.enterFaulted

def execConverterFault (s : State) : Host.Outcome State Fault Refusal := .next s.converterFailed

/-! ### Attention pins (R505) -/

/-- ALERT# is pulled low. -/
def State.alertLow (s : State) : Bool :=
  s.dev != devOff && !s.bring.modRst && (s.errReg != 0 || s.dev == devFaulted || s.dev == devService)

/-- SHUT# is pulled low. -/
def State.shutLow (s : State) : Bool := s.dev != devOff && !s.bring.modRst && s.bring.shut

end Sys2Proof.Machine
end

