-- ==== Sys2Proof/Machine/Dict.lean ====
section
/-! DEFINITION. The object dictionary as its paths see it: outcomes, availability, what a read shows, and
what a write of each entry does (R10, R383, R386 to R388, R401 to R412, R423, R428). -/

namespace Sys2Proof.Machine

/-! ### Outcomes (R409) -/

inductive Status | done | ro | right | range | noIndex | noSub | inUse | size | state | signature
deriving DecidableEq, Repr

/-- The code on path P. -/
def Status.p : Status → Nat
  | .done => 0 | .ro => 1 | .right => 1 | .range => 1 | .noIndex => 2 | .noSub => 2 | .inUse => 3
  | .size => 4 | .state => 5 | .signature => 1

/-- The SDO abort code on path C. -/
def Status.c : Status → Nat
  | .done => 0 | .ro => 0x06010002 | .right => 0x06010000 | .range => 0x06090030
  | .noIndex => 0x06020000 | .noSub => 0x06090011 | .inUse => 0x08000021 | .size => 0x06070010
  | .state => 0x08000022 | .signature => 0x08000020

/-- The STATUS of a directed frame (DEDUCED, log entry 98). -/
def Status.f : Status → Nat
  | .done => 0 | .noIndex => 2 | .noSub => 2 | .inUse => 3
  | .ro => 1 | .right => 1 | .range => 1 | .size => 1 | .state => 1 | .signature => 1

/-! ### Where entries are held (R383, R405, R465) -/

/-- A cluster's own domain runs. -/
def State.clusterOn (s : State) (cl : Nat) : Bool :=
  s.bring.leafOn.getLsbD (cl / 16) && !s.parked cl && !s.absent cl

/-- The die or domain that holds an index runs: management island, spout, caddies, or a cluster. -/
def State.domainOn (s : State) (idx : Nat) : Bool :=
  let island := s.dev != devOff
  let spout := decide (devBoot ≤ s.dev)
  if idx < 0x2300 then island
  else if idx < 0x2500 then s.caddiesOn
  else if idx < 0x2880 then spout
  else if idx < 0x2890 then island
  else if idx < 0x2B00 then spout
  else if idx < 0x3300 then island
  else if idx < 0x3500 then s.caddiesOn
  else if idx < 0x3600 then s.clusterOn (idx - 0x3500)
  else if idx < 0x3700 then s.clusterOn (idx - 0x3600)
  else spout

/-- What BAR0 serves in BOOT. -/
def bootEntry (idx : Nat) : Bool :=
  idx == 0x1018 || decide (0x2000 ≤ idx ∧ idx < 0x2100) || decide (0x2B00 ≤ idx ∧ idx < 0x2C00)

/-! ### Latches of a path (R404, R498) -/

def State.latch (s : State) : Path → Latches
  | .pcie => s.latchP
  | .can => s.latchC
  | .fab => s.latchF

def State.setLatch (s : State) (p : Path) (l : Latches) : State :=
  match p with
  | .pcie => { s with latchP := l }
  | .can => { s with latchC := l }
  | .fab => { s with latchF := l }

/-! ### What a read shows -/

/-- SRDATA, record pair i of the selected slice (R221). -/
def State.srData (s : State) (i : Nat) : Word64 :=
  let rows := s.repairsOf (s.fld 0x2451 1 8 8) (s.fld 0x2451 1 7 0)
  let w (j : Nat) : Nat := match rows[j]? with
    | some (set, way) => set + way * 2 ^ 11 + 2 ^ 16
    | none => 0
  packWord [(w (2 * i), 0), (w (2 * i + 1), 32)]

/-- Elapsed time of a scrub lap, in ms. -/
def State.lapMs (s : State) (since : Nat) : Nat := min (2 ^ 32 - 1) ((s.time.now - since) / (nsUnits * 1000000))

/-- CHINFO of the selected channel (R493). -/
def State.chInfo (s : State) : Word64 :=
  let cad := s.fld 0x2B20 1 8 8
  let ch := s.fld 0x2B20 1 7 0
  let c := s.chan cad ch
  packWord [(min 64 (Config.fusedSpares (256 * cad + ch)), 0), (c.lines.length, 7), (c.out.toNat, 14),
    ((c.out && !c.main).toNat, 15)]

/-- AGESTAT (R495). -/
def State.ageStat (s : State) : Word64 :=
  packWord [((BitVec.ofInt 8 s.age.offset).toNat, 0), ((BitVec.ofInt 8 s.age.need).toNat, 8),
    ((s.bit 0x2B00 1 5).toNat, 16), (s.hours % 2 ^ 32, 32)]

/-- Word w of a document (R489). -/
def docWord (bs : List Byte) (w : Nat) : Word64 := BitVec.ofNat 64 (leNat ((bs.drop (8 * w)).take 8))

/-- Word of a document entry from its first index on. -/
def docIndex (first idx sub : Nat) : Nat := 255 * (idx - first) + (sub - 1)

/-- MQCFG with OPEN and FILL (R377). -/
def State.mqCfg (s : State) (rx : Bool) (q : Nat) : Word64 :=
  let m := s.mq rx q
  s.reg (mqIdx rx) (q + 1) ||| packWord [((m.openBy.isSome && !rx).toNat, 6), (s.mqFill rx q, 8)]

/-- A counter as a path reads it: live, or the stored copy while its VIEW is 1. -/
def State.counterAt (s : State) (p : Path) (idx sub : Nat) : Word64 :=
  if (s.latch p).view then
    if s.bit 0x2C00 3 20 then Tbl.get 0 s.snap.store (regKey idx sub) else 0
  else s.reg idx sub

/-- The low word of a counter, or its high word as latched. -/
def State.counterRead (s : State) (p : Path) (idx sub : Nat) : Word64 :=
  if sub % 2 = 1 then s.counterAt p idx sub &&& mask 31 0
  else (Tbl.get 0 (s.latch p).high (regKey idx (sub - 1))).setWidth 64

/-- A sub-port's entry of a port that does not exist in the mode in force (R326). -/
def State.noPort (s : State) (idx sub : Nat) : Bool :=
  (idx == 0x2901 || idx == 0x2902 || idx == 0x2904) && decide (sub ≠ 0) && !s.portExists (sub - 1)

/-- What an entry shows, before the rule of WO bits. -/
def State.shown (s : State) (p : Path) (idx sub : Nat) : Word64 :=
  if sub = 0 ∧ atZero idx = false then s.reg idx sub
  else if counterTop idx ≠ 0 then s.counterRead p idx sub
  else if s.noPort idx sub then 0
  else if idx = 0x1001 then BitVec.ofNat 64 s.errReg
  else if idx = 0x2011 then
    if sub = 1 then (s.latch p).sel.setWidth 64
    else infoOf (fieldOf ((s.latch p).sel.setWidth 64) 15 0) (fieldOf ((s.latch p).sel.setWidth 64) 23 16)
  else if idx = 0x2451 ∧ 2 ≤ sub then s.srData (sub - 2)
  else if idx = 0x2462 ∧ sub = 3 then BitVec.ofNat 64 (s.lapMs s.hbm.lapH)
  else if idx = 0x2462 ∧ sub = 4 then BitVec.ofNat 64 (s.lapMs s.hbm.lapC)
  else if idx = 0x2870 ∧ sub = 2 then
    (BitVec.ofInt 16 (s.tagBal (s.fld 0x2870 1 11 8) (s.fld 0x2870 1 7 0))).setWidth 64
  else if idx = 0x2880 then
    if sub = 1 then BitVec.ofNat 64 (s.ftNs / 1000000000 % 2 ^ 48)
    else if sub = 2 then (s.latch p).ns.setWidth 64
    else if sub = 3 then (s.latch p).frac.setWidth 64
    else (s.latch p).ftns
  else if idx = 0x2930 ∧ sub = 2 then (s.rt (s.fld 0x2930 1 12 0)).setWidth 64
  else if idx = 0x2960 then s.mqCfg false (sub - 1)
  else if idx = 0x2961 then s.mqCfg true (sub - 1)
  else if idx = 0x2B20 ∧ sub = 2 then s.chInfo
  else if idx = 0x2B20 ∧ sub = 3 then packWord [(s.retCount 0, 0), (s.retCount 1, 16)]
  else if idx = 0x2B30 then
    if sub = 1 then packWord [(s.age.due.toNat, 1), (s.age.running.toNat, 2)] else s.ageStat
  else if idx = 0x2B31 then s.age.log.getD (sub - 1) 0
  else if idx = 0x2C00 ∧ sub = 1 then withField (s.reg 0x2C00 1) 6 6 (s.latch p).view.toNat
  else if idx = 0x2D00 then s.secStat
  else if idx = 0x2D20 then Config.identityKey (sub - 1)
  else if idx = 0x2D21 ∨ idx = 0x2D22 then Config.endorsement (docIndex 0x2D21 idx sub)
  else if idx = 0x2D23 ∨ idx = 0x2D24 then docWord s.flash.evidence (docIndex 0x2D23 idx sub)
  else s.reg idx sub

/-- What a read latches on its path (R115, R315). -/
def State.readLatch (s : State) (p : Path) (idx sub : Nat) : State :=
  let l := s.latch p
  if counterTop idx ≠ 0 ∧ sub % 2 = 1 then
    s.setLatch p { l with high := Tbl.put 0 l.high (regKey idx sub) ((s.counterAt p idx sub >>> 32).setWidth 32) }
  else if idx = 0x2880 ∧ sub = 1 then
    s.setLatch p { l with
      ns := BitVec.ofNat 32 (s.ftNs % 1000000000)
      frac := BitVec.ofNat 16 (s.time.ft % nsUnits * 65536 / nsUnits)
      ftns := BitVec.ofNat 64 s.ftNs }
  else s

/-- A read over a path: what it latches, its outcome, its value. -/
def State.entryRead (s : State) (p : Path) (idx sub : Nat) : State × Status × Word64 :=
  match entryOf idx sub with
  | none => (s, if indexExists idx then .noSub else .noIndex, 0)
  | some e =>
    if !s.domainOn idx then (s, .state, 0)
    else (s.readLatch p idx sub, .done, s.shown p idx sub &&& ~~~e.wo)

/-! ### Writes: shared parts (R10, R13) -/

/-- What an entry holds after a write, but for its WO bits. -/
def Entry.merged (e : Entry) (old v : Word64) : Word64 :=
  ((old &&& ~~~e.rw) ||| (v &&& e.rw)) &&& ~~~(v &&& e.w1c)

/-- A write changes bits [hi:lo]. -/
def changes (old new : Word64) (hi lo : Nat) : Bool := fieldOf old hi lo != fieldOf new hi lo

def ringFin (n : Nat) : Ring := ⟨n % 8, Nat.mod_lt _ (by decide)⟩

/-- Accept where a condition holds, else refuse whole. -/
def State.unless (s : State) (bad : Bool) (st : Status) (f : State → State) : State × Status :=
  if bad then (s, st) else (f s, .done)

/-! ### 1000h to 22FFh -/

/-- A store or a restore, unless the flash is claimed (R411, R415, R416). An SDO response to it waits. -/
def State.flashCommand (s : State) (via : Via) (begins : State → State) : State × Status :=
  s.unless s.flash.claim.isSome .inUse fun s =>
    let s := begins s
    if via = .sdo then { s with can := { s.can with serving := true } } else s

def State.writeLow (s : State) (via : Via) (idx sub : Nat) (v nv : Word64) : State × Status :=
  if idx = 0x1010 then s.flashCommand via State.storeBegin
  else if idx = 0x1011 then s.flashCommand via State.restoreBegin
  else if idx = 0x2011 then
    (s.setLatch (.of via) { s.latch (.of via) with sel := (v &&& mask 23 0).setWidth 32 }, .done)
  else ((s.setReg idx sub nv).noteErr, .done)

/-! ### 2300h to 24FFh: caddies, HBM, integrity -/

/-- A write of WAYS (R179). -/
def State.writeWays (s : State) (nv : Word64) : State × Status :=
  let ways := fieldOf nv 4 0
  s.unless (s.pinBusy || !s.setsFit s.pinRanges ways) .inUse fun s => s.setWays ways

/-- Clearing both bits of a pair clears its log (R187). -/
def State.clearCadLogs (s : State) : State :=
  let s := if s.fld 0x2310 0x0C 1 0 = 0 then s.setBit 0x2310 0x0D 53 false else s
  if s.fld 0x2310 0x0C 3 2 = 0 then s.setBit 0x2310 0x0E 25 false else s

/-- A write to PINCTL starts a request (R180). -/
def State.pinCommand (s : State) (v : Word64) : State :=
  let base := s.fld 0x2311 1 47 0
  let len := s.fld 0x2311 2 47 0
  if fieldOf v 1 0 = 1 then s.pinBegin base len (fieldOf v 7 3) (v.getLsbD 2) none
  else s.unpinBegin base len none

def State.writeCaddy (s : State) (idx sub : Nat) (v nv : Word64) : State × Status :=
  let old := s.reg idx sub
  if idx = 0x2310 ∧ sub = 4 then s.writeWays nv
  else if idx = 0x2310 ∧ sub = 8 then
    let t := s.setReg idx sub nv
    (if nv = old then t else { t with caddy := { t.caddy with guard0 := [], guard1 := [] } }, .done)
  else if idx = 0x2310 ∧ sub = 0x0C then ((s.setReg idx sub nv).clearCadLogs, .done)
  else if idx = 0x2310 ∧ sub = 0x10 then
    if v.getLsbD 0 then s.unless (s.bit 0x2310 0x10 1) .inUse State.flush else (s, .done)
  else if idx = 0x2311 ∧ sub = 3 then s.unless s.pinBusy .inUse fun s => s.pinCommand v
  else if idx = 0x2320 then
    let rs := s.changedRegions sub nv
    s.unless (rs != [] && (s.anyRuns || rs.any s.pinsIn)) .inUse fun s => s.placeRegions sub nv
  else if idx = 0x2410 then ((s.setReg idx sub nv).clearCredits, .done)
  else if idx = 0x2420 then
    let s := s.setReg idx sub nv
    ((if s.fld 0x2420 1 2 0 = 0 then s.setBit 0x2420 2 38 false else s).noteErr, .done)
  else if 0x2430 ≤ idx ∧ idx ≤ 0x243F then (if v.getLsbD 43 then s.setReg idx sub 0 else s, .done)
  else if idx = 0x2460 ∧ sub = 1 then
    s.unless (nv.getLsbD 0 && s.bit 0x2461 1 0) .inUse fun s => s.setReg idx sub nv
  else if idx = 0x2461 then
    s.unless (nv.getLsbD 0 && s.bit 0x2460 1 0) .inUse fun s => s.setReg idx sub nv
  else (s.setReg idx sub nv, .done)

/-! ### 2500h to 28FFh: engines, TGs, random generation, sequencer, time -/

/-- RINGCTL: EN from 0 to 1 reads the consumer index (R291). -/
def State.writeRing (s : State) (c r sub : Nat) (nv : Word64) : State × Status :=
  let idx := 0x2840 + c
  let en := s.ringEn c r
  let old := s.reg idx sub
  let part := sub % 4
  let moved := if part = 2 then changes old nv 5 1 else old != nv
  s.unless (en && moved) .inUse fun s =>
    let s := s.setReg idx sub nv
    if part = 2 ∧ !en ∧ nv.getLsbD 0 then s.ringStart (ctxFin c) (ringFin r) else s

/-- The entries of a completion ring (R309). -/
def State.writeCq (s : State) (c sub : Nat) (nv : Word64) : State × Status :=
  let idx := 0x2850 + c
  let en := s.cqEn c
  let old := s.reg idx sub
  let moved := if sub = 2 then changes old nv 5 1 else if sub = 4 then false else old != nv
  s.unless (en && moved) .inUse fun s =>
    let s := s.setReg idx sub nv
    if sub = 2 ∧ !en ∧ nv.getLsbD 0 then s.cqStart c else s

/-- A command to a context (R311). -/
def State.writeCtx (s : State) (c : Nat) (v : Word64) : State × Status :=
  let cmd := fieldOf v 2 0
  match s.ctxCheck c cmd with
  | .ok => (s.ctxCommand c cmd, .done)
  | .busy => (s, .inUse)
  | .invalid => (s, .range)

def State.writeSeed (s : State) (c : Nat) (v : Word64) : State × Status :=
  s.unless (s.ctxRuns c) .inUse fun s =>
    let s := (s.setReg 0x2701 (c + 1) v).seedLanes c
    s.setCtx c { s.ctx c with seedAt := some s.time.now }

def State.writeCompute (s : State) (idx sub : Nat) (v nv : Word64) : State × Status :=
  let old := s.reg idx sub
  if idx = 0x2500 ∧ sub = 8 then s.unless s.clustersRun .inUse fun s => s.setReg idx sub nv
  else if idx = 0x2620 ∧ sub = 8 then
    (if v.getLsbD 29 then (s.setReg 0x2620 8 0).setReg 0x2620 9 0 else s, .done)
  else if idx = 0x2701 then s.writeSeed (sub - 1) v
  else if 0x2840 ≤ idx ∧ idx ≤ 0x284F then s.writeRing (idx - 0x2840) ((sub - 1) / 4) sub nv
  else if 0x2850 ≤ idx ∧ idx ≤ 0x285F then s.writeCq (idx - 0x2850) sub nv
  else if idx = 0x2860 then s.writeCtx (sub - 1) v
  else if idx = 0x2861 then
    let st := s.ctxState (sub - 1)
    s.unless (st == ctxSaving || st == ctxSavedSt || st == ctxRestoring) .inUse fun s => s.setReg idx sub nv
  else if idx = 0x2881 ∧ sub = 1 then
    let s := s.setReg idx sub nv
    (if changes old nv 1 0 then (s.ftSourceSet (fieldOf nv 1 0)).selectMasters else s, .done)
  else if idx = 0x2881 ∧ sub = 3 then
    ({ s with time := { s.time with tod := some (fieldOf v 47 0, s.time.now) } }, .done)
  else if idx = 0x2882 then
    s.unless (nv.getLsbD 0 && s.bit 0x2C00 1 5) .inUse fun s => s.setReg idx sub nv
  else (s.setReg idx sub nv, .done)

/-! ### 2900h to 2AFFh: fabric, link -/

/-- PORTCFG: a port that is disabled goes dark, one that is enabled may train; an aligned port that now faces an
external switch is UP (R326). -/
def State.writePort (s : State) (i : Nat) (nv : Word64) : State :=
  let was := s.portEn i
  let s := s.setReg 0x2901 (i + 1) nv
  let now := nv.getLsbD 0
  if was && !now then s.linkDown i portDisabled
  else if !was && now && s.portState i == portDisabled then s.setPortState i portDown
  else if s.portExt i && now && s.hears i && !(s.port i).settle then s.portRise i
  else s

/-- NODECFG (R330): NODE may change only under EFFSRC 0b01. -/
def State.writeNode (s : State) (nv : Word64) : State × Status :=
  s.unless (changes (s.reg 0x2910 1) nv 15 0 && s.fld 0x2910 1 20 19 != 1) .range fun s =>
    (s.setReg 0x2910 1 nv).setBit 0x2910 1 18 (fieldOf nv 15 0 != 0xFFFF)

/-- MQCFG (R377) (DEDUCED, log entry 97). -/
def State.writeMq (s : State) (rx : Bool) (q : Nat) (v nv : Word64) : State × Status :=
  let old := s.reg (mqIdx rx) (q + 1)
  s.unless (changes old nv 4 1 && s.ctxRuns (fieldOf old 4 1)) .inUse fun s =>
    let s := s.setReg (mqIdx rx) (q + 1) nv
    if v.getLsbD 5 then s.mqFlush rx q else s

def State.writeFabric (s : State) (idx sub : Nat) (v nv : Word64) : State × Status :=
  if s.noPort idx sub then (s, .done)
  else if idx = 0x2901 then (s.writePort (sub - 1) nv, .done)
  else if idx = 0x2910 ∧ sub = 1 then s.writeNode nv
  else if idx = 0x2930 ∧ sub = 2 then
    (s.writeRt (s.fld 0x2930 1 12 0) ((v &&& mask 13 0).setWidth 32), .done)
  else if idx = 0x2960 then s.writeMq false (sub - 1) v nv
  else if idx = 0x2961 then s.writeMq true (sub - 1) v nv
  else (s.setReg idx sub nv, .done)

/-! ### 2B00h to 2DFFh: bring-up, snapshot, security -/

/-- SNAPCTL: arms first, then triggers; each path has its own VIEW (R496, R498). -/
def State.writeSnap (s : State) (p : Path) (v nv : Word64) : State × Status :=
  s.unless (nv.getLsbD 5 && s.bit 0x2882 1 0) .inUse fun s =>
    let s := s.setLatch p { s.latch p with view := v.getLsbD 6 }
    let s := s.setReg 0x2C00 1 (withField nv 6 6 0)
    let s := if v.getLsbD 0 then s.setBit 0x2C00 3 20 false else s
    if v.getLsbD 1 then s.snapTrigger .write else s

/-- SVNCOMMIT (R490). -/
def State.writeSvn (s : State) (v : Word64) : State × Status :=
  let n := fieldOf v 6 0
  if s.flash.svnTo.isSome then (s, .inUse)
  else s.unless (n != s.imgSvn || decide (n ≤ s.flash.svn)) .range fun s =>
    { s with flash := { s.flash with svnTo := some n } }

def State.writeBring (s : State) (p : Path) (idx sub : Nat) (v nv : Word64) : State × Status :=
  if idx = 0x2B00 ∧ sub = 2 then
    s.unless (!s.mayStart (fieldOf v 1 0 == 1)) .state fun s => s.startCommand (fieldOf v 1 0 == 1)
  else if idx = 0x2B30 then
    if v.getLsbD 0 then
      s.unless s.age.running .inUse fun s => { s with age := { s.age with due := true } }
    else (s, .done)
  else if idx = 0x2C00 ∧ sub = 1 then s.writeSnap p v nv
  else if idx = 0x2D01 then s.writeSvn v
  else (s.setReg idx sub nv, .done)

/-! ### A write over a path -/

/-- What an accepted kind of write does; the value is in range. -/
def State.writeEffect (s : State) (via : Via) (idx sub : Nat) (v nv : Word64) : State × Status :=
  if idx < 0x2300 then s.writeLow via idx sub v nv
  else if idx < 0x2500 then s.writeCaddy idx sub v nv
  else if idx < 0x2900 then s.writeCompute idx sub v nv
  else if idx < 0x2B00 then s.writeFabric idx sub v nv
  else s.writeBring (.of via) idx sub v nv

/-- One write: its entry, access, right, state and range are checked in this order, then what its own
chapter checks (DEDUCED, log entry 26). -/
def State.entryWrite (s : State) (via : Via) (idx sub : Nat) (v : Word64) : State × Status :=
  match entryOf idx sub with
  | none => (s, if indexExists idx then .noSub else .noIndex)
  | some e =>
    let v := if e.wide then v else v &&& mask 31 0
    let nv := e.merged (s.reg idx sub) v
    if !e.writable then (s, .ro)
    else if Path.of via ∉ rightsOf idx sub then (s, .right)
    else if !s.domainOn idx then (s, .state)
    else if !inRange idx sub ((nv &&& ~~~e.wo) ||| (v &&& e.wo)) then (s, if idx = 0x1010 then .signature else .range)
    else
      let (t, st) := s.writeEffect via idx sub v nv
      (if st = .done then t.noteClear idx sub (v &&& e.w1c) else t, st)

/-! ### BAR0 (R385 to R388, R395) -/

/-- BAR0 serves requests: the link is up, and the function neither in a reset nor in D3hot. -/
def State.bar0On (s : State) : Bool := decide (devBoot ≤ s.dev) && !s.deaf

def State.setAccStat (s : State) (st : Status) : State := s.setReg 0x2A01 1 (BitVec.ofNat 64 st.p)

/-- Send the message of a vector held pending, once it is unmasked (R390). -/
def State.flushVector (s : State) (vec : Nat) : State :=
  if s.link.pba.getLsbD vec && !s.vectorMasked vec && !s.deaf then
    ({ s with link := { s.link with pba := s.link.pba &&& ~~~((1 : Word64) <<< vec) } }).emit (.msix vec)
  else s

/-- A word of the MSI-X table is written. -/
def State.setMsix (s : State) (k : Nat) (v : Word32) : State :=
  let v := if k % 4 = 0 then v &&& 0xFFFFFFFC else if k % 4 = 3 then v &&& 1 else v
  let s := { s with link := { s.link with msix := Tbl.put (msixDefault k) s.link.msix k v } }
  s.flushVector (k / 4)

/-- A write to the MSI-X table or the PBA: 4 or 8 bytes. -/
def State.msixWrite (s : State) (idx sub size : Nat) (v : Word64) : State :=
  if idx = 1 then s
  else
    let s := s.setMsix sub (v.setWidth 32)
    if size = 8 then s.setMsix (sub + 1) ((v >>> 32).setWidth 32) else s

/-- A write over BAR0. The upper half of a 64-bit entry comes from WHI, which is then 0 (DEDUCED, log entry 96). -/
def State.bar0Write (s : State) (idx sub size : Nat) (v : Word64) (poisoned : Bool) : State :=
  let s := if poisoned && s.link.up then s.poisonedTlp else s
  if !s.bar0On then s
  else if poisoned then s.setAccStat .right
  else if idx ≤ 1 ∧ (size = 4 ∨ (size = 8 ∧ sub % 2 = 0)) then (s.msixWrite idx sub size v).setAccStat .done
  else if size ≠ 4 then s.setAccStat .size
  else if s.dev = devBoot ∧ !bootEntry idx then s.setAccStat .state
  else
    let wide := match entryOf idx sub with
      | some e => e.wide
      | none => false
    let low := v &&& mask 31 0
    let full := if wide then low ||| (s.reg 0x2A01 3 <<< 32) else low
    let s := if wide then s.setReg 0x2A01 3 0 else s
    let (s, st) := s.entryWrite .bar0 idx sub full
    s.setAccStat st

/-- A word of the MSI-X table or of the PBA. -/
def State.msixRead (s : State) (idx sub : Nat) : Word32 :=
  if idx = 0 then s.msixWord sub
  else if sub < 2 then (s.link.pba >>> (32 * sub)).setWidth 32 else 0

/-- A read that completes as unsupported. -/
def State.bar0Refuse (s : State) : State := (s.count 0x3A00 3).emit (.bar0 true 0)

/-- A read of size bytes over BAR0: of a 64-bit entry bits [31:0], the rest in RHI. A refused read returns 0; one
of another size, or not aligned, which the size 0 stands for, is unsupported (R386). A read in a function that
does not serve it completes as unsupported; over a link that is down, nothing comes (DEDUCED, log entry 96). -/
def State.bar0Read (s : State) (idx sub size : Nat) : State :=
  if !s.bar0On then
    if s.link.up then s.bar0Refuse else s
  else if idx ≤ 1 ∧ (size = 4 ∨ (size = 8 ∧ sub % 2 = 0)) then
    let hi := if size = 8 then (s.msixRead idx (sub + 1)).setWidth 64 <<< 32 else 0
    (s.emit (.bar0 false ((s.msixRead idx sub).setWidth 64 ||| hi))).setAccStat .done
  else if size ≠ 4 then s.bar0Refuse.setAccStat .size
  else if s.dev = devBoot ∧ !bootEntry idx then (s.emit (.bar0 false 0)).setAccStat .state
  else
    let (s, st, v) := s.entryRead .pcie idx sub
    let wide := match entryOf idx sub with
      | some e => e.wide
      | none => false
    let s := if wide && st == .done then s.setReg 0x2A01 2 (v >>> 32) else s
    (s.emit (.bar0 false (v &&& mask 31 0))).setAccStat st

/-! ### MCTP (R396, R397) -/

def State.mctpOn (s : State) : Bool := decide (devBoot ≤ s.dev) && s.link.up && s.link.resetAt.isNone

/-- The status of a response as it leaves: a start or a link reset may have cut it off. -/
def State.mctpReply (s : State) (st : Status) (v : Word64) : State :=
  if s.mctpOn then s.emit (.mctp st.p v) else s

def State.mctpWrite (s : State) (idx sub : Nat) (v : Word64) : State :=
  if !s.mctpOn then s
  else
    let (s, st) := s.entryWrite .mctp idx sub v
    s.mctpReply st 0

def State.mctpRead (s : State) (idx sub : Nat) : State :=
  if !s.mctpOn then s
  else
    let (s, st, v) := s.entryRead .pcie idx sub
    s.mctpReply st v

/-! ### SDO (R418, R421, R423) -/

/-- The port takes SDO requests. -/
def State.sdoOn (s : State) : Bool := s.canOn && (s.nmt == nmtOperational || s.nmt == nmtPre)

/-- A response: its command, the entry, the size and the eight bytes. -/
def State.sdoSend (s : State) (cmd idx sub size : Nat) (v : Word64) : State :=
  s.canSend 0x580 ([BitVec.ofNat 8 cmd] ++ leBytes 2 idx ++ leBytes 1 sub ++ leBytes 1 size ++ [0, 0, 0]
    ++ leBytes 8 v.toNat)

/-- A frame of another format, or a request of another length or command, is discarded and counted. -/
def State.sdoFrame (s : State) (form : CanForm) (f : State → State) : State :=
  if form = .request then f s else if s.canOn then s.canDiscard else s

def State.sdoAbort (s : State) (idx sub : Nat) (st : Status) : State :=
  (s.sdoSend 0x80 idx sub 0 (BitVec.ofNat 64 st.c)).count 0x3001 7

/-- The width of an entry in bytes. -/
def entryBytes (idx sub : Nat) : Nat :=
  match entryOf idx sub with
  | some e => if e.wide then 8 else 4
  | none => 0

/-- (DEDUCED, log entry 26.) -/
def State.sdoWrite (s : State) (idx sub size : Nat) (v : Word64) : State :=
  if !s.sdoOn then s
  else
    let s := s.canAccept
    if s.can.serving then s.sdoAbort idx sub .inUse
    else if (entryOf idx sub).isSome ∧ size ≠ entryBytes idx sub then s.sdoAbort idx sub .size
    else
      let (s, st) := s.entryWrite .sdo idx sub v
      if st ≠ .done then s.sdoAbort idx sub st
      else if s.can.serving then s
      else s.sdoSend 0x60 idx sub 0 0

def State.sdoRead (s : State) (idx sub : Nat) : State :=
  if !s.sdoOn then s
  else
    let s := s.canAccept
    if s.can.serving then s.sdoAbort idx sub .inUse
    else
      let (s, st, v) := s.entryRead .can idx sub
      if st ≠ .done then s.sdoAbort idx sub st else s.sdoSend 0x42 idx sub (entryBytes idx sub) v

/-! ### Any way in -/

/-- A write as it arrives over a way into the dictionary. -/
def State.dictWrite (s : State) (via : Via) (idx sub size : Nat) (v : Word64) (poisoned : Bool) : State :=
  match via with
  | .bar0 => s.bar0Write idx sub size v poisoned
  | .mctp => s.mctpWrite idx sub v
  | .sdo => s.sdoWrite idx sub size v
  | .rpdo => if s.canOperational && s.canOn then (s.entryWrite .rpdo idx sub v).1 else s
  | .directed => if s.switchOn then (s.entryWrite .directed idx sub v).1 else s

/-- A write of an entry at its own width (DEDUCED, log entry 104). -/
def State.dictPut (s : State) (via : Via) (idx sub : Nat) (v : Word64) : State :=
  s.dictWrite via idx sub (if via = .bar0 then 4 else entryBytes idx sub) v false

/-- A read as it arrives. -/
def State.dictRead (s : State) (via : Via) (idx sub : Nat) : State :=
  match via with
  | .bar0 => s.bar0Read idx sub 4
  | .mctp => s.mctpRead idx sub
  | .sdo => s.sdoRead idx sub
  | .rpdo => s
  | .directed => if s.switchOn then (s.entryRead .fab idx sub).1 else s

end Sys2Proof.Machine
end

