-- ==== Sys2Proof/Machine/Directed.lean ====
section
/-! DEFINITION. Directed frames: paths, the access at their end, and replies on their way back (R336,
R371). -/

namespace Sys2Proof.Machine

/-! ### Words of a directed frame -/

def frameWord (w : List Word32) (i : Nat) : Word32 := w.getD i 0

/-- A field of a word. -/
def wordField (w : List Word32) (i hi lo : Nat) : Nat := fieldOf ((frameWord w i).setWidth 64) hi lo
def setWordField (w : List Word32) (i hi lo v : Nat) : List Word32 :=
  (List.range 10).map fun j =>
    if j = i then (withField ((frameWord w j).setWidth 64) hi lo v).setWidth 32 else frameWord w j

def dfHops (w : List Word32) : Nat := wordField w 2 31 26
def dfNext (w : List Word32) : Nat := wordField w 2 25 20
def dfReply (w : List Word32) : Bool := wordField w 2 19 19 == 1

/-- Sub-port n of the path. -/
def dfPath (w : List Word32) (n : Nat) : Nat := wordField w (3 + n / 8) (31 - 4 * (n % 8)) (28 - 4 * (n % 8))
def setPath (w : List Word32) (n port : Nat) : List Word32 :=
  setWordField w (3 + n / 8) (31 - 4 * (n % 8)) (28 - 4 * (n % 8)) port
def setNext (w : List Word32) (n : Nat) : List Word32 := setWordField w 2 25 20 n

/-- The frame as a reply with a status. -/
def asReply (w : List Word32) (status : Nat) : List Word32 := setWordField (setWordField w 2 19 19 1) 2 15 8 status

/-! ### Sending -/

/-- The frame with this module's header. -/
def State.headed (s : State) (i : Nat) (w : List Word32) : List Word32 :=
  [s.linkW0 3 i, s.fabId] ++ (List.range 8).map fun j => frameWord w (j + 2)

/-- Send on a sub-port; a port that is not there loses it. -/
def State.sendDirected (s : State) (i : Nat) (w : List Word32) : State :=
  if s.portExists i then s.sendLink i (s.headed i w) else s

/-- A reply goes back where the frame came from, or to the local agent. -/
def State.replyTo (s : State) (arr : Option Nat) (w : List Word32) : State :=
  match arr with
  | some i => s.sendDirected i w
  | none => s.emit (.agent w)

/-! ### The access -/

/-- Execute the access with the fabric manager's rights: status and value for the reply (DEDUCED, log entry 98). -/
def State.directedAccess (s : State) (w : List Word32) : State × Nat × Word64 :=
  let idx := wordField w 7 23 8
  let sub := wordField w 7 7 0
  let v : Word64 := ((frameWord w 8).setWidth 64 <<< 32) ||| (frameWord w 9).setWidth 64
  let op := wordField w 7 31 30
  if op = 1 then
    let (s, st, x) := s.entryRead .fab idx sub
    (s, st.f, x)
  else if op = 2 then
    let (s, st) := s.entryWrite .directed idx sub v
    (s, st.f, v)
  else (s, Status.right.f, v)

def withValue (w : List Word32) (v : Word64) : List Word32 :=
  setWordField (setWordField w 8 31 0 (v.toNat / 2 ^ 32)) 9 31 0 (v.toNat % 2 ^ 32)

/-- At the end of its path. -/
def State.directedEnd (s : State) (arr : Option Nat) (w : List Word32) : State :=
  let (s, st, v) := s.directedAccess w
  s.replyTo arr (asReply (withValue w v) st)

/-- Along its path. -/
def State.directedOn (s : State) (arr : Option Nat) (w : List Word32) : State :=
  let n := dfNext w
  let out := dfPath w n
  let w := setNext (setPath w n (arr.getD 0)) (n + 1)
  if s.portUp out then s.sendDirected out w else s.replyTo arr (asReply w 4)

def State.directedIn (s : State) (arr : Option Nat) (w : List Word32) : State :=
  if dfNext w = dfHops w then s.directedEnd arr w
  else if dfNext w < dfHops w ∧ dfHops w ≤ 32 then s.directedOn arr w
  else s

/-- A link frame of type directed arrives on a direct port. -/
def State.directedFrom (s : State) (i : Nat) (w : List Word32) (take : State → State) : State :=
  if !s.hears i then s
  else
    let s := s.heard i (plainBytes (4 * w.length))
    if s.portExt i || linkVer (frameWord w 0) != 1 || linkType (frameWord w 0) != 3 then s.refuseFrame i else take s

/-- Back along its path. -/
def State.replyIn (s : State) (w : List Word32) : State :=
  let n := dfNext w
  if n = 0 then s
  else
    let w := setNext w (n - 1)
    if n = 1 then s.emit (.agent w) else s.sendDirected (dfPath w (n - 1)) w

/-- A frame from a port, or one that the local agent begins here. -/
def execDirectedFrameReceive (port : Option Port) (w : List Word32) (s : State) : Host.Outcome State Fault Refusal :=
  .next (match port with
    | some i => s.directedFrom i w fun s => if dfReply w then s.replyIn w else s.directedIn (some i) w
    | none => if s.switchOn && !dfReply w then s.directedIn none w else s)

def execDirectedReplyReceive (port : Port) (w : List Word32) (s : State) : Host.Outcome State Fault Refusal :=
  .next (s.directedFrom port w fun s => if dfReply w then s.replyIn w else s.directedIn (some port) w)

end Sys2Proof.Machine
end

