-- ==== Sys2Proof/Machine/Host.lean ====
section
/-! DEFINITION. The PCI Express link: training, BAR2, interrupts unmasked, completions from the host, MCTP,
and the link's resets (R42, R215, R380 to R398). -/

namespace Sys2Proof.Machine

/-! ### The link (R380, R381, R383) -/

def linkWidths : List Nat := [16, 8, 4, 2, 1]

/-- The link trains, or retrains, to a rate and a width that the device supports, after some replays (PRESUMED,
log entry 99). -/
def State.linkTrain (s : State) (speed width replays : Nat) : State :=
  if s.dev < devBoot || speed == 0 || decide (width ∉ linkWidths) then s
  else
    let s := s.count 0x3A00 9 replays
    let s := if s.link.up then s.count 0x3A00 0x0B else s
    let s := s.setReg 0x2A00 1 (packWord [(speed, 0), (width, 3), ((decide (6 ≤ speed)).toNat, 8)])
    { s with link := { s.link with up := true } }

def execPcieLinkTrain (speed : Fin 8) (width : Nat) (s : State) (replays : Nat := 0) : Host.Outcome State Fault Refusal :=
  .next (s.linkTrain speed.val width replays)

/-! ### BAR2 (R42, R215, R383, R384, R437) -/

/-- Bytes that BAR2 claims. -/
def State.bar2Bytes (s : State) : Nat := s.link.bar2Gib * 2 ^ 30

def State.bar2On (s : State) : Bool := s.serving && !s.deaf

/-- How the host's accesses move bytes: writes do not allocate (R160). -/
def bar2Move : Move := ⟨.pcie, none, none, false⟩

/-- The reads of a BAR2 access go to their home slices; it is answered once all have come (DEDUCED, log entry
101). -/
def State.bar2Serve (s : State) (a n : Nat) : State :=
  let acc := s.nextReq
  let s := { s with link := { s.link with waits := s.link.waits ++ [(acc, a, n)] } }
  s.readRange bar2Move (localAddr a) n (.bar2 acc)

/-- Bytes the host writes go to their home slices, poisoned where the TLP is. -/
def State.bar2Store (s : State) (a : Nat) (data : List Byte) (poisoned : Bool) : State :=
  s.writeRange bar2Move (localAddr a) (data.map (·, poisoned)) (.bar2 s.nextReq 0)

/-- A read that the function does not serve. -/
def State.bar2Refuse (s : State) : State :=
  if s.link.up then (s.count 0x3A00 3).emit (.bar2 true [] false) else s

def State.bar2Read (s : State) (a n : Nat) : State :=
  if s.bar2Bytes < a + n then s
  else if !s.bar2On || decide (hbmBytes < a + n) then s.bar2Refuse
  else s.bar2Serve a n

def execBar2Read (addr len : Nat) (s : State) : Host.Outcome State Fault Refusal := .next (s.bar2Read addr len)

def State.bar2Write (s : State) (a : Nat) (data : List Byte) (poisoned : Bool) : State :=
  if s.bar2Bytes < a + data.length || s.deaf then s
  else
    let s := if poisoned then s.poisonedTlp else s
    if !s.serving || decide (hbmBytes < a + data.length) then s
    else s.bar2Store a data poisoned

def execBar2Write (addr : Nat) (data : List Byte) (poisoned : Bool) (s : State) :
    Host.Outcome State Fault Refusal := .next (s.bar2Write addr data poisoned)

/-! ### Interrupts (R389, R390) -/

/-- The host clears a vector's mask bit. -/
def State.unmask (s : State) (vec : Nat) : State :=
  if s.bar0On then s.setMsix (4 * vec + 3) 0 else s

def execMsixUnmask (vec : Fin 64) (s : State) : Host.Outcome State Fault Refusal := .next (s.unmask vec.val)

/-! ### Completions from the host (R394, R395) -/

/-- A read that the host has to answer. -/
def State.hostReq (s : State) (id : Nat) : Option Req :=
  (s.req? id).filter fun r => r.kind == .read && r.stage == .waiting && s.addrKind r.addr (max 1 r.len) == .host

/-- Its bytes return to the master (DESIGN CHOICE, log entry 11). -/
def State.hostData (s : State) (r : Req) (data : List Byte) (pois : Bool) : State :=
  let bs := (List.range r.len).map fun i => data.getD i 0
  s.updReq r.id fun q => { q with stage := .done bs pois, route := s.replyFar r }

/-- What the completion of a read counts (R395, R400). -/
def State.countCompletion (s : State) : HostRead → State
  | .ok _ => s
  | .poisoned _ => s.poisonedTlp
  | .ur => s.count 0x3A00 7
  | .ca => s.count 0x3A00 7
  | .timeout => s.count 0x3A00 5

/-- A tag comes back, and the oldest read that waits for one of its pool goes out (R392). -/
def State.tagBack (s : State) (id : Nat) : State :=
  let pool := (s.link.tags.filter fun t => t.1 == id).map (·.2)
  let s := { s with link := { s.link with tags := s.link.tags.filter fun t => t.1 ≠ id } }
  match s.reqs.find? fun r => s.wantsTag r && pool.contains r.master.tagPool with
  | some r => s.hostAsk r
  | none => s

/-- A completion that carries a tag in use; its read may be gone (R314). -/
def State.hostComplete (s : State) (id : Nat) (c : HostRead) : State :=
  if !(s.onLink id) then s
  else
    let s := s.countCompletion c
    let s := match s.hostReq id with
      | none => s
      | some r =>
        match c with
        | .ok data => s.hostData r data false
        | .poisoned data => s.hostData r data true
        | .ur => s.refuseReq id
        | .ca => s.refuseReq id
        | .timeout => s.refuseReq id
    s.tagBack id

def execHostReadCompletion (id : Nat) (r : HostRead) (s : State) : Host.Outcome State Fault Refusal :=
  .next (if s.deaf then s else s.hostComplete id r)

def execHostCompletionTimeout (id : Nat) (s : State) : Host.Outcome State Fault Refusal :=
  .next (s.hostComplete id .timeout)

/-! ### MCTP (R396, R397, R489) -/

def execMctpSetEndpointId (eid : Byte) (s : State) : Host.Outcome State Fault Refusal :=
  .next (if s.mctpOn then { s with link := { s.link with eid := eid } } else s)

def execMctpReadEntry (idx : BitVec 16) (sub : BitVec 8) (s : State) : Host.Outcome State Fault Refusal :=
  .next (s.mctpRead idx.toNat sub.toNat)

def execMctpWriteEntry (idx : BitVec 16) (sub : BitVec 8) (value : Word64) (s : State) :
    Host.Outcome State Fault Refusal := .next (s.mctpWrite idx.toNat sub.toNat value)

/-- Fresh evidence is asked for: one at a time, while firmware runs (DEDUCED, log entry 102). -/
def State.askEvidence (s : State) (nonce : List Byte) : State :=
  if !s.mctpOn then s
  else if !s.bring.firmware then s.emit (.evidence 5 [])
  else if s.flash.fresh.isSome then s.emit (.evidence 3 [])
  else { s with flash := { s.flash with fresh := some nonce } }

def execMctpGetEvidence (nonce : List Byte) (s : State) : Host.Outcome State Fault Refusal :=
  .next (s.askEvidence nonce)

/-! ### Resets of the link (R398) -/

/-- Reads of rings and heads, which no job owns. -/
def Purpose.ofSeq : Purpose → Bool
  | .pi _ _ => true
  | .ci _ _ => true
  | .entry _ _ => true
  | .head _ => true
  | _ => false

/-- One context: its jobs end without records, its rings close, and it is ACTIVE (DEDUCED, log entry 33). -/
def State.resetCtx (s : State) (c : Nat) : State :=
  let s := s.killWork c [] false
  let s := (List.range 8).foldl (fun s r => s.setBit (0x2840 + c) (4 * r + 2) 0 false) s
  let s := s.setBit (0x2850 + c) 2 0 false
  let s := s.setCtx c { s.ctx c with headBusy := false, held := [] }
  s.setCtxState c ctxActive

/-- The effect of every link reset on the device (DEDUCED, log entry 33). -/
def State.linkClear (s : State) : State :=
  let s := (List.range 16).foldl State.resetCtx s
  let s := ((s.setReg 0x2A01 1 0).setReg 0x2A01 2 0).setReg 0x2A01 3 0
  { s with
    reqs := s.reqs.filter fun r => !(r.purpose.ofSeq && r.kind == .read)
    seq := { s.seq with rings := [], owed := [] }
    link := { s.link with resetAt := some s.time.now, msix := [], pba := 0, waits := [], tags := [] } }

/-- All but a function-level reset take the link down with them (PRESUMED, log entry 99). -/
def State.linkReset (s : State) (k : LinkResetKind) : State :=
  if s.dev < devBoot then s
  else
    let s := s.linkClear
    if k = .flr then s
    else ({ s with link := { s.link with up := false, d3 := false } }).setReg 0x2A00 1 0

def execLinkReset (kind : LinkResetKind) (s : State) : Host.Outcome State Fault Refusal := .next (s.linkReset kind)

def execD3hotEntry (s : State) : Host.Outcome State Fault Refusal :=
  .next (if s.dev < devBoot || !s.link.up then s
    else let s := s.linkClear; { s with link := { s.link with d3 := true } })

def execD0Entry (s : State) : Host.Outcome State Fault Refusal :=
  .next { s with link := { s.link with d3 := false } }

/-- The function serves again. -/
def execLinkResetRecovery (s : State) : Host.Outcome State Fault Refusal :=
  .next { s with link := { s.link with resetAt := none } }

end Sys2Proof.Machine
end

