-- ==== Sys2Proof/Machine/Writes.lean ====
section
/-! DEFINITION. The commands that are one access to one entry of the dictionary, each named by a row of its
own. The value of a write over BAR0 to a 64-bit entry is its low word; the high word comes from WHI (R387). -/

namespace Sys2Proof.Machine

/-- A write of any entry (R407 to R412). -/
def execDictionaryWrite (via : Via) (idx : BitVec 16) (sub : BitVec 8) (size : Nat) (value : Word64)
    (poisoned : Bool) (s : State) : Host.Outcome State Fault Refusal :=
  .next (s.dictWrite via idx.toNat sub.toNat size value poisoned)

/-- A read of a counter's low word latches its high word for the path (R115). -/
def execCounterLowRead (via : Via) (idx : BitVec 16) (sub : BitVec 8) (s : State) :
    Host.Outcome State Fault Refusal := .next (s.dictRead via idx.toNat sub.toNat)

/-! ### Caddies (R154, R169, R176, R179 to R187) -/

/-- CADFLUSH.GO (R169). -/
def execCaddyFlush (via : Via) (s : State) : Host.Outcome State Fault Refusal :=
  .next (s.dictPut via 0x2310 0x10 1)

/-- DREGSGUARD (R176). -/
def execDregsguardWrite (via : Via) (value : Word32) (s : State) : Host.Outcome State Fault Refusal :=
  .next (s.dictPut via 0x2310 8 (value.setWidth 64))

/-- REGPLACE, word k (R154). -/
def execRegionPlacementWrite (via : Via) (k : Fin 24) (value : Word32) (s : State) :
    Host.Outcome State Fault Refusal := .next (s.dictPut via 0x2320 (k.val + 1) (value.setWidth 64))

/-- PINSHARE (R179). -/
def execPinshareWrite (via : Via) (value : Word32) (s : State) : Host.Outcome State Fault Refusal :=
  .next (s.dictPut via 0x2310 4 (value.setWidth 64))

/-- PINCTL with OP 0b01 (R180, R181). -/
def execPinRequest (via : Via) (pref : Bool) (owner : BitVec 5) (s : State) : Host.Outcome State Fault Refusal :=
  .next (s.dictPut via 0x2311 3 (packWord [(1, 0), (pref.toNat, 2), (owner.toNat, 3)]))

/-- PINCTL with OP 0b10 (R180, R182). -/
def execUnpinRequest (via : Via) (s : State) : Host.Outcome State Fault Refusal :=
  .next (s.dictPut via 0x2311 3 2)

/-- CADEVENT (R187). -/
def execCadeventClear (via : Via) (value : Word32) (s : State) : Host.Outcome State Fault Refusal :=
  .next (s.dictPut via 0x2310 0x0C (value.setWidth 64))

/-! ### Network on chip and integrity (R201, R216, R218, R222) -/

/-- NCWEIGHT 0 to 6, DLSHARE (R201). -/
def execNcweightDlshareWrite (via : Via) (sub : Fin 8) (value : Word32) (s : State) :
    Host.Outcome State Fault Refusal := .next (s.dictPut via 0x2410 (sub.val + 1) (value.setWidth 64))

/-- The index of an error log: two of the caddies, then eight of the stacks (R216). -/
def celogIdx (log : Nat) : Nat := if log < 2 then 0x2430 + log else 0x2438 + (log - 2)

/-- CELOG.VALID of one entry (R216). -/
def execCelogClear (via : Via) (log : Fin 10) (i : Fin 32) (s : State) : Host.Outcome State Fault Refusal :=
  .next (s.dictPut via (celogIdx log.val) (i.val + 1) (packWord [(1, 43)]))

/-- INTEVENT (R218). -/
def execInteventClear (via : Via) (value : Word32) (s : State) : Host.Outcome State Fault Refusal :=
  .next (s.dictPut via 0x2420 1 (value.setWidth 64))

/-- SCRUBNAT, or SCRUBIDLE where `idle` (R222). -/
def execScrubEnableWrite (via : Via) (idle : Bool) (value : Word32) (s : State) :
    Host.Outcome State Fault Refusal :=
  .next (s.dictPut via (if idle then 0x2461 else 0x2460) 1 (value.setWidth 64))

/-! ### Thread groups and random generation (R269, R282) -/

/-- TGFAULT (R269). -/
def execTgfaultClear (via : Via) (value : Word64) (s : State) : Host.Outcome State Fault Refusal :=
  .next (s.dictPut via 0x2620 8 value)

/-- RNGSEED of a context (R282). -/
def execRngseedWrite (via : Via) (ctx : Ctx) (value : Word64) (s : State) : Host.Outcome State Fault Refusal :=
  .next (s.dictPut via 0x2701 (ctx.val + 1) value)

/-! ### Sequencer (R291, R309, R311 to R314) -/

/-- RINGCTL with EN 1 (R291). -/
def execRingEnable (via : Via) (ctx : Ctx) (ring : Ring) (value : Word32) (s : State) :
    Host.Outcome State Fault Refusal :=
  .next (s.dictPut via (0x2840 + ctx.val) (4 * ring.val + 2) ((value ||| 1).setWidth 64))

/-- RINGCTL with EN 0 (R291). -/
def execRingDisable (via : Via) (ctx : Ctx) (ring : Ring) (value : Word32) (s : State) :
    Host.Outcome State Fault Refusal :=
  .next (s.dictPut via (0x2840 + ctx.val) (4 * ring.val + 2) ((value &&& 0xFFFFFFFE).setWidth 64))

/-- CQCTL with EN 1 (R309). -/
def execCqEnable (via : Via) (ctx : Ctx) (value : Word32) (s : State) : Host.Outcome State Fault Refusal :=
  .next (s.dictPut via (0x2850 + ctx.val) 2 ((value ||| 1).setWidth 64))

/-- CTXCTL, SAVE (R312). -/
def execCtxSave (via : Via) (ctx : Ctx) (s : State) : Host.Outcome State Fault Refusal :=
  .next (s.dictPut via 0x2860 (ctx.val + 1) 1)

/-- CTXCTL, RESTORE (R313). -/
def execCtxRestore (via : Via) (ctx : Ctx) (s : State) : Host.Outcome State Fault Refusal :=
  .next (s.dictPut via 0x2860 (ctx.val + 1) 2)

/-- CTXCTL, KILL (R314). -/
def execCtxKill (via : Via) (ctx : Ctx) (s : State) : Host.Outcome State Fault Refusal :=
  .next (s.dictPut via 0x2860 (ctx.val + 1) 3)

/-- CTXCTL, RESUME (R314). -/
def execCtxResume (via : Via) (ctx : Ctx) (s : State) : Host.Outcome State Fault Refusal :=
  .next (s.dictPut via 0x2860 (ctx.val + 1) 4)

/-! ### Fabric time (R315, R317, R319) -/

/-- FTNOW.SEC (R315). -/
def execFtnowRead (via : Via) (s : State) : Host.Outcome State Fault Refusal := .next (s.dictRead via 0x2880 1)

/-- FTCFG (R317). -/
def execFtcfgSrcWrite (via : Via) (value : Word32) (s : State) : Host.Outcome State Fault Refusal :=
  .next (s.dictPut via 0x2881 1 (value.setWidth 64))

/-- FTTOD (R319). -/
def execFttodWrite (via : Via) (value : Word64) (s : State) : Host.Outcome State Fault Refusal :=
  .next (s.dictPut via 0x2881 3 value)

/-! ### Fabric (R330, R345, R377) -/

/-- RTDATA: the routing entry that RTSEL names (R345). -/
def execRtdataWrite (via : Via) (value : Word32) (s : State) : Host.Outcome State Fault Refusal :=
  .next (s.dictPut via 0x2930 2 (value.setWidth 64))

/-- NODECFG (R330). -/
def execNodecfgWrite (via : Via) (value : Word32) (s : State) : Host.Outcome State Fault Refusal :=
  .next (s.dictPut via 0x2910 1 (value.setWidth 64))

/-- MQCFG.FLUSH, its EN and OWNER as they are (R377) (DEDUCED, log entry 104). -/
def execMqFlush (via : Via) (rx : Bool) (q : Queue) (s : State) : Host.Outcome State Fault Refusal :=
  .next (s.dictPut via (mqIdx rx) (q.val + 1) ((s.reg (mqIdx rx) (q.val + 1) &&& 0x1F) ||| 0x20))

/-! ### BAR0 and SDO (R387, R423) -/

def execBar0WideRead (idx : BitVec 16) (sub : BitVec 8) (s : State) (size : Nat := 4) : Host.Outcome State Fault Refusal :=
  .next (s.bar0Read idx.toNat sub.toNat size)

def execBar0WideWrite (idx : BitVec 16) (sub : BitVec 8) (low : Word32) (s : State) :
    Host.Outcome State Fault Refusal := .next (s.dictPut .bar0 idx.toNat sub.toNat (low.setWidth 64))

def execSdoRead (idx : BitVec 16) (sub : BitVec 8) (s : State) (form : CanForm := .request) : Host.Outcome State Fault Refusal :=
  .next (s.sdoFrame form fun s => s.dictRead .sdo idx.toNat sub.toNat)

def execSdoWrite (idx : BitVec 16) (sub : BitVec 8) (size : Nat) (value : Word64) (s : State)
    (form : CanForm := .request) :
    Host.Outcome State Fault Refusal :=
  .next (s.sdoFrame form fun s => s.dictWrite .sdo idx.toNat sub.toNat size value false)

/-! ### The configuration area (R415, R416) -/

/-- 1010:01 (R415). -/
def execConfigStore (via : Via) (value : Word32) (s : State) : Host.Outcome State Fault Refusal :=
  .next (s.dictPut via 0x1010 1 (value.setWidth 64))

/-- 1011:01 (R416). -/
def execConfigRestore (via : Via) (value : Word32) (s : State) : Host.Outcome State Fault Refusal :=
  .next (s.dictPut via 0x1011 1 (value.setWidth 64))

/-! ### RPDO1 (R428) -/

/-- The writes that an RPDO1 selects: limit, ramp, floor (DEDUCED, log entry 103). -/
def rpdoWrites (data : List Byte) : List (Nat × Word64) :=
  let v (i : Nat) : Word64 := BitVec.ofNat 64 (leNat ((data.drop i).take 2))
  let sel := data.getD 6 0
  ([(2, v 0, sel.getLsbD 0), (5, v 2, sel.getLsbD 1), (6, v 4, sel.getLsbD 2)].filter fun w => w.2.2).map
    fun w => (w.1, w.2.1)

/-- RPDO1: all selected values are written, or none (DEDUCED, log entry 103). -/
def State.rpdo (s : State) (data : List Byte) : State :=
  if !(s.canOn && s.nmt == nmtOperational && !s.bit 0x1400 1 31) then s
  else if data.length ≠ 8 then s.canDiscard.unnamedEmergency 0x8210
  else
    let s := s.canAccept
    let ws := rpdoWrites data
    if ws.all fun w => (s.entryWrite .rpdo 0x2100 w.1 w.2).2 == .done then
      ws.foldl (fun s w => (s.entryWrite .rpdo 0x2100 w.1 w.2).1) s
    else (s.count 0x3001 0x11).unnamedEmergency 0xFF20

def execRpdo1Receive (data : List Byte) (s : State) : Host.Outcome State Fault Refusal := .next (s.rpdo data)

/-! ### Bring-up, security, snapshots (R472, R490, R494, R496) -/

/-- RSTCTL with CMD 0b01 (R472). -/
def execColdStartCommand (via : Via) (s : State) : Host.Outcome State Fault Refusal :=
  .next (s.dictPut via 0x2B00 2 1)

/-- RSTCTL with CMD 0b10 (R472). -/
def execWarmRestartCommand (via : Via) (s : State) : Host.Outcome State Fault Refusal :=
  .next (s.dictPut via 0x2B00 2 2)

/-- SVNCOMMIT (R490). -/
def execSvnCommit (via : Via) (value : Word32) (s : State) : Host.Outcome State Fault Refusal :=
  .next (s.dictPut via 0x2D01 1 (value.setWidth 64))

/-- AGECTL.GO (R494). -/
def execAgectlGo (via : Via) (s : State) : Host.Outcome State Fault Refusal :=
  .next (s.dictPut via 0x2B30 1 1)

/-- SNAPCTL with ARM 1 (R496). -/
def execSnapshotArm (via : Via) (value : Word32) (s : State) : Host.Outcome State Fault Refusal :=
  .next (s.dictPut via 0x2C00 1 ((value ||| 1).setWidth 64))

/-- SNAPCTL with TRIG 1 (R496). -/
def execSnapshotTrigger (via : Via) (value : Word32) (s : State) : Host.Outcome State Fault Refusal :=
  .next (s.dictPut via 0x2C00 1 ((value ||| 2).setWidth 64))

end Sys2Proof.Machine
end

