-- ==== Sys2Proof/Machine/Dispatch.lean ====
section
/-! DEFINITION. The effect of each command: one arm for each row of the opcode table. -/

namespace Sys2Proof.Machine

def exec (i : Instr) (s : State) : Host.Outcome State Fault Refusal :=
  match i with
  | .dictionaryWrite via idx sub size value poisoned => Sys2Proof.Machine.execDictionaryWrite via idx sub size value poisoned s
  | .counterLowRead via idx sub => Sys2Proof.Machine.execCounterLowRead via idx sub s
  | .lineQualify l errs => Sys2Proof.Machine.execLineQualify l errs s
  | .spareLineSwitch l => Sys2Proof.Machine.execSpareLineSwitch l s
  | .descriptorRead cl => Sys2Proof.Machine.execDescriptorRead cl s
  | .descriptorReadReturn cl => Sys2Proof.Machine.execDescriptorReadReturn cl s
  | .stationaryLoad cl errs => Sys2Proof.Machine.execStationaryLoad cl s errs
  | .movingVectorIssue cl errs => Sys2Proof.Machine.execMovingVectorIssue cl s errs
  | .osTileIssue cl errs => Sys2Proof.Machine.execOsTileIssue cl s errs
  | .epilogueDrainStart cl => Sys2Proof.Machine.execEpilogueDrainStart cl s
  | .epilogueWrite cl errs => Sys2Proof.Machine.execEpilogueWrite cl s errs
  | .fillRequest cl seg => Sys2Proof.Machine.execFillRequest cl seg s
  | .fillDataReturn id => Sys2Proof.Machine.execFillDataReturn id s
  | .multicastMemberArrive cl => Sys2Proof.Machine.execMulticastMemberArrive cl s
  | .multicastTimeout cl => Sys2Proof.Machine.execMulticastTimeout cl s
  | .cupTokenTakeGrant cl t => Sys2Proof.Machine.execCupTokenTakeGrant cl t s
  | .cupTokenPost cl t => Sys2Proof.Machine.execCupTokenPost cl t s
  | .cupTokenTimeout cl t => Sys2Proof.Machine.execCupTokenTimeout cl t s
  | .descriptorFsig cl pos => Sys2Proof.Machine.execDescriptorFsig cl pos s
  | .sliceRead id errs tagLost => Sys2Proof.Machine.execSliceRead id errs tagLost s
  | .markedRead id errs tagLost => Sys2Proof.Machine.execMarkedRead id s errs tagLost
  | .sliceWrite id errs tagLost => Sys2Proof.Machine.execSliceWrite id s errs tagLost
  | .prefetchRequest base len => Sys2Proof.Machine.execPrefetchRequest base len s
  | .prefetchFetchIssue cad slice => Sys2Proof.Machine.execPrefetchFetchIssue cad slice s
  | .atomicAtHomeSlice id errs tagLost => Sys2Proof.Machine.execAtomicAtHomeSlice id s errs tagLost
  | .caddyFlush via => Sys2Proof.Machine.execCaddyFlush via s
  | .caddyFlushDone => Sys2Proof.Machine.execCaddyFlushDone s
  | .dregsguardWrite via value => Sys2Proof.Machine.execDregsguardWrite via value s
  | .regionPlacementWrite via k value => Sys2Proof.Machine.execRegionPlacementWrite via k value s
  | .regionInvalidateWalkDone region => Sys2Proof.Machine.execRegionInvalidateWalkDone region s
  | .pinshareWrite via value => Sys2Proof.Machine.execPinshareWrite via value s
  | .pinRequest via pref owner => Sys2Proof.Machine.execPinRequest via pref owner s
  | .unpinRequest via => Sys2Proof.Machine.execUnpinRequest via s
  | .pinFirstWalkDone => Sys2Proof.Machine.execPinFirstWalkDone s
  | .pinSecondWalkDone => Sys2Proof.Machine.execPinSecondWalkDone s
  | .pinPrefetchDone => Sys2Proof.Machine.execPinPrefetchDone s
  | .unpinWalkDone => Sys2Proof.Machine.execUnpinWalkDone s
  | .killUnpinWalk => Sys2Proof.Machine.execKillUnpinWalk s
  | .thrashWindowEnd => Sys2Proof.Machine.execThrashWindowEnd s
  | .cadeventClear via value => Sys2Proof.Machine.execCadeventClear via value s
  | .hbmSectorReadReturn id flip sev => Sys2Proof.Machine.execHbmSectorReadReturn id flip sev s
  | .hbmWriteIssue id flip sev => Sys2Proof.Machine.execHbmWriteIssue id s flip sev
  | .streamDetectorFree cad det => Sys2Proof.Machine.execStreamDetectorFree cad det s
  | .hbmTemperatureReport stack temp => Sys2Proof.Machine.execHbmTemperatureReport stack temp s
  | .hbmRefresh stack ch pc bank => Sys2Proof.Machine.execHbmRefresh stack ch pc bank s
  | .arbitrationGrant p => Sys2Proof.Machine.execArbitrationGrant p s
  | .ncweightDlshareWrite via sub value => Sys2Proof.Machine.execNcweightDlshareWrite via sub value s
  | .sramCorrectedWriteback => Sys2Proof.Machine.execSramCorrectedWriteback s
  | .celogClear via log i_ => Sys2Proof.Machine.execCelogClear via log i_ s
  | .inteventClear via value => Sys2Proof.Machine.execInteventClear via value s
  | .softRepair cad i_ => Sys2Proof.Machine.execSoftRepair cad i_ s
  | .softRepairStore => Sys2Proof.Machine.execSoftRepairStore s
  | .scrubEnableWrite via idle value => Sys2Proof.Machine.execScrubEnableWrite via idle value s
  | .scrubHbmSector stack ch pc flip sev => Sys2Proof.Machine.execScrubHbmSector stack ch pc flip sev s
  | .scrubCaddyLine cad slice errs tagLost => Sys2Proof.Machine.execScrubCaddyLine cad slice errs tagLost s
  | .blockPlace cl => Sys2Proof.Machine.execBlockPlace cl s
  | .groupIssue cl sched uses reuse found => Sys2Proof.Machine.execGroupIssue cl sched uses reuse s found
  | .aluInstruction th op => Sys2Proof.Machine.execAluInstruction th op s
  | .gmat th mask fa fb a b c => Sys2Proof.Machine.execGmat th mask fa fb a b c s
  | .xlaneGet th mask d a lane => Sys2Proof.Machine.execXlaneGet th mask d a lane s
  | .xlanePoll th mask kind d p => Sys2Proof.Machine.execXlanePoll th mask kind d p s
  | .xlaneFold th mask kind signed d a => Sys2Proof.Machine.execXlaneFold th mask kind signed d a s
  | .convergenceTimeout cl sched slot => Sys2Proof.Machine.execConvergenceTimeout cl sched slot s
  | .ld th d a bytes parityBad => Sys2Proof.Machine.execLd th d a bytes parityBad s
  | .ldByp th d a bytes => Sys2Proof.Machine.execLdByp th d a bytes s
  | .ldDregs th d a bytes => Sys2Proof.Machine.execLdDregs th d a bytes s
  | .loadReturn id => Sys2Proof.Machine.execLoadReturn id s
  | .st th a v bytes => Sys2Proof.Machine.execSt th a v bytes s
  | .memoryAtomic th op ty d a v => Sys2Proof.Machine.execMemoryAtomic th op ty d a v s
  | .localLoad th d a bytes errs => Sys2Proof.Machine.execLocalLoad th d a bytes errs s
  | .localStore th a v bytes => Sys2Proof.Machine.execLocalStore th a v bytes s
  | .localAtomic th op ty d a v errs => Sys2Proof.Machine.execLocalAtomic th op ty d a v s errs
  | .windowLoad th d a bytes errs => Sys2Proof.Machine.execWindowLoad th d a bytes s errs
  | .windowStore th a v bytes => Sys2Proof.Machine.execWindowStore th a v bytes s
  | .prefetch th a len => Sys2Proof.Machine.execPrefetch th a len s
  | .fenceBlock th => Sys2Proof.Machine.execFenceBlock th s
  | .fenceDevice th => Sys2Proof.Machine.execFenceDevice th s
  | .fenceFabric th => Sys2Proof.Machine.execFenceFabric th s
  | .fenceComplete cl sched slot => Sys2Proof.Machine.execFenceComplete cl sched slot s
  | .barBlock th => Sys2Proof.Machine.execBarBlock th s
  | .barrierTimeout cl blk => Sys2Proof.Machine.execBarrierTimeout cl blk s
  | .ctTake th ctr n => Sys2Proof.Machine.execCtTake th ctr n s
  | .ctPost th ctr n => Sys2Proof.Machine.execCtPost th ctr n s
  | .cvt th c d a => Sys2Proof.Machine.execCvt th c d a s
  | .cvtX2 th c d a => Sys2Proof.Machine.execCvtX2 th c d a s
  | .rngU32 th d => Sys2Proof.Machine.execRngU32 th d s
  | .rngNorm th d => Sys2Proof.Machine.execRngNorm th d s
  | .rngKseed th d key coord => Sys2Proof.Machine.execRngKseed th d key coord s
  | .cvtK th c d a s_ => Sys2Proof.Machine.execCvtK th c d a s_ s
  | .cvtX2K th c d a s_ => Sys2Proof.Machine.execCvtX2K th c d a s_ s
  | .rngU32K th d s_ => Sys2Proof.Machine.execRngU32K th d s_ s
  | .rngNormK th d s_ => Sys2Proof.Machine.execRngNormK th d s_ s
  | .exit th => Sys2Proof.Machine.execExit th s
  | .tgfaultClear via value => Sys2Proof.Machine.execTgfaultClear via value s
  | .mqBegin th q => Sys2Proof.Machine.execMqBegin th q s
  | .mqPut th q a => Sys2Proof.Machine.execMqPut th q a s
  | .mqEnd th q lenb dnode dqueue => Sys2Proof.Machine.execMqEnd th q lenb dnode dqueue s
  | .mqGet th q d => Sys2Proof.Machine.execMqGet th q d s
  | .rngseedWrite via ctx value => Sys2Proof.Machine.execRngseedWrite via ctx value s
  | .ringEnable via ctx ring value => Sys2Proof.Machine.execRingEnable via ctx ring value s
  | .ringDisable via ctx ring value => Sys2Proof.Machine.execRingDisable via ctx ring value s
  | .ciReadReturn ctx ring => Sys2Proof.Machine.execCiReadReturn ctx ring s
  | .pollTick => Sys2Proof.Machine.execPollTick s
  | .piReadReturn ctx ring => Sys2Proof.Machine.execPiReadReturn ctx ring s
  | .jobEntryFetch ctx ring => Sys2Proof.Machine.execJobEntryFetch ctx ring s
  | .jobEntryReturn ctx ring => Sys2Proof.Machine.execJobEntryReturn ctx ring s
  | .computeJobStart job => Sys2Proof.Machine.execComputeJobStart job s
  | .copyJobStart job => Sys2Proof.Machine.execCopyJobStart job s
  | .prefetchJobStart job => Sys2Proof.Machine.execPrefetchJobStart job s
  | .pinJobStart job => Sys2Proof.Machine.execPinJobStart job s
  | .fenceJobStart job => Sys2Proof.Machine.execFenceJobStart job s
  | .collectiveJobStart job slot => Sys2Proof.Machine.execCollectiveJobStart job slot s
  | .jobDropLate job => Sys2Proof.Machine.execJobDropLate job s
  | .computeJobComplete job => Sys2Proof.Machine.execComputeJobComplete job s
  | .copyJobComplete job => Sys2Proof.Machine.execCopyJobComplete job s
  | .pinJobComplete job => Sys2Proof.Machine.execPinJobComplete job s
  | .completionTimerExpire ctx => Sys2Proof.Machine.execCompletionTimerExpire ctx s
  | .cqEnable via ctx value => Sys2Proof.Machine.execCqEnable via ctx value s
  | .headaddrReadReturn ctx => Sys2Proof.Machine.execHeadaddrReadReturn ctx s
  | .ctxSave via ctx => Sys2Proof.Machine.execCtxSave via ctx s
  | .saveDrainTimeout ctx => Sys2Proof.Machine.execSaveDrainTimeout ctx s
  | .saveStateWrite ctx => Sys2Proof.Machine.execSaveStateWrite ctx s
  | .ctxSaved ctx => Sys2Proof.Machine.execCtxSaved ctx s
  | .ctxRestore via ctx => Sys2Proof.Machine.execCtxRestore via ctx s
  | .restoreSlotWrite ctx cl => Sys2Proof.Machine.execRestoreSlotWrite ctx cl s
  | .ctxRestored ctx => Sys2Proof.Machine.execCtxRestored ctx s
  | .ctxKill via ctx => Sys2Proof.Machine.execCtxKill via ctx s
  | .ctxResume via ctx => Sys2Proof.Machine.execCtxResume via ctx s
  | .ftnowRead via => Sys2Proof.Machine.execFtnowRead via s
  | .ftcfgSrcWrite via value => Sys2Proof.Machine.execFtcfgSrcWrite via value s
  | .fttodWrite via value => Sys2Proof.Machine.execFttodWrite via value s
  | .ppsEdge => Sys2Proof.Machine.execPpsEdge s
  | .ftSourceLossTimeout => Sys2Proof.Machine.execFtSourceLossTimeout s
  | .powerProjection => Sys2Proof.Machine.execPowerProjection s
  | .helloSend port => Sys2Proof.Machine.execHelloSend port s
  | .helloReceive port smac w0 w1 w2 w3 => Sys2Proof.Machine.execHelloReceive port smac w0 w1 w2 w3 s
  | .portAlignmentSettled port => Sys2Proof.Machine.execPortAlignmentSettled port s
  | .pcsAlignmentLoss port => Sys2Proof.Machine.execPcsAlignmentLoss port s
  | .fecUncorrectableBurst port n fixed => Sys2Proof.Machine.execFecUncorrectableBurst port n s fixed
  | .helloTimeout port => Sys2Proof.Machine.execHelloTimeout port s
  | .topologyRecordOriginate => Sys2Proof.Machine.execTopologyRecordOriginate s
  | .topologyRecordReceive port w0 w1 w2 links => Sys2Proof.Machine.execTopologyRecordReceive port w0 w1 w2 links s
  | .directedFrameReceive port w => Sys2Proof.Machine.execDirectedFrameReceive port w s
  | .directedReplyReceive port w => Sys2Proof.Machine.execDirectedReplyReceive port w s
  | .neighbourSolicitation port smac prefx node iid => Sys2Proof.Machine.execNeighbourSolicitation port smac prefx node iid s
  | .morotikFrameReceive port f fcs => Sys2Proof.Machine.execMorotikFrameReceive port f fcs s
  | .egressTransmit port errs => Sys2Proof.Machine.execEgressTransmit port s errs
  | .rtdataWrite via value => Sys2Proof.Machine.execRtdataWrite via value s
  | .nodecfgWrite via value => Sys2Proof.Machine.execNodecfgWrite via value s
  | .ptpMessageSend port kind => Sys2Proof.Machine.execPtpMessageSend port kind s
  | .ptpSyncReceive port origin arrival correction domain => Sys2Proof.Machine.execPtpSyncReceive port origin arrival correction s domain
  | .ptpAnnounceReceive port a => Sys2Proof.Machine.execPtpAnnounceReceive port a s
  | .announceReceiptTimeout port => Sys2Proof.Machine.execAnnounceReceiptTimeout port s
  | .writeReceive => Sys2Proof.Machine.execWriteReceive s
  | .readreqReceive => Sys2Proof.Machine.execReadreqReceive s
  | .readrespReceive => Sys2Proof.Machine.execReadrespReceive s
  | .atomicReceive => Sys2Proof.Machine.execAtomicReceive s
  | .atomicrespReceive => Sys2Proof.Machine.execAtomicrespReceive s
  | .ackReceive => Sys2Proof.Machine.execAckReceive s
  | .ackSend node cls => Sys2Proof.Machine.execAckSend node cls s
  | .retransmitTimeout node cls => Sys2Proof.Machine.execRetransmitTimeout node cls s
  | .msgReceive => Sys2Proof.Machine.execMsgReceive s
  | .collReceive => Sys2Proof.Machine.execCollReceive s
  | .collctlRtsReceive => Sys2Proof.Machine.execCollctlRtsReceive s
  | .collctlCtsReceive => Sys2Proof.Machine.execCollctlCtsReceive s
  | .creditReceive port counts => Sys2Proof.Machine.execCreditReceive port counts s
  | .creditSend port => Sys2Proof.Machine.execCreditSend port s
  | .rateIncreaseInterval node cls => Sys2Proof.Machine.execRateIncreaseInterval node cls s
  | .collPhaseTime slot => Sys2Proof.Machine.execCollPhaseTime slot s
  | .reduceChunkCombine slot chunk => Sys2Proof.Machine.execReduceChunkCombine slot chunk s
  | .mqMessageSend q => Sys2Proof.Machine.execMqMessageSend q s
  | .mqFlush via rx q => Sys2Proof.Machine.execMqFlush via rx q s
  | .mqFlushRelease rx q => Sys2Proof.Machine.execMqFlushRelease rx q s
  | .pcieLinkTrain speed width replays => Sys2Proof.Machine.execPcieLinkTrain speed width s replays
  | .bar0WideRead idx sub size => Sys2Proof.Machine.execBar0WideRead idx sub s size
  | .bar0WideWrite idx sub low => Sys2Proof.Machine.execBar0WideWrite idx sub low s
  | .bar2Read addr len => Sys2Proof.Machine.execBar2Read addr len s
  | .bar2Write addr data poisoned => Sys2Proof.Machine.execBar2Write addr data poisoned s
  | .bar4StagingWrite off data poisoned => Sys2Proof.Machine.execBar4StagingWrite off data poisoned s
  | .fwVerify => Sys2Proof.Machine.execFwVerify s
  | .fwVerifyWrite => Sys2Proof.Machine.execFwVerifyWrite s
  | .fwVerifyRun => Sys2Proof.Machine.execFwVerifyRun s
  | .fwCommandDone flashOk => Sys2Proof.Machine.execFwCommandDone flashOk s
  | .msixUnmask vec => Sys2Proof.Machine.execMsixUnmask vec s
  | .hostReadCompletion id r => Sys2Proof.Machine.execHostReadCompletion id r s
  | .hostCompletionTimeout id => Sys2Proof.Machine.execHostCompletionTimeout id s
  | .mctpSetEndpointId eid => Sys2Proof.Machine.execMctpSetEndpointId eid s
  | .mctpReadEntry idx sub => Sys2Proof.Machine.execMctpReadEntry idx sub s
  | .mctpWriteEntry idx sub value => Sys2Proof.Machine.execMctpWriteEntry idx sub value s
  | .mctpGetEvidence nonce => Sys2Proof.Machine.execMctpGetEvidence nonce s
  | .linkReset kind => Sys2Proof.Machine.execLinkReset kind s
  | .d3hotEntry => Sys2Proof.Machine.execD3hotEntry s
  | .linkResetRecovery => Sys2Proof.Machine.execLinkResetRecovery s
  | .configStore via value => Sys2Proof.Machine.execConfigStore via value s
  | .configStoreDone flashOk => Sys2Proof.Machine.execConfigStoreDone flashOk s
  | .configRestore via value => Sys2Proof.Machine.execConfigRestore via value s
  | .configRestoreDone flashOk => Sys2Proof.Machine.execConfigRestoreDone flashOk s
  | .sdoRead idx sub form => Sys2Proof.Machine.execSdoRead idx sub s form
  | .sdoWrite idx sub size value form => Sys2Proof.Machine.execSdoWrite idx sub size value s form
  | .nmtStart => Sys2Proof.Machine.execNmtStart s
  | .nmtStop => Sys2Proof.Machine.execNmtStop s
  | .nmtEnterPreOperational => Sys2Proof.Machine.execNmtEnterPreOperational s
  | .nmtResetNode => Sys2Proof.Machine.execNmtResetNode s
  | .nmtResetCommunication => Sys2Proof.Machine.execNmtResetCommunication s
  | .heartbeatSend => Sys2Proof.Machine.execHeartbeatSend s
  | .emcySend => Sys2Proof.Machine.execEmcySend s
  | .tpdo2Send => Sys2Proof.Machine.execTpdo2Send s
  | .rpdo1Receive data => Sys2Proof.Machine.execRpdo1Receive data s
  | .busOffRecovery => Sys2Proof.Machine.execBusOffRecovery s
  | .powerSlot watts decivolts activity => Sys2Proof.Machine.execPowerSlot watts decivolts activity s
  | .stepRampComplete => Sys2Proof.Machine.execStepRampComplete s
  | .inputOvervoltage => Sys2Proof.Machine.execInputOvervoltage s
  | .inputUndervoltage => Sys2Proof.Machine.execInputUndervoltage s
  | .inputOutOfRange => Sys2Proof.Machine.execInputOutOfRange s
  | .sensorRead x => Sys2Proof.Machine.execSensorRead x s
  | .rateDemandExpire => Sys2Proof.Machine.execRateDemandExpire s
  | .thermalDemandUpdate => Sys2Proof.Machine.execThermalDemandUpdate s
  | .modelGovernSwitch zone => Sys2Proof.Machine.execModelGovernSwitch zone s
  | .standbyPowerApply => Sys2Proof.Machine.execStandbyPowerApply s
  | .standbyPowerLoss => Sys2Proof.Machine.execStandbyPowerLoss s
  | .inputReturn => Sys2Proof.Machine.execInputReturn s
  | .coldStartCommand via => Sys2Proof.Machine.execColdStartCommand via s
  | .warmRestartCommand via => Sys2Proof.Machine.execWarmRestartCommand via s
  | .firmwareVerifyDone => Sys2Proof.Machine.execFirmwareVerifyDone s
  | .bootPhaseEnd => Sys2Proof.Machine.execBootPhaseEnd s
  | .powerWave w => Sys2Proof.Machine.execPowerWave w s
  | .leafPowerupCheck ok => Sys2Proof.Machine.execLeafPowerupCheck ok s
  | .poweringPhaseEnd => Sys2Proof.Machine.execPoweringPhaseEnd s
  | .trainingPhaseEnd trained => Sys2Proof.Machine.execTrainingPhaseEnd trained s
  | .marchTest cad responds failing => Sys2Proof.Machine.execMarchTest cad responds failing s
  | .knownAnswerTest cl firstFail => Sys2Proof.Machine.execKnownAnswerTest cl firstFail s
  | .checkingPhaseEnd => Sys2Proof.Machine.execCheckingPhaseEnd s
  | .converterFault => Sys2Proof.Machine.execConverterFault s
  | .modRstAssert => Sys2Proof.Machine.execModRstAssert s
  | .modRstRelease => Sys2Proof.Machine.execModRstRelease s
  | .svnCommit via value => Sys2Proof.Machine.execSvnCommit via value s
  | .svnFuseDone => Sys2Proof.Machine.execSvnFuseDone s
  | .standingEvidence => Sys2Proof.Machine.execStandingEvidence s
  | .laneRepairRecordWrite => Sys2Proof.Machine.execLaneRepairRecordWrite s
  | .ageingLogWrite => Sys2Proof.Machine.execAgeingLogWrite s
  | .ageingReplanDue => Sys2Proof.Machine.execAgeingReplanDue s
  | .agectlGo via => Sys2Proof.Machine.execAgectlGo via s
  | .ageingReplan vmin => Sys2Proof.Machine.execAgeingReplan vmin s
  | .snapshotArm via value => Sys2Proof.Machine.execSnapshotArm via value s
  | .snapshotTrigger via value => Sys2Proof.Machine.execSnapshotTrigger via value s
  | .snapshotFtMatch => Sys2Proof.Machine.execSnapshotFtMatch s
  | .snapInEdge => Sys2Proof.Machine.execSnapInEdge s
  | .snapshotCopyDone => Sys2Proof.Machine.execSnapshotCopyDone s
  | .ppsOutPulse => Sys2Proof.Machine.execPpsOutPulse s
  | .pcsAligned port => Sys2Proof.Machine.execPcsAligned port s
  | .ptpPdelayReceive port kind t1 t2 t3 t4 domain => Sys2Proof.Machine.execPtpPdelayReceive port kind t1 t2 t3 t4 s domain
  | .clusterReserve job => Sys2Proof.Machine.execClusterReserve job s
  | .evidenceReady => Sys2Proof.Machine.execEvidenceReady s
  | .d0Entry => Sys2Proof.Machine.execD0Entry s
  | .canBusError tec rec_ => Sys2Proof.Machine.execCanBusError tec rec_ s

end Sys2Proof.Machine
end

