-- ==== Sys2Proof/Machine/Tick.lean ====
section
/-! DEFINITION. A clock of the block: what passes where no command waits (R43, R114, R116, R255, R271, R315,
R318, R345, R373, R426, R437, R495). -/

namespace Sys2Proof.Machine

/-! ### Clocks (R43, R435) -/

/-- Periods in units of 1/9009 ps: the core's at steps 0 to 7, the spout's, the management clock's. -/
def corePeriods : List Nat := [4290000, 4620000, 5005000, 5460000, 6006000, 7507500, 10010000, 15015000]
def spoutPeriod : Nat := 5630625
def mgmtPeriod : Nat := 11261250

/-- The period of one tick: a core clock, or a management clock while core clocks stand still. -/
def State.tickPeriod (s : State) : Nat :=
  if s.coreStopped then mgmtPeriod else corePeriods.getD s.power.clk mgmtPeriod

/-- The correction of FT in one tick: at most 100 ppm (R318) (DEDUCED, log entry 60). -/
def slewStep (slew : Int) (period : Nat) : Int :=
  let most : Int := period / 10000
  max (-most) (min most slew)

/-- Time passes; FT runs with the spout (DESIGN CHOICE, log entry 1). -/
def State.clock (s : State) : State :=
  let p := s.tickPeriod
  let t := s.time
  let core := if s.coreStopped then t.core else t.core + 1
  let now := t.now + p
  if s.spoutOn then
    let d := slewStep t.slew p
    { s with time := { t with
        now := now, core := core, spout := t.spout + (now / spoutPeriod - t.now / spoutPeriod)
        ft := ((t.ft : Int) + p + d).toNat, ftPrev := t.ft, slew := t.slew - d } }
  else { s with time := { t with now := now, core := core } }

/-! ### Clusters (R114, R116, R242, R255, R271) -/

/-- An engine's clock goes to one class (DEDUCED, log entry 105). -/
def State.engineClock (s : State) (cl : Nat) : State :=
  let e := s.engine cl
  let s := s.count (0x3500 + cl) (2 * e.clockClass.code + 1)
  if e.loadClk = 0 ∧ e.busyClk = 0 ∧ e.bankClk = 0 then s
  else s.setEngine cl { e with loadClk := e.loadClk - 1, busyClk := e.busyClk - 1
                               bankClk := if e.busyClk = 0 then e.bankClk - 1 else e.bankClk }

/-- Threads held at collectives and barriers. -/
def Tg.held (t : Tg) : Nat :=
  (t.groups.map fun g => (g.2.threads.filter fun x => match x.run with
    | .atColl => true
    | .atBar _ => true
    | _ => false).length).foldl (· + ·) 0

/-- Schedulers that have no eligible group and are not busy, as far as the registers that the next instructions
need are known (R271) (DEDUCED, log entry 105). -/
def Tg.noneEligible (t : Tg) (now : Nat) : Nat :=
  ((List.range 4).filter fun i => (Tbl.find t.issue i).isNone && decide (Tbl.get 0 t.freeAt i ≤ now)
    && t.groups.all fun g => g.1 / 12 != i || g.2.readyLanes (Tbl.get [] t.uses i) now == []).length

/-- The convergence timeouts of a TG whose context runs. -/
def Tg.wait (t : Tg) : Tg :=
  { t with
    colls := t.colls.map fun c => { c with waited := c.waited + 1 }
    blocks := t.blocks.map fun b => (b.1, { b.2 with barWait := b.2.barWait.map (· + 1) }) }

def State.tgClock (s : State) (cl : Nat) : State :=
  let t := s.tg cl
  let none_ := t.noneEligible s.time.core
  let s := if none_ = 0 then s else s.count (0x3600 + cl) 5 none_
  let s := if t.held = 0 then s else s.count (0x3600 + cl) 7 t.held
  let runs := match s.jobOn cl with
    | some j => s.ctxState j.ctx.val == ctxActive
    | none => false
  if runs && (t.colls != [] || t.blocks != []) then s.setTg cl t.wait else s

/-- A core clock of the clusters that run (DEDUCED, log entry 105). -/
def State.clusterClocks (s : State) : State :=
  if s.coreStopped then s
  else (List.range 64).foldl (fun s cl => if s.clusterOn cl then (s.engineClock cl).tgClock cl else s) s

/-! ### Message queues (R373) -/

def State.mqClocks (s : State) (core : Bool) (spouts : Nat) : State :=
  s.fabric.mq.foldl (fun s e =>
    let rx := decide (64 ≤ e.1)
    let m := if core then e.2.coreClock rx else e.2
    let m := (List.range spouts).foldl (fun m _ => m.spoutClock rx) m
    s.setMq rx (e.1 % 64) m) s

/-! ### Collectives, ports, the CAN port, ageing -/

/-- Every running collective goes as far as it can (DEDUCED, log entry 74). -/
def State.collClocks (s : State) : State := s.fabric.colls.foldl (fun s c => s.collRun c.1) s

/-- A port that is DOWN and enabled trains, once ports train (R326, R345) (DEDUCED, log entry 65). -/
def State.retrain (s : State) : State :=
  if s.switchOn && decide (devTraining ≤ s.dev) then
    (List.range 16).foldl (fun s i =>
      if s.portExists i && s.portEn i && s.portState i == portDown then s.setPortState i portTraining else s) s
  else s

/-- TPDO1 begins on the bus (R426, R429) (DEDUCED, log entry 63). -/
def State.sendTpdo1 (s : State) : State :=
  match s.can.tpdo1 with
  | some data =>
    if s.canOperational && s.canOn && s.passedNs s.can.pdo1At (100000 * s.fld 0x1800 3 15 0) then
      let s := { s with can := { s.can with tpdo1 := none, pdo1At := s.time.now } }
      s.canSend 0x180 data
    else s
  | none => s

/-- Powered-on time of the leaves (R495). -/
def State.ageClock (s : State) (period : Nat) : State :=
  if s.bring.leafOn = 0 then s else { s with age := { s.age with units := s.age.units + period } }

/-- One clock: nothing passes in a module without standby power (DESIGN CHOICE, log entry 1). -/
def State.tick (s : State) : State :=
  if s.dev = devOff then s
  else
    let t := s.killFaulted.clock
    ((((t.clusterClocks.mqClocks (!s.coreStopped) (t.time.spout - s.time.spout)).collClocks.retrain).sendTpdo1).ageClock
      s.tickPeriod)

end Sys2Proof.Machine
end

