-- ==== Sys2Proof/Safety.lean ====
section
/-! DEFINITION. What a safe run is: no command stops it, and every step keeps the canonical form of the
tables, so that equal contents are equal data. And the terms in which statements say what a command leaves
unchanged. -/

namespace Sys2Proof.Machine

/-- The outcome is a next state. -/
def Answers (o : Host.Outcome State Fault Refusal) : Prop := ∃ t, o = .next t

/-- HBM's bytes, its list of poisoned sectors and the entries of the dictionary are in canonical form. -/
def State.Canonical (s : State) : Prop :=
  Mem.wf s.hbm.mem = true ∧ s.hbm.poison.Pairwise (· < ·) ∧ Tbl.rising s.regs = true

/-- The parts of the state, but for the queue. -/
inductive Part
  | regs | time | cleared | latches | clusters | mcasts | caddy | hbm | reqs | arb | seq | fabric | link | can
  | power | thermal | bring | flash | age | lanes | snap | out | free
deriving DecidableEq, Repr

/-- A part is the same in two states. -/
def Part.Same (s t : State) : Part → Prop
  | .regs => t.regs = s.regs
  | .time => t.time = s.time
  | .cleared => t.cleared = s.cleared
  | .latches => t.latchP = s.latchP ∧ t.latchC = s.latchC ∧ t.latchF = s.latchF
  | .clusters => t.clusters = s.clusters
  | .mcasts => t.mcasts = s.mcasts
  | .caddy => t.caddy = s.caddy
  | .hbm => t.hbm = s.hbm
  | .reqs => t.reqs = s.reqs ∧ t.nextReq = s.nextReq
  | .arb => t.arb = s.arb
  | .seq => t.seq = s.seq
  | .fabric => t.fabric = s.fabric
  | .link => t.link = s.link
  | .can => t.can = s.can
  | .power => t.power = s.power
  | .thermal => t.thermal = s.thermal
  | .bring => t.bring = s.bring
  | .flash => t.flash = s.flash
  | .age => t.age = s.age
  | .lanes => t.lanes = s.lanes
  | .snap => t.snap = s.snap
  | .out => t.out = s.out
  | .free => t.free = s.free

/-- The queue and every part but those listed are unchanged. -/
def Frame (changed : List Part) (s t : State) : Prop :=
  t.pending = s.pending ∧ ∀ p, p ∉ changed → p.Same s t

/-- Every entry of the dictionary but those listed is unchanged. -/
def Entries (changed : List (Nat × Nat)) (s t : State) : Prop :=
  ∀ idx sub, (∀ k ∈ changed, regKey idx sub ≠ regKey k.1 k.2) → t.reg idx sub = s.reg idx sub

/-- Every byte of HBM and every poison mark outside the cells of a list of sectors is unchanged. -/
def Stored (sectors : List Nat) (s t : State) : Prop :=
  ∀ a, (∀ k ∈ sectors, a / 32 ≠ s.cellOf k / 32) →
    Mem.byte t.hbm.mem a = Mem.byte s.hbm.mem a ∧ (a / 32 ∈ t.hbm.poison ↔ a / 32 ∈ s.hbm.poison)

/-- A command answers a next state in which only the listed parts may differ and a property holds. -/
def Runs (c : Instr) (s : State) (changed : List Part) (post : State → Prop) : Prop :=
  ∃ t, exec c s = .next t ∧ Frame changed s t ∧ post t

/-- Nothing that has finished waits to be heard of, and nothing waits for the last of a set of requests. -/
def State.allHeard (s : State) : Prop :=
  (∀ r ∈ s.reqs, r.finished = false) ∧ s.seq.owed = [] ∧ (∀ e ∈ s.fabric.conns, e.2.exec = none) ∧ s.link.waits = []

/-- No master does anything more when the request is accepted. -/
def Req.quiet (r : Req) : Prop :=
  (∀ cl pos, r.purpose ≠ .epilogue cl pos) ∧ ∀ c irq, r.purpose ≠ .record c irq

/-! ### A write of one entry over a way into the dictionary -/

/-- The way has the right to write the entry and serves a write of it now, and the entry's domain runs
(R386, R397, R407, R409, R421). -/
def State.carries (s : State) (via : Via) (idx sub : Nat) : Bool :=
  decide (Path.of via ∈ rightsOf idx sub) && s.domainOn idx &&
    match via with
    | .bar0 => s.bar0On && (s.dev != devBoot || bootEntry idx)
    | .mctp => s.mctpOn
    | .sdo => s.sdoOn && !s.can.serving
    | .rpdo => s.canOperational && s.canOn
    | .directed => s.switchOn

/-- A value written to an entry leaves it in range (R409). -/
def State.fits (s : State) (idx sub : Nat) (e : Entry) (v : Word64) : Bool :=
  let w := if e.wide then v else v &&& mask 31 0
  inRange idx sub ((e.merged (s.reg idx sub) w &&& ~~~e.wo) ||| (w &&& e.wo))

/-- The state in which the entry is written: over BAR0 a 64-bit entry has used up WHI, over SDO the frame
has been counted. -/
def State.handed (s : State) (via : Via) (idx sub : Nat) : State :=
  match via with
  | .bar0 => if entryBytes idx sub = 8 then s.setReg 0x2A01 3 0 else s
  | .sdo => s.canAccept
  | _ => s

/-- The value that reaches a 64-bit entry: over BAR0 its upper half is WHI. -/
def State.given (s : State) (via : Via) (v : Word64) : Word64 :=
  match via with
  | .bar0 => (v &&& mask 31 0) ||| (s.reg 0x2A01 3 <<< 32)
  | _ => v

/-- What the way answers after an accepted write. -/
def State.answered (t : State) (via : Via) (idx sub : Nat) : State :=
  match via with
  | .bar0 => t.setAccStat .done
  | .mctp => t.mctpReply .done 0
  | .sdo => if t.can.serving then t else t.sdoSend 0x60 idx sub 0 0
  | _ => t

/-- A command writes one entry: from the state in which the entry is written, only the listed parts may
differ and a property holds; then the way answers. -/
def Writes (c : Instr) (via : Via) (idx sub : Nat) (s : State) (changed : List Part)
    (post : State → State → Prop) : Prop :=
  ∃ t, exec c s = .next (t.answered via idx sub) ∧ Frame changed (s.handed via idx sub) t
    ∧ post (s.handed via idx sub) t

/-- Exception flags are set in MEXC, and no flag is cleared (R82). -/
def Flagged (s t : State) (e : Exc) : Prop :=
  ∀ i, i < 64 → ((s.reg 0x2500 0x0C).getLsbD i || (e.setWidth 64).getLsbD i) = true →
    (t.reg 0x2500 0x0C).getLsbD i = true

/-- An atomic has updated its sector, which its line holds, and brings the value before (R166, R260). -/
def AtomicDone (s t : State) (r : Req) (id k : Nat) (op : AtomOp) (ty : AtomTy) (x : Word64 × Word64) (old : Word64) : Prop :=
  t.req? id = some { r with
      stage := .done (oldBytes [old]) false, route := s.routeBack r.master (addrLocal r.addr) }
    ∧ (t.line k).sector (addrLocal r.addr / 32 % 4) = (mergeSector ((s.line k).sector (addrLocal r.addr / 32 % 4))
        false (addrLocal r.addr % 32) (leBytes (atomWidth ty) (atomAll op ty old [x]).1.toNat) false).1
    ∧ (t.line k).valid.getLsbD (addrLocal r.addr / 32 % 4) = true
    ∧ (t.line k).dirty.getLsbD (addrLocal r.addr / 32 % 4) = true
    ∧ Flagged s t (atomExc op ty old [x]) ∧ ∀ j, j ≠ k → t.line j = s.line j

/-- Every cluster but one is unchanged. -/
def OtherClusters (c : Nat) (s t : State) : Prop := ∀ k, k ≠ c → t.cluster k = s.cluster k

/-- The issue set in a scheduler's hand has an instruction to run: its registers lie below R, its threads are
there, each once, and none of them has what makes the instruction fault. -/
def State.inHand (s : State) (th : Th) (regs : List Nat) (bad : State → Ex → Nat → Option (Nat × Word64))
    (x : Ex) : Prop :=
  s.exOf th.cl th.sched = some x ∧ x.regsOk regs = true ∧ x.lanes.Nodup ∧ x.lanes ≠ []
    ∧ ∀ l ∈ x.lanes, l < 32 ∧ ((s.tg x.cl).thread? x.key l).isSome = true ∧ bad s x l = none

/-- The instruction has been run: the scheduler has nothing in hand and is busy for its clocks, and no thread
outside the issue set and no other cluster has changed. -/
def Went (s t : State) (x : Ex) (lanes : List Nat) (rate : Nat) : Prop :=
  OtherClusters x.cl s t ∧ Tbl.find (t.tg x.cl).issue x.sched.val = none
    ∧ Tbl.get 0 (t.tg x.cl).freeAt x.sched.val = s.time.core + rate
    ∧ (∀ k l, (k = x.key → l ∉ lanes) → (t.tg x.cl).thread? k l = (s.tg x.cl).thread? k l)
    ∧ t.engine x.cl = s.engine x.cl

/-- What an instruction writes into the registers of one thread, and nothing else of them: no word of the register
file gains poison, and none that is not written whole loses it (R211). -/
def Wrote (s t : State) (x : Ex) (l : Nat) (rs : List (Nat × Word32)) : Prop :=
  (∀ p ∈ rs, t.rd x l p.1 = p.2) ∧ (∀ r, r ∉ rs.map (·.1) → t.rd x l r = s.rd x l r)
    ∧ (∀ w ∈ (t.thread x l).poison, w ∈ (s.thread x l).poison)
    ∧ ∀ w ∈ (s.thread x l).poison, 2 * w ∉ rs.map (·.1) ∨ 2 * w + 1 ∉ rs.map (·.1) → w ∈ (t.thread x l).poison

/-- The thread goes on at a byte offset of the program. -/
def At (t : State) (x : Ex) (l pc : Nat) : Prop := (t.thread x l).pc = pc ∧ (t.thread x l).run = .running

/-- Clocks after which the result of an instruction on a thread's own registers can be read, or its thread's next
instruction can issue (R265). -/
def aluLatency : AluOp → Nat
  | .mul64 .. => 8
  | .special .. => 12
  | .branch .. | .branchIf .. | .call .. | .ret .. => 2
  | _ => 4

/-- A register of a thread can be read from a core clock on (R265). -/
def From (t : State) (x : Ex) (l r clk : Nat) : Prop := (r, some clk) ∈ (t.thread x l).sb

/-- The threads of the issue set are running, at the PC of the instruction. -/
def State.together (s : State) (x : Ex) : Prop :=
  ∀ l ∈ x.lanes, (s.thread x l).run = .running ∧ (s.thread x l).pc = x.pc

/-- The lanes of a collective that have come, with the issue set. -/
def State.come (s : State) (x : Ex) : Word32 :=
  x.lanes.foldl (fun a l => a ||| ((1 : Word32) <<< l))
    (match (s.tg x.cl).colls.find? fun c => c.group == x.key && c.pc == x.pc with
      | some c => c.arrived
      | none => 0)

/-- A thread-group fault has been noted for the end of the clock, and poisoned data counted as consumed (R217, R266,
R268). -/
def Noted (s t : State) (n : TgNote) : Prop :=
  t.seq = { s.seq with faults := s.seq.faults ++ [n] }
    ∧ Entries (if n.cause = 0x25 then [(intCounter (leafDie n.cl), 7)] else []) s t
    ∧ (n.cause = 0x25 → t.reg (intCounter (leafDie n.cl)) 7 = s.reg (intCounter (leafDie n.cl)) 7 + 1)

/-- What is noted of a fault of an issue set (R268, R269). -/
def Ex.note (x : Ex) (f : TgF) : TgNote := ⟨x.cl, x.sched, x.slot, f.lane, f.cause, x.pc, f.addr, x.job.id⟩

/-- The issue set reaches a collective without a fault, within the convergence timeout (R241, R242). -/
def State.meets (s : State) (th : Th) (mask : Src) (regs : List Nat) (x : Ex) : Prop :=
  s.inHand th (srcRegs mask ++ regs) (poisonBad (srcRegs mask)) x ∧ s.together x
    ∧ s.convergeBad x (fun l => s.src x l mask)
        ((s.tg x.cl).colls.find? fun c => c.group == x.key && c.pc == x.pc) = none
    ∧ ((s.tg x.cl).colls.find? fun c => c.group == x.key && c.pc == x.pc).any (fun c => s.expired c.waited) = false

/-- The lanes of the issue set's mask. -/
def State.maskOf (s : State) (x : Ex) (mask : Src) : List Nat := maskLanes (s.src x (x.lanes.headD 0) mask)

/-- A collective has completed on its lanes, in the clock after the last arrival (R240): they go on together, and its
record is gone. -/
def Met (s t : State) (x : Ex) (all : List Nat) (size rate : Nat) : Prop :=
  Went s t x all (rate + 1) ∧ (t.tg x.cl).colls = (s.tg x.cl).colls.filter (fun c => !(c.group == x.key && c.pc == x.pc))
    ∧ ∀ l ∈ all, At t x l ((s.thread x l).pc + size)

/-- A context has been killed (R267, R314): HALTED with its cause, none of its jobs left, its fence tags 0. -/
def Killed (c cause : Nat) (t : State) : Prop :=
  t.ctxState c = ctxHalted ∧ t.fld 0x2860 (c + 1) 15 8 = cause ∧ t.jobsOf c = []
    ∧ ∀ tag, tag < 256 → t.tagBal c tag = 0

/-- The parts a kill may change. -/
def killParts : List Part :=
  [.regs, .clusters, .mcasts, .caddy, .hbm, .reqs, .seq, .fabric, .link, .can, .snap, .out]

/-- The parts the end of a job may change. -/
def endParts : List Part :=
  [.regs, .clusters, .mcasts, .caddy, .hbm, .reqs, .seq, .fabric, .link, .can, .out]

/-- A job has ended with a record (R167, R303, R308, R309): it is gone, the other jobs stay, and once no write of it is on
its way its record is held while its completion ring is disabled, and issued where the ring is enabled, holds none and has
a free slot. A STATUS of done or dropped has signalled its fence tag (R305). -/
def Ended (s t : State) (j : Job) (e : JobEnd) (r : Rec) : Prop :=
  t.job? j.id = none ∧ (∀ k ∈ s.seq.jobs, k.id ≠ j.id → k ∈ t.seq.jobs)
    ∧ (s.cqEn j.ctx.val = false → (s.removeJob j).writesOut j.id = false →
        (t.ctx j.ctx.val).held = (s.ctx j.ctx.val).held ++ [r])
    ∧ (s.cqEn j.ctx.val = true → (s.removeJob j).writesOut j.id = false → (s.ctx j.ctx.val).held = [] →
        ((BitVec.ofNat 32 (s.ctx j.ctx.val).written) - (s.ctx j.ctx.val).head).toNat < s.cqSize j.ctx.val →
        (t.ctx j.ctx.val).held = [] ∧ (t.ctx j.ctx.val).written = (s.ctx j.ctx.val).written + 1)
    ∧ (∀ n, t.tagBal j.ctx.val n = s.tagBal j.ctx.val n -
        (if n = j.fsig ∧ j.fsig ≠ 0 ∧ (e = .done ∨ e = .dropped) then 1 else 0))

/-- The job's signal leaves its fence tag in range, where its end signals one (R306). -/
def State.signals (s : State) (j : Job) (e : JobEnd) : Prop :=
  j.fsig ≠ 0 → (e = .done ∨ e = .dropped) → tagFits (s.tagBal j.ctx.val j.fsig - 1) = true

/-- The number of the next job names none of the requests and clusters at hand. -/
def State.fresh (s : State) : Prop :=
  (∀ r ∈ s.reqs, r.purpose ≠ .job s.seq.nextJob) ∧ (∀ k ∈ s.seq.jobs, k.id ≠ s.seq.nextJob)
    ∧ ∀ cl, (s.cluster cl).job ≠ some s.seq.nextJob

/-- The job as it has been started (R300, R308). -/
def State.asStarted (s : State) (j : Job) : Job :=
  { j with started := some s.ftNs, startLate := decide (j.nbt ≠ 0 ∧ j.nbt + 1000 < s.ftNs)
           ftUnlock := s.fld 0x2881 2 1 0 != 2 }

/-- The requests there were stay, and new ones have gone out: their master, kind, address, length, data, poison and
purpose. -/
def Issued (s t : State) (rs : List (Master × ReqKind × Word64 × Nat × List Byte × Bool × Purpose)) : Prop :=
  ∃ new : List Req, t.reqs = s.reqs ++ new
    ∧ new.map (fun q => (q.master, q.kind, q.addr, q.len, q.data, q.poisoned, q.purpose)) = rs

/-- No connection has a packet waiting. -/
def State.noneWaits (s : State) : Prop := ∀ e ∈ s.fabric.conns, e.2.waiting = []

/-- The packet at the head of the local port is next in order on its connection: its sender's BOOTID is the one last
heard, no other packet executes, none is held for after it, and fewer than three await an acknowledgement (R356, R357). -/
def State.inTurn (s : State) (f : MFrame) (rest : List (MFrame × Bool)) : Prop :=
  (∃ b, s.fabric.inbox = (f, b) :: rest) ∧ Tbl.get 0 s.fabric.boots f.snode.toNat = f.bootid
    ∧ f.psn = (s.conn f.snode.toNat f.cls).rxPsn ∧ (s.conn f.snode.toNat f.cls).held = []
    ∧ (s.conn f.snode.toNat f.cls).exec = none ∧ (s.conn f.snode.toNat f.cls).ackDue < 3

/-- The packet has left the local port and has been executed: the next PSN is expected, and one packet more awaits an
acknowledgement (R357, R358). -/
def Executed (s t : State) (f : MFrame) (rest : List (MFrame × Bool)) : Prop :=
  t.fabric.inbox = rest ∧ (t.conn f.snode.toNat f.cls).rxPsn = f.psn + 1
    ∧ (t.conn f.snode.toNat f.cls).ackDue = (s.conn f.snode.toNat f.cls).ackDue + 1

/-- The packet has left the local port and executes: its requests have the class of peers (R198, R357). -/
def Executing (s t : State) (f : MFrame) (rest : List (MFrame × Bool)) : Prop :=
  t.fabric.inbox = rest
    ∧ t.conn f.snode.toNat f.cls = { s.conn f.snode.toNat f.cls with exec := some (s.nextReq, f) }

/-- A connection of this module to another node has nothing waiting, and room for a packet (R355). -/
def State.maySend (s : State) (node cls bytes : Nat) : Prop :=
  s.node ≠ 0xFFFF ∧ node ≠ s.node ∧ node < 2 ^ 16 ∧ (s.conn node cls).waiting = [] ∧ (s.conn node cls).unacked.length < 1024
    ∧ s.retransBytes + bytes ≤ 2 ^ 24

/-- One packet has gone out on a connection with its next PSN, and its copy is kept (R355, R359). -/
def Sent (s t : State) (node cls : Nat) (g : MFrame) : Prop :=
  (t.conn node cls).unacked = (s.conn node cls).unacked ++ [⟨(s.conn node cls).txPsn, g, false, false⟩]
    ∧ (t.conn node cls).txPsn = (s.conn node cls).txPsn + 1 ∧ (t.conn node cls).waiting = []
    ∧ g.psn = (s.conn node cls).txPsn ∧ g.dnode.toNat = node

/-- The collective of a slot can do nothing now: of its current phase no piece of the buffer has come, no chunk is at hand to
be sent or applied, and something is still missing (R366 to R368). -/
def State.collIdle (s : State) (c : Collective) : Prop :=
  (∀ r ∈ s.reqs, ∀ k, r.purpose.ofChunk c.job c.phase k = true → r.accepted = false)
    ∧ (phKind (c.ph c.phase) ≠ .reduce → ∀ b ∈ c.bufs, b.phase ≠ c.phase) ∧ (∀ o ∈ c.outs, o.phase ≠ c.phase)
    ∧ (phKind (c.ph c.phase) ≠ .reduce → ∀ x ∈ c.inputs, x.phase ≠ c.phase) ∧ s.phaseDone c = false

/-- The CAN port has been reset (R420, R422): it is Operational and announces itself, no emergency message waits, the
communication entries are as a start leaves them, and the rest of the dictionary is unchanged. -/
def PortReset (s t : State) : Prop :=
  t.nmt = nmtOperational ∧ t.can.emcy = [] ∧ t.out = .can (0x700 + canNode) [0] :: s.out
    ∧ (∀ idx sub, 0x2000 ≤ idx → sub < 256 → idx ≠ 0x2012 → idx ≠ 0x3001 → t.reg idx sub = s.reg idx sub)
    ∧ (s.flash.cfg.ok = false → ∀ idx sub, 0x1000 ≤ idx → idx < 0x2000 → sub < 256 →
        t.reg idx sub = resetValue idx sub)

/-- A snapshot has latched: ARM has fallen, its source, number and time, the counters and the clusters are held, and the copy
has begun (R496, R497). -/
def Snapped (s t : State) (src : SnapSrc) : Prop :=
  t.bit 0x2C00 1 0 = false ∧ t.bit 0x2C00 3 src.bit = true
    ∧ t.fld 0x2C00 3 15 0 = (s.fld 0x2C00 3 15 0 + 1) % 2 ^ 16 ∧ t.reg 0x2C00 4 = BitVec.ofNat 64 s.ftNs
    ∧ t.snap = ⟨s.counters, true, some s.time.now⟩ ∧ ∀ c, c < 64 → t.reg 0x2C10 (c + 1) = s.snapCl c

/-- A start has begun (R46, R471, R473, R478): BOOT, with its kind and cause; the boot ROM runs; nothing is in progress; HBM
keeps its bytes, in self-refresh across a warm restart, which also keeps fabric time; and every entry is at its Reset value
but those of DEVSTATE, FTSTAT, THEVENT and the snapshot. -/
def Started (s t : State) (cold : Bool) (cause : Nat) : Prop :=
  t.dev = devBoot ∧ t.bit 0x2B00 1 6 = !cold ∧ t.fld 0x2B00 1 15 8 = cause ∧ t.bring.rom = true
    ∧ t.bring.firmware = false ∧ t.bring.cold = cold ∧ t.seq.jobs = [] ∧ t.clusters = [] ∧ t.reqs = []
    ∧ t.hbm.mem = s.hbm.mem ∧ t.hbm.poison = s.hbm.poison ∧ t.hbm.selfRef = !cold
    ∧ t.time.ft = (if cold then 0 else s.time.ft) ∧ t.flash.claim = none ∧ t.flash.svn = s.flash.svn
    ∧ ∀ idx sub, sub < 256 → idx ∉ [0x2B00, 0x2881, 0x2220, 0x2C00, 0x2C10] → t.reg idx sub = resetValue idx sub

/-- The parts a start may change. -/
def startParts : List Part :=
  [.regs, .time, .cleared, .latches, .clusters, .mcasts, .caddy, .hbm, .reqs, .arb, .seq, .fabric, .link, .can, .power, .thermal,
   .bring, .flash, .snap]

/-- FAULTED has been entered (R466, R468): every job has ended, every context is HALTED, the leaves are off and HBM is in
self-refresh. -/
def Faulted (t : State) : Prop :=
  t.dev = devFaulted ∧ t.bring.leafOn = 0 ∧ t.hbm.selfRef = true
    ∧ ∀ c, c < 16 → t.jobsOf c = [] ∧ t.ctxState c = ctxHalted

/-- What every link reset does (R398, R503): all jobs have ended and no record was issued; every ring and completion ring is
closed, every context ACTIVE with its fence tags 0; interrupts are forgotten; HBM is not touched. -/
def LinkCleared (s t : State) : Prop :=
  t.seq.jobs = [] ∧ t.seq.rings = [] ∧ t.seq.owed = [] ∧ t.link.msix = [] ∧ t.link.pba = 0 ∧ t.link.waits = [] ∧ t.link.tags = []
    ∧ t.link.resetAt = some s.time.now
    ∧ ∀ c : Ctx, t.ctxState c = ctxActive ∧ (∀ r : Ring, t.ringEn c r = false) ∧ t.cqEn c = false
        ∧ (∀ n, n < 256 → t.tagBal c n = 0) ∧ (t.ctx c).held = [] ∧ (t.ctx c).written = (s.ctx c).written

/-- The parts a link reset may change. -/
def linkParts : List Part := [.regs, .clusters, .mcasts, .caddy, .reqs, .seq, .fabric, .link]

end Sys2Proof.Machine
end

