-- ==== Sys2Proof/Certificates/Slice0/Obligations.lean ====
section
/-! DEFINITION. The statements for the provers. Each docstring names what the statement says; where a clause
rests on a choice of the model it names the log entry. -/

open Sys2Proof Sys2Proof.Machine

/-! ### The block and its dictionary -/

/-- A step with commands waiting runs the first of them on the state with the rest of the queue. -/
def Obligations.StepTakesTheFrontCommand : Prop :=
  ∀ (c : Instr) (rest : List Instr) (s : State), s.pending = c :: rest →
    step s = exec c { s with pending := rest }

/-- On an empty queue one clock passes: a core clock, or a management clock while core clocks stand still; in
OFF nothing changes (DESIGN CHOICE, log entry 1). -/
def Obligations.IdleStepIsOneClock : Prop :=
  ∀ s : State, s.pending = [] → ∃ t, step s = .next t ∧ t.pending = [] ∧ t.latchP = s.latchP ∧ t.flash = s.flash
    ∧ (s.dev = devOff → t = s)
    ∧ (s.dev ≠ devOff → t.time.now = s.time.now + s.tickPeriod
        ∧ t.time.core = s.time.core + (if s.coreStopped then 0 else 1))

/-- Every command answers a next state, and leaves the queue as it stands: no command of the block stops it.
Choices of the model in it: log entries 2, 3. -/
def Obligations.EveryCommandAnswersAndKeepsTheQueue : Prop :=
  ∀ (c : Instr) (s : State), ∃ t, exec c s = .next t ∧ t.pending = s.pending

/-- Every step keeps HBM's bytes, the list of its poisoned sectors and the table of entries in canonical
form. -/
def Obligations.StepKeepsCanonicalForm : Prop :=
  ∀ s t : State, s.Canonical → step s = .next t → t.Canonical

/-- After reset these are in canonical form. -/
def Obligations.ResetIsCanonical : Prop := State.reset.Canonical

/-- After reset every entry of the dictionary holds its Reset value, the device is in BOOT after a cold start,
nothing waits, and every counter, queue and table is empty; some Reset values written out.
Choices of the model in it: log entries 4, 5, 84. -/
def Obligations.ResetHoldsResetValues : Prop :=
  (∀ idx sub e, entryOf idx sub = some e → State.reset.reg idx sub = e.reset)
  ∧ State.reset.dev = devBoot ∧ State.reset.pending = [] ∧ State.reset.reqs = [] ∧ State.reset.hbm.queue = []
  ∧ State.reset.hbm.mem = [] ∧ State.reset.clusters = [] ∧ State.reset.seq.jobs = [] ∧ State.reset.out = []
  ∧ State.reset.caddy.lines = []
  ∧ State.reset.reg 0x1015 0 = 0x000A ∧ State.reset.reg 0x1017 0 = 0x0064 ∧ State.reset.reg 0x2100 2 = 0x07D0
  ∧ State.reset.reg 0x2310 4 = 0x0C ∧ State.reset.reg 0x2410 1 = 8 ∧ State.reset.reg 0x2410 8 = 0x20
  ∧ State.reset.reg 0x2460 1 = 1 ∧ State.reset.reg 0x2461 1 = 0 ∧ State.reset.reg 0x2910 1 = 0xFFFF
  ∧ State.reset.reg 0x3300 1 = 0 ∧ State.reset.reg 0x2B00 1 = 2

/-- A write that is not done changes nothing, whatever the way, the entry and the reason. What a write is checked for, in this
order: that the entry exists, that some bit of it can be written, that the path has the right, that its domain runs, that the
value is in range, or at 1010h is the signature (the order is DEDUCED, log entry 26). -/
def Obligations.WriteChecksComeInOrder : Prop :=
  (∀ (s : State) (via : Via) (idx sub : Nat) (v : Word64),
    (s.entryWrite via idx sub v).2 ≠ .done → (s.entryWrite via idx sub v).1 = s)
  ∧ (∀ (s : State) (via : Via) (idx sub : Nat) (v : Word64),
    (indexExists idx = false → s.entryWrite via idx sub v = (s, .noIndex))
    ∧ (indexExists idx = true → entryOf idx sub = none → s.entryWrite via idx sub v = (s, .noSub))
    ∧ ∀ e, entryOf idx sub = some e →
      (e.writable = false → s.entryWrite via idx sub v = (s, .ro))
      ∧ (e.writable = true → Path.of via ∉ rightsOf idx sub → s.entryWrite via idx sub v = (s, .right))
      ∧ (e.writable = true → Path.of via ∈ rightsOf idx sub → s.domainOn idx = false →
          s.entryWrite via idx sub v = (s, .state))
      ∧ (e.writable = true → Path.of via ∈ rightsOf idx sub → s.domainOn idx = true → s.fits idx sub e v = false →
          s.entryWrite via idx sub v = (s, if idx = 0x1010 then .signature else .range)))

/-- The entries that only hold what is written: those of POTCFG, stream detection, correction thresholds, the
sequencer's ticks, power announcements, the fabric prefix, PTP, the transport's parameters and HOSTWIN. Each way that carries
a write to one of them, and each command that names a way, writes its writable bits and nothing else. -/
def Obligations.PlainEntryTakesItsWritableBits : Prop :=
  (∀ (s : State) (via : Via) (idx sub : Nat) (v : Word64) (e : Entry),
    idx ∈ [0x2300, 0x2400, 0x2450, 0x2810, 0x2890, 0x2920, 0x2940, 0x2970, 0x2A20] →
    entryOf idx sub = some e → e.writable = true → Path.of via ∈ rightsOf idx sub → s.domainOn idx = true →
    s.fits idx sub e v = true →
    ∃ t, s.entryWrite via idx sub v = (t, .done)
      ∧ Frame [.regs] s t ∧ Entries [(idx, sub)] s t
      ∧ ∀ i, i < 64 → (t.reg idx sub).getLsbD i =
          ((if e.rw.getLsbD i then (e.wide || decide (i < 32)) && v.getLsbD i else (s.reg idx sub).getLsbD i)
            && !(e.w1c.getLsbD i && (e.wide || decide (i < 32)) && v.getLsbD i)))
  ∧ (∀ (s : State) (idx : BitVec 16) (sub : BitVec 8) (e : Entry),
    idx.toNat ∈ [0x2300, 0x2400, 0x2450, 0x2810, 0x2890, 0x2920, 0x2940, 0x2970, 0x2A20] →
    entryOf idx.toNat sub.toNat = some e → e.writable = true →
    (∀ (via : Via) (v : Word64), s.carries via idx.toNat sub.toNat = true →
      s.fits idx.toNat sub.toNat e (s.given via v) = true →
      Writes (.dictionaryWrite via idx sub (if via = .bar0 then 4 else entryBytes idx.toNat sub.toNat) v false) via
        idx.toNat sub.toNat s [.regs] fun u t => Entries [(idx.toNat, sub.toNat)] u t
          ∧ t.reg idx.toNat sub.toNat = e.merged (u.reg idx.toNat sub.toNat)
              (if e.wide then s.given via v else s.given via v &&& mask 31 0))
    ∧ (∀ low : Word32, s.carries .bar0 idx.toNat sub.toNat = true →
      s.fits idx.toNat sub.toNat e (s.given .bar0 (low.setWidth 64)) = true →
      Writes (.bar0WideWrite idx sub low) .bar0 idx.toNat sub.toNat s [.regs] fun u t =>
        Entries [(idx.toNat, sub.toNat)] u t ∧ t.reg idx.toNat sub.toNat = e.merged (u.reg idx.toNat sub.toNat)
          (if e.wide then s.given .bar0 (low.setWidth 64) else low.setWidth 64))
    ∧ (∀ v : Word64, s.carries .mctp idx.toNat sub.toNat = true → s.fits idx.toNat sub.toNat e v = true →
      Writes (.mctpWriteEntry idx sub v) .mctp idx.toNat sub.toNat s [.regs] fun u t =>
        Entries [(idx.toNat, sub.toNat)] u t
        ∧ t.reg idx.toNat sub.toNat = e.merged (u.reg idx.toNat sub.toNat) (if e.wide then v else v &&& mask 31 0))
    ∧ (∀ v : Word64, s.carries .sdo idx.toNat sub.toNat = true → s.fits idx.toNat sub.toNat e v = true →
      Writes (.sdoWrite idx sub (entryBytes idx.toNat sub.toNat) v .request) .sdo idx.toNat sub.toNat s [.regs] fun u t =>
        Entries [(idx.toNat, sub.toNat)] u t
        ∧ t.reg idx.toNat sub.toNat = e.merged (u.reg idx.toNat sub.toNat) (if e.wide then v else v &&& mask 31 0)))

/-- What each way into the dictionary makes of a write, and of a refusal: BAR0 reports in ACCSTAT, MCTP in its
response, SDO by a response or an abort code; RPDO1 and directed frames report elsewhere. A frame that is no SDO request of
the port's form is discarded and counted.
Choices of the model in it: log entries 26, 96. -/
def Obligations.EachWayWritesAndReports : Prop :=
  ∀ (s : State) (idx : BitVec 16) (sub : BitVec 8) (v : Word64),
    (∀ size p, s.mctpOn = true →
      exec (.dictionaryWrite .mctp idx sub size v p) s =
        .next (((s.entryWrite .mctp idx.toNat sub.toNat v).1).mctpReply (s.entryWrite .mctp idx.toNat sub.toNat v).2 0))
    ∧ (∀ size p, s.switchOn = true →
      exec (.dictionaryWrite .directed idx sub size v p) s = .next (s.entryWrite .directed idx.toNat sub.toNat v).1)
    ∧ (∀ size p, s.canOperational = true → s.canOn = true →
      exec (.dictionaryWrite .rpdo idx sub size v p) s = .next (s.entryWrite .rpdo idx.toNat sub.toNat v).1)
    ∧ (∀ size p, s.bar0On = true → p = false → 1 < idx.toNat → size ≠ 4 →
      exec (.dictionaryWrite .bar0 idx sub size v p) s = .next (s.setReg 0x2A01 1 4))
    ∧ (∀ size p, s.bar0On = true → p = true →
      exec (.dictionaryWrite .bar0 idx sub size v p) s = .next (s.poisonedTlp.setReg 0x2A01 1 1))
    ∧ (∀ low, s.bar0On = true → 1 < idx.toNat → (s.dev ≠ devBoot ∨ bootEntry idx.toNat = true) →
      entryBytes idx.toNat sub.toNat = 8 →
      ∃ u st, (s.setReg 0x2A01 3 0).entryWrite .bar0 idx.toNat sub.toNat
          ((low.setWidth 64) ||| (s.reg 0x2A01 3 <<< 32)) = (u, st)
        ∧ exec (.bar0WideWrite idx sub low) s = .next (u.setReg 0x2A01 1 (BitVec.ofNat 64 st.p)))
    ∧ (∀ size, s.sdoOn = true → s.can.serving = false → size = entryBytes idx.toNat sub.toNat →
      (s.canAccept.entryWrite .sdo idx.toNat sub.toNat v).2 ≠ .done →
      ∃ u st, s.canAccept.entryWrite .sdo idx.toNat sub.toNat v = (u, st)
        ∧ exec (.sdoWrite idx sub size v .request) s =
          .next ((u.sdoSend 0x80 idx.toNat sub.toNat 0 (BitVec.ofNat 64 st.c)).count 0x3001 7))
    ∧ (∀ size, s.sdoOn = true → s.can.serving = false → size = entryBytes idx.toNat sub.toNat →
      (s.canAccept.entryWrite .sdo idx.toNat sub.toNat v).2 = .done →
      exec (.sdoWrite idx sub size v .request) s =
        .next ((s.canAccept.entryWrite .sdo idx.toNat sub.toNat v).1.answered .sdo idx.toNat sub.toNat))
    ∧ (∀ form size, form ≠ .request → s.canOn = true →
      exec (.sdoWrite idx sub size v form) s = .next (s.count 0x3001 5)
      ∧ exec (.sdoRead idx sub form) s = .next (s.count 0x3001 5))
    ∧ (s.mctpOn = true → ∃ u st, s.entryWrite .mctp idx.toNat sub.toNat v = (u, st)
        ∧ exec (.mctpWriteEntry idx sub v) s = .next (u.mctpReply st 0))

/-- Reads: the low word of a counter latches its high word on its own path, which the next read of the high word
returns; a 64-bit entry leaves its upper half in RHI; a WO entry reads 0; a read of an absent entry reports so; over BAR0 a read
of another size than 4 bytes is unsupported.
Choices of the model in it: log entry 96. -/
def Obligations.ReadsLatchOnTheirOwnPath : Prop :=
  ∀ (s : State) (idx : BitVec 16) (sub : BitVec 8),
    (s.mctpOn = true → s.latchP.view = false → counterTop idx.toNat ≠ 0 → sub.toNat % 2 = 1 →
      sub.toNat ≤ counterTop idx.toNat → s.domainOn idx.toNat = true →
      Runs (.counterLowRead .mctp idx sub) s [.latches, .out] fun t =>
        t.out = .mctp 0 (s.reg idx.toNat sub.toNat &&& mask 31 0) :: s.out
        ∧ t.latchC = s.latchC ∧ t.latchF = s.latchF
        ∧ t.counterRead .pcie idx.toNat (sub.toNat + 1) =
            ((s.reg idx.toNat sub.toNat >>> 32).setWidth 32).setWidth 64)
    ∧ (∀ e, s.bar0On = true → 1 < idx.toNat → (s.dev ≠ devBoot ∨ bootEntry idx.toNat = true) →
      s.domainOn idx.toNat = true → entryOf idx.toNat sub.toNat = some e → e.wide = true →
      Runs (.bar0WideRead idx sub 4) s [.regs, .latches, .out] fun t =>
        t.out = .bar0 false ((s.shown .pcie idx.toNat sub.toNat &&& ~~~e.wo) &&& mask 31 0) :: s.out
        ∧ t.reg 0x2A01 2 = (s.shown .pcie idx.toNat sub.toNat &&& ~~~e.wo) >>> 32
        ∧ t.reg 0x2A01 1 = 0 ∧ Entries [(0x2A01, 1), (0x2A01, 2)] s t)
    ∧ (∀ size, s.bar0On = true → 1 < idx.toNat → size ≠ 4 →
      Runs (.bar0WideRead idx sub size) s [.regs, .out] fun t =>
        t.out = .bar0 true 0 :: s.out ∧ t.reg 0x2A01 1 = 4 ∧ t.reg 0x3A00 3 = s.reg 0x3A00 3 + 1
        ∧ Entries [(0x2A01, 1), (0x3A00, 3)] s t)
    ∧ (∀ e, s.sdoOn = true → s.can.serving = false → s.domainOn idx.toNat = true →
      entryOf idx.toNat sub.toNat = some e →
      ∃ u, s.canAccept.entryRead .can idx.toNat sub.toNat =
          (u, .done, s.canAccept.shown .can idx.toNat sub.toNat &&& ~~~e.wo)
        ∧ Frame [.latches] s.canAccept u ∧ u.latchP = s.latchP ∧ u.latchF = s.latchF
        ∧ exec (.sdoRead idx sub .request) s = .next (u.sdoSend 0x42 idx.toNat sub.toNat
            (entryBytes idx.toNat sub.toNat) (s.canAccept.shown .can idx.toNat sub.toNat &&& ~~~e.wo)))
    ∧ (∀ e, s.sdoOn = true → s.can.serving = false → s.domainOn idx.toNat = true →
      entryOf idx.toNat sub.toNat = some e →
      Runs (.sdoRead idx sub .request) s [.regs, .latches, .out] fun t =>
        t.latchP = s.latchP ∧ t.latchF = s.latchF ∧ Entries [(0x3001, 1), (0x3001, 3)] s t
        ∧ t.out = .can (0x580 + canNode) ([0x42] ++ leBytes 2 idx.toNat ++ leBytes 1 sub.toNat
            ++ leBytes 1 (entryBytes idx.toNat sub.toNat) ++ [0, 0, 0]
            ++ leBytes 8 (s.canAccept.shown .can idx.toNat sub.toNat &&& ~~~e.wo).toNat) :: s.out)
    ∧ (∀ e, s.mctpOn = true → s.domainOn idx.toNat = true → entryOf idx.toNat sub.toNat = some e →
      Runs (.mctpReadEntry idx sub) s [.latches, .out] fun t =>
        t.out = .mctp 0 (s.shown .pcie idx.toNat sub.toNat &&& ~~~e.wo) :: s.out ∧ t.latchC = s.latchC)
    ∧ (s.mctpOn = true → indexExists idx.toNat = false →
      exec (.mctpReadEntry idx sub) s = .next (s.emit (.mctp 2 0)))

/-- While a job runs on a cluster, a write to CUPSPLIT is refused with "resource in use" and changes
nothing (R88); with none running it is done.
Choices of the model in it: log entry 26. -/
def Obligations.CupsplitIsLockedWhileJobsRun : Prop :=
  ∀ (s : State) (via : Via) (v : Word64), Path.of via ∈ rightsOf 0x2500 8 → s.domainOn 0x2500 = true →
    fieldOf v 3 0 ≤ 8 →
    (s.clustersRun = true → s.entryWrite via 0x2500 8 v = (s, .inUse))
    ∧ (s.clustersRun = false → ∃ t, s.entryWrite via 0x2500 8 v = (t, .done) ∧ t.fld 0x2500 8 3 0 = fieldOf v 3 0
        ∧ Frame [.regs] s t ∧ Entries [(0x2500, 8)] s t)

/-! ### Caddies, HBM, arbitration, repair and the scrubber -/

/-- A read at its home slice, which serves one read a clock: where every sector it asks for is at hand it starts back with
their bytes; where some are not, and the slice has room for the misses, it takes those that are, each other one is being read
from HBM, and the request waits; a line in the guard is answered poisoned. A marked read of an unpinned line brings the
sectors and drops the line without a write-back; the guard, where it is on, takes the line. A mark on a pinned line is
ignored: the line stays, and nothing enters the guard.
Choices of the model in it: log entry 21. -/
def Obligations.SliceReadsServeHitMissGuardAndMark : Prop :=
  (∀ (s : State) (id : Nat) (r : Req), s.req? id = some r → r.kind = .read → r.marked = false → s.atSlice r = true →
    (s.readFree (s.portOf (addrLocal r.addr)) (addrLocal r.addr / 128) = false →
      ∀ errs tagLost, exec (.sliceRead id errs tagLost) s = .next s)
    ∧ (s.readFree (s.portOf (addrLocal r.addr)) (addrLocal r.addr / 128) = true →
      (s.guarded (addrLocal r.addr) = false → s.needs r = [] →
        Runs (.sliceRead id [] false) s [.regs, .caddy, .reqs] fun t =>
          t.req? id = some { r with
            stage := .done (cutBytes (addrLocal r.addr) r.len ((sectorsOf (addrLocal r.addr) r.len).map (s.readOf r)))
              (((sectorsOf (addrLocal r.addr) r.len).map (s.readOf r)).any (·.2))
            route := s.routeBack r.master (addrLocal r.addr), got := [] }
          ∧ (∀ q ∈ s.reqs, q.id ≠ id → q ∈ t.reqs)
          ∧ (t.slicePort (s.portOf (addrLocal r.addr))).readAt = some s.time.core
          ∧ ∀ k, (t.line k).data = (s.line k).data ∧ (t.line k).valid = (s.line k).valid
              ∧ (t.line k).dirty = (s.line k).dirty ∧ (t.line k).tag = (s.line k).tag)
      ∧ (s.guarded (addrLocal r.addr) = false → s.needs r ≠ [] →
        s.missRoom (addrLocal r.addr) (s.needs r) = true →
        Runs (.sliceRead id [] false) s [.regs, .caddy, .reqs, .hbm] fun t =>
          t.req? id = some { s.takeValid r with stage := .missing }
          ∧ (∀ sec ∈ s.needs r, ∃ q ∈ t.hbm.queue, q.write = false ∧ q.scrub = false ∧ q.sector = sec)
          ∧ t.hbm.mem = s.hbm.mem ∧ t.hbm.poison = s.hbm.poison ∧ ∀ k, (t.line k).data = (s.line k).data)
      ∧ (s.guarded (addrLocal r.addr) = true →
        Runs (.sliceRead id [] false) s [.regs, .caddy, .reqs, .link, .can, .out] fun t =>
          t.req? id = some { r with
            stage := .done (List.replicate r.len 0) true, route := s.routeBack r.master (addrLocal r.addr) }
          ∧ t.caddy.lines = s.caddy.lines ∧ t.caddy.guard0 = s.caddy.guard0 ∧ t.caddy.guard1 = s.caddy.guard1
          ∧ (s.heldClear 0x2310 0x0C (s.homeOf (addrLocal r.addr)) = false →
              t.bit 0x2310 0x0C (s.homeOf (addrLocal r.addr)) = true))))
  ∧ (∀ (s : State) (id : Nat) (r : Req), s.req? id = some r → r.kind = .read → r.marked = true → s.atSlice r = true →
    s.readFree (s.portOf (addrLocal r.addr)) (addrLocal r.addr / 128) = true →
    s.guarded (addrLocal r.addr) = false → s.needs r = [] →
    (s.linePinned (addrLocal r.addr) = false →
      Runs (.markedRead id [] false) s [.regs, .caddy, .reqs] fun t =>
        t.req? id = some { r with
          stage := .done (cutBytes (addrLocal r.addr) r.len ((sectorsOf (addrLocal r.addr) r.len).map (s.readOf r)))
            (((sectorsOf (addrLocal r.addr) r.len).map (s.readOf r)).any (·.2))
          route := s.routeBack r.master (addrLocal r.addr), got := [] }
        ∧ (∀ k, s.findWay (addrLocal r.addr) = some k → t.line k = Line.empty)
        ∧ (s.guardOn = true → addrLocal r.addr / 128 ∈ t.guard (s.homeOf (addrLocal r.addr))))
    ∧ (s.linePinned (addrLocal r.addr) = true →
      Runs (.markedRead id [] false) s [.regs, .caddy, .reqs, .link, .can, .out] fun t =>
        (s.heldClear 0x2310 0x0C (6 + s.homeOf (addrLocal r.addr)) = false →
          t.bit 0x2310 0x0C (6 + s.homeOf (addrLocal r.addr)) = true)
        ∧ t.caddy.guard0 = s.caddy.guard0 ∧ t.caddy.guard1 = s.caddy.guard1
        ∧ ∀ k, (t.line k).data = (s.line k).data ∧ (t.line k).valid = (s.line k).valid))

/-- A write of one whole sector of a line the caddy holds: the sector holds the written bytes, valid and dirty,
poisoned as the data is, and every other way is as it was. An atomic on a sector the caddy holds unpoisoned
brings back the old value and leaves the sector valid and dirty, with the new value, and raises its flags. What the finished
requests bring their masters follows (the state u is before that); where nothing else waits to be heard of, that is no more
than the write's leaving the network. A slice whose write port is taken serves neither. -/
def Obligations.SliceWriteAndAtomicUpdateTheSector : Prop :=
  ∀ (s : State) (id : Nat) (r : Req) (k : Nat), s.req? id = some r → s.atSlice r = true →
    s.findWay (addrLocal r.addr) = some k →
    (s.writeFree (s.portOf (addrLocal r.addr)) = false → ∀ errs tagLost,
      (r.kind = .write → exec (.sliceWrite id errs tagLost) s = .next s)
      ∧ (r.kind.isAtomic = true → exec (.atomicAtHomeSlice id errs tagLost) s = .next s))
    ∧ (s.writeFree (s.portOf (addrLocal r.addr)) = true →
      (r.kind = .write → addrLocal r.addr % 32 = 0 → r.data.length = 32 →
        (∃ u, exec (.sliceWrite id [] false) s = .next u.settle ∧ Frame [.regs, .caddy, .reqs] s u
          ∧ u.req? id = some { r with stage := .done [] false, route := [] }
          ∧ (u.line k).sector (addrLocal r.addr / 32 % 4) = bytesBv r.data
          ∧ (u.line k).valid.getLsbD (addrLocal r.addr / 32 % 4) = true
          ∧ (u.line k).dirty.getLsbD (addrLocal r.addr / 32 % 4) = true
          ∧ (u.line k).poison.getLsbD (addrLocal r.addr / 32 % 4) = r.poisoned
          ∧ ∀ j, j ≠ k → u.line j = s.line j)
        ∧ (s.allHeard → r.quiet →
          Runs (.sliceWrite id [] false) s [.regs, .caddy, .reqs] fun t =>
            t.reqs = s.reqs.filter (fun q => q.id ≠ id)
            ∧ (t.line k).sector (addrLocal r.addr / 32 % 4) = bytesBv r.data
            ∧ (t.line k).valid.getLsbD (addrLocal r.addr / 32 % 4) = true
            ∧ (t.line k).dirty.getLsbD (addrLocal r.addr / 32 % 4) = true
            ∧ (t.line k).poison.getLsbD (addrLocal r.addr / 32 % 4) = r.poisoned
            ∧ ∀ j, j ≠ k → t.line j = s.line j))
      ∧ (∀ op ty x, r.kind = .atomic op ty → r.operands = [x] → r.poisoned = false →
        s.guarded (addrLocal r.addr) = false →
        addrLocal r.addr % atomWidth ty = 0 → r.len = atomWidth ty →
        s.sectorIn (addrLocal r.addr / 32) = some ((s.line k).sector (addrLocal r.addr / 32 % 4), false) →
        ∀ old, old = BitVec.ofNat 64 (leNat (cutBytes (addrLocal r.addr) (atomWidth ty)
              [((s.line k).sector (addrLocal r.addr / 32 % 4), false)])) →
          (∃ u, exec (.atomicAtHomeSlice id [] false) s = .next u.settle ∧ Frame [.regs, .caddy, .reqs, .seq] s u
            ∧ AtomicDone s u r id k op ty x old)
          ∧ (s.allHeard → (∀ q ∈ s.reqs, q.id = id → q = r) →
            Runs (.atomicAtHomeSlice id [] false) s [.regs, .caddy, .reqs, .seq] fun t => AtomicDone s t r id k op ty x old)))

/-- A prefetch request notes the sectors of its range that no caddy holds, in the sequencer's class; a slice with
no demand miss waiting, and fewer than 64 fetches outstanding, issues its oldest note whose region is not being walked as a
read that answers nobody; a flush writes every dirty sector back and is over when the last of those writes has been issued.
Choices of the model in it: log entry 25. -/
def Obligations.PrefetchAndFlush : Prop :=
  (∀ (s : State) (base len : BitVec 48), granuleRange base.toNat len.toNat = true →
    Runs (.prefetchRequest base len) s [.caddy] fun t =>
      t.caddy.lines = s.caddy.lines
      ∧ ∀ sec ∈ s.prefetchSectors (base.toNat / 4096) (len.toNat / 4096),
          (256 * s.homeOf (32 * sec) + s.sliceOf (32 * sec), sec, 2, none) ∈ t.caddy.notes)
  ∧ (∀ (s : State) (cad : Cad) (sl : Fin 256) (sec : Nat) (nc : Fin 7) (dl : Option (BitVec 24)),
    s.prefetchFree (256 * cad.val + sl.val) = true →
    s.nextNote (256 * cad.val + sl.val) = some (256 * cad.val + sl.val, sec, nc, dl) →
    s.guarded (32 * sec) = false → s.sectorIn sec = none → s.fetching sec = false →
    Runs (.prefetchFetchIssue cad sl) s [.regs, .caddy, .hbm, .reqs] fun t =>
      t.hbm.queue = s.hbm.queue ++ [⟨s.nextReq, sec, false, 0, 0, false, nc, dl, false, true, false, false⟩]
      ∧ t.hbm.mem = s.hbm.mem ∧ t.hbm.poison = s.hbm.poison ∧ t.caddy.lines = s.caddy.lines
      ∧ (256 * cad.val + sl.val, sec, nc, dl) ∉ t.caddy.notes ∧ t.reqs = s.reqs)
  ∧ (∀ (s : State) (via : Via), s.carries via 0x2310 0x10 = true →
    (s.handed via 0x2310 0x10).bit 0x2310 0x10 1 = false →
    Writes (.caddyFlush via) via 0x2310 0x10 s [.regs, .caddy, .hbm, .reqs] fun u t =>
      t.bit 0x2310 0x10 1 = true ∧ t.hbm.mem = u.hbm.mem ∧ t.caddy.flush = t.nextReq
      ∧ ∀ k l, (k, l) ∈ t.caddy.lines → l.dirty = 0)
  ∧ (∀ s : State, s.bit 0x2310 0x10 1 = true →
    (s.hbm.queue.any fun q => q.write && decide (q.id < s.caddy.flush)) = false →
    Runs .caddyFlushDone s [.regs] fun t => t.bit 0x2310 0x10 1 = false ∧ Entries [(0x2310, 0x10)] s t)

/-- A change of placement while no job runs and no pin overlaps the region: REGPLACE takes the value, no way holds a
line of a changed region, none is in a guard, and the region's requests wait until its walk ends. While a job runs
it is refused. Changing DREGSGUARD.EN empties both guards.
Choices of the model in it: log entries 28, 110. -/
def Obligations.RegionPlacementAndGuardWrites : Prop :=
  (∀ (s : State) (via : Via) (k : Fin 24) (value : Word32), s.carries via 0x2320 (k.val + 1) = true →
    inRange 0x2320 (k.val + 1) (value.setWidth 64) = true → (s.handed via 0x2320 (k.val + 1)).anyRuns = false →
    ((s.handed via 0x2320 (k.val + 1)).changedRegions (k.val + 1) (value.setWidth 64)).any
      (s.handed via 0x2320 (k.val + 1)).pinsIn = false →
    Writes (.regionPlacementWrite via k value) via 0x2320 (k.val + 1) s [.regs, .caddy, .hbm] fun u t =>
      (t.reg 0x2320 (k.val + 1)).setWidth 32 = value ∧ Entries [(0x2320, k.val + 1)] u t
      ∧ ∀ region ∈ u.changedRegions (k.val + 1) (value.setWidth 64), region ∈ t.caddy.walks
          ∧ (∀ key l, (key, l) ∈ t.caddy.lines → l.tag.toNat / 2 ^ 23 ≠ region)
          ∧ ∀ line, line ∈ t.caddy.guard0 ∨ line ∈ t.caddy.guard1 → line / 2 ^ 23 ≠ region)
  ∧ (∀ (s : State) (k : Fin 24) (v : Word64), s.domainOn 0x2320 = true → inRange 0x2320 (k.val + 1) (v &&& mask 31 0) = true →
    s.changedRegions (k.val + 1) (v &&& mask 31 0) ≠ [] → s.anyRuns = true →
    s.entryWrite .bar0 0x2320 (k.val + 1) v = (s, .inUse))
  ∧ (∀ (s : State) (region : Fin 384), Runs (.regionInvalidateWalkDone region) s [.caddy] fun t =>
      t.caddy = { s.caddy with walks := s.caddy.walks.filter (· ≠ region.val) })
  ∧ (∀ (s : State) (via : Via) (value : Word32), s.carries via 0x2310 8 = true →
    (s.handed via 0x2310 8).guardOn ≠ value.getLsbD 0 →
    Writes (.dregsguardWrite via value) via 0x2310 8 s [.regs, .caddy] fun u t =>
      t.guardOn = value.getLsbD 0 ∧ t.caddy.guard0 = [] ∧ t.caddy.guard1 = [] ∧ t.caddy.lines = u.caddy.lines
      ∧ Entries [(0x2310, 8)] u t)

/-- A pin request: a range that is not whole granules of HBM is refused with status 1, one that overlaps a pinned
range with status 2; an accepted one makes the engine busy with the counting walk. Its end commits the range: a
slot holds it and its tokens move to the owner. The second walk's end leaves status 0 and the slot's number.
Choices of the model in it: log entry 27. -/
def Obligations.PinRequestCountsCommitsAndEnds : Prop :=
  (∀ (s : State) (via : Via) (pref : Bool) (owner : BitVec 5), s.carries via 0x2311 3 = true →
    (owner.toNat < 16 ∨ owner.toNat = 0x1F) → (s.handed via 0x2311 3).pinBusy = false →
    (s.handed via 0x2311 3).pinRefusal (s.fld 0x2311 1 47 0) (s.fld 0x2311 2 47 0) = 0 →
    Writes (.pinRequest via pref owner) via 0x2311 3 s [.regs, .caddy, .seq] fun u t =>
      t.caddy.pin = some (.pin (s.fld 0x2311 1 47 0 / 4096) (s.fld 0x2311 2 47 0 / 4096) owner.toNat pref .first 0 none)
      ∧ t.pinBusy = true ∧ t.bit 0x2311 4 5 = false ∧ t.caddy.lines = u.caddy.lines
      ∧ Entries [(0x2311, 4)] u t)
  ∧ (∀ (s : State) (via : Via) (pref : Bool) (owner : BitVec 5) (n : Nat), s.carries via 0x2311 3 = true →
    (owner.toNat < 16 ∨ owner.toNat = 0x1F) → (s.handed via 0x2311 3).pinBusy = false →
    (s.handed via 0x2311 3).pinRefusal (s.fld 0x2311 1 47 0) (s.fld 0x2311 2 47 0) = n → n ≠ 0 →
    Writes (.pinRequest via pref owner) via 0x2311 3 s [.regs, .caddy, .seq] fun u t =>
      t.caddy.pin = none ∧ t.fld 0x2311 4 3 0 = n ∧ Entries [(0x2311, 4)] u t)
  ∧ (∀ (s : State) (base len : Nat), (granuleRange base len = false → s.pinRefusal base len = 1)
    ∧ (granuleRange base len = true →
      (s.pinRanges.any fun r => overlaps (base / 4096) (len / 4096) r.1 r.2) = true → s.pinRefusal base len = 2))
  ∧ (∀ (s : State) (base len owner i : Nat) (pref : Bool) (slot : Nat) (job : Option Nat),
    s.caddy.pin = some (.pin base len owner pref .first slot job) →
    s.setsFit ((base, len) :: s.pinRanges) s.pinWays = true →
    (∀ c, c < 2 → 0 ≤ s.tokFree c ∧ (s.homedLines base len c : Int) ≤ s.tokFree c) →
    (List.range 64).find? (fun i => (s.pinSlot i).isNone) = some i →
    base < 2 ^ 27 → len < 2 ^ 27 → owner < 32 →
    Runs .pinFirstWalkDone s [.regs, .caddy] fun t =>
      t.caddy.pin = some (.pin base len owner pref .second i job) ∧ t.pinSlot i = some (base, len, owner)
      ∧ (∀ c, c < 2 → t.tokFree c = s.tokFree c - s.homedLines base len c)
      ∧ ∀ j, j < 64 → j ≠ i → t.pinSlot j = s.pinSlot j)
  ∧ (∀ (s : State) (base len owner slot : Nat) (job : Option Nat),
    s.caddy.pin = some (.pin base len owner false .second slot job) → s.caddy.killQ = [] → slot < 64 →
    Runs .pinSecondWalkDone s [.regs, .caddy, .seq, .link, .can, .out] fun t =>
      t.caddy.pin = none ∧ t.fld 0x2311 4 3 0 = 0 ∧ t.fld 0x2311 4 11 6 = slot ∧ t.pinBusy = false)
  ∧ (∀ (s : State) (base len owner : Nat) (last : Bool), (base, len, owner, last) ∈ s.caddy.pref →
    s.prefetchSectors base len = [] →
    Runs .pinPrefetchDone s [.regs, .caddy] fun t =>
      (last = true → t.bit 0x2311 4 5 = true) ∧ Entries [(0x2311, 4)] s t
      ∧ t.caddy = { s.caddy with pref := s.caddy.pref.filter fun p => s.prefetchSectors p.1 p.2.1 != [] })

/-- An unpin of a range that a slot names exactly clears the slot at once and walks the range; the walk's end leaves
status 0, and no present line of the range pinned. A range no slot names ends with status 5. A kill's walk runs
once no request does. -/
def Obligations.UnpinClearsSlotAndBits : Prop :=
  (∀ (s : State) (via : Via) (i : Nat), s.carries via 0x2311 3 = true → (s.handed via 0x2311 3).pinBusy = false →
    (s.handed via 0x2311 3).slotMatch (s.fld 0x2311 1 47 0) (s.fld 0x2311 2 47 0) = some i →
    Writes (.unpinRequest via) via 0x2311 3 s [.regs, .caddy, .seq] fun u t =>
      t.pinSlot i = none ∧ t.pinBusy = true ∧ t.caddy.lines = u.caddy.lines
      ∧ t.caddy.pin = some (.unpin (s.fld 0x2311 1 47 0 / 4096) (s.fld 0x2311 2 47 0 / 4096) none)
      ∧ ∀ j, j < 64 → j ≠ i → t.pinSlot j = u.pinSlot j)
  ∧ (∀ (s : State) (via : Via), s.carries via 0x2311 3 = true → (s.handed via 0x2311 3).pinBusy = false →
    (s.handed via 0x2311 3).slotMatch (s.fld 0x2311 1 47 0) (s.fld 0x2311 2 47 0) = none →
    Writes (.unpinRequest via) via 0x2311 3 s [.regs, .caddy, .seq] fun u t =>
      t.fld 0x2311 4 3 0 = 5 ∧ Entries [(0x2311, 4)] u t)
  ∧ (∀ (s : State) (base len : Nat) (job : Option Nat), s.caddy.pin = some (.unpin base len job) → s.caddy.killQ = [] →
    Runs .unpinWalkDone s [.regs, .caddy, .seq] fun t =>
      t.caddy.pin = none ∧ t.fld 0x2311 4 3 0 = 0 ∧ t.pinBusy = false
      ∧ ∀ pa ∈ rangeLines base len, ∀ k, s.findWay pa = some k → (t.line k).pinned = false
          ∧ (t.line k).data = (s.line k).data ∧ (t.line k).dirty = (s.line k).dirty)
  ∧ (∀ (s : State) (base len : Nat) (rest : List (Nat × Nat)), s.caddy.pin = none → s.caddy.killQ = (base, len) :: rest →
    Runs .killUnpinWalk s [.regs, .caddy, .seq] fun t =>
      t.caddy.killQ = rest ∧ t.pinBusy = !rest.isEmpty
      ∧ ∀ pa ∈ rangeLines base len, ∀ k, s.findWay pa = some k → (t.line k).pinned = false)
  ∧ (∀ (s : State) (via : Via) (value : Word32), s.carries via 0x2310 4 = true → fieldOf (value.setWidth 64) 4 0 ≤ 18 →
    (s.handed via 0x2310 4).pinBusy = false →
    (s.handed via 0x2310 4).setsFit (s.handed via 0x2310 4).pinRanges (fieldOf (value.setWidth 64) 4 0) = true →
    Writes (.pinshareWrite via value) via 0x2310 4 s [.regs] fun u t =>
      t.pinWays = fieldOf (value.setWidth 64) 4 0 ∧ Entries [(0x2310, 4), (0x2314, 1), (0x2314, 2)] u t)

/-- A granted read that is the oldest of its sector comes back from the stack without wrong bits: the sector, under the
writes accepted since, enters the line the caddy holds, valid and clean, and the queue loses the read; the requests that wait
on it then go on (the state u is before that). A granted write reaches the stack, merged under its mask, and nothing else of
HBM moves. Choices of the model in it: log entry 110. -/
def Obligations.HbmReadReturnsAndWriteIssues : Prop :=
  (∀ (s : State) (id : Nat) (q : HbmReq) (k : Nat), s.hbmReq? id = some q → q.write = false → q.granted = true →
    q.scrub = false → s.hbmFirst q = true → s.hbm.selfRef = false → (s.hbmGet q.sector).2 = false →
    s.sectorStays q = true →
    s.findWay (32 * q.sector) = some k → (s.line k).valid.getLsbD (q.sector % 4) = false →
    (∃ u, exec (.hbmSectorReadReturn id 0 .none) s = .next (u.wake q.sector).settle ∧ Frame [.hbm, .caddy, .reqs] s u
      ∧ (u.line k).sector (q.sector % 4) = ((s.dropHbm id).overlay q.sector (s.hbmGet q.sector)).1
      ∧ (u.line k).valid.getLsbD (q.sector % 4) = true ∧ (u.line k).dirty.getLsbD (q.sector % 4) = false
      ∧ (u.line k).poison.getLsbD (q.sector % 4) = ((s.dropHbm id).overlay q.sector (s.hbmGet q.sector)).2
      ∧ (∀ j, j ≠ k → u.line j = s.line j)
      ∧ u.hbm = { s.hbm with queue := s.hbm.queue.filter fun p => p.id ≠ id })
    ∧ ((∀ r ∈ s.reqs, r.stage ≠ .missing) → s.allHeard →
      Runs (.hbmSectorReadReturn id 0 .none) s [.hbm, .caddy] fun t =>
        (t.line k).sector (q.sector % 4) = ((s.dropHbm id).overlay q.sector (s.hbmGet q.sector)).1
        ∧ (t.line k).valid.getLsbD (q.sector % 4) = true ∧ (t.line k).dirty.getLsbD (q.sector % 4) = false
        ∧ (∀ j, j ≠ k → t.line j = s.line j)
        ∧ t.hbm = { s.hbm with queue := s.hbm.queue.filter fun p => p.id ≠ id }))
  ∧ (∀ (s : State) (id : Nat) (q : HbmReq), s.hbmReq? id = some q → q.write = true → q.granted = true →
    s.hbmFirst q = true → s.hbm.selfRef = false → s.stackAbsent (s.stackOf (32 * q.sector)) = false →
    Runs (.hbmWriteIssue id 0 .none) s [.hbm] fun t =>
      t.hbmGet q.sector = (mergeBytes (s.hbmGet q.sector).1 q.data q.mask,
        q.poisoned || ((s.hbmGet q.sector).2 && q.mask != BitVec.allOnes 32))
      ∧ Stored [q.sector] s t ∧ t.hbm.queue = s.hbm.queue.filter fun p => p.id ≠ id)

/-- A stack's temperature report shows the temperature and moves the band with its hysteresis; at 95 °C the stack is
held to half bandwidth and THROT is set, below 90 °C it is released. A bank is refreshed once its interval has
passed, or had passed before the band last changed, and a detector is freed 4,096 clocks after its last hit.
Choices of the model in it: log entry 30. -/
def Obligations.HbmTemperatureRefreshAndDetectors : Prop :=
  (∀ (s : State) (st : Stack) (temp : Int),
    Runs (.hbmTemperatureReport st temp) s [.regs, .hbm, .link, .can, .out] fun t =>
      t.fld 0x2401 (st.val + 1) 11 4 = (BitVec.ofInt 8 temp).toNat
      ∧ t.fld 0x2401 (st.val + 1) 1 0 = nextBand (s.fld 0x2401 (st.val + 1) 1 0) temp
      ∧ (nextBand (s.band st.val) temp ≠ s.band st.val →
          Tbl.get [] t.hbm.bands st.val = (s.band st.val, s.time.now) :: Tbl.get [] s.hbm.bands st.val)
      ∧ (95 ≤ temp → t.hbm.slow.getLsbD st.val = true)
      ∧ (95 ≤ temp → s.hbm.slow.getLsbD st.val = false → s.heldClear 0x2220 1 1 = false → t.bit 0x2220 1 1 = true)
      ∧ (temp < 90 → t.hbm.slow.getLsbD st.val = false)
      ∧ (90 ≤ temp → temp < 95 → t.hbm.slow = s.hbm.slow)
      ∧ t.hbm = { s.hbm with slow := t.hbm.slow, bands := t.hbm.bands }
      ∧ Entries [(0x2401, st.val + 1), (0x2220, 1), (0x3001, 0x0B)] s t)
  ∧ (∀ (s : State) (st : Stack) (ch : Fin 32) (pc : Fin 2) (bank : Nat), s.hbm.selfRef = false →
    s.stackAbsent st.val = false →
    (s.passedNs (Tbl.get 0 s.hbm.refresh (bankKey st.val ch.val pc.val bank))
        (bandNs (s.fld 0x2401 (st.val + 1) 1 0)) = true
      ∨ ∃ b ∈ Tbl.get [] s.hbm.bands st.val,
          Tbl.get 0 s.hbm.refresh (bankKey st.val ch.val pc.val bank) + bandNs b.1 * nsUnits ≤ b.2) →
    Runs (.hbmRefresh st ch pc bank) s [.hbm] fun t =>
      Tbl.get 0 t.hbm.refresh (bankKey st.val ch.val pc.val bank) = s.time.now
      ∧ t.hbm = { s.hbm with refresh := t.hbm.refresh }
      ∧ ∀ k, k ≠ bankKey st.val ch.val pc.val bank → Tbl.get 0 t.hbm.refresh k = Tbl.get 0 s.hbm.refresh k)
  ∧ (∀ (s : State) (cad : Cad) (det : Fin 64) (d : Detector), s.detector cad.val det.val = some d →
    (d.lastHit + 4096 ≤ s.time.core →
      Runs (.streamDetectorFree cad det) s [.caddy] fun t =>
        t.detector cad.val det.val = none ∧ t.caddy.lines = s.caddy.lines
        ∧ ∀ i, i ≠ det.val → i < 64 → t.detector cad.val i = s.detector cad.val i)
    ∧ (s.time.core < d.lastHit + 4096 → exec (.streamDetectorFree cad det) s = .next s))

/-- A point with a waiter always grants one; the grant is of a waiter, by the deadline branch only where it carries a
deadline, and the last 64 grants are remembered; a class of weight 0 is passed over while a weighted class
waits, but for a deadline. A channel that both leaves of a pot in share configuration request is theirs by turns, the lower
one first. The granted request goes on to its next point. A write of NCWEIGHT or DLSHARE clears the credits of every point. -/
def Obligations.ArbitrationGrantsOneWaiter : Prop :=
  (∀ (s : State) (a : ArbState) (ws : List Waiter),
    (ws ≠ [] → (s.grant a ws).isSome = true)
    ∧ (∀ w dl a', s.grant a ws = some (w, dl, a') → w ∈ ws ∧ (dl = true → w.deadline.isSome = true)
        ∧ a'.last = (dl :: a.last).take 64
        ∧ (dl = false → s.ncWeight w.nc.val = 0 → ∀ x ∈ ws, s.ncWeight x.nc.val = 0))
    ∧ ∀ p, (ws ≠ [] → (s.grantAt p a ws).isSome = true)
        ∧ ∀ w dl a', s.grantAt p a ws = some (w, dl, a') → w ∈ ws
            ∧ (s.contested p ws = true → s.fromUpper w = a.upper ∧ a'.upper = !a.upper)
            ∧ (s.contested p ws = false → s.grant a ws = some (w, dl, a')))
  ∧ ArbState.init.upper = false
  ∧ (∀ (s : State) (p p2 : ArbPoint) (rest : List ArbPoint) (w : Waiter) (dl : Bool) (a : ArbState) (r : Req),
    (∀ st ch pc, p ≠ .pseudo st ch pc) → s.pointHeld p = false →
    s.grantAt p (s.arbState (pointKey p)) (s.waiters p) = some (w, dl, a) → s.req? w.id = some r →
    r.route = p :: p2 :: rest →
    (∃ u, exec (.arbitrationGrant p) s = .next u.settle ∧ Frame [.regs, .arb, .reqs, .link, .can, .snap, .out] s u
      ∧ u.req? w.id = some { r with route := p2 :: rest } ∧ u.arbState (pointKey p) = a
      ∧ ∀ q ∈ s.reqs, q.id ≠ w.id → q ∈ u.reqs)
    ∧ (s.allHeard → (∀ q ∈ s.reqs, q.id = w.id → q = r) →
      Runs (.arbitrationGrant p) s [.regs, .arb, .reqs, .link, .can, .snap, .out] fun t =>
        t.req? w.id = some { r with route := p2 :: rest } ∧ t.arbState (pointKey p) = a
        ∧ (∀ q ∈ s.reqs, q.id ≠ w.id → q ∈ t.reqs)
        ∧ ∀ k, k ≠ pointKey p → t.arbState k = s.arbState k))
  ∧ (∀ (s : State) (st : Stack) (ch : Fin 32) (pc : Fin 2) (w : Waiter) (dl : Bool) (a : ArbState),
    s.grantAt (.pseudo st ch pc) (s.arbState (pointKey (.pseudo st ch pc))) (s.waiters (.pseudo st ch pc))
      = some (w, dl, a) → s.allHeard →
    Runs (.arbitrationGrant (.pseudo st ch pc)) s [.regs, .arb, .hbm, .link, .can, .snap, .out] fun t =>
      t.hbm = { s.hbm with queue := s.hbm.queue.map fun q => if q.id = w.id then { q with granted := true } else q }
      ∧ t.arbState (pointKey (.pseudo st ch pc)) = a)
  ∧ (∀ (s : State) (via : Via) (sub : Fin 8) (value : Word32), s.carries via 0x2410 (sub.val + 1) = true →
    (sub.val = 7 → fieldOf (value.setWidth 64) 6 0 ≤ 64) →
    Writes (.ncweightDlshareWrite via sub value) via 0x2410 (sub.val + 1) s [.regs, .arb] fun u t =>
      t.fld 0x2410 (sub.val + 1) 6 0 = fieldOf (value.setWidth 64) 6 0
      ∧ (sub.val < 7 → t.ncWeight sub.val = fieldOf (value.setWidth 64) 7 0)
      ∧ (∀ k, (t.arbState k).credit = [0, 0, 0, 0, 0, 0, 0]) ∧ Entries [(0x2410, sub.val + 1)] u t)

/-- At the end of a thrash window both counts start again, and a caddy whose worst slice reached the threshold has
its event. Writing 1 to bits of CADEVENT and INTEVENT clears exactly them, and an event of the same clock leaves them clear; a
log whose bits are all clear is free again; VALID of CELOG clears its record. A row that has qualified takes a spare row while
the slice has one and SRCFG.EN is 1: the way leaves its cache, the repair is recorded, its log entry is cleared and INTEVENT
bit 3 set; with none free bit 4 is set. Recorded repairs enter the configuration area while the flash is free. A corrected
word is written back.
Choices of the model in it: log entries 25, 29. -/
def Obligations.LogsClearAndRowsAreRepaired : Prop :=
  ((∀ s : State, s.time.core % 2 ^ s.fld 0x2310 6 20 16 = 0 →
    Runs .thrashWindowEnd s [.regs, .caddy, .link, .can, .out] fun t =>
      (∀ k, (t.mon k).refetch = 0 ∧ (t.mon k).evicted = 0) ∧ t.caddy.lines = s.caddy.lines
      ∧ ∀ cad, cad < 2 → s.fld 0x2310 6 15 0 ≠ 0 → s.fld 0x2310 6 15 0 ≤ (s.worstSlice cad).2 →
          s.heldClear 0x2310 0x0C (2 + cad) = false → t.bit 0x2310 0x0C (2 + cad) = true)
  ∧ (∀ (s : State) (via : Via) (value : Word32), s.carries via 0x2310 0x0C = true →
    Writes (.cadeventClear via value) via 0x2310 0x0C s [.regs, .cleared] fun u t =>
      (∀ i, i < 8 → t.bit 0x2310 0x0C i = (u.bit 0x2310 0x0C i && !value.getLsbD i))
      ∧ (∀ i, i < 8 → value.getLsbD i = true → t.heldClear 0x2310 0x0C i = true)
      ∧ t.bit 0x2310 0x0D 53 = (u.bit 0x2310 0x0D 53 && (t.bit 0x2310 0x0C 0 || t.bit 0x2310 0x0C 1))
      ∧ t.bit 0x2310 0x0E 25 = (u.bit 0x2310 0x0E 25 && (t.bit 0x2310 0x0C 2 || t.bit 0x2310 0x0C 3))
      ∧ Entries [(0x2310, 0x0C), (0x2310, 0x0D), (0x2310, 0x0E)] u t)
  ∧ (∀ (s : State) (via : Via) (value : Word32), s.carries via 0x2420 1 = true →
    Writes (.inteventClear via value) via 0x2420 1 s [.regs, .can, .cleared] fun u t =>
      (∀ i, i < 7 → t.bit 0x2420 1 i = (u.bit 0x2420 1 i && !value.getLsbD i))
      ∧ (∀ i, i < 7 → value.getLsbD i = true → t.heldClear 0x2420 1 i = true)
      ∧ t.bit 0x2420 2 38 = (u.bit 0x2420 2 38 && (t.bit 0x2420 1 0 || t.bit 0x2420 1 1 || t.bit 0x2420 1 2))
      ∧ Entries [(0x2420, 1), (0x2420, 2), (0x3001, 0x0B)] u t)
  ∧ (∀ (s : State) (via : Via) (log : Fin 10) (i : Fin 32), (log.val < 2 ∨ i.val < 16) →
    s.carries via (celogIdx log.val) (i.val + 1) = true →
    (s.given via (packWord [(1, 43)])).getLsbD 43 = true →
    Writes (.celogClear via log i) via (celogIdx log.val) (i.val + 1) s [.regs, .cleared] fun u t =>
      t.reg (celogIdx log.val) (i.val + 1) = 0 ∧ Entries [(celogIdx log.val, i.val + 1)] u t))
  ∧ (∀ (s : State) (idx sub n : Nat), s.heldClear idx sub n = true → s.event idx sub n = s)
  ∧ ((∀ (s : State) (cad : Cad) (i : Fin 32) (loc sl set way : Nat), s.rowDue cad.val i.val = true →
    loc = ceLoc (s.reg (0x2430 + cad.val) (i.val + 1)) → sl = loc % 256 → set = loc / 2 ^ 8 % 2 ^ 11 →
    way = loc / 2 ^ 19 % 32 →
    ((s.repairsOf cad.val sl).length < 4 → s.bit 0x2450 1 0 = true →
      Runs (.softRepair cad i) s [.regs, .caddy, .hbm, .reqs, .link, .can, .snap, .out] fun t =>
        t.caddy.repairs = s.caddy.repairs ++ [(cad.val, sl, set, way)]
        ∧ t.caddy.unstored = s.caddy.unstored ++ [(cad.val, sl, set, way)]
        ∧ t.line (wayKey cad.val sl set way) = Line.empty ∧ t.reg (0x2430 + cad.val) (i.val + 1) = 0
        ∧ (s.heldClear 0x2420 1 3 = false → t.bit 0x2420 1 3 = true) ∧ t.hbm.mem = s.hbm.mem)
    ∧ ((s.repairsOf cad.val sl).length < 4 → s.bit 0x2450 1 0 = false → exec (.softRepair cad i) s = .next s)
    ∧ (4 ≤ (s.repairsOf cad.val sl).length →
      Runs (.softRepair cad i) s [.regs, .link, .can, .snap, .out] fun t =>
        s.heldClear 0x2420 1 4 = false → t.bit 0x2420 1 4 = true))
  ∧ (∀ s : State, s.flash.claim = none → Runs .softRepairStore s [.flash, .caddy] fun t =>
      t.flash = { s.flash with cfg := { s.flash.cfg with repairs := s.flash.cfg.repairs ++ s.caddy.unstored } }
      ∧ t.caddy = { s.caddy with unstored := [] })
  ∧ (∀ s : State, Runs .sramCorrectedWriteback s [.caddy] fun t =>
      t.caddy = { s.caddy with fixups := s.caddy.fixups - 1 }))

/-- The scrubber runs in native mode, enabled by SCRUBNAT.EN, or in idle-cycle mode, enabled by SCRUBIDLE.EN; setting one
enable is refused while the other is 1, and with both 0 the scrubber asks for nothing (R222). A sector whose time has come is
asked for as a read of the scrubber's class; in idle-cycle mode it waits while a request waits at the pseudo-channel. The
read that is out is what the next access of the pseudo-channel brings back. What comes back without wrong bits stays as it is; what no code can put right and no caddy holds is written back as poison, in the
read's own place. A line of a slice is asked for at its read port and read once that is granted.
Choices of the model in it: log entry 136. -/
def Obligations.ScrubberRunsInOneMode : Prop :=
  ((∀ (s : State) (via : Via) (idle : Bool) (value : Word32), s.carries via (if idle then 0x2461 else 0x2460) 1 = true →
    ((s.handed via (if idle then 0x2461 else 0x2460) 1).bit (if idle then 0x2460 else 0x2461) 1 0 = false
      ∨ value.getLsbD 0 = false) →
    Writes (.scrubEnableWrite via idle value) via (if idle then 0x2461 else 0x2460) 1 s [.regs] fun u t =>
      t.bit (if idle then 0x2461 else 0x2460) 1 0 = value.getLsbD 0
      ∧ Entries [(if idle then 0x2461 else 0x2460, 1)] u t)
  ∧ (∀ (s : State) (via : Via) (idle : Bool) (v : Word64), Path.of via = .pcie → s.domainOn 0x2460 = true →
    s.bit (if idle then 0x2460 else 0x2461) 1 0 = true → v.getLsbD 0 = true →
    s.entryWrite via (if idle then 0x2461 else 0x2460) 1 v = (s, .inUse))
  ∧ (∀ (s : State) (st : Stack) (ch : Fin 32) (pc : Fin 2) (cad : Cad) (sl : Fin 256) (errs : List WordErr) (lost : Bool),
    s.scrubNative = false → s.scrubIdle = false →
    (∀ flip sev, s.scrubOut st ch pc = none → exec (.scrubHbmSector st ch pc flip sev) s = .next s)
    ∧ ((∀ r ∈ s.reqs, r.purpose ≠ .scrubRow cad sl) → exec (.scrubCaddyLine cad sl errs lost) s = .next s)))
  ∧ ((∀ (s : State) (st : Stack) (ch : Fin 32) (pc : Fin 2) (flip : BitVec 288) (sev : Severity) (sec : Nat),
    s.scrubOut st ch pc = none →
    s.scrubHbmDue st.val ch.val pc.val (Tbl.get 0 s.hbm.scrubH (pseudoKey st.val ch.val pc.val)) = true →
    s.hbm.selfRef = false → s.stackAbsent st.val = false →
    s.nextIn (st.val, ch.val, pc.val) hbmSectors (Tbl.get 0 s.hbm.scrubH (pseudoKey st.val ch.val pc.val)) = some sec →
    Runs (.scrubHbmSector st ch pc flip sev) s [.hbm, .reqs] fun t =>
      t.hbm.queue = s.hbm.queue ++ [⟨s.nextReq, sec, false, 0, 0, false, 6, none, false, false, true, true⟩]
      ∧ Tbl.get 0 t.hbm.scrubH (pseudoKey st.val ch.val pc.val) = sec + 1
      ∧ t.scrubbed (pseudoKey st.val ch.val pc.val) = some s.time.now
      ∧ t.hbm.mem = s.hbm.mem ∧ t.hbm.poison = s.hbm.poison ∧ t.reqs = s.reqs)
  ∧ (∀ (s : State) (st : Stack) (ch : Fin 32) (pc : Fin 2) (flip : BitVec 288) (sev : Severity),
    (s.scrubNative = false → s.scrubOut st ch pc = none →
      (s.hbm.queue.any fun q => s.pseudoOf q.sector == (st.val, ch.val, pc.val)) = true →
      exec (.scrubHbmSector st ch pc flip sev) s = .next s)
    ∧ ∀ q, s.scrubOut st ch pc = some q →
      exec (.scrubHbmSector st ch pc flip sev) s = exec (.hbmSectorReadReturn q.id flip sev) s)
  ∧ (∀ (s : State) (id : Nat) (q : HbmReq), s.hbmReq? id = some q → q.write = false → q.granted = true →
    q.scrub = true → s.hbmFirst q = true → s.hbm.selfRef = false →
    ((s.hbmGet q.sector).2 = false → Runs (.hbmSectorReadReturn id 0 .none) s [.hbm] fun t =>
      t.hbm = { s.hbm with queue := s.hbm.queue.filter fun p => p.id ≠ q.id })
    ∧ (∀ flip sev v, decodeSector (s.hbmGet q.sector).1 (s.hbmGet q.sector).2 flip sev = (.bad, v) →
      s.sectorIn q.sector = none →
      Runs (.hbmSectorReadReturn id flip sev) s [.regs, .hbm, .link, .can, .snap, .out] fun t =>
        t.hbm = { s.hbm with queue := s.hbm.queue.map fun x => if x.id = q.id then { q with
          write := true, data := v, mask := BitVec.allOnes 32, poisoned := true, granted := false } else x }
        ∧ (s.heldClear 0x2420 1 0 = false → t.bit 0x2420 1 0 = true))
    ∧ (∀ flip sev v k, decodeSector (s.hbmGet q.sector).1 (s.hbmGet q.sector).2 flip sev = (.bad, v) →
      s.findWay (32 * q.sector) = some k → (s.line k).valid.getLsbD (q.sector % 4) = true →
      Runs (.hbmSectorReadReturn id flip sev) s [.regs, .caddy, .hbm, .link, .can, .snap, .out] fun t =>
        (t.line k).dirty.getLsbD (q.sector % 4) = true ∧ (t.line k).data = (s.line k).data
        ∧ t.hbm = { s.hbm with queue := s.hbm.queue.filter fun p => p.id ≠ q.id })))
  ∧ ((∀ (s : State) (cad : Cad) (sl : Fin 256) (pos : Nat) (errs : List WordErr) (lost : Bool), s.coreStopped = false →
    s.sliceRetired cad.val sl.val = false → (∀ r ∈ s.reqs, r.purpose ≠ .scrubRow cad sl) →
    Tbl.get 0 s.hbm.scrubC (256 * cad.val + sl.val) = pos → pos < 2048 * 24 →
    s.scrubLineDue cad.val sl.val pos = true →
    Runs (.scrubCaddyLine cad sl errs lost) s [.hbm, .reqs] fun t =>
      t.reqs = s.reqs ++ [{ scrubReq cad sl pos with id := s.nextReq }] ∧ t.nextReq = s.nextReq + 1
      ∧ t.hbm = { s.hbm with scrubAt := t.hbm.scrubAt })
  ∧ (∀ (s : State) (cad : Cad) (sl : Fin 256) (pos : Nat) (r : Req), s.coreStopped = false →
    s.sliceRetired cad.val sl.val = false → (s.reqs.find? fun r => r.purpose == .scrubRow cad sl) = some r →
    r.arrived = true → (s.slicePort (256 * cad.val + sl.val)).readAt ≠ some s.time.core →
    Tbl.get 0 s.hbm.scrubC (256 * cad.val + sl.val) = pos →
    Runs (.scrubCaddyLine cad sl [] false) s [.caddy, .hbm, .reqs] fun t =>
      t.reqs = s.reqs.filter (fun q => q.id ≠ r.id) ∧ t.hbm = { s.hbm with scrubC := t.hbm.scrubC }
      ∧ Tbl.get 0 t.hbm.scrubC (256 * cad.val + sl.val) = pos + 1 ∧ t.caddy.lines = s.caddy.lines
      ∧ (t.slicePort (256 * cad.val + sl.val)).readAt = some s.time.core))

/-! ### Matrix engines, multicast sets and cup tokens -/

/-- An engine whose context runs reads its next descriptor; one that passes every check joins the list, and the
walk goes on at its LINK; a poisoned one ends the list with cause 0x06 and stops the engine. -/
def Obligations.DescriptorsAreReadAndChecked : Prop :=
  (∀ (s : State) (cl : Cl), s.engineFree cl = true → (s.cluster cl).job.isSome = true →
    (s.engine cl).ended = false → (s.engine cl).reading = false →
    ((s.engine cl).descs.filter fun r => !r.issueEnd).length < 2 →
    s.addrKind (localAddr (s.engine cl).next) 128 = .hbm →
    Runs (.descriptorRead cl) s [.clusters, .reqs] fun t => OtherClusters cl s t
      ∧ t.engine cl = { s.engine cl with reading := true }
      ∧ ∃ r, t.reqs = s.reqs ++ [r] ∧ r.purpose = .descr cl ∧ r.kind = .read
          ∧ r.addr = localAddr (s.engine cl).next ∧ r.len = 128 ∧ r.stage = .waiting)
  ∧ (∀ (s : State) (cl : Cl) (r : Req) (data : List Byte),
    s.reqs.find? (fun r => r.purpose == .descr cl && r.finished) = some r → r.stage = .done data false →
    s.checkDesc cl (Desc.ofWords (leWords data 16)) = none →
    Runs (.descriptorReadReturn cl) s [.clusters, .reqs] fun t => OtherClusters cl s t
      ∧ (t.engine cl).descs.map (·.words) = (s.engine cl).descs.map (·.words) ++ [leWords data 16]
      ∧ (t.engine cl).nextPos = (s.engine cl).nextPos + 1 ∧ (t.engine cl).reading = false
      ∧ (t.engine cl).next = (s.engine cl).next + 128 * (Desc.ofWords (leWords data 16)).link
      ∧ (t.engine cl).ended = ((Desc.ofWords (leWords data 16)).link == 0)
      ∧ t.reqs = s.reqs.filter fun q => q.id ≠ r.id)
  ∧ (∀ (s : State) (cl : Cl) (r : Req) (data : List Byte) (j : Job),
    s.reqs.find? (fun r => r.purpose == .descr cl && r.finished) = some r → r.stage = .done data true →
    s.jobOn cl = some j → j.fault = none →
    Runs (.descriptorReadReturn cl) s [.clusters, .reqs, .seq] fun t => OtherClusters cl s t
      ∧ (t.engine cl).stopped = true ∧ (t.engine cl).ended = true
      ∧ t.job? j.id = some { j with fault := some (0x06, (s.engine cl).nextPos, cl.val), faultAt := s.time.now })
  ∧ (∀ (s : State) (cl : Cl) (r : Req) (data : List Byte) (j : Job) (cause : Nat),
    s.reqs.find? (fun r => r.purpose == .descr cl && r.finished) = some r → r.stage = .done data false →
    s.checkDesc cl (Desc.ofWords (leWords data 16)) = some (.kill cause) → s.jobOn cl = some j →
    Runs (.descriptorReadReturn cl) s killParts fun t => Killed j.ctx.val cause t)

/-- A stationary tile is loaded over 32 clocks in which nothing issues, once the next descriptor has been read; a moving
vector adds its sums to the half in hand and the walk moves on; the K-steps of a tile of OS whose slices are staged add to its
set of accumulators, and its last step hands the set to the epilogue. -/
def Obligations.OperandsIssueIntoTheAccumulators : Prop :=
  (∀ (s : State) (cl : Cl) (r : DescRun), (s.engine cl).current = some r → (s.engine cl).desc? r.pos = some r →
    s.engineRuns cl r = true →
    r.d.dmode ≠ .os → r.taken = true → r.loaded = false → (s.engine cl).portsFree = true → r.missing = [] →
    (s.engine cl).chainOk r r.d.ssrc = true → (s.engine cl).nextRead r = true →
    Runs (.stationaryLoad cl []) s [.regs, .clusters] fun t => OtherClusters cl s t
      ∧ (t.engine cl).loadClk = 32 ∧ (t.engine cl).portsFree = false
      ∧ (t.engine cl).stat = (List.range 32).map (fun c => (s.cluster cl).statCol r.d r.tile c)
      ∧ (t.engine cl).descs = (s.engine cl).descs.map (fun q =>
          if q.pos = r.pos then { q with loaded := true, vec := 0 } else q)
      ∧ (t.engine cl).accs = (s.engine cl).accs ∧ (t.engine cl).groups = (s.engine cl).groups
      ∧ (t.cluster cl).cup = (s.cluster cl).cup ∧ Entries [(intCounter (leafDie cl), 7)] s t)
  ∧ (∀ (s : State) (cl : Cl) (r : DescRun) (g : GroupRun), (s.engine cl).current = some r →
    (s.engine cl).desc? r.pos = some r → s.engineRuns cl r = true →
    r.d.dmode ≠ .os → r.loaded = true → (s.engine cl).portsFree = true → r.missing = [] →
    (s.engine cl).group ((s.engine cl).place r.d) = some g → (s.engine cl).halfBusy r = false →
    (s.engine cl).chainOk r r.d.msrc = true → r.vec + 1 < r.d.vecsAt r.tile →
    Runs (.movingVectorIssue cl []) s [.regs, .clusters, .seq] fun t => OtherClusters cl s t
      ∧ (t.engine cl).acc ((s.engine cl).place r.d) = ((s.engine cl).multiply (s.cluster cl) r).1
      ∧ (∀ p, p ≠ (s.engine cl).place r.d → (t.engine cl).acc p = (s.engine cl).acc p)
      ∧ (t.engine cl).busyClk = 1 ∧ (t.engine cl).half = (s.engine cl).half
      ∧ (∀ q ∈ (s.engine cl).descs, q.pos = r.pos → ∃ q' ∈ (t.engine cl).descs, q'.pos = r.pos ∧ q'.vec = q.vec + 1)
      ∧ (t.reg 0x2500 0x0C) = s.reg 0x2500 0x0C ||| ((s.engine cl).multiply (s.cluster cl) r).2.setWidth 64
      ∧ (t.cluster cl).cup = (s.cluster cl).cup ∧ Entries [(0x2500, 0x0C), (intCounter (leafDie cl), 7)] s t)
  ∧ (∀ (s : State) (cl : Cl) (r : DescRun) (p : Nat), (s.engine cl).current = some r →
    (s.engine cl).desc? r.pos = some r → s.engineRuns cl r = true →
    r.d.dmode = .os → r.taken = true → (s.engine cl).portsFree = true → r.missing = [] →
    (s.engine cl).halfBusy r = false → p = (s.engine cl).place r.d →
    Runs (.osTileIssue cl []) s [.regs, .clusters, .seq] fun t => OtherClusters cl s t
      ∧ (∀ acc, acc = (if ((s.engine cl).group p).isNone then [] else (s.engine cl).acc p) →
          (t.engine cl).acc p = ((s.cluster cl).osSteps r r.osReady acc).1
          ∧ (t.reg 0x2500 0x0C) = s.reg 0x2500 0x0C ||| ((s.cluster cl).osSteps r r.osReady acc).2.setWidth 64)
      ∧ (∀ q, q ≠ p → (t.engine cl).acc q = (s.engine cl).acc q)
      ∧ (t.engine cl).busyClk = r.osReady.length
      ∧ (r.vec + r.osReady.length < r.d.steps →
          (t.engine cl).drainQ = (s.engine cl).drainQ ∧ (t.engine cl).set = (s.engine cl).set)
      ∧ (r.d.steps ≤ r.vec + r.osReady.length →
          (t.engine cl).group p = some { ((s.engine cl).group p).getD r.group with full := true }
          ∧ (t.engine cl).drainQ = (s.engine cl).drainQ ++ [p] ∧ (t.engine cl).set = !(s.engine cl).set)
      ∧ Entries [(0x2500, 0x0C), (intCounter (leafDie cl), 7)] s t)

/-- The epilogue takes the half that was full first; a chunk of RNE without padding or block scales goes to its
place of the cup buffer, and nothing else of the cup buffer changes, or leaves for its place in memory; a destination in memory
that takes no write holds the epilogue. What is heard of finished requests follows (the state u is before that).
Choices of the model in it: log entry 37. -/
def Obligations.EpilogueDrainsInOrder : Prop :=
  (∀ (s : State) (cl : Cl) (h : Nat) (rest : List Nat) (g : GroupRun), (s.engine cl).drainQ = h :: rest →
    (s.engine cl).group h = some g → g.drain = false → s.coreStopped = false →
    Runs (.epilogueDrainStart cl) s [.clusters] fun t => OtherClusters cl s t
      ∧ (t.engine cl).group h = some { g with drain := true }
      ∧ (∀ p, p ≠ h → (t.engine cl).group p = (s.engine cl).group p)
      ∧ (t.engine cl).accs = (s.engine cl).accs ∧ (t.cluster cl).cup = (s.cluster cl).cup)
  ∧ (∀ (s : State) (cl : Cl) (h : Nat) (rest : List Nat) (g : GroupRun) (r : DescRun),
    (s.engine cl).drainQ = h :: rest → (s.engine cl).group h = some g → (s.engine cl).desc? g.pos = some r →
    g.drain = true → s.coreStopped = false → vectorsReady r g = true → r.d.mxC = false → r.d.rnd = 0 → r.d.opaden = false →
    ∃ es sc exc, convertChunk r.d (g.chunk.2.map (r.epilogueValue g ((s.engine cl).acc h) g.chunk.1))
          (g.chunk.2.map fun _ => Rnd.rne) = (es, sc, exc)
      ∧ (r.d.cdst = true →
        (∃ u, exec (.epilogueWrite cl []) s = .next u.settle ∧ Frame [.regs, .clusters, .seq] s u
          ∧ OtherClusters cl s u ∧ (s.allHeard → u.settle = u)
          ∧ (u.cluster cl).cup = Mem.write (s.cluster cl).cup
              (Desc.locOff r.d.cloc + (128 * r.d.cstr * g.chunk.1 + g.chunk.2.headD 0 * r.d.eltC.bits / 8))
              ((packPoison r.d.eltC.bits es).map (·.1))
          ∧ (g.h * g.w ≤ g.read + g.chunk.2.length →
              (u.engine cl).group h = none ∧ (u.engine cl).drainQ = rest ∧ (u.engine cl).acc h = [])
          ∧ (g.read + g.chunk.2.length < g.h * g.w →
              (u.engine cl).group h = some { g with read := g.read + g.chunk.2.length }))
        ∧ (s.allHeard → Runs (.epilogueWrite cl []) s [.regs, .clusters, .seq] fun t => OtherClusters cl s t
            ∧ (t.cluster cl).cup = Mem.write (s.cluster cl).cup
                (Desc.locOff r.d.cloc + (128 * r.d.cstr * g.chunk.1 + g.chunk.2.headD 0 * r.d.eltC.bits / 8))
                ((packPoison r.d.eltC.bits es).map (·.1))))
      ∧ (r.d.cdst = false → s.epilogueBlocked cl r.d = false → s.allHeard →
        ∀ a, a = r.d.cloc + BitVec.ofNat 64 (128 * r.d.cstr * g.chunk.1 + g.chunk.2.headD 0 * r.d.eltC.bits / 8) →
        (∀ p ∈ fillPieces a (packPoison r.d.eltC.bits es).length, s.addrKind p.2.1 (max 1 p.2.2) = .hbm) →
        Runs (.epilogueWrite cl []) s [.regs, .clusters, .seq, .reqs] fun t => OtherClusters cl s t
          ∧ (t.cluster cl).cup = (s.cluster cl).cup
          ∧ ∃ new : List Req, t.reqs = s.reqs ++ new
              ∧ new.map (fun q => (q.addr, q.data, q.poisoned, q.purpose)) =
                (fillPieces a (packPoison r.d.eltC.bits es).length).map fun p =>
                  (p.2.1, (((packPoison r.d.eltC.bits es).drop p.1).take p.2.2).map (·.1),
                    (((packPoison r.d.eltC.bits es).drop p.1).take p.2.2).any (·.2), Purpose.epilogue cl g.pos)))
  ∧ (∀ (s : State) (cl : Cl) (h : Nat) (rest : List Nat) (g : GroupRun) (r : DescRun) (errs : List MeErr),
    (s.engine cl).drainQ = h :: rest → (s.engine cl).group h = some g → (s.engine cl).desc? g.pos = some r →
    g.drain = true → s.coreStopped = false → vectorsReady r g = true → s.epilogueBlocked cl r.d = true →
    Runs (.epilogueWrite cl errs) s [.clusters] fun t => OtherClusters cl s t
      ∧ t.cluster cl = { s.cluster cl with me := { s.engine cl with holding := true } })

/-- A fill asks for its piece sector by sector; when the bytes of a piece staged as one run have come, they stand in
their slot of the cup buffer and the piece is staged. -/
def Obligations.FillsAskAndPlace : Prop :=
  (∀ (s : State) (cl : Cl) (g : Seg) (r : DescRun),
    (s.engine cl).fillable g = some r → (s.engine cl).desc? g.pos = some r →
    s.engineRuns cl r = true → r.d.segValid g = true → s.canTake cl r g = true → r.d.multicast g = false →
    s.fillsOut cl + (fillPieces (r.d.segBytes g).1 (r.d.segBytes g).2).length ≤ 512 →
    (∀ p ∈ fillPieces (r.d.segBytes g).1 (r.d.segBytes g).2, s.addrKind p.2.1 (max 1 p.2.2) = .hbm) →
    Runs (.fillRequest cl g) s [.clusters, .reqs] fun t => OtherClusters cl s t
      ∧ (t.cluster cl).cup = (s.cluster cl).cup ∧ (t.engine cl).asked g = true
      ∧ ∃ new : List Req, t.reqs = s.reqs ++ new
          ∧ new.map (fun q => (q.addr, q.len, q.purpose)) =
            (fillPieces (r.d.segBytes g).1 (r.d.segBytes g).2).map fun p => (p.2.1, p.2.2, Purpose.fill cl g p.1))
  ∧ (∀ (s : State) (cl : Cl) (g : Seg) (r : DescRun), (s.engine cl).fillable g = some r →
    (s.engine cl).desc? g.pos = some r → r.d.multicast g = false → s.canTake cl r g = false →
    exec (.fillRequest cl g) s = .next s)
  ∧ (∀ (s : State) (id : Nat) (q : Req) (cl : Cl) (g : Seg) (r : DescRun) (data : List Byte) (pois : Bool) (o n : Nat),
    s.req? id = some q → q.purpose = .fill cl g 0 → q.route = [] → q.stage = .done data pois →
    (s.engine cl).desc? g.pos = some r → r.asked = [(g, [])] → r.d.multicast g = false → g.isElem = true →
    r.d.places g = [(0, o, n)] → (r.d.segBytes g).2 = n → data.length = n → 0 < n →
    Runs (.fillDataReturn id) s [.clusters, .reqs] fun t => OtherClusters cl s t
      ∧ (t.cluster cl).cup = Mem.write (s.cluster cl).cup o data
      ∧ (∃ r', (t.engine cl).desc? g.pos = some r' ∧ r'.has g = true ∧ r'.words = r.words)
      ∧ t.reqs = s.reqs.filter fun p => p.id ≠ id)

/-- A member whose FWAIT tag is released and that comes first founds its multicast set, or where it is the only one begins its
fill; one that names the set alike joins it, and the last to come begins the fill; one that does not name it alike kills its
context with cause 0x13, as a set that has waited past the multicast timeout does.
Choices of the model in it: log entry 125. -/
def Obligations.MulticastSetsGatherOrKill : Prop :=
  (∀ (s : State) (cl : Cl) (r : DescRun) (job : Nat), (s.engine cl).arriving = some r →
    (s.cluster cl).job = some job → s.engineRuns cl r = true → s.fwaitFree cl r.d = true →
    (s.mcasts.find? (fun m => m.is job (leafOf cl) r.d.mctag) = none →
      ((1 : BitVec 16) <<< (cl.val % 16) ≠ r.d.mcmask →
        Runs (.multicastMemberArrive cl) s [.mcasts] fun t =>
          t.mcasts = s.mcasts ++ [⟨job, leafOf cl, r.d.mctag, r.d.mcmask, r.d.mcName, 1 <<< (cl.val % 16), s.time.core⟩])
      ∧ ((1 : BitVec 16) <<< (cl.val % 16) = r.d.mcmask →
        Runs (.multicastMemberArrive cl) s [.clusters] fun t => OtherClusters cl s t
          ∧ t.engine cl = (s.engine cl).updDesc r.pos (fun q => { q with joined := true })))
    ∧ (∀ m, s.mcasts.find? (fun m => m.is job (leafOf cl) r.d.mctag) = some m → m.name = r.d.mcName →
      m.mask = r.d.mcmask →
      (m.arrived ||| (1 <<< (cl.val % 16)) ≠ m.mask →
        Runs (.multicastMemberArrive cl) s [.mcasts] fun t =>
          ∃ m' ∈ t.mcasts, m'.is job (leafOf cl) r.d.mctag = true ∧ m'.arrived = m.arrived ||| (1 <<< (cl.val % 16)))
      ∧ (m.arrived ||| (1 <<< (cl.val % 16)) = m.mask →
        Runs (.multicastMemberArrive cl) s [.mcasts, .clusters] fun t =>
          t.mcasts = (s.mcasts.filter fun q => !q.is job (leafOf cl) r.d.mctag)
          ∧ t.engine cl = (s.engine cl).updDesc r.pos (fun q => { q with joined := true })))
    ∧ (∀ m j, s.mcasts.find? (fun m => m.is job (leafOf cl) r.d.mctag) = some m →
      (m.mask ≠ r.d.mcmask ∨ m.name ≠ r.d.mcName) → s.jobOn cl = some j →
      Runs (.multicastMemberArrive cl) s killParts fun t => Killed j.ctx.val 0x13 t))
  ∧ (∀ (s : State) (cl : Cl) (m : Mcast) (j : Job), s.jobOn cl = some j →
    s.mcasts.find? (fun m => some m.job == (s.cluster cl).job && m.leaf == leafOf cl
      && m.arrived.getLsbD (cl.val % 16) && s.passedClk m.since (2 ^ s.fld 0x2500 0x0A 4 0)) = some m →
    Runs (.multicastTimeout cl) s killParts fun t => Killed j.ctx.val 0x13 t)

/-- A take the counter can satisfy subtracts its tokens and lets the taker go on; a post adds its own, and beyond
65,535 kills with cause 0x14; a take that waits too long kills with cause 0x12; a drained descriptor signals its fence tag.
Choices of the model in it: log entry 129. -/
def Obligations.CupTokensAndDescriptorSignals : Prop :=
  (∀ (s : State) (cl : Cl) (r : DescRun), (s.engine cl).current = some r → r.taken = false → s.engineFree cl = true →
    r.d.takeN ≤ s.tok cl r.d.take →
    Runs (.cupTokenTakeGrant cl .engine) s [.clusters] fun t => OtherClusters cl s t
      ∧ t.tok cl r.d.take = s.tok cl r.d.take - r.d.takeN
      ∧ (∀ n, n ≠ r.d.take → t.tok cl n = s.tok cl n)
      ∧ t.engine cl = (s.engine cl).updDesc r.pos (fun q => { q with taken := true }))
  ∧ (∀ (s : State) (cl : Cl) (x : Sched) (k : TakeRec),
    (s.tg cl).takes.find? (fun t => t.sched == x && (decide (t.n ≤ s.tok cl t.ctr) && !s.outranked cl (.sched x) t.ctr))
      = some k → s.engineFree cl = true →
    Runs (.cupTokenTakeGrant cl (.sched x)) s [.clusters] fun t => OtherClusters cl s t
      ∧ t.tok cl k.ctr = s.tok cl k.ctr - k.n ∧ (∀ n, n ≠ k.ctr → t.tok cl n = s.tok cl n)
      ∧ (t.tg cl).takes = (s.tg cl).takes.erase k ∧ t.engine cl = s.engine cl
      ∧ ∀ l ∈ k.lanes, ∀ th, (t.tg cl).thread? k.group l = some th → th.run = .running)
  ∧ (∀ (s : State) (cl : Cl) (x : Taker) (c n pos : Nat), s.postOf cl x = some (c, n, pos) → s.coreStopped = false →
    s.tok cl c + n ≤ 65535 →
    Runs (.cupTokenPost cl x) s [.clusters] fun t => OtherClusters cl s t
      ∧ t.tok cl c = s.tok cl c + n ∧ ∀ m, m ≠ c → t.tok cl m = s.tok cl m)
  ∧ (∀ (s : State) (cl : Cl) (x : Taker) (c n pos : Nat) (j : Job), s.postOf cl x = some (c, n, pos) →
    s.coreStopped = false → 65535 < s.tok cl c + n → s.jobOn cl = some j →
    Runs (.cupTokenPost cl x) s killParts fun t => Killed j.ctx.val 0x14 t)
  ∧ (∀ (s : State) (cl : Cl) (x : Taker) (since pos : Nat) (j : Job), s.takeSince cl x = some (since, pos) →
    s.engineFree cl = true → s.passedClk since (2 ^ s.fld 0x2500 0x0B 4 0 + 1) = true → s.jobOn cl = some j →
    Runs (.cupTokenTimeout cl x) s killParts fun t => Killed j.ctx.val 0x12 t)
  ∧ (∀ (s : State) (cl : Cl) (pos : Nat) (r : DescRun) (j : Job), (s.engine cl).desc? pos = some r →
    s.jobOn cl = some j → r.drained = true → r.signalled = false → r.d.fsig ≠ 0 →
    tagFits (s.tagBal j.ctx.val r.d.fsig - 1) = true →
    Runs (.descriptorFsig cl pos) s [.clusters, .seq] fun t => OtherClusters cl s t
      ∧ t.tagBal j.ctx.val r.d.fsig = s.tagBal j.ctx.val r.d.fsig - 1
      ∧ ∀ c n, tagKey c n ≠ tagKey j.ctx.val r.d.fsig → t.tagBal c n = s.tagBal c n)

/-! ### Thread groups -/

/-- The next block of the grid takes the lowest free slot, its groups and its granules, and leaves every placed
group as it is; a scheduler issues for a group with a ready thread and counts it; a word of the register file that the issue
reads with wrong bits beyond repair is poisoned; an instruction that cannot be fetched is a fault of its thread; the exit of a
block's last threads frees its slot and its groups, the exit of others frees nothing, and no load of an exited thread returns;
the exit of a thread that an open collective names is a fault.
Choices of the model in it: log entries 40, 141. -/
def Obligations.BlocksArePlacedIssuedAndEnd : Prop :=
  (∀ (s : State) (cl : Cl) (j : Job) (b : Nat) (scheds : List Nat), s.jobOn cl = some j → j.tgj = true →
    s.ctxState j.ctx.val = ctxActive → s.coreStopped = false → (s.tg cl).nextBlk < j.grid →
    j.lmem ≤ (s.tg cl).freeGranules.length →
    (List.range 16).find? (fun b => (Tbl.find (s.tg cl).blocks b).isNone) = some b →
    assign j.regsN ((j.threads + 31) / 32) ((List.range 4).map (s.tg cl).groupsOf) = some scheds →
    Runs (.blockPlace cl) s [.clusters] fun t => OtherClusters cl s t
      ∧ (t.tg cl).nextBlk = (s.tg cl).nextBlk + 1 ∧ (t.tg cl).lmem = (s.tg cl).lmem ∧ t.engine cl = s.engine cl
      ∧ (∃ blk, Tbl.find (t.tg cl).blocks b = some blk ∧ blk.num = (s.tg cl).nextBlk ∧ blk.barWait = none
          ∧ blk.groups.length = (j.threads + 31) / 32 ∧ blk.granules = (s.tg cl).freeGranules.take j.lmem)
      ∧ (∀ k, k ≠ b → Tbl.find (t.tg cl).blocks k = Tbl.find (s.tg cl).blocks k)
      ∧ ∀ k g, Tbl.find (s.tg cl).groups k = some g → Tbl.find (t.tg cl).groups k = some g)
  ∧ (∀ (s : State) (cl : Cl) (sched : Sched) (j : Job) (uses : List (Nat × List Nat)) (reuse : List Nat)
      (found : IssueErrs) (bad : Option (Nat × Word64)),
    s.jobOn cl = some j → s.ctxState j.ctx.val = ctxActive → s.coreStopped = false →
    Tbl.find (s.tg cl).issue sched.val = none → Tbl.get 0 (s.tg cl).freeAt sched.val ≤ s.time.core →
    (∃ sl g, sl < 12 ∧ Tbl.find (s.tg cl).groups (slotKey sched sl) = some g ∧ g.readyLanes uses s.time.core ≠ []) →
    (∀ sl g, sl < 12 → Tbl.find (s.tg cl).groups (slotKey sched sl) = some g → g.readyLanes uses s.time.core ≠ [] →
      (s.fetch cl j (g.choose (g.readyLanes uses s.time.core)).1 found).2 = bad) →
    (bad = none → found.icache = false → found.rcache = [] → found.regs = [] →
      Runs (.groupIssue cl sched uses reuse found) s [.regs, .clusters] fun t => OtherClusters cl s t
        ∧ ∃ sl g i, sl < 12 ∧ Tbl.find (s.tg cl).groups (slotKey sched sl) = some g
            ∧ Tbl.find (t.tg cl).issue sched.val = some i ∧ i.group = sl ∧ Tbl.get 11 (t.tg cl).last sched.val = sl
            ∧ i.lanes ≠ [] ∧ (∀ l ∈ i.lanes, l ∈ g.readyLanes uses s.time.core
                ∧ ∃ th, g.threads[l]? = some th ∧ th.pc = i.pc)
            ∧ (j.prog + i.pc) / 128 ∈ (t.tg cl).icache
            ∧ t.reg (0x3600 + cl.val) 1 = s.reg (0x3600 + cl.val) 1 + 1
            ∧ t.reg (0x3600 + cl.val) 3 = s.reg (0x3600 + cl.val) 3 + BitVec.ofNat 64 i.lanes.length
            ∧ Entries [(0x3600 + cl.val, 1), (0x3600 + cl.val, 3)] s t)
    ∧ (bad = none →
      Runs (.groupIssue cl sched uses reuse found) s [.regs, .clusters, .caddy, .link, .can, .snap, .out] fun t =>
        OtherClusters cl s t ∧ ∃ i, Tbl.find (t.tg cl).issue sched.val = some i
          ∧ ∀ e ∈ found.regs, 2 < e.bits → e.lane ∈ i.lanes → e.reg ∈ usesAt uses i.pc →
              (sched.val, slotKey sched i.group, e.reg) ∉ (s.tg cl).rcache →
            ∃ th, (t.tg cl).thread? (slotKey sched i.group) e.lane = some th ∧ e.reg / 2 ∈ th.poison)
    ∧ (∀ c a, bad = some (c, a) → found.icache = false →
      Runs (.groupIssue cl sched uses reuse found) s [.regs, .clusters, .seq] fun t => OtherClusters cl s t
        ∧ Tbl.find (t.tg cl).issue sched.val = none
        ∧ ∃ sl g, sl < 12 ∧ Tbl.find (s.tg cl).groups (slotKey sched sl) = some g
          ∧ Noted s t ⟨cl, sched, sl, (g.choose (g.readyLanes uses s.time.core)).2.headD 0, c,
              (g.choose (g.readyLanes uses s.time.core)).1, a, j.id⟩))
  ∧ (∀ (s : State) (th : Th) (x : Ex) (b : Block), s.exOf th.cl th.sched = some x → s.exitBad x = none →
    Tbl.find (s.tg x.cl).blocks ((s.tg x.cl).blockOf x.key) = some b →
    ((∀ k ∈ b.groups, ∀ l y, (s.tg x.cl).thread? k l = some y → y.run = .exited ∨ (k = x.key ∧ l ∈ x.lanes)) →
      Runs (.exit th) s [.clusters, .reqs] fun t => OtherClusters x.cl s t
        ∧ Tbl.find (t.tg x.cl).blocks ((s.tg x.cl).blockOf x.key) = none
        ∧ (∀ k ∈ b.groups, Tbl.find (t.tg x.cl).groups k = none) ∧ (t.tg x.cl).lmem = (s.tg x.cl).lmem
        ∧ Tbl.find (t.tg x.cl).issue x.sched.val = none ∧ t.reqs = (s.dropLoads x).reqs)
    ∧ ((∃ k l y, k ∈ b.groups ∧ (k = x.key → l ∉ x.lanes) ∧ (s.tg x.cl).thread? k l = some y ∧ y.run = .running) →
      Runs (.exit th) s [.clusters, .reqs] fun t => Went s t x x.lanes 1 ∧ t.reqs = (s.dropLoads x).reqs
        ∧ (∀ l ∈ x.lanes, (t.thread x l).run = .exited) ∧ (t.tg x.cl).blocks = (s.tg x.cl).blocks))
  ∧ (∀ (s : State) (x : Ex), ∀ r ∈ (s.dropLoads x).reqs, ∀ l ∈ x.lanes, ∀ d keep pc off n,
      r.purpose ≠ .load x.cl x.sched x.slot l d keep pc off n)
  ∧ (∀ (s : State) (th : Th) (x : Ex) (c lane : Nat), s.exOf th.cl th.sched = some x → s.exitBad x = some (lane, c) →
    Runs (.exit th) s [.seq] fun t => Noted s t ⟨x.cl, x.sched, x.slot, lane, 0x23, c, 0, x.job.id⟩)

/-- What each instruction of a thread's own registers writes, lane by lane, from the registers before it; the flags it
raises; when the result can be read; where the thread goes on. A shift by 32 or more and a special function leave a value the
manual does not state (log entries 44 and 45). -/
def Obligations.ArithmeticWritesItsLane : Prop :=
  ∀ (s : State) (th : Th) (op : AluOp) (x : Ex), s.inHand th ((aluUse op).1 ++ (aluUse op).2.1) (aluBad op) x →
    s.together x →
    Runs (.aluInstruction th op) s [.regs, .clusters, .seq, .free] fun t =>
      Went s t x x.lanes (aluUse op).2.2 ∧ Entries [(0x2500, 0x0C)] s t
      ∧ (∀ l ∈ x.lanes, ∀ r ∈ (aluUse op).2.1, From t x l r (s.time.core + aluLatency op))
      ∧ ∀ l ∈ x.lanes,
        match op with
        | .add d a b => Wrote s t x l [(d, s.src x l a + s.src x l b)] ∧ At t x l (x.pc + th.size) ∧ t.regs = s.regs
        | .sub d a b => Wrote s t x l [(d, s.src x l a - s.src x l b)] ∧ At t x l (x.pc + th.size) ∧ t.regs = s.regs
        | .cmp c d a b => Wrote s t x l [(d, if cmpHolds c (s.src x l a) (s.src x l b) then 1 else 0)]
            ∧ At t x l (x.pc + th.size) ∧ t.regs = s.regs
        | .select d p a b => Wrote s t x l [(d, if s.src x l p ≠ 0 then s.src x l a else s.src x l b)]
            ∧ At t x l (x.pc + th.size) ∧ t.regs = s.regs
        | .shl d a b => At t x l (x.pc + th.size) ∧ t.regs = s.regs ∧ ∃ v, Wrote s t x l [(d, v)]
            ∧ ((s.src x l b).toNat < 32 → v = s.src x l a <<< (s.src x l b).toNat)
        | .shrL d a b => At t x l (x.pc + th.size) ∧ t.regs = s.regs ∧ ∃ v, Wrote s t x l [(d, v)]
            ∧ ((s.src x l b).toNat < 32 → v = s.src x l a >>> (s.src x l b).toNat)
        | .shrA d a b => At t x l (x.pc + th.size) ∧ t.regs = s.regs ∧ ∃ v, Wrote s t x l [(d, v)]
            ∧ ((s.src x l b).toNat < 32 → v = (s.src x l a).sshiftRight (s.src x l b).toNat)
        | .mul32 d a b => Wrote s t x l [(d, s.src x l a * s.src x l b)] ∧ At t x l (x.pc + th.size) ∧ t.regs = s.regs
        | .mul64 d a b => Wrote s t x l [(d, (s.rd2 x l a * s.rd2 x l b).setWidth 32),
              (d + 1, ((s.rd2 x l a * s.rd2 x l b) >>> 32).setWidth 32)]
            ∧ At t x l (x.pc + th.size) ∧ t.regs = s.regs
        | .and d a b => Wrote s t x l [(d, s.src x l a &&& s.src x l b)] ∧ At t x l (x.pc + th.size) ∧ t.regs = s.regs
        | .or d a b => Wrote s t x l [(d, s.src x l a ||| s.src x l b)] ∧ At t x l (x.pc + th.size) ∧ t.regs = s.regs
        | .xor d a b => Wrote s t x l [(d, s.src x l a ^^^ s.src x l b)] ∧ At t x l (x.pc + th.size) ∧ t.regs = s.regs
        | .fadd d a b => Wrote s t x l [(d, (addRne (s.src x l a) (s.src x l b)).1)] ∧ At t x l (x.pc + th.size)
            ∧ Flagged s t (addRne (s.src x l a) (s.src x l b)).2
        | .fmul d a b => Wrote s t x l [(d, (mulRne (s.src x l a) (s.src x l b)).1)] ∧ At t x l (x.pc + th.size)
            ∧ Flagged s t (mulRne (s.src x l a) (s.src x l b)).2
        | .ffma d a b c => Wrote s t x l [(d, (fmaRne (s.src x l a) (s.src x l b) (s.src x l c)).1)]
            ∧ At t x l (x.pc + th.size) ∧ Flagged s t (fmaRne (s.src x l a) (s.src x l b) (s.src x l c)).2
        | .bf16fma d a b c => Wrote s t x l [(d, (packedFma (s.src x l a) (s.src x l b) (s.src x l c)).1)]
            ∧ At t x l (x.pc + th.size) ∧ Flagged s t (packedFma (s.src x l a) (s.src x l b) (s.src x l c)).2
        | .special f d a => Wrote s t x l [(d, canonNan (Config.special f (s.src x l a)))] ∧ At t x l (x.pc + th.size)
            ∧ Flagged s t (specialFn f (s.src x l a)).2
        | .branch p => Wrote s t x l [] ∧ From t x l pcReg (s.time.core + 2) ∧ At t x l p ∧ t.regs = s.regs
        | .branchIf a p => Wrote s t x l [] ∧ From t x l pcReg (s.time.core + 2)
            ∧ At t x l (if s.src x l a ≠ 0 then p else x.pc + th.size) ∧ t.regs = s.regs
        | .call d p => Wrote s t x l [(d, BitVec.ofNat 32 (x.pc + th.size))] ∧ From t x l pcReg (s.time.core + 2)
            ∧ At t x l p ∧ t.regs = s.regs
        | .ret a => Wrote s t x l [] ∧ From t x l pcReg (s.time.core + 2)
            ∧ At t x l (s.rd x l a).toNat ∧ t.regs = s.regs
        | .undefinedEncoding => False

/-- An instruction that cannot be executed is a fault of its thread, and runs on no lane: an undefined encoding and a register
at or above R with cause 0x22, a poisoned source with 0x25. At the end of the clock the first of a context's faults (lowest
cluster, scheduler, slot, lane) kills the context and, where TGFAULT is free, leaves there what and where; one of a job that
has ended brings nothing. A write of 1 to VALID frees TGFAULT. -/
def Obligations.ThreadFaultsAreLoggedAndKill : Prop :=
  (∀ (s : State) (th : Th) (op : AluOp) (x : Ex) (f : TgF), s.exOf th.cl th.sched = some x →
    ((x.regsOk ((aluUse op).1 ++ (aluUse op).2.1) = false ∧ f = ⟨0x22, x.lanes.headD 0, 0⟩)
      ∨ (x.regsOk ((aluUse op).1 ++ (aluUse op).2.1) = true ∧ firstFault x.lanes (aluBad op s x) = some f)) →
    Runs (.aluInstruction th op) s [.regs, .seq] fun t => Noted s t (x.note f))
  ∧ (∀ (s : State) (x : Ex) (l : Nat) (op : AluOp), op ≠ .undefinedEncoding → s.regPoison x l (aluUse op).1 = true →
    aluBad op s x l = some (0x25, 0))
  ∧ (∀ (s : State) (x : Ex) (l : Nat), aluBad .undefinedEncoding s x l = some (0x22, 0))
  ∧ (∀ (s : State) (n : TgNote) (j : Job), firstBy TgNote.before s.seq.faults = some n → s.jobOn n.cl = some j →
    j.id = n.job → n.cl < 64 → n.sched < 4 → n.slot < 12 → n.lane < 32 → n.cause < 256 →
    Frame killParts s s.killFaulted ∧ Killed j.ctx.val n.cause s.killFaulted ∧ s.killFaulted.seq.faults = []
      ∧ (s.bit 0x2620 8 29 = false → s.heldClear 0x2620 8 29 = false →
          s.killFaulted.bit 0x2620 8 29 = true ∧ s.killFaulted.fld 0x2620 8 7 0 = n.cause
          ∧ s.killFaulted.fld 0x2620 8 11 8 = j.ctx.val ∧ s.killFaulted.fld 0x2620 8 17 12 = n.cl
          ∧ s.killFaulted.fld 0x2620 8 19 18 = n.sched ∧ s.killFaulted.fld 0x2620 8 23 20 = n.slot
          ∧ s.killFaulted.fld 0x2620 8 28 24 = n.lane
          ∧ s.killFaulted.fld 0x2620 8 63 32 = n.pc % 2 ^ 32 ∧ s.killFaulted.reg 0x2620 9 = n.addr)
      ∧ (s.bit 0x2620 8 29 = true →
          s.killFaulted.reg 0x2620 8 = s.reg 0x2620 8 ∧ s.killFaulted.reg 0x2620 9 = s.reg 0x2620 9))
  ∧ (∀ s : State, (∀ n ∈ s.seq.faults, ∀ j, s.jobOn n.cl = some j → j.id ≠ n.job) →
      s.killFaulted = { s with seq := { s.seq with faults := [] } })
  ∧ (∀ s : State, s.pending = [] → s.dev ≠ devOff → step s = step s.killFaulted)
  ∧ (∀ (s : State) (via : Via) (value : Word64), s.carries via 0x2620 8 = true →
    (s.given via value).getLsbD 29 = true →
    Writes (.tgfaultClear via value) via 0x2620 8 s [.regs, .cleared] fun u t =>
      t.bit 0x2620 8 29 = false ∧ t.heldClear 0x2620 8 29 = true ∧ Entries [(0x2620, 8), (0x2620, 9)] u t)

/-- Collectives wait until every lane of the mask has come, and hold those that have; then XLANE.GET reads registers of the
masked lanes (0 from others), XLANE.ANYOF, EVERY and BITMAP report predicates, the folds combine values in ascending
lane order, and GMAT adds to its fragment of C; the lanes go on together. GMATs take the group matrix unit in turn, every
eight clocks. One that waits past the convergence timeout is a fault with cause 0x24.
Choices of the model in it: log entries 42, 47. -/
def Obligations.CollectivesWaitForTheirMask : Prop :=
  (∀ (s : State) (th : Th) (mask : Src) (d a : Nat) (lane : Src) (x : Ex), s.meets th mask (a :: srcRegs lane ++ [d]) x →
    (s.come x ≠ s.src x (x.lanes.headD 0) mask →
      Runs (.xlaneGet th mask d a lane) s [.clusters] fun t => Went s t x x.lanes 1
        ∧ (∀ l ∈ x.lanes, (t.thread x l).run = .atColl ∧ (t.thread x l).pc = x.pc ∧ Wrote s t x l [])
        ∧ ∃ c ∈ (t.tg x.cl).colls, c.group = x.key ∧ c.pc = x.pc ∧ c.arrived = s.come x)
    ∧ (s.come x = s.src x (x.lanes.headD 0) mask →
      firstFault (s.maskOf x mask) (poisonBad (a :: srcRegs lane) s x) = none →
      Runs (.xlaneGet th mask d a lane) s [.clusters] fun t => Met s t x (s.maskOf x mask) th.size 2
        ∧ ∀ l ∈ s.maskOf x mask, Wrote s t x l
            [(d, if (s.src x l lane).toNat % 32 ∈ s.maskOf x mask then s.rd x ((s.src x l lane).toNat % 32) a else 0)]))
  ∧ (∀ (s : State) (th : Th) (mask : Src) (kind : PollKind) (d : Nat) (p : Src) (x : Ex),
    s.meets th mask (srcRegs p ++ [d]) x → s.come x = s.src x (x.lanes.headD 0) mask →
    firstFault (s.maskOf x mask) (poisonBad (srcRegs p) s x) = none →
    Runs (.xlanePoll th mask kind d p) s [.clusters] fun t => Met s t x (s.maskOf x mask) th.size 2
      ∧ ∀ l ∈ s.maskOf x mask, ∃ v, Wrote s t x l [(d, v)] ∧ match kind with
        | .anyOf => v = if ∃ k ∈ s.maskOf x mask, s.src x k p ≠ 0 then 1 else 0
        | .every => v = if ∀ k ∈ s.maskOf x mask, s.src x k p ≠ 0 then 1 else 0
        | .bitmap => ∀ k, v.getLsbD k = (decide (k ∈ s.maskOf x mask) && s.src x k p != 0))
  ∧ (∀ (s : State) (th : Th) (mask : Src) (kind : FoldKind) (signed : Bool) (d : Nat) (a : Src) (x : Ex),
    s.meets th mask (srcRegs a ++ [d]) x → s.come x = s.src x (x.lanes.headD 0) mask →
    firstFault (s.maskOf x mask) (poisonBad (srcRegs a) s x) = none →
    Runs (.xlaneFold th mask kind signed d a) s [.clusters] fun t => Met s t x (s.maskOf x mask) th.size 2
      ∧ ∃ v, v = foldValue kind signed ((s.maskOf x mask).map fun l => s.src x l a)
        ∧ (kind = .sum → v = ((s.maskOf x mask).map fun l => s.src x l a).foldl (· + ·) 0)
        ∧ ∀ l ∈ s.maskOf x mask, Wrote s t x l [(d, v)])
  ∧ (∀ (s : State) (th : Th) (mask : Src) (fa fb : GFmt) (f g : Fmt) (a b c : Nat) (x : Ex),
    gmatForm fa fb = some (f, g) →
    s.meets th mask ((List.range 8).map (a + ·) ++ [b, b + 1] ++ (List.range 8).map (c + ·)
      ++ (List.range 8).map (c + ·)) x →
    (s.come x ≠ s.src x (x.lanes.headD 0) mask →
      Runs (.gmat th mask fa fb a b c) s [.clusters] fun t => Went s t x x.lanes 1
        ∧ ∀ l ∈ x.lanes, (t.thread x l).run = .atColl ∧ (t.thread x l).pc = x.pc ∧ Wrote s t x l [])
    ∧ (s.come x = s.src x (x.lanes.headD 0) mask →
      firstFault (s.maskOf x mask) (poisonBad ((List.range 8).map (a + ·) ++ [b, b + 1] ++ (List.range 8).map (c + ·)) s x)
        = none → s.gmuTakes x.cl x.sched.val = false →
      Runs (.gmat th mask fa fb a b c) s [.clusters] fun t => OtherClusters x.cl s t
        ∧ (t.tg x.cl).issue = (s.tg x.cl).issue ∧ (t.tg x.cl).groups = (s.tg x.cl).groups ∧ x.sched.val ∈ (t.tg x.cl).gmuWait)
    ∧ (s.come x = s.src x (x.lanes.headD 0) mask →
      firstFault (s.maskOf x mask) (poisonBad ((List.range 8).map (a + ·) ++ [b, b + 1] ++ (List.range 8).map (c + ·)) s x)
        = none → s.gmuTakes x.cl x.sched.val = true →
      Runs (.gmat th mask fa fb a b c) s [.regs, .clusters, .seq] fun t => Met s t x (s.maskOf x mask) th.size 1
        ∧ (t.tg x.cl).gmuAt = s.time.core + 9 ∧ (t.tg x.cl).gmuLast = x.sched.val ∧ Entries [(0x2500, 0x0C)] s t
        ∧ ∀ l ∈ s.maskOf x mask,
          Wrote s t x l ((List.range 8).map fun j => (c + j, (s.gmatOut x (s.maskOf x mask) f g a b c l j).1))
          ∧ (f = .int 8 → ∀ j, j < 8 → t.rd x l (c + j) =
              s.rd x l (c + j) + BitVec.ofInt 32 (intSum (s.gmatTerms x (s.maskOf x mask) f g a b l j)))))
  ∧ (∀ (s : State) (cl sched : Nat), s.gmuTakes cl sched = (decide ((s.tg cl).gmuAt ≤ s.time.core + 1)
      && (s.tg cl).gmuAsking.all fun i =>
        decide ((sched + 3 - (s.tg cl).gmuLast) % 4 ≤ (i + 3 - (s.tg cl).gmuLast) % 4)))
  ∧ (∀ (s : State) (cl : Cl) (sched : Sched) (slot : Fin 12) (k : Coll) (j : Job), s.jobOn cl = some j →
    (s.tg cl).colls.find? (fun c => c.group == slotKey sched slot.val && decide (2 ^ s.fld 0x2620 4 4 0 < c.waited)) =
      some k →
    Runs (.convergenceTimeout cl sched slot) s [.seq] fun t =>
      Noted s t ⟨cl, sched, slot, (maskLanes k.arrived).headD 0, 0x24, k.pc, 0, j.id⟩)

/-- A load that the L1 holds writes its registers at once; any other asks memory for its bytes, or for the sector an LD
keeps, and its registers wait for it; a dregs load is marked and takes the line out of the L1. The return writes the
registers, zero-extended, and the L1 takes a kept sector. A prefetch notes the sectors that no caddy holds.
Choices of the model in it: log entries 38, 39. -/
def Obligations.LoadsAskAndReturn : Prop :=
  (∀ (s : State) (th : Th) (d a n : Nat) (x : Ex), s.inHand th (a :: (a + 1) :: regsFor d n) (accessBad [] a n false) x →
    s.together x →
    ((∀ l ∈ x.lanes, ((s.tg x.cl).l1Get (s.l1Line (s.rd2 x l a)) ((s.rd2 x l a).toNat % 128) n).isSome = true) →
      Runs (.ld th d a n false) s [.clusters] fun t => Went s t x x.lanes 1 ∧ ∀ l ∈ x.lanes, At t x l (x.pc + th.size)
        ∧ ∃ bs, (s.tg x.cl).l1Get (s.l1Line (s.rd2 x l a)) ((s.rd2 x l a).toNat % 128) n = some bs
          ∧ Wrote s t x l ((regsFor d n).map fun q => (q, BitVec.ofNat 32 (leNat ((bs.drop (4 * (q - d))).take 4)))))
    ∧ ((∀ l ∈ x.lanes, (s.tg x.cl).l1Get (s.l1Line (s.rd2 x l a)) ((s.rd2 x l a).toNat % 128) n = none
          ∧ s.l1Able (s.rd2 x l a) n = true) →
      Runs (.ld th d a n false) s [.clusters, .reqs] fun t => Went s t x x.lanes 1
        ∧ (∀ l ∈ x.lanes, At t x l (x.pc + th.size) ∧ ∀ q ∈ regsFor d n, (q, none) ∈ (t.thread x l).sb)
        ∧ ∃ new : List Req, t.reqs = s.reqs ++ new
            ∧ new.map (fun q => (q.kind, q.addr, q.len, q.marked, q.purpose)) = x.lanes.map fun l =>
              (.read, s.rd2 x l a - BitVec.ofNat 64 ((s.rd2 x l a).toNat % 32), 32, false,
                .load x.cl x.sched x.slot l d true x.pc ((s.rd2 x l a).toNat % 32) n)))
  ∧ (∀ (s : State) (th : Th) (d a n : Nat) (x : Ex), s.inHand th (a :: (a + 1) :: regsFor d n) (accessBad [] a n false) x →
    s.together x →
    Runs (.ldByp th d a n) s [.clusters, .reqs] fun t => Went s t x x.lanes 1
      ∧ (∀ l ∈ x.lanes, At t x l (x.pc + th.size) ∧ ∀ q ∈ regsFor d n, (q, none) ∈ (t.thread x l).sb)
      ∧ (t.tg x.cl).l1 = (s.tg x.cl).l1
      ∧ ∃ new : List Req, t.reqs = s.reqs ++ new
          ∧ new.map (fun q => (q.kind, q.addr, q.len, q.marked, q.purpose)) = x.lanes.map fun l =>
            (.read, s.rd2 x l a, n, false, .load x.cl x.sched x.slot l d false x.pc 0 n))
  ∧ (∀ (s : State) (th : Th) (d a n : Nat) (x : Ex), s.inHand th (a :: (a + 1) :: regsFor d n) (accessBad [] a n false) x →
    s.together x →
    Runs (.ldDregs th d a n) s [.clusters, .reqs] fun t => Went s t x x.lanes 1
      ∧ (∀ l ∈ x.lanes, At t x l (x.pc + th.size) ∧ (∀ q ∈ regsFor d n, (q, none) ∈ (t.thread x l).sb)
        ∧ ∀ e ∈ (t.tg x.cl).l1, e ∈ (s.tg x.cl).l1 ∧ e.line ≠ s.l1Line (s.rd2 x l a))
      ∧ ∃ old new : List Req, t.reqs = old ++ new
          ∧ old.map (fun q => { q with purpose := .head 0 }) = s.reqs.map (fun q => { q with purpose := .head 0 })
          ∧ new.map (fun q => (q.kind, q.addr, q.len, q.marked, q.purpose)) = x.lanes.map fun l =>
            (.read, s.rd2 x l a, n, true, .load x.cl x.sched x.slot l d false x.pc 0 n))
  ∧ (∀ (s : State) (id : Nat) (r : Req) (cl : Cl) (sched : Sched) (slot lane d pc off n : Nat) (keep : Bool)
      (data : List Byte) (th : Thread), s.req? id = some r → r.route = [] → r.stage = .done data false →
    r.purpose = .load cl sched slot lane d keep pc off n → (s.tg cl).thread? (slotKey sched slot) lane = some th →
    Runs (.loadReturn id) s [.clusters, .reqs] fun t => OtherClusters cl s t ∧ t.reqs = s.reqs.filter (fun q => q.id ≠ id)
      ∧ (∃ th', (t.tg cl).thread? (slotKey sched slot) lane = some th' ∧ th'.pc = th.pc ∧ th'.run = th.run
          ∧ (∀ q ∈ regsFor d n, Tbl.get 0 th'.regs q =
              BitVec.ofNat 32 (leNat ((((data.drop off).take n).drop (4 * (q - d))).take 4))
              ∧ (q, some (s.time.core + 16)) ∈ th'.sb)
          ∧ ∀ q, q ∉ regsFor d n → Tbl.get 0 th'.regs q = Tbl.get 0 th.regs q)
      ∧ (keep = false → (t.tg cl).l1 = (s.tg cl).l1)
      ∧ (keep = true → ∃ e ∈ (t.tg cl).l1, e.line = s.l1Line r.addr
          ∧ e.valid.getLsbD (r.addr.toNat % 128 / 32) = true))
  ∧ (∀ (s : State) (id : Nat) (r : Req) (cl : Cl) (sched : Sched) (slot lane d pc off n : Nat) (keep : Bool)
      (data : List Byte) (j : Job), s.req? id = some r → r.route = [] → r.stage = .done data true →
    r.purpose = .load cl sched slot lane d keep pc off n → s.jobOn cl = some j →
    Runs (.loadReturn id) s [.regs, .reqs, .seq] fun t => t.reqs = s.reqs.filter (fun q => q.id ≠ id)
      ∧ Noted s t ⟨cl, sched, slot, lane, 0x25, pc, r.addr + BitVec.ofNat 64 off, j.id⟩)
  ∧ (∀ (s : State) (id : Nat) (r : Req) (cl : Cl) (sched : Sched) (slot lane d pc off n : Nat) (keep : Bool)
      (j : Job), s.req? id = some r → r.route = [] → r.stage = .refused →
    r.purpose = .load cl sched slot lane d keep pc off n → s.jobOn cl = some j →
    Runs (.loadReturn id) s [.reqs, .seq] fun t => t.reqs = s.reqs.filter (fun q => q.id ≠ id)
      ∧ Noted s t ⟨cl, sched, slot, lane, 0x20, pc, r.addr + BitVec.ofNat 64 off, j.id⟩)
  ∧ (∀ (s : State) (th : Th) (a : Nat) (len : Src) (x : Ex),
    s.inHand th (a :: (a + 1) :: srcRegs len) (poisonBad (a :: (a + 1) :: srcRegs len)) x → s.together x →
    Runs (.prefetch th a len) s [.regs, .clusters, .caddy] fun t => Went s t x x.lanes 1
      ∧ Entries [(0x3300 + caddyOf x.cl, 0x13)] s t
      ∧ t.caddy = { s.caddy with notes := t.caddy.notes } ∧ (∀ y ∈ s.caddy.notes, y ∈ t.caddy.notes)
      ∧ ∀ l ∈ x.lanes, At t x l (x.pc + th.size) ∧ Wrote s t x l []
        ∧ (s.isLocal (s.rd2 x l a) = true → s.src x l len ≠ 0 →
          ∀ sec ∈ s.prefetchSectors (addrLocal (s.rd2 x l a) / 4096)
            (min ((addrLocal (s.rd2 x l a) + (s.src x l len).toNat + 4095) / 4096) (hbmBytes / 4096)
              - addrLocal (s.rd2 x l a) / 4096),
            (256 * s.homeOf (32 * sec) + s.sliceOf (32 * sec), sec, 1, none) ∈ t.caddy.notes))

/-- A store sends each lane's bytes to memory and updates the sectors the L1 holds; an atomic sends one request for each
address the issue set names (to another node, one for each thread where no packet carries them together), its registers wait for the old value, and both are
counted. HBM itself changes only when these are served.
Choices of the model in it: log entries 41, 48. -/
def Obligations.StoresAndAtomicsLeave : Prop :=
  (∀ (s : State) (th : Th) (a v n : Nat) (x : Ex),
    s.inHand th (a :: (a + 1) :: regsFor v n) (accessBad (regsFor v n) a n false) x → s.together x →
    Runs (.st th a v n) s [.clusters, .reqs] fun t => Went s t x x.lanes 1
      ∧ (∀ l ∈ x.lanes, At t x l (x.pc + th.size) ∧ Wrote s t x l [])
      ∧ (t.tg x.cl).l1.map (fun e => (e.line, e.valid)) = (s.tg x.cl).l1.map (fun e => (e.line, e.valid))
      ∧ ∃ old new : List Req, t.reqs = old ++ new
          ∧ old.map (fun q => { q with purpose := .head 0 }) = s.reqs.map (fun q => { q with purpose := .head 0 })
          ∧ new.map (fun q => (q.kind, q.addr, q.data, q.poisoned, q.purpose)) = x.lanes.map fun l =>
            (.write, s.rd2 x l a, s.regBytes x l v n, false, .store x.cl x.sched x.slot l x.pc))
  ∧ (∀ (s : State) (th : Th) (op : AtomOp) (ty : AtomTy) (d a v : Nat) (x : Ex), atomForm op ty = true →
    s.inHand th ([a, a + 1] ++ regsFor d (atomWidth ty) ++ atomRegs op ty v)
      (accessBad (atomRegs op ty v) a (atomWidth ty) true) x → s.together x →
    Runs (.memoryAtomic th op ty d a v) s [.regs, .clusters, .reqs] fun t => Went s t x x.lanes 1
      ∧ (∀ l ∈ x.lanes, At t x l (x.pc + th.size) ∧ Wrote s t x l []
          ∧ ∀ q ∈ regsFor d (atomWidth ty), (q, none) ∈ (t.thread x l).sb)
      ∧ ∃ old new : List Req, t.reqs = old ++ new
          ∧ old.map (fun q => { q with purpose := .head 0 }) = s.reqs.map (fun q => { q with purpose := .head 0 })
          ∧ new.map (fun q => (q.kind, q.addr, q.operands, q.purpose)) =
            ((byAddr (x.lanes.map fun l => (l, s.rd2 x l a))).map fun p =>
              (if s.addrKind p.1 (atomWidth ty) = .remote ∧ atomJoins op ty = false then p.2.map (fun l => [l])
                else [p.2]).map fun ls =>
                (.atomic op ty, p.1, ls.map fun l => s.atomArgs x l v (atomWidth ty) op,
                  .atomicOf x.cl x.sched x.slot d ls x.pc)).flatten
          ∧ t.reg (0x3600 + x.cl.val) 9 = s.reg (0x3600 + x.cl.val) 9 + BitVec.ofNat 64 new.length
          ∧ t.reg (0x3600 + x.cl.val) 0x0B = s.reg (0x3600 + x.cl.val) 0x0B + BitVec.ofNat 64 x.lanes.length
          ∧ Entries [(0x3600 + x.cl.val, 9), (0x3600 + x.cl.val, 0x0B)] s t)
  ∧ (∀ (s : State) (id : Nat) (r : Req) (cl : Cl) (sched : Sched) (slot lane d pc : Nat) (op : AtomOp) (ty : AtomTy)
      (data : List Byte) (th : Thread), s.req? id = some r → r.route = [] → r.stage = .done data false →
    r.kind = .atomic op ty → r.purpose = .atomicOf cl sched slot d [lane] pc →
    (s.tg cl).thread? (slotKey sched slot) lane = some th →
    Runs (.loadReturn id) s [.clusters, .reqs] fun t => OtherClusters cl s t ∧ t.reqs = s.reqs.filter (fun q => q.id ≠ id)
      ∧ ∃ th', (t.tg cl).thread? (slotKey sched slot) lane = some th'
          ∧ ∀ q ∈ regsFor d (atomWidth ty), Tbl.get 0 th'.regs q =
              BitVec.ofNat 32 (leNat (((data.take (atomWidth ty)).drop (4 * (q - d))).take 4)))

/-- Local memory and the window onto the cup buffer: loads return the bytes of a block's granules or of the cup buffer, stores
put them there in ascending lane order, and an atomic applies the lanes of one address one after another. Wrong bits in a word
that a load reads are put right, or poison it beyond two bits. An access beyond the block's granules, or below the window, is
a fault.
Choices of the model in it: log entry 38. -/
def Obligations.LocalMemoryAndWindow : Prop :=
  (∀ (s : State) (th : Th) (d n : Nat) (a : Src) (x : Ex), s.inHand th (srcRegs a ++ regsFor d n) (localReadBad a n) x →
    s.together x →
    Runs (.localLoad th d a n []) s [.clusters] fun t => Went s t x x.lanes 1
      ∧ (t.tg x.cl).lmem = (s.tg x.cl).lmem ∧ (t.cluster x.cl).cup = (s.cluster x.cl).cup
      ∧ ∀ l ∈ x.lanes, At t x l (x.pc + th.size)
        ∧ Wrote s t x l ((regsFor d n).map fun q => (q, BitVec.ofNat 32 (leNat (((Mem.read (s.tg x.cl).lmem
            ((s.blockOf x).local (s.src x l a).toNat) n).drop (4 * (q - d))).take 4)))))
  ∧ (∀ (s : State) (th : Th) (d n : Nat) (a : Src) (x : Ex) (e : WordErr),
    s.inHand th (srcRegs a ++ regsFor d n) (localReadBad a n) x → e.word ∈ s.localWords x a n →
    (2 < e.bits → Runs (.localLoad th d a n [e]) s [.regs, .clusters, .seq, .link, .can, .snap, .out] fun t =>
      e.word ∈ (t.tg x.cl).lmPois ∧ t.reg (intCounter (leafDie x.cl)) 3 = s.reg (intCounter (leafDie x.cl)) 3 + 1
      ∧ ∃ l ∈ x.lanes, t.seq = { s.seq with faults := s.seq.faults ++
          [x.note ⟨0x25, l, BitVec.ofNat 64 (s.src x l a).toNat⟩] })
    ∧ (e.bits = 1 ∨ e.bits = 2 → s.together x →
      Runs (.localLoad th d a n [e]) s [.regs, .clusters, .caddy] fun t => Went s t x x.lanes 1
        ∧ t.reg (intCounter (leafDie x.cl)) 1 = s.reg (intCounter (leafDie x.cl)) 1 + 1
        ∧ Entries [(intCounter (leafDie x.cl), 1)] s t
        ∧ ∀ l ∈ x.lanes, Wrote s t x l ((regsFor d n).map fun q => (q, BitVec.ofNat 32 (leNat (((Mem.read
            (s.tg x.cl).lmem ((s.blockOf x).local (s.src x l a).toNat) n).drop (4 * (q - d))).take 4))))))
  ∧ (∀ (s : State) (th : Th) (v n : Nat) (a : Src) (x : Ex),
    s.inHand th (srcRegs a ++ regsFor v n) (localAccessBad (regsFor v n) a n) x → s.together x →
    Runs (.localStore th a v n) s [.clusters] fun t => Went s t x x.lanes 1
      ∧ (t.tg x.cl).lmem = x.lanes.foldl (fun m l =>
          Mem.write m ((s.blockOf x).local (s.src x l a).toNat) (s.regBytes x l v n)) (s.tg x.cl).lmem
      ∧ (t.cluster x.cl).cup = (s.cluster x.cl).cup
      ∧ ∀ l ∈ x.lanes, At t x l (x.pc + th.size) ∧ Wrote s t x l [])
  ∧ (∀ (s : State) (th : Th) (op : AtomOp) (ty : AtomTy) (d v : Nat) (a : Src) (x : Ex) (l : Nat), x.lanes = [l] →
    atomForm op ty = true →
    s.inHand th (srcRegs a ++ regsFor d (atomWidth ty) ++ atomRegs op ty v)
      (fun s x l => orElse (localReadBad a (atomWidth ty) s x l) (poisonBad (atomRegs op ty v) s x l)) x → s.together x →
    Runs (.localAtomic th op ty d a v []) s [.regs, .clusters, .seq] fun t => Went s t x x.lanes 1
      ∧ At t x l (x.pc + th.size) ∧ Entries [(0x2500, 0x0C)] s t
      ∧ ∃ place old new olds, place = (s.blockOf x).local (s.src x l a).toNat
        ∧ old = BitVec.ofNat 64 (leNat (Mem.read (s.tg x.cl).lmem place (atomWidth ty)))
        ∧ atomAll op ty old [s.atomArgs x l v (atomWidth ty) op] = (new, [olds])
        ∧ (t.tg x.cl).lmem = Mem.write (s.tg x.cl).lmem place (leBytes (atomWidth ty) new.toNat)
        ∧ Flagged s t (atomExc op ty old [s.atomArgs x l v (atomWidth ty) op])
        ∧ Wrote s t x l ((regsFor d (atomWidth ty)).map fun q =>
            (q, BitVec.ofNat 32 (leNat (((leBytes (atomWidth ty) olds.toNat).drop (4 * (q - d))).take 4)))))
  ∧ (∀ (s : State) (th : Th) (d n : Nat) (a : Src) (x : Ex), s.inHand th (srcRegs a ++ regsFor d n) (windowReadBad a n) x →
    s.together x →
    Runs (.windowLoad th d a n []) s [.clusters] fun t => Went s t x x.lanes 1
      ∧ (t.cluster x.cl).cup = (s.cluster x.cl).cup ∧ (t.tg x.cl).lmem = (s.tg x.cl).lmem
      ∧ ∀ l ∈ x.lanes, At t x l (x.pc + th.size)
        ∧ Wrote s t x l ((regsFor d n).map fun q => (q, BitVec.ofNat 32 (leNat (((Mem.read (s.cluster x.cl).cup
            (s.src x l a).toNat n).drop (4 * (q - d))).take 4)))))
  ∧ (∀ (s : State) (th : Th) (v n : Nat) (a : Src) (x : Ex),
    s.inHand th (srcRegs a ++ regsFor v n) (windowAccessBad (regsFor v n) a n) x → s.together x →
    Runs (.windowStore th a v n) s [.clusters] fun t => Went s t x x.lanes 1
      ∧ (t.cluster x.cl).cup = x.lanes.foldl (fun m l =>
          Mem.write m (s.src x l a).toNat (s.regBytes x l v n)) (s.cluster x.cl).cup
      ∧ (t.tg x.cl).lmem = (s.tg x.cl).lmem
      ∧ ∀ l ∈ x.lanes, At t x l (x.pc + th.size) ∧ Wrote s t x l [])
  ∧ (∀ (s : State) (x : Ex) (l n : Nat) (a : Src), sizeBad n = false → s.regPoison x l (srcRegs a) = false →
    (s.src x l a).toNat % n = 0 →
    (1024 * (s.blockOf x).granules.length < (s.src x l a).toNat + n →
      localAccessBad [] a n s x l = some (0x20, BitVec.ofNat 64 (s.src x l a).toNat))
    ∧ ((s.src x l a).toNat < cupBytes - s.windowBytes →
      windowAccessBad [] a n s x l = some (0x26, BitVec.ofNat 64 (s.src x l a).toNat)))

/-- A fence holds its issue set until the writes it orders have been accepted, and past FENCE.DEVICE and FENCE.FABRIC the L1
is empty; a barrier holds a block's threads until the last has come, and is a fault with cause 0x24 after the
timeout; a take and a post of tokens are recorded for the cluster's counters.
Choices of the model in it: log entries 40, 48. -/
def Obligations.FencesBarriersAndTokensHold : Prop :=
  (∀ (s : State) (th : Th) (x : Ex), s.inHand th [] (fun _ _ _ => none) x → s.together x →
    (Runs (.fenceBlock th) s [.clusters] fun t => Went s t x x.lanes 1 ∧ ∀ l ∈ x.lanes,
        (t.thread x l).run = .atFence .block s.time.core ∧ (t.thread x l).pc = x.pc + th.size ∧ Wrote s t x l [])
    ∧ (Runs (.fenceDevice th) s [.clusters] fun t => Went s t x x.lanes 1 ∧ ∀ l ∈ x.lanes,
        (t.thread x l).run = .atFence .device s.time.core ∧ (t.thread x l).pc = x.pc + th.size ∧ Wrote s t x l [])
    ∧ (Runs (.fenceFabric th) s [.clusters] fun t => Went s t x x.lanes 1 ∧ ∀ l ∈ x.lanes,
        (t.thread x l).run = .atFence .fabric s.time.core ∧ (t.thread x l).pc = x.pc + th.size ∧ Wrote s t x l []))
  ∧ (∀ (s : State) (cl : Cl) (sched : Sched) (slot : Fin 12),
    ((∀ q ∈ (s.tg cl).fencing (slotKey sched slot.val), ∃ p ∈ (s.tg cl).fencing (slotKey sched slot.val), p.1 = q.1
        ∧ s.fenceMet cl sched slot.val p.2 p.1.1 = false) → exec (.fenceComplete cl sched slot) s = .next s)
    ∧ ((∃ q ∈ (s.tg cl).fencing (slotKey sched slot.val), ∀ p ∈ (s.tg cl).fencing (slotKey sched slot.val), p.1 = q.1 →
        s.fenceMet cl sched slot.val p.2 p.1.1 = true) →
      Runs (.fenceComplete cl sched slot) s [.clusters, .reqs] fun t => OtherClusters cl s t
        ∧ ∃ k set lanes, lanes ≠ []
          ∧ (∀ l, l ∈ lanes ↔ ((k, set), l) ∈ (s.tg cl).fencing (slotKey sched slot.val))
          ∧ (∀ l ∈ lanes, s.fenceMet cl sched slot.val l k = true
              ∧ ∃ y, (t.tg cl).thread? (slotKey sched slot.val) l = some y ∧ y.run = .running)
          ∧ (k = .block → t.reqs = s.reqs ∧ (t.tg cl).l1 = (s.tg cl).l1)
          ∧ (k ≠ .block → (t.tg cl).l1 = [] ∧ (t.tg cl).rcache = [])))
  ∧ (∀ (s : State) (th : Th) (x : Ex) (b : Block), s.inHand th [] (fun _ _ _ => none) x → s.together x →
    Tbl.find (s.tg x.cl).blocks ((s.tg x.cl).blockOf x.key) = some b → x.key ∈ b.groups →
    b.barWait.any s.expired = false →
    ((∃ k l y, k ∈ b.groups ∧ (k = x.key → l ∉ x.lanes) ∧ (s.tg x.cl).thread? k l = some y
        ∧ y.run ≠ .exited ∧ y.run.barred = false) →
      Runs (.barBlock th) s [.clusters] fun t => Went s t x x.lanes 1
        ∧ ∀ l ∈ x.lanes, (t.thread x l).run = .atBar th.size ∧ (t.thread x l).pc = x.pc)
    ∧ ((∀ k ∈ b.groups, ∀ l y, (s.tg x.cl).thread? k l = some y → (k = x.key ∧ l ∈ x.lanes) ∨ y.run = .exited
        ∨ y.run.barred = true) →
      Runs (.barBlock th) s [.clusters] fun t => OtherClusters x.cl s t
        ∧ (∀ l ∈ x.lanes, At t x l (x.pc + th.size))
        ∧ (∀ k ∈ b.groups, ∀ l n y, (k = x.key → l ∉ x.lanes) → (s.tg x.cl).thread? k l = some y → y.run = .atBar n →
            ∃ y', (t.tg x.cl).thread? k l = some y' ∧ y'.run = .running ∧ y'.pc = y.pc + n)
        ∧ ∃ b', Tbl.find (t.tg x.cl).blocks ((s.tg x.cl).blockOf x.key) = some b' ∧ b'.barWait = none))
  ∧ (∀ (s : State) (cl : Cl) (blk : Fin 16) (b : Block) (w k l pc : Nat) (j : Job), s.jobOn cl = some j →
    Tbl.find (s.tg cl).blocks blk.val = some b → b.barWait = some w → 2 ^ s.fld 0x2620 4 4 0 < w →
    (s.tg cl).barHolder b = some (k, l, pc) →
    Runs (.barrierTimeout cl blk) s [.seq] fun t =>
      Noted s t ⟨cl, k / 12 % 4, k % 12, l, 0x24, pc, 0, j.id⟩)
  ∧ (∀ (s : State) (th : Th) (ctr n : Src) (x : Ex) (c k : Nat),
    s.inHand th (srcRegs ctr ++ srcRegs n) (fun _ _ _ => none) x → s.together x →
    s.regPoison x (x.lanes.headD 0) (srcRegs ctr ++ srcRegs n) = false → s.tokenArgs x ctr n = some (c, k) →
    (Runs (.ctTake th ctr n) s [.clusters] fun t => Went s t x x.lanes 1
      ∧ (t.tg x.cl).takes = (s.tg x.cl).takes ++ [⟨x.sched, x.key, x.lanes, c, k, s.time.core⟩]
      ∧ (∀ m, t.tok x.cl m = s.tok x.cl m)
      ∧ ∀ l ∈ x.lanes, (t.thread x l).run = .atTake ∧ (t.thread x l).pc = x.pc + th.size)
    ∧ (Runs (.ctPost th ctr n) s [.clusters] fun t => Went s t x x.lanes 1
      ∧ (t.tg x.cl).posts = (s.tg x.cl).posts ++ [⟨x.sched, c, k, s.openWrites x⟩]
      ∧ (∀ m, t.tok x.cl m = s.tok x.cl m) ∧ ∀ l ∈ x.lanes, At t x l (x.pc + th.size)))
  ∧ (∀ (s : State) (x : Ex) (ctr n : Src), s.tokenArgs x ctr n =
      if (s.src x (x.lanes.headD 0) ctr).toNat < 16 ∧ 1 ≤ (s.src x (x.lanes.headD 0) n).toNat
          ∧ (s.src x (x.lanes.headD 0) n).toNat ≤ 15
      then some ((s.src x (x.lanes.headD 0) ctr).toNat, (s.src x (x.lanes.headD 0) n).toNat) else none)

/-- Conversions write what the rounding of their spec gives, and draws write 32 bits, or a normal variate, of the lane's
generator or of the state in a register pair, which they advance; RNG.KSEED makes such a state; a pair that is odd, or 0
where bits are drawn, faults with cause 0x22.
Choices of the model in it: log entries 40, 49. -/
def Obligations.ConversionsAndDrawsWrite : Prop :=
  (∀ (s : State) (th : Th) (c : CvtSpec) (d a : Nat) (x : Ex) (f g : Fmt) (n : Nat), cvtFmts c = some (f, g) →
    n = cvtDraws c f g →
    (s.inHand th [a, d] (poisonBad [a]) x → s.together x →
      Runs (.cvt th c d a) s [.regs, .clusters, .seq] fun t => Went s t x x.lanes 1 ∧ Entries [(0x2500, 0x0C)] s t
        ∧ (n = 0 → t.seq.lanes = s.seq.lanes)
        ∧ ∀ l ∈ x.lanes, ∀ p, p = rngDraw (polyMask (tgLane x.sched.val l)) n
            (s.lane x.job.ctx.val x.cl.val (tgLane x.sched.val l)) →
          At t x l (x.pc + th.size) ∧ Flagged s t (cvtOne c f g p.1 (s.packedRd x l a f 0)).2
          ∧ Wrote s t x l [(d, (packedOut g [(cvtOne c f g p.1 (s.packedRd x l a f 0)).1]).headD 0)]
          ∧ (n ≠ 0 → t.lane x.job.ctx.val x.cl.val (tgLane x.sched.val l) = p.2))
    ∧ (s.inHand th (packedRegs a f 2 ++ packedRegs d g 2) (poisonBad (packedRegs a f 2)) x → s.together x →
      Runs (.cvtX2 th c d a) s [.regs, .clusters, .seq] fun t => Went s t x x.lanes (if 16 < n then 2 else 1)
        ∧ Entries [(0x2500, 0x0C)] s t ∧ (n = 0 → t.seq.lanes = s.seq.lanes)
        ∧ ∀ l ∈ x.lanes, ∀ p q, p = rngDraw (polyMask (tgLane x.sched.val l)) n
            (s.lane x.job.ctx.val x.cl.val (tgLane x.sched.val l)) →
          q = rngDraw (polyMask (tgLane x.sched.val l)) n p.2 →
          At t x l (x.pc + th.size) ∧ Wrote s t x l ((packedRegs d g 2).zip (packedOut g
            [(cvtOne c f g p.1 (s.packedRd x l a f 0)).1, (cvtOne c f g q.1 (s.packedRd x l a f 1)).1]))
          ∧ (n ≠ 0 → t.lane x.job.ctx.val x.cl.val (tgLane x.sched.val l) = q.2))
    ∧ (∀ st, s.inHand th [a, d, st, st + 1] (fun s x l => orElse (poisonBad [a] s x l) (pairBad (.pair st) (n != 0) s x l)) x →
      s.together x →
      Runs (.cvtK th c d a st) s [.regs, .clusters, .seq] fun t => Went s t x x.lanes 1 ∧ t.seq.lanes = s.seq.lanes
        ∧ Entries [(0x2500, 0x0C)] s t
        ∧ ∀ l ∈ x.lanes, ∀ p, p = rngDraw (polyMask 255) n (s.rd2 x l st) → At t x l (x.pc + th.size)
          ∧ t.rd x l d = (packedOut g [(cvtOne c f g p.1 (s.packedRd x l a f 0)).1]).headD 0
          ∧ (d ≠ st → d ≠ st + 1 → t.rd2 x l st = if n = 0 then s.rd2 x l st else p.2)
          ∧ ∀ r, r ≠ d → r ≠ st → r ≠ st + 1 → t.rd x l r = s.rd x l r)
    ∧ (∀ st, s.inHand th (packedRegs a f 2 ++ packedRegs d g 2 ++ [st, st + 1]) (fun s x l =>
        orElse (poisonBad (packedRegs a f 2) s x l) (pairBad (.pair st) (n != 0) s x l)) x → s.together x →
      Runs (.cvtX2K th c d a st) s [.regs, .clusters, .seq] fun t => Went s t x x.lanes (if 16 < n then 2 else 1)
        ∧ t.seq.lanes = s.seq.lanes ∧ Entries [(0x2500, 0x0C)] s t
        ∧ ∀ l ∈ x.lanes, ∀ p q, p = rngDraw (polyMask 255) n (s.rd2 x l st) → q = rngDraw (polyMask 255) n p.2 →
          At t x l (x.pc + th.size)
          ∧ (∀ e ∈ (packedRegs d g 2).zip (packedOut g [(cvtOne c f g p.1 (s.packedRd x l a f 0)).1,
              (cvtOne c f g q.1 (s.packedRd x l a f 1)).1]), t.rd x l e.1 = e.2)
          ∧ (st ∉ packedRegs d g 2 → st + 1 ∉ packedRegs d g 2 →
              t.rd2 x l st = if n = 0 then s.rd2 x l st else q.2)
          ∧ ∀ r, r ∉ packedRegs d g 2 → r ≠ st → r ≠ st + 1 → t.rd x l r = s.rd x l r))
  ∧ (∀ (s : State) (th : Th) (d : Nat) (x : Ex), s.inHand th [d] (fun _ _ _ => none) x → s.together x →
    (Runs (.rngU32 th d) s [.clusters, .seq] fun t => Went s t x x.lanes 1 ∧ t.seq = { s.seq with lanes := t.seq.lanes }
      ∧ ∀ l ∈ x.lanes, ∀ p, p = rngDraw (polyMask (tgLane x.sched.val l)) 32
          (s.lane x.job.ctx.val x.cl.val (tgLane x.sched.val l)) →
        At t x l (x.pc + th.size) ∧ Wrote s t x l [(d, BitVec.ofNat 32 p.1)]
        ∧ t.lane x.job.ctx.val x.cl.val (tgLane x.sched.val l) = p.2)
    ∧ (Runs (.rngNorm th d) s [.clusters, .seq] fun t => Went s t x x.lanes 4 ∧ t.seq = { s.seq with lanes := t.seq.lanes }
      ∧ ∀ l ∈ x.lanes, ∀ p, p = rngDraw (polyMask (tgLane x.sched.val l)) 32
          (s.lane x.job.ctx.val x.cl.val (tgLane x.sched.val l)) →
        At t x l (x.pc + th.size) ∧ Wrote s t x l [(d, normVariate p.1)]
        ∧ t.lane x.job.ctx.val x.cl.val (tgLane x.sched.val l) = p.2))
  ∧ (∀ (s : State) (th : Th) (d st : Nat) (x : Ex),
    s.inHand th [d, st, st + 1] (fun s x l => pairBad (.pair st) true s x l) x → s.together x →
    (Runs (.rngU32K th d st) s [.clusters] fun t => Went s t x x.lanes 1 ∧ ∀ l ∈ x.lanes, At t x l (x.pc + th.size)
      ∧ t.rd x l d = BitVec.ofNat 32 (rngDraw (polyMask 255) 32 (s.rd2 x l st)).1
      ∧ (d ≠ st → d ≠ st + 1 → t.rd2 x l st = (rngDraw (polyMask 255) 32 (s.rd2 x l st)).2)
      ∧ ∀ r, r ≠ d → r ≠ st → r ≠ st + 1 → t.rd x l r = s.rd x l r)
    ∧ (Runs (.rngNormK th d st) s [.clusters] fun t => Went s t x x.lanes 4 ∧ ∀ l ∈ x.lanes, At t x l (x.pc + th.size)
      ∧ t.rd x l d = normVariate (rngDraw (polyMask 255) 32 (s.rd2 x l st)).1
      ∧ (d ≠ st → d ≠ st + 1 → t.rd2 x l st = (rngDraw (polyMask 255) 32 (s.rd2 x l st)).2)
      ∧ ∀ r, r ≠ d → r ≠ st → r ≠ st + 1 → t.rd x l r = s.rd x l r))
  ∧ (∀ (s : State) (th : Th) (d key coord : Nat) (x : Ex), d % 2 = 0 →
    s.inHand th [d, d + 1, key, key + 1, coord, coord + 1] (poisonBad [key, key + 1, coord, coord + 1]) x → s.together x →
    Runs (.rngKseed th d key coord) s [.clusters] fun t => Went s t x x.lanes 4 ∧ ∀ l ∈ x.lanes, At t x l (x.pc + th.size)
      ∧ t.rd2 x l d = kseed (s.rd2 x l key) (s.rd x l (coord + 1)) (s.rd x l coord) 0 0 2 0
      ∧ ∀ r, r ≠ d → r ≠ d + 1 → t.rd x l r = s.rd x l r)
  ∧ (∀ (s : State) (x : Ex) (l st : Nat), (st % 2 = 1 ∨ s.rd2 x l st = 0) →
    pairBad (.pair st) true s x l = some (0x22, 0))

/-! ### The sequencer -/

/-- EN of a ring rises: a halt is cleared and the consumer index is asked for; its return sets both indices, and its failure
halts the ring. A poll tick asks for the producer index of every enabled ring of an active context; the index is taken
unless it runs more than the ring's size ahead, which halts the ring with ERR, or was asked for before EN rose. EN falls:
nothing else changes.
Choices of the model in it: log entries 35, 54. -/
def Obligations.RingsFollowTheirIndices : Prop :=
  (∀ (s : State) (via : Via) (c : Ctx) (r : Ring) (value : Word32), s.carries via (0x2840 + c.val) (4 * r.val + 2) = true →
    inRange (0x2840 + c.val) (4 * r.val + 2) ((value ||| 1).setWidth 64) = true →
    (s.handed via (0x2840 + c.val) (4 * r.val + 2)).ringEn c r = false →
    Writes (.ringEnable via c r value) via (0x2840 + c.val) (4 * r.val + 2) s [.regs, .cleared, .seq, .reqs, .link, .out] fun u t =>
      t.ringEn c r = true ∧ t.ringHalt c r = false ∧ t.ringLog2n c r = fieldOf (value.setWidth 64) 5 1
      ∧ t.ring c r = { u.ring c r with ci := 0, pi := 0, ciBusy := true, piOld := (u.ring c r).piBusy }
      ∧ (∃ q ∈ t.reqs, q.purpose = .ci c r ∧ q.kind = .read ∧ q.addr = localAddr (u.ringAddr c r 4) ∧ q.len = 4)
      ∧ Entries [(0x2840 + c.val, 4 * r.val + 2)] u t)
  ∧ (∀ (s : State) (via : Via) (c : Ctx) (r : Ring) (value : Word32), s.carries via (0x2840 + c.val) (4 * r.val + 2) = true →
    inRange (0x2840 + c.val) (4 * r.val + 2) ((value &&& 0xFFFFFFFE).setWidth 64) = true →
    s.ringLog2n c r = fieldOf (value.setWidth 64) 5 1 →
    Writes (.ringDisable via c r value) via (0x2840 + c.val) (4 * r.val + 2) s [.regs, .cleared] fun u t =>
      t.ringEn c r = false ∧ Entries [(0x2840 + c.val, 4 * r.val + 2)] u t)
  ∧ (∀ (s : State) (c : Ctx) (r : Ring) (q : Req), s.returned (.ci c r) = some q →
    (∀ v, q.index = some v → Runs (.ciReadReturn c r) s [.seq, .reqs] fun t =>
      t.ring c r = { s.ring c r with ciBusy := false, ci := v, pi := v } ∧ t.reqs = s.reqs.filter fun p => p.id ≠ q.id)
    ∧ (q.index = none → s.ringHalt c r = false → Runs (.ciReadReturn c r) s [.regs, .seq, .reqs, .link, .out] fun t =>
      t.ringHalt c r = true ∧ (t.ring c r).ciBusy = false
      ∧ (s.deaf = false → s.vectorMasked 19 = false → t.out = .msix 19 :: s.out)))
  ∧ (∀ s : State, (s.jobsRun && s.passedNs s.seq.tickAt (s.fld 0x2810 1 19 0)) = true →
    Runs .pollTick s [.regs, .seq, .reqs, .link, .out] fun t => t.seq.tickAt = s.time.now ∧ t.seq.jobs = s.seq.jobs
      ∧ Entries [(0x3800, 1), (0x3800, 3)] s t
      ∧ ∀ (c : Ctx) (r : Ring),
        ((s.ctxState c = ctxActive ∧ s.ringEn c r = true ∧ s.ringHalt c r = false ∧ (s.ring c r).ciBusy = false
            ∧ (s.ring c r).piBusy = false) →
          t.ring c r = { s.ring c r with piBusy := true }
          ∧ ∃ q ∈ t.reqs, q.purpose = .pi c r ∧ q.addr = localAddr (s.ringAddr c r 3) ∧ q.len = 4)
        ∧ ((s.ctxState c ≠ ctxActive ∨ s.ringEn c r = false ∨ s.ringHalt c r = true) → t.ring c r = s.ring c r))
  ∧ (∀ (s : State) (c : Ctx) (r : Ring) (q : Req) (v : Word32), s.returned (.pi c r) = some q → q.index = some v →
    s.ringEn c r = true → s.ringHalt c r = false →
    ((s.ring c r).piOld = true → Runs (.piReadReturn c r) s [.seq, .reqs] fun t =>
      t.ring c r = { s.ring c r with piBusy := false, piOld := false })
    ∧ ((s.ring c r).piOld = false → (v - (s.ring c r).ci).toNat ≤ 2 ^ s.ringLog2n c r →
      Runs (.piReadReturn c r) s [.seq, .reqs] fun t => t.ring c r = { s.ring c r with piBusy := false, pi := v })
    ∧ ((s.ring c r).piOld = false → 2 ^ s.ringLog2n c r < (v - (s.ring c r).ci).toNat →
      Runs (.piReadReturn c r) s [.regs, .seq, .reqs, .link, .out] fun t => t.ringHalt c r = true
        ∧ (s.heldClear (0x2840 + c.val) (4 * r.val + 2) 9 = false → t.bit (0x2840 + c.val) (4 * r.val + 2) 9 = true)
        ∧ (t.ring c r).pi = (s.ring c r).pi))

/-- The next entry of a ring is asked for at its slot, and the consumer index moves past it in memory; a good entry becomes
a job, a bad one ends with its cause, a poisoned one with 0x06, one that could not be read with 0x09. A FENCE entry's holds are added as it is fetched.
Choices of the model in it: log entries 51, 52. -/
def Obligations.EntriesBecomeJobs : Prop :=
  (∀ (s : State) (c : Ctx) (r : Ring), s.mayFetch c r = true → s.addrKind (localAddr (s.ringAddr c r 4)) 4 = .hbm →
    Runs (.jobEntryFetch c r) s [.regs, .seq, .reqs, .link, .out] fun t =>
      t.ring c r = { s.ring c r with entBusy := true, ci := (s.ring c r).ci + 1 }
      ∧ Entries [(0x3800, 5)] s t ∧ t.reg 0x3800 5 = s.reg 0x3800 5 + 1
      ∧ (∃ q ∈ t.reqs, q.purpose = .entry c r ∧ q.kind = .read ∧ q.len = 64 ∧ q.addr = localAddr (s.ringAddr c r 1
          + 64 * ((s.ring c r).ci.toNat % 2 ^ s.ringLog2n c r)))
      ∧ ∃ q ∈ t.reqs, q.purpose = .ciWrite c r ∧ q.kind = .write ∧ q.addr = localAddr (s.ringAddr c r 4)
          ∧ q.data = leBytes 4 ((s.ring c r).ci + 1).toNat)
  ∧ (∀ (s : State) (c : Ctx) (r : Ring) (q : Req) (data : List Byte) (j : Job), s.returned (.entry c r) = some q →
    q.stage = .done data false → (s.ring c r).killed = false → (s.addJob c r (leWords data 8)).2 = j → s.fresh →
    (s.entryCause j = 0 → j.type ≠ 5 → Runs (.jobEntryReturn c r) s [.seq, .reqs] fun t =>
      t.seq.jobs = s.seq.jobs ++ [j] ∧ t.seq.nextJob = s.seq.nextJob + 1 ∧ j.words = leWords data 8 ∧ j.ctx = c
      ∧ j.ring = r ∧ j.entry = (s.ring c r).no ∧ j.started = none
      ∧ t.ring c r = { s.ring c r with entBusy := false, no := (s.ring c r).no + 1 }
      ∧ t.reqs = s.reqs.filter (fun p => p.id ≠ q.id) ∧ ∀ n, t.tagBal c n = s.tagBal c n)
    ∧ (s.entryCause j = 0 → j.type = 5 →
      (∀ n, tagFits (s.tagBal c n) = true ∧ tagFits (s.tagBal c n
        + (((j.holds.filter fun h => h.1 == n).map (·.2)).foldl (· + ·) 0 : Nat)) = true) →
      Runs (.jobEntryReturn c r) s [.seq, .reqs] fun t => t.seq.jobs = s.seq.jobs ++ [j]
        ∧ ∀ n, t.tagBal c n = s.tagBal c n + (((j.holds.filter fun h => h.1 == n).map (·.2)).foldl (· + ·) 0 : Nat))
    ∧ (s.entryCause j ≠ 0 → Runs (.jobEntryReturn c r) s endParts fun t =>
      Ended s t j .fault (s.recordOf j .fault (s.entryCause j) 0 0)))
  ∧ (∀ (s : State) (c : Ctx) (r : Ring) (q : Req) (data : List Byte) (j : Job), s.returned (.entry c r) = some q →
    q.stage = .done data true → (s.addJob c r (leWords data 8)).2 = j → s.fresh →
    Runs (.jobEntryReturn c r) s endParts fun t => Ended s t j .fault (s.recordOf j .fault 0x06 0 0))
  ∧ (∀ (s : State) (c : Ctx) (r : Ring) (q : Req), s.returned (.entry c r) = some q → q.stage = .refused → s.fresh →
    Runs (.jobEntryReturn c r) s (.free :: endParts) fun t => ∃ j, j.ctx = c ∧ j.ring = r
      ∧ Ended s t j .fault (s.recordOf j .fault 0x09 0 0))
  ∧ (∀ (s : State) (j : Job), j.bad = true → s.entryCause j = 0x08)

/-- A job starts only where it is eligible, and then at once: a COMPUTE job takes its clusters, a COPY job reads its source
through an idle engine, a PREFETCH job notes sectors and is done, a PIN job begins its request or is refused while another runs,
a FENCE job is done. An unstarted job whose deadline has passed is dropped, and a waiting one reserves clusters.
Choices of the model in it: log entry 53. -/
def Obligations.JobsStartWhenEligible : Prop :=
  (∀ (s : State) (id : Nat) (j : Job), s.job? id = some j → s.eligible j = true →
    (j.type = 1 → s.lacksCluster j = false → Runs (.computeJobStart id) s [.clusters, .seq, .power] fun t => t.job? id = some (s.asStarted j)
      ∧ (∀ c, c < 64 → j.hasCluster c = true → (t.cluster c).job = some id ∧ (t.cluster c).cup = (s.cluster c).cup
          ∧ (t.tg c).lmem = (s.tg c).lmem ∧ (∀ n, t.tok c n = 0) ∧ (t.tg c).l1 = [] ∧ (t.tg c).nextBlk = 0
          ∧ (j.mej = true → (t.engine c).next = j.listBase + 128 * j.lstep * c ∧ (t.engine c).ended = false)
          ∧ (j.mej = false → t.engine c = Engine.idle))
      ∧ (∀ c, (c < 64 → j.hasCluster c = false) → t.cluster c = s.cluster c)
      ∧ t.power = { s.power with starts := t.power.starts, kettle := t.power.kettle, cut := t.power.cut }
      ∧ t.power.starts = s.power.starts
        + (if j.pwr = 0 then 20 * ((List.range 64).filter j.hasCluster).length else j.pwr))
    ∧ (j.type = 1 → s.lacksCluster j = true →
        Runs (.computeJobStart id) s endParts fun t => Ended s t j .fault (s.recordOf j .fault 0x07 0 0))
    ∧ (j.type = 2 → (s.addrKind (j.arg 0) j.copyLen ≠ .unmapped ∧ s.addrKind (j.arg 1) j.copyLen ≠ .unmapped →
        (∀ q ∈ s.reqs, q.id < s.nextReq) → Runs (.copyJobStart id) s [.regs, .seq, .reqs, .fabric, .link, .can, .out] fun t =>
          (∃ e, s.idleEngine = some e ∧ t.job? id = some { s.asStarted j with engine := some e }
            ∧ ∃ new : List Req, t.reqs = s.reqs ++ new
              ∧ new.map (fun q => (q.master, q.kind, q.addr, q.len, q.purpose)) =
                (s.piecesFor (j.arg 0) j.copyLen).map (fun p => (.copy e, .read, p.2.1, p.2.2, .job j.id))
              ∧ ∀ q ∈ new, q.deadline = s.dlTag j)
          ∧ (s.addrKind (j.arg 0) j.copyLen = .hbm → 0 < j.copyLen → Frame [.seq, .reqs] s t))
      ∧ (s.addrKind (j.arg 0) j.copyLen = .unmapped ∨ s.addrKind (j.arg 1) j.copyLen = .unmapped →
        Runs (.copyJobStart id) s endParts fun t =>
          Ended s t j .fault (s.recordOf (s.asStarted j) .fault 0x09 0 0)))
    ∧ (j.type = 3 → s.signals j .done → Runs (.prefetchJobStart id) s endParts fun t =>
      Ended s t j .done (s.recordOf (s.asStarted j) .done 0 0 0)
      ∧ t.caddy = { s.caddy with notes := t.caddy.notes } ∧ (∀ y ∈ s.caddy.notes, y ∈ t.caddy.notes)
      ∧ (j.len ≠ 0 → ∀ sec ∈ s.prefetchSectors (j.base / 4096)
          (min ((j.base + j.len + 4095) / 4096) (hbmBytes / 4096) - j.base / 4096),
        (256 * s.homeOf (32 * sec) + s.sliceOf (32 * sec), sec, 2, s.dlTag j) ∈ t.caddy.notes))
    ∧ (j.type = 4 → (s.pinBusy = true → Runs (.pinJobStart id) s endParts fun t =>
          Ended s t j .refused (s.recordOf (s.asStarted j) .refused 0x0C 0 0))
      ∧ (s.pinBusy = false → j.pinCtl % 4 = 1 → s.pinRefusal j.base j.len = 0 →
        Runs (.pinJobStart id) s [.regs, .caddy, .seq] fun t => t.job? id = some (s.asStarted j) ∧ t.pinBusy = true
          ∧ t.caddy = { s.caddy with pref := s.caddy.pref.map (fun p => (p.1, p.2.1, p.2.2.1, false)), pin := some (PinWork.pin
              (j.base / 4096) (j.len / 4096) (j.pinCtl / 8 % 32) (j.pinCtl / 4 % 2 == 1) .first 0 (some id)) }
          ∧ Entries [(0x2311, 4)] s t)
      ∧ (s.pinBusy = false → j.pinCtl % 4 = 1 → s.pinRefusal j.base j.len ≠ 0 → s.caddy.killQ = [] → j.moved = false →
        Runs (.pinJobStart id) s [.regs, .caddy, .seq] fun t => t.fld 0x2311 4 3 0 = s.pinRefusal j.base j.len
          ∧ ∃ info, t.job? id = some { s.asStarted j with moved := true, info := info })
      ∧ (∀ i, s.pinBusy = false → j.pinCtl % 4 ≠ 1 → s.slotMatch j.base j.len = some i →
        Runs (.pinJobStart id) s [.regs, .caddy, .seq] fun t => t.job? id = some (s.asStarted j) ∧ t.pinSlot i = none
          ∧ t.caddy.pin = some (.unpin (j.base / 4096) (j.len / 4096) (some id))))
    ∧ (j.type = 5 → s.signals j .done → Runs (.fenceJobStart id) s endParts fun t =>
      Ended s t j .done (s.recordOf (s.asStarted j) .done 0 0 0)))
  ∧ (∀ (s : State) (id : Nat) (j : Job), s.job? id = some j → s.eligible j = false →
    exec (.computeJobStart id) s = .next s ∧ exec (.copyJobStart id) s = .next s ∧ exec (.prefetchJobStart id) s = .next s
    ∧ exec (.pinJobStart id) s = .next s ∧ exec (.fenceJobStart id) s = .next s)
  ∧ (∀ (s : State) (id : Nat) (j : Job), s.job? id = some j → j.started = none → j.dropLate = true → j.deadline ≠ 0 →
    j.deadline < s.ftNs → s.eligible j = false ∧ (s.signals j .dropped →
      Runs (.jobDropLate id) s endParts fun t => Ended s t j .dropped (s.recordOf j .dropped 0 0 0)))
  ∧ (∀ (s : State) (id : Nat) (j : Job), s.job? id = some j → s.mayReserve j = true → (∀ a ∈ s.seq.jobs, s.outranks a j = false) →
    id ∉ s.seq.reserved → Runs (.clusterReserve id) s [.seq] fun t =>
      t.seq = { s.seq with reserved := s.keptReserved ++ [id] })

/-- A COMPUTE job ends once every cluster of it is done: with its fault, with cause 0x05 where tokens are left, else
done; its clusters are free and keep the bytes of their cup buffers and local memories. A COPY job's data goes out once all of it has come, and
the job is done once every write has been accepted; a PIN job is done once its request has ended. A record waits for the
last of its job's writes.
Choices of the model in it: log entry 50. -/
def Obligations.JobsEndAndAreReported : Prop :=
  (∀ (s : State) (id : Nat) (j : Job), s.job? id = some j → j.type = 1 → j.started.isSome = true →
    s.clustersOf id ≠ [] → (∀ c ∈ s.clustersOf id, s.clusterDone j c = true) → (∀ f ∈ s.seq.faults, f.job ≠ id) →
    ((j.fault = none → (∀ c ∈ s.clustersOf id, (s.cluster c).tok = []) → s.signals j .done →
        Runs (.computeJobComplete id) s endParts fun t => Ended s t j .done (s.recordOf j .done 0 0 0)
          ∧ ∀ c ∈ s.clustersOf id, (t.cluster c).job = none ∧ (t.cluster c).cup = (s.cluster c).cup
              ∧ (t.tg c).lmem = (s.tg c).lmem)
      ∧ (∀ c, j.fault = none → (s.clustersOf id).find? (fun c => (s.cluster c).tok != []) = some c →
        Runs (.computeJobComplete id) s endParts fun t => Ended s t j .fault (s.recordOf j .fault 0x05 0 c))
      ∧ (∀ (cause : BitVec 8) (pos cl : Nat), j.fault = some (cause, pos, cl) →
        Runs (.computeJobComplete id) s endParts fun t =>
          Ended s t j .fault (s.recordOf j .fault cause.toNat pos cl))))
  ∧ (∀ (s : State) (id : Nat) (j : Job) (mine : List Req), s.job? id = some j → j.type = 2 → j.started.isSome = true →
    mine = s.reqs.filter (fun r => r.purpose == .job id) →
    (j.moved = true → mine = [] → s.signals j .done →
      Runs (.copyJobComplete id) s endParts fun t => Ended s t j .done (s.recordOf j .done 0 0 0))
    ∧ (j.moved = false → (∃ r ∈ mine, r.stage = .refused) →
      Runs (.copyJobComplete id) s endParts fun t => Ended s t j .fault (s.recordOf j .fault 0x09 0 0)
        ∧ ∀ r ∈ mine, ∀ q ∈ t.reqs, q.id ≠ r.id)
    ∧ (j.moved = false → (∀ r ∈ mine, r.finished = true ∧ r.stage ≠ .refused) →
      State.allHeard { s with reqs := s.reqs.filter fun r => decide (r ∉ mine) } → 0 < (bytesOf mine).length →
      s.addrKind (j.arg 1) (bytesOf mine).length = .hbm →
      Runs (.copyJobComplete id) s [.seq, .reqs] fun t =>
        t.job? id = some { j with moved := true, poison := j.poison || (bytesOf mine).any (·.2) }
        ∧ ∃ new : List Req, t.reqs = s.reqs.filter (fun q => decide (q.id ∉ mine.map (·.id))) ++ new
          ∧ new.map (fun q => (q.kind, q.addr, q.data, q.poisoned, q.purpose)) =
            (s.piecesFor (j.arg 1) (bytesOf mine).length).map fun p => (.write, p.2.1,
              (((bytesOf mine).drop p.1).take p.2.2).map (·.1),
              (((bytesOf mine).drop p.1).take p.2.2).any (·.2), .job j.id)))
  ∧ (∀ (s : State) (id : Nat) (j : Job), s.job? id = some j → j.type = 4 → j.started.isSome = true → j.moved = true →
    s.signals j .done →
    Runs (.pinJobComplete id) s endParts fun t => Ended s t j .done (s.recordOf j .done 0 0 0))
  ∧ (∀ (s : State) (j : Job) (e : JobEnd) (cause pos cl : Nat), (s.removeJob j).writesOut j.id = true →
    s.report j e cause pos cl =
      { s.removeJob j with seq := { (s.removeJob j).seq with owed := s.seq.owed ++ [⟨j, e, cause, pos, cl⟩] } })
  ∧ (∀ (s : State) (o : Owed), s.seq.owed = [o] →
    (s.writesOut o.job.id = true → s.payOwed = s)
    ∧ (s.writesOut o.job.id = false → s.cqEn o.job.ctx.val = false → s.payOwed.seq.owed = []
        ∧ (s.payOwed.ctx o.job.ctx.val).held =
            (s.ctx o.job.ctx.val).held ++ [s.recordOf o.job o.why o.cause o.pos o.cl]))

/-- The completion timer raises the context's vector and leaves nothing pending; EN of a completion ring rises: records start again at
slot 0; the host's consumed count is taken when its read returns. A record is sent to its slot of the ring,
with the phase of its round, and is pending once it has been accepted; it raises the vector where it is to, or where enough
are pending.
Choices of the model in it: log entries 55, 134. -/
def Obligations.CompletionRingsCountAndInterrupt : Prop :=
  (∀ (s : State) (c : Ctx) (since : Nat), (s.ctx c).oldest = some since → s.fld (0x2850 + c.val) 4 23 8 ≠ 0 →
    s.passedNs since (1000 * s.fld (0x2850 + c.val) 4 23 8) = true →
    Runs (.completionTimerExpire c) s [.seq, .link, .out] fun t =>
      t.ctx c = { s.ctx c with pending := 0, oldest := none }
      ∧ (s.deaf = false → s.vectorMasked c = false → t.out = .msix c :: s.out ∧ t.link = s.link)
      ∧ (s.deaf = false → s.vectorMasked c = true → t.out = s.out ∧ t.link.pba = s.link.pba ||| (1 <<< c.val)))
  ∧ (∀ (s : State) (via : Via) (c : Ctx) (value : Word32), s.carries via (0x2850 + c.val) 2 = true →
    inRange (0x2850 + c.val) 2 ((value ||| 1).setWidth 64) = true → (s.handed via (0x2850 + c.val) 2).cqEn c = false →
    Writes (.cqEnable via c value) via (0x2850 + c.val) 2 s [.regs, .cleared, .seq, .reqs, .link, .can, .out]
      fun u t => t.cqEn c = true
        ∧ ((u.ctx c).held = [] → t.ctx c = { u.ctx c with written := 0, head := 0 } ∧ t.cqSize c =
            2 ^ fieldOf (value.setWidth 64) 5 1 ∧ Frame [.regs, .cleared, .seq] u t ∧ Entries [(0x2850 + c.val, 2)] u t))
  ∧ (∀ (s : State) (c : Ctx) (q : Req) (v : Word32), s.returned (.head c) = some q → q.index = some v →
    (s.ctx c).held = [] → Runs (.headaddrReadReturn c) s [.seq, .reqs] fun t =>
      t.ctx c = { s.ctx c with headBusy := false, head := v } ∧ t.reqs = s.reqs.filter fun p => p.id ≠ q.id)
  ∧ (∀ (s : State) (c : Ctx) (r : Rec) (pa : Nat),
    pa = s.fld (0x2850 + c.val) 1 47 0 + 32 * ((s.ctx c).written % s.cqSize c) → s.addrKind (localAddr pa) 32 = .hbm →
    Frame [.regs, .reqs, .seq] s (s.writeRec c r)
    ∧ ((s.writeRec c r).ctx c) = { s.ctx c with written := (s.ctx c).written + 1 }
    ∧ ∃ q, (s.writeRec c r).reqs = s.reqs ++ [q] ∧ q.kind = .write ∧ q.addr = localAddr pa
        ∧ q.purpose = .record c r.irq
        ∧ q.data = wordBytes (r.words (decide ((s.ctx c).written / s.cqSize c % 2 = 0))))
  ∧ (∀ (s : State) (q : Req) (c : Ctx) (irq : Bool), q.purpose = .record c irq →
    Frame [.reqs, .seq, .link, .out] s (s.settleReq q)
    ∧ (s.settleReq q).reqs = s.reqs.filter (fun p => p.id ≠ q.id)
    ∧ (irq = false → s.fld (0x2850 + c.val) 4 7 0 = 0 → (s.settleReq q).ctx c =
        { s.ctx c with pending := (s.ctx c).pending + 1, oldest := (s.ctx c).oldest.or (some s.time.now) })
    ∧ (irq = true ∨ (s.fld (0x2850 + c.val) 4 7 0 ≠ 0 ∧ s.fld (0x2850 + c.val) 4 7 0 ≤ (s.ctx c).pending + 1) →
        ((s.settleReq q).ctx c).pending = 0 ∧ ((s.settleReq q).ctx c).oldest = none
        ∧ (s.deaf = false → s.vectorMasked c = false → (s.settleReq q).out = .msix c :: s.out)))

/-- SAVE, its writes and its end; RESTORE, its slots and its end; RESUME and KILL: each is taken in its states and leaves
the next one; RNGSEED seeds the context's generators again, and only while no job of the context runs.
Choices of the model in it: log entry 56. -/
def Obligations.ContextsSaveRestoreAndResume : Prop :=
  (∀ (s : State) (via : Via) (c : Ctx), s.carries via 0x2860 (c.val + 1) = true →
    (s.ctxState c = ctxActive → Writes (.ctxSave via c) via 0x2860 (c.val + 1) s [.regs, .clusters, .mcasts, .reqs, .seq]
      fun u t => t.ctxState c = ctxSaving ∧ (t.ctx c).saveAt = s.time.core ∧ (t.ctx c).stored = false
        ∧ (∀ cl, cl ∉ u.ctxClusters c → t.cluster cl = u.cluster cl)
        ∧ (∀ cl, (t.cluster cl).cup = (u.cluster cl).cup ∧ t.tg cl = u.tg cl)
        ∧ Entries [(0x2860, c.val + 1)] u t)
    ∧ (s.ctxState c = ctxSavedSt → (∀ p ∈ (s.ctx c).saved, s.present p.1 = true) →
      Writes (.ctxRestore via c) via 0x2860 (c.val + 1) s [.regs, .seq] fun u t => t.ctxState c = ctxRestoring
        ∧ (t.ctx c).toRestore = (u.ctx c).saved.map (·.1) ∧ Entries [(0x2860, c.val + 1)] u t)
    ∧ (s.ctxState c = ctxSavedSt → (∃ p ∈ (s.ctx c).saved, s.present p.1 = false) →
      Writes (.ctxRestore via c) via 0x2860 (c.val + 1) s killParts fun _ t => Killed c 0x0B t)
    ∧ (s.ctxState c = ctxHalted → Writes (.ctxResume via c) via 0x2860 (c.val + 1) s [.regs] fun u t =>
        t.ctxState c = ctxActive ∧ t.fld 0x2860 (c.val + 1) 15 8 = u.fld 0x2860 (c.val + 1) 15 8
        ∧ Entries [(0x2860, c.val + 1)] u t)
    ∧ (s.ctxState c = ctxActive ∨ s.ctxState c = ctxSavedSt →
      Writes (.ctxKill via c) via 0x2860 (c.val + 1) s killParts fun _ t => Killed c 0x2F t)
    ∧ (s.ctxState c = ctxSaving ∨ s.ctxState c = ctxRestoring →
      s.entryWrite via 0x2860 (c.val + 1) 3 = (s, .inUse)))
  ∧ (∀ (s : State) (c : Ctx) (cl : Nat) (j : Job), s.ctxState c = ctxSaving →
    s.passedClk (s.ctx c).saveAt (2 ^ s.fld 0x2500 0x0B 4 0) = true →
    (s.ctxClusters c).find? (fun cl => (s.engine cl).unposted) = some cl → s.jobOn cl = some j →
    Runs (.saveDrainTimeout c) s killParts fun t => Killed c 0x0E t)
  ∧ (∀ (s : State) (c : Ctx), s.ctxState c = ctxSaving → (s.ctx c).stored = false → s.saveWaits c = false →
    (∀ cl ∈ s.ctxClusters c, s.atRest cl = true ∧ s.addrKind (s.slotAddr c cl) slotBytes = .hbm) →
    (∀ f ∈ s.seq.faults, f.cl ∉ s.ctxClusters c) →
    Runs (.saveStateWrite c) s [.reqs, .seq, .free] fun t =>
      (t.ctx c).stored = true ∧ (t.ctx c).saved = (s.ctx c).saved
        ++ (s.ctxClusters c).map (fun cl => (cl, (s.cluster cl).toSave s.time.core))
      ∧ ∃ new : List Req, t.reqs = s.reqs ++ new ∧ (∀ q ∈ new, q.kind = .write ∧ q.purpose = .save c)
        ∧ ∀ cl ∈ s.ctxClusters c, ∀ i,
          (i < slotCup → ∃ q ∈ new, ∃ k, k < q.data.length
            ∧ q.addr.toNat + k = (s.slotAddr c cl).toNat + i ∧ q.data.getD k 0 = Mem.byte (s.cluster cl).cup i)
          ∧ (i < slotLocal → ∃ q ∈ new, ∃ k, k < q.data.length
            ∧ q.addr.toNat + k = (s.slotAddr c cl).toNat + slotCup + slotRegs + i
            ∧ q.data.getD k 0 = Mem.byte (s.tg cl).lmem i))
  ∧ (∀ (s : State) (c : Ctx), s.ctxState c = ctxSaving → (s.ctx c).stored = true →
    ((∃ r ∈ s.reqs, r.purpose = .save c ∧ r.accepted = false) → exec (.ctxSaved c) s = .next s)
    ∧ ((∀ r ∈ s.reqs, r.purpose = .save c → r.accepted = true) →
      Runs (.ctxSaved c) s [.regs, .clusters] fun t => t.ctxState c = ctxSavedSt
        ∧ (∀ cl ∈ s.ctxClusters c, (t.cluster cl).job = none ∧ (t.cluster cl).cup = (s.cluster cl).cup)
        ∧ (∀ cl, cl ∉ s.ctxClusters c → t.cluster cl = s.cluster cl) ∧ Entries [(0x2860, c.val + 1)] s t))
  ∧ (∀ (s : State) (c : Ctx) (cl : Cl) (y : Cluster) (mine : List Req), s.ctxState c = ctxRestoring →
    cl.val ∈ (s.ctx c).toRestore → (s.cluster cl).job = none → mine = s.reqs.filter (·.purpose.ofRestore c cl.val) →
    (s.present cl = true → (s.ctx c).saved.find? (fun p => p.1 == cl.val) = some (cl.val, y) →
      (mine = [] → s.addrKind (s.slotAddr c cl) slotBytes = .hbm →
        Runs (.restoreSlotWrite c cl) s [.reqs] fun t => ∃ new : List Req, t.reqs = s.reqs ++ new
          ∧ new.map (fun q => (q.kind, q.addr, q.len, q.purpose)) =
            (s.piecesFor (s.slotAddr c cl) slotBytes).map fun p => (.read, p.2.1, p.2.2, .restore c cl.val p.1))
      ∧ (mine ≠ [] → (∃ r ∈ mine, r.finished = false) → exec (.restoreSlotWrite c cl) s = .next s)
      ∧ (mine ≠ [] → (∀ r ∈ mine, r.finished = true) →
        Runs (.restoreSlotWrite c cl) s [.clusters, .reqs, .seq] fun t =>
          (t.cluster cl).job = y.job ∧ (t.tg cl).blocks = y.tg.blocks ∧ OtherClusters cl s t
          ∧ (t.cluster cl).cup = (memOf ((bytesOf mine).take slotCup)).1
          ∧ (t.tg cl).lmem = (memOf (((bytesOf mine).drop (slotCup + slotRegs)).take slotLocal)).1
          ∧ t.reqs = s.reqs.filter (fun r => !r.purpose.ofRestore c cl.val)
          ∧ (t.ctx c).toRestore = (s.ctx c).toRestore.filter (· ≠ cl.val)))
    ∧ (s.present cl = false → Runs (.restoreSlotWrite c cl) s killParts fun t => Killed c 0x0B t))
  ∧ (∀ (s : State) (c : Ctx), s.ctxState c = ctxRestoring → (s.ctx c).toRestore = [] →
    Runs (.ctxRestored c) s [.regs, .seq] fun t => t.ctxState c = ctxActive ∧ (t.ctx c).saved = []
      ∧ Entries [(0x2860, c.val + 1)] s t)
  ∧ (∀ (s : State) (via : Via) (c : Ctx) (value : Word64), s.carries via 0x2701 (c.val + 1) = true →
    (s.ctxRuns c = false → Writes (.rngseedWrite via c value) via 0x2701 (c.val + 1) s [.regs, .seq] fun u t =>
        t.reg 0x2701 (c.val + 1) = s.given via value ∧ (t.ctx c).seedAt = some s.time.now
        ∧ (∀ cl lane, cl < 64 → lane < 160 → t.lane c cl lane = laneSeed (s.given via value) cl lane)
        ∧ Entries [(0x2701, c.val + 1)] u t)
    ∧ (s.ctxRuns c = true → s.entryWrite via 0x2701 (c.val + 1) value = (s, .inUse)))

/-- The kill of a context ends every job of it with a fault record, empties its clusters, its fence tags and its pins, seeds
its generators again and leaves it HALTED with the cause in KILLCAUSE; the jobs of other contexts stay. Fence tags: 0 after
reset and after a kill; released while the balance is 0 or below, held above; a job's and a descriptor's signal takes 1 off,
and one that would leave the 16-bit range kills with cause 0x0A.
Choices of the model in it: log entry 32. -/
def Obligations.KillsEndTheContextAndTagsHold : Prop :=
  (∀ (s : State) (c : Ctx) (cause : Nat) (b : Blame), cause < 256 →
    Killed c cause (s.killContext c cause b) ∧ Frame killParts s (s.killContext c cause b)
    ∧ (∀ j ∈ s.seq.jobs, j.ctx ≠ c → (∀ k ∈ s.jobsOf c, k.id ≠ j.id) → (j.type = 4 → j.started = none ∨ j.moved = true) → j ∈ (s.killContext c cause b).seq.jobs)
    ∧ (∀ cl j, cl < 64 → s.jobOn cl = some j → j.ctx = c → ((s.killContext c cause b).cluster cl).job = none
        ∧ ((s.killContext c cause b).cluster cl).cup = (s.cluster cl).cup)
    ∧ (∀ i base len, i < 64 → s.pinSlot i = some (base, len, c.val) → (s.killContext c cause b).pinSlot i = none)
    ∧ (∀ i base len owner, i < 64 → s.pinSlot i = some (base, len, owner) → owner ≠ c.val →
        (s.killContext c cause b).pinSlot i = some (base, len, owner))
    ∧ (∀ cl lane, cl < 64 → lane < 160 →
        (s.killContext c cause b).lane c cl lane = laneSeed (s.reg 0x2701 (c.val + 1)) cl lane)
    ∧ (s.cqEn c = false → (s.seq.jobs.map (·.id)).Nodup → (∀ j ∈ s.jobsOf c, (s.killReqs c).writesOut j.id = false) →
        ((s.killContext c cause b).ctx c).held = (s.ctx c).held
        ++ (s.jobsOf c).map fun j =>
          (s.recordOf j .fault (blameOf b j.id).1 (blameOf b j.id).2.1 (blameOf b j.id).2.2)))
  ∧ ((∀ c t, State.reset.tagBal c t = 0)
  ∧ (∀ (s : State) (c t : Nat), 1 ≤ t → (s.tagFree c t = true ↔ s.tagBal c t ≤ 0))
  ∧ (∀ (s : State) (j : Job) (t : Nat), t ≠ 0 → tagFits (s.tagBal j.ctx.val t - 1) = true →
    Frame [.seq] s (s.signalTag j t) ∧ (s.signalTag j t).tagBal j.ctx.val t = s.tagBal j.ctx.val t - 1
    ∧ ∀ c n, tagKey c n ≠ tagKey j.ctx.val t → (s.signalTag j t).tagBal c n = s.tagBal c n)
  ∧ (∀ (s : State) (j : Job) (t : Nat), t ≠ 0 → tagFits (s.tagBal j.ctx.val t - 1) = false →
    Frame killParts s (s.signalTag j t) ∧ Killed j.ctx.val 0x0A (s.signalTag j t))
  ∧ (∀ (s : State) (j : Job) (e : JobEnd) (cause pos cl : Nat), (e = .done ∨ e = .dropped) → j.fsig ≠ 0 →
    tagFits (s.tagBal j.ctx.val j.fsig - 1) = false →
    Frame killParts s (s.endJob j e cause pos cl) ∧ Killed j.ctx.val 0x0A (s.endJob j e cause pos cl))
  ∧ (∀ v, tagFits v = true ↔ -32768 ≤ v ∧ v ≤ 32767))

/-! ### Fabric time -/

/-- FTNOW is read whole on its own path; SRC selects the reference and starts the lock and the choice of the master again; an edge of PPS_IN or a Sync
corrects FT, by slewing up to 1 ms and by a step beyond, and counts towards the lock; 2 s without a reference in LOCKED is HOLDOVER.
Choices of the model in it: log entries 59, 60. -/
def Obligations.FabricTimeLocksAndSteps : Prop :=
  (∀ s : State, s.mctpOn = true → s.domainOn 0x2880 = true →
    Runs (.ftnowRead .mctp) s [.latches, .out] fun t =>
      t.out = .mctp 0 (BitVec.ofNat 64 (s.ftNs / 1000000000 % 2 ^ 48)) :: s.out
      ∧ t.shown .pcie 0x2880 2 = ((BitVec.ofNat 32 (s.ftNs % 1000000000)).setWidth 64 : Word64)
      ∧ t.shown .pcie 0x2880 4 = BitVec.ofNat 64 s.ftNs ∧ t.latchC = s.latchC ∧ t.latchF = s.latchF)
  ∧ (∀ (s : State) (via : Via) (value : Word32), s.carries via 0x2881 1 = true → fieldOf (value.setWidth 64) 1 0 ≤ 2 →
    Writes (.ftcfgSrcWrite via value) via 0x2881 1 s [.regs, .time, .fabric, .link, .can, .out] fun u t =>
      t.ftSrc = fieldOf (value.setWidth 64) 1 0 ∧ Entries [(0x2881, 1), (0x2881, 2), (0x3001, 0x0B)] u t
      ∧ (u.ftSrc = t.ftSrc → t.ftState = u.ftState ∧ t.time = u.time ∧ t.fabric = u.fabric)
      ∧ (u.ftSrc ≠ t.ftSrc → t.ftState = (if t.ftSrc = 2 then ftFree else ftAcquiring)
          ∧ t.time = { u.time with good := 0, bad := 0 } ∧ ∀ k, (t.port k).queue = (u.port k).queue
            ∧ (k < 16 → t.ftSrc ≠ 0 → (t.port k).role ≠ .slave)))
  ∧ (∀ (s : State) (via : Via) (value : Word64), s.carries via 0x2881 3 = true →
    Writes (.fttodWrite via value) via 0x2881 3 s [.time] fun u t =>
      t.time = { u.time with tod := some (fieldOf (s.given via value) 47 0, u.time.now) })
  ∧ (∀ (s : State) (off : Int), s.spoutOn = true → s.ftSrc = 1 →
    off = (s.time.ft : Int) - (s.edgeSecond * secUnits : Nat) →
    Runs .ppsEdge s [.regs, .time, .link, .can, .out] fun t =>
      t.time.lastRef = s.time.now ∧ t.time.now = s.time.now
      ∧ (off.natAbs ≤ 1000000 * nsUnits → t.time.ft = s.time.ft ∧ t.time.slew = -off)
      ∧ (1000000 * nsUnits < off.natAbs → t.time.ft = s.edgeSecond * secUnits ∧ t.time.slew = 0
          ∧ (s.heldClear 0x2881 2 2 = false → t.bit 0x2881 2 2 = true))
      ∧ (s.ftState = ftLocked → off.natAbs ≤ 20 * nsUnits → t.ftState = ftLocked)
      ∧ (s.ftState = ftLocked → 20 * nsUnits < off.natAbs → 2 ≤ s.time.bad → t.ftState = ftAcquiring
          ∧ (s.heldClear 0x2881 2 3 = false → t.bit 0x2881 2 3 = true))
      ∧ (s.ftState = ftAcquiring ∨ s.ftState = ftHoldover → off.natAbs ≤ 20 * nsUnits → 2 ≤ s.time.good →
          t.ftState = ftLocked)
      ∧ (s.ftState = ftAcquiring ∨ s.ftState = ftHoldover → 20 * nsUnits < off.natAbs → t.ftState = s.ftState))
  ∧ (∀ s : State, s.ftSrc ≠ 1 → exec .ppsEdge s = .next s)
  ∧ (∀ s : State, s.ftState = ftLocked → s.passedNs s.time.lastRef 2000000000 = true →
    Runs .ftSourceLossTimeout s [.regs, .time, .link, .can, .out] fun t => t.ftState = ftHoldover
      ∧ (s.heldClear 0x2881 2 3 = false → t.bit 0x2881 2 3 = true) ∧ t.time = { s.time with good := 0, bad := 0 })
  ∧ (∀ s : State, s.bit 0x2882 1 0 = true → s.spoutOn = true →
    s.ftReached (s.time.ft / secUnits * secUnits) = true →
    Runs .ppsOutPulse s [.out] fun t => t.out = .syncOut s.time.ft :: s.out)

/-- PTP messages go out at their intervals from direct ports, Sync and Announce only from a MASTER; only a Sync on the SLAVE port
moves FT, and a message of another domain is only counted; an Announce of the domain that is better is kept, and every port then has the role that selection gives
it, as after three intervals without one.
Choices of the model in it: log entries 61, 62, 119. -/
def Obligations.PtpFollowsTheBestMaster : Prop :=
  (∀ (s : State) (i : Port), i.val ∈ s.ptpPorts →
    ((s.port i).role = .master → s.passedNs (s.port i).syncAt 7812500 = true →
      Runs (.ptpMessageSend i .sync) s [.fabric] fun t => t.port i = { s.port i with
        syncAt := s.time.now
        queue := (s.port i).queue ++ [⟨.ptp (s.portMac i) .sync (s.ptpWords .sync), none, 64, none, false⟩,
          ⟨.ptp (s.portMac i) .syncFollowUp (s.ptpWords .syncFollowUp), none, 64, none, false⟩] })
    ∧ (s.passedNs (s.port i).pdelAt 125000000 = true →
      Runs (.ptpMessageSend i .pdelayReq) s [.fabric] fun t => t.port i = { s.port i with
        pdelAt := s.time.now
        queue := (s.port i).queue
          ++ [⟨.ptp (s.portMac i) .pdelayReq (s.ptpWords .pdelayReq), none, 72, none, false⟩] })
    ∧ ((s.port i).role = .master → s.passedNs (s.port i).annSent 1000000000 = true →
      Runs (.ptpMessageSend i .announce) s [.fabric] fun t => t.port i = { s.port i with
        annSent := s.time.now
        queue := (s.port i).queue
          ++ [⟨.ptp (s.portMac i) .announce (s.ptpWords .announce), none, 82, none, false⟩] })
    ∧ ((s.port i).role ≠ .master → exec (.ptpMessageSend i .sync) s = .next s
        ∧ exec (.ptpMessageSend i .announce) s = .next s))
  ∧ (∀ (s : State) (i : Port) (dom : BitVec 8) (t1 t2 t3 t4 : Nat), i.val ∈ s.ptpPorts → s.hears i = true →
    dom.toNat = s.fld 0x2940 1 7 0 →
    (Runs (.ptpPdelayReceive i .pdelayFollowUp t1 t2 t3 t4 dom) s [.regs, .fabric] fun t => t.port i = { s.port i with
        delay := (((t4 : Int) - t1) - ((t3 : Int) - t2)) / 2 } ∧ ∀ k, k ≠ i.val → t.port k = s.port k)
    ∧ (Runs (.ptpPdelayReceive i .pdelayReq t1 t2 t3 t4 dom) s [.regs, .fabric] fun t =>
        t.reg (0x3900 + i.val) 1 = s.reg (0x3900 + i.val) 1 + 1 ∧
        (t.port i).queue.length = (s.port i).queue.length + 2 ∧ ∀ k, k ≠ i.val → t.port k = s.port k))
  ∧ (∀ (s : State) (i : Port) (dom : BitVec 8) (kind : PtpKind) (t1 t2 t3 t4 origin arrival : Nat) (corr : Int),
    s.hears i = true → dom.toNat ≠ s.fld 0x2940 1 7 0 →
    (Runs (.ptpPdelayReceive i kind t1 t2 t3 t4 dom) s [.regs] fun t =>
      Entries [(0x3900 + i.val, 1), (0x3900 + i.val, 5), (0x3900 + i.val, 0x17)] s t)
    ∧ Runs (.ptpSyncReceive i origin arrival corr dom) s [.regs] fun t =>
      Entries [(0x3900 + i.val, 1), (0x3900 + i.val, 5), (0x3900 + i.val, 0x17)] s t)
  ∧ (∀ (s : State) (i : Port) (dom : BitVec 8) (origin arrival : Nat) (corr off : Int), i.val ∈ s.ptpPorts →
    s.hears i = true → dom.toNat = s.fld 0x2940 1 7 0 → s.ftSrc = 0 →
    off = fracUnits ((arrival : Int) - origin - corr - (s.port i).delay) →
    ((s.port i).role = .slave → Runs (.ptpSyncReceive i origin arrival corr dom) s [.regs, .time, .link, .can, .out] fun t =>
      (off.natAbs ≤ 1000000 * nsUnits → t.time.ft = s.time.ft ∧ t.time.slew = -off)
      ∧ (1000000 * nsUnits < off.natAbs → t.time.ft = ((s.time.ft : Int) - off).toNat ∧ (s.heldClear 0x2881 2 2 = false → t.bit 0x2881 2 2 = true))
      ∧ (s.ftState = ftAcquiring → off.natAbs ≤ 4 * nsUnits → 63 ≤ s.time.good → t.ftState = ftLocked)
      ∧ (s.ftState = ftLocked → 20 * nsUnits < off.natAbs → 7 ≤ s.time.bad → t.ftState = ftAcquiring))
    ∧ ((s.port i).role ≠ .slave → Runs (.ptpSyncReceive i origin arrival corr dom) s [.regs] fun t =>
      t.reg (0x3900 + i.val) 1 = s.reg (0x3900 + i.val) 1 + 2
      ∧ Entries [(0x3900 + i.val, 1), (0x3900 + i.val, 5)] s t))
  ∧ (∀ (s : State) (i : Port) (a : Announce), i.val ∈ s.ptpPorts → s.hears i = true → a.domain.toNat = s.fld 0x2940 1 7 0 →
    a.sender ≠ Config.clockIdentity →
    ((∀ b, (s.port i).best = some b → (b.sender == a.sender || betterMaster a b) = true) →
      Runs (.ptpAnnounceReceive i a) s [.regs, .fabric] fun t => (t.port i).best = some a ∧ (t.port i).annAt = s.time.now
        ∧ (∀ k, k ≠ i.val → (t.port k).best = (s.port k).best)
        ∧ ∀ k, k < 16 → (t.port k).role = if k ∈ t.ptpPorts then t.roleOf k else .listening)
    ∧ (∀ b, (s.port i).best = some b → (b.sender == a.sender || betterMaster a b) = false →
      Runs (.ptpAnnounceReceive i a) s [.regs] fun t => Entries [(0x3900 + i.val, 1), (0x3900 + i.val, 5)] s t))
  ∧ (∀ (s : State) (i : Port), i.val ∈ s.ptpPorts → ((s.port i).best.isSome = true ∨ (s.port i).role = .listening) →
    s.passedNs (s.port i).annAt 3000000000 = true →
    Runs (.announceReceiptTimeout i) s [.fabric] fun t => (t.port i).best = none ∧ ∀ k, k < 16 →
      (k ∈ t.ptpPorts → ((∃ j ∈ t.ptpPorts, (t.port j).best.isSome = true) ∨ k = i.val ∨ (s.port k).role ≠ .listening) →
        (t.port k).role = t.roleOf k)
      ∧ (k ∉ t.ptpPorts → (t.port k).role = .listening))

/-! ### Fabric links -/

/-- A port that aligns trains; a hello that meets the three conditions brings a direct port UP and one that does not into
MISMATCH, and both show the neighbour; a port leaves UP after 2 µs without alignment, eight uncorrectable codewords in a microsecond or
3.5 ms without a hello, and then drops its queue and is due to settle, 10 ms, before it rises again.
Choices of the model in it: log entries 65, 119. -/
def Obligations.PortsRiseAndFall : Prop :=
  (∀ (s : State) (i : Port), s.switchOn = true → s.portExists i = true → s.portEn i = true →
    (s.portState i = portDown → (s.portExt i = false ∨ (s.port i).settle = true) →
      Runs (.pcsAligned i) s [.regs, .fabric] fun t => t.portState i = portTraining
        ∧ t.port i = { s.port i with aligned := true, alignAt := s.time.now } ∧ Entries [(0x2902, i.val + 1)] s t)
    ∧ (s.portExt i = true → (s.port i).settle = false →
      Runs (.pcsAligned i) s [.regs, .fabric, .link, .can, .out] fun t => t.portUp i = true
        ∧ (t.port i).aligned = true ∧ (s.portUp i = false → (s.heldClear 0x2950 1 1 = false → t.bit 0x2950 1 1 = true))))
  ∧ (∀ (s : State) (i : Port), s.hears i = true → s.portExt i = false →
    (decide (1 ≤ s.portState i ∧ s.portState i ≤ 3) && s.passedNs (s.port i).hiAt 1000000) = true →
    Runs (.helloSend i) s [.fabric] fun t => t.port i = { s.port i with
      hiAt := s.time.now, queue := (s.port i).queue ++ [⟨.link (s.port i).nmac (s.portMac i) (s.helloWords i), none, 64, none, false⟩] })
  ∧ (∀ (s : State) (i : Port) (smac : BitVec 48) (w0 w1 w2 w3 : Word32), s.hears i = true → s.portExt i = false →
    linkVer w0 = 1 → linkType w0 = 1 →
    (s.conforms i (linkNode w0) w1 = true → (s.port i).settle = false →
      Runs (.helloReceive i smac w0 w1 w2 w3) s [.regs, .fabric, .link, .can, .out] fun t => t.portUp i = true
        ∧ (t.port i).nmac = smac ∧ (t.port i).helloAt = s.time.now
        ∧ t.fld 0x2902 (i.val + 1) 7 4 = linkSport w0 ∧ t.fld 0x2902 (i.val + 1) 23 8 = linkNode w0
        ∧ t.reg (0x3900 + i.val) 1 = s.reg (0x3900 + i.val) 1 + 1)
    ∧ (s.conforms i (linkNode w0) w1 = true → (s.port i).settle = true →
      (s.passedNs (s.port i).alignAt 10000000 && (s.port i).empty) = true →
      Runs (.helloReceive i smac w0 w1 w2 w3) s [.regs, .fabric, .link, .can, .out] fun t => t.portUp i = true
        ∧ (t.port i).settle = false)
    ∧ (s.conforms i (linkNode w0) w1 = true → (s.port i).settle = true →
      (s.passedNs (s.port i).alignAt 10000000 && (s.port i).empty) = false →
      Runs (.helloReceive i smac w0 w1 w2 w3) s [.regs, .fabric, .link, .can, .out] fun t =>
        t.portState i = (if s.portState i = portMismatch then portTraining else s.portState i)
        ∧ (t.port i).helloAt = s.time.now ∧ (t.port i).settle = true)
    ∧ (s.conforms i (linkNode w0) w1 = false →
      Runs (.helloReceive i smac w0 w1 w2 w3) s [.regs, .fabric, .link, .can, .snap, .out] fun t =>
        t.portState i = portMismatch ∧ t.fld 0x2902 (i.val + 1) 23 8 = linkNode w0))
  ∧ (∀ (s : State) (i : Port), s.portUp i = true →
    ((s.port i).aligned = true → (s.port i).alignAt ≠ s.time.now →
      Runs (.pcsAlignmentLoss i) s [.regs, .fabric, .link, .can, .snap, .out] fun t => t.portState i = portDown
        ∧ (t.port i).queue = [] ∧ (t.port i).aligned = false ∧ (t.port i).settle = true ∧ (s.heldClear 0x2950 1 0 = false → t.bit 0x2950 1 0 = true))
    ∧ (∀ n fixed, s.hears i = true → 8 ≤ n →
      Runs (.fecUncorrectableBurst i n fixed) s [.regs, .fabric, .link, .can, .snap, .out] fun t => t.portState i = portDown
        ∧ (t.port i).queue = [] ∧ t.reg (0x3900 + i.val) 0x0F = s.reg (0x3900 + i.val) 0x0F + BitVec.ofNat 64 n)
    ∧ (∀ n fixed, s.hears i = true → n < 8 →
      Runs (.fecUncorrectableBurst i n fixed) s [.regs] fun t =>
        Entries [(0x3900 + i.val, 0x0D), (0x3900 + i.val, 0x0F)] s t
        ∧ t.reg (0x3900 + i.val) 0x0D = s.reg (0x3900 + i.val) 0x0D + BitVec.ofNat 64 fixed
        ∧ t.reg (0x3900 + i.val) 0x0F = s.reg (0x3900 + i.val) 0x0F + BitVec.ofNat 64 n)
    ∧ (s.portExt i = false → s.passedNs (s.port i).helloAt 3500000 = true →
      Runs (.helloTimeout i) s [.regs, .fabric, .link, .can, .snap, .out] fun t => t.portState i = portDown
        ∧ (t.port i).queue = [] ∧ (t.port i).settle = true ∧ (s.heldClear 0x2950 1 0 = false → t.bit 0x2950 1 0 = true)))
  ∧ (∀ (s : State) (i : Port), (s.hears i && (s.port i).settle && s.passedNs (s.port i).alignAt 10000000
      && (s.port i).empty) = true →
    (s.portExt i = false → Runs (.portAlignmentSettled i) s [.fabric] fun t =>
        t.port i = { s.port i with settle := false } ∧ ∀ k, k ≠ i.val → t.port k = s.port k)
    ∧ (s.portExt i = true → Runs (.portAlignmentSettled i) s [.regs, .fabric, .link, .can, .out] fun t =>
        t.portUp i = true ∧ (t.port i).settle = false))

/-- A topology record goes to every UP direct port with a later number; one received that is later than the record kept of its
origin is kept, handed to the agent and sent on, and any other is only counted. A directed frame makes its access at the
end of its path and replies with a status, goes on along its path over UP ports, and turns back with status 0x04 before a port that
is not UP; a reply goes back point by point to the agent that began it.
Choices of the model in it: log entries 64, 98. -/
def Obligations.TopologyAndDirectedFramesTravel : Prop :=
  (∀ s : State, s.switchOn = true → (s.fabric.topoDue || s.passedNs s.fabric.topoAt 10000000000) = true →
    Runs .topologyRecordOriginate s [.fabric] fun t => ∃ seq, (∀ old, s.fabric.lastSeq = some old → later32 seq old = true)
      ∧ (s.fabric.lastSeq = none → seq = BitVec.ofNat 32 (s.ftNs / 1024)) ∧ t.fabric.lastSeq = some seq ∧ t.fabric.topoDue = false ∧ t.fabric.topoAt = s.time.now
      ∧ ∀ i, i < 16 → t.port i = if s.portUp i && !s.portExt i then { s.port i with queue := (s.port i).queue
          ++ [⟨.link (s.port i).nmac (s.portMac i) ([s.linkW0 2 i, s.fabId, seq] ++ (List.range 16).map s.linkWord),
            none, 94, none, false⟩] }
        else s.port i)
  ∧ (∀ (s : State) (i : Port) (w0 w1 w2 : Word32) (links : List Word32), s.hears i = true → s.portExt i = false →
    linkVer w0 = 1 → linkType w0 = 2 →
    (s.topoTake (linkNode w0) w2 = true →
      Runs (.topologyRecordReceive i w0 w1 w2 links) s [.regs, .fabric, .out] fun t =>
        Tbl.find t.fabric.kept (linkNode w0 % 8192) = some (w2, s.time.now)
        ∧ t.out = .agent ([w0, w1, w2] ++ links) :: s.out
        ∧ ∀ k, k < 16 → k ≠ i.val → s.portUp k = true → s.portExt k = false → linkNode w0 ≠ 0xFFFF →
          (t.port k).queue = (s.port k).queue
            ++ [⟨.link (s.port k).nmac (s.portMac k) ([w0, w1, w2] ++ links), none,
              plainBytes (4 * (3 + links.length)), none, false⟩])
    ∧ (s.topoTake (linkNode w0) w2 = false →
      Runs (.topologyRecordReceive i w0 w1 w2 links) s [.regs] fun t =>
        t.reg (0x3900 + i.val) 1 = s.reg (0x3900 + i.val) 1 + 1
        ∧ Entries [(0x3900 + i.val, 1), (0x3900 + i.val, 5)] s t))
  ∧ (∀ (s : State) (i : Port) (w : List Word32), s.hears i = true → s.portExt i = false →
    linkVer (frameWord w 0) = 1 → linkType (frameWord w 0) = 3 → dfReply w = false →
    (dfNext w = dfHops w → ∃ u st v, (s.heard i (plainBytes (4 * w.length))).directedAccess w = (u, st, v)
      ∧ exec (.directedFrameReceive (some i) w) s = .next (u.sendDirected i (asReply (withValue w v) st))
      ∧ dfReply (asReply (withValue w v) st) = true ∧ wordField (asReply (withValue w v) st) 2 15 8 = st % 256)
    ∧ (dfNext w < dfHops w → dfHops w ≤ 32 → s.portUp (dfPath w (dfNext w)) = true →
      Runs (.directedFrameReceive (some i) w) s [.regs, .fabric] fun t => ∃ w',
        (t.port (dfPath w (dfNext w))).queue = (s.port (dfPath w (dfNext w))).queue
          ++ [s.linkFrame (dfPath w (dfNext w)) (s.headed (dfPath w (dfNext w)) w')]
        ∧ dfNext w' = dfNext w + 1 ∧ dfPath w' (dfNext w) = i.val ∧ dfReply w' = false ∧ dfHops w' = dfHops w)
    ∧ (dfNext w < dfHops w → dfHops w ≤ 32 → s.portUp (dfPath w (dfNext w)) = false →
      Runs (.directedFrameReceive (some i) w) s [.regs, .fabric] fun t => ∃ w',
        (t.port i).queue = (s.port i).queue ++ [s.linkFrame i (s.headed i w')]
        ∧ dfReply w' = true ∧ wordField w' 2 15 8 = 4))
  ∧ (∀ (s : State) (w : List Word32), s.switchOn = true → dfReply w = false → dfNext w = dfHops w →
    ∃ u st v, s.directedAccess w = (u, st, v)
      ∧ exec (.directedFrameReceive none w) s = .next (u.emit (.agent (asReply (withValue w v) st))))
  ∧ (∀ (s : State) (w : List Word32) (idx sub : Nat) (v : Word64), idx = wordField w 7 23 8 → sub = wordField w 7 7 0 →
    v = ((frameWord w 8).setWidth 64 <<< 32) ||| (frameWord w 9).setWidth 64 →
    (wordField w 7 31 30 = 1 → s.directedAccess w =
      ((s.entryRead .fab idx sub).1, (s.entryRead .fab idx sub).2.1.f, (s.entryRead .fab idx sub).2.2))
    ∧ (wordField w 7 31 30 = 2 → s.directedAccess w =
      ((s.entryWrite .directed idx sub v).1, (s.entryWrite .directed idx sub v).2.f, v))
    ∧ (wordField w 7 31 30 = 0 ∨ wordField w 7 31 30 = 3 → s.directedAccess w = (s, 1, v)))
  ∧ (∀ (s : State) (i : Port) (w : List Word32), s.hears i = true → s.portExt i = false →
    linkVer (frameWord w 0) = 1 → linkType (frameWord w 0) = 3 → dfReply w = true →
    (dfNext w = 1 → Runs (.directedReplyReceive i w) s [.regs, .out] fun t => ∃ w', t.out = .agent w' :: s.out
        ∧ dfNext w' = 0)
    ∧ (2 ≤ dfNext w → s.portExists (dfPath (setNext w (dfNext w - 1)) (dfNext w - 1)) = true →
      Runs (.directedReplyReceive i w) s [.regs, .fabric] fun t =>
        (t.port (dfPath (setNext w (dfNext w - 1)) (dfNext w - 1))).queue =
          (s.port (dfPath (setNext w (dfNext w - 1)) (dfNext w - 1))).queue
          ++ [s.linkFrame (dfPath (setNext w (dfNext w - 1)) (dfNext w - 1))
            (s.headed (dfPath (setNext w (dfNext w - 1)) (dfNext w - 1)) (setNext w (dfNext w - 1)))])
    ∧ s.headed i w = [s.linkW0 3 i, s.fabId] ++ (List.range 8).map fun j => frameWord w (j + 2))

/-- The switch delivers a good packet for this node, queues one for another at the egress its routing entry names with the hop limit
one lower, counts and drops one without a route, and discards a frame that is not the port's, that is malformed or whose FCS is
wrong; what goes no further frees its credits. A packet of the local port takes the same ways.
Choices of the model in it: log entry 66. -/
def Obligations.SwitchDeliversForwardsAndDrops : Prop :=
  (∀ (s : State) (i : Port) (f : MFrame), s.hears i = true → f.bytes ≤ 9216 → s.portTakes i f = true → s.portUp i = true →
    s.node ≠ 0xFFFF → f.op ≠ opCredit →
    (frameBad f = false → s.ingressRoom i f = true → (s.nodeAddress f = true → f.dnode.toNat = s.node →
      Runs (.morotikFrameReceive (some i) f .good) s [.regs, .fabric] fun t =>
        t.fabric.inbox = s.fabric.inbox ++ [(f, false)]
        ∧ t.reg (0x3900 + i.val) 1 = s.reg (0x3900 + i.val) 1 + 1
        ∧ t.reg (0x3900 + i.val) 5 = s.reg (0x3900 + i.val) 5 + BitVec.ofNat 64 f.bytes
        ∧ Entries [(0x3900 + i.val, 1), (0x3900 + i.val, 5)] s t
        ∧ ∀ k, (t.port k).queue = (s.port k).queue)
      ∧ (∀ o, s.nodeAddress f = true → s.route f.dnode.toNat f.udpSrc (some i) = .out o → 2 ≤ f.hop →
        s.portUp o = true → (s.portExt o = true → s.gwMac o ≠ 0) →
        Runs (.morotikFrameReceive (some i) f .good) s [.regs, .fabric] fun t => ∃ g q,
          (t.port o).queue = (s.port o).queue ++ [q] ∧ q.frame = .morotik g ∧ q.src = some (i, vlIdx f.vl)
          ∧ q.stomp = false ∧ g.hop = f.hop - 1 ∧ g.smac = s.portMac o ∧ g.dnode = f.dnode ∧ g.payload = f.payload
          ∧ g.w1 = f.w1 ∧ g.w2 = f.w2 ∧ g.dmac = (if s.portExt o then s.gwMac o else (s.port o).nmac)
          ∧ t.fabric.inbox = s.fabric.inbox)
      ∧ (∀ o, s.nodeAddress f = true → s.route f.dnode.toNat f.udpSrc (some i) = .out o → f.hop ≤ 1 →
        Runs (.morotikFrameReceive (some i) f .good) s [.regs, .fabric] fun t =>
          t.reg (0x3900 + i.val) 0x13 = s.reg (0x3900 + i.val) 0x13 + 1 ∧ t.fabric.inbox = s.fabric.inbox
          ∧ ∀ k, (t.port k).queue = (s.port k).queue)
      ∧ (s.route f.dnode.toNat f.udpSrc (some i) = .drop →
        Runs (.morotikFrameReceive (some i) f .good) s [.regs, .fabric, .link, .can, .out] fun t =>
          t.reg (0x3900 + i.val) 0x11 = s.reg (0x3900 + i.val) 0x11 + 1
          ∧ (s.heldClear 0x2950 1 3 = false → t.bit 0x2950 1 3 = true)
          ∧ t.fabric.inbox = s.fabric.inbox ∧ ∀ k, (t.port k).queue = (s.port k).queue))
    ∧ (frameBad f = true → Runs (.morotikFrameReceive (some i) f .good) s [.regs, .fabric] fun t =>
        t.reg (0x3900 + i.val) 0x17 = s.reg (0x3900 + i.val) 0x17 + 1 ∧ t.fabric.inbox = s.fabric.inbox
        ∧ (∀ k, (t.port k).queue = (s.port k).queue)
        ∧ (s.portExt i = false → (t.port i).freed = bumpAt (s.port i).freed f.vl (creditsOf f.bytes)))
    ∧ (s.cutsThrough i f = none → Runs (.morotikFrameReceive (some i) f .bad) s [.regs, .fabric] fun t =>
        t.reg (0x3900 + i.val) 9 = s.reg (0x3900 + i.val) 9 + 1
        ∧ Entries [(0x3900 + i.val, 1), (0x3900 + i.val, 5), (0x3900 + i.val, 9)] s t
        ∧ t.fabric.inbox = s.fabric.inbox ∧ (∀ k, (t.port k).queue = (s.port k).queue)
        ∧ (s.portExt i = false → (t.port i).freed = bumpAt (s.port i).freed f.vl (creditsOf f.bytes))))
  ∧ (∀ (s : State) (i : Port) (f : MFrame), s.hears i = true → (s.portTakes i f = false ∨ s.portUp i = false ∨ s.node = 0xFFFF) →
    Runs (.morotikFrameReceive (some i) f .good) s [.regs, .fabric] fun t =>
      t.reg (0x3900 + i.val) 0x17 = s.reg (0x3900 + i.val) 0x17 + 1
      ∧ Entries [(0x3900 + i.val, 1), (0x3900 + i.val, 5), (0x3900 + i.val, 0x17)] s t
      ∧ t.fabric.inbox = s.fabric.inbox ∧ ∀ k, (t.port k).queue = (s.port k).queue)
  ∧ (∀ (s : State) (i : Port) (f : MFrame), f.ety ≠ 0x86DD → s.portTakes i f = false)
  ∧ (∀ (s : State) (f : MFrame), s.switchOn = true → s.node ≠ 0xFFFF → s.nodeAddress f = true → frameBad f = false →
    f.dnode.toNat = s.node →
    Runs (.morotikFrameReceive none f .good) s [.fabric] fun t =>
      t.fabric = { s.fabric with inbox := s.fabric.inbox ++ [(f, false)] })
  ∧ (∀ (s : State) (node : Nat) (u : BitVec 16) (arr : Option Nat) (p : Nat), node ≠ s.node →
    fieldOf ((s.rt node).setWidth 64) 0 0 = 1 → fieldOf ((s.rt node).setWidth 64) 3 1 = node / 8192 →
    fieldOf ((s.rt node).setWidth 64) 13 13 = 0 → p = fieldOf ((s.rt node).setWidth 64) 7 4 →
    (s.portUp p = true → some p ≠ arr → s.route node u arr = .out p)
    ∧ (s.portUp p = false → fieldOf ((s.rt node).setWidth 64) 12 12 = 0 → s.route node u arr = .drop))

/-- Frames leave a port: link, PTP and CREDIT frames first, and packets as their VL's turn and credits allow; CREDIT reports what the
ingress buffer has freed, to the neighbour with hop limit 1, and takes what the neighbour reports; a solicitation for the
module's own address is answered. A lookup in the clock of an RTDATA write sees the old entry, a later one the new. NODECFG is
written. A word that the switch buffer has lost leaves poisoned.
Choices of the model in it: log entries 67, 68, 138, 139. -/
def Obligations.EgressCreditsAndFabricSettings : Prop :=
  (∀ (s : State) (i : Port) (q : EgItem), s.switchOn = true → s.portExists i = true → s.portState i ≠ portDown →
    s.portState i ≠ portDisabled →
    ((s.port i).queue.find? (fun q => q.vl.isNone) = some q →
      Runs (.egressTransmit i []) s [.regs, .fabric, .out] fun t => t.out = .frame i q.frame q.stomp :: s.out
        ∧ (t.port i).queue = (s.port i).queue.erase q ∧ (t.port i).sent = (s.port i).sent
        ∧ t.reg (0x3900 + i.val) 3 = s.reg (0x3900 + i.val) 3 + 1
        ∧ t.reg (0x3900 + i.val) 7 = s.reg (0x3900 + i.val) 7 + BitVec.ofNat 64 q.bytes
        ∧ Entries [(0x3900 + i.val, 3), (0x3900 + i.val, 7)] s t)
    ∧ (∀ v deficit (w : Fin 4), (s.port i).queue.find? (fun q => q.vl.isNone) = none → s.portUp i = true → s.portExt i = false →
      s.drr i 12 (s.port i).turn (s.port i).deficit = some (v, q, deficit) → q.vl = some w →
      Runs (.egressTransmit i []) s [.regs, .fabric, .out] fun t => t.out = .frame i q.frame q.stomp :: s.out
        ∧ (t.port i).queue = (s.port i).queue.erase q ∧ (t.port i).turn = v ∧ (t.port i).deficit = deficit
        ∧ (t.port i).sent = bumpAt (s.port i).sent w (creditsOf q.bytes))
    ∧ (∀ v deficit (w : Fin 4) f e, (s.port i).queue.find? (fun q => q.vl.isNone) = none → s.portUp i = true →
      s.drr i 12 (s.port i).turn (s.port i).deficit = some (v, q, deficit) → q.vl = some w → q.frame = .morotik f →
      2 < e.bits → e.word < q.words → e.word < 512 →
      Runs (.egressTransmit i [e]) s [.regs, .fabric, .link, .can, .snap, .out] fun t => ∃ g rest,
        t.out = .frame i (.morotik g) q.stomp :: rest ∧ g.sectorPois (e.word / 4) = true ∧ g.payload = f.payload
        ∧ t.reg (intCounter 14) 3 = s.reg (intCounter 14) 3 + 1))
  ∧ (∀ (s : State) (i fuel v : Nat) (deficit : List Nat) (v' : Nat) (q : EgItem) (d' : List Nat),
    s.drr i fuel v deficit = some (v', q, d') → q ∈ (s.port i).queue ∧ (q.vl.any fun x => x.val == v') = true
      ∧ s.creditOk i v' q.bytes = true)
  ∧ (∀ (s : State) (i : Port) (counts : List Word32),
    (s.hears i && s.portUp i && !s.portExt i && counts.length == 4) = true →
    Runs (.creditReceive i counts) s [.regs, .fabric] fun t => t.port i = { s.port i with counted := counts }
      ∧ (∀ k, k ≠ i.val → t.port k = s.port k) ∧ Entries [(0x3900 + i.val, 1), (0x3900 + i.val, 5)] s t)
  ∧ (∀ (s : State) (i : Port), s.portUp i = true → s.portExt i = false → s.node ≠ 0xFFFF →
    (512 ≤ (s.port i).owed ∨ (∃ t0, (s.port i).freedAt = some t0 ∧ s.passedNs t0 500 = true)
      ∨ s.passedNs (s.port i).toldAt 10000 = true) →
    Runs (.creditSend i) s [.fabric] fun t => t.port i = { s.port i with
      told := (s.port i).freed, freedAt := none, toldAt := s.time.now
      queue := (s.port i).queue ++ [⟨.credit (s.creditPacket i), none, 110, none, false⟩] }
      ∧ (s.creditPacket i).hop = 1 ∧ (s.creditPacket i).op = opCredit
      ∧ (s.creditPacket i).dmac = (s.port i).nmac ∧ (s.creditPacket i).smac = s.portMac i
      ∧ (s.creditPacket i).payload = ((s.port i).freed.map fun w => beBytes 4 w.toNat).flatten)
  ∧ (∀ (s : State) (i : Port) (smac prefx : BitVec 48) (node : BitVec 16) (iid : Word64), s.hears i = true →
    ((s.portExt i && prefx == (s.reg 0x2920 1).setWidth 48 && node.toNat == s.node && s.node != 0xFFFF && iid == 1) = true →
      Runs (.neighbourSolicitation i smac prefx node iid) s [.regs, .fabric] fun t =>
        (t.port i).queue = (s.port i).queue ++ [⟨.advert smac (s.portMac i) node, none, 90, none, false⟩]
        ∧ Entries [(0x3900 + i.val, 1), (0x3900 + i.val, 5)] s t)
    ∧ ((s.portExt i && prefx == (s.reg 0x2920 1).setWidth 48 && node.toNat == s.node && s.node != 0xFFFF && iid == 1) = false →
      Runs (.neighbourSolicitation i smac prefx node iid) s [.regs] fun t =>
        t.reg (0x3900 + i.val) 0x17 = s.reg (0x3900 + i.val) 0x17 + 1))
  ∧ (∀ (s : State) (via : Via) (value : Word32), s.carries via 0x2930 2 = true →
    Writes (.rtdataWrite via value) via 0x2930 2 s [.fabric] fun u t =>
      (∀ k, t.rt k = u.rt k) ∧ ∀ n, n ≠ u.time.spout → ∀ k, State.rt { t with time := { t.time with spout := n } } k =
        if k % 8192 = u.fld 0x2930 1 12 0 then value &&& 0x3FFF else Tbl.get 0 u.fabric.rt (k % 8192))
  ∧ (∀ (s : State) (via : Via) (value : Word32), s.carries via 0x2910 1 = true → fieldOf (value.setWidth 64) 17 16 ≤ 1 →
    (fieldOf (value.setWidth 64) 15 0 = s.node ∨ s.fld 0x2910 1 20 19 = 1 →
      Writes (.nodecfgWrite via value) via 0x2910 1 s [.regs] fun u t => t.node = fieldOf (value.setWidth 64) 15 0
        ∧ t.bit 0x2910 1 18 = decide (t.node ≠ 0xFFFF) ∧ t.fld 0x2910 1 20 19 = u.fld 0x2910 1 20 19
        ∧ Entries [(0x2910, 1)] u t)
    ∧ (fieldOf (value.setWidth 64) 15 0 ≠ s.node → s.fld 0x2910 1 20 19 ≠ 1 →
      s.entryWrite via 0x2910 1 (value.setWidth 64) = (s, .range)))

/-! ### Transport, message queues and collectives -/

/-- A packet next in order on its connection is executed: a WRITE, a READREQ and an ATOMIC issue their requests, and once these
are served the packet is done, the next PSN is expected, and its bytes or its value are sent back; one whose range is not in HBM
is refused. A response brings its data, or a refusal, to the request it names. A packet out of its turn executes nothing, is held
where it is ahead, and is acknowledged at once. A new BOOTID resets its node's connections and refuses what is outstanding there.
An ACK ends the copies before its PSN. ACKs go out 500 ns after a packet was executed. A timer that expires sends the unmarked
copies again; after the last retry the connection fails. The pacing rate rises each interval without ECE.
Choices of the model in it: log entries 17, 18, 70, 71, 72, 135, 143. -/
def Obligations.PacketsExecuteInTurnAndAnswer : Prop :=
  (∀ (s : State) (f : MFrame) (rest : List (MFrame × Bool)), s.inTurn f rest →
    (f.op = opWrite → 0 < f.payload.length → peerMay (framePa f) f.payload.length = true →
      Runs .writeReceive s [.reqs, .fabric] fun t => Executing s t f rest
        ∧ Issued s t ((fillPieces (localAddr (framePa f)) f.payload.length).map fun x =>
          (.peer f.snode, .write, x.2.1, x.2.2, (f.payload.drop x.1).take x.2.2,
            (((withPois f.payload (framePois f)).drop x.1).take x.2.2).any (·.2),
            .packet f.snode.toNat f.cls s.nextReq 0)))
    ∧ (f.op = opWrite → peerMay (framePa f) f.payload.length = false → s.node ≠ 0xFFFF →
      Runs .writeReceive s [.regs, .fabric, .link, .can, .out] fun t =>
        (t.conn f.snode.toNat f.cls).rxPsn = f.psn + 1 ∧ (t.conn f.snode.toNat f.cls).ackDue = 0
        ∧ t.reg 0x3920 1 = s.reg 0x3920 1 + 1)
    ∧ (f.op = opReadReq → 0 < f.len → f.len ≤ 4096 → peerMay (framePa f) f.len = true →
      Runs .readreqReceive s [.reqs, .fabric] fun t => Executing s t f rest
        ∧ Issued s t ((fillPieces (localAddr (framePa f)) f.len).map fun x =>
          (.peer f.snode, .read, x.2.1, x.2.2, [], false, .packet f.snode.toNat f.cls s.nextReq x.1)))
    ∧ (f.op = opReadReq → (4096 < f.len ∨ peerMay (framePa f) f.len = false) → s.maySend f.snode.toNat 1 94 →
      Runs .readreqReceive s [.regs, .fabric, .link, .can, .out] fun t => Executed s t f rest
        ∧ ∃ g, Sent s t f.snode.toNat 1 g ∧ g.op = opReadResp ∧ g.tag = f.tag ∧ g.status = 1 ∧ g.payload = [])
    ∧ (∀ op ty a b, f.op = opAtomic → frameAtomic f = some (op, ty, a, b) → peerMay (framePa f) (atomWidth ty) = true →
      framePa f % atomWidth ty = 0 →
      Runs .atomicReceive s [.reqs, .fabric] fun t => Executing s t f rest
        ∧ (∃ q, t.reqs = s.reqs ++ [q] ∧ q.operands = [(a, b)])
        ∧ Issued s t [(.peer f.snode, .atomic op ty, localAddr (framePa f), atomWidth ty, [], f.sectorPois 0,
            .packet f.snode.toNat f.cls s.nextReq 0)])
    ∧ (f.op = opAtomic → (frameAtomic f).all (fun x => !(peerMay (framePa f) (atomWidth x.2.1)
        && decide (framePa f % atomWidth x.2.1 = 0))) = true → s.maySend f.snode.toNat 1 94 →
      Runs .atomicReceive s [.regs, .fabric, .link, .can, .out] fun t => Executed s t f rest
        ∧ ∃ g, Sent s t f.snode.toNat 1 g ∧ g.op = opAtomicResp ∧ g.tag = f.tag ∧ g.status = 1 ∧ g.payload = [])
    ∧ (∀ r, f.op = opReadResp → s.tagged f.snode.toNat f.tag (fun k => k == .read) = some r → s.req? r.id = some r →
      (f.status = 0 → Runs .readrespReceive s [.reqs, .fabric] fun t => Executed s t f rest
        ∧ t.req? r.id = some { r with
            stage := .done (f.payload.take r.len) ((framePois f).any id && decide (r.len ≤ 128))
            got := (framePois f).zipIdx.filterMap fun p => if p.1 then some (p.2, 0, true) else none
            route := s.replyFar r }
        ∧ ∀ q ∈ s.reqs, q.id ≠ r.id → q ∈ t.reqs)
      ∧ (f.status ≠ 0 → s.allHeard → (s.reqs.map (·.id)).Nodup → s.unwanted r = false →
        Runs .readrespReceive s [.reqs, .fabric] fun t => Executed s t f rest
          ∧ t.req? r.id = some { r with stage := .refused }))
    ∧ (∀ r op ty, f.op = opAtomicResp → s.tagged f.snode.toNat f.tag ReqKind.isAtomic = some r → s.req? r.id = some r →
      r.kind = .atomic op ty → s.allHeard → (s.reqs.map (·.id)).Nodup → s.unwanted r = false →
      Runs .atomicrespReceive s [.reqs, .fabric] fun t => Executed s t f rest
        ∧ (f.status = 0 → f.pm = false → t.req? r.id = some { r with
            stage := .done ((atomEach op ty (BitVec.ofNat 64 (beNat f.payload)) r.operands).2.map
              fun v => leBytes 8 v.toNat).flatten false
            got := [], route := s.replyFar r })
        ∧ (f.status ≠ 0 → t.req? r.id = some { r with stage := .refused })))
  ∧ (∀ (s : State) (node cls run : Nat) (f : MFrame) (mine : List Req) (bs : List (Byte × Bool)), cls < 2 →
    (s.conn node cls).exec = some (run, f) → f.snode.toNat = node → f.cls = cls → f.psn = (s.conn node cls).rxPsn →
    mine = s.reqs.filter (fun r => r.purpose.ofRun node cls run) → bs = bytesOf mine →
    (mine.all Req.finished = false → s.packetDone node cls = s)
    ∧ (mine.all Req.finished = true → (s.conn node cls).held = [] → (s.conn node cls).ackDue < 3 →
      (f.op = opWrite → Frame [.reqs, .fabric] s (s.packetDone node cls)
        ∧ Executed s (s.packetDone node cls) f s.fabric.inbox ∧ ((s.packetDone node cls).conn node cls).exec = none
        ∧ (s.packetDone node cls).reqs = s.reqs.filter fun r => !r.purpose.ofRun node cls run)
      ∧ (f.op = opReadReq → s.maySend node 1 (110 + bs.length) →
        Frame [.regs, .reqs, .fabric, .link, .can, .out] s (s.packetDone node cls)
        ∧ Executed s (s.packetDone node cls) f s.fabric.inbox ∧ ((s.packetDone node cls).conn node cls).exec = none
        ∧ (s.packetDone node cls).reqs = s.reqs.filter (fun r => !r.purpose.ofRun node cls run)
        ∧ ∃ g, Sent s (s.packetDone node cls) node 1 g ∧ g.op = opReadResp ∧ g.tag = f.tag ∧ g.status = 0
            ∧ g.payload = bs.map (·.1) ∧ g.pm = (unitPois bs).any id ∧ g.pmask = maskOf (unitPois bs))
      ∧ (∀ op ty a b, f.op = opAtomic → frameAtomic f = some (op, ty, a, b) → s.maySend node 1 118 →
        Frame [.regs, .reqs, .fabric, .link, .can, .out] s (s.packetDone node cls)
        ∧ Executed s (s.packetDone node cls) f s.fabric.inbox ∧ ((s.packetDone node cls).conn node cls).exec = none
        ∧ ∃ g, Sent s (s.packetDone node cls) node 1 g ∧ g.op = opAtomicResp ∧ g.tag = f.tag ∧ g.status = 0
            ∧ g.payload = beBytes (atomWidth ty) (leNat ((bs.map (·.1)).take (atomWidth ty))) ∧ g.pm = bs.any (·.2))))
  ∧ (∀ (s : State) (f : MFrame) (b : Bool) (rest : List (MFrame × Bool)), s.fabric.inbox = (f, b) :: rest →
    Tbl.get 0 s.fabric.boots f.snode.toNat = f.bootid →
    (f.op = opWrite → f.rsy = false → f.psn ≠ (s.conn f.snode.toNat f.cls).rxPsn → s.node ≠ 0xFFFF →
      ((s.conn f.snode.toNat f.cls).exec = none →
        Runs .writeReceive s [.regs, .fabric, .link, .can, .out] fun t =>
          (t.conn f.snode.toNat f.cls).rxPsn = (s.conn f.snode.toNat f.cls).rxPsn
          ∧ (t.conn f.snode.toNat f.cls).ackDue = 0 ∧ t.reg 0x3920 1 = s.reg 0x3920 1 + 1
          ∧ (psnAhead f.psn (s.conn f.snode.toNat f.cls).rxPsn = true →
            (f.psn - (s.conn f.snode.toNat f.cls).rxPsn).toNat ≤ 64 → s.reorderBytes + f.bytes ≤ 2 ^ 22 →
            ∃ h ∈ (t.conn f.snode.toNat f.cls).held, h.psn = f.psn))
      ∧ ((s.conn f.snode.toNat f.cls).follows f = true → psnAhead f.psn (s.conn f.snode.toNat f.cls).rxPsn = true →
        (f.psn - (s.conn f.snode.toNat f.cls).rxPsn).toNat ≤ 64 → s.reorderBytes + f.bytes ≤ 2 ^ 22 →
        Runs .writeReceive s [.fabric] fun t => t.fabric.inbox = rest
          ∧ (t.conn f.snode.toNat f.cls).ackDue = (s.conn f.snode.toNat f.cls).ackDue
          ∧ ∃ h ∈ (t.conn f.snode.toNat f.cls).held, h.psn = f.psn))
    ∧ (f.op = opAck → f.ece = false → f.addr = 0 → s.noneWaits →
      psnAhead f.psn (s.conn f.snode.toNat (f.tag % 2)).txPsn = false →
      (∀ u ∈ (s.conn f.snode.toNat (f.tag % 2)).unacked, u.frame.op ≠ opWrite ∧ u.frame.op ≠ opColl) →
      Runs .ackReceive s [.fabric] fun t => t.fabric.inbox = rest
        ∧ (t.conn f.snode.toNat (f.tag % 2)).unacked =
          ((s.conn f.snode.toNat (f.tag % 2)).unacked.filter fun u => !psnAhead f.psn u.psn).map
            (fun u => { u with marked := false })
        ∧ ((∃ u ∈ (s.conn f.snode.toNat (f.tag % 2)).unacked, psnAhead f.psn u.psn = true) →
          (t.conn f.snode.toNat (f.tag % 2)).expiries = 0))
    ∧ (∀ (u : Unacked) (r : Req), f.op = opAck → f.ece = false →
      psnAhead f.psn (s.conn f.snode.toNat (f.tag % 2)).txPsn = false → (s.conn f.snode.toNat (f.tag % 2)).unacked = [u] →
      u.psn + 1 = f.psn → u.frame.op = opWrite →
      s.tagged f.snode.toNat u.frame.tag (fun k => k == .write) = some r → s.req? r.id = some r →
      (f.status = 0 → r.quiet → s.allHeard → s.noneWaits → (s.reqs.map (·.id)).Nodup →
        Runs .ackReceive s [.reqs, .fabric] fun t => t.fabric.inbox = rest ∧ t.reqs = s.reqs.filter (fun q => q.id ≠ r.id)
          ∧ (t.conn f.snode.toNat (f.tag % 2)).unacked = [] ∧ (t.conn f.snode.toNat (f.tag % 2)).timer = none)
      ∧ ∃ w, exec .ackReceive s = .next (w.settle.fastResend f.snode.toNat (f.tag % 2)).pumpAll ∧ Frame [.reqs, .fabric] s w
        ∧ w.req? r.id = some { r with stage := if f.status = 0 then .done [] false else .refused }
        ∧ (w.conn f.snode.toNat (f.tag % 2)).unacked = [] ∧ (w.conn f.snode.toNat (f.tag % 2)).timer = none))
  ∧ (∀ (s : State) (f : MFrame) (old : BitVec 16), Tbl.get 0 s.fabric.boots f.snode.toNat = old → old ≠ f.bootid →
    (old = 0 → Frame [.fabric] s (s.bootCheck f) ∧ (s.bootCheck f).fabric.conns = s.fabric.conns
      ∧ Tbl.get 0 (s.bootCheck f).fabric.boots f.snode.toNat = f.bootid)
    ∧ (old ≠ 0 → s.allHeard → s.noneWaits → s.fabric.colls = [] → (s.reqs.map (·.id)).Nodup →
      (∀ r ∈ s.reqs, s.outstanding f.snode.toNat r = true → r.kind ≠ .write ∧ s.unwanted r = false) →
      Frame [.regs, .reqs, .fabric, .link, .can, .out] s (s.bootCheck f)
        ∧ Tbl.get 0 (s.bootCheck f).fabric.boots f.snode.toNat = f.bootid
        ∧ (∀ k, k < 2 → (s.bootCheck f).conn f.snode.toNat k = Conn.init)
        ∧ (s.heldClear 0x2950 2 1 = false → (s.bootCheck f).bit 0x2950 2 1 = true)
        ∧ (s.bootCheck f).reqs = s.reqs.map fun r =>
            if s.outstanding f.snode.toNat r then { r with stage := .refused } else r))
  ∧ (∀ (s : State) (node : Fin 8192) (cls : Fin 2), s.node ≠ 0xFFFF → 0 < (s.conn node cls).ackDue →
    s.passedNs (s.conn node cls).ackAt 500 = true →
    Runs (.ackSend node cls) s [.regs, .fabric, .link, .can, .out] fun t => (t.conn node cls).ackDue = 0
      ∧ t.reg 0x3920 1 = s.reg 0x3920 1 + 1
      ∧ ∀ o, s.route node (Config.flowHash (2 * node + 1)) none = .out o → s.portUp o = true → s.portExt o = false →
        ∃ g q, (t.port o).queue = (s.port o).queue ++ [q] ∧ q.frame = .morotik g ∧ g.op = opAck
          ∧ g.psn = (s.conn node cls).rxPsn ∧ g.addr = (s.conn node cls).bitmap ∧ g.dnode.toNat = node.val ∧ g.tag = cls.val)
  ∧ (∀ (s : State) (node : Fin 8192) (cls : Fin 2) (t0 : Nat), (s.conn node cls).timer = some t0 →
    s.passedNs t0 (1000 * (s.conn node cls).interval) = true →
    (∀ q ∈ s.fabric.inbox, ¬ (q.1.op = opAck ∧ q.1.snode.toNat = node.val ∧ q.1.tag % 2 = cls.val)) →
    ((s.conn node cls).expiries + 1 < s.fld 0x2970 1 19 16 → s.node ≠ 0xFFFF →
      Runs (.retransmitTimeout node cls) s [.regs, .fabric, .link, .can, .out] fun t =>
        t.conn node cls = { s.conn node cls with
          timer := some s.time.now, expiries := (s.conn node cls).expiries + 1
          interval := min (2 * (s.conn node cls).interval) (8 * s.rtoBase node cls) }
        ∧ t.reg 0x3920 5 = s.reg 0x3920 5 + 1
        ∧ t.reg 0x3920 3 = s.reg 0x3920 3
            + BitVec.ofNat 64 ((s.conn node cls).unacked.filter fun u => !u.marked).length)
    ∧ (s.fld 0x2970 1 19 16 ≤ (s.conn node cls).expiries + 1 → s.noneWaits →
      (cls = 0 → s.allHeard ∧ (s.reqs.map (·.id)).Nodup
        ∧ ∀ r ∈ s.reqs, s.outstanding node r = true → r.kind ≠ .write ∧ s.unwanted r = false) →
      (cls = 1 → s.fabric.colls = []) →
      Runs (.retransmitTimeout node cls) s [.regs, .reqs, .fabric, .link, .can, .out] fun t =>
        (t.conn node cls).unacked = [] ∧ (t.conn node cls).timer = none
        ∧ (t.conn node cls).rsy = some (s.conn node cls).txPsn ∧ (s.heldClear 0x2950 2 0 = false → t.bit 0x2950 2 0 = true)
        ∧ t.reg 0x3920 0x0D = s.reg 0x3920 0x0D + 1
        ∧ t.reqs = s.reqs.map fun r => if cls = 0 ∧ s.outstanding node r = true then { r with stage := .refused } else r))
  ∧ (∀ (s : State) (node : Fin 8192) (cls : Fin 2) (q : MFrame × Bool),
    s.fabric.inbox.find? (fun q => q.1.op == opAck && q.1.snode.toNat == node.val && q.1.tag % 2 == cls.val) = some q →
    s.ackFirst node cls =
      ({ s with fabric := { s.fabric with inbox := s.fabric.inbox.erase q } }.bootCheck q.1).ackIn q.1)
  ∧ (∀ (s : State) (node : Fin 8192) (cls : Fin 2), s.switched node (Config.flowHash (2 * node + cls)) = true →
    (s.conn node cls).rate ≠ 0 → s.passedNs (s.conn node cls).rateAt s.rateInterval = true →
    Runs (.rateIncreaseInterval node cls) s [.fabric] fun t =>
      t.conn node cls = { s.conn node cls with
        rateAt := s.time.now, slowed := false
        rate := if (s.conn node cls).slowed then (s.conn node cls).rate
                else min s.portRate ((s.conn node cls).rate + s.fld 0x2970 2 15 4) })

/-- MQ.BEGIN opens a message where none is open and a word is free, and waits otherwise; MQ.PUT writes the lanes' pairs in ascending
order; MQ.END writes the length word and closes it; MQ.GET brings the words of whole messages to the lanes. A complete message is sent to the
receive queue of its node, and one received is written with its length word where it has room. A flush empties a queue
and holds it for 8 spout clocks.
Choices of the model in it: log entries 73, 104. -/
def Obligations.MessageQueuesCarryWholeMessages : Prop :=
  (∀ (s : State) (th : Th) (q : Queue) (x : Ex), s.inHand th [] (poisonBad []) x → s.together x →
    s.mqAllowed false q x = true → (s.mq false q).hold = none →
    (((s.mq false q).openBy = none ∨ ((s.mq false q).heldBy x).isSome = true) →
      (s.mq false q).room (s.mq false q).wEnd ≠ 0 →
      Runs (.mqBegin th q) s [.clusters, .fabric] fun t => Went s t x x.lanes 1
        ∧ (∀ l ∈ x.lanes, At t x l (x.pc + th.size) ∧ Wrote s t x l [])
        ∧ t.mq false q = { s.mq false q with openBy := some (x.cl.val, x.key, (s.mq false q).wEnd + 1) }
        ∧ ∀ rx k, mqKey rx k ≠ mqKey false q → t.mq rx k = s.mq rx k)
    ∧ (((s.mq false q).openBy.isSome = true ∧ (s.mq false q).heldBy x = none) ∨ (s.mq false q).room (s.mq false q).wEnd = 0 →
      Runs (.mqBegin th q) s [.clusters] fun t => Went s t x x.lanes 1
        ∧ ∀ l ∈ x.lanes, At t x l x.pc ∧ Wrote s t x l []))
  ∧ (∀ (s : State) (th : Th) (q : Queue) (a : Nat) (x : Ex) (p : BitVec 11),
    s.inHand th [a, a + 1] (poisonBad [a, a + 1]) x → s.together x → s.mqAllowed false q x = true →
    (s.mq false q).hold = none → (s.mq false q).heldBy x = some p →
    (x.lanes.length ≤ (s.mq false q).room p → x.lanes.length ≤ 32 →
      Runs (.mqPut th q a) s [.clusters, .fabric] fun t => Went s t x x.lanes 1
        ∧ (∀ l ∈ x.lanes, At t x l (x.pc + th.size) ∧ Wrote s t x l [])
        ∧ (t.mq false q).openBy = some (x.cl.val, x.key, p + BitVec.ofNat 11 x.lanes.length)
        ∧ (t.mq false q).wEnd = (s.mq false q).wEnd
        ∧ ∀ i, (h : i < x.lanes.length) →
          (t.mq false q).at (p + BitVec.ofNat 11 i) = mqWord (s.rd2 x (x.lanes[i]) a) false)
    ∧ ((s.mq false q).room p < x.lanes.length →
      Runs (.mqPut th q a) s [.clusters] fun t => Went s t x x.lanes 1 ∧ ∀ l ∈ x.lanes, At t x l x.pc))
  ∧ (∀ (s : State) (th : Th) (q : Queue) (lenb dnode dqueue : Src) (x : Ex) (p : BitVec 11),
    s.inHand th (srcRegs lenb ++ srcRegs dnode ++ srcRegs dqueue) (poisonBad (srcRegs lenb ++ srcRegs dnode ++ srcRegs dqueue)) x →
    s.together x → s.mqAllowed false q x = true → (s.mq false q).hold = none → (s.mq false q).heldBy x = some p →
    Runs (.mqEnd th q lenb dnode dqueue) s [.clusters, .fabric] fun t => Went s t x x.lanes 1
      ∧ (∀ l ∈ x.lanes, At t x l (x.pc + th.size) ∧ Wrote s t x l [])
      ∧ (t.mq false q).openBy = none ∧ (t.mq false q).wEnd = p
      ∧ (t.mq false q).at (s.mq false q).wEnd = mqWord (lenWord (s.src x (x.lanes.headD 0) lenb).toNat
          (s.src x (x.lanes.headD 0) dnode).toNat (s.src x (x.lanes.headD 0) dqueue).toNat) false)
  ∧ (∀ (s : State) (th : Th) (q : Queue) (d : Nat) (x : Ex), s.inHand th [d, d + 1] (poisonBad []) x → s.together x →
    s.mqAllowed true q x = true → (s.mq true q).hold = none →
    (∀ ws left, (s.mq true q).take x.lanes.length (s.mq true q).left (s.mq true q).rEnd = some (ws, left) →
      (∀ w ∈ ws, mqBad w = false) →
      Runs (.mqGet th q d) s [.clusters, .fabric] fun t => Went s t x x.lanes 1
        ∧ (∀ p ∈ x.lanes.zip ws, At t x p.1 (x.pc + th.size)
            ∧ Wrote s t x p.1 [(d, (mqData p.2).setWidth 32), (d + 1, (mqData p.2 >>> 32).setWidth 32)])
        ∧ t.mq true q = { s.mq true q with rEnd := (s.mq true q).rEnd + BitVec.ofNat 11 x.lanes.length, left := left })
    ∧ ((s.mq true q).take x.lanes.length (s.mq true q).left (s.mq true q).rEnd = none →
      Runs (.mqGet th q d) s [.clusters] fun t => Went s t x x.lanes 1 ∧ ∀ l ∈ x.lanes, At t x l x.pc ∧ Wrote s t x l []))
  ∧ (∀ (s : State) (q : Queue) (m : MqRun) (w : Word64), s.mq false q = m → m.hold = none → m.ready ≠ 0 →
    w = mqData (m.at m.rEnd) →
    (∀ dnode, mqBad (m.at m.rEnd) = false → m.message.length < m.ready → fieldOf w 31 16 = dnode → dnode ≠ 0xFFFF →
      s.maySend dnode 0 (110 + lenB w) →
      Runs (.mqMessageSend q) s [.regs, .fabric, .link, .can, .out] fun t =>
        t.mq false q = { m with rEnd := m.rEnd + BitVec.ofNat 11 (1 + m.message.length) }
        ∧ t.reg 0x3920 0x13 = s.reg 0x3920 0x13 + 1
        ∧ ∃ g, Sent s t dnode 0 g ∧ g.op = opMsg ∧ g.tag = fieldOf w 37 32 + 256 * q.val
            ∧ g.payload = ((m.message.map fun x => leBytes 8 (mqData x).toNat).flatten).take (lenB w))
    ∧ (∀ dq, mqBad (m.at m.rEnd) = false → m.message.length < m.ready → fieldOf w 31 16 = 0xFFFF → fieldOf w 37 32 = dq →
      s.mqEn true dq = true → (s.mq true dq).hold = none →
      1 + lenWords (lenB w) ≤ (s.mq true dq).room (s.mq true dq).wEnd →
      Runs (.mqMessageSend q) s [.regs, .fabric] fun t =>
        t.mq false q = { m with rEnd := m.rEnd + BitVec.ofNat 11 (1 + m.message.length) }
        ∧ (t.mq true dq).wEnd = (s.mq true dq).wEnd + BitVec.ofNat 11 (1 + lenWords (lenB w))
        ∧ (t.mq true dq).at (s.mq true dq).wEnd = mqWord (lenWord (lenB w) s.node q) false)
    ∧ (mqBad (m.at m.rEnd) = false → m.ready ≤ m.message.length → exec (.mqMessageSend q) s = .next s)
    ∧ (mqBad (m.at m.rEnd) = true →
      Runs (.mqMessageSend q) s [.regs, .fabric, .link, .can, .out] fun t =>
        t.mq false q = { MqRun.init with hold := some s.time.spout } ∧ (s.heldClear 0x2950 2 3 = false → t.bit 0x2950 2 3 = true)))
  ∧ (∀ (s : State) (f : MFrame) (rest : List (MFrame × Bool)) (dq : Nat), s.inTurn f rest → f.op = opMsg → f.tag % 64 = dq →
    s.mqEn true dq = true → (s.mq true dq).hold = none →
    (1 + lenWords f.payload.length ≤ (s.mq true dq).room (s.mq true dq).wEnd →
      Runs .msgReceive s [.regs, .fabric] fun t => Executed s t f rest
        ∧ (t.mq true dq).wEnd = (s.mq true dq).wEnd + BitVec.ofNat 11 (1 + lenWords f.payload.length)
        ∧ (t.mq true dq).at (s.mq true dq).wEnd =
            mqWord (lenWord f.payload.length f.snode.toNat (f.tag / 256 % 64)) false
        ∧ (∀ i, i < lenWords f.payload.length → (t.mq true dq).at ((s.mq true dq).wEnd + BitVec.ofNat 11 (1 + i)) =
            mqWord (BitVec.ofNat 64 (leNat ((f.payload.drop (8 * i)).take 8))) (f.sectorPois (i / 4)))
        ∧ t.reg 0x3920 0x15 = s.reg 0x3920 0x15 + 1)
    ∧ ((s.mq true dq).room (s.mq true dq).wEnd < 1 + lenWords f.payload.length →
      Runs .msgReceive s [.regs, .fabric] fun t => t.mq true dq = s.mq true dq
        ∧ (t.conn f.snode.toNat f.cls).rxPsn = f.psn ∧ t.reg 0x3920 0x17 = s.reg 0x3920 0x17 + 1))
  ∧ (∀ (s : State) (via : Via) (rx : Bool) (q : Queue), s.carries via (mqIdx rx) (q.val + 1) = true →
    Writes (.mqFlush via rx q) via (mqIdx rx) (q.val + 1) s [.regs, .fabric, .link, .can, .out] fun u t =>
      t.mq rx q = { MqRun.init with hold := some u.time.spout }
      ∧ t.mqEn rx q = u.mqEn rx q ∧ t.mqOwner rx q = u.mqOwner rx q
      ∧ ((u.mq rx q).losing ≠ 0 → (s.heldClear 0x2950 2 3 = false → t.bit 0x2950 2 3 = true)
          ∧ t.reg 0x3920 0x19 = u.reg 0x3920 0x19 + BitVec.ofNat 64 (u.mq rx q).losing)
      ∧ ∀ r k, mqKey r k ≠ mqKey rx q → t.mq r k = u.mq r k)
  ∧ (∀ (s : State) (rx : Bool) (q : Queue) (t0 : Nat), (s.mq rx q).hold = some t0 →
    (t0 + 8 ≤ s.time.spout → Runs (.mqFlushRelease rx q) s [.fabric] fun t =>
      t.mq rx q = { s.mq rx q with hold := none })
    ∧ (s.time.spout < t0 + 8 → exec (.mqFlushRelease rx q) s = .next s))

/-- The sequencer reads a collective job's plan, its header and then its phases; the job starts in a free slot with the plan's phases,
and a plan that cannot be read, is poisoned or reserved ends it with a record. At its agreed time the phase in hand may send, where
FT is locked; any other falls back to the handshake and counts as late. A COLL packet lands as an input, and the input of a plain RECV
goes on into the buffer; an RTS is answered with a CTS, or held while its collective has not started; a CTS is noted. A
REDUCE chunk is combined when all its inputs have landed; a chunk goes to its receivers once it may; the job ends with its
last phase.
Choices of the model in it: log entries 71, 74, 122. -/
def Obligations.CollectivesRunTheirPhases : Prop :=
  (∀ (s : State) (id : Nat) (want : Fin 4) (j : Job) (ws : List Word64), s.job? id = some j →
    (s.eligible j = true → j.type = 6 → s.collOutranked j = false →
      (∀ off n, (s.planRead id = .none_ ∧ off = 0 ∧ n = 32)
          ∨ (s.planRead id = .header ws ∧ off = 32 ∧ n = 32 * planPhases ws) → (∀ q ∈ s.reqs, q.id < s.nextReq) →
        Runs (.collectiveJobStart id want) s [.regs, .reqs, .fabric, .link, .can, .out] fun t =>
          Issued s t ((s.piecesFor (localAddr (j.plan + off)) n).map fun x =>
            (.seqr, .read, x.2.1, x.2.2, [], false, .plan id (off + x.1)))
          ∧ (localKind (j.plan + off) n = .hbm → Frame [.reqs] s t))
      ∧ (s.planRead id = .waits → exec (.collectiveJobStart id want) s = .next s)
      ∧ (s.planRead id = .poisoned → Runs (.collectiveJobStart id want) s endParts fun t =>
          Ended s t j .fault (s.recordOf (s.asStarted j) .fault 0x06 0 0))
      ∧ (s.planRead id = .failed → Runs (.collectiveJobStart id want) s endParts fun t =>
          Ended s t j .fault (s.recordOf (s.asStarted j) .fault 0x09 0 0))
      ∧ (s.planRead id = .whole ws →
        planBad (planPhases ws) (planEntries ws (planPhases ws)) = true ∨ ws.length < 4 + 4 * planPhases ws →
        Runs (.collectiveJobStart id want) s endParts fun t =>
          Ended s t j .fault (s.recordOf (s.asStarted j) .fault 0x08 0 0))
      ∧ (∀ slot w, s.planRead id = .whole ws → planBad (planPhases ws) (planEntries ws (planPhases ws)) = false →
        4 + 4 * planPhases ws ≤ ws.length → s.freeSlot ws want = some slot → (∀ r ∈ s.fabric.rtsHeld, r.1 ≠ planId ws) →
        w = (planEntries ws (planPhases ws)).headD [] → phKind w = .recv → phOp w = 0 → 0 < phLen w →
        s.addrKind (localAddr (phBuf w)) (phLen w) ≠ .unmapped → j.nbt ≠ 0 → s.ftNs ≤ j.nbt + phOffset w →
        (∀ r ∈ s.reqs, ∀ p k, r.purpose.ofChunk id p k = false) →
        Runs (.collectiveJobStart id want) s [.reqs, .seq, .fabric] fun t => t.job? id = some (s.asStarted j)
          ∧ t.reqs = s.reqs.filter (fun r => !r.purpose.ofPlan id)
          ∧ ∃ c, t.collAt slot = some c ∧ c.job = id ∧ c.collid = planId ws ∧ c.land = planLand ws ∧ c.sw = planSw ws
              ∧ c.phases = planEntries ws (planPhases ws) ∧ c.nbt = j.nbt ∧ c.phase = 0 ∧ c.sent = [] ∧ c.inputs = []
              ∧ c.shake = [] ∧ c.late = []))
    ∧ (s.eligible j = false → exec (.collectiveJobStart id want) s = .next s))
  ∧ (∀ (s : State) (slot : Nat) (c : Collective) (w : List Word64), s.collAt slot = some c → w = c.ph c.phase →
    c.phase < c.phases.length → phKind w = .send → 0 < phLen w → phLen w ≤ 4096 →
    localKind (phBuf w) (phLen w) = .hbm → c.nbt ≠ 0 → s.ftNs ≤ c.timeOf c.phase →
    Frame [.reqs] s (s.enterPhase slot)
      ∧ Issued s (s.enterPhase slot) ((fillPieces (localAddr (phBuf w)) (phLen w)).map fun x =>
          (.egress, .read, x.2.1, x.2.2, [], false, .chunk c.job c.phase 0 x.1)))
  ∧ (∀ (s : State) (slot : Fin 4) (c : Collective) (p : Nat), s.collAt slot = some c → s.duePhases c = [p] → s.collIdle c →
    (c.phase = p → s.ftState = ftLocked →
      Runs (.collPhaseTime slot) s [.fabric] fun t => t.collAt slot = some { c with timed := p :: c.timed })
    ∧ (∀ n, (c.phase ≠ p ∨ s.ftState ≠ ftLocked) → s.receivers (c.ph p) = [n] → s.maySend n 1 94 →
      Runs (.collPhaseTime slot) s [.regs, .seq, .fabric, .link, .can, .snap, .out] fun t =>
        (∃ g, Sent s t n 1 g ∧ g.op = opCollCtl ∧ g.tag = 1 ∧ g.addr = collAddr c.collid p 0)
        ∧ t.collAt slot = some { c with
            shake := p :: c.shake, timed := c.timed.filter (· ≠ p), late := if p ∈ c.late then c.late else p :: c.late }
        ∧ (p ∉ c.late → (s.heldClear 0x2950 2 2 = false → t.bit 0x2950 2 2 = true)
          ∧ t.reg 0x3920 0x11 = s.reg 0x3920 0x11 + 1
          ∧ ∀ j, s.job? c.job = some j → t.job? c.job = some { j with info := BitVec.ofNat 32 (c.late.length + 1) })))
  ∧ (∀ (s : State) (f : MFrame) (rest : List (MFrame × Bool)), s.inTurn f rest →
    (∀ slot c i p k x, f.op = opColl → s.collSlot (addrColl f.addr) = some slot → s.collAt slot = some c →
      p = addrPhase f.addr → k = addrChunk f.addr → p < c.phases.length → k < phChunks (c.ph p) →
      s.inputOf c p k f.snode.toNat = some i → x = (⟨p, k, i, f.payload, framePois f⟩ : Chunk) → s.collIdle c →
      ((c.phase < p ∨ (c.phase = p ∧ phKind (c.ph p) = .reduce)) →
        Runs .collReceive s [.fabric] fun t => Executed s t f rest
          ∧ t.collAt slot = some { c with inputs := c.inputs ++ [x] })
      ∧ (c.phase = p → phKind (c.ph p) = .recv → phOp (c.ph p) = 0 → f.payload ≠ [] →
        localKind (phBuf (c.ph p) + 4096 * k) f.payload.length = .hbm →
        Runs .collReceive s [.reqs, .fabric] fun t => Executed s t f rest
          ∧ t.collAt slot = some { c with written := (p, k) :: c.written }
          ∧ Issued s t ((fillPieces (localAddr (phBuf (c.ph p) + 4096 * k)) f.payload.length).map fun y =>
            (.egress, .write, y.2.1, y.2.2, (f.payload.drop y.1).take y.2.2,
              (((withPois f.payload (framePois f)).drop y.1).take y.2.2).any (·.2), .result c.job p k))))
    ∧ (f.op = opColl → s.collSlot (addrColl f.addr) = none → s.node ≠ 0xFFFF →
      Runs .collReceive s [.regs, .fabric, .link, .can, .out] fun t => t.fabric.colls = s.fabric.colls
        ∧ (t.conn f.snode.toNat f.cls).rxPsn = f.psn + 1 ∧ (t.conn f.snode.toNat f.cls).ackDue = 0
        ∧ t.reg 0x3920 1 = s.reg 0x3920 1 + 1)
    ∧ (∀ slot c, f.op = opCollCtl → f.tag % 4 = 1 → s.collSlot (addrColl f.addr) = some slot → s.collAt slot = some c →
      s.maySend f.snode.toNat 1 94 →
      Runs .collctlRtsReceive s [.regs, .seq, .fabric, .link, .can, .snap, .out] fun t => Executed s t f rest
        ∧ (∃ g, Sent s t f.snode.toNat 1 g ∧ g.op = opCollCtl ∧ g.tag = 2
            ∧ g.addr = collAddr (addrColl f.addr) (addrPhase f.addr) 0)
        ∧ (c.nbt ≠ 0 → ∃ c', t.collAt slot = some c' ∧ addrPhase f.addr ∈ c'.late))
    ∧ (f.op = opCollCtl → f.tag % 4 = 1 → s.collSlot (addrColl f.addr) = none →
      (s.fabric.rtsHeld.length < 64 → Runs .collctlRtsReceive s [.fabric] fun t => Executed s t f rest
        ∧ t.fabric.rtsHeld = s.fabric.rtsHeld ++ [(addrColl f.addr, addrPhase f.addr, f.snode)])
      ∧ (64 ≤ s.fabric.rtsHeld.length → Runs .collctlRtsReceive s [.fabric] fun t =>
          t.fabric.rtsHeld = s.fabric.rtsHeld ∧ (t.conn f.snode.toNat f.cls).rxPsn = f.psn))
    ∧ (∀ slot c, f.op = opCollCtl → f.tag % 4 = 2 → s.collSlot (addrColl f.addr) = some slot → s.collAt slot = some c →
      s.collIdle c → Runs .collctlCtsReceive s [.fabric] fun t => Executed s t f rest
        ∧ t.collAt slot = some { c with cts := (addrPhase f.addr, f.snode.toNat) :: c.cts }))
  ∧ (∀ (s : State) (slot : Fin 4) (k : Nat) (c : Collective) (w : List Word64), s.collAt slot = some c → w = c.ph c.phase →
    phKind w = .reduce → k < phChunks w → c.open k = true → (c.phase ∈ c.timed ∨ c.phase ∈ c.shake) →
    (c.gather k = none → exec (.reduceChunkCombine slot k) s = .next s)
    ∧ (∀ xs bs bp ins data pois, c.gather k = some xs → s.collIdle c →
      (if phLocal w then c.bufChunk c.phase k else some ([], [])) = some (bs, bp) →
      ins = (if phLocal w then [(bs, bp)] else []) ++ xs.map (fun x => (x.data, x.pois)) →
      data = combineBytes (phOp w) (reduceElem (phOp w)) (ins.map (·.1)) → pois = orPois (ins.map (·.2)) →
      (phRoot w = false → c.gate c.phase (s.nnode (phParent w)) = none →
        Runs (.reduceChunkCombine slot k) s [.regs, .seq, .fabric] fun t =>
          Flagged s t (combineExc (phOp w) (reduceExc (phOp w)) (ins.map (·.1)))
          ∧ t.collAt slot = some { c with
              inputs := c.inputs.filter fun x => !(x.phase == c.phase && x.num == k)
              outs := ⟨c.phase, k, 16, data, pois⟩ :: c.outs })
      ∧ (phRoot w = true → data ≠ [] → localKind (phBuf w + 4096 * k) data.length = .hbm →
        Runs (.reduceChunkCombine slot k) s [.regs, .reqs, .seq, .fabric] fun t =>
          Flagged s t (combineExc (phOp w) (reduceExc (phOp w)) (ins.map (·.1)))
          ∧ t.collAt slot = some { c with
              inputs := c.inputs.filter fun x => !(x.phase == c.phase && x.num == k)
              written := (c.phase, k) :: c.written }
          ∧ Issued s t ((fillPieces (localAddr (phBuf w + 4096 * k)) data.length).map fun y =>
            (.egress, .write, y.2.1, y.2.2, (data.drop y.1).take y.2.2,
              (((withPois data pois).drop y.1).take y.2.2).any (·.2), .result c.job c.phase k)))))
  ∧ (∀ (s : State) (slot node k : Nat) (c : Collective) (timed : Bool) (o : Chunk), s.collAt slot = some c →
    c.gate c.phase node = some timed → (c.phase, node, k) ∉ c.sent → phKind (c.ph c.phase) = .reduce →
    c.outs.find? (fun o => o.phase == c.phase && o.num == k) = some o → s.maySend node 1 (110 + o.data.length) →
    Frame [.regs, .fabric, .link, .can, .out] s (s.sendChunk slot node k)
      ∧ (s.sendChunk slot node k).collAt slot = some { c with sent := (c.phase, node, k) :: c.sent }
      ∧ ∃ g, Sent s (s.sendChunk slot node k) node 1 g ∧ g.op = opColl ∧ g.addr = collAddr c.collid c.phase k
          ∧ g.timed = timed ∧ g.payload = o.data)
  ∧ (∀ (s : State) (slot : Fin 4) (c : Collective) (j : Job), s.collAt slot = some c → s.duePhases c = [] →
    c.phase + 1 = c.phases.length → phKind (c.ph c.phase) = .recv → (∀ x ∈ c.inputs, x.phase ≠ c.phase) →
    (∀ r ∈ s.reqs, ∀ k, r.purpose.ofChunk c.job c.phase k = false) →
    s.phaseDone c = true → s.job? c.job = some j → s.signals j .done →
    Runs (.collPhaseTime slot) s endParts fun t => Ended s t j .done (s.recordOf j .done 0 0 0))

/-! ### The host link -/

/-- The link trains to what was negotiated. A BAR2 access in HBM goes to its home slices in the host's class, is answered with its bytes
and their poison once they have come, and is refused where the function does not serve; a poisoned write poisons its sectors, and is
reported. An unmasked vector held pending is sent. The host's completion brings its bytes to the master, or its refusal, and its tag
goes to the read that waits for one. MCTP sets the endpoint ID and asks for evidence.
Choices of the model in it: log entries 11, 20, 99, 101. -/
def Obligations.HostAccessesAreServed : Prop :=
  (∀ (s : State) (speed : Fin 8) (width replays : Nat), devBoot ≤ s.dev → speed ≠ 0 → width ∈ linkWidths →
    Runs (.pcieLinkTrain speed width replays) s [.regs, .link] fun t =>
      t.link = { s.link with up := true } ∧ t.fld 0x2A00 1 2 0 = speed.val ∧ t.fld 0x2A00 1 7 3 = width
      ∧ t.bit 0x2A00 1 8 = decide (6 ≤ speed.val) ∧ t.reg 0x3A00 9 = s.reg 0x3A00 9 + BitVec.ofNat 64 replays
      ∧ (s.link.up = true → t.reg 0x3A00 0x0B = s.reg 0x3A00 0x0B + 1)
      ∧ Entries [(0x2A00, 1), (0x3A00, 9), (0x3A00, 0x0B)] s t)
  ∧ (∀ (s : State) (a n : Nat), 0 < n → a + n ≤ s.bar2Bytes → a + n ≤ hbmBytes → s.bar2On = true →
    (Runs (.bar2Read a n) s [.reqs, .link] fun t =>
      t.link = { s.link with waits := s.link.waits ++ [(s.nextReq, a, n)] }
      ∧ Issued s t ((fillPieces (localAddr a) n).map fun x =>
          (.pcie, .read, x.2.1, x.2.2, [], false, .bar2 s.nextReq x.1)))
    ∧ (∀ data pois, data.length = n → Runs (.bar2Write a data pois) s (if pois then [.regs, .reqs, .out] else [.reqs]) fun t =>
      Issued s t ((fillPieces (localAddr a) n).map fun x =>
          (.pcie, .write, x.2.1, x.2.2, (data.drop x.1).take x.2.2, pois, .bar2 s.nextReq 0))
      ∧ (pois = true → t.out = .advisory :: s.out ∧ t.reg 0x3A00 1 = s.reg 0x3A00 1 + 1 ∧ Entries [(0x3A00, 1)] s t)))
  ∧ (∀ (s : State) (acc : Nat) (mine : List Req), mine = s.reqs.filter (fun r => r.purpose.ofBar2 acc && r.kind == .read) →
    (mine.all Req.finished = true → Frame [.reqs, .link, .out] s (s.bar2Done acc)
      ∧ (s.bar2Done acc).out = .bar2 false ((bytesOf mine).map (·.1)) ((bytesOf mine).any (·.2)) :: s.out
      ∧ (s.bar2Done acc).link = { s.link with waits := s.link.waits.filter fun w => w.1 ≠ acc }
      ∧ (s.bar2Done acc).reqs = s.reqs.filter fun r => !(r.purpose.ofBar2 acc && r.kind == .read))
    ∧ (mine.all Req.finished = false → s.bar2Done acc = s))
  ∧ (∀ (s : State) (a n : Nat), a + n ≤ s.bar2Bytes → (s.bar2On = false ∨ hbmBytes < a + n) → s.link.up = true →
    Runs (.bar2Read a n) s [.regs, .out] fun t => t.out = .bar2 true [] false :: s.out
      ∧ t.reg 0x3A00 3 = s.reg 0x3A00 3 + 1 ∧ Entries [(0x3A00, 3)] s t)
  ∧ (∀ (s : State) (a : Nat) (data : List Byte),
    (s.bar2On = false ∨ s.bar2Bytes < a + data.length ∨ hbmBytes < a + data.length) →
    exec (.bar2Write a data false) s = .next s)
  ∧ (∀ (s : State) (vec : Fin 64), s.bar0On = true →
    Runs (.msixUnmask vec) s [.link, .out] fun t => t.vectorMasked vec = false
      ∧ (∀ k, k ≠ 4 * vec.val + 3 → t.msixWord k = s.msixWord k)
      ∧ (s.link.pba.getLsbD vec = true → t.out = .msix vec :: s.out ∧ t.link.pba = s.link.pba &&& ~~~((1 : Word64) <<< vec.val))
      ∧ (s.link.pba.getLsbD vec = false → t.out = s.out ∧ t.link.pba = s.link.pba))
  ∧ (∀ (s : State) (id p : Nat) (r : Req), s.hostReq id = some r → s.link.tags.filter (fun x => x.1 == id) = [(id, p)] →
    (s.deaf = false → (∀ q ∈ s.reqs, s.wantsTag q = false) →
      (∀ data, Runs (.hostReadCompletion id (.ok data)) s [.reqs, .link] fun t => t.req? id = some { r with
          stage := .done ((List.range r.len).map fun i => data.getD i 0) false, route := s.replyFar r }
        ∧ t.link = { s.link with tags := s.link.tags.filter fun x => x.1 ≠ id })
      ∧ (∀ data, Runs (.hostReadCompletion id (.poisoned data)) s [.regs, .reqs, .link, .out] fun t => t.req? id = some { r with
          stage := .done ((List.range r.len).map fun i => data.getD i 0) true, route := s.replyFar r }
        ∧ t.out = .advisory :: s.out ∧ t.reg 0x3A00 1 = s.reg 0x3A00 1 + 1 ∧ Entries [(0x3A00, 1)] s t)
      ∧ (∀ c, (c = .ur ∨ c = .ca) → Runs (.hostReadCompletion id c) s [.regs, .reqs, .link] fun t =>
          t.req? id = some { r with stage := .refused } ∧ t.reg 0x3A00 7 = s.reg 0x3A00 7 + 1))
    ∧ (∀ q data, s.deaf = false → p = r.master.tagPool →
      s.reqs.find? (fun q => s.wantsTag q && q.master.tagPool == p) = some q →
      (s.link.tags.filter fun x => x.2 == p).length ≤ poolTags p →
      Runs (.hostReadCompletion id (.ok data)) s [.reqs, .link, .out] fun t =>
        t.link = { s.link with tags := s.link.tags.filter (fun x => x.1 ≠ id) ++ [(q.id, p)] }
        ∧ t.out = .hostRead q.id (BitVec.ofNat 64 ((s.hostAddr (addrLocal q.addr)).getD 0)) q.len :: s.out)
    ∧ (∀ c, s.deaf = true → exec (.hostReadCompletion id c) s = .next s)
    ∧ ((∀ q ∈ s.reqs, s.wantsTag q = false) → Runs (.hostCompletionTimeout id) s [.regs, .reqs, .link] fun t =>
        t.req? id = some { r with stage := .refused } ∧ t.reg 0x3A00 5 = s.reg 0x3A00 5 + 1
        ∧ Entries [(0x3A00, 5)] s t))
  ∧ (∀ (s : State) (eid : Byte) (nonce : List Byte), s.mctpOn = true →
    (Runs (.mctpSetEndpointId eid) s [.link] fun t => t.link = { s.link with eid := eid })
    ∧ (s.bring.firmware = true → s.flash.fresh = none →
      Runs (.mctpGetEvidence nonce) s [.flash] fun t => t.flash = { s.flash with fresh := some nonce })
    ∧ (s.bring.firmware = true → s.flash.fresh.isSome = true →
      exec (.mctpGetEvidence nonce) s = .next (s.emit (.evidence 3 [])))
    ∧ (s.bring.firmware = false → exec (.mctpGetEvidence nonce) s = .next (s.emit (.evidence 5 []))))

/-- Every link reset ends the jobs without records and closes the rings; all but a function-level reset take the link down; D3hot
closes the function till D0. Bytes staged over BAR4 read back; FWCMD begins a check, a write or a run of the staged image; the end
gives the result of the first check that fails, writes the image into flash, or starts recovery firmware.
Choices of the model in it: log entries 33, 83, 99. -/
def Obligations.LinkResetsAndFirmwareUpdate : Prop :=
  (∀ (s : State) (k : LinkResetKind), devBoot ≤ s.dev →
    Runs (.linkReset k) s linkParts fun t => LinkCleared s t
      ∧ (k = .flr → t.link.up = s.link.up ∧ t.link.d3 = s.link.d3)
      ∧ (k ≠ .flr → t.link.up = false ∧ t.link.d3 = false ∧ t.reg 0x2A00 1 = 0)
      ∧ ∀ j ∈ s.seq.jobs, ∀ cl, cl < 64 → (s.cluster cl).job = some j.id →
          (t.cluster cl).job = none ∧ (t.cluster cl).cup = (s.cluster cl).cup)
  ∧ (∀ s : State, devBoot ≤ s.dev → s.link.up = true →
    Runs .d3hotEntry s linkParts fun t => LinkCleared s t ∧ t.link.d3 = true ∧ t.link.up = true ∧ t.deaf = true)
  ∧ (∀ s : State, Runs .d0Entry s [.link] fun t => t.link = { s.link with d3 := false })
  ∧ (∀ s : State, Runs .linkResetRecovery s [.link] fun t => t.link = { s.link with resetAt := none })
  ∧ (∀ (s : State) (off : Nat) (data : List Byte) (pois : Bool), s.bar4On = true → s.flash.op = none →
    off + data.length ≤ stagingSize →
    Runs (.bar4StagingWrite off data pois) s [.regs, .flash, .out] fun t =>
      (∀ i, (h : i < data.length) → Mem.byte t.flash.staging (off + i) = data[i])
      ∧ (∀ a, a < off ∨ off + data.length ≤ a → Mem.byte t.flash.staging a = Mem.byte s.flash.staging a)
      ∧ (pois = true → ∀ u ∈ unitsOf off data.length, u ∈ t.flash.stagePois)
      ∧ (pois = false → ∀ u, coversUnit off data.length u = true → u ∉ t.flash.stagePois)
      ∧ t.flash = { s.flash with staging := t.flash.staging, stagePois := t.flash.stagePois }
      ∧ t.reg 0x3A00 1 = s.reg 0x3A00 1 + (if pois then 1 else 0) ∧ Entries [(0x3A00, 1)] s t
      ∧ t.out = (if pois then [.advisory] else []) ++ s.out)
  ∧ (∀ (s : State) (data : List Byte), data.length = 4 →
    (leNat data % 16 = 1 → exec (.bar4StagingWrite stagingSize data false) s = exec .fwVerify s)
    ∧ (leNat data % 16 = 2 → exec (.bar4StagingWrite stagingSize data false) s = exec .fwVerifyWrite s)
    ∧ (leNat data % 16 = 3 → exec (.bar4StagingWrite stagingSize data false) s = exec .fwVerifyRun s))
  ∧ (∀ s : State, s.bar4On = true → s.flash.op = none →
    (Runs .fwVerify s [.flash] fun t => t.flash = { s.flash with op := some 1 })
    ∧ (s.flash.claim = none → Runs .fwVerifyWrite s [.flash] fun t =>
        t.flash = { s.flash with op := some 2, claim := some .firmware })
    ∧ (s.flash.claim.isSome = true → Runs .fwVerifyWrite s [.flash] fun t => t.flash = { s.flash with result := 0xA })
    ∧ (s.bring.romWait = true → Runs .fwVerifyRun s [.flash] fun t => t.flash = { s.flash with op := some 3 })
    ∧ (s.bring.romWait = false → Runs .fwVerifyRun s [.flash] fun t => t.flash = { s.flash with result := 9 }))
  ∧ (∀ (s : State) (ok : Bool), (s.flash.op = some 1 →
      Runs (.fwCommandDone ok) s [.flash] fun t => t.flash = { s.flash with op := none, result := s.stagedResult })
    ∧ (s.flash.op = some 2 → s.stagedResult ≠ 1 → Runs (.fwCommandDone ok) s [.flash] fun t =>
        t.flash = { s.flash with op := none, claim := none, result := s.stagedResult })
    ∧ (s.flash.op = some 2 → s.stagedResult = 1 → Runs (.fwCommandDone ok) s [.flash] fun t =>
        t.flash = { s.flash with
          op := none, claim := none, image := if ok then some s.staged else s.flash.image, result := if ok then 1 else 8 })
    ∧ (s.flash.op = some 3 → s.stagedResult = 1 →
      Runs (.fwCommandDone ok) s [.regs, .link, .can, .bring, .flash, .out] fun t =>
        t.bring = { s.bring with firmware := true, rom := false, romWait := false } ∧ t.bit 0x2B00 1 4 = true
        ∧ t.flash.result = 1 ∧ t.flash.op = none ∧ t.flash.image = s.flash.image ∧ t.dev = s.dev))
  ∧ (∀ (svn : Nat) (i : Image) (pois : Nat → Nat → Bool),
    (verifyImage svn i pois = 1 → i.headerOk = true ∧ svn ≤ i.svn
      ∧ Config.shake256 ((i.header.drop 0x60).take 1952) = Config.vendorKeyDigest
      ∧ Config.imageSignatureValid (i.header.take 0x14ED) = true
      ∧ Config.shake256 i.body = (i.header.drop 0x20).take 64)
    ∧ (pois 0 0x20 = false → i.headerOk = false → verifyImage svn i pois = 2))

/-! ### The configuration area and the CAN port -/

/-- A store takes the persistent entries and claims the flash; its end leaves them in the area with the next generation, or, where
the flash failed, reports so. A restore leaves no records. Commands of network management set the state; a reset of the port
restores its entries and announces itself. Heartbeat, emergency messages and TPDO2 go out when they are due. RPDO1 writes all
its values or none. Bus states follow the error counts, and bus-off ends at recovery.
Choices of the model in it: log entries 14, 82, 89, 90, 103. -/
def Obligations.StoresAndCanMessages : Prop :=
  (∀ (s : State) (via : Via) (value : Word32), s.carries via 0x1010 1 = true → value = 0x65766173 →
    (s.handed via 0x1010 1).flash.claim = none →
    Writes (.configStore via value) via 0x1010 1 s [.regs, .flash, .can] fun u t =>
      t.flash = { u.flash with
        claim := some .store, snap := ⟨true, u.cfgGen + 1, u.storeRecs, u.flash.cfg.repairs⟩ }
      ∧ t.bit 0x2010 2 2 = true ∧ t.can = { u.can with serving := u.can.serving || via == .sdo }
      ∧ Entries [(0x2010, 2)] u t)
  ∧ (∀ (s : State) (via : Via) (value : Word32), s.carries via 0x1011 1 = true → value = 0x64616F6C →
    (s.handed via 0x1011 1).flash.claim = none →
    Writes (.configRestore via value) via 0x1011 1 s [.regs, .flash, .can] fun u t =>
      t.flash = { u.flash with claim := some .restore, snap := ⟨true, u.cfgGen + 1, [], u.flash.cfg.repairs⟩ }
      ∧ t.bit 0x2010 2 2 = true ∧ t.can = { u.can with serving := u.can.serving || via == .sdo }
      ∧ Entries [(0x2010, 2)] u t)
  ∧ (∀ s : State, s.bring.waiting = none → s.can.serving = false →
    (s.flash.claim = some .store →
      (Runs (.configStoreDone true) s [.regs, .flash, .can] fun t =>
        t.flash = { s.flash with claim := none, cfg := { s.flash.snap with repairs := s.flash.cfg.repairs } }
        ∧ t.reg 0x2010 1 = s.flash.snap.gen.setWidth 64 ∧ t.fld 0x2010 2 1 0 = 1 ∧ t.bit 0x2010 2 2 = false
        ∧ t.bit 0x2010 3 0 = false ∧ Entries [(0x2010, 1), (0x2010, 2), (0x2010, 3), (0x3001, 0x0B)] s t)
      ∧ (Runs (.configStoreDone false) s [.regs, .flash, .free] fun t => t.flash.claim = none
        ∧ t.flash.cfg.recs = s.flash.cfg.recs ∧ t.fld 0x2010 2 1 0 = 2 ∧ t.bit 0x2010 2 2 = false
        ∧ Entries [(0x2010, 2)] s t))
    ∧ (s.flash.claim = some .restore → Runs (.configRestoreDone true) s [.regs, .flash] fun t =>
        t.flash = { s.flash with claim := none, cfg := { s.flash.snap with repairs := s.flash.cfg.repairs } }
        ∧ t.reg 0x2010 1 = s.flash.snap.gen.setWidth 64 ∧ t.bit 0x2010 2 2 = false
        ∧ Entries [(0x2010, 1), (0x2010, 2)] s t))
  ∧ (∀ s : State, s.canOn = true →
    (Runs .nmtStart s [.regs] fun t => t.nmt = nmtOperational ∧ t.reg 0x3001 1 = s.reg 0x3001 1 + 1
      ∧ Entries [(0x2012, 1), (0x3001, 1)] s t)
    ∧ (Runs .nmtStop s [.regs] fun t => t.nmt = nmtStopped ∧ t.reg 0x3001 1 = s.reg 0x3001 1 + 1
      ∧ Entries [(0x2012, 1), (0x3001, 1)] s t)
    ∧ (Runs .nmtEnterPreOperational s [.regs] fun t => t.nmt = nmtPre ∧ t.reg 0x3001 1 = s.reg 0x3001 1 + 1
      ∧ Entries [(0x2012, 1), (0x3001, 1)] s t)
    ∧ Runs .nmtResetNode s [.regs, .can, .out] (PortReset s)
    ∧ Runs .nmtResetCommunication s [.regs, .can, .out] (PortReset s))
  ∧ (∀ s : State, (s.canOn = true → s.fld 0x1017 0 15 0 ≠ 0 →
      s.passedNs s.can.beatAt (1000000 * s.fld 0x1017 0 15 0) = true →
      Runs .heartbeatSend s [.regs, .can, .out] fun t => t.out = .can (0x700 + canNode) [BitVec.ofNat 8 s.nmt] :: s.out
        ∧ t.can = { s.can with beatAt := s.can.beatAt + 1000000 * s.fld 0x1017 0 15 0 * nsUnits }
        ∧ Entries [(0x3001, 3)] s t)
    ∧ (s.fld 0x1017 0 15 0 = 0 → exec .heartbeatSend s = .next s)
    ∧ (∀ e es, s.can.emcy = e :: es → s.canOn = true → (s.nmt = nmtOperational ∨ s.nmt = nmtPre) → s.emcyDue = true →
      Runs .emcySend s [.regs, .can, .out] fun t => t.out = .can (0x080 + canNode) e.bytes :: s.out
        ∧ t.can = { s.can with emcy := es, emcyAt := some s.time.now }
        ∧ t.reg 0x3001 9 = s.reg 0x3001 9 + 1 ∧ Entries [(0x3001, 3), (0x3001, 9)] s t)
    ∧ (s.nmt = nmtStopped → exec .emcySend s = .next s)
    ∧ (s.canOperational = true → s.canOn = true → s.bit 0x1801 1 31 = false → s.tpdo2Due = true →
      Runs .tpdo2Send s [.regs, .can, .out] fun t => t.out = .can (0x280 + canNode) s.tpdo2Bytes :: s.out
        ∧ t.can = { s.can with pdo2At := s.time.now, pdo2Due := false } ∧ Entries [(0x3001, 3)] s t))
  ∧ (∀ (s : State) (data : List Byte), s.canOn = true → s.nmt = nmtOperational → s.bit 0x1400 1 31 = false →
    (data.length = 8 → (∀ w ∈ rpdoWrites data, (s.entryWrite .rpdo 0x2100 w.1 w.2).2 = .done) →
      Runs (.rpdo1Receive data) s [.regs, .can] fun t => (∀ w ∈ rpdoWrites data, t.fld 0x2100 w.1 15 0 = w.2.toNat)
        ∧ (∀ k, (∀ w ∈ rpdoWrites data, w.1 ≠ k) → t.reg 0x2100 k = s.reg 0x2100 k)
        ∧ Entries [(0x2100, 2), (0x2100, 5), (0x2100, 6), (0x3001, 1), (0x3001, 0x0B)] s t)
    ∧ (data.length = 8 → (∃ w ∈ rpdoWrites data, (s.entryWrite .rpdo 0x2100 w.1 w.2).2 ≠ .done) →
      Runs (.rpdo1Receive data) s [.regs, .can] fun t => t.reg 0x3001 0x11 = s.reg 0x3001 0x11 + 1
        ∧ Entries [(0x3001, 1), (0x3001, 0x0B), (0x3001, 0x11)] s t)
    ∧ (data.length ≠ 8 → Runs (.rpdo1Receive data) s [.regs, .can] fun t => t.reg 0x3001 5 = s.reg 0x3001 5 + 1
        ∧ Entries [(0x3001, 5), (0x3001, 0x0B)] s t))
  ∧ (∀ (s : State) (tec rec : Nat), s.canOn = true → Runs (.canBusError tec rec) s [.regs, .can] fun t =>
      t.canBus = busOf tec rec ∧ t.fld 0x2012 1 39 32 = min 255 tec ∧ t.fld 0x2012 1 47 40 = min 255 rec
      ∧ t.nmt = s.nmt ∧ (255 < tec → t.reg 0x3001 0x0D = s.reg 0x3001 0x0D + 1)
      ∧ Entries [(0x2012, 1), (0x3001, 0x0B), (0x3001, 0x0D)] s t)
  ∧ (∀ s : State, s.can.running = true → s.canBus = 2 → Runs .busOffRecovery s [.regs, .can] fun t =>
      t.canBus = 0 ∧ t.fld 0x2012 1 39 32 = 0 ∧ t.fld 0x2012 1 47 40 = 0 ∧ t.nmt = s.nmt
      ∧ Entries [(0x2012, 1), (0x3001, 0x0B)] s t)

/-! ### Power and heat -/

/-- A slot is measured and counted; an excursion is reported; the step chosen is no faster than any demand, and the fastest whose
estimate stays below the caps. A ramp's end moves the clocks to the step the rail holds. The input's alarms set their bits, and an
input out of range leads to STANDBY. Power announced at a boundary stays below the limit and goes out in TPDO1.
Choices of the model in it: log entries 58, 75. -/
def Obligations.PowerIsLimitedAndAnnounced : Prop :=
  (∀ (s : State) (w dv act : Nat), s.powered = true →
    Runs (.powerSlot w dv act) s [.regs, .link, .can, .power, .out] fun t =>
      t.power.slots = (if s.power.slots = [] then List.replicate 1000 w else (w :: s.power.slots).take 1000)
      ∧ (115 * s.limit < 100 * w → (s.heldClear 0x2100 9 0 = false → t.bit 0x2100 9 0 = true))
      ∧ (devBoot ≤ s.dev → t.reg 0x3100 (2 * min 8 s.step' + 1) = s.reg 0x3100 (2 * min 8 s.step' + 1) + 1)
      ∧ t.power.overCnt = (if 4200 < dv then s.power.overCnt + 1 else 0)
      ∧ t.power.underCnt = (if dv < 3600 then s.power.underCnt + 1 else 0)
      ∧ (s.bring.leafOn = 0 → t.power.kettle = 0 ∧ t.step' = s.step')
      ∧ (s.bring.leafOn ≠ 0 → s.slowest ≤ 7 → t.step' = 8 ∨ s.slowest ≤ t.step'))
  ∧ (∀ (s : State) (slow : Nat) (cap : Int), (s.chosen slow cap ≠ 8 → slow ≤ s.chosen slow cap
        ∧ s.estimate (s.chosen slow cap) ≤ cap)
      ∧ ∀ n, n < 8 → slow ≤ n → s.estimate n ≤ cap → s.chosen slow cap ≤ n)
  ∧ (∀ s : State, s.coreStopped = false →
    (s.heldStep s.power.target < s.power.clk → s.power.climb = true ∨ s.heldStep s.power.target = s.power.target →
      Runs .stepRampComplete s [.power] fun t => t.power = { s.power with
        clk := s.heldStep s.power.target, climb := s.heldStep s.power.target != s.power.target })
    ∧ (s.power.clk ≤ s.heldStep s.power.target → exec .stepRampComplete s = .next s)
    ∧ (s.power.climb = false → s.heldStep s.power.target ≠ s.power.target → exec .stepRampComplete s = .next s))
  ∧ (∀ s : State, (100 ≤ s.power.overCnt → Runs .inputOvervoltage s [.regs, .link, .can, .out] fun t =>
      (s.heldClear 0x2100 9 1 = false → t.bit 0x2100 9 1 = true) ∧ Entries [(0x2100, 9), (0x3001, 0x0B)] s t)
    ∧ (s.power.overCnt < 100 → exec .inputOvervoltage s = .next s)
    ∧ (100 ≤ s.power.underCnt → Runs .inputUndervoltage s [.regs, .link, .can, .out] fun t =>
      (s.heldClear 0x2100 9 2 = false → t.bit 0x2100 9 2 = true) ∧ Entries [(0x2100, 9), (0x3001, 0x0B)] s t)
    ∧ (s.power.underCnt < 100 → exec .inputUndervoltage s = .next s))
  ∧ (∀ s : State, 10 ≤ s.power.outCnt → devStandby < s.dev →
    Runs .inputOutOfRange s [.regs, .time, .clusters, .mcasts, .caddy, .hbm, .reqs, .arb, .seq, .fabric, .link, .can,
        .power, .bring, .lanes, .out] fun t =>
      t.dev = devStandby ∧ t.bring.hv = false ∧ t.seq.jobs = [] ∧ t.clusters = [] ∧ t.reqs = [] ∧ t.caddy.lines = []
      ∧ t.bring.leafOn = 0 ∧ t.link.up = false ∧ t.hbm.mem = s.hbm.mem)
  ∧ (∀ (s : State) (n win : Nat), win = 1000 * s.fld 0x2890 1 13 0 → n = s.ftNs / win → s.spoutOn = true →
    s.seq.projAt ≠ n + 1 →
    Runs .powerProjection s [.regs, .seq, .can] fun t => t.seq = { s.seq with projAt := n + 1 }
      ∧ (∀ i, i < 16 → t.reg 0x2891 (i + 1) = BitVec.ofNat 64 (if i < s.fld 0x2890 2 4 0
          then s.announcedPower (n * win) (i + 1) (s.projected (n * win)) else 0))
      ∧ (s.canOperational = true → s.bit 0x1800 1 31 = false → ∃ data, t.can.tpdo1 = some data
          ∧ data.take 8 = leBytes 8 (n * win))
      ∧ Entries ((0x3001, 0x0F) :: (List.range 16).map fun i => (0x2891, i + 1)) s t)
  ∧ (∀ (s : State) (b w : Nat) (spans : List (Nat × Nat × Option Nat)), s.announcedPower b w spans ≤ s.limit
      ∧ (s.fld 0x2890 3 11 0 ≤ s.limit → s.fld 0x2890 3 11 0 ≤ s.announcedPower b w spans))

/-- A reading shows in the entries; a source at its shutdown threshold in two readings shuts the leaves off and leads to FAULTED. The
thermal demand rises by one step every 10 ms while a source is at its throttle threshold, falls while all are 5 °C below, and
holds else; the rate-of-rise demand ends after 100 ms; a zone passes to its model, or back, after 100 ms.
Choices of the model in it: log entry 75. -/
def Obligations.TemperaturesAreShownAndActedOn : Prop :=
  (∀ (s : State) (x : Sensors), s.islandOn = true → (∀ i, i < 42 → s.diodeFail i = false ∧ x.diodes[i]? ≠ some .failed) →
    Runs (.sensorRead x) s [.regs, .clusters, .mcasts, .caddy, .hbm, .reqs, .seq, .fabric, .link, .can, .power, .thermal,
        .bring, .snap, .out] fun t =>
      (∀ i v, i < 42 → x.diodes[i]? = some (.temp v) → t.fld 0x2210 (i + 1) 15 0 = temp16 v)
      ∧ (∀ i v, i < 6 → x.therms[i]? = some v → t.fld 0x2213 (i + 1) 15 0 = temp16 v)
      ∧ t.thermal.atShut = t.atShutdown 0
      ∧ (devStandby < s.dev → (∃ i ∈ t.thermal.atShut, i ∈ s.thermal.atShut) →
          t.dev = devFaulted ∧ t.bring.shut = true ∧ t.bring.leafOn = 0 ∧ (s.heldClear 0x2220 1 2 = false → t.bit 0x2220 1 2 = true))
      ∧ ((∀ i ∈ t.thermal.atShut, i ∉ s.thermal.atShut) → t.dev = s.dev ∧ t.seq = s.seq))
  ∧ (∀ s : State, s.islandOn = true → s.passedNs s.thermal.demAt 10000000 = true →
    Runs .thermalDemandUpdate s [.regs, .link, .can, .thermal, .out] fun t =>
      t.thermal = { s.thermal with demAt := s.time.now }
      ∧ ((∃ i, i < 48 ∧ 16 * (thresholds i).2.1 ≤ s.governing i) → t.fld 0x2220 2 2 0 = min 7 (s.fld 0x2220 2 2 0 + 1))
      ∧ ((∀ i, i < 48 → s.governing i < 16 * ((thresholds i).2.1 - 5)) →
          t.fld 0x2220 2 2 0 = if s.thermal.blind then s.fld 0x2220 2 2 0 else s.fld 0x2220 2 2 0 - 1)
      ∧ ((∀ i, i < 48 → s.governing i < 16 * (thresholds i).2.1) →
          (∃ i, i < 48 ∧ 16 * ((thresholds i).2.1 - 5) ≤ s.governing i) → t.fld 0x2220 2 2 0 = s.fld 0x2220 2 2 0)
      ∧ Entries [(0x2220, 1), (0x2220, 2), (0x3001, 0x0B)] s t)
  ∧ (∀ s : State, s.thermal.rateStep.isSome = true →
    (s.passedNs s.thermal.rateAt 100000000 = true → Runs .rateDemandExpire s [.regs, .thermal] fun t =>
      t.thermal = { s.thermal with rateStep := none } ∧ t.bit 0x2220 2 3 = false ∧ Entries [(0x2220, 2)] s t)
    ∧ (s.passedNs s.thermal.rateAt 100000000 = false → exec .rateDemandExpire s = .next s))
  ∧ (∀ (s : State) (z : Fin 16) (t0 : Nat), s.passedNs t0 100000000 = true →
    (s.modelGov z = false → Tbl.get none s.thermal.apart z = some t0 →
      Runs (.modelGovernSwitch z) s [.regs, .link, .can, .out] fun t => t.modelGov z = true ∧ t.bit 0x2220 2 (16 + z) = true
        ∧ (s.heldClear 0x2220 1 3 = false → t.bit 0x2220 1 3 = true))
    ∧ (s.modelGov z = true → Tbl.get none s.thermal.close z = some t0 → s.diodeFail (zoneDiode z) = false →
      Runs (.modelGovernSwitch z) s [.regs] fun t => t.modelGov z = false ∧ t.bit 0x2220 2 (16 + z) = false
        ∧ Entries [(0x2211, z.val + 1), (0x2220, 2)] s t))

/-! ### Starts and faults -/

/-- The device comes up: standby power leads from OFF to STANDBY and its loss back; the input's return, a start command and the
release of the module reset start it where they may; a start in progress goes through BOOT, POWERING, TRAINING and CHECKING as
their work ends, with leaves, waves, stacks, caddies and clusters tested on the way, to READY or SERVICE. Converter faults
lead to FAULTED.
Choices of the model in it: log entries 79, 80, 85, 93, 94, 95, 144, 147. -/
def Obligations.TheDeviceStartsAndFaults : Prop :=
  (∀ s : State, s.dev = devOff → Runs .standbyPowerApply s [.regs, .bring] fun t => t.dev = devStandby
      ∧ t.bring = { s.bring with rom := !s.bring.modRst } ∧ Entries [(0x2B00, 1)] s t)
  ∧ (∀ s : State, s.dev = devStandby → Runs .standbyPowerLoss s (startParts ++ [.age, .lanes]) fun t => t.dev = devOff
      ∧ t.reqs = [] ∧ t.hbm.mem = [] ∧ t.bring.rom = false ∧ t.bring.firmware = false ∧ t.flash.svn = s.flash.svn
      ∧ t.age.units = s.age.units ∧ (s.flash.claim = none → t.flash.image = s.flash.image ∧ t.flash.cfg = s.flash.cfg)
      ∧ Entries [(0x2B00, 1)] { s with regs := [] } t)
  ∧ (∀ s : State, s.dev = devStandby →
    (s.bit 0x2B00 3 0 = true → s.bring.modRst = false → s.bring.hot = false →
      Runs .inputReturn s startParts fun t => Started s t true 1)
    ∧ (s.bit 0x2B00 3 0 = false ∨ s.bring.modRst = true ∨ s.bring.hot = true →
      Runs .inputReturn s [.bring, .power] fun t => t.bring = { s.bring with hv := true }))
  ∧ (∀ (s : State) (via : Via), s.carries via 0x2B00 2 = true →
    (s.mayStart true = true → s.flash.claim ≠ some .store → s.flash.claim ≠ some .restore →
      Writes (.coldStartCommand via) via 0x2B00 2 s startParts fun u t => Started u t true 2)
    ∧ (s.mayStart true = true → (s.flash.claim = some .store ∨ s.flash.claim = some .restore) →
      Writes (.coldStartCommand via) via 0x2B00 2 s [.bring] fun u t =>
        t.bring = { u.bring with waiting := some true })
    ∧ (s.mayStart true = false → s.entryWrite via 0x2B00 2 1 = (s, .state))
    ∧ (s.mayStart false = true → s.flash.claim ≠ some .store → s.flash.claim ≠ some .restore →
      Writes (.warmRestartCommand via) via 0x2B00 2 s startParts fun u t => Started u t false 3)
    ∧ (s.mayStart false = true → (s.flash.claim = some .store ∨ s.flash.claim = some .restore) →
      Writes (.warmRestartCommand via) via 0x2B00 2 s [.bring] fun u t =>
        t.bring = { u.bring with waiting := some (u.bring.waiting.getD false) })
    ∧ (s.mayStart false = false → s.entryWrite via 0x2B00 2 2 = (s, .state)))
  ∧ (∀ (s : State) (cold : Bool), (s.bring.hot = true → s.mayStart cold = false)
    ∧ (s.dev = devOff → s.mayStart cold = false) ∧ (s.faultedNow = true → s.mayStart cold = false)
    ∧ (s.dev < devReady → cold = false → s.mayStart cold = false)
    ∧ (devReady ≤ s.dev → s.bring.hot = false → s.faultedNow = false → s.mayStart cold = true))
  ∧ (∀ s : State, s.bring.rom = true → s.bring.modRst = false → s.dev ≠ devOff →
    (s.flashResult = 1 → Runs .firmwareVerifyDone s [.regs, .link, .can, .bring, .flash, .out] fun t =>
      t.bring = { s.bring with firmware := true, rom := false, romWait := false } ∧ t.fld 0x2B00 4 3 0 = 1
      ∧ t.flash.image = s.flash.image ∧ t.dev = s.dev ∧ (canNode ≠ 0 → t.nmt = nmtOperational))
    ∧ (s.flashResult ≠ 1 → Runs .firmwareVerifyDone s [.regs, .bring] fun t =>
      t.bring = { s.bring with rom := false, romWait := true } ∧ t.fld 0x2B00 4 3 0 = s.flashResult
      ∧ Entries [(0x2B00, 4)] s t))
  ∧ (∀ s : State, (s.dev = devBoot → s.bring.firmware = true →
      Runs .bootPhaseEnd s [.regs, .time, .caddy, .fabric, .link, .can, .power, .bring, .flash, .age, .lanes, .out, .free] fun t =>
        t.dev = devPowering ∧ t.bring.phaseAt = s.time.now
        ∧ t.bootId ≠ 0 ∧ t.bootId ≠ s.bring.bootPrev ∧ t.bring.bootPrev = t.bootId
        ∧ (s.flash.cfg.ok = false → (s.heldClear 0x2010 3 0 = false → t.bit 0x2010 3 0 = true) ∧ t.node =
            if s.fld 0x2910 1 17 16 = 1 then s.node else if s.strapPlaced then nodeNumber s.torusSize s.strapXyz % 65536
            else 0xFFFF))
    ∧ (s.dev = devBoot → s.bring.firmware = false → exec .bootPhaseEnd s = .next s))
  ∧ (∀ (s : State) (ok : List Bool), s.dev = devPowering → s.bring.checked = false →
    s.passedNs s.bring.phaseAt 6000000 = true →
    ((∀ l, l < 4 → s.leafParked l = false → ok.getD l false = true) →
      Runs (.leafPowerupCheck ok) s [.regs, .bring] fun t => t.bring.checked = true
        ∧ ∀ l, l < 4 → t.bring.leafOn.getLsbD l = !s.leafParked l)
    ∧ (∀ l, (l = 1 ∨ l = 3) → s.bring.leafBad.getLsbD l = false → s.leafParked l = false → ok.getD l false = false →
      (∀ k, k < 4 → k ≠ l → s.leafParked k = true ∨ ok.getD k false = true) →
      Runs (.leafPowerupCheck ok) s [.regs, .bring, .lanes] fun t => t.bring.checked = true
        ∧ t.bit 0x2300 0x10 (8 + l / 2) = true ∧ t.potCfg (l / 2) = 1 ∧ t.leafParked l = true
        ∧ t.bring.leafOn.getLsbD l = false))
  ∧ (∀ (s : State) (w : Fin 8), s.dev = devPowering → s.bring.checked = true → s.bring.waves = List.range w →
    s.passedNs s.bring.phaseAt (1000000 * (10 + 20 * w)) = true →
    Runs (.powerWave w) s [.bring] fun t => t.bring = { s.bring with waves := s.bring.waves ++ [w.val] })
  ∧ (∀ s : State, s.dev = devPowering → s.bring.waves.length = 8 → s.passedNs s.bring.phaseAt 155000000 = true →
    Runs .poweringPhaseEnd s [.regs, .fabric, .link, .can, .bring, .out] fun t => t.dev = devTraining
      ∧ t.bring = { s.bring with phaseAt := s.time.now }
      ∧ ∀ i, s.portExists i = true → t.portState i = if s.portEn i then portTraining else portDisabled)
  ∧ (∀ (s : State) (trained : BitVec 8), s.dev = devTraining →
    Runs (.trainingPhaseEnd trained) s [.regs, .hbm, .link, .can, .bring, .out] fun t => t.dev = devChecking
      ∧ t.hbm.selfRef = false ∧ (s.bring.cold = true → t.hbm.mem = [] ∧ t.hbm.poison = [] ∧ t.hbm.absent = ~~~trained)
      ∧ (s.bring.cold = false → t.hbm.mem = s.hbm.mem ∧ t.hbm.poison = s.hbm.poison
          ∧ t.hbm.absent = s.hbm.absent ||| ~~~trained))
  ∧ (∀ (s : State) (cad : Cad) (failing : List (Fin 256 × Fin 2048 × Fin 24)), s.dev = devChecking →
    s.bring.cold = true → s.bring.marched.getLsbD cad = false →
    (failing = [] → Runs (.marchTest cad true failing) s [.bring] fun t =>
      t.bring = { s.bring with marched := s.bring.marched ||| ((1 : BitVec 2) <<< cad.val) })
    ∧ (∀ sl set way, failing = [(sl, set, way)] → s.sliceRetired cad sl = false →
      (cad.val, sl.val, set.val, way.val) ∉ s.caddy.repairs → (s.repairsOf cad sl).length < 4 →
      Runs (.marchTest cad true failing) s [.regs, .caddy, .hbm, .reqs, .bring, .link, .can, .snap, .out, .flash] fun t =>
        (cad.val, sl.val, set.val, way.val) ∈ t.caddy.repairs ∧ t.bring.marched.getLsbD cad = true)
    ∧ (Runs (.marchTest cad false failing) s [.regs, .clusters, .mcasts, .caddy, .hbm, .reqs, .seq, .fabric, .link, .can,
        .bring, .snap, .out] Faulted))
  ∧ (∀ (s : State) (cl : Cl) (fail : Option (Fin 20)), s.dev = devChecking → s.marchOver = true →
    s.clusterPowered cl = true → s.bring.kat.getLsbD cl = false →
    Runs (.knownAnswerTest cl fail) s [.regs, .bring] fun t =>
      t.bring = { s.bring with kat := s.bring.kat ||| ((1 : BitVec 64) <<< cl.val) }
      ∧ t.bit 0x2B10 (cl + 1) 0 = true ∧ t.bit 0x2B10 (cl + 1) 1 = fail.isSome
      ∧ (∀ n, fail = some n → t.fld 0x2B10 (cl + 1) 6 2 = n.val) ∧ Entries [(0x2B10, cl.val + 1)] s t)
  ∧ (∀ s : State, s.dev = devChecking → s.marchOver = true → s.age.due = false →
    (∀ c, c < 64 → s.clusterPowered c = true → s.bring.kat.getLsbD c = true) →
    Runs .checkingPhaseEnd s [.regs, .seq, .link, .can, .bring, .out] fun t =>
      (∀ c, c < 64 → (t.reg 0x2500 1).getLsbD c = s.katPassed c
        ∧ (t.reg 0x2500 2).getLsbD c = (!s.katPassed c && !s.parked c))
      ∧ t.bring = { s.bring with phaseAt := s.time.now } ∧ t.fld 0x2B00 4 31 16 = s.startMs
      ∧ (s.hbm.absent ≠ 0 → t.dev = devService) ∧ ((∀ c, c < 64 → s.katPassed c = false) → t.dev = devService)
      ∧ (s.hbm.absent = 0 → (∀ c, c < 64 → s.katPassed c = true) → s.fld 0x2300 0x10 11 8 = 0 → s.retCount 0 = 0 →
          s.retCount 1 = 0 → s.bit 0x2B00 3 1 = false → t.dev = devReady))
  ∧ (∀ s : State, devStandby < s.dev → s.dev ≠ devFaulted →
    Runs .converterFault s [.regs, .clusters, .mcasts, .caddy, .hbm, .reqs, .seq, .fabric, .link, .can, .bring, .snap,
        .out] fun t => Faulted t ∧ t.bring.shut = true)
  ∧ (∀ s : State, (s.dev = devOff → Runs .modRstAssert s [.bring] fun t => t.bring = { s.bring with modRst := true })
    ∧ (s.dev ≠ devOff → Runs .modRstAssert s [.regs, .time, .clusters, .mcasts, .caddy, .hbm, .reqs, .arb, .seq, .fabric,
        .link, .can, .power, .bring, .flash, .lanes, .out] fun t =>
      t.dev = devStandby ∧ t.bring.modRst = true ∧ t.bring.firmware = false ∧ t.bring.rom = false ∧ t.can = State.reset.can))
  ∧ (∀ s : State, s.bring.modRst = true →
    (s.dev = devStandby → s.inputGood = true → s.bring.hot = false →
      Runs .modRstRelease s startParts fun t => Started s t true 4)
    ∧ (s.dev = devStandby → (s.inputGood = false ∨ s.bring.hot = true) →
      Runs .modRstRelease s [.bring] fun t => t.bring = { s.bring with modRst := false, rom := true })
    ∧ (s.dev ≠ devStandby → Runs .modRstRelease s [.bring] fun t => t.bring = { s.bring with modRst := false }))

/-! ### Security, wear and snapshots -/

/-- The security counter is raised to the running image's version alone. Evidence is made again when it is due, and fresh evidence is
sent once it is ready. A line that qualifies waits for a spare, which the switch puts in; a channel without a spare retires, and the
device is DEGRADED. Records are written while no claim holds the flash. A re-plan is due each 168 powered hours or on command; it
sets the offset within 30 mV and end of life above 45 mV. A trigger latches while armed, and is counted else.
Choices of the model in it: log entries 78, 88, 104. -/
def Obligations.ServiceRecordsAndSnapshots : Prop :=
  (∀ (s : State) (via : Via) (value : Word32), s.carries via 0x2D01 1 = true → (s.handed via 0x2D01 1).flash.svnTo = none →
    (fieldOf (value.setWidth 64) 6 0 = s.imgSvn → s.flash.svn < s.imgSvn →
      Writes (.svnCommit via value) via 0x2D01 1 s [.flash] fun u t =>
        t.flash = { u.flash with svnTo := some s.imgSvn })
    ∧ (fieldOf (value.setWidth 64) 6 0 ≠ s.imgSvn ∨ s.imgSvn ≤ s.flash.svn →
      s.entryWrite via 0x2D01 1 (value.setWidth 64) = (s, .range)))
  ∧ (∀ (s : State) (n : Nat), s.flash.svnTo = some n → Runs .svnFuseDone s [.flash] fun t =>
      t.flash = { s.flash with svn := max s.flash.svn n, svnTo := none })
  ∧ (∀ s : State, (s.evidenceDue = true → Runs .standingEvidence s [.flash] fun t =>
        t.flash = { s.flash with evidence := s.evidenceDoc [], evAt := s.time.now })
    ∧ (s.evidenceDue = false → exec .standingEvidence s = .next s)
    ∧ (∀ n, s.flash.fresh = some n → Runs .evidenceReady s [.flash, .out] fun t =>
        t.flash = { s.flash with fresh := none } ∧ t.out = .evidence 0 (s.evidenceDoc n) :: s.out)
    ∧ (∀ n : List Byte, n.length = 32 → ((s.evidenceDoc n).drop 8).take 32 = n
        ∧ leField (s.evidenceDoc n) 0 4 = 0x56455A4E))
  ∧ (∀ (s : State) (cad : Cad) (ch : Fin 256) (line : Fin 2100) (thru : Bool) (errs : Nat), s.caddiesOn = true →
    (errs < s.fld 0x2B20 4 7 0 → exec (.lineQualify (.channel cad ch line thru) errs) s = .next s)
    ∧ (s.fld 0x2B20 4 7 0 ≤ errs → (s.chan cad ch).out = false → line.val ∉ (s.chan cad ch).lines →
      line.val ∉ (s.chan cad ch).wait →
      (0 < s.freeSpares cad ch → Runs (.lineQualify (.channel cad ch line thru) errs) s [.lanes] fun t =>
        t.chan cad ch = { s.chan cad ch with
          main := (s.chan cad ch).main || !thru, wait := (s.chan cad ch).wait ++ [line.val] })
      ∧ (s.freeSpares cad ch = 0 → Runs (.lineQualify (.channel cad ch line thru) errs) s
          [.regs, .clusters, .mcasts, .caddy, .hbm, .reqs, .seq, .fabric, .link, .can, .bring, .flash, .lanes, .snap, .out]
          fun t => (t.chan cad ch).out = true ∧ t.flash.lanesDue = true ∧ t.hbm.mem = s.hbm.mem
            ∧ (s.dev = devReady → t.dev = devDegraded))))
  ∧ (∀ (s : State) (cad : Cad) (ch : Fin 256) (line : Fin 2100) (thru : Bool), line.val ∈ (s.chan cad ch).wait →
    Runs (.spareLineSwitch (.channel cad ch line thru)) s [.flash, .lanes] fun t =>
      t.chan cad ch = { s.chan cad ch with
        lines := (s.chan cad ch).lines ++ [line.val], wait := (s.chan cad ch).wait.filter (· ≠ line.val) }
      ∧ t.flash = { s.flash with lanesDue := true })
  ∧ (∀ (s : State) (pot : Pot) (g d : Fin 2) (ln : Fin 124) (errs : Nat), s.caddiesOn = true → s.fld 0x2B20 4 7 0 ≤ errs →
    s.groupDead pot g = false → s.potCfg pot ≠ 1 → ln.val ∉ s.lostLanes (exKey pot g d) →
    (exKey pot g d, ln.val) ∉ s.lanes.held → (s.lostLanes (exKey pot g d)).length + s.heldLanes (exKey pot g d) < 4 →
    Runs (.lineQualify (.lane pot g d ln) errs) s [.lanes] fun t =>
      t.lanes = { s.lanes with held := s.lanes.held ++ [(exKey pot g d, ln.val)] })
  ∧ (∀ s : State, s.mayRecord = true →
    (s.flash.lanesDue = true → Runs .laneRepairRecordWrite s [.flash] fun t =>
      t.flash = { s.flash with lanes := some s.laneRec, lanesDue := false })
    ∧ (s.flash.ageDue = true → Runs .ageingLogWrite s [.flash, .age] fun t => t.age = { s.age with running := false }
      ∧ t.flash = { s.flash with
          age := some ⟨s.age.offset, s.age.need, s.age.lastAt, s.bit 0x2B00 1 5, s.age.log⟩, ageDue := false }))
  ∧ (∀ s : State, (s.age.lastAt + 168 * hourUnits ≤ s.age.units →
      Runs .ageingReplanDue s [.age] fun t => t.age = { s.age with due := true })
    ∧ (s.age.units < s.age.lastAt + 168 * hourUnits → exec .ageingReplanDue s = .next s))
  ∧ (∀ (s : State) (via : Via), s.carries via 0x2B30 1 = true → (s.handed via 0x2B30 1).age.running = false →
    Writes (.agectlGo via) via 0x2B30 1 s [.age] fun u t => t.age = { u.age with due := true })
  ∧ (∀ (s : State) (vmin : List (Option Int)),
    (s.replanReady = true → Runs (.ageingReplan vmin) s [.regs, .link, .can, .power, .flash, .age, .out] fun t =>
      t.age.need = replanNeed vmin ∧ t.age.offset = max (-30) (min 30 (replanNeed vmin)) ∧ t.age.due = false
      ∧ t.age.running = true ∧ t.age.log.tail = s.age.log.take 15 ∧ t.flash = { s.flash with ageDue := true }
      ∧ (45 < replanNeed vmin → t.bit 0x2B00 1 5 = true) ∧ t.dev = s.dev)
    ∧ (s.replanReady = false → exec (.ageingReplan vmin) s = .next s))
  ∧ (∀ (s : State) (via : Via) (value : Word32), s.carries via 0x2C00 1 = true → (value.getLsbD 5 = false ∨
      (s.handed via 0x2C00 1).bit 0x2882 1 0 = false) →
    (value.getLsbD 1 = false → Writes (.snapshotArm via value) via 0x2C00 1 s [.regs, .latches] fun u t =>
      t.bit 0x2C00 1 0 = true ∧ t.bit 0x2C00 3 20 = false ∧ (t.latch (Path.of via)).view = value.getLsbD 6
      ∧ Entries [(0x2C00, 1), (0x2C00, 3)] u t)
    ∧ (value.getLsbD 0 = true → Writes (.snapshotTrigger via value) via 0x2C00 1 s [.regs, .latches, .snap, .out]
        fun u t => Snapped u t .write)
    ∧ (value.getLsbD 0 = false → (s.handed via 0x2C00 1).snap.copying = false →
      Writes (.snapshotTrigger via value) via 0x2C00 1 s [.regs, .latches] fun u t =>
        t.fld 0x2C00 3 31 24 = min 255 (u.fld 0x2C00 3 31 24 + 1)))
  ∧ (∀ s : State, s.spoutOn = true → s.bit 0x2C00 1 0 = true →
    (s.bit 0x2C00 1 2 = true → s.ftReached ((s.reg 0x2C00 2).toNat * nsUnits) = true →
      Runs .snapshotFtMatch s [.regs, .snap, .out] fun t => Snapped s t .ft)
    ∧ (s.bit 0x2C00 1 3 = true → Runs .snapInEdge s [.regs, .snap, .out] fun t => Snapped s t .pin))
  ∧ (∀ s : State, s.spoutOn = true → s.bit 0x2C00 1 0 = false → s.snap.copying = false → s.bit 0x2C00 1 3 = true →
    Runs .snapInEdge s [.regs] fun t => t.fld 0x2C00 3 31 24 = min 255 (s.fld 0x2C00 3 31 24 + 1)
      ∧ Entries [(0x2C00, 3)] s t)
  ∧ (∀ s : State, s.snap.copying = true → s.bring.firmware = true → Runs .snapshotCopyDone s [.regs, .snap] fun t =>
      t.snap = { s.snap with copying := false } ∧ t.bit 0x2C00 3 20 = true ∧ Entries [(0x2C00, 3)] s t)
end

