-- ==== Sys2Proof/Laws/Table.lean ====
section
/-! SUPPORT. Laws of the tables and of byte memory: what a read gives after a write, and that every operation
keeps the canonical form. -/

namespace Sys2Proof.Machine

/-! ### Reading after writing -/

theorem Tbl.get_del_ne {α : Type} (d : α) (t : Tbl α) {k j : Nat} (h : j ≠ k) :
    Tbl.get d (t.del k) j = Tbl.get d t j := by
  induction t with
  | nil => rfl
  | cons e t ih =>
    simp only [Tbl.del] at ih ⊢
    by_cases he : e.1 = k
    · simpa [List.filter, he, Tbl.get, Ne.symm h] using ih
    · simp only [List.filter, ne_eq, he, not_false_eq_true, decide_true, Tbl.get, ih]

theorem Tbl.get_del_self {α : Type} (d : α) (t : Tbl α) (k : Nat) : Tbl.get d (t.del k) k = d := by
  induction t with
  | nil => rfl
  | cons e t ih =>
    simp only [Tbl.del] at ih ⊢
    by_cases he : e.1 = k
    · simpa [List.filter, he] using ih
    · simp only [List.filter, ne_eq, he, not_false_eq_true, decide_true, Tbl.get, ih, if_false]

theorem Tbl.get_insert_self {α : Type} (d : α) (t : Tbl α) (k : Nat) (v : α) (h : ∀ e ∈ t, e.1 ≠ k) :
    Tbl.get d (Tbl.insert k v t) k = v := by
  induction t with
  | nil => simp [Tbl.insert, Tbl.get]
  | cons e t ih =>
    have he : e.1 ≠ k := h e (by simp)
    by_cases hk : k < e.1
    · simp [Tbl.insert, hk, Tbl.get]
    · simp [Tbl.insert, hk, Tbl.get, he, ih fun x hx => h x (by simp [hx])]

theorem Tbl.get_insert_ne {α : Type} (d : α) (t : Tbl α) {k j : Nat} (v : α) (h : j ≠ k) :
    Tbl.get d (Tbl.insert k v t) j = Tbl.get d t j := by
  induction t with
  | nil => simp [Tbl.insert, Tbl.get, Ne.symm h]
  | cons e t ih =>
    by_cases hk : k < e.1
    · simp [Tbl.insert, hk, Tbl.get, Ne.symm h]
    · simp [Tbl.insert, hk, Tbl.get, ih]

theorem Tbl.mem_del {α : Type} {t : Tbl α} {k : Nat} {e : Nat × α} (h : e ∈ t.del k) : e ∈ t ∧ e.1 ≠ k := by
  simpa [Tbl.del] using h

theorem Tbl.get_set_self {α : Type} (d : α) (t : Tbl α) (k : Nat) (v : α) : Tbl.get d (t.set k v) k = v :=
  Tbl.get_insert_self d _ k v fun _ he => (Tbl.mem_del he).2

theorem Tbl.get_set_ne {α : Type} (d : α) (t : Tbl α) {k j : Nat} (v : α) (h : j ≠ k) :
    Tbl.get d (t.set k v) j = Tbl.get d t j := by
  rw [Tbl.set, Tbl.get_insert_ne d _ v h, Tbl.get_del_ne d t h]

/-- A read of the place just written gives the value written. -/
@[simp] theorem Tbl.get_put_self {α : Type} [DecidableEq α] (d : α) (t : Tbl α) (k : Nat) (v : α) :
    Tbl.get d (Tbl.put d t k v) k = v := by
  unfold Tbl.put
  split
  · rw [Tbl.get_del_self]; exact Eq.symm ‹v = d›
  · exact Tbl.get_set_self d t k v

/-- A write leaves every other place alone. -/
theorem Tbl.get_put_ne {α : Type} [DecidableEq α] (d c : α) (t : Tbl α) {k j : Nat} (v : α) (h : j ≠ k) :
    Tbl.get c (Tbl.put d t k v) j = Tbl.get c t j := by
  unfold Tbl.put
  split
  · exact Tbl.get_del_ne c t h
  · exact Tbl.get_set_ne c t v h

/-! ### Canonical form -/

theorem Tbl.rising_iff {α : Type} (t : Tbl α) : Tbl.rising t = true ↔ t.Pairwise fun a b => a.1 < b.1 := by
  induction t with
  | nil => simp [Tbl.rising]
  | cons e t ih => simp [Tbl.rising, ih]

theorem Tbl.mem_insert {α : Type} {t : Tbl α} {k : Nat} {v : α} {e : Nat × α} (h : e ∈ Tbl.insert k v t) :
    e = (k, v) ∨ e ∈ t := by
  induction t with
  | nil => simpa [Tbl.insert] using h
  | cons x t ih =>
    by_cases hk : k < x.1
    · simpa [Tbl.insert, hk] using h
    · simp only [Tbl.insert, hk, if_false, List.mem_cons] at h ⊢
      rcases h with h | h
      · exact .inr (.inl h)
      · exact (ih h).imp_right .inr

theorem Tbl.rising_filter {α : Type} {t : Tbl α} (p : Nat × α → Bool) (h : Tbl.rising t = true) :
    Tbl.rising (t.filter p) = true :=
  (Tbl.rising_iff _).2 (((Tbl.rising_iff _).1 h).filter p)

theorem Tbl.rising_insert {α : Type} {t : Tbl α} {k : Nat} (v : α) (h : Tbl.rising t = true)
    (hk : ∀ e ∈ t, e.1 ≠ k) : Tbl.rising (Tbl.insert k v t) = true := by
  rw [Tbl.rising_iff] at h ⊢
  induction t with
  | nil => simp [Tbl.insert]
  | cons e t ih =>
    obtain ⟨h1, h2⟩ := List.pairwise_cons.1 h
    by_cases hlt : k < e.1
    · simp only [Tbl.insert, hlt, if_true]
      refine List.pairwise_cons.2 ⟨fun x hx => ?_, h⟩
      rcases List.mem_cons.1 hx with rfl | hx
      · exact hlt
      · exact lt_trans hlt (h1 x hx)
    · simp only [Tbl.insert, hlt, if_false]
      refine List.pairwise_cons.2 ⟨fun x hx => ?_, ih h2 fun x hx => hk x (by simp [hx])⟩
      rcases Tbl.mem_insert hx with rfl | hx
      · have := hk e (by simp); simp only; omega
      · exact h1 x hx

/-- Every write keeps the keys rising. -/
theorem Tbl.rising_put {α : Type} [DecidableEq α] (d : α) {t : Tbl α} (k : Nat) (v : α)
    (h : Tbl.rising t = true) : Tbl.rising (Tbl.put d t k v) = true := by
  have hd : Tbl.rising (t.del k) = true := Tbl.rising_filter _ h
  unfold Tbl.put
  split
  · exact hd
  · exact Tbl.rising_insert v hd fun _ he => (Tbl.mem_del he).2

/-- Every write keeps the canonical form. -/
theorem Tbl.wf_put {α : Type} [DecidableEq α] (d : α) {t : Tbl α} (k : Nat) (v : α) (h : Tbl.wf d t = true) :
    Tbl.wf d (Tbl.put d t k v) = true := by
  simp only [Tbl.wf, Bool.and_eq_true, List.all_eq_true, decide_eq_true_eq] at h ⊢
  refine ⟨Tbl.rising_put d k v h.1, fun e he => ?_⟩
  unfold Tbl.put at he
  split at he
  · exact h.2 e (Tbl.mem_del he).1
  · rcases Tbl.mem_insert he with rfl | he
    · assumption
    · exact h.2 e (Tbl.mem_del he).1

/-! ### Bytes -/

@[simp] theorem Mem.byte_setByte_self (m : Mem) (a : Nat) (b : Byte) : Mem.byte (Mem.setByte m a b) a = b :=
  Tbl.get_put_self 0 m a b

theorem Mem.byte_setByte_ne (m : Mem) {a c : Nat} (b : Byte) (h : c ≠ a) :
    Mem.byte (Mem.setByte m a b) c = Mem.byte m c := Tbl.get_put_ne 0 0 m b h

theorem Mem.wf_setByte {m : Mem} (a : Nat) (b : Byte) (h : Mem.wf m = true) : Mem.wf (Mem.setByte m a b) = true :=
  Tbl.wf_put 0 a b h

/-- A store keeps the canonical form. -/
theorem Mem.wf_write {m : Mem} (a : Nat) (bs : List Byte) (h : Mem.wf m = true) :
    Mem.wf (Mem.write m a bs) = true := by
  induction bs generalizing m a with
  | nil => exact h
  | cons b bs ih => exact ih (a + 1) (Mem.wf_setByte a b h)

/-- A store leaves every byte outside it alone. -/
theorem Mem.byte_write_out (m : Mem) (a : Nat) (bs : List Byte) {c : Nat} (h : c < a ∨ a + bs.length ≤ c) :
    Mem.byte (Mem.write m a bs) c = Mem.byte m c := by
  induction bs generalizing m a with
  | nil => rfl
  | cons b bs ih =>
    simp only [List.length_cons] at h
    rw [Mem.write, ih _ _ (by omega), Mem.byte_setByte_ne _ _ (by omega)]

/-- A store puts each byte at its place. -/
theorem Mem.byte_write_in (m : Mem) (a : Nat) (bs : List Byte) {i : Nat} (h : i < bs.length) :
    Mem.byte (Mem.write m a bs) (a + i) = bs[i] := by
  induction bs generalizing m a i with
  | nil => simp at h
  | cons b bs ih =>
    cases i with
    | zero => rw [Mem.write, Mem.byte_write_out _ _ _ (by omega)]; simp
    | succ i =>
      have h' : i < bs.length := by simpa using h
      have := ih (Mem.setByte m a b) (a + 1) h'
      rw [Mem.write, show a + (i + 1) = a + 1 + i by omega, this]; simp

/-! ### Rising lists of numbers -/

theorem mem_insertNat {n : Nat} {l : List Nat} {x : Nat} (h : x ∈ insertNat n l) : x = n ∨ x ∈ l := by
  induction l with
  | nil => simpa [insertNat] using h
  | cons m l ih =>
    by_cases hn : n < m
    · simpa [insertNat, hn] using h
    · simp only [insertNat, hn, if_false, List.mem_cons] at h ⊢
      rcases h with h | h
      · exact .inr (.inl h)
      · exact (ih h).imp_right .inr

theorem insertNat_rising {n : Nat} {l : List Nat} (h : l.Pairwise (· < ·)) (hn : n ∉ l) :
    (insertNat n l).Pairwise (· < ·) := by
  induction l with
  | nil => simp [insertNat]
  | cons m l ih =>
    obtain ⟨h1, h2⟩ := List.pairwise_cons.1 h
    simp only [List.mem_cons, not_or] at hn
    by_cases hlt : n < m
    · simp only [insertNat, hlt, if_true]
      refine List.pairwise_cons.2 ⟨fun x hx => ?_, h⟩
      rcases List.mem_cons.1 hx with rfl | hx
      · exact hlt
      · exact lt_trans hlt (h1 x hx)
    · simp only [insertNat, hlt, if_false]
      refine List.pairwise_cons.2 ⟨fun x hx => ?_, ih h2 hn.2⟩
      rcases mem_insertNat hx with rfl | hx
      · omega
      · exact h1 x hx

/-! ### Entries of the dictionary -/

/-- An entry that has just been written reads as written. -/
@[simp] theorem State.reg_setReg_self (s : State) (idx sub : Nat) (v : Word64) :
    (s.setReg idx sub v).reg idx sub = v := Tbl.get_put_self _ _ _ _

/-- A write of one entry leaves every other entry alone. -/
theorem State.reg_setReg_ne (s : State) {idx sub i j : Nat} (v : Word64) (h : regKey i j ≠ regKey idx sub) :
    (s.setReg idx sub v).reg i j = s.reg i j := Tbl.get_put_ne _ _ _ _ h

end Sys2Proof.Machine
end

