-- ==== Sys2Proof/Laws/Fields.lean ====
section
/-! SUPPORT. Bit fields of an entry: what a field reads after it, or a field apart from it, is written. -/

namespace Sys2Proof.Machine

theorem mask_getLsbD {hi lo : Nat} (i : Nat) (hl : lo ≤ hi + 1) (h64 : hi < 64) :
    (mask hi lo).getLsbD i = decide (lo ≤ i ∧ i ≤ hi) := by
  simp only [mask, BitVec.getLsbD_ofNat, Nat.testBit_mul_two_pow, Nat.testBit_two_pow_sub_one]
  rw [Bool.eq_iff_iff]
  simp
  omega

theorem fieldOf_testBit (w : Word64) (hi lo i : Nat) :
    (fieldOf w hi lo).testBit i = (decide (i < hi + 1 - lo) && w.getLsbD (lo + i)) := by
  simp [fieldOf, Nat.testBit_mod_two_pow, Nat.testBit_div_two_pow, BitVec.getLsbD, Nat.add_comm]

theorem withField_getLsbD (w : Word64) {hi lo : Nat} (v i : Nat) (hl : lo ≤ hi + 1) (h64 : hi < 64) (hi' : i < 64) :
    (withField w hi lo v).getLsbD i =
      if lo ≤ i ∧ i ≤ hi then v.testBit (i - lo) else w.getLsbD i := by
  simp only [withField, BitVec.getLsbD_or, BitVec.getLsbD_and, BitVec.getLsbD_not, mask_getLsbD i hl h64,
    BitVec.getLsbD_ofNat, Nat.testBit_mul_two_pow]
  by_cases h : lo ≤ i ∧ i ≤ hi
  · simp [h, hi']
  · simp [h, hi']

/-- A field reads what was written to it. -/
theorem fieldOf_withField (w : Word64) {hi lo : Nat} (v : Nat) (hl : lo ≤ hi + 1) (h64 : hi < 64) :
    fieldOf (withField w hi lo v) hi lo = v % 2 ^ (hi + 1 - lo) := by
  apply Nat.eq_of_testBit_eq
  intro i
  rw [fieldOf_testBit, Nat.testBit_mod_two_pow]
  by_cases h : i < hi + 1 - lo
  · rw [withField_getLsbD w v _ hl h64 (by omega)]
    simp [show lo + i ≤ hi by omega]
  · simp [h]

/-- A field apart from the one written is unchanged. -/
theorem fieldOf_withField_ne (w : Word64) {hi lo a b : Nat} (v : Nat) (hl : lo ≤ hi + 1) (h64 : hi < 64)
    (ha : a < 64) (h : a < lo ∨ hi < b) : fieldOf (withField w hi lo v) a b = fieldOf w a b := by
  apply Nat.eq_of_testBit_eq
  intro i
  rw [fieldOf_testBit, fieldOf_testBit]
  by_cases hi' : i < a + 1 - b
  · rw [withField_getLsbD w v _ hl h64 (by omega)]
    rw [if_neg (by omega)]
  · simp [hi']

theorem State.fld_setFld_self (s : State) (idx sub : Nat) {hi lo : Nat} (v : Nat) (hl : lo ≤ hi + 1) (h64 : hi < 64) :
    (s.setFld idx sub hi lo v).fld idx sub hi lo = v % 2 ^ (hi + 1 - lo) := by
  simp [State.fld, State.setFld, fieldOf_withField _ _ hl h64]

theorem State.fld_setFld_apart (s : State) (idx sub : Nat) {hi lo a b : Nat} (v : Nat) (hl : lo ≤ hi + 1)
    (h64 : hi < 64) (ha : a < 64) (h : a < lo ∨ hi < b) :
    (s.setFld idx sub hi lo v).fld idx sub a b = s.fld idx sub a b := by
  simp [State.fld, State.setFld, fieldOf_withField_ne _ _ hl h64 ha h]

theorem State.reg_setFld_ne (s : State) {idx sub i j : Nat} (hi lo v : Nat) (h : regKey i j ≠ regKey idx sub) :
    (s.setFld idx sub hi lo v).reg i j = s.reg i j := State.reg_setReg_ne s _ h

theorem State.bit_setBit_self (s : State) (idx sub : Nat) {n : Nat} (b : Bool) (h : n < 64) :
    (s.setBit idx sub n b).bit idx sub n = b := by
  have e : (s.setBit idx sub n b).fld idx sub n n = b.toNat % 2 ^ (n + 1 - n) :=
    State.fld_setFld_self s idx sub b.toNat (by omega) h
  simp only [State.bit, e]
  cases b <;> simp

end Sys2Proof.Machine
end

