-- ==== Sys2Proof/Laws/KeepsShared.lean ====
section
/-! SUPPORT. What the operations of shared operations keep. -/

namespace Sys2Proof.Machine

theorem State.setFld_keeps {C : List Part} (hc : ([.regs] : List Part) ⊆ C) {s₀ s : State} (h : State.Keeps C s₀
    s) (idx sub hi lo v : Nat) : State.Keeps C s₀ (State.setFld s idx sub hi lo v) := by
  unfold State.setFld
  repeat' first
    | with_reducible assumption | with_reducible apply State.Keeps.setReg | exact List.Subset.trans (by decide) hc
    | dsimp only

theorem State.setBit_keeps {C : List Part} (hc : ([.regs] : List Part) ⊆ C) {s₀ s : State} (h : State.Keeps C s₀
    s) (idx sub n : Nat) (b : Bool) : State.Keeps C s₀ (State.setBit s idx sub n b) := by
  unfold State.setBit
  repeat' first
    | with_reducible assumption | with_reducible apply State.setFld_keeps | exact List.Subset.trans (by decide) hc
    | dsimp only

theorem State.count_keeps {C : List Part} (hc : ([.regs] : List Part) ⊆ C) {s₀ s : State} (h : State.Keeps C s₀ s)
    (idx sub : Nat) (n : Nat) : State.Keeps C s₀ (State.count s idx sub n) := by
  unfold State.count
  repeat' first
    | with_reducible assumption | with_reducible apply State.Keeps.setReg | exact List.Subset.trans (by decide) hc
    | dsimp only

theorem State.emit_keeps {C : List Part} (hc : ([.out] : List Part) ⊆ C) {s₀ s : State} (h : State.Keeps C s₀ s)
    (o : Output) : State.Keeps C s₀ (State.emit s o) := by
  unfold State.emit
  repeat' first
    | with_reducible assumption
    | (apply State.Keeps.ofFields; dsimp only; refine State.Keeps.setOut (hc (by decide)) (State.Keeps.toFields ?_))
    | dsimp only

theorem State.poisonedTlp_keeps {C : List Part} (hc : ([.regs, .out] : List Part) ⊆ C) {s₀ s : State} (h :
    State.Keeps C s₀ s) : State.Keeps C s₀ (State.poisonedTlp s) := by
  unfold State.poisonedTlp
  repeat' first
    | with_reducible assumption | with_reducible apply State.count_keeps | with_reducible apply State.emit_keeps
    | exact List.Subset.trans (by decide) hc | dsimp only

theorem State.raise_keeps {C : List Part} (hc : ([.link, .out] : List Part) ⊆ C) {s₀ s : State} (h : State.Keeps C
    s₀ s) (vec : Nat) : State.Keeps C s₀ (State.raise s vec) := by
  unfold State.raise
  repeat' first
    | with_reducible assumption | with_reducible apply State.emit_keeps | exact List.Subset.trans (by decide) hc
    | with_reducible apply State.Keeps.ite | split
    | (apply State.Keeps.ofFields; dsimp only; refine State.Keeps.setLink (hc (by decide)) (State.Keeps.toFields ?_))
    | dsimp only

theorem State.drawFree_keeps {C : List Part} (hc : ([.free] : List Part) ⊆ C) {s₀ s : State} (h : State.Keeps C s₀
    s) : State.Keeps C s₀ (State.drawFree s) := by
  unfold State.drawFree
  repeat' first
    | with_reducible assumption
    | (apply State.Keeps.ofFields; dsimp only; refine State.Keeps.setFree (hc (by decide)) (State.Keeps.toFields ?_))
    | dsimp only

theorem State.emergency_keeps {C : List Part} (hc : ([.regs, .can] : List Part) ⊆ C) {s₀ s : State} (h :
    State.Keeps C s₀ s) (code idx sub bit : Nat) : State.Keeps C s₀ (State.emergency s code idx sub bit) := by
  unfold State.emergency
  repeat' first
    | with_reducible assumption | with_reducible apply State.count_keeps | exact List.Subset.trans (by decide) hc
    | with_reducible apply State.Keeps.ite | split
    | (apply State.Keeps.ofFields; dsimp only; refine State.Keeps.setCan (hc (by decide)) (State.Keeps.toFields ?_))
    | dsimp only

theorem State.unnamedEmergency_keeps {C : List Part} (hc : ([.regs, .can] : List Part) ⊆ C) {s₀ s : State} (h :
    State.Keeps C s₀ s) (code : Nat) : State.Keeps C s₀ (State.unnamedEmergency s code) := by
  unfold State.unnamedEmergency
  repeat' first
    | with_reducible assumption | with_reducible apply State.emergency_keeps
    | exact List.Subset.trans (by decide) hc | dsimp only

theorem State.noteErr_keeps {C : List Part} (hc : ([.regs, .can] : List Part) ⊆ C) {s₀ s : State} (h : State.Keeps
    C s₀ s) : State.Keeps C s₀ (State.noteErr s) := by
  unfold State.noteErr
  repeat' first
    | with_reducible assumption | with_reducible apply State.unnamedEmergency_keeps
    | exact List.Subset.trans (by decide) hc | with_reducible apply State.Keeps.ite | split
    | (apply State.Keeps.ofFields; dsimp only; refine State.Keeps.setCan (hc (by decide)) (State.Keeps.toFields ?_))
    | dsimp only

theorem State.noteClear_keeps {C : List Part} (hc : ([.cleared] : List Part) ⊆ C) {s₀ s : State} (h : State.Keeps
    C s₀ s) (idx sub : Nat) (m : Word64) : State.Keeps C s₀ (State.noteClear s idx sub m) := by
  unfold State.noteClear
  repeat' first
    | with_reducible assumption | with_reducible apply State.Keeps.ite | split | intro _
    | (apply State.Keeps.ofFields; dsimp only; refine State.Keeps.setCleared (hc (by decide)) (State.Keeps.toFields ?_))
    | dsimp only | (apply State.Keeps.pair; (with_reducible assumption))

theorem State.event_keeps {C : List Part} (hc : ([.regs, .link, .can, .out] : List Part) ⊆ C) {s₀ s : State} (h :
    State.Keeps C s₀ s) (idx sub n : Nat) : State.Keeps C s₀ (State.event s idx sub n) := by
  unfold State.event
  repeat' first
    | with_reducible assumption | with_reducible apply State.emergency_keeps
    | with_reducible apply State.noteErr_keeps | with_reducible apply State.raise_keeps
    | with_reducible apply State.setBit_keeps | exact List.Subset.trans (by decide) hc
    | with_reducible apply State.Keeps.ite | split | dsimp only
    | (apply State.Keeps.pair; (with_reducible assumption))

theorem State.raiseExc_keeps {C : List Part} (hc : ([.regs, .seq] : List Part) ⊆ C) {s₀ s : State} (h :
    State.Keeps C s₀ s) (job : Option Nat) (e : Exc) : State.Keeps C s₀ (State.raiseExc s job e) := by
  unfold State.raiseExc
  repeat' first
    | with_reducible assumption | with_reducible apply State.Keeps.setReg | exact List.Subset.trans (by decide) hc
    | with_reducible apply State.Keeps.ite | split | intro _
    | (apply State.Keeps.ofFields; dsimp only; refine State.Keeps.setSeq (hc (by decide)) (State.Keeps.toFields ?_))
    | dsimp only | (apply State.Keeps.pair; (with_reducible assumption))

theorem State.setCluster_keeps {C : List Part} (hc : ([.clusters] : List Part) ⊆ C) {s₀ s : State} (h :
    State.Keeps C s₀ s) (c : Nat) (x : Cluster) : State.Keeps C s₀ (State.setCluster s c x) := by
  unfold State.setCluster
  repeat' first
    | with_reducible assumption
    | (apply State.Keeps.ofFields; dsimp only; refine State.Keeps.setClusters (hc (by decide)) (State.Keeps.toFields ?_))
    | dsimp only

theorem State.setEngine_keeps {C : List Part} (hc : ([.clusters] : List Part) ⊆ C) {s₀ s : State} (h : State.Keeps
    C s₀ s) (c : Nat) (e : Engine) : State.Keeps C s₀ (State.setEngine s c e) := by
  unfold State.setEngine
  repeat' first
    | with_reducible assumption | with_reducible apply State.setCluster_keeps
    | exact List.Subset.trans (by decide) hc | dsimp only

theorem State.setTg_keeps {C : List Part} (hc : ([.clusters] : List Part) ⊆ C) {s₀ s : State} (h : State.Keeps C
    s₀ s) (c : Nat) (t : Tg) : State.Keeps C s₀ (State.setTg s c t) := by
  unfold State.setTg
  repeat' first
    | with_reducible assumption | with_reducible apply State.setCluster_keeps
    | exact List.Subset.trans (by decide) hc | dsimp only

theorem State.updJob_keeps {C : List Part} (hc : ([.seq] : List Part) ⊆ C) {s₀ s : State} (h : State.Keeps C s₀ s)
    (id : Nat) (f : Job → Job) : State.Keeps C s₀ (State.updJob s id f) := by
  unfold State.updJob
  repeat' first
    | with_reducible assumption | with_reducible apply State.Keeps.ite | split | intro _
    | (apply State.Keeps.ofFields; dsimp only; refine State.Keeps.setSeq (hc (by decide)) (State.Keeps.toFields ?_))
    | dsimp only

theorem State.snapLatch_keeps {C : List Part} (hc : ([.regs, .snap, .out] : List Part) ⊆ C) {s₀ s : State} (h :
    State.Keeps C s₀ s) (src : SnapSrc) : State.Keeps C s₀ (State.snapLatch s src) := by
  unfold State.snapLatch
  repeat' first
    | with_reducible assumption | with_reducible apply State.Keeps.setReg | with_reducible apply State.emit_keeps
    | with_reducible apply State.setBit_keeps | exact List.Subset.trans (by decide) hc
    | (with_reducible apply State.Keeps.foldl; intros) | with_reducible apply State.Keeps.ite | split | intro _
    | (apply State.Keeps.ofFields; dsimp only; refine State.Keeps.setSnap (hc (by decide)) (State.Keeps.toFields ?_))
    | dsimp only

theorem State.snapTrigger_keeps {C : List Part} (hc : ([.regs, .snap, .out] : List Part) ⊆ C) {s₀ s : State} (h :
    State.Keeps C s₀ s) (src : SnapSrc) : State.Keeps C s₀ (State.snapTrigger s src) := by
  unfold State.snapTrigger
  repeat' first
    | with_reducible assumption | with_reducible apply State.setBit_keeps | with_reducible apply State.setFld_keeps
    | with_reducible apply State.snapLatch_keeps | exact List.Subset.trans (by decide) hc
    | with_reducible apply State.Keeps.ite | split | dsimp only

theorem State.snapFault_keeps {C : List Part} (hc : ([.regs, .snap, .out] : List Part) ⊆ C) {s₀ s : State} (h :
    State.Keeps C s₀ s) : State.Keeps C s₀ (State.snapFault s) := by
  unfold State.snapFault
  repeat' first
    | with_reducible assumption | with_reducible apply State.snapTrigger_keeps
    | exact List.Subset.trans (by decide) hc | with_reducible apply State.Keeps.ite | split | dsimp only

theorem State.intEvent_keeps {C : List Part} (hc : ([.regs, .link, .can, .snap, .out] : List Part) ⊆ C) {s₀ s :
    State} (h : State.Keeps C s₀ s) (n : Nat) : State.Keeps C s₀ (State.intEvent s n) := by
  unfold State.intEvent
  repeat' first
    | with_reducible assumption | with_reducible apply State.event_keeps
    | with_reducible apply State.snapFault_keeps | exact List.Subset.trans (by decide) hc | dsimp only

theorem State.logUe_keeps {C : List Part} (hc : ([.regs, .link, .can, .snap, .out] : List Part) ⊆ C) {s₀ s :
    State} (h : State.Keeps C s₀ s) (die loc bit : Nat) : State.Keeps C s₀ (State.logUe s die loc bit) := by
  unfold State.logUe
  repeat' first
    | with_reducible assumption | with_reducible apply State.Keeps.setReg
    | with_reducible apply State.intEvent_keeps | exact List.Subset.trans (by decide) hc
    | with_reducible apply State.Keeps.ite | split | dsimp only

theorem State.ceUpdate_keeps {C : List Part} (hc : ([.regs] : List Part) ⊆ C) {s₀ s : State} (h : State.Keeps C s₀
    s) (die loc : Nat) (twoBit : Bool) : State.Keeps C s₀ (State.ceUpdate s die loc twoBit) := by
  unfold State.ceUpdate
  repeat' first
    | with_reducible assumption | with_reducible apply State.Keeps.setReg | with_reducible apply State.count_keeps
    | exact List.Subset.trans (by decide) hc | with_reducible apply State.Keeps.ite | split | intro _ | dsimp only
    | (apply State.Keeps.pair; (with_reducible assumption))

theorem State.corrected_keeps {C : List Part} (hc : ([.regs] : List Part) ⊆ C) {s₀ s : State} (h : State.Keeps C
    s₀ s) (die loc : Nat) (twoBit : Bool) : State.Keeps C s₀ (State.corrected s die loc twoBit) := by
  unfold State.corrected
  repeat' first
    | with_reducible assumption | with_reducible apply State.ceUpdate_keeps | with_reducible apply State.count_keeps
    | exact List.Subset.trans (by decide) hc | with_reducible apply State.Keeps.ite | split | dsimp only

theorem State.addFixup_keeps {C : List Part} (hc : ([.caddy] : List Part) ⊆ C) {s₀ s : State} (h : State.Keeps C
    s₀ s) : State.Keeps C s₀ (State.addFixup s) := by
  unfold State.addFixup
  repeat' first
    | with_reducible assumption
    | (apply State.Keeps.ofFields; dsimp only; refine State.Keeps.setCaddy (hc (by decide)) (State.Keeps.toFields ?_))
    | dsimp only

theorem State.sramWord_keeps {C : List Part} (hc : ([.regs, .caddy, .link, .can, .snap, .out] : List Part) ⊆ C)
    {s₀ s : State} (h : State.Keeps C s₀ s) (die word bits : Nat) (lose : State → State) (hlose : ∀ {u : State}
    (a0 : State), State.Keeps C u a0 → State.Keeps C u (lose a0)) : State.Keeps C s₀ (State.sramWord s die word
    bits lose) := by
  unfold State.sramWord
  repeat' first
    | with_reducible assumption | with_reducible apply hlose | with_reducible apply State.addFixup_keeps
    | with_reducible apply State.corrected_keeps | with_reducible apply State.count_keeps
    | with_reducible apply State.logUe_keeps | exact List.Subset.trans (by decide) hc
    | with_reducible apply State.Keeps.ite | split | intro _ | dsimp only

theorem State.consumed_keeps {C : List Part} (hc : ([.regs] : List Part) ⊆ C) {s₀ s : State} (h : State.Keeps C s₀
    s) (die n : Nat) : State.Keeps C s₀ (State.consumed s die n) := by
  unfold State.consumed
  repeat' first
    | with_reducible assumption | with_reducible apply State.count_keeps | exact List.Subset.trans (by decide) hc
    | with_reducible apply State.Keeps.ite | split | dsimp only

theorem State.ralu_keeps {C : List Part} (hc : ([.regs, .link, .can, .out] : List Part) ⊆ C) {s₀ s : State} (h :
    State.Keeps C s₀ s) (caddy pa src : Nat) : State.Keeps C s₀ (State.ralu s caddy pa src) := by
  unfold State.ralu
  repeat' first
    | with_reducible assumption | with_reducible apply State.Keeps.setReg | with_reducible apply State.event_keeps
    | exact List.Subset.trans (by decide) hc | with_reducible apply State.Keeps.ite | split | dsimp only

theorem State.thrash_keeps {C : List Part} (hc : ([.regs, .link, .can, .out] : List Part) ⊆ C) {s₀ s : State} (h :
    State.Keeps C s₀ s) (caddy slice count : Nat) : State.Keeps C s₀ (State.thrash s caddy slice count) := by
  unfold State.thrash
  repeat' first
    | with_reducible assumption | with_reducible apply State.Keeps.setReg | with_reducible apply State.count_keeps
    | with_reducible apply State.event_keeps | exact List.Subset.trans (by decide) hc
    | with_reducible apply State.Keeps.ite | split | dsimp only

theorem State.setLine_keeps {C : List Part} (hc : ([.caddy] : List Part) ⊆ C) {s₀ s : State} (h : State.Keeps C s₀
    s) (key : Nat) (l : Line) : State.Keeps C s₀ (State.setLine s key l) := by
  unfold State.setLine
  repeat' first
    | with_reducible assumption
    | (apply State.Keeps.ofFields; dsimp only; refine State.Keeps.setCaddy (hc (by decide)) (State.Keeps.toFields ?_))
    | dsimp only

theorem State.hbmPut_keeps {C : List Part} (hc : ([.hbm] : List Part) ⊆ C) {s₀ s : State} (h : State.Keeps C s₀ s)
    (sec : Nat) (v : BitVec 256) (poison : Bool) : State.Keeps C s₀ (State.hbmPut s sec v poison) := by
  unfold State.hbmPut
  split
  · exact h
  · refine State.Keeps.ofFields (State.Keeps.setHbmMem (hc (by decide)) h.toFields fun k => ?_)
    refine ⟨Mem.wf_write _ _ k.1, ?_⟩
    have hp := k.2.filter fun x => decide (x ≠ s.cellOf sec / 32)
    cases poison
    · exact hp
    · exact insertNat_rising hp (by simp)

theorem State.hbmEnqueue_keeps {C : List Part} (hc : ([.hbm, .reqs] : List Part) ⊆ C) {s₀ s : State} (h :
    State.Keeps C s₀ s) (q : HbmReq) : State.Keeps C s₀ (State.hbmEnqueue s q) := by
  unfold State.hbmEnqueue
  repeat' first
    | with_reducible assumption
    | (apply State.Keeps.ofFields; dsimp only; refine State.Keeps.setHbm (hc (by decide)) (State.Keeps.setNextReq (hc (by decide)) (State.Keeps.toFields ?_)) rfl rfl)
    | dsimp only

theorem State.hbmWrite_keeps {C : List Part} (hc : ([.hbm, .reqs] : List Part) ⊆ C) {s₀ s : State} (h :
    State.Keeps C s₀ s) (nc : Fin 7) (sec : Nat) (v : BitVec 256) (mask : BitVec 32) (poison : Bool) : State.Keeps
    C s₀ (State.hbmWrite s nc sec v mask poison) := by
  unfold State.hbmWrite
  repeat' first
    | with_reducible assumption | with_reducible apply State.hbmEnqueue_keeps
    | exact List.Subset.trans (by decide) hc | dsimp only

theorem State.hbmRead_keeps {C : List Part} (hc : ([.regs, .hbm, .reqs] : List Part) ⊆ C) {s₀ s : State} (h :
    State.Keeps C s₀ s) (nc : Fin 7) (sec : Nat) (deadline : Option (BitVec 24)) (prefetch noAlloc : Bool) :
    State.Keeps C s₀ (State.hbmRead s nc sec deadline prefetch noAlloc) := by
  unfold State.hbmRead
  repeat' first
    | with_reducible assumption | with_reducible apply State.count_keeps
    | with_reducible apply State.hbmEnqueue_keeps | exact List.Subset.trans (by decide) hc
    | with_reducible apply State.Keeps.ite | split | dsimp only

theorem State.countSaucer_keeps {C : List Part} (hc : ([.regs] : List Part) ⊆ C) {s₀ s : State} (h : State.Keeps C
    s₀ s) (cad : Nat) : State.Keeps C s₀ (State.countSaucer s cad) := by
  unfold State.countSaucer
  repeat' first
    | with_reducible assumption | with_reducible apply State.count_keeps | exact List.Subset.trans (by decide) hc
    | dsimp only

theorem State.setMon_keeps {C : List Part} (hc : ([.caddy] : List Part) ⊆ C) {s₀ s : State} (h : State.Keeps C s₀
    s) (k : Nat) (m : SliceMon) : State.Keeps C s₀ (State.setMon s k m) := by
  unfold State.setMon
  repeat' first
    | with_reducible assumption
    | (apply State.Keeps.ofFields; dsimp only; refine State.Keeps.setCaddy (hc (by decide)) (State.Keeps.toFields ?_))
    | dsimp only

theorem State.writeBack_keeps {C : List Part} (hc : ([.regs, .caddy, .hbm, .reqs] : List Part) ⊆ C) {s₀ s : State}
    (h : State.Keeps C s₀ s) (key : Nat) (nc : Fin 7) : State.Keeps C s₀ (State.writeBack s key nc) := by
  unfold State.writeBack
  repeat' first
    | with_reducible assumption | with_reducible apply State.count_keeps | with_reducible apply State.hbmWrite_keeps
    | with_reducible apply State.setLine_keeps | exact List.Subset.trans (by decide) hc
    | (with_reducible apply State.Keeps.foldl; intros) | with_reducible apply State.Keeps.ite | split | intro _
    | dsimp only

theorem State.evict_keeps {C : List Part} (hc : ([.regs, .caddy, .hbm, .reqs] : List Part) ⊆ C) {s₀ s : State} (h
    : State.Keeps C s₀ s) (key : Nat) (nc : Fin 7) : State.Keeps C s₀ (State.evict s key nc) := by
  unfold State.evict
  repeat' first
    | with_reducible assumption | with_reducible apply State.count_keeps | with_reducible apply State.setLine_keeps
    | with_reducible apply State.setMon_keeps | with_reducible apply State.writeBack_keeps
    | exact List.Subset.trans (by decide) hc | with_reducible apply State.Keeps.ite | split | dsimp only

theorem State.noteRefetch_keeps {C : List Part} (hc : ([.regs, .caddy] : List Part) ⊆ C) {s₀ s : State} (h :
    State.Keeps C s₀ s) (pa : Nat) : State.Keeps C s₀ (State.noteRefetch s pa) := by
  unfold State.noteRefetch
  repeat' first
    | with_reducible assumption | with_reducible apply State.count_keeps | with_reducible apply State.setMon_keeps
    | exact List.Subset.trans (by decide) hc | with_reducible apply State.Keeps.ite | split | dsimp only

theorem State.allocate_keeps {C : List Part} (hc : ([.regs, .caddy, .hbm, .reqs, .link, .can, .out] : List Part) ⊆
    C) {s₀ s : State} (h : State.Keeps C s₀ s) (pa : Nat) (nc : Fin 7) : State.Keeps C s₀ (State.allocate s pa
    nc).1 := by
  unfold State.allocate
  repeat' first
    | with_reducible assumption | with_reducible apply State.event_keeps | with_reducible apply State.evict_keeps
    | with_reducible apply State.noteRefetch_keeps | with_reducible apply State.setLine_keeps
    | exact List.Subset.trans (by decide) hc | (with_reducible apply State.Keeps.foldl; intros)
    | (with_reducible apply State.Keeps.foldlFst; intros) | with_reducible apply State.Keeps.ite
    | with_reducible apply State.Keeps.iteFst | split | intro _ | dsimp only
    | (apply State.Keeps.pair; (with_reducible assumption))

theorem State.wayOf_keeps {C : List Part} (hc : ([.regs, .caddy, .hbm, .reqs, .link, .can, .out] : List Part) ⊆ C)
    {s₀ s : State} (h : State.Keeps C s₀ s) (pa : Nat) (nc : Fin 7) : State.Keeps C s₀ (State.wayOf s pa nc).1 := by
  unfold State.wayOf
  repeat' first
    | with_reducible assumption | with_reducible apply State.allocate_keeps | exact List.Subset.trans (by decide) hc
    | split | dsimp only | (apply State.Keeps.pair; (with_reducible assumption))

theorem State.fillSector_keeps {C : List Part} (hc : ([.regs, .caddy, .hbm, .reqs, .link, .can, .out] : List Part)
    ⊆ C) {s₀ s : State} (h : State.Keeps C s₀ s) (sec : Nat) (v : BitVec 256) (poison : Bool) (nc : Fin 7) :
    State.Keeps C s₀ (State.fillSector s sec v poison nc) := by
  unfold State.fillSector
  repeat' first
    | with_reducible assumption | with_reducible apply State.setLine_keeps | with_reducible apply State.wayOf_keeps
    | exact List.Subset.trans (by decide) hc | with_reducible apply State.Keeps.ite | split | dsimp only
    | (apply State.Keeps.pair; (with_reducible assumption))

theorem State.touch_keeps {C : List Part} (hc : ([.caddy] : List Part) ⊆ C) {s₀ s : State} (h : State.Keeps C s₀
    s) (pa : Nat) : State.Keeps C s₀ (State.touch s pa) := by
  unfold State.touch
  repeat' first
    | with_reducible assumption | with_reducible apply State.setLine_keeps | exact List.Subset.trans (by decide) hc
    | split | dsimp only | (apply State.Keeps.pair; (with_reducible assumption))

theorem State.setGuard_keeps {C : List Part} (hc : ([.caddy] : List Part) ⊆ C) {s₀ s : State} (h : State.Keeps C
    s₀ s) (cad : Nat) (g : List Nat) : State.Keeps C s₀ (State.setGuard s cad g) := by
  unfold State.setGuard
  repeat' first
    | with_reducible assumption | with_reducible apply State.Keeps.ite | split
    | (apply State.Keeps.ofFields; dsimp only; refine State.Keeps.setCaddy (hc (by decide)) (State.Keeps.toFields ?_))
    | dsimp only

theorem State.guardEnter_keeps {C : List Part} (hc : ([.caddy] : List Part) ⊆ C) {s₀ s : State} (h : State.Keeps C
    s₀ s) (pa : Nat) : State.Keeps C s₀ (State.guardEnter s pa) := by
  unfold State.guardEnter
  repeat' first
    | with_reducible assumption | with_reducible apply State.setGuard_keeps | exact List.Subset.trans (by decide) hc
    | with_reducible apply State.Keeps.ite | split | dsimp only

theorem State.guardLeave_keeps {C : List Part} (hc : ([.caddy] : List Part) ⊆ C) {s₀ s : State} (h : State.Keeps C
    s₀ s) (pa : Nat) : State.Keeps C s₀ (State.guardLeave s pa) := by
  unfold State.guardLeave
  repeat' first
    | with_reducible assumption | with_reducible apply State.setGuard_keeps | exact List.Subset.trans (by decide) hc
    | dsimp only

theorem State.guardHit_keeps {C : List Part} (hc : ([.regs, .caddy, .link, .can, .out] : List Part) ⊆ C) {s₀ s :
    State} (h : State.Keeps C s₀ s) (pa : Nat) (m : Master) (marked : Bool) : State.Keeps C s₀ (State.guardHit s
    pa m marked) := by
  unfold State.guardHit
  repeat' first
    | with_reducible assumption | with_reducible apply State.count_keeps
    | with_reducible apply State.guardEnter_keeps | with_reducible apply State.ralu_keeps
    | exact List.Subset.trans (by decide) hc | with_reducible apply State.Keeps.ite | split | dsimp only

theorem State.dropLine_keeps {C : List Part} (hc : ([.regs, .caddy] : List Part) ⊆ C) {s₀ s : State} (h :
    State.Keeps C s₀ s) (pa : Nat) : State.Keeps C s₀ (State.dropLine s pa) := by
  unfold State.dropLine
  repeat' first
    | with_reducible assumption | with_reducible apply State.count_keeps
    | with_reducible apply State.guardEnter_keeps | with_reducible apply State.setLine_keeps
    | exact List.Subset.trans (by decide) hc | split | dsimp only
    | (apply State.Keeps.pair; (with_reducible assumption))

theorem State.countConsumed_keeps {C : List Part} (hc : ([.regs] : List Part) ⊆ C) {s₀ s : State} (h : State.Keeps
    C s₀ s) (cad n : Nat) : State.Keeps C s₀ (State.countConsumed s cad n) := by
  unfold State.countConsumed
  repeat' first
    | with_reducible assumption | with_reducible apply State.consumed_keeps | exact List.Subset.trans (by decide) hc
    | dsimp only

theorem State.writeSectorIn_keeps {C : List Part} (hc : ([.regs, .caddy, .hbm, .reqs, .link, .can, .out] : List
    Part) ⊆ C) {s₀ s : State} (h : State.Keeps C s₀ s) (sec lo : Nat) (bs : List Byte) (pois : Bool) (nc : Fin 7)
    : State.Keeps C s₀ (State.writeSectorIn s sec lo bs pois nc) := by
  unfold State.writeSectorIn
  repeat' first
    | with_reducible assumption | with_reducible apply State.count_keeps | with_reducible apply State.setLine_keeps
    | with_reducible apply State.wayOf_keeps | exact List.Subset.trans (by decide) hc | split | dsimp only
    | (apply State.Keeps.pair; (with_reducible assumption))

theorem State.writeLine_keeps {C : List Part} (hc : ([.regs, .caddy, .hbm, .reqs, .link, .can, .out] : List Part)
    ⊆ C) {s₀ s : State} (h : State.Keeps C s₀ s) (pa : Nat) (bs : List Byte) (pois : Nat → Bool) (alloc : Bool) (m
    : Master) : State.Keeps C s₀ (State.writeLine s pa bs pois alloc m) := by
  unfold State.writeLine
  repeat' first
    | with_reducible assumption | with_reducible apply State.count_keeps
    | with_reducible apply State.guardLeave_keeps | with_reducible apply State.hbmWrite_keeps
    | with_reducible apply State.touch_keeps | with_reducible apply State.writeSectorIn_keeps
    | exact List.Subset.trans (by decide) hc | (with_reducible apply State.Keeps.foldl; intros)
    | with_reducible apply State.Keeps.ite | split | intro _ | dsimp only

theorem State.hbmAtomic_keeps {C : List Part} (hc : ([.regs, .caddy, .hbm, .reqs, .link, .can, .out] : List Part)
    ⊆ C) {s₀ s : State} (h : State.Keeps C s₀ s) (pa : Nat) (op : AtomOp) (ty : AtomTy) (xs : List (Word64 ×
    Word64)) (m : Master) (opBad : Bool) : State.Keeps C s₀ (State.hbmAtomic s pa op ty xs m opBad).st := by
  unfold State.hbmAtomic
  repeat' first
    | with_reducible assumption | with_reducible apply State.countConsumed_keeps
    | with_reducible apply State.count_keeps | with_reducible apply State.guardHit_keeps
    | with_reducible apply State.touch_keeps | with_reducible apply State.writeSectorIn_keeps
    | exact List.Subset.trans (by decide) hc | with_reducible apply State.Keeps.ite | split | intro _ | dsimp only
    | (apply State.Keeps.pair; (with_reducible assumption))

theorem State.setPort_keeps {C : List Part} (hc : ([.fabric] : List Part) ⊆ C) {s₀ s : State} (h : State.Keeps C
    s₀ s) (i : Nat) (p : PortRun) : State.Keeps C s₀ (State.setPort s i p) := by
  unfold State.setPort
  repeat' first
    | with_reducible assumption
    | (apply State.Keeps.ofFields; dsimp only; refine State.Keeps.setFabric (hc (by decide)) (State.Keeps.toFields ?_))
    | dsimp only

theorem State.countDiscard_keeps {C : List Part} (hc : ([.regs] : List Part) ⊆ C) {s₀ s : State} (h : State.Keeps
    C s₀ s) (i n : Nat) : State.Keeps C s₀ (State.countDiscard s i n) := by
  unfold State.countDiscard
  repeat' first
    | with_reducible assumption | with_reducible apply State.count_keeps | exact List.Subset.trans (by decide) hc
    | with_reducible apply State.Keeps.ite | split | dsimp only

theorem State.heard_keeps {C : List Part} (hc : ([.regs] : List Part) ⊆ C) {s₀ s : State} (h : State.Keeps C s₀ s)
    (i bytes : Nat) : State.Keeps C s₀ (State.heard s i bytes) := by
  unfold State.heard
  repeat' first
    | with_reducible assumption | with_reducible apply State.count_keeps | exact List.Subset.trans (by decide) hc
    | dsimp only

theorem State.refuseFrame_keeps {C : List Part} (hc : ([.regs] : List Part) ⊆ C) {s₀ s : State} (h : State.Keeps C
    s₀ s) (i : Nat) : State.Keeps C s₀ (State.refuseFrame s i) := by
  unfold State.refuseFrame
  repeat' first
    | with_reducible assumption | with_reducible apply State.countDiscard_keeps
    | exact List.Subset.trans (by decide) hc | dsimp only

theorem State.setPortState_keeps {C : List Part} (hc : ([.regs, .fabric, .link, .can, .out] : List Part) ⊆ C) {s₀
    s : State} (h : State.Keeps C s₀ s) (i st : Nat) : State.Keeps C s₀ (State.setPortState s i st) := by
  unfold State.setPortState
  repeat' first
    | with_reducible assumption | with_reducible apply State.event_keeps | with_reducible apply State.setFld_keeps
    | exact List.Subset.trans (by decide) hc | with_reducible apply State.Keeps.ite | split
    | (apply State.Keeps.ofFields; dsimp only; refine State.Keeps.setFabric (hc (by decide)) (State.Keeps.toFields ?_))
    | dsimp only | (apply State.Keeps.pair; (with_reducible assumption))

theorem State.ingressIn_keeps {C : List Part} (hc : ([.fabric] : List Part) ⊆ C) {s₀ s : State} (h : State.Keeps C
    s₀ s) (a v bytes : Nat) : State.Keeps C s₀ (State.ingressIn s a v bytes) := by
  unfold State.ingressIn
  repeat' first
    | with_reducible assumption | with_reducible apply State.setPort_keeps | exact List.Subset.trans (by decide) hc
    | dsimp only

theorem State.ingressOut_keeps {C : List Part} (hc : ([.fabric] : List Part) ⊆ C) {s₀ s : State} (h : State.Keeps
    C s₀ s) (a v bytes : Nat) : State.Keeps C s₀ (State.ingressOut s a v bytes) := by
  unfold State.ingressOut
  repeat' first
    | with_reducible assumption | with_reducible apply State.setPort_keeps | exact List.Subset.trans (by decide) hc
    | with_reducible apply State.Keeps.ite | split | dsimp only

theorem State.release_keeps {C : List Part} (hc : ([.fabric] : List Part) ⊆ C) {s₀ s : State} (h : State.Keeps C
    s₀ s) (q : EgItem) : State.Keeps C s₀ (State.release s q) := by
  unfold State.release
  repeat' first
    | with_reducible assumption | with_reducible apply State.ingressOut_keeps
    | exact List.Subset.trans (by decide) hc | split | dsimp only
    | (apply State.Keeps.pair; (with_reducible assumption))

theorem State.linkDown_keeps {C : List Part} (hc : ([.regs, .fabric, .link, .can, .snap, .out] : List Part) ⊆ C)
    {s₀ s : State} (h : State.Keeps C s₀ s) (i : Nat) (st : Nat) : State.Keeps C s₀ (State.linkDown s i st) := by
  unfold State.linkDown
  repeat' first
    | with_reducible assumption | with_reducible apply State.countDiscard_keeps
    | with_reducible apply State.event_keeps | with_reducible apply State.release_keeps
    | with_reducible apply State.setPortState_keeps | with_reducible apply State.setPort_keeps
    | with_reducible apply State.snapFault_keeps | exact List.Subset.trans (by decide) hc
    | (with_reducible apply State.Keeps.foldl; intros) | with_reducible apply State.Keeps.ite | split | intro _
    | dsimp only | (apply State.Keeps.pair; (with_reducible assumption))

theorem State.writeRt_keeps {C : List Part} (hc : ([.fabric] : List Part) ⊆ C) {s₀ s : State} (h : State.Keeps C
    s₀ s) (i : Nat) (v : Word32) : State.Keeps C s₀ (State.writeRt s i v) := by
  unfold State.writeRt
  repeat' first
    | with_reducible assumption | with_reducible apply State.Keeps.ite | split | intro _
    | (apply State.Keeps.ofFields; dsimp only; refine State.Keeps.setFabric (hc (by decide)) (State.Keeps.toFields ?_))
    | dsimp only

theorem State.enqueue_keeps {C : List Part} (hc : ([.regs, .fabric] : List Part) ⊆ C) {s₀ s : State} (h :
    State.Keeps C s₀ s) (i : Nat) (q : EgItem) : State.Keeps C s₀ (State.enqueue s i q) := by
  unfold State.enqueue
  repeat' first
    | with_reducible assumption | with_reducible apply State.countDiscard_keeps
    | with_reducible apply State.setPort_keeps | exact List.Subset.trans (by decide) hc
    | with_reducible apply State.Keeps.ite | split | dsimp only

theorem State.egressPacket_keeps {C : List Part} (hc : ([.regs, .fabric] : List Part) ⊆ C) {s₀ s : State} (h :
    State.Keeps C s₀ s) (f : MFrame) (arrived : Option Nat) (out : Nat) (stomp : Bool) : State.Keeps C s₀
    (State.egressPacket s f arrived out stomp) := by
  unfold State.egressPacket
  repeat' first
    | with_reducible assumption | with_reducible apply State.countDiscard_keeps
    | with_reducible apply State.count_keeps | with_reducible apply State.enqueue_keeps
    | exact List.Subset.trans (by decide) hc | with_reducible apply State.Keeps.ite | split | intro _ | dsimp only

theorem State.noRoute_keeps {C : List Part} (hc : ([.regs, .link, .can, .out] : List Part) ⊆ C) {s₀ s : State} (h
    : State.Keeps C s₀ s) (arrived : Option Nat) : State.Keeps C s₀ (State.noRoute s arrived) := by
  unfold State.noRoute
  repeat' first
    | with_reducible assumption | with_reducible apply State.count_keeps | with_reducible apply State.event_keeps
    | exact List.Subset.trans (by decide) hc | split | dsimp only
    | (apply State.Keeps.pair; (with_reducible assumption))

theorem State.forward_keeps {C : List Part} (hc : ([.regs, .fabric, .link, .can, .out] : List Part) ⊆ C) {s₀ s :
    State} (h : State.Keeps C s₀ s) (f : MFrame) (arrived : Option Nat) (stomp : Bool) : State.Keeps C s₀
    (State.forward s f arrived stomp) := by
  unfold State.forward
  repeat' first
    | with_reducible assumption | with_reducible apply State.count_keeps
    | with_reducible apply State.egressPacket_keeps | with_reducible apply State.noRoute_keeps
    | exact List.Subset.trans (by decide) hc | with_reducible apply State.Keeps.ite | split
    | (apply State.Keeps.ofFields; dsimp only; refine State.Keeps.setFabric (hc (by decide)) (State.Keeps.toFields ?_))
    | dsimp only | (apply State.Keeps.pair; (with_reducible assumption))

theorem State.setConn_keeps {C : List Part} (hc : ([.fabric] : List Part) ⊆ C) {s₀ s : State} (h : State.Keeps C
    s₀ s) (node cls : Nat) (c : Conn) : State.Keeps C s₀ (State.setConn s node cls c) := by
  unfold State.setConn
  repeat' first
    | with_reducible assumption
    | (apply State.Keeps.ofFields; dsimp only; refine State.Keeps.setFabric (hc (by decide)) (State.Keeps.toFields ?_))
    | dsimp only

theorem State.pump_keeps {C : List Part} (hc : ([.regs, .fabric, .link, .can, .out] : List Part) ⊆ C) (y0 : Nat)
    (y1 : Nat) (y2 : Nat) {s₀ y3 : State} (h : State.Keeps C s₀ y3) : State.Keeps C s₀ (State.pump y0 y1 y2 y3) := by
  induction y0 generalizing y3 with
  | zero => exact h
  | succ n ih =>
    unfold State.pump
    dsimp only
    split
    · exact h
    · split
      · exact h
      · exact ih (State.forward_keeps (List.Subset.trans (by decide) hc) (State.count_keeps (List.Subset.trans (by decide) hc) (State.setConn_keeps (List.Subset.trans (by decide) hc) h _ _ _) _ _ _) _ _ _)

theorem State.pumpAll_keeps {C : List Part} (hc : ([.regs, .fabric, .link, .can, .out] : List Part) ⊆ C) {s₀ s :
    State} (h : State.Keeps C s₀ s) : State.Keeps C s₀ (State.pumpAll s) := by
  unfold State.pumpAll
  repeat' first
    | with_reducible assumption | with_reducible apply State.pump_keeps | exact List.Subset.trans (by decide) hc
    | (with_reducible apply State.Keeps.foldl; intros) | with_reducible apply State.Keeps.ite | split | intro _
    | dsimp only

theorem State.send_keeps {C : List Part} (hc : ([.regs, .fabric, .link, .can, .out] : List Part) ⊆ C) {s₀ s :
    State} (h : State.Keeps C s₀ s) (node : Nat) (f : MFrame) : State.Keeps C s₀ (State.send s node f) := by
  unfold State.send
  repeat' first
    | with_reducible assumption | with_reducible apply State.pump_keeps | with_reducible apply State.setConn_keeps
    | exact List.Subset.trans (by decide) hc | with_reducible apply State.Keeps.ite | split | intro _ | dsimp only

theorem State.updReq_keeps {C : List Part} (hc : ([.reqs] : List Part) ⊆ C) {s₀ s : State} (h : State.Keeps C s₀
    s) (id : Nat) (f : Req → Req) : State.Keeps C s₀ (State.updReq s id f) := by
  unfold State.updReq
  repeat' first
    | with_reducible assumption | with_reducible apply State.Keeps.ite | split | intro _
    | (apply State.Keeps.ofFields; dsimp only; refine State.Keeps.setReqs (hc (by decide)) (State.Keeps.toFields ?_))
    | dsimp only

theorem State.dropReq_keeps {C : List Part} (hc : ([.reqs] : List Part) ⊆ C) {s₀ s : State} (h : State.Keeps C s₀
    s) (id : Nat) : State.Keeps C s₀ (State.dropReq s id) := by
  unfold State.dropReq
  repeat' first
    | with_reducible assumption | intro _
    | (apply State.Keeps.ofFields; dsimp only; refine State.Keeps.setReqs (hc (by decide)) (State.Keeps.toFields ?_))
    | dsimp only

theorem State.romAnswer_keeps {C : List Part} (hc : ([.reqs] : List Part) ⊆ C) {s₀ s : State} (h : State.Keeps C
    s₀ s) (r : Req) : State.Keeps C s₀ (State.romAnswer s r) := by
  unfold State.romAnswer
  repeat' first
    | with_reducible assumption | with_reducible apply State.updReq_keeps | exact List.Subset.trans (by decide) hc
    | intro _ | dsimp only

theorem State.hostAsk_keeps {C : List Part} (hc : ([.link, .out] : List Part) ⊆ C) {s₀ s : State} (h : State.Keeps
    C s₀ s) (r : Req) : State.Keeps C s₀ (State.hostAsk s r) := by
  unfold State.hostAsk
  repeat' first
    | with_reducible assumption | with_reducible apply State.emit_keeps | exact List.Subset.trans (by decide) hc
    | with_reducible apply State.Keeps.ite | split | intro _
    | (apply State.Keeps.ofFields; dsimp only; refine State.Keeps.setLink (hc (by decide)) (State.Keeps.toFields ?_))
    | dsimp only

theorem State.launch_keeps {C : List Part} (hc : ([.regs, .reqs, .fabric, .link, .can, .out] : List Part) ⊆ C) {s₀
    s : State} (h : State.Keeps C s₀ s) (r : Req) : State.Keeps C s₀ (State.launch s r) := by
  unfold State.launch
  repeat' first
    | with_reducible assumption | with_reducible apply State.emit_keeps | with_reducible apply State.hostAsk_keeps
    | with_reducible apply State.romAnswer_keeps | with_reducible apply State.send_keeps
    | with_reducible apply State.updReq_keeps | exact List.Subset.trans (by decide) hc
    | with_reducible apply State.Keeps.ite | split | intro _ | dsimp only
    | (apply State.Keeps.pair; (with_reducible assumption))

theorem State.request_keeps {C : List Part} (hc : ([.regs, .reqs, .fabric, .link, .can, .out] : List Part) ⊆ C)
    {s₀ s : State} (h : State.Keeps C s₀ s) (r : Req) : State.Keeps C s₀ (State.request s r) := by
  unfold State.request
  repeat' first
    | with_reducible assumption | with_reducible apply State.launch_keeps | exact List.Subset.trans (by decide) hc
    | with_reducible apply State.Keeps.ite | split
    | (apply State.Keeps.ofFields; dsimp only; refine State.Keeps.setNextReq (hc (by decide)) (State.Keeps.setReqs (hc (by decide)) (State.Keeps.toFields ?_)))
    | dsimp only | (apply State.Keeps.pair; (with_reducible assumption))

theorem State.requests_keeps {C : List Part} (hc : ([.regs, .reqs, .fabric, .link, .can, .out] : List Part) ⊆ C)
    {s₀ s : State} (h : State.Keeps C s₀ s) (rs : List Req) : State.Keeps C s₀ (State.requests s rs) := by
  unfold State.requests
  repeat' first
    | with_reducible assumption | with_reducible apply State.request_keeps | exact List.Subset.trans (by decide) hc
    | (with_reducible apply State.Keeps.foldl; intros) | intro _ | dsimp only

theorem State.readRange_keeps {C : List Part} (hc : ([.regs, .reqs, .fabric, .link, .can, .out] : List Part) ⊆ C)
    {s₀ s : State} (h : State.Keeps C s₀ s) (m : Move) (a : Word64) (n : Nat) (p : Nat → Purpose) : State.Keeps C
    s₀ (State.readRange s m a n p) := by
  unfold State.readRange
  repeat' first
    | with_reducible assumption | with_reducible apply State.requests_keeps | exact List.Subset.trans (by decide) hc
    | intro _ | dsimp only

theorem State.writeRange_keeps {C : List Part} (hc : ([.regs, .reqs, .fabric, .link, .can, .out] : List Part) ⊆ C)
    {s₀ s : State} (h : State.Keeps C s₀ s) (m : Move) (a : Word64) (bs : List (Byte × Bool)) (p : Purpose) :
    State.Keeps C s₀ (State.writeRange s m a bs p) := by
  unfold State.writeRange
  repeat' first
    | with_reducible assumption | with_reducible apply State.requests_keeps | exact List.Subset.trans (by decide) hc
    | with_reducible apply State.Keeps.ite | split | intro _ | dsimp only

theorem State.dropReqs_keeps {C : List Part} (hc : ([.reqs] : List Part) ⊆ C) {s₀ s : State} (h : State.Keeps C s₀
    s) (f : Req → Bool) : State.Keeps C s₀ (State.dropReqs s f) := by
  unfold State.dropReqs
  repeat' first
    | with_reducible assumption | intro _
    | (apply State.Keeps.ofFields; dsimp only; refine State.Keeps.setReqs (hc (by decide)) (State.Keeps.toFields ?_))
    | dsimp only

theorem State.reply_keeps {C : List Part} (hc : ([.reqs] : List Part) ⊆ C) {s₀ s : State} (h : State.Keeps C s₀ s)
    (r : Req) (data : List Byte) (pois : Bool) : State.Keeps C s₀ (State.reply s r data pois) := by
  unfold State.reply
  repeat' first
    | with_reducible assumption | with_reducible apply State.updReq_keeps | exact List.Subset.trans (by decide) hc
    | with_reducible apply State.Keeps.ite | split | intro _ | dsimp only

theorem State.noteGrant_keeps {C : List Part} (hc : ([.regs, .link, .can, .snap, .out] : List Part) ⊆ C) {s₀ s :
    State} (h : State.Keeps C s₀ s) (w : Waiter) (byDeadline : Bool) : State.Keeps C s₀ (State.noteGrant s w
    byDeadline) := by
  unfold State.noteGrant
  repeat' first
    | with_reducible assumption | with_reducible apply State.count_keeps | with_reducible apply State.intEvent_keeps
    | exact List.Subset.trans (by decide) hc | with_reducible apply State.Keeps.ite | split | dsimp only
    | (apply State.Keeps.pair; (with_reducible assumption))

theorem State.noteCrossing_keeps {C : List Part} (hc : ([.regs] : List Part) ⊆ C) {s₀ s : State} (h : State.Keeps
    C s₀ s) (p : ArbPoint) (id : Nat) : State.Keeps C s₀ (State.noteCrossing s p id) := by
  unfold State.noteCrossing
  repeat' first
    | with_reducible assumption | with_reducible apply State.countSaucer_keeps
    | exact List.Subset.trans (by decide) hc | with_reducible apply State.Keeps.ite | split | dsimp only
    | (apply State.Keeps.pair; (with_reducible assumption))

theorem State.passPoint_keeps {C : List Part} (hc : ([.regs, .hbm, .reqs, .fabric, .link, .can, .out] : List Part)
    ⊆ C) {s₀ s : State} (h : State.Keeps C s₀ s) (p : ArbPoint) (id : Nat) : State.Keeps C s₀ (State.passPoint s p
    id) := by
  unfold State.passPoint
  repeat' first
    | with_reducible assumption | with_reducible apply State.launch_keeps
    | with_reducible apply State.noteCrossing_keeps | with_reducible apply State.updReq_keeps
    | exact List.Subset.trans (by decide) hc | with_reducible apply State.Keeps.ite | split | intro _
    | (apply State.Keeps.ofFields; dsimp only; refine State.Keeps.setHbm (hc (by decide)) (State.Keeps.toFields ?_) rfl rfl)
    | dsimp only | (apply State.Keeps.pair; (with_reducible assumption))

theorem State.setArb_keeps {C : List Part} (hc : ([.arb] : List Part) ⊆ C) {s₀ s : State} (h : State.Keeps C s₀ s)
    (k : Nat) (a : ArbState) : State.Keeps C s₀ (State.setArb s k a) := by
  unfold State.setArb
  repeat' first
    | with_reducible assumption
    | (apply State.Keeps.ofFields; dsimp only; refine State.Keeps.setArb (hc (by decide)) (State.Keeps.toFields ?_))
    | dsimp only

theorem State.arbitrate_keeps {C : List Part} (hc : ([.regs, .hbm, .reqs, .arb, .fabric, .link, .can, .snap, .out]
    : List Part) ⊆ C) {s₀ s : State} (h : State.Keeps C s₀ s) (p : ArbPoint) : State.Keeps C s₀ (State.arbitrate s
    p) := by
  unfold State.arbitrate
  repeat' first
    | with_reducible assumption | with_reducible apply State.noteGrant_keeps
    | with_reducible apply State.passPoint_keeps | with_reducible apply State.setArb_keeps
    | exact List.Subset.trans (by decide) hc | with_reducible apply State.Keeps.ite | split | dsimp only
    | (apply State.Keeps.pair; (with_reducible assumption))

theorem State.setTokFree_keeps {C : List Part} (hc : ([.regs] : List Part) ⊆ C) {s₀ s : State} (h : State.Keeps C
    s₀ s) (c : Nat) (v : Int) : State.Keeps C s₀ (State.setTokFree s c v) := by
  unfold State.setTokFree
  repeat' first
    | with_reducible assumption | with_reducible apply State.Keeps.setReg | exact List.Subset.trans (by decide) hc
    | dsimp only

theorem State.setTokClaim_keeps {C : List Part} (hc : ([.regs] : List Part) ⊆ C) {s₀ s : State} (h : State.Keeps C
    s₀ s) (owner c : Nat) (n : Nat) : State.Keeps C s₀ (State.setTokClaim s owner c n) := by
  unfold State.setTokClaim
  repeat' first
    | with_reducible assumption | with_reducible apply State.setFld_keeps | exact List.Subset.trans (by decide) hc
    | dsimp only

theorem State.claimTokens_keeps {C : List Part} (hc : ([.regs] : List Part) ⊆ C) {s₀ s : State} (h : State.Keeps C
    s₀ s) (base len owner : Nat) : State.Keeps C s₀ (State.claimTokens s base len owner) := by
  unfold State.claimTokens
  repeat' first
    | with_reducible assumption | with_reducible apply State.setTokClaim_keeps
    | with_reducible apply State.setTokFree_keeps | exact List.Subset.trans (by decide) hc
    | (with_reducible apply State.Keeps.foldl; intros) | intro _ | dsimp only

theorem State.releaseTokens_keeps {C : List Part} (hc : ([.regs] : List Part) ⊆ C) {s₀ s : State} (h : State.Keeps
    C s₀ s) (base len owner : Nat) : State.Keeps C s₀ (State.releaseTokens s base len owner) := by
  unfold State.releaseTokens
  repeat' first
    | with_reducible assumption | with_reducible apply State.setTokClaim_keeps
    | with_reducible apply State.setTokFree_keeps | exact List.Subset.trans (by decide) hc
    | (with_reducible apply State.Keeps.foldl; intros) | intro _ | dsimp only

theorem State.loseSlice_keeps {C : List Part} (hc : ([.regs] : List Part) ⊆ C) {s₀ s : State} (h : State.Keeps C
    s₀ s) (c : Nat) : State.Keeps C s₀ (State.loseSlice s c) := by
  unfold State.loseSlice
  repeat' first
    | with_reducible assumption | with_reducible apply State.setTokFree_keeps
    | exact List.Subset.trans (by decide) hc | dsimp only

theorem State.setSlot_keeps {C : List Part} (hc : ([.regs] : List Part) ⊆ C) {s₀ s : State} (h : State.Keeps C s₀
    s) (i : Nat) (w : Word64) : State.Keeps C s₀ (State.setSlot s i w) := by
  unfold State.setSlot
  repeat' first
    | with_reducible assumption | with_reducible apply State.Keeps.setReg | exact List.Subset.trans (by decide) hc
    | dsimp only

theorem State.clearSlot_keeps {C : List Part} (hc : ([.regs] : List Part) ⊆ C) {s₀ s : State} (h : State.Keeps C
    s₀ s) (i : Nat) : State.Keeps C s₀ (State.clearSlot s i) := by
  unfold State.clearSlot
  repeat' first
    | with_reducible assumption | with_reducible apply State.releaseTokens_keeps
    | with_reducible apply State.setSlot_keeps | exact List.Subset.trans (by decide) hc | split | dsimp only
    | (apply State.Keeps.pair; (with_reducible assumption))

theorem State.notePinBusy_keeps {C : List Part} (hc : ([.regs, .seq] : List Part) ⊆ C) {s₀ s : State} (h :
    State.Keeps C s₀ s) : State.Keeps C s₀ (State.notePinBusy s) := by
  unfold State.notePinBusy
  repeat' first
    | with_reducible assumption | with_reducible apply State.setBit_keeps | exact List.Subset.trans (by decide) hc
    | with_reducible apply State.Keeps.ite | split | intro _
    | (apply State.Keeps.ofFields; dsimp only; refine State.Keeps.setSeq (hc (by decide)) (State.Keeps.toFields ?_))
    | dsimp only

theorem State.setPin_keeps {C : List Part} (hc : ([.caddy] : List Part) ⊆ C) {s₀ s : State} (h : State.Keeps C s₀
    s) (p : Option PinWork) : State.Keeps C s₀ (State.setPin s p) := by
  unfold State.setPin
  repeat' first
    | with_reducible assumption
    | (apply State.Keeps.ofFields; dsimp only; refine State.Keeps.setCaddy (hc (by decide)) (State.Keeps.toFields ?_))
    | dsimp only

theorem State.setPinStatus_keeps {C : List Part} (hc : ([.regs] : List Part) ⊆ C) {s₀ s : State} (h : State.Keeps
    C s₀ s) (n : Nat) : State.Keeps C s₀ (State.setPinStatus s n) := by
  unfold State.setPinStatus
  repeat' first
    | with_reducible assumption | with_reducible apply State.setFld_keeps | exact List.Subset.trans (by decide) hc
    | dsimp only

theorem State.pinEnd_keeps {C : List Part} (hc : ([.regs, .caddy, .seq] : List Part) ⊆ C) {s₀ s : State} (h :
    State.Keeps C s₀ s) (status : Nat) : State.Keeps C s₀ (State.pinEnd s status) := by
  unfold State.pinEnd
  repeat' first
    | with_reducible assumption | with_reducible apply State.notePinBusy_keeps
    | with_reducible apply State.setPinStatus_keeps | with_reducible apply State.setPin_keeps
    | exact List.Subset.trans (by decide) hc | dsimp only

theorem State.pinDone_keeps {C : List Part} (hc : ([.regs, .caddy, .seq] : List Part) ⊆ C) {s₀ s : State} (h :
    State.Keeps C s₀ s) (slot : Nat) : State.Keeps C s₀ (State.pinDone s slot) := by
  unfold State.pinDone
  repeat' first
    | with_reducible assumption | with_reducible apply State.pinEnd_keeps | with_reducible apply State.setFld_keeps
    | exact List.Subset.trans (by decide) hc | dsimp only

theorem State.pinBegin_keeps {C : List Part} (hc : ([.regs, .caddy, .seq] : List Part) ⊆ C) {s₀ s : State} (h :
    State.Keeps C s₀ s) (base len owner : Nat) (pref : Bool) (job : Option Nat) : State.Keeps C s₀ (State.pinBegin
    s base len owner pref job) := by
  unfold State.pinBegin
  repeat' first
    | with_reducible assumption | with_reducible apply State.notePinBusy_keeps
    | with_reducible apply State.pinEnd_keeps | with_reducible apply State.setBit_keeps
    | with_reducible apply State.setPin_keeps | exact List.Subset.trans (by decide) hc
    | with_reducible apply State.Keeps.ite | split | intro _
    | (apply State.Keeps.ofFields; dsimp only; refine State.Keeps.setCaddy (hc (by decide)) (State.Keeps.toFields ?_))
    | dsimp only

theorem State.unpinBegin_keeps {C : List Part} (hc : ([.regs, .caddy, .seq] : List Part) ⊆ C) {s₀ s : State} (h :
    State.Keeps C s₀ s) (base len : Nat) (job : Option Nat) : State.Keeps C s₀ (State.unpinBegin s base len job) := by
  unfold State.unpinBegin
  repeat' first
    | with_reducible assumption | with_reducible apply State.clearSlot_keeps
    | with_reducible apply State.notePinBusy_keeps | with_reducible apply State.pinEnd_keeps
    | with_reducible apply State.setFld_keeps | with_reducible apply State.setPin_keeps
    | exact List.Subset.trans (by decide) hc | split | dsimp only
    | (apply State.Keeps.pair; (with_reducible assumption))

theorem State.pinCommit_keeps {C : List Part} (hc : ([.regs, .caddy, .seq] : List Part) ⊆ C) {s₀ s : State} (h :
    State.Keeps C s₀ s) (base len owner : Nat) (pref : Bool) (job : Option Nat) : State.Keeps C s₀
    (State.pinCommit s base len owner pref job) := by
  unfold State.pinCommit
  repeat' first
    | with_reducible assumption | with_reducible apply State.claimTokens_keeps
    | with_reducible apply State.pinEnd_keeps | with_reducible apply State.setPin_keeps
    | with_reducible apply State.setSlot_keeps | exact List.Subset.trans (by decide) hc
    | with_reducible apply State.Keeps.ite | split | intro _ | dsimp only
    | (apply State.Keeps.pair; (with_reducible assumption))

theorem State.markPinned_keeps {C : List Part} (hc : ([.regs, .caddy, .link, .can, .out] : List Part) ⊆ C) {s₀ s :
    State} (h : State.Keeps C s₀ s) (base len : Nat) (b : Bool) : State.Keeps C s₀ (State.markPinned s base len b) := by
  unfold State.markPinned
  repeat' first
    | with_reducible assumption | with_reducible apply State.event_keeps | with_reducible apply State.setLine_keeps
    | exact List.Subset.trans (by decide) hc | (with_reducible apply State.Keeps.foldl; intros)
    | with_reducible apply State.Keeps.ite | split | intro _ | dsimp only
    | (apply State.Keeps.pair; (with_reducible assumption))

theorem State.noteSectors_keeps {C : List Part} (hc : ([.caddy] : List Part) ⊆ C) {s₀ s : State} (h : State.Keeps
    C s₀ s) (nc : Fin 7) (dl : Option (BitVec 24)) (secs : List Nat) : State.Keeps C s₀ (State.noteSectors s nc dl
    secs) := by
  unfold State.noteSectors
  repeat' first
    | with_reducible assumption | intro _
    | (apply State.Keeps.ofFields; dsimp only; refine State.Keeps.setCaddy (hc (by decide)) (State.Keeps.toFields ?_))
    | dsimp only

theorem State.prefetchBytes_keeps {C : List Part} (hc : ([.caddy] : List Part) ⊆ C) {s₀ s : State} (h :
    State.Keeps C s₀ s) (nc : Fin 7) (dl : Option (BitVec 24)) (base len : Nat) : State.Keeps C s₀
    (State.prefetchBytes s nc dl base len) := by
  unfold State.prefetchBytes
  repeat' first
    | with_reducible assumption | with_reducible apply State.noteSectors_keeps
    | exact List.Subset.trans (by decide) hc | with_reducible apply State.Keeps.ite | split | dsimp only

theorem State.killPins_keeps {C : List Part} (hc : ([.regs, .caddy, .seq] : List Part) ⊆ C) {s₀ s : State} (h :
    State.Keeps C s₀ s) (ctx : Nat) : State.Keeps C s₀ (State.killPins s ctx) := by
  unfold State.killPins
  repeat' first
    | with_reducible assumption | with_reducible apply State.clearSlot_keeps
    | with_reducible apply State.notePinBusy_keeps | with_reducible apply State.setPinStatus_keeps
    | with_reducible apply State.setPin_keeps | exact List.Subset.trans (by decide) hc
    | (with_reducible apply State.Keeps.foldl; intros) | with_reducible apply State.Keeps.ite | split | intro _
    | (apply State.Keeps.ofFields; dsimp only; refine State.Keeps.setCaddy (hc (by decide)) (State.Keeps.toFields ?_))
    | dsimp only | (apply State.Keeps.pair; (with_reducible assumption))

theorem State.setCtxState_keeps {C : List Part} (hc : ([.regs] : List Part) ⊆ C) {s₀ s : State} (h : State.Keeps C
    s₀ s) (c n : Nat) : State.Keeps C s₀ (State.setCtxState s c n) := by
  unfold State.setCtxState
  repeat' first
    | with_reducible assumption | with_reducible apply State.setFld_keeps | exact List.Subset.trans (by decide) hc
    | dsimp only

theorem State.setCtx_keeps {C : List Part} (hc : ([.seq] : List Part) ⊆ C) {s₀ s : State} (h : State.Keeps C s₀ s)
    (c : Nat) (x : CtxRun) : State.Keeps C s₀ (State.setCtx s c x) := by
  unfold State.setCtx
  repeat' first
    | with_reducible assumption
    | (apply State.Keeps.ofFields; dsimp only; refine State.Keeps.setSeq (hc (by decide)) (State.Keeps.toFields ?_))
    | dsimp only

theorem State.setRing_keeps {C : List Part} (hc : ([.seq] : List Part) ⊆ C) {s₀ s : State} (h : State.Keeps C s₀
    s) (c r : Nat) (x : RingRun) : State.Keeps C s₀ (State.setRing s c r x) := by
  unfold State.setRing
  repeat' first
    | with_reducible assumption
    | (apply State.Keeps.ofFields; dsimp only; refine State.Keeps.setSeq (hc (by decide)) (State.Keeps.toFields ?_))
    | dsimp only

theorem State.haltRing_keeps {C : List Part} (hc : ([.regs, .link, .out] : List Part) ⊆ C) {s₀ s : State} (h :
    State.Keeps C s₀ s) (c r : Nat) (err : Bool) : State.Keeps C s₀ (State.haltRing s c r err) := by
  unfold State.haltRing
  repeat' first
    | with_reducible assumption | with_reducible apply State.raise_keeps | with_reducible apply State.setBit_keeps
    | exact List.Subset.trans (by decide) hc | with_reducible apply State.Keeps.ite | split | dsimp only

theorem State.setTag_keeps {C : List Part} (hc : ([.seq] : List Part) ⊆ C) {s₀ s : State} (h : State.Keeps C s₀ s)
    (c t : Nat) (v : Int) : State.Keeps C s₀ (State.setTag s c t v) := by
  unfold State.setTag
  repeat' first
    | with_reducible assumption
    | (apply State.Keeps.ofFields; dsimp only; refine State.Keeps.setSeq (hc (by decide)) (State.Keeps.toFields ?_))
    | dsimp only

theorem State.cqInterrupt_keeps {C : List Part} (hc : ([.seq, .link, .out] : List Part) ⊆ C) {s₀ s : State} (h :
    State.Keeps C s₀ s) (c : Nat) : State.Keeps C s₀ (State.cqInterrupt s c) := by
  unfold State.cqInterrupt
  repeat' first
    | with_reducible assumption | with_reducible apply State.raise_keeps | with_reducible apply State.setCtx_keeps
    | exact List.Subset.trans (by decide) hc | dsimp only

theorem State.seqWrite_keeps {C : List Part} (hc : ([.regs, .reqs, .fabric, .link, .can, .out] : List Part) ⊆ C)
    {s₀ s : State} (h : State.Keeps C s₀ s) (pa : Nat) (bs : List Byte) (p : Purpose) (c : Option Ctx) :
    State.Keeps C s₀ (State.seqWrite s pa bs p c).1 := by
  unfold State.seqWrite
  repeat' first
    | with_reducible assumption | with_reducible apply State.emit_keeps | with_reducible apply State.request_keeps
    | exact List.Subset.trans (by decide) hc | with_reducible apply State.Keeps.ite
    | with_reducible apply State.Keeps.iteFst | split | dsimp only
    | (apply State.Keeps.pair; (with_reducible assumption))

theorem State.recWritten_keeps {C : List Part} (hc : ([.seq, .link, .out] : List Part) ⊆ C) {s₀ s : State} (h :
    State.Keeps C s₀ s) (c : Nat) (irq : Bool) : State.Keeps C s₀ (State.recWritten s c irq) := by
  unfold State.recWritten
  repeat' first
    | with_reducible assumption | with_reducible apply State.cqInterrupt_keeps
    | with_reducible apply State.setCtx_keeps | exact List.Subset.trans (by decide) hc
    | with_reducible apply State.Keeps.ite | split | dsimp only

theorem State.recLost_keeps {C : List Part} (hc : ([.regs, .link, .can, .out] : List Part) ⊆ C) {s₀ s : State} (h
    : State.Keeps C s₀ s) (c : Nat) : State.Keeps C s₀ (State.recLost s c) := by
  unfold State.recLost
  repeat' first
    | with_reducible assumption | with_reducible apply State.event_keeps | exact List.Subset.trans (by decide) hc
    | dsimp only

theorem State.countRec_keeps {C : List Part} (hc : ([.regs] : List Part) ⊆ C) {s₀ s : State} (h : State.Keeps C s₀
    s) (r : Rec) : State.Keeps C s₀ (State.countRec s r) := by
  unfold State.countRec
  repeat' first
    | with_reducible assumption | with_reducible apply State.count_keeps | exact List.Subset.trans (by decide) hc
    | with_reducible apply State.Keeps.ite | split | dsimp only

theorem State.writeRec_keeps {C : List Part} (hc : ([.regs, .reqs, .seq, .fabric, .link, .can, .out] : List Part)
    ⊆ C) {s₀ s : State} (h : State.Keeps C s₀ s) (c : Nat) (r : Rec) : State.Keeps C s₀ (State.writeRec s c r) := by
  unfold State.writeRec
  repeat' first
    | with_reducible assumption | with_reducible apply State.countRec_keeps
    | with_reducible apply State.recLost_keeps | with_reducible apply State.recWritten_keeps
    | with_reducible apply State.seqWrite_keeps | with_reducible apply State.setCtx_keeps
    | exact List.Subset.trans (by decide) hc | split | dsimp only
    | (apply State.Keeps.pair; (with_reducible assumption))

theorem State.drainHeld_keeps {C : List Part} (hc : ([.regs, .reqs, .seq, .fabric, .link, .can, .out] : List Part)
    ⊆ C) (y0 : Nat) (y1 : Nat) {s₀ y2 : State} (h : State.Keeps C s₀ y2) : State.Keeps C s₀ (State.drainHeld y0 y1
    y2) := by
  induction y0 generalizing y2 with
  | zero => exact h
  | succ n ih =>
    unfold State.drainHeld
    dsimp only
    split
    · exact h
    · split
      · exact ih (State.writeRec_keeps (List.Subset.trans (by decide) hc) (State.setCtx_keeps (List.Subset.trans (by decide) hc) h _ _) _ _)
      · exact h

theorem State.orphan_keeps {C : List Part} (hc : ([.reqs] : List Part) ⊆ C) {s₀ s : State} (h : State.Keeps C s₀
    s) (f : Job → Bool) : State.Keeps C s₀ (State.orphan s f) := by
  unfold State.orphan
  repeat' first
    | with_reducible assumption | with_reducible apply State.Keeps.ite | split | intro _
    | (apply State.Keeps.ofFields; dsimp only; refine State.Keeps.setReqs (hc (by decide)) (State.Keeps.toFields ?_))
    | dsimp only | (apply State.Keeps.pair; (with_reducible assumption))

theorem State.removeJob_keeps {C : List Part} (hc : ([.clusters, .mcasts, .reqs, .seq, .fabric] : List Part) ⊆ C)
    {s₀ s : State} (h : State.Keeps C s₀ s) (j : Job) : State.Keeps C s₀ (State.removeJob s j) := by
  unfold State.removeJob
  repeat' first
    | with_reducible assumption | with_reducible apply State.orphan_keeps
    | with_reducible apply State.setCluster_keeps | exact List.Subset.trans (by decide) hc
    | (with_reducible apply State.Keeps.foldl; intros) | intro _
    | (apply State.Keeps.ofFields; dsimp only; refine State.Keeps.setFabric (hc (by decide)) (State.Keeps.setMcasts (hc (by decide)) (State.Keeps.setSeq (hc (by decide)) (State.Keeps.toFields ?_))))
    | dsimp only

theorem State.issueRec_keeps {C : List Part} (hc : ([.regs, .reqs, .seq, .fabric, .link, .can, .out] : List Part)
    ⊆ C) {s₀ s : State} (h : State.Keeps C s₀ s) (o : Owed) : State.Keeps C s₀ (State.issueRec s o) := by
  unfold State.issueRec
  repeat' first
    | with_reducible assumption | with_reducible apply State.drainHeld_keeps
    | with_reducible apply State.setCtx_keeps | exact List.Subset.trans (by decide) hc | intro _ | dsimp only

theorem State.report_keeps {C : List Part} (hc : ([.regs, .clusters, .mcasts, .reqs, .seq, .fabric, .link, .can,
    .out] : List Part) ⊆ C) {s₀ s : State} (h : State.Keeps C s₀ s) (j : Job) (e : JobEnd) (cause pos cl : Nat) :
    State.Keeps C s₀ (State.report s j e cause pos cl) := by
  unfold State.report
  repeat' first
    | with_reducible assumption | with_reducible apply State.issueRec_keeps
    | with_reducible apply State.removeJob_keeps | exact List.Subset.trans (by decide) hc
    | with_reducible apply State.Keeps.ite | split
    | (apply State.Keeps.ofFields; dsimp only; refine State.Keeps.setSeq (hc (by decide)) (State.Keeps.toFields ?_))
    | dsimp only

theorem State.payOwed_keeps {C : List Part} (hc : ([.regs, .reqs, .seq, .fabric, .link, .can, .out] : List Part) ⊆
    C) {s₀ s : State} (h : State.Keeps C s₀ s) : State.Keeps C s₀ (State.payOwed s) := by
  unfold State.payOwed
  repeat' first
    | with_reducible assumption | with_reducible apply State.issueRec_keeps | exact List.Subset.trans (by decide) hc
    | (with_reducible apply State.Keeps.foldl; intros) | with_reducible apply State.Keeps.ite | split | intro _
    | (apply State.Keeps.ofFields; dsimp only; refine State.Keeps.setSeq (hc (by decide)) (State.Keeps.toFields ?_))
    | dsimp only

theorem State.killReqs_keeps {C : List Part} (hc : ([.reqs] : List Part) ⊆ C) {s₀ s : State} (h : State.Keeps C s₀
    s) (c : Nat) : State.Keeps C s₀ (State.killReqs s c) := by
  unfold State.killReqs
  repeat' first
    | with_reducible assumption | with_reducible apply State.orphan_keeps | exact List.Subset.trans (by decide) hc
    | intro _ | dsimp only

theorem State.dropMq_keeps {C : List Part} (hc : ([.fabric] : List Part) ⊆ C) {s₀ s : State} (h : State.Keeps C s₀
    s) (cls : List Nat) : State.Keeps C s₀ (State.dropMq s cls) := by
  unfold State.dropMq
  repeat' first
    | with_reducible assumption | with_reducible apply State.Keeps.ite | split | intro _
    | (apply State.Keeps.ofFields; dsimp only; refine State.Keeps.setFabric (hc (by decide)) (State.Keeps.toFields ?_))
    | dsimp only | (apply State.Keeps.pair; (with_reducible assumption))

theorem State.endJobs_keeps {C : List Part} (hc : ([.regs, .clusters, .mcasts, .reqs, .seq, .fabric, .link, .can,
    .out] : List Part) ⊆ C) {s₀ s : State} (h : State.Keeps C s₀ s) (c : Nat) (b : Blame) (records : Bool) :
    State.Keeps C s₀ (State.endJobs s c b records) := by
  unfold State.endJobs
  repeat' first
    | with_reducible assumption | with_reducible apply State.removeJob_keeps
    | with_reducible apply State.report_keeps | exact List.Subset.trans (by decide) hc
    | (with_reducible apply State.Keeps.foldl; intros) | with_reducible apply State.Keeps.ite | split | intro _
    | dsimp only

theorem State.seedLanes_keeps {C : List Part} (hc : ([.seq] : List Part) ⊆ C) {s₀ s : State} (h : State.Keeps C s₀
    s) (c : Nat) : State.Keeps C s₀ (State.seedLanes s c) := by
  unfold State.seedLanes
  repeat' first
    | with_reducible assumption | with_reducible apply State.setCtx_keeps | exact List.Subset.trans (by decide) hc
    | intro _
    | (apply State.Keeps.ofFields; dsimp only; refine State.Keeps.setSeq (hc (by decide)) (State.Keeps.toFields ?_))
    | dsimp only

theorem State.killWork_keeps {C : List Part} (hc : ([.regs, .clusters, .mcasts, .caddy, .reqs, .seq, .fabric,
    .link, .can, .out] : List Part) ⊆ C) {s₀ s : State} (h : State.Keeps C s₀ s) (c : Nat) (b : Blame) (records :
    Bool) : State.Keeps C s₀ (State.killWork s c b records) := by
  unfold State.killWork
  repeat' first
    | with_reducible assumption | with_reducible apply State.dropMq_keeps
    | with_reducible apply State.dropReqs_keeps | with_reducible apply State.endJobs_keeps
    | with_reducible apply State.killPins_keeps | with_reducible apply State.killReqs_keeps
    | with_reducible apply State.seedLanes_keeps | with_reducible apply State.setCtx_keeps
    | with_reducible apply State.setRing_keeps | exact List.Subset.trans (by decide) hc
    | (with_reducible apply State.Keeps.foldl; intros) | with_reducible apply State.Keeps.ite | split | intro _
    | (apply State.Keeps.ofFields; dsimp only; refine State.Keeps.setSeq (hc (by decide)) (State.Keeps.toFields ?_))
    | dsimp only | (apply State.Keeps.pair; (with_reducible assumption))

theorem State.killQuiet_keeps {C : List Part} (hc : ([.regs, .clusters, .mcasts, .caddy, .reqs, .seq, .fabric,
    .link, .can, .out] : List Part) ⊆ C) {s₀ s : State} (h : State.Keeps C s₀ s) (c cause : Nat) (b : Blame) :
    State.Keeps C s₀ (State.killQuiet s c cause b) := by
  unfold State.killQuiet
  repeat' first
    | with_reducible assumption | with_reducible apply State.killWork_keeps
    | with_reducible apply State.setCtxState_keeps | with_reducible apply State.setFld_keeps
    | exact List.Subset.trans (by decide) hc | dsimp only

theorem State.killContext_keeps {C : List Part} (hc : ([.regs, .clusters, .mcasts, .caddy, .reqs, .seq, .fabric,
    .link, .can, .snap, .out] : List Part) ⊆ C) {s₀ s : State} (h : State.Keeps C s₀ s) (c cause : Nat) (b :
    Blame) : State.Keeps C s₀ (State.killContext s c cause b) := by
  unfold State.killContext
  repeat' first
    | with_reducible assumption | with_reducible apply State.killQuiet_keeps
    | with_reducible apply State.snapFault_keeps | exact List.Subset.trans (by decide) hc | dsimp only

theorem State.signalTag_keeps {C : List Part} (hc : ([.regs, .clusters, .mcasts, .caddy, .reqs, .seq, .fabric,
    .link, .can, .snap, .out] : List Part) ⊆ C) {s₀ s : State} (h : State.Keeps C s₀ s) (j : Job) (t : Nat) :
    State.Keeps C s₀ (State.signalTag s j t) := by
  unfold State.signalTag
  repeat' first
    | with_reducible assumption | with_reducible apply State.killContext_keeps
    | with_reducible apply State.setTag_keeps | exact List.Subset.trans (by decide) hc
    | with_reducible apply State.Keeps.ite | split | dsimp only

theorem State.endJob_keeps {C : List Part} (hc : ([.regs, .clusters, .mcasts, .caddy, .reqs, .seq, .fabric, .link,
    .can, .snap, .out] : List Part) ⊆ C) {s₀ s : State} (h : State.Keeps C s₀ s) (j : Job) (e : JobEnd) (cause pos
    cl : Nat) : State.Keeps C s₀ (State.endJob s j e cause pos cl) := by
  unfold State.endJob
  repeat' first
    | with_reducible assumption | with_reducible apply State.killContext_keeps
    | with_reducible apply State.report_keeps | with_reducible apply State.setTag_keeps
    | exact List.Subset.trans (by decide) hc | with_reducible apply State.Keeps.ite | split | dsimp only

theorem State.jobFault_keeps {C : List Part} (hc : ([.seq] : List Part) ⊆ C) {s₀ s : State} (h : State.Keeps C s₀
    s) (id cause pos cl : Nat) : State.Keeps C s₀ (State.jobFault s id cause pos cl) := by
  unfold State.jobFault
  repeat' first
    | with_reducible assumption | with_reducible apply State.updJob_keeps | exact List.Subset.trans (by decide) hc
    | with_reducible apply State.Keeps.ite | split | intro _ | dsimp only
    | (apply State.Keeps.pair; (with_reducible assumption))

theorem State.killFrom_keeps {C : List Part} (hc : ([.regs, .clusters, .mcasts, .caddy, .reqs, .seq, .fabric,
    .link, .can, .snap, .out] : List Part) ⊆ C) {s₀ s : State} (h : State.Keeps C s₀ s) (cl cause pos : Nat) :
    State.Keeps C s₀ (State.killFrom s cl cause pos) := by
  unfold State.killFrom
  repeat' first
    | with_reducible assumption | with_reducible apply State.killContext_keeps
    | exact List.Subset.trans (by decide) hc | split | dsimp only
    | (apply State.Keeps.pair; (with_reducible assumption))

theorem State.tgFault_keeps {C : List Part} (hc : ([.regs, .seq] : List Part) ⊆ C) {s₀ s : State} (h : State.Keeps
    C s₀ s) (cl sched slot lane cause : Nat) (pc : Nat) (addr : Word64) : State.Keeps C s₀ (State.tgFault s cl
    sched slot lane cause pc addr) := by
  unfold State.tgFault
  repeat' first
    | with_reducible assumption | with_reducible apply State.consumed_keeps | exact List.Subset.trans (by decide) hc
    | with_reducible apply State.Keeps.ite | split
    | (apply State.Keeps.ofFields; dsimp only; refine State.Keeps.setSeq (hc (by decide)) (State.Keeps.toFields ?_))
    | dsimp only | (apply State.Keeps.pair; (with_reducible assumption))

theorem State.tgKill_keeps {C : List Part} (hc : ([.regs, .clusters, .mcasts, .caddy, .reqs, .seq, .fabric, .link,
    .can, .snap, .out] : List Part) ⊆ C) {s₀ s : State} (h : State.Keeps C s₀ s) (f : TgNote) : State.Keeps C s₀
    (State.tgKill s f) := by
  unfold State.tgKill
  repeat' first
    | with_reducible assumption | with_reducible apply State.Keeps.setReg | with_reducible apply State.event_keeps
    | with_reducible apply State.killContext_keeps | exact List.Subset.trans (by decide) hc
    | with_reducible apply State.Keeps.ite | split | dsimp only
    | (apply State.Keeps.pair; (with_reducible assumption))

theorem State.killFaulted_keeps {C : List Part} (hc : ([.regs, .clusters, .mcasts, .caddy, .reqs, .seq, .fabric,
    .link, .can, .snap, .out] : List Part) ⊆ C) {s₀ s : State} (h : State.Keeps C s₀ s) : State.Keeps C s₀
    (State.killFaulted s) := by
  unfold State.killFaulted
  repeat' first
    | with_reducible assumption | with_reducible apply State.tgKill_keeps | exact List.Subset.trans (by decide) hc
    | (with_reducible apply State.Keeps.foldl; intros) | intro _
    | (apply State.Keeps.ofFields; dsimp only; refine State.Keeps.setSeq (hc (by decide)) (State.Keeps.toFields ?_))
    | dsimp only

theorem State.dropDescr_keeps {C : List Part} (hc : ([.reqs] : List Part) ⊆ C) {s₀ s : State} (h : State.Keeps C
    s₀ s) (cl : Nat) : State.Keeps C s₀ (State.dropDescr s cl) := by
  unfold State.dropDescr
  repeat' first
    | with_reducible assumption | split | intro _
    | (apply State.Keeps.ofFields; dsimp only; refine State.Keeps.setReqs (hc (by decide)) (State.Keeps.toFields ?_))
    | dsimp only | (apply State.Keeps.pair; (with_reducible assumption))

theorem State.stopList_keeps {C : List Part} (hc : ([.clusters, .reqs, .seq] : List Part) ⊆ C) {s₀ s : State} (h :
    State.Keeps C s₀ s) (cl cause pos : Nat) : State.Keeps C s₀ (State.stopList s cl cause pos) := by
  unfold State.stopList
  repeat' first
    | with_reducible assumption | with_reducible apply State.dropDescr_keeps
    | with_reducible apply State.jobFault_keeps | with_reducible apply State.setEngine_keeps
    | exact List.Subset.trans (by decide) hc | split | intro _ | dsimp only
    | (apply State.Keeps.pair; (with_reducible assumption))

theorem State.setLane_keeps {C : List Part} (hc : ([.seq] : List Part) ⊆ C) {s₀ s : State} (h : State.Keeps C s₀
    s) (c cl lane : Nat) (v : Word64) : State.Keeps C s₀ (State.setLane s c cl lane v) := by
  unfold State.setLane
  repeat' first
    | with_reducible assumption
    | (apply State.Keeps.ofFields; dsimp only; refine State.Keeps.setSeq (hc (by decide)) (State.Keeps.toFields ?_))
    | dsimp only

theorem State.sendAck_keeps {C : List Part} (hc : ([.regs, .fabric, .link, .can, .out] : List Part) ⊆ C) {s₀ s :
    State} (h : State.Keeps C s₀ s) (node cls status : Nat) : State.Keeps C s₀ (State.sendAck s node cls status) := by
  unfold State.sendAck
  repeat' first
    | with_reducible assumption | with_reducible apply State.count_keeps | with_reducible apply State.forward_keeps
    | with_reducible apply State.setConn_keeps | exact List.Subset.trans (by decide) hc
    | with_reducible apply State.Keeps.ite | split | dsimp only

theorem State.executed_keeps {C : List Part} (hc : ([.regs, .fabric, .link, .can, .out] : List Part) ⊆ C) {s₀ s :
    State} (h : State.Keeps C s₀ s) (node cls : Nat) (f : MFrame) (status : Nat) : State.Keeps C s₀
    (State.executed s node cls f status) := by
  unfold State.executed
  repeat' first
    | with_reducible assumption | with_reducible apply State.sendAck_keeps
    | with_reducible apply State.setConn_keeps | exact List.Subset.trans (by decide) hc
    | with_reducible apply State.Keeps.ite | split | intro _
    | (apply State.Keeps.ofFields; dsimp only; refine State.Keeps.setFabric (hc (by decide)) (State.Keeps.toFields ?_))
    | dsimp only

theorem State.respond_keeps {C : List Part} (hc : ([.regs, .fabric, .link, .can, .out] : List Part) ⊆ C) {s₀ s :
    State} (h : State.Keeps C s₀ s) (f : MFrame) (op status : Nat) (data : List Byte) (pois : List Bool) :
    State.Keeps C s₀ (State.respond s f op status data pois) := by
  unfold State.respond
  repeat' first
    | with_reducible assumption | with_reducible apply State.send_keeps | exact List.Subset.trans (by decide) hc
    | dsimp only

theorem State.answerPacket_keeps {C : List Part} (hc : ([.regs, .fabric, .link, .can, .out] : List Part) ⊆ C) {s₀
    s : State} (h : State.Keeps C s₀ s) (f : MFrame) (rs : List Req) : State.Keeps C s₀ (State.answerPacket s f
    rs) := by
  unfold State.answerPacket
  repeat' first
    | with_reducible assumption | with_reducible apply State.respond_keeps | exact List.Subset.trans (by decide) hc
    | with_reducible apply State.Keeps.ite | split | intro _ | dsimp only

theorem State.packetDone_keeps {C : List Part} (hc : ([.regs, .reqs, .fabric, .link, .can, .out] : List Part) ⊆ C)
    {s₀ s : State} (h : State.Keeps C s₀ s) (node cls : Nat) : State.Keeps C s₀ (State.packetDone s node cls) := by
  unfold State.packetDone
  repeat' first
    | with_reducible assumption | with_reducible apply State.answerPacket_keeps
    | with_reducible apply State.dropReqs_keeps | with_reducible apply State.executed_keeps
    | with_reducible apply State.setConn_keeps | exact List.Subset.trans (by decide) hc
    | with_reducible apply State.Keeps.ite | split | intro _ | dsimp only
    | (apply State.Keeps.pair; (with_reducible assumption))

theorem State.packetsDone_keeps {C : List Part} (hc : ([.regs, .reqs, .fabric, .link, .can, .out] : List Part) ⊆
    C) {s₀ s : State} (h : State.Keeps C s₀ s) : State.Keeps C s₀ (State.packetsDone s) := by
  unfold State.packetsDone
  repeat' first
    | with_reducible assumption | with_reducible apply State.packetDone_keeps
    | exact List.Subset.trans (by decide) hc | (with_reducible apply State.Keeps.foldl; intros)
    | with_reducible apply State.Keeps.ite | split | intro _ | dsimp only

theorem State.epilogueRefused_keeps {C : List Part} (hc : ([.clusters, .reqs, .seq] : List Part) ⊆ C) {s₀ s :
    State} (h : State.Keeps C s₀ s) (cl pos : Nat) : State.Keeps C s₀ (State.epilogueRefused s cl pos) := by
  unfold State.epilogueRefused
  repeat' first
    | with_reducible assumption | with_reducible apply State.dropDescr_keeps
    | with_reducible apply State.jobFault_keeps | with_reducible apply State.setEngine_keeps
    | exact List.Subset.trans (by decide) hc | split | dsimp only
    | (apply State.Keeps.pair; (with_reducible assumption))

theorem State.settleReq_keeps {C : List Part} (hc : ([.regs, .clusters, .mcasts, .caddy, .reqs, .seq, .fabric,
    .link, .can, .snap, .out] : List Part) ⊆ C) {s₀ s : State} (h : State.Keeps C s₀ s) (r : Req) : State.Keeps C
    s₀ (State.settleReq s r) := by
  unfold State.settleReq
  repeat' first
    | with_reducible assumption | with_reducible apply State.dropReq_keeps | with_reducible apply State.endJob_keeps
    | with_reducible apply State.epilogueRefused_keeps | with_reducible apply State.recWritten_keeps
    | with_reducible apply State.setEngine_keeps | with_reducible apply State.tgFault_keeps
    | exact List.Subset.trans (by decide) hc | with_reducible apply State.Keeps.ite | split | intro _ | dsimp only
    | (apply State.Keeps.pair; (with_reducible assumption))

theorem State.settleOne_keeps {C : List Part} (hc : ([.regs, .clusters, .mcasts, .caddy, .reqs, .seq, .fabric,
    .link, .can, .snap, .out] : List Part) ⊆ C) {s₀ s : State} (h : State.Keeps C s₀ s) (id : Nat) : State.Keeps C
    s₀ (State.settleOne s id) := by
  unfold State.settleOne
  repeat' first
    | with_reducible assumption | with_reducible apply State.settleReq_keeps
    | exact List.Subset.trans (by decide) hc | split | dsimp only
    | (apply State.Keeps.pair; (with_reducible assumption))

theorem State.bar2Done_keeps {C : List Part} (hc : ([.reqs, .link, .out] : List Part) ⊆ C) {s₀ s : State} (h :
    State.Keeps C s₀ s) (acc : Nat) : State.Keeps C s₀ (State.bar2Done s acc) := by
  unfold State.bar2Done
  repeat' first
    | with_reducible assumption | with_reducible apply State.dropReqs_keeps | with_reducible apply State.emit_keeps
    | exact List.Subset.trans (by decide) hc | with_reducible apply State.Keeps.ite | split | intro _
    | (apply State.Keeps.ofFields; dsimp only; refine State.Keeps.setLink (hc (by decide)) (State.Keeps.toFields ?_))
    | dsimp only

theorem State.bar2sDone_keeps {C : List Part} (hc : ([.reqs, .link, .out] : List Part) ⊆ C) {s₀ s : State} (h :
    State.Keeps C s₀ s) : State.Keeps C s₀ (State.bar2sDone s) := by
  unfold State.bar2sDone
  repeat' first
    | with_reducible assumption | with_reducible apply State.bar2Done_keeps | exact List.Subset.trans (by decide) hc
    | (with_reducible apply State.Keeps.foldl; intros) | intro _ | dsimp only

theorem State.settle_keeps {C : List Part} (hc : ([.regs, .clusters, .mcasts, .caddy, .reqs, .seq, .fabric, .link,
    .can, .snap, .out] : List Part) ⊆ C) {s₀ s : State} (h : State.Keeps C s₀ s) : State.Keeps C s₀ (State.settle
    s) := by
  unfold State.settle
  repeat' first
    | with_reducible assumption | with_reducible apply State.bar2sDone_keeps
    | with_reducible apply State.packetsDone_keeps | with_reducible apply State.payOwed_keeps
    | with_reducible apply State.settleOne_keeps | exact List.Subset.trans (by decide) hc
    | (with_reducible apply State.Keeps.foldl; intros) | intro _ | dsimp only

end Sys2Proof.Machine
end

