-- ==== Sys2Proof/Laws/KeepsCaddy.lean ====
section
/-! SUPPORT. What the operations of device states, slices, caddies and HBM keep. -/

namespace Sys2Proof.Machine

theorem State.setDevWord_keeps {C : List Part} (hc : ([.regs, .link, .can, .out] : List Part) ⊆ C) {s₀ s : State}
    (h : State.Keeps C s₀ s) (w : Word64) : State.Keeps C s₀ (State.setDevWord s w) := by
  unfold State.setDevWord
  repeat' first
    | with_reducible assumption | with_reducible apply State.Keeps.setReg | with_reducible apply State.noteErr_keeps
    | with_reducible apply State.raise_keeps | exact List.Subset.trans (by decide) hc
    | with_reducible apply State.Keeps.ite | split
    | (apply State.Keeps.ofFields; dsimp only; refine State.Keeps.setCan (hc (by decide)) (State.Keeps.toFields ?_))
    | dsimp only

theorem State.setDev_keeps {C : List Part} (hc : ([.regs, .link, .can, .out] : List Part) ⊆ C) {s₀ s : State} (h :
    State.Keeps C s₀ s) (n : Nat) : State.Keeps C s₀ (State.setDev s n) := by
  unfold State.setDev
  repeat' first
    | with_reducible assumption | with_reducible apply State.setDevWord_keeps
    | exact List.Subset.trans (by decide) hc | dsimp only

theorem State.enter_keeps {C : List Part} (hc : ([.regs, .link, .can, .out] : List Part) ⊆ C) {s₀ s : State} (h :
    State.Keeps C s₀ s) (n : Nat) : State.Keeps C s₀ (State.enter s n) := by
  unfold State.enter
  repeat' first
    | with_reducible assumption | with_reducible apply State.setDev_keeps
    | with_reducible apply State.unnamedEmergency_keeps | exact List.Subset.trans (by decide) hc
    | with_reducible apply State.Keeps.ite | split | dsimp only
    | (apply State.Keeps.pair; (with_reducible assumption))

theorem State.leavesOff_keeps {C : List Part} (hc : ([.hbm, .bring] : List Part) ⊆ C) {s₀ s : State} (h :
    State.Keeps C s₀ s) : State.Keeps C s₀ (State.leavesOff s) := by
  unfold State.leavesOff
  repeat' first
    | with_reducible assumption
    | (apply State.Keeps.ofFields; dsimp only; refine State.Keeps.setHbm (hc (by decide)) (State.Keeps.setBring (hc (by decide)) (State.Keeps.toFields ?_)) rfl rfl)
    | dsimp only

theorem State.killAll_keeps {C : List Part} (hc : ([.regs, .clusters, .mcasts, .caddy, .reqs, .seq, .fabric,
    .link, .can, .out] : List Part) ⊆ C) {s₀ s : State} (h : State.Keeps C s₀ s) : State.Keeps C s₀ (State.killAll
    s) := by
  unfold State.killAll
  repeat' first
    | with_reducible assumption | with_reducible apply State.killQuiet_keeps
    | exact List.Subset.trans (by decide) hc | (with_reducible apply State.Keeps.foldl; intros) | intro _
    | dsimp only

theorem State.enterFaulted_keeps {C : List Part} (hc : ([.regs, .clusters, .mcasts, .caddy, .hbm, .reqs, .seq,
    .fabric, .link, .can, .bring, .snap, .out] : List Part) ⊆ C) {s₀ s : State} (h : State.Keeps C s₀ s) :
    State.Keeps C s₀ (State.enterFaulted s) := by
  unfold State.enterFaulted
  repeat' first
    | with_reducible assumption | with_reducible apply State.enter_keeps | with_reducible apply State.killAll_keeps
    | with_reducible apply State.leavesOff_keeps | with_reducible apply State.snapFault_keeps
    | exact List.Subset.trans (by decide) hc | with_reducible apply State.Keeps.ite | split
    | (apply State.Keeps.ofFields; dsimp only; refine State.Keeps.setBring (hc (by decide)) (State.Keeps.toFields ?_))
    | dsimp only

theorem State.degrade_keeps {C : List Part} (hc : ([.regs, .link, .can, .out] : List Part) ⊆ C) {s₀ s : State} (h
    : State.Keeps C s₀ s) : State.Keeps C s₀ (State.degrade s) := by
  unfold State.degrade
  repeat' first
    | with_reducible assumption | with_reducible apply State.enter_keeps | exact List.Subset.trans (by decide) hc
    | with_reducible apply State.Keeps.ite | split | dsimp only

theorem State.tagError_keeps {C : List Part} (hc : ([.regs, .caddy] : List Part) ⊆ C) {s₀ s : State} (h :
    State.Keeps C s₀ s) (key bits : Nat) : State.Keeps C s₀ (State.tagError s key bits) := by
  unfold State.tagError
  repeat' first
    | with_reducible assumption | with_reducible apply State.addFixup_keeps
    | with_reducible apply State.corrected_keeps | with_reducible apply State.count_keeps
    | exact List.Subset.trans (by decide) hc | with_reducible apply State.Keeps.ite | split | dsimp only

theorem State.wordError_keeps {C : List Part} (hc : ([.regs, .caddy, .hbm, .reqs, .link, .can, .snap, .out] : List
    Part) ⊆ C) {s₀ s : State} (h : State.Keeps C s₀ s) (key : Nat) (nc : Fin 7) (e : WordErr) : State.Keeps C s₀
    (State.wordError s key nc e) := by
  unfold State.wordError
  repeat' first
    | with_reducible assumption | with_reducible apply State.addFixup_keeps
    | with_reducible apply State.corrected_keeps | with_reducible apply State.count_keeps
    | with_reducible apply State.hbmRead_keeps | with_reducible apply State.logUe_keeps
    | with_reducible apply State.setLine_keeps | with_reducible apply State.tagError_keeps
    | exact List.Subset.trans (by decide) hc | with_reducible apply State.Keeps.ite | split | dsimp only

theorem State.wordErrors_keeps {C : List Part} (hc : ([.regs, .caddy, .hbm, .reqs, .link, .can, .snap, .out] :
    List Part) ⊆ C) {s₀ s : State} (h : State.Keeps C s₀ s) (key : Nat) (nc : Fin 7) (errs : List WordErr) :
    State.Keeps C s₀ (State.wordErrors s key nc errs) := by
  unfold State.wordErrors
  repeat' first
    | with_reducible assumption | with_reducible apply State.wordError_keeps
    | exact List.Subset.trans (by decide) hc | (with_reducible apply State.Keeps.foldl; intros) | intro _
    | dsimp only

theorem State.tagLoss_keeps {C : List Part} (hc : ([.regs, .clusters, .mcasts, .caddy, .hbm, .reqs, .seq, .fabric,
    .link, .can, .bring, .snap, .out] : List Part) ⊆ C) {s₀ s : State} (h : State.Keeps C s₀ s) (cad : Nat) :
    State.Keeps C s₀ (State.tagLoss s cad) := by
  unfold State.tagLoss
  repeat' first
    | with_reducible assumption | with_reducible apply State.count_keeps
    | with_reducible apply State.enterFaulted_keeps | with_reducible apply State.intEvent_keeps
    | exact List.Subset.trans (by decide) hc | dsimp only

theorem State.lineErrors_keeps {C : List Part} (hc : ([.regs, .clusters, .mcasts, .caddy, .hbm, .reqs, .seq,
    .fabric, .link, .can, .bring, .snap, .out] : List Part) ⊆ C) {s₀ s : State} (h : State.Keeps C s₀ s) (pa :
    Nat) (nc : Fin 7) (errs : List WordErr) (tagLost : Bool) : State.Keeps C s₀ (State.lineErrors s pa nc errs
    tagLost) := by
  unfold State.lineErrors
  repeat' first
    | with_reducible assumption | with_reducible apply State.tagLoss_keeps
    | with_reducible apply State.wordErrors_keeps | exact List.Subset.trans (by decide) hc
    | with_reducible apply State.Keeps.ite | split | dsimp only
    | (apply State.Keeps.pair; (with_reducible assumption))

theorem State.setPorts_keeps {C : List Part} (hc : ([.caddy] : List Part) ⊆ C) {s₀ s : State} (h : State.Keeps C
    s₀ s) (k : Nat) (p : SlicePort) : State.Keeps C s₀ (State.setPorts s k p) := by
  unfold State.setPorts
  repeat' first
    | with_reducible assumption
    | (apply State.Keeps.ofFields; dsimp only; refine State.Keeps.setCaddy (hc (by decide)) (State.Keeps.toFields ?_))
    | dsimp only

theorem State.takeRead_keeps {C : List Part} (hc : ([.caddy] : List Part) ⊆ C) {s₀ s : State} (h : State.Keeps C
    s₀ s) (k : Nat) : State.Keeps C s₀ (State.takeRead s k) := by
  unfold State.takeRead
  repeat' first
    | with_reducible assumption | with_reducible apply State.setPorts_keeps | exact List.Subset.trans (by decide) hc
    | dsimp only

theorem State.takeWrite_keeps {C : List Part} (hc : ([.caddy] : List Part) ⊆ C) {s₀ s : State} (h : State.Keeps C
    s₀ s) (k line clocks : Nat) : State.Keeps C s₀ (State.takeWrite s k line clocks) := by
  unfold State.takeWrite
  repeat' first
    | with_reducible assumption | with_reducible apply State.setPorts_keeps | exact List.Subset.trans (by decide) hc
    | dsimp only

theorem State.setDetector_keeps {C : List Part} (hc : ([.caddy] : List Part) ⊆ C) {s₀ s : State} (h : State.Keeps
    C s₀ s) (cad i : Nat) (d : Detector) : State.Keeps C s₀ (State.setDetector s cad i d) := by
  unfold State.setDetector
  repeat' first
    | with_reducible assumption
    | (apply State.Keeps.ofFields; dsimp only; refine State.Keeps.setCaddy (hc (by decide)) (State.Keeps.toFields ?_))
    | dsimp only

theorem State.noteMiss_keeps {C : List Part} (hc : ([.caddy] : List Part) ⊆ C) {s₀ s : State} (h : State.Keeps C
    s₀ s) (nc : Fin 7) (line : Nat) : State.Keeps C s₀ (State.noteMiss s nc line) := by
  unfold State.noteMiss
  repeat' first
    | with_reducible assumption | with_reducible apply State.noteSectors_keeps
    | with_reducible apply State.setDetector_keeps | exact List.Subset.trans (by decide) hc
    | with_reducible apply State.Keeps.ite | split | intro _ | dsimp only
    | (apply State.Keeps.pair; (with_reducible assumption))

theorem State.finishRead_keeps {C : List Part} (hc : ([.regs, .caddy, .reqs] : List Part) ⊆ C) {s₀ s : State} (h :
    State.Keeps C s₀ s) (r : Req) : State.Keeps C s₀ (State.finishRead s r) := by
  unfold State.finishRead
  repeat' first
    | with_reducible assumption | with_reducible apply State.countConsumed_keeps
    | with_reducible apply State.dropLine_keeps | with_reducible apply State.reply_keeps
    | with_reducible apply State.updReq_keeps | exact List.Subset.trans (by decide) hc
    | with_reducible apply State.Keeps.ite | split | intro _ | dsimp only

theorem State.perform_keeps {C : List Part} (hc : ([.regs, .caddy, .hbm, .reqs, .seq, .link, .can, .out] : List
    Part) ⊆ C) {s₀ s : State} (h : State.Keeps C s₀ s) (r : Req) : State.Keeps C s₀ (State.perform s r) := by
  unfold State.perform
  repeat' first
    | with_reducible assumption | with_reducible apply State.finishRead_keeps
    | with_reducible apply State.hbmAtomic_keeps | with_reducible apply State.raiseExc_keeps
    | with_reducible apply State.reply_keeps | with_reducible apply State.writeLine_keeps
    | exact List.Subset.trans (by decide) hc | split | intro _ | dsimp only
    | (apply State.Keeps.pair; (with_reducible assumption))

theorem State.fetchFor_keeps {C : List Part} (hc : ([.regs, .hbm, .reqs] : List Part) ⊆ C) {s₀ s : State} (h :
    State.Keeps C s₀ s) (r : Req) (secs : List Nat) : State.Keeps C s₀ (State.fetchFor s r secs) := by
  unfold State.fetchFor
  repeat' first
    | with_reducible assumption | with_reducible apply State.hbmRead_keeps | with_reducible apply State.updReq_keeps
    | exact List.Subset.trans (by decide) hc | (with_reducible apply State.Keeps.foldl; intros) | intro _
    | dsimp only

theorem State.resume_keeps {C : List Part} (hc : ([.regs, .caddy, .hbm, .reqs, .seq, .link, .can, .out] : List
    Part) ⊆ C) {s₀ s : State} (h : State.Keeps C s₀ s) (r : Req) : State.Keeps C s₀ (State.resume s r) := by
  unfold State.resume
  repeat' first
    | with_reducible assumption | with_reducible apply State.fetchFor_keeps
    | with_reducible apply State.perform_keeps | exact List.Subset.trans (by decide) hc | split | dsimp only
    | (apply State.Keeps.pair; (with_reducible assumption))

theorem State.countRead_keeps {C : List Part} (hc : ([.regs, .caddy] : List Part) ⊆ C) {s₀ s : State} (h :
    State.Keeps C s₀ s) (r : Req) (miss : List Nat) : State.Keeps C s₀ (State.countRead s r miss) := by
  unfold State.countRead
  repeat' first
    | with_reducible assumption | with_reducible apply State.count_keeps | with_reducible apply State.touch_keeps
    | exact List.Subset.trans (by decide) hc | with_reducible apply State.Keeps.ite | split | dsimp only

theorem State.noteDemand_keeps {C : List Part} (hc : ([.caddy] : List Part) ⊆ C) {s₀ s : State} (h : State.Keeps C
    s₀ s) (r : Req) (miss : List Nat) : State.Keeps C s₀ (State.noteDemand s r miss) := by
  unfold State.noteDemand
  repeat' first
    | with_reducible assumption | with_reducible apply State.noteMiss_keeps | exact List.Subset.trans (by decide) hc
    | with_reducible apply State.Keeps.ite | split | dsimp only

theorem State.serveRead_keeps {C : List Part} (hc : ([.regs, .caddy, .hbm, .reqs, .seq, .link, .can, .out] : List
    Part) ⊆ C) {s₀ s : State} (h : State.Keeps C s₀ s) (r : Req) : State.Keeps C s₀ (State.serveRead s r) := by
  unfold State.serveRead
  repeat' first
    | with_reducible assumption | with_reducible apply State.countConsumed_keeps
    | with_reducible apply State.countRead_keeps | with_reducible apply State.count_keeps
    | with_reducible apply State.guardHit_keeps | with_reducible apply State.noteDemand_keeps
    | with_reducible apply State.reply_keeps | with_reducible apply State.resume_keeps
    | with_reducible apply State.takeRead_keeps | with_reducible apply State.updReq_keeps
    | exact List.Subset.trans (by decide) hc | with_reducible apply State.Keeps.ite | split | intro _ | dsimp only

theorem State.ignoreMark_keeps {C : List Part} (hc : ([.regs, .reqs, .link, .can, .out] : List Part) ⊆ C) {s₀ s :
    State} (h : State.Keeps C s₀ s) (r : Req) : State.Keeps C s₀ (State.ignoreMark s r) := by
  unfold State.ignoreMark
  repeat' first
    | with_reducible assumption | with_reducible apply State.count_keeps | with_reducible apply State.event_keeps
    | with_reducible apply State.updReq_keeps | exact List.Subset.trans (by decide) hc | intro _ | dsimp only

theorem State.onWritePort_keeps {C : List Part} (hc : ([.regs, .caddy, .hbm, .reqs, .seq, .link, .can, .out] :
    List Part) ⊆ C) {s₀ s : State} (h : State.Keeps C s₀ s) (r : Req) (clocks : Nat) : State.Keeps C s₀
    (State.onWritePort s r clocks) := by
  unfold State.onWritePort
  repeat' first
    | with_reducible assumption | with_reducible apply State.noteDemand_keeps
    | with_reducible apply State.resume_keeps | with_reducible apply State.takeWrite_keeps
    | exact List.Subset.trans (by decide) hc | with_reducible apply State.Keeps.ite | split | dsimp only

theorem State.serveWrite_keeps {C : List Part} (hc : ([.regs, .caddy, .hbm, .reqs, .seq, .link, .can, .out] : List
    Part) ⊆ C) {s₀ s : State} (h : State.Keeps C s₀ s) (r : Req) : State.Keeps C s₀ (State.serveWrite s r) := by
  unfold State.serveWrite
  repeat' first
    | with_reducible assumption | with_reducible apply State.onWritePort_keeps
    | exact List.Subset.trans (by decide) hc | dsimp only

theorem State.serveAtomic_keeps {C : List Part} (hc : ([.regs, .caddy, .hbm, .reqs, .seq, .link, .can, .out] :
    List Part) ⊆ C) {s₀ s : State} (h : State.Keeps C s₀ s) (r : Req) : State.Keeps C s₀ (State.serveAtomic s r) := by
  unfold State.serveAtomic
  repeat' first
    | with_reducible assumption | with_reducible apply State.onWritePort_keeps
    | with_reducible apply State.perform_keeps | with_reducible apply State.takeWrite_keeps
    | exact List.Subset.trans (by decide) hc | with_reducible apply State.Keeps.ite | split | dsimp only

theorem State.wakeOne_keeps {C : List Part} (hc : ([.regs, .caddy, .hbm, .reqs, .seq, .link, .can, .out] : List
    Part) ⊆ C) {s₀ s : State} (h : State.Keeps C s₀ s) (id : Nat) : State.Keeps C s₀ (State.wakeOne s id) := by
  unfold State.wakeOne
  repeat' first
    | with_reducible assumption | with_reducible apply State.resume_keeps | exact List.Subset.trans (by decide) hc
    | with_reducible apply State.Keeps.ite | split | dsimp only
    | (apply State.Keeps.pair; (with_reducible assumption))

theorem State.wake_keeps {C : List Part} (hc : ([.regs, .caddy, .hbm, .reqs, .seq, .link, .can, .out] : List Part)
    ⊆ C) {s₀ s : State} (h : State.Keeps C s₀ s) (sec : Nat) : State.Keeps C s₀ (State.wake s sec) := by
  unfold State.wake
  repeat' first
    | with_reducible assumption | with_reducible apply State.wakeOne_keeps | exact List.Subset.trans (by decide) hc
    | (with_reducible apply State.Keeps.foldl; intros) | intro _ | dsimp only

theorem State.correctiveWrite_keeps {C : List Part} (hc : ([.hbm, .reqs] : List Part) ⊆ C) {s₀ s : State} (h :
    State.Keeps C s₀ s) (sec : Nat) (v : BitVec 256) : State.Keeps C s₀ (State.correctiveWrite s sec v) := by
  unfold State.correctiveWrite
  repeat' first
    | with_reducible assumption | with_reducible apply State.hbmWrite_keeps | exact List.Subset.trans (by decide) hc
    | with_reducible apply State.Keeps.ite | split | intro _ | dsimp only

theorem State.noteSector_keeps {C : List Part} (hc : ([.regs, .link, .can, .snap, .out] : List Part) ⊆ C) {s₀ s :
    State} (h : State.Keeps C s₀ s) (sec : Nat) (o : SectorOutcome) : State.Keeps C s₀ (State.noteSector s sec o) := by
  unfold State.noteSector
  repeat' first
    | with_reducible assumption | with_reducible apply State.corrected_keeps
    | with_reducible apply State.count_keeps | with_reducible apply State.logUe_keeps
    | exact List.Subset.trans (by decide) hc | split | dsimp only
    | (apply State.Keeps.pair; (with_reducible assumption))

theorem State.decodeAt_keeps {C : List Part} (hc : ([.regs, .hbm, .reqs, .link, .can, .snap, .out] : List Part) ⊆
    C) {s₀ s : State} (h : State.Keeps C s₀ s) (sec : Nat) (flip : BitVec 288) (sev : Severity) : State.Keeps C s₀
    (State.decodeAt s sec flip sev).1 := by
  unfold State.decodeAt
  repeat' first
    | with_reducible assumption | with_reducible apply State.consumed_keeps
    | with_reducible apply State.correctiveWrite_keeps | with_reducible apply State.noteSector_keeps
    | exact List.Subset.trans (by decide) hc | split | dsimp only
    | (apply State.Keeps.pair; (with_reducible assumption))

theorem State.emptySlice_keeps {C : List Part} (hc : ([.regs, .caddy, .hbm, .reqs] : List Part) ⊆ C) {s₀ s :
    State} (h : State.Keeps C s₀ s) (cad sl : Nat) : State.Keeps C s₀ (State.emptySlice s cad sl) := by
  unfold State.emptySlice
  repeat' first
    | with_reducible assumption | with_reducible apply State.setLine_keeps
    | with_reducible apply State.writeBack_keeps | exact List.Subset.trans (by decide) hc
    | (with_reducible apply State.Keeps.foldl; intros) | intro _ | dsimp only

theorem State.when_keeps {C : List Part} (hc : ([] : List Part) ⊆ C) {s₀ s : State} (h : State.Keeps C s₀ s) (b :
    Bool) (f : State → State) (hf : ∀ {u : State} (a0 : State), State.Keeps C u a0 → State.Keeps C u (f a0)) :
    State.Keeps C s₀ (State.when s b f) := by
  unfold State.when
  repeat' first
    | with_reducible assumption | with_reducible apply hf | with_reducible apply State.Keeps.ite | split | intro _
    | dsimp only

theorem State.sliceRead_keeps {C : List Part} (hc : ([.regs, .clusters, .mcasts, .caddy, .hbm, .reqs, .seq,
    .fabric, .link, .can, .bring, .snap, .out] : List Part) ⊆ C) {s₀ s : State} (h : State.Keeps C s₀ s) (id :
    Nat) (errs : List WordErr) (tagLost : Bool) : State.Keeps C s₀ (State.sliceRead s id errs tagLost) := by
  unfold State.sliceRead
  repeat' first
    | with_reducible assumption | with_reducible apply State.lineErrors_keeps
    | with_reducible apply State.serveRead_keeps | exact List.Subset.trans (by decide) hc
    | with_reducible apply State.Keeps.ite | split | dsimp only
    | (apply State.Keeps.pair; (with_reducible assumption))

theorem State.markedRead_keeps {C : List Part} (hc : ([.regs, .clusters, .mcasts, .caddy, .hbm, .reqs, .seq,
    .fabric, .link, .can, .bring, .snap, .out] : List Part) ⊆ C) {s₀ s : State} (h : State.Keeps C s₀ s) (id :
    Nat) (errs : List WordErr) (tagLost : Bool) : State.Keeps C s₀ (State.markedRead s id errs tagLost) := by
  unfold State.markedRead
  repeat' first
    | with_reducible assumption | with_reducible apply State.ignoreMark_keeps
    | with_reducible apply State.lineErrors_keeps | with_reducible apply State.serveRead_keeps
    | exact List.Subset.trans (by decide) hc | with_reducible apply State.Keeps.ite | split | dsimp only
    | (apply State.Keeps.pair; (with_reducible assumption))

theorem State.portErrors_keeps {C : List Part} (hc : ([.regs, .clusters, .mcasts, .caddy, .hbm, .reqs, .seq,
    .fabric, .link, .can, .bring, .snap, .out] : List Part) ⊆ C) {s₀ s : State} (h : State.Keeps C s₀ s) (r : Req)
    (errs : List WordErr) (tagLost : Bool) (serve : State → Req → State) (hserve : ∀ {u : State} (a0 : State) (a1
    : Req), State.Keeps C u a0 → State.Keeps C u (serve a0 a1)) : State.Keeps C s₀ (State.portErrors s r errs
    tagLost serve) := by
  unfold State.portErrors
  repeat' first
    | with_reducible assumption | with_reducible apply hserve | with_reducible apply State.lineErrors_keeps
    | with_reducible apply State.settle_keeps | exact List.Subset.trans (by decide) hc
    | with_reducible apply State.Keeps.ite | split | intro _ | dsimp only

theorem State.sliceWrite_keeps {C : List Part} (hc : ([.regs, .clusters, .mcasts, .caddy, .hbm, .reqs, .seq,
    .fabric, .link, .can, .bring, .snap, .out] : List Part) ⊆ C) {s₀ s : State} (h : State.Keeps C s₀ s) (id :
    Nat) (errs : List WordErr) (tagLost : Bool) : State.Keeps C s₀ (State.sliceWrite s id errs tagLost) := by
  unfold State.sliceWrite
  repeat' first
    | with_reducible assumption | with_reducible apply State.portErrors_keeps
    | with_reducible apply State.serveWrite_keeps | exact List.Subset.trans (by decide) hc
    | with_reducible apply State.Keeps.ite | split | intro _ | dsimp only
    | (apply State.Keeps.pair; (with_reducible assumption))

theorem State.atomicAtHome_keeps {C : List Part} (hc : ([.regs, .clusters, .mcasts, .caddy, .hbm, .reqs, .seq,
    .fabric, .link, .can, .bring, .snap, .out] : List Part) ⊆ C) {s₀ s : State} (h : State.Keeps C s₀ s) (id :
    Nat) (errs : List WordErr) (tagLost : Bool) : State.Keeps C s₀ (State.atomicAtHome s id errs tagLost) := by
  unfold State.atomicAtHome
  repeat' first
    | with_reducible assumption | with_reducible apply State.portErrors_keeps
    | with_reducible apply State.serveAtomic_keeps | exact List.Subset.trans (by decide) hc
    | with_reducible apply State.Keeps.ite | split | intro _ | dsimp only
    | (apply State.Keeps.pair; (with_reducible assumption))

theorem State.prefetchReq_keeps {C : List Part} (hc : ([.caddy] : List Part) ⊆ C) {s₀ s : State} (h : State.Keeps
    C s₀ s) (base len : Nat) : State.Keeps C s₀ (State.prefetchReq s base len) := by
  unfold State.prefetchReq
  repeat' first
    | with_reducible assumption | with_reducible apply State.prefetchBytes_keeps
    | with_reducible apply State.when_keeps | exact List.Subset.trans (by decide) hc | intro _ | dsimp only

theorem State.prefetchIssue_keeps {C : List Part} (hc : ([.regs, .caddy, .hbm, .reqs] : List Part) ⊆ C) {s₀ s :
    State} (h : State.Keeps C s₀ s) (cad slice : Nat) : State.Keeps C s₀ (State.prefetchIssue s cad slice) := by
  unfold State.prefetchIssue
  repeat' first
    | with_reducible assumption | with_reducible apply State.hbmRead_keeps | exact List.Subset.trans (by decide) hc
    | with_reducible apply State.Keeps.ite | split
    | (apply State.Keeps.ofFields; dsimp only; refine State.Keeps.setCaddy (hc (by decide)) (State.Keeps.toFields ?_))
    | dsimp only | (apply State.Keeps.pair; (with_reducible assumption))

theorem State.flush_keeps {C : List Part} (hc : ([.regs, .caddy, .hbm, .reqs] : List Part) ⊆ C) {s₀ s : State} (h
    : State.Keeps C s₀ s) : State.Keeps C s₀ (State.flush s) := by
  unfold State.flush
  repeat' first
    | with_reducible assumption | with_reducible apply State.setBit_keeps
    | with_reducible apply State.writeBack_keeps | exact List.Subset.trans (by decide) hc
    | (with_reducible apply State.Keeps.foldl; intros) | intro _
    | (apply State.Keeps.ofFields; dsimp only; refine State.Keeps.setCaddy (hc (by decide)) (State.Keeps.toFields ?_))
    | dsimp only

theorem State.flushDone_keeps {C : List Part} (hc : ([.regs, .caddy, .hbm, .reqs] : List Part) ⊆ C) {s₀ s : State}
    (h : State.Keeps C s₀ s) : State.Keeps C s₀ (State.flushDone s) := by
  unfold State.flushDone
  repeat' first
    | with_reducible assumption | with_reducible apply State.flush_keeps | with_reducible apply State.setBit_keeps
    | with_reducible apply State.when_keeps | exact List.Subset.trans (by decide) hc | intro _ | dsimp only

theorem State.drainRegion_keeps {C : List Part} (hc : ([.hbm] : List Part) ⊆ C) {s₀ s : State} (h : State.Keeps C
    s₀ s) (region : Nat) : State.Keeps C s₀ (State.drainRegion s region) := by
  unfold State.drainRegion
  repeat' first
    | with_reducible assumption | with_reducible apply State.hbmPut_keeps | exact List.Subset.trans (by decide) hc
    | (with_reducible apply State.Keeps.foldl; intros) | intro _
    | (apply State.Keeps.ofFields; dsimp only; refine State.Keeps.setHbm (hc (by decide)) (State.Keeps.toFields ?_) rfl rfl)
    | dsimp only

theorem State.dropRegion_keeps {C : List Part} (hc : ([.caddy] : List Part) ⊆ C) {s₀ s : State} (h : State.Keeps C
    s₀ s) (region : Nat) : State.Keeps C s₀ (State.dropRegion s region) := by
  unfold State.dropRegion
  repeat' first
    | with_reducible assumption | intro _
    | (apply State.Keeps.ofFields; dsimp only; refine State.Keeps.setCaddy (hc (by decide)) (State.Keeps.toFields ?_))
    | dsimp only

theorem State.placeRegions_keeps {C : List Part} (hc : ([.regs, .caddy, .hbm] : List Part) ⊆ C) {s₀ s : State} (h
    : State.Keeps C s₀ s) (sub : Nat) (v : Word64) : State.Keeps C s₀ (State.placeRegions s sub v) := by
  unfold State.placeRegions
  repeat' first
    | with_reducible assumption | with_reducible apply State.Keeps.setReg
    | with_reducible apply State.drainRegion_keeps | with_reducible apply State.dropRegion_keeps
    | exact List.Subset.trans (by decide) hc | (with_reducible apply State.Keeps.foldl; intros) | intro _
    | dsimp only

theorem State.walkDone_keeps {C : List Part} (hc : ([.caddy] : List Part) ⊆ C) {s₀ s : State} (h : State.Keeps C
    s₀ s) (region : Nat) : State.Keeps C s₀ (State.walkDone s region) := by
  unfold State.walkDone
  repeat' first
    | with_reducible assumption
    | (apply State.Keeps.ofFields; dsimp only; refine State.Keeps.setCaddy (hc (by decide)) (State.Keeps.toFields ?_))
    | dsimp only

theorem State.setWays_keeps {C : List Part} (hc : ([.regs] : List Part) ⊆ C) {s₀ s : State} (h : State.Keeps C s₀
    s) (ways : Nat) : State.Keeps C s₀ (State.setWays s ways) := by
  unfold State.setWays
  repeat' first
    | with_reducible assumption | with_reducible apply State.setFld_keeps
    | with_reducible apply State.setTokFree_keeps | exact List.Subset.trans (by decide) hc
    | (with_reducible apply State.Keeps.foldl; intros) | intro _ | dsimp only

theorem State.firstWalkDone_keeps {C : List Part} (hc : ([.regs, .caddy, .seq] : List Part) ⊆ C) {s₀ s : State} (h
    : State.Keeps C s₀ s) : State.Keeps C s₀ (State.firstWalkDone s) := by
  unfold State.firstWalkDone
  repeat' first
    | with_reducible assumption | with_reducible apply State.pinCommit_keeps
    | exact List.Subset.trans (by decide) hc | split | dsimp only
    | (apply State.Keeps.pair; (with_reducible assumption))

theorem State.secondWalkDone_keeps {C : List Part} (hc : ([.regs, .caddy, .seq, .link, .can, .out] : List Part) ⊆
    C) {s₀ s : State} (h : State.Keeps C s₀ s) : State.Keeps C s₀ (State.secondWalkDone s) := by
  unfold State.secondWalkDone
  repeat' first
    | with_reducible assumption | with_reducible apply State.markPinned_keeps
    | with_reducible apply State.noteSectors_keeps | with_reducible apply State.pinDone_keeps
    | exact List.Subset.trans (by decide) hc | with_reducible apply State.Keeps.ite | split | intro _
    | (apply State.Keeps.ofFields; dsimp only; refine State.Keeps.setCaddy (hc (by decide)) (State.Keeps.toFields ?_))
    | dsimp only | (apply State.Keeps.pair; (with_reducible assumption))

theorem State.prefDone_keeps {C : List Part} (hc : ([.regs, .caddy] : List Part) ⊆ C) {s₀ s : State} (h :
    State.Keeps C s₀ s) : State.Keeps C s₀ (State.prefDone s) := by
  unfold State.prefDone
  repeat' first
    | with_reducible assumption | with_reducible apply State.setBit_keeps | exact List.Subset.trans (by decide) hc
    | with_reducible apply State.Keeps.ite | split | intro _
    | (apply State.Keeps.ofFields; dsimp only; refine State.Keeps.setCaddy (hc (by decide)) (State.Keeps.toFields ?_))
    | dsimp only

theorem State.unpinDone_keeps {C : List Part} (hc : ([.regs, .caddy, .seq, .link, .can, .out] : List Part) ⊆ C)
    {s₀ s : State} (h : State.Keeps C s₀ s) : State.Keeps C s₀ (State.unpinDone s) := by
  unfold State.unpinDone
  repeat' first
    | with_reducible assumption | with_reducible apply State.markPinned_keeps
    | with_reducible apply State.pinEnd_keeps | exact List.Subset.trans (by decide) hc | split | dsimp only
    | (apply State.Keeps.pair; (with_reducible assumption))

theorem State.killWalk_keeps {C : List Part} (hc : ([.regs, .caddy, .seq, .link, .can, .out] : List Part) ⊆ C) {s₀
    s : State} (h : State.Keeps C s₀ s) : State.Keeps C s₀ (State.killWalk s) := by
  unfold State.killWalk
  repeat' first
    | with_reducible assumption | with_reducible apply State.markPinned_keeps
    | with_reducible apply State.notePinBusy_keeps | exact List.Subset.trans (by decide) hc | split
    | (apply State.Keeps.ofFields; dsimp only; refine State.Keeps.setCaddy (hc (by decide)) (State.Keeps.toFields ?_))
    | dsimp only | (apply State.Keeps.pair; (with_reducible assumption))

theorem State.thrashCaddy_keeps {C : List Part} (hc : ([.regs, .link, .can, .out] : List Part) ⊆ C) {s₀ s : State}
    (h : State.Keeps C s₀ s) (cad : Nat) : State.Keeps C s₀ (State.thrashCaddy s cad) := by
  unfold State.thrashCaddy
  repeat' first
    | with_reducible assumption | with_reducible apply State.thrash_keeps | exact List.Subset.trans (by decide) hc
    | with_reducible apply State.Keeps.ite | split | dsimp only
    | (apply State.Keeps.pair; (with_reducible assumption))

theorem State.windowEnd_keeps {C : List Part} (hc : ([.regs, .caddy, .link, .can, .out] : List Part) ⊆ C) {s₀ s :
    State} (h : State.Keeps C s₀ s) : State.Keeps C s₀ (State.windowEnd s) := by
  unfold State.windowEnd
  repeat' first
    | with_reducible assumption | with_reducible apply State.thrashCaddy_keeps
    | with_reducible apply State.when_keeps | exact List.Subset.trans (by decide) hc | intro _
    | (apply State.Keeps.ofFields; dsimp only; refine State.Keeps.setCaddy (hc (by decide)) (State.Keeps.toFields ?_))
    | dsimp only

theorem State.dropHbm_keeps {C : List Part} (hc : ([.hbm] : List Part) ⊆ C) {s₀ s : State} (h : State.Keeps C s₀
    s) (id : Nat) : State.Keeps C s₀ (State.dropHbm s id) := by
  unfold State.dropHbm
  repeat' first
    | with_reducible assumption | intro _
    | (apply State.Keeps.ofFields; dsimp only; refine State.Keeps.setHbm (hc (by decide)) (State.Keeps.toFields ?_) rfl rfl)
    | dsimp only

theorem State.keepSector_keeps {C : List Part} (hc : ([.reqs] : List Part) ⊆ C) {s₀ s : State} (h : State.Keeps C
    s₀ s) (sec : Nat) (v : BitVec 256) (p : Bool) : State.Keeps C s₀ (State.keepSector s sec v p) := by
  unfold State.keepSector
  repeat' first
    | with_reducible assumption | with_reducible apply State.Keeps.ite | split | intro _
    | (apply State.Keeps.ofFields; dsimp only; refine State.Keeps.setReqs (hc (by decide)) (State.Keeps.toFields ?_))
    | dsimp only

theorem State.deliver_keeps {C : List Part} (hc : ([.regs, .clusters, .mcasts, .caddy, .hbm, .reqs, .seq, .fabric,
    .link, .can, .snap, .out] : List Part) ⊆ C) {s₀ s : State} (h : State.Keeps C s₀ s) (q : HbmReq) (v : BitVec
    256) (p : Bool) : State.Keeps C s₀ (State.deliver s q v p) := by
  unfold State.deliver
  repeat' first
    | with_reducible assumption | with_reducible apply State.fillSector_keeps
    | with_reducible apply State.keepSector_keeps | with_reducible apply State.settle_keeps
    | with_reducible apply State.wake_keeps | exact List.Subset.trans (by decide) hc
    | with_reducible apply State.Keeps.ite | split | dsimp only

theorem State.markDirty_keeps {C : List Part} (hc : ([.caddy] : List Part) ⊆ C) {s₀ s : State} (h : State.Keeps C
    s₀ s) (sec : Nat) : State.Keeps C s₀ (State.markDirty s sec) := by
  unfold State.markDirty
  repeat' first
    | with_reducible assumption | with_reducible apply State.setLine_keeps | exact List.Subset.trans (by decide) hc
    | split | dsimp only | (apply State.Keeps.pair; (with_reducible assumption))

theorem State.scrubWrite_keeps {C : List Part} (hc : ([.hbm] : List Part) ⊆ C) {s₀ s : State} (h : State.Keeps C
    s₀ s) (q : HbmReq) (v : BitVec 256) (p : Bool) : State.Keeps C s₀ (State.scrubWrite s q v p) := by
  unfold State.scrubWrite
  repeat' first
    | with_reducible assumption | with_reducible apply State.Keeps.ite | split | intro _
    | (apply State.Keeps.ofFields; dsimp only; refine State.Keeps.setHbm (hc (by decide)) (State.Keeps.toFields ?_) rfl rfl)
    | dsimp only

theorem State.scrubReturn_keeps {C : List Part} (hc : ([.regs, .caddy, .hbm, .link, .can, .snap, .out] : List
    Part) ⊆ C) {s₀ s : State} (h : State.Keeps C s₀ s) (q : HbmReq) (flip : BitVec 288) (sev : Severity) :
    State.Keeps C s₀ (State.scrubReturn s q flip sev) := by
  unfold State.scrubReturn
  repeat' first
    | with_reducible assumption | with_reducible apply State.count_keeps | with_reducible apply State.dropHbm_keeps
    | with_reducible apply State.markDirty_keeps | with_reducible apply State.noteSector_keeps
    | with_reducible apply State.scrubWrite_keeps | exact List.Subset.trans (by decide) hc
    | with_reducible apply State.Keeps.ite | split | dsimp only
    | (apply State.Keeps.pair; (with_reducible assumption))

theorem State.sectorReturn_keeps {C : List Part} (hc : ([.regs, .clusters, .mcasts, .caddy, .hbm, .reqs, .seq,
    .fabric, .link, .can, .snap, .out] : List Part) ⊆ C) {s₀ s : State} (h : State.Keeps C s₀ s) (id : Nat) (flip
    : BitVec 288) (sev : Severity) : State.Keeps C s₀ (State.sectorReturn s id flip sev) := by
  unfold State.sectorReturn
  repeat' first
    | with_reducible assumption | with_reducible apply State.decodeAt_keeps
    | with_reducible apply State.deliver_keeps | with_reducible apply State.dropHbm_keeps
    | with_reducible apply State.scrubReturn_keeps | exact List.Subset.trans (by decide) hc
    | with_reducible apply State.Keeps.ite | split | dsimp only
    | (apply State.Keeps.pair; (with_reducible assumption))

theorem State.writeIssue_keeps {C : List Part} (hc : ([.regs, .hbm, .link, .can, .snap, .out] : List Part) ⊆ C)
    {s₀ s : State} (h : State.Keeps C s₀ s) (id : Nat) (flip : BitVec 288) (sev : Severity) : State.Keeps C s₀
    (State.writeIssue s id flip sev) := by
  unfold State.writeIssue
  repeat' first
    | with_reducible assumption | with_reducible apply State.dropHbm_keeps | with_reducible apply State.hbmPut_keeps
    | with_reducible apply State.noteSector_keeps | exact List.Subset.trans (by decide) hc
    | with_reducible apply State.Keeps.ite | split | dsimp only
    | (apply State.Keeps.pair; (with_reducible assumption))

theorem State.freeDetector_keeps {C : List Part} (hc : ([.caddy] : List Part) ⊆ C) {s₀ s : State} (h : State.Keeps
    C s₀ s) (cad det : Nat) : State.Keeps C s₀ (State.freeDetector s cad det) := by
  unfold State.freeDetector
  repeat' first
    | with_reducible assumption | with_reducible apply State.Keeps.ite | split
    | (apply State.Keeps.ofFields; dsimp only; refine State.Keeps.setCaddy (hc (by decide)) (State.Keeps.toFields ?_))
    | dsimp only | (apply State.Keeps.pair; (with_reducible assumption))

theorem State.hbmTemp_keeps {C : List Part} (hc : ([.regs, .hbm] : List Part) ⊆ C) {s₀ s : State} (h : State.Keeps
    C s₀ s) (st : Nat) (t : Int) : State.Keeps C s₀ (State.hbmTemp s st t) := by
  unfold State.hbmTemp
  repeat' first
    | with_reducible assumption | with_reducible apply State.setFld_keeps | exact List.Subset.trans (by decide) hc
    | with_reducible apply State.Keeps.ite | split
    | (apply State.Keeps.ofFields; dsimp only; refine State.Keeps.setHbm (hc (by decide)) (State.Keeps.toFields ?_) rfl rfl)
    | dsimp only

theorem State.hbmThrottle_keeps {C : List Part} (hc : ([.regs, .hbm, .link, .can, .out] : List Part) ⊆ C) {s₀ s :
    State} (h : State.Keeps C s₀ s) (st : Nat) (t : Int) : State.Keeps C s₀ (State.hbmThrottle s st t) := by
  unfold State.hbmThrottle
  repeat' first
    | with_reducible assumption | with_reducible apply State.event_keeps | exact List.Subset.trans (by decide) hc
    | with_reducible apply State.Keeps.ite | split
    | (apply State.Keeps.ofFields; dsimp only; refine State.Keeps.setHbm (hc (by decide)) (State.Keeps.toFields ?_) rfl rfl)
    | dsimp only

theorem State.refresh_keeps {C : List Part} (hc : ([.hbm] : List Part) ⊆ C) {s₀ s : State} (h : State.Keeps C s₀
    s) (st ch pc bank : Nat) : State.Keeps C s₀ (State.refresh s st ch pc bank) := by
  unfold State.refresh
  repeat' first
    | with_reducible assumption | with_reducible apply State.when_keeps | exact List.Subset.trans (by decide) hc
    | intro _
    | (apply State.Keeps.ofFields; dsimp only; refine State.Keeps.setHbm (hc (by decide)) (State.Keeps.toFields ?_) rfl rfl)
    | dsimp only

theorem State.clearCredits_keeps {C : List Part} (hc : ([.arb] : List Part) ⊆ C) {s₀ s : State} (h : State.Keeps C
    s₀ s) : State.Keeps C s₀ (State.clearCredits s) := by
  unfold State.clearCredits
  repeat' first
    | with_reducible assumption | intro _
    | (apply State.Keeps.ofFields; dsimp only; refine State.Keeps.setArb (hc (by decide)) (State.Keeps.toFields ?_))
    | dsimp only

theorem State.fixup_keeps {C : List Part} (hc : ([.caddy] : List Part) ⊆ C) {s₀ s : State} (h : State.Keeps C s₀
    s) : State.Keeps C s₀ (State.fixup s) := by
  unfold State.fixup
  repeat' first
    | with_reducible assumption
    | (apply State.Keeps.ofFields; dsimp only; refine State.Keeps.setCaddy (hc (by decide)) (State.Keeps.toFields ?_))
    | dsimp only

theorem State.repairRow_keeps {C : List Part} (hc : ([.regs, .caddy, .hbm, .reqs] : List Part) ⊆ C) {s₀ s : State}
    (h : State.Keeps C s₀ s) (cad sl set way : Nat) : State.Keeps C s₀ (State.repairRow s cad sl set way) := by
  unfold State.repairRow
  repeat' first
    | with_reducible assumption | with_reducible apply State.setLine_keeps
    | with_reducible apply State.writeBack_keeps | exact List.Subset.trans (by decide) hc
    | (apply State.Keeps.ofFields; dsimp only; refine State.Keeps.setCaddy (hc (by decide)) (State.Keeps.toFields ?_))
    | dsimp only

theorem State.softRepair_keeps {C : List Part} (hc : ([.regs, .caddy, .hbm, .reqs, .link, .can, .snap, .out] :
    List Part) ⊆ C) {s₀ s : State} (h : State.Keeps C s₀ s) (cad i : Nat) : State.Keeps C s₀ (State.softRepair s
    cad i) := by
  unfold State.softRepair
  repeat' first
    | with_reducible assumption | with_reducible apply State.Keeps.setReg
    | with_reducible apply State.intEvent_keeps | with_reducible apply State.repairRow_keeps
    | exact List.Subset.trans (by decide) hc | with_reducible apply State.Keeps.ite | split | dsimp only

theorem State.storeRepairs_keeps {C : List Part} (hc : ([.caddy, .flash] : List Part) ⊆ C) {s₀ s : State} (h :
    State.Keeps C s₀ s) : State.Keeps C s₀ (State.storeRepairs s) := by
  unfold State.storeRepairs
  repeat' first
    | with_reducible assumption | with_reducible apply State.when_keeps | exact List.Subset.trans (by decide) hc
    | intro _
    | (apply State.Keeps.ofFields; dsimp only; refine State.Keeps.setCaddy (hc (by decide)) (State.Keeps.setFlash (hc (by decide)) (State.Keeps.toFields ?_)))
    | dsimp only

theorem State.lapDone_keeps {C : List Part} (hc : ([.regs, .hbm] : List Part) ⊆ C) {s₀ s : State} (h : State.Keeps
    C s₀ s) (caddyWalk : Bool) : State.Keeps C s₀ (State.lapDone s caddyWalk) := by
  unfold State.lapDone
  repeat' first
    | with_reducible assumption | with_reducible apply State.Keeps.setReg | exact List.Subset.trans (by decide) hc
    | with_reducible apply State.Keeps.ite | split
    | (apply State.Keeps.ofFields; dsimp only; refine State.Keeps.setHbm (hc (by decide)) (State.Keeps.toFields ?_) rfl rfl)
    | dsimp only

theorem State.noteScrub_keeps {C : List Part} (hc : ([.hbm] : List Part) ⊆ C) {s₀ s : State} (h : State.Keeps C s₀
    s) (k t : Nat) : State.Keeps C s₀ (State.noteScrub s k t) := by
  unfold State.noteScrub
  repeat' first
    | with_reducible assumption
    | (apply State.Keeps.ofFields; dsimp only; refine State.Keeps.setHbm (hc (by decide)) (State.Keeps.toFields ?_) rfl rfl)
    | dsimp only

theorem State.scrubHbm_keeps {C : List Part} (hc : ([.regs, .clusters, .mcasts, .caddy, .hbm, .reqs, .seq,
    .fabric, .link, .can, .snap, .out] : List Part) ⊆ C) {s₀ s : State} (h : State.Keeps C s₀ s) (st ch pc : Nat)
    (flip : BitVec 288) (sev : Severity) : State.Keeps C s₀ (State.scrubHbm s st ch pc flip sev) := by
  unfold State.scrubHbm
  repeat' first
    | with_reducible assumption | with_reducible apply State.hbmEnqueue_keeps
    | with_reducible apply State.lapDone_keeps | with_reducible apply State.noteScrub_keeps
    | with_reducible apply State.sectorReturn_keeps | exact List.Subset.trans (by decide) hc
    | with_reducible apply State.Keeps.ite | split
    | (apply State.Keeps.ofFields; dsimp only; refine State.Keeps.setHbm (hc (by decide)) (State.Keeps.toFields ?_) rfl rfl)
    | dsimp only | (apply State.Keeps.pair; (with_reducible assumption))

theorem State.scrubRow_keeps {C : List Part} (hc : ([.regs, .clusters, .mcasts, .caddy, .hbm, .reqs, .seq,
    .fabric, .link, .can, .bring, .snap, .out] : List Part) ⊆ C) {s₀ s : State} (h : State.Keeps C s₀ s) (cad sl
    pos : Nat) (errs : List WordErr) (tagLost : Bool) : State.Keeps C s₀ (State.scrubRow s cad sl pos errs
    tagLost) := by
  unfold State.scrubRow
  repeat' first
    | with_reducible assumption | with_reducible apply State.tagLoss_keeps
    | with_reducible apply State.takeRead_keeps | with_reducible apply State.wordErrors_keeps
    | exact List.Subset.trans (by decide) hc | with_reducible apply State.Keeps.ite | split
    | (apply State.Keeps.ofFields; dsimp only; refine State.Keeps.setHbm (hc (by decide)) (State.Keeps.toFields ?_) rfl rfl)
    | dsimp only

theorem State.scrubLine_keeps {C : List Part} (hc : ([.regs, .clusters, .mcasts, .caddy, .hbm, .reqs, .seq,
    .fabric, .link, .can, .bring, .snap, .out] : List Part) ⊆ C) {s₀ s : State} (h : State.Keeps C s₀ s) (cad :
    Cad) (sl : Fin 256) (errs : List WordErr) (tagLost : Bool) : State.Keeps C s₀ (State.scrubLine s cad sl errs
    tagLost) := by
  unfold State.scrubLine
  repeat' first
    | with_reducible assumption | with_reducible apply State.dropReq_keeps
    | with_reducible apply State.lapDone_keeps | with_reducible apply State.noteScrub_keeps
    | with_reducible apply State.scrubRow_keeps | exact List.Subset.trans (by decide) hc
    | with_reducible apply State.Keeps.ite | split | intro _
    | (apply State.Keeps.ofFields; dsimp only; refine State.Keeps.setNextReq (hc (by decide)) (State.Keeps.setReqs (hc (by decide)) (State.Keeps.toFields ?_)))
    | dsimp only | (apply State.Keeps.pair; (with_reducible assumption))

end Sys2Proof.Machine
end

