-- ==== Sys2Proof/Laws/KeepsCluster.lean ====
section
/-! SUPPORT. What the operations of matrix engines and thread-group processors keep. -/

namespace Sys2Proof.Machine

theorem State.epilogueDraw_keeps {C : List Part} (hc : ([.clusters, .seq] : List Part) ⊆ C) {s₀ s : State} (h :
    State.Keeps C s₀ s) (cl lane : Nat) (keyed : Bool) (n : Nat) : State.Keeps C s₀ (State.epilogueDraw s cl lane
    keyed n).1 := by
  unfold State.epilogueDraw
  repeat' first
    | with_reducible assumption | with_reducible apply State.setEngine_keeps
    | with_reducible apply State.setLane_keeps | exact List.Subset.trans (by decide) hc
    | with_reducible apply State.Keeps.ite | with_reducible apply State.Keeps.iteFst | split | dsimp only
    | (apply State.Keeps.pair; (with_reducible assumption))

theorem State.drawModes_keeps {C : List Part} (hc : ([.clusters, .seq] : List Part) ⊆ C) (cl : Nat) (d : Desc) (y0
    : List Nat) {s₀ y1 : State} (h : State.Keeps C s₀ y1) : State.Keeps C s₀ (State.drawModes cl d y0 y1).1 := by
  induction y0 generalizing y1 with
  | nil => exact h
  | cons a l ih =>
    unfold State.drawModes
    dsimp only
    split
    · exact ih (State.epilogueDraw_keeps (List.Subset.trans (by decide) hc) h _ _ _ _)
    · exact ih h

theorem State.epilogueMem_keeps {C : List Part} (hc : ([.regs, .clusters, .reqs, .fabric, .link, .can, .out] :
    List Part) ⊆ C) {s₀ s : State} (h : State.Keeps C s₀ s) (cl : Cl) (pos : Nat) (addr : Word64) (bs : List (Byte
    × Bool)) (alloc : Bool) (ctx : Option Ctx) : State.Keeps C s₀ (State.epilogueMem s cl pos addr bs alloc ctx) := by
  unfold State.epilogueMem
  repeat' first
    | with_reducible assumption | with_reducible apply State.request_keeps
    | with_reducible apply State.setEngine_keeps | exact List.Subset.trans (by decide) hc
    | (with_reducible apply State.Keeps.foldl; intros) | intro _ | dsimp only

theorem State.epilogueStore_keeps {C : List Part} (hc : ([.regs, .clusters, .reqs, .fabric, .link, .can, .out] :
    List Part) ⊆ C) {s₀ s : State} (h : State.Keeps C s₀ s) (cl : Cl) (d : Desc) (pos m n : Nat) (bs : List (Byte
    × Bool)) (scale : Option (Byte × Bool)) (ctx : Option Ctx) : State.Keeps C s₀ (State.epilogueStore s cl d pos
    m n bs scale ctx) := by
  unfold State.epilogueStore
  repeat' first
    | with_reducible assumption | with_reducible apply State.epilogueMem_keeps
    | with_reducible apply State.setCluster_keeps | exact List.Subset.trans (by decide) hc
    | with_reducible apply State.Keeps.ite | split | dsimp only
    | (apply State.Keeps.pair; (with_reducible assumption))

theorem State.markPoison_keeps {C : List Part} (hc : ([.seq] : List Part) ⊆ C) {s₀ s : State} (h : State.Keeps C
    s₀ s) (cl : Nat) (p : Bool) : State.Keeps C s₀ (State.markPoison s cl p) := by
  unfold State.markPoison
  repeat' first
    | with_reducible assumption | with_reducible apply State.updJob_keeps | exact List.Subset.trans (by decide) hc
    | with_reducible apply State.Keeps.ite | split | intro _ | dsimp only
    | (apply State.Keeps.pair; (with_reducible assumption))

theorem State.epilogueChunk_keeps {C : List Part} (hc : ([.regs, .clusters, .reqs, .seq, .fabric, .link, .can,
    .out] : List Part) ⊆ C) {s₀ s : State} (h : State.Keeps C s₀ s) (cl : Cl) (h : Nat) (g : GroupRun) (r :
    DescRun) : State.Keeps C s₀ (State.epilogueChunk s cl h g r) := by
  unfold State.epilogueChunk
  repeat' first
    | with_reducible assumption | with_reducible apply State.consumed_keeps
    | with_reducible apply State.drawModes_keeps | with_reducible apply State.epilogueStore_keeps
    | with_reducible apply State.markPoison_keeps | with_reducible apply State.raiseExc_keeps
    | with_reducible apply State.setEngine_keeps | exact List.Subset.trans (by decide) hc
    | with_reducible apply State.Keeps.ite | split | intro _ | dsimp only
    | (apply State.Keeps.pair; (with_reducible assumption))

theorem State.descriptorRead_keeps {C : List Part} (hc : ([.regs, .clusters, .reqs, .fabric, .link, .can, .out] :
    List Part) ⊆ C) {s₀ s : State} (h : State.Keeps C s₀ s) (cl : Cl) : State.Keeps C s₀ (State.descriptorRead s
    cl) := by
  unfold State.descriptorRead
  repeat' first
    | with_reducible assumption | with_reducible apply State.request_keeps
    | with_reducible apply State.setEngine_keeps | exact List.Subset.trans (by decide) hc
    | with_reducible apply State.Keeps.ite | split | intro _ | dsimp only

theorem State.acceptDesc_keeps {C : List Part} (hc : ([.clusters] : List Part) ⊆ C) {s₀ s : State} (h :
    State.Keeps C s₀ s) (cl : Cl) (words : List Word64) : State.Keeps C s₀ (State.acceptDesc s cl words) := by
  unfold State.acceptDesc
  repeat' first
    | with_reducible assumption | with_reducible apply State.setEngine_keeps
    | exact List.Subset.trans (by decide) hc | dsimp only

theorem State.stopAt_keeps {C : List Part} (hc : ([.clusters, .reqs, .seq] : List Part) ⊆ C) {s₀ s : State} (h :
    State.Keeps C s₀ s) (cl cause pos : Nat) : State.Keeps C s₀ (State.stopAt s cl cause pos) := by
  unfold State.stopAt
  repeat' first
    | with_reducible assumption | with_reducible apply State.setEngine_keeps
    | with_reducible apply State.stopList_keeps | exact List.Subset.trans (by decide) hc | dsimp only

theorem State.descriptorReturn_keeps {C : List Part} (hc : ([.regs, .clusters, .mcasts, .caddy, .reqs, .seq,
    .fabric, .link, .can, .snap, .out] : List Part) ⊆ C) {s₀ s : State} (h : State.Keeps C s₀ s) (cl : Cl) :
    State.Keeps C s₀ (State.descriptorReturn s cl) := by
  unfold State.descriptorReturn
  repeat' first
    | with_reducible assumption | with_reducible apply State.acceptDesc_keeps
    | with_reducible apply State.dropReq_keeps | with_reducible apply State.killFrom_keeps
    | with_reducible apply State.stopAt_keeps | exact List.Subset.trans (by decide) hc | split | intro _
    | dsimp only | (apply State.Keeps.pair; (with_reducible assumption))

theorem State.cupError_keeps {C : List Part} (hc : ([.regs, .clusters, .caddy, .link, .can, .snap, .out] : List
    Part) ⊆ C) {s₀ s : State} (h : State.Keeps C s₀ s) (cl : Nat) (e : WordErr) : State.Keeps C s₀ (State.cupError
    s cl e) := by
  unfold State.cupError
  repeat' first
    | with_reducible assumption | with_reducible apply State.setCluster_keeps
    | with_reducible apply State.sramWord_keeps | exact List.Subset.trans (by decide) hc
    | with_reducible apply State.Keeps.ite | split | intro _ | dsimp only

theorem State.meError_keeps {C : List Part} (hc : ([.regs, .clusters, .caddy, .link, .can, .snap, .out] : List
    Part) ⊆ C) {s₀ s : State} (h : State.Keeps C s₀ s) (cl pos p : Nat) (e : MeErr) : State.Keeps C s₀
    (State.meError s cl pos p e) := by
  unfold State.meError
  repeat' first
    | with_reducible assumption | with_reducible apply State.cupError_keeps
    | with_reducible apply State.setEngine_keeps | with_reducible apply State.sramWord_keeps
    | exact List.Subset.trans (by decide) hc | split | intro _ | dsimp only
    | (apply State.Keeps.pair; (with_reducible assumption))

theorem State.meErrors_keeps {C : List Part} (hc : ([.regs, .clusters, .caddy, .link, .can, .snap, .out] : List
    Part) ⊆ C) {s₀ s : State} (h : State.Keeps C s₀ s) (cl pos p : Nat) (errs : List MeErr) : State.Keeps C s₀
    (State.meErrors s cl pos p errs) := by
  unfold State.meErrors
  repeat' first
    | with_reducible assumption | with_reducible apply State.meError_keeps | exact List.Subset.trans (by decide) hc
    | (with_reducible apply State.Keeps.foldl; intros) | intro _ | dsimp only

theorem State.withDesc_keeps {C : List Part} (hc : ([] : List Part) ⊆ C) {s₀ s : State} (h : State.Keeps C s₀ s)
    (cl pos : Nat) (f : State → DescRun → State) (hf : ∀ {u : State} (a0 : State) (a1 : DescRun), State.Keeps C u
    a0 → State.Keeps C u (f a0 a1)) : State.Keeps C s₀ (State.withDesc s cl pos f) := by
  unfold State.withDesc
  repeat' first
    | with_reducible assumption | with_reducible apply hf | split | intro _ | dsimp only
    | (apply State.Keeps.pair; (with_reducible assumption))

theorem State.loadTile_keeps {C : List Part} (hc : ([.regs, .clusters] : List Part) ⊆ C) {s₀ s : State} (h :
    State.Keeps C s₀ s) (cl : Cl) (r : DescRun) : State.Keeps C s₀ (State.loadTile s cl r) := by
  unfold State.loadTile
  repeat' first
    | with_reducible assumption | with_reducible apply State.consumed_keeps
    | with_reducible apply State.setEngine_keeps | exact List.Subset.trans (by decide) hc | split | intro _
    | dsimp only | (apply State.Keeps.pair; (with_reducible assumption))

theorem State.stationaryLoad_keeps {C : List Part} (hc : ([.regs, .clusters, .caddy, .link, .can, .snap, .out] :
    List Part) ⊆ C) {s₀ s : State} (h : State.Keeps C s₀ s) (cl : Cl) (errs : List MeErr) : State.Keeps C s₀
    (State.stationaryLoad s cl errs) := by
  unfold State.stationaryLoad
  repeat' first
    | with_reducible assumption | with_reducible apply State.loadTile_keeps
    | with_reducible apply State.meErrors_keeps | with_reducible apply State.withDesc_keeps
    | exact List.Subset.trans (by decide) hc | with_reducible apply State.Keeps.ite | split | intro _ | dsimp only
    | (apply State.Keeps.pair; (with_reducible assumption))

theorem State.issueVector_keeps {C : List Part} (hc : ([.regs, .clusters, .seq] : List Part) ⊆ C) {s₀ s : State}
    (h : State.Keeps C s₀ s) (cl : Cl) (r : DescRun) : State.Keeps C s₀ (State.issueVector s cl r) := by
  unfold State.issueVector
  repeat' first
    | with_reducible assumption | with_reducible apply State.consumed_keeps
    | with_reducible apply State.raiseExc_keeps | with_reducible apply State.setEngine_keeps
    | exact List.Subset.trans (by decide) hc | with_reducible apply State.Keeps.ite | split | intro _ | dsimp only
    | (apply State.Keeps.pair; (with_reducible assumption))

theorem State.movingVector_keeps {C : List Part} (hc : ([.regs, .clusters, .caddy, .seq, .link, .can, .snap, .out]
    : List Part) ⊆ C) {s₀ s : State} (h : State.Keeps C s₀ s) (cl : Cl) (errs : List MeErr) : State.Keeps C s₀
    (State.movingVector s cl errs) := by
  unfold State.movingVector
  repeat' first
    | with_reducible assumption | with_reducible apply State.issueVector_keeps
    | with_reducible apply State.meErrors_keeps | with_reducible apply State.withDesc_keeps
    | exact List.Subset.trans (by decide) hc | with_reducible apply State.Keeps.ite | split | intro _ | dsimp only
    | (apply State.Keeps.pair; (with_reducible assumption))

theorem State.issueTile_keeps {C : List Part} (hc : ([.regs, .clusters, .seq] : List Part) ⊆ C) {s₀ s : State} (h
    : State.Keeps C s₀ s) (cl : Cl) (r : DescRun) : State.Keeps C s₀ (State.issueTile s cl r) := by
  unfold State.issueTile
  repeat' first
    | with_reducible assumption | with_reducible apply State.consumed_keeps
    | with_reducible apply State.raiseExc_keeps | with_reducible apply State.setEngine_keeps
    | exact List.Subset.trans (by decide) hc | (with_reducible apply State.Keeps.foldl; intros)
    | with_reducible apply State.Keeps.ite | split | intro _ | dsimp only
    | (apply State.Keeps.pair; (with_reducible assumption))

theorem State.osTileIssue_keeps {C : List Part} (hc : ([.regs, .clusters, .caddy, .seq, .link, .can, .snap, .out]
    : List Part) ⊆ C) {s₀ s : State} (h : State.Keeps C s₀ s) (cl : Cl) (errs : List MeErr) : State.Keeps C s₀
    (State.osTileIssue s cl errs) := by
  unfold State.osTileIssue
  repeat' first
    | with_reducible assumption | with_reducible apply State.issueTile_keeps
    | with_reducible apply State.meErrors_keeps | with_reducible apply State.withDesc_keeps
    | exact List.Subset.trans (by decide) hc | with_reducible apply State.Keeps.ite | split | intro _ | dsimp only
    | (apply State.Keeps.pair; (with_reducible assumption))

theorem State.drainStart_keeps {C : List Part} (hc : ([.clusters] : List Part) ⊆ C) {s₀ s : State} (h :
    State.Keeps C s₀ s) (cl : Cl) : State.Keeps C s₀ (State.drainStart s cl) := by
  unfold State.drainStart
  repeat' first
    | with_reducible assumption | with_reducible apply State.setEngine_keeps
    | exact List.Subset.trans (by decide) hc | with_reducible apply State.Keeps.ite | split | intro _ | dsimp only
    | (apply State.Keeps.pair; (with_reducible assumption))

theorem State.epilogueWrite_keeps {C : List Part} (hc : ([.regs, .clusters, .mcasts, .caddy, .reqs, .seq, .fabric,
    .link, .can, .snap, .out] : List Part) ⊆ C) {s₀ s : State} (h : State.Keeps C s₀ s) (cl : Cl) (errs : List
    MeErr) : State.Keeps C s₀ (State.epilogueWrite s cl errs) := by
  unfold State.epilogueWrite
  repeat' first
    | with_reducible assumption | with_reducible apply State.epilogueChunk_keeps
    | with_reducible apply State.meErrors_keeps | with_reducible apply State.setEngine_keeps
    | with_reducible apply State.settle_keeps | with_reducible apply State.withDesc_keeps
    | exact List.Subset.trans (by decide) hc | with_reducible apply State.Keeps.ite | split | intro _ | dsimp only
    | (apply State.Keeps.pair; (with_reducible assumption))

theorem State.fillIssue_keeps {C : List Part} (hc : ([.regs, .clusters, .reqs, .fabric, .link, .can, .out] : List
    Part) ⊆ C) {s₀ s : State} (h : State.Keeps C s₀ s) (cl : Cl) (r : DescRun) (g : Seg) : State.Keeps C s₀
    (State.fillIssue s cl r g) := by
  unfold State.fillIssue
  repeat' first
    | with_reducible assumption | with_reducible apply State.request_keeps
    | with_reducible apply State.setEngine_keeps | exact List.Subset.trans (by decide) hc
    | (with_reducible apply State.Keeps.foldl; intros) | split | intro _ | dsimp only
    | (apply State.Keeps.pair; (with_reducible assumption))

theorem State.fillRequest_keeps {C : List Part} (hc : ([.regs, .clusters, .reqs, .fabric, .link, .can, .out] :
    List Part) ⊆ C) {s₀ s : State} (h : State.Keeps C s₀ s) (cl : Cl) (g : Seg) : State.Keeps C s₀
    (State.fillRequest s cl g) := by
  unfold State.fillRequest
  repeat' first
    | with_reducible assumption | with_reducible apply State.fillIssue_keeps
    | exact List.Subset.trans (by decide) hc | with_reducible apply State.Keeps.ite | split | intro _ | dsimp only
    | (apply State.Keeps.pair; (with_reducible assumption))

theorem State.fillArrive_keeps {C : List Part} (hc : ([.clusters] : List Part) ⊆ C) {s₀ s : State} (h :
    State.Keeps C s₀ s) (c pos : Nat) (g : Seg) (off : Nat) (bs : List (Byte × Bool)) : State.Keeps C s₀
    (State.fillArrive s c pos g off bs) := by
  unfold State.fillArrive
  repeat' first
    | with_reducible assumption | with_reducible apply State.setCluster_keeps
    | with_reducible apply State.setEngine_keeps | exact List.Subset.trans (by decide) hc
    | with_reducible apply State.Keeps.ite | split | intro _ | dsimp only
    | (apply State.Keeps.pair; (with_reducible assumption))

theorem State.fillReturn_keeps {C : List Part} (hc : ([.clusters, .reqs, .seq] : List Part) ⊆ C) {s₀ s : State} (h
    : State.Keeps C s₀ s) (id : Nat) : State.Keeps C s₀ (State.fillReturn s id) := by
  unfold State.fillReturn
  repeat' first
    | with_reducible assumption | with_reducible apply State.dropReq_keeps
    | with_reducible apply State.fillArrive_keeps | with_reducible apply State.stopAt_keeps
    | exact List.Subset.trans (by decide) hc | (with_reducible apply State.Keeps.foldl; intros)
    | with_reducible apply State.Keeps.ite | split | intro _ | dsimp only
    | (apply State.Keeps.pair; (with_reducible assumption))

theorem State.mcStart_keeps {C : List Part} (hc : ([.clusters] : List Part) ⊆ C) {s₀ s : State} (h : State.Keeps C
    s₀ s) (leaf tag : Nat) (mask : BitVec 16) : State.Keeps C s₀ (State.mcStart s leaf tag mask) := by
  unfold State.mcStart
  repeat' first
    | with_reducible assumption | with_reducible apply State.setEngine_keeps
    | exact List.Subset.trans (by decide) hc | (with_reducible apply State.Keeps.foldl; intros)
    | with_reducible apply State.Keeps.ite | split | intro _ | dsimp only
    | (apply State.Keeps.pair; (with_reducible assumption))

theorem State.mcArrive_keeps {C : List Part} (hc : ([.regs, .clusters, .mcasts, .caddy, .reqs, .seq, .fabric,
    .link, .can, .snap, .out] : List Part) ⊆ C) {s₀ s : State} (h : State.Keeps C s₀ s) (cl : Cl) : State.Keeps C
    s₀ (State.mcArrive s cl) := by
  unfold State.mcArrive
  repeat' first
    | with_reducible assumption | with_reducible apply State.killFrom_keeps
    | with_reducible apply State.mcStart_keeps | exact List.Subset.trans (by decide) hc
    | with_reducible apply State.Keeps.ite | split | intro _
    | (apply State.Keeps.ofFields; dsimp only; refine State.Keeps.setMcasts (hc (by decide)) (State.Keeps.toFields ?_))
    | dsimp only | (apply State.Keeps.pair; (with_reducible assumption))

theorem State.mcTimeout_keeps {C : List Part} (hc : ([.regs, .clusters, .mcasts, .caddy, .reqs, .seq, .fabric,
    .link, .can, .snap, .out] : List Part) ⊆ C) {s₀ s : State} (h : State.Keeps C s₀ s) (cl : Cl) : State.Keeps C
    s₀ (State.mcTimeout s cl) := by
  unfold State.mcTimeout
  repeat' first
    | with_reducible assumption | with_reducible apply State.killFrom_keeps | exact List.Subset.trans (by decide) hc
    | split | intro _ | dsimp only | (apply State.Keeps.pair; (with_reducible assumption))

theorem State.setTok_keeps {C : List Part} (hc : ([.clusters] : List Part) ⊆ C) {s₀ s : State} (h : State.Keeps C
    s₀ s) (cl n v : Nat) : State.Keeps C s₀ (State.setTok s cl n v) := by
  unfold State.setTok
  repeat' first
    | with_reducible assumption | with_reducible apply State.setCluster_keeps
    | exact List.Subset.trans (by decide) hc | dsimp only

theorem State.takeDone_keeps {C : List Part} (hc : ([.clusters] : List Part) ⊆ C) {s₀ s : State} (h : State.Keeps
    C s₀ s) (cl : Nat) (y0 : Option TakeRec) : State.Keeps C s₀ (State.takeDone s cl y0) := by
  unfold State.takeDone
  repeat' first
    | with_reducible assumption | with_reducible apply State.setEngine_keeps
    | with_reducible apply State.setTg_keeps | exact List.Subset.trans (by decide) hc | split | intro _ | dsimp only
    | (apply State.Keeps.pair; (with_reducible assumption))

theorem State.takeGrant_keeps {C : List Part} (hc : ([.clusters] : List Part) ⊆ C) {s₀ s : State} (h : State.Keeps
    C s₀ s) (cl : Cl) (t : Taker) : State.Keeps C s₀ (State.takeGrant s cl t) := by
  unfold State.takeGrant
  repeat' first
    | with_reducible assumption | with_reducible apply State.setTok_keeps
    | with_reducible apply State.takeDone_keeps | exact List.Subset.trans (by decide) hc
    | with_reducible apply State.Keeps.ite | split | dsimp only
    | (apply State.Keeps.pair; (with_reducible assumption))

theorem State.postDone_keeps {C : List Part} (hc : ([.clusters] : List Part) ⊆ C) {s₀ s : State} (h : State.Keeps
    C s₀ s) (cl : Nat) (pos : Nat) (y0 : Taker) : State.Keeps C s₀ (State.postDone s cl pos y0) := by
  unfold State.postDone
  repeat' first
    | with_reducible assumption | with_reducible apply State.setEngine_keeps
    | with_reducible apply State.setTg_keeps | exact List.Subset.trans (by decide) hc | split | intro _ | dsimp only
    | (apply State.Keeps.pair; (with_reducible assumption))

theorem State.tokenPost_keeps {C : List Part} (hc : ([.regs, .clusters, .mcasts, .caddy, .reqs, .seq, .fabric,
    .link, .can, .snap, .out] : List Part) ⊆ C) {s₀ s : State} (h : State.Keeps C s₀ s) (cl : Cl) (t : Taker) :
    State.Keeps C s₀ (State.tokenPost s cl t) := by
  unfold State.tokenPost
  repeat' first
    | with_reducible assumption | with_reducible apply State.killFrom_keeps
    | with_reducible apply State.postDone_keeps | with_reducible apply State.setTok_keeps
    | exact List.Subset.trans (by decide) hc | with_reducible apply State.Keeps.ite | split | dsimp only
    | (apply State.Keeps.pair; (with_reducible assumption))

theorem State.tokenTimeout_keeps {C : List Part} (hc : ([.regs, .clusters, .mcasts, .caddy, .reqs, .seq, .fabric,
    .link, .can, .snap, .out] : List Part) ⊆ C) {s₀ s : State} (h : State.Keeps C s₀ s) (cl : Cl) (t : Taker) :
    State.Keeps C s₀ (State.tokenTimeout s cl t) := by
  unfold State.tokenTimeout
  repeat' first
    | with_reducible assumption | with_reducible apply State.killFrom_keeps | exact List.Subset.trans (by decide) hc
    | with_reducible apply State.Keeps.ite | split | dsimp only
    | (apply State.Keeps.pair; (with_reducible assumption))

theorem State.descFsig_keeps {C : List Part} (hc : ([.regs, .clusters, .mcasts, .caddy, .reqs, .seq, .fabric,
    .link, .can, .snap, .out] : List Part) ⊆ C) {s₀ s : State} (h : State.Keeps C s₀ s) (cl : Cl) (pos : Nat) :
    State.Keeps C s₀ (State.descFsig s cl pos) := by
  unfold State.descFsig
  repeat' first
    | with_reducible assumption | with_reducible apply State.setEngine_keeps
    | with_reducible apply State.signalTag_keeps | exact List.Subset.trans (by decide) hc
    | with_reducible apply State.Keeps.ite | split | intro _ | dsimp only
    | (apply State.Keeps.pair; (with_reducible assumption))

theorem State.issued_keeps {C : List Part} (hc : ([.clusters] : List Part) ⊆ C) {s₀ s : State} (h : State.Keeps C
    s₀ s) (x : Ex) (n : Nat) : State.Keeps C s₀ (State.issued s x n) := by
  unfold State.issued
  repeat' first
    | with_reducible assumption | with_reducible apply State.setTg_keeps | exact List.Subset.trans (by decide) hc
    | dsimp only

theorem State.advance_keeps {C : List Part} (hc : ([.clusters] : List Part) ⊆ C) {s₀ s : State} (h : State.Keeps C
    s₀ s) (x : Ex) (size : Nat) : State.Keeps C s₀ (State.advance s x size) := by
  unfold State.advance
  repeat' first
    | with_reducible assumption | with_reducible apply State.setTg_keeps | exact List.Subset.trans (by decide) hc
    | (with_reducible apply State.Keeps.foldl; intros) | intro _ | dsimp only

theorem State.setThread_keeps {C : List Part} (hc : ([.clusters] : List Part) ⊆ C) {s₀ s : State} (h : State.Keeps
    C s₀ s) (x : Ex) (l : Nat) (f : Thread → Thread) : State.Keeps C s₀ (State.setThread s x l f) := by
  unfold State.setThread
  repeat' first
    | with_reducible assumption | with_reducible apply State.setTg_keeps | exact List.Subset.trans (by decide) hc
    | dsimp only

theorem State.fail_keeps {C : List Part} (hc : ([.regs, .seq] : List Part) ⊆ C) {s₀ s : State} (h : State.Keeps C
    s₀ s) (x : Ex) (f : TgF) : State.Keeps C s₀ (State.fail s x f) := by
  unfold State.fail
  repeat' first
    | with_reducible assumption | with_reducible apply State.tgFault_keeps | exact List.Subset.trans (by decide) hc
    | dsimp only

theorem State.wr_keeps {C : List Part} (hc : ([.clusters] : List Part) ⊆ C) {s₀ s : State} (h : State.Keeps C s₀
    s) (x : Ex) (l r : Nat) (v : Word32) (lat : Nat) : State.Keeps C s₀ (State.wr s x l r v lat) := by
  unfold State.wr
  repeat' first
    | with_reducible assumption | with_reducible apply State.setThread_keeps
    | exact List.Subset.trans (by decide) hc | intro _ | dsimp only

theorem State.wrote_keeps {C : List Part} (hc : ([.clusters] : List Part) ⊆ C) {s₀ s : State} (h : State.Keeps C
    s₀ s) (x : Ex) (l : Nat) (rs : List Nat) : State.Keeps C s₀ (State.wrote s x l rs) := by
  unfold State.wrote
  repeat' first
    | with_reducible assumption | with_reducible apply State.setThread_keeps
    | exact List.Subset.trans (by decide) hc | intro _ | dsimp only

theorem State.wr2_keeps {C : List Part} (hc : ([.clusters] : List Part) ⊆ C) {s₀ s : State} (h : State.Keeps C s₀
    s) (x : Ex) (l r : Nat) (v : Word64) (lat : Nat) : State.Keeps C s₀ (State.wr2 s x l r v lat) := by
  unfold State.wr2
  repeat' first
    | with_reducible assumption | with_reducible apply State.wr_keeps | with_reducible apply State.wrote_keeps
    | exact List.Subset.trans (by decide) hc | dsimp only

theorem State.await_keeps {C : List Part} (hc : ([.clusters] : List Part) ⊆ C) {s₀ s : State} (h : State.Keeps C
    s₀ s) (x : Ex) (l : Nat) (rs : List Nat) : State.Keeps C s₀ (State.await s x l rs) := by
  unfold State.await
  repeat' first
    | with_reducible assumption | with_reducible apply State.setThread_keeps
    | exact List.Subset.trans (by decide) hc | intro _ | dsimp only

theorem State.perLane_keeps {C : List Part} (hc : ([.regs, .clusters, .seq] : List Part) ⊆ C) {s₀ s : State} (h :
    State.Keeps C s₀ s) (th : Th) (regs : List Nat) (rate : Nat) (bad : State → Ex → Nat → Option (Nat × Word64))
    (f : Ex → Nat → State → State) (hf : ∀ {u : State} (a0 : Ex) (a1 : Nat) (a2 : State), State.Keeps C u a2 →
    State.Keeps C u (f a0 a1 a2)) : State.Keeps C s₀ (State.perLane s th regs rate bad f) := by
  unfold State.perLane
  repeat' first
    | with_reducible assumption | with_reducible apply hf | with_reducible apply State.advance_keeps
    | with_reducible apply State.fail_keeps | with_reducible apply State.issued_keeps
    | exact List.Subset.trans (by decide) hc | (with_reducible apply State.Keeps.foldl; intros)
    | with_reducible apply State.Keeps.ite | split | intro _ | dsimp only
    | (apply State.Keeps.pair; (with_reducible assumption))

theorem State.fetch_keeps {C : List Part} (hc : ([.regs, .clusters] : List Part) ⊆ C) {s₀ s : State} (h :
    State.Keeps C s₀ s) (cl : Cl) (j : Job) (pc : Nat) (found : IssueErrs) : State.Keeps C s₀ (State.fetch s cl j
    pc found).1 := by
  unfold State.fetch
  repeat' first
    | with_reducible assumption | with_reducible apply State.corrected_keeps
    | with_reducible apply State.setTg_keeps | exact List.Subset.trans (by decide) hc
    | with_reducible apply State.Keeps.ite | with_reducible apply State.Keeps.iteFst | split | dsimp only
    | (apply State.Keeps.pair; (with_reducible assumption))

theorem State.cacheParity_keeps {C : List Part} (hc : ([.regs, .clusters] : List Part) ⊆ C) {s₀ s : State} (h :
    State.Keeps C s₀ s) (cl : Cl) (sched key : Nat) (rs : List Nat) : State.Keeps C s₀ (State.cacheParity s cl
    sched key rs) := by
  unfold State.cacheParity
  repeat' first
    | with_reducible assumption | with_reducible apply State.corrected_keeps
    | with_reducible apply State.setTg_keeps | exact List.Subset.trans (by decide) hc
    | (with_reducible apply State.Keeps.foldl; intros) | intro _ | dsimp only

theorem State.regError_keeps {C : List Part} (hc : ([.regs, .clusters, .caddy, .link, .can, .snap, .out] : List
    Part) ⊆ C) {s₀ s : State} (h : State.Keeps C s₀ s) (cl : Cl) (key : Nat) (e : RegErr) : State.Keeps C s₀
    (State.regError s cl key e) := by
  unfold State.regError
  repeat' first
    | with_reducible assumption | with_reducible apply State.setTg_keeps | with_reducible apply State.sramWord_keeps
    | exact List.Subset.trans (by decide) hc | with_reducible apply State.Keeps.ite | split | intro _ | dsimp only
    | (apply State.Keeps.pair; (with_reducible assumption))

theorem State.issueGroup_keeps {C : List Part} (hc : ([.regs, .clusters, .caddy, .seq, .link, .can, .snap, .out] :
    List Part) ⊆ C) {s₀ s : State} (h : State.Keeps C s₀ s) (cl : Cl) (sched : Sched) (j : Job) (uses : List (Nat
    × List Nat)) (reuse : List Nat) (found : IssueErrs) : State.Keeps C s₀ (State.issueGroup s cl sched j uses
    reuse found) := by
  unfold State.issueGroup
  repeat' first
    | with_reducible assumption | with_reducible apply State.cacheParity_keeps
    | with_reducible apply State.count_keeps | with_reducible apply State.fetch_keeps
    | with_reducible apply State.regError_keeps | with_reducible apply State.setTg_keeps
    | with_reducible apply State.tgFault_keeps | exact List.Subset.trans (by decide) hc
    | (with_reducible apply State.Keeps.foldl; intros) | with_reducible apply State.Keeps.ite | split | intro _
    | dsimp only | (apply State.Keeps.pair; (with_reducible assumption))

theorem State.groupIssue_keeps {C : List Part} (hc : ([.regs, .clusters, .caddy, .seq, .link, .can, .snap, .out] :
    List Part) ⊆ C) {s₀ s : State} (h : State.Keeps C s₀ s) (cl : Cl) (sched : Sched) (uses : List (Nat × List
    Nat)) (reuse : List Nat) (found : IssueErrs) : State.Keeps C s₀ (State.groupIssue s cl sched uses reuse found) := by
  unfold State.groupIssue
  repeat' first
    | with_reducible assumption | with_reducible apply State.issueGroup_keeps
    | with_reducible apply State.setTg_keeps | exact List.Subset.trans (by decide) hc
    | with_reducible apply State.Keeps.ite | split | dsimp only
    | (apply State.Keeps.pair; (with_reducible assumption))

theorem State.gmuAsk_keeps {C : List Part} (hc : ([.clusters] : List Part) ⊆ C) {s₀ s : State} (h : State.Keeps C
    s₀ s) (cl sched : Nat) : State.Keeps C s₀ (State.gmuAsk s cl sched) := by
  unfold State.gmuAsk
  repeat' first
    | with_reducible assumption | with_reducible apply State.setTg_keeps | exact List.Subset.trans (by decide) hc
    | dsimp only

theorem State.gmuGrant_keeps {C : List Part} (hc : ([.clusters] : List Part) ⊆ C) {s₀ s : State} (h : State.Keeps
    C s₀ s) (cl sched : Nat) : State.Keeps C s₀ (State.gmuGrant s cl sched) := by
  unfold State.gmuGrant
  repeat' first
    | with_reducible assumption | with_reducible apply State.setTg_keeps | exact List.Subset.trans (by decide) hc
    | dsimp only

theorem State.collective_keeps {C : List Part} (hc : ([.regs, .clusters, .seq] : List Part) ⊆ C) {s₀ s : State} (h
    : State.Keeps C s₀ s) (th : Th) (mask : Src) (srcs dsts : List Nat) (rate : Nat) (unit : Bool) (f : Ex → List
    Nat → State → State) (hf : ∀ {u : State} (a0 : Ex) (a1 : List Nat) (a2 : State), State.Keeps C u a2 →
    State.Keeps C u (f a0 a1 a2)) : State.Keeps C s₀ (State.collective s th mask srcs dsts rate unit f) := by
  unfold State.collective
  repeat' first
    | with_reducible assumption | with_reducible apply hf | with_reducible apply State.advance_keeps
    | with_reducible apply State.fail_keeps | with_reducible apply State.gmuAsk_keeps
    | with_reducible apply State.gmuGrant_keeps | with_reducible apply State.issued_keeps
    | with_reducible apply State.setTg_keeps | exact List.Subset.trans (by decide) hc
    | (with_reducible apply State.Keeps.foldl; intros) | with_reducible apply State.Keeps.ite | split | intro _
    | dsimp only | (apply State.Keeps.pair; (with_reducible assumption))

theorem State.loadReq_keeps {C : List Part} (hc : ([.regs, .clusters, .reqs, .fabric, .link, .can, .out] : List
    Part) ⊆ C) {s₀ s : State} (h : State.Keeps C s₀ s) (x : Ex) (l d n : Nat) (a : Word64) (keep marked : Bool) :
    State.Keeps C s₀ (State.loadReq s x l d n a keep marked) := by
  unfold State.loadReq
  repeat' first
    | with_reducible assumption | with_reducible apply State.await_keeps | with_reducible apply State.request_keeps
    | exact List.Subset.trans (by decide) hc | with_reducible apply State.Keeps.ite | split | dsimp only

theorem State.ldLane_keeps {C : List Part} (hc : ([.regs, .clusters, .reqs, .fabric, .link, .can, .out] : List
    Part) ⊆ C) {s₀ s : State} (h : State.Keeps C s₀ s) (x : Ex) (l d n : Nat) (a : Word64) : State.Keeps C s₀
    (State.ldLane s x l d n a) := by
  unfold State.ldLane
  repeat' first
    | with_reducible assumption | with_reducible apply State.loadReq_keeps
    | with_reducible apply State.setThread_keeps | exact List.Subset.trans (by decide) hc | split | intro _
    | dsimp only | (apply State.Keeps.pair; (with_reducible assumption))

theorem State.dropFills_keeps {C : List Part} (hc : ([.reqs] : List Part) ⊆ C) {s₀ s : State} (h : State.Keeps C
    s₀ s) (cl : Cl) (line : Nat) : State.Keeps C s₀ (State.dropFills s cl line) := by
  unfold State.dropFills
  repeat' first
    | with_reducible assumption | with_reducible apply State.Keeps.ite | split | intro _
    | (apply State.Keeps.ofFields; dsimp only; refine State.Keeps.setReqs (hc (by decide)) (State.Keeps.toFields ?_))
    | dsimp only | (apply State.Keeps.pair; (with_reducible assumption))

theorem State.dropFirst_keeps {C : List Part} (hc : ([.clusters, .reqs] : List Part) ⊆ C) {s₀ s : State} (h :
    State.Keeps C s₀ s) (cl : Cl) : State.Keeps C s₀ (State.dropFirst s cl) := by
  unfold State.dropFirst
  repeat' first
    | with_reducible assumption | with_reducible apply State.setTg_keeps | exact List.Subset.trans (by decide) hc
    | with_reducible apply State.Keeps.ite | split | intro _
    | (apply State.Keeps.ofFields; dsimp only; refine State.Keeps.setReqs (hc (by decide)) (State.Keeps.toFields ?_))
    | dsimp only | (apply State.Keeps.pair; (with_reducible assumption))

theorem State.stLane_keeps {C : List Part} (hc : ([.regs, .clusters, .reqs, .fabric, .link, .can, .out] : List
    Part) ⊆ C) {s₀ s : State} (h : State.Keeps C s₀ s) (x : Ex) (l v n : Nat) (a : Word64) : State.Keeps C s₀
    (State.stLane s x l v n a) := by
  unfold State.stLane
  repeat' first
    | with_reducible assumption | with_reducible apply State.dropFills_keeps
    | with_reducible apply State.request_keeps | with_reducible apply State.setTg_keeps
    | exact List.Subset.trans (by decide) hc | dsimp only

theorem State.atomReq_keeps {C : List Part} (hc : ([.regs, .clusters, .reqs, .fabric, .link, .can, .out] : List
    Part) ⊆ C) {s₀ s : State} (h : State.Keeps C s₀ s) (x : Ex) (op : AtomOp) (ty : AtomTy) (d v : Nat) (a :
    Word64) (ls : List Nat) : State.Keeps C s₀ (State.atomReq s x op ty d v a ls) := by
  unfold State.atomReq
  repeat' first
    | with_reducible assumption | with_reducible apply State.await_keeps | with_reducible apply State.count_keeps
    | with_reducible apply State.dropFills_keeps | with_reducible apply State.requests_keeps
    | with_reducible apply State.setTg_keeps | exact List.Subset.trans (by decide) hc
    | (with_reducible apply State.Keeps.foldl; intros) | with_reducible apply State.Keeps.ite | split | intro _
    | dsimp only

theorem State.lmError_keeps {C : List Part} (hc : ([.regs, .clusters, .caddy, .link, .can, .snap, .out] : List
    Part) ⊆ C) {s₀ s : State} (h : State.Keeps C s₀ s) (cl : Nat) (e : WordErr) : State.Keeps C s₀ (State.lmError
    s cl e) := by
  unfold State.lmError
  repeat' first
    | with_reducible assumption | with_reducible apply State.setTg_keeps | with_reducible apply State.sramWord_keeps
    | exact List.Subset.trans (by decide) hc | with_reducible apply State.Keeps.ite | split | intro _ | dsimp only

theorem State.tgDraw_keeps {C : List Part} (hc : ([.seq] : List Part) ⊆ C) {s₀ s : State} (h : State.Keeps C s₀ s)
    (x : Ex) (l n : Nat) : State.Keeps C s₀ (State.tgDraw s x l n).1 := by
  unfold State.tgDraw
  repeat' first
    | with_reducible assumption | with_reducible apply State.setLane_keeps | exact List.Subset.trans (by decide) hc
    | split | dsimp only | (apply State.Keeps.pair; (with_reducible assumption))

theorem State.keyDraw_keeps {C : List Part} (hc : ([.clusters] : List Part) ⊆ C) {s₀ s : State} (h : State.Keeps C
    s₀ s) (x : Ex) (l sr n lat : Nat) : State.Keeps C s₀ (State.keyDraw s x l sr n lat).1 := by
  unfold State.keyDraw
  repeat' first
    | with_reducible assumption | with_reducible apply State.wr2_keeps | exact List.Subset.trans (by decide) hc
    | split | dsimp only | (apply State.Keeps.pair; (with_reducible assumption))

theorem State.blockPlace_keeps {C : List Part} (hc : ([.clusters] : List Part) ⊆ C) {s₀ s : State} (h :
    State.Keeps C s₀ s) (cl : Cl) : State.Keeps C s₀ (State.blockPlace s cl) := by
  unfold State.blockPlace
  repeat' first
    | with_reducible assumption | with_reducible apply State.setTg_keeps | exact List.Subset.trans (by decide) hc
    | with_reducible apply State.Keeps.ite | split | dsimp only
    | (apply State.Keeps.pair; (with_reducible assumption))

theorem State.dropLoads_keeps {C : List Part} (hc : ([.reqs] : List Part) ⊆ C) {s₀ s : State} (h : State.Keeps C
    s₀ s) (x : Ex) : State.Keeps C s₀ (State.dropLoads s x) := by
  unfold State.dropLoads
  repeat' first
    | with_reducible assumption | with_reducible apply State.Keeps.ite | split | intro _
    | (apply State.Keeps.ofFields; dsimp only; refine State.Keeps.setReqs (hc (by decide)) (State.Keeps.toFields ?_))
    | dsimp only | (apply State.Keeps.pair; (with_reducible assumption))

theorem State.exitThreads_keeps {C : List Part} (hc : ([.regs, .clusters, .reqs, .seq] : List Part) ⊆ C) {s₀ s :
    State} (h : State.Keeps C s₀ s) (th : Th) : State.Keeps C s₀ (State.exitThreads s th) := by
  unfold State.exitThreads
  repeat' first
    | with_reducible assumption | with_reducible apply State.dropLoads_keeps
    | with_reducible apply State.issued_keeps | with_reducible apply State.setTg_keeps
    | with_reducible apply State.tgFault_keeps | exact List.Subset.trans (by decide) hc | split | dsimp only
    | (apply State.Keeps.pair; (with_reducible assumption))

theorem State.put_keeps {C : List Part} (hc : ([.regs, .clusters, .seq] : List Part) ⊆ C) {s₀ s : State} (h :
    State.Keeps C s₀ s) (x : Ex) (l d : Nat) (v : Word32 × Exc) (lat : Nat) : State.Keeps C s₀ (State.put s x l d
    v lat) := by
  unfold State.put
  repeat' first
    | with_reducible assumption | with_reducible apply State.raiseExc_keeps | with_reducible apply State.wr_keeps
    | exact List.Subset.trans (by decide) hc | dsimp only

theorem State.shift_keeps {C : List Part} (hc : ([.clusters, .free] : List Part) ⊆ C) {s₀ s : State} (h :
    State.Keeps C s₀ s) (x : Ex) (l d : Nat) (n : Nat) (v : Word32) : State.Keeps C s₀ (State.shift s x l d n v) := by
  unfold State.shift
  repeat' first
    | with_reducible assumption | with_reducible apply State.drawFree_keeps | with_reducible apply State.wr_keeps
    | exact List.Subset.trans (by decide) hc | with_reducible apply State.Keeps.ite | split | dsimp only

theorem State.hold2_keeps {C : List Part} (hc : ([.clusters] : List Part) ⊆ C) {s₀ s : State} (h : State.Keeps C
    s₀ s) (x : Ex) (l : Nat) : State.Keeps C s₀ (State.hold2 s x l) := by
  unfold State.hold2
  repeat' first
    | with_reducible assumption | with_reducible apply State.setThread_keeps
    | exact List.Subset.trans (by decide) hc | intro _ | dsimp only

theorem State.jump_keeps {C : List Part} (hc : ([.clusters] : List Part) ⊆ C) {s₀ s : State} (h : State.Keeps C s₀
    s) (x : Ex) (l target : Nat) : State.Keeps C s₀ (State.jump s x l target) := by
  unfold State.jump
  repeat' first
    | with_reducible assumption | with_reducible apply State.hold2_keeps
    | with_reducible apply State.setThread_keeps | exact List.Subset.trans (by decide) hc | intro _ | dsimp only

theorem State.alu_keeps {C : List Part} (hc : ([.regs, .clusters, .seq, .free] : List Part) ⊆ C) {s₀ s : State} (h
    : State.Keeps C s₀ s) (x : Ex) (l size : Nat) (y0 : AluOp) : State.Keeps C s₀ (State.alu s x l size y0) := by
  unfold State.alu
  repeat' first
    | with_reducible assumption | with_reducible apply State.hold2_keeps | with_reducible apply State.jump_keeps
    | with_reducible apply State.put_keeps | with_reducible apply State.shift_keeps
    | with_reducible apply State.wr2_keeps | with_reducible apply State.wr_keeps
    | exact List.Subset.trans (by decide) hc | with_reducible apply State.Keeps.ite | split | dsimp only
    | (apply State.Keeps.pair; (with_reducible assumption))

theorem State.aluRun_keeps {C : List Part} (hc : ([.regs, .clusters, .seq, .free] : List Part) ⊆ C) {s₀ s : State}
    (h : State.Keeps C s₀ s) (th : Th) (op : AluOp) : State.Keeps C s₀ (State.aluRun s th op) := by
  unfold State.aluRun
  repeat' first
    | with_reducible assumption | with_reducible apply State.alu_keeps | with_reducible apply State.perLane_keeps
    | exact List.Subset.trans (by decide) hc | intro _ | dsimp only

theorem State.gmatAll_keeps {C : List Part} (hc : ([.regs, .clusters, .seq] : List Part) ⊆ C) {s₀ s : State} (h :
    State.Keeps C s₀ s) (x : Ex) (mask : List Nat) (fa fb : Fmt) (a b c : Nat) : State.Keeps C s₀ (State.gmatAll s
    x mask fa fb a b c) := by
  unfold State.gmatAll
  repeat' first
    | with_reducible assumption | with_reducible apply State.put_keeps | with_reducible apply State.wrote_keeps
    | exact List.Subset.trans (by decide) hc | (with_reducible apply State.Keeps.foldl; intros) | intro _
    | dsimp only

theorem State.gmat_keeps {C : List Part} (hc : ([.regs, .clusters, .seq] : List Part) ⊆ C) {s₀ s : State} (h :
    State.Keeps C s₀ s) (th : Th) (mask : Src) (fa fb : GFmt) (a b c : Nat) : State.Keeps C s₀ (State.gmat s th
    mask fa fb a b c) := by
  unfold State.gmat
  repeat' first
    | with_reducible assumption | with_reducible apply State.collective_keeps
    | with_reducible apply State.fail_keeps | with_reducible apply State.gmatAll_keeps
    | exact List.Subset.trans (by decide) hc | split | intro _ | dsimp only
    | (apply State.Keeps.pair; (with_reducible assumption))

theorem State.spread_keeps {C : List Part} (hc : ([.clusters] : List Part) ⊆ C) {s₀ s : State} (h : State.Keeps C
    s₀ s) (x : Ex) (d : Nat) (vs : List (Nat × Word32)) : State.Keeps C s₀ (State.spread s x d vs) := by
  unfold State.spread
  repeat' first
    | with_reducible assumption | with_reducible apply State.wr_keeps | exact List.Subset.trans (by decide) hc
    | (with_reducible apply State.Keeps.foldl; intros) | intro _ | dsimp only

theorem State.convTimeout_keeps {C : List Part} (hc : ([.regs, .seq] : List Part) ⊆ C) {s₀ s : State} (h :
    State.Keeps C s₀ s) (cl : Cl) (sched : Sched) (slot : Nat) : State.Keeps C s₀ (State.convTimeout s cl sched
    slot) := by
  unfold State.convTimeout
  repeat' first
    | with_reducible assumption | with_reducible apply State.tgFault_keeps | exact List.Subset.trans (by decide) hc
    | split | intro _ | dsimp only | (apply State.Keeps.pair; (with_reducible assumption))

theorem State.l1Parity_keeps {C : List Part} (hc : ([.regs, .clusters] : List Part) ⊆ C) {s₀ s : State} (h :
    State.Keeps C s₀ s) (x : Ex) (a : Word64) (bad : Bool) : State.Keeps C s₀ (State.l1Parity s x a bad) := by
  unfold State.l1Parity
  repeat' first
    | with_reducible assumption | with_reducible apply State.corrected_keeps
    | with_reducible apply State.setTg_keeps | exact List.Subset.trans (by decide) hc
    | with_reducible apply State.Keeps.ite | split | intro _ | dsimp only

theorem State.loadDone_keeps {C : List Part} (hc : ([.regs, .clusters, .seq] : List Part) ⊆ C) {s₀ s : State} (h :
    State.Keeps C s₀ s) (r : Req) (cl : Cl) (sched : Sched) (slot lane d : Nat) (keep : Bool) (pc off n : Nat) :
    State.Keeps C s₀ (State.loadDone s r cl sched slot lane d keep pc off n) := by
  unfold State.loadDone
  repeat' first
    | with_reducible assumption | with_reducible apply State.setTg_keeps | with_reducible apply State.tgFault_keeps
    | exact List.Subset.trans (by decide) hc | with_reducible apply State.Keeps.ite | split | intro _ | dsimp only
    | (apply State.Keeps.pair; (with_reducible assumption))

theorem State.atomicDone_keeps {C : List Part} (hc : ([.regs, .clusters, .seq] : List Part) ⊆ C) {s₀ s : State} (h
    : State.Keeps C s₀ s) (r : Req) (cl : Cl) (sched : Sched) (slot d : Nat) (lanes : List Nat) (pc : Nat) :
    State.Keeps C s₀ (State.atomicDone s r cl sched slot d lanes pc) := by
  unfold State.atomicDone
  repeat' first
    | with_reducible assumption | with_reducible apply State.setTg_keeps | with_reducible apply State.tgFault_keeps
    | exact List.Subset.trans (by decide) hc | (with_reducible apply State.Keeps.foldl; intros)
    | with_reducible apply State.Keeps.ite | split | intro _ | dsimp only
    | (apply State.Keeps.pair; (with_reducible assumption))

theorem State.loadReturn_keeps {C : List Part} (hc : ([.regs, .clusters, .reqs, .seq] : List Part) ⊆ C) {s₀ s :
    State} (h : State.Keeps C s₀ s) (id : Nat) : State.Keeps C s₀ (State.loadReturn s id) := by
  unfold State.loadReturn
  repeat' first
    | with_reducible assumption | with_reducible apply State.atomicDone_keeps
    | with_reducible apply State.dropReq_keeps | with_reducible apply State.loadDone_keeps
    | exact List.Subset.trans (by decide) hc | with_reducible apply State.Keeps.ite | split | dsimp only
    | (apply State.Keeps.pair; (with_reducible assumption))

theorem State.memAtomic_keeps {C : List Part} (hc : ([.regs, .clusters, .reqs, .seq, .fabric, .link, .can, .out] :
    List Part) ⊆ C) {s₀ s : State} (h : State.Keeps C s₀ s) (th : Th) (op : AtomOp) (ty : AtomTy) (d a v : Nat) :
    State.Keeps C s₀ (State.memAtomic s th op ty d a v) := by
  unfold State.memAtomic
  repeat' first
    | with_reducible assumption | with_reducible apply State.advance_keeps
    | with_reducible apply State.atomReq_keeps | with_reducible apply State.fail_keeps
    | with_reducible apply State.issued_keeps | exact List.Subset.trans (by decide) hc
    | (with_reducible apply State.Keeps.foldl; intros) | with_reducible apply State.Keeps.ite | split | intro _
    | dsimp only | (apply State.Keeps.pair; (with_reducible assumption))

theorem State.localErrors_keeps {C : List Part} (hc : ([.regs, .clusters, .caddy, .link, .can, .snap, .out] : List
    Part) ⊆ C) {s₀ s : State} (h : State.Keeps C s₀ s) (th : Th) (a : Src) (n : Nat) (errs : List WordErr) :
    State.Keeps C s₀ (State.localErrors s th a n errs) := by
  unfold State.localErrors
  repeat' first
    | with_reducible assumption | with_reducible apply State.lmError_keeps | exact List.Subset.trans (by decide) hc
    | (with_reducible apply State.Keeps.foldl; intros) | with_reducible apply State.Keeps.ite | split | intro _
    | dsimp only | (apply State.Keeps.pair; (with_reducible assumption))

theorem State.localAtom_keeps {C : List Part} (hc : ([.regs, .clusters, .seq] : List Part) ⊆ C) {s₀ s : State} (h
    : State.Keeps C s₀ s) (x : Ex) (op : AtomOp) (ty : AtomTy) (d v at_ : Nat) (ls : List Nat) : State.Keeps C s₀
    (State.localAtom s x op ty d v at_ ls) := by
  unfold State.localAtom
  repeat' first
    | with_reducible assumption | with_reducible apply State.raiseExc_keeps | with_reducible apply State.setTg_keeps
    | with_reducible apply State.setThread_keeps | exact List.Subset.trans (by decide) hc
    | (with_reducible apply State.Keeps.foldl; intros) | split | intro _ | dsimp only
    | (apply State.Keeps.pair; (with_reducible assumption))

theorem State.localAtomics_keeps {C : List Part} (hc : ([.regs, .clusters, .seq] : List Part) ⊆ C) {s₀ s : State}
    (h : State.Keeps C s₀ s) (th : Th) (op : AtomOp) (ty : AtomTy) (d : Nat) (a : Src) (v : Nat) : State.Keeps C
    s₀ (State.localAtomics s th op ty d a v) := by
  unfold State.localAtomics
  repeat' first
    | with_reducible assumption | with_reducible apply State.advance_keeps | with_reducible apply State.fail_keeps
    | with_reducible apply State.issued_keeps | with_reducible apply State.localAtom_keeps
    | exact List.Subset.trans (by decide) hc | (with_reducible apply State.Keeps.foldl; intros)
    | with_reducible apply State.Keeps.ite | split | intro _ | dsimp only
    | (apply State.Keeps.pair; (with_reducible assumption))

theorem State.windowErrors_keeps {C : List Part} (hc : ([.regs, .clusters, .caddy, .link, .can, .snap, .out] :
    List Part) ⊆ C) {s₀ s : State} (h : State.Keeps C s₀ s) (th : Th) (a : Src) (n : Nat) (errs : List WordErr) :
    State.Keeps C s₀ (State.windowErrors s th a n errs) := by
  unfold State.windowErrors
  repeat' first
    | with_reducible assumption | with_reducible apply State.cupError_keeps | exact List.Subset.trans (by decide) hc
    | (with_reducible apply State.Keeps.foldl; intros) | with_reducible apply State.Keeps.ite | split | intro _
    | dsimp only | (apply State.Keeps.pair; (with_reducible assumption))

theorem State.prefetchBy_keeps {C : List Part} (hc : ([.regs, .caddy] : List Part) ⊆ C) {s₀ s : State} (h :
    State.Keeps C s₀ s) (cl : Nat) (base len : Nat) : State.Keeps C s₀ (State.prefetchBy s cl base len) := by
  unfold State.prefetchBy
  repeat' first
    | with_reducible assumption | with_reducible apply State.count_keeps
    | with_reducible apply State.prefetchBytes_keeps | exact List.Subset.trans (by decide) hc
    | with_reducible apply State.Keeps.ite | split | dsimp only

theorem State.fence_keeps {C : List Part} (hc : ([.clusters] : List Part) ⊆ C) {s₀ s : State} (h : State.Keeps C
    s₀ s) (th : Th) (k : FenceKind) : State.Keeps C s₀ (State.fence s th k) := by
  unfold State.fence
  repeat' first
    | with_reducible assumption | with_reducible apply State.advance_keeps | with_reducible apply State.issued_keeps
    | with_reducible apply State.setTg_keeps | exact List.Subset.trans (by decide) hc | split | dsimp only
    | (apply State.Keeps.pair; (with_reducible assumption))

theorem State.fenceDone_keeps {C : List Part} (hc : ([.clusters, .reqs] : List Part) ⊆ C) {s₀ s : State} (h :
    State.Keeps C s₀ s) (cl : Cl) (sched : Sched) (slot : Nat) : State.Keeps C s₀ (State.fenceDone s cl sched
    slot) := by
  unfold State.fenceDone
  repeat' first
    | with_reducible assumption | with_reducible apply State.dropFirst_keeps
    | with_reducible apply State.setTg_keeps | exact List.Subset.trans (by decide) hc
    | with_reducible apply State.Keeps.ite | split | dsimp only
    | (apply State.Keeps.pair; (with_reducible assumption))

theorem State.barBlock_keeps {C : List Part} (hc : ([.regs, .clusters, .seq] : List Part) ⊆ C) {s₀ s : State} (h :
    State.Keeps C s₀ s) (th : Th) : State.Keeps C s₀ (State.barBlock s th) := by
  unfold State.barBlock
  repeat' first
    | with_reducible assumption | with_reducible apply State.issued_keeps | with_reducible apply State.setTg_keeps
    | with_reducible apply State.tgFault_keeps | exact List.Subset.trans (by decide) hc
    | with_reducible apply State.Keeps.ite | split | dsimp only
    | (apply State.Keeps.pair; (with_reducible assumption))

theorem State.barTimeout_keeps {C : List Part} (hc : ([.regs, .seq] : List Part) ⊆ C) {s₀ s : State} (h :
    State.Keeps C s₀ s) (cl : Cl) (blk : Nat) : State.Keeps C s₀ (State.barTimeout s cl blk) := by
  unfold State.barTimeout
  repeat' first
    | with_reducible assumption | with_reducible apply State.tgFault_keeps | exact List.Subset.trans (by decide) hc
    | with_reducible apply State.Keeps.ite | split | dsimp only
    | (apply State.Keeps.pair; (with_reducible assumption))

theorem State.tokenInstr_keeps {C : List Part} (hc : ([.regs, .clusters, .seq] : List Part) ⊆ C) {s₀ s : State} (h
    : State.Keeps C s₀ s) (th : Th) (ctr n : Src) (f : Ex → Nat → Nat → State → State) (hf : ∀ {u : State} (a0 :
    Ex) (a1 : Nat) (a2 : Nat) (a3 : State), State.Keeps C u a3 → State.Keeps C u (f a0 a1 a2 a3)) : State.Keeps C
    s₀ (State.tokenInstr s th ctr n f) := by
  unfold State.tokenInstr
  repeat' first
    | with_reducible assumption | with_reducible apply hf | with_reducible apply State.advance_keeps
    | with_reducible apply State.fail_keeps | with_reducible apply State.issued_keeps
    | exact List.Subset.trans (by decide) hc | with_reducible apply State.Keeps.ite | split | intro _ | dsimp only
    | (apply State.Keeps.pair; (with_reducible assumption))

theorem State.drawBitsFrom_keeps {C : List Part} (hc : ([.clusters, .seq] : List Part) ⊆ C) {s₀ s : State} (h :
    State.Keeps C s₀ s) (x : Ex) (l n lat : Nat) (y0 : DrawFrom) : State.Keeps C s₀ (State.drawBitsFrom s x l n
    lat y0).1 := by
  unfold State.drawBitsFrom
  repeat' first
    | with_reducible assumption | with_reducible apply State.keyDraw_keeps | with_reducible apply State.tgDraw_keeps
    | exact List.Subset.trans (by decide) hc | with_reducible apply State.Keeps.ite
    | with_reducible apply State.Keeps.iteFst | split | dsimp only

theorem State.cvtElem_keeps {C : List Part} (hc : ([.regs, .clusters, .seq] : List Part) ⊆ C) {s₀ s : State} (h :
    State.Keeps C s₀ s) (x : Ex) (l : Nat) (c : CvtSpec) (a b : Fmt) (from_ : DrawFrom) (lat v : Nat) :
    State.Keeps C s₀ (State.cvtElem s x l c a b from_ lat v).1 := by
  unfold State.cvtElem
  repeat' first
    | with_reducible assumption | with_reducible apply State.drawBitsFrom_keeps
    | with_reducible apply State.raiseExc_keeps | exact List.Subset.trans (by decide) hc | split | dsimp only
    | (apply State.Keeps.pair; (with_reducible assumption))

theorem State.cvtRun_keeps {C : List Part} (hc : ([.regs, .clusters, .seq] : List Part) ⊆ C) {s₀ s : State} (h :
    State.Keeps C s₀ s) (th : Th) (c : CvtSpec) (d a n : Nat) (from_ : DrawFrom) (wide : Bool) : State.Keeps C s₀
    (State.cvtRun s th c d a n from_ wide) := by
  unfold State.cvtRun
  repeat' first
    | with_reducible assumption | with_reducible apply State.cvtElem_keeps | with_reducible apply State.fail_keeps
    | with_reducible apply State.perLane_keeps | with_reducible apply State.wr_keeps
    | with_reducible apply State.wrote_keeps | exact List.Subset.trans (by decide) hc
    | (with_reducible apply State.Keeps.foldl; intros) | (with_reducible apply State.Keeps.foldlFst; intros)
    | with_reducible apply State.Keeps.ite | split | intro _ | dsimp only
    | (apply State.Keeps.pair; (with_reducible assumption))

theorem State.rngRun_keeps {C : List Part} (hc : ([.regs, .clusters, .seq] : List Part) ⊆ C) {s₀ s : State} (h :
    State.Keeps C s₀ s) (th : Th) (d : Nat) (from_ : DrawFrom) (rate lat : Nat) (f : Nat → Word32) : State.Keeps C
    s₀ (State.rngRun s th d from_ rate lat f) := by
  unfold State.rngRun
  repeat' first
    | with_reducible assumption | with_reducible apply State.drawBitsFrom_keeps
    | with_reducible apply State.perLane_keeps | with_reducible apply State.wr_keeps
    | exact List.Subset.trans (by decide) hc | split | intro _ | dsimp only
    | (apply State.Keeps.pair; (with_reducible assumption))

end Sys2Proof.Machine
end

