-- ==== Sys2Proof/Laws/KeepsFabric.lean ====
section
/-! SUPPORT. What the operations of the sequencer, fabric time, the fabric and its transport keep. -/

namespace Sys2Proof.Machine

theorem State.seqRead_keeps {C : List Part} (hc : ([.regs, .reqs, .fabric, .link, .can, .out] : List Part) ⊆ C)
    {s₀ s : State} (h : State.Keeps C s₀ s) (pa n : Nat) (p : Purpose) (ctx : Ctx) : State.Keeps C s₀
    (State.seqRead s pa n p ctx) := by
  unfold State.seqRead
  repeat' first
    | with_reducible assumption | with_reducible apply State.request_keeps | exact List.Subset.trans (by decide) hc
    | dsimp only

theorem State.ringStart_keeps {C : List Part} (hc : ([.regs, .reqs, .seq, .fabric, .link, .can, .out] : List Part)
    ⊆ C) {s₀ s : State} (h : State.Keeps C s₀ s) (c : Ctx) (r : Ring) : State.Keeps C s₀ (State.ringStart s c r) := by
  unfold State.ringStart
  repeat' first
    | with_reducible assumption | with_reducible apply State.seqRead_keeps | with_reducible apply State.setBit_keeps
    | with_reducible apply State.setRing_keeps | exact List.Subset.trans (by decide) hc | dsimp only

theorem State.ciReturn_keeps {C : List Part} (hc : ([.regs, .reqs, .seq, .link, .out] : List Part) ⊆ C) {s₀ s :
    State} (h : State.Keeps C s₀ s) (c : Ctx) (r : Ring) : State.Keeps C s₀ (State.ciReturn s c r) := by
  unfold State.ciReturn
  repeat' first
    | with_reducible assumption | with_reducible apply State.dropReq_keeps
    | with_reducible apply State.haltRing_keeps | with_reducible apply State.setRing_keeps
    | exact List.Subset.trans (by decide) hc | split | dsimp only
    | (apply State.Keeps.pair; (with_reducible assumption))

theorem State.pollRing_keeps {C : List Part} (hc : ([.regs, .reqs, .seq, .fabric, .link, .can, .out] : List Part)
    ⊆ C) {s₀ s : State} (h : State.Keeps C s₀ s) (c : Ctx) (r : Ring) : State.Keeps C s₀ (State.pollRing s c r) := by
  unfold State.pollRing
  repeat' first
    | with_reducible assumption | with_reducible apply State.count_keeps | with_reducible apply State.seqRead_keeps
    | with_reducible apply State.setRing_keeps | exact List.Subset.trans (by decide) hc
    | with_reducible apply State.Keeps.ite | split | dsimp only

theorem State.pollHead_keeps {C : List Part} (hc : ([.regs, .reqs, .seq, .fabric, .link, .can, .out] : List Part)
    ⊆ C) {s₀ s : State} (h : State.Keeps C s₀ s) (c : Ctx) : State.Keeps C s₀ (State.pollHead s c) := by
  unfold State.pollHead
  repeat' first
    | with_reducible assumption | with_reducible apply State.seqRead_keeps | with_reducible apply State.setCtx_keeps
    | exact List.Subset.trans (by decide) hc | with_reducible apply State.Keeps.ite | split | dsimp only

theorem State.pollCtx_keeps {C : List Part} (hc : ([.regs, .reqs, .seq, .fabric, .link, .can, .out] : List Part) ⊆
    C) {s₀ s : State} (h : State.Keeps C s₀ s) (c : Ctx) : State.Keeps C s₀ (State.pollCtx s c) := by
  unfold State.pollCtx
  repeat' first
    | with_reducible assumption | with_reducible apply State.pollHead_keeps
    | with_reducible apply State.pollRing_keeps | exact List.Subset.trans (by decide) hc
    | (with_reducible apply State.Keeps.foldl; intros) | with_reducible apply State.Keeps.ite | split | intro _
    | dsimp only

theorem State.pollAll_keeps {C : List Part} (hc : ([.regs, .reqs, .seq, .fabric, .link, .can, .out] : List Part) ⊆
    C) {s₀ s : State} (h : State.Keeps C s₀ s) : State.Keeps C s₀ (State.pollAll s) := by
  unfold State.pollAll
  repeat' first
    | with_reducible assumption | with_reducible apply State.pollCtx_keeps | exact List.Subset.trans (by decide) hc
    | (with_reducible apply State.Keeps.foldl; intros) | with_reducible apply State.Keeps.ite | split | intro _
    | (apply State.Keeps.ofFields; dsimp only; refine State.Keeps.setSeq (hc (by decide)) (State.Keeps.toFields ?_))
    | dsimp only

theorem State.piReturn_keeps {C : List Part} (hc : ([.regs, .reqs, .seq, .link, .out] : List Part) ⊆ C) {s₀ s :
    State} (h : State.Keeps C s₀ s) (c : Ctx) (r : Ring) : State.Keeps C s₀ (State.piReturn s c r) := by
  unfold State.piReturn
  repeat' first
    | with_reducible assumption | with_reducible apply State.dropReq_keeps
    | with_reducible apply State.haltRing_keeps | with_reducible apply State.setRing_keeps
    | exact List.Subset.trans (by decide) hc | with_reducible apply State.Keeps.ite | split | dsimp only
    | (apply State.Keeps.pair; (with_reducible assumption))

theorem State.entryFetch_keeps {C : List Part} (hc : ([.regs, .reqs, .seq, .fabric, .link, .can, .out] : List
    Part) ⊆ C) {s₀ s : State} (h : State.Keeps C s₀ s) (c : Ctx) (r : Ring) : State.Keeps C s₀ (State.entryFetch s
    c r) := by
  unfold State.entryFetch
  repeat' first
    | with_reducible assumption | with_reducible apply State.count_keeps | with_reducible apply State.haltRing_keeps
    | with_reducible apply State.seqRead_keeps | with_reducible apply State.seqWrite_keeps
    | with_reducible apply State.setRing_keeps | exact List.Subset.trans (by decide) hc
    | with_reducible apply State.Keeps.ite | split | dsimp only
    | (apply State.Keeps.pair; (with_reducible assumption))

theorem State.addHolds_keeps {C : List Part} (hc : ([.regs, .clusters, .mcasts, .caddy, .reqs, .seq, .fabric,
    .link, .can, .snap, .out] : List Part) ⊆ C) (j : Job) (y0 : List (Nat × Nat)) {s₀ y1 : State} (h : State.Keeps
    C s₀ y1) : State.Keeps C s₀ (State.addHolds j y0 y1) := by
  induction y0 generalizing y1 with
  | nil => exact h
  | cons a l ih =>
    unfold State.addHolds
    dsimp only
    split
    · exact ih h
    · split
      · exact ih (State.setTag_keeps (List.Subset.trans (by decide) hc) h _ _ _)
      · exact State.killContext_keeps (List.Subset.trans (by decide) hc) h _ _ _

theorem State.addJob_keeps {C : List Part} (hc : ([.seq] : List Part) ⊆ C) {s₀ s : State} (h : State.Keeps C s₀ s)
    (c : Ctx) (r : Ring) (words : List Word64) : State.Keeps C s₀ (State.addJob s c r words).1 := by
  unfold State.addJob
  repeat' first
    | with_reducible assumption | with_reducible apply State.setRing_keeps | exact List.Subset.trans (by decide) hc
    | (apply State.Keeps.ofFields; dsimp only; refine State.Keeps.setSeq (hc (by decide)) (State.Keeps.toFields ?_))
    | dsimp only

theorem State.entryReturn_keeps {C : List Part} (hc : ([.regs, .clusters, .mcasts, .caddy, .reqs, .seq, .fabric,
    .link, .can, .snap, .out, .free] : List Part) ⊆ C) {s₀ s : State} (h : State.Keeps C s₀ s) (c : Ctx) (r :
    Ring) : State.Keeps C s₀ (State.entryReturn s c r) := by
  unfold State.entryReturn
  repeat' first
    | with_reducible assumption | with_reducible apply State.addHolds_keeps
    | with_reducible apply State.addJob_keeps | with_reducible apply State.drawFree_keeps
    | with_reducible apply State.dropReq_keeps | with_reducible apply State.endJob_keeps
    | exact List.Subset.trans (by decide) hc | with_reducible apply State.Keeps.ite | split | intro _ | dsimp only
    | (apply State.Keeps.pair; (with_reducible assumption))

theorem State.notePowerStart_keeps {C : List Part} (hc : ([.power] : List Part) ⊆ C) {s₀ s : State} (h :
    State.Keeps C s₀ s) (j : Job) : State.Keeps C s₀ (State.notePowerStart s j) := by
  unfold State.notePowerStart
  repeat' first
    | with_reducible assumption | with_reducible apply State.Keeps.ite | split
    | (apply State.Keeps.ofFields; dsimp only; refine State.Keeps.setPower (hc (by decide)) (State.Keeps.toFields ?_))
    | dsimp only

theorem State.startJob_keeps {C : List Part} (hc : ([.seq, .power] : List Part) ⊆ C) {s₀ s : State} (h :
    State.Keeps C s₀ s) (j : Job) : State.Keeps C s₀ (State.startJob s j) := by
  unfold State.startJob
  repeat' first
    | with_reducible assumption | with_reducible apply State.notePowerStart_keeps
    | with_reducible apply State.updJob_keeps | exact List.Subset.trans (by decide) hc
    | with_reducible apply State.Keeps.ite | split | intro _
    | (apply State.Keeps.ofFields; dsimp only; refine State.Keeps.setSeq (hc (by decide)) (State.Keeps.toFields ?_))
    | dsimp only

theorem State.begin_keeps {C : List Part} (hc : ([.seq, .power] : List Part) ⊆ C) {s₀ s : State} (h : State.Keeps
    C s₀ s) (id type : Nat) (f : Job → State → State) (hf : ∀ {u : State} (a0 : Job) (a1 : State), State.Keeps C u
    a1 → State.Keeps C u (f a0 a1)) : State.Keeps C s₀ (State.begin s id type f) := by
  unfold State.begin
  repeat' first
    | with_reducible assumption | with_reducible apply hf | with_reducible apply State.startJob_keeps
    | exact List.Subset.trans (by decide) hc | with_reducible apply State.Keeps.ite | split | intro _ | dsimp only
    | (apply State.Keeps.pair; (with_reducible assumption))

theorem State.startCompute_keeps {C : List Part} (hc : ([.clusters] : List Part) ⊆ C) (j : Job) {s₀ s : State} (h
    : State.Keeps C s₀ s) : State.Keeps C s₀ (State.startCompute j s) := by
  unfold State.startCompute
  repeat' first
    | with_reducible assumption | with_reducible apply State.setCluster_keeps
    | exact List.Subset.trans (by decide) hc | (with_reducible apply State.Keeps.foldl; intros)
    | with_reducible apply State.Keeps.ite | split | intro _ | dsimp only

theorem State.computeStart_keeps {C : List Part} (hc : ([.regs, .clusters, .mcasts, .caddy, .reqs, .seq, .fabric,
    .link, .can, .power, .snap, .out] : List Part) ⊆ C) {s₀ s : State} (h : State.Keeps C s₀ s) (id : Nat) :
    State.Keeps C s₀ (State.computeStart s id) := by
  unfold State.computeStart
  repeat' first
    | with_reducible assumption | with_reducible apply State.begin_keeps | with_reducible apply State.endJob_keeps
    | with_reducible apply State.startCompute_keeps | exact List.Subset.trans (by decide) hc
    | with_reducible apply State.Keeps.ite | split | intro _ | dsimp only
    | (apply State.Keeps.pair; (with_reducible assumption))

theorem State.reserveFor_keeps {C : List Part} (hc : ([.seq] : List Part) ⊆ C) {s₀ s : State} (h : State.Keeps C
    s₀ s) (id : Nat) : State.Keeps C s₀ (State.reserveFor s id) := by
  unfold State.reserveFor
  repeat' first
    | with_reducible assumption | with_reducible apply State.Keeps.ite | split | intro _
    | (apply State.Keeps.ofFields; dsimp only; refine State.Keeps.setSeq (hc (by decide)) (State.Keeps.toFields ?_))
    | dsimp only | (apply State.Keeps.pair; (with_reducible assumption))

theorem State.startCopy_keeps {C : List Part} (hc : ([.regs, .clusters, .mcasts, .caddy, .reqs, .seq, .fabric,
    .link, .can, .snap, .out] : List Part) ⊆ C) (j : Job) {s₀ s : State} (h : State.Keeps C s₀ s) : State.Keeps C
    s₀ (State.startCopy j s) := by
  unfold State.startCopy
  repeat' first
    | with_reducible assumption | with_reducible apply State.endJob_keeps
    | with_reducible apply State.readRange_keeps | with_reducible apply State.updJob_keeps
    | exact List.Subset.trans (by decide) hc | with_reducible apply State.Keeps.ite | split | intro _ | dsimp only
    | (apply State.Keeps.pair; (with_reducible assumption))

theorem State.copyMove_keeps {C : List Part} (hc : ([.regs, .clusters, .mcasts, .caddy, .reqs, .seq, .fabric,
    .link, .can, .snap, .out] : List Part) ⊆ C) {s₀ s : State} (h : State.Keeps C s₀ s) (j : Job) (e : Fin 8)
    (reads : List Req) : State.Keeps C s₀ (State.copyMove s j e reads) := by
  unfold State.copyMove
  repeat' first
    | with_reducible assumption | with_reducible apply State.dropReq_keeps | with_reducible apply State.settle_keeps
    | with_reducible apply State.updJob_keeps | with_reducible apply State.writeRange_keeps
    | exact List.Subset.trans (by decide) hc | (with_reducible apply State.Keeps.foldl; intros) | intro _
    | dsimp only

theorem State.copyStep_keeps {C : List Part} (hc : ([.regs, .clusters, .mcasts, .caddy, .reqs, .seq, .fabric,
    .link, .can, .snap, .out] : List Part) ⊆ C) {s₀ s : State} (h : State.Keeps C s₀ s) (id : Nat) : State.Keeps C
    s₀ (State.copyStep s id) := by
  unfold State.copyStep
  repeat' first
    | with_reducible assumption | with_reducible apply State.copyMove_keeps
    | with_reducible apply State.dropReq_keeps | with_reducible apply State.endJob_keeps
    | exact List.Subset.trans (by decide) hc | (with_reducible apply State.Keeps.foldl; intros)
    | with_reducible apply State.Keeps.ite | split | intro _ | dsimp only
    | (apply State.Keeps.pair; (with_reducible assumption))

theorem State.finish_keeps {C : List Part} (hc : ([.regs, .clusters, .mcasts, .caddy, .reqs, .seq, .fabric, .link,
    .can, .snap, .out] : List Part) ⊆ C) {s₀ s : State} (h : State.Keeps C s₀ s) (id : Nat) (e : JobEnd) (cause :
    Nat) : State.Keeps C s₀ (State.finish s id e cause) := by
  unfold State.finish
  repeat' first
    | with_reducible assumption | with_reducible apply State.endJob_keeps | exact List.Subset.trans (by decide) hc
    | split | dsimp only | (apply State.Keeps.pair; (with_reducible assumption))

theorem State.startPin_keeps {C : List Part} (hc : ([.regs, .clusters, .mcasts, .caddy, .reqs, .seq, .fabric,
    .link, .can, .snap, .out] : List Part) ⊆ C) (j : Job) {s₀ s : State} (h : State.Keeps C s₀ s) : State.Keeps C
    s₀ (State.startPin j s) := by
  unfold State.startPin
  repeat' first
    | with_reducible assumption | with_reducible apply State.finish_keeps
    | with_reducible apply State.pinBegin_keeps | with_reducible apply State.unpinBegin_keeps
    | exact List.Subset.trans (by decide) hc | with_reducible apply State.Keeps.ite | split | dsimp only

theorem State.pinComplete_keeps {C : List Part} (hc : ([.regs, .clusters, .mcasts, .caddy, .reqs, .seq, .fabric,
    .link, .can, .snap, .out] : List Part) ⊆ C) {s₀ s : State} (h : State.Keeps C s₀ s) (id : Nat) : State.Keeps C
    s₀ (State.pinComplete s id) := by
  unfold State.pinComplete
  repeat' first
    | with_reducible assumption | with_reducible apply State.endJob_keeps | exact List.Subset.trans (by decide) hc
    | with_reducible apply State.Keeps.ite | split | dsimp only
    | (apply State.Keeps.pair; (with_reducible assumption))

theorem State.dropLate_keeps {C : List Part} (hc : ([.regs, .clusters, .mcasts, .caddy, .reqs, .seq, .fabric,
    .link, .can, .snap, .out] : List Part) ⊆ C) {s₀ s : State} (h : State.Keeps C s₀ s) (id : Nat) : State.Keeps C
    s₀ (State.dropLate s id) := by
  unfold State.dropLate
  repeat' first
    | with_reducible assumption | with_reducible apply State.endJob_keeps | exact List.Subset.trans (by decide) hc
    | with_reducible apply State.Keeps.ite | split | dsimp only
    | (apply State.Keeps.pair; (with_reducible assumption))

theorem State.dropReads_keeps {C : List Part} (hc : ([.reqs] : List Part) ⊆ C) {s₀ s : State} (h : State.Keeps C
    s₀ s) (c : Nat) : State.Keeps C s₀ (State.dropReads s c) := by
  unfold State.dropReads
  repeat' first
    | with_reducible assumption | intro _
    | (apply State.Keeps.ofFields; dsimp only; refine State.Keeps.setReqs (hc (by decide)) (State.Keeps.toFields ?_))
    | dsimp only

theorem State.computeComplete_keeps {C : List Part} (hc : ([.regs, .clusters, .mcasts, .caddy, .reqs, .seq,
    .fabric, .link, .can, .snap, .out] : List Part) ⊆ C) {s₀ s : State} (h : State.Keeps C s₀ s) (id : Nat) :
    State.Keeps C s₀ (State.computeComplete s id) := by
  unfold State.computeComplete
  repeat' first
    | with_reducible assumption | with_reducible apply State.dropReads_keeps
    | with_reducible apply State.endJob_keeps | exact List.Subset.trans (by decide) hc
    | (with_reducible apply State.Keeps.foldl; intros) | with_reducible apply State.Keeps.ite | split | intro _
    | dsimp only | (apply State.Keeps.pair; (with_reducible assumption))

theorem State.cqTimer_keeps {C : List Part} (hc : ([.seq, .link, .out] : List Part) ⊆ C) {s₀ s : State} (h :
    State.Keeps C s₀ s) (c : Nat) : State.Keeps C s₀ (State.cqTimer s c) := by
  unfold State.cqTimer
  repeat' first
    | with_reducible assumption | with_reducible apply State.cqInterrupt_keeps
    | exact List.Subset.trans (by decide) hc | with_reducible apply State.Keeps.ite | split | dsimp only
    | (apply State.Keeps.pair; (with_reducible assumption))

theorem State.cqStart_keeps {C : List Part} (hc : ([.regs, .reqs, .seq, .fabric, .link, .can, .out] : List Part) ⊆
    C) {s₀ s : State} (h : State.Keeps C s₀ s) (c : Nat) : State.Keeps C s₀ (State.cqStart s c) := by
  unfold State.cqStart
  repeat' first
    | with_reducible assumption | with_reducible apply State.drainHeld_keeps
    | with_reducible apply State.setCtx_keeps | exact List.Subset.trans (by decide) hc | intro _ | dsimp only

theorem State.headReturn_keeps {C : List Part} (hc : ([.regs, .reqs, .seq, .fabric, .link, .can, .out] : List
    Part) ⊆ C) {s₀ s : State} (h : State.Keeps C s₀ s) (c : Ctx) : State.Keeps C s₀ (State.headReturn s c) := by
  unfold State.headReturn
  repeat' first
    | with_reducible assumption | with_reducible apply State.drainHeld_keeps
    | with_reducible apply State.dropReq_keeps | with_reducible apply State.setCtx_keeps
    | exact List.Subset.trans (by decide) hc | split | intro _ | dsimp only
    | (apply State.Keeps.pair; (with_reducible assumption))

theorem State.undoTakes_keeps {C : List Part} (hc : ([.clusters, .reqs] : List Part) ⊆ C) {s₀ s : State} (h :
    State.Keeps C s₀ s) (cl : Nat) : State.Keeps C s₀ (State.undoTakes s cl) := by
  unfold State.undoTakes
  repeat' first
    | with_reducible assumption | with_reducible apply State.issued_keeps
    | with_reducible apply State.setEngine_keeps | with_reducible apply State.setTok_keeps
    | exact List.Subset.trans (by decide) hc | (with_reducible apply State.Keeps.foldl; intros) | split | intro _
    | (apply State.Keeps.ofFields; dsimp only; refine State.Keeps.setReqs (hc (by decide)) (State.Keeps.toFields ?_))
    | dsimp only | (apply State.Keeps.pair; (with_reducible assumption))

theorem State.saveStart_keeps {C : List Part} (hc : ([.regs, .clusters, .mcasts, .reqs, .seq] : List Part) ⊆ C)
    {s₀ s : State} (h : State.Keeps C s₀ s) (c : Nat) : State.Keeps C s₀ (State.saveStart s c) := by
  unfold State.saveStart
  repeat' first
    | with_reducible assumption | with_reducible apply State.setCtxState_keeps
    | with_reducible apply State.setCtx_keeps | with_reducible apply State.undoTakes_keeps
    | exact List.Subset.trans (by decide) hc | (with_reducible apply State.Keeps.foldl; intros) | split | intro _
    | (apply State.Keeps.ofFields; dsimp only; refine State.Keeps.setMcasts (hc (by decide)) (State.Keeps.toFields ?_))
    | dsimp only | (apply State.Keeps.pair; (with_reducible assumption))

theorem State.saveTimeout_keeps {C : List Part} (hc : ([.regs, .clusters, .mcasts, .caddy, .reqs, .seq, .fabric,
    .link, .can, .snap, .out] : List Part) ⊆ C) {s₀ s : State} (h : State.Keeps C s₀ s) (c : Nat) : State.Keeps C
    s₀ (State.saveTimeout s c) := by
  unfold State.saveTimeout
  repeat' first
    | with_reducible assumption | with_reducible apply State.killContext_keeps
    | exact List.Subset.trans (by decide) hc | with_reducible apply State.Keeps.ite | split | intro _ | dsimp only
    | (apply State.Keeps.pair; (with_reducible assumption))

theorem State.writeSlot_keeps {C : List Part} (hc : ([.regs, .reqs, .seq, .fabric, .link, .can, .out, .free] :
    List Part) ⊆ C) {s₀ s : State} (h : State.Keeps C s₀ s) (c : Ctx) (cl : Nat) : State.Keeps C s₀
    (State.writeSlot s c cl) := by
  unfold State.writeSlot
  repeat' first
    | with_reducible assumption | with_reducible apply State.drawFree_keeps
    | with_reducible apply State.setCtx_keeps | with_reducible apply State.writeRange_keeps
    | exact List.Subset.trans (by decide) hc | dsimp only

theorem State.saveWrite_keeps {C : List Part} (hc : ([.regs, .reqs, .seq, .fabric, .link, .can, .out, .free] :
    List Part) ⊆ C) {s₀ s : State} (h : State.Keeps C s₀ s) (c : Ctx) : State.Keeps C s₀ (State.saveWrite s c) := by
  unfold State.saveWrite
  repeat' first
    | with_reducible assumption | with_reducible apply State.setCtx_keeps
    | with_reducible apply State.writeSlot_keeps | exact List.Subset.trans (by decide) hc
    | (with_reducible apply State.Keeps.foldl; intros) | with_reducible apply State.Keeps.ite | split | intro _
    | dsimp only

theorem State.saveDone_keeps {C : List Part} (hc : ([.regs, .clusters] : List Part) ⊆ C) {s₀ s : State} (h :
    State.Keeps C s₀ s) (c : Ctx) : State.Keeps C s₀ (State.saveDone s c) := by
  unfold State.saveDone
  repeat' first
    | with_reducible assumption | with_reducible apply State.setCluster_keeps
    | with_reducible apply State.setCtxState_keeps | exact List.Subset.trans (by decide) hc
    | (with_reducible apply State.Keeps.foldl; intros) | with_reducible apply State.Keeps.ite | split | intro _
    | dsimp only

theorem State.restoreStart_keeps {C : List Part} (hc : ([.regs, .clusters, .mcasts, .caddy, .reqs, .seq, .fabric,
    .link, .can, .snap, .out] : List Part) ⊆ C) {s₀ s : State} (h : State.Keeps C s₀ s) (c : Nat) : State.Keeps C
    s₀ (State.restoreStart s c) := by
  unfold State.restoreStart
  repeat' first
    | with_reducible assumption | with_reducible apply State.killContext_keeps
    | with_reducible apply State.setCtxState_keeps | with_reducible apply State.setCtx_keeps
    | exact List.Subset.trans (by decide) hc | with_reducible apply State.Keeps.ite | split | intro _ | dsimp only

theorem State.lanesBack_keeps {C : List Part} (hc : ([.seq] : List Part) ⊆ C) {s₀ s : State} (h : State.Keeps C s₀
    s) (c : Ctx) (cl : Nat) (bs : List (Byte × Bool)) : State.Keeps C s₀ (State.lanesBack s c cl bs) := by
  unfold State.lanesBack
  repeat' first
    | with_reducible assumption | with_reducible apply State.setLane_keeps | exact List.Subset.trans (by decide) hc
    | (with_reducible apply State.Keeps.foldl; intros) | intro _ | dsimp only

theorem State.slotBack_keeps {C : List Part} (hc : ([.clusters, .seq] : List Part) ⊆ C) {s₀ s : State} (h :
    State.Keeps C s₀ s) (c : Ctx) (cl : Nat) (y : Cluster) (bs : List (Byte × Bool)) : State.Keeps C s₀
    (State.slotBack s c cl y bs) := by
  unfold State.slotBack
  repeat' first
    | with_reducible assumption | with_reducible apply State.lanesBack_keeps
    | with_reducible apply State.setCluster_keeps | with_reducible apply State.setCtx_keeps
    | exact List.Subset.trans (by decide) hc | dsimp only

theorem State.restoreSlot_keeps {C : List Part} (hc : ([.regs, .clusters, .mcasts, .caddy, .reqs, .seq, .fabric,
    .link, .can, .snap, .out] : List Part) ⊆ C) {s₀ s : State} (h : State.Keeps C s₀ s) (c : Ctx) (cl : Cl) :
    State.Keeps C s₀ (State.restoreSlot s c cl) := by
  unfold State.restoreSlot
  repeat' first
    | with_reducible assumption | with_reducible apply State.dropReqs_keeps
    | with_reducible apply State.killContext_keeps | with_reducible apply State.readRange_keeps
    | with_reducible apply State.slotBack_keeps | exact List.Subset.trans (by decide) hc
    | with_reducible apply State.Keeps.ite | split | intro _ | dsimp only
    | (apply State.Keeps.pair; (with_reducible assumption))

theorem State.restoreDone_keeps {C : List Part} (hc : ([.regs, .seq] : List Part) ⊆ C) {s₀ s : State} (h :
    State.Keeps C s₀ s) (c : Ctx) : State.Keeps C s₀ (State.restoreDone s c) := by
  unfold State.restoreDone
  repeat' first
    | with_reducible assumption | with_reducible apply State.setCtxState_keeps
    | with_reducible apply State.setCtx_keeps | exact List.Subset.trans (by decide) hc
    | with_reducible apply State.Keeps.ite | split | dsimp only

theorem State.ctxCommand_keeps {C : List Part} (hc : ([.regs, .clusters, .mcasts, .caddy, .reqs, .seq, .fabric,
    .link, .can, .snap, .out] : List Part) ⊆ C) {s₀ s : State} (h : State.Keeps C s₀ s) (c cmd : Nat) :
    State.Keeps C s₀ (State.ctxCommand s c cmd) := by
  unfold State.ctxCommand
  repeat' first
    | with_reducible assumption | with_reducible apply State.killContext_keeps
    | with_reducible apply State.restoreStart_keeps | with_reducible apply State.saveStart_keeps
    | with_reducible apply State.setCtxState_keeps | exact List.Subset.trans (by decide) hc
    | with_reducible apply State.Keeps.ite | split | dsimp only

theorem State.setFtState_keeps {C : List Part} (hc : ([.regs, .link, .can, .out] : List Part) ⊆ C) {s₀ s : State}
    (h : State.Keeps C s₀ s) (n : Nat) : State.Keeps C s₀ (State.setFtState s n) := by
  unfold State.setFtState
  repeat' first
    | with_reducible assumption | with_reducible apply State.event_keeps | with_reducible apply State.setFld_keeps
    | exact List.Subset.trans (by decide) hc | with_reducible apply State.Keeps.ite | split | dsimp only

theorem State.setLockCounts_keeps {C : List Part} (hc : ([.time] : List Part) ⊆ C) {s₀ s : State} (h : State.Keeps
    C s₀ s) (good bad : Nat) : State.Keeps C s₀ (State.setLockCounts s good bad) := by
  unfold State.setLockCounts
  repeat' first
    | with_reducible assumption
    | (apply State.Keeps.ofFields; dsimp only; refine State.Keeps.setTime (hc (by decide)) (State.Keeps.toFields ?_))
    | dsimp only

theorem State.ftSourceSet_keeps {C : List Part} (hc : ([.regs, .time, .link, .can, .out] : List Part) ⊆ C) {s₀ s :
    State} (h : State.Keeps C s₀ s) (src : Nat) : State.Keeps C s₀ (State.ftSourceSet s src) := by
  unfold State.ftSourceSet
  repeat' first
    | with_reducible assumption | with_reducible apply State.setFtState_keeps
    | with_reducible apply State.setLockCounts_keeps | exact List.Subset.trans (by decide) hc
    | with_reducible apply State.Keeps.ite | split | dsimp only

theorem State.correctFt_keeps {C : List Part} (hc : ([.regs, .time, .link, .can, .out] : List Part) ⊆ C) {s₀ s :
    State} (h : State.Keeps C s₀ s) (off : Int) : State.Keeps C s₀ (State.correctFt s off) := by
  unfold State.correctFt
  repeat' first
    | with_reducible assumption | with_reducible apply State.event_keeps | with_reducible apply State.setFld_keeps
    | exact List.Subset.trans (by decide) hc | with_reducible apply State.Keeps.ite | split
    | (apply State.Keeps.ofFields; dsimp only; refine State.Keeps.setTime (hc (by decide)) (State.Keeps.toFields ?_))
    | dsimp only

theorem State.lockStep_keeps {C : List Part} (hc : ([.regs, .time, .link, .can, .out] : List Part) ⊆ C) {s₀ s :
    State} (h : State.Keeps C s₀ s) (off : Int) (inside n m : Nat) : State.Keeps C s₀ (State.lockStep s off inside
    n m) := by
  unfold State.lockStep
  repeat' first
    | with_reducible assumption | with_reducible apply State.setFtState_keeps
    | with_reducible apply State.setLockCounts_keeps | exact List.Subset.trans (by decide) hc
    | with_reducible apply State.Keeps.ite | split
    | (apply State.Keeps.ofFields; dsimp only; refine State.Keeps.setTime (hc (by decide)) (State.Keeps.toFields ?_))
    | dsimp only

theorem State.takeTod_keeps {C : List Part} (hc : ([.time] : List Part) ⊆ C) {s₀ s : State} (h : State.Keeps C s₀
    s) : State.Keeps C s₀ (State.takeTod s) := by
  unfold State.takeTod
  repeat' first
    | with_reducible assumption | with_reducible apply State.Keeps.ite | split
    | (apply State.Keeps.ofFields; dsimp only; refine State.Keeps.setTime (hc (by decide)) (State.Keeps.toFields ?_))
    | dsimp only | (apply State.Keeps.pair; (with_reducible assumption))

theorem State.ppsEdge_keeps {C : List Part} (hc : ([.regs, .time, .link, .can, .out] : List Part) ⊆ C) {s₀ s :
    State} (h : State.Keeps C s₀ s) : State.Keeps C s₀ (State.ppsEdge s) := by
  unfold State.ppsEdge
  repeat' first
    | with_reducible assumption | with_reducible apply State.correctFt_keeps
    | with_reducible apply State.lockStep_keeps | with_reducible apply State.takeTod_keeps
    | exact List.Subset.trans (by decide) hc | with_reducible apply State.Keeps.ite | split | dsimp only

theorem State.sourceLoss_keeps {C : List Part} (hc : ([.regs, .time, .link, .can, .out] : List Part) ⊆ C) {s₀ s :
    State} (h : State.Keeps C s₀ s) : State.Keeps C s₀ (State.sourceLoss s) := by
  unfold State.sourceLoss
  repeat' first
    | with_reducible assumption | with_reducible apply State.setFtState_keeps
    | with_reducible apply State.setLockCounts_keeps | exact List.Subset.trans (by decide) hc
    | with_reducible apply State.Keeps.ite | split | dsimp only

theorem State.selectMasters_keeps {C : List Part} (hc : ([.fabric] : List Part) ⊆ C) {s₀ s : State} (h :
    State.Keeps C s₀ s) : State.Keeps C s₀ (State.selectMasters s) := by
  unfold State.selectMasters
  repeat' first
    | with_reducible assumption | with_reducible apply State.setPort_keeps | exact List.Subset.trans (by decide) hc
    | (with_reducible apply State.Keeps.foldl; intros) | with_reducible apply State.Keeps.ite | split | intro _
    | dsimp only

theorem State.sendPtp_keeps {C : List Part} (hc : ([.regs, .fabric] : List Part) ⊆ C) {s₀ s : State} (h :
    State.Keeps C s₀ s) (i : Nat) (k : PtpKind) : State.Keeps C s₀ (State.sendPtp s i k) := by
  unfold State.sendPtp
  repeat' first
    | with_reducible assumption | with_reducible apply State.enqueue_keeps | exact List.Subset.trans (by decide) hc
    | dsimp only

theorem State.ptpSend_keeps {C : List Part} (hc : ([.regs, .fabric] : List Part) ⊆ C) {s₀ s : State} (h :
    State.Keeps C s₀ s) (i : Nat) (k : PtpKind) : State.Keeps C s₀ (State.ptpSend s i k) := by
  unfold State.ptpSend
  repeat' first
    | with_reducible assumption | with_reducible apply State.sendPtp_keeps
    | with_reducible apply State.setPort_keeps | exact List.Subset.trans (by decide) hc
    | with_reducible apply State.Keeps.ite | split | dsimp only
    | (apply State.Keeps.pair; (with_reducible assumption))

theorem State.ptpHeard_keeps {C : List Part} (hc : ([.regs] : List Part) ⊆ C) {s₀ s : State} (h : State.Keeps C s₀
    s) (i : Nat) (ks : List PtpKind) : State.Keeps C s₀ (State.ptpHeard s i ks) := by
  unfold State.ptpHeard
  repeat' first
    | with_reducible assumption | with_reducible apply State.countDiscard_keeps
    | with_reducible apply State.heard_keeps | exact List.Subset.trans (by decide) hc
    | (with_reducible apply State.Keeps.foldl; intros) | with_reducible apply State.Keeps.ite | split | intro _
    | dsimp only

theorem State.ptpTake_keeps {C : List Part} (hc : ([.regs] : List Part) ⊆ C) {s₀ s : State} (h : State.Keeps C s₀
    s) (i : Nat) (ks : List PtpKind) (domain : BitVec 8) (f : State → State) (hf : ∀ {u : State} (a0 : State),
    State.Keeps C u a0 → State.Keeps C u (f a0)) : State.Keeps C s₀ (State.ptpTake s i ks domain f) := by
  unfold State.ptpTake
  repeat' first
    | with_reducible assumption | with_reducible apply hf | with_reducible apply State.ptpHeard_keeps
    | exact List.Subset.trans (by decide) hc | with_reducible apply State.Keeps.ite | split | intro _ | dsimp only

theorem State.ptpSync_keeps {C : List Part} (hc : ([.regs, .time, .link, .can, .out] : List Part) ⊆ C) {s₀ s :
    State} (h : State.Keeps C s₀ s) (i origin arrival : Nat) (correction : Int) : State.Keeps C s₀ (State.ptpSync
    s i origin arrival correction) := by
  unfold State.ptpSync
  repeat' first
    | with_reducible assumption | with_reducible apply State.correctFt_keeps
    | with_reducible apply State.lockStep_keeps | exact List.Subset.trans (by decide) hc
    | with_reducible apply State.Keeps.ite | split | dsimp only

theorem State.ptpPdelay_keeps {C : List Part} (hc : ([.regs, .fabric] : List Part) ⊆ C) {s₀ s : State} (h :
    State.Keeps C s₀ s) (i : Nat) (k : PtpKind) (t1 t2 t3 t4 : Nat) : State.Keeps C s₀ (State.ptpPdelay s i k t1
    t2 t3 t4) := by
  unfold State.ptpPdelay
  repeat' first
    | with_reducible assumption | with_reducible apply State.sendPtp_keeps
    | with_reducible apply State.setPort_keeps | exact List.Subset.trans (by decide) hc
    | with_reducible apply State.Keeps.ite | split | dsimp only
    | (apply State.Keeps.pair; (with_reducible assumption))

theorem State.ptpAnnounce_keeps {C : List Part} (hc : ([.fabric] : List Part) ⊆ C) {s₀ s : State} (h : State.Keeps
    C s₀ s) (i : Nat) (a : Announce) : State.Keeps C s₀ (State.ptpAnnounce s i a) := by
  unfold State.ptpAnnounce
  repeat' first
    | with_reducible assumption | with_reducible apply State.selectMasters_keeps
    | with_reducible apply State.setPort_keeps | exact List.Subset.trans (by decide) hc
    | with_reducible apply State.Keeps.ite | split | dsimp only
    | (apply State.Keeps.pair; (with_reducible assumption))

theorem State.announceTimeout_keeps {C : List Part} (hc : ([.fabric] : List Part) ⊆ C) {s₀ s : State} (h :
    State.Keeps C s₀ s) (i : Nat) : State.Keeps C s₀ (State.announceTimeout s i) := by
  unfold State.announceTimeout
  repeat' first
    | with_reducible assumption | with_reducible apply State.selectMasters_keeps
    | with_reducible apply State.setPort_keeps | exact List.Subset.trans (by decide) hc
    | with_reducible apply State.Keeps.ite | split | dsimp only

theorem State.queueTpdo1_keeps {C : List Part} (hc : ([.regs, .can] : List Part) ⊆ C) {s₀ s : State} (h :
    State.Keeps C s₀ s) (data : List Byte) : State.Keeps C s₀ (State.queueTpdo1 s data) := by
  unfold State.queueTpdo1
  repeat' first
    | with_reducible assumption | with_reducible apply State.count_keeps | exact List.Subset.trans (by decide) hc
    | with_reducible apply State.Keeps.ite | split
    | (apply State.Keeps.ofFields; dsimp only; refine State.Keeps.setCan (hc (by decide)) (State.Keeps.toFields ?_))
    | dsimp only

theorem State.project_keeps {C : List Part} (hc : ([.regs, .seq, .can] : List Part) ⊆ C) {s₀ s : State} (h :
    State.Keeps C s₀ s) : State.Keeps C s₀ (State.project s) := by
  unfold State.project
  repeat' first
    | with_reducible assumption | with_reducible apply State.Keeps.setReg
    | with_reducible apply State.queueTpdo1_keeps | exact List.Subset.trans (by decide) hc
    | (with_reducible apply State.Keeps.foldl; intros) | with_reducible apply State.Keeps.ite | split | intro _
    | (apply State.Keeps.ofFields; dsimp only; refine State.Keeps.setSeq (hc (by decide)) (State.Keeps.toFields ?_))
    | dsimp only

theorem State.portRise_keeps {C : List Part} (hc : ([.regs, .fabric, .link, .can, .out] : List Part) ⊆ C) {s₀ s :
    State} (h : State.Keeps C s₀ s) (i : Nat) : State.Keeps C s₀ (State.portRise s i) := by
  unfold State.portRise
  repeat' first
    | with_reducible assumption | with_reducible apply State.setPortState_keeps
    | with_reducible apply State.setPort_keeps | exact List.Subset.trans (by decide) hc
    | with_reducible apply State.Keeps.ite | split | dsimp only

theorem State.pcsRise_keeps {C : List Part} (hc : ([.regs, .clusters, .mcasts, .caddy, .reqs, .seq, .fabric,
    .link, .can, .snap, .out] : List Part) ⊆ C) {s₀ s : State} (h : State.Keeps C s₀ s) (i : Nat) : State.Keeps C
    s₀ (State.pcsRise s i) := by
  unfold State.pcsRise
  repeat' first
    | with_reducible assumption | with_reducible apply State.portRise_keeps
    | with_reducible apply State.setPortState_keeps | with_reducible apply State.setPort_keeps
    | with_reducible apply State.settle_keeps | exact List.Subset.trans (by decide) hc
    | with_reducible apply State.Keeps.ite | split | dsimp only

theorem State.settled_keeps {C : List Part} (hc : ([.regs, .clusters, .mcasts, .caddy, .reqs, .seq, .fabric,
    .link, .can, .snap, .out] : List Part) ⊆ C) {s₀ s : State} (h : State.Keeps C s₀ s) (i : Nat) : State.Keeps C
    s₀ (State.settled s i) := by
  unfold State.settled
  repeat' first
    | with_reducible assumption | with_reducible apply State.portRise_keeps
    | with_reducible apply State.setPort_keeps | with_reducible apply State.settle_keeps
    | exact List.Subset.trans (by decide) hc | with_reducible apply State.Keeps.ite | split | dsimp only

theorem State.pcsLoss_keeps {C : List Part} (hc : ([.regs, .fabric, .link, .can, .snap, .out] : List Part) ⊆ C)
    {s₀ s : State} (h : State.Keeps C s₀ s) (i : Nat) : State.Keeps C s₀ (State.pcsLoss s i) := by
  unfold State.pcsLoss
  repeat' first
    | with_reducible assumption | with_reducible apply State.linkDown_keeps
    | with_reducible apply State.setPort_keeps | exact List.Subset.trans (by decide) hc
    | with_reducible apply State.Keeps.ite | split | dsimp only

theorem State.fecBurst_keeps {C : List Part} (hc : ([.regs, .fabric, .link, .can, .snap, .out] : List Part) ⊆ C)
    {s₀ s : State} (h : State.Keeps C s₀ s) (i n fixed : Nat) : State.Keeps C s₀ (State.fecBurst s i n fixed) := by
  unfold State.fecBurst
  repeat' first
    | with_reducible assumption | with_reducible apply State.count_keeps | with_reducible apply State.linkDown_keeps
    | exact List.Subset.trans (by decide) hc | with_reducible apply State.Keeps.ite | split | dsimp only

theorem State.sendLink_keeps {C : List Part} (hc : ([.regs, .fabric] : List Part) ⊆ C) {s₀ s : State} (h :
    State.Keeps C s₀ s) (i : Nat) (ws : List Word32) : State.Keeps C s₀ (State.sendLink s i ws) := by
  unfold State.sendLink
  repeat' first
    | with_reducible assumption | with_reducible apply State.enqueue_keeps | exact List.Subset.trans (by decide) hc
    | dsimp only

theorem State.sendHello_keeps {C : List Part} (hc : ([.regs, .fabric] : List Part) ⊆ C) {s₀ s : State} (h :
    State.Keeps C s₀ s) (i : Nat) : State.Keeps C s₀ (State.sendHello s i) := by
  unfold State.sendHello
  repeat' first
    | with_reducible assumption | with_reducible apply State.sendLink_keeps
    | with_reducible apply State.setPort_keeps | exact List.Subset.trans (by decide) hc
    | with_reducible apply State.Keeps.ite | split | dsimp only

theorem State.takeHello_keeps {C : List Part} (hc : ([.regs, .clusters, .mcasts, .caddy, .reqs, .seq, .fabric,
    .link, .can, .snap, .out] : List Part) ⊆ C) {s₀ s : State} (h : State.Keeps C s₀ s) (i : Nat) (smac : BitVec
    48) (w0 w1 : Word32) : State.Keeps C s₀ (State.takeHello s i smac w0 w1) := by
  unfold State.takeHello
  repeat' first
    | with_reducible assumption | with_reducible apply State.event_keeps | with_reducible apply State.linkDown_keeps
    | with_reducible apply State.portRise_keeps | with_reducible apply State.setFld_keeps
    | with_reducible apply State.setPortState_keeps | with_reducible apply State.setPort_keeps
    | with_reducible apply State.settle_keeps | with_reducible apply State.settled_keeps
    | exact List.Subset.trans (by decide) hc | with_reducible apply State.Keeps.ite | split | dsimp only
    | (apply State.Keeps.pair; (with_reducible assumption))

theorem State.helloIn_keeps {C : List Part} (hc : ([.regs, .clusters, .mcasts, .caddy, .reqs, .seq, .fabric,
    .link, .can, .snap, .out] : List Part) ⊆ C) {s₀ s : State} (h : State.Keeps C s₀ s) (i : Nat) (smac : BitVec
    48) (w0 w1 : Word32) : State.Keeps C s₀ (State.helloIn s i smac w0 w1) := by
  unfold State.helloIn
  repeat' first
    | with_reducible assumption | with_reducible apply State.heard_keeps
    | with_reducible apply State.refuseFrame_keeps | with_reducible apply State.takeHello_keeps
    | exact List.Subset.trans (by decide) hc | with_reducible apply State.Keeps.ite | split | dsimp only

theorem State.helloLoss_keeps {C : List Part} (hc : ([.regs, .fabric, .link, .can, .snap, .out] : List Part) ⊆ C)
    {s₀ s : State} (h : State.Keeps C s₀ s) (i : Nat) : State.Keeps C s₀ (State.helloLoss s i) := by
  unfold State.helloLoss
  repeat' first
    | with_reducible assumption | with_reducible apply State.linkDown_keeps | exact List.Subset.trans (by decide) hc
    | with_reducible apply State.Keeps.ite | split | dsimp only

theorem State.flood_keeps {C : List Part} (hc : ([.regs, .fabric] : List Part) ⊆ C) {s₀ s : State} (h :
    State.Keeps C s₀ s) (words : Nat → List Word32) (but : Option Nat) : State.Keeps C s₀ (State.flood s words
    but) := by
  unfold State.flood
  repeat' first
    | with_reducible assumption | with_reducible apply State.sendLink_keeps | exact List.Subset.trans (by decide) hc
    | (with_reducible apply State.Keeps.foldl; intros) | intro _ | dsimp only

theorem State.setKept_keeps {C : List Part} (hc : ([.fabric] : List Part) ⊆ C) {s₀ s : State} (h : State.Keeps C
    s₀ s) (origin : Nat) (seq : Word32) : State.Keeps C s₀ (State.setKept s origin seq) := by
  unfold State.setKept
  repeat' first
    | with_reducible assumption
    | (apply State.Keeps.ofFields; dsimp only; refine State.Keeps.setFabric (hc (by decide)) (State.Keeps.toFields ?_))
    | dsimp only

theorem State.topoSend_keeps {C : List Part} (hc : ([.regs, .fabric] : List Part) ⊆ C) {s₀ s : State} (h :
    State.Keeps C s₀ s) : State.Keeps C s₀ (State.topoSend s) := by
  unfold State.topoSend
  repeat' first
    | with_reducible assumption | with_reducible apply State.flood_keeps | with_reducible apply State.setKept_keeps
    | exact List.Subset.trans (by decide) hc | with_reducible apply State.Keeps.ite | split | intro _
    | (apply State.Keeps.ofFields; dsimp only; refine State.Keeps.setFabric (hc (by decide)) (State.Keeps.toFields ?_))
    | dsimp only | (apply State.Keeps.pair; (with_reducible assumption))

theorem State.topoIn_keeps {C : List Part} (hc : ([.regs, .fabric, .out] : List Part) ⊆ C) {s₀ s : State} (h :
    State.Keeps C s₀ s) (i : Nat) (w0 w1 w2 : Word32) (links : List Word32) : State.Keeps C s₀ (State.topoIn s i
    w0 w1 w2 links) := by
  unfold State.topoIn
  repeat' first
    | with_reducible assumption | with_reducible apply State.emit_keeps | with_reducible apply State.flood_keeps
    | with_reducible apply State.heard_keeps | with_reducible apply State.refuseFrame_keeps
    | with_reducible apply State.setKept_keeps | exact List.Subset.trans (by decide) hc
    | with_reducible apply State.Keeps.ite | split | intro _ | dsimp only

theorem State.solicit_keeps {C : List Part} (hc : ([.regs, .fabric] : List Part) ⊆ C) {s₀ s : State} (h :
    State.Keeps C s₀ s) (i : Nat) (smac prefx : BitVec 48) (node : BitVec 16) (iid : Word64) : State.Keeps C s₀
    (State.solicit s i smac prefx node iid) := by
  unfold State.solicit
  repeat' first
    | with_reducible assumption | with_reducible apply State.enqueue_keeps | with_reducible apply State.heard_keeps
    | with_reducible apply State.refuseFrame_keeps | exact List.Subset.trans (by decide) hc
    | with_reducible apply State.Keeps.ite | split | dsimp only

theorem State.creditIn_keeps {C : List Part} (hc : ([.fabric] : List Part) ⊆ C) {s₀ s : State} (h : State.Keeps C
    s₀ s) (i : Nat) (counts : List Word32) : State.Keeps C s₀ (State.creditIn s i counts) := by
  unfold State.creditIn
  repeat' first
    | with_reducible assumption | with_reducible apply State.setPort_keeps | exact List.Subset.trans (by decide) hc
    | with_reducible apply State.Keeps.ite | split | dsimp only

theorem State.creditFrame_keeps {C : List Part} (hc : ([.regs, .fabric] : List Part) ⊆ C) {s₀ s : State} (h :
    State.Keeps C s₀ s) (i : Nat) (counts : List Word32) : State.Keeps C s₀ (State.creditFrame s i counts) := by
  unfold State.creditFrame
  repeat' first
    | with_reducible assumption | with_reducible apply State.creditIn_keeps | with_reducible apply State.heard_keeps
    | with_reducible apply State.refuseFrame_keeps | exact List.Subset.trans (by decide) hc
    | with_reducible apply State.Keeps.ite | split | dsimp only

theorem State.creditOut_keeps {C : List Part} (hc : ([.regs, .fabric] : List Part) ⊆ C) {s₀ s : State} (h :
    State.Keeps C s₀ s) (i : Nat) : State.Keeps C s₀ (State.creditOut s i) := by
  unfold State.creditOut
  repeat' first
    | with_reducible assumption | with_reducible apply State.enqueue_keeps
    | with_reducible apply State.setPort_keeps | exact List.Subset.trans (by decide) hc
    | with_reducible apply State.Keeps.ite | split | dsimp only
    | (apply State.Keeps.pair; (with_reducible assumption))

theorem State.transmit_keeps {C : List Part} (hc : ([.regs, .fabric, .out] : List Part) ⊆ C) {s₀ s : State} (h :
    State.Keeps C s₀ s) (i : Nat) (q : EgItem) : State.Keeps C s₀ (State.transmit s i q) := by
  unfold State.transmit
  repeat' first
    | with_reducible assumption | with_reducible apply State.count_keeps | with_reducible apply State.emit_keeps
    | with_reducible apply State.release_keeps | with_reducible apply State.setPort_keeps
    | exact List.Subset.trans (by decide) hc | with_reducible apply State.Keeps.ite | split | dsimp only
    | (apply State.Keeps.pair; (with_reducible assumption))

theorem State.spoutErrors_keeps {C : List Part} (hc : ([.regs, .caddy, .link, .can, .snap, .out] : List Part) ⊆ C)
    {s₀ s : State} (h : State.Keeps C s₀ s) (q : EgItem) (errs : List WordErr) : State.Keeps C s₀
    (State.spoutErrors s q errs).1 := by
  unfold State.spoutErrors
  exact State.Keeps.foldlFst (fun p e hp => State.sramWord_keeps (List.Subset.trans (by decide) hc) hp _ _ _ _ fun _ hu => hu) _ h

theorem State.sendOut_keeps {C : List Part} (hc : ([.regs, .caddy, .fabric, .link, .can, .snap, .out] : List Part)
    ⊆ C) {s₀ s : State} (h : State.Keeps C s₀ s) (i : Nat) (q : EgItem) (errs : List WordErr) : State.Keeps C s₀
    (State.sendOut s i q errs) := by
  unfold State.sendOut
  repeat' first
    | with_reducible assumption | with_reducible apply State.spoutErrors_keeps
    | with_reducible apply State.transmit_keeps | exact List.Subset.trans (by decide) hc | split | dsimp only
    | (apply State.Keeps.pair; (with_reducible assumption))

theorem State.egress_keeps {C : List Part} (hc : ([.regs, .caddy, .fabric, .link, .can, .snap, .out] : List Part)
    ⊆ C) {s₀ s : State} (h : State.Keeps C s₀ s) (i : Nat) (errs : List WordErr) : State.Keeps C s₀ (State.egress
    s i errs) := by
  unfold State.egress
  repeat' first
    | with_reducible assumption | with_reducible apply State.sendOut_keeps
    | with_reducible apply State.setPort_keeps | exact List.Subset.trans (by decide) hc
    | with_reducible apply State.Keeps.ite | split | intro _ | dsimp only
    | (apply State.Keeps.pair; (with_reducible assumption))

theorem State.passBuffer_keeps {C : List Part} (hc : ([.fabric] : List Part) ⊆ C) {s₀ s : State} (h : State.Keeps
    C s₀ s) (i : Nat) (f : MFrame) : State.Keeps C s₀ (State.passBuffer s i f) := by
  unfold State.passBuffer
  repeat' first
    | with_reducible assumption | with_reducible apply State.ingressIn_keeps
    | with_reducible apply State.ingressOut_keeps | exact List.Subset.trans (by decide) hc | dsimp only

theorem State.switchIn_keeps {C : List Part} (hc : ([.regs, .fabric, .link, .can, .out] : List Part) ⊆ C) {s₀ s :
    State} (h : State.Keeps C s₀ s) (i : Nat) (f : MFrame) (stomp : Bool) : State.Keeps C s₀ (State.switchIn s i f
    stomp) := by
  unfold State.switchIn
  repeat' first
    | with_reducible assumption | with_reducible apply State.forward_keeps
    | with_reducible apply State.ingressIn_keeps | with_reducible apply State.passBuffer_keeps
    | exact List.Subset.trans (by decide) hc | with_reducible apply State.Keeps.ite | split | dsimp only
    | (apply State.Keeps.pair; (with_reducible assumption))

theorem State.goodFrame_keeps {C : List Part} (hc : ([.regs, .fabric, .link, .can, .out] : List Part) ⊆ C) {s₀ s :
    State} (h : State.Keeps C s₀ s) (i : Nat) (f : MFrame) : State.Keeps C s₀ (State.goodFrame s i f) := by
  unfold State.goodFrame
  repeat' first
    | with_reducible assumption | with_reducible apply State.creditIn_keeps
    | with_reducible apply State.noRoute_keeps | with_reducible apply State.passBuffer_keeps
    | with_reducible apply State.refuseFrame_keeps | with_reducible apply State.switchIn_keeps
    | exact List.Subset.trans (by decide) hc | with_reducible apply State.Keeps.ite | split | dsimp only

theorem State.badFrame_keeps {C : List Part} (hc : ([.regs, .fabric, .link, .can, .out] : List Part) ⊆ C) {s₀ s :
    State} (h : State.Keeps C s₀ s) (i : Nat) (f : MFrame) (c : Nat) : State.Keeps C s₀ (State.badFrame s i f c) := by
  unfold State.badFrame
  repeat' first
    | with_reducible assumption | with_reducible apply State.count_keeps
    | with_reducible apply State.passBuffer_keeps | with_reducible apply State.switchIn_keeps
    | exact List.Subset.trans (by decide) hc | with_reducible apply State.Keeps.ite | split | dsimp only
    | (apply State.Keeps.pair; (with_reducible assumption))

theorem State.dropFrame_keeps {C : List Part} (hc : ([.regs, .fabric] : List Part) ⊆ C) {s₀ s : State} (h :
    State.Keeps C s₀ s) (i : Nat) (f : MFrame) (fcs : Fcs) : State.Keeps C s₀ (State.dropFrame s i f fcs) := by
  unfold State.dropFrame
  repeat' first
    | with_reducible assumption | with_reducible apply State.count_keeps
    | with_reducible apply State.passBuffer_keeps | with_reducible apply State.refuseFrame_keeps
    | exact List.Subset.trans (by decide) hc | with_reducible apply State.Keeps.ite | split | dsimp only
    | (apply State.Keeps.pair; (with_reducible assumption))

theorem State.frameIn_keeps {C : List Part} (hc : ([.regs, .fabric, .link, .can, .out] : List Part) ⊆ C) {s₀ s :
    State} (h : State.Keeps C s₀ s) (i : Nat) (f : MFrame) (fcs : Fcs) : State.Keeps C s₀ (State.frameIn s i f
    fcs) := by
  unfold State.frameIn
  repeat' first
    | with_reducible assumption | with_reducible apply State.badFrame_keeps
    | with_reducible apply State.dropFrame_keeps | with_reducible apply State.goodFrame_keeps
    | with_reducible apply State.heard_keeps | exact List.Subset.trans (by decide) hc
    | with_reducible apply State.Keeps.ite | split | dsimp only
    | (apply State.Keeps.pair; (with_reducible assumption))

theorem State.localIn_keeps {C : List Part} (hc : ([.regs, .fabric, .link, .can, .out] : List Part) ⊆ C) {s₀ s :
    State} (h : State.Keeps C s₀ s) (f : MFrame) : State.Keeps C s₀ (State.localIn s f) := by
  unfold State.localIn
  repeat' first
    | with_reducible assumption | with_reducible apply State.forward_keeps | exact List.Subset.trans (by decide) hc
    | with_reducible apply State.Keeps.ite | split | dsimp only

theorem State.setMq_keeps {C : List Part} (hc : ([.regs, .clusters, .seq, .fabric] : List Part) ⊆ C) {s₀ s :
    State} (h : State.Keeps C s₀ s) (rx : Bool) (q : Nat) (m : MqRun) : State.Keeps C s₀ (State.setMq s rx q m) := by
  unfold State.setMq
  repeat' first
    | with_reducible assumption | with_reducible apply State.put_keeps | exact List.Subset.trans (by decide) hc
    | (apply State.Keeps.ofFields; dsimp only; refine State.Keeps.setFabric (hc (by decide)) (State.Keeps.toFields ?_))
    | dsimp only

theorem State.mqInstr_keeps {C : List Part} (hc : ([.regs, .clusters, .seq] : List Part) ⊆ C) {s₀ s : State} (h :
    State.Keeps C s₀ s) (th : Th) (rx : Bool) (q : Nat) (regs srcs : List Nat) (waits : Ex → MqRun → Bool) (bad :
    Ex → MqRun → Option TgF) (f : Ex → MqRun → State → State) (hf : ∀ {u : State} (a0 : Ex) (a1 : MqRun) (a2 :
    State), State.Keeps C u a2 → State.Keeps C u (f a0 a1 a2)) : State.Keeps C s₀ (State.mqInstr s th rx q regs
    srcs waits bad f) := by
  unfold State.mqInstr
  repeat' first
    | with_reducible assumption | with_reducible apply hf | with_reducible apply State.advance_keeps
    | with_reducible apply State.fail_keeps | with_reducible apply State.issued_keeps
    | exact List.Subset.trans (by decide) hc | with_reducible apply State.Keeps.ite | split | intro _ | dsimp only
    | (apply State.Keeps.pair; (with_reducible assumption))

theorem State.mqFlush_keeps {C : List Part} (hc : ([.regs, .clusters, .seq, .fabric, .link, .can, .out] : List
    Part) ⊆ C) {s₀ s : State} (h : State.Keeps C s₀ s) (rx : Bool) (q : Nat) : State.Keeps C s₀ (State.mqFlush s
    rx q) := by
  unfold State.mqFlush
  repeat' first
    | with_reducible assumption | with_reducible apply State.count_keeps | with_reducible apply State.event_keeps
    | with_reducible apply State.setMq_keeps | exact List.Subset.trans (by decide) hc
    | with_reducible apply State.Keeps.ite | split | dsimp only

theorem State.mqRelease_keeps {C : List Part} (hc : ([.regs, .clusters, .seq, .fabric] : List Part) ⊆ C) {s₀ s :
    State} (h : State.Keeps C s₀ s) (rx : Bool) (q : Nat) : State.Keeps C s₀ (State.mqRelease s rx q) := by
  unfold State.mqRelease
  repeat' first
    | with_reducible assumption | with_reducible apply State.setMq_keeps | exact List.Subset.trans (by decide) hc
    | with_reducible apply State.Keeps.ite | split | dsimp only
    | (apply State.Keeps.pair; (with_reducible assumption))

theorem State.mqDeliver_keeps {C : List Part} (hc : ([.regs, .clusters, .seq, .fabric] : List Part) ⊆ C) {s₀ s :
    State} (h : State.Keeps C s₀ s) (dq sq snode : Nat) (data : List Byte) (pois : Nat → Bool) : State.Keeps C s₀
    (State.mqDeliver s dq sq snode data pois).1 := by
  unfold State.mqDeliver
  repeat' first
    | with_reducible assumption | with_reducible apply State.count_keeps | with_reducible apply State.setMq_keeps
    | exact List.Subset.trans (by decide) hc | (with_reducible apply State.Keeps.foldl; intros)
    | with_reducible apply State.Keeps.ite | with_reducible apply State.Keeps.iteFst | split | intro _ | dsimp only

theorem State.mqSend_keeps {C : List Part} (hc : ([.regs, .clusters, .seq, .fabric, .link, .can, .out] : List
    Part) ⊆ C) {s₀ s : State} (h : State.Keeps C s₀ s) (q : Nat) : State.Keeps C s₀ (State.mqSend s q) := by
  unfold State.mqSend
  repeat' first
    | with_reducible assumption | with_reducible apply State.count_keeps | with_reducible apply State.event_keeps
    | with_reducible apply State.mqDeliver_keeps | with_reducible apply State.mqFlush_keeps
    | with_reducible apply State.send_keeps | with_reducible apply State.setMq_keeps
    | exact List.Subset.trans (by decide) hc | with_reducible apply State.Keeps.ite | split | intro _ | dsimp only
    | (apply State.Keeps.pair; (with_reducible assumption))

theorem State.setColl_keeps {C : List Part} (hc : ([.fabric] : List Part) ⊆ C) {s₀ s : State} (h : State.Keeps C
    s₀ s) (slot : Nat) (c : Collective) : State.Keeps C s₀ (State.setColl s slot c) := by
  unfold State.setColl
  repeat' first
    | with_reducible assumption
    | (apply State.Keeps.ofFields; dsimp only; refine State.Keeps.setFabric (hc (by decide)) (State.Keeps.toFields ?_))
    | dsimp only

theorem State.updColl_keeps {C : List Part} (hc : ([.fabric] : List Part) ⊆ C) {s₀ s : State} (h : State.Keeps C
    s₀ s) (slot : Nat) (f : Collective → Collective) : State.Keeps C s₀ (State.updColl s slot f) := by
  unfold State.updColl
  repeat' first
    | with_reducible assumption | with_reducible apply State.setColl_keeps | exact List.Subset.trans (by decide) hc
    | split | dsimp only | (apply State.Keeps.pair; (with_reducible assumption))

theorem State.collFail_keeps {C : List Part} (hc : ([.regs, .clusters, .mcasts, .caddy, .reqs, .seq, .fabric,
    .link, .can, .snap, .out] : List Part) ⊆ C) {s₀ s : State} (h : State.Keeps C s₀ s) (slot : Nat) : State.Keeps
    C s₀ (State.collFail s slot) := by
  unfold State.collFail
  repeat' first
    | with_reducible assumption | with_reducible apply State.finish_keeps | exact List.Subset.trans (by decide) hc
    | split | dsimp only | (apply State.Keeps.pair; (with_reducible assumption))

theorem State.markLate_keeps {C : List Part} (hc : ([.regs, .seq, .fabric, .link, .can, .snap, .out] : List Part)
    ⊆ C) {s₀ s : State} (h : State.Keeps C s₀ s) (slot p : Nat) : State.Keeps C s₀ (State.markLate s slot p) := by
  unfold State.markLate
  repeat' first
    | with_reducible assumption | with_reducible apply State.count_keeps | with_reducible apply State.event_keeps
    | with_reducible apply State.setColl_keeps | with_reducible apply State.snapFault_keeps
    | with_reducible apply State.updJob_keeps | exact List.Subset.trans (by decide) hc
    | with_reducible apply State.Keeps.ite | split | intro _ | dsimp only
    | (apply State.Keeps.pair; (with_reducible assumption))

theorem State.sendCtl_keeps {C : List Part} (hc : ([.regs, .fabric, .link, .can, .out] : List Part) ⊆ C) {s₀ s :
    State} (h : State.Keeps C s₀ s) (node tag : Nat) (id : Word32) (p : Nat) : State.Keeps C s₀ (State.sendCtl s
    node tag id p) := by
  unfold State.sendCtl
  repeat' first
    | with_reducible assumption | with_reducible apply State.send_keeps | exact List.Subset.trans (by decide) hc
    | dsimp only

theorem State.fallBack_keeps {C : List Part} (hc : ([.regs, .seq, .fabric, .link, .can, .snap, .out] : List Part)
    ⊆ C) {s₀ s : State} (h : State.Keeps C s₀ s) (slot p : Nat) : State.Keeps C s₀ (State.fallBack s slot p) := by
  unfold State.fallBack
  repeat' first
    | with_reducible assumption | with_reducible apply State.markLate_keeps
    | with_reducible apply State.sendCtl_keeps | with_reducible apply State.setColl_keeps
    | exact List.Subset.trans (by decide) hc | (with_reducible apply State.Keeps.foldl; intros)
    | with_reducible apply State.Keeps.ite | split | intro _ | dsimp only
    | (apply State.Keeps.pair; (with_reducible assumption))

theorem State.rtsIn_keeps {C : List Part} (hc : ([.regs, .seq, .fabric, .link, .can, .snap, .out] : List Part) ⊆
    C) {s₀ s : State} (h : State.Keeps C s₀ s) (node : Nat) (id : Word32) (p : Nat) : State.Keeps C s₀
    (State.rtsIn s node id p).1 := by
  unfold State.rtsIn
  repeat' first
    | with_reducible assumption | with_reducible apply State.markLate_keeps
    | with_reducible apply State.sendCtl_keeps | exact List.Subset.trans (by decide) hc
    | with_reducible apply State.Keeps.ite | with_reducible apply State.Keeps.iteFst | split
    | (apply State.Keeps.ofFields; dsimp only; refine State.Keeps.setFabric (hc (by decide)) (State.Keeps.toFields ?_))
    | dsimp only | (apply State.Keeps.pair; (with_reducible assumption))

theorem State.answerHeld_keeps {C : List Part} (hc : ([.regs, .seq, .fabric, .link, .can, .snap, .out] : List
    Part) ⊆ C) {s₀ s : State} (h : State.Keeps C s₀ s) (slot : Nat) (id : Word32) : State.Keeps C s₀
    (State.answerHeld s slot id) := by
  unfold State.answerHeld
  repeat' first
    | with_reducible assumption | with_reducible apply State.markLate_keeps
    | with_reducible apply State.sendCtl_keeps | exact List.Subset.trans (by decide) hc
    | (with_reducible apply State.Keeps.foldl; intros) | intro _
    | (apply State.Keeps.ofFields; dsimp only; refine State.Keeps.setFabric (hc (by decide)) (State.Keeps.toFields ?_))
    | dsimp only

theorem State.askChunk_keeps {C : List Part} (hc : ([.regs, .reqs, .fabric, .link, .can, .out] : List Part) ⊆ C)
    {s₀ s : State} (h : State.Keeps C s₀ s) (c : Collective) (p k : Nat) : State.Keeps C s₀ (State.askChunk s c p
    k) := by
  unfold State.askChunk
  repeat' first
    | with_reducible assumption | with_reducible apply State.readRange_keeps
    | exact List.Subset.trans (by decide) hc | dsimp only

theorem State.bufWrite_keeps {C : List Part} (hc : ([.regs, .reqs, .fabric, .link, .can, .out] : List Part) ⊆ C)
    {s₀ s : State} (h : State.Keeps C s₀ s) (c : Collective) (p k : Nat) (data : List Byte) (pois : List Bool) :
    State.Keeps C s₀ (State.bufWrite s c p k data pois) := by
  unfold State.bufWrite
  repeat' first
    | with_reducible assumption | with_reducible apply State.writeRange_keeps
    | exact List.Subset.trans (by decide) hc | dsimp only

theorem State.sendChunk_keeps {C : List Part} (hc : ([.regs, .fabric, .link, .can, .out] : List Part) ⊆ C) {s₀ s :
    State} (h : State.Keeps C s₀ s) (slot node k : Nat) : State.Keeps C s₀ (State.sendChunk s slot node k) := by
  unfold State.sendChunk
  repeat' first
    | with_reducible assumption | with_reducible apply State.send_keeps | with_reducible apply State.setColl_keeps
    | exact List.Subset.trans (by decide) hc | with_reducible apply State.Keeps.ite | split | intro _ | dsimp only
    | (apply State.Keeps.pair; (with_reducible assumption))

theorem State.sendFrom_keeps {C : List Part} (hc : ([.regs, .fabric, .link, .can, .out] : List Part) ⊆ C) (slot
    node : Nat) (y0 : List Nat) {s₀ y1 : State} (h : State.Keeps C s₀ y1) : State.Keeps C s₀ (State.sendFrom slot
    node y0 y1) := by
  induction y0 generalizing y1 with
  | nil => exact h
  | cons k ks ih =>
    have hk := State.sendChunk_keeps (List.Subset.trans (by decide) hc) h slot node k
    unfold State.sendFrom
    dsimp only
    split
    · exact ih hk
    · exact hk

theorem State.sendChunks_keeps {C : List Part} (hc : ([.regs, .fabric, .link, .can, .out] : List Part) ⊆ C) {s₀ s
    : State} (h : State.Keeps C s₀ s) (slot : Nat) : State.Keeps C s₀ (State.sendChunks s slot) := by
  unfold State.sendChunks
  repeat' first
    | with_reducible assumption | with_reducible apply State.sendFrom_keeps | exact List.Subset.trans (by decide) hc
    | (with_reducible apply State.Keeps.foldl; intros) | split | intro _ | dsimp only
    | (apply State.Keeps.pair; (with_reducible assumption))

theorem State.applyChunk_keeps {C : List Part} (hc : ([.regs, .reqs, .seq, .fabric, .link, .can, .out] : List
    Part) ⊆ C) {s₀ s : State} (h : State.Keeps C s₀ s) (slot : Nat) (x : Chunk) : State.Keeps C s₀
    (State.applyChunk s slot x) := by
  unfold State.applyChunk
  repeat' first
    | with_reducible assumption | with_reducible apply State.bufWrite_keeps
    | with_reducible apply State.raiseExc_keeps | with_reducible apply State.updColl_keeps
    | exact List.Subset.trans (by decide) hc | with_reducible apply State.Keeps.ite | split | intro _ | dsimp only
    | (apply State.Keeps.pair; (with_reducible assumption))

theorem State.applyLanded_keeps {C : List Part} (hc : ([.regs, .reqs, .seq, .fabric, .link, .can, .out] : List
    Part) ⊆ C) {s₀ s : State} (h : State.Keeps C s₀ s) (slot : Nat) : State.Keeps C s₀ (State.applyLanded s slot) := by
  unfold State.applyLanded
  repeat' first
    | with_reducible assumption | with_reducible apply State.applyChunk_keeps
    | exact List.Subset.trans (by decide) hc | (with_reducible apply State.Keeps.foldl; intros)
    | with_reducible apply State.Keeps.ite | split | intro _ | dsimp only
    | (apply State.Keeps.pair; (with_reducible assumption))

theorem State.enterPhase_keeps {C : List Part} (hc : ([.regs, .clusters, .mcasts, .caddy, .reqs, .seq, .fabric,
    .link, .can, .snap, .out] : List Part) ⊆ C) {s₀ s : State} (h : State.Keeps C s₀ s) (slot : Nat) : State.Keeps
    C s₀ (State.enterPhase s slot) := by
  unfold State.enterPhase
  repeat' first
    | with_reducible assumption | with_reducible apply State.askChunk_keeps
    | with_reducible apply State.collFail_keeps | with_reducible apply State.fallBack_keeps
    | exact List.Subset.trans (by decide) hc | (with_reducible apply State.Keeps.foldl; intros)
    | with_reducible apply State.Keeps.ite | split | intro _ | dsimp only
    | (apply State.Keeps.pair; (with_reducible assumption))

theorem State.takeChunk_keeps {C : List Part} (hc : ([.regs, .clusters, .mcasts, .caddy, .reqs, .seq, .fabric,
    .link, .can, .snap, .out] : List Part) ⊆ C) {s₀ s : State} (h : State.Keeps C s₀ s) (slot p k : Nat) :
    State.Keeps C s₀ (State.takeChunk s slot p k) := by
  unfold State.takeChunk
  repeat' first
    | with_reducible assumption | with_reducible apply State.collFail_keeps
    | with_reducible apply State.dropReqs_keeps | with_reducible apply State.updColl_keeps
    | exact List.Subset.trans (by decide) hc | with_reducible apply State.Keeps.ite | split | intro _ | dsimp only
    | (apply State.Keeps.pair; (with_reducible assumption))

theorem State.collBufs_keeps {C : List Part} (hc : ([.regs, .clusters, .mcasts, .caddy, .reqs, .seq, .fabric,
    .link, .can, .snap, .out] : List Part) ⊆ C) {s₀ s : State} (h : State.Keeps C s₀ s) (slot : Nat) : State.Keeps
    C s₀ (State.collBufs s slot) := by
  unfold State.collBufs
  repeat' first
    | with_reducible assumption | with_reducible apply State.takeChunk_keeps
    | exact List.Subset.trans (by decide) hc | (with_reducible apply State.Keeps.foldl; intros) | split | intro _
    | dsimp only | (apply State.Keeps.pair; (with_reducible assumption))

theorem State.collStep_keeps {C : List Part} (hc : ([.regs, .clusters, .mcasts, .caddy, .reqs, .seq, .fabric,
    .link, .can, .snap, .out] : List Part) ⊆ C) (y0 : Nat) (y1 : Nat) {s₀ y2 : State} (h : State.Keeps C s₀ y2) :
    State.Keeps C s₀ (State.collStep y0 y1 y2) := by
  induction y0 generalizing y2 with
  | zero => exact h
  | succ n ih =>
    have h3 := State.sendChunks_keeps (List.Subset.trans (by decide) hc) (State.applyLanded_keeps (List.Subset.trans (by decide) hc) (State.collBufs_keeps (List.Subset.trans (by decide) hc) h y1) y1) y1
    unfold State.collStep
    dsimp only
    split
    · exact h3
    · split
      · split
        · exact ih (State.enterPhase_keeps (List.Subset.trans (by decide) hc) (State.count_keeps (List.Subset.trans (by decide) hc) (State.setColl_keeps (List.Subset.trans (by decide) hc) h3 _ _) _ _ _) _)
        · exact State.finish_keeps (List.Subset.trans (by decide) hc) (State.count_keeps (List.Subset.trans (by decide) hc) (State.setColl_keeps (List.Subset.trans (by decide) hc) h3 _ _) _ _ _) _ _ _
      · exact h3

theorem State.collRun_keeps {C : List Part} (hc : ([.regs, .clusters, .mcasts, .caddy, .reqs, .seq, .fabric,
    .link, .can, .snap, .out] : List Part) ⊆ C) {s₀ s : State} (h : State.Keeps C s₀ s) (slot : Nat) : State.Keeps
    C s₀ (State.collRun s slot) := by
  unfold State.collRun
  repeat' first
    | with_reducible assumption | with_reducible apply State.collStep_keeps | exact List.Subset.trans (by decide) hc
    | split | intro _ | dsimp only | (apply State.Keeps.pair; (with_reducible assumption))

theorem State.askPlan_keeps {C : List Part} (hc : ([.regs, .reqs, .fabric, .link, .can, .out] : List Part) ⊆ C)
    {s₀ s : State} (h : State.Keeps C s₀ s) (j : Job) (off n : Nat) : State.Keeps C s₀ (State.askPlan s j off n) := by
  unfold State.askPlan
  repeat' first
    | with_reducible assumption | with_reducible apply State.readRange_keeps
    | exact List.Subset.trans (by decide) hc | intro _ | dsimp only

theorem State.startColl_keeps {C : List Part} (hc : ([.regs, .clusters, .mcasts, .caddy, .reqs, .seq, .fabric,
    .link, .can, .power, .snap, .out] : List Part) ⊆ C) {s₀ s : State} (h : State.Keeps C s₀ s) (j : Job) (ws :
    List Word64) (slot : Nat) : State.Keeps C s₀ (State.startColl s j ws slot) := by
  unfold State.startColl
  repeat' first
    | with_reducible assumption | with_reducible apply State.answerHeld_keeps
    | with_reducible apply State.collRun_keeps | with_reducible apply State.enterPhase_keeps
    | with_reducible apply State.setColl_keeps | with_reducible apply State.startJob_keeps
    | exact List.Subset.trans (by decide) hc | dsimp only

theorem State.planReady_keeps {C : List Part} (hc : ([.regs, .clusters, .mcasts, .caddy, .reqs, .seq, .fabric,
    .link, .can, .power, .snap, .out] : List Part) ⊆ C) {s₀ s : State} (h : State.Keeps C s₀ s) (j : Job) (ws :
    List Word64) (want : Nat) : State.Keeps C s₀ (State.planReady s j ws want) := by
  unfold State.planReady
  repeat' first
    | with_reducible assumption | with_reducible apply State.dropReqs_keeps
    | with_reducible apply State.finish_keeps | with_reducible apply State.startColl_keeps
    | with_reducible apply State.startJob_keeps | exact List.Subset.trans (by decide) hc
    | with_reducible apply State.Keeps.ite | split | intro _ | dsimp only
    | (apply State.Keeps.pair; (with_reducible assumption))

theorem State.collStart_keeps {C : List Part} (hc : ([.regs, .clusters, .mcasts, .caddy, .reqs, .seq, .fabric,
    .link, .can, .power, .snap, .out] : List Part) ⊆ C) {s₀ s : State} (h : State.Keeps C s₀ s) (id want : Nat) :
    State.Keeps C s₀ (State.collStart s id want) := by
  unfold State.collStart
  repeat' first
    | with_reducible assumption | with_reducible apply State.askPlan_keeps | with_reducible apply State.finish_keeps
    | with_reducible apply State.planReady_keeps | with_reducible apply State.startJob_keeps
    | exact List.Subset.trans (by decide) hc | with_reducible apply State.Keeps.ite | split | dsimp only
    | (apply State.Keeps.pair; (with_reducible assumption))

theorem State.phaseTime_keeps {C : List Part} (hc : ([.regs, .seq, .fabric, .link, .can, .snap, .out] : List Part)
    ⊆ C) {s₀ s : State} (h : State.Keeps C s₀ s) (slot p : Nat) : State.Keeps C s₀ (State.phaseTime s slot p) := by
  unfold State.phaseTime
  repeat' first
    | with_reducible assumption | with_reducible apply State.fallBack_keeps
    | with_reducible apply State.setColl_keeps | exact List.Subset.trans (by decide) hc
    | with_reducible apply State.Keeps.ite | split | dsimp only
    | (apply State.Keeps.pair; (with_reducible assumption))

theorem State.collTime_keeps {C : List Part} (hc : ([.regs, .clusters, .mcasts, .caddy, .reqs, .seq, .fabric,
    .link, .can, .snap, .out] : List Part) ⊆ C) {s₀ s : State} (h : State.Keeps C s₀ s) (slot : Nat) : State.Keeps
    C s₀ (State.collTime s slot) := by
  unfold State.collTime
  repeat' first
    | with_reducible assumption | with_reducible apply State.collRun_keeps
    | with_reducible apply State.phaseTime_keeps | exact List.Subset.trans (by decide) hc
    | (with_reducible apply State.Keeps.foldl; intros) | split | intro _ | dsimp only
    | (apply State.Keeps.pair; (with_reducible assumption))

theorem State.combine_keeps {C : List Part} (hc : ([.regs, .clusters, .mcasts, .caddy, .reqs, .seq, .fabric,
    .link, .can, .snap, .out] : List Part) ⊆ C) {s₀ s : State} (h : State.Keeps C s₀ s) (slot k : Nat) :
    State.Keeps C s₀ (State.combine s slot k) := by
  unfold State.combine
  repeat' first
    | with_reducible assumption | with_reducible apply State.bufWrite_keeps
    | with_reducible apply State.collRun_keeps | with_reducible apply State.raiseExc_keeps
    | with_reducible apply State.updColl_keeps | exact List.Subset.trans (by decide) hc
    | with_reducible apply State.Keeps.ite | split | intro _ | dsimp only
    | (apply State.Keeps.pair; (with_reducible assumption))

theorem State.collIn_keeps {C : List Part} (hc : ([.regs, .clusters, .mcasts, .caddy, .reqs, .seq, .fabric, .link,
    .can, .snap, .out] : List Part) ⊆ C) {s₀ s : State} (h : State.Keeps C s₀ s) (node : Nat) (a : Word64) (data :
    List Byte) (pois : List Bool) : State.Keeps C s₀ (State.collIn s node a data pois).1 := by
  unfold State.collIn
  repeat' first
    | with_reducible assumption | with_reducible apply State.collRun_keeps
    | with_reducible apply State.setColl_keeps | exact List.Subset.trans (by decide) hc
    | with_reducible apply State.Keeps.ite | with_reducible apply State.Keeps.iteFst | split | dsimp only
    | (apply State.Keeps.pair; (with_reducible assumption))

theorem State.ctsIn_keeps {C : List Part} (hc : ([.regs, .clusters, .mcasts, .caddy, .reqs, .seq, .fabric, .link,
    .can, .snap, .out] : List Part) ⊆ C) {s₀ s : State} (h : State.Keeps C s₀ s) (node : Nat) (id : Word32) (p :
    Nat) : State.Keeps C s₀ (State.ctsIn s node id p) := by
  unfold State.ctsIn
  repeat' first
    | with_reducible assumption | with_reducible apply State.collRun_keeps
    | with_reducible apply State.updColl_keeps | exact List.Subset.trans (by decide) hc | split | intro _
    | dsimp only | (apply State.Keeps.pair; (with_reducible assumption))

theorem State.collAcked_keeps {C : List Part} (hc : ([.regs, .clusters, .mcasts, .caddy, .reqs, .seq, .fabric,
    .link, .can, .snap, .out] : List Part) ⊆ C) {s₀ s : State} (h : State.Keeps C s₀ s) (node : Nat) (a : Word64)
    : State.Keeps C s₀ (State.collAcked s node a) := by
  unfold State.collAcked
  repeat' first
    | with_reducible assumption | with_reducible apply State.collRun_keeps
    | with_reducible apply State.updColl_keeps | exact List.Subset.trans (by decide) hc
    | with_reducible apply State.Keeps.ite | split | intro _ | dsimp only
    | (apply State.Keeps.pair; (with_reducible assumption))

theorem State.collNotStarted_keeps {C : List Part} (hc : ([.regs, .clusters, .mcasts, .caddy, .reqs, .seq,
    .fabric, .link, .can, .snap, .out] : List Part) ⊆ C) {s₀ s : State} (h : State.Keeps C s₀ s) (node : Nat) (a :
    Word64) : State.Keeps C s₀ (State.collNotStarted s node a) := by
  unfold State.collNotStarted
  repeat' first
    | with_reducible assumption | with_reducible apply State.collRun_keeps
    | with_reducible apply State.fallBack_keeps | with_reducible apply State.updColl_keeps
    | exact List.Subset.trans (by decide) hc | split | intro _ | dsimp only
    | (apply State.Keeps.pair; (with_reducible assumption))

theorem State.collsFail_keeps {C : List Part} (hc : ([.regs, .clusters, .mcasts, .caddy, .reqs, .seq, .fabric,
    .link, .can, .snap, .out] : List Part) ⊆ C) {s₀ s : State} (h : State.Keeps C s₀ s) (node : Nat) : State.Keeps
    C s₀ (State.collsFail s node) := by
  unfold State.collsFail
  repeat' first
    | with_reducible assumption | with_reducible apply State.collFail_keeps | exact List.Subset.trans (by decide) hc
    | (with_reducible apply State.Keeps.foldl; intros) | intro _ | dsimp only

theorem State.refuseReq_keeps {C : List Part} (hc : ([.reqs] : List Part) ⊆ C) {s₀ s : State} (h : State.Keeps C
    s₀ s) (id : Nat) : State.Keeps C s₀ (State.refuseReq s id) := by
  unfold State.refuseReq
  repeat' first
    | with_reducible assumption | with_reducible apply State.updReq_keeps | exact List.Subset.trans (by decide) hc
    | intro _ | dsimp only

theorem State.refuseNode_keeps {C : List Part} (hc : ([.regs, .clusters, .mcasts, .caddy, .reqs, .seq, .fabric,
    .link, .can, .snap, .out] : List Part) ⊆ C) {s₀ s : State} (h : State.Keeps C s₀ s) (node : Nat) : State.Keeps
    C s₀ (State.refuseNode s node) := by
  unfold State.refuseNode
  repeat' first
    | with_reducible assumption | with_reducible apply State.refuseReq_keeps
    | with_reducible apply State.settle_keeps | exact List.Subset.trans (by decide) hc
    | (with_reducible apply State.Keeps.foldl; intros) | intro _ | dsimp only

theorem State.answer_keeps {C : List Part} (hc : ([.reqs] : List Part) ⊆ C) {s₀ s : State} (h : State.Keeps C s₀
    s) (r : Req) (data : List Byte) (pois : List Bool) : State.Keeps C s₀ (State.answer s r data pois) := by
  unfold State.answer
  repeat' first
    | with_reducible assumption | with_reducible apply State.updReq_keeps | exact List.Subset.trans (by decide) hc
    | with_reducible apply State.Keeps.ite | split | intro _ | dsimp only

theorem State.ackTimer_keeps {C : List Part} (hc : ([.regs, .fabric, .link, .can, .out] : List Part) ⊆ C) {s₀ s :
    State} (h : State.Keeps C s₀ s) (node cls : Nat) : State.Keeps C s₀ (State.ackTimer s node cls) := by
  unfold State.ackTimer
  repeat' first
    | with_reducible assumption | with_reducible apply State.sendAck_keeps | exact List.Subset.trans (by decide) hc
    | with_reducible apply State.Keeps.ite | split | dsimp only

theorem State.resetConn_keeps {C : List Part} (hc : ([.fabric] : List Part) ⊆ C) {s₀ s : State} (h : State.Keeps C
    s₀ s) (node cls : Nat) : State.Keeps C s₀ (State.resetConn s node cls) := by
  unfold State.resetConn
  repeat' first
    | with_reducible assumption | with_reducible apply State.setConn_keeps | exact List.Subset.trans (by decide) hc
    | dsimp only

theorem State.bootCheck_keeps {C : List Part} (hc : ([.regs, .clusters, .mcasts, .caddy, .reqs, .seq, .fabric,
    .link, .can, .snap, .out] : List Part) ⊆ C) {s₀ s : State} (h : State.Keeps C s₀ s) (f : MFrame) : State.Keeps
    C s₀ (State.bootCheck s f) := by
  unfold State.bootCheck
  repeat' first
    | with_reducible assumption | with_reducible apply State.collsFail_keeps
    | with_reducible apply State.event_keeps | with_reducible apply State.pumpAll_keeps
    | with_reducible apply State.put_keeps | with_reducible apply State.refuseNode_keeps
    | with_reducible apply State.resetConn_keeps | exact List.Subset.trans (by decide) hc
    | with_reducible apply State.Keeps.ite | split
    | (apply State.Keeps.ofFields; dsimp only; refine State.Keeps.setFabric (hc (by decide)) (State.Keeps.toFields ?_))
    | dsimp only

theorem State.holdPacket_keeps {C : List Part} (hc : ([.regs, .fabric, .link, .can, .out] : List Part) ⊆ C) {s₀ s
    : State} (h : State.Keeps C s₀ s) (n k : Nat) (f : MFrame) : State.Keeps C s₀ (State.holdPacket s n k f) := by
  unfold State.holdPacket
  repeat' first
    | with_reducible assumption | with_reducible apply State.count_keeps | with_reducible apply State.sendAck_keeps
    | with_reducible apply State.setConn_keeps | exact List.Subset.trans (by decide) hc
    | with_reducible apply State.Keeps.ite | split | intro _ | dsimp only

theorem State.sequenced_keeps {C : List Part} (hc : ([.regs, .reqs, .fabric, .link, .can, .out] : List Part) ⊆ C)
    {s₀ s : State} (h : State.Keeps C s₀ s) (f : MFrame) (run : MFrame → State → State × RunEnd) (hrun : ∀ {u :
    State} (a0 : MFrame) (a1 : State), State.Keeps C u a1 → State.Keeps C u (run a0 a1).1) : State.Keeps C s₀
    (State.sequenced s f run) := by
  unfold State.sequenced
  repeat' first
    | with_reducible assumption | with_reducible apply hrun | with_reducible apply State.executed_keeps
    | with_reducible apply State.holdPacket_keeps | with_reducible apply State.packetDone_keeps
    | with_reducible apply State.sendAck_keeps | with_reducible apply State.setConn_keeps
    | exact List.Subset.trans (by decide) hc | with_reducible apply State.Keeps.ite | split | intro _ | dsimp only
    | (apply State.Keeps.pair; (with_reducible assumption))

theorem State.localHead_keeps {C : List Part} (hc : ([.fabric] : List Part) ⊆ C) {s₀ s t : State} (h : State.Keeps C s₀ s) {op : Nat} {f : MFrame}
    (e : s.localHead op = some (f, t)) : State.Keeps C s₀ t := by
  unfold State.localHead at e
  split at e
  · cases e
  · split at e
    · cases e; exact State.Keeps.ofFields (State.Keeps.setFabric (hc (by decide)) h.toFields)
    · cases e

theorem State.receive_keeps {C : List Part} (hc : ([.regs, .clusters, .mcasts, .caddy, .reqs, .seq, .fabric,
    .link, .can, .snap, .out] : List Part) ⊆ C) {s₀ s : State} (h : State.Keeps C s₀ s) (op : Nat) (run : MFrame →
    State → State × RunEnd) (hrun : ∀ {u : State} (a0 : MFrame) (a1 : State), State.Keeps C u a1 → State.Keeps C u
    (run a0 a1).1) : State.Keeps C s₀ (State.receive s op run) := by
  unfold State.receive
  repeat' first
    | with_reducible assumption | with_reducible apply hrun | with_reducible apply State.bootCheck_keeps
    | with_reducible apply State.sequenced_keeps
    | (refine State.localHead_keeps (List.Subset.trans (by decide) hc) ?_ (by with_reducible assumption))
    | exact List.Subset.trans (by decide) hc | split | intro _ | dsimp only
    | (apply State.Keeps.pair; (with_reducible assumption))

theorem State.runPacket_keeps {C : List Part} (hc : ([.fabric] : List Part) ⊆ C) {s₀ s : State} (h : State.Keeps C
    s₀ s) (f : MFrame) (go : (Nat → Purpose) → Move → State → State) (hgo : ∀ {u : State} (a0 : (Nat → Purpose))
    (a1 : Move) (a2 : State), State.Keeps C u a2 → State.Keeps C u (go a0 a1 a2)) : State.Keeps C s₀
    (State.runPacket s f go) := by
  unfold State.runPacket
  repeat' first
    | with_reducible assumption | with_reducible apply hgo | with_reducible apply State.setConn_keeps
    | exact List.Subset.trans (by decide) hc | intro _ | dsimp only

theorem runWrite_keeps {C : List Part} (hc : ([.regs, .reqs, .fabric, .link, .can, .out] : List Part) ⊆ C) (f :
    MFrame) {s₀ s : State} (h : State.Keeps C s₀ s) : State.Keeps C s₀ (runWrite f s).1 := by
  unfold runWrite
  repeat' first
    | with_reducible assumption | with_reducible apply State.runPacket_keeps
    | with_reducible apply State.writeRange_keeps | exact List.Subset.trans (by decide) hc
    | with_reducible apply State.Keeps.ite | with_reducible apply State.Keeps.iteFst | split | intro _ | dsimp only

theorem runRead_keeps {C : List Part} (hc : ([.regs, .reqs, .fabric, .link, .can, .out] : List Part) ⊆ C) (f :
    MFrame) {s₀ s : State} (h : State.Keeps C s₀ s) : State.Keeps C s₀ (runRead f s).1 := by
  unfold runRead
  repeat' first
    | with_reducible assumption | with_reducible apply State.readRange_keeps
    | with_reducible apply State.respond_keeps | with_reducible apply State.runPacket_keeps
    | exact List.Subset.trans (by decide) hc | with_reducible apply State.Keeps.ite
    | with_reducible apply State.Keeps.iteFst | split | intro _ | dsimp only

theorem runAtomic_keeps {C : List Part} (hc : ([.regs, .reqs, .fabric, .link, .can, .out] : List Part) ⊆ C) (f :
    MFrame) {s₀ s : State} (h : State.Keeps C s₀ s) : State.Keeps C s₀ (runAtomic f s).1 := by
  unfold runAtomic
  repeat' first
    | with_reducible assumption | with_reducible apply State.request_keeps
    | with_reducible apply State.respond_keeps | with_reducible apply State.runPacket_keeps
    | exact List.Subset.trans (by decide) hc | with_reducible apply State.Keeps.ite
    | with_reducible apply State.Keeps.iteFst | split | intro _ | dsimp only
    | (apply State.Keeps.pair; (with_reducible assumption))

theorem runReadResp_keeps {C : List Part} (hc : ([.regs, .clusters, .mcasts, .caddy, .reqs, .seq, .fabric, .link,
    .can, .snap, .out] : List Part) ⊆ C) (f : MFrame) {s₀ s : State} (h : State.Keeps C s₀ s) : State.Keeps C s₀
    (runReadResp f s).1 := by
  unfold runReadResp
  repeat' first
    | with_reducible assumption | with_reducible apply State.answer_keeps
    | with_reducible apply State.refuseReq_keeps | with_reducible apply State.settle_keeps
    | exact List.Subset.trans (by decide) hc | with_reducible apply State.Keeps.ite
    | with_reducible apply State.Keeps.iteFst | split | intro _ | dsimp only
    | (apply State.Keeps.pair; (with_reducible assumption))

theorem runAtomicResp_keeps {C : List Part} (hc : ([.regs, .clusters, .mcasts, .caddy, .reqs, .seq, .fabric,
    .link, .can, .snap, .out] : List Part) ⊆ C) (f : MFrame) {s₀ s : State} (h : State.Keeps C s₀ s) : State.Keeps
    C s₀ (runAtomicResp f s).1 := by
  unfold runAtomicResp
  repeat' first
    | with_reducible assumption | with_reducible apply State.answer_keeps
    | with_reducible apply State.refuseReq_keeps | with_reducible apply State.settle_keeps
    | exact List.Subset.trans (by decide) hc | with_reducible apply State.Keeps.ite
    | with_reducible apply State.Keeps.iteFst | split | dsimp only
    | (apply State.Keeps.pair; (with_reducible assumption))

theorem runMsg_keeps {C : List Part} (hc : ([.regs, .clusters, .seq, .fabric] : List Part) ⊆ C) (f : MFrame) {s₀ s
    : State} (h : State.Keeps C s₀ s) : State.Keeps C s₀ (runMsg f s).1 := by
  unfold runMsg
  repeat' first
    | with_reducible assumption | with_reducible apply State.mqDeliver_keeps
    | exact List.Subset.trans (by decide) hc | split | dsimp only
    | (apply State.Keeps.pair; (with_reducible assumption))

theorem runColl_keeps {C : List Part} (hc : ([.regs, .clusters, .mcasts, .caddy, .reqs, .seq, .fabric, .link,
    .can, .snap, .out] : List Part) ⊆ C) (f : MFrame) {s₀ s : State} (h : State.Keeps C s₀ s) : State.Keeps C s₀
    (runColl f s).1 := by
  unfold runColl
  repeat' first
    | with_reducible assumption | with_reducible apply State.collIn_keeps | exact List.Subset.trans (by decide) hc
    | split | dsimp only | (apply State.Keeps.pair; (with_reducible assumption))

theorem runRts_keeps {C : List Part} (hc : ([.regs, .seq, .fabric, .link, .can, .snap, .out] : List Part) ⊆ C) (f
    : MFrame) {s₀ s : State} (h : State.Keeps C s₀ s) : State.Keeps C s₀ (runRts f s).1 := by
  unfold runRts
  repeat' first
    | with_reducible assumption | with_reducible apply State.rtsIn_keeps | exact List.Subset.trans (by decide) hc
    | split | dsimp only | (apply State.Keeps.pair; (with_reducible assumption))

theorem runCts_keeps {C : List Part} (hc : ([.regs, .clusters, .mcasts, .caddy, .reqs, .seq, .fabric, .link, .can,
    .snap, .out] : List Part) ⊆ C) (f : MFrame) {s₀ s : State} (h : State.Keeps C s₀ s) : State.Keeps C s₀ (runCts
    f s).1 := by
  unfold runCts
  repeat' first
    | with_reducible assumption | with_reducible apply State.ctsIn_keeps | exact List.Subset.trans (by decide) hc
    | with_reducible apply State.Keeps.ite | with_reducible apply State.Keeps.iteFst | split | dsimp only

theorem State.resend_keeps {C : List Part} (hc : ([.regs, .fabric, .link, .can, .out] : List Part) ⊆ C) {s₀ s :
    State} (h : State.Keeps C s₀ s) (f : MFrame) : State.Keeps C s₀ (State.resend s f) := by
  unfold State.resend
  repeat' first
    | with_reducible assumption | with_reducible apply State.count_keeps | with_reducible apply State.forward_keeps
    | exact List.Subset.trans (by decide) hc | with_reducible apply State.Keeps.ite | split | dsimp only

theorem State.acknowledged_keeps {C : List Part} (hc : ([.regs, .clusters, .mcasts, .caddy, .reqs, .seq, .fabric,
    .link, .can, .snap, .out] : List Part) ⊆ C) {s₀ s : State} (h : State.Keeps C s₀ s) (node : Nat) (u : Unacked)
    (status : Nat) : State.Keeps C s₀ (State.acknowledged s node u status) := by
  unfold State.acknowledged
  repeat' first
    | with_reducible assumption | with_reducible apply State.collAcked_keeps
    | with_reducible apply State.collFail_keeps | with_reducible apply State.collNotStarted_keeps
    | with_reducible apply State.settle_keeps | with_reducible apply State.updReq_keeps
    | exact List.Subset.trans (by decide) hc | with_reducible apply State.Keeps.ite | split | intro _ | dsimp only
    | (apply State.Keeps.pair; (with_reducible assumption))

theorem State.cutRate_keeps {C : List Part} (hc : ([.fabric] : List Part) ⊆ C) {s₀ s : State} (h : State.Keeps C
    s₀ s) (node cls : Nat) : State.Keeps C s₀ (State.cutRate s node cls) := by
  unfold State.cutRate
  repeat' first
    | with_reducible assumption | with_reducible apply State.setConn_keeps | exact List.Subset.trans (by decide) hc
    | with_reducible apply State.Keeps.ite | split | dsimp only
    | (apply State.Keeps.pair; (with_reducible assumption))

theorem State.fastResend_keeps {C : List Part} (hc : ([.regs, .fabric, .link, .can, .out] : List Part) ⊆ C) {s₀ s
    : State} (h : State.Keeps C s₀ s) (node cls : Nat) : State.Keeps C s₀ (State.fastResend s node cls) := by
  unfold State.fastResend
  repeat' first
    | with_reducible assumption | with_reducible apply State.count_keeps | with_reducible apply State.resend_keeps
    | with_reducible apply State.setConn_keeps | exact List.Subset.trans (by decide) hc
    | (with_reducible apply State.Keeps.foldl; intros) | with_reducible apply State.Keeps.ite | split | intro _
    | dsimp only

theorem State.ackIn_keeps {C : List Part} (hc : ([.regs, .clusters, .mcasts, .caddy, .reqs, .seq, .fabric, .link,
    .can, .snap, .out] : List Part) ⊆ C) {s₀ s : State} (h : State.Keeps C s₀ s) (f : MFrame) : State.Keeps C s₀
    (State.ackIn s f) := by
  unfold State.ackIn
  repeat' first
    | with_reducible assumption | with_reducible apply State.acknowledged_keeps
    | with_reducible apply State.count_keeps | with_reducible apply State.cutRate_keeps
    | with_reducible apply State.fastResend_keeps | with_reducible apply State.pumpAll_keeps
    | with_reducible apply State.setConn_keeps | exact List.Subset.trans (by decide) hc
    | (with_reducible apply State.Keeps.foldl; intros) | with_reducible apply State.Keeps.ite | split | intro _
    | dsimp only

theorem State.connFail_keeps {C : List Part} (hc : ([.regs, .clusters, .mcasts, .caddy, .reqs, .seq, .fabric,
    .link, .can, .snap, .out] : List Part) ⊆ C) {s₀ s : State} (h : State.Keeps C s₀ s) (node cls : Nat) :
    State.Keeps C s₀ (State.connFail s node cls) := by
  unfold State.connFail
  repeat' first
    | with_reducible assumption | with_reducible apply State.collsFail_keeps
    | with_reducible apply State.count_keeps | with_reducible apply State.event_keeps
    | with_reducible apply State.pumpAll_keeps | with_reducible apply State.refuseNode_keeps
    | with_reducible apply State.setConn_keeps | exact List.Subset.trans (by decide) hc
    | with_reducible apply State.Keeps.ite | split | intro _ | dsimp only

theorem State.ackFirst_keeps {C : List Part} (hc : ([.regs, .clusters, .mcasts, .caddy, .reqs, .seq, .fabric,
    .link, .can, .snap, .out] : List Part) ⊆ C) {s₀ s : State} (h : State.Keeps C s₀ s) (node cls : Nat) :
    State.Keeps C s₀ (State.ackFirst s node cls) := by
  unfold State.ackFirst
  repeat' first
    | with_reducible assumption | with_reducible apply State.ackIn_keeps
    | with_reducible apply State.bootCheck_keeps | exact List.Subset.trans (by decide) hc | split | intro _
    | (apply State.Keeps.ofFields; dsimp only; refine State.Keeps.setFabric (hc (by decide)) (State.Keeps.toFields ?_))
    | dsimp only | (apply State.Keeps.pair; (with_reducible assumption))

theorem State.expire_keeps {C : List Part} (hc : ([.regs, .clusters, .mcasts, .caddy, .reqs, .seq, .fabric, .link,
    .can, .snap, .out] : List Part) ⊆ C) {s₀ s : State} (h : State.Keeps C s₀ s) (node cls : Nat) : State.Keeps C
    s₀ (State.expire s node cls) := by
  unfold State.expire
  repeat' first
    | with_reducible assumption | with_reducible apply State.ackFirst_keeps
    | with_reducible apply State.connFail_keeps | with_reducible apply State.count_keeps
    | with_reducible apply State.resend_keeps | with_reducible apply State.setConn_keeps
    | exact List.Subset.trans (by decide) hc | (with_reducible apply State.Keeps.foldl; intros)
    | with_reducible apply State.Keeps.ite | split | intro _ | dsimp only
    | (apply State.Keeps.pair; (with_reducible assumption))

theorem State.raiseRate_keeps {C : List Part} (hc : ([.fabric] : List Part) ⊆ C) {s₀ s : State} (h : State.Keeps C
    s₀ s) (node cls : Nat) : State.Keeps C s₀ (State.raiseRate s node cls) := by
  unfold State.raiseRate
  repeat' first
    | with_reducible assumption | with_reducible apply State.setConn_keeps | exact List.Subset.trans (by decide) hc
    | with_reducible apply State.Keeps.ite | split | dsimp only

end Sys2Proof.Machine
end

