-- ==== Sys2Proof/Laws/KeepsService.lean ====
section
/-! SUPPORT. What the operations of power, heat, the flash, the CAN port and bring-up keep. -/

namespace Sys2Proof.Machine

theorem State.retarget_keeps {C : List Part} (hc : ([.regs, .power] : List Part) ⊆ C) {s₀ s : State} (h :
    State.Keeps C s₀ s) (n : Nat) : State.Keeps C s₀ (State.retarget s n) := by
  unfold State.retarget
  repeat' first
    | with_reducible assumption | with_reducible apply State.setFld_keeps | exact List.Subset.trans (by decide) hc
    | (apply State.Keeps.ofFields; dsimp only; refine State.Keeps.setPower (hc (by decide)) (State.Keeps.toFields ?_))
    | dsimp only

theorem State.setStep_keeps {C : List Part} (hc : ([.regs] : List Part) ⊆ C) {s₀ s : State} (h : State.Keeps C s₀
    s) (n : Nat) : State.Keeps C s₀ (State.setStep s n) := by
  unfold State.setStep
  repeat' first
    | with_reducible assumption | with_reducible apply State.setFld_keeps | exact List.Subset.trans (by decide) hc
    | dsimp only

theorem State.setClk_keeps {C : List Part} (hc : ([.power] : List Part) ⊆ C) {s₀ s : State} (h : State.Keeps C s₀
    s) (n : Nat) (climb : Bool) : State.Keeps C s₀ (State.setClk s n climb) := by
  unfold State.setClk
  repeat' first
    | with_reducible assumption
    | (apply State.Keeps.ofFields; dsimp only; refine State.Keeps.setPower (hc (by decide)) (State.Keeps.toFields ?_))
    | dsimp only

theorem State.enterStep_keeps {C : List Part} (hc : ([.regs, .power] : List Part) ⊆ C) {s₀ s : State} (h :
    State.Keeps C s₀ s) (n : Nat) : State.Keeps C s₀ (State.enterStep s n) := by
  unfold State.enterStep
  repeat' first
    | with_reducible assumption | with_reducible apply State.retarget_keeps
    | with_reducible apply State.setClk_keeps | with_reducible apply State.setStep_keeps
    | exact List.Subset.trans (by decide) hc | with_reducible apply State.Keeps.ite | split | dsimp only

theorem State.rampDone_keeps {C : List Part} (hc : ([.power] : List Part) ⊆ C) {s₀ s : State} (h : State.Keeps C
    s₀ s) : State.Keeps C s₀ (State.rampDone s) := by
  unfold State.rampDone
  repeat' first
    | with_reducible assumption | with_reducible apply State.setClk_keeps | exact List.Subset.trans (by decide) hc
    | with_reducible apply State.Keeps.ite | split | dsimp only

theorem State.chooseStep_keeps {C : List Part} (hc : ([.regs] : List Part) ⊆ C) {s₀ s : State} (h : State.Keeps C
    s₀ s) : State.Keeps C s₀ (State.chooseStep s).1 := by
  unfold State.chooseStep
  repeat' first
    | with_reducible assumption | with_reducible apply State.setBit_keeps | exact List.Subset.trans (by decide) hc
    | with_reducible apply State.Keeps.ite | with_reducible apply State.Keeps.iteFst | split | dsimp only

theorem State.setKettle_keeps {C : List Part} (hc : ([.regs, .power] : List Part) ⊆ C) {s₀ s : State} (h :
    State.Keeps C s₀ s) (n : Nat) (cap : Int) : State.Keeps C s₀ (State.setKettle s n cap) := by
  unfold State.setKettle
  repeat' first
    | with_reducible assumption | with_reducible apply State.setBit_keeps | exact List.Subset.trans (by decide) hc
    | with_reducible apply State.Keeps.ite | split
    | (apply State.Keeps.ofFields; dsimp only; refine State.Keeps.setPower (hc (by decide)) (State.Keeps.toFields ?_))
    | dsimp only

theorem State.measure_keeps {C : List Part} (hc : ([.regs, .can, .power] : List Part) ⊆ C) {s₀ s : State} (h :
    State.Keeps C s₀ s) (w dv act : Nat) : State.Keeps C s₀ (State.measure s w dv act) := by
  unfold State.measure
  repeat' first
    | with_reducible assumption | with_reducible apply State.noteErr_keeps | with_reducible apply State.setFld_keeps
    | exact List.Subset.trans (by decide) hc | with_reducible apply State.Keeps.ite | split
    | (apply State.Keeps.ofFields; dsimp only; refine State.Keeps.setPower (hc (by decide)) (State.Keeps.toFields ?_))
    | dsimp only

theorem State.checkExcursion_keeps {C : List Part} (hc : ([.regs, .link, .can, .out] : List Part) ⊆ C) {s₀ s :
    State} (h : State.Keeps C s₀ s) : State.Keeps C s₀ (State.checkExcursion s) := by
  unfold State.checkExcursion
  repeat' first
    | with_reducible assumption | with_reducible apply State.event_keeps | exact List.Subset.trans (by decide) hc
    | with_reducible apply State.Keeps.ite | split | dsimp only

theorem State.countSlot_keeps {C : List Part} (hc : ([.regs] : List Part) ⊆ C) {s₀ s : State} (h : State.Keeps C
    s₀ s) : State.Keeps C s₀ (State.countSlot s) := by
  unfold State.countSlot
  repeat' first
    | with_reducible assumption | with_reducible apply State.count_keeps | exact List.Subset.trans (by decide) hc
    | with_reducible apply State.Keeps.ite | split | dsimp only

theorem State.closeSlot_keeps {C : List Part} (hc : ([.regs, .link, .can, .power, .out] : List Part) ⊆ C) {s₀ s :
    State} (h : State.Keeps C s₀ s) (w dv act : Nat) : State.Keeps C s₀ (State.closeSlot s w dv act) := by
  unfold State.closeSlot
  repeat' first
    | with_reducible assumption | with_reducible apply State.checkExcursion_keeps
    | with_reducible apply State.chooseStep_keeps | with_reducible apply State.countSlot_keeps
    | with_reducible apply State.enterStep_keeps | with_reducible apply State.measure_keeps
    | with_reducible apply State.setKettle_keeps | exact List.Subset.trans (by decide) hc
    | with_reducible apply State.Keeps.ite | split
    | (apply State.Keeps.ofFields; dsimp only; refine State.Keeps.setPower (hc (by decide)) (State.Keeps.toFields ?_))
    | dsimp only | (apply State.Keeps.pair; (with_reducible assumption))

theorem State.setGov_keeps {C : List Part} (hc : ([.regs] : List Part) ⊆ C) {s₀ s : State} (h : State.Keeps C s₀
    s) (n : Nat) (b : Bool) : State.Keeps C s₀ (State.setGov s n b) := by
  unfold State.setGov
  repeat' first
    | with_reducible assumption | with_reducible apply State.setBit_keeps | exact List.Subset.trans (by decide) hc
    | dsimp only

theorem State.markFailed_keeps {C : List Part} (hc : ([.regs, .link, .can, .out] : List Part) ⊆ C) {s₀ s : State}
    (h : State.Keeps C s₀ s) (x : Sensors) : State.Keeps C s₀ (State.markFailed s x) := by
  unfold State.markFailed
  repeat' first
    | with_reducible assumption | with_reducible apply State.event_keeps | with_reducible apply State.setBit_keeps
    | exact List.Subset.trans (by decide) hc | (with_reducible apply State.Keeps.foldl; intros)
    | with_reducible apply State.Keeps.ite | split | intro _ | dsimp only

theorem State.showDiodes_keeps {C : List Part} (hc : ([.regs, .thermal] : List Part) ⊆ C) {s₀ s : State} (h :
    State.Keeps C s₀ s) (x : Sensors) : State.Keeps C s₀ (State.showDiodes s x) := by
  unfold State.showDiodes
  repeat' first
    | with_reducible assumption | with_reducible apply State.setFld_keeps | exact List.Subset.trans (by decide) hc
    | (with_reducible apply State.Keeps.foldl; intros) | with_reducible apply State.Keeps.ite | split | intro _
    | (apply State.Keeps.ofFields; dsimp only; refine State.Keeps.setThermal (hc (by decide)) (State.Keeps.toFields ?_))
    | dsimp only | (apply State.Keeps.pair; (with_reducible assumption))

theorem State.blindDemand_keeps {C : List Part} (hc : ([.regs, .link, .can, .out] : List Part) ⊆ C) {s₀ s : State}
    (h : State.Keeps C s₀ s) : State.Keeps C s₀ (State.blindDemand s) := by
  unfold State.blindDemand
  repeat' first
    | with_reducible assumption | with_reducible apply State.event_keeps | with_reducible apply State.setFld_keeps
    | exact List.Subset.trans (by decide) hc | with_reducible apply State.Keeps.ite | split | dsimp only

theorem State.showTherms_keeps {C : List Part} (hc : ([.regs] : List Part) ⊆ C) {s₀ s : State} (h : State.Keeps C
    s₀ s) (x : Sensors) : State.Keeps C s₀ (State.showTherms s x) := by
  unfold State.showTherms
  repeat' first
    | with_reducible assumption | with_reducible apply State.setFld_keeps | exact List.Subset.trans (by decide) hc
    | (with_reducible apply State.Keeps.foldl; intros) | split | intro _ | dsimp only
    | (apply State.Keeps.pair; (with_reducible assumption))

theorem State.runModel_keeps {C : List Part} (hc : ([.regs, .link, .can, .thermal, .out] : List Part) ⊆ C) {s₀ s :
    State} (h : State.Keeps C s₀ s) (x : Sensors) : State.Keeps C s₀ (State.runModel s x) := by
  unfold State.runModel
  repeat' first
    | with_reducible assumption | with_reducible apply State.event_keeps | with_reducible apply State.setFld_keeps
    | with_reducible apply State.setGov_keeps | exact List.Subset.trans (by decide) hc
    | (with_reducible apply State.Keeps.foldl; intros) | with_reducible apply State.Keeps.ite | split | intro _
    | (apply State.Keeps.ofFields; dsimp only; refine State.Keeps.setThermal (hc (by decide)) (State.Keeps.toFields ?_))
    | dsimp only

theorem State.governSwitch_keeps {C : List Part} (hc : ([.regs, .link, .can, .out] : List Part) ⊆ C) {s₀ s :
    State} (h : State.Keeps C s₀ s) (n : Nat) : State.Keeps C s₀ (State.governSwitch s n) := by
  unfold State.governSwitch
  repeat' first
    | with_reducible assumption | with_reducible apply State.event_keeps | with_reducible apply State.setGov_keeps
    | exact List.Subset.trans (by decide) hc | with_reducible apply State.Keeps.ite | split | dsimp only
    | (apply State.Keeps.pair; (with_reducible assumption))

theorem State.showSums_keeps {C : List Part} (hc : ([.regs] : List Part) ⊆ C) {s₀ s : State} (h : State.Keeps C s₀
    s) : State.Keeps C s₀ (State.showSums s) := by
  unfold State.showSums
  repeat' first
    | with_reducible assumption | with_reducible apply State.setFld_keeps | exact List.Subset.trans (by decide) hc
    | dsimp only

theorem State.warnings_keeps {C : List Part} (hc : ([.regs, .link, .can, .thermal, .out] : List Part) ⊆ C) {s₀ s :
    State} (h : State.Keeps C s₀ s) : State.Keeps C s₀ (State.warnings s) := by
  unfold State.warnings
  repeat' first
    | with_reducible assumption | with_reducible apply State.event_keeps | with_reducible apply State.noteErr_keeps
    | exact List.Subset.trans (by decide) hc | with_reducible apply State.Keeps.ite | split | intro _
    | (apply State.Keeps.ofFields; dsimp only; refine State.Keeps.setThermal (hc (by decide)) (State.Keeps.toFields ?_))
    | dsimp only

theorem State.cadBands_keeps {C : List Part} (hc : ([.regs] : List Part) ⊆ C) {s₀ s : State} (h : State.Keeps C s₀
    s) : State.Keeps C s₀ (State.cadBands s) := by
  unfold State.cadBands
  repeat' first
    | with_reducible assumption | with_reducible apply State.setFld_keeps | exact List.Subset.trans (by decide) hc
    | (with_reducible apply State.Keeps.foldl; intros) | intro _ | dsimp only

theorem State.rateCheck_keeps {C : List Part} (hc : ([.regs, .link, .can, .thermal, .out] : List Part) ⊆ C) {s₀ s
    : State} (h : State.Keeps C s₀ s) : State.Keeps C s₀ (State.rateCheck s) := by
  unfold State.rateCheck
  repeat' first
    | with_reducible assumption | with_reducible apply State.event_keeps | with_reducible apply State.setBit_keeps
    | exact List.Subset.trans (by decide) hc | with_reducible apply State.Keeps.ite | split | intro _
    | (apply State.Keeps.ofFields; dsimp only; refine State.Keeps.setThermal (hc (by decide)) (State.Keeps.toFields ?_))
    | dsimp only

theorem State.shutCheck_keeps {C : List Part} (hc : ([.regs, .clusters, .mcasts, .caddy, .hbm, .reqs, .seq,
    .fabric, .link, .can, .power, .thermal, .bring, .snap, .out] : List Part) ⊆ C) {s₀ s : State} (h : State.Keeps
    C s₀ s) : State.Keeps C s₀ (State.shutCheck s) := by
  unfold State.shutCheck
  repeat' first
    | with_reducible assumption | with_reducible apply State.enterFaulted_keeps
    | with_reducible apply State.event_keeps | with_reducible apply State.leavesOff_keeps
    | exact List.Subset.trans (by decide) hc | with_reducible apply State.Keeps.ite | split | intro _
    | (apply State.Keeps.ofFields; dsimp only; refine State.Keeps.setBring (hc (by decide)) (State.Keeps.setThermal (hc (by decide)) (State.Keeps.toFields ?_)))
    | (apply State.Keeps.ofFields; dsimp only; refine State.Keeps.setPower (hc (by decide)) (State.Keeps.setBring (hc (by decide)) (State.Keeps.toFields ?_)))
    | (apply State.Keeps.ofFields; dsimp only; refine State.Keeps.setBring (hc (by decide)) (State.Keeps.setThermal (hc (by decide)) (State.Keeps.setPower (hc (by decide)) (State.Keeps.toFields ?_))))
    | dsimp only

theorem State.sense_keeps {C : List Part} (hc : ([.regs, .clusters, .mcasts, .caddy, .hbm, .reqs, .seq, .fabric,
    .link, .can, .power, .thermal, .bring, .snap, .out] : List Part) ⊆ C) {s₀ s : State} (h : State.Keeps C s₀ s)
    (x : Sensors) : State.Keeps C s₀ (State.sense s x) := by
  unfold State.sense
  repeat' first
    | with_reducible assumption | with_reducible apply State.blindDemand_keeps
    | with_reducible apply State.cadBands_keeps | with_reducible apply State.markFailed_keeps
    | with_reducible apply State.rateCheck_keeps | with_reducible apply State.runModel_keeps
    | with_reducible apply State.showDiodes_keeps | with_reducible apply State.showSums_keeps
    | with_reducible apply State.showTherms_keeps | with_reducible apply State.shutCheck_keeps
    | with_reducible apply State.warnings_keeps | exact List.Subset.trans (by decide) hc
    | with_reducible apply State.Keeps.ite | split | dsimp only

theorem State.demandUpdate_keeps {C : List Part} (hc : ([.regs, .link, .can, .thermal, .out] : List Part) ⊆ C) {s₀
    s : State} (h : State.Keeps C s₀ s) : State.Keeps C s₀ (State.demandUpdate s) := by
  unfold State.demandUpdate
  repeat' first
    | with_reducible assumption | with_reducible apply State.event_keeps | with_reducible apply State.setFld_keeps
    | exact List.Subset.trans (by decide) hc | with_reducible apply State.Keeps.ite | split | intro _
    | (apply State.Keeps.ofFields; dsimp only; refine State.Keeps.setThermal (hc (by decide)) (State.Keeps.toFields ?_))
    | dsimp only

theorem State.setClaim_keeps {C : List Part} (hc : ([.flash] : List Part) ⊆ C) {s₀ s : State} (h : State.Keeps C
    s₀ s) (c : Option FlashClaim) : State.Keeps C s₀ (State.setClaim s c) := by
  unfold State.setClaim
  repeat' first
    | with_reducible assumption
    | (apply State.Keeps.ofFields; dsimp only; refine State.Keeps.setFlash (hc (by decide)) (State.Keeps.toFields ?_))
    | dsimp only

theorem State.storeBegin_keeps {C : List Part} (hc : ([.regs, .flash] : List Part) ⊆ C) {s₀ s : State} (h :
    State.Keeps C s₀ s) : State.Keeps C s₀ (State.storeBegin s) := by
  unfold State.storeBegin
  repeat' first
    | with_reducible assumption | with_reducible apply State.setBit_keeps
    | with_reducible apply State.setClaim_keeps | exact List.Subset.trans (by decide) hc
    | (apply State.Keeps.ofFields; dsimp only; refine State.Keeps.setFlash (hc (by decide)) (State.Keeps.toFields ?_))
    | dsimp only

theorem State.restoreBegin_keeps {C : List Part} (hc : ([.regs, .flash] : List Part) ⊆ C) {s₀ s : State} (h :
    State.Keeps C s₀ s) : State.Keeps C s₀ (State.restoreBegin s) := by
  unfold State.restoreBegin
  repeat' first
    | with_reducible assumption | with_reducible apply State.setBit_keeps
    | with_reducible apply State.setClaim_keeps | exact List.Subset.trans (by decide) hc
    | (apply State.Keeps.ofFields; dsimp only; refine State.Keeps.setFlash (hc (by decide)) (State.Keeps.toFields ?_))
    | dsimp only

theorem State.areaAfter_keeps {C : List Part} (hc : ([.regs, .flash, .free] : List Part) ⊆ C) {s₀ s : State} (h :
    State.Keeps C s₀ s) (flashOk : Bool) : State.Keeps C s₀ (State.areaAfter s flashOk) := by
  unfold State.areaAfter
  repeat' first
    | with_reducible assumption | with_reducible apply State.Keeps.setReg
    | with_reducible apply State.drawFree_keeps | exact List.Subset.trans (by decide) hc
    | with_reducible apply State.Keeps.ite | split
    | (apply State.Keeps.ofFields; dsimp only; refine State.Keeps.setFlash (hc (by decide)) (State.Keeps.toFields ?_))
    | dsimp only

theorem State.claimOver_keeps {C : List Part} (hc : ([.regs, .flash] : List Part) ⊆ C) {s₀ s : State} (h :
    State.Keeps C s₀ s) : State.Keeps C s₀ (State.claimOver s) := by
  unfold State.claimOver
  repeat' first
    | with_reducible assumption | with_reducible apply State.setBit_keeps
    | with_reducible apply State.setClaim_keeps | exact List.Subset.trans (by decide) hc | dsimp only

theorem State.cutFlash_keeps {C : List Part} (hc : ([.flash] : List Part) ⊆ C) {s₀ s : State} (h : State.Keeps C
    s₀ s) : State.Keeps C s₀ (State.cutFlash s) := by
  unfold State.cutFlash
  repeat' first
    | with_reducible assumption | with_reducible apply State.Keeps.ite | split
    | (apply State.Keeps.ofFields; dsimp only; refine State.Keeps.setFlash (hc (by decide)) (State.Keeps.toFields ?_))
    | dsimp only

theorem State.applyRec_keeps {C : List Part} (hc : ([.regs] : List Part) ⊆ C) {s₀ s : State} (h : State.Keeps C s₀
    s) (r : Nat × Word64) : State.Keeps C s₀ (State.applyRec s r) := by
  unfold State.applyRec
  repeat' first
    | with_reducible assumption | with_reducible apply State.Keeps.setReg | with_reducible apply State.setFld_keeps
    | exact List.Subset.trans (by decide) hc | split | dsimp only
    | (apply State.Keeps.pair; (with_reducible assumption))

theorem State.reapplyComm_keeps {C : List Part} (hc : ([.regs] : List Part) ⊆ C) {s₀ s : State} (h : State.Keeps C
    s₀ s) : State.Keeps C s₀ (State.reapplyComm s) := by
  have h1 : State.Keeps C s₀ { s with regs := s.regs.filter fun e => !isComm e.1 } :=
    State.Keeps.ofFields (State.Keeps.setRegs (hc (by decide)) h.toFields fun k => Tbl.rising_filter _ k)
  unfold State.reapplyComm
  extract_lets s1
  split
  · refine State.Keeps.foldl (fun t r ht => ?_) _ h1
    split
    · exact State.Keeps.setReg (List.Subset.trans (by decide) hc) ht _ _ _
    · exact ht
  · exact h1

theorem State.applyArea_keeps {C : List Part} (hc : ([.regs, .caddy, .link, .can, .flash, .out] : List Part) ⊆ C)
    {s₀ s : State} (h : State.Keeps C s₀ s) : State.Keeps C s₀ (State.applyArea s) := by
  unfold State.applyArea
  repeat' first
    | with_reducible assumption | with_reducible apply State.Keeps.setReg
    | with_reducible apply State.applyRec_keeps | with_reducible apply State.event_keeps
    | exact List.Subset.trans (by decide) hc | (with_reducible apply State.Keeps.foldl; intros)
    | with_reducible apply State.Keeps.ite | split | intro _
    | (apply State.Keeps.ofFields; dsimp only; refine State.Keeps.setCaddy (hc (by decide)) (State.Keeps.setFlash (hc (by decide)) (State.Keeps.toFields ?_)))
    | (apply State.Keeps.ofFields; dsimp only; refine State.Keeps.setFlash (hc (by decide)) (State.Keeps.setCaddy (hc (by decide)) (State.Keeps.toFields ?_)))
    | dsimp only

theorem State.canSend_keeps {C : List Part} (hc : ([.regs, .out] : List Part) ⊆ C) {s₀ s : State} (h : State.Keeps
    C s₀ s) (base : Nat) (data : List Byte) : State.Keeps C s₀ (State.canSend s base data) := by
  unfold State.canSend
  repeat' first
    | with_reducible assumption | with_reducible apply State.count_keeps | with_reducible apply State.emit_keeps
    | exact List.Subset.trans (by decide) hc | with_reducible apply State.Keeps.ite | split | dsimp only

theorem State.canAccept_keeps {C : List Part} (hc : ([.regs] : List Part) ⊆ C) {s₀ s : State} (h : State.Keeps C
    s₀ s) : State.Keeps C s₀ (State.canAccept s) := by
  unfold State.canAccept
  repeat' first
    | with_reducible assumption | with_reducible apply State.count_keeps | exact List.Subset.trans (by decide) hc
    | dsimp only

theorem State.canDiscard_keeps {C : List Part} (hc : ([.regs] : List Part) ⊆ C) {s₀ s : State} (h : State.Keeps C
    s₀ s) : State.Keeps C s₀ (State.canDiscard s) := by
  unfold State.canDiscard
  repeat' first
    | with_reducible assumption | with_reducible apply State.count_keeps | exact List.Subset.trans (by decide) hc
    | dsimp only

theorem State.setNmt_keeps {C : List Part} (hc : ([.regs] : List Part) ⊆ C) {s₀ s : State} (h : State.Keeps C s₀
    s) (n : Nat) : State.Keeps C s₀ (State.setNmt s n) := by
  unfold State.setNmt
  repeat' first
    | with_reducible assumption | with_reducible apply State.setFld_keeps | exact List.Subset.trans (by decide) hc
    | dsimp only

theorem State.bootUp_keeps {C : List Part} (hc : ([.regs, .can, .out] : List Part) ⊆ C) {s₀ s : State} (h :
    State.Keeps C s₀ s) : State.Keeps C s₀ (State.bootUp s) := by
  unfold State.bootUp
  repeat' first
    | with_reducible assumption | with_reducible apply State.canSend_keeps | with_reducible apply State.setNmt_keeps
    | exact List.Subset.trans (by decide) hc
    | (apply State.Keeps.ofFields; dsimp only; refine State.Keeps.setCan (hc (by decide)) (State.Keeps.toFields ?_))
    | dsimp only

theorem State.startCan_keeps {C : List Part} (hc : ([.regs, .can, .out] : List Part) ⊆ C) {s₀ s : State} (h :
    State.Keeps C s₀ s) : State.Keeps C s₀ (State.startCan s) := by
  unfold State.startCan
  repeat' first
    | with_reducible assumption | with_reducible apply State.bootUp_keeps | exact List.Subset.trans (by decide) hc
    | with_reducible apply State.Keeps.ite | split | intro _
    | (apply State.Keeps.ofFields; dsimp only; refine State.Keeps.setCan (hc (by decide)) (State.Keeps.toFields ?_))
    | dsimp only

theorem State.nmtCommand_keeps {C : List Part} (hc : ([.regs] : List Part) ⊆ C) {s₀ s : State} (h : State.Keeps C
    s₀ s) (n : Nat) : State.Keeps C s₀ (State.nmtCommand s n) := by
  unfold State.nmtCommand
  repeat' first
    | with_reducible assumption | with_reducible apply State.canAccept_keeps
    | with_reducible apply State.setNmt_keeps | exact List.Subset.trans (by decide) hc
    | with_reducible apply State.Keeps.ite | split | dsimp only

theorem State.nmtReset_keeps {C : List Part} (hc : ([.regs, .can, .out] : List Part) ⊆ C) {s₀ s : State} (h :
    State.Keeps C s₀ s) : State.Keeps C s₀ (State.nmtReset s) := by
  unfold State.nmtReset
  repeat' first
    | with_reducible assumption | with_reducible apply State.bootUp_keeps
    | with_reducible apply State.canAccept_keeps | with_reducible apply State.reapplyComm_keeps
    | exact List.Subset.trans (by decide) hc | with_reducible apply State.Keeps.ite | split
    | (apply State.Keeps.ofFields; dsimp only; refine State.Keeps.setCan (hc (by decide)) (State.Keeps.toFields ?_))
    | dsimp only

theorem State.heartbeat_keeps {C : List Part} (hc : ([.regs, .can, .out] : List Part) ⊆ C) {s₀ s : State} (h :
    State.Keeps C s₀ s) : State.Keeps C s₀ (State.heartbeat s) := by
  unfold State.heartbeat
  repeat' first
    | with_reducible assumption | with_reducible apply State.canSend_keeps | exact List.Subset.trans (by decide) hc
    | with_reducible apply State.Keeps.ite | split
    | (apply State.Keeps.ofFields; dsimp only; refine State.Keeps.setCan (hc (by decide)) (State.Keeps.toFields ?_))
    | dsimp only

theorem State.sendEmcy_keeps {C : List Part} (hc : ([.regs, .can, .out] : List Part) ⊆ C) {s₀ s : State} (h :
    State.Keeps C s₀ s) : State.Keeps C s₀ (State.sendEmcy s) := by
  unfold State.sendEmcy
  repeat' first
    | with_reducible assumption | with_reducible apply State.canSend_keeps | with_reducible apply State.count_keeps
    | exact List.Subset.trans (by decide) hc | with_reducible apply State.Keeps.ite | split
    | (apply State.Keeps.ofFields; dsimp only; refine State.Keeps.setCan (hc (by decide)) (State.Keeps.toFields ?_))
    | dsimp only | (apply State.Keeps.pair; (with_reducible assumption))

theorem State.sendTpdo2_keeps {C : List Part} (hc : ([.regs, .can, .out] : List Part) ⊆ C) {s₀ s : State} (h :
    State.Keeps C s₀ s) : State.Keeps C s₀ (State.sendTpdo2 s) := by
  unfold State.sendTpdo2
  repeat' first
    | with_reducible assumption | with_reducible apply State.canSend_keeps | exact List.Subset.trans (by decide) hc
    | with_reducible apply State.Keeps.ite | split
    | (apply State.Keeps.ofFields; dsimp only; refine State.Keeps.setCan (hc (by decide)) (State.Keeps.toFields ?_))
    | dsimp only

theorem State.busError_keeps {C : List Part} (hc : ([.regs, .can] : List Part) ⊆ C) {s₀ s : State} (h :
    State.Keeps C s₀ s) (tec rec : Nat) : State.Keeps C s₀ (State.busError s tec rec) := by
  unfold State.busError
  repeat' first
    | with_reducible assumption | with_reducible apply State.count_keeps
    | with_reducible apply State.emergency_keeps | with_reducible apply State.noteErr_keeps
    | with_reducible apply State.setFld_keeps | exact List.Subset.trans (by decide) hc
    | with_reducible apply State.Keeps.ite | split | dsimp only

theorem State.busRecovered_keeps {C : List Part} (hc : ([.regs, .can] : List Part) ⊆ C) {s₀ s : State} (h :
    State.Keeps C s₀ s) : State.Keeps C s₀ (State.busRecovered s) := by
  unfold State.busRecovered
  repeat' first
    | with_reducible assumption | with_reducible apply State.noteErr_keeps | with_reducible apply State.setFld_keeps
    | with_reducible apply State.unnamedEmergency_keeps | exact List.Subset.trans (by decide) hc
    | with_reducible apply State.Keeps.ite | split | dsimp only

theorem State.stage_keeps {C : List Part} (hc : ([.flash] : List Part) ⊆ C) {s₀ s : State} (h : State.Keeps C s₀
    s) (a : Nat) (data : List Byte) (poisoned : Bool) : State.Keeps C s₀ (State.stage s a data poisoned) := by
  unfold State.stage
  repeat' first
    | with_reducible assumption | with_reducible apply State.Keeps.ite | split | intro _
    | (apply State.Keeps.ofFields; dsimp only; refine State.Keeps.setFlash (hc (by decide)) (State.Keeps.toFields ?_))
    | dsimp only

theorem State.setResult_keeps {C : List Part} (hc : ([.flash] : List Part) ⊆ C) {s₀ s : State} (h : State.Keeps C
    s₀ s) (r : Nat) : State.Keeps C s₀ (State.setResult s r) := by
  unfold State.setResult
  repeat' first
    | with_reducible assumption
    | (apply State.Keeps.ofFields; dsimp only; refine State.Keeps.setFlash (hc (by decide)) (State.Keeps.toFields ?_))
    | dsimp only

theorem State.fwCommand_keeps {C : List Part} (hc : ([.flash] : List Part) ⊆ C) {s₀ s : State} (h : State.Keeps C
    s₀ s) (op : Nat) : State.Keeps C s₀ (State.fwCommand s op) := by
  unfold State.fwCommand
  repeat' first
    | with_reducible assumption | with_reducible apply State.setClaim_keeps
    | with_reducible apply State.setResult_keeps | exact List.Subset.trans (by decide) hc
    | with_reducible apply State.Keeps.ite | split
    | (apply State.Keeps.ofFields; dsimp only; refine State.Keeps.setFlash (hc (by decide)) (State.Keeps.toFields ?_))
    | dsimp only

theorem State.bar4Write_keeps {C : List Part} (hc : ([.flash] : List Part) ⊆ C) {s₀ s : State} (h : State.Keeps C
    s₀ s) (off : Nat) (data : List Byte) (poisoned : Bool) : State.Keeps C s₀ (State.bar4Write s off data
    poisoned) := by
  unfold State.bar4Write
  repeat' first
    | with_reducible assumption | with_reducible apply State.fwCommand_keeps
    | with_reducible apply State.stage_keeps | exact List.Subset.trans (by decide) hc
    | with_reducible apply State.Keeps.ite | split | dsimp only

theorem State.runImage_keeps {C : List Part} (hc : ([.regs, .link, .can, .bring, .flash, .out] : List Part) ⊆ C)
    {s₀ s : State} (h : State.Keeps C s₀ s) (i : Image) (recovery : Bool) : State.Keeps C s₀ (State.runImage s i
    recovery) := by
  unfold State.runImage
  repeat' first
    | with_reducible assumption | with_reducible apply State.setDevWord_keeps
    | with_reducible apply State.startCan_keeps | exact List.Subset.trans (by decide) hc
    | with_reducible apply State.Keeps.ite | split
    | (apply State.Keeps.ofFields; dsimp only; refine State.Keeps.setFlash (hc (by decide)) (State.Keeps.setBring (hc (by decide)) (State.Keeps.toFields ?_)))
    | dsimp only

theorem State.fwDone_keeps {C : List Part} (hc : ([.regs, .link, .can, .bring, .flash, .out] : List Part) ⊆ C) {s₀
    s : State} (h : State.Keeps C s₀ s) (flashOk : Bool) : State.Keeps C s₀ (State.fwDone s flashOk) := by
  unfold State.fwDone
  repeat' first
    | with_reducible assumption | with_reducible apply State.runImage_keeps
    | with_reducible apply State.setClaim_keeps | with_reducible apply State.setResult_keeps
    | exact List.Subset.trans (by decide) hc | with_reducible apply State.Keeps.ite | split
    | (apply State.Keeps.ofFields; dsimp only; refine State.Keeps.setFlash (hc (by decide)) (State.Keeps.toFields ?_))
    | dsimp only | (apply State.Keeps.pair; (with_reducible assumption))

theorem State.verifyDone_keeps {C : List Part} (hc : ([.regs, .link, .can, .bring, .flash, .out] : List Part) ⊆ C)
    {s₀ s : State} (h : State.Keeps C s₀ s) : State.Keeps C s₀ (State.verifyDone s) := by
  unfold State.verifyDone
  repeat' first
    | with_reducible assumption | with_reducible apply State.runImage_keeps
    | with_reducible apply State.setFld_keeps | exact List.Subset.trans (by decide) hc
    | with_reducible apply State.Keeps.ite | split
    | (apply State.Keeps.ofFields; dsimp only; refine State.Keeps.setBring (hc (by decide)) (State.Keeps.toFields ?_))
    | dsimp only | (apply State.Keeps.pair; (with_reducible assumption))

theorem State.fusesBlown_keeps {C : List Part} (hc : ([.flash] : List Part) ⊆ C) {s₀ s : State} (h : State.Keeps C
    s₀ s) : State.Keeps C s₀ (State.fusesBlown s) := by
  unfold State.fusesBlown
  repeat' first
    | with_reducible assumption | split
    | (apply State.Keeps.ofFields; dsimp only; refine State.Keeps.setFlash (hc (by decide)) (State.Keeps.toFields ?_))
    | dsimp only | (apply State.Keeps.pair; (with_reducible assumption))

theorem State.makeStanding_keeps {C : List Part} (hc : ([.flash] : List Part) ⊆ C) {s₀ s : State} (h : State.Keeps
    C s₀ s) : State.Keeps C s₀ (State.makeStanding s) := by
  unfold State.makeStanding
  repeat' first
    | with_reducible assumption | with_reducible apply State.Keeps.ite | split
    | (apply State.Keeps.ofFields; dsimp only; refine State.Keeps.setFlash (hc (by decide)) (State.Keeps.toFields ?_))
    | dsimp only

theorem State.freshReady_keeps {C : List Part} (hc : ([.flash, .out] : List Part) ⊆ C) {s₀ s : State} (h :
    State.Keeps C s₀ s) : State.Keeps C s₀ (State.freshReady s) := by
  unfold State.freshReady
  repeat' first
    | with_reducible assumption | with_reducible apply State.emit_keeps | exact List.Subset.trans (by decide) hc
    | split
    | (apply State.Keeps.ofFields; dsimp only; refine State.Keeps.setFlash (hc (by decide)) (State.Keeps.toFields ?_))
    | dsimp only | (apply State.Keeps.pair; (with_reducible assumption))

theorem State.setChan_keeps {C : List Part} (hc : ([.regs, .clusters, .seq, .lanes] : List Part) ⊆ C) {s₀ s :
    State} (h : State.Keeps C s₀ s) (cad ch : Nat) (c : Chan) : State.Keeps C s₀ (State.setChan s cad ch c) := by
  unfold State.setChan
  repeat' first
    | with_reducible assumption | with_reducible apply State.put_keeps | exact List.Subset.trans (by decide) hc
    | (apply State.Keeps.ofFields; dsimp only; refine State.Keeps.setLanes (hc (by decide)) (State.Keeps.toFields ?_))
    | dsimp only

theorem State.lanesDue_keeps {C : List Part} (hc : ([.flash] : List Part) ⊆ C) {s₀ s : State} (h : State.Keeps C
    s₀ s) : State.Keeps C s₀ (State.lanesDue s) := by
  unfold State.lanesDue
  repeat' first
    | with_reducible assumption
    | (apply State.Keeps.ofFields; dsimp only; refine State.Keeps.setFlash (hc (by decide)) (State.Keeps.toFields ?_))
    | dsimp only

theorem State.reroute_keeps {C : List Part} (hc : ([.caddy, .reqs] : List Part) ⊆ C) {s₀ s : State} (h :
    State.Keeps C s₀ s) : State.Keeps C s₀ (State.reroute s) := by
  unfold State.reroute
  repeat' first
    | with_reducible assumption | intro _
    | (apply State.Keeps.ofFields; dsimp only; refine State.Keeps.setCaddy (hc (by decide)) (State.Keeps.setReqs (hc (by decide)) (State.Keeps.toFields ?_)))
    | dsimp only

theorem State.retire_keeps {C : List Part} (hc : ([.regs, .clusters, .caddy, .hbm, .reqs, .seq, .link, .can,
    .flash, .lanes, .out] : List Part) ⊆ C) {s₀ s : State} (h : State.Keeps C s₀ s) (cad ch : Nat) : State.Keeps C
    s₀ (State.retire s cad ch) := by
  unfold State.retire
  repeat' first
    | with_reducible assumption | with_reducible apply State.degrade_keeps
    | with_reducible apply State.emptySlice_keeps | with_reducible apply State.lanesDue_keeps
    | with_reducible apply State.loseSlice_keeps | with_reducible apply State.reroute_keeps
    | with_reducible apply State.setChan_keeps | exact List.Subset.trans (by decide) hc | dsimp only

theorem State.lineOut_keeps {C : List Part} (hc : ([.regs, .clusters, .caddy, .hbm, .reqs, .seq, .link, .can,
    .flash, .lanes, .out] : List Part) ⊆ C) {s₀ s : State} (h : State.Keeps C s₀ s) (cad ch line : Nat) (thru :
    Bool) : State.Keeps C s₀ (State.lineOut s cad ch line thru) := by
  unfold State.lineOut
  repeat' first
    | with_reducible assumption | with_reducible apply State.retire_keeps | with_reducible apply State.setChan_keeps
    | exact List.Subset.trans (by decide) hc | with_reducible apply State.Keeps.ite | split | dsimp only

theorem State.lineSpare_keeps {C : List Part} (hc : ([.regs, .clusters, .seq, .flash, .lanes] : List Part) ⊆ C)
    {s₀ s : State} (h : State.Keeps C s₀ s) (cad ch line : Nat) : State.Keeps C s₀ (State.lineSpare s cad ch line) := by
  unfold State.lineSpare
  repeat' first
    | with_reducible assumption | with_reducible apply State.lanesDue_keeps
    | with_reducible apply State.setChan_keeps | exact List.Subset.trans (by decide) hc
    | with_reducible apply State.Keeps.ite | split | dsimp only

theorem State.parkLeaf_keeps {C : List Part} (hc : ([.regs, .bring] : List Part) ⊆ C) {s₀ s : State} (h :
    State.Keeps C s₀ s) (leaf : Nat) : State.Keeps C s₀ (State.parkLeaf s leaf) := by
  unfold State.parkLeaf
  repeat' first
    | with_reducible assumption | with_reducible apply State.Keeps.setReg | exact List.Subset.trans (by decide) hc
    | (apply State.Keeps.ofFields; dsimp only; refine State.Keeps.setBring (hc (by decide)) (State.Keeps.toFields ?_))
    | dsimp only

theorem State.fillTokens_keeps {C : List Part} (hc : ([.regs] : List Part) ⊆ C) {s₀ s : State} (h : State.Keeps C
    s₀ s) : State.Keeps C s₀ (State.fillTokens s) := by
  unfold State.fillTokens
  repeat' first
    | with_reducible assumption | with_reducible apply State.setTokFree_keeps
    | exact List.Subset.trans (by decide) hc | (with_reducible apply State.Keeps.foldl; intros) | intro _
    | dsimp only

theorem State.lead_keeps {C : List Part} (hc : ([.regs, .bring, .lanes] : List Part) ⊆ C) {s₀ s : State} (h :
    State.Keeps C s₀ s) (pot : Nat) : State.Keeps C s₀ (State.lead s pot) := by
  unfold State.lead
  repeat' first
    | with_reducible assumption | with_reducible apply State.parkLeaf_keeps
    | with_reducible apply State.setFld_keeps | exact List.Subset.trans (by decide) hc
    | with_reducible apply State.Keeps.ite | split | intro _
    | (apply State.Keeps.ofFields; dsimp only; refine State.Keeps.setLanes (hc (by decide)) (State.Keeps.toFields ?_))
    | dsimp only

theorem State.forceLead_keeps {C : List Part} (hc : ([.regs, .bring, .lanes] : List Part) ⊆ C) {s₀ s : State} (h :
    State.Keeps C s₀ s) (pot : Nat) : State.Keeps C s₀ (State.forceLead s pot) := by
  unfold State.forceLead
  repeat' first
    | with_reducible assumption | with_reducible apply State.lead_keeps | with_reducible apply State.setBit_keeps
    | exact List.Subset.trans (by decide) hc | dsimp only

theorem State.exchangeLost_keeps {C : List Part} (hc : ([.regs, .clusters, .mcasts, .caddy, .reqs, .seq, .fabric,
    .link, .can, .bring, .snap, .out] : List Part) ⊆ C) {s₀ s : State} (h : State.Keeps C s₀ s) (pot : Nat) :
    State.Keeps C s₀ (State.exchangeLost s pot) := by
  unfold State.exchangeLost
  repeat' first
    | with_reducible assumption | with_reducible apply State.degrade_keeps
    | with_reducible apply State.killContext_keeps | with_reducible apply State.parkLeaf_keeps
    | with_reducible apply State.setBit_keeps | exact List.Subset.trans (by decide) hc
    | (with_reducible apply State.Keeps.foldl; intros) | intro _ | dsimp only

theorem State.disableGroup_keeps {C : List Part} (hc : ([.regs, .clusters, .mcasts, .caddy, .reqs, .seq, .fabric,
    .link, .can, .bring, .lanes, .snap, .out] : List Part) ⊆ C) {s₀ s : State} (h : State.Keeps C s₀ s) (pot group
    : Nat) : State.Keeps C s₀ (State.disableGroup s pot group) := by
  unfold State.disableGroup
  repeat' first
    | with_reducible assumption | with_reducible apply State.degrade_keeps
    | with_reducible apply State.exchangeLost_keeps | with_reducible apply State.fillTokens_keeps
    | with_reducible apply State.forceLead_keeps | with_reducible apply State.setBit_keeps
    | exact List.Subset.trans (by decide) hc | with_reducible apply State.Keeps.ite | split
    | (apply State.Keeps.ofFields; dsimp only; refine State.Keeps.setLanes (hc (by decide)) (State.Keeps.toFields ?_))
    | dsimp only

theorem State.loseLane_keeps {C : List Part} (hc : ([.regs, .clusters, .seq, .flash, .lanes] : List Part) ⊆ C) {s₀
    s : State} (h : State.Keeps C s₀ s) (k lane : Nat) : State.Keeps C s₀ (State.loseLane s k lane) := by
  unfold State.loseLane
  repeat' first
    | with_reducible assumption | with_reducible apply State.lanesDue_keeps | with_reducible apply State.put_keeps
    | exact List.Subset.trans (by decide) hc
    | (apply State.Keeps.ofFields; dsimp only; refine State.Keeps.setLanes (hc (by decide)) (State.Keeps.toFields ?_))
    | dsimp only

theorem State.laneOut_keeps {C : List Part} (hc : ([.regs, .clusters, .mcasts, .caddy, .reqs, .seq, .fabric,
    .link, .can, .bring, .flash, .lanes, .snap, .out] : List Part) ⊆ C) {s₀ s : State} (h : State.Keeps C s₀ s)
    (pot group dir lane : Nat) : State.Keeps C s₀ (State.laneOut s pot group dir lane) := by
  unfold State.laneOut
  repeat' first
    | with_reducible assumption | with_reducible apply State.disableGroup_keeps
    | with_reducible apply State.loseLane_keeps | exact List.Subset.trans (by decide) hc
    | with_reducible apply State.Keeps.ite | split
    | (apply State.Keeps.ofFields; dsimp only; refine State.Keeps.setLanes (hc (by decide)) (State.Keeps.toFields ?_))
    | dsimp only

theorem State.laneSpare_keeps {C : List Part} (hc : ([.regs, .clusters, .seq, .flash, .lanes] : List Part) ⊆ C)
    {s₀ s : State} (h : State.Keeps C s₀ s) (pot group dir lane : Nat) : State.Keeps C s₀ (State.laneSpare s pot
    group dir lane) := by
  unfold State.laneSpare
  repeat' first
    | with_reducible assumption | with_reducible apply State.loseLane_keeps | exact List.Subset.trans (by decide) hc
    | with_reducible apply State.Keeps.ite | split | dsimp only

theorem State.qualify_keeps {C : List Part} (hc : ([.regs, .clusters, .mcasts, .caddy, .hbm, .reqs, .seq, .fabric,
    .link, .can, .bring, .flash, .lanes, .snap, .out] : List Part) ⊆ C) {s₀ s : State} (h : State.Keeps C s₀ s) (l
    : LineId) (errs : Nat) : State.Keeps C s₀ (State.qualify s l errs) := by
  unfold State.qualify
  repeat' first
    | with_reducible assumption | with_reducible apply State.laneOut_keeps
    | with_reducible apply State.lineOut_keeps | exact List.Subset.trans (by decide) hc
    | with_reducible apply State.Keeps.ite | split | dsimp only
    | (apply State.Keeps.pair; (with_reducible assumption))

theorem State.spareIn_keeps {C : List Part} (hc : ([.regs, .clusters, .seq, .flash, .lanes] : List Part) ⊆ C) {s₀
    s : State} (h : State.Keeps C s₀ s) (l : LineId) : State.Keeps C s₀ (State.spareIn s l) := by
  unfold State.spareIn
  repeat' first
    | with_reducible assumption | with_reducible apply State.laneSpare_keeps
    | with_reducible apply State.lineSpare_keeps | exact List.Subset.trans (by decide) hc | split | dsimp only
    | (apply State.Keeps.pair; (with_reducible assumption))

theorem State.writeLanes_keeps {C : List Part} (hc : ([.flash] : List Part) ⊆ C) {s₀ s : State} (h : State.Keeps C
    s₀ s) : State.Keeps C s₀ (State.writeLanes s) := by
  unfold State.writeLanes
  repeat' first
    | with_reducible assumption | with_reducible apply State.lanesDue_keeps | exact List.Subset.trans (by decide) hc
    | with_reducible apply State.Keeps.ite | split
    | (apply State.Keeps.ofFields; dsimp only; refine State.Keeps.setFlash (hc (by decide)) (State.Keeps.toFields ?_))
    | dsimp only

theorem State.applyLanes_keeps {C : List Part} (hc : ([.flash, .lanes] : List Part) ⊆ C) {s₀ s : State} (h :
    State.Keeps C s₀ s) : State.Keeps C s₀ (State.applyLanes s) := by
  unfold State.applyLanes
  repeat' first
    | with_reducible assumption | with_reducible apply State.lanesDue_keeps | exact List.Subset.trans (by decide) hc
    | with_reducible apply State.Keeps.ite | split | intro _
    | (apply State.Keeps.ofFields; dsimp only; refine State.Keeps.setLanes (hc (by decide)) (State.Keeps.toFields ?_))
    | dsimp only

theorem State.replanDue_keeps {C : List Part} (hc : ([.age] : List Part) ⊆ C) {s₀ s : State} (h : State.Keeps C s₀
    s) : State.Keeps C s₀ (State.replanDue s) := by
  unfold State.replanDue
  repeat' first
    | with_reducible assumption | with_reducible apply State.Keeps.ite | split
    | (apply State.Keeps.ofFields; dsimp only; refine State.Keeps.setAge (hc (by decide)) (State.Keeps.toFields ?_))
    | dsimp only

theorem State.replan_keeps {C : List Part} (hc : ([.regs, .link, .can, .power, .flash, .age, .out] : List Part) ⊆
    C) {s₀ s : State} (h : State.Keeps C s₀ s) (vmin : List (Option Int)) : State.Keeps C s₀ (State.replan s vmin) := by
  unfold State.replan
  repeat' first
    | with_reducible assumption | with_reducible apply State.retarget_keeps
    | with_reducible apply State.setDevWord_keeps | exact List.Subset.trans (by decide) hc
    | with_reducible apply State.Keeps.ite | split
    | (apply State.Keeps.ofFields; dsimp only; refine State.Keeps.setFlash (hc (by decide)) (State.Keeps.setAge (hc (by decide)) (State.Keeps.setPower (hc (by decide)) (State.Keeps.toFields ?_))))
    | dsimp only

theorem State.writeAge_keeps {C : List Part} (hc : ([.flash, .age] : List Part) ⊆ C) {s₀ s : State} (h :
    State.Keeps C s₀ s) : State.Keeps C s₀ (State.writeAge s) := by
  unfold State.writeAge
  repeat' first
    | with_reducible assumption | with_reducible apply State.Keeps.ite | split
    | (apply State.Keeps.ofFields; dsimp only; refine State.Keeps.setAge (hc (by decide)) (State.Keeps.setFlash (hc (by decide)) (State.Keeps.toFields ?_)))
    | dsimp only

theorem State.applyAge_keeps {C : List Part} (hc : ([.regs, .link, .can, .age, .out] : List Part) ⊆ C) {s₀ s :
    State} (h : State.Keeps C s₀ s) : State.Keeps C s₀ (State.applyAge s) := by
  unfold State.applyAge
  repeat' first
    | with_reducible assumption | with_reducible apply State.setDevWord_keeps
    | exact List.Subset.trans (by decide) hc | with_reducible apply State.Keeps.ite | split
    | (apply State.Keeps.ofFields; dsimp only; refine State.Keeps.setAge (hc (by decide)) (State.Keeps.toFields ?_))
    | dsimp only | (apply State.Keeps.pair; (with_reducible assumption))

theorem State.snapFt_keeps {C : List Part} (hc : ([.regs, .snap, .out] : List Part) ⊆ C) {s₀ s : State} (h :
    State.Keeps C s₀ s) : State.Keeps C s₀ (State.snapFt s) := by
  unfold State.snapFt
  repeat' first
    | with_reducible assumption | with_reducible apply State.snapTrigger_keeps
    | exact List.Subset.trans (by decide) hc | with_reducible apply State.Keeps.ite | split | dsimp only

theorem State.snapPin_keeps {C : List Part} (hc : ([.regs, .snap, .out] : List Part) ⊆ C) {s₀ s : State} (h :
    State.Keeps C s₀ s) : State.Keeps C s₀ (State.snapPin s) := by
  unfold State.snapPin
  repeat' first
    | with_reducible assumption | with_reducible apply State.snapTrigger_keeps
    | exact List.Subset.trans (by decide) hc | with_reducible apply State.Keeps.ite | split | dsimp only

theorem State.snapCopied_keeps {C : List Part} (hc : ([.regs, .snap] : List Part) ⊆ C) {s₀ s : State} (h :
    State.Keeps C s₀ s) : State.Keeps C s₀ (State.snapCopied s) := by
  unfold State.snapCopied
  repeat' first
    | with_reducible assumption | with_reducible apply State.setBit_keeps | exact List.Subset.trans (by decide) hc
    | with_reducible apply State.Keeps.ite | split
    | (apply State.Keeps.ofFields; dsimp only; refine State.Keeps.setSnap (hc (by decide)) (State.Keeps.toFields ?_))
    | dsimp only

theorem State.ppsOut_keeps {C : List Part} (hc : ([.out] : List Part) ⊆ C) {s₀ s : State} (h : State.Keeps C s₀ s)
    : State.Keeps C s₀ (State.ppsOut s) := by
  unfold State.ppsOut
  repeat' first
    | with_reducible assumption | with_reducible apply State.emit_keeps | exact List.Subset.trans (by decide) hc
    | with_reducible apply State.Keeps.ite | split | dsimp only

theorem State.stopDomains_keeps {C : List Part} (hc : ([.clusters, .mcasts, .caddy, .hbm, .reqs, .arb, .seq,
    .fabric, .link, .power, .bring, .lanes] : List Part) ⊆ C) {s₀ s : State} (h : State.Keeps C s₀ s) :
    State.Keeps C s₀ (State.stopDomains s) := by
  unfold State.stopDomains
  repeat' first
    | with_reducible assumption | intro _
    | (apply State.Keeps.ofFields; dsimp only; refine State.Keeps.setBring (hc (by decide)) (State.Keeps.setPower (hc (by decide)) (State.Keeps.setLanes (hc (by decide)) (State.Keeps.setLink (hc (by decide)) (State.Keeps.setFabric (hc (by decide)) (State.Keeps.setSeq (hc (by decide)) (State.Keeps.setHbm (hc (by decide)) (State.Keeps.setCaddy (hc (by decide)) (State.Keeps.setArb (hc (by decide)) (State.Keeps.setReqs (hc (by decide)) (State.Keeps.setMcasts (hc (by decide)) (State.Keeps.setClusters (hc (by decide)) (State.Keeps.toFields ?_)))))) rfl rfl)))))))
    | dsimp only

theorem State.toStandby_keeps {C : List Part} (hc : ([.regs, .time, .clusters, .mcasts, .caddy, .hbm, .reqs, .arb,
    .seq, .fabric, .link, .can, .power, .bring, .lanes, .out] : List Part) ⊆ C) {s₀ s : State} (h : State.Keeps C
    s₀ s) : State.Keeps C s₀ (State.toStandby s) := by
  unfold State.toStandby
  repeat' first
    | with_reducible assumption | with_reducible apply State.enter_keeps
    | with_reducible apply State.stopDomains_keeps | exact List.Subset.trans (by decide) hc
    | with_reducible apply State.Keeps.ite | split
    | (apply State.Keeps.ofFields; dsimp only; refine State.Keeps.setTime (hc (by decide)) (State.Keeps.toFields ?_))
    | dsimp only

theorem State.inputOut_keeps {C : List Part} (hc : ([.regs, .time, .clusters, .mcasts, .caddy, .hbm, .reqs, .arb,
    .seq, .fabric, .link, .can, .power, .bring, .lanes, .out] : List Part) ⊆ C) {s₀ s : State} (h : State.Keeps C
    s₀ s) : State.Keeps C s₀ (State.inputOut s) := by
  unfold State.inputOut
  repeat' first
    | with_reducible assumption | with_reducible apply State.toStandby_keeps
    | exact List.Subset.trans (by decide) hc | with_reducible apply State.Keeps.ite | split
    | (apply State.Keeps.ofFields; dsimp only; refine State.Keeps.setBring (hc (by decide)) (State.Keeps.toFields ?_))
    | dsimp only

theorem State.keptRegs_rising {s : State} (h : s.Canonical) (cold : Bool) :
    Tbl.rising (s.keptRegs cold) = true := by
  unfold State.keptRegs
  split
  · rfl
  · exact Tbl.rising_filter _ h.2.2

theorem State.restarted_keeps {C : List Part} (hc : ([.regs, .time, .cleared, .latches, .clusters, .mcasts,
    .caddy, .hbm, .reqs, .arb, .seq, .fabric, .link, .can, .power, .thermal, .bring, .flash, .age, .lanes, .snap]
    : List Part) ⊆ C) {s₀ s : State} (h : State.Keeps C s₀ s) (cold : Bool) : State.Keeps C s₀ (State.restarted s
    cold) :=
  ⟨h.queue, fun c => ⟨(h.canon c).1, (h.canon c).2.1, State.keptRegs_rising (h.canon c) cold⟩,
    fun p n => by cases p <;> first | exact absurd (hc (by decide)) n | exact h.parts _ n⟩

theorem State.startNow_keeps {C : List Part} (hc : ([.regs, .time, .cleared, .latches, .clusters, .mcasts, .caddy,
    .hbm, .reqs, .arb, .seq, .fabric, .link, .can, .power, .thermal, .bring, .flash, .age, .lanes, .snap] : List
    Part) ⊆ C) {s₀ s : State} (h : State.Keeps C s₀ s) (cold : Bool) (cause : Nat) : State.Keeps C s₀
    (State.startNow s cold cause) := by
  unfold State.startNow
  repeat' first
    | with_reducible assumption | with_reducible apply State.Keeps.setReg
    | with_reducible apply State.cutFlash_keeps | with_reducible apply State.restarted_keeps
    | with_reducible apply State.setBit_keeps | with_reducible apply State.setFld_keeps
    | exact List.Subset.trans (by decide) hc | with_reducible apply State.Keeps.ite | split | dsimp only

theorem State.standbyOn_keeps {C : List Part} (hc : ([.regs, .bring] : List Part) ⊆ C) {s₀ s : State} (h :
    State.Keeps C s₀ s) : State.Keeps C s₀ (State.standbyOn s) := by
  unfold State.standbyOn
  repeat' first
    | with_reducible assumption | with_reducible apply State.Keeps.setReg | exact List.Subset.trans (by decide) hc
    | with_reducible apply State.Keeps.ite | split
    | (apply State.Keeps.ofFields; dsimp only; refine State.Keeps.setBring (hc (by decide)) (State.Keeps.toFields ?_))
    | dsimp only

theorem State.emptied_keeps {C : List Part} (hc : ([.regs, .time, .cleared, .latches, .clusters, .mcasts, .caddy,
    .hbm, .reqs, .arb, .seq, .fabric, .link, .can, .power, .thermal, .bring, .flash, .age, .lanes, .snap] : List
    Part) ⊆ C) {s₀ s : State} (h : State.Keeps C s₀ s) : State.Keeps C s₀ (State.emptied s) :=
  ⟨h.queue, fun _ => ⟨rfl, List.Pairwise.nil, rfl⟩,
    fun p n => by cases p <;> first | exact absurd (hc (by decide)) n | exact h.parts _ n⟩

theorem State.standbyOff_keeps {C : List Part} (hc : ([.regs, .time, .cleared, .latches, .clusters, .mcasts,
    .caddy, .hbm, .reqs, .arb, .seq, .fabric, .link, .can, .power, .thermal, .bring, .flash, .age, .lanes, .snap]
    : List Part) ⊆ C) {s₀ s : State} (h : State.Keeps C s₀ s) : State.Keeps C s₀ (State.standbyOff s) := by
  unfold State.standbyOff
  repeat' first
    | with_reducible assumption | with_reducible apply State.Keeps.setReg
    | with_reducible apply State.cutFlash_keeps | with_reducible apply State.emptied_keeps
    | exact List.Subset.trans (by decide) hc | with_reducible apply State.Keeps.ite | split | dsimp only

theorem State.inputBack_keeps {C : List Part} (hc : ([.regs, .time, .cleared, .latches, .clusters, .mcasts,
    .caddy, .hbm, .reqs, .arb, .seq, .fabric, .link, .can, .power, .thermal, .bring, .flash, .age, .lanes, .snap]
    : List Part) ⊆ C) {s₀ s : State} (h : State.Keeps C s₀ s) : State.Keeps C s₀ (State.inputBack s) := by
  unfold State.inputBack
  repeat' first
    | with_reducible assumption | with_reducible apply State.startNow_keeps | exact List.Subset.trans (by decide) hc
    | with_reducible apply State.Keeps.ite | split
    | (apply State.Keeps.ofFields; dsimp only; refine State.Keeps.setPower (hc (by decide)) (State.Keeps.setBring (hc (by decide)) (State.Keeps.toFields ?_)))
    | dsimp only

theorem State.modReset_keeps {C : List Part} (hc : ([.regs, .time, .clusters, .mcasts, .caddy, .hbm, .reqs, .arb,
    .seq, .fabric, .link, .can, .power, .bring, .flash, .lanes, .out] : List Part) ⊆ C) {s₀ s : State} (h :
    State.Keeps C s₀ s) : State.Keeps C s₀ (State.modReset s) := by
  unfold State.modReset
  repeat' first
    | with_reducible assumption | with_reducible apply State.cutFlash_keeps
    | with_reducible apply State.toStandby_keeps | exact List.Subset.trans (by decide) hc
    | with_reducible apply State.Keeps.ite | split | intro _
    | (apply State.Keeps.ofFields; dsimp only; refine State.Keeps.setBring (hc (by decide)) (State.Keeps.toFields ?_))
    | (apply State.Keeps.ofFields; dsimp only; refine State.Keeps.setCan (hc (by decide)) (State.Keeps.setBring (hc (by decide)) (State.Keeps.toFields ?_)))
    | (apply State.Keeps.ofFields; dsimp only; refine State.Keeps.setBring (hc (by decide)) (State.Keeps.setCan (hc (by decide)) (State.Keeps.toFields ?_)))
    | dsimp only

theorem State.modRelease_keeps {C : List Part} (hc : ([.regs, .time, .cleared, .latches, .clusters, .mcasts,
    .caddy, .hbm, .reqs, .arb, .seq, .fabric, .link, .can, .power, .thermal, .bring, .flash, .age, .lanes, .snap]
    : List Part) ⊆ C) {s₀ s : State} (h : State.Keeps C s₀ s) : State.Keeps C s₀ (State.modRelease s) := by
  unfold State.modRelease
  repeat' first
    | with_reducible assumption | with_reducible apply State.startNow_keeps | exact List.Subset.trans (by decide) hc
    | with_reducible apply State.Keeps.ite | split
    | (apply State.Keeps.ofFields; dsimp only; refine State.Keeps.setBring (hc (by decide)) (State.Keeps.toFields ?_))
    | dsimp only

theorem State.startCommand_keeps {C : List Part} (hc : ([.regs, .time, .cleared, .latches, .clusters, .mcasts,
    .caddy, .hbm, .reqs, .arb, .seq, .fabric, .link, .can, .power, .thermal, .bring, .flash, .age, .lanes, .snap]
    : List Part) ⊆ C) {s₀ s : State} (h : State.Keeps C s₀ s) (cold : Bool) : State.Keeps C s₀ (State.startCommand
    s cold) := by
  unfold State.startCommand
  repeat' first
    | with_reducible assumption | with_reducible apply State.startNow_keeps | exact List.Subset.trans (by decide) hc
    | with_reducible apply State.Keeps.ite | split
    | (apply State.Keeps.ofFields; dsimp only; refine State.Keeps.setBring (hc (by decide)) (State.Keeps.toFields ?_))
    | dsimp only

theorem State.waitedStart_keeps {C : List Part} (hc : ([.regs, .time, .cleared, .latches, .clusters, .mcasts,
    .caddy, .hbm, .reqs, .arb, .seq, .fabric, .link, .can, .power, .thermal, .bring, .flash, .age, .lanes, .snap]
    : List Part) ⊆ C) {s₀ s : State} (h : State.Keeps C s₀ s) : State.Keeps C s₀ (State.waitedStart s) := by
  unfold State.waitedStart
  repeat' first
    | with_reducible assumption | with_reducible apply State.startNow_keeps | exact List.Subset.trans (by decide) hc
    | with_reducible apply State.Keeps.ite | split | dsimp only
    | (apply State.Keeps.pair; (with_reducible assumption))

theorem State.storeAnswer_keeps {C : List Part} (hc : ([.regs, .can, .out] : List Part) ⊆ C) {s₀ s : State} (h :
    State.Keeps C s₀ s) (idx : Nat) : State.Keeps C s₀ (State.storeAnswer s idx) := by
  unfold State.storeAnswer
  repeat' first
    | with_reducible assumption | with_reducible apply State.canSend_keeps | exact List.Subset.trans (by decide) hc
    | with_reducible apply State.Keeps.ite | split
    | (apply State.Keeps.ofFields; dsimp only; refine State.Keeps.setCan (hc (by decide)) (State.Keeps.toFields ?_))
    | dsimp only

theorem State.storeDone_keeps {C : List Part} (hc : ([.regs, .time, .cleared, .latches, .clusters, .mcasts,
    .caddy, .hbm, .reqs, .arb, .seq, .fabric, .link, .can, .power, .thermal, .bring, .flash, .age, .lanes, .snap,
    .out, .free] : List Part) ⊆ C) {s₀ s : State} (h : State.Keeps C s₀ s) (flashOk : Bool) : State.Keeps C s₀
    (State.storeDone s flashOk) := by
  unfold State.storeDone
  repeat' first
    | with_reducible assumption | with_reducible apply State.areaAfter_keeps
    | with_reducible apply State.claimOver_keeps | with_reducible apply State.noteErr_keeps
    | with_reducible apply State.setBit_keeps | with_reducible apply State.setFld_keeps
    | with_reducible apply State.storeAnswer_keeps | with_reducible apply State.waitedStart_keeps
    | exact List.Subset.trans (by decide) hc | with_reducible apply State.Keeps.ite | split | dsimp only

theorem State.restoreOver_keeps {C : List Part} (hc : ([.regs, .time, .cleared, .latches, .clusters, .mcasts,
    .caddy, .hbm, .reqs, .arb, .seq, .fabric, .link, .can, .power, .thermal, .bring, .flash, .age, .lanes, .snap,
    .out, .free] : List Part) ⊆ C) {s₀ s : State} (h : State.Keeps C s₀ s) (flashOk : Bool) : State.Keeps C s₀
    (State.restoreOver s flashOk) := by
  unfold State.restoreOver
  repeat' first
    | with_reducible assumption | with_reducible apply State.areaAfter_keeps
    | with_reducible apply State.claimOver_keeps | with_reducible apply State.storeAnswer_keeps
    | with_reducible apply State.waitedStart_keeps | exact List.Subset.trans (by decide) hc
    | with_reducible apply State.Keeps.ite | split | dsimp only

theorem State.enterPhase'_keeps {C : List Part} (hc : ([.regs, .link, .can, .bring, .out] : List Part) ⊆ C) {s₀ s
    : State} (h : State.Keeps C s₀ s) (n : Nat) : State.Keeps C s₀ (State.enterPhase' s n) := by
  unfold State.enterPhase'
  repeat' first
    | with_reducible assumption | with_reducible apply State.enter_keeps | exact List.Subset.trans (by decide) hc
    | (apply State.Keeps.ofFields; dsimp only; refine State.Keeps.setBring (hc (by decide)) (State.Keeps.toFields ?_))
    | dsimp only

theorem State.numberNode_keeps {C : List Part} (hc : ([.regs] : List Part) ⊆ C) {s₀ s : State} (h : State.Keeps C
    s₀ s) (stored : Nat) : State.Keeps C s₀ (State.numberNode s stored) := by
  unfold State.numberNode
  repeat' first
    | with_reducible assumption | with_reducible apply State.setBit_keeps | with_reducible apply State.setFld_keeps
    | exact List.Subset.trans (by decide) hc | with_reducible apply State.Keeps.ite | split | dsimp only

theorem State.torusPort_keeps {C : List Part} (hc : ([.regs] : List Part) ⊆ C) {s₀ s : State} (h : State.Keeps C
    s₀ s) (port dim node : Nat) (dateline : Bool) : State.Keeps C s₀ (State.torusPort s port dim node dateline) := by
  unfold State.torusPort
  repeat' first
    | with_reducible assumption | with_reducible apply State.Keeps.setReg | exact List.Subset.trans (by decide) hc
    | dsimp only

theorem State.setRoutes_keeps {C : List Part} (hc : ([.fabric] : List Part) ⊆ C) {s₀ s : State} (h : State.Keeps C
    s₀ s) (rt : Tbl Word32) : State.Keeps C s₀ (State.setRoutes s rt) := by
  unfold State.setRoutes
  repeat' first
    | with_reducible assumption
    | (apply State.Keeps.ofFields; dsimp only; refine State.Keeps.setFabric (hc (by decide)) (State.Keeps.toFields ?_))
    | dsimp only

theorem State.buildTorus_keeps {C : List Part} (hc : ([.regs, .fabric] : List Part) ⊆ C) {s₀ s : State} (h :
    State.Keeps C s₀ s) : State.Keeps C s₀ (State.buildTorus s) := by
  unfold State.buildTorus
  split
  · exact h
  · exact State.setRoutes_keeps (List.Subset.trans (by decide) hc) (State.setFld_keeps (List.Subset.trans (by decide) hc) (State.Keeps.foldl (fun _ _ ht => State.torusPort_keeps (List.Subset.trans (by decide) hc) ht _ _ _ _) _ h) _ _ _ _ _) _

theorem State.drawBootId_keeps {C : List Part} (hc : ([.regs, .bring, .free] : List Part) ⊆ C) {s₀ s : State} (h :
    State.Keeps C s₀ s) : State.Keeps C s₀ (State.drawBootId s) := by
  unfold State.drawBootId
  repeat' first
    | with_reducible assumption | with_reducible apply State.Keeps.setReg
    | with_reducible apply State.drawFree_keeps | exact List.Subset.trans (by decide) hc
    | with_reducible apply State.Keeps.ite | split
    | (apply State.Keeps.ofFields; dsimp only; refine State.Keeps.setBring (hc (by decide)) (State.Keeps.toFields ?_))
    | dsimp only

theorem State.darkPorts_keeps {C : List Part} (hc : ([.regs, .fabric, .link, .can, .out] : List Part) ⊆ C) {s₀ s :
    State} (h : State.Keeps C s₀ s) : State.Keeps C s₀ (State.darkPorts s) := by
  unfold State.darkPorts
  repeat' first
    | with_reducible assumption | with_reducible apply State.setPortState_keeps
    | exact List.Subset.trans (by decide) hc | (with_reducible apply State.Keeps.foldl; intros)
    | with_reducible apply State.Keeps.ite | split | intro _ | dsimp only

theorem State.bootWork_keeps {C : List Part} (hc : ([.regs, .time, .caddy, .fabric, .link, .can, .bring, .flash,
    .age, .lanes, .out, .free] : List Part) ⊆ C) {s₀ s : State} (h : State.Keeps C s₀ s) : State.Keeps C s₀
    (State.bootWork s) := by
  unfold State.bootWork
  repeat' first
    | with_reducible assumption | with_reducible apply State.applyAge_keeps
    | with_reducible apply State.applyArea_keeps | with_reducible apply State.applyLanes_keeps
    | with_reducible apply State.buildTorus_keeps | with_reducible apply State.darkPorts_keeps
    | with_reducible apply State.drawBootId_keeps | with_reducible apply State.fillTokens_keeps
    | with_reducible apply State.ftSourceSet_keeps | with_reducible apply State.numberNode_keeps
    | with_reducible apply State.setFld_keeps | exact List.Subset.trans (by decide) hc
    | with_reducible apply State.Keeps.ite | split | dsimp only

theorem State.applyPot_keeps {C : List Part} (hc : ([.regs, .bring, .lanes] : List Part) ⊆ C) {s₀ s : State} (h :
    State.Keeps C s₀ s) (pot : Nat) : State.Keeps C s₀ (State.applyPot s pot) := by
  unfold State.applyPot
  repeat' first
    | with_reducible assumption | with_reducible apply State.forceLead_keeps | with_reducible apply State.lead_keeps
    | with_reducible apply State.setBit_keeps | with_reducible apply State.setFld_keeps
    | exact List.Subset.trans (by decide) hc | with_reducible apply State.Keeps.ite | split | dsimp only

theorem State.bootEnd_keeps {C : List Part} (hc : ([.regs, .time, .caddy, .fabric, .link, .can, .power, .bring,
    .flash, .age, .lanes, .out, .free] : List Part) ⊆ C) {s₀ s : State} (h : State.Keeps C s₀ s) : State.Keeps C
    s₀ (State.bootEnd s) := by
  unfold State.bootEnd
  repeat' first
    | with_reducible assumption | with_reducible apply State.applyPot_keeps
    | with_reducible apply State.bootWork_keeps | with_reducible apply State.enterPhase'_keeps
    | with_reducible apply State.fillTokens_keeps | exact List.Subset.trans (by decide) hc
    | with_reducible apply State.Keeps.ite | split
    | (apply State.Keeps.ofFields; dsimp only; refine State.Keeps.setPower (hc (by decide)) (State.Keeps.toFields ?_))
    | dsimp only

theorem State.leafFailed_keeps {C : List Part} (hc : ([.regs, .bring, .lanes] : List Part) ⊆ C) {s₀ s : State} (h
    : State.Keeps C s₀ s) (leaf : Nat) : State.Keeps C s₀ (State.leafFailed s leaf) := by
  unfold State.leafFailed
  repeat' first
    | with_reducible assumption | with_reducible apply State.forceLead_keeps
    | exact List.Subset.trans (by decide) hc | with_reducible apply State.Keeps.ite | split
    | (apply State.Keeps.ofFields; dsimp only; refine State.Keeps.setBring (hc (by decide)) (State.Keeps.toFields ?_))
    | dsimp only

theorem State.leafCheck_keeps {C : List Part} (hc : ([.regs, .bring, .lanes] : List Part) ⊆ C) {s₀ s : State} (h :
    State.Keeps C s₀ s) (ok : List Bool) : State.Keeps C s₀ (State.leafCheck s ok) := by
  unfold State.leafCheck
  repeat' first
    | with_reducible assumption | with_reducible apply State.fillTokens_keeps
    | with_reducible apply State.leafFailed_keeps | exact List.Subset.trans (by decide) hc
    | (with_reducible apply State.Keeps.foldl; intros) | with_reducible apply State.Keeps.ite | split | intro _
    | (apply State.Keeps.ofFields; dsimp only; refine State.Keeps.setBring (hc (by decide)) (State.Keeps.toFields ?_))
    | dsimp only

theorem State.wave_keeps {C : List Part} (hc : ([.bring] : List Part) ⊆ C) {s₀ s : State} (h : State.Keeps C s₀ s)
    (w : Nat) : State.Keeps C s₀ (State.wave s w) := by
  unfold State.wave
  repeat' first
    | with_reducible assumption | with_reducible apply State.Keeps.ite | split
    | (apply State.Keeps.ofFields; dsimp only; refine State.Keeps.setBring (hc (by decide)) (State.Keeps.toFields ?_))
    | dsimp only

theorem State.portsTrain_keeps {C : List Part} (hc : ([.regs, .fabric, .link, .can, .out] : List Part) ⊆ C) {s₀ s
    : State} (h : State.Keeps C s₀ s) : State.Keeps C s₀ (State.portsTrain s) := by
  unfold State.portsTrain
  repeat' first
    | with_reducible assumption | with_reducible apply State.setPortState_keeps
    | exact List.Subset.trans (by decide) hc | (with_reducible apply State.Keeps.foldl; intros)
    | with_reducible apply State.Keeps.ite | split | intro _ | dsimp only

theorem State.poweringEnd_keeps {C : List Part} (hc : ([.regs, .fabric, .link, .can, .bring, .out] : List Part) ⊆
    C) {s₀ s : State} (h : State.Keeps C s₀ s) : State.Keeps C s₀ (State.poweringEnd s) := by
  unfold State.poweringEnd
  repeat' first
    | with_reducible assumption | with_reducible apply State.enterPhase'_keeps
    | with_reducible apply State.portsTrain_keeps | exact List.Subset.trans (by decide) hc
    | with_reducible apply State.Keeps.ite | split | dsimp only

theorem State.trainingEnd_keeps {C : List Part} (hc : ([.regs, .hbm, .link, .can, .bring, .out] : List Part) ⊆ C)
    {s₀ s : State} (h : State.Keeps C s₀ s) (trained : BitVec 8) : State.Keeps C s₀ (State.trainingEnd s trained) := by
  unfold State.trainingEnd
  split
  · exact h
  · refine State.enterPhase'_keeps (List.Subset.trans (by decide) hc) ?_ _
    refine State.Keeps.ofFields (State.Keeps.setHbmMem (hc (by decide)) h.toFields fun k => ?_)
    dsimp only
    split
    · exact ⟨rfl, List.Pairwise.nil⟩
    · exact k

theorem State.marchRow_keeps {C : List Part} (hc : ([.regs, .clusters, .caddy, .hbm, .reqs, .seq, .link, .can,
    .flash, .lanes, .out] : List Part) ⊆ C) {s₀ s : State} (h : State.Keeps C s₀ s) (cad : Nat) (row : Nat × Nat ×
    Nat) : State.Keeps C s₀ (State.marchRow s cad row) := by
  unfold State.marchRow
  repeat' first
    | with_reducible assumption | with_reducible apply State.repairRow_keeps
    | with_reducible apply State.retire_keeps | exact List.Subset.trans (by decide) hc
    | with_reducible apply State.Keeps.ite | split | dsimp only
    | (apply State.Keeps.pair; (with_reducible assumption))

theorem State.march_keeps {C : List Part} (hc : ([.regs, .clusters, .mcasts, .caddy, .hbm, .reqs, .seq, .fabric,
    .link, .can, .bring, .flash, .lanes, .snap, .out] : List Part) ⊆ C) {s₀ s : State} (h : State.Keeps C s₀ s)
    (cad : Nat) (responds : Bool) (failing : List (Nat × Nat × Nat)) : State.Keeps C s₀ (State.march s cad
    responds failing) := by
  unfold State.march
  repeat' first
    | with_reducible assumption | with_reducible apply State.enterFaulted_keeps
    | with_reducible apply State.marchRow_keeps | exact List.Subset.trans (by decide) hc
    | (with_reducible apply State.Keeps.foldl; intros) | with_reducible apply State.Keeps.ite | split | intro _
    | (apply State.Keeps.ofFields; dsimp only; refine State.Keeps.setBring (hc (by decide)) (State.Keeps.toFields ?_))
    | dsimp only

theorem State.katDone_keeps {C : List Part} (hc : ([.regs, .bring] : List Part) ⊆ C) {s₀ s : State} (h :
    State.Keeps C s₀ s) (cl : Nat) (firstFail : Option Nat) : State.Keeps C s₀ (State.katDone s cl firstFail) := by
  unfold State.katDone
  repeat' first
    | with_reducible assumption | with_reducible apply State.Keeps.setReg | exact List.Subset.trans (by decide) hc
    | with_reducible apply State.Keeps.ite | split
    | (apply State.Keeps.ofFields; dsimp only; refine State.Keeps.setBring (hc (by decide)) (State.Keeps.toFields ?_))
    | dsimp only | (apply State.Keeps.pair; (with_reducible assumption))

theorem State.setPresence_keeps {C : List Part} (hc : ([.regs] : List Part) ⊆ C) {s₀ s : State} (h : State.Keeps C
    s₀ s) : State.Keeps C s₀ (State.setPresence s) := by
  unfold State.setPresence
  repeat' first
    | with_reducible assumption | with_reducible apply State.Keeps.setReg | exact List.Subset.trans (by decide) hc
    | (with_reducible apply State.Keeps.foldl; intros) | intro _ | dsimp only

theorem State.checkingEnd_keeps {C : List Part} (hc : ([.regs, .seq, .link, .can, .bring, .out] : List Part) ⊆ C)
    {s₀ s : State} (h : State.Keeps C s₀ s) : State.Keeps C s₀ (State.checkingEnd s) := by
  unfold State.checkingEnd
  repeat' first
    | with_reducible assumption | with_reducible apply State.enterPhase'_keeps
    | with_reducible apply State.seedLanes_keeps | with_reducible apply State.setFld_keeps
    | with_reducible apply State.setPresence_keeps | exact List.Subset.trans (by decide) hc
    | (with_reducible apply State.Keeps.foldl; intros) | with_reducible apply State.Keeps.ite | split | intro _
    | dsimp only

theorem State.converterFailed_keeps {C : List Part} (hc : ([.regs, .clusters, .mcasts, .caddy, .hbm, .reqs, .seq,
    .fabric, .link, .can, .bring, .snap, .out] : List Part) ⊆ C) {s₀ s : State} (h : State.Keeps C s₀ s) :
    State.Keeps C s₀ (State.converterFailed s) := by
  unfold State.converterFailed
  repeat' first
    | with_reducible assumption | with_reducible apply State.enterFaulted_keeps
    | exact List.Subset.trans (by decide) hc | with_reducible apply State.Keeps.ite | split
    | (apply State.Keeps.ofFields; dsimp only; refine State.Keeps.setBring (hc (by decide)) (State.Keeps.toFields ?_))
    | dsimp only

end Sys2Proof.Machine
end

