-- ==== Sys2Proof/Laws/KeepsAccess.lean ====
section
/-! SUPPORT. What the operations of the dictionary, the host link and the clock keep. -/

namespace Sys2Proof.Machine

theorem State.setLatch_keeps {C : List Part} (hc : ([.latches] : List Part) ⊆ C) {s₀ s : State} (h : State.Keeps C
    s₀ s) (p : Path) (l : Latches) : State.Keeps C s₀ (State.setLatch s p l) := by
  unfold State.setLatch
  repeat' first
    | with_reducible assumption | split
    | (apply State.Keeps.ofFields; dsimp only; refine State.Keeps.setLatchP (hc (by decide)) (State.Keeps.toFields ?_))
    | (apply State.Keeps.ofFields; dsimp only; refine State.Keeps.setLatchC (hc (by decide)) (State.Keeps.toFields ?_))
    | (apply State.Keeps.ofFields; dsimp only; refine State.Keeps.setLatchF (hc (by decide)) (State.Keeps.toFields ?_))
    | (apply State.Keeps.ofFields; dsimp only; refine State.Keeps.setLatchF (hc (by decide)) (State.Keeps.setLatchC (hc (by decide)) (State.Keeps.setLatchP (hc (by decide)) (State.Keeps.toFields ?_))))
    | dsimp only | (apply State.Keeps.pair; (with_reducible assumption))

theorem State.readLatch_keeps {C : List Part} (hc : ([.regs, .latches, .clusters, .seq] : List Part) ⊆ C) {s₀ s :
    State} (h : State.Keeps C s₀ s) (p : Path) (idx sub : Nat) : State.Keeps C s₀ (State.readLatch s p idx sub) := by
  unfold State.readLatch
  repeat' first
    | with_reducible assumption | with_reducible apply State.put_keeps | with_reducible apply State.setLatch_keeps
    | exact List.Subset.trans (by decide) hc | with_reducible apply State.Keeps.ite | split | dsimp only

theorem State.entryRead_keeps {C : List Part} (hc : ([.regs, .latches, .clusters, .seq] : List Part) ⊆ C) {s₀ s :
    State} (h : State.Keeps C s₀ s) (p : Path) (idx sub : Nat) : State.Keeps C s₀ (State.entryRead s p idx sub).1 := by
  unfold State.entryRead
  repeat' first
    | with_reducible assumption | with_reducible apply State.readLatch_keeps
    | exact List.Subset.trans (by decide) hc | with_reducible apply State.Keeps.ite
    | with_reducible apply State.Keeps.iteFst | split | dsimp only
    | (apply State.Keeps.pair; (with_reducible assumption))

theorem State.unless_keeps {C : List Part} (hc : ([] : List Part) ⊆ C) {s₀ s : State} (h : State.Keeps C s₀ s)
    (bad : Bool) (st : Status) (f : State → State) (hf : ∀ {u : State} (a0 : State), State.Keeps C u a0 →
    State.Keeps C u (f a0)) : State.Keeps C s₀ (State.unless s bad st f).1 := by
  unfold State.unless
  repeat' first
    | with_reducible assumption | with_reducible apply hf | with_reducible apply State.Keeps.ite
    | with_reducible apply State.Keeps.iteFst | split | intro _ | dsimp only

theorem State.flashCommand_keeps {C : List Part} (hc : ([.can] : List Part) ⊆ C) {s₀ s : State} (h : State.Keeps C
    s₀ s) (via : Via) (begins : State → State) (hbegins : ∀ {u : State} (a0 : State), State.Keeps C u a0 →
    State.Keeps C u (begins a0)) : State.Keeps C s₀ (State.flashCommand s via begins).1 := by
  unfold State.flashCommand
  repeat' first
    | with_reducible assumption | with_reducible apply hbegins | with_reducible apply State.unless_keeps
    | exact List.Subset.trans (by decide) hc | with_reducible apply State.Keeps.ite
    | with_reducible apply State.Keeps.iteFst | split | intro _
    | (apply State.Keeps.ofFields; dsimp only; refine State.Keeps.setCan (hc (by decide)) (State.Keeps.toFields ?_))
    | dsimp only

theorem State.writeLow_keeps {C : List Part} (hc : ([.regs, .latches, .can, .flash] : List Part) ⊆ C) {s₀ s :
    State} (h : State.Keeps C s₀ s) (via : Via) (idx sub : Nat) (v nv : Word64) : State.Keeps C s₀ (State.writeLow
    s via idx sub v nv).1 := by
  unfold State.writeLow
  repeat' first
    | with_reducible assumption | with_reducible apply State.Keeps.setReg
    | with_reducible apply State.flashCommand_keeps | with_reducible apply State.noteErr_keeps
    | with_reducible apply State.restoreBegin_keeps | with_reducible apply State.setLatch_keeps
    | with_reducible apply State.storeBegin_keeps | exact List.Subset.trans (by decide) hc
    | with_reducible apply State.Keeps.ite | with_reducible apply State.Keeps.iteFst | split | intro _ | dsimp only

theorem State.writeWays_keeps {C : List Part} (hc : ([.regs] : List Part) ⊆ C) {s₀ s : State} (h : State.Keeps C
    s₀ s) (nv : Word64) : State.Keeps C s₀ (State.writeWays s nv).1 := by
  unfold State.writeWays
  repeat' first
    | with_reducible assumption | with_reducible apply State.setWays_keeps | with_reducible apply State.unless_keeps
    | exact List.Subset.trans (by decide) hc | intro _ | dsimp only

theorem State.clearCadLogs_keeps {C : List Part} (hc : ([.regs] : List Part) ⊆ C) {s₀ s : State} (h : State.Keeps
    C s₀ s) : State.Keeps C s₀ (State.clearCadLogs s) := by
  unfold State.clearCadLogs
  repeat' first
    | with_reducible assumption | with_reducible apply State.setBit_keeps | exact List.Subset.trans (by decide) hc
    | with_reducible apply State.Keeps.ite | split | dsimp only

theorem State.pinCommand_keeps {C : List Part} (hc : ([.regs, .caddy, .seq] : List Part) ⊆ C) {s₀ s : State} (h :
    State.Keeps C s₀ s) (v : Word64) : State.Keeps C s₀ (State.pinCommand s v) := by
  unfold State.pinCommand
  repeat' first
    | with_reducible assumption | with_reducible apply State.pinBegin_keeps
    | with_reducible apply State.unpinBegin_keeps | exact List.Subset.trans (by decide) hc
    | with_reducible apply State.Keeps.ite | split | dsimp only

theorem State.writeCaddy_keeps {C : List Part} (hc : ([.regs, .caddy, .hbm, .reqs, .arb, .seq, .can] : List Part)
    ⊆ C) {s₀ s : State} (h : State.Keeps C s₀ s) (idx sub : Nat) (v nv : Word64) : State.Keeps C s₀
    (State.writeCaddy s idx sub v nv).1 := by
  unfold State.writeCaddy
  repeat' first
    | with_reducible assumption | with_reducible apply State.Keeps.setReg
    | with_reducible apply State.clearCadLogs_keeps | with_reducible apply State.clearCredits_keeps
    | with_reducible apply State.flush_keeps | with_reducible apply State.noteErr_keeps
    | with_reducible apply State.pinCommand_keeps | with_reducible apply State.placeRegions_keeps
    | with_reducible apply State.setBit_keeps | with_reducible apply State.unless_keeps
    | with_reducible apply State.writeWays_keeps | exact List.Subset.trans (by decide) hc
    | with_reducible apply State.Keeps.ite | with_reducible apply State.Keeps.iteFst | split | intro _
    | (apply State.Keeps.ofFields; dsimp only; refine State.Keeps.setCaddy (hc (by decide)) (State.Keeps.toFields ?_))
    | dsimp only

theorem State.writeRing_keeps {C : List Part} (hc : ([.regs, .reqs, .seq, .fabric, .link, .can, .out] : List Part)
    ⊆ C) {s₀ s : State} (h : State.Keeps C s₀ s) (c r sub : Nat) (nv : Word64) : State.Keeps C s₀ (State.writeRing
    s c r sub nv).1 := by
  unfold State.writeRing
  repeat' first
    | with_reducible assumption | with_reducible apply State.Keeps.setReg
    | with_reducible apply State.ringStart_keeps | with_reducible apply State.unless_keeps
    | exact List.Subset.trans (by decide) hc | with_reducible apply State.Keeps.ite
    | with_reducible apply State.Keeps.iteFst | split | intro _ | dsimp only

theorem State.writeCq_keeps {C : List Part} (hc : ([.regs, .reqs, .seq, .fabric, .link, .can, .out] : List Part) ⊆
    C) {s₀ s : State} (h : State.Keeps C s₀ s) (c sub : Nat) (nv : Word64) : State.Keeps C s₀ (State.writeCq s c
    sub nv).1 := by
  unfold State.writeCq
  repeat' first
    | with_reducible assumption | with_reducible apply State.Keeps.setReg | with_reducible apply State.cqStart_keeps
    | with_reducible apply State.unless_keeps | exact List.Subset.trans (by decide) hc
    | with_reducible apply State.Keeps.ite | with_reducible apply State.Keeps.iteFst | split | intro _ | dsimp only

theorem State.writeCtx_keeps {C : List Part} (hc : ([.regs, .clusters, .mcasts, .caddy, .reqs, .seq, .fabric,
    .link, .can, .snap, .out] : List Part) ⊆ C) {s₀ s : State} (h : State.Keeps C s₀ s) (c : Nat) (v : Word64) :
    State.Keeps C s₀ (State.writeCtx s c v).1 := by
  unfold State.writeCtx
  repeat' first
    | with_reducible assumption | with_reducible apply State.ctxCommand_keeps
    | exact List.Subset.trans (by decide) hc | split | dsimp only
    | (apply State.Keeps.pair; (with_reducible assumption))

theorem State.writeSeed_keeps {C : List Part} (hc : ([.regs, .seq] : List Part) ⊆ C) {s₀ s : State} (h :
    State.Keeps C s₀ s) (c : Nat) (v : Word64) : State.Keeps C s₀ (State.writeSeed s c v).1 := by
  unfold State.writeSeed
  repeat' first
    | with_reducible assumption | with_reducible apply State.Keeps.setReg
    | with_reducible apply State.seedLanes_keeps | with_reducible apply State.setCtx_keeps
    | with_reducible apply State.unless_keeps | exact List.Subset.trans (by decide) hc | intro _ | dsimp only

theorem State.writeCompute_keeps {C : List Part} (hc : ([.regs, .time, .clusters, .mcasts, .caddy, .reqs, .seq,
    .fabric, .link, .can, .snap, .out] : List Part) ⊆ C) {s₀ s : State} (h : State.Keeps C s₀ s) (idx sub : Nat)
    (v nv : Word64) : State.Keeps C s₀ (State.writeCompute s idx sub v nv).1 := by
  unfold State.writeCompute
  repeat' first
    | with_reducible assumption | with_reducible apply State.Keeps.setReg
    | with_reducible apply State.ftSourceSet_keeps | with_reducible apply State.selectMasters_keeps
    | with_reducible apply State.unless_keeps | with_reducible apply State.writeCq_keeps
    | with_reducible apply State.writeCtx_keeps | with_reducible apply State.writeRing_keeps
    | with_reducible apply State.writeSeed_keeps | exact List.Subset.trans (by decide) hc
    | with_reducible apply State.Keeps.ite | with_reducible apply State.Keeps.iteFst | split | intro _
    | (apply State.Keeps.ofFields; dsimp only; refine State.Keeps.setTime (hc (by decide)) (State.Keeps.toFields ?_))
    | dsimp only

theorem State.writePort_keeps {C : List Part} (hc : ([.regs, .clusters, .mcasts, .caddy, .reqs, .seq, .fabric,
    .link, .can, .snap, .out] : List Part) ⊆ C) {s₀ s : State} (h : State.Keeps C s₀ s) (i : Nat) (nv : Word64) :
    State.Keeps C s₀ (State.writePort s i nv) := by
  unfold State.writePort
  repeat' first
    | with_reducible assumption | with_reducible apply State.Keeps.setReg
    | with_reducible apply State.linkDown_keeps | with_reducible apply State.portRise_keeps
    | with_reducible apply State.setPortState_keeps | with_reducible apply State.settle_keeps
    | exact List.Subset.trans (by decide) hc | with_reducible apply State.Keeps.ite | split | dsimp only

theorem State.writeNode_keeps {C : List Part} (hc : ([.regs] : List Part) ⊆ C) {s₀ s : State} (h : State.Keeps C
    s₀ s) (nv : Word64) : State.Keeps C s₀ (State.writeNode s nv).1 := by
  unfold State.writeNode
  repeat' first
    | with_reducible assumption | with_reducible apply State.Keeps.setReg | with_reducible apply State.setBit_keeps
    | with_reducible apply State.unless_keeps | exact List.Subset.trans (by decide) hc | intro _ | dsimp only

theorem State.writeMq_keeps {C : List Part} (hc : ([.regs, .clusters, .seq, .fabric, .link, .can, .out] : List
    Part) ⊆ C) {s₀ s : State} (h : State.Keeps C s₀ s) (rx : Bool) (q : Nat) (v nv : Word64) : State.Keeps C s₀
    (State.writeMq s rx q v nv).1 := by
  unfold State.writeMq
  repeat' first
    | with_reducible assumption | with_reducible apply State.Keeps.setReg | with_reducible apply State.mqFlush_keeps
    | with_reducible apply State.unless_keeps | exact List.Subset.trans (by decide) hc
    | with_reducible apply State.Keeps.ite | with_reducible apply State.Keeps.iteFst | split | intro _ | dsimp only

theorem State.writeFabric_keeps {C : List Part} (hc : ([.regs, .clusters, .mcasts, .caddy, .reqs, .seq, .fabric,
    .link, .can, .snap, .out] : List Part) ⊆ C) {s₀ s : State} (h : State.Keeps C s₀ s) (idx sub : Nat) (v nv :
    Word64) : State.Keeps C s₀ (State.writeFabric s idx sub v nv).1 := by
  unfold State.writeFabric
  repeat' first
    | with_reducible assumption | with_reducible apply State.Keeps.setReg | with_reducible apply State.writeMq_keeps
    | with_reducible apply State.writeNode_keeps | with_reducible apply State.writePort_keeps
    | with_reducible apply State.writeRt_keeps | exact List.Subset.trans (by decide) hc
    | with_reducible apply State.Keeps.ite | with_reducible apply State.Keeps.iteFst | split | dsimp only

theorem State.writeSnap_keeps {C : List Part} (hc : ([.regs, .latches, .snap, .out] : List Part) ⊆ C) {s₀ s :
    State} (h : State.Keeps C s₀ s) (p : Path) (v nv : Word64) : State.Keeps C s₀ (State.writeSnap s p v nv).1 := by
  unfold State.writeSnap
  repeat' first
    | with_reducible assumption | with_reducible apply State.Keeps.setReg | with_reducible apply State.setBit_keeps
    | with_reducible apply State.setLatch_keeps | with_reducible apply State.snapTrigger_keeps
    | with_reducible apply State.unless_keeps | exact List.Subset.trans (by decide) hc
    | with_reducible apply State.Keeps.ite | with_reducible apply State.Keeps.iteFst | split | intro _ | dsimp only

theorem State.writeSvn_keeps {C : List Part} (hc : ([.flash] : List Part) ⊆ C) {s₀ s : State} (h : State.Keeps C
    s₀ s) (v : Word64) : State.Keeps C s₀ (State.writeSvn s v).1 := by
  unfold State.writeSvn
  repeat' first
    | with_reducible assumption | with_reducible apply State.unless_keeps | exact List.Subset.trans (by decide) hc
    | with_reducible apply State.Keeps.ite | with_reducible apply State.Keeps.iteFst | split | intro _
    | (apply State.Keeps.ofFields; dsimp only; refine State.Keeps.setFlash (hc (by decide)) (State.Keeps.toFields ?_))
    | dsimp only

theorem State.writeBring_keeps {C : List Part} (hc : ([.regs, .time, .cleared, .latches, .clusters, .mcasts,
    .caddy, .hbm, .reqs, .arb, .seq, .fabric, .link, .can, .power, .thermal, .bring, .flash, .age, .lanes, .snap,
    .out] : List Part) ⊆ C) {s₀ s : State} (h : State.Keeps C s₀ s) (p : Path) (idx sub : Nat) (v nv : Word64) :
    State.Keeps C s₀ (State.writeBring s p idx sub v nv).1 := by
  unfold State.writeBring
  repeat' first
    | with_reducible assumption | with_reducible apply State.Keeps.setReg
    | with_reducible apply State.startCommand_keeps | with_reducible apply State.unless_keeps
    | with_reducible apply State.writeSnap_keeps | with_reducible apply State.writeSvn_keeps
    | exact List.Subset.trans (by decide) hc | with_reducible apply State.Keeps.ite
    | with_reducible apply State.Keeps.iteFst | split | intro _
    | (apply State.Keeps.ofFields; dsimp only; refine State.Keeps.setAge (hc (by decide)) (State.Keeps.toFields ?_))
    | dsimp only

theorem State.writeEffect_keeps {C : List Part} (hc : ([.regs, .time, .cleared, .latches, .clusters, .mcasts,
    .caddy, .hbm, .reqs, .arb, .seq, .fabric, .link, .can, .power, .thermal, .bring, .flash, .age, .lanes, .snap,
    .out] : List Part) ⊆ C) {s₀ s : State} (h : State.Keeps C s₀ s) (via : Via) (idx sub : Nat) (v nv : Word64) :
    State.Keeps C s₀ (State.writeEffect s via idx sub v nv).1 := by
  unfold State.writeEffect
  repeat' first
    | with_reducible assumption | with_reducible apply State.writeBring_keeps
    | with_reducible apply State.writeCaddy_keeps | with_reducible apply State.writeCompute_keeps
    | with_reducible apply State.writeFabric_keeps | with_reducible apply State.writeLow_keeps
    | exact List.Subset.trans (by decide) hc | with_reducible apply State.Keeps.ite
    | with_reducible apply State.Keeps.iteFst | split | dsimp only

theorem State.entryWrite_keeps {C : List Part} (hc : ([.regs, .time, .cleared, .latches, .clusters, .mcasts,
    .caddy, .hbm, .reqs, .arb, .seq, .fabric, .link, .can, .power, .thermal, .bring, .flash, .age, .lanes, .snap,
    .out] : List Part) ⊆ C) {s₀ s : State} (h : State.Keeps C s₀ s) (via : Via) (idx sub : Nat) (v : Word64) :
    State.Keeps C s₀ (State.entryWrite s via idx sub v).1 := by
  unfold State.entryWrite
  repeat' first
    | with_reducible assumption | with_reducible apply State.noteClear_keeps
    | with_reducible apply State.writeEffect_keeps | exact List.Subset.trans (by decide) hc
    | with_reducible apply State.Keeps.ite | with_reducible apply State.Keeps.iteFst | split | dsimp only
    | (apply State.Keeps.pair; (with_reducible assumption))

theorem State.setAccStat_keeps {C : List Part} (hc : ([.regs] : List Part) ⊆ C) {s₀ s : State} (h : State.Keeps C
    s₀ s) (st : Status) : State.Keeps C s₀ (State.setAccStat s st) := by
  unfold State.setAccStat
  repeat' first
    | with_reducible assumption | with_reducible apply State.Keeps.setReg | exact List.Subset.trans (by decide) hc
    | dsimp only

theorem State.flushVector_keeps {C : List Part} (hc : ([.link, .out] : List Part) ⊆ C) {s₀ s : State} (h :
    State.Keeps C s₀ s) (vec : Nat) : State.Keeps C s₀ (State.flushVector s vec) := by
  unfold State.flushVector
  repeat' first
    | with_reducible assumption | with_reducible apply State.emit_keeps | exact List.Subset.trans (by decide) hc
    | with_reducible apply State.Keeps.ite | split
    | (apply State.Keeps.ofFields; dsimp only; refine State.Keeps.setLink (hc (by decide)) (State.Keeps.toFields ?_))
    | dsimp only

theorem State.setMsix_keeps {C : List Part} (hc : ([.regs, .clusters, .seq, .link, .out] : List Part) ⊆ C) {s₀ s :
    State} (h : State.Keeps C s₀ s) (k : Nat) (v : Word32) : State.Keeps C s₀ (State.setMsix s k v) := by
  unfold State.setMsix
  repeat' first
    | with_reducible assumption | with_reducible apply State.flushVector_keeps
    | with_reducible apply State.put_keeps | exact List.Subset.trans (by decide) hc
    | with_reducible apply State.Keeps.ite | split
    | (apply State.Keeps.ofFields; dsimp only; refine State.Keeps.setLink (hc (by decide)) (State.Keeps.toFields ?_))
    | dsimp only

theorem State.msixWrite_keeps {C : List Part} (hc : ([.regs, .clusters, .seq, .link, .out] : List Part) ⊆ C) {s₀ s
    : State} (h : State.Keeps C s₀ s) (idx sub size : Nat) (v : Word64) : State.Keeps C s₀ (State.msixWrite s idx
    sub size v) := by
  unfold State.msixWrite
  repeat' first
    | with_reducible assumption | with_reducible apply State.setMsix_keeps | exact List.Subset.trans (by decide) hc
    | with_reducible apply State.Keeps.ite | split | dsimp only

theorem State.bar0Write_keeps {C : List Part} (hc : ([.regs, .time, .cleared, .latches, .clusters, .mcasts,
    .caddy, .hbm, .reqs, .arb, .seq, .fabric, .link, .can, .power, .thermal, .bring, .flash, .age, .lanes, .snap,
    .out] : List Part) ⊆ C) {s₀ s : State} (h : State.Keeps C s₀ s) (idx sub size : Nat) (v : Word64) (poisoned :
    Bool) : State.Keeps C s₀ (State.bar0Write s idx sub size v poisoned) := by
  unfold State.bar0Write
  repeat' first
    | with_reducible assumption | with_reducible apply State.Keeps.setReg
    | with_reducible apply State.entryWrite_keeps | with_reducible apply State.msixWrite_keeps
    | with_reducible apply State.poisonedTlp_keeps | with_reducible apply State.setAccStat_keeps
    | exact List.Subset.trans (by decide) hc | with_reducible apply State.Keeps.ite | split | dsimp only
    | (apply State.Keeps.pair; (with_reducible assumption))

theorem State.bar0Refuse_keeps {C : List Part} (hc : ([.regs, .out] : List Part) ⊆ C) {s₀ s : State} (h :
    State.Keeps C s₀ s) : State.Keeps C s₀ (State.bar0Refuse s) := by
  unfold State.bar0Refuse
  repeat' first
    | with_reducible assumption | with_reducible apply State.count_keeps | with_reducible apply State.emit_keeps
    | exact List.Subset.trans (by decide) hc | dsimp only

theorem State.bar0Read_keeps {C : List Part} (hc : ([.regs, .latches, .clusters, .seq, .out] : List Part) ⊆ C) {s₀
    s : State} (h : State.Keeps C s₀ s) (idx sub size : Nat) : State.Keeps C s₀ (State.bar0Read s idx sub size) := by
  unfold State.bar0Read
  repeat' first
    | with_reducible assumption | with_reducible apply State.Keeps.setReg
    | with_reducible apply State.bar0Refuse_keeps | with_reducible apply State.emit_keeps
    | with_reducible apply State.entryRead_keeps | with_reducible apply State.setAccStat_keeps
    | exact List.Subset.trans (by decide) hc | with_reducible apply State.Keeps.ite | split | dsimp only
    | (apply State.Keeps.pair; (with_reducible assumption))

theorem State.mctpReply_keeps {C : List Part} (hc : ([.out] : List Part) ⊆ C) {s₀ s : State} (h : State.Keeps C s₀
    s) (st : Status) (v : Word64) : State.Keeps C s₀ (State.mctpReply s st v) := by
  unfold State.mctpReply
  repeat' first
    | with_reducible assumption | with_reducible apply State.emit_keeps | exact List.Subset.trans (by decide) hc
    | with_reducible apply State.Keeps.ite | split | dsimp only

theorem State.mctpWrite_keeps {C : List Part} (hc : ([.regs, .time, .cleared, .latches, .clusters, .mcasts,
    .caddy, .hbm, .reqs, .arb, .seq, .fabric, .link, .can, .power, .thermal, .bring, .flash, .age, .lanes, .snap,
    .out] : List Part) ⊆ C) {s₀ s : State} (h : State.Keeps C s₀ s) (idx sub : Nat) (v : Word64) : State.Keeps C
    s₀ (State.mctpWrite s idx sub v) := by
  unfold State.mctpWrite
  repeat' first
    | with_reducible assumption | with_reducible apply State.entryWrite_keeps
    | with_reducible apply State.mctpReply_keeps | exact List.Subset.trans (by decide) hc
    | with_reducible apply State.Keeps.ite | split | dsimp only
    | (apply State.Keeps.pair; (with_reducible assumption))

theorem State.mctpRead_keeps {C : List Part} (hc : ([.regs, .latches, .clusters, .seq, .out] : List Part) ⊆ C) {s₀
    s : State} (h : State.Keeps C s₀ s) (idx sub : Nat) : State.Keeps C s₀ (State.mctpRead s idx sub) := by
  unfold State.mctpRead
  repeat' first
    | with_reducible assumption | with_reducible apply State.entryRead_keeps
    | with_reducible apply State.mctpReply_keeps | exact List.Subset.trans (by decide) hc
    | with_reducible apply State.Keeps.ite | split | dsimp only
    | (apply State.Keeps.pair; (with_reducible assumption))

theorem State.sdoSend_keeps {C : List Part} (hc : ([.regs, .out] : List Part) ⊆ C) {s₀ s : State} (h : State.Keeps
    C s₀ s) (cmd idx sub size : Nat) (v : Word64) : State.Keeps C s₀ (State.sdoSend s cmd idx sub size v) := by
  unfold State.sdoSend
  repeat' first
    | with_reducible assumption | with_reducible apply State.canSend_keeps | exact List.Subset.trans (by decide) hc
    | dsimp only

theorem State.sdoFrame_keeps {C : List Part} (hc : ([.regs, .reqs, .fabric, .link, .can, .out] : List Part) ⊆ C)
    {s₀ s : State} (h : State.Keeps C s₀ s) (form : CanForm) (f : State → State) (hf : ∀ {u : State} (a0 : State),
    State.Keeps C u a0 → State.Keeps C u (f a0)) : State.Keeps C s₀ (State.sdoFrame s form f) := by
  unfold State.sdoFrame
  repeat' first
    | with_reducible assumption | with_reducible apply hf | with_reducible apply State.canDiscard_keeps
    | with_reducible apply State.request_keeps | exact List.Subset.trans (by decide) hc
    | with_reducible apply State.Keeps.ite | split | intro _ | dsimp only

theorem State.sdoAbort_keeps {C : List Part} (hc : ([.regs, .out] : List Part) ⊆ C) {s₀ s : State} (h :
    State.Keeps C s₀ s) (idx sub : Nat) (st : Status) : State.Keeps C s₀ (State.sdoAbort s idx sub st) := by
  unfold State.sdoAbort
  repeat' first
    | with_reducible assumption | with_reducible apply State.count_keeps | with_reducible apply State.sdoSend_keeps
    | exact List.Subset.trans (by decide) hc | dsimp only

theorem State.sdoWrite_keeps {C : List Part} (hc : ([.regs, .time, .cleared, .latches, .clusters, .mcasts, .caddy,
    .hbm, .reqs, .arb, .seq, .fabric, .link, .can, .power, .thermal, .bring, .flash, .age, .lanes, .snap, .out] :
    List Part) ⊆ C) {s₀ s : State} (h : State.Keeps C s₀ s) (idx sub size : Nat) (v : Word64) : State.Keeps C s₀
    (State.sdoWrite s idx sub size v) := by
  unfold State.sdoWrite
  repeat' first
    | with_reducible assumption | with_reducible apply State.canAccept_keeps
    | with_reducible apply State.entryWrite_keeps | with_reducible apply State.sdoAbort_keeps
    | with_reducible apply State.sdoSend_keeps | exact List.Subset.trans (by decide) hc
    | with_reducible apply State.Keeps.ite | split | dsimp only
    | (apply State.Keeps.pair; (with_reducible assumption))

theorem State.sdoRead_keeps {C : List Part} (hc : ([.regs, .latches, .clusters, .seq, .out] : List Part) ⊆ C) {s₀
    s : State} (h : State.Keeps C s₀ s) (idx sub : Nat) : State.Keeps C s₀ (State.sdoRead s idx sub) := by
  unfold State.sdoRead
  repeat' first
    | with_reducible assumption | with_reducible apply State.canAccept_keeps
    | with_reducible apply State.entryRead_keeps | with_reducible apply State.sdoAbort_keeps
    | with_reducible apply State.sdoSend_keeps | exact List.Subset.trans (by decide) hc
    | with_reducible apply State.Keeps.ite | split | dsimp only
    | (apply State.Keeps.pair; (with_reducible assumption))

theorem State.dictWrite_keeps {C : List Part} (hc : ([.regs, .time, .cleared, .latches, .clusters, .mcasts,
    .caddy, .hbm, .reqs, .arb, .seq, .fabric, .link, .can, .power, .thermal, .bring, .flash, .age, .lanes, .snap,
    .out] : List Part) ⊆ C) {s₀ s : State} (h : State.Keeps C s₀ s) (via : Via) (idx sub size : Nat) (v : Word64)
    (poisoned : Bool) : State.Keeps C s₀ (State.dictWrite s via idx sub size v poisoned) := by
  unfold State.dictWrite
  repeat' first
    | with_reducible assumption | with_reducible apply State.bar0Write_keeps
    | with_reducible apply State.entryWrite_keeps | with_reducible apply State.mctpWrite_keeps
    | with_reducible apply State.sdoWrite_keeps | exact List.Subset.trans (by decide) hc
    | with_reducible apply State.Keeps.ite | split | dsimp only
    | (apply State.Keeps.pair; (with_reducible assumption))

theorem State.dictPut_keeps {C : List Part} (hc : ([.regs, .time, .cleared, .latches, .clusters, .mcasts, .caddy,
    .hbm, .reqs, .arb, .seq, .fabric, .link, .can, .power, .thermal, .bring, .flash, .age, .lanes, .snap, .out] :
    List Part) ⊆ C) {s₀ s : State} (h : State.Keeps C s₀ s) (via : Via) (idx sub : Nat) (v : Word64) : State.Keeps
    C s₀ (State.dictPut s via idx sub v) := by
  unfold State.dictPut
  repeat' first
    | with_reducible assumption | with_reducible apply State.dictWrite_keeps
    | exact List.Subset.trans (by decide) hc | with_reducible apply State.Keeps.ite | split | dsimp only

theorem State.dictRead_keeps {C : List Part} (hc : ([.regs, .latches, .clusters, .seq, .out] : List Part) ⊆ C) {s₀
    s : State} (h : State.Keeps C s₀ s) (via : Via) (idx sub : Nat) : State.Keeps C s₀ (State.dictRead s via idx
    sub) := by
  unfold State.dictRead
  repeat' first
    | with_reducible assumption | with_reducible apply State.bar0Read_keeps
    | with_reducible apply State.entryRead_keeps | with_reducible apply State.mctpRead_keeps
    | with_reducible apply State.sdoRead_keeps | exact List.Subset.trans (by decide) hc
    | with_reducible apply State.Keeps.ite | split | dsimp only
    | (apply State.Keeps.pair; (with_reducible assumption))

theorem State.linkTrain_keeps {C : List Part} (hc : ([.regs, .link] : List Part) ⊆ C) {s₀ s : State} (h :
    State.Keeps C s₀ s) (speed width replays : Nat) : State.Keeps C s₀ (State.linkTrain s speed width replays) := by
  unfold State.linkTrain
  repeat' first
    | with_reducible assumption | with_reducible apply State.Keeps.setReg | with_reducible apply State.count_keeps
    | exact List.Subset.trans (by decide) hc | with_reducible apply State.Keeps.ite | split
    | (apply State.Keeps.ofFields; dsimp only; refine State.Keeps.setLink (hc (by decide)) (State.Keeps.toFields ?_))
    | dsimp only

theorem State.bar2Serve_keeps {C : List Part} (hc : ([.regs, .reqs, .fabric, .link, .can, .out] : List Part) ⊆ C)
    {s₀ s : State} (h : State.Keeps C s₀ s) (a n : Nat) : State.Keeps C s₀ (State.bar2Serve s a n) := by
  unfold State.bar2Serve
  repeat' first
    | with_reducible assumption | with_reducible apply State.readRange_keeps
    | exact List.Subset.trans (by decide) hc
    | (apply State.Keeps.ofFields; dsimp only; refine State.Keeps.setLink (hc (by decide)) (State.Keeps.toFields ?_))
    | dsimp only

theorem State.bar2Store_keeps {C : List Part} (hc : ([.regs, .reqs, .fabric, .link, .can, .out] : List Part) ⊆ C)
    {s₀ s : State} (h : State.Keeps C s₀ s) (a : Nat) (data : List Byte) (poisoned : Bool) : State.Keeps C s₀
    (State.bar2Store s a data poisoned) := by
  unfold State.bar2Store
  repeat' first
    | with_reducible assumption | with_reducible apply State.writeRange_keeps
    | exact List.Subset.trans (by decide) hc | dsimp only

theorem State.bar2Refuse_keeps {C : List Part} (hc : ([.regs, .out] : List Part) ⊆ C) {s₀ s : State} (h :
    State.Keeps C s₀ s) : State.Keeps C s₀ (State.bar2Refuse s) := by
  unfold State.bar2Refuse
  repeat' first
    | with_reducible assumption | with_reducible apply State.count_keeps | with_reducible apply State.emit_keeps
    | exact List.Subset.trans (by decide) hc | with_reducible apply State.Keeps.ite | split | dsimp only

theorem State.bar2Read_keeps {C : List Part} (hc : ([.regs, .reqs, .fabric, .link, .can, .out] : List Part) ⊆ C)
    {s₀ s : State} (h : State.Keeps C s₀ s) (a n : Nat) : State.Keeps C s₀ (State.bar2Read s a n) := by
  unfold State.bar2Read
  repeat' first
    | with_reducible assumption | with_reducible apply State.bar2Refuse_keeps
    | with_reducible apply State.bar2Serve_keeps | exact List.Subset.trans (by decide) hc
    | with_reducible apply State.Keeps.ite | split | dsimp only

theorem State.bar2Write_keeps {C : List Part} (hc : ([.regs, .reqs, .fabric, .link, .can, .out] : List Part) ⊆ C)
    {s₀ s : State} (h : State.Keeps C s₀ s) (a : Nat) (data : List Byte) (poisoned : Bool) : State.Keeps C s₀
    (State.bar2Write s a data poisoned) := by
  unfold State.bar2Write
  repeat' first
    | with_reducible assumption | with_reducible apply State.bar2Store_keeps
    | with_reducible apply State.poisonedTlp_keeps | exact List.Subset.trans (by decide) hc
    | with_reducible apply State.Keeps.ite | split | dsimp only

theorem State.unmask_keeps {C : List Part} (hc : ([.regs, .clusters, .seq, .link, .out] : List Part) ⊆ C) {s₀ s :
    State} (h : State.Keeps C s₀ s) (vec : Nat) : State.Keeps C s₀ (State.unmask s vec) := by
  unfold State.unmask
  repeat' first
    | with_reducible assumption | with_reducible apply State.setMsix_keeps | exact List.Subset.trans (by decide) hc
    | with_reducible apply State.Keeps.ite | split | dsimp only

theorem State.hostData_keeps {C : List Part} (hc : ([.reqs, .flash] : List Part) ⊆ C) {s₀ s : State} (h :
    State.Keeps C s₀ s) (r : Req) (data : List Byte) (pois : Bool) : State.Keeps C s₀ (State.hostData s r data
    pois) := by
  unfold State.hostData
  repeat' first
    | with_reducible assumption | with_reducible apply State.stage_keeps | with_reducible apply State.updReq_keeps
    | exact List.Subset.trans (by decide) hc | intro _ | dsimp only

theorem State.countCompletion_keeps {C : List Part} (hc : ([.regs, .out] : List Part) ⊆ C) {s₀ s : State} (h :
    State.Keeps C s₀ s) (y0 : HostRead) : State.Keeps C s₀ (State.countCompletion s y0) := by
  unfold State.countCompletion
  repeat' first
    | with_reducible assumption | with_reducible apply State.count_keeps
    | with_reducible apply State.poisonedTlp_keeps | split | exact List.Subset.trans (by decide) hc | dsimp only

theorem State.tagBack_keeps {C : List Part} (hc : ([.link, .out] : List Part) ⊆ C) {s₀ s : State} (h : State.Keeps
    C s₀ s) (id : Nat) : State.Keeps C s₀ (State.tagBack s id) := by
  unfold State.tagBack
  repeat' first
    | with_reducible assumption | with_reducible apply State.hostAsk_keeps | exact List.Subset.trans (by decide) hc
    | split | intro _
    | (apply State.Keeps.ofFields; dsimp only; refine State.Keeps.setLink (hc (by decide)) (State.Keeps.toFields ?_))
    | dsimp only | (apply State.Keeps.pair; (with_reducible assumption))

theorem State.hostComplete_keeps {C : List Part} (hc : ([.regs, .reqs, .link, .flash, .out] : List Part) ⊆ C) {s₀
    s : State} (h : State.Keeps C s₀ s) (id : Nat) (c : HostRead) : State.Keeps C s₀ (State.hostComplete s id c) := by
  unfold State.hostComplete
  repeat' first
    | with_reducible assumption | with_reducible apply State.countCompletion_keeps
    | with_reducible apply State.hostData_keeps | with_reducible apply State.refuseReq_keeps
    | with_reducible apply State.tagBack_keeps | exact List.Subset.trans (by decide) hc
    | with_reducible apply State.Keeps.ite | split | dsimp only
    | (apply State.Keeps.pair; (with_reducible assumption))

theorem State.askEvidence_keeps {C : List Part} (hc : ([.flash, .out] : List Part) ⊆ C) {s₀ s : State} (h :
    State.Keeps C s₀ s) (nonce : List Byte) : State.Keeps C s₀ (State.askEvidence s nonce) := by
  unfold State.askEvidence
  repeat' first
    | with_reducible assumption | with_reducible apply State.emit_keeps | exact List.Subset.trans (by decide) hc
    | with_reducible apply State.Keeps.ite | split
    | (apply State.Keeps.ofFields; dsimp only; refine State.Keeps.setFlash (hc (by decide)) (State.Keeps.toFields ?_))
    | dsimp only

theorem State.resetCtx_keeps {C : List Part} (hc : ([.regs, .clusters, .mcasts, .caddy, .reqs, .seq, .fabric,
    .link, .can, .out] : List Part) ⊆ C) {s₀ s : State} (h : State.Keeps C s₀ s) (c : Nat) : State.Keeps C s₀
    (State.resetCtx s c) := by
  unfold State.resetCtx
  repeat' first
    | with_reducible assumption | with_reducible apply State.killWork_keeps
    | with_reducible apply State.setBit_keeps | with_reducible apply State.setCtxState_keeps
    | with_reducible apply State.setCtx_keeps | exact List.Subset.trans (by decide) hc
    | (with_reducible apply State.Keeps.foldl; intros) | intro _ | dsimp only

theorem State.linkClear_keeps {C : List Part} (hc : ([.regs, .clusters, .mcasts, .caddy, .reqs, .seq, .fabric,
    .link, .can, .out] : List Part) ⊆ C) {s₀ s : State} (h : State.Keeps C s₀ s) : State.Keeps C s₀
    (State.linkClear s) := by
  unfold State.linkClear
  repeat' first
    | with_reducible assumption | with_reducible apply State.Keeps.setReg
    | with_reducible apply State.resetCtx_keeps | exact List.Subset.trans (by decide) hc
    | (with_reducible apply State.Keeps.foldl; intros) | intro _
    | (apply State.Keeps.ofFields; dsimp only; refine State.Keeps.setLink (hc (by decide)) (State.Keeps.setSeq (hc (by decide)) (State.Keeps.setReqs (hc (by decide)) (State.Keeps.toFields ?_))))
    | dsimp only

theorem State.linkReset_keeps {C : List Part} (hc : ([.regs, .clusters, .mcasts, .caddy, .reqs, .seq, .fabric,
    .link, .can, .out] : List Part) ⊆ C) {s₀ s : State} (h : State.Keeps C s₀ s) (k : LinkResetKind) : State.Keeps
    C s₀ (State.linkReset s k) := by
  unfold State.linkReset
  repeat' first
    | with_reducible assumption | with_reducible apply State.Keeps.setReg
    | with_reducible apply State.linkClear_keeps | exact List.Subset.trans (by decide) hc
    | with_reducible apply State.Keeps.ite | split
    | (apply State.Keeps.ofFields; dsimp only; refine State.Keeps.setLink (hc (by decide)) (State.Keeps.toFields ?_))
    | dsimp only

theorem State.sendDirected_keeps {C : List Part} (hc : ([.regs, .fabric] : List Part) ⊆ C) {s₀ s : State} (h :
    State.Keeps C s₀ s) (i : Nat) (w : List Word32) : State.Keeps C s₀ (State.sendDirected s i w) := by
  unfold State.sendDirected
  repeat' first
    | with_reducible assumption | with_reducible apply State.sendLink_keeps | exact List.Subset.trans (by decide) hc
    | with_reducible apply State.Keeps.ite | split | dsimp only

theorem State.replyTo_keeps {C : List Part} (hc : ([.regs, .fabric, .out] : List Part) ⊆ C) {s₀ s : State} (h :
    State.Keeps C s₀ s) (arr : Option Nat) (w : List Word32) : State.Keeps C s₀ (State.replyTo s arr w) := by
  unfold State.replyTo
  repeat' first
    | with_reducible assumption | with_reducible apply State.emit_keeps
    | with_reducible apply State.sendDirected_keeps | exact List.Subset.trans (by decide) hc | split | dsimp only
    | (apply State.Keeps.pair; (with_reducible assumption))

theorem State.directedAccess_keeps {C : List Part} (hc : ([.regs, .time, .cleared, .latches, .clusters, .mcasts,
    .caddy, .hbm, .reqs, .arb, .seq, .fabric, .link, .can, .power, .thermal, .bring, .flash, .age, .lanes, .snap,
    .out] : List Part) ⊆ C) {s₀ s : State} (h : State.Keeps C s₀ s) (w : List Word32) : State.Keeps C s₀
    (State.directedAccess s w).1 := by
  unfold State.directedAccess
  repeat' first
    | with_reducible assumption | with_reducible apply State.entryRead_keeps
    | with_reducible apply State.entryWrite_keeps | exact List.Subset.trans (by decide) hc
    | with_reducible apply State.Keeps.ite | with_reducible apply State.Keeps.iteFst | split | dsimp only
    | (apply State.Keeps.pair; (with_reducible assumption))

theorem State.directedEnd_keeps {C : List Part} (hc : ([.regs, .time, .cleared, .latches, .clusters, .mcasts,
    .caddy, .hbm, .reqs, .arb, .seq, .fabric, .link, .can, .power, .thermal, .bring, .flash, .age, .lanes, .snap,
    .out] : List Part) ⊆ C) {s₀ s : State} (h : State.Keeps C s₀ s) (arr : Option Nat) (w : List Word32) :
    State.Keeps C s₀ (State.directedEnd s arr w) := by
  unfold State.directedEnd
  repeat' first
    | with_reducible assumption | with_reducible apply State.directedAccess_keeps
    | with_reducible apply State.replyTo_keeps | exact List.Subset.trans (by decide) hc | split | dsimp only
    | (apply State.Keeps.pair; (with_reducible assumption))

theorem State.directedOn_keeps {C : List Part} (hc : ([.regs, .fabric, .out] : List Part) ⊆ C) {s₀ s : State} (h :
    State.Keeps C s₀ s) (arr : Option Nat) (w : List Word32) : State.Keeps C s₀ (State.directedOn s arr w) := by
  unfold State.directedOn
  repeat' first
    | with_reducible assumption | with_reducible apply State.replyTo_keeps
    | with_reducible apply State.sendDirected_keeps | exact List.Subset.trans (by decide) hc
    | with_reducible apply State.Keeps.ite | split | dsimp only

theorem State.directedIn_keeps {C : List Part} (hc : ([.regs, .time, .cleared, .latches, .clusters, .mcasts,
    .caddy, .hbm, .reqs, .arb, .seq, .fabric, .link, .can, .power, .thermal, .bring, .flash, .age, .lanes, .snap,
    .out] : List Part) ⊆ C) {s₀ s : State} (h : State.Keeps C s₀ s) (arr : Option Nat) (w : List Word32) :
    State.Keeps C s₀ (State.directedIn s arr w) := by
  unfold State.directedIn
  repeat' first
    | with_reducible assumption | with_reducible apply State.directedEnd_keeps
    | with_reducible apply State.directedOn_keeps | exact List.Subset.trans (by decide) hc
    | with_reducible apply State.Keeps.ite | split | dsimp only

theorem State.directedFrom_keeps {C : List Part} (hc : ([.regs] : List Part) ⊆ C) {s₀ s : State} (h : State.Keeps
    C s₀ s) (i : Nat) (w : List Word32) (take : State → State) (htake : ∀ {u : State} (a0 : State), State.Keeps C
    u a0 → State.Keeps C u (take a0)) : State.Keeps C s₀ (State.directedFrom s i w take) := by
  unfold State.directedFrom
  repeat' first
    | with_reducible assumption | with_reducible apply htake | with_reducible apply State.heard_keeps
    | with_reducible apply State.refuseFrame_keeps | exact List.Subset.trans (by decide) hc
    | with_reducible apply State.Keeps.ite | split | intro _ | dsimp only

theorem State.replyIn_keeps {C : List Part} (hc : ([.regs, .fabric, .out] : List Part) ⊆ C) {s₀ s : State} (h :
    State.Keeps C s₀ s) (w : List Word32) : State.Keeps C s₀ (State.replyIn s w) := by
  unfold State.replyIn
  repeat' first
    | with_reducible assumption | with_reducible apply State.emit_keeps
    | with_reducible apply State.sendDirected_keeps | exact List.Subset.trans (by decide) hc
    | with_reducible apply State.Keeps.ite | split | dsimp only

theorem State.rpdo_keeps {C : List Part} (hc : ([.regs, .time, .cleared, .latches, .clusters, .mcasts, .caddy,
    .hbm, .reqs, .arb, .seq, .fabric, .link, .can, .power, .thermal, .bring, .flash, .age, .lanes, .snap, .out] :
    List Part) ⊆ C) {s₀ s : State} (h : State.Keeps C s₀ s) (data : List Byte) : State.Keeps C s₀ (State.rpdo s
    data) := by
  unfold State.rpdo
  repeat' first
    | with_reducible assumption | with_reducible apply State.canAccept_keeps
    | with_reducible apply State.canDiscard_keeps | with_reducible apply State.count_keeps
    | with_reducible apply State.entryWrite_keeps | with_reducible apply State.unnamedEmergency_keeps
    | exact List.Subset.trans (by decide) hc | (with_reducible apply State.Keeps.foldl; intros)
    | with_reducible apply State.Keeps.ite | split | intro _ | dsimp only

theorem State.clock_keeps {C : List Part} (hc : ([.time] : List Part) ⊆ C) {s₀ s : State} (h : State.Keeps C s₀ s)
    : State.Keeps C s₀ (State.clock s) := by
  unfold State.clock
  repeat' first
    | with_reducible assumption | with_reducible apply State.Keeps.ite | split
    | (apply State.Keeps.ofFields; dsimp only; refine State.Keeps.setTime (hc (by decide)) (State.Keeps.toFields ?_))
    | dsimp only

theorem State.engineClock_keeps {C : List Part} (hc : ([.regs, .clusters] : List Part) ⊆ C) {s₀ s : State} (h :
    State.Keeps C s₀ s) (cl : Nat) : State.Keeps C s₀ (State.engineClock s cl) := by
  unfold State.engineClock
  repeat' first
    | with_reducible assumption | with_reducible apply State.count_keeps
    | with_reducible apply State.setEngine_keeps | exact List.Subset.trans (by decide) hc
    | with_reducible apply State.Keeps.ite | split | dsimp only

theorem State.tgClock_keeps {C : List Part} (hc : ([.regs, .clusters] : List Part) ⊆ C) {s₀ s : State} (h :
    State.Keeps C s₀ s) (cl : Nat) : State.Keeps C s₀ (State.tgClock s cl) := by
  unfold State.tgClock
  repeat' first
    | with_reducible assumption | with_reducible apply State.count_keeps | with_reducible apply State.setTg_keeps
    | exact List.Subset.trans (by decide) hc | with_reducible apply State.Keeps.ite | split | dsimp only
    | (apply State.Keeps.pair; (with_reducible assumption))

theorem State.clusterClocks_keeps {C : List Part} (hc : ([.regs, .clusters] : List Part) ⊆ C) {s₀ s : State} (h :
    State.Keeps C s₀ s) : State.Keeps C s₀ (State.clusterClocks s) := by
  unfold State.clusterClocks
  repeat' first
    | with_reducible assumption | with_reducible apply State.engineClock_keeps
    | with_reducible apply State.tgClock_keeps | exact List.Subset.trans (by decide) hc
    | (with_reducible apply State.Keeps.foldl; intros) | with_reducible apply State.Keeps.ite | split | intro _
    | dsimp only

theorem State.mqClocks_keeps {C : List Part} (hc : ([.regs, .clusters, .seq, .fabric] : List Part) ⊆ C) {s₀ s :
    State} (h : State.Keeps C s₀ s) (core : Bool) (spouts : Nat) : State.Keeps C s₀ (State.mqClocks s core spouts) := by
  unfold State.mqClocks
  repeat' first
    | with_reducible assumption | with_reducible apply State.setMq_keeps | exact List.Subset.trans (by decide) hc
    | (with_reducible apply State.Keeps.foldl; intros) | with_reducible apply State.Keeps.ite | split | intro _
    | dsimp only

theorem State.collClocks_keeps {C : List Part} (hc : ([.regs, .clusters, .mcasts, .caddy, .reqs, .seq, .fabric,
    .link, .can, .snap, .out] : List Part) ⊆ C) {s₀ s : State} (h : State.Keeps C s₀ s) : State.Keeps C s₀
    (State.collClocks s) := by
  unfold State.collClocks
  repeat' first
    | with_reducible assumption | with_reducible apply State.collRun_keeps | exact List.Subset.trans (by decide) hc
    | (with_reducible apply State.Keeps.foldl; intros) | intro _ | dsimp only

theorem State.retrain_keeps {C : List Part} (hc : ([.regs, .fabric, .link, .can, .out] : List Part) ⊆ C) {s₀ s :
    State} (h : State.Keeps C s₀ s) : State.Keeps C s₀ (State.retrain s) := by
  unfold State.retrain
  repeat' first
    | with_reducible assumption | with_reducible apply State.setPortState_keeps
    | exact List.Subset.trans (by decide) hc | (with_reducible apply State.Keeps.foldl; intros)
    | with_reducible apply State.Keeps.ite | split | intro _ | dsimp only

theorem State.sendTpdo1_keeps {C : List Part} (hc : ([.regs, .can, .out] : List Part) ⊆ C) {s₀ s : State} (h :
    State.Keeps C s₀ s) : State.Keeps C s₀ (State.sendTpdo1 s) := by
  unfold State.sendTpdo1
  repeat' first
    | with_reducible assumption | with_reducible apply State.canSend_keeps | exact List.Subset.trans (by decide) hc
    | with_reducible apply State.Keeps.ite | split
    | (apply State.Keeps.ofFields; dsimp only; refine State.Keeps.setCan (hc (by decide)) (State.Keeps.toFields ?_))
    | dsimp only | (apply State.Keeps.pair; (with_reducible assumption))

theorem State.ageClock_keeps {C : List Part} (hc : ([.age] : List Part) ⊆ C) {s₀ s : State} (h : State.Keeps C s₀
    s) (period : Nat) : State.Keeps C s₀ (State.ageClock s period) := by
  unfold State.ageClock
  repeat' first
    | with_reducible assumption | with_reducible apply State.Keeps.ite | split
    | (apply State.Keeps.ofFields; dsimp only; refine State.Keeps.setAge (hc (by decide)) (State.Keeps.toFields ?_))
    | dsimp only

theorem State.tick_keeps {C : List Part} (hc : ([.regs, .time, .clusters, .mcasts, .caddy, .reqs, .seq, .fabric,
    .link, .can, .age, .snap, .out] : List Part) ⊆ C) {s₀ s : State} (h : State.Keeps C s₀ s) : State.Keeps C s₀
    (State.tick s) := by
  unfold State.tick
  repeat' first
    | with_reducible assumption | with_reducible apply State.ageClock_keeps | with_reducible apply State.clock_keeps
    | with_reducible apply State.clusterClocks_keeps | with_reducible apply State.collClocks_keeps
    | with_reducible apply State.killFaulted_keeps | with_reducible apply State.mqClocks_keeps
    | with_reducible apply State.retrain_keeps | with_reducible apply State.sendTpdo1_keeps
    | exact List.Subset.trans (by decide) hc | with_reducible apply State.Keeps.ite | split | dsimp only

end Sys2Proof.Machine
end

