-- ==== Sys2Proof/Laws/State.lean ====
section
/-! SUPPORT. Every named update of the state against every field it leaves alone, true by definition, and
what is read back after it. -/

namespace Sys2Proof.Machine

variable (s : State)

@[simp] theorem State.setReg_pending (i j : Nat) (v : Word64) : (s.setReg i j v).pending = s.pending := rfl
@[simp] theorem State.setReg_time (i j : Nat) (v : Word64) : (s.setReg i j v).time = s.time := rfl
@[simp] theorem State.setReg_cleared (i j : Nat) (v : Word64) : (s.setReg i j v).cleared = s.cleared := rfl
@[simp] theorem State.setReg_latchP (i j : Nat) (v : Word64) : (s.setReg i j v).latchP = s.latchP := rfl
@[simp] theorem State.setReg_latchC (i j : Nat) (v : Word64) : (s.setReg i j v).latchC = s.latchC := rfl
@[simp] theorem State.setReg_latchF (i j : Nat) (v : Word64) : (s.setReg i j v).latchF = s.latchF := rfl
@[simp] theorem State.setReg_clusters (i j : Nat) (v : Word64) : (s.setReg i j v).clusters = s.clusters := rfl
@[simp] theorem State.setReg_mcasts (i j : Nat) (v : Word64) : (s.setReg i j v).mcasts = s.mcasts := rfl
@[simp] theorem State.setReg_caddy (i j : Nat) (v : Word64) : (s.setReg i j v).caddy = s.caddy := rfl
@[simp] theorem State.setReg_hbm (i j : Nat) (v : Word64) : (s.setReg i j v).hbm = s.hbm := rfl
@[simp] theorem State.setReg_reqs (i j : Nat) (v : Word64) : (s.setReg i j v).reqs = s.reqs := rfl
@[simp] theorem State.setReg_nextReq (i j : Nat) (v : Word64) : (s.setReg i j v).nextReq = s.nextReq := rfl
@[simp] theorem State.setReg_arb (i j : Nat) (v : Word64) : (s.setReg i j v).arb = s.arb := rfl
@[simp] theorem State.setReg_seq (i j : Nat) (v : Word64) : (s.setReg i j v).seq = s.seq := rfl
@[simp] theorem State.setReg_fabric (i j : Nat) (v : Word64) : (s.setReg i j v).fabric = s.fabric := rfl
@[simp] theorem State.setReg_link (i j : Nat) (v : Word64) : (s.setReg i j v).link = s.link := rfl
@[simp] theorem State.setReg_can (i j : Nat) (v : Word64) : (s.setReg i j v).can = s.can := rfl
@[simp] theorem State.setReg_power (i j : Nat) (v : Word64) : (s.setReg i j v).power = s.power := rfl
@[simp] theorem State.setReg_thermal (i j : Nat) (v : Word64) : (s.setReg i j v).thermal = s.thermal := rfl
@[simp] theorem State.setReg_bring (i j : Nat) (v : Word64) : (s.setReg i j v).bring = s.bring := rfl
@[simp] theorem State.setReg_flash (i j : Nat) (v : Word64) : (s.setReg i j v).flash = s.flash := rfl
@[simp] theorem State.setReg_age (i j : Nat) (v : Word64) : (s.setReg i j v).age = s.age := rfl
@[simp] theorem State.setReg_lanes (i j : Nat) (v : Word64) : (s.setReg i j v).lanes = s.lanes := rfl
@[simp] theorem State.setReg_snap (i j : Nat) (v : Word64) : (s.setReg i j v).snap = s.snap := rfl
@[simp] theorem State.setReg_out (i j : Nat) (v : Word64) : (s.setReg i j v).out = s.out := rfl
@[simp] theorem State.setReg_free (i j : Nat) (v : Word64) : (s.setReg i j v).free = s.free := rfl

@[simp] theorem State.setFld_pending (i j a b v : Nat) : (s.setFld i j a b v).pending = s.pending := rfl
@[simp] theorem State.setFld_time (i j a b v : Nat) : (s.setFld i j a b v).time = s.time := rfl
@[simp] theorem State.setFld_cleared (i j a b v : Nat) : (s.setFld i j a b v).cleared = s.cleared := rfl
@[simp] theorem State.setFld_latchP (i j a b v : Nat) : (s.setFld i j a b v).latchP = s.latchP := rfl
@[simp] theorem State.setFld_latchC (i j a b v : Nat) : (s.setFld i j a b v).latchC = s.latchC := rfl
@[simp] theorem State.setFld_latchF (i j a b v : Nat) : (s.setFld i j a b v).latchF = s.latchF := rfl
@[simp] theorem State.setFld_clusters (i j a b v : Nat) : (s.setFld i j a b v).clusters = s.clusters := rfl
@[simp] theorem State.setFld_mcasts (i j a b v : Nat) : (s.setFld i j a b v).mcasts = s.mcasts := rfl
@[simp] theorem State.setFld_caddy (i j a b v : Nat) : (s.setFld i j a b v).caddy = s.caddy := rfl
@[simp] theorem State.setFld_hbm (i j a b v : Nat) : (s.setFld i j a b v).hbm = s.hbm := rfl
@[simp] theorem State.setFld_reqs (i j a b v : Nat) : (s.setFld i j a b v).reqs = s.reqs := rfl
@[simp] theorem State.setFld_nextReq (i j a b v : Nat) : (s.setFld i j a b v).nextReq = s.nextReq := rfl
@[simp] theorem State.setFld_arb (i j a b v : Nat) : (s.setFld i j a b v).arb = s.arb := rfl
@[simp] theorem State.setFld_seq (i j a b v : Nat) : (s.setFld i j a b v).seq = s.seq := rfl
@[simp] theorem State.setFld_fabric (i j a b v : Nat) : (s.setFld i j a b v).fabric = s.fabric := rfl
@[simp] theorem State.setFld_link (i j a b v : Nat) : (s.setFld i j a b v).link = s.link := rfl
@[simp] theorem State.setFld_can (i j a b v : Nat) : (s.setFld i j a b v).can = s.can := rfl
@[simp] theorem State.setFld_power (i j a b v : Nat) : (s.setFld i j a b v).power = s.power := rfl
@[simp] theorem State.setFld_thermal (i j a b v : Nat) : (s.setFld i j a b v).thermal = s.thermal := rfl
@[simp] theorem State.setFld_bring (i j a b v : Nat) : (s.setFld i j a b v).bring = s.bring := rfl
@[simp] theorem State.setFld_flash (i j a b v : Nat) : (s.setFld i j a b v).flash = s.flash := rfl
@[simp] theorem State.setFld_age (i j a b v : Nat) : (s.setFld i j a b v).age = s.age := rfl
@[simp] theorem State.setFld_lanes (i j a b v : Nat) : (s.setFld i j a b v).lanes = s.lanes := rfl
@[simp] theorem State.setFld_snap (i j a b v : Nat) : (s.setFld i j a b v).snap = s.snap := rfl
@[simp] theorem State.setFld_out (i j a b v : Nat) : (s.setFld i j a b v).out = s.out := rfl
@[simp] theorem State.setFld_free (i j a b v : Nat) : (s.setFld i j a b v).free = s.free := rfl

@[simp] theorem State.setBit_pending (i j n : Nat) (v : Bool) : (s.setBit i j n v).pending = s.pending := rfl
@[simp] theorem State.setBit_time (i j n : Nat) (v : Bool) : (s.setBit i j n v).time = s.time := rfl
@[simp] theorem State.setBit_cleared (i j n : Nat) (v : Bool) : (s.setBit i j n v).cleared = s.cleared := rfl
@[simp] theorem State.setBit_latchP (i j n : Nat) (v : Bool) : (s.setBit i j n v).latchP = s.latchP := rfl
@[simp] theorem State.setBit_latchC (i j n : Nat) (v : Bool) : (s.setBit i j n v).latchC = s.latchC := rfl
@[simp] theorem State.setBit_latchF (i j n : Nat) (v : Bool) : (s.setBit i j n v).latchF = s.latchF := rfl
@[simp] theorem State.setBit_clusters (i j n : Nat) (v : Bool) : (s.setBit i j n v).clusters = s.clusters := rfl
@[simp] theorem State.setBit_mcasts (i j n : Nat) (v : Bool) : (s.setBit i j n v).mcasts = s.mcasts := rfl
@[simp] theorem State.setBit_caddy (i j n : Nat) (v : Bool) : (s.setBit i j n v).caddy = s.caddy := rfl
@[simp] theorem State.setBit_hbm (i j n : Nat) (v : Bool) : (s.setBit i j n v).hbm = s.hbm := rfl
@[simp] theorem State.setBit_reqs (i j n : Nat) (v : Bool) : (s.setBit i j n v).reqs = s.reqs := rfl
@[simp] theorem State.setBit_nextReq (i j n : Nat) (v : Bool) : (s.setBit i j n v).nextReq = s.nextReq := rfl
@[simp] theorem State.setBit_arb (i j n : Nat) (v : Bool) : (s.setBit i j n v).arb = s.arb := rfl
@[simp] theorem State.setBit_seq (i j n : Nat) (v : Bool) : (s.setBit i j n v).seq = s.seq := rfl
@[simp] theorem State.setBit_fabric (i j n : Nat) (v : Bool) : (s.setBit i j n v).fabric = s.fabric := rfl
@[simp] theorem State.setBit_link (i j n : Nat) (v : Bool) : (s.setBit i j n v).link = s.link := rfl
@[simp] theorem State.setBit_can (i j n : Nat) (v : Bool) : (s.setBit i j n v).can = s.can := rfl
@[simp] theorem State.setBit_power (i j n : Nat) (v : Bool) : (s.setBit i j n v).power = s.power := rfl
@[simp] theorem State.setBit_thermal (i j n : Nat) (v : Bool) : (s.setBit i j n v).thermal = s.thermal := rfl
@[simp] theorem State.setBit_bring (i j n : Nat) (v : Bool) : (s.setBit i j n v).bring = s.bring := rfl
@[simp] theorem State.setBit_flash (i j n : Nat) (v : Bool) : (s.setBit i j n v).flash = s.flash := rfl
@[simp] theorem State.setBit_age (i j n : Nat) (v : Bool) : (s.setBit i j n v).age = s.age := rfl
@[simp] theorem State.setBit_lanes (i j n : Nat) (v : Bool) : (s.setBit i j n v).lanes = s.lanes := rfl
@[simp] theorem State.setBit_snap (i j n : Nat) (v : Bool) : (s.setBit i j n v).snap = s.snap := rfl
@[simp] theorem State.setBit_out (i j n : Nat) (v : Bool) : (s.setBit i j n v).out = s.out := rfl
@[simp] theorem State.setBit_free (i j n : Nat) (v : Bool) : (s.setBit i j n v).free = s.free := rfl

@[simp] theorem State.count_pending (i j n : Nat) : (s.count i j n).pending = s.pending := rfl
@[simp] theorem State.count_time (i j n : Nat) : (s.count i j n).time = s.time := rfl
@[simp] theorem State.count_cleared (i j n : Nat) : (s.count i j n).cleared = s.cleared := rfl
@[simp] theorem State.count_latchP (i j n : Nat) : (s.count i j n).latchP = s.latchP := rfl
@[simp] theorem State.count_latchC (i j n : Nat) : (s.count i j n).latchC = s.latchC := rfl
@[simp] theorem State.count_latchF (i j n : Nat) : (s.count i j n).latchF = s.latchF := rfl
@[simp] theorem State.count_clusters (i j n : Nat) : (s.count i j n).clusters = s.clusters := rfl
@[simp] theorem State.count_mcasts (i j n : Nat) : (s.count i j n).mcasts = s.mcasts := rfl
@[simp] theorem State.count_caddy (i j n : Nat) : (s.count i j n).caddy = s.caddy := rfl
@[simp] theorem State.count_hbm (i j n : Nat) : (s.count i j n).hbm = s.hbm := rfl
@[simp] theorem State.count_reqs (i j n : Nat) : (s.count i j n).reqs = s.reqs := rfl
@[simp] theorem State.count_nextReq (i j n : Nat) : (s.count i j n).nextReq = s.nextReq := rfl
@[simp] theorem State.count_arb (i j n : Nat) : (s.count i j n).arb = s.arb := rfl
@[simp] theorem State.count_seq (i j n : Nat) : (s.count i j n).seq = s.seq := rfl
@[simp] theorem State.count_fabric (i j n : Nat) : (s.count i j n).fabric = s.fabric := rfl
@[simp] theorem State.count_link (i j n : Nat) : (s.count i j n).link = s.link := rfl
@[simp] theorem State.count_can (i j n : Nat) : (s.count i j n).can = s.can := rfl
@[simp] theorem State.count_power (i j n : Nat) : (s.count i j n).power = s.power := rfl
@[simp] theorem State.count_thermal (i j n : Nat) : (s.count i j n).thermal = s.thermal := rfl
@[simp] theorem State.count_bring (i j n : Nat) : (s.count i j n).bring = s.bring := rfl
@[simp] theorem State.count_flash (i j n : Nat) : (s.count i j n).flash = s.flash := rfl
@[simp] theorem State.count_age (i j n : Nat) : (s.count i j n).age = s.age := rfl
@[simp] theorem State.count_lanes (i j n : Nat) : (s.count i j n).lanes = s.lanes := rfl
@[simp] theorem State.count_snap (i j n : Nat) : (s.count i j n).snap = s.snap := rfl
@[simp] theorem State.count_out (i j n : Nat) : (s.count i j n).out = s.out := rfl
@[simp] theorem State.count_free (i j n : Nat) : (s.count i j n).free = s.free := rfl

@[simp] theorem State.emit_pending (o : Output) : (s.emit o).pending = s.pending := rfl
@[simp] theorem State.emit_regs (o : Output) : (s.emit o).regs = s.regs := rfl
@[simp] theorem State.emit_time (o : Output) : (s.emit o).time = s.time := rfl
@[simp] theorem State.emit_cleared (o : Output) : (s.emit o).cleared = s.cleared := rfl
@[simp] theorem State.emit_latchP (o : Output) : (s.emit o).latchP = s.latchP := rfl
@[simp] theorem State.emit_latchC (o : Output) : (s.emit o).latchC = s.latchC := rfl
@[simp] theorem State.emit_latchF (o : Output) : (s.emit o).latchF = s.latchF := rfl
@[simp] theorem State.emit_clusters (o : Output) : (s.emit o).clusters = s.clusters := rfl
@[simp] theorem State.emit_mcasts (o : Output) : (s.emit o).mcasts = s.mcasts := rfl
@[simp] theorem State.emit_caddy (o : Output) : (s.emit o).caddy = s.caddy := rfl
@[simp] theorem State.emit_hbm (o : Output) : (s.emit o).hbm = s.hbm := rfl
@[simp] theorem State.emit_reqs (o : Output) : (s.emit o).reqs = s.reqs := rfl
@[simp] theorem State.emit_nextReq (o : Output) : (s.emit o).nextReq = s.nextReq := rfl
@[simp] theorem State.emit_arb (o : Output) : (s.emit o).arb = s.arb := rfl
@[simp] theorem State.emit_seq (o : Output) : (s.emit o).seq = s.seq := rfl
@[simp] theorem State.emit_fabric (o : Output) : (s.emit o).fabric = s.fabric := rfl
@[simp] theorem State.emit_link (o : Output) : (s.emit o).link = s.link := rfl
@[simp] theorem State.emit_can (o : Output) : (s.emit o).can = s.can := rfl
@[simp] theorem State.emit_power (o : Output) : (s.emit o).power = s.power := rfl
@[simp] theorem State.emit_thermal (o : Output) : (s.emit o).thermal = s.thermal := rfl
@[simp] theorem State.emit_bring (o : Output) : (s.emit o).bring = s.bring := rfl
@[simp] theorem State.emit_flash (o : Output) : (s.emit o).flash = s.flash := rfl
@[simp] theorem State.emit_age (o : Output) : (s.emit o).age = s.age := rfl
@[simp] theorem State.emit_lanes (o : Output) : (s.emit o).lanes = s.lanes := rfl
@[simp] theorem State.emit_snap (o : Output) : (s.emit o).snap = s.snap := rfl
@[simp] theorem State.emit_free (o : Output) : (s.emit o).free = s.free := rfl

@[simp] theorem State.drawFree_pending : s.drawFree.pending = s.pending := rfl
@[simp] theorem State.drawFree_regs : s.drawFree.regs = s.regs := rfl
@[simp] theorem State.drawFree_time : s.drawFree.time = s.time := rfl
@[simp] theorem State.drawFree_cleared : s.drawFree.cleared = s.cleared := rfl
@[simp] theorem State.drawFree_latchP : s.drawFree.latchP = s.latchP := rfl
@[simp] theorem State.drawFree_latchC : s.drawFree.latchC = s.latchC := rfl
@[simp] theorem State.drawFree_latchF : s.drawFree.latchF = s.latchF := rfl
@[simp] theorem State.drawFree_clusters : s.drawFree.clusters = s.clusters := rfl
@[simp] theorem State.drawFree_mcasts : s.drawFree.mcasts = s.mcasts := rfl
@[simp] theorem State.drawFree_caddy : s.drawFree.caddy = s.caddy := rfl
@[simp] theorem State.drawFree_hbm : s.drawFree.hbm = s.hbm := rfl
@[simp] theorem State.drawFree_reqs : s.drawFree.reqs = s.reqs := rfl
@[simp] theorem State.drawFree_nextReq : s.drawFree.nextReq = s.nextReq := rfl
@[simp] theorem State.drawFree_arb : s.drawFree.arb = s.arb := rfl
@[simp] theorem State.drawFree_seq : s.drawFree.seq = s.seq := rfl
@[simp] theorem State.drawFree_fabric : s.drawFree.fabric = s.fabric := rfl
@[simp] theorem State.drawFree_link : s.drawFree.link = s.link := rfl
@[simp] theorem State.drawFree_can : s.drawFree.can = s.can := rfl
@[simp] theorem State.drawFree_power : s.drawFree.power = s.power := rfl
@[simp] theorem State.drawFree_thermal : s.drawFree.thermal = s.thermal := rfl
@[simp] theorem State.drawFree_bring : s.drawFree.bring = s.bring := rfl
@[simp] theorem State.drawFree_flash : s.drawFree.flash = s.flash := rfl
@[simp] theorem State.drawFree_age : s.drawFree.age = s.age := rfl
@[simp] theorem State.drawFree_lanes : s.drawFree.lanes = s.lanes := rfl
@[simp] theorem State.drawFree_snap : s.drawFree.snap = s.snap := rfl
@[simp] theorem State.drawFree_out : s.drawFree.out = s.out := rfl

@[simp] theorem State.setCluster_pending (c : Nat) (x : Cluster) : (s.setCluster c x).pending = s.pending := rfl
@[simp] theorem State.setCluster_regs (c : Nat) (x : Cluster) : (s.setCluster c x).regs = s.regs := rfl
@[simp] theorem State.setCluster_time (c : Nat) (x : Cluster) : (s.setCluster c x).time = s.time := rfl
@[simp] theorem State.setCluster_cleared (c : Nat) (x : Cluster) : (s.setCluster c x).cleared = s.cleared := rfl
@[simp] theorem State.setCluster_latchP (c : Nat) (x : Cluster) : (s.setCluster c x).latchP = s.latchP := rfl
@[simp] theorem State.setCluster_latchC (c : Nat) (x : Cluster) : (s.setCluster c x).latchC = s.latchC := rfl
@[simp] theorem State.setCluster_latchF (c : Nat) (x : Cluster) : (s.setCluster c x).latchF = s.latchF := rfl
@[simp] theorem State.setCluster_mcasts (c : Nat) (x : Cluster) : (s.setCluster c x).mcasts = s.mcasts := rfl
@[simp] theorem State.setCluster_caddy (c : Nat) (x : Cluster) : (s.setCluster c x).caddy = s.caddy := rfl
@[simp] theorem State.setCluster_hbm (c : Nat) (x : Cluster) : (s.setCluster c x).hbm = s.hbm := rfl
@[simp] theorem State.setCluster_reqs (c : Nat) (x : Cluster) : (s.setCluster c x).reqs = s.reqs := rfl
@[simp] theorem State.setCluster_nextReq (c : Nat) (x : Cluster) : (s.setCluster c x).nextReq = s.nextReq := rfl
@[simp] theorem State.setCluster_arb (c : Nat) (x : Cluster) : (s.setCluster c x).arb = s.arb := rfl
@[simp] theorem State.setCluster_seq (c : Nat) (x : Cluster) : (s.setCluster c x).seq = s.seq := rfl
@[simp] theorem State.setCluster_fabric (c : Nat) (x : Cluster) : (s.setCluster c x).fabric = s.fabric := rfl
@[simp] theorem State.setCluster_link (c : Nat) (x : Cluster) : (s.setCluster c x).link = s.link := rfl
@[simp] theorem State.setCluster_can (c : Nat) (x : Cluster) : (s.setCluster c x).can = s.can := rfl
@[simp] theorem State.setCluster_power (c : Nat) (x : Cluster) : (s.setCluster c x).power = s.power := rfl
@[simp] theorem State.setCluster_thermal (c : Nat) (x : Cluster) : (s.setCluster c x).thermal = s.thermal := rfl
@[simp] theorem State.setCluster_bring (c : Nat) (x : Cluster) : (s.setCluster c x).bring = s.bring := rfl
@[simp] theorem State.setCluster_flash (c : Nat) (x : Cluster) : (s.setCluster c x).flash = s.flash := rfl
@[simp] theorem State.setCluster_age (c : Nat) (x : Cluster) : (s.setCluster c x).age = s.age := rfl
@[simp] theorem State.setCluster_lanes (c : Nat) (x : Cluster) : (s.setCluster c x).lanes = s.lanes := rfl
@[simp] theorem State.setCluster_snap (c : Nat) (x : Cluster) : (s.setCluster c x).snap = s.snap := rfl
@[simp] theorem State.setCluster_out (c : Nat) (x : Cluster) : (s.setCluster c x).out = s.out := rfl
@[simp] theorem State.setCluster_free (c : Nat) (x : Cluster) : (s.setCluster c x).free = s.free := rfl

@[simp] theorem State.setEngine_pending (c : Nat) (x : Engine) : (s.setEngine c x).pending = s.pending := rfl
@[simp] theorem State.setEngine_regs (c : Nat) (x : Engine) : (s.setEngine c x).regs = s.regs := rfl
@[simp] theorem State.setEngine_time (c : Nat) (x : Engine) : (s.setEngine c x).time = s.time := rfl
@[simp] theorem State.setEngine_cleared (c : Nat) (x : Engine) : (s.setEngine c x).cleared = s.cleared := rfl
@[simp] theorem State.setEngine_latchP (c : Nat) (x : Engine) : (s.setEngine c x).latchP = s.latchP := rfl
@[simp] theorem State.setEngine_latchC (c : Nat) (x : Engine) : (s.setEngine c x).latchC = s.latchC := rfl
@[simp] theorem State.setEngine_latchF (c : Nat) (x : Engine) : (s.setEngine c x).latchF = s.latchF := rfl
@[simp] theorem State.setEngine_mcasts (c : Nat) (x : Engine) : (s.setEngine c x).mcasts = s.mcasts := rfl
@[simp] theorem State.setEngine_caddy (c : Nat) (x : Engine) : (s.setEngine c x).caddy = s.caddy := rfl
@[simp] theorem State.setEngine_hbm (c : Nat) (x : Engine) : (s.setEngine c x).hbm = s.hbm := rfl
@[simp] theorem State.setEngine_reqs (c : Nat) (x : Engine) : (s.setEngine c x).reqs = s.reqs := rfl
@[simp] theorem State.setEngine_nextReq (c : Nat) (x : Engine) : (s.setEngine c x).nextReq = s.nextReq := rfl
@[simp] theorem State.setEngine_arb (c : Nat) (x : Engine) : (s.setEngine c x).arb = s.arb := rfl
@[simp] theorem State.setEngine_seq (c : Nat) (x : Engine) : (s.setEngine c x).seq = s.seq := rfl
@[simp] theorem State.setEngine_fabric (c : Nat) (x : Engine) : (s.setEngine c x).fabric = s.fabric := rfl
@[simp] theorem State.setEngine_link (c : Nat) (x : Engine) : (s.setEngine c x).link = s.link := rfl
@[simp] theorem State.setEngine_can (c : Nat) (x : Engine) : (s.setEngine c x).can = s.can := rfl
@[simp] theorem State.setEngine_power (c : Nat) (x : Engine) : (s.setEngine c x).power = s.power := rfl
@[simp] theorem State.setEngine_thermal (c : Nat) (x : Engine) : (s.setEngine c x).thermal = s.thermal := rfl
@[simp] theorem State.setEngine_bring (c : Nat) (x : Engine) : (s.setEngine c x).bring = s.bring := rfl
@[simp] theorem State.setEngine_flash (c : Nat) (x : Engine) : (s.setEngine c x).flash = s.flash := rfl
@[simp] theorem State.setEngine_age (c : Nat) (x : Engine) : (s.setEngine c x).age = s.age := rfl
@[simp] theorem State.setEngine_lanes (c : Nat) (x : Engine) : (s.setEngine c x).lanes = s.lanes := rfl
@[simp] theorem State.setEngine_snap (c : Nat) (x : Engine) : (s.setEngine c x).snap = s.snap := rfl
@[simp] theorem State.setEngine_out (c : Nat) (x : Engine) : (s.setEngine c x).out = s.out := rfl
@[simp] theorem State.setEngine_free (c : Nat) (x : Engine) : (s.setEngine c x).free = s.free := rfl

@[simp] theorem State.setTg_pending (c : Nat) (x : Tg) : (s.setTg c x).pending = s.pending := rfl
@[simp] theorem State.setTg_regs (c : Nat) (x : Tg) : (s.setTg c x).regs = s.regs := rfl
@[simp] theorem State.setTg_time (c : Nat) (x : Tg) : (s.setTg c x).time = s.time := rfl
@[simp] theorem State.setTg_cleared (c : Nat) (x : Tg) : (s.setTg c x).cleared = s.cleared := rfl
@[simp] theorem State.setTg_latchP (c : Nat) (x : Tg) : (s.setTg c x).latchP = s.latchP := rfl
@[simp] theorem State.setTg_latchC (c : Nat) (x : Tg) : (s.setTg c x).latchC = s.latchC := rfl
@[simp] theorem State.setTg_latchF (c : Nat) (x : Tg) : (s.setTg c x).latchF = s.latchF := rfl
@[simp] theorem State.setTg_mcasts (c : Nat) (x : Tg) : (s.setTg c x).mcasts = s.mcasts := rfl
@[simp] theorem State.setTg_caddy (c : Nat) (x : Tg) : (s.setTg c x).caddy = s.caddy := rfl
@[simp] theorem State.setTg_hbm (c : Nat) (x : Tg) : (s.setTg c x).hbm = s.hbm := rfl
@[simp] theorem State.setTg_reqs (c : Nat) (x : Tg) : (s.setTg c x).reqs = s.reqs := rfl
@[simp] theorem State.setTg_nextReq (c : Nat) (x : Tg) : (s.setTg c x).nextReq = s.nextReq := rfl
@[simp] theorem State.setTg_arb (c : Nat) (x : Tg) : (s.setTg c x).arb = s.arb := rfl
@[simp] theorem State.setTg_seq (c : Nat) (x : Tg) : (s.setTg c x).seq = s.seq := rfl
@[simp] theorem State.setTg_fabric (c : Nat) (x : Tg) : (s.setTg c x).fabric = s.fabric := rfl
@[simp] theorem State.setTg_link (c : Nat) (x : Tg) : (s.setTg c x).link = s.link := rfl
@[simp] theorem State.setTg_can (c : Nat) (x : Tg) : (s.setTg c x).can = s.can := rfl
@[simp] theorem State.setTg_power (c : Nat) (x : Tg) : (s.setTg c x).power = s.power := rfl
@[simp] theorem State.setTg_thermal (c : Nat) (x : Tg) : (s.setTg c x).thermal = s.thermal := rfl
@[simp] theorem State.setTg_bring (c : Nat) (x : Tg) : (s.setTg c x).bring = s.bring := rfl
@[simp] theorem State.setTg_flash (c : Nat) (x : Tg) : (s.setTg c x).flash = s.flash := rfl
@[simp] theorem State.setTg_age (c : Nat) (x : Tg) : (s.setTg c x).age = s.age := rfl
@[simp] theorem State.setTg_lanes (c : Nat) (x : Tg) : (s.setTg c x).lanes = s.lanes := rfl
@[simp] theorem State.setTg_snap (c : Nat) (x : Tg) : (s.setTg c x).snap = s.snap := rfl
@[simp] theorem State.setTg_out (c : Nat) (x : Tg) : (s.setTg c x).out = s.out := rfl
@[simp] theorem State.setTg_free (c : Nat) (x : Tg) : (s.setTg c x).free = s.free := rfl

@[simp] theorem State.setCtx_pending (c : Nat) (x : CtxRun) : (s.setCtx c x).pending = s.pending := rfl
@[simp] theorem State.setCtx_regs (c : Nat) (x : CtxRun) : (s.setCtx c x).regs = s.regs := rfl
@[simp] theorem State.setCtx_time (c : Nat) (x : CtxRun) : (s.setCtx c x).time = s.time := rfl
@[simp] theorem State.setCtx_cleared (c : Nat) (x : CtxRun) : (s.setCtx c x).cleared = s.cleared := rfl
@[simp] theorem State.setCtx_latchP (c : Nat) (x : CtxRun) : (s.setCtx c x).latchP = s.latchP := rfl
@[simp] theorem State.setCtx_latchC (c : Nat) (x : CtxRun) : (s.setCtx c x).latchC = s.latchC := rfl
@[simp] theorem State.setCtx_latchF (c : Nat) (x : CtxRun) : (s.setCtx c x).latchF = s.latchF := rfl
@[simp] theorem State.setCtx_clusters (c : Nat) (x : CtxRun) : (s.setCtx c x).clusters = s.clusters := rfl
@[simp] theorem State.setCtx_mcasts (c : Nat) (x : CtxRun) : (s.setCtx c x).mcasts = s.mcasts := rfl
@[simp] theorem State.setCtx_caddy (c : Nat) (x : CtxRun) : (s.setCtx c x).caddy = s.caddy := rfl
@[simp] theorem State.setCtx_hbm (c : Nat) (x : CtxRun) : (s.setCtx c x).hbm = s.hbm := rfl
@[simp] theorem State.setCtx_reqs (c : Nat) (x : CtxRun) : (s.setCtx c x).reqs = s.reqs := rfl
@[simp] theorem State.setCtx_nextReq (c : Nat) (x : CtxRun) : (s.setCtx c x).nextReq = s.nextReq := rfl
@[simp] theorem State.setCtx_arb (c : Nat) (x : CtxRun) : (s.setCtx c x).arb = s.arb := rfl
@[simp] theorem State.setCtx_fabric (c : Nat) (x : CtxRun) : (s.setCtx c x).fabric = s.fabric := rfl
@[simp] theorem State.setCtx_link (c : Nat) (x : CtxRun) : (s.setCtx c x).link = s.link := rfl
@[simp] theorem State.setCtx_can (c : Nat) (x : CtxRun) : (s.setCtx c x).can = s.can := rfl
@[simp] theorem State.setCtx_power (c : Nat) (x : CtxRun) : (s.setCtx c x).power = s.power := rfl
@[simp] theorem State.setCtx_thermal (c : Nat) (x : CtxRun) : (s.setCtx c x).thermal = s.thermal := rfl
@[simp] theorem State.setCtx_bring (c : Nat) (x : CtxRun) : (s.setCtx c x).bring = s.bring := rfl
@[simp] theorem State.setCtx_flash (c : Nat) (x : CtxRun) : (s.setCtx c x).flash = s.flash := rfl
@[simp] theorem State.setCtx_age (c : Nat) (x : CtxRun) : (s.setCtx c x).age = s.age := rfl
@[simp] theorem State.setCtx_lanes (c : Nat) (x : CtxRun) : (s.setCtx c x).lanes = s.lanes := rfl
@[simp] theorem State.setCtx_snap (c : Nat) (x : CtxRun) : (s.setCtx c x).snap = s.snap := rfl
@[simp] theorem State.setCtx_out (c : Nat) (x : CtxRun) : (s.setCtx c x).out = s.out := rfl
@[simp] theorem State.setCtx_free (c : Nat) (x : CtxRun) : (s.setCtx c x).free = s.free := rfl

@[simp] theorem State.setRing_pending (c r : Nat) (x : RingRun) : (s.setRing c r x).pending = s.pending := rfl
@[simp] theorem State.setRing_regs (c r : Nat) (x : RingRun) : (s.setRing c r x).regs = s.regs := rfl
@[simp] theorem State.setRing_time (c r : Nat) (x : RingRun) : (s.setRing c r x).time = s.time := rfl
@[simp] theorem State.setRing_cleared (c r : Nat) (x : RingRun) : (s.setRing c r x).cleared = s.cleared := rfl
@[simp] theorem State.setRing_latchP (c r : Nat) (x : RingRun) : (s.setRing c r x).latchP = s.latchP := rfl
@[simp] theorem State.setRing_latchC (c r : Nat) (x : RingRun) : (s.setRing c r x).latchC = s.latchC := rfl
@[simp] theorem State.setRing_latchF (c r : Nat) (x : RingRun) : (s.setRing c r x).latchF = s.latchF := rfl
@[simp] theorem State.setRing_clusters (c r : Nat) (x : RingRun) : (s.setRing c r x).clusters = s.clusters := rfl
@[simp] theorem State.setRing_mcasts (c r : Nat) (x : RingRun) : (s.setRing c r x).mcasts = s.mcasts := rfl
@[simp] theorem State.setRing_caddy (c r : Nat) (x : RingRun) : (s.setRing c r x).caddy = s.caddy := rfl
@[simp] theorem State.setRing_hbm (c r : Nat) (x : RingRun) : (s.setRing c r x).hbm = s.hbm := rfl
@[simp] theorem State.setRing_reqs (c r : Nat) (x : RingRun) : (s.setRing c r x).reqs = s.reqs := rfl
@[simp] theorem State.setRing_nextReq (c r : Nat) (x : RingRun) : (s.setRing c r x).nextReq = s.nextReq := rfl
@[simp] theorem State.setRing_arb (c r : Nat) (x : RingRun) : (s.setRing c r x).arb = s.arb := rfl
@[simp] theorem State.setRing_fabric (c r : Nat) (x : RingRun) : (s.setRing c r x).fabric = s.fabric := rfl
@[simp] theorem State.setRing_link (c r : Nat) (x : RingRun) : (s.setRing c r x).link = s.link := rfl
@[simp] theorem State.setRing_can (c r : Nat) (x : RingRun) : (s.setRing c r x).can = s.can := rfl
@[simp] theorem State.setRing_power (c r : Nat) (x : RingRun) : (s.setRing c r x).power = s.power := rfl
@[simp] theorem State.setRing_thermal (c r : Nat) (x : RingRun) : (s.setRing c r x).thermal = s.thermal := rfl
@[simp] theorem State.setRing_bring (c r : Nat) (x : RingRun) : (s.setRing c r x).bring = s.bring := rfl
@[simp] theorem State.setRing_flash (c r : Nat) (x : RingRun) : (s.setRing c r x).flash = s.flash := rfl
@[simp] theorem State.setRing_age (c r : Nat) (x : RingRun) : (s.setRing c r x).age = s.age := rfl
@[simp] theorem State.setRing_lanes (c r : Nat) (x : RingRun) : (s.setRing c r x).lanes = s.lanes := rfl
@[simp] theorem State.setRing_snap (c r : Nat) (x : RingRun) : (s.setRing c r x).snap = s.snap := rfl
@[simp] theorem State.setRing_out (c r : Nat) (x : RingRun) : (s.setRing c r x).out = s.out := rfl
@[simp] theorem State.setRing_free (c r : Nat) (x : RingRun) : (s.setRing c r x).free = s.free := rfl

@[simp] theorem State.setTag_pending (c t : Nat) (v : Int) : (s.setTag c t v).pending = s.pending := rfl
@[simp] theorem State.setTag_regs (c t : Nat) (v : Int) : (s.setTag c t v).regs = s.regs := rfl
@[simp] theorem State.setTag_time (c t : Nat) (v : Int) : (s.setTag c t v).time = s.time := rfl
@[simp] theorem State.setTag_cleared (c t : Nat) (v : Int) : (s.setTag c t v).cleared = s.cleared := rfl
@[simp] theorem State.setTag_latchP (c t : Nat) (v : Int) : (s.setTag c t v).latchP = s.latchP := rfl
@[simp] theorem State.setTag_latchC (c t : Nat) (v : Int) : (s.setTag c t v).latchC = s.latchC := rfl
@[simp] theorem State.setTag_latchF (c t : Nat) (v : Int) : (s.setTag c t v).latchF = s.latchF := rfl
@[simp] theorem State.setTag_clusters (c t : Nat) (v : Int) : (s.setTag c t v).clusters = s.clusters := rfl
@[simp] theorem State.setTag_mcasts (c t : Nat) (v : Int) : (s.setTag c t v).mcasts = s.mcasts := rfl
@[simp] theorem State.setTag_caddy (c t : Nat) (v : Int) : (s.setTag c t v).caddy = s.caddy := rfl
@[simp] theorem State.setTag_hbm (c t : Nat) (v : Int) : (s.setTag c t v).hbm = s.hbm := rfl
@[simp] theorem State.setTag_reqs (c t : Nat) (v : Int) : (s.setTag c t v).reqs = s.reqs := rfl
@[simp] theorem State.setTag_nextReq (c t : Nat) (v : Int) : (s.setTag c t v).nextReq = s.nextReq := rfl
@[simp] theorem State.setTag_arb (c t : Nat) (v : Int) : (s.setTag c t v).arb = s.arb := rfl
@[simp] theorem State.setTag_fabric (c t : Nat) (v : Int) : (s.setTag c t v).fabric = s.fabric := rfl
@[simp] theorem State.setTag_link (c t : Nat) (v : Int) : (s.setTag c t v).link = s.link := rfl
@[simp] theorem State.setTag_can (c t : Nat) (v : Int) : (s.setTag c t v).can = s.can := rfl
@[simp] theorem State.setTag_power (c t : Nat) (v : Int) : (s.setTag c t v).power = s.power := rfl
@[simp] theorem State.setTag_thermal (c t : Nat) (v : Int) : (s.setTag c t v).thermal = s.thermal := rfl
@[simp] theorem State.setTag_bring (c t : Nat) (v : Int) : (s.setTag c t v).bring = s.bring := rfl
@[simp] theorem State.setTag_flash (c t : Nat) (v : Int) : (s.setTag c t v).flash = s.flash := rfl
@[simp] theorem State.setTag_age (c t : Nat) (v : Int) : (s.setTag c t v).age = s.age := rfl
@[simp] theorem State.setTag_lanes (c t : Nat) (v : Int) : (s.setTag c t v).lanes = s.lanes := rfl
@[simp] theorem State.setTag_snap (c t : Nat) (v : Int) : (s.setTag c t v).snap = s.snap := rfl
@[simp] theorem State.setTag_out (c t : Nat) (v : Int) : (s.setTag c t v).out = s.out := rfl
@[simp] theorem State.setTag_free (c t : Nat) (v : Int) : (s.setTag c t v).free = s.free := rfl

@[simp] theorem State.updJob_pending (id : Nat) (f : Job → Job) : (s.updJob id f).pending = s.pending := rfl
@[simp] theorem State.updJob_regs (id : Nat) (f : Job → Job) : (s.updJob id f).regs = s.regs := rfl
@[simp] theorem State.updJob_time (id : Nat) (f : Job → Job) : (s.updJob id f).time = s.time := rfl
@[simp] theorem State.updJob_cleared (id : Nat) (f : Job → Job) : (s.updJob id f).cleared = s.cleared := rfl
@[simp] theorem State.updJob_latchP (id : Nat) (f : Job → Job) : (s.updJob id f).latchP = s.latchP := rfl
@[simp] theorem State.updJob_latchC (id : Nat) (f : Job → Job) : (s.updJob id f).latchC = s.latchC := rfl
@[simp] theorem State.updJob_latchF (id : Nat) (f : Job → Job) : (s.updJob id f).latchF = s.latchF := rfl
@[simp] theorem State.updJob_clusters (id : Nat) (f : Job → Job) : (s.updJob id f).clusters = s.clusters := rfl
@[simp] theorem State.updJob_mcasts (id : Nat) (f : Job → Job) : (s.updJob id f).mcasts = s.mcasts := rfl
@[simp] theorem State.updJob_caddy (id : Nat) (f : Job → Job) : (s.updJob id f).caddy = s.caddy := rfl
@[simp] theorem State.updJob_hbm (id : Nat) (f : Job → Job) : (s.updJob id f).hbm = s.hbm := rfl
@[simp] theorem State.updJob_reqs (id : Nat) (f : Job → Job) : (s.updJob id f).reqs = s.reqs := rfl
@[simp] theorem State.updJob_nextReq (id : Nat) (f : Job → Job) : (s.updJob id f).nextReq = s.nextReq := rfl
@[simp] theorem State.updJob_arb (id : Nat) (f : Job → Job) : (s.updJob id f).arb = s.arb := rfl
@[simp] theorem State.updJob_fabric (id : Nat) (f : Job → Job) : (s.updJob id f).fabric = s.fabric := rfl
@[simp] theorem State.updJob_link (id : Nat) (f : Job → Job) : (s.updJob id f).link = s.link := rfl
@[simp] theorem State.updJob_can (id : Nat) (f : Job → Job) : (s.updJob id f).can = s.can := rfl
@[simp] theorem State.updJob_power (id : Nat) (f : Job → Job) : (s.updJob id f).power = s.power := rfl
@[simp] theorem State.updJob_thermal (id : Nat) (f : Job → Job) : (s.updJob id f).thermal = s.thermal := rfl
@[simp] theorem State.updJob_bring (id : Nat) (f : Job → Job) : (s.updJob id f).bring = s.bring := rfl
@[simp] theorem State.updJob_flash (id : Nat) (f : Job → Job) : (s.updJob id f).flash = s.flash := rfl
@[simp] theorem State.updJob_age (id : Nat) (f : Job → Job) : (s.updJob id f).age = s.age := rfl
@[simp] theorem State.updJob_lanes (id : Nat) (f : Job → Job) : (s.updJob id f).lanes = s.lanes := rfl
@[simp] theorem State.updJob_snap (id : Nat) (f : Job → Job) : (s.updJob id f).snap = s.snap := rfl
@[simp] theorem State.updJob_out (id : Nat) (f : Job → Job) : (s.updJob id f).out = s.out := rfl
@[simp] theorem State.updJob_free (id : Nat) (f : Job → Job) : (s.updJob id f).free = s.free := rfl

@[simp] theorem State.updReq_pending (id : Nat) (f : Req → Req) : (s.updReq id f).pending = s.pending := rfl
@[simp] theorem State.updReq_regs (id : Nat) (f : Req → Req) : (s.updReq id f).regs = s.regs := rfl
@[simp] theorem State.updReq_time (id : Nat) (f : Req → Req) : (s.updReq id f).time = s.time := rfl
@[simp] theorem State.updReq_cleared (id : Nat) (f : Req → Req) : (s.updReq id f).cleared = s.cleared := rfl
@[simp] theorem State.updReq_latchP (id : Nat) (f : Req → Req) : (s.updReq id f).latchP = s.latchP := rfl
@[simp] theorem State.updReq_latchC (id : Nat) (f : Req → Req) : (s.updReq id f).latchC = s.latchC := rfl
@[simp] theorem State.updReq_latchF (id : Nat) (f : Req → Req) : (s.updReq id f).latchF = s.latchF := rfl
@[simp] theorem State.updReq_clusters (id : Nat) (f : Req → Req) : (s.updReq id f).clusters = s.clusters := rfl
@[simp] theorem State.updReq_mcasts (id : Nat) (f : Req → Req) : (s.updReq id f).mcasts = s.mcasts := rfl
@[simp] theorem State.updReq_caddy (id : Nat) (f : Req → Req) : (s.updReq id f).caddy = s.caddy := rfl
@[simp] theorem State.updReq_hbm (id : Nat) (f : Req → Req) : (s.updReq id f).hbm = s.hbm := rfl
@[simp] theorem State.updReq_nextReq (id : Nat) (f : Req → Req) : (s.updReq id f).nextReq = s.nextReq := rfl
@[simp] theorem State.updReq_arb (id : Nat) (f : Req → Req) : (s.updReq id f).arb = s.arb := rfl
@[simp] theorem State.updReq_seq (id : Nat) (f : Req → Req) : (s.updReq id f).seq = s.seq := rfl
@[simp] theorem State.updReq_fabric (id : Nat) (f : Req → Req) : (s.updReq id f).fabric = s.fabric := rfl
@[simp] theorem State.updReq_link (id : Nat) (f : Req → Req) : (s.updReq id f).link = s.link := rfl
@[simp] theorem State.updReq_can (id : Nat) (f : Req → Req) : (s.updReq id f).can = s.can := rfl
@[simp] theorem State.updReq_power (id : Nat) (f : Req → Req) : (s.updReq id f).power = s.power := rfl
@[simp] theorem State.updReq_thermal (id : Nat) (f : Req → Req) : (s.updReq id f).thermal = s.thermal := rfl
@[simp] theorem State.updReq_bring (id : Nat) (f : Req → Req) : (s.updReq id f).bring = s.bring := rfl
@[simp] theorem State.updReq_flash (id : Nat) (f : Req → Req) : (s.updReq id f).flash = s.flash := rfl
@[simp] theorem State.updReq_age (id : Nat) (f : Req → Req) : (s.updReq id f).age = s.age := rfl
@[simp] theorem State.updReq_lanes (id : Nat) (f : Req → Req) : (s.updReq id f).lanes = s.lanes := rfl
@[simp] theorem State.updReq_snap (id : Nat) (f : Req → Req) : (s.updReq id f).snap = s.snap := rfl
@[simp] theorem State.updReq_out (id : Nat) (f : Req → Req) : (s.updReq id f).out = s.out := rfl
@[simp] theorem State.updReq_free (id : Nat) (f : Req → Req) : (s.updReq id f).free = s.free := rfl

@[simp] theorem State.dropReq_pending (id : Nat) : (s.dropReq id).pending = s.pending := rfl
@[simp] theorem State.dropReq_regs (id : Nat) : (s.dropReq id).regs = s.regs := rfl
@[simp] theorem State.dropReq_time (id : Nat) : (s.dropReq id).time = s.time := rfl
@[simp] theorem State.dropReq_cleared (id : Nat) : (s.dropReq id).cleared = s.cleared := rfl
@[simp] theorem State.dropReq_latchP (id : Nat) : (s.dropReq id).latchP = s.latchP := rfl
@[simp] theorem State.dropReq_latchC (id : Nat) : (s.dropReq id).latchC = s.latchC := rfl
@[simp] theorem State.dropReq_latchF (id : Nat) : (s.dropReq id).latchF = s.latchF := rfl
@[simp] theorem State.dropReq_clusters (id : Nat) : (s.dropReq id).clusters = s.clusters := rfl
@[simp] theorem State.dropReq_mcasts (id : Nat) : (s.dropReq id).mcasts = s.mcasts := rfl
@[simp] theorem State.dropReq_caddy (id : Nat) : (s.dropReq id).caddy = s.caddy := rfl
@[simp] theorem State.dropReq_hbm (id : Nat) : (s.dropReq id).hbm = s.hbm := rfl
@[simp] theorem State.dropReq_nextReq (id : Nat) : (s.dropReq id).nextReq = s.nextReq := rfl
@[simp] theorem State.dropReq_arb (id : Nat) : (s.dropReq id).arb = s.arb := rfl
@[simp] theorem State.dropReq_seq (id : Nat) : (s.dropReq id).seq = s.seq := rfl
@[simp] theorem State.dropReq_fabric (id : Nat) : (s.dropReq id).fabric = s.fabric := rfl
@[simp] theorem State.dropReq_link (id : Nat) : (s.dropReq id).link = s.link := rfl
@[simp] theorem State.dropReq_can (id : Nat) : (s.dropReq id).can = s.can := rfl
@[simp] theorem State.dropReq_power (id : Nat) : (s.dropReq id).power = s.power := rfl
@[simp] theorem State.dropReq_thermal (id : Nat) : (s.dropReq id).thermal = s.thermal := rfl
@[simp] theorem State.dropReq_bring (id : Nat) : (s.dropReq id).bring = s.bring := rfl
@[simp] theorem State.dropReq_flash (id : Nat) : (s.dropReq id).flash = s.flash := rfl
@[simp] theorem State.dropReq_age (id : Nat) : (s.dropReq id).age = s.age := rfl
@[simp] theorem State.dropReq_lanes (id : Nat) : (s.dropReq id).lanes = s.lanes := rfl
@[simp] theorem State.dropReq_snap (id : Nat) : (s.dropReq id).snap = s.snap := rfl
@[simp] theorem State.dropReq_out (id : Nat) : (s.dropReq id).out = s.out := rfl
@[simp] theorem State.dropReq_free (id : Nat) : (s.dropReq id).free = s.free := rfl

@[simp] theorem State.setPort_pending (i : Nat) (p : PortRun) : (s.setPort i p).pending = s.pending := rfl
@[simp] theorem State.setPort_regs (i : Nat) (p : PortRun) : (s.setPort i p).regs = s.regs := rfl
@[simp] theorem State.setPort_time (i : Nat) (p : PortRun) : (s.setPort i p).time = s.time := rfl
@[simp] theorem State.setPort_cleared (i : Nat) (p : PortRun) : (s.setPort i p).cleared = s.cleared := rfl
@[simp] theorem State.setPort_latchP (i : Nat) (p : PortRun) : (s.setPort i p).latchP = s.latchP := rfl
@[simp] theorem State.setPort_latchC (i : Nat) (p : PortRun) : (s.setPort i p).latchC = s.latchC := rfl
@[simp] theorem State.setPort_latchF (i : Nat) (p : PortRun) : (s.setPort i p).latchF = s.latchF := rfl
@[simp] theorem State.setPort_clusters (i : Nat) (p : PortRun) : (s.setPort i p).clusters = s.clusters := rfl
@[simp] theorem State.setPort_mcasts (i : Nat) (p : PortRun) : (s.setPort i p).mcasts = s.mcasts := rfl
@[simp] theorem State.setPort_caddy (i : Nat) (p : PortRun) : (s.setPort i p).caddy = s.caddy := rfl
@[simp] theorem State.setPort_hbm (i : Nat) (p : PortRun) : (s.setPort i p).hbm = s.hbm := rfl
@[simp] theorem State.setPort_reqs (i : Nat) (p : PortRun) : (s.setPort i p).reqs = s.reqs := rfl
@[simp] theorem State.setPort_nextReq (i : Nat) (p : PortRun) : (s.setPort i p).nextReq = s.nextReq := rfl
@[simp] theorem State.setPort_arb (i : Nat) (p : PortRun) : (s.setPort i p).arb = s.arb := rfl
@[simp] theorem State.setPort_seq (i : Nat) (p : PortRun) : (s.setPort i p).seq = s.seq := rfl
@[simp] theorem State.setPort_link (i : Nat) (p : PortRun) : (s.setPort i p).link = s.link := rfl
@[simp] theorem State.setPort_can (i : Nat) (p : PortRun) : (s.setPort i p).can = s.can := rfl
@[simp] theorem State.setPort_power (i : Nat) (p : PortRun) : (s.setPort i p).power = s.power := rfl
@[simp] theorem State.setPort_thermal (i : Nat) (p : PortRun) : (s.setPort i p).thermal = s.thermal := rfl
@[simp] theorem State.setPort_bring (i : Nat) (p : PortRun) : (s.setPort i p).bring = s.bring := rfl
@[simp] theorem State.setPort_flash (i : Nat) (p : PortRun) : (s.setPort i p).flash = s.flash := rfl
@[simp] theorem State.setPort_age (i : Nat) (p : PortRun) : (s.setPort i p).age = s.age := rfl
@[simp] theorem State.setPort_lanes (i : Nat) (p : PortRun) : (s.setPort i p).lanes = s.lanes := rfl
@[simp] theorem State.setPort_snap (i : Nat) (p : PortRun) : (s.setPort i p).snap = s.snap := rfl
@[simp] theorem State.setPort_out (i : Nat) (p : PortRun) : (s.setPort i p).out = s.out := rfl
@[simp] theorem State.setPort_free (i : Nat) (p : PortRun) : (s.setPort i p).free = s.free := rfl

@[simp] theorem State.setConn_pending (n c : Nat) (x : Conn) : (s.setConn n c x).pending = s.pending := rfl
@[simp] theorem State.setConn_regs (n c : Nat) (x : Conn) : (s.setConn n c x).regs = s.regs := rfl
@[simp] theorem State.setConn_time (n c : Nat) (x : Conn) : (s.setConn n c x).time = s.time := rfl
@[simp] theorem State.setConn_cleared (n c : Nat) (x : Conn) : (s.setConn n c x).cleared = s.cleared := rfl
@[simp] theorem State.setConn_latchP (n c : Nat) (x : Conn) : (s.setConn n c x).latchP = s.latchP := rfl
@[simp] theorem State.setConn_latchC (n c : Nat) (x : Conn) : (s.setConn n c x).latchC = s.latchC := rfl
@[simp] theorem State.setConn_latchF (n c : Nat) (x : Conn) : (s.setConn n c x).latchF = s.latchF := rfl
@[simp] theorem State.setConn_clusters (n c : Nat) (x : Conn) : (s.setConn n c x).clusters = s.clusters := rfl
@[simp] theorem State.setConn_mcasts (n c : Nat) (x : Conn) : (s.setConn n c x).mcasts = s.mcasts := rfl
@[simp] theorem State.setConn_caddy (n c : Nat) (x : Conn) : (s.setConn n c x).caddy = s.caddy := rfl
@[simp] theorem State.setConn_hbm (n c : Nat) (x : Conn) : (s.setConn n c x).hbm = s.hbm := rfl
@[simp] theorem State.setConn_reqs (n c : Nat) (x : Conn) : (s.setConn n c x).reqs = s.reqs := rfl
@[simp] theorem State.setConn_nextReq (n c : Nat) (x : Conn) : (s.setConn n c x).nextReq = s.nextReq := rfl
@[simp] theorem State.setConn_arb (n c : Nat) (x : Conn) : (s.setConn n c x).arb = s.arb := rfl
@[simp] theorem State.setConn_seq (n c : Nat) (x : Conn) : (s.setConn n c x).seq = s.seq := rfl
@[simp] theorem State.setConn_link (n c : Nat) (x : Conn) : (s.setConn n c x).link = s.link := rfl
@[simp] theorem State.setConn_can (n c : Nat) (x : Conn) : (s.setConn n c x).can = s.can := rfl
@[simp] theorem State.setConn_power (n c : Nat) (x : Conn) : (s.setConn n c x).power = s.power := rfl
@[simp] theorem State.setConn_thermal (n c : Nat) (x : Conn) : (s.setConn n c x).thermal = s.thermal := rfl
@[simp] theorem State.setConn_bring (n c : Nat) (x : Conn) : (s.setConn n c x).bring = s.bring := rfl
@[simp] theorem State.setConn_flash (n c : Nat) (x : Conn) : (s.setConn n c x).flash = s.flash := rfl
@[simp] theorem State.setConn_age (n c : Nat) (x : Conn) : (s.setConn n c x).age = s.age := rfl
@[simp] theorem State.setConn_lanes (n c : Nat) (x : Conn) : (s.setConn n c x).lanes = s.lanes := rfl
@[simp] theorem State.setConn_snap (n c : Nat) (x : Conn) : (s.setConn n c x).snap = s.snap := rfl
@[simp] theorem State.setConn_out (n c : Nat) (x : Conn) : (s.setConn n c x).out = s.out := rfl
@[simp] theorem State.setConn_free (n c : Nat) (x : Conn) : (s.setConn n c x).free = s.free := rfl

@[simp] theorem State.setMq_pending (rx : Bool) (q : Nat) (m : MqRun) : (s.setMq rx q m).pending = s.pending := rfl
@[simp] theorem State.setMq_regs (rx : Bool) (q : Nat) (m : MqRun) : (s.setMq rx q m).regs = s.regs := rfl
@[simp] theorem State.setMq_time (rx : Bool) (q : Nat) (m : MqRun) : (s.setMq rx q m).time = s.time := rfl
@[simp] theorem State.setMq_cleared (rx : Bool) (q : Nat) (m : MqRun) : (s.setMq rx q m).cleared = s.cleared := rfl
@[simp] theorem State.setMq_latchP (rx : Bool) (q : Nat) (m : MqRun) : (s.setMq rx q m).latchP = s.latchP := rfl
@[simp] theorem State.setMq_latchC (rx : Bool) (q : Nat) (m : MqRun) : (s.setMq rx q m).latchC = s.latchC := rfl
@[simp] theorem State.setMq_latchF (rx : Bool) (q : Nat) (m : MqRun) : (s.setMq rx q m).latchF = s.latchF := rfl
@[simp] theorem State.setMq_clusters (rx : Bool) (q : Nat) (m : MqRun) : (s.setMq rx q m).clusters = s.clusters := rfl
@[simp] theorem State.setMq_mcasts (rx : Bool) (q : Nat) (m : MqRun) : (s.setMq rx q m).mcasts = s.mcasts := rfl
@[simp] theorem State.setMq_caddy (rx : Bool) (q : Nat) (m : MqRun) : (s.setMq rx q m).caddy = s.caddy := rfl
@[simp] theorem State.setMq_hbm (rx : Bool) (q : Nat) (m : MqRun) : (s.setMq rx q m).hbm = s.hbm := rfl
@[simp] theorem State.setMq_reqs (rx : Bool) (q : Nat) (m : MqRun) : (s.setMq rx q m).reqs = s.reqs := rfl
@[simp] theorem State.setMq_nextReq (rx : Bool) (q : Nat) (m : MqRun) : (s.setMq rx q m).nextReq = s.nextReq := rfl
@[simp] theorem State.setMq_arb (rx : Bool) (q : Nat) (m : MqRun) : (s.setMq rx q m).arb = s.arb := rfl
@[simp] theorem State.setMq_seq (rx : Bool) (q : Nat) (m : MqRun) : (s.setMq rx q m).seq = s.seq := rfl
@[simp] theorem State.setMq_link (rx : Bool) (q : Nat) (m : MqRun) : (s.setMq rx q m).link = s.link := rfl
@[simp] theorem State.setMq_can (rx : Bool) (q : Nat) (m : MqRun) : (s.setMq rx q m).can = s.can := rfl
@[simp] theorem State.setMq_power (rx : Bool) (q : Nat) (m : MqRun) : (s.setMq rx q m).power = s.power := rfl
@[simp] theorem State.setMq_thermal (rx : Bool) (q : Nat) (m : MqRun) : (s.setMq rx q m).thermal = s.thermal := rfl
@[simp] theorem State.setMq_bring (rx : Bool) (q : Nat) (m : MqRun) : (s.setMq rx q m).bring = s.bring := rfl
@[simp] theorem State.setMq_flash (rx : Bool) (q : Nat) (m : MqRun) : (s.setMq rx q m).flash = s.flash := rfl
@[simp] theorem State.setMq_age (rx : Bool) (q : Nat) (m : MqRun) : (s.setMq rx q m).age = s.age := rfl
@[simp] theorem State.setMq_lanes (rx : Bool) (q : Nat) (m : MqRun) : (s.setMq rx q m).lanes = s.lanes := rfl
@[simp] theorem State.setMq_snap (rx : Bool) (q : Nat) (m : MqRun) : (s.setMq rx q m).snap = s.snap := rfl
@[simp] theorem State.setMq_out (rx : Bool) (q : Nat) (m : MqRun) : (s.setMq rx q m).out = s.out := rfl
@[simp] theorem State.setMq_free (rx : Bool) (q : Nat) (m : MqRun) : (s.setMq rx q m).free = s.free := rfl

@[simp] theorem State.setColl_pending (n : Nat) (c : Collective) : (s.setColl n c).pending = s.pending := rfl
@[simp] theorem State.setColl_regs (n : Nat) (c : Collective) : (s.setColl n c).regs = s.regs := rfl
@[simp] theorem State.setColl_time (n : Nat) (c : Collective) : (s.setColl n c).time = s.time := rfl
@[simp] theorem State.setColl_cleared (n : Nat) (c : Collective) : (s.setColl n c).cleared = s.cleared := rfl
@[simp] theorem State.setColl_latchP (n : Nat) (c : Collective) : (s.setColl n c).latchP = s.latchP := rfl
@[simp] theorem State.setColl_latchC (n : Nat) (c : Collective) : (s.setColl n c).latchC = s.latchC := rfl
@[simp] theorem State.setColl_latchF (n : Nat) (c : Collective) : (s.setColl n c).latchF = s.latchF := rfl
@[simp] theorem State.setColl_clusters (n : Nat) (c : Collective) : (s.setColl n c).clusters = s.clusters := rfl
@[simp] theorem State.setColl_mcasts (n : Nat) (c : Collective) : (s.setColl n c).mcasts = s.mcasts := rfl
@[simp] theorem State.setColl_caddy (n : Nat) (c : Collective) : (s.setColl n c).caddy = s.caddy := rfl
@[simp] theorem State.setColl_hbm (n : Nat) (c : Collective) : (s.setColl n c).hbm = s.hbm := rfl
@[simp] theorem State.setColl_reqs (n : Nat) (c : Collective) : (s.setColl n c).reqs = s.reqs := rfl
@[simp] theorem State.setColl_nextReq (n : Nat) (c : Collective) : (s.setColl n c).nextReq = s.nextReq := rfl
@[simp] theorem State.setColl_arb (n : Nat) (c : Collective) : (s.setColl n c).arb = s.arb := rfl
@[simp] theorem State.setColl_seq (n : Nat) (c : Collective) : (s.setColl n c).seq = s.seq := rfl
@[simp] theorem State.setColl_link (n : Nat) (c : Collective) : (s.setColl n c).link = s.link := rfl
@[simp] theorem State.setColl_can (n : Nat) (c : Collective) : (s.setColl n c).can = s.can := rfl
@[simp] theorem State.setColl_power (n : Nat) (c : Collective) : (s.setColl n c).power = s.power := rfl
@[simp] theorem State.setColl_thermal (n : Nat) (c : Collective) : (s.setColl n c).thermal = s.thermal := rfl
@[simp] theorem State.setColl_bring (n : Nat) (c : Collective) : (s.setColl n c).bring = s.bring := rfl
@[simp] theorem State.setColl_flash (n : Nat) (c : Collective) : (s.setColl n c).flash = s.flash := rfl
@[simp] theorem State.setColl_age (n : Nat) (c : Collective) : (s.setColl n c).age = s.age := rfl
@[simp] theorem State.setColl_lanes (n : Nat) (c : Collective) : (s.setColl n c).lanes = s.lanes := rfl
@[simp] theorem State.setColl_snap (n : Nat) (c : Collective) : (s.setColl n c).snap = s.snap := rfl
@[simp] theorem State.setColl_out (n : Nat) (c : Collective) : (s.setColl n c).out = s.out := rfl
@[simp] theorem State.setColl_free (n : Nat) (c : Collective) : (s.setColl n c).free = s.free := rfl

/-! ### Read after write -/

@[simp] theorem State.cluster_setCluster_self (c : Nat) (x : Cluster) : (s.setCluster c x).cluster c = x :=
  Tbl.get_put_self _ _ _ _
theorem State.cluster_setCluster_ne {c d : Nat} (x : Cluster) (h : d ≠ c) :
    (s.setCluster c x).cluster d = s.cluster d := Tbl.get_put_ne _ _ _ _ h
@[simp] theorem State.engine_setEngine_self (c : Nat) (x : Engine) : (s.setEngine c x).engine c = x := by
  simp [State.setEngine, State.engine]
@[simp] theorem State.tg_setEngine (c : Nat) (x : Engine) (d : Nat) : (s.setEngine c x).tg d = s.tg d := by
  by_cases h : d = c
  · subst h; simp [State.setEngine, State.tg]
  · simp [State.setEngine, State.tg, State.cluster_setCluster_ne s _ h]
@[simp] theorem State.tg_setTg_self (c : Nat) (x : Tg) : (s.setTg c x).tg c = x := by
  simp [State.setTg, State.tg]
@[simp] theorem State.engine_setTg (c : Nat) (x : Tg) (d : Nat) : (s.setTg c x).engine d = s.engine d := by
  by_cases h : d = c
  · subst h; simp [State.setTg, State.engine]
  · simp [State.setTg, State.engine, State.cluster_setCluster_ne s _ h]
@[simp] theorem State.ctx_setCtx_self (c : Nat) (x : CtxRun) : (s.setCtx c x).ctx c = x :=
  Tbl.get_put_self _ _ _ _
theorem State.ctx_setCtx_ne {c d : Nat} (x : CtxRun) (h : d ≠ c) : (s.setCtx c x).ctx d = s.ctx d :=
  Tbl.get_put_ne _ _ _ _ h
@[simp] theorem State.ring_setRing_self (c r : Nat) (x : RingRun) : (s.setRing c r x).ring c r = x :=
  Tbl.get_put_self _ _ _ _
@[simp] theorem State.tagBal_setTag_self (c t : Nat) (v : Int) : (s.setTag c t v).tagBal c t = v :=
  Tbl.get_put_self _ _ _ _
@[simp] theorem State.port_setPort_self (i : Nat) (p : PortRun) : (s.setPort i p).port i = p :=
  Tbl.get_put_self _ _ _ _
@[simp] theorem State.conn_setConn_self (n c : Nat) (x : Conn) : (s.setConn n c x).conn n c = x :=
  Tbl.get_put_self _ _ _ _
@[simp] theorem State.mq_setMq_self (rx : Bool) (q : Nat) (m : MqRun) : (s.setMq rx q m).mq rx q = m :=
  Tbl.get_put_self _ _ _ _
@[simp] theorem State.reg_count_self (i j n : Nat) : (s.count i j n).reg i j = s.reg i j + BitVec.ofNat 64 n := by
  simp [State.count]

end Sys2Proof.Machine
end

