-- ==== Sys2Proof/WellFormed.lean ====
section
/-! DEFINITION. Which commands are well formed: the sizes, counts and ranges that their operands keep. A
sender keeps them; the meaning of a command is total without them. -/

namespace Sys2Proof

/-- The bytes of one access over the link (R386). -/
def busSize (n : Nat) : Bool := n == 1 || n == 2 || n == 4 || n == 8

/-- SDO writes carry 4 or 8 bytes (R423). -/
def sdoSize (n : Nat) : Bool := n == 4 || n == 8

/-- A thread accesses 1, 2, 4, 8 or 16 bytes (R248). -/
def accessSize (n : Nat) : Bool := n == 1 || n == 2 || n == 4 || n == 8 || n == 16

/-- A thread has at most 255 registers (R230). -/
def regNum (n : Nat) : Bool := decide (n < 255)

def Src.wf : Src → Bool
  | .reg n => regNum n
  | _ => true

def AluOp.wf : AluOp → Bool
  | .add d a b | .sub d a b | .shl d a b | .shrL d a b | .shrA d a b | .mul32 d a b | .and d a b
  | .or d a b | .xor d a b | .fadd d a b | .fmul d a b | .cmp _ d a b => regNum d && a.wf && b.wf
  | .select d p a b | .ffma d p a b | .bf16fma d p a b => regNum d && p.wf && a.wf && b.wf
  | .mul64 d a b => regNum d && regNum a && regNum b
  | .special _ d a => regNum d && a.wf
  | .branch _ | .undefinedEncoding => true
  | .branchIf p _ => p.wf
  | .call d _ => regNum d
  | .ret a => regNum a

/-- Words of an array of n words, each with at least one wrong bit of 79 (R206). -/
def wordErrs (n : Nat) (es : List WordErr) : Bool := es.all fun e => decide (e.word < n ∧ 1 ≤ e.bits ∧ e.bits ≤ 79)

/-- An instruction is at least one byte long. -/
def Th.wf (th : Th) : Bool := decide (1 ≤ th.size)

/-- A frame is at most 9,216 bytes long (R327). -/
def MFrame.wf (f : MFrame) : Bool := decide (f.hop < 256 ∧ f.payload.length ≤ 9216)

/-- The readings of one millisecond are complete (R450, R458). -/
def Sensors.wf (x : Sensors) : Bool :=
  x.diodes.length == 42 && x.therms.length == 6 && x.zoneW.length == 16 && x.quarterW.length == 8

def Instr.wf : Instr → Bool
  | .dictionaryWrite _ _ _ n _ _ => busSize n
  | .sdoWrite _ _ n _ f => f != .request || sdoSize n
  | .sliceRead _ es _ | .markedRead _ es _ | .sliceWrite _ es _ | .atomicAtHomeSlice _ es _
  | .scrubCaddyLine _ _ es _ => wordErrs 18 es
  | .stationaryLoad _ es | .movingVectorIssue _ es | .osTileIssue _ es | .epilogueWrite _ es =>
    es.all fun e => decide (1 ≤ e.bits ∧ e.bits ≤ 79)
  | .groupIssue _ _ uses reuse f => reuse.all regNum && (uses.all fun u => u.2.all regNum)
    && f.rcache.all regNum && f.regs.all fun e => regNum e.reg && decide (e.lane < 32 ∧ 1 ≤ e.bits ∧ e.bits ≤ 79)
  | .aluInstruction th op => th.wf && op.wf
  | .gmat th mask _ _ a b c => th.wf && mask.wf && regNum a && regNum b && regNum c
  | .xlaneGet th mask d a lane => th.wf && mask.wf && regNum d && regNum a && lane.wf
  | .xlanePoll th mask _ d p => th.wf && mask.wf && regNum d && p.wf
  | .xlaneFold th mask _ _ d a => th.wf && mask.wf && regNum d && a.wf
  | .ld th d a n _ | .ldByp th d a n | .ldDregs th d a n | .st th d a n =>
    th.wf && regNum d && regNum a && accessSize n
  | .memoryAtomic th _ _ d a v => th.wf && regNum d && regNum a && regNum v
  | .localLoad th d a n es => th.wf && regNum d && a.wf && accessSize n && wordErrs 32768 es
  | .localStore th a v n | .windowStore th a v n => th.wf && a.wf && regNum v && accessSize n
  | .windowLoad th d a n es => th.wf && regNum d && a.wf && accessSize n && wordErrs 262144 es
  | .localAtomic th _ _ d a v es => th.wf && regNum d && a.wf && regNum v && wordErrs 32768 es
  | .prefetch th a len => th.wf && regNum a && len.wf
  | .fenceBlock th | .fenceDevice th | .fenceFabric th | .barBlock th | .exit th | .mqBegin th _ => th.wf
  | .ctTake th c n | .ctPost th c n => th.wf && c.wf && n.wf
  | .cvt th _ d a | .cvtX2 th _ d a => th.wf && regNum d && regNum a
  | .cvtK th _ d a k | .cvtX2K th _ d a k => th.wf && regNum d && regNum a && regNum k
  | .rngU32 th d | .rngNorm th d => th.wf && regNum d
  | .rngKseed th d k c => th.wf && regNum d && regNum k && regNum c
  | .rngU32K th d k | .rngNormK th d k => th.wf && regNum d && regNum k
  | .mqPut th _ a | .mqGet th _ a => th.wf && regNum a
  | .mqEnd th _ l n q => th.wf && l.wf && n.wf && q.wf
  | .topologyRecordReceive _ _ _ _ links => decide (links.length ≤ 16)
  | .morotikFrameReceive _ f _ => f.wf
  | .creditReceive _ counts => counts.length == 4
  | .egressTransmit _ es => wordErrs 512 es
  | .bar2Write _ data _ | .bar4StagingWrite _ data _ => data != []
  | .bar2Read _ n => decide (1 ≤ n)
  | .mctpGetEvidence nonce => nonce.length == 32
  | .rpdo1Receive data => decide (data.length ≤ 64)
  | .sensorRead x => x.wf
  | .leafPowerupCheck ok => ok.length == 4
  | .ageingReplan v => v.length == 8
  | _ => true

end Sys2Proof
end

