-- ==== Sys2Proof/Tests/Slice0.lean ====
section
/-! SUPPORT. Tests: an ill-formed command for each check of WellFormed; for every statement of the obligations a
state and operands that meet its hypotheses, clause by clause; and the worked examples that the manual gives. -/

namespace Sys2Proof.Machine

set_option Elab.async false

/-! ### Ill-formed commands -/

def thOk : Th := ⟨0, 0, 8⟩
def thBad : Th := ⟨0, 0, 0⟩
def noFrame : MFrame := ⟨0, 0, 0, 0, 64, 0, 0, 0, 0, 0, 0, 0, 0x86DD, 0, 0, 0, 0, 0, 0, 0, []⟩

theorem test_wf_refuses_bus_and_sdo_sizes :
    (Instr.dictionaryWrite .bar0 0x2100 2 3 0 false).wf = false ∧ (Instr.sdoWrite 0x2100 2 5 0).wf = false
    ∧ (Instr.dictionaryWrite .bar0 0x2100 2 4 0 false).wf = true := by decide

theorem test_wf_refuses_word_errors :
    (Instr.sliceRead 0 [⟨18, 1⟩] false).wf = false ∧ (Instr.scrubCaddyLine 0 0 [⟨0, 0⟩] false).wf = false
    ∧ (Instr.sliceRead 0 [⟨15, 72⟩] false).wf = true
    ∧ (Instr.stationaryLoad 0 [⟨.cup, 0, 80⟩]).wf = false ∧ (Instr.egressTransmit 0 [⟨512, 1⟩]).wf = false := by decide

theorem test_wf_refuses_registers_above_254 :
    (Instr.groupIssue 0 0 [(0, [255])] [] .none).wf = false ∧ (Instr.groupIssue 0 0 [] [255] .none).wf = false
    ∧ (Instr.groupIssue 0 0 [] [] { IssueErrs.none with regs := [⟨32, 0, 2⟩] }).wf = false
    ∧ (Instr.aluInstruction thOk (.add 255 (.reg 0) (.reg 1))).wf = false
    ∧ (Instr.aluInstruction thOk (.select 0 (.reg 255) (.reg 0) (.reg 1))).wf = false
    ∧ (Instr.aluInstruction thOk (.mul64 0 255 2)).wf = false ∧ (Instr.aluInstruction thOk (.special .sqrt 255 (.reg 0))).wf = false
    ∧ (Instr.aluInstruction thOk (.branchIf (.reg 255) 0)).wf = false ∧ (Instr.aluInstruction thOk (.call 255 0)).wf = false
    ∧ (Instr.aluInstruction thOk (.ret 255)).wf = false ∧ (Instr.aluInstruction thBad (.branch 0)).wf = false := by decide

theorem test_wf_refuses_collective_operands :
    (Instr.gmat thOk (.imm 1) .fp16 .fp16 255 0 0).wf = false ∧ (Instr.xlaneGet thOk (.imm 1) 0 255 (.imm 0)).wf = false
    ∧ (Instr.xlanePoll thOk (.reg 255) .anyOf 0 (.reg 0)).wf = false
    ∧ (Instr.xlaneFold thBad (.imm 1) .sum false 0 (.reg 0)).wf = false := by decide

theorem test_wf_refuses_memory_operands :
    (Instr.ld thOk 0 2 3 true).wf = false ∧ (Instr.ldByp thOk 255 2 4).wf = false ∧ (Instr.ldDregs thOk 0 255 4).wf = false
    ∧ (Instr.st thOk 0 2 5).wf = false ∧ (Instr.memoryAtomic thOk .add .i32 0 255 2).wf = false
    ∧ (Instr.localLoad thOk 0 (.reg 1) 4 [⟨32768, 1⟩]).wf = false ∧ (Instr.localStore thOk (.reg 1) 255 4).wf = false
    ∧ (Instr.windowStore thOk (.reg 1) 0 7).wf = false ∧ (Instr.windowLoad thOk 0 (.reg 255) 4 []).wf = false
    ∧ (Instr.localAtomic thOk .add .i32 255 (.reg 0) 1 []).wf = false ∧ (Instr.prefetch thOk 255 (.imm 1)).wf = false := by decide

theorem test_wf_refuses_control_and_draws :
    (Instr.fenceBlock thBad).wf = false ∧ (Instr.barBlock thBad).wf = false ∧ (Instr.ctTake thOk (.reg 255) (.imm 1)).wf = false
    ∧ (Instr.ctPost thOk (.imm 1) (.reg 255)).wf = false ∧ (Instr.cvt thOk ⟨0, 0, 0, false⟩ 255 0).wf = false
    ∧ (Instr.cvtK thOk ⟨0, 0, 0, false⟩ 0 0 255).wf = false ∧ (Instr.rngU32 thOk 255).wf = false
    ∧ (Instr.rngKseed thOk 0 255 0).wf = false ∧ (Instr.rngNormK thOk 0 255).wf = false := by decide

theorem test_wf_refuses_lengths :
    (Instr.morotikFrameReceive none { noFrame with hop := 256 } .good).wf = false ∧ (Instr.creditReceive 0 [0, 0, 0]).wf = false
    ∧ (Instr.bar2Write 0 [] false).wf = false ∧ (Instr.bar4StagingWrite 0 [] false).wf = false ∧ (Instr.bar2Read 0 0).wf = false
    ∧ (Instr.mctpGetEvidence [0]).wf = false ∧ (Instr.rpdo1Receive (List.replicate 65 0)).wf = false
    ∧ (Instr.leafPowerupCheck [true]).wf = false ∧ (Instr.ageingReplan []).wf = false := by decide

/-! ### The block and its dictionary: states and operands that meet the statements' hypotheses -/

/-- A device in READY, its leaves on, its link up and its CAN port running. -/
def up : State :=
  let s := State.reset
  { s with
    regs := [(0x201201, 0x500), (0x2B0001, 6)]
    bring := { s.bring with firmware := true, rom := false, leafOn := 0xF, checked := true, waves := List.range 8, marched := 3 }
    link := { s.link with up := true }
    can := { s.can with running := true } }

/-- The device with other values of some entries, given by key. -/
def withRegs (s : State) (rs : List (Nat × Word64)) : State := rs.foldl (fun s r => { s with regs := s.regs.set r.1 r.2 }) s

theorem test_witness_ResetHoldsResetValues : ∃ e, entryOf 0x2100 2 = some e := ⟨_, rfl⟩

theorem test_witness_StepTakesTheFrontCommand :
    ({ up with pending := [.caddyFlushDone, .fwVerify] } : State).pending = .caddyFlushDone :: [.fwVerify] := rfl

theorem test_witness_IdleStepIsOneClock :
    up.pending = [] ∧ up.dev ≠ devOff ∧ (withRegs up [(0x2B0001, 0)]).dev = devOff ∧ (withRegs up [(0x2B0001, 0)]).pending = [] := by decide +kernel

theorem test_witness_StepKeepsCanonicalForm :
    (Mem.wf up.hbm.mem = true ∧ up.hbm.poison = [] ∧ Tbl.rising up.regs = true)
    ∧ step { up with pending := [.fwCommandDone true] } = .next up := ⟨by decide +kernel, rfl⟩

theorem test_witness_WriteChecksComeInOrder :
    (up.entryWrite .bar0 0x2B00 1 0).2 ≠ .done ∧ indexExists 0x7777 = false
    ∧ (indexExists 0x2310 = true ∧ entryOf 0x2310 0xFE = none)
    ∧ (∃ e, entryOf 0x2B00 1 = some e ∧ e.writable = false)
    ∧ (∃ e, entryOf 0x2310 4 = some e ∧ e.writable = true ∧ Path.of .sdo ∉ rightsOf 0x2310 4
        ∧ Path.of .bar0 ∈ rightsOf 0x2310 4 ∧ State.reset.domainOn 0x2310 = false ∧ up.domainOn 0x2310 = true
        ∧ inRange 0x2310 4 ((e.merged (up.reg 0x2310 4) 19 &&& ~~~e.wo) ||| (19 &&& e.wo)) = false) := by
  refine ⟨by decide +kernel, by decide +kernel, by decide +kernel, ⟨_, rfl, by decide +kernel⟩, ⟨_, rfl, by decide +kernel⟩⟩

theorem test_witness_PlainEntryTakesItsWritableBits :
    ∃ e, entryOf 0x2A20 1 = some e ∧ e.writable = true ∧ Path.of .bar0 ∈ rightsOf 0x2A20 1 ∧ up.domainOn 0x2A20 = true
      ∧ inRange 0x2A20 1 ((e.merged (up.reg 0x2A20 1) 0 &&& ~~~e.wo) ||| (0 &&& e.wo)) = true := ⟨_, rfl, by decide +kernel⟩

theorem test_witness_EachWayWritesAndReports :
    up.mctpOn = true ∧ up.canOperational = true ∧ up.canOn = true ∧ up.bar0On = true ∧ up.sdoOn = true ∧ up.can.serving = false
    ∧ (up.setReg 0x2910 1 0).switchOn = true
    ∧ 1 < (0x2A20 : BitVec 16).toNat ∧ up.dev ≠ devBoot ∧ entryBytes 0x2A20 1 = 8
    ∧ entryBytes 0x2100 2 = 4 ∧ (up.canAccept.entryWrite .sdo 0x2100 2 5000).2 ≠ .done
    ∧ (up.canAccept.entryWrite .sdo 0x2100 2 1000).2 = .done := by decide +kernel

theorem test_witness_ReadsLatchOnTheirOwnPath :
    (up.mctpOn = true ∧ up.latchP.view = false ∧ counterTop 0x3A00 ≠ 0 ∧ 1 ≤ counterTop 0x3A00 ∧ up.domainOn 0x3A00 = true)
    ∧ (∃ e, entryOf 0x2A20 1 = some e ∧ e.wide = true ∧ up.bar0On = true ∧ up.dev ≠ devBoot ∧ up.domainOn 0x2A20 = true)
    ∧ (∃ e, entryOf 0x2B00 2 = some e ∧ e.wo ≠ 0 ∧ up.sdoOn = true ∧ up.can.serving = false ∧ up.domainOn 0x2B00 = true)
    ∧ indexExists 0x7777 = false :=
  ⟨by decide +kernel, ⟨_, rfl, by decide +kernel⟩, ⟨_, rfl, by decide +kernel⟩, by decide +kernel⟩

/-- Job 0 of context 0 with these words has started. -/
def job0 (w : List Word64) : Job :=
  { id := 0, ctx := 0, ring := 0, entry := 0, words := w, started := some 0, startLate := false, ftUnlock := false, exc := 0
    poison := false, fault := none, faultAt := 0, engine := none, moved := false, info := 0 }

/-- A COMPUTE job runs on cluster 0. -/
def busy : State :=
  { up with
    seq := { up.seq with jobs := [job0 [0x300000001, 1]] }
    clusters := [(0, { Cluster.idle with job := some 0 })] }

theorem test_witness_CupsplitIsLockedWhileJobsRun :
    Path.of .bar0 ∈ rightsOf 0x2500 8 ∧ up.domainOn 0x2500 = true ∧ fieldOf 8 3 0 ≤ 8 ∧ busy.clustersRun = true
    ∧ busy.domainOn 0x2500 = true ∧ up.clustersRun = false := by decide +kernel

/-! ### Caddies, HBM, arbitration and repair -/

/-- A read of the first sector of HBM by the sequencer, at its home slice. -/
def rd0 : Req := { mkReq .seqr .read (localAddr 0) 32 [] false true (.head 0) none with id := 7 }
def wr0 : Req := { rd0 with kind := .write, len := 0, data := List.replicate 32 0xA5 }
def at0 : Req := { rd0 with kind := .atomic .add .i32, len := 4, operands := [(1, 0)] }
/-- Line 0, all sectors valid. -/
def line0 : Line := ⟨0, 0xF, 0, 0, false, 0, 0x1234⟩

def held (rs : List Req) (ls : Tbl Line) : State := { up with reqs := rs, caddy := { up.caddy with lines := ls } }
def guarding : State := let s := held [rd0] []; { withRegs s [(0x231008, 1)] with caddy := { s.caddy with guard0 := [0] } }

theorem test_witness_SliceReadsServeHitMissGuardAndMark :
    (let s := (held [rd0] []).takeRead 0
     s.req? 7 = some rd0 ∧ s.atSlice rd0 = true ∧ s.readFree (s.portOf (addrLocal rd0.addr)) (addrLocal rd0.addr / 128) = false)
    ∧ (let s := held [rd0] [(0, line0)]
     s.req? 7 = some rd0 ∧ rd0.kind = .read ∧ rd0.marked = false ∧ s.atSlice rd0 = true ∧ s.guarded (addrLocal rd0.addr) = false
      ∧ s.readFree (s.portOf (addrLocal rd0.addr)) (addrLocal rd0.addr / 128) = true ∧ s.needs rd0 = [])
    ∧ (let s := held [rd0] []
       s.req? 7 = some rd0 ∧ s.atSlice rd0 = true ∧ s.guarded (addrLocal rd0.addr) = false ∧ s.needs rd0 ≠ []
        ∧ s.readFree (s.portOf (addrLocal rd0.addr)) (addrLocal rd0.addr / 128) = true
        ∧ s.missRoom (addrLocal rd0.addr) (s.needs rd0) = true)
    ∧ (guarding.req? 7 = some rd0 ∧ guarding.atSlice rd0 = true ∧ guarding.guarded (addrLocal rd0.addr) = true
      ∧ guarding.readFree (guarding.portOf (addrLocal rd0.addr)) (addrLocal rd0.addr / 128) = true
      ∧ guarding.heldClear 0x2310 0x0C (guarding.homeOf (addrLocal rd0.addr)) = false)
    ∧ (∀ p ∈ [false, true],
       let r := { rd0 with marked := true }
       let s := withRegs (held [r] [(0, { line0 with pinned := p })]) [(0x231008, 1)]
       s.req? 7 = some r ∧ r.kind = .read ∧ s.atSlice r = true ∧ s.guarded (addrLocal r.addr) = false ∧ s.needs r = []
        ∧ s.readFree (s.portOf (addrLocal r.addr)) (addrLocal r.addr / 128) = true ∧ s.guardOn = true
        ∧ s.findWay (addrLocal r.addr) = some 0 ∧ s.linePinned (addrLocal r.addr) = p
        ∧ s.heldClear 0x2310 0x0C (6 + s.homeOf (addrLocal r.addr)) = false) := by decide +kernel

theorem test_witness_SliceWriteAndAtomicUpdateTheSector :
    (∀ r ∈ [wr0, at0],
     let s := (held [r] [(0, line0)]).takeWrite 0 0 2
     s.req? 7 = some r ∧ s.atSlice r = true ∧ s.findWay (addrLocal r.addr) = some 0
      ∧ s.writeFree (s.portOf (addrLocal r.addr)) = false)
    ∧ at0.kind.isAtomic = true
    ∧ (let s := held [wr0] [(0, line0)]
     s.req? 7 = some wr0 ∧ s.atSlice wr0 = true ∧ s.findWay (addrLocal wr0.addr) = some 0 ∧ wr0.kind = .write
      ∧ s.writeFree (s.portOf (addrLocal wr0.addr)) = true ∧ addrLocal wr0.addr % 32 = 0 ∧ wr0.data.length = 32)
    ∧ (let s := held [at0] [(0, line0)]
       s.req? 7 = some at0 ∧ s.atSlice at0 = true ∧ s.findWay (addrLocal at0.addr) = some 0 ∧ at0.kind = .atomic .add .i32
        ∧ s.writeFree (s.portOf (addrLocal at0.addr)) = true ∧ (∀ q ∈ s.reqs, q.id = 7 → q = at0) ∧ at0.poisoned = false
        ∧ at0.operands = [(1, 0)] ∧ s.guarded (addrLocal at0.addr) = false ∧ addrLocal at0.addr % atomWidth .i32 = 0
        ∧ at0.len = atomWidth .i32
        ∧ s.sectorIn (addrLocal at0.addr / 32) = some ((s.line 0).sector (addrLocal at0.addr / 32 % 4), false)) := by decide +kernel

/-- Nothing waits to be heard of where requests wait at their slice and no packet executes. -/
theorem test_witness_allHeard_and_quiet :
    (held [wr0] [(0, line0)]).allHeard ∧ (held [at0] [(0, line0)]).allHeard ∧ up.allHeard ∧ wr0.quiet := by
  refine ⟨⟨?_, rfl, ?_, rfl⟩, ⟨?_, rfl, ?_, rfl⟩, ⟨?_, rfl, ?_, rfl⟩, ?_, ?_⟩ <;> simp [held, up, State.reset, wr0, at0, rd0, mkReq, Req.finished]

def noted : State := { up with caddy := { up.caddy with notes := [(0, 0, 2, none)] } }

theorem test_witness_PrefetchAndFlush :
    granuleRange 0 4096 = true ∧ up.carries .bar0 0x2310 0x10 = true ∧ (up.handed .bar0 0x2310 0x10).bit 0x2310 0x10 1 = false
    ∧ (noted.prefetchFree (256 * 0 + 0) = true ∧ noted.nextNote (256 * 0 + 0) = some (256 * 0 + 0, 0, 2, none)
      ∧ noted.guarded (32 * 0) = false ∧ noted.sectorIn 0 = none ∧ noted.fetching 0 = false)
    ∧ (let s := withRegs up [(0x231010, 2)]
       s.bit 0x2310 0x10 1 = true ∧ (s.hbm.queue.any fun q => q.write && decide (q.id < s.caddy.flush)) = false) := by decide +kernel

theorem test_witness_RegionPlacementAndGuardWrites :
    (up.carries .bar0 0x2320 1 = true ∧ inRange 0x2320 1 1 = true ∧ (up.handed .bar0 0x2320 1).anyRuns = false
      ∧ ((up.handed .bar0 0x2320 1).changedRegions 1 1) = [0]
      ∧ ((up.handed .bar0 0x2320 1).changedRegions 1 1).any (up.handed .bar0 0x2320 1).pinsIn = false)
    ∧ (busy.domainOn 0x2320 = true ∧ inRange 0x2320 1 ((1 : Word64) &&& mask 31 0) = true
      ∧ busy.changedRegions 1 ((1 : Word64) &&& mask 31 0) ≠ [] ∧ busy.anyRuns = true)
    ∧ up.carries .bar0 0x2310 8 = true ∧ (up.handed .bar0 0x2310 8).guardOn ≠ (0 : Word32).getLsbD 0 := by decide +kernel

def pin1 : State := withRegs up [(0x231004, 8), (0x231101, 0), (0x231102, 4096), (0x231401, 1000), (0x231402, 1000)]
def pinned1 : State := withRegs pin1 [(0x231201, slotWord 0 1 0)]
def working (p : PinWork) (q : List (Nat × Nat)) : State := { pinned1 with caddy := { pinned1.caddy with pin := some p, killQ := q } }

theorem test_witness_PinRequestCountsCommitsAndEnds :
    (pin1.carries .bar0 0x2311 3 = true ∧ (pin1.handed .bar0 0x2311 3).pinBusy = false
      ∧ (pin1.handed .bar0 0x2311 3).pinRefusal (pin1.fld 0x2311 1 47 0) (pin1.fld 0x2311 2 47 0) = 0)
    ∧ (pinned1.carries .bar0 0x2311 3 = true ∧ (pinned1.handed .bar0 0x2311 3).pinBusy = false
      ∧ (pinned1.handed .bar0 0x2311 3).pinRefusal (pinned1.fld 0x2311 1 47 0) (pinned1.fld 0x2311 2 47 0) = 2)
    ∧ granuleRange 1 4096 = false ∧ granuleRange 0 4096 = true
    ∧ (pinned1.pinRanges.any fun r => overlaps (0 / 4096) (4096 / 4096) r.1 r.2) = true
    ∧ (let s := { pin1 with caddy := { pin1.caddy with pin := some (.pin 0 1 0 false .first 0 none) } }
       s.setsFit ((0, 1) :: s.pinRanges) s.pinWays = true
        ∧ (∀ c, c < 2 → 0 ≤ s.tokFree c ∧ (s.homedLines 0 1 c : Int) ≤ s.tokFree c)
        ∧ (List.range 64).find? (fun i => (s.pinSlot i).isNone) = some 0)
    ∧ (working (.pin 0 1 0 false .second 0 none) []).caddy.killQ = []
    ∧ ((0, 0, 0, true) ∈ ({ up with caddy := { up.caddy with pref := [(0, 0, 0, true)] } } : State).caddy.pref
      ∧ up.prefetchSectors 0 0 = []) := by decide +kernel

theorem test_witness_UnpinClearsSlotAndBits :
    (pinned1.carries .bar0 0x2311 3 = true ∧ (pinned1.handed .bar0 0x2311 3).pinBusy = false
      ∧ (pinned1.handed .bar0 0x2311 3).slotMatch (pinned1.fld 0x2311 1 47 0) (pinned1.fld 0x2311 2 47 0) = some 0)
    ∧ (pin1.handed .bar0 0x2311 3).slotMatch (pin1.fld 0x2311 1 47 0) (pin1.fld 0x2311 2 47 0) = none
    ∧ (working (.unpin 0 1 none) []).caddy.pin = some (.unpin 0 1 none) ∧ pinned1.caddy.pin = none
    ∧ ({ pinned1 with caddy := { pinned1.caddy with killQ := [(0, 1)] } } : State).caddy.killQ = (0, 1) :: []
    ∧ (up.carries .bar0 0x2310 4 = true ∧ fieldOf 18 4 0 ≤ 18 ∧ (up.handed .bar0 0x2310 4).pinBusy = false
      ∧ (up.handed .bar0 0x2310 4).setsFit (up.handed .bar0 0x2310 4).pinRanges (fieldOf 18 4 0) = true) := by decide +kernel

/-- A granted read, or write, of sector 0 at its controller. -/
def q0 (w : Bool) : HbmReq := ⟨7, 0, w, 5, BitVec.allOnes 32, false, 2, none, true, false, false, false⟩
def queued (w : Bool) (ls : Tbl Line) : State :=
  { up with hbm := { up.hbm with queue := [q0 w] }, caddy := { up.caddy with lines := ls } }

theorem test_witness_HbmReadReturnsAndWriteIssues :
    (let s := queued false [(0, { line0 with valid := 0xE })]
     s.hbmReq? 7 = some (q0 false) ∧ (q0 false).scrub = false ∧ (∀ r ∈ s.reqs, r.stage ≠ .missing) ∧ s.hbmFirst (q0 false) = true ∧ s.hbm.selfRef = false ∧ (s.hbmGet 0).2 = false
      ∧ s.sectorStays (q0 false) = true ∧ s.findWay (32 * 0) = some 0 ∧ (s.line 0).valid.getLsbD 0 = false)
    ∧ (let s := queued true []
       s.hbmReq? 7 = some (q0 true) ∧ s.hbmFirst (q0 true) = true ∧ s.hbm.selfRef = false
        ∧ s.stackAbsent (s.stackOf (32 * 0)) = false) := by decide +kernel

theorem test_witness_HbmTemperatureRefreshAndDetectors :
    (95 : Int) ≤ 95 ∧ (89 : Int) < 90 ∧ up.hbm.selfRef = false ∧ up.stackAbsent 0 = false
    ∧ (let s := { up with time := { up.time with now := 2 ^ 60 } }
       s.passedNs (Tbl.get 0 s.hbm.refresh (bankKey 0 0 0 0)) (bandNs (s.fld 0x2401 1 1 0)) = true)
    ∧ (let s := { up with hbm := { up.hbm with bands := [(0, [(2, 3900 * nsUnits)])] } }
       ∃ b ∈ Tbl.get [] s.hbm.bands 0, Tbl.get 0 s.hbm.refresh (bankKey 0 0 0 0) + bandNs b.1 * nsUnits ≤ b.2)
    ∧ nextBand (up.band 0) 90 ≠ up.band 0 ∧ up.hbm.slow.getLsbD 0 = false ∧ up.heldClear 0x2220 1 1 = false
    ∧ (∀ t ∈ [4095, 4096],
       let s := { up with time := { up.time with core := t }, caddy := { up.caddy with detect := [(0, ⟨2, 0, 1, 0, 0⟩)] } }
       s.detector 0 0 = some ⟨2, 0, 1, 0, 0⟩ ∧ decide (0 + 4096 ≤ s.time.core) = decide (t = 4096)) := by decide +kernel

/-- The read of `rd0` waits at a slice's port with one point more to pass. -/
def waiting : State := held [{ rd0 with route := [.sliceRead 0 0, .saucer true] }] []

theorem test_witness_ArbitrationGrantsOneWaiter :
    (∃ a, waiting.grantAt (.sliceRead 0 0) (waiting.arbState (pointKey (.sliceRead 0 0))) (waiting.waiters (.sliceRead 0 0))
        = some (⟨7, 2, none⟩, false, a))
    ∧ waiting.waiters (.sliceRead 0 0) ≠ [] ∧ waiting.pointHeld (.sliceRead 0 0) = false
    ∧ waiting.req? 7 = some { rd0 with route := [.sliceRead 0 0, .saucer true] }
    ∧ (∀ q ∈ waiting.reqs, q.id = 7 → q = { rd0 with route := [.sliceRead 0 0, .saucer true] })
    ∧ up.carries .bar0 0x2410 8 = true ∧ fieldOf 64 6 0 ≤ 64
    ∧ (∃ a, waiting.grant ArbState.init [⟨1, 0, some 5⟩, ⟨2, 0, none⟩] = some (⟨1, 0, some 5⟩, true, a))
    ∧ (let s := { up with hbm := { up.hbm with queue := [{ q0 false with granted := false }] } }
       ∃ a, s.grantAt (.pseudo 0 0 0) (s.arbState (pointKey (.pseudo 0 0 0))) (s.waiters (.pseudo 0 0 0))
        = some (⟨7, 2, none⟩, false, a)) :=
  ⟨⟨_, rfl⟩, by decide +kernel, by decide +kernel, by decide +kernel, by decide +kernel, by decide +kernel, by decide +kernel,
    ⟨_, rfl⟩, ⟨_, rfl⟩⟩

/-- Reads of clusters of the lower and the upper leaf of pot 0 wait at one channel. -/
def sharing : State :=
  let s := held [{ rd0 with id := 1, master := .engine 0, route := [.channel 0 0 true] },
    { rd0 with id := 2, master := .engine 16, route := [.channel 0 0 true] }] []
  withRegs s [(0x230010, 0x20)]

theorem test_witness_ArbitrationGrantsOneWaiter_shared :
    (∀ u ∈ [false, true], ∃ w dl a', sharing.grantAt (.channel 0 0 true) { ArbState.init with upper := u }
        (sharing.waiters (.channel 0 0 true)) = some (w, dl, a') ∧ sharing.fromUpper w = u)
    ∧ sharing.contested (.channel 0 0 true) (sharing.waiters (.channel 0 0 true)) = true := by
  refine ⟨fun u h => ?_, by decide +kernel⟩
  rcases List.mem_cons.1 h with rfl | h
  · exact ⟨_, _, _, rfl, by decide +kernel⟩
  · rcases List.mem_cons.1 h with rfl | h
    · exact ⟨_, _, _, rfl, by decide +kernel⟩
    · cases h

/-- A log entry of caddy 0 that has qualified row 0 of slice 0 with its spare rows in use or free. -/
def due (reps : List (Nat × Nat × Nat × Nat)) (en : Word64 := 1) : State :=
  let s := withRegs up [(0x243001, ceWord), (0x245001, 0x101 * en)]
  { s with caddy := { s.caddy with repairs := reps } }
where ceWord : Word64 := packWord [(1, 43), (1, 34)]

theorem test_witness_LogsClearAndRowsAreRepaired :
    up.time.core % 2 ^ up.fld 0x2310 6 20 16 = 0 ∧ (withRegs up [(0x231006, 0)]).fld 0x2310 6 15 0 = 0
    ∧ (let s := { withRegs up [(0x231006, 0x100001)] with caddy := { up.caddy with mon := [(0, ⟨[], 5, 5⟩)] } }
       s.fld 0x2310 6 15 0 = 1 ∧ 1 ≤ (s.worstSlice 0).2)
    ∧ up.carries .bar0 0x2310 0x0C = true ∧ up.carries .bar0 0x2420 1 = true
    ∧ up.carries .bar0 (celogIdx 9) 16 = true ∧ up.carries .mctp (celogIdx 0) 32 = true
    ∧ ((withRegs up [(0x2A0103, 0x800)]).given .bar0 (packWord [(1, 43)])).getLsbD 43 = true
    ∧ ((due []).rowDue 0 0 = true ∧ ((due []).repairsOf 0 0).length < 4 ∧ (due []).bit 0x2450 1 0 = true)
    ∧ ((due [] 0x100).rowDue 0 0 = true ∧ ((due [] 0x100).repairsOf 0 0).length < 4 ∧ (due [] 0x100).bit 0x2450 1 0 = false)
    ∧ ({ up with cleared := [(regKey 0x2420 1, 1, up.time.now)] } : State).heldClear 0x2420 1 0 = true
    ∧ ((due (List.replicate 4 (0, 0, 1, 1))).rowDue 0 0 = true ∧ 4 ≤ ((due (List.replicate 4 (0, 0, 1, 1))).repairsOf 0 0).length)
    ∧ up.flash.claim = none := by decide +kernel

theorem test_witness_ScrubberRunsInOneMode :
    (up.carries .bar0 0x2461 1 = true ∧ (up.handed .bar0 0x2461 1).bit 0x2460 1 0 = true
      ∧ (withRegs up [(0x246001, 0)]).scrubNative = false ∧ (withRegs up [(0x246001, 0)]).scrubIdle = false)
    ∧ ((withRegs up [(0x246001, 0)]).carries .bar0 0x2460 1 = true ∧ ((withRegs up [(0x246001, 0)]).handed .bar0 0x2460 1).bit 0x2461 1 0 = false)
    ∧ (Path.of .bar0 = .pcie ∧ up.domainOn 0x2460 = true ∧ up.bit 0x2460 1 0 = true)
    ∧ (up.scrubHbmDue 0 0 0 (Tbl.get 0 up.hbm.scrubH (pseudoKey 0 0 0)) = true ∧ up.hbm.selfRef = false ∧ up.stackAbsent 0 = false
      ∧ up.scrubOut 0 0 0 = none ∧ (withRegs up [(0x246001, 0)]).scrubOut 0 0 0 = none
      ∧ up.nextIn (0, 0, 0) hbmSectors (Tbl.get 0 up.hbm.scrubH (pseudoKey 0 0 0)) = some 0)
    ∧ (let s := withRegs (queued false []) [(0x246001, 0), (0x246101, 1)]
       s.scrubNative = false ∧ (s.hbm.queue.any fun q => s.pseudoOf q.sector == (0, 0, 0)) = true ∧ s.scrubOut 0 0 0 = none)
    ∧ (let q := { q0 false with scrub := true, noAlloc := true }
       let s := { up with hbm := { up.hbm with queue := [q] } }
       s.hbmReq? 7 = some q ∧ s.scrubOut 0 0 0 = some q ∧ q.granted = true ∧ s.hbmFirst q = true ∧ s.hbm.selfRef = false ∧ (s.hbmGet q.sector).2 = false
        ∧ (decodeSector (s.hbmGet q.sector).1 (s.hbmGet q.sector).2 0x10001 .none).1 = .bad ∧ s.sectorIn q.sector = none
        ∧ ({ s with caddy := { s.caddy with lines := [(0, line0)] } } : State).findWay (32 * q.sector) = some 0
        ∧ line0.valid.getLsbD (q.sector % 4) = true)
    ∧ (up.coreStopped = false ∧ up.sliceRetired 0 0 = false ∧ Tbl.get 0 up.hbm.scrubC (256 * 0 + 0) < 2048 * 24
      ∧ up.scrubLineDue 0 0 0 = true ∧ (∀ r ∈ up.reqs, r.purpose ≠ .scrubRow 0 0))
    ∧ (let r := { scrubReq 0 0 0 with route := [], id := 7 }
       let s := { up with reqs := [r] }
       (s.reqs.find? fun r => r.purpose == .scrubRow 0 0) = some r ∧ r.arrived = true
        ∧ (s.slicePort (256 * 0 + 0)).readAt ≠ some s.time.core) := by decide +kernel

/-! ### Matrix engines, multicast sets and cup tokens -/

/-- A descriptor of FP16 operands in local memory with its output in the cup buffer: M = 2, N = K = 1. -/
def d0 : Desc :=
  { ver := 1, mode := 0, ssrc := false, msrc := false, fmtA := 2, cdst := true, opaden := false, fmtB := 2, rscl := false
    cscl := false, biasen := false, fmtC := 0, biasBf := false, calloc := 0, rnd := 0, sat := false, keyed := false
    dregsA := false, dregsB := false, take := 3, takeN := 0, post := 4, postN := 0, m := 2, n := 1, k := 1, fwait := 0, fsig := 0
    mctag := 0, mcop := 0, astr := 1, bstr := 1, cstr := 1, mcmask := 0, padA := 0, padB := 0, opad := 0, aloc := localAddr 0
    bloc := localAddr 4096, cloc := 0x80000, scap := 0, stgs := 0, scbp := 0, stgm := 1024, sccp := 0, stgmsz := 64, srowp := 0
    scolp := 0, biasp := 0, key := 0, orgm := 0, orgn := 0, link := 0 }

def dBad : Desc := { d0 with astr := 0 }

def run0 (d : Desc) : DescRun := DescRun.start 0 d.toWords

/-- Cluster 0 runs its job's list with these descriptors. -/
def withEngine (e : Engine) : State := { busy with clusters := [(0, { Cluster.idle with job := some 0, me := e })] }
def listed (rs : List DescRun) : Engine := { Engine.idle with job := some 0, descs := rs }
def segA (l : Nat) : Seg := ⟨0, .elemA, l, l, 0⟩
def segB : Seg := ⟨0, .elemB, 0, 0, 0⟩

/-- The descriptor's answer stands at the engine. -/
def answer (d : Desc) (p : Bool) : Req :=
  { mkReq (.engine 0) .read (localAddr 0) 128 [] false true (.descr 0) none with
    id := 7, stage := .done (d.toWords.map fun w => leBytes 8 w.toNat).flatten p }

theorem test_witness_DescriptorsAreReadAndChecked :
    (let s := withEngine { listed [] with ended := false }
     s.engineFree 0 = true ∧ (s.cluster 0).job.isSome = true ∧ (s.engine 0).ended = false ∧ (s.engine 0).reading = false
      ∧ ((s.engine 0).descs.filter fun r => !r.issueEnd).length < 2 ∧ s.addrKind (localAddr (s.engine 0).next) 128 = .hbm)
    ∧ (∀ p ∈ [false, true],
       let s := { withEngine (listed []) with reqs := [answer d0 p] }
       s.reqs.find? (fun r => r.purpose == .descr 0 && r.finished) = some (answer d0 p)
        ∧ (answer d0 p).stage = .done (d0.toWords.map fun w => leBytes 8 w.toNat).flatten p
        ∧ s.checkDesc 0 (Desc.ofWords (leWords (d0.toWords.map fun w => leBytes 8 w.toNat).flatten 16)) = none
        ∧ (s.jobOn 0).map (·.fault) = some none)
    ∧ (withEngine (listed [])).checkDesc 0 (Desc.ofWords (leWords (dBad.toWords.map fun w => leBytes 8 w.toNat).flatten 16))
        = some (.kill 0x10) := ⟨by decide +kernel, by decide +kernel, by decide +kernel⟩

def dOs : Desc := { d0 with mode := 2 }
def loadedRun : DescRun := { run0 d0 with loaded := true, issued := true, staged := [segA 0, segA 1, segB] }

theorem test_witness_OperandsIssueIntoTheAccumulators :
    (let r := { run0 d0 with staged := [segB] }
     let s := withEngine (listed [r])
     (s.engine 0).current = some r ∧ s.engineRuns 0 r = true ∧ r.d.dmode ≠ .os ∧ r.taken = true ∧ r.loaded = false
      ∧ (s.engine 0).desc? r.pos = some r ∧ (s.engine 0).nextRead r = true
      ∧ (s.engine 0).portsFree = true ∧ r.missing = [] ∧ (s.engine 0).chainOk r r.d.ssrc = true)
    ∧ (let s := withEngine { listed [loadedRun] with groups := [(0, loadedRun.group)] }
       (s.engine 0).current = some loadedRun ∧ s.engineRuns 0 loadedRun = true ∧ loadedRun.d.dmode ≠ .os
        ∧ (s.engine 0).portsFree = true ∧ loadedRun.missing = [] ∧ (s.engine 0).group ((s.engine 0).place loadedRun.d) = some loadedRun.group
        ∧ (s.engine 0).desc? loadedRun.pos = some loadedRun
        ∧ (s.engine 0).halfBusy loadedRun = false ∧ (s.engine 0).chainOk loadedRun loadedRun.d.msrc = true
        ∧ loadedRun.vec + 1 < loadedRun.d.vecsAt loadedRun.tile)
    ∧ (let r := { run0 dOs with staged := [⟨0, .elemA, 0, 0, 0⟩, ⟨0, .elemA, 0, 1, 0⟩, segB] }
       let s := withEngine (listed [r])
       (s.engine 0).current = some r ∧ s.engineRuns 0 r = true ∧ r.d.dmode = .os ∧ r.taken = true ∧ (s.engine 0).desc? r.pos = some r
        ∧ (s.engine 0).place r.d = 2 ∧ r.d.steps ≤ r.vec + r.osReady.length ∧ (s.engine 0).portsFree = true ∧ r.missing = [] ∧ (s.engine 0).halfBusy r = false) := by decide +kernel

def full0 (dr : Bool) : GroupRun := { (run0 d0).group with full := true, drain := dr }
def memRun : DescRun := run0 { d0 with cdst := false, cloc := localAddr 8192 }

theorem test_witness_EpilogueDrainsInOrder :
    (let s := withEngine { listed [run0 d0] with groups := [(0, full0 false)], drainQ := [0] }
     (s.engine 0).drainQ = 0 :: [] ∧ (s.engine 0).group 0 = some (full0 false) ∧ (full0 false).drain = false
      ∧ s.coreStopped = false)
    ∧ (let s := withEngine { listed [run0 d0] with groups := [(0, full0 true)], drainQ := [0] }
       (s.engine 0).group 0 = some (full0 true) ∧ (s.engine 0).desc? (full0 true).pos = some (run0 d0)
        ∧ (full0 true).drain = true ∧ vectorsReady (run0 d0) (full0 true) = true ∧ (run0 d0).d.cdst = true
        ∧ (run0 d0).d.mxC = false ∧ (run0 d0).d.rnd = 0 ∧ (run0 d0).d.opaden = false
        ∧ (full0 true).read + (full0 true).chunk.2.length < (full0 true).h * (full0 true).w
        ∧ (let g := { full0 true with read := 1 }; g.h * g.w ≤ g.read + g.chunk.2.length))
    ∧ (let q := { mkReq (.engine 0) .write (localAddr 0) 32 [] false true (.epilogue 0 0) none with id := 7 }
       let s := { withEngine { listed [memRun] with groups := [(0, full0 true)], drainQ := [0] } with
        reqs := [{ q with route := busy.routeTo (.engine 0) .write 0 }] }
       (s.engine 0).desc? (full0 true).pos = some memRun ∧ vectorsReady memRun (full0 true) = true
        ∧ s.epilogueBlocked 0 memRun.d = true)
    ∧ (let s := withEngine { listed [memRun] with groups := [(0, full0 true)], drainQ := [0] }
       memRun.d.cdst = false ∧ s.epilogueBlocked 0 memRun.d = false ∧ vectorsReady memRun (full0 true) = true
        ∧ ∀ p ∈ fillPieces memRun.d.cloc 4, s.addrKind p.2.1 (max 1 p.2.2) = .hbm) := by decide +kernel

theorem test_witness_FillsAskAndPlace :
    (let r := run0 d0
     let s := withEngine (listed [r])
     (s.engine 0).fillable (segA 0) = some r ∧ (s.engine 0).desc? (segA 0).pos = some r
      ∧ s.engineRuns 0 r = true ∧ r.d.segValid (segA 0) = true ∧ s.canTake 0 r (segA 0) = true ∧ r.d.multicast (segA 0) = false
      ∧ s.fillsOut 0 + (fillPieces (r.d.segBytes (segA 0)).1 (r.d.segBytes (segA 0)).2).length ≤ 512
      ∧ (fillPieces (r.d.segBytes (segA 0)).1 (r.d.segBytes (segA 0)).2) ≠ []
      ∧ ∀ p ∈ fillPieces (r.d.segBytes (segA 0)).1 (r.d.segBytes (segA 0)).2, s.addrKind p.2.1 (max 1 p.2.2) = .hbm)
    ∧ (let r := { run0 d0 with staged := [segA 0] }
       let s := withEngine (listed [r])
       (s.engine 0).fillable (segA 0) = some r ∧ (s.engine 0).desc? (segA 0).pos = some r ∧ s.canTake 0 r (segA 0) = false)
    ∧ (let q := { mkReq (.engine 0) .read (localAddr 0) 2 [] false true (.fill 0 (segA 0) 0) none with id := 7, stage := .done [1, 2] false }
       let r := { run0 d0 with asked := [(segA 0, [])] }
       let s := { withEngine (listed [r]) with reqs := [q] }
       s.req? 7 = some q ∧ q.purpose = .fill 0 (segA 0) 0 ∧ q.route = [] ∧ q.stage = .done [1, 2] false
        ∧ (s.engine 0).desc? (segA 0).pos = some r ∧ r.asked = [(segA 0, [])] ∧ r.d.multicast (segA 0) = false
        ∧ (segA 0).isElem = true ∧ r.d.places (segA 0) = [(0, 131072, 2)] ∧ (r.d.segBytes (segA 0)).2 = 2) := by decide +kernel

def mcRun : DescRun := run0 { d0 with mctag := 1, mcop := 1, mcmask := 3 }
/-- The set of `mcRun` as founded on cluster 0, with who has arrived. -/
def set0 (a : BitVec 16) : Mcast := ⟨0, 0, 1, 3, mcRun.d.mcName, a, 0⟩

def arriving : State := withEngine (listed [mcRun])
def gathering (a : BitVec 16) : State := { arriving with mcasts := [set0 a], time := { up.time with core := 2 ^ 40 } }

theorem test_witness_MulticastSetsGatherOrKill :
    ((arriving.engine 0).arriving = some mcRun ∧ (arriving.cluster 0).job = some 0 ∧ arriving.engineRuns 0 mcRun = true
      ∧ (arriving.jobOn 0).isSome = true)
    ∧ (arriving.mcasts = [] ∧ (1 : BitVec 16) <<< (0 % 16) ≠ mcRun.d.mcmask)
    ∧ ((set0 0).is 0 (leafOf 0) mcRun.d.mctag = true ∧ (set0 0).name = mcRun.d.mcName ∧ (set0 0).mask = mcRun.d.mcmask
      ∧ (set0 0).arrived ||| (1 <<< (0 % 16)) ≠ (set0 0).mask ∧ (set0 2).arrived ||| (1 <<< (0 % 16)) = (set0 2).mask)
    ∧ (({ set0 2 with mask := 7 } : Mcast).is 0 (leafOf 0) mcRun.d.mctag = true ∧ ({ set0 2 with mask := 7 } : Mcast).mask ≠ mcRun.d.mcmask)
    ∧ ((gathering 1).mcasts.find? fun m => some m.job == ((gathering 1).cluster 0).job && m.leaf == leafOf 0
        && m.arrived.getLsbD (0 % 16) && (gathering 1).passedClk m.since (2 ^ (gathering 1).fld 0x2500 0x0A 4 0)) = some (set0 1) := by
  refine ⟨?_, ?_, ?_, ?_, ?_⟩
  · decide +kernel
  · decide +kernel
  · decide +kernel
  · decide +kernel
  · decide +kernel

def takeRun : DescRun := { run0 { d0 with takeN := 2 } with takeAt := some 0 }
def doneRun : DescRun := { run0 { d0 with postN := 2, fsig := 9 } with issueEnd := true, groupsLeft := 0 }
def withTok (s : State) (t : Tbl Nat) : State :=
  { s with clusters := s.clusters.map fun c => (c.1, { c.2 with tok := t }), time := { s.time with core := 2 ^ 60 } }
def withTgRec (t : Tg) : State := { busy with clusters := [(0, { Cluster.idle with job := some 0, tg := t })] }

def taking : State := withTok (withEngine (listed [takeRun])) [(3, 2)]
def took : TakeRec := ⟨0, 0, [0], 3, 2, 0⟩
def tgTaking : State := withTok (withTgRec { Tg.idle with takes := [took] }) [(3, 2)]
def posting (v : Nat) : State := withTok (withEngine (listed [doneRun])) [(4, v)]

theorem test_witness_CupTokensAndDescriptorSignals :
    ((taking.engine 0).current = some takeRun ∧ takeRun.taken = false ∧ taking.engineFree 0 = true
      ∧ takeRun.d.takeN ≤ taking.tok 0 takeRun.d.take ∧ taking.takeSince 0 .engine = some (0, 0)
      ∧ taking.passedClk 0 (2 ^ taking.fld 0x2500 0x0B 4 0 + 1) = true ∧ (taking.jobOn 0).isSome = true)
    ∧ ((tgTaking.tg 0).takes.find? (fun t => t.sched == 0) = some took ∧ tgTaking.engineFree 0 = true
      ∧ took.n ≤ tgTaking.tok 0 took.ctr ∧ tgTaking.outranked 0 (.sched 0) took.ctr = false)
    ∧ ((posting 2).postOf 0 .engine = some (4, 2, 0) ∧ (posting 2).coreStopped = false ∧ (posting 2).tok 0 4 + 2 ≤ 65535)
    ∧ ((posting 65534).postOf 0 .engine = some (4, 2, 0) ∧ 65535 < (posting 65534).tok 0 4 + 2)
    ∧ ((posting 2).engine 0).desc? 0 = some doneRun ∧ ((posting 2).jobOn 0).isSome = true ∧ doneRun.drained = true
    ∧ tagFits ((posting 2).tagBal 0 doneRun.d.fsig - 1) = true
    ∧ doneRun.signalled = false ∧ doneRun.d.fsig ≠ 0 := by
  refine ⟨?_, ?_, ?_, ?_, ?_⟩
  · decide +kernel
  · decide +kernel
  · decide +kernel
  · decide +kernel
  · decide +kernel

/-! ### Thread groups -/

/-- A job of a grid of four blocks of two threads, with 32 registers and one granule. -/
def jobT : Job := job0 [packWord [(1, 0), (1, 12)], 1, 0, 0, 0, 0, packWord [(4, 0), (2, 24), (32, 35), (1, 43)], 0]
/-- A thread at byte 0 of the program; registers 0 and 1 hold the local address 0. -/
def thr (r : RunSt) : Thread := ⟨0, 0, r, [(1, 0xFFFF0000), (2, 5)], [], []⟩
/-- Block 0 in slot 0, its group in slot 0 of scheduler 0, which has the lanes in hand. -/
def tg0 (lanes : List Nat) (ths : List Thread) : Tg :=
  { Tg.idle with
    job := some 0, nextBlk := 1, blocks := [(0, ⟨0, [0], [0], none⟩)], groups := [(0, ⟨0, 0, ths⟩)]
    issue := if lanes = [] then [] else [(0, ⟨0, lanes, 0⟩)] }
def tgS (t : Tg) : State :=
  { up with
    seq := { up.seq with jobs := [jobT] }
    regs := (0x201201, 0x500) :: (0x250008, 1) :: up.regs.drop 1
    clusters := [(0, { Cluster.idle with job := some 0, tg := t })] }
def ex (lanes : List Nat) : Ex := ⟨0, 0, 0, lanes, 0, jobT⟩
def both : State := tgS (tg0 [0, 1] [thr .running, thr .running])
def one : State := tgS (tg0 [0] [thr .running, thr .running])

theorem test_witness_BlocksArePlacedIssuedAndEnd :
    (both.jobOn 0 = some jobT ∧ jobT.tgj = true ∧ both.ctxState 0 = ctxActive ∧ both.coreStopped = false
      ∧ (both.tg 0).nextBlk < jobT.grid ∧ jobT.lmem ≤ (both.tg 0).freeGranules.length
      ∧ (List.range 16).find? (fun b => (Tbl.find (both.tg 0).blocks b).isNone) = some 1
      ∧ assign jobT.regsN ((jobT.threads + 31) / 32) ((List.range 4).map (both.tg 0).groupsOf) = some [1])
    ∧ (let s := tgS (tg0 [] [thr .running, thr .running])
       Tbl.find (s.tg 0).issue 0 = none ∧ Tbl.get 0 (s.tg 0).freeAt 0 ≤ s.time.core
        ∧ (s.tg 0).groups = [(slotKey 0 0, ⟨0, 0, [thr .running, thr .running]⟩)]
        ∧ (⟨0, 0, [thr .running, thr .running]⟩ : Group).readyLanes [] 0 = [0, 1]
        ∧ (s.fetch 0 jobT ((⟨0, 0, [thr .running, thr .running]⟩ : Group).choose [0, 1]).1 .none).2 = none)
    ∧ (let s := { tgS (tg0 [] [thr .running]) with hbm := { up.hbm with poison := [0] } }
       (s.fetch 0 jobT 0 .none).2 = some (0x25, localAddr 0) ∧ (s.fetch 0 jobT 0 { IssueErrs.none with outside := [0] }).2 = some (0x20, localAddr 0))
    ∧ (both.exOf 0 0 = some (ex [0, 1]) ∧ both.exitBad (ex [0, 1]) = none
      ∧ Tbl.find (both.tg 0).blocks ((both.tg 0).blockOf (ex [0, 1]).key) = some ⟨0, [0], [0], none⟩
      ∧ (both.tg 0).thread? 0 0 = some (thr .running) ∧ (both.tg 0).thread? 0 1 = some (thr .running) ∧ (both.tg 0).thread? 0 2 = none)
    ∧ (one.exOf 0 0 = some (ex [0]) ∧ one.exitBad (ex [0]) = none ∧ (one.tg 0).thread? 0 1 = some (thr .running))
    ∧ (let s := tgS { tg0 [0] [thr .running, thr .running] with colls := [⟨0, 0, 3, 2, 0⟩] }
       s.exOf 0 0 = some (ex [0]) ∧ s.exitBad (ex [0]) = some (0, 0)) := by
  refine ⟨?_, ?_, ?_, ?_, ?_, ?_⟩
  · decide +kernel
  · decide +kernel
  · decide +kernel
  · decide +kernel
  · decide +kernel
  · decide +kernel

theorem test_witness_ArithmeticWritesItsLane :
    both.together (ex [0, 1])
    ∧ (let op := AluOp.add 2 (.reg 2) (.imm 3); both.inHand thOk ((aluUse op).1 ++ (aluUse op).2.1) (aluBad op) (ex [0, 1]))
    ∧ (let op := AluOp.shl 3 (.reg 2) (.imm 31); both.inHand thOk ((aluUse op).1 ++ (aluUse op).2.1) (aluBad op) (ex [0, 1]))
    ∧ (let op := AluOp.mul64 4 0 2; both.inHand thOk ((aluUse op).1 ++ (aluUse op).2.1) (aluBad op) (ex [0, 1]))
    ∧ (let op := AluOp.special .sqrt 3 (.reg 2); both.inHand thOk ((aluUse op).1 ++ (aluUse op).2.1) (aluBad op) (ex [0, 1]))
    ∧ (let op := AluOp.ret 0; both.inHand thOk ((aluUse op).1 ++ (aluUse op).2.1) (aluBad op) (ex [0, 1])) := by
  unfold State.inHand State.together
  refine ⟨?_, ?_, ?_, ?_, ?_, ?_⟩
  · decide +kernel
  · decide +kernel
  · decide +kernel
  · decide +kernel
  · decide +kernel
  · decide +kernel

theorem test_witness_ThreadFaultsAreLoggedAndKill :
    (both.exOf thOk.cl thOk.sched = some (ex [0, 1]) ∧ (ex [0, 1]).slot < 12 ∧ (∀ l ∈ (ex [0, 1]).lanes, l < 32)
      ∧ both.bit 0x2620 8 29 = false ∧ both.heldClear 0x2620 8 29 = false)
    ∧ (let n : TgNote := ⟨0, 0, 0, 0, 0x22, 0, 0, 0⟩
       let s := { both with seq := { both.seq with faults := [{ n with lane := 1 }, n] } }
       firstBy TgNote.before s.seq.faults = some n ∧ s.jobOn n.cl = some jobT ∧ jobT.id = n.job)
    ∧ (ex [0, 1]).regsOk ((aluUse (.call 32 0)).1 ++ (aluUse (.call 32 0)).2.1) = false
    ∧ ((ex [0, 1]).regsOk ((aluUse .undefinedEncoding).1 ++ (aluUse .undefinedEncoding).2.1) = true
      ∧ firstFault [0, 1] (aluBad .undefinedEncoding both (ex [0, 1])) = some ⟨0x22, 0, 0⟩)
    ∧ (let s := tgS (tg0 [0] [{ thr .running with poison := [1] }])
       s.regPoison (ex [0]) 0 (aluUse (.add 3 (.reg 2) (.imm 0))).1 = true)
    ∧ (withRegs up [(0x262008, 2 ^ 29)]).bit 0x2620 8 29 = true
    ∧ up.carries .bar0 0x2620 8 = true ∧ (up.given .bar0 (BitVec.ofNat 64 (2 ^ 29))).getLsbD 29 = true := by decide +kernel

theorem test_witness_CollectivesWaitForTheirMask :
    one.meets thOk (.imm 3) (4 :: srcRegs (.imm 1) ++ [5]) (ex [0]) ∧ one.come (ex [0]) = 1
    ∧ both.meets thOk (.imm 3) (4 :: srcRegs (.imm 1) ++ [5]) (ex [0, 1]) ∧ both.come (ex [0, 1]) = 3
    ∧ firstFault (both.maskOf (ex [0, 1]) (.imm 3)) (poisonBad (4 :: srcRegs (.imm 1)) both (ex [0, 1])) = none
    ∧ both.meets thOk (.imm 3) (srcRegs (.reg 4) ++ [5]) (ex [0, 1])
    ∧ firstFault (both.maskOf (ex [0, 1]) (.imm 3)) (poisonBad (srcRegs (.reg 4)) both (ex [0, 1])) = none
    ∧ gmatForm .int8 .int8 = some (.int 8, .int 8)
    ∧ both.meets thOk (.imm 3) ((List.range 8).map (0 + ·) ++ [8, 8 + 1] ++ (List.range 8).map (16 + ·)
      ++ (List.range 8).map (16 + ·)) (ex [0, 1])
    ∧ firstFault (both.maskOf (ex [0, 1]) (.imm 3))
        (poisonBad ((List.range 8).map (0 + ·) ++ [8, 8 + 1] ++ (List.range 8).map (16 + ·)) both (ex [0, 1])) = none
    ∧ both.gmuTakes 0 0 = true ∧ (tgS { tg0 [0, 1] [thr .running, thr .running] with gmuAt := 5 }).gmuTakes 0 0 = false
    ∧ (let s := tgS { tg0 [] [thr .atColl, thr .running] with colls := [⟨0, 0, 3, 1, 2 ^ 60⟩] }
       (s.tg 0).colls.find? (fun c => c.group == slotKey 0 0 && decide (2 ^ s.fld 0x2620 4 4 0 < c.waited)) = some ⟨0, 0, 3, 1, 2 ^ 60⟩) := by
  unfold State.meets State.inHand State.together
  refine ⟨?_, ?_, ?_, ?_, ?_, ?_, ?_, ?_, ?_, ?_⟩
  all_goals decide +kernel

def cached : State := tgS { tg0 [0, 1] [thr .running, thr .running] with l1 := [⟨0xFFFF * 2 ^ 48 / 128, 1, 7⟩] }
/-- The answer to a load of lane 0 into register 4. -/
def loaded (p : Bool) : Req :=
  { mkReq (.tg 0) .read (localAddr 0) 32 [] false true (.load 0 0 0 0 4 true 0 0 4) none with
    id := 7, stage := .done (List.replicate 32 1) p }
def returned (r : Req) : State := { both with reqs := [r] }

theorem test_witness_LoadsAskAndReturn :
    (both.together (ex [0, 1]) ∧ both.inHand thOk (0 :: (0 + 1) :: regsFor 4 4) (accessBad [] 0 4 false) (ex [0, 1]))
    ∧ (cached.inHand thOk (0 :: (0 + 1) :: regsFor 4 4) (accessBad [] 0 4 false) (ex [0, 1]) ∧ cached.together (ex [0, 1]))
    ∧ (∀ l ∈ [0, 1], ((cached.tg 0).l1Get (cached.l1Line (cached.rd2 (ex [0, 1]) l 0))
        ((cached.rd2 (ex [0, 1]) l 0).toNat % 128) 4).isSome = true)
    ∧ (∀ l ∈ [0, 1], (both.tg 0).l1Get (both.l1Line (both.rd2 (ex [0, 1]) l 0)) ((both.rd2 (ex [0, 1]) l 0).toNat % 128) 4 = none
      ∧ both.l1Able (both.rd2 (ex [0, 1]) l 0) 4 = true)
    ∧ (∀ p ∈ [false, true], (returned (loaded p)).req? 7 = some (loaded p) ∧ (loaded p).route = []
      ∧ (loaded p).stage = .done (List.replicate 32 1) p ∧ (loaded p).purpose = .load 0 0 0 0 4 true 0 0 4)
    ∧ (((returned (loaded false)).tg 0).thread? (slotKey 0 0) 0 = some (thr .running) ∧ ((returned (loaded true)).jobOn 0).isSome = true
      ∧ (returned { loaded false with stage := .refused }).req? 7 = some { loaded false with stage := .refused })
    ∧ both.inHand thOk (0 :: (0 + 1) :: srcRegs (.imm 4096)) (fun _ _ _ => none) (ex [0, 1])
    ∧ (both.isLocal (both.rd2 (ex [0, 1]) 0 0) = true ∧ both.src (ex [0, 1]) 0 (.imm 4096) ≠ 0) := by
  unfold State.inHand State.together
  refine ⟨?_, ?_, ?_, ?_, ?_, ?_, ?_, ?_⟩
  all_goals decide +kernel

def oldValue : Req :=
  { mkReq (.tg 0) (.atomic .add .i32) (localAddr 0) 4 [] false true (.atomicOf 0 0 0 4 [0] 0) none with
    id := 7, stage := .done [1, 0, 0, 0] false }

theorem test_witness_StoresAndAtomicsLeave :
    both.together (ex [0, 1])
    ∧ both.inHand thOk (0 :: (0 + 1) :: regsFor 2 4) (accessBad (regsFor 2 4) 0 4 false) (ex [0, 1])
    ∧ atomForm .add .i32 = true
    ∧ both.inHand thOk ([0, 0 + 1] ++ regsFor 4 (atomWidth .i32) ++ atomRegs .add .i32 2)
        (accessBad (atomRegs .add .i32 2) 0 (atomWidth .i32) true) (ex [0, 1])
    ∧ ((returned oldValue).req? 7 = some oldValue ∧ oldValue.route = [] ∧ oldValue.stage = .done [1, 0, 0, 0] false
      ∧ oldValue.kind = .atomic .add .i32 ∧ oldValue.purpose = .atomicOf 0 0 0 4 [0] 0
      ∧ ((returned oldValue).tg 0).thread? (slotKey 0 0) 0 = some (thr .running)) := by
  unfold State.inHand State.together
  refine ⟨?_, ?_, ?_, ?_, ?_⟩
  all_goals decide +kernel

theorem test_witness_LocalMemoryAndWindow :
    both.together (ex [0, 1]) ∧ one.together (ex [0])
    ∧ both.inHand thOk (srcRegs (.imm 1020) ++ regsFor 4 4) (localReadBad (.imm 1020) 4) (ex [0, 1])
    ∧ (5 : Nat) ∈ both.localWords (ex [0, 1]) (.imm 40) 4 ∧ both.inHand thOk (srcRegs (.imm 40) ++ regsFor 4 4) (localReadBad (.imm 40) 4) (ex [0, 1])
    ∧ both.inHand thOk (srcRegs (.reg 3) ++ regsFor 2 4) (localAccessBad (regsFor 2 4) (.reg 3) 4) (ex [0, 1])
    ∧ one.inHand thOk (srcRegs (.imm 8) ++ regsFor 4 (atomWidth .i32) ++ atomRegs .add .i32 2)
        (fun s x l => orElse (localReadBad (.imm 8) (atomWidth .i32) s x l) (poisonBad (atomRegs .add .i32 2) s x l)) (ex [0])
    ∧ both.inHand thOk (srcRegs (.imm 0x1FFFFC) ++ regsFor 4 4) (windowReadBad (.imm 0x1FFFFC) 4) (ex [0, 1])
    ∧ both.inHand thOk (srcRegs (.imm 0x1C0000) ++ regsFor 2 4) (windowAccessBad (regsFor 2 4) (.imm 0x1C0000) 4) (ex [0, 1])
    ∧ (sizeBad 4 = false ∧ both.regPoison (ex [0]) 0 (srcRegs (.imm 1024)) = false ∧ (1024 : Word32).toNat % 4 = 0
      ∧ 1024 * (both.blockOf (ex [0])).granules.length < (1024 : Word32).toNat + 4
      ∧ (0x1BFFFC : Word32).toNat < cupBytes - both.windowBytes) := by
  unfold State.inHand State.together
  refine ⟨?_, ?_, ?_, ?_, ?_, ?_, ?_, ?_, ?_, ?_⟩
  all_goals decide +kernel

/-- Lane 0 held at a fence; with a request, a store of it is on its way. -/
def fencing (k : FenceKind) (rs : List Req) : State := { tgS (tg0 [] [thr (.atFence k 3), thr .running]) with reqs := rs }
def stored0 : Req := mkReq (.tg 0) .write (localAddr 0) 4 [1, 0, 0, 0] false true (.store 0 0 0 0 0) none
def barring (w : Nat) : State :=
  tgS { tg0 [] [thr (.atBar 8), thr .running] with blocks := [(0, ⟨0, [0], [0], some w⟩)] }

theorem test_witness_FencesBarriersAndTokensHold :
    (both.inHand thOk [] (fun _ _ _ => none) (ex [0, 1]) ∧ both.together (ex [0, 1]))
    ∧ (((fencing .device [stored0]).tg 0).fencing (slotKey 0 0) = [((.device, 3), 0)]
      ∧ (fencing .device [stored0]).fenceMet 0 0 0 0 .device = false ∧ ((fencing .device []).tg 0).fencing (slotKey 0 0) = [((.device, 3), 0)]
      ∧ (fencing .device []).fenceMet 0 0 0 0 .device = true
      ∧ ((fencing .block []).tg 0).fencing (slotKey 0 0) = [((.block, 3), 0)] ∧ (fencing .block []).fenceMet 0 0 0 0 .block = true)
    ∧ (one.inHand thOk [] (fun _ _ _ => none) (ex [0]) ∧ one.together (ex [0])
      ∧ Tbl.find (one.tg 0).blocks ((one.tg 0).blockOf (ex [0]).key) = some ⟨0, [0], [0], none⟩ ∧ (ex [0]).key ∈ [0] ∧ (⟨0, [0], [0], none⟩ : Block).barWait.any one.expired = false
      ∧ (one.tg 0).thread? 0 1 = some (thr .running) ∧ (one.tg 0).thread? 0 2 = none)
    ∧ (let s := tgS (tg0 [0] [thr .running, thr (.atBar 8)])
       s.inHand thOk [] (fun _ _ _ => none) (ex [0]) ∧ s.together (ex [0]) ∧ (s.tg 0).thread? 0 1 = some (thr (.atBar 8)))
    ∧ (2 ^ (barring (2 ^ 40)).fld 0x2620 4 4 0 < 2 ^ 40 ∧ ((barring (2 ^ 40)).tg 0).barHolder ⟨0, [0], [0], some (2 ^ 40)⟩ = some (0, 0, 0)
      ∧ ((barring (2 ^ 40)).jobOn 0).isSome = true)
    ∧ (both.inHand thOk (srcRegs (.imm 15) ++ srcRegs (.reg 2)) (fun _ _ _ => none) (ex [0, 1])
      ∧ both.regPoison (ex [0, 1]) 0 (srcRegs (.imm 15) ++ srcRegs (.reg 2)) = false
      ∧ both.tokenArgs (ex [0, 1]) (.imm 15) (.reg 2) = some (15, 5)) := by
  unfold State.inHand State.together
  refine ⟨?_, ?_, ?_, ?_, ?_, ?_⟩
  all_goals decide +kernel

def toBf : CvtSpec := ⟨0, 1, 1, false⟩

theorem test_witness_ConversionsAndDrawsWrite :
    cvtFmts toBf = some (.flt fp32, .flt bf16) ∧ both.together (ex [0, 1])
    ∧ both.inHand thOk [2, 4] (poisonBad [2]) (ex [0, 1])
    ∧ both.inHand thOk (packedRegs 2 (.flt fp32) 2 ++ packedRegs 4 (.flt bf16) 2) (poisonBad (packedRegs 2 (.flt fp32) 2)) (ex [0, 1])
    ∧ both.inHand thOk [2, 4, 0, 0 + 1] (fun s x l => orElse (poisonBad [2] s x l)
        (pairBad (.pair 0) (cvtDraws toBf (.flt fp32) (.flt bf16) != 0) s x l)) (ex [0, 1])
    ∧ both.inHand thOk (packedRegs 2 (.flt fp32) 2 ++ packedRegs 4 (.flt bf16) 2 ++ [0, 0 + 1]) (fun s x l =>
        orElse (poisonBad (packedRegs 2 (.flt fp32) 2) s x l)
          (pairBad (.pair 0) (cvtDraws toBf (.flt fp32) (.flt bf16) != 0) s x l)) (ex [0, 1])
    ∧ both.inHand thOk [4] (fun _ _ _ => none) (ex [0, 1])
    ∧ both.inHand thOk [4, 0, 0 + 1] (fun s x l => pairBad (.pair 0) true s x l) (ex [0, 1])
    ∧ both.inHand thOk [4, 4 + 1, 0, 0 + 1, 2, 2 + 1] (poisonBad [0, 0 + 1, 2, 2 + 1]) (ex [0, 1])
    ∧ (both.rd2 (ex [0]) 0 6 = 0 ∧ both.rd2 (ex [0]) 0 0 ≠ 0) := by
  unfold State.inHand State.together
  refine ⟨?_, ?_, ?_, ?_, ?_, ?_, ?_, ?_, ?_, ?_⟩
  all_goals decide +kernel

/-! ### The sequencer -/

/-- The device with the job given, cluster 0 present and idle. -/
def seqS (js : List Job) (rs : List (Nat × Word64)) : State :=
  { withRegs up ((0x250001, 1) :: rs) with seq := { up.seq with jobs := js } }
def waiting0 (w : List Word64) : Job := { job0 w with started := none }
def hdr (ty fsig : Nat) : Word64 := packWord [(1, 0), (ty, 4), (if ty = 1 then 1 else 0, 11), (fsig, 40)]
/-- A finished read of four bytes, or of an entry, for a purpose. -/
def readOf (p : Purpose) (bs : List Byte) (pois : Bool) : Req :=
  { mkReq .seqr .read (localAddr 0) bs.length [] false true p (some 0) with id := 7, stage := .done bs pois }
def reading (rs : List (Nat × Word64)) (x : RingRun) (q : Req) : State :=
  let s := withRegs up ((0x250001, 1) :: rs); { s with reqs := [q], seq := { s.seq with rings := [(0, x)] } }
def unmasked (s : State) : State := { s with link := { s.link with msix := [(3, 0), (79, 0)] } }

theorem test_witness_RingsFollowTheirIndices :
    (up.carries .bar0 0x2840 2 = true ∧ inRange 0x2840 2 (((8 : Word32) ||| 1).setWidth 64) = true
      ∧ (up.handed .bar0 0x2840 2).ringEn 0 0 = false ∧ inRange 0x2840 2 (((8 : Word32) &&& 0xFFFFFFFE).setWidth 64) = true
      ∧ up.ringLog2n 0 0 = fieldOf ((8 : Word32).setWidth 64) 5 1)
    ∧ (∀ p ∈ [false, true], (unmasked (reading [(0x284002, 9)] ⟨0, 0, false, true, false, 0, false, false⟩ (readOf (.ci 0 0) [1, 0, 0, 0] p))).returned (.ci 0 0)
        = some (readOf (.ci 0 0) [1, 0, 0, 0] p))
    ∧ ((readOf (.ci 0 0) [1, 0, 0, 0] false).index = some 1 ∧ (readOf (.ci 0 0) [1, 0, 0, 0] true).index = none
      ∧ (withRegs up [(0x284002, 9)]).ringHalt 0 0 = false ∧ (unmasked up).deaf = false ∧ (unmasked up).vectorMasked 19 = false)
    ∧ (let s := { withRegs up [(0x284002, 9)] with time := { up.time with now := 2 ^ 60 } }
       (s.jobsRun && s.passedNs s.seq.tickAt (s.fld 0x2810 1 19 0)) = true ∧ s.ctxState 0 = ctxActive ∧ s.ringEn 0 0 = true
        ∧ s.ringHalt 0 0 = false ∧ (s.ring 0 0).ciBusy = false ∧ (s.ring 0 0).piBusy = false ∧ s.ringEn 0 1 = false)
    ∧ (∀ v ∈ [(16 : Byte), 17],
       (reading [(0x284002, 9)] ⟨0, 0, true, false, false, 0, false, false⟩ (readOf (.pi 0 0) [v, 0, 0, 0] false)).returned (.pi 0 0)
        = some (readOf (.pi 0 0) [v, 0, 0, 0] false) ∧ (readOf (.pi 0 0) [v, 0, 0, 0] false).index = some (v.setWidth 32)
        ∧ decide (((v.setWidth 32 : Word32) - 0).toNat ≤ 2 ^ (withRegs up [(0x284002, 9)]).ringLog2n 0 0) = decide (v = 16))
    ∧ (∀ o ∈ [false, true],
       let s := reading [(0x284002, 9)] ⟨0, 0, true, false, false, 0, false, o⟩ (readOf (.pi 0 0) [1, 0, 0, 0] false)
       s.returned (.pi 0 0) = some (readOf (.pi 0 0) [1, 0, 0, 0] false) ∧ s.ringEn 0 0 = true ∧ s.ringHalt 0 0 = false
        ∧ (s.ring 0 0).piOld = o ∧ s.heldClear 0x2840 2 9 = false) := by
  refine ⟨?_, ?_, ?_, ?_, ?_, ?_⟩
  all_goals decide +kernel

/-- The job entry of the sixteen-word form with a header, as bytes. -/
def entryOfHdr (h : Word64) : List Byte := leBytes 8 h.toNat ++ leBytes 8 (if fieldOf h 7 4 = 1 then 1 else 0) ++ List.replicate 48 0
def fetchable : State :=
  let s := reading [(0x284002, 9), (0x285002, 1)] ⟨0, 1, false, false, false, 0, false, false⟩ (readOf (.head 0) [] false)
  { s with caddy := { s.caddy with lines := [(0, line0)] } }
def entered (h : Word64) (p : Bool) : State :=
  reading [(0x284002, 9)] ⟨1, 1, false, false, true, 0, false, false⟩ (readOf (.entry 0 0) (entryOfHdr h) p)

theorem test_witness_EntriesBecomeJobs :
    (fetchable.mayFetch 0 0 = true ∧ fetchable.addrKind (localAddr (fetchable.ringAddr 0 0 4)) 4 = .hbm
      ∧ fetchable.ringAddr 0 0 4 % 4 = 0 ∧ fetchable.findWay (fetchable.ringAddr 0 0 4) = some 0
      ∧ (fetchable.line 0).valid.getLsbD (fetchable.ringAddr 0 0 4 / 32 % 4) = true)
    ∧ (∀ h p, (entered h p).returned (.entry 0 0) = some (readOf (.entry 0 0) (entryOfHdr h) p))
    ∧ ((entered (hdr 1 0) false).ring 0 0).killed = false
    ∧ (let j := ((entered (hdr 1 0) false).addJob 0 0 (leWords (entryOfHdr (hdr 1 0)) 8)).2
       (entered (hdr 1 0) false).entryCause j = 0 ∧ j.type ≠ 5)
    ∧ (let j := ((entered (hdr 5 0) false).addJob 0 0 (leWords (entryOfHdr (hdr 5 0)) 8)).2
       (entered (hdr 5 0) false).entryCause j = 0 ∧ j.type = 5 ∧ (j.holds.all fun h => h.1 == 0 && h.2 == 0) = true
        ∧ (entered (hdr 5 0) false).seq.tags = [])
    ∧ ((entered (hdr 0 0) false).entryCause ((entered (hdr 0 0) false).addJob 0 0 (leWords (entryOfHdr (hdr 0 0)) 8)).2 = 8
      ∧ (((entered (hdr 0 0) false).addJob 0 0 (leWords (entryOfHdr (hdr 0 0)) 8)).2).bad = true) := by
  refine ⟨?_, fun _ _ => rfl, ?_, ?_, ?_, ?_⟩
  all_goals decide +kernel

theorem test_witness_EntriesBecomeJobs_fresh : (entered (hdr 1 0) false).fresh ∧ (entered (hdr 1 0) true).fresh
    ∧ (let q := { readOf (.entry 0 0) [] false with stage := .refused }
       let s := reading [(0x284002, 9)] ⟨1, 1, false, false, true, 0, false, false⟩ q
       s.returned (.entry 0 0) = some q ∧ s.fresh)
    ∧ ∀ n : Nat, n < 4 → tagFits ((entered (hdr 5 0) false).tagBal 0 n) = true := by
  refine ⟨⟨by decide +kernel, by decide +kernel, fun cl => ?_⟩, ⟨by decide +kernel, by decide +kernel, fun cl => ?_⟩,
    ⟨rfl, by decide +kernel, by decide +kernel, fun cl => ?_⟩, by decide +kernel⟩ <;>
    (intro h; cases h)

def startable (w : List Word64) : State := seqS [waiting0 w] []
def compute0 : List Word64 := [hdr 1 9, 1]
def copy0 (src : Word64) : List Word64 := [hdr 2 9, 0, 0, 0, src, localAddr 4096, 64]
def pinJob (base ctl : Word64) : List Word64 := [hdr 4 9, 0, 0, 0, base, 4096, ctl]
def late0 : State :=
  let s := startable [hdr 5 9 ||| 0x400, 0, 0, 1]; { s with time := { s.time with ft := 2 ^ 60 } }

theorem test_witness_JobsStartWhenEligible :
    (∀ w ∈ [compute0, copy0 (localAddr 0), copy0 (localAddr (2 ^ 46)), [hdr 3 9, 0, 0, 0, 0, 4096], pinJob 0 1, pinJob 1 1, pinJob 0 2, [hdr 5 9]],
      (startable w).job? 0 = some (waiting0 w) ∧ (startable w).eligible (waiting0 w) = true ∧ (startable w).seq.tags = []
        ∧ (waiting0 w).fsig = 9 ∧ tagFits ((startable w).tagBal 0 9 - 1) = true)
    ∧ (up.lacksCluster (waiting0 compute0) = true ∧ (startable compute0).lacksCluster (waiting0 compute0) = false
      ∧ (let s := { up with seq := { up.seq with jobs := [waiting0 compute0] } }
         s.job? 0 = some (waiting0 compute0) ∧ s.eligible (waiting0 compute0) = true ∧ s.lacksCluster (waiting0 compute0) = true))
    ∧ ((waiting0 compute0).type = 1 ∧ (waiting0 (copy0 0)).type = 2 ∧ (waiting0 [hdr 3 9]).type = 3 ∧ (waiting0 (pinJob 0 1)).type = 4
      ∧ (waiting0 [hdr 5 9]).type = 5)
    ∧ (up.addrKind (localAddr 0) 64 ≠ .unmapped ∧ up.addrKind (localAddr 4096) 64 ≠ .unmapped
      ∧ up.addrKind (localAddr (2 ^ 46)) 64 = .unmapped ∧ (waiting0 (copy0 0)).copyLen = 64 ∧ up.reqs = [] ∧ up.pinBusy = false
      ∧ (∀ q ∈ (startable (copy0 0)).reqs, q.id < (startable (copy0 0)).nextReq) ∧ (waiting0 (pinJob 1 1)).moved = false
      ∧ (withRegs up [(0x231104, 16)]).pinBusy = true ∧ up.pinRefusal 0 4096 = 0 ∧ up.pinRefusal 1 4096 ≠ 0 ∧ up.caddy.killQ = []
      ∧ pinned1.slotMatch 0 4096 = some 0 ∧ pinned1.pinBusy = false)
    ∧ (let s := seqS [waiting0 [packWord [(1, 0), (5, 4), (9, 32)]]] []
       let s := { s with seq := { s.seq with tags := [(9, 1)] } }
       s.eligible (waiting0 [packWord [(1, 0), (5, 4), (9, 32)]]) = false)
    ∧ (late0.job? 0 = some (waiting0 [hdr 5 9 ||| 0x400, 0, 0, 1]) ∧ (waiting0 [hdr 5 9 ||| 0x400, 0, 0, 1]).dropLate = true
      ∧ (waiting0 [hdr 5 9 ||| 0x400, 0, 0, 1]).deadline = 1 ∧ 1 < late0.ftNs)
    ∧ (let j := { waiting0 [hdr 1 0, 1, 0, 5] with id := 3 }
       let s := { seqS [j] [] with clusters := [(0, { Cluster.idle with job := some 1 })] }
       s.job? 3 = some j ∧ s.mayReserve j = true ∧ (∀ a ∈ s.seq.jobs, s.outranks a j = false) ∧ 3 ∉ s.seq.reserved) := by
  refine ⟨?_, ?_, ?_, ?_, ?_, ?_, ?_⟩
  all_goals decide +kernel

/-- A COMPUTE job whose cluster is done, with its fault and the tokens left. -/
def ended (f : Option (Byte × Nat × Nat)) (tok : Tbl Nat) : State :=
  { seqS [{ job0 compute0 with fault := f }] [] with clusters := [(0, { Cluster.idle with job := some 0, tok := tok })] }
def copying (moved : Bool) (rs : List Req) : State := { seqS [{ job0 (copy0 (localAddr 0)) with moved := moved }] [] with reqs := rs }
def copied (st : ReqStage) : Req := { mkReq (.copy 0) .read (localAddr 0) 32 [] false true (.job 0) (some 0) with id := 7, stage := st }

theorem test_witness_JobsEndAndAreReported :
    (∀ f ∈ [none, some ((4 : Byte), 0, 0)], (ended f []).job? 0 = some { job0 compute0 with fault := f } ∧ (ended f []).clustersOf 0 = [0]
      ∧ (ended f []).clusterDone { job0 compute0 with fault := f } 0 = true ∧ ((ended f []).cluster 0).tok = []
      ∧ (∀ n ∈ (ended f []).seq.faults, n.job ≠ 0) ∧ tagFits ((ended f []).tagBal 0 9 - 1) = true)
    ∧ ((ended none [(1, 1)]).clusterDone (job0 compute0) 0 = true
      ∧ ((ended none [(1, 1)]).clustersOf 0).find? (fun c => ((ended none [(1, 1)]).cluster c).tok != []) = some 0)
    ∧ (let s := copying true []
       s.job? 0 = some { job0 (copy0 (localAddr 0)) with moved := true } ∧ s.reqs.filter (fun r => r.purpose == .job 0) = []
        ∧ tagFits (s.tagBal 0 9 - 1) = true)
    ∧ (let s := copying false [copied .refused]
       s.job? 0 = some (job0 (copy0 (localAddr 0))) ∧ s.reqs.filter (fun r => r.purpose == .job 0) = [copied .refused])
    ∧ (let q := copied (.done (List.replicate 32 1) false)
       let s := copying false [q]
       s.reqs.filter (fun r => r.purpose == .job 0) = [q] ∧ q.finished = true ∧ q.stage ≠ .refused
        ∧ (s.job? 0).isSome = true ∧ 0 < (bytesOf [q]).length ∧ s.reqs.filter (fun r => decide (r ∉ [q])) = []
        ∧ s.addrKind ((job0 (copy0 (localAddr 0))).arg 1) (bytesOf [q]).length = .hbm)
    ∧ (let j := { job0 (pinJob 0 1) with moved := true }
       (seqS [j] []).job? 0 = some j ∧ j.type = 4 ∧ j.started.isSome = true ∧ tagFits ((seqS [j] []).tagBal 0 9 - 1) = true)
    ∧ (∀ b ∈ [false, true],
       let o : Owed := ⟨job0 compute0, .done, 0, 0, 0⟩
       let w := { mkReq (.copy 0) .write (localAddr 0) 32 [] false true (.job 0) none with id := 7 }
       let s := { busy with reqs := if b then [w] else [], seq := { busy.seq with owed := [o] } }
       s.seq.owed = [o] ∧ s.writesOut 0 = b ∧ s.cqEn 0 = false) := by
  refine ⟨?_, ?_, ?_, ?_, ?_, ?_, ?_⟩
  all_goals decide +kernel

def counted (msix : Tbl Word32) : State :=
  let s := withRegs up [(0x285004, 0x100)]
  { s with time := { s.time with now := 2 ^ 60 }, link := { s.link with msix := msix }
           seq := { s.seq with ctxs := [(0, { CtxRun.init with oldest := some 0, pending := 1 })] } }

theorem test_witness_CompletionRingsCountAndInterrupt :
    (((counted []).ctx 0).oldest = some 0 ∧ (counted []).fld 0x2850 4 23 8 ≠ 0
      ∧ (counted []).passedNs 0 (1000 * (counted []).fld 0x2850 4 23 8) = true ∧ (counted []).deaf = false
      ∧ (counted []).vectorMasked 0 = true ∧ (counted [(3, 0)]).vectorMasked 0 = false)
    ∧ (up.carries .bar0 0x2850 2 = true ∧ inRange 0x2850 2 (((8 : Word32) ||| 1).setWidth 64) = true
      ∧ (up.handed .bar0 0x2850 2).cqEn 0 = false ∧ ((up.handed .bar0 0x2850 2).ctx 0).held = [])
    ∧ ((reading [] RingRun.init (readOf (.head 0) [1, 0, 0, 0] false)).returned (.head 0) = some (readOf (.head 0) [1, 0, 0, 0] false)
      ∧ (readOf (.head 0) [1, 0, 0, 0] false).index = some 1)
    ∧ (let s := held [] [(0, line0)]
       s.fld 0x2850 1 47 0 + 32 * ((s.ctx 0).written % s.cqSize 0) = 0 ∧ s.addrKind (localAddr 0) 32 = .hbm)
    ∧ (counted []).fld 0x2850 4 7 0 = 0
    ∧ (withRegs (counted []) [(0x285004, 2)]).fld 0x2850 4 7 0 ≤ ((withRegs (counted []) [(0x285004, 2)]).ctx 0).pending + 1 := by
  refine ⟨?_, ?_, ?_, ?_, ?_, ?_⟩
  all_goals decide +kernel

/-- Context 0 in a state of its own, with its saved and stored slots. -/
def ctxS (st : Nat) (x : CtxRun) : State :=
  let s := withRegs busy [(0x250001, 1), (0x286001, BitVec.ofNat 64 (16 * st))]
  { s with seq := { s.seq with ctxs := [(0, x)] } }
def idleCtx (st : Nat) (x : CtxRun) : State := { ctxS st x with clusters := [], seq := { (ctxS st x).seq with jobs := [] } }

theorem test_witness_ContextsSaveRestoreAndResume :
    (∀ st ∈ [ctxActive, ctxSaving, ctxSavedSt, ctxRestoring, ctxHalted],
      (ctxS st CtxRun.init).carries .bar0 0x2860 1 = true ∧ (ctxS st CtxRun.init).ctxState 0 = st)
    ∧ ((ctxS ctxSavedSt { CtxRun.init with saved := [(0, Cluster.idle)] }).present 0 = true
      ∧ (ctxS ctxSavedSt { CtxRun.init with saved := [(1, Cluster.idle)] }).present 1 = false)
    ∧ (let s := withEngine (listed [{ run0 { d0 with postN := 2 } with issued := true }])
       let s := { withRegs s [(0x286001, 16)] with time := { s.time with core := 2 ^ 60 } }
       s.ctxState 0 = ctxSaving ∧ s.passedClk (s.ctx 0).saveAt (2 ^ s.fld 0x2500 0x0B 4 0) = true
        ∧ (s.ctxClusters 0).find? (fun cl => (s.engine cl).unposted) = some 0 ∧ (s.jobOn 0).isSome = true)
    ∧ (let s := { ctxS ctxSaving CtxRun.init with seq := { busy.seq with jobs := [job0 compute0] } }
       s.ctxState 0 = ctxSaving ∧ (s.ctx 0).stored = false ∧ s.saveWaits 0 = false ∧ s.ctxClusters 0 = [0] ∧ s.atRest 0 = true
        ∧ s.addrKind (s.slotAddr 0 0) slotBytes = .hbm ∧ s.seq.faults = [])
    ∧ ((ctxS ctxSaving { CtxRun.init with stored := true }).ctx 0).stored = true
    ∧ (∀ c ∈ [(0 : Cl), 1],
       let s := idleCtx ctxRestoring { CtxRun.init with saved := [(0, Cluster.idle)], toRestore := [0, 1] }
       s.ctxState 0 = ctxRestoring ∧ c.val ∈ (s.ctx 0).toRestore ∧ (s.cluster c).job = none ∧ s.present c = decide (c = 0)
        ∧ (s.ctx 0).saved.find? (fun p => p.1 == 0) = some (0, Cluster.idle) ∧ s.addrKind (s.slotAddr 0 0) slotBytes = .hbm
        ∧ s.reqs.filter (·.purpose.ofRestore 0 0) = [])
    ∧ (∀ st ∈ [ReqStage.waiting, .done (List.replicate 32 0) false],
       let q := { mkReq .seqr .read (localAddr 0) 32 [] false true (.restore 0 0 0) none with id := 7, stage := st }
       [q].filter (·.purpose.ofRestore 0 0) = [q] ∧ q.finished = decide (st ≠ .waiting))
    ∧ ((idleCtx ctxRestoring CtxRun.init).ctx 0).toRestore = []
    ∧ (up.carries .bar0 0x2701 1 = true ∧ up.ctxRuns 0 = false ∧ busy.ctxRuns 0 = true) := by
  refine ⟨?_, ?_, ?_, ?_, ?_, ?_, ?_, ?_, ?_⟩
  all_goals decide +kernel

theorem test_witness_KillsEndTheContextAndTagsHold :
    (busy.jobOn 0 = some (job0 [0x300000001, 1]) ∧ pinned1.pinSlot 0 = some (0, 1, 0) ∧ busy.cqEn 0 = false)
    ∧ (withRegs pin1 [(0x231201, slotWord 0 1 3)]).pinSlot 0 = some (0, 1, 3)
    ∧ (tagFits (up.tagBal 0 9 - 1) = true ∧ (waiting0 compute0).fsig = 9)
    ∧ (let s := { up with seq := { up.seq with tags := [(9, -32768)] } }
       tagFits (s.tagBal 0 9 - 1) = false)
    ∧ (let j := { job0 [] with id := 1, ctx := 1 }
       j ∈ (seqS [job0 [], j] []).seq.jobs ∧ j.ctx ≠ 0 ∧ ((seqS [job0 [], j] []).jobsOf 0).all (fun k => k.id != j.id) = true ∧ j.type ≠ 4
        ∧ ((seqS [job0 [], j] []).seq.jobs.map (·.id)).Nodup
        ∧ (∀ k ∈ (seqS [job0 [], j] []).jobsOf 0, ((seqS [job0 [], j] []).killReqs 0).writesOut k.id = false)) := by
  refine ⟨?_, ?_, ?_, ?_, ?_⟩
  all_goals decide +kernel

/-! ### Fabric time and the fabric -/

def fabRegs : List (Nat × Word64) :=
  [(0x290101, 0xFFFF0001), (0x290102, 0xFFFF0001), (0x290201, 2), (0x290202, 2), (0x290301, 0x10), (0x291001, 0x40001),
   (0x292001, 3), (0x292003, 77)]
/-- Node 1 of a fabric with ports 0 and 1 UP and aligned, and node 2 behind port 1. -/
def fab (p : PortRun) (rs : List (Nat × Word64)) : State :=
  let s := withRegs up (fabRegs ++ rs)
  { s with
    time := { s.time with now := 2 ^ 60 }
    fabric := { s.fabric with ports := [(0, p), (1, { p with queue := [] })], rt := [(2, 0x11)] } }
def lit : PortRun := { PortRun.init with aligned := true }

def ftS (src st : Nat) (good bad ft : Nat) : State :=
  let s := withRegs up [(0x288101, BitVec.ofNat 64 src), (0x288102, BitVec.ofNat 64 st)]
  { s with time := { s.time with good := good, bad := bad, ft := ft, now := 2 ^ 60 } }

theorem test_witness_FabricTimeLocksAndSteps :
    (up.mctpOn = true ∧ up.domainOn 0x2880 = true ∧ up.carries .bar0 0x2881 1 = true ∧ fieldOf 2 1 0 ≤ 2
      ∧ (ftS 1 0 0 0 0).ftSrc ≠ 2 ∧ (ftS 2 0 0 0 0).ftSrc = 2 ∧ (ftS 1 0 0 0 0).heldClear 0x2881 2 2 = false ∧ up.carries .bar0 0x2881 3 = true)
    ∧ (∀ p ∈ [(ftLocked, 0, 2, 21 * nsUnits), (ftLocked, 0, 0, 20 * nsUnits), (ftAcquiring, 2, 0, 20 * nsUnits), (ftHoldover, 0, 0, 21 * nsUnits),
        (ftAcquiring, 0, 0, 1000001 * nsUnits)],
      let s := ftS 1 p.1 p.2.1 p.2.2.1 p.2.2.2
      s.spoutOn = true ∧ s.ftSrc = 1 ∧ s.ftState = p.1 ∧ s.time.good = p.2.1 ∧ s.time.bad = p.2.2.1 ∧ s.edgeSecond = 0)
    ∧ (ftS 0 0 0 0 0).ftSrc ≠ 1
    ∧ ((ftS 0 ftLocked 0 0 0).ftState = ftLocked ∧ (ftS 0 ftLocked 0 0 0).passedNs (ftS 0 ftLocked 0 0 0).time.lastRef 2000000000 = true)
    ∧ (let s := withRegs (ftS 0 0 0 0 secUnits) [(0x288201, 1)]
       s.bit 0x2882 1 0 = true ∧ s.spoutOn = true ∧ s.ftReached (s.time.ft / secUnits * secUnits) = true) := by
  refine ⟨?_, ?_, ?_, ?_, ?_⟩
  all_goals decide +kernel

def ann (id : BitVec 64) (p : Byte) : Announce :=
  { prio1 := p, clockClass := 6, accuracy := 0, variance := 0, prio2 := 0, identity := 9, steps := 0, sender := id, domain := 0 }
def ptpS (r : PtpRole) (b : Option Announce) (src good bad st : Nat) : State :=
  let s := fab { lit with role := r, best := b } [(0x288101, BitVec.ofNat 64 src), (0x288102, BitVec.ofNat 64 st), (0x294001, 0)]
  { s with time := { s.time with good := good, bad := bad } }

theorem test_witness_PtpFollowsTheBestMaster :
    (0 ∈ (ptpS .master none 0 0 0 0).ptpPorts ∧ (ptpS .master none 0 0 0 0).hears 0 = true ∧ ((ptpS .master none 0 0 0 0).port 0).role = .master
      ∧ (ptpS .master none 0 0 0 0).passedNs ((ptpS .master none 0 0 0 0).port 0).syncAt 7812500 = true
      ∧ (ptpS .master none 0 0 0 0).passedNs ((ptpS .master none 0 0 0 0).port 0).pdelAt 125000000 = true
      ∧ (ptpS .master none 0 0 0 0).passedNs ((ptpS .master none 0 0 0 0).port 0).annSent 1000000000 = true)
    ∧ (0 ∈ (ptpS .slave none 0 63 0 ftAcquiring).ptpPorts ∧ (ptpS .slave none 0 63 0 ftAcquiring).hears 0 = true
      ∧ ((ptpS .slave none 0 63 0 ftAcquiring).port 0).role = .slave
      ∧ (ptpS .slave none 0 63 0 ftAcquiring).ftSrc = 0 ∧ (ptpS .slave none 0 63 0 ftAcquiring).ftState = ftAcquiring
      ∧ (ptpS .slave none 0 0 7 ftLocked).ftState = ftLocked ∧ (fracUnits ((65536 * 21 : Nat) - 0 - 0 - 0)).natAbs = 21 * nsUnits
      ∧ (fracUnits ((65536 * 4 : Nat) - 0 - 0 - 0)).natAbs = 4 * nsUnits
      ∧ (fracUnits ((65536 * 1000001 : Nat) - 0 - 0 - 0)).natAbs = 1000001 * nsUnits)
    ∧ ((1 : Byte).toNat ≠ (ptpS .slave none 0 0 0 0).fld 0x2940 1 7 0 ∧ (ann 1 1).domain.toNat = (ptpS .slave none 0 0 0 0).fld 0x2940 1 7 0 ∧ ((ptpS .slave none 0 0 0 0).port 0).best = none)
    ∧ (Config.clockIdentity + 1 ≠ Config.clockIdentity)
    ∧ (((ptpS .slave (some (ann 1 1)) 0 0 0 0).port 0).best = some (ann 1 1) ∧ betterMaster (ann 2 0) (ann 1 1) = false
      ∧ betterMaster { ann 2 0 with identity := 8 } (ann 1 1) = true ∧ ((ann 1 1).sender == (ann 2 0).sender) = false)
    ∧ ((ptpS .slave (some (ann 1 1)) 0 0 0 0).passedNs ((ptpS .slave (some (ann 1 1)) 0 0 0 0).port 0).annAt 3000000000 = true) := by
  refine ⟨?_, ?_, ?_, ?_, ?_, ?_⟩
  · decide +kernel
  · decide +kernel
  · decide +kernel
  · generalize Config.clockIdentity = c; bv_omega
  · decide +kernel
  · decide +kernel

def hello (node : Nat) : Word32 := BitVec.ofNat 32 (2 ^ 28 + 2 ^ 24 + node)
def settling : PortRun := { lit with settle := true }
def ext0 : Nat × Word64 := (0x290101, 0xFFFF0005)

theorem test_witness_PortsRiseAndFall :
    (∀ e ∈ [(0x290101, 0xFFFF0001), ext0],
      let s := fab lit [e, (0x290201, 0)]
      s.switchOn = true ∧ s.portExists 0 = true ∧ s.portEn 0 = true ∧ s.portState 0 = portDown ∧ (s.port 0).settle = false
        ∧ s.portUp 0 = false ∧ s.portExt 0 = decide (e = ext0))
    ∧ ((fab lit []).hears 0 = true ∧ (fab lit []).portExt 0 = false ∧ (fab lit []).portUp 0 = true
      ∧ (decide (1 ≤ (fab lit []).portState 0 ∧ (fab lit []).portState 0 ≤ 3) && (fab lit []).passedNs ((fab lit []).port 0).hiAt 1000000) = true
      ∧ (fab settling []).hears 0 = true ∧ ((fab settling []).port 0).settle = true
      ∧ (let s := fab { settling with alignAt := 2 ^ 60 } []
         s.conforms 0 (linkNode (hello 2)) (fab lit []).fabId = true
           ∧ (s.passedNs (s.port 0).alignAt 10000000 && (s.port 0).empty) = false))
    ∧ (linkVer (hello 2) = 1 ∧ linkType (hello 2) = 1 ∧ (fab lit []).conforms 0 (linkNode (hello 2)) (fab lit []).fabId = true
      ∧ (fab settling []).conforms 0 (linkNode (hello 2)) (fab lit []).fabId = true
      ∧ (fab lit []).conforms 0 (linkNode (hello 1)) (fab lit []).fabId = false)
    ∧ (((fab lit []).port 0).aligned = true ∧ ((fab lit []).port 0).alignAt ≠ (fab lit []).time.now
      ∧ (fab lit []).passedNs ((fab lit []).port 0).helloAt 3500000 = true)
    ∧ (∀ e ∈ [(0x290101, 0xFFFF0001), ext0],
      let s := fab settling [e]
      (s.hears 0 && (s.port 0).settle && s.passedNs (s.port 0).alignAt 10000000 && (s.port 0).empty) = true
        ∧ s.portExt 0 = decide (e = ext0)) := by
  refine ⟨?_, ?_, ?_, ?_, ?_⟩
  all_goals decide +kernel

/-- A directed frame of word 2 and a path. -/
def dfw (w2 w3 w7 : Word32) : List Word32 := [0x13000002, 0, w2, w3, 0, 0, 0, w7, 0, 0]
def record (node : Nat) : Word32 := BitVec.ofNat 32 (2 ^ 28 + 2 * 2 ^ 24 + node)

theorem test_witness_TopologyAndDirectedFramesTravel :
    ((fab lit []).switchOn = true ∧ ((fab lit []).fabric.topoDue || (fab lit []).passedNs (fab lit []).fabric.topoAt 10000000000) = true
      ∧ (fab lit []).hears 0 = true ∧ (fab lit []).portExt 0 = false ∧ (fab lit []).portUp 1 = true)
    ∧ (linkVer (record 2) = 1 ∧ linkType (record 2) = 2 ∧ linkNode (record 2) ≠ 0xFFFF ∧ (fab lit []).topoTake (linkNode (record 2)) 5 = true
      ∧ (let s := fab lit []
         { s with fabric := { s.fabric with kept := [(2, (5, s.time.now))] } } : State).topoTake (linkNode (record 2)) 5 = false)
    ∧ (linkVer (frameWord (dfw 0 0 0) 0) = 1 ∧ linkType (frameWord (dfw 0 0 0) 0) = 3 ∧ dfReply (dfw 0 0 0) = false
      ∧ dfNext (dfw 0 0 0) = dfHops (dfw 0 0 0))
    ∧ (∀ p ∈ [(1 : Nat), 2],
      let w := dfw 0x04000000 (BitVec.ofNat 32 (p * 2 ^ 28)) 0
      dfReply w = false ∧ dfNext w < dfHops w ∧ dfHops w ≤ 32 ∧ (fab lit []).portUp (dfPath w (dfNext w)) = decide (p = 1))
    ∧ (∀ op ∈ [(0 : Nat), 1, 2, 3], wordField (dfw 0 0 (BitVec.ofNat 32 (op * 2 ^ 30))) 7 31 30 = op)
    ∧ (dfReply (dfw 0x04180000 0 0) = true ∧ dfNext (dfw 0x04180000 0 0) = 1
      ∧ dfReply (dfw 0x08280000 0x01000000 0) = true ∧ dfNext (dfw 0x08280000 0x01000000 0) = 2
      ∧ (fab lit []).portExists (dfPath (setNext (dfw 0x08280000 0x01000000 0) (2 - 1)) (2 - 1)) = true) := by
  refine ⟨?_, ?_, ?_, ?_, ?_, ?_⟩
  all_goals decide +kernel

/-- A WRITE packet for a node as it arrives at port 0. -/
def frame0 (dn : BitVec 16) (hop : Nat) : MFrame :=
  ⟨0x10, 0x20, 0, 0, hop, 3, 2, dn, 1, 17, 0, 77, 0x86DD, mkW0 1 0 false false false false 0, mkW1 0 0, mkW2 4 0, 0, 0, 0, 0, [1, 2, 3, 4]⟩

theorem test_witness_SwitchDeliversForwardsAndDrops :
    ((fab lit []).hears 0 = true ∧ (frame0 1 9).bytes ≤ 9216 ∧ (fab lit []).portTakes 0 (frame0 1 9) = true ∧ (fab lit []).portUp 0 = true
      ∧ (fab lit []).node ≠ 0xFFFF ∧ (frame0 1 9).op ≠ opCredit ∧ (fab lit []).nodeAddress (frame0 1 9) = true
      ∧ (frame0 1 9).dnode.toNat = (fab lit []).node ∧ frameBad (frame0 1 9) = false ∧ (fab lit []).switchOn = true
      ∧ (fab lit []).ingressRoom 0 (frame0 1 9) = true ∧ frameBad { frame0 1 9 with w0 := 0 } = true
      ∧ (fab lit []).portTakes 0 { frame0 1 9 with w0 := 0 } = true ∧ (fab lit []).heldClear 0x2950 1 3 = false)
    ∧ (∀ h ∈ [1, 2], (fab lit []).nodeAddress (frame0 2 h) = true ∧ (fab lit []).portTakes 0 (frame0 2 h) = true
      ∧ (fab lit []).route (frame0 2 h).dnode.toNat (frame0 2 h).udpSrc (some 0) = .out 1 ∧ (fab lit []).portUp 1 = true
      ∧ (fab lit []).portExt 1 = false ∧ (frame0 2 h).hop = h ∧ (frame0 2 h).dnode.toNat ≠ (fab lit []).node)
    ∧ ((fab lit []).route (frame0 5 9).dnode.toNat (frame0 5 9).udpSrc (some 0) = .drop ∧ (frame0 5 9).dnode.toNat ≠ (fab lit []).node
      ∧ (fab lit []).portTakes 0 (frame0 5 9) = true)
    ∧ (fab lit []).cutsThrough 0 (frame0 1 9) = none
    ∧ (fab lit []).portTakes 0 { frame0 1 9 with dmac := 0 } = false
    ∧ (∀ r ∈ [(2 : Nat), 0],
      let s := fab lit [(0x290202, BitVec.ofNat 64 r)]
      (2 : Nat) ≠ s.node ∧ fieldOf ((s.rt 2).setWidth 64) 0 0 = 1 ∧ fieldOf ((s.rt 2).setWidth 64) 3 1 = 2 / 8192
        ∧ fieldOf ((s.rt 2).setWidth 64) 13 13 = 0 ∧ fieldOf ((s.rt 2).setWidth 64) 12 12 = 0
        ∧ s.portUp (fieldOf ((s.rt 2).setWidth 64) 7 4) = decide (r = 2)) := by
  refine ⟨?_, ?_, ?_, ?_, ?_, ?_⟩
  all_goals decide +kernel

def queuedLink : EgItem := ⟨.link 0 0 [1], none, 22, none, false⟩
def queuedFrame : EgItem := ⟨.morotik (frame0 2 9), some 0, 98, none, false⟩

theorem test_witness_EgressCreditsAndFabricSettings :
    ((fab { lit with queue := [queuedLink] } []).switchOn = true ∧ (fab { lit with queue := [queuedLink] } []).portExists 0 = true
      ∧ (fab { lit with queue := [queuedLink] } []).portState 0 ≠ portDown ∧ (fab { lit with queue := [queuedLink] } []).portState 0 ≠ portDisabled
      ∧ ((fab { lit with queue := [queuedLink] } []).port 0).queue.find? (fun q => q.vl.isNone) = some queuedLink)
    ∧ (let s := fab { lit with queue := [queuedFrame] } []
       (s.port 0).queue.find? (fun q => q.vl.isNone) = none ∧ s.portUp 0 = true ∧ s.portExt 0 = false
        ∧ (s.drr 0 12 (s.port 0).turn (s.port 0).deficit).map (fun x => x.2.1) = some queuedFrame ∧ queuedFrame.vl = some 0
        ∧ queuedFrame.frame = .morotik (frame0 2 9) ∧ (0 : Nat) < queuedFrame.words)
    ∧ ((fab lit []).hears 0 && (fab lit []).portUp 0 && !(fab lit []).portExt 0 && ([1, 2, 3, 4] : List Word32).length == 4) = true
    ∧ ((fab lit []).node ≠ 0xFFFF ∧ (fab { lit with freed := [512, 0, 0, 0] } []).portUp 0 = true
      ∧ 512 ≤ ((fab { lit with freed := [512, 0, 0, 0] } []).port 0).owed ∧ (fab lit []).passedNs ((fab lit []).port 0).toldAt 10000 = true)
    ∧ (let s := fab lit [ext0]
       s.hears 0 = true
        ∧ (s.portExt 0 && (3 : BitVec 48) == (s.reg 0x2920 1).setWidth 48 && (1 : BitVec 16).toNat == s.node && s.node != 0xFFFF && (1 : Word64) == 1) = true
        ∧ (s.portExt 0 && (3 : BitVec 48) == (s.reg 0x2920 1).setWidth 48 && (2 : BitVec 16).toNat == s.node && s.node != 0xFFFF && (1 : Word64) == 1) = false)
    ∧ (up.carries .bar0 0x2930 2 = true ∧ up.carries .bar0 0x2910 1 = true ∧ fieldOf ((0x10001 : Word32).setWidth 64) 17 16 ≤ 1
      ∧ fieldOf ((0x10001 : Word32).setWidth 64) 15 0 = (fab lit []).node ∧ (fab lit []).carries .bar0 0x2910 1 = true
      ∧ fieldOf ((2 : Word32).setWidth 64) 15 0 ≠ (fab lit []).node ∧ (fab lit []).fld 0x2910 1 20 19 ≠ 1
      ∧ (fab lit [(0x291001, 0xC0001)]).fld 0x2910 1 20 19 = 1) := by
  refine ⟨?_, ?_, ?_, ?_, ?_, ?_⟩
  all_goals decide +kernel

/-! ### Transport, message queues and collectives -/

/-- A packet from node 2 as it stands at the local port: its operation, VL, PSN, STATUS, length, tag, address and payload. -/
def mf (op vl psn status len tag : Nat) (addr : Word64) (w5 : Word32) (payload : List Byte) : MFrame :=
  ⟨0x10, 0x20, 0, 0, 9, 3, 2, 1, 1, 17, 0, 77, 0x86DD, mkW0 op vl false false false false 0, mkW1 (BitVec.ofNat 24 psn) status,
   mkW2 len tag, (addr >>> 32).setWidth 32, addr.setWidth 32, w5, 0, payload⟩
/-- The fabric with a packet at the head of the local port. -/
def arrive (s : State) (f : MFrame) : State := { s with fabric := { s.fabric with inbox := [(f, false)] } }
/-- Node 1 with one valid line in the caddies. -/
def memFab : State := let s := fab lit []; { s with caddy := { s.caddy with lines := [(0, line0)] } }
/-- A request of this module at node 2, under tag 7. -/
def farReq (k : ReqKind) : Req :=
  { mkReq (.tg 0) k ((2 : Word64) <<< 48) 4 [] false true (.job 0) none with id := 7 }
def asking (k : ReqKind) : State := let s := fab lit []; { s with reqs := [farReq k], seq := { s.seq with jobs := [job0 compute0] } }
/-- A connection to node 2 with a state of its own. -/
def withConn (s : State) (k : Nat) (c : Conn) : State := s.setConn 2 k c
def copyOf (f : MFrame) (m : Bool) : Unacked := ⟨f.psn, f, m, false⟩

/-- A packet that has arrived is in turn. -/
def turns (s : State) (f : MFrame) : Bool :=
  Tbl.get 0 s.fabric.boots f.snode.toNat == f.bootid && f.psn == (s.conn f.snode.toNat f.cls).rxPsn
    && (s.conn f.snode.toNat f.cls).held == [] && (s.conn f.snode.toNat f.cls).exec == none
    && decide ((s.conn f.snode.toNat f.cls).ackDue < 3)
theorem test_turns_is_inTurn (s : State) (f : MFrame) (h : turns (arrive s f) f = true) : (arrive s f).inTurn f [] := by
  simp only [turns, Bool.and_eq_true, beq_iff_eq, decide_eq_true_eq] at h
  obtain ⟨⟨⟨⟨h1, h2⟩, h3⟩, h4⟩, h5⟩ := h
  unfold State.inTurn
  exact ⟨⟨false, rfl⟩, h1, h2, h3, h4, h5⟩

/-- Hypotheses on a packet in turn are stated by `turns`, which `test_turns_is_inTurn` leads to `State.inTurn`. -/
theorem test_witness_PacketsExecuteInTurnAndAnswer :
    (let f := mf opWrite 0 0 0 32 0 0 0 (List.replicate 32 5)
     let s := arrive (fab lit []) f;
       turns s f = true ∧ f.op = opWrite ∧ 0 < f.payload.length ∧ peerMay (framePa f) f.payload.length = true)
    ∧ (let f := mf opWrite 0 0 0 4 0 (2 ^ 46) 0 [1, 2, 3, 4]
       let s := arrive (fab lit []) f;
       turns s f = true ∧ peerMay (framePa f) f.payload.length = false ∧ s.node ≠ 0xFFFF)
    ∧ (let f := mf opReadReq 0 0 0 32 3 0 0 []
       let s := arrive memFab f;
       turns s f = true ∧ f.op = opReadReq ∧ f.len = 32 ∧ peerMay (framePa f) 32 = true
        ∧ peerMay (framePa { f with w3 := 0x4000 }) 32 = false ∧ turns s { f with w3 := 0x4000 } = true ∧ s.maySend f.snode.toNat 1 142)
    ∧ (let f := mf opAtomic 0 0 0 4 3 0 0x11000000 [0, 0, 0, 1]
       let s := arrive memFab f;
       turns s f = true ∧ f.op = opAtomic ∧ frameAtomic f = some (.add, .u32, 1, 0)
        ∧ peerMay (framePa f) (atomWidth .u32) = true ∧ framePa f % atomWidth .u32 = 0
        ∧ frameAtomic { f with w5 := 0xFF000000 } = none ∧ turns s { f with w5 := 0xFF000000 } = true ∧ s.maySend f.snode.toNat 1 118)
    ∧ (∀ st ∈ [(0 : Nat), 1],
       let f := mf opReadResp 2 0 st 4 7 0 0 [1, 2, 3, 4]
       let s := arrive (asking .read) f;
       turns s f = true ∧ f.status = st ∧ f.pm = false
        ∧ s.tagged f.snode.toNat f.tag (fun k => k == .read) = some (farReq .read)
        ∧ s.req? 7 = some (farReq .read) ∧ s.unwanted (farReq .read) = false
        ∧ (s.reqs.map (·.id)).Nodup ∧ (farReq .read).finished = false)
    ∧ (let f := mf opAtomicResp 2 0 0 4 7 0 0 [1, 2, 3, 4]
       let s := arrive (asking (.atomic .add .u32)) f;
       turns s f = true ∧ f.status = 0 ∧ f.pm = false
        ∧ s.tagged f.snode.toNat f.tag ReqKind.isAtomic = some (farReq (.atomic .add .u32))
        ∧ s.req? 7 = some (farReq (.atomic .add .u32)) ∧ s.unwanted (farReq (.atomic .add .u32)) = false)
    ∧ (let f := mf opWrite 0 5 0 4 0 0 0 [1, 2, 3, 4]
       f.rsy = false ∧ f.psn ≠ ((fab lit []).conn f.snode.toNat f.cls).rxPsn ∧ Tbl.get 0 (fab lit []).fabric.boots f.snode.toNat = f.bootid
        ∧ psnAhead f.psn ((fab lit []).conn f.snode.toNat f.cls).rxPsn = true
        ∧ (f.psn - ((fab lit []).conn f.snode.toNat f.cls).rxPsn).toNat ≤ 64 ∧ (fab lit []).reorderBytes + f.bytes ≤ 2 ^ 22
        ∧ ((fab lit []).conn f.snode.toNat f.cls).exec = none
        ∧ ({ Conn.init with exec := some (9, mf opWrite 0 4 0 4 0 0 0 [1, 2, 3, 4]), rxPsn := 4 } : Conn).follows f = true)
    ∧ (let f := mf opAck 2 1 0 0 0 0 0 []
       let m := copyOf (mf opMsg 0 0 0 0 0 0 0 []) false
       let s := withConn (fab lit []) 0 { Conn.init with txPsn := 1, unacked := [m] }
       f.op = opAck ∧ f.ece = false ∧ f.addr = 0 ∧ psnAhead f.psn (s.conn 2 (f.tag % 2)).txPsn = false
        ∧ (s.conn 2 (f.tag % 2)).waiting = [] ∧ (∀ u ∈ (s.conn 2 (f.tag % 2)).unacked, u.frame.op ≠ opWrite ∧ u.frame.op ≠ opColl)
        ∧ psnAhead f.psn m.psn = true)
    ∧ (let f := mf opAck 2 1 0 0 0 0 0 []
       let u := copyOf (mf opWrite 0 0 0 4 7 0 0 [1, 2, 3, 4]) false
       let s := withConn (asking .write) 0 { Conn.init with txPsn := 1, unacked := [u] }
       (s.conn 2 (f.tag % 2)).unacked = [u] ∧ u.psn + 1 = f.psn ∧ u.frame.op = opWrite
        ∧ s.tagged 2 u.frame.tag (fun k => k == .write) = some (farReq .write) ∧ s.req? 7 = some (farReq .write))
    ∧ (let s := withConn (fab lit []) 1 { Conn.init with ackDue := 1 }
       s.node ≠ 0xFFFF ∧ 0 < (s.conn 2 1).ackDue ∧ s.passedNs (s.conn 2 1).ackAt 500 = true
        ∧ s.route 2 0 none = .out 1 ∧ s.portUp 1 = true ∧ s.portExt 1 = false)
    ∧ (let s := withConn (fab lit [(0x297001, 0x80000)]) 0 { Conn.init with timer := some 0, interval := 5 }
       (s.conn 2 0).timer = some 0 ∧ s.passedNs 0 (1000 * (s.conn 2 0).interval) = true
        ∧ (∀ q ∈ s.fabric.inbox, ¬ (q.1.op = opAck ∧ q.1.snode.toNat = 2 ∧ q.1.tag % 2 = 0))
        ∧ (s.conn 2 0).expiries + 1 < s.fld 0x2970 1 19 16)
    ∧ (let s := withConn (asking .read) 0 { Conn.init with timer := some 0, interval := 5, expiries := 15 }
       s.fld 0x2970 1 19 16 ≤ (s.conn 2 0).expiries + 1 ∧ (s.conn 2 0).waiting = []
        ∧ s.outstanding 2 (farReq .read) = true ∧ (farReq .read).kind ≠ .write ∧ s.unwanted (farReq .read) = false
        ∧ s.fabric.colls = [] ∧ Tbl.get 0 s.fabric.boots 2 = 0 ∧ (0 : BitVec 16) ≠ 5
        ∧ Tbl.get 0 ({ s with fabric := { s.fabric with boots := [(2, 4)] } } : State).fabric.boots 2 = 4)
    ∧ (let f := mf opAck 2 1 0 0 0 0 0 []
       let s := arrive (fab lit []) f
       s.fabric.inbox.find? (fun q => q.1.op == opAck && q.1.snode.toNat == 2 && q.1.tag % 2 == 0) = some (f, false))
    ∧ (let s := withConn (fab lit [(0x290102, 0xFFFF0005)]) 0 { Conn.init with rate := 1000 }
       s.switched 2 0 = true ∧ (s.conn 2 0).rate ≠ 0 ∧ s.passedNs (s.conn 2 0).rateAt s.rateInterval = true) := by
  unfold State.maySend
  refine ⟨?_, ?_, ?_, ?_, ?_, ?_, ?_, ?_, ?_, ?_, ?_, ?_, ?_, ?_⟩
  all_goals decide +kernel

/-- A packet of node 2 executes, with its one request at a stage. -/
def runs0 (op : Nat) : MFrame := mf op 0 0 0 4 3 0 0x11000000 [0, 0, 0, 1]
def runReq (k : ReqKind) (st : ReqStage) : Req :=
  { mkReq (.peer 2) k (localAddr 0) 4 [] false true (.packet 2 0 9 0) none with id := 7, stage := st }
def executing (op : Nat) (k : ReqKind) (st : ReqStage) : State :=
  withConn { fab lit [] with reqs := [runReq k st] } 0 { Conn.init with exec := some (9, runs0 op) }

theorem test_witness_PacketsExecuteInTurnAndAnswer_done :
    (∀ w ∈ [(opWrite, ReqKind.write), (opReadReq, .read), (opAtomic, .atomic .add .u32)],
      ∀ st ∈ [ReqStage.waiting, .done [1, 2, 3, 4] false],
       ((executing w.1 w.2 st).conn 2 0).exec = some (9, runs0 w.1) ∧ (runs0 w.1).op = w.1
        ∧ (executing w.1 w.2 st).reqs.filter (fun r => r.purpose.ofRun 2 0 9) = [runReq w.2 st]
        ∧ (runReq w.2 st).finished = decide (st ≠ .waiting))
    ∧ (∀ op ∈ [opWrite, opReadReq, opAtomic], (runs0 op).snode.toNat = 2 ∧ (runs0 op).cls = 0
        ∧ (runs0 op).psn = ((executing op .read .waiting).conn 2 0).rxPsn)
    ∧ ((executing opWrite .write .waiting).conn 2 0).held = [] ∧ ((executing opWrite .write .waiting).conn 2 0).ackDue < 3
    ∧ frameAtomic (runs0 opAtomic) = some (.add, .u32, 1, 0) ∧ (executing opWrite .write .waiting).maySend 2 1 118 := by
  unfold State.maySend
  refine ⟨?_, ?_, ?_, ?_, ?_, ?_⟩
  all_goals decide +kernel

/-- Nothing waits to be heard of, and no packet waits, where a request is out at another node. -/
theorem test_witness_allHeard_far : (asking .read).allHeard ∧ (asking (.atomic .add .u32)).allHeard ∧ (asking .write).allHeard
    ∧ (asking .read).noneWaits ∧ (farReq .write).quiet := by
  refine ⟨⟨?_, rfl, ?_, rfl⟩, ⟨?_, rfl, ?_, rfl⟩, ⟨?_, rfl, ?_, rfl⟩, ?_, ?_, ?_⟩ <;>
    simp [State.noneWaits, asking, fab, farReq, withRegs, fabRegs, up, State.reset, mkReq, Req.finished]

/-- Threads in flight beside a fabric, and message queue 0 in both directions with a state of its own. -/
def mqS (lanes : List Nat) (k : Bool) (m : MqRun) (rs : List (Nat × Word64)) : State :=
  let s := tgS (tg0 lanes [thr .running, thr .running])
  ({ withRegs s ((0x296001, 1) :: (0x296101, 1) :: rs) with time := { s.time with now := 2 ^ 60, spout := 100 } }).setMq k 0 m
def mine (p : BitVec 11) : MqRun := { MqRun.init with openBy := some (0, 0, p) }
/-- A message of `n` bytes for a node and queue, complete behind its length word. -/
def message0 (n node q : Nat) (bad : Bool) : MqRun :=
  { MqRun.init with mem := [(0, mqWord (lenWord n node q) bad), (1, mqWord 5 false)], wp := 2, wEnd := 2, wSync := [2, 2] }
def msgS (m : MqRun) (rs : List (Nat × Word64)) : State := (fab lit ((0x296001, 1) :: (0x296101, 1) :: rs)).setMq false 0 m
/-- A receive queue with no room left. -/
def full : MqRun := { MqRun.init with wp := 1024, wEnd := 1024 }

theorem test_witness_MessageQueuesCarryWholeMessages :
    (∀ m ∈ [MqRun.init, full, { MqRun.init with openBy := some (1, 0, 1) }],
      let s := mqS [0, 1] false m []
      s.inHand thOk [] (poisonBad []) (ex [0, 1]) ∧ s.together (ex [0, 1]) ∧ s.mqAllowed false 0 (ex [0, 1]) = true
        ∧ (s.mq false 0).hold = none ∧ (s.mq false 0 = MqRun.init ∨ (s.mq false 0).room (s.mq false 0).wEnd = 0
          ∨ (s.mq false 0).openBy.isSome = true ∧ (s.mq false 0).heldBy (ex [0, 1]) = none))
    ∧ (∀ p ∈ [(1 : Nat), 1023],
      let s := mqS [0, 1] false (mine (BitVec.ofNat 11 p)) []
      s.inHand thOk [2, 3] (poisonBad [2, 3]) (ex [0, 1]) ∧ s.mqAllowed false 0 (ex [0, 1]) = true
        ∧ (s.mq false 0).heldBy (ex [0, 1]) = some (BitVec.ofNat 11 p)
        ∧ decide (2 ≤ (s.mq false 0).room (BitVec.ofNat 11 p)) = decide (p = 1))
    ∧ (let s := mqS [0, 1] false (mine 3) []
       s.inHand thOk (srcRegs (.reg 2) ++ srcRegs (.imm 2) ++ srcRegs (.imm 0)) (poisonBad (srcRegs (.reg 2) ++ srcRegs (.imm 2) ++ srcRegs (.imm 0)))
          (ex [0, 1]) ∧ s.mqAllowed false 0 (ex [0, 1]) = true ∧ (s.mq false 0).heldBy (ex [0, 1]) = some 3)
    ∧ (∀ m ∈ [message0 8 0 0 false, MqRun.init],
      let s := mqS [0, 1] true m []
      s.inHand thOk [2, 3] (poisonBad []) (ex [0, 1]) ∧ s.mqAllowed true 0 (ex [0, 1]) = true ∧ (s.mq true 0).hold = none
        ∧ (s.mq true 0).take 2 (s.mq true 0).left (s.mq true 0).rEnd
          = (if m = MqRun.init then none else some ([mqWord (lenWord 8 0 0) false, mqWord 5 false], 0)))
    ∧ (mqBad (mqWord (lenWord 8 0 0) false) = false ∧ mqBad (mqWord 5 false) = false)
    ∧ (let m := message0 8 2 0 false
       let s := msgS m []
       s.mq false 0 = m ∧ m.hold = none ∧ m.ready ≠ 0 ∧ mqBad (m.at m.rEnd) = false ∧ m.message.length < m.ready
        ∧ fieldOf (mqData (m.at m.rEnd)) 31 16 = 2 ∧ s.maySend 2 0 (110 + lenB (mqData (m.at m.rEnd))))
    ∧ (let m := message0 8 0xFFFF 0 false
       let s := msgS m []
       s.mq false 0 = m ∧ fieldOf (mqData (m.at m.rEnd)) 31 16 = 0xFFFF ∧ fieldOf (mqData (m.at m.rEnd)) 37 32 = 0
        ∧ m.message.length < m.ready ∧ s.mqEn true 0 = true ∧ (s.mq true 0).hold = none
        ∧ 1 + lenWords (lenB (mqData (m.at m.rEnd))) ≤ (s.mq true 0).room (s.mq true 0).wEnd)
    ∧ (let m := message0 16 2 0 false
       m.ready ≠ 0 ∧ mqBad (m.at m.rEnd) = false ∧ m.ready ≤ m.message.length)
    ∧ mqBad ((message0 8 2 0 true).at (message0 8 2 0 true).rEnd) = true
    ∧ (∀ b ∈ [false, true],
      let f := mf opMsg 0 0 0 8 0 0 0 [1, 2, 3, 4, 5, 6, 7, 8]
      let s := arrive ((fab lit [(0x296101, 1)]).setMq true 0 (if b then full else MqRun.init)) f
      turns s f = true ∧ f.op = opMsg ∧ f.tag % 64 = 0 ∧ s.mqEn true 0 = true ∧ (s.mq true 0).hold = none
        ∧ decide ((s.mq true 0).room (s.mq true 0).wEnd < 1 + lenWords f.payload.length) = b)
    ∧ ((fab lit []).carries .bar0 (mqIdx false) 1 = true ∧ (fab lit []).carries .bar0 (mqIdx true) 64 = true)
    ∧ (message0 8 2 0 false).losing ≠ 0
    ∧ (∀ t ∈ [(92 : Nat), 93],
      let s := mqS [] true { MqRun.init with hold := some t } []
      (s.mq true 0).hold = some t ∧ decide (t + 8 ≤ s.time.spout) = decide (t = 92)) := by
  simp only [State.inHand, State.together, State.maySend]
  refine ⟨?_, ?_, ?_, ?_, ?_, ?_, ?_, ?_, ?_, ?_, ?_, ?_, ?_⟩
  all_goals decide +kernel

/-- A plan of one phase, as bytes: COLLID 9, one entry. -/
def plan0 (w0 w1 w2 w3 : Word64) : List Byte :=
  ([packWord [(9, 0), (1, 32)], 0, 0, 0, w0, w1, w2, w3].map fun w => leBytes 8 w.toNat).flatten
def recvW (n : Nat) : List Word64 := [packWord [(2, 32), (2, 48)], 0, 4096, BitVec.ofNat 64 n]
def reduceW (root : Bool) (buf : Nat) : List Word64 :=
  [packWord [(3, 32), (1, 36)], packWord [(2, 0), (if root then 0x1F else 1, 16)], BitVec.ofNat 64 buf, 8]
def coll (ws : List (List Word64)) : Collective :=
  ⟨0, 9, 0, 0, ws, 1, 0, [], [], [], [], [], [], [], [], [], []⟩
/-- Node 1 with the collective of a job in slot 0, sub-port 1 behind port 1 with node 2. -/
def collJob : Job := job0 [hdr 6 9]
def collS (c : Collective) (rs : List (Nat × Word64)) : State :=
  let s := fab lit ([(0x290202, 0x202)] ++ rs)
  { s with seq := { s.seq with jobs := [collJob] }, time := { s.time with ft := 2 ^ 60 }
           fabric := { s.fabric with colls := [(0, c)] } }
def hostWin : Nat := hostWindow
/-- A collective job in host memory, or nowhere, that waits. -/
def collW (plan : Nat) : Job :=
  { id := 0, ctx := 0, ring := 0, entry := 0, words := [hdr 6 9, 0, 1, 0, localAddr plan], started := none, startLate := false
    ftUnlock := false, exc := 0, poison := false, fault := none, faultAt := 0, engine := none, moved := false, info := 0 }
def collStartS (plan : Nat) : State :=
  let s := unmasked (seqS [collW plan] []); { s with time := { s.time with ft := 1 * nsUnits } }

/-- A read of the plan at an offset, as it stands. -/
def planReq (off : Nat) (st : ReqStage) : Req :=
  { mkReq .seqr .read (localAddr off) 32 [] false true (.plan 0 off) none with id := 7 + off, stage := st }
def planS (plan : Nat) (rs : List Req) : State := { collStartS plan with reqs := rs }
def planWords (data : List Byte) : List Word64 := leWords data (data.length / 8)

theorem test_witness_CollectivesRunTheirPhases_plan :
    ((planS 4096 []).job? 0 = some (collW 4096) ∧ (planS 4096 []).eligible (collW 4096) = true ∧ (collW 4096).type = 6
      ∧ (planS 4096 []).collOutranked (collW 4096) = false ∧ (planS 4096 []).planRead 0 = .none_ ∧ localKind (4096 + 0) 32 = .hbm)
    ∧ (let data := plan0 0 0 4096 64
       let s := planS 4096 [planReq 0 (.done (data.take 32) false)]
       s.collOutranked (collW 4096) = false ∧ s.planRead 0 = .header (planWords (data.take 32)) ∧ planPhases (planWords (data.take 32)) = 1
        ∧ ∀ q ∈ s.reqs, q.id < { s with nextReq := 8 }.nextReq)
    ∧ (planS 0 [planReq 0 .waiting]).planRead 0 = .waits ∧ (planS 0 [planReq 0 .refused]).planRead 0 = .failed
    ∧ (planS 0 [planReq 0 (.done (List.replicate 32 0) true)]).planRead 0 = .poisoned
    ∧ (∀ b ∈ [false, true],
      let data := plan0 (if b then packWord [(2, 32), (2, 48)] else 0) 0 4096 64
      let ws := planWords data
      let s := planS 4096 [planReq 0 (.done (data.take 32) false), planReq 32 (.done (data.drop 32) false)]
      s.planRead 0 = .whole ws ∧ planBad (planPhases ws) (planEntries ws (planPhases ws)) = !b ∧ 4 + 4 * planPhases ws ≤ ws.length
        ∧ s.freeSlot ws 0 = some 0 ∧ s.fabric.rtsHeld = [] ∧ (collW 4096).nbt ≠ 0
        ∧ s.ftNs ≤ (collW 4096).nbt + phOffset ((planEntries ws (planPhases ws)).headD [])
        ∧ (b = true → (let w := (planEntries ws (planPhases ws)).headD []
          phKind w = .recv ∧ phOp w = 0 ∧ 0 < phLen w ∧ s.addrKind (localAddr (phBuf w)) (phLen w) ≠ .unmapped)))
    ∧ (collStartS 0).eligible { collW 0 with started := some 0 } = false := by
  refine ⟨?_, ?_, ?_, ?_, ?_, ?_, ?_⟩
  all_goals decide +kernel

/-- A collective can do nothing where no request is out and it has nothing at hand. -/
theorem test_collIdle (s : State) (c : Collective) (h : s.reqs = []) (hb : c.bufs = []) (ho : c.outs = [])
    (hi : phKind (c.ph c.phase) ≠ .reduce → c.inputs = []) (hd : s.phaseDone c = false) : s.collIdle c := by
  refine ⟨by simp [h], by simp [hb], by simp [ho], fun hk => by simp [hi hk], hd⟩

def sendW (buf : Nat) : List Word64 := [packWord [(1, 32), (2, 48)], 0, BitVec.ofNat 64 buf, 64]

theorem test_witness_CollectivesRunTheirPhases :
    (let c := coll [sendW 4096]
     let s := collS c []
     s.collAt 0 = some c ∧ c.phase < c.phases.length ∧ phKind (c.ph c.phase) = .send ∧ 0 < phLen (c.ph c.phase)
      ∧ phLen (c.ph c.phase) ≤ 4096 ∧ localKind (phBuf (c.ph c.phase)) (phLen (c.ph c.phase)) = .hbm ∧ c.nbt ≠ 0
      ∧ ({ s with time := { s.time with ft := 0 } } : State).ftNs ≤ c.timeOf c.phase)
    ∧ (∀ st ∈ [ftLocked, ftHoldover],
      let s := collS (coll [sendW 4096]) [(0x288102, BitVec.ofNat 64 st)]
      let c := coll [sendW 4096]
      s.collAt 0 = some c ∧ s.duePhases c = [0] ∧ c.phase = 0 ∧ decide (s.ftState = ftLocked) = decide (st = ftLocked)
        ∧ s.receivers (c.ph 0) = [2] ∧ s.maySend 2 1 94 ∧ 0 ∉ c.late ∧ s.reqs = [] ∧ s.phaseDone c = false)
    ∧ (let f := mf opColl 2 0 0 64 0 (collAddr 9 0 0) 0 (List.replicate 64 1)
       let s := arrive (collS (coll [recvW 64]) []) f
       turns s f = true ∧ f.op = opColl ∧ s.collSlot (addrColl f.addr) = some 0 ∧ s.collAt 0 = some (coll [recvW 64])
        ∧ (coll [recvW 64]).phase = addrPhase f.addr ∧ addrPhase f.addr < (coll [recvW 64]).phases.length
        ∧ addrChunk f.addr < phChunks ((coll [recvW 64]).ph (addrPhase f.addr)) ∧ s.reqs = [] ∧ s.phaseDone (coll [recvW 64]) = false
        ∧ localKind (phBuf (recvW 64) + 4096 * 0) 64 = .hbm
        ∧ s.inputOf (coll [recvW 64]) (addrPhase f.addr) (addrChunk f.addr) f.snode.toNat = some 16)
    ∧ (let f := mf opColl 2 0 0 8 0 (collAddr 9 0 0) 0 (List.replicate 8 1)
       let c := coll [reduceW true 4096]
       let s := arrive (collS c []) f
       c.phase = addrPhase f.addr ∧ phKind (c.ph 0) = .reduce ∧ addrChunk f.addr < phChunks (c.ph 0)
        ∧ (s.inputOf c 0 0 f.snode.toNat).isSome = true ∧ s.phaseDone c = false)
    ∧ (let f := mf opColl 2 0 0 64 0 (collAddr 8 0 0) 0 (List.replicate 64 1)
       let s := arrive (collS (coll [recvW 64]) []) f
       turns s f = true ∧ s.collSlot (addrColl f.addr) = none ∧ s.node ≠ 0xFFFF)
    ∧ (∀ t ∈ [(1 : Nat), 2],
      let f := mf opCollCtl 2 0 0 0 t (collAddr 9 0 0) 0 []
      let s := arrive (collS (coll [recvW 64]) []) f
      turns s f = true ∧ f.op = opCollCtl ∧ f.tag % 4 = t ∧ s.collSlot (addrColl f.addr) = some 0
        ∧ s.collAt 0 = some (coll [recvW 64]) ∧ s.maySend f.snode.toNat 1 94)
    ∧ (∀ n ∈ [(0 : Nat), 64],
      let f := mf opCollCtl 2 0 0 0 1 (collAddr 8 0 0) 0 []
      let s := arrive (collS (coll [recvW 64]) []) f
      let s := { s with fabric := { s.fabric with rtsHeld := List.replicate n (7, 0, 2) } }
      turns s f = true ∧ s.collSlot (addrColl f.addr) = none ∧ s.fabric.rtsHeld.length = n)
    ∧ (∀ b ∈ [false, true],
      let w := reduceW b 4096
      let c := { coll [w] with shake := [0], inputs := [⟨0, 0, 1, List.replicate 8 1, [false]⟩] }
      let s := collS c []
      s.collAt 0 = some c ∧ c.ph c.phase = w ∧ phKind w = .reduce ∧ 0 < phChunks w ∧ c.open 0 = true ∧ c.phase ∈ c.shake
        ∧ c.gather 0 = some [⟨0, 0, 1, List.replicate 8 1, [false]⟩] ∧ { c with inputs := [] }.gather 0 = none
        ∧ phLocal w = false ∧ phRoot w = b ∧ localKind (phBuf w + 4096 * 0) 8 = .hbm ∧ s.phaseDone c = false
        ∧ c.gate c.phase (s.nnode (phParent w)) = none)
    ∧ (let w := reduceW false 0
       let o : Chunk := ⟨0, 0, 16, List.replicate 8 1, [false]⟩
       let c := { coll [w] with timed := [0], outs := [o] }
       let s := collS c []
       c.gate c.phase 2 = some true ∧ (c.phase, 2, 0) ∉ c.sent ∧ phKind (c.ph c.phase) = .reduce
        ∧ c.outs.find? (fun o => o.phase == c.phase && o.num == 0) = some o ∧ s.maySend 2 1 (110 + o.data.length))
    ∧ (let c := { coll [recvW 64] with timed := [0], written := [(0, 0)] }
       let s := collS c []
       s.collAt 0 = some c ∧ s.duePhases c = [] ∧ c.phase + 1 = c.phases.length ∧ phKind (c.ph c.phase) = .recv
        ∧ c.inputs = [] ∧ s.phaseDone c = true ∧ s.reqs = [] ∧ s.job? c.job = some collJob
        ∧ tagFits (s.tagBal collJob.ctx.val collJob.fsig - 1) = true) := by
  simp only [State.maySend]
  refine ⟨?_, ?_, ?_, ?_, ?_, ?_, ?_, ?_, ?_, ?_⟩
  all_goals decide +kernel

/-! ### The host link and the flash -/

/-- The device serving the host, whose staging buffer and image hold a header that the layout asks for. -/
def header0 : List Byte := [0x4E, 0x5A, 0x49, 0x4D, 1, 0, 0, 0, 0, 0x10, 0, 0, 0, 0, 0, 0, 1, 0, 0, 0, 0, 0, 0, 0]
def staged0 : State :=
  { up with flash := { up.flash with
      staging := (header0.zipIdx.filter (fun p => p.1 != 0)).map (fun p => (p.2, p.1)), image := some ⟨header0, []⟩ } }
def withFlash (f : Flash → Flash) : State := { up with flash := f up.flash }
def hostRead0 : Req := { mkReq .egress .read (localAddr hostWindow) 4 [] false true (.job 0) none with id := 7 }
def hostAsk : State := { up with reqs := [hostRead0], link := { up.link with tags := [(7, 8)] } }
/-- A read of BAR2 whose one piece stands at a stage. -/
def bar2S (st : ReqStage) : State :=
  { up with
    reqs := [{ mkReq .pcie .read (localAddr 0) 32 [] false false (.bar2 5 0) none with id := 7, stage := st }]
    link := { up.link with waits := [(5, 0, 32)] } }

theorem test_witness_HostAccessesAreServed :
    (devBoot ≤ up.dev ∧ 16 ∈ linkWidths ∧ up.link.up = true)
    ∧ (0 + 32 ≤ up.bar2Bytes ∧ 0 + 32 ≤ hbmBytes ∧ up.bar2On = true)
    ∧ (∀ st ∈ [ReqStage.waiting, .done (List.replicate 32 1) true],
       ((bar2S st).reqs.filter fun r => r.purpose.ofBar2 5 && r.kind == .read).all Req.finished = decide (st ≠ .waiting)
        ∧ ((bar2S st).reqs.filter fun r => r.purpose.ofBar2 5 && r.kind == .read) ≠ [])
    ∧ (hbmBytes < hbmBytes + 4 ∧ hbmBytes + 4 ≤ up.bar2Bytes ∧ up.link.up = true ∧ (withRegs up [(0x2B0001, 1)]).bar2On = false
      ∧ State.reset.deaf = true ∧ up.bar2Bytes < up.bar2Bytes + 1)
    ∧ up.bar0On = true
    ∧ (hostAsk.hostReq 7 = some hostRead0 ∧ hostAsk.deaf = false ∧ hostAsk.link.tags.filter (fun x => x.1 == 7) = [(7, 8)]
      ∧ (∀ q ∈ hostAsk.reqs, hostAsk.wantsTag q = false)
      ∧ (let s := { hostAsk with link := { State.reset.link with tags := [(7, 8)] } }
         s.deaf = true ∧ s.hostReq 7 = some hostRead0 ∧ s.link.tags.filter (fun x => x.1 == 7) = [(7, 8)]))
    ∧ (let q := { hostRead0 with id := 9 }
       let s := { hostAsk with reqs := [hostRead0, q] }
       s.hostReq 7 = some hostRead0 ∧ hostRead0.master.tagPool = 8
        ∧ s.reqs.find? (fun q => s.wantsTag q && q.master.tagPool == 8) = some q
        ∧ (s.link.tags.filter fun x => x.2 == 8).length ≤ poolTags 8)
    ∧ (up.mctpOn = true ∧ up.bring.firmware = true ∧ up.flash.fresh = none
      ∧ (withFlash fun f => { f with fresh := some [] }).flash.fresh.isSome = true
      ∧ ({ up with bring := { up.bring with firmware := false } } : State).mctpOn = true) := by
  refine ⟨?_, ?_, ?_, ?_, ?_, ?_, ?_, ?_⟩
  all_goals decide +kernel

theorem test_witness_LinkResetsAndFirmwareUpdate :
    (devBoot ≤ busy.dev ∧ busy.link.up = true ∧ job0 [0x300000001, 1] ∈ busy.seq.jobs ∧ (busy.cluster 0).job = some 0)
    ∧ (up.bar4On = true ∧ up.flash.op = none ∧ 64 + [1, 2, 3, 4].length ≤ stagingSize ∧ up.flash.claim = none
      ∧ (withFlash fun f => { f with claim := some .store }).flash.claim.isSome = true ∧ up.bring.romWait = false
      ∧ ({ up with bring := { up.bring with romWait := true } } : State).bar4On = true)
    ∧ (leNat [1, 0, 0, 0] % 16 = 1 ∧ leNat [2, 0, 0, 0] % 16 = 2 ∧ leNat [3, 0, 0, 0] % 16 = 3)
    ∧ ((withFlash fun f => { f with op := some 2 }).flash.op = some 2 ∧ (withFlash fun f => { f with op := some 2 }).stagedResult ≠ 1)
    ∧ staged0.staged.headerOk = true
    ∧ (⟨[], []⟩ : Image).headerOk = false := by
  refine ⟨?_, ?_, ?_, ?_, ?_, ?_⟩
  all_goals decide +kernel

/-- A check that succeeds rests on the vendor's key and on the digests, which are opaque: it is met where these agree. -/
theorem test_witness_verification_succeeds (i : Image) (svn : Nat) (h : i.headerOk = true) (hs : svn ≤ i.svn)
    (hk : Config.shake256 ((i.header.drop 0x60).take 1952) = Config.vendorKeyDigest)
    (hv : Config.imageSignatureValid (i.header.take 0x14ED) = true) (hb : Config.shake256 i.body = (i.header.drop 0x20).take 64) :
    verifyImage svn i (fun _ _ => false) = 1 := by
  simp [verifyImage, h, hk, hv, hb, romValid, Nat.not_lt.mpr hs]

/-! ### The configuration area and the CAN port -/

def canS (c : Can → Can) (rs : List (Nat × Word64)) : State :=
  let s := withRegs up rs; { s with can := c s.can, time := { s.time with now := 2 ^ 60 } }

def emcy0 : Emcy := ⟨0x8100, 1, 0, 0, 0, 0⟩

theorem test_witness_StoresAndCanMessages :
    (up.carries .bar0 0x1010 1 = true ∧ (up.handed .bar0 0x1010 1).flash.claim = none ∧ up.carries .bar0 0x1011 1 = true)
    ∧ (∀ c ∈ [FlashClaim.store, .restore], (withFlash fun f => { f with claim := some c }).flash.claim = some c)
    ∧ (up.bring.waiting = none ∧ up.can.serving = false ∧ up.canOn = true ∧ up.flash.cfg.ok = false)
    ∧ (let s := canS id [(0x101700, 10)]
       s.canOn = true ∧ s.fld 0x1017 0 15 0 ≠ 0 ∧ s.passedNs s.can.beatAt (1000000 * s.fld 0x1017 0 15 0) = true
        ∧ (canS id [(0x101700, 0)]).fld 0x1017 0 15 0 = 0)
    ∧ (let s := canS (fun c => { c with emcy := [emcy0] }) []
       s.can.emcy = [emcy0] ∧ s.canOn = true ∧ s.nmt = nmtOperational ∧ s.emcyDue = true)
    ∧ (withRegs up [(0x201201, 0x400)]).nmt = nmtStopped
    ∧ (let s := canS id [(0x180105, 10), (0x180101, 0x280)]
       s.canOperational = true ∧ s.canOn = true ∧ s.bit 0x1801 1 31 = false ∧ s.tpdo2Due = true)
    ∧ (∀ d ∈ [(1000 : Nat), 0],
       let data := leBytes 2 d ++ [0xE8, 3, 0xE8, 3, 1, 0]
       let s := withRegs up [(0x140001, 0x200)]
       s.canOn = true ∧ s.nmt = nmtOperational ∧ s.bit 0x1400 1 31 = false ∧ data.length = 8
        ∧ decide (∀ w ∈ rpdoWrites data, (s.entryWrite .rpdo 0x2100 w.1 w.2).2 = .done) = decide (d = 1000))
    ∧ (up.can.running = true ∧ (withRegs up [(0x201201, 0x20500)]).canBus = 2) := by
  refine ⟨?_, ?_, ?_, ?_, ?_, ?_, ?_, ?_, ?_⟩
  all_goals decide +kernel

/-! ### Power, heat, starts and records -/

def powerS (f : Power → Power) (rs : List (Nat × Word64)) : State :=
  let s := withRegs up rs; { s with power := f s.power, time := { s.time with now := 2 ^ 60, ft := 2 ^ 60 } }

theorem test_witness_PowerIsLimitedAndAnnounced :
    (up.powered = true ∧ devBoot ≤ up.dev ∧ 115 * up.limit < 100 * (2 * up.limit + 1) ∧ up.bring.leafOn ≠ 0 ∧ up.slowest ≤ 7
      ∧ ({ up with bring := { up.bring with leafOn := 0 } } : State).powered = true)
    ∧ (up.chosen 0 100000000 ≠ 8 ∧ up.estimate 0 ≤ 100000000)
    ∧ (∀ c ∈ [false, true], let s := powerS (fun p => { p with target := 0, railMv := if c then 705 else 850, railAt := 2 ^ 60, clk := 3, climb := c }) []
       s.coreStopped = false ∧ s.heldStep s.power.target < s.power.clk ∧ (s.power.climb = true ∨ s.heldStep s.power.target = s.power.target)
        ∧ up.power.clk ≤ up.heldStep up.power.target ∧ up.coreStopped = false)
    ∧ (let s := powerS (fun p => { p with target := 0, railMv := 705, railAt := 2 ^ 60, clk := 3 }) []
       s.coreStopped = false ∧ s.power.climb = false ∧ s.heldStep s.power.target ≠ s.power.target)
    ∧ (100 ≤ (powerS (fun p => { p with overCnt := 100 }) []).power.overCnt ∧ up.power.overCnt < 100
      ∧ 100 ≤ (powerS (fun p => { p with underCnt := 100 }) []).power.underCnt ∧ up.power.underCnt < 100)
    ∧ (let s := powerS (fun p => { p with outCnt := 10 }) []
       10 ≤ s.power.outCnt ∧ devStandby < s.dev)
    ∧ (let s := powerS id []
       s.spoutOn = true ∧ s.seq.projAt ≠ s.ftNs / (1000 * s.fld 0x2890 1 13 0) + 1 ∧ s.canOperational = true
        ∧ (powerS id [(0x180001, 0x180)]).bit 0x1800 1 31 = false)
    ∧ up.fld 0x2890 3 11 0 ≤ up.limit := by
  refine ⟨?_, ?_, ?_, ?_, ?_, ?_, ?_⟩
  all_goals decide +kernel

def sense0 (t : Int) : Sensors := ⟨List.replicate 42 (.temp t), List.replicate 6 t, List.replicate 16 0, List.replicate 8 0⟩
def thermS (f : Thermal → Thermal) (rs : List (Nat × Word64)) : State :=
  let s := withRegs up ((List.range 16).map (fun i => (0x221101 + i, 0)) ++ rs); { s with thermal := f s.thermal, time := { s.time with now := 2 ^ 60 } }

theorem test_witness_TemperaturesAreShownAndActedOn :
    (up.islandOn = true ∧ (∀ i, i < 42 → up.diodeFail i = false ∧ (sense0 800).diodes[i]? ≠ some .failed))
    ∧ (let s := thermS (fun t => { t with atShut := [0] }) [(0x221001, 115 * 16)]
       devStandby < s.dev ∧ s.atShutdown 0 = [0])
    ∧ (let s := thermS id [(0x221001, 105 * 16)]
       s.islandOn = true ∧ s.passedNs s.thermal.demAt 10000000 = true ∧ 16 * (thresholds 0).2.1 ≤ s.governing 0)
    ∧ (∀ i, i < 48 → (thermS id []).governing i < 16 * ((thresholds i).2.1 - 5))
    ∧ (let s := thermS id [(0x221001, 101 * 16)]
       (∀ i, i < 48 → s.governing i < 16 * (thresholds i).2.1) ∧ 16 * ((thresholds 0).2.1 - 5) ≤ s.governing 0)
    ∧ (let s := thermS (fun t => { t with rateStep := some 2 }) []
       s.thermal.rateStep.isSome = true ∧ s.passedNs s.thermal.rateAt 100000000 = true
        ∧ ({ s with time := { s.time with now := 0 } } : State).passedNs s.thermal.rateAt 100000000 = false)
    ∧ (let s := thermS (fun t => { t with apart := [(0, some 0)] }) []
       s.passedNs 0 100000000 = true ∧ s.modelGov 0 = false ∧ Tbl.get none s.thermal.apart 0 = some 0)
    ∧ (let s := thermS (fun t => { t with close := [(0, some 0)] }) [(0x221101, 0x10000)]
       s.modelGov 0 = true ∧ Tbl.get none s.thermal.close 0 = some 0 ∧ s.diodeFail (zoneDiode 0) = false) := by
  refine ⟨?_, ?_, ?_, ?_, ?_, ?_, ?_, ?_⟩
  all_goals decide +kernel

/-- The device in a state of its start, with the stated progress. -/
def bringS (dev : Nat) (f : Bring → Bring) (rs : List (Nat × Word64)) : State :=
  let s := withRegs up ((0x2B0001, BitVec.ofNat 64 dev) :: rs)
  { s with bring := f s.bring, time := { s.time with now := 2 ^ 60 } }
def hv (b : Bring) : Bring := { b with hv := true }

theorem test_witness_TheDeviceStartsAndFaults :
    ((bringS 0 id []).dev = devOff ∧ (bringS 1 id []).dev = devStandby)
    ∧ ((bringS 1 hv [(0x2B0003, 1)]).bit 0x2B00 3 0 = true ∧ (bringS 1 hv [(0x2B0003, 1)]).bring.modRst = false
      ∧ (bringS 1 hv [(0x2B0003, 1)]).bring.hot = false ∧ (bringS 1 id [(0x2B0003, 0)]).bit 0x2B00 3 0 = false)
    ∧ ((bringS 6 hv []).carries .bar0 0x2B00 2 = true ∧ (bringS 6 hv []).mayStart true = true ∧ (bringS 6 hv []).mayStart false = true
      ∧ (bringS 6 hv []).flash.claim = none
      ∧ ({ bringS 6 hv [] with flash := { up.flash with claim := some .store } } : State).carries .bar0 0x2B00 2 = true
      ∧ (bringS 2 id []).carries .bar0 0x2B00 2 = true ∧ (bringS 2 id []).mayStart false = false
      ∧ (bringS 6 (fun b => { b with hot := true }) []).bring.hot = true)
    ∧ (let s := { bringS 2 (fun b => { b with rom := true, firmware := false }) [] with flash := { up.flash with image := none } }
       s.bring.rom = true ∧ s.bring.modRst = false ∧ s.dev ≠ devOff ∧ s.flashResult ≠ 1)
    ∧ ((bringS 2 id []).dev = devBoot ∧ (bringS 2 id []).bring.firmware = true ∧ (bringS 2 id []).flash.cfg.ok = false
      ∧ (bringS 2 (fun b => { b with firmware := false }) []).bring.firmware = false)
    ∧ (let s := bringS 3 (fun b => { b with checked := false }) []
       s.dev = devPowering ∧ s.bring.checked = false ∧ s.passedNs s.bring.phaseAt 6000000 = true
        ∧ (∀ l, l < 4 → s.leafParked l = false → [true, true, true, true].getD l false = true)
        ∧ s.bring.leafBad.getLsbD 1 = false ∧ s.leafParked 1 = false ∧ [true, false, true, true].getD 1 false = false
        ∧ (∀ k, k < 4 → k ≠ 1 → [true, false, true, true].getD k false = true))
    ∧ (let s := bringS 3 (fun b => { b with waves := [0, 1, 2, 3, 4, 5, 6] }) []
       s.dev = devPowering ∧ s.bring.checked = true ∧ s.bring.waves = List.range (7 : Fin 8)
        ∧ s.passedNs s.bring.phaseAt (1000000 * (10 + 20 * 7)) = true)
    ∧ ((bringS 3 id []).bring.waves.length = 8 ∧ (bringS 3 id []).passedNs (bringS 3 id []).bring.phaseAt 155000000 = true)
    ∧ ((bringS 4 id []).dev = devTraining ∧ (bringS 5 id []).dev = devChecking)
    ∧ (let s := bringS 5 (fun b => { b with cold := true, marched := 1 }) []
       s.dev = devChecking ∧ s.bring.cold = true ∧ s.bring.marched.getLsbD 1 = false ∧ s.sliceRetired 1 0 = false
        ∧ (1, 0, 0, 0) ∉ s.caddy.repairs ∧ (s.repairsOf 1 0).length < 4)
    ∧ (let s := bringS 5 (fun b => { b with cold := true, kat := 0 }) []
       s.marchOver = true ∧ s.clusterPowered 63 = true ∧ s.bring.kat.getLsbD 63 = false)
    ∧ (let s := bringS 5 (fun b => { b with kat := BitVec.allOnes 64 }) []
       s.age.due = false ∧ (∀ c, c < 64 → s.bring.kat.getLsbD c = true) ∧ s.hbm.absent = 0 ∧ (∀ c, c < 64 → s.katPassed c = true)
        ∧ s.fld 0x2300 0x10 11 8 = 0 ∧ s.retCount 0 = 0 ∧ s.retCount 1 = 0
        ∧ (bringS 5 (fun b => { b with kat := BitVec.allOnes 64 }) [(0x2B0003, 1)]).bit 0x2B00 3 1 = false)
    ∧ (∀ c, c < 64 → (bringS 5 (fun b => { b with leafOn := 0, kat := 0 }) []).clusterPowered c = false
      ∧ (bringS 5 (fun b => { b with leafOn := 0, kat := 0 }) []).katPassed c = false)
    ∧ (devStandby < up.dev ∧ up.dev ≠ devFaulted)
    ∧ (let s := bringS 1 (fun b => { b with modRst := true, hv := true }) []
       s.bring.modRst = true ∧ s.dev = devStandby ∧ s.inputGood = true ∧ s.bring.hot = false
        ∧ (bringS 1 (fun b => { b with modRst := true, hv := false }) []).inputGood = false
        ∧ (bringS 0 (fun b => { b with modRst := true }) []).dev ≠ devStandby) := by
  refine ⟨?_, ?_, ?_, ?_, ?_, ?_, ?_, ?_, ?_, ?_, ?_, ?_, ?_, ?_, ?_⟩
  all_goals decide +kernel

/-- Further starts: the image in flash verifies where the digests agree; a fault of this clock and an early phase refuse a command;
alarms that no write of this clock clears show. -/
theorem test_witness_starts_and_alarms :
    (bringS 7 id [] |>.passedNs 0 1) = true
    ∧ (∀ n ∈ [2, 3, 4, 5], (bringS n hv []).dev < devReady ∧ (bringS n hv []).carries .bar0 0x2B00 2 = true)
    ∧ (let s := bringS devFaulted (fun b => { b with phaseAt := 2 ^ 60 }) []
       s.faultedNow = true ∧ up.faultedNow = false ∧ devReady ≤ up.dev ∧ up.bring.hot = false)
    ∧ ((bringS 1 id []).flash.claim = none ∧ (bringS 1 id []).dev = devStandby)
    ∧ (up.heldClear 0x2100 9 0 = false ∧ up.heldClear 0x2100 9 1 = false ∧ up.heldClear 0x2100 9 2 = false
      ∧ up.heldClear 0x2220 1 2 = false ∧ up.heldClear 0x2220 1 3 = false ∧ up.heldClear 0x2010 3 0 = false) := by
  refine ⟨?_, ?_, ?_, ?_, ?_⟩
  all_goals decide +kernel

/-- An image in flash that verifies rests on the vendor's key and the digests, as any check that succeeds. -/
theorem test_witness_flash_verifies (i : Image) (h : verifyImage 0 i (fun _ _ => false) = 1) :
    ({ bringS 2 (fun b => { b with rom := true, firmware := false }) [] with
        flash := { up.flash with image := some i, svn := 0 } } : State).flashResult = 1 := h

def svcS (f : State → State) (rs : List (Nat × Word64)) : State :=
  let s := withRegs up rs; f { s with time := { s.time with now := 2 ^ 60, ft := 2 ^ 60 } }

theorem test_witness_ServiceRecordsAndSnapshots :
    (up.carries .bar0 0x2D01 1 = true ∧ (up.handed .bar0 0x2D01 1).flash.svnTo = none
      ∧ fieldOf ((5 : Word32).setWidth 64) 6 0 ≠ up.imgSvn)
    ∧ (let s := svcS (fun s => { s with flash := { s.flash with running := header0, svn := 0, svnTo := none } }) []
       fieldOf ((1 : Word32).setWidth 64) 6 0 = s.imgSvn ∧ s.flash.svn < s.imgSvn)
    ∧ (svcS (fun s => { s with flash := { s.flash with svnTo := some 3 } }) []).flash.svnTo = some 3
    ∧ (up.evidenceDue = true ∧ ({ up with bring := { up.bring with firmware := false } } : State).evidenceDue = false
      ∧ (withFlash fun f => { f with fresh := some [] }).flash.fresh = some [] ∧ (List.replicate 32 (0 : Byte)).length = 32)
    ∧ (let s := svcS id [(0x2B2004, 3)]
       s.caddiesOn = true ∧ 0 < s.fld 0x2B20 4 7 0 ∧ s.fld 0x2B20 4 7 0 ≤ 3 ∧ (s.chan 0 0).out = false ∧ (7 : Nat) ∉ (s.chan 0 0).lines
        ∧ (7 : Nat) ∉ (s.chan 0 0).wait)
    ∧ (let s := svcS (fun s => { s with lanes := { s.lanes with chans := [(0, { Chan.init with wait := [7] })] } }) []
       (7 : Nat) ∈ (s.chan 0 0).wait)
    ∧ (up.groupDead 0 0 = false ∧ up.potCfg 0 ≠ 1 ∧ (5 : Nat) ∉ up.lostLanes (exKey 0 0 0) ∧ (exKey 0 0 0, 5) ∉ up.lanes.held
      ∧ (up.lostLanes (exKey 0 0 0)).length + up.heldLanes (exKey 0 0 0) < 4)
    ∧ (let s := withFlash fun f => { f with lanesDue := true, ageDue := true }
       s.mayRecord = true ∧ s.flash.lanesDue = true ∧ s.flash.ageDue = true)
    ∧ (let s := svcS (fun s => { s with age := { s.age with units := 168 * hourUnits, lastAt := 0 } }) []
       s.age.lastAt + 168 * hourUnits ≤ s.age.units ∧ up.age.units < up.age.lastAt + 168 * hourUnits)
    ∧ (up.carries .bar0 0x2B30 1 = true ∧ (up.handed .bar0 0x2B30 1).age.running = false)
    ∧ (let s := svcS (fun s => { s with age := { s.age with due := true } }) []
       s.replanReady = true ∧ up.replanReady = false ∧ 45 < replanNeed (List.replicate 8 (some 900)))
    ∧ (up.carries .bar0 0x2C00 1 = true ∧ (3 : Word32).getLsbD 5 = false ∧ (3 : Word32).getLsbD 0 = true ∧ (0 : Word32).getLsbD 1 = false
      ∧ (0 : Word32).getLsbD 0 = false ∧ (up.handed .bar0 0x2C00 1).snap.copying = false ∧ (0x20 : Word32).getLsbD 5 = true
      ∧ (up.handed .bar0 0x2C00 1).bit 0x2882 1 0 = false)
    ∧ (let s := svcS id [(0x2C0001, 0xD), (0x2C0002, 5)]
       s.spoutOn = true ∧ s.bit 0x2C00 1 0 = true ∧ s.bit 0x2C00 1 2 = true ∧ s.bit 0x2C00 1 3 = true
        ∧ s.ftReached ((s.reg 0x2C00 2).toNat * nsUnits) = true)
    ∧ ((svcS id [(0x2C0001, 8)]).bit 0x2C00 1 0 = false ∧ up.snap.copying = false ∧ (svcS id [(0x2C0001, 8)]).bit 0x2C00 1 3 = true)
    ∧ (let s := { up with snap := { up.snap with copying := true } }
       s.snap.copying = true ∧ s.bring.firmware = true) := by
  refine ⟨?_, ?_, ?_, ?_, ?_, ?_, ?_, ?_, ?_, ?_, ?_, ?_, ?_, ?_, ?_⟩
  all_goals decide +kernel

/-- How many spares a channel has fused in is the part's own: fewer than 64 leave one free. -/
theorem test_witness_a_spare_is_free (h : Config.fusedSpares 0 < 64) : 0 < up.freeSpares 0 0 := by
  have e : up.freeSpares 0 0 = 64 - min 64 (Config.fusedSpares 0) - 0 - 0 := rfl
  omega

/-- A channel whose 64 spares are all assigned. -/
def spent : State := svcS (fun s => { s with lanes := { s.lanes with chans := [(0, { Chan.init with lines := List.range 64 })] } }) []
theorem test_witness_no_spare_is_left : spent.freeSpares 0 0 = 0 ∧ (2000 : Nat) ∉ (spent.chan 0 0).lines ∧ (spent.chan 0 0).out = false := by
  have e : spent.freeSpares 0 0 = 64 - min 64 (Config.fusedSpares 0) - 64 - 0 := rfl
  exact ⟨by omega, by decide +kernel, by decide +kernel⟩

/-! ### The manual's worked examples -/

/-- Table of R57's compute formats. -/
theorem test_compute_formats :
    computeFmt (.flt e2m1) (.flt e4m3) = some (.flt e4m3) ∧ computeFmt (.flt e2m1) (.flt e5m2) = some (.flt e5m2)
    ∧ computeFmt (.flt e2m1) (.flt e3m2) = some (.flt e3m2) ∧ computeFmt (.flt e3m2) (.flt e2m3) = some (.flt e4m3)
    ∧ computeFmt (.flt e4m3) (.flt e5m2) = some (.flt fp16) ∧ computeFmt (.flt e2m3) (.flt e5m2) = some (.flt fp16)
    ∧ computeFmt (.flt bf16) (.flt fp16) = some (.flt fp32) ∧ computeFmt (.int 4) (.int 8) = some (.int 8) := by decide +kernel

/-- Tables and examples of R72. -/
theorem test_random_bits_per_element :
    [Fmt.flt bf16, .flt fp16, .flt e4m3, .flt e5m2, .flt e3m2, .flt e2m3, .flt e2m1, .int 8, .int 4].map (drawBits (.flt fp32))
      = [16, 13, 20, 21, 21, 20, 22, 16, 16]
    ∧ drawBits (.int 8) (.flt e2m1) = 5 ∧ drawBits (.int 8) (.flt e4m3) = 3 ∧ drawBits (.int 4) (.flt e2m1) = 1 := by decide +kernel

/-- The walks of the two examples of the matrix engines: 2,640 stationary tiles, and 32,768 output tiles of 4 compute clocks. -/
theorem test_tile_walks :
    (let d : Desc := { Desc.ofWords [] with mode := 0, fmtA := 0x13, fmtB := 0x17, m := 16384, k := 11264, n := 480 }
     d.comp = .flt e4m3 ∧ d.dot = 32 ∧ d.tiles = 2640)
    ∧ (let d : Desc := { Desc.ofWords [] with mode := 2, fmtA := 0x13, fmtB := 0x13, m := 2048, k := 128, n := 16384 }
       d.tiles = 32768 ∧ d.steps = 4) := by decide +kernel

/-- The address 0x0000_4000_2280 lies in stack H3 and slice C0/197, and in H7 and C1/197 where its region is local to C1. -/
theorem test_home_of_an_address :
    stackAt 0 0x40002280 = 3 ∧ up.homeOf 0x40002280 = 0 ∧ up.sliceOf 0x40002280 = 197 ∧ setFn 0x40002280 = 16
    ∧ stackAt 2 0x40002280 = 7 ∧ homeAt 2 0x40002280 = 1 := by decide +kernel

/-- CL37 lies on leaf L2, the lower leaf of pot 1, above C1; in twin it uses channels 0 to 127, in lead all 256. -/
theorem test_a_clusters_channels :
    leafOf 37 = 2 ∧ caddyOf 37 = 1 ∧ up.leafChannels 2 = (0, 128) ∧ (withRegs up [(0x230010, 0x40)]).leafChannels 2 = (0, 256)
    ∧ (up.channelFor 37 0xC5 = 0x45) := by decide +kernel

/-- Three lanes add 2^−24 to 1.0 in one issue: the word becomes 1 + 2^−22, and the lanes receive 1.0, 1.0 and 1 + 2^−23. -/
theorem test_a_combined_addition :
    atomAll .add .f32 0x3F800000 [(0x33800000, 0), (0x33800000, 0), (0x33800000, 0)]
      = (0x3F800002, [0x3F800000, 0x3F800000, 0x3F800001]) := by decide +kernel

/-- 1.0 and twice 2^−8 in BF16 sum to 0x3F81, with one rounding at the end. -/
theorem test_a_reduction_rounds_once : reduceElem 2 [0x3F80, 0x3B80, 0x3B80] = 0x3F81 := by decide +kernel

/-- Thread 31 has been passed over 64 times: the issue takes it alone; else the lowest program counter goes first. -/
theorem test_a_starved_thread_issues :
    (let spin : Thread := { thr .running with pc := 0x100 }
     let g (n : Nat) : Group := ⟨0, 0, [spin, spin, { thr .running with pc := 0x180, passed := n }]⟩
     (g 64).choose [0, 1, 2] = (0x180, [2]) ∧ (g 63).choose [0, 1, 2] = (0x100, [0, 1])) := by decide +kernel

/-- Occupancy of blocks of eight groups: three at 72 registers, four at 64, five at 48, six at 40. -/
theorem test_occupancy :
    [72, 64, 48, 40].map (fun r => (List.range 8).map (fun n => decide ((assign r (8 * n) [0, 0, 0, 0]).isSome)))
      = [3, 4, 5, 6].map (fun k => (List.range 8).map (fun n => decide (n ≤ k))) := by decide +kernel

/-- The F_0 entry of the step boundary. -/
theorem test_a_job_entry :
    (let j := job0 [0x05DC000101001811, 0xFFFFFFFFFFFFFFFF, 0, 0, 0x0040000400000000, 0x0000000400100000, 0x0001414100000006,
       0x001D000400200000]
     j.ver = 1 ∧ j.type = 1 ∧ j.mej = true ∧ j.tgj = true ∧ j.tag = 0x100 ∧ j.fwait = 1 ∧ j.fsig = 0 ∧ j.pwr = 1500
      ∧ j.listBase = 0x400000000 ∧ 128 * j.lstep = 8192 ∧ j.grid = 6 ∧ j.threads = 256 ∧ j.regsN = 40 ∧ j.lmem = 40 ∧ j.dur = 29) := by
  decide +kernel

/-- Node 0x0A5E from (3, 5, 10) of a 16 × 16 × 32 torus with FP6 external. -/
theorem test_a_torus_route :
    (let s := withRegs up [(0x291003, BitVec.ofNat 64 (16 + 16 * 2 ^ 5 + 32 * 2 ^ 10 + 3 * 2 ^ 16 + 5 * 2 ^ 20 + 10 * 2 ^ 24 + 2 ^ 29))]
     nodeNumber s.torusSize s.strapXyz = 0x0A53 ∧ s.torusEntry 64 0x0A5E = 0x1611) := by decide +kernel

/-- The start of J: with 500 W of kettle ready step 0 fits, without it step 4 is the fastest. -/
theorem test_a_start_at_the_ramp :
    (let s (w : Nat) (cut : Nat) : State :=
       { withRegs up [(0x210005, 80)] with power := { up.power with slots := w :: List.replicate 999 (min w 750), starts := 1300, cut := cut, activity := 0 } }
     (s 250 0).rcap = 1050000 ∧ (s 250 0).chosen 0 (s 250 0).rcap = 4 ∧ (s 1550 1300).estimate 0 = 1550000
      ∧ (s 1550 1300).rcap = 1550000 ∧ (s 1550 1300).chosen 0 (s 1550 1300).rcap = 0) := by decide +kernel

/-- A power of 52 W in zone 3 of L0, 8 W in half its caddy zone, 97.0 °C above and THETA 0x46: T_m is 105.4 °C, in sixteenths
1,686. -/
theorem test_a_thermal_model :
    (let x : Sensors := { sense0 (97 * 16) with zoneW := List.replicate 16 52, quarterW := List.replicate 8 16 }
     (withRegs up [(0x22100C, 97 * 16), (0x221104, 0x46000000)]).modelTemp x 3 = 1686) := by decide +kernel

end Sys2Proof.Machine
end

section
/-! SUPPORT. The reset values, and what a write of an entry is checked for. -/

namespace Sys2Proof.Machine

theorem indexExists_of_entryOf {idx sub : Nat} {e : Entry} (h : entryOf idx sub = some e) :
    indexExists idx = true := by
  unfold entryOf at h
  split at h
  · split at h
    · assumption
    · cases h
  · obtain ⟨r, hr, -⟩ := Option.map_eq_some_iff.1 h
    cases hl : rowsOf idx with
    | nil => simp [hl] at hr
    | cons x xs => simp [indexExists, hl]

/-- A write that answers anything but done has left the state as it was. -/
def RefusesWhole (s : State) (r : State × Status) : Prop := r.2 ≠ .done → r.1 = s

namespace RefusesWhole

variable {s : State}

theorem accepted (t : State) : RefusesWhole s (t, .done) := fun h => absurd rfl h

theorem refused (st : Status) : RefusesWhole s (s, st) := fun _ => rfl

theorem unlessBad (bad : Bool) (st : Status) (f : State → State) : RefusesWhole s (s.unless bad st f) := by
  cases bad
  · exact accepted _
  · exact refused st

theorem branch {c : Prop} [Decidable c] {a b : State × Status} (ha : RefusesWhole s a) (hb : RefusesWhole s b) :
    RefusesWhole s (if c then a else b) := by split <;> assumption

end RefusesWhole

section
open RefusesWhole

variable (s : State) (via : Via) (idx sub : Nat) (v nv : Word64)

theorem State.writeLow_refusesWhole : RefusesWhole s (s.writeLow via idx sub v nv) :=
  branch (unlessBad _ _ _) <| branch (unlessBad _ _ _) <| branch (accepted _) (accepted _)

theorem State.writeCaddy_refusesWhole : RefusesWhole s (s.writeCaddy idx sub v nv) :=
  branch (unlessBad _ _ _) <| branch (accepted _) <| branch (accepted _) <|
    branch (branch (unlessBad _ _ _) (accepted _)) <| branch (unlessBad _ _ _) <| branch (unlessBad _ _ _) <|
    branch (accepted _) <| branch (accepted _) <| branch (accepted _) <| branch (unlessBad _ _ _) <|
    branch (unlessBad _ _ _) (accepted _)

theorem State.writeCtx_refusesWhole (c : Nat) : RefusesWhole s (s.writeCtx c v) := by
  unfold State.writeCtx
  dsimp only
  split
  · exact accepted _
  · exact refused _
  · exact refused _

theorem State.writeCompute_refusesWhole : RefusesWhole s (s.writeCompute idx sub v nv) :=
  branch (unlessBad _ _ _) <| branch (accepted _) <| branch (unlessBad _ _ _) <| branch (unlessBad _ _ _) <|
    branch (unlessBad _ _ _) <| branch (s.writeCtx_refusesWhole v _) <| branch (unlessBad _ _ _) <|
    branch (accepted _) <| branch (accepted _) <| branch (unlessBad _ _ _) (accepted _)

theorem State.writeFabric_refusesWhole : RefusesWhole s (s.writeFabric idx sub v nv) :=
  branch (accepted _) <| branch (accepted _) <| branch (unlessBad _ _ _) <| branch (accepted _) <|
    branch (unlessBad _ _ _) <| branch (unlessBad _ _ _) (accepted _)

theorem State.writeBring_refusesWhole (p : Path) : RefusesWhole s (s.writeBring p idx sub v nv) :=
  branch (unlessBad _ _ _) <| branch (branch (unlessBad _ _ _) (accepted _)) <| branch (unlessBad _ _ _) <|
    branch (branch (refused _) (unlessBad _ _ _)) (accepted _)

/-- What a chapter's own checks refuse, they refuse whole. -/
theorem State.writeEffect_refusesWhole : RefusesWhole s (s.writeEffect via idx sub v nv) :=
  branch (s.writeLow_refusesWhole via idx sub v nv) <| branch (s.writeCaddy_refusesWhole idx sub v nv) <|
    branch (s.writeCompute_refusesWhole idx sub v nv) <| branch (s.writeFabric_refusesWhole idx sub v nv)
    (s.writeBring_refusesWhole idx sub v nv _)

/-- A write that is not done has changed nothing. -/
theorem State.entryWrite_refusesWhole : RefusesWhole s (s.entryWrite via idx sub v) := by
  unfold State.entryWrite
  split
  · exact refused _
  · refine branch (refused _) <| branch (refused _) <| branch (refused _) <| branch (refused _) fun h => ?_
    dsimp only at h ⊢
    rw [if_neg h]
    exact s.writeEffect_refusesWhole _ _ _ _ _ h

end

section
variable {s : State} {via : Via} {idx sub : Nat} {v : Word64} {e : Entry}

theorem State.entryWrite_noIndex (h : indexExists idx = false) : s.entryWrite via idx sub v = (s, .noIndex) := by
  cases he : entryOf idx sub with
  | none => simp [State.entryWrite, he, h]
  | some e => simp [indexExists_of_entryOf he] at h

theorem State.entryWrite_noSub (hi : indexExists idx = true) (h : entryOf idx sub = none) :
    s.entryWrite via idx sub v = (s, .noSub) := by
  simp [State.entryWrite, h, hi]

theorem State.entryWrite_ro (he : entryOf idx sub = some e) (hw : e.writable = false) :
    s.entryWrite via idx sub v = (s, .ro) := by
  simp [State.entryWrite, he, hw]

theorem State.entryWrite_right (he : entryOf idx sub = some e) (hw : e.writable = true)
    (hr : Path.of via ∉ rightsOf idx sub) : s.entryWrite via idx sub v = (s, .right) := by
  simp [State.entryWrite, he, hw, hr]

theorem State.entryWrite_state (he : entryOf idx sub = some e) (hw : e.writable = true)
    (hr : Path.of via ∈ rightsOf idx sub) (hd : s.domainOn idx = false) :
    s.entryWrite via idx sub v = (s, .state) := by
  simp [State.entryWrite, he, hw, hr, hd]

theorem State.entryWrite_range (he : entryOf idx sub = some e) (hw : e.writable = true)
    (hr : Path.of via ∈ rightsOf idx sub) (hd : s.domainOn idx = true) (hf : s.fits idx sub e v = false) :
    s.entryWrite via idx sub v = (s, if idx = 0x1010 then .signature else .range) := by
  unfold State.fits at hf
  dsimp only at hf
  simp [State.entryWrite, he, hw, hr, hd, hf]

/-- A value as it reaches an entry: of a 32-bit entry its lower half. -/
def Entry.cut (e : Entry) (v : Word64) : Word64 := if e.wide then v else v &&& mask 31 0

/-- A write that passes every check does what its chapter says of it. -/
theorem State.entryWrite_effect (he : entryOf idx sub = some e) (hw : e.writable = true)
    (hr : Path.of via ∈ rightsOf idx sub) (hd : s.domainOn idx = true) (hf : s.fits idx sub e v = true)
    {t : State} {st : Status}
    (ht : s.writeEffect via idx sub (e.cut v) (e.merged (s.reg idx sub) (e.cut v)) = (t, st)) :
    s.entryWrite via idx sub v = (if st = .done then t.noteClear idx sub (e.cut v &&& e.w1c) else t, st) := by
  unfold State.fits at hf
  unfold Entry.cut at ht ⊢
  dsimp only at hf
  simp [State.entryWrite, he, hw, hr, hd, hf, ht]

end

/-- Settles O7: every check precedes the write's effect, and a chapter's own checks refuse whole. -/
theorem writeChecksComeInOrder : Obligations.WriteChecksComeInOrder :=
  ⟨fun s via idx sub v => s.entryWrite_refusesWhole via idx sub v,
    fun _ _ _ _ _ => ⟨State.entryWrite_noIndex, State.entryWrite_noSub, fun _ he =>
      ⟨State.entryWrite_ro he, State.entryWrite_right he, State.entryWrite_state he, State.entryWrite_range he⟩⟩⟩

/-- Settles O6: no entry is listed after reset, so each reads its Reset value. -/
theorem resetHoldsResetValues : Obligations.ResetHoldsResetValues := by
  refine ⟨fun idx sub e h => ?_, by decide +kernel⟩
  change resetValue idx sub = e.reset
  simp [resetValue, h]

end Sys2Proof.Machine
end

section
/-! SUPPORT. A write of one entry over a way, and the entries that only hold what is written. -/

namespace Sys2Proof.Machine

/-! ### What an entry makes of a value -/

theorem Entry.cut_of_wide {e : Entry} (h : e.wide = true) (v : Word64) : e.cut v = v := by simp [Entry.cut, h]

theorem Entry.cut_of_narrow {e : Entry} (h : e.wide = false) (v : Word64) : e.cut v = v &&& mask 31 0 := by
  simp [Entry.cut, h]

/-- The mask of a word's lower half keeps the bits below 32. -/
theorem and_mask_getLsbD (v : Word64) (i : Nat) : (v &&& mask 31 0).getLsbD i = (decide (i < 32) && v.getLsbD i) := by
  rw [BitVec.getLsbD_and, mask_getLsbD i (by decide) (by decide), Bool.and_comm]
  congr 1
  exact decide_eq_decide.2 (by omega)

theorem Entry.cut_getLsbD (e : Entry) (v : Word64) (i : Nat) :
    (e.cut v).getLsbD i = ((e.wide || decide (i < 32)) && v.getLsbD i) := by
  cases hw : e.wide
  · rw [e.cut_of_narrow hw, and_mask_getLsbD, Bool.false_or]
  · simp [e.cut_of_wide hw]

theorem Entry.merged_getLsbD (e : Entry) (old v : Word64) {i : Nat} (hi : i < 64) :
    (e.merged old v).getLsbD i =
      ((if e.rw.getLsbD i then v.getLsbD i else old.getLsbD i) && !(e.w1c.getLsbD i && v.getLsbD i)) := by
  simp only [Entry.merged, BitVec.getLsbD_and, BitVec.getLsbD_or, BitVec.getLsbD_not, hi, decide_true, Bool.true_and]
  cases e.rw.getLsbD i <;> simp [Bool.and_comm]

/-- A 32-bit value lies whole in the lower half of a word. -/
theorem setWidth_and_mask (low : Word32) : low.setWidth 64 &&& mask 31 0 = low.setWidth 64 := by
  refine BitVec.eq_of_getLsbD_eq fun i hi => ?_
  rw [and_mask_getLsbD, BitVec.getLsbD_setWidth]
  by_cases h : i < 32
  · simp [h]
  · simp [h, BitVec.getLsbD_of_ge low i (by omega)]

/-- Over BAR0 the upper half of a value comes from WHI, its lower half is the value's own. -/
theorem State.given_bar0_and_mask (s : State) (v : Word64) : s.given .bar0 v &&& mask 31 0 = v &&& mask 31 0 := by
  refine BitVec.eq_of_getLsbD_eq fun i hi => ?_
  simp only [State.given, and_mask_getLsbD, BitVec.getLsbD_or, BitVec.getLsbD_shiftLeft]
  by_cases h : i < 32 <;> simp [h]

/-! ### A write of one entry over a way -/

theorem entryBytes_of_entryOf {idx sub : Nat} {e : Entry} (he : entryOf idx sub = some e) :
    entryBytes idx sub = if e.wide then 8 else 4 := by
  simp [entryBytes, he]

theorem State.entryWrite_congr {s : State} {via : Via} {idx sub : Nat} {v w : Word64} {e : Entry}
    (he : entryOf idx sub = some e) (h : e.cut v = e.cut w) :
    s.entryWrite via idx sub v = s.entryWrite via idx sub w := by
  unfold Entry.cut at h
  simp only [State.entryWrite, he, h]

theorem State.reg_handed (s : State) (via : Via) (idx sub : Nat) {i j : Nat} (h1 : regKey i j ≠ regKey 0x2A01 3)
    (h2 : regKey i j ≠ regKey 0x3001 1) : (s.handed via idx sub).reg i j = s.reg i j := by
  unfold State.handed
  split
  · split
    · exact State.reg_setReg_ne _ _ h1
    · rfl
  · exact State.reg_setReg_ne _ _ h2
  · rfl

theorem State.domainOn_handed (s : State) (via : Via) (idx sub i : Nat) :
    (s.handed via idx sub).domainOn i = s.domainOn i := by
  have hr (a b : Nat) (h1 : regKey a b ≠ regKey 0x2A01 3) (h2 : regKey a b ≠ regKey 0x3001 1) :=
    s.reg_handed via idx sub h1 h2
  have hb : (s.handed via idx sub).bring = s.bring := by
    unfold State.handed; split <;> (try split) <;> rfl
  have hd : (s.handed via idx sub).dev = s.dev := by
    simp only [State.dev, State.fld, hr 0x2B00 1 (by decide) (by decide)]
  simp only [State.domainOn, State.caddiesOn, State.clusterOn, State.parked, State.absent, hd, hb,
    hr 0x2500 2 (by decide) (by decide), hr 0x2500 3 (by decide) (by decide)]

theorem State.fits_handed (s : State) (via : Via) {idx sub : Nat} (e : Entry) (v : Word64)
    (h1 : regKey idx sub ≠ regKey 0x2A01 3) (h2 : regKey idx sub ≠ regKey 0x3001 1) :
    (s.handed via idx sub).fits idx sub e v = s.fits idx sub e v := by
  simp only [State.fits, s.reg_handed via idx sub h1 h2]

theorem State.carries_right {s : State} {via : Via} {idx sub : Nat} (h : s.carries via idx sub = true) :
    Path.of via ∈ rightsOf idx sub := by
  simp only [State.carries, Bool.and_eq_true, decide_eq_true_eq] at h
  exact h.1.1

theorem State.carries_domainOn {s : State} {via : Via} {idx sub : Nat} (h : s.carries via idx sub = true) :
    s.domainOn idx = true := by
  simp only [State.carries, Bool.and_eq_true] at h
  exact h.1.2

/-- BAR0 serves an entry now (R386). -/
theorem State.carries_bar0 {s : State} {idx sub : Nat} (h : s.carries .bar0 idx sub = true) :
    s.bar0On = true ∧ ¬(s.dev = devBoot ∧ (!bootEntry idx) = true) := by
  simp only [State.carries, Bool.and_eq_true, Bool.or_eq_true, bne_iff_ne] at h
  obtain ⟨-, hon, hdev⟩ := h
  exact ⟨hon, fun hb => hdev.elim (· hb.1) fun hboot => by simp [hboot] at hb⟩

/-- What reaches the entry over BAR0: the value's lower half, and for a 64-bit entry WHI above it (R387). -/
theorem Entry.cut_given_bar0 (e : Entry) (s : State) (v : Word64) : e.cut (s.given .bar0 v) =
    e.cut (if e.wide then (v &&& mask 31 0) ||| (s.reg 0x2A01 3 <<< 32) else v &&& mask 31 0) := by
  cases hw : e.wide
  · rw [e.cut_of_narrow hw, e.cut_of_narrow hw, s.given_bar0_and_mask]
    simp [BitVec.and_assoc]
  · simp [e.cut_of_wide hw, State.given]

/-- A 4-byte write over BAR0, which serves it, writes the entry and reports in ACCSTAT (R387, R388). -/
theorem State.bar0Write_eq_setAccStat {s t : State} {idx sub : Nat} {v : Word64} {e : Entry} {st : Status}
    (hon : s.bar0On = true) (hdev : ¬(s.dev = devBoot ∧ (!bootEntry idx) = true)) (he : entryOf idx sub = some e)
    (h1 : 1 < idx) (ht : (s.handed .bar0 idx sub).entryWrite .bar0 idx sub (s.given .bar0 v) = (t, st)) :
    s.bar0Write idx sub 4 v false = t.setAccStat st := by
  have hb := entryBytes_of_entryOf he
  have hentry : ¬ idx ≤ 1 := by omega
  rw [State.entryWrite_congr he (e.cut_given_bar0 s v)] at ht
  unfold State.bar0Write
  simp only [Bool.false_and, Bool.false_eq_true, if_false, hon, Bool.not_true, hentry, false_and, ne_eq,
    not_true_eq_false, if_neg hdev, he]
  cases hw : e.wide <;> simp [State.handed, hb, hw] at ht ⊢ <;> simp [ht]

/-- What a way that carries a write makes of it: the entry is written in the state as it is handed on, and the way
answers. -/
theorem State.dictPut_eq_answered {s t : State} {via : Via} {idx sub : Nat} {v : Word64} {e : Entry}
    (hc : s.carries via idx sub = true) (he : entryOf idx sub = some e) (h1 : 1 < idx)
    (ht : (s.handed via idx sub).entryWrite via idx sub (s.given via v) = (t, .done)) :
    s.dictPut via idx sub v = t.answered via idx sub := by
  have hserves := hc
  simp only [State.carries, Bool.and_eq_true] at hserves
  cases via with
  | bar0 => exact State.bar0Write_eq_setAccStat (State.carries_bar0 hc).1 (State.carries_bar0 hc).2 he h1 ht
  | mctp =>
    have hon : s.mctpOn = true := hserves.2
    simp only [State.handed, State.given] at ht
    simp [State.dictPut, State.dictWrite, State.mctpWrite, State.answered, hon, ht]
  | sdo =>
    have hboth : (s.sdoOn && !s.can.serving) = true := hserves.2
    obtain ⟨hon, hserving⟩ : s.sdoOn = true ∧ s.canAccept.can.serving = false := by
      simpa [State.canAccept] using hboth
    simp only [State.handed, State.given] at ht
    simp [State.dictPut, State.dictWrite, State.sdoWrite, State.answered, hon, hserving, ht]
  | rpdo =>
    simp only [State.handed, State.given] at ht
    simp [State.dictPut, State.dictWrite, State.answered, hserves.2, ht]
  | directed =>
    have hon : s.switchOn = true := hserves.2
    simp only [State.handed, State.given] at ht
    simp [State.dictPut, State.dictWrite, State.answered, hon, ht]

/-- A command that writes one entry over a way that carries it, from what the entry's chapter makes of the write. -/
theorem Writes.of_effect {c : Instr} {via : Via} {idx sub : Nat} {s t : State} {v : Word64} {e : Entry}
    {changed : List Part} {post : State → State → Prop} (hx : exec c s = .next (s.dictPut via idx sub v))
    (hc : s.carries via idx sub = true) (he : entryOf idx sub = some e) (hw : e.writable = true)
    (hfit : s.fits idx sub e (s.given via v) = true) (h1 : 1 < idx) (hwhi : regKey idx sub ≠ regKey 0x2A01 3)
    (hcan : regKey idx sub ≠ regKey 0x3001 1)
    (ht : (s.handed via idx sub).writeEffect via idx sub (e.cut (s.given via v))
      (e.merged ((s.handed via idx sub).reg idx sub) (e.cut (s.given via v))) = (t, .done))
    (hf : Frame changed (s.handed via idx sub) (t.noteClear idx sub (e.cut (s.given via v) &&& e.w1c)))
    (hp : post (s.handed via idx sub) (t.noteClear idx sub (e.cut (s.given via v) &&& e.w1c))) :
    Writes c via idx sub s changed post := by
  have hd : (s.handed via idx sub).domainOn idx = true := by
    rw [s.domainOn_handed]; exact State.carries_domainOn hc
  rw [← s.fits_handed via e _ hwhi hcan] at hfit
  have hwrite := State.entryWrite_effect he hw (State.carries_right hc) hd hfit ht
  rw [if_pos rfl] at hwrite
  exact ⟨_, hx.trans (congrArg _ (State.dictPut_eq_answered hc he h1 hwrite)), hf, hp⟩

/-! ### The entries that only hold what is written -/

/-- Indices whose entries only hold what is written. -/
def plainIndices : List Nat := [0x2300, 0x2400, 0x2450, 0x2810, 0x2890, 0x2920, 0x2940, 0x2970, 0x2A20]

/-- An entry is the count of its index's entries, or stands in a row of the index. -/
theorem entryOf_eq_some {idx sub : Nat} {e : Entry} (h : entryOf idx sub = some e) :
    (∃ n, e = .unsigned n) ∨ ∃ r ∈ rowsOf idx, r.2.2 = e := by
  unfold entryOf at h
  split at h
  · split at h
    · exact .inl ⟨_, (Option.some.inj h).symm⟩
    · cases h
  · obtain ⟨r, hr, rfl⟩ := Option.map_eq_some_iff.1 h
    exact .inr ⟨r, List.mem_of_find?_eq_some hr, rfl⟩

theorem plain_w1c {idx sub : Nat} {e : Entry} (hi : idx ∈ plainIndices) (he : entryOf idx sub = some e) :
    e.w1c = 0 := by
  have rows : ∀ i ∈ plainIndices, ∀ r ∈ rowsOf i, r.2.2.w1c = 0 := by decide +kernel
  obtain ⟨n, rfl⟩ | ⟨r, hr, rfl⟩ := entryOf_eq_some he
  · rfl
  · exact rows idx hi r hr

theorem State.writeEffect_plain (s : State) (via : Via) {idx : Nat} (sub : Nat) (v nv : Word64)
    (hi : idx ∈ plainIndices) : s.writeEffect via idx sub v nv = (s.setReg idx sub nv, .done) := by
  simp only [plainIndices, List.mem_cons, List.not_mem_nil, or_false] at hi
  rcases hi with rfl | rfl | rfl | rfl | rfl | rfl | rfl | rfl | rfl <;>
    simp [State.writeEffect, State.writeCaddy, State.writeCompute, State.writeFabric, State.noPort]

/-- An entry without RW1C bits has none to note as cleared. -/
theorem State.noteClear_of_no_w1c (s : State) (idx sub : Nat) (v : Word64) {e : Entry} (h : e.w1c = 0) :
    s.noteClear idx sub (v &&& e.w1c) = s := by simp [State.noteClear, h]

theorem Frame.setReg (s : State) (idx sub : Nat) (v : Word64) : Frame [.regs] s (s.setReg idx sub v) :=
  (State.Keeps.setReg (C := [.regs]) (List.Subset.refl _) (State.Keeps.refl _ s) idx sub v).frame

theorem Entries.setReg (s : State) (idx sub : Nat) (v : Word64) : Entries [(idx, sub)] s (s.setReg idx sub v) :=
  fun _ _ h => State.reg_setReg_ne s v (h (idx, sub) (List.mem_singleton_self _))

theorem regKey_ne_of_idx {i j a b : Nat} (hj : j < 256) (hb : b < 256) (h : i ≠ a) : regKey i j ≠ regKey a b := by
  unfold regKey; omega

theorem Writes.plain {c : Instr} {via : Via} {idx sub : Nat} {s : State} {v : Word64} {e : Entry} (hsub : sub < 256)
    (hi : idx ∈ plainIndices) (hx : exec c s = .next (s.dictPut via idx sub v)) (hc : s.carries via idx sub = true)
    (he : entryOf idx sub = some e) (hw : e.writable = true) (hfit : s.fits idx sub e (s.given via v) = true) :
    Writes c via idx sub s [.regs] fun u t => Entries [(idx, sub)] u t
      ∧ t.reg idx sub = e.merged (u.reg idx sub) (e.cut (s.given via v)) := by
  have bounds : ∀ i ∈ plainIndices, 1 < i ∧ i ≠ 0x2A01 ∧ i ≠ 0x3001 := by decide
  obtain ⟨h1, hwhi, hcan⟩ := bounds idx hi
  refine Writes.of_effect hx hc he hw hfit h1 (regKey_ne_of_idx hsub (by decide) hwhi)
    (regKey_ne_of_idx hsub (by decide) hcan) (State.writeEffect_plain _ _ _ _ _ hi) ?_ ?_ <;>
    rw [State.noteClear_of_no_w1c _ _ _ _ (plain_w1c hi he)]
  · exact Frame.setReg _ _ _ _
  · exact ⟨Entries.setReg _ _ _ _, State.reg_setReg_self _ _ _ _⟩

/-- Settles O8: a write of a plain entry sets the register to the merged value and does nothing else, and every way
that carries it hands it on as it is. -/
theorem plainEntryTakesItsWritableBits : Obligations.PlainEntryTakesItsWritableBits := by
  refine ⟨fun s via idx sub v e hi he hw hr hd hfit => ?_, fun s idx sub e hi he hw => ⟨fun via v hc hfit => ?_,
    fun low hc hfit => ?_, fun v hc hfit => ?_, fun v hc hfit => ?_⟩⟩
  · have hwrite := State.entryWrite_effect he hw hr hd hfit (s.writeEffect_plain via sub (e.cut v) _ hi)
    rw [if_pos rfl, State.noteClear_of_no_w1c _ _ _ _ (plain_w1c hi he)] at hwrite
    refine ⟨_, hwrite, Frame.setReg _ _ _ _, Entries.setReg _ _ _ _, fun i hi64 => ?_⟩
    simp only [State.reg_setReg_self, Entry.merged_getLsbD _ _ _ hi64, Entry.cut_getLsbD, Bool.and_assoc]
  · exact Writes.plain sub.isLt hi rfl hc he hw hfit
  · have h := Writes.plain (c := .bar0WideWrite idx sub low) sub.isLt hi rfl hc he hw hfit
    have hcut : e.cut (s.given .bar0 (low.setWidth 64)) =
        if e.wide then s.given .bar0 (low.setWidth 64) else low.setWidth 64 := by
      rw [Entry.cut, s.given_bar0_and_mask, setWidth_and_mask]
    rwa [hcut] at h
  · exact Writes.plain sub.isLt hi rfl hc he hw hfit
  · exact Writes.plain sub.isLt hi rfl hc he hw hfit

end Sys2Proof.Machine
end

section
/-! SUPPORT. A read of one entry over a way, and what it latches on its path. -/

namespace Sys2Proof.Machine

/-! ### What a read latches -/

theorem State.readLatch_keepsLatches {C : List Part} (hc : [.latches] ⊆ C) {u s : State} (h : State.Keeps C u s)
    (p : Path) (idx sub : Nat) : State.Keeps C u (s.readLatch p idx sub) := by
  unfold State.readLatch
  dsimp only
  split
  · exact State.setLatch_keeps hc h _ _
  · split
    · exact State.setLatch_keeps hc h _ _
    · exact h

/-- A read leaves the dictionary as it is. -/
theorem State.regs_readLatch (s : State) (p : Path) (idx sub : Nat) : (s.readLatch p idx sub).regs = s.regs :=
  (State.readLatch_keepsLatches (List.Subset.refl _) (State.Keeps.refl _ s) p idx sub).parts .regs (by decide)

theorem State.link_readLatch (s : State) (p : Path) (idx sub : Nat) : (s.readLatch p idx sub).link = s.link :=
  (State.readLatch_keepsLatches (List.Subset.refl _) (State.Keeps.refl _ s) p idx sub).parts .link (by decide)

theorem State.can_readLatch (s : State) (p : Path) (idx sub : Nat) : (s.readLatch p idx sub).can = s.can :=
  (State.readLatch_keepsLatches (List.Subset.refl _) (State.Keeps.refl _ s) p idx sub).parts .can (by decide)

theorem State.out_readLatch (s : State) (p : Path) (idx sub : Nat) : (s.readLatch p idx sub).out = s.out :=
  (State.readLatch_keepsLatches (List.Subset.refl _) (State.Keeps.refl _ s) p idx sub).parts .out (by decide)

theorem State.latch_setLatch_self (s : State) (p : Path) (l : Latches) : (s.setLatch p l).latch p = l := by
  cases p <;> rfl

theorem State.latch_setLatch_ne (s : State) {p q : Path} (l : Latches) (h : q ≠ p) :
    (s.setLatch p l).latch q = s.latch q := by
  cases p <;> cases q <;> first | rfl | exact absurd rfl h

/-- A read latches on its own path alone (R404). -/
theorem State.latch_readLatch_ne (s : State) {p q : Path} (idx sub : Nat) (h : q ≠ p) :
    (s.readLatch p idx sub).latch q = s.latch q := by
  unfold State.readLatch
  dsimp only
  split
  · exact s.latch_setLatch_ne _ h
  · split
    · exact s.latch_setLatch_ne _ h
    · rfl

/-- A read of a counter's low word latches its high word (R115). -/
theorem State.readLatch_counter (s : State) (p : Path) {idx sub : Nat} (hc : counterTop idx ≠ 0) (hs : sub % 2 = 1) :
    Tbl.get 0 ((s.readLatch p idx sub).latch p).high (regKey idx sub)
      = (s.counterAt p idx sub >>> 32).setWidth 32 := by
  simp only [State.readLatch, hc, hs, ne_eq, not_false_eq_true, and_self, if_true, State.latch_setLatch_self,
    Tbl.get_put_self]

theorem State.reg_of_regs {s t : State} (h : t.regs = s.regs) (idx sub : Nat) : t.reg idx sub = s.reg idx sub := by
  simp only [State.reg, h]

theorem State.dev_of_regs {s t : State} (h : t.regs = s.regs) : t.dev = s.dev := by
  simp only [State.dev, State.fld, State.reg_of_regs h]

theorem State.mctpOn_readLatch (s : State) (p : Path) (idx sub : Nat) :
    (s.readLatch p idx sub).mctpOn = s.mctpOn := by
  simp only [State.mctpOn, State.dev_of_regs (s.regs_readLatch p idx sub), s.link_readLatch]

theorem State.canOn_of_regs {s t : State} (h : t.regs = s.regs) (hc : t.can = s.can) : t.canOn = s.canOn := by
  simp only [State.canOn, State.canBus, State.fld, State.reg_of_regs h, hc]

/-! ### A read over a path -/

section
variable {s : State} {idx sub : Nat} {e : Entry}

theorem State.entryRead_done (p : Path) (hd : s.domainOn idx = true) (he : entryOf idx sub = some e) :
    s.entryRead p idx sub = (s.readLatch p idx sub, .done, s.shown p idx sub &&& ~~~e.wo) := by
  simp [State.entryRead, he, hd]

theorem State.mctpRead_done (hon : s.mctpOn = true) (hd : s.domainOn idx = true) (he : entryOf idx sub = some e) :
    s.mctpRead idx sub = (s.readLatch .pcie idx sub).emit (.mctp 0 (s.shown .pcie idx sub &&& ~~~e.wo)) := by
  have hon' : (s.readLatch .pcie idx sub).mctpOn = true := by
    rw [s.mctpOn_readLatch, hon]
  simp [State.mctpRead, hon, State.entryRead_done .pcie hd he, State.mctpReply, hon', Status.p]

theorem State.mctpRead_noIndex (hon : s.mctpOn = true) (h : indexExists idx = false) :
    s.mctpRead idx sub = s.emit (.mctp 2 0) := by
  have he : entryOf idx sub = none := by
    cases he : entryOf idx sub with
    | none => rfl
    | some e => simp [indexExists_of_entryOf he] at h
  simp [State.mctpRead, hon, State.entryRead, he, h, State.mctpReply, Status.p]

/-- A 4-byte read over BAR0, which serves it, of a 64-bit entry: its upper half stays in RHI (R387). -/
theorem State.bar0Read_wide (hon : s.bar0On = true) (h1 : 1 < idx) (hdev : s.dev ≠ devBoot ∨ bootEntry idx = true)
    (hd : s.domainOn idx = true) (he : entryOf idx sub = some e) (hw : e.wide = true) :
    s.bar0Read idx sub 4 =
      (((s.readLatch .pcie idx sub).setReg 0x2A01 2 ((s.shown .pcie idx sub &&& ~~~e.wo) >>> 32)).emit
        (.bar0 false ((s.shown .pcie idx sub &&& ~~~e.wo) &&& mask 31 0))).setAccStat .done := by
  have hentry : ¬ idx ≤ 1 := by omega
  have hboot : ¬(s.dev = devBoot ∧ bootEntry idx = false) := fun h =>
    hdev.elim (· h.1) fun hb => by simp [hb] at h
  simp [State.bar0Read, hon, hentry, hboot, State.entryRead_done .pcie hd he, he, hw]

theorem State.bar0Read_size {size : Nat} (hon : s.bar0On = true) (h1 : 1 < idx) (h4 : size ≠ 4) :
    s.bar0Read idx sub size = s.bar0Refuse.setAccStat .size := by
  have hentry : ¬ idx ≤ 1 := by omega
  simp [State.bar0Read, hon, hentry, h4]

theorem State.canAccept_can (s : State) : s.canAccept.can = s.can := rfl

theorem State.sdoRead_done (hon : s.sdoOn = true) (hs : s.can.serving = false) (hd : s.domainOn idx = true)
    (he : entryOf idx sub = some e) :
    s.sdoRead idx sub = (s.canAccept.readLatch .can idx sub).sdoSend 0x42 idx sub (entryBytes idx sub)
      (s.canAccept.shown .can idx sub &&& ~~~e.wo) := by
  have hd' : s.canAccept.domainOn idx = true := (s.domainOn_handed .sdo idx sub idx).trans hd
  simp [State.sdoRead, hon, State.canAccept_can, hs, State.entryRead_done .can hd' he]

end

theorem counterTop_pos {idx : Nat} (h : counterTop idx ≠ 0) : 0x3001 ≤ idx := by
  unfold counterTop at h
  split_ifs at h <;> omega

theorem entryOf_counter {idx sub : Nat} (h : counterTop idx ≠ 0) (h1 : sub ≠ 0) (h2 : sub ≤ counterTop idx) :
    entryOf idx sub = some .counter := by
  have := counterTop_pos h
  have hrows : rowsOf idx = [(1, counterTop idx, .counter)] := by
    unfold rowsOf
    simp only [h, if_false]
    repeat rw [if_neg (by omega)]
  simp [entryOf, h1, hrows, h2, Nat.one_le_iff_ne_zero]

/-- An SDO response goes out on a bus that the port takes part in (R423). -/
theorem State.sdoSend_on {s : State} (h : s.canOn = true) (cmd idx sub size : Nat) (v : Word64) :
    s.sdoSend cmd idx sub size v = (s.emit (.can (0x580 + canNode) ([BitVec.ofNat 8 cmd] ++ leBytes 2 idx
      ++ leBytes 1 sub ++ leBytes 1 size ++ [0, 0, 0] ++ leBytes 8 v.toNat))).count 0x3001 3 := by
  simp [State.sdoSend, State.canSend, h]

theorem State.canOn_canAccept (s : State) : s.canAccept.canOn = s.canOn := by
  have h : s.canAccept.reg 0x2012 1 = s.reg 0x2012 1 := State.reg_setReg_ne _ _ (by decide)
  simp only [State.canOn, State.canBus, State.fld, h, s.canAccept_can]

theorem State.canOn_of_sdoOn {s : State} (h : s.sdoOn = true) : s.canOn = true := by
  simp only [State.sdoOn, Bool.and_eq_true] at h
  exact h.1

/-! ### The clauses of reading -/

section
variable {s : State} {idx : BitVec 16} {sub : BitVec 8} {e : Entry}

theorem counterLowRead_latches (hon : s.mctpOn = true) (hv : s.latchP.view = false)
    (hc : counterTop idx.toNat ≠ 0) (hodd : sub.toNat % 2 = 1) (htop : sub.toNat ≤ counterTop idx.toNat)
    (hd : s.domainOn idx.toNat = true) :
    Runs (.counterLowRead .mctp idx sub) s [.latches, .out] fun t =>
      t.out = .mctp 0 (s.reg idx.toNat sub.toNat &&& mask 31 0) :: s.out
      ∧ t.latchC = s.latchC ∧ t.latchF = s.latchF
      ∧ t.counterRead .pcie idx.toNat (sub.toNat + 1) =
          ((s.reg idx.toNat sub.toNat >>> 32).setWidth 32).setWidth 64 := by
  have hsub : sub.toNat ≠ 0 := by omega
  have hlive : s.counterAt .pcie idx.toNat sub.toNat = s.reg idx.toNat sub.toNat := by
    simp [State.counterAt, State.latch, hv]
  have hshown : s.shown .pcie idx.toNat sub.toNat &&& ~~~Entry.counter.wo = s.reg idx.toNat sub.toNat &&& mask 31 0 := by
    rw [show ~~~Entry.counter.wo = BitVec.allOnes 64 by decide, BitVec.and_allOnes]
    simp [State.shown, hsub, hc, State.counterRead, hodd, hlive]
  refine ⟨_, congrArg Host.Outcome.next (State.mctpRead_done hon hd (entryOf_counter hc hsub htop)), ?_, ?_, ?_, ?_, ?_⟩
  · exact (State.emit_keeps (by decide) (State.readLatch_keepsLatches (by decide) (State.Keeps.refl _ s) _ _ _) _).frame
  · rw [hshown]
    exact congrArg _ (s.out_readLatch _ _ _)
  · exact s.latch_readLatch_ne (p := .pcie) (q := .can) _ _ (by decide)
  · exact s.latch_readLatch_ne (p := .pcie) (q := .fab) _ _ (by decide)
  · have heven : ¬ (sub.toNat + 1) % 2 = 1 := by omega
    rw [State.counterRead, if_neg heven, Nat.add_sub_cancel]
    exact congrArg _ ((s.readLatch_counter .pcie hc hodd).trans (by rw [hlive]))

theorem bar0WideRead_leaves_rhi (hon : s.bar0On = true) (h1 : 1 < idx.toNat)
    (hdev : s.dev ≠ devBoot ∨ bootEntry idx.toNat = true) (hd : s.domainOn idx.toNat = true)
    (he : entryOf idx.toNat sub.toNat = some e) (hw : e.wide = true) :
    Runs (.bar0WideRead idx sub 4) s [.regs, .latches, .out] fun t =>
      t.out = .bar0 false ((s.shown .pcie idx.toNat sub.toNat &&& ~~~e.wo) &&& mask 31 0) :: s.out
      ∧ t.reg 0x2A01 2 = (s.shown .pcie idx.toNat sub.toNat &&& ~~~e.wo) >>> 32
      ∧ t.reg 0x2A01 1 = 0 ∧ Entries [(0x2A01, 1), (0x2A01, 2)] s t := by
  refine ⟨_, congrArg Host.Outcome.next (State.bar0Read_wide hon h1 hdev hd he hw), ?_, ?_, ?_, ?_, ?_⟩
  · exact (State.setAccStat_keeps (by decide) (State.emit_keeps (by decide) (State.Keeps.setReg (by decide)
      (State.readLatch_keepsLatches (by decide) (State.Keeps.refl _ s) _ _ _) _ _ _) _) _).frame
  · exact congrArg _ (s.out_readLatch _ _ _)
  · exact (State.reg_setReg_ne _ _ (by decide)).trans (State.reg_setReg_self _ _ _ _)
  · exact State.reg_setReg_self _ _ _ _
  · intro i j h
    calc _ = ((s.readLatch .pcie idx.toNat sub.toNat).setReg 0x2A01 2 _).reg i j :=
          State.reg_setReg_ne _ _ (h (0x2A01, 1) (by decide))
      _ = (s.readLatch .pcie idx.toNat sub.toNat).reg i j := State.reg_setReg_ne _ _ (h (0x2A01, 2) (by decide))
      _ = s.reg i j := State.reg_of_regs (s.regs_readLatch _ _ _) i j

theorem bar0Read_of_other_size {size : Nat} (hon : s.bar0On = true) (h1 : 1 < idx.toNat) (h4 : size ≠ 4) :
    Runs (.bar0WideRead idx sub size) s [.regs, .out] fun t =>
      t.out = .bar0 true 0 :: s.out ∧ t.reg 0x2A01 1 = 4 ∧ t.reg 0x3A00 3 = s.reg 0x3A00 3 + 1
      ∧ Entries [(0x2A01, 1), (0x3A00, 3)] s t := by
  refine ⟨_, congrArg Host.Outcome.next (State.bar0Read_size hon h1 h4), ?_, rfl, ?_, ?_, ?_⟩
  · exact (State.setAccStat_keeps (by decide) (State.bar0Refuse_keeps (by decide) (State.Keeps.refl _ s)) _).frame
  · exact State.reg_setReg_self _ _ _ _
  · exact (State.reg_setReg_ne _ _ (by decide)).trans (State.reg_count_self s _ _ _)
  · intro i j h
    exact (State.reg_setReg_ne _ _ (h (0x2A01, 1) (by decide))).trans
      (State.reg_setReg_ne s _ (h (0x3A00, 3) (by decide)))

theorem sdoRead_answers (hon : s.sdoOn = true) (hs : s.can.serving = false) (hd : s.domainOn idx.toNat = true)
    (he : entryOf idx.toNat sub.toNat = some e) :
    ∃ u, s.canAccept.entryRead .can idx.toNat sub.toNat =
        (u, .done, s.canAccept.shown .can idx.toNat sub.toNat &&& ~~~e.wo)
      ∧ Frame [.latches] s.canAccept u ∧ u.latchP = s.latchP ∧ u.latchF = s.latchF
      ∧ exec (.sdoRead idx sub .request) s = .next (u.sdoSend 0x42 idx.toNat sub.toNat
          (entryBytes idx.toNat sub.toNat) (s.canAccept.shown .can idx.toNat sub.toNat &&& ~~~e.wo)) := by
  refine ⟨_, State.entryRead_done .can ((s.domainOn_handed .sdo 0 0 _).trans hd) he, ?_, ?_, ?_, ?_⟩
  · exact (State.readLatch_keepsLatches (List.Subset.refl _) (State.Keeps.refl _ _) _ _ _).frame
  · exact s.canAccept.latch_readLatch_ne (p := .can) (q := .pcie) _ _ (by decide)
  · exact s.canAccept.latch_readLatch_ne (p := .can) (q := .fab) _ _ (by decide)
  · exact congrArg _ (State.sdoRead_done hon hs hd he)

theorem sdoRead_frame (hon : s.sdoOn = true) (hs : s.can.serving = false) (hd : s.domainOn idx.toNat = true)
    (he : entryOf idx.toNat sub.toNat = some e) :
    Runs (.sdoRead idx sub .request) s [.regs, .latches, .out] fun t =>
      t.latchP = s.latchP ∧ t.latchF = s.latchF ∧ Entries [(0x3001, 1), (0x3001, 3)] s t
      ∧ t.out = .can (0x580 + canNode) ([0x42] ++ leBytes 2 idx.toNat ++ leBytes 1 sub.toNat
          ++ leBytes 1 (entryBytes idx.toNat sub.toNat) ++ [0, 0, 0]
          ++ leBytes 8 (s.canAccept.shown .can idx.toNat sub.toNat &&& ~~~e.wo).toNat) :: s.out := by
  have hcan : (s.canAccept.readLatch .can idx.toNat sub.toNat).canOn = true := by
    rw [State.canOn_of_regs (State.regs_readLatch _ _ _ _) (State.can_readLatch _ _ _ _), s.canOn_canAccept]
    exact State.canOn_of_sdoOn hon
  have hread := State.sdoRead_done hon hs hd he
  rw [State.sdoSend_on hcan] at hread
  refine ⟨_, congrArg Host.Outcome.next hread, ?_, ?_, ?_, ?_, ?_⟩
  · exact (State.count_keeps (by decide) (State.emit_keeps (by decide) (State.readLatch_keepsLatches (by decide)
      (State.count_keeps (by decide) (State.Keeps.refl _ s) 0x3001 1 1) _ _ _) _) _ _ _).frame
  · exact s.canAccept.latch_readLatch_ne (p := .can) (q := .pcie) _ _ (by decide)
  · exact s.canAccept.latch_readLatch_ne (p := .can) (q := .fab) _ _ (by decide)
  · intro i j h
    calc _ = (s.canAccept.readLatch .can idx.toNat sub.toNat).reg i j :=
          State.reg_setReg_ne _ _ (h (0x3001, 3) (by decide))
      _ = s.canAccept.reg i j := State.reg_of_regs (State.regs_readLatch _ _ _ _) i j
      _ = s.reg i j := State.reg_setReg_ne s _ (h (0x3001, 1) (by decide))
  · exact congrArg _ (s.canAccept.out_readLatch _ _ _)

theorem mctpReadEntry_answers (hon : s.mctpOn = true) (hd : s.domainOn idx.toNat = true)
    (he : entryOf idx.toNat sub.toNat = some e) :
    Runs (.mctpReadEntry idx sub) s [.latches, .out] fun t =>
      t.out = .mctp 0 (s.shown .pcie idx.toNat sub.toNat &&& ~~~e.wo) :: s.out ∧ t.latchC = s.latchC := by
  refine ⟨_, congrArg Host.Outcome.next (State.mctpRead_done hon hd he), ?_, ?_, ?_⟩
  · exact (State.emit_keeps (by decide) (State.readLatch_keepsLatches (by decide) (State.Keeps.refl _ s) _ _ _) _).frame
  · exact congrArg _ (s.out_readLatch _ _ _)
  · exact s.latch_readLatch_ne (p := .pcie) (q := .can) _ _ (by decide)

end

/-- Settles O10: each clause is what its way makes of `State.entryRead`, whose only effect is the path's own latch. -/
theorem readsLatchOnTheirOwnPath : Obligations.ReadsLatchOnTheirOwnPath := fun _ _ _ =>
  ⟨counterLowRead_latches, fun _ => bar0WideRead_leaves_rhi, fun _ => bar0Read_of_other_size,
    fun _ => sdoRead_answers, fun _ => sdoRead_frame, fun _ => mctpReadEntry_answers,
    fun hon h => congrArg _ (State.mctpRead_noIndex hon h)⟩

end Sys2Proof.Machine
end

section
/-! SUPPORT. Bits of an entry, events, bits cleared in this clock, and the thrash event of a caddy. -/

namespace Sys2Proof.Machine

/-! ### Bits of an entry -/

theorem State.bit_eq_getLsbD (s : State) (idx sub n : Nat) : s.bit idx sub n = (s.reg idx sub).getLsbD n := by
  simp [State.bit, State.fld, fieldOf, BitVec.getLsbD, Nat.testBit_eq_decide_div_mod_eq]

theorem State.bit_setBit (s : State) (idx sub : Nat) {n i : Nat} (b : Bool) (hn : n < 64) (hi : i < 64) :
    (s.setBit idx sub n b).bit idx sub i = if i = n then b else s.bit idx sub i := by
  simp only [State.bit_eq_getLsbD, State.setBit, State.setFld, State.reg_setReg_self]
  rw [withField_getLsbD _ _ _ (by omega) hn hi]
  by_cases h : i = n
  · subst h; cases b <;> simp
  · rw [if_neg (by omega), if_neg h]

theorem State.bit_of_reg {s t : State} {idx sub : Nat} (h : t.reg idx sub = s.reg idx sub) (n : Nat) :
    t.bit idx sub n = s.bit idx sub n := by simp only [State.bit_eq_getLsbD, h]

/-- A field is 0 where each of its bits is. -/
theorem fieldOf_eq_zero_iff (w : Word64) (hi lo : Nat) :
    fieldOf w hi lo = 0 ↔ ∀ i, lo ≤ i → i ≤ hi → w.getLsbD i = false := by
  constructor
  · intro h i h1 h2
    have := fieldOf_testBit w hi lo (i - lo)
    rw [h, Nat.zero_testBit, show lo + (i - lo) = i by omega, decide_eq_true (by omega), Bool.true_and] at this
    exact this.symm
  · intro h
    refine Nat.eq_of_testBit_eq fun i => ?_
    rw [fieldOf_testBit, Nat.zero_testBit]
    by_cases hi' : i < hi + 1 - lo
    · simp [h (lo + i) (by omega) (by omega)]
    · simp [hi']

/-! ### The entries that a step may change -/

namespace Entries

variable {C : List (Nat × Nat)} {u s t : State}

theorem refl (C : List (Nat × Nat)) (s : State) : Entries C s s := fun _ _ _ => rfl

theorem write {idx sub : Nat} (hm : (idx, sub) ∈ C) (h : Entries C u s) (v : Word64) :
    Entries C u (s.setReg idx sub v) :=
  fun i j hk => (State.reg_setReg_ne s v (hk (idx, sub) hm)).trans (h i j hk)

theorem of_regs (hr : t.regs = s.regs) (h : Entries C u s) : Entries C u t :=
  fun i j hk => (State.reg_of_regs hr i j).trans (h i j hk)

end Entries

/-! ### Events -/

theorem State.raise_regs (s : State) (vec : Nat) : (s.raise vec).regs = s.regs := by
  unfold State.raise
  split
  · rfl
  · split <;> rfl

theorem State.emergency_entries {C : List (Nat × Nat)} {u s : State} (hm : (0x3001, 0x0B) ∈ C) (h : Entries C u s)
    (code idx sub bit : Nat) : Entries C u (s.emergency code idx sub bit) := by
  unfold State.emergency
  split
  · exact h
  · split
    · exact h
    · exact h.write hm _

theorem State.unnamedEmergency_entries {C : List (Nat × Nat)} {u s : State} (hm : (0x3001, 0x0B) ∈ C)
    (h : Entries C u s) (code : Nat) : Entries C u (s.unnamedEmergency code) :=
  State.emergency_entries hm h _ _ _ _

/-- What follows 1001h may count an emergency that finds no room, and writes no other entry (R425). -/
theorem State.noteErr_entries {C : List (Nat × Nat)} {u s : State} (hm : (0x3001, 0x0B) ∈ C) (h : Entries C u s) :
    Entries C u s.noteErr := by
  unfold State.noteErr
  dsimp only
  split
  · exact h
  · split
    · refine State.unnamedEmergency_entries hm ?_ 0
      exact h.of_regs rfl
    · exact h.of_regs rfl

/-- After the bit of an event is set, its vector, its message and 1001h follow. -/
def State.eventTold (s : State) (idx sub n : Nat) : State :=
  let s := match vectorOf idx sub with
    | some v => s.raise v
    | none => s
  let s := match emergencyOf idx sub n with
    | some c => s.emergency c idx sub n
    | none => s
  s.noteErr

theorem State.event_eq (s : State) (idx sub n : Nat) : s.event idx sub n =
    if s.bit idx sub n || s.heldClear idx sub n then s else (s.setBit idx sub n true).eventTold idx sub n := rfl

theorem State.eventTold_entries {C : List (Nat × Nat)} {u s : State} (hm : (0x3001, 0x0B) ∈ C) (h : Entries C u s)
    (idx sub n : Nat) : Entries C u (s.eventTold idx sub n) := by
  have hraise : Entries C u (match vectorOf idx sub with
      | some v => s.raise v
      | none => s) := by
    split
    · exact h.of_regs (s.raise_regs _)
    · exact h
  unfold State.eventTold
  refine State.noteErr_entries hm ?_
  split
  · exact State.emergency_entries hm hraise _ _ _ _
  · exact hraise

theorem State.event_entries {C : List (Nat × Nat)} {u s : State} {idx sub : Nat} (hi : (idx, sub) ∈ C)
    (hm : (0x3001, 0x0B) ∈ C) (h : Entries C u s) (n : Nat) : Entries C u (s.event idx sub n) := by
  rw [State.event_eq]
  split
  · exact h
  · exact State.eventTold_entries hm (h.write hi _) _ _ _

theorem State.event_of_heldClear {s : State} {idx sub n : Nat} (h : s.heldClear idx sub n = true) :
    s.event idx sub n = s := by simp [State.event_eq, h]

section
variable {s : State} {idx sub n : Nat}

theorem State.bit_eventTold (hk : regKey idx sub ≠ regKey 0x3001 0x0B) (i : Nat) :
    (s.eventTold idx sub n).bit idx sub i = s.bit idx sub i :=
  State.bit_of_reg (State.eventTold_entries (List.mem_singleton_self _) (Entries.refl _ s) idx sub n idx sub
    (by simpa using hk)) i

/-- An event sets its bit, unless a write of this clock has cleared it (R13). -/
theorem State.bit_event_self (hk : regKey idx sub ≠ regKey 0x3001 0x0B) (hn : n < 64)
    (h : s.heldClear idx sub n = false) : (s.event idx sub n).bit idx sub n = true := by
  rw [State.event_eq, h, Bool.or_false]
  split
  · assumption
  · rw [State.bit_eventTold hk, State.bit_setBit_self _ _ _ _ hn]

/-- An event clears no bit of its entry. -/
theorem State.bit_event_of_bit (hk : regKey idx sub ≠ regKey 0x3001 0x0B) (hn : n < 64) {i : Nat} (hi : i < 64)
    (h : s.bit idx sub i = true) : (s.event idx sub n).bit idx sub i = true := by
  rw [State.event_eq]
  split
  · exact h
  · rw [State.bit_eventTold hk, State.bit_setBit _ _ _ _ hn hi, h, ite_self]

end

/-! ### Bits cleared in this clock (R13) -/

theorem Tbl.find_insert_self {α : Type} (k : Nat) (v : α) (t : Tbl α) (h : ∀ e ∈ t, e.1 ≠ k) :
    Tbl.find (Tbl.insert k v t) k = some v := by
  induction t with
  | nil => simp [Tbl.insert, Tbl.find]
  | cons e t ih =>
    have he : e.1 ≠ k := h e (by simp)
    by_cases hk : k < e.1
    · simp [Tbl.insert, hk, Tbl.find]
    · simp [Tbl.insert, hk, Tbl.find, he, ih fun x hx => h x (by simp [hx])]

theorem Tbl.find_set_self {α : Type} (t : Tbl α) (k : Nat) (v : α) : Tbl.find (t.set k v) k = some v :=
  Tbl.find_insert_self k v _ fun _ he => (Tbl.mem_del he).2

theorem State.noteClear_regs (s : State) (idx sub : Nat) (m : Word64) : (s.noteClear idx sub m).regs = s.regs := by
  unfold State.noteClear
  split <;> rfl

/-- A bit that a write of 1 has cleared stays clear in this clock. -/
theorem State.heldClear_noteClear (s : State) (idx sub : Nat) {m : Word64} {n : Nat} (h : m.getLsbD n = true) :
    (s.noteClear idx sub m).heldClear idx sub n = true := by
  have hm : m ≠ 0#64 := by rintro rfl; simp at h
  simp [State.noteClear, hm, State.heldClear, Tbl.find_set_self, h]

theorem State.heldClear_congr {s t : State} (hc : t.cleared = s.cleared) (ht : t.time = s.time) (idx sub n : Nat) :
    t.heldClear idx sub n = s.heldClear idx sub n := by
  simp only [State.heldClear, hc, ht]

theorem State.heldClear_setReg (s : State) (i j : Nat) (v : Word64) (idx sub n : Nat) :
    (s.setReg i j v).heldClear idx sub n = s.heldClear idx sub n := State.heldClear_congr rfl rfl _ _ _

/-! ### The thrash monitor (R186) -/

theorem State.thrash_entries {C : List (Nat × Nat)} {u s : State} (h1 : (0x2310, 0x0C) ∈ C) (h2 : (0x2310, 0x0E) ∈ C)
    (h3 : (0x3001, 0x0B) ∈ C) (h : Entries C u s) (cad sl n : Nat) : Entries C u (s.thrash cad sl n) := by
  unfold State.thrash
  refine State.event_entries h1 h3 ?_ _
  split
  · exact h.write h2 _
  · exact h

/-- A thrash event as logged, before its bit is set (R187). -/
def State.thrashLogged (s : State) (cad sl n : Nat) : State :=
  if s.fld 0x2310 0x0C 3 2 = 0 ∧ !s.heldClear 0x2310 0x0C (2 + cad) then
    s.setReg 0x2310 0x0E (packWord [(cad, 0), (sl, 1), (min n 65535, 9), (1, 25)]) else s

theorem State.thrash_eq (s : State) (cad sl n : Nat) :
    s.thrash cad sl n = (s.thrashLogged cad sl n).event 0x2310 0x0C (2 + cad) := rfl

theorem State.thrashLogged_bit (s : State) (cad sl n i : Nat) :
    (s.thrashLogged cad sl n).bit 0x2310 0x0C i = s.bit 0x2310 0x0C i := by
  unfold State.thrashLogged
  split
  · exact State.bit_of_reg (State.reg_setReg_ne _ _ (by decide)) i
  · rfl

theorem State.thrashLogged_heldClear (s : State) (cad sl n i : Nat) :
    (s.thrashLogged cad sl n).heldClear 0x2310 0x0C i = s.heldClear 0x2310 0x0C i := by
  unfold State.thrashLogged
  split
  · exact State.heldClear_setReg _ _ _ _ _ _ _
  · rfl

theorem State.thrashCaddy_bit_of_bit {s : State} {cad i : Nat} (hc : cad < 2) (hi : i < 64)
    (h : s.bit 0x2310 0x0C i = true) : (s.thrashCaddy cad).bit 0x2310 0x0C i = true := by
  unfold State.thrashCaddy
  dsimp only
  split
  · rw [State.thrash_eq]
    exact State.bit_event_of_bit (by decide) (by omega) hi ((s.thrashLogged_bit _ _ _ _).trans h)
  · exact h

/-- A caddy whose worst slice has reached the threshold has its event. -/
theorem State.thrashCaddy_bit_self {s : State} {cad : Nat} (hc : cad < 2) (h0 : s.fld 0x2310 6 15 0 ≠ 0)
    (hle : s.fld 0x2310 6 15 0 ≤ (s.worstSlice cad).2) (hh : s.heldClear 0x2310 0x0C (2 + cad) = false) :
    (s.thrashCaddy cad).bit 0x2310 0x0C (2 + cad) = true := by
  unfold State.thrashCaddy
  dsimp only
  rw [if_pos ⟨h0, hle⟩, State.thrash_eq]
  exact State.bit_event_self (by decide) (by omega) ((s.thrashLogged_heldClear _ _ _ _).trans hh)

end Sys2Proof.Machine
end

section
/-! SUPPORT. Entries below a key, which a snapshot leaves alone. -/

namespace Sys2Proof.Machine

/-! ### Entries below a key -/

/-- The entries of the dictionary below a key are the same. -/
def SameBelow (n : Nat) (s t : State) : Prop := ∀ idx sub, regKey idx sub < n → t.reg idx sub = s.reg idx sub

namespace SameBelow

variable {n : Nat} {u s t : State}

theorem refl (n : Nat) (s : State) : SameBelow n s s := fun _ _ _ => rfl

theorem write {idx sub : Nat} (hk : n ≤ regKey idx sub) (h : SameBelow n u s) (v : Word64) :
    SameBelow n u (s.setReg idx sub v) :=
  fun i j hn => (State.reg_setReg_ne s v (by omega)).trans (h i j hn)

theorem of_regs (hr : t.regs = s.regs) (h : SameBelow n u s) : SameBelow n u t :=
  fun i j hn => (State.reg_of_regs hr i j).trans (h i j hn)

theorem foldl {α : Type} {f : State → α → State} (hf : ∀ s a, SameBelow n u s → SameBelow n u (f s a)) (l : List α)
    {s : State} (h : SameBelow n u s) : SameBelow n u (l.foldl f s) := by
  induction l generalizing s with
  | nil => exact h
  | cons a l ih => exact ih (hf s a h)

theorem writeFld {idx sub : Nat} (hk : n ≤ regKey idx sub) (h : SameBelow n u s) (hi lo v : Nat) :
    SameBelow n u (s.setFld idx sub hi lo v) := h.write hk _

theorem writeBit {idx sub : Nat} (hk : n ≤ regKey idx sub) (h : SameBelow n u s) (i : Nat) (b : Bool) :
    SameBelow n u (s.setBit idx sub i b) := h.writeFld hk _ _ _

theorem count {idx sub : Nat} (hk : n ≤ regKey idx sub) (h : SameBelow n u s) (i : Nat) :
    SameBelow n u (s.count idx sub i) := h.write hk _

theorem emit (h : SameBelow n u s) (o : Output) : SameBelow n u (s.emit o) := h

theorem ite {c : Prop} [Decidable c] (hs : SameBelow n u s) (ht : SameBelow n u t) :
    SameBelow n u (if c then s else t) := by split <;> assumption

end SameBelow

theorem regKey_le {a idx : Nat} (h : a ≤ idx) (sub : Nat) : regKey a 0 ≤ regKey idx sub := by
  unfold regKey; omega

/-- A snapshot writes only from 2C00h on. -/
theorem State.snapLatch_sameBelow {n : Nat} (hn : n ≤ regKey 0x2C00 0) {u s : State} (h : SameBelow n u s)
    (src : SnapSrc) : SameBelow n u (s.snapLatch src) := by
  have hw {idx sub : Nat} (hi : 0x2C00 ≤ idx) : n ≤ regKey idx sub := hn.trans (regKey_le hi sub)
  have hshot (r : State) (cls : List (Nat × Word64)) (hr : SameBelow n u r) :
      SameBelow n u (cls.foldl (fun s p => s.setReg 0x2C10 (p.1 + 1) p.2) r) :=
    SameBelow.foldl (fun s p hs => SameBelow.write (hw (by decide)) hs p.2) cls hr
  unfold State.snapLatch
  extract_lets seq ign cls cnt s1 s2 s3 s4 s5
  have h1 : SameBelow n u s1 := h.writeBit (hw (by decide)) _ _
  have h2 : SameBelow n u s2 := h1.write (hw (by decide)) _
  have h3 : SameBelow n u s3 := h2.write (hw (by decide)) _
  have h4 : SameBelow n u s4 := hshot s3 cls h3
  have h5 : SameBelow n u s5 := SameBelow.of_regs (s := s4) rfl h4
  exact SameBelow.ite (h5.emit _) h5

theorem State.snapFault_sameBelow {n : Nat} (hn : n ≤ regKey 0x2C00 0) {u s : State} (h : SameBelow n u s) :
    SameBelow n u s.snapFault := by
  have hw {idx sub : Nat} (hi : 0x2C00 ≤ idx) : n ≤ regKey idx sub := hn.trans (regKey_le hi sub)
  unfold State.snapFault State.snapTrigger
  split
  · split
    · exact State.snapLatch_sameBelow hn h _
    · split
      · exact h.writeBit (hw (by decide)) _ _
      · exact h.writeFld (hw (by decide)) _ _ _
  · exact h

end Sys2Proof.Machine
end

section
/-! SUPPORT. The thrash window, and the entries and logs that a write of 1 clears. -/

namespace Sys2Proof.Machine

/-! ### The thrash window (R186) -/

theorem Tbl.get_of_forall {α : Type} {P : α → Prop} {d : α} (hd : P d) {t : Tbl α} (h : ∀ e ∈ t, P e.2) (k : Nat) :
    P (Tbl.get d t k) := by
  induction t with
  | nil => exact hd
  | cons e t ih =>
    by_cases he : e.1 = k
    · simpa [Tbl.get, he] using h e (by simp)
    · simpa [Tbl.get, he] using ih fun x hx => h x (by simp [hx])

/-- The counts of every slice start again; its victim table stays. -/
def State.recounted (s : State) : State :=
  { s with caddy := { s.caddy with mon :=
      (s.caddy.mon.map fun m => (m.1, (⟨m.2.victims, 0, 0⟩ : SliceMon))).filter fun m => m.2 ≠ SliceMon.init } }

theorem State.mon_recounted (s : State) (k : Nat) :
    (s.recounted.mon k).refetch = 0 ∧ (s.recounted.mon k).evicted = 0 := by
  refine Tbl.get_of_forall (P := fun m : SliceMon => m.refetch = 0 ∧ m.evicted = 0) ⟨rfl, rfl⟩ (fun e he => ?_) k
  obtain ⟨m, -, rfl⟩ := List.mem_map.1 (List.mem_filter.1 he).1
  exact ⟨rfl, rfl⟩

theorem State.lines_recounted (s : State) : s.recounted.caddy.lines = s.caddy.lines := rfl

theorem State.regs_recounted (s : State) : s.recounted.regs = s.regs := rfl

theorem State.windowEnd_eq {s : State} (h : s.time.core % 2 ^ s.fld 0x2310 6 20 16 = 0) :
    s.windowEnd = ((s.thrashCaddy 0).thrashCaddy 1).recounted := by
  simp only [State.windowEnd, State.when, h, decide_true, if_true]
  rfl

theorem State.worstSlice_congr {s t : State} (h : t.caddy = s.caddy) (cad : Nat) :
    t.worstSlice cad = s.worstSlice cad := by
  have hm : t.mon = s.mon := by
    funext k
    rw [State.mon, h, State.mon]
  unfold State.worstSlice
  rw [hm]

/-- What caddy 0's thrash event leaves: what caddy 1's depends on. -/
theorem State.thrashCaddy_zero_frame (s : State) : (s.thrashCaddy 0).fld 0x2310 6 15 0 = s.fld 0x2310 6 15 0
    ∧ (s.thrashCaddy 0).worstSlice 1 = s.worstSlice 1
    ∧ (s.thrashCaddy 0).heldClear 0x2310 0x0C 3 = s.heldClear 0x2310 0x0C 3 := by
  have keeps := State.thrashCaddy_keeps (List.Subset.refl _) (State.Keeps.refl _ s) 0
  have hcaddy : (s.thrashCaddy 0).caddy = s.caddy := keeps.parts .caddy (by decide)
  have hreg : (s.thrashCaddy 0).reg 0x2310 6 = s.reg 0x2310 6 := by
    have h : Entries [(0x2310, 0x0C), (0x2310, 0x0E), (0x3001, 0x0B)] s (s.thrashCaddy 0) := by
      unfold State.thrashCaddy
      dsimp only
      split
      · exact State.thrash_entries (by decide) (by decide) (by decide) (Entries.refl _ s) _ _ _
      · exact Entries.refl _ s
    exact h _ _ (by decide)
  refine ⟨by simp only [State.fld, hreg], State.worstSlice_congr hcaddy 1, ?_⟩
  exact State.heldClear_congr (keeps.parts .cleared (by decide)) (keeps.parts .time (by decide)) _ _ _

theorem thrashWindowEnd_restarts {s : State} (h : s.time.core % 2 ^ s.fld 0x2310 6 20 16 = 0) :
    Runs .thrashWindowEnd s [.regs, .caddy, .link, .can, .out] fun t =>
      (∀ k, (t.mon k).refetch = 0 ∧ (t.mon k).evicted = 0) ∧ t.caddy.lines = s.caddy.lines
      ∧ ∀ cad, cad < 2 → s.fld 0x2310 6 15 0 ≠ 0 → s.fld 0x2310 6 15 0 ≤ (s.worstSlice cad).2 →
          s.heldClear 0x2310 0x0C (2 + cad) = false → t.bit 0x2310 0x0C (2 + cad) = true := by
  have keeps : State.Keeps [.regs, .link, .can, .out] s ((s.thrashCaddy 0).thrashCaddy 1) :=
    State.thrashCaddy_keeps (List.Subset.refl _) (State.thrashCaddy_keeps (List.Subset.refl _) (State.Keeps.refl _ s) 0) 1
  have hframe := (State.windowEnd_keeps (List.Subset.refl _) (State.Keeps.refl _ s)).frame
  obtain ⟨hfld, hworst, hheld⟩ := s.thrashCaddy_zero_frame
  rw [State.windowEnd_eq h] at hframe
  refine ⟨((s.thrashCaddy 0).thrashCaddy 1).recounted, congrArg Host.Outcome.next (State.windowEnd_eq h), hframe,
    State.mon_recounted _, ?_, ?_⟩
  · have hcaddy : ((s.thrashCaddy 0).thrashCaddy 1).caddy = s.caddy := keeps.parts .caddy (by decide)
    rw [State.lines_recounted, hcaddy]
  · intro cad hcad h0 hle hh
    rw [State.bit_of_reg (State.reg_of_regs (State.regs_recounted _) _ _)]
    obtain rfl | rfl : cad = 0 ∨ cad = 1 := by omega
    · exact State.thrashCaddy_bit_of_bit (by decide) (by decide) (State.thrashCaddy_bit_self (by decide) h0 hle hh)
    · exact State.thrashCaddy_bit_self (by decide) (hfld ▸ h0) (by rw [hfld, hworst]; exact hle) (hheld.trans hh)

/-! ### Writing 1 to clear (R13) -/

/-- A word that a command gives reaches a 32-bit entry as it is, over whatever way. -/
theorem Entry.cut_given_word {e : Entry} (h : e.wide = false) (s : State) (via : Via) (low : Word32) :
    e.cut (s.given via (low.setWidth 64)) = low.setWidth 64 := by
  rw [e.cut_of_narrow h]
  cases via with
  | bar0 => rw [s.given_bar0_and_mask, setWidth_and_mask]
  | mctp | sdo | rpdo | directed => exact setWidth_and_mask low

theorem Entry.merged_w1c32_getLsbD (m old : Word64) (low : Word32) {i : Nat} (hi : i < 64) :
    ((Entry.w1c32 m).merged old (low.setWidth 64)).getLsbD i =
      (old.getLsbD i && !(m.getLsbD i && low.getLsbD i)) := by
  rw [Entry.merged_getLsbD _ _ _ hi]
  simp [Entry.w1c32, hi]

/-- Two bits of an entry are clear. -/
theorem State.fld_pair_eq_zero_iff (s : State) (idx sub n : Nat) :
    s.fld idx sub (n + 1) n = 0 ↔ (s.bit idx sub n || s.bit idx sub (n + 1)) = false := by
  rw [State.fld, fieldOf_eq_zero_iff, Bool.or_eq_false_iff, State.bit_eq_getLsbD, State.bit_eq_getLsbD]
  constructor
  · exact fun h => ⟨h n (le_refl n) (by omega), h (n + 1) (by omega) (le_refl _)⟩
  · intro h i h1 h2
    obtain rfl | rfl : i = n ∨ i = n + 1 := by omega
    · exact h.1
    · exact h.2

/-- A bit that falls unless a condition holds. -/
theorem State.bit_clearUnless (s : State) {idx sub n : Nat} (hn : n < 64) {p : Prop} [Decidable p] {b : Bool}
    (h : p ↔ b = false) :
    (if p then s.setBit idx sub n false else s).bit idx sub n = (s.bit idx sub n && b) := by
  by_cases hp : p
  · rw [if_pos hp, h.1 hp, State.bit_setBit_self _ _ _ _ hn, Bool.and_false]
  · rw [if_neg hp, Bool.eq_true_of_not_eq_false (mt h.2 hp), Bool.and_true]

theorem Entries.writeIf {C : List (Nat × Nat)} {u s : State} {idx sub : Nat} (hm : (idx, sub) ∈ C)
    (h : Entries C u s) {p : Prop} [Decidable p] (n : Nat) (b : Bool) :
    Entries C u (if p then s.setBit idx sub n b else s) := by
  split
  · exact h.write hm _
  · exact h

/-- The logs of CADEVENT fall free once both bits of their pair are clear (R187). -/
theorem State.clearCadLogs_bits (s : State) :
    s.clearCadLogs.bit 0x2310 0x0D 53 = (s.bit 0x2310 0x0D 53 && (s.bit 0x2310 0x0C 0 || s.bit 0x2310 0x0C 1))
    ∧ s.clearCadLogs.bit 0x2310 0x0E 25 = (s.bit 0x2310 0x0E 25 && (s.bit 0x2310 0x0C 2 || s.bit 0x2310 0x0C 3))
    ∧ Entries [(0x2310, 0x0D), (0x2310, 0x0E)] s s.clearCadLogs := by
  unfold State.clearCadLogs
  extract_lets w
  have hw : Entries [(0x2310, 0x0D)] s w := (Entries.refl _ s).writeIf (List.mem_singleton_self _) _ _
  have hlast : Entries [(0x2310, 0x0E)] w (if w.fld 0x2310 0x0C 3 2 = 0 then w.setBit 0x2310 0x0E 25 false else w) :=
    (Entries.refl _ w).writeIf (List.mem_singleton_self _) _ _
  refine ⟨?_, ?_, ?_⟩
  · rw [State.bit_of_reg (hlast _ _ (by decide))]
    exact s.bit_clearUnless (by decide) (s.fld_pair_eq_zero_iff _ _ 0)
  · rw [w.bit_clearUnless (by decide) (w.fld_pair_eq_zero_iff _ _ 2), State.bit_of_reg (hw _ _ (by decide)),
      State.bit_of_reg (hw 0x2310 0x0C (by decide)), State.bit_of_reg (hw 0x2310 0x0C (by decide))]
  · exact fun i j h => (hlast i j (fun k hk => h k (List.mem_cons_of_mem _ hk))).trans
      (hw i j (fun k hk => h k (List.mem_cons.2 (.inl (List.mem_singleton.1 hk)))))

/-- Clearing bits of an event entry by a write of 1: the bits left, and what is noted of the others (R13). -/
theorem w1cWord_cleared {m old : Word64} {low : Word32} {u w t : State} {idx sub : Nat}
    (hw : w.reg idx sub = (Entry.w1c32 m).merged old (low.setWidth 64)) (ho : u.reg idx sub = old)
    (ht : t = w.noteClear idx sub (low.setWidth 64 &&& m)) {i : Nat} (hm : m.getLsbD i = true) :
    t.bit idx sub i = (u.bit idx sub i && !low.getLsbD i)
      ∧ (low.getLsbD i = true → t.heldClear idx sub i = true) := by
  have hi : i < 64 := BitVec.lt_of_getLsbD hm
  subst ht
  refine ⟨?_, fun hl => State.heldClear_noteClear _ _ _ ?_⟩
  · rw [State.bit_of_reg (State.reg_of_regs (State.noteClear_regs _ _ _ _) _ _), State.bit_eq_getLsbD, hw,
      Entry.merged_w1c32_getLsbD _ _ _ hi, hm, Bool.true_and, State.bit_eq_getLsbD, ho]
  · rw [BitVec.getLsbD_and, hm, Bool.and_true, BitVec.getLsbD_setWidth, hl, Bool.and_true]
    exact decide_eq_true hi

/-- A command that writes a word to an entry of RW1C bits, which takes every value: `W` is what the entry's chapter does
beside. -/
theorem Writes.of_w1c {c : Instr} {via : Via} {idx sub : Nat} {s : State} {low : Word32} {m : Word64}
    {changed : List Part} {post : State → State → Prop} (W : State → Word64 → State)
    (hx : exec c s = .next (s.dictPut via idx sub (low.setWidth 64))) (hc : s.carries via idx sub = true)
    (he : entryOf idx sub = some (.w1c32 m)) (hm : (Entry.w1c32 m).writable = true)
    (hrange : ∀ v, inRange idx sub v = true) (h1 : 1 < idx) (hwhi : regKey idx sub ≠ regKey 0x2A01 3)
    (hcan : regKey idx sub ≠ regKey 0x3001 1)
    (hW : ∀ u nv, u.writeEffect via idx sub (low.setWidth 64) nv = (W u nv, .done))
    (hf : ∀ u nv, Frame changed u ((W u nv).noteClear idx sub (low.setWidth 64 &&& m)))
    (hp : ∀ u, post u ((W u ((Entry.w1c32 m).merged (u.reg idx sub) (low.setWidth 64))).noteClear idx sub
      (low.setWidth 64 &&& m))) :
    Writes c via idx sub s changed post := by
  have hcut : (Entry.w1c32 m).cut (s.given via (low.setWidth 64)) = low.setWidth 64 := Entry.cut_given_word rfl _ _ _
  have hfit : s.fits idx sub (.w1c32 m) (s.given via (low.setWidth 64)) = true := hrange _
  have ht := hW (s.handed via idx sub) ((Entry.w1c32 m).merged ((s.handed via idx sub).reg idx sub) (low.setWidth 64))
  rw [← hcut] at ht
  refine Writes.of_effect hx hc he hm hfit h1 hwhi hcan ht ?_ ?_
  · rw [hcut]; exact hf _ _
  · rw [hcut]; exact hp _

theorem cadeventClear_clears {s : State} {via : Via} {value : Word32} (hc : s.carries via 0x2310 0x0C = true) :
    Writes (.cadeventClear via value) via 0x2310 0x0C s [.regs, .cleared] fun u t =>
      (∀ i, i < 8 → t.bit 0x2310 0x0C i = (u.bit 0x2310 0x0C i && !value.getLsbD i))
      ∧ (∀ i, i < 8 → value.getLsbD i = true → t.heldClear 0x2310 0x0C i = true)
      ∧ t.bit 0x2310 0x0D 53 = (u.bit 0x2310 0x0D 53 && (t.bit 0x2310 0x0C 0 || t.bit 0x2310 0x0C 1))
      ∧ t.bit 0x2310 0x0E 25 = (u.bit 0x2310 0x0E 25 && (t.bit 0x2310 0x0C 2 || t.bit 0x2310 0x0C 3))
      ∧ Entries [(0x2310, 0x0C), (0x2310, 0x0D), (0x2310, 0x0E)] u t := by
  refine Writes.of_w1c (m := mask 7 0) (fun u nv => (u.setReg 0x2310 0x0C nv).clearCadLogs) rfl hc (by decide +kernel)
    (by decide) (fun v => by simp [inRange]) (by decide) (by decide) (by decide)
    (fun u nv => by simp [State.writeEffect, State.writeCaddy]) (fun u nv => ?_) (fun u => ?_)
  · exact (State.noteClear_keeps (by decide) (State.clearCadLogs_keeps (by decide)
      (State.Keeps.setReg (by decide) (State.Keeps.refl _ u) _ _ _)) _ _ _).frame
  · generalize hnv : (Entry.w1c32 (mask 7 0)).merged (u.reg 0x2310 0x0C) (value.setWidth 64) = nv
    obtain ⟨hralu, hthrash, hlogs⟩ := (u.setReg 0x2310 0x0C nv).clearCadLogs_bits
    have hw : (u.setReg 0x2310 0x0C nv).clearCadLogs.reg 0x2310 0x0C = nv :=
      (hlogs _ _ (by decide)).trans (State.reg_setReg_self _ _ _ _)
    have hbits {i : Nat} (hi : i < 8) := w1cWord_cleared (t := _) (hw.trans hnv.symm) rfl rfl
      ((mask_getLsbD i (by decide) (by decide)).trans (decide_eq_true ⟨Nat.zero_le i, Nat.le_of_lt_succ hi⟩))
    have hregs := State.reg_of_regs
      ((u.setReg 0x2310 0x0C nv).clearCadLogs.noteClear_regs 0x2310 0x0C (value.setWidth 64 &&& mask 7 0))
    refine ⟨fun i hi => (hbits hi).1, fun i hi => (hbits hi).2, ?_, ?_, ?_⟩
    · rw [State.bit_of_reg (hregs _ _), hralu, State.bit_of_reg (State.reg_setReg_ne u nv (by decide)),
        State.bit_of_reg ((hregs 0x2310 0x0C).trans (hlogs 0x2310 0x0C (by decide))),
        State.bit_of_reg ((hregs 0x2310 0x0C).trans (hlogs 0x2310 0x0C (by decide)))]
    · rw [State.bit_of_reg (hregs _ _), hthrash, State.bit_of_reg (State.reg_setReg_ne u nv (by decide)),
        State.bit_of_reg ((hregs 0x2310 0x0C).trans (hlogs 0x2310 0x0C (by decide))),
        State.bit_of_reg ((hregs 0x2310 0x0C).trans (hlogs 0x2310 0x0C (by decide)))]
    · exact fun i j h => (hregs i j).trans ((hlogs i j fun k hk => h k (List.mem_cons_of_mem _ hk)).trans
        (State.reg_setReg_ne u nv (h (0x2310, 0x0C) (by decide))))

/-- The log of INTEVENT falls free once bits 0 to 2 are clear, and 1001h follows (R218). -/
def State.clearIntLog (s : State) : State :=
  (if s.fld 0x2420 1 2 0 = 0 then s.setBit 0x2420 2 38 false else s).noteErr

theorem State.clearIntLog_bits (s : State) :
    s.clearIntLog.bit 0x2420 2 38 =
      (s.bit 0x2420 2 38 && (s.bit 0x2420 1 0 || s.bit 0x2420 1 1 || s.bit 0x2420 1 2))
    ∧ Entries [(0x2420, 2), (0x3001, 0x0B)] s s.clearIntLog := by
  unfold State.clearIntLog
  have hlog : Entries [(0x2420, 2)] s (if s.fld 0x2420 1 2 0 = 0 then s.setBit 0x2420 2 38 false else s) :=
    (Entries.refl _ s).writeIf (List.mem_singleton_self _) _ _
  have herr := State.noteErr_entries (List.mem_singleton_self _)
    (Entries.refl _ (if s.fld 0x2420 1 2 0 = 0 then s.setBit 0x2420 2 38 false else s))
  have hfree : s.fld 0x2420 1 2 0 = 0 ↔ (s.bit 0x2420 1 0 || s.bit 0x2420 1 1 || s.bit 0x2420 1 2) = false := by
    simp only [State.fld, fieldOf_eq_zero_iff, Bool.or_eq_false_iff, State.bit_eq_getLsbD]
    constructor
    · exact fun h => ⟨⟨h 0 (by decide) (by decide), h 1 (by decide) (by decide)⟩, h 2 (by decide) (by decide)⟩
    · rintro ⟨⟨h0, h1⟩, h2⟩ i - hi
      obtain rfl | rfl | rfl : i = 0 ∨ i = 1 ∨ i = 2 := by omega
      · exact h0
      · exact h1
      · exact h2
  refine ⟨?_, fun i j h => ?_⟩
  · rw [State.bit_of_reg (herr _ _ (by decide))]
    exact s.bit_clearUnless (by decide) hfree
  · exact (herr i j fun k hk => h k (List.mem_cons_of_mem _ hk)).trans
      (hlog i j fun k hk => h k (List.mem_cons.2 (.inl (List.mem_singleton.1 hk))))

theorem inteventClear_clears {s : State} {via : Via} {value : Word32} (hc : s.carries via 0x2420 1 = true) :
    Writes (.inteventClear via value) via 0x2420 1 s [.regs, .can, .cleared] fun u t =>
      (∀ i, i < 7 → t.bit 0x2420 1 i = (u.bit 0x2420 1 i && !value.getLsbD i))
      ∧ (∀ i, i < 7 → value.getLsbD i = true → t.heldClear 0x2420 1 i = true)
      ∧ t.bit 0x2420 2 38 = (u.bit 0x2420 2 38 && (t.bit 0x2420 1 0 || t.bit 0x2420 1 1 || t.bit 0x2420 1 2))
      ∧ Entries [(0x2420, 1), (0x2420, 2), (0x3001, 0x0B)] u t := by
  refine Writes.of_w1c (m := mask 6 0) (fun u nv => (u.setReg 0x2420 1 nv).clearIntLog) rfl hc (by decide +kernel)
    (by decide) (fun v => by simp [inRange]) (by decide) (by decide) (by decide)
    (fun u nv => by simp [State.writeEffect, State.writeCaddy, State.clearIntLog]) (fun u nv => ?_) (fun u => ?_)
  · have hset : State.Keeps [.regs, .can, .cleared] u (u.setReg 0x2420 1 nv) :=
      State.Keeps.setReg (by decide) (State.Keeps.refl _ u) _ _ _
    exact (State.noteClear_keeps (by decide) (State.noteErr_keeps (by decide)
      (State.Keeps.ite (State.setBit_keeps (by decide) hset _ _ _ _) hset)) _ _ _).frame
  · generalize hnv : (Entry.w1c32 (mask 6 0)).merged (u.reg 0x2420 1) (value.setWidth 64) = nv
    obtain ⟨hlog, hrest⟩ := (u.setReg 0x2420 1 nv).clearIntLog_bits
    have hw : (u.setReg 0x2420 1 nv).clearIntLog.reg 0x2420 1 = nv :=
      (hrest _ _ (by decide)).trans (State.reg_setReg_self _ _ _ _)
    have hbits {i : Nat} (hi : i < 7) := w1cWord_cleared (t := _) (hw.trans hnv.symm) rfl rfl
      ((mask_getLsbD i (by decide) (by decide)).trans (decide_eq_true ⟨Nat.zero_le i, Nat.le_of_lt_succ hi⟩))
    have hregs := State.reg_of_regs
      ((u.setReg 0x2420 1 nv).clearIntLog.noteClear_regs 0x2420 1 (value.setWidth 64 &&& mask 6 0))
    refine ⟨fun i hi => (hbits hi).1, fun i hi => (hbits hi).2, ?_, ?_⟩
    · have hev := State.bit_of_reg ((hregs 0x2420 1).trans (hrest 0x2420 1 (by decide)))
      rw [State.bit_of_reg (hregs _ _), hlog, State.bit_of_reg (State.reg_setReg_ne u nv (by decide)), hev, hev, hev]
    · exact fun i j h => (hregs i j).trans ((hrest i j fun k hk => h k (List.mem_cons_of_mem _ hk)).trans
        (State.reg_setReg_ne u nv (h (0x2420, 1) (by decide))))

/-! ### The log of corrected errors (R216) -/

/-- An entry of a log of corrected errors: VALID alone can be written. -/
def celogEntry : Entry := ⟨true, 6, 0, mask 43 43, 0, 0, 0, 0⟩

theorem entryOf_celog (log : Fin 10) (i : Fin 32) (h : log.val < 2 ∨ i.val < 16) :
    entryOf (celogIdx log.val) (i.val + 1) = some celogEntry := by
  revert log i
  decide +kernel

theorem celogIdx_bounds (log : Fin 10) : 0x2430 ≤ celogIdx log.val ∧ celogIdx log.val ≤ 0x243F := by
  revert log
  decide

theorem State.writeEffect_celog (s : State) (via : Via) {idx : Nat} (sub : Nat) (v nv : Word64) (h1 : 0x2430 ≤ idx)
    (h2 : idx ≤ 0x243F) (hv : v.getLsbD 43 = true) : s.writeEffect via idx sub v nv = (s.setReg idx sub 0, .done) := by
  have ne {a : Nat} (h : a < 0x2430) : idx ≠ a := by omega
  simp [State.writeEffect, State.writeCaddy, h1, h2, hv, ne, show ¬ idx < 0x2300 by omega, show idx < 0x2500 by omega]

theorem inRange_celog {idx : Nat} (sub : Nat) (v : Word64) (h1 : 0x2430 ≤ idx) (h2 : idx ≤ 0x243F) :
    inRange idx sub v = true := by
  unfold inRange
  simp only
  repeat rw [if_neg (by omega)]

theorem celogClear_clears {s : State} {via : Via} {log : Fin 10} {i : Fin 32} (hi : log.val < 2 ∨ i.val < 16)
    (hc : s.carries via (celogIdx log.val) (i.val + 1) = true)
    (hv : (s.given via (packWord [(1, 43)])).getLsbD 43 = true) :
    Writes (.celogClear via log i) via (celogIdx log.val) (i.val + 1) s [.regs, .cleared] fun u t =>
      t.reg (celogIdx log.val) (i.val + 1) = 0 ∧ Entries [(celogIdx log.val, i.val + 1)] u t := by
  obtain ⟨h1, h2⟩ := celogIdx_bounds log
  refine Writes.of_effect rfl hc (entryOf_celog log i hi) (by decide) (inRange_celog _ _ h1 h2) (by omega)
    (regKey_ne_of_idx (by omega) (by decide) (by omega)) (regKey_ne_of_idx (by omega) (by decide) (by omega))
    (State.writeEffect_celog _ _ _ _ _ h1 h2 hv) ?_ ⟨?_, ?_⟩
  · exact (State.noteClear_keeps (by decide) (State.Keeps.setReg (by decide) (State.Keeps.refl _ _) _ _ _) _ _ _).frame
  · rw [State.reg_of_regs (State.noteClear_regs _ _ _ _), State.reg_setReg_self]
  · exact (Entries.setReg _ _ _ _).of_regs (State.noteClear_regs _ _ _ _)

end Sys2Proof.Machine
end

section
/-! SUPPORT. The repair of a row, its store, and the write-back of a corrected word. -/

namespace Sys2Proof.Machine

/-! ### The repair of a row (R220, R221) -/

theorem State.foldl_preserves {α β : Type} (g : State → β) {f : State → α → State} (h : ∀ s a, g (f s a) = g s)
    (l : List α) (s : State) : g (l.foldl f s) = g s := by
  induction l generalizing s with
  | nil => rfl
  | cons a l ih => exact (ih _).trans (h s a)

/-- A write-back queues writes and cleans the line: HBM's bytes and, but for the lines, the caddies are as they were. -/
theorem State.writeBack_frame (s : State) (key : Nat) (nc : Fin 7) : (s.writeBack key nc).hbm.mem = s.hbm.mem
    ∧ ∃ ls, (s.writeBack key nc).caddy = { s.caddy with lines := ls } := by
  unfold State.writeBack
  extract_lets l cad w
  have hw : w.caddy = s.caddy ∧ w.hbm.mem = s.hbm.mem := by
    have h := State.foldl_preserves (fun t : State => (t.caddy, t.hbm.mem)) (f := fun s j =>
      if l.dirty.getLsbD j then
        ((s.hbmWrite nc (4 * l.tag.toNat + j) (l.sector j) (BitVec.allOnes 32) (l.poison.getLsbD j)).count
          (0x3300 + cad) 7).count (0x3420 + nc.val) 5 32
      else s) (fun t j => by split <;> rfl) (List.range 4) s
    exact Prod.ext_iff.1 h
  exact ⟨hw.2, _, by rw [State.setLine, hw.1]⟩

theorem State.repairRow_frame (s : State) (cad sl set way : Nat) :
    (s.repairRow cad sl set way).caddy.repairs = s.caddy.repairs ++ [(cad, sl, set, way)]
    ∧ (s.repairRow cad sl set way).caddy.unstored = s.caddy.unstored ++ [(cad, sl, set, way)]
    ∧ (s.repairRow cad sl set way).line (wayKey cad sl set way) = Line.empty
    ∧ (s.repairRow cad sl set way).hbm.mem = s.hbm.mem := by
  obtain ⟨hmem, ls, hcaddy⟩ := s.writeBack_frame (wayKey cad sl set way) 6
  unfold State.repairRow
  refine ⟨?_, ?_, ?_, hmem⟩
  · simp only [State.setLine, hcaddy]
  · simp only [State.setLine, hcaddy]
  · simp only [State.line, State.setLine, Tbl.get_put_self]

/-- An event of INTEVENT sets its bit, where no write of this clock has cleared it. -/
theorem State.intEvent_bit {s : State} {n : Nat} (hn : n < 64) (h : s.heldClear 0x2420 1 n = false) :
    (s.intEvent n).bit 0x2420 1 n = true := by
  have hsnap := State.snapFault_sameBelow (le_refl _) (SameBelow.refl _ (s.event 0x2420 1 n))
  exact (State.bit_of_reg (hsnap 0x2420 1 (by decide)) n).trans (State.bit_event_self (by decide) hn h)

/-- An event of INTEVENT leaves the logs of corrected errors. -/
theorem State.intEvent_reg (s : State) (n : Nat) {idx sub : Nat} (h1 : 0x2430 ≤ idx) (h2 : idx ≤ 0x243F)
    (hsub : sub < 256) : (s.intEvent n).reg idx sub = s.reg idx sub := by
  have hsnap := State.snapFault_sameBelow (le_refl _) (SameBelow.refl _ (s.event 0x2420 1 n))
  have hevent : Entries [(0x2420, 1), (0x3001, 0x0B)] s (s.event 0x2420 1 n) :=
    State.event_entries (by decide) (by decide) (Entries.refl _ s) n
  have hne (a b : Nat) (hb : b < 256) (ha : idx ≠ a) : regKey idx sub ≠ regKey a b := regKey_ne_of_idx hsub hb ha
  refine (hsnap idx sub (by unfold regKey; omega)).trans (hevent idx sub fun k hk => ?_)
  simp only [List.mem_cons, List.not_mem_nil, or_false] at hk
  obtain rfl | rfl := hk
  · exact hne _ _ (by decide) (by omega)
  · exact hne _ _ (by decide) (by omega)

section
variable {s : State} {cad : Cad} {i : Fin 32} {loc sl set way : Nat}

theorem State.softRepair_eq (hdue : s.rowDue cad.val i.val = true)
    (hloc : loc = ceLoc (s.reg (0x2430 + cad.val) (i.val + 1))) (hsl : sl = loc % 256)
    (hset : set = loc / 2 ^ 8 % 2 ^ 11) (hway : way = loc / 2 ^ 19 % 32) :
    s.softRepair cad.val i.val =
      if softRows ≤ (s.repairsOf cad.val sl).length then s.intEvent 4
      else if s.bit 0x2450 1 0 then
        ((s.repairRow cad.val sl set way).setReg (0x2430 + cad.val) (i.val + 1) 0).intEvent 3
      else s := by
  subst hsl hset hway hloc
  simp only [State.softRepair, hdue, Bool.not_true, Bool.false_eq_true, if_false]

theorem softRepair_repairs (hdue : s.rowDue cad.val i.val = true)
    (hloc : loc = ceLoc (s.reg (0x2430 + cad.val) (i.val + 1))) (hsl : sl = loc % 256)
    (hset : set = loc / 2 ^ 8 % 2 ^ 11) (hway : way = loc / 2 ^ 19 % 32)
    (hfree : (s.repairsOf cad.val sl).length < 4) (hen : s.bit 0x2450 1 0 = true) :
    Runs (.softRepair cad i) s [.regs, .caddy, .hbm, .reqs, .link, .can, .snap, .out] fun t =>
      t.caddy.repairs = s.caddy.repairs ++ [(cad.val, sl, set, way)]
      ∧ t.caddy.unstored = s.caddy.unstored ++ [(cad.val, sl, set, way)]
      ∧ t.line (wayKey cad.val sl set way) = Line.empty ∧ t.reg (0x2430 + cad.val) (i.val + 1) = 0
      ∧ (s.heldClear 0x2420 1 3 = false → t.bit 0x2420 1 3 = true) ∧ t.hbm.mem = s.hbm.mem := by
  have heq := State.softRepair_eq hdue hloc hsl hset hway
  rw [if_neg (by unfold softRows; omega), if_pos hen] at heq
  have hframe := (State.softRepair_keeps (List.Subset.refl _) (State.Keeps.refl _ s) cad.val i.val).frame
  rw [heq] at hframe
  obtain ⟨hrepairs, hunstored, hline, hmem⟩ := s.repairRow_frame cad.val sl set way
  have hrow : State.Keeps [.regs, .caddy, .hbm, .reqs] s (s.repairRow cad.val sl set way) :=
    State.repairRow_keeps (List.Subset.refl _) (State.Keeps.refl _ s) _ _ _ _
  generalize s.repairRow cad.val sl set way = w at *
  have hint : State.Keeps [.regs, .link, .can, .snap, .out] (w.setReg (0x2430 + cad.val) (i.val + 1) 0)
      ((w.setReg (0x2430 + cad.val) (i.val + 1) 0).intEvent 3) :=
    State.intEvent_keeps (List.Subset.refl _) (State.Keeps.refl _ _) 3
  have hcaddy : ((w.setReg (0x2430 + cad.val) (i.val + 1) 0).intEvent 3).caddy = w.caddy :=
    hint.parts .caddy (by decide)
  have hhbm : ((w.setReg (0x2430 + cad.val) (i.val + 1) 0).intEvent 3).hbm = w.hbm := hint.parts .hbm (by decide)
  refine ⟨_, congrArg Host.Outcome.next heq, hframe, ?_, ?_, ?_, ?_, fun hh => ?_, ?_⟩
  · rw [hcaddy, hrepairs]
  · rw [hcaddy, hunstored]
  · rw [State.line, hcaddy]
    exact hline
  · rw [State.intEvent_reg _ _ (by omega) (by omega) (by omega), State.reg_setReg_self]
  · refine State.intEvent_bit (by decide) ?_
    rw [State.heldClear_setReg,
      State.heldClear_congr (hrow.parts .cleared (by decide)) (hrow.parts .time (by decide)), hh]
  · rw [hhbm, hmem]

theorem softRepair_disabled (hdue : s.rowDue cad.val i.val = true)
    (hloc : loc = ceLoc (s.reg (0x2430 + cad.val) (i.val + 1))) (hsl : sl = loc % 256)
    (hfree : (s.repairsOf cad.val sl).length < 4) (hen : s.bit 0x2450 1 0 = false) :
    exec (.softRepair cad i) s = .next s := by
  have heq := State.softRepair_eq hdue hloc hsl rfl rfl
  rw [if_neg (by unfold softRows; omega), hen, if_neg Bool.false_ne_true] at heq
  exact congrArg Host.Outcome.next heq

theorem softRepair_full (hdue : s.rowDue cad.val i.val = true)
    (hloc : loc = ceLoc (s.reg (0x2430 + cad.val) (i.val + 1))) (hsl : sl = loc % 256)
    (hfull : 4 ≤ (s.repairsOf cad.val sl).length) :
    Runs (.softRepair cad i) s [.regs, .link, .can, .snap, .out] fun t =>
      s.heldClear 0x2420 1 4 = false → t.bit 0x2420 1 4 = true := by
  have heq := State.softRepair_eq hdue hloc hsl rfl rfl
  rw [if_pos (show softRows ≤ _ from hfull)] at heq
  exact ⟨_, congrArg Host.Outcome.next heq,
    (State.intEvent_keeps (List.Subset.refl _) (State.Keeps.refl _ s) 4).frame, State.intEvent_bit (by decide)⟩

end

theorem softRepairStore_stores {s : State} (h : s.flash.claim = none) :
    Runs .softRepairStore s [.flash, .caddy] fun t =>
      t.flash = { s.flash with cfg := { s.flash.cfg with repairs := s.flash.cfg.repairs ++ s.caddy.unstored } }
      ∧ t.caddy = { s.caddy with unstored := [] } := by
  refine ⟨s.storeRepairs, rfl, (State.storeRepairs_keeps (by decide) (State.Keeps.refl _ s)).frame, ?_, ?_⟩ <;>
    simp only [State.storeRepairs, State.when, h, Option.isNone_none, if_true]

theorem sramCorrectedWriteback_counts (s : State) :
    Runs .sramCorrectedWriteback s [.caddy] fun t => t.caddy = { s.caddy with fixups := s.caddy.fixups - 1 } :=
  ⟨s.fixup, rfl, (State.fixup_keeps (List.Subset.refl _) (State.Keeps.refl _ s)).frame, rfl⟩

/-- Settles O21: each clause is the effect of one command on the logs, the counts or the row it names. -/
theorem logsClearAndRowsAreRepaired : Obligations.LogsClearAndRowsAreRepaired :=
  ⟨⟨fun _ => thrashWindowEnd_restarts, fun _ _ _ => cadeventClear_clears, fun _ _ _ => inteventClear_clears,
      fun _ _ _ _ => celogClear_clears⟩,
    fun _ _ _ _ => State.event_of_heldClear,
    fun _ _ _ _ _ _ _ hdue hloc hsl hset hway => ⟨softRepair_repairs hdue hloc hsl hset hway,
      softRepair_disabled hdue hloc hsl, softRepair_full hdue hloc hsl⟩,
    fun _ => softRepairStore_stores, sramCorrectedWriteback_counts⟩

end Sys2Proof.Machine
end

section
/-! SUPPORT. What the kill of a context changes in the dictionary: no entry below 2300h. -/

namespace Sys2Proof.Machine

/-! ### What leaves the entries below 2300h alone -/

namespace SameBelow

variable {n : Nat} {u s t : State}

/-- A step that leaves the whole dictionary alone. -/
theorem step {C : List Part} (h : SameBelow n u s) (hk : State.Keeps C s t) (hr : Part.regs ∉ C) : SameBelow n u t :=
  h.of_regs (hk.parts .regs hr)

/-- A step that changes entries from the key on alone. -/
theorem entries {C : List (Nat × Nat)} (h : SameBelow n u s) (he : Entries C s t)
    (hC : ∀ k ∈ C, n ≤ regKey k.1 k.2) : SameBelow n u t :=
  fun i j hn => (he i j fun k hk => by have := hC k hk; omega).trans (h i j hn)

end SameBelow

section
variable {n : Nat} (hn : n ≤ regKey 0x2300 0) {u s : State} (h : SameBelow n u s)
include hn h

theorem State.event_sameBelow {idx : Nat} (hi : 0x2300 ≤ idx) (sub i : Nat) : SameBelow n u (s.event idx sub i) := by
  refine h.entries (C := [(idx, sub), (0x3001, 0x0B)])
    (State.event_entries (List.mem_cons_self ..) (List.mem_cons_of_mem _ (List.mem_singleton_self _)) (Entries.refl _ s) i)
    fun k hk => ?_
  simp only [List.mem_cons, List.not_mem_nil, or_false] at hk
  obtain rfl | rfl := hk
  · exact hn.trans (regKey_le hi _)
  · exact hn.trans (regKey_le (by decide) _)

theorem SameBelow.countAt {idx : Nat} (hi : 0x2300 ≤ idx) (sub i : Nat) : SameBelow n u (s.count idx sub i) :=
  h.count (hn.trans (regKey_le hi _)) _

theorem SameBelow.writeAt {idx : Nat} (hi : 0x2300 ≤ idx) (sub : Nat) (v : Word64) : SameBelow n u (s.setReg idx sub v) :=
  h.write (hn.trans (regKey_le hi _)) _

theorem SameBelow.fldAt {idx : Nat} (hi : 0x2300 ≤ idx) (sub a b v : Nat) : SameBelow n u (s.setFld idx sub a b v) :=
  h.writeFld (hn.trans (regKey_le hi _)) _ _ _

/-! #### Packets and requests -/

theorem State.countDiscard_sameBelow (i m : Nat) : SameBelow n u (s.countDiscard i m) := by
  unfold State.countDiscard
  split
  · exact h
  · exact h.countAt hn (by omega) _ _

theorem State.enqueue_sameBelow (i : Nat) (q : EgItem) : SameBelow n u (s.enqueue i q) := by
  unfold State.enqueue
  split
  · exact h.of_regs rfl
  · exact State.countDiscard_sameBelow hn h _ _

theorem State.egressPacket_sameBelow (f : MFrame) (a : Option Nat) (o : Nat) (b : Bool) :
    SameBelow n u (s.egressPacket f a o b) := by
  unfold State.egressPacket
  extract_lets
  split
  · exact State.countDiscard_sameBelow hn h _ _
  · refine State.enqueue_sameBelow hn ?_ _ _
    exact SameBelow.ite (h.countAt hn (by omega) _ _) h

theorem State.noRoute_sameBelow (a : Option Nat) : SameBelow n u (s.noRoute a) := by
  unfold State.noRoute
  refine State.event_sameBelow hn ?_ (by decide) _ _
  split
  · exact h.countAt hn (by omega) _ _
  · exact h

theorem State.forward_sameBelow (f : MFrame) (a : Option Nat) (b : Bool) : SameBelow n u (s.forward f a b) := by
  unfold State.forward
  split
  · exact h.of_regs rfl
  · exact State.noRoute_sameBelow hn h _
  · split
    · exact SameBelow.ite (h.countAt hn (by omega) _ _) (State.egressPacket_sameBelow hn h _ _ _ _)
    · exact SameBelow.ite h (State.egressPacket_sameBelow hn h _ _ _ _)

omit h in
theorem State.pump_sameBelow (fuel node cls : Nat) {s : State} (h : SameBelow n u s) :
    SameBelow n u (State.pump fuel node cls s) := by
  induction fuel generalizing s with
  | zero => exact h
  | succ fuel ih =>
    unfold State.pump
    extract_lets c
    split
    · exact h
    · refine SameBelow.ite h ?_
      extract_lets
      refine ih (State.forward_sameBelow hn ?_ _ _ _)
      refine SameBelow.countAt hn ?_ (by decide) _ _
      exact h.of_regs rfl

theorem State.send_sameBelow (node : Nat) (f : MFrame) : SameBelow n u (s.send node f) := by
  unfold State.send
  refine SameBelow.ite h ?_
  extract_lets
  refine State.pump_sameBelow hn _ _ _ ?_
  exact h.of_regs rfl

theorem State.launch_sameBelow (r : Req) : SameBelow n u (s.launch r) := by
  unfold State.launch
  split
  · refine SameBelow.ite (h.of_regs rfl) ?_
    dsimp only
    split
    · exact h.step (State.hostAsk_keeps (List.Subset.refl _) (State.Keeps.refl _ s) r) (by decide)
    · exact h.of_regs rfl
    · exact h.of_regs rfl
  · exact SameBelow.ite (h.of_regs rfl) (State.send_sameBelow hn h _ _)
  · exact SameBelow.ite (h.of_regs rfl) (h.of_regs rfl)
  · exact h

theorem State.request_sameBelow (r : Req) : SameBelow n u (s.request r) := by
  unfold State.request
  extract_lets kind route r' s'
  have hs : SameBelow n u s' := h.of_regs rfl
  exact SameBelow.ite (State.launch_sameBelow hn hs _) hs

/-! #### Completion records -/

theorem State.seqWrite_sameBelow (pa : Nat) (bs : List Byte) (p : Purpose) (c : Option Ctx) :
    SameBelow n u (s.seqWrite pa bs p c).1 := by
  unfold State.seqWrite
  split
  · exact State.request_sameBelow hn h _
  · exact SameBelow.ite h (h.of_regs rfl)
  · exact h

omit hn in
theorem SameBelow.setCtx (c : Nat) (x : CtxRun) : SameBelow n u (s.setCtx c x) := h.of_regs rfl

omit hn in
theorem State.recWritten_sameBelow (c : Nat) (irq : Bool) : SameBelow n u (s.recWritten c irq) :=
  h.step (State.recWritten_keeps (List.Subset.refl _) (State.Keeps.refl _ s) c irq) (by decide)

theorem State.countRec_sameBelow (r : Rec) : SameBelow n u (s.countRec r) := by
  unfold State.countRec
  extract_lets s1 s2
  have h1 : SameBelow n u s1 := h.countAt hn (by decide) _ _
  have h2 : SameBelow n u s2 := SameBelow.ite (h1.countAt hn (by decide) _ _) h1
  exact SameBelow.ite (h2.countAt hn (by decide) _ _) h2

theorem State.writeRec_sameBelow (c : Nat) (r : Rec) : SameBelow n u (s.writeRec c r) := by
  unfold State.writeRec
  extract_lets x size phase pa s1
  have h1 : SameBelow n u s1 := State.countRec_sameBelow hn (h.setCtx _ _) r
  have hw := State.seqWrite_sameBelow hn h1 pa (wordBytes (r.words phase)) (.record (ctxFin c) r.irq) (some (ctxFin c))
  split <;> rename_i heq <;> rw [heq] at hw
  · exact hw
  · exact State.recWritten_sameBelow hw _ _
  · exact State.recWritten_sameBelow (State.event_sameBelow hn hw (by omega) _ _) _ _

omit h in
theorem State.drainHeld_sameBelow (fuel c : Nat) {s : State} (h : SameBelow n u s) :
    SameBelow n u (State.drainHeld fuel c s) := by
  induction fuel generalizing s with
  | zero => exact h
  | succ fuel ih =>
    unfold State.drainHeld
    extract_lets x
    split
    · exact h
    · exact SameBelow.ite (ih (State.writeRec_sameBelow hn (h.setCtx _ _) _ _)) h

theorem State.issueRec_sameBelow (o : Owed) : SameBelow n u (s.issueRec o) :=
  State.drainHeld_sameBelow hn _ _ (h.setCtx _ _)

omit hn in
theorem State.removeJob_sameBelow (j : Job) : SameBelow n u (s.removeJob j) :=
  h.step (State.removeJob_keeps (List.Subset.refl _) (State.Keeps.refl _ s) j) (by decide)

theorem State.report_sameBelow (j : Job) (e : JobEnd) (a b c : Nat) : SameBelow n u (s.report j e a b c) := by
  unfold State.report
  extract_lets s1 o
  have h1 : SameBelow n u s1 := State.removeJob_sameBelow h j
  exact SameBelow.ite (h1.of_regs rfl) (State.issueRec_sameBelow hn h1 _)

theorem State.endJobs_sameBelow (c : Nat) (b : Blame) (records : Bool) : SameBelow n u (s.endJobs c b records) := by
  unfold State.endJobs
  refine SameBelow.foldl (fun s j h => ?_) _ h
  exact SameBelow.ite (State.report_sameBelow hn h _ _ _ _ _) (State.removeJob_sameBelow h j)

/-! #### The kill of a context -/

theorem State.releaseTokens_sameBelow (base len owner : Nat) : SameBelow n u (s.releaseTokens base len owner) := by
  unfold State.releaseTokens
  refine SameBelow.foldl (fun s c h => ?_) _ h
  exact (h.writeAt hn (by decide) _ _).fldAt hn (by decide) _ _ _ _

theorem State.clearSlot_sameBelow (i : Nat) : SameBelow n u (s.clearSlot i) := by
  unfold State.clearSlot
  split
  · exact h
  · exact (State.releaseTokens_sameBelow hn h _ _ _).writeAt hn (by decide) _ _

theorem State.notePinBusy_sameBelow : SameBelow n u s.notePinBusy := by
  have hbit (b : Bool) : SameBelow n u (s.setBit 0x2311 4 4 b) := h.fldAt hn (by decide) _ _ _ _
  unfold State.notePinBusy
  exact SameBelow.ite (hbit _) ((hbit _).of_regs rfl)

theorem State.killPins_sameBelow (c : Nat) : SameBelow n u (s.killPins c) := by
  unfold State.killPins
  extract_lets mine s1 gone old s2 s3 held s4
  have h1 : SameBelow n u s1 := by
    unfold s1
    split
    · exact SameBelow.ite (SameBelow.fldAt hn (h.of_regs rfl) (by decide) _ _ _ _) h
    · exact h
  have h2 : SameBelow n u s2 := SameBelow.of_regs (s := s1) rfl h1
  have h3 : SameBelow n u s3 := SameBelow.foldl (fun s p h => State.clearSlot_sameBelow hn h _) _ h2
  have h4 : SameBelow n u s4 := SameBelow.of_regs (s := s3) rfl h3
  exact State.notePinBusy_sameBelow hn h4

theorem State.killWork_sameBelow (c : Nat) (b : Blame) (records : Bool) : SameBelow n u (s.killWork c b records) := by
  unfold State.killWork
  extract_lets cls s1 s2 s3 s4 s5 s6 old s8 s9
  have h1 : SameBelow n u s1 := h.step (State.killReqs_keeps (List.Subset.refl _) (State.Keeps.refl _ s) c) (by decide)
  have h2 : SameBelow n u s2 :=
    h1.step (State.dropMq_keeps (List.Subset.refl _) (State.Keeps.refl _ s1) cls) (by decide)
  have h3 : SameBelow n u s3 := State.endJobs_sameBelow hn h2 _ _ _
  have h4 : SameBelow n u s4 := State.killPins_sameBelow hn h3 _
  have h5 : SameBelow n u s5 :=
    h4.step (State.seedLanes_keeps (List.Subset.refl _) (State.Keeps.refl _ s4) c) (by decide)
  have hring (t : State) (r : Nat) (ht : SameBelow n u t) : SameBelow n u
      (if (t.ring c r).entBusy then t.setRing c r { t.ring c r with killed := true } else t) :=
    SameBelow.ite (ht.step (State.setRing_keeps (List.Subset.refl _) (State.Keeps.refl _ t) c r _) (by decide)) ht
  clear_value s5
  have h6 : SameBelow n u s6 := SameBelow.foldl hring _ h5
  clear_value s6
  have h8 : SameBelow n u s8 := h6.of_regs rfl
  clear_value s8
  have h9 : SameBelow n u s9 := h8.of_regs rfl
  exact h9.setCtx _ _

theorem State.killContext_sameBelow (c cause : Nat) (b : Blame) : SameBelow n u (s.killContext c cause b) :=
  SameBelow.fldAt hn (SameBelow.fldAt hn (State.killWork_sameBelow hn
    (State.snapFault_sameBelow (hn.trans (by decide)) h) _ _ _) (by decide) _ _ _ _) (by decide) _ _ _ _

theorem State.tgKill_sameBelow (f : TgNote) : SameBelow n u (s.tgKill f) := by
  unfold State.tgKill
  split
  · exact h
  · refine SameBelow.ite h ?_
    extract_lets s1 s2
    have h1 : SameBelow n u s1 := h.writeAt hn (by decide) _ _
    exact State.killContext_sameBelow hn
      (SameBelow.ite h (State.event_sameBelow hn (h1.writeAt hn (by decide) _ _) (by decide) _ _)) _ _ _

theorem State.killFaulted_sameBelow : SameBelow n u s.killFaulted := by
  unfold State.killFaulted
  exact SameBelow.foldl (fun s f h => State.tgKill_sameBelow hn h f) _ (h.of_regs rfl)

end

end Sys2Proof.Machine
end

section
/-! SUPPORT. One clock on an empty queue. -/

namespace Sys2Proof.Machine

/-! ### One clock (R43) -/

/-- The kills that the clock's faults bring leave the clocks' pace alone: the step, the power of the leaves, the
clock at which the core runs. -/
theorem State.coreStopped_killFaulted (s : State) : s.killFaulted.coreStopped = s.coreStopped := by
  have hstep : s.killFaulted.reg 0x2100 3 = s.reg 0x2100 3 :=
    State.killFaulted_sameBelow (le_refl _) (SameBelow.refl _ s) 0x2100 3 (by decide)
  have hbring : s.killFaulted.bring = s.bring :=
    (State.killFaulted_keeps (List.Subset.refl _) (State.Keeps.refl _ s)).parts .bring (by decide)
  simp only [State.coreStopped, State.fld, hstep, hbring]

theorem State.tickPeriod_killFaulted (s : State) : s.killFaulted.tickPeriod = s.tickPeriod := by
  have hpower : s.killFaulted.power = s.power :=
    (State.killFaulted_keeps (List.Subset.refl _) (State.Keeps.refl _ s)).parts .power (by decide)
  simp only [State.tickPeriod, s.coreStopped_killFaulted, hpower]

theorem State.clock_time (s : State) : s.clock.time.now = s.time.now + s.tickPeriod
    ∧ s.clock.time.core = s.time.core + if s.coreStopped then 0 else 1 := by
  have hcore : (if s.coreStopped then s.time.core else s.time.core + 1) =
      s.time.core + if s.coreStopped then 0 else 1 := by split <;> rfl
  unfold State.clock
  dsimp only
  rw [hcore]
  split <;> exact ⟨rfl, rfl⟩

/-- What passes in a clock beside its time. -/
def State.passed (t s : State) : State :=
  ((((t.clusterClocks.mqClocks (!s.coreStopped) (t.time.spout - s.time.spout)).collClocks.retrain).sendTpdo1).ageClock
    s.tickPeriod)

theorem State.passed_keeps (t s : State) : State.Keeps [.regs, .clusters, .mcasts, .caddy, .reqs, .seq, .fabric, .link,
    .can, .age, .snap, .out] t (t.passed s) :=
  State.ageClock_keeps (by decide) (State.sendTpdo1_keeps (by decide) (State.retrain_keeps (by decide)
    (State.collClocks_keeps (by decide) (State.mqClocks_keeps (by decide) (State.clusterClocks_keeps (by decide)
      (State.Keeps.refl _ t)) _ _)))) _

theorem State.tick_eq {s : State} (h : s.dev ≠ devOff) : s.tick = s.killFaulted.clock.passed s := if_neg h

theorem State.tick_off {s : State} (h : s.dev = devOff) : s.tick = s := if_pos h

theorem State.tick_time {s : State} (h : s.dev ≠ devOff) : s.tick.time.now = s.time.now + s.tickPeriod
    ∧ s.tick.time.core = s.time.core + if s.coreStopped then 0 else 1 := by
  have hpassed : (s.killFaulted.clock.passed s).time = s.killFaulted.clock.time :=
    (State.passed_keeps s.killFaulted.clock s).parts .time (by decide)
  have hkilled : s.killFaulted.time = s.time :=
    (State.killFaulted_keeps (List.Subset.refl _) (State.Keeps.refl _ s)).parts .time (by decide)
  obtain ⟨hnow, hcore⟩ := s.killFaulted.clock_time
  rw [State.tick_eq h, hpassed, hnow, hcore, hkilled, s.tickPeriod_killFaulted, s.coreStopped_killFaulted]
  exact ⟨rfl, rfl⟩

/-- Settles O2: the kills that a clock begins with touch no entry below 2300h, so the clock passes at the pace of the
state it began in; nothing after it touches the time. -/
theorem idleStepIsOneClock : Obligations.IdleStepIsOneClock := by
  intro s hs
  have keeps := State.tick_keeps (List.Subset.refl _) (State.Keeps.refl _ s)
  have hlatch : s.tick.latchP = s.latchP := (keeps.parts .latches (by decide)).1
  have hflash : s.tick.flash = s.flash := keeps.parts .flash (by decide)
  refine ⟨s.tick, ?_, keeps.queue.trans hs, hlatch, hflash, State.tick_off, State.tick_time⟩
  rw [step, hs]

end Sys2Proof.Machine
end

section
/-! SUPPORT. The placement of regions and the dregs guard's entry. -/

namespace Sys2Proof.Machine

/-! ### A word of REGPLACE (R154) -/

theorem fieldOf_congr {v w : Word64} {hi lo : Nat} (h : ∀ i, lo ≤ i → i ≤ hi → v.getLsbD i = w.getLsbD i) :
    fieldOf v hi lo = fieldOf w hi lo := by
  apply Nat.eq_of_testBit_eq
  intro i
  rw [fieldOf_testBit, fieldOf_testBit]
  by_cases hi' : i < hi + 1 - lo
  · rw [h _ (by omega) (by omega)]
  · simp [hi']

/-- A word of REGPLACE. -/
def regplaceEntry : Entry := .pers32 (mask 31 0) 0

theorem entryOf_regplace (k : Fin 24) : entryOf 0x2320 (k.val + 1) = some regplaceEntry := by
  revert k
  decide +kernel

/-- A word of REGPLACE holds in its lower half what is written. -/
theorem Entry.merged_regplace_getLsbD (old v : Word64) {i : Nat} (hi : i < 32) :
    (regplaceEntry.merged old v).getLsbD i = v.getLsbD i := by
  rw [Entry.merged_getLsbD _ _ _ (by omega)]
  simp [regplaceEntry, Entry.pers32, mask_getLsbD i (hi := 31) (lo := 0) (by decide) (by decide), Nat.le_of_lt_succ hi]

/-- The placements that two values give the regions of a word are the same. -/
def SamePlaces (v w : Word64) : Prop := ∀ j, j < 16 → fieldOf v (2 * j + 1) (2 * j) = fieldOf w (2 * j + 1) (2 * j)

theorem samePlaces_merged (old v : Word64) : SamePlaces (regplaceEntry.merged old v) v :=
  fun _ hj => fieldOf_congr fun _ _ hi => Entry.merged_regplace_getLsbD old v (by omega)

theorem State.changedRegions_congr (s : State) (sub : Nat) {v w : Word64} (h : SamePlaces v w) :
    s.changedRegions sub v = s.changedRegions sub w := by
  unfold State.changedRegions
  exact congrArg _ (List.filter_congr fun j hj => by rw [h j (List.mem_range.1 hj)])

theorem inRange_regplace_congr (sub : Nat) {v w : Word64} (h : SamePlaces v w) :
    inRange 0x2320 sub v = inRange 0x2320 sub w := by
  have hall : inRange 0x2320 sub = fun v => (List.range 16).all fun j => decide (fieldOf v (2 * j + 1) (2 * j) ≠ 3) := by
    funext v; simp [inRange]
  rw [hall, Bool.eq_iff_iff]
  simp only [List.all_eq_true, List.mem_range, decide_eq_true_eq]
  exact forall₂_congr fun j hj => by rw [h j hj]

/-- What the placement entry makes of a value: the regions that change are those of the value, and none may while a job
runs or a pin overlaps it. -/
theorem State.writeEffect_regplace (s : State) (via : Via) (sub : Nat) (v nv : Word64) :
    s.writeEffect via 0x2320 sub v nv =
      s.unless (s.changedRegions sub nv != [] && (s.anyRuns || (s.changedRegions sub nv).any s.pinsIn)) .inUse
        fun s => s.placeRegions sub nv := by
  simp [State.writeEffect, State.writeCaddy]

theorem State.fits_regplace (s : State) (sub : Nat) (v : Word64) :
    s.fits 0x2320 sub regplaceEntry v = inRange 0x2320 sub (v &&& mask 31 0) := by
  have hwo : regplaceEntry.wo = 0 := rfl
  have hnarrow : regplaceEntry.wide = false := rfl
  simp only [State.fits, hwo, hnarrow, Bool.false_eq_true, if_false, BitVec.ofNat_eq_ofNat, BitVec.not_zero, BitVec.and_allOnes,
    BitVec.and_zero, BitVec.or_zero]
  exact inRange_regplace_congr sub (samePlaces_merged _ _)

/-! ### A change of placement (R154) -/

/-- The lines of some regions are gone, from the ways and from both guards, and their walks run. -/
theorem State.caddy_dropRegions (rs : List Nat) (s : State) : (rs.foldl State.dropRegion s).caddy =
    { s.caddy with
      lines := s.caddy.lines.filter fun l => l.2.tag.toNat / 2 ^ 23 ∉ rs
      guard0 := s.caddy.guard0.filter fun l => l / 2 ^ 23 ∉ rs
      guard1 := s.caddy.guard1.filter fun l => l / 2 ^ 23 ∉ rs
      walks := s.caddy.walks ++ rs } := by
  induction rs generalizing s with
  | nil => simp
  | cons r rs ih =>
    rw [List.foldl_cons, ih]
    simp only [State.dropRegion, List.filter_filter, List.mem_cons, not_or, Bool.decide_and, Bool.and_comm,
      List.append_assoc, List.singleton_append, ne_eq]

theorem State.drainRegion_regs (s : State) (r : Nat) : (s.drainRegion r).regs = s.regs :=
  (State.drainRegion_keeps (C := [.hbm]) (List.Subset.refl _) (State.Keeps.refl _ s) r).parts .regs (by decide)

/-- What a change of placement does to the regions that change (R154). -/
theorem State.placeRegions_drops (s : State) (sub : Nat) (v : Word64) :
    (s.placeRegions sub v).reg 0x2320 sub = v ∧ Entries [(0x2320, sub)] s (s.placeRegions sub v)
      ∧ ∀ region ∈ s.changedRegions sub v, region ∈ (s.placeRegions sub v).caddy.walks
          ∧ (∀ key l, (key, l) ∈ (s.placeRegions sub v).caddy.lines → l.tag.toNat / 2 ^ 23 ≠ region)
          ∧ ∀ line, line ∈ (s.placeRegions sub v).caddy.guard0 ∨ line ∈ (s.placeRegions sub v).caddy.guard1 →
              line / 2 ^ 23 ≠ region := by
  unfold State.placeRegions
  extract_lets rs drained dropped
  have hcaddy : (dropped.setReg 0x2320 sub v).caddy = dropped.caddy := rfl
  have hdrained : drained.regs = s.regs := State.foldl_preserves State.regs State.drainRegion_regs rs s
  have hregs : dropped.regs = s.regs :=
    (State.foldl_preserves State.regs (f := State.dropRegion) (fun _ _ => rfl) rs drained).trans hdrained
  refine ⟨State.reg_setReg_self _ _ _ _, Entries.write (List.mem_singleton_self _)
    (Entries.of_regs hregs (Entries.refl _ s)) v, fun region hr => ?_⟩
  rw [hcaddy, State.caddy_dropRegions]
  refine ⟨List.mem_append_right _ hr, fun key l hl => ?_, fun line hline => ?_⟩
  · rintro rfl
    exact of_decide_eq_true (List.mem_filter.1 hl).2 hr
  · rintro rfl
    rcases hline with h | h <;> exact of_decide_eq_true (List.mem_filter.1 h).2 hr

section
variable {s : State} {via : Via} {k : Fin 24}

theorem regionPlacementWrite_places {value : Word32} (hc : s.carries via 0x2320 (k.val + 1) = true)
    (hin : inRange 0x2320 (k.val + 1) (value.setWidth 64) = true)
    (hrun : (s.handed via 0x2320 (k.val + 1)).anyRuns = false)
    (hpin : ((s.handed via 0x2320 (k.val + 1)).changedRegions (k.val + 1) (value.setWidth 64)).any
      (s.handed via 0x2320 (k.val + 1)).pinsIn = false) :
    Writes (.regionPlacementWrite via k value) via 0x2320 (k.val + 1) s [.regs, .caddy, .hbm] fun u t =>
      (t.reg 0x2320 (k.val + 1)).setWidth 32 = value ∧ Entries [(0x2320, k.val + 1)] u t
      ∧ ∀ region ∈ u.changedRegions (k.val + 1) (value.setWidth 64), region ∈ t.caddy.walks
          ∧ (∀ key l, (key, l) ∈ t.caddy.lines → l.tag.toNat / 2 ^ 23 ≠ region)
          ∧ ∀ line, line ∈ t.caddy.guard0 ∨ line ∈ t.caddy.guard1 → line / 2 ^ 23 ≠ region := by
  have hcut : regplaceEntry.cut (s.given via (value.setWidth 64)) = value.setWidth 64 :=
    Entry.cut_given_word rfl s via value
  have hfit : s.fits 0x2320 (k.val + 1) regplaceEntry (s.given via (value.setWidth 64)) = true := by
    rw [State.fits_regplace, ← Entry.cut_of_narrow (e := regplaceEntry) rfl, hcut, hin]
  generalize hu : s.handed via 0x2320 (k.val + 1) = u at *
  generalize hnv : regplaceEntry.merged (u.reg 0x2320 (k.val + 1)) (value.setWidth 64) = nv
  have hsame : SamePlaces nv (value.setWidth 64) := hnv ▸ samePlaces_merged _ _
  have hchanged := u.changedRegions_congr (k.val + 1) hsame
  have heffect : u.writeEffect via 0x2320 (k.val + 1) (value.setWidth 64) nv = (u.placeRegions (k.val + 1) nv, .done) := by
    rw [State.writeEffect_regplace, hchanged, hrun, hpin]
    simp [State.unless]
  obtain ⟨hreg, hentries, hregions⟩ := u.placeRegions_drops (k.val + 1) nv
  have hkey (i : Nat) (hi : i ≠ 0x2320) (j : Nat) (hj : j < 256) : regKey 0x2320 (k.val + 1) ≠ regKey i j :=
    regKey_ne_of_idx (by omega) hj (Ne.symm hi)
  have hnote : (u.placeRegions (k.val + 1) nv).noteClear 0x2320 (k.val + 1) (value.setWidth 64 &&& regplaceEntry.w1c)
      = u.placeRegions (k.val + 1) nv := State.noteClear_of_no_w1c _ _ _ _ rfl
  refine Writes.of_effect (t := u.placeRegions (k.val + 1) nv) rfl hc (entryOf_regplace k) (by decide) hfit (by decide)
    (hkey _ (by decide) _ (by decide)) (hkey _ (by decide) _ (by decide)) ?_ ?_ ?_ <;> rw [hu, hcut]
  · rw [hnv, heffect]
  · rw [hnote]
    exact (State.placeRegions_keeps (List.Subset.refl _) (State.Keeps.refl _ u) _ _).frame
  · rw [hnote, ← hchanged, hreg]
    refine ⟨?_, hentries, hregions⟩
    refine BitVec.eq_of_getLsbD_eq fun i hi => ?_
    rw [← hnv, BitVec.getLsbD_setWidth, Entry.merged_regplace_getLsbD _ _ hi, BitVec.getLsbD_setWidth]
    simp [hi, show i < 64 by omega]

theorem regplace_refused_while_a_job_runs {v : Word64} (hd : s.domainOn 0x2320 = true)
    (hin : inRange 0x2320 (k.val + 1) (v &&& mask 31 0) = true)
    (hch : s.changedRegions (k.val + 1) (v &&& mask 31 0) ≠ []) (hrun : s.anyRuns = true) :
    s.entryWrite .bar0 0x2320 (k.val + 1) v = (s, .inUse) := by
  have hfit : s.fits 0x2320 (k.val + 1) regplaceEntry v = true := (s.fits_regplace _ v).trans hin
  have hright : Path.of .bar0 ∈ rightsOf 0x2320 (k.val + 1) := by simp [rightsOf, Path.of]
  have hcut : regplaceEntry.cut v = v &&& mask 31 0 := Entry.cut_of_narrow rfl v
  have heffect : s.writeEffect .bar0 0x2320 (k.val + 1) (regplaceEntry.cut v)
      (regplaceEntry.merged (s.reg 0x2320 (k.val + 1)) (regplaceEntry.cut v)) = (s, .inUse) := by
    rw [State.writeEffect_regplace, hcut, s.changedRegions_congr _ (samePlaces_merged _ _), hrun]
    simp [State.unless, hch]
  exact State.entryWrite_effect (entryOf_regplace k) (by decide) hright hd hfit heffect

end

/-! ### The dregs guard's entry (R173) -/

/-- DREGSGUARD: EN alone can be written. -/
def guardEntry : Entry := .pers32 1 1

theorem Entry.merged_guard_getLsbD_zero (old v : Word64) : (guardEntry.merged old v).getLsbD 0 = v.getLsbD 0 := by
  rw [Entry.merged_getLsbD _ _ _ (by decide)]
  simp [guardEntry, Entry.pers32]

/-- Both guards empty. -/
def State.emptyGuards (s : State) : State := { s with caddy := { s.caddy with guard0 := [], guard1 := [] } }

theorem State.emptyGuards_keeps {C : List Part} (hc : [.caddy] ⊆ C) {u s : State} (h : State.Keeps C u s) :
    State.Keeps C u s.emptyGuards := by
  apply State.Keeps.ofFields
  exact State.Keeps.setCaddy (hc (by decide)) h.toFields

/-- A write that changes EN empties both guards. -/
theorem State.writeEffect_guard {s : State} {nv : Word64} (via : Via) (v : Word64)
    (h : nv.getLsbD 0 ≠ s.guardOn) : s.writeEffect via 0x2310 8 v nv = ((s.setReg 0x2310 8 nv).emptyGuards, .done) := by
  have hne : nv ≠ s.reg 0x2310 8 := by
    rintro rfl
    exact h (State.bit_eq_getLsbD s 0x2310 8 0).symm
  simp [State.writeEffect, State.writeCaddy, hne, State.emptyGuards]

theorem dregsguardWrite_empties_guards {s : State} {via : Via} {value : Word32} (hc : s.carries via 0x2310 8 = true)
    (hne : (s.handed via 0x2310 8).guardOn ≠ value.getLsbD 0) :
    Writes (.dregsguardWrite via value) via 0x2310 8 s [.regs, .caddy] fun u t =>
      t.guardOn = value.getLsbD 0 ∧ t.caddy.guard0 = [] ∧ t.caddy.guard1 = [] ∧ t.caddy.lines = u.caddy.lines
      ∧ Entries [(0x2310, 8)] u t := by
  have hcut : guardEntry.cut (s.given via (value.setWidth 64)) = value.setWidth 64 := Entry.cut_given_word rfl s via value
  generalize hu : s.handed via 0x2310 8 = u at *
  generalize hnv : guardEntry.merged (u.reg 0x2310 8) (value.setWidth 64) = nv
  have hbit : nv.getLsbD 0 = value.getLsbD 0 := by
    rw [← hnv, Entry.merged_guard_getLsbD_zero, BitVec.getLsbD_setWidth]
    simp
  have heffect := State.writeEffect_guard (s := u) via (value.setWidth 64) (hbit ▸ Ne.symm hne)
  have hkeeps : State.Keeps [.regs, .caddy] u (u.setReg 0x2310 8 nv).emptyGuards :=
    State.emptyGuards_keeps (by decide) (State.Keeps.setReg (by decide) (State.Keeps.refl _ u) _ _ _)
  refine Writes.of_effect rfl hc (e := guardEntry) (by decide +kernel) (by decide) ?_ (by decide) (by decide) (by decide)
    (by rw [hu, hcut, hnv]; exact heffect) ?_ ?_
  · simp [State.fits, inRange]
  all_goals
    rw [hu, State.noteClear_of_no_w1c _ _ _ _ rfl]
  · exact hkeeps.frame
  · refine ⟨?_, rfl, rfl, rfl, (Entries.setReg u 0x2310 8 nv).of_regs rfl⟩
    rw [State.guardOn, State.bit_eq_getLsbD, ← hbit]
    exact congrArg (·.getLsbD 0) (State.reg_setReg_self u 0x2310 8 nv)

/-- Settles O15: the regions that change are those whose field of the word differs, and dropping them leaves none of their
lines. -/
theorem regionPlacementAndGuardWrites : Obligations.RegionPlacementAndGuardWrites :=
  ⟨fun _ _ _ _ => regionPlacementWrite_places, fun _ _ _ => regplace_refused_while_a_job_runs,
    fun s region => ⟨_, rfl, (State.walkDone_keeps (List.Subset.refl _) (State.Keeps.refl _ s) region.val).frame, rfl⟩,
    fun _ _ _ => dregsguardWrite_empties_guards⟩

end Sys2Proof.Machine
end

section
/-! SUPPORT. The entry of a device state, and the first clock of a start. -/

namespace Sys2Proof.Machine

/-! ### Entering a device state (R464) -/

theorem State.withBring_keeps {C : List Part} (hc : [.bring] ⊆ C) {u s : State} (h : State.Keeps C u s) (b : Bring) :
    State.Keeps C u { s with bring := b } := by
  apply State.Keeps.ofFields
  exact State.Keeps.setBring (hc (by decide)) h.toFields

/-- After DEVSTATE is written, its vector and 1001h follow. -/
def State.devTold (s : State) : State :=
  ({ s.raise 22 with can := { (s.raise 22).can with pdo2Due := true } }).noteErr

theorem State.setDevWord_eq (s : State) (w : Word64) :
    s.setDevWord w = if s.reg 0x2B00 1 = w then s else (s.setReg 0x2B00 1 w).devTold := rfl

theorem State.devTold_entries {C : List (Nat × Nat)} {u s : State} (hm : (0x3001, 0x0B) ∈ C) (h : Entries C u s) :
    Entries C u s.devTold := by
  refine State.noteErr_entries hm (h.of_regs ?_)
  exact s.raise_regs 22

theorem State.reg_setDevWord (s : State) (w : Word64) : (s.setDevWord w).reg 0x2B00 1 = w := by
  rw [State.setDevWord_eq]
  split
  · assumption
  · exact (State.devTold_entries (List.mem_singleton_self _) (Entries.refl _ _) _ _ (by decide)).trans
      (State.reg_setReg_self _ _ _ _)

theorem State.setDevWord_entries {C : List (Nat × Nat)} {u s : State} (h1 : (0x2B00, 1) ∈ C) (h2 : (0x3001, 0x0B) ∈ C)
    (h : Entries C u s) (w : Word64) : Entries C u (s.setDevWord w) := by
  rw [State.setDevWord_eq]
  split
  · exact h
  · exact State.devTold_entries h2 (h.write h1 w)

theorem State.dev_setDev (s : State) {n : Nat} (hn : n < 16) : (s.setDev n).dev = n := by
  rw [State.dev, State.fld, State.setDev, State.reg_setDevWord, fieldOf_withField _ _ (by decide) (by decide)]
  exact Nat.mod_eq_of_lt hn

theorem State.enter_entries {C : List (Nat × Nat)} {u s : State} (h1 : (0x2B00, 1) ∈ C) (h2 : (0x3001, 0x0B) ∈ C)
    (h : Entries C u s) (n : Nat) : Entries C u (s.enter n) := by
  unfold State.enter
  split
  · exact h
  · have hset : Entries C u (s.setDev n) := State.setDevWord_entries h1 h2 h _
    dsimp only
    split
    · exact State.unnamedEmergency_entries h2 hset _
    · exact hset

theorem State.dev_of_reg {s t : State} (h : t.reg 0x2B00 1 = s.reg 0x2B00 1) : t.dev = s.dev := by
  simp only [State.dev, State.fld, h]

theorem State.dev_enter (s : State) {n : Nat} (hn : n < 16) : (s.enter n).dev = n := by
  unfold State.enter
  split
  · assumption
  · dsimp only
    split
    · have h := State.unnamedEmergency_entries (C := [(0x3001, 0x0B)]) (List.mem_singleton_self _)
        (Entries.refl _ (s.setDev n))
      exact (State.dev_of_reg (h _ _ _ (by decide))).trans (s.dev_setDev hn)
    · exact s.dev_setDev hn

theorem State.enterPhase'_entries {C : List (Nat × Nat)} {u s : State} (h1 : (0x2B00, 1) ∈ C) (h2 : (0x3001, 0x0B) ∈ C)
    (h : Entries C u s) (n : Nat) : Entries C u (s.enterPhase' n) := (State.enter_entries h1 h2 h n).of_regs rfl

/-- A phase of a start begins: its state, and its first clock. -/
theorem State.enterPhase'_spec (s : State) {n : Nat} (hn : n < 16) : (s.enterPhase' n).dev = n
    ∧ (s.enterPhase' n).bring = { s.bring with phaseAt := s.time.now } := by
  have keeps : State.Keeps [.regs, .link, .can, .out] s (s.enter n) :=
    State.enter_keeps (List.Subset.refl _) (State.Keeps.refl _ s) n
  have hbring : (s.enter n).bring = s.bring := keeps.parts .bring (by decide)
  have htime : (s.enter n).time = s.time := keeps.parts .time (by decide)
  refine ⟨s.dev_enter hn, ?_⟩
  rw [State.enterPhase']
  simp only [hbring, htime]

/-! ### The first clock of a start (R46, R471, R473, R478) -/

theorem Tbl.get_of_notMem {α : Type} (d : α) {t : Tbl α} {k : Nat} (h : ∀ e ∈ t, e.1 ≠ k) : Tbl.get d t k = d := by
  induction t with
  | nil => rfl
  | cons e t ih => simpa [Tbl.get, h e (by simp)] using ih fun x hx => h x (by simp [hx])

/-- Entries that a start may leave at another value than their Reset value. -/
def startIndices : List Nat := [0x2B00, 0x2881, 0x2220, 0x2C00, 0x2C10]

theorem State.reg_restarted (s : State) (cold : Bool) {idx sub : Nat} (hs : sub < 256) (hi : idx ∉ startIndices) :
    (s.restarted cold).reg idx sub = resetValue idx sub := by
  simp only [startIndices, List.mem_cons, List.not_mem_nil, or_false, not_or] at hi
  refine Tbl.get_of_notMem _ fun e he => ?_
  simp only [State.restarted, State.keptRegs] at he
  split at he
  · exact absurd he List.not_mem_nil
  · obtain ⟨-, hk⟩ := List.mem_filter.1 he
    simp only [Bool.or_eq_true, decide_eq_true_eq] at hk
    unfold regKey
    omega

theorem State.restarted_keepsWear (s : State) (cold : Bool) : State.Keeps startParts s (s.restarted cold) := by
  refine ⟨rfl, fun c => ⟨c.1, c.2.1, State.keptRegs_rising c cold⟩, fun p n => ?_⟩
  cases p
  case age | lanes | out | free => rfl
  all_goals exact absurd (by decide) n

/-- What a start or the loss of power leaves of the flash (R415, R417, R484). -/
theorem State.cutFlash_spec (s : State) : s.cutFlash.flash.svn = s.flash.svn
    ∧ (s.flash.claim = none → s.cutFlash.flash.image = s.flash.image ∧ s.cutFlash.flash.cfg = s.flash.cfg) := by
  unfold State.cutFlash
  cases hclaim : s.flash.claim with
  | none => simp [hclaim]
  | some c => cases c <;> simp [hclaim]

/-- After the boot word of a start is written, FTSTAT and, in a warm restart, THEVENT.SHUT follow. -/
def State.startEntries (s t : State) (cold : Bool) : State :=
  let t := t.setFld 0x2881 2 1 0 (s.ftAtStart cold)
  if !cold then t.setBit 0x2220 1 2 (s.bit 0x2220 1 2) else t

theorem State.startNow_eq (s : State) (cold : Bool) (cause : Nat) : s.startNow cold cause =
    s.cutFlash.startEntries ((s.cutFlash.restarted cold).setReg 0x2B00 1 (bootWord cold cause)) cold := rfl

theorem State.startEntries_keeps {C : List Part} (hc : [.regs] ⊆ C) {u t : State} (h : State.Keeps C u t) (s : State)
    (cold : Bool) : State.Keeps C u (s.startEntries t cold) :=
  State.Keeps.ite (State.setBit_keeps hc (State.setFld_keeps hc h _ _ _ _ _) _ _ _ _) (State.setFld_keeps hc h _ _ _ _ _)

theorem State.startEntries_entries (s t : State) (cold : Bool) :
    Entries [(0x2881, 2), (0x2220, 1)] t (s.startEntries t cold) := by
  have hft : Entries [(0x2881, 2), (0x2220, 1)] t (t.setFld 0x2881 2 1 0 (s.ftAtStart cold)) :=
    (Entries.refl _ t).write (by decide) _
  unfold State.startEntries
  dsimp only
  split
  · exact hft.write (by decide) _
  · exact hft

theorem bootWord_fields (cold : Bool) {cause : Nat} (h : cause < 8) : fieldOf (bootWord cold cause) 3 0 = devBoot
    ∧ fieldOf (bootWord cold cause) 6 6 = (!cold).toNat ∧ fieldOf (bootWord cold cause) 15 8 = cause := by
  revert cold cause
  decide

theorem State.startNow_frame (s : State) (cold : Bool) (cause : Nat) : Frame startParts s (s.startNow cold cause) := by
  have hcut : State.Keeps startParts s s.cutFlash := State.cutFlash_keeps (by decide) (State.Keeps.refl _ s)
  rw [State.startNow_eq]
  exact (State.startEntries_keeps (by decide)
    (State.Keeps.setReg (by decide) (hcut.trans (s.cutFlash.restarted_keepsWear cold)) _ _ _) _ _).frame

theorem State.startNow_started (s : State) (cold : Bool) {cause : Nat} (hcause : cause < 8) :
    Started s (s.startNow cold cause) cold cause := by
  rw [State.startNow_eq]
  generalize hw : (s.cutFlash.restarted cold).setReg 0x2B00 1 (bootWord cold cause) = w
  have hrest := s.cutFlash.startEntries_entries w cold
  have hkeeps : State.Keeps [.regs] w (s.cutFlash.startEntries w cold) :=
    State.startEntries_keeps (List.Subset.refl _) (State.Keeps.refl _ w) _ _
  have hbring : (s.cutFlash.startEntries w cold).bring = w.bring := hkeeps.parts .bring (by decide)
  have hseq : (s.cutFlash.startEntries w cold).seq = w.seq := hkeeps.parts .seq (by decide)
  have hclusters : (s.cutFlash.startEntries w cold).clusters = w.clusters := hkeeps.parts .clusters (by decide)
  have hreqs : (s.cutFlash.startEntries w cold).reqs = w.reqs := (hkeeps.parts .reqs (by decide)).1
  have hhbm : (s.cutFlash.startEntries w cold).hbm = w.hbm := hkeeps.parts .hbm (by decide)
  have htime : (s.cutFlash.startEntries w cold).time = w.time := hkeeps.parts .time (by decide)
  have hflash : (s.cutFlash.startEntries w cold).flash = w.flash := hkeeps.parts .flash (by decide)
  have hword : (s.cutFlash.startEntries w cold).reg 0x2B00 1 = bootWord cold cause := by
    rw [hrest _ _ (by decide), ← hw, State.reg_setReg_self]
  obtain ⟨hdev, hwarm, hwhy⟩ := bootWord_fields cold hcause
  unfold Started
  rw [hbring, hseq, hclusters, hreqs, hhbm, htime, hflash]
  refine ⟨?_, ?_, ?_, ?_⟩
  · rw [State.dev, State.fld, hword, hdev]
  · rw [State.bit, State.fld, hword, hwarm]
    cases cold <;> rfl
  · rw [State.fld, hword, hwhy]
  · subst hw
    refine ⟨rfl, rfl, rfl, rfl, rfl, rfl, rfl, rfl, rfl, rfl, rfl, s.cutFlash_spec.1, fun idx sub hs hi => ?_⟩
    have hi' := hi
    simp only [List.mem_cons, List.not_mem_nil, or_false, not_or] at hi
    obtain ⟨hdevstate, hft, hth, -⟩ := hi
    rw [hrest idx sub fun k hk => ?_, State.reg_setReg_ne _ _ (regKey_ne_of_idx hs (by decide) hdevstate)]
    · exact s.cutFlash.reg_restarted cold hs hi'
    · simp only [List.mem_cons, List.not_mem_nil, or_false] at hk
      obtain rfl | rfl := hk
      · exact regKey_ne_of_idx hs (by decide) hft
      · exact regKey_ne_of_idx hs (by decide) hth

end Sys2Proof.Machine
end

section
/-! SUPPORT. Standby power, the input, start commands and the module reset input. -/

namespace Sys2Proof.Machine

/-! ### Standby power (R466, R502) -/

theorem State.dev_setReg (s : State) {n : Nat} (hn : n < 16) : (s.setReg 0x2B00 1 (BitVec.ofNat 64 n)).dev = n := by
  rw [State.dev, State.fld, State.reg_setReg_self, fieldOf, BitVec.toNat_ofNat]
  omega

theorem standbyPowerApply_wakes {s : State} (h : s.dev = devOff) : Runs .standbyPowerApply s [.regs, .bring] fun t =>
    t.dev = devStandby ∧ t.bring = { s.bring with rom := !s.bring.modRst } ∧ Entries [(0x2B00, 1)] s t := by
  have heq : s.standbyOn = { s.setReg 0x2B00 1 (BitVec.ofNat 64 devStandby) with
      bring := { s.bring with rom := !s.bring.modRst } } := if_neg (not_not.2 h)
  have hframe := (State.standbyOn_keeps (List.Subset.refl _) (State.Keeps.refl _ s)).frame
  rw [heq] at hframe
  refine ⟨_, congrArg Host.Outcome.next heq, hframe, ?_, rfl, ?_⟩
  · exact (State.dev_of_regs rfl).trans (s.dev_setReg (n := devStandby) (by decide))
  · exact (Entries.setReg s 0x2B00 1 (BitVec.ofNat 64 devStandby)).of_regs rfl

theorem standbyPowerLoss_empties {s : State} (h : s.dev = devStandby) :
    Runs .standbyPowerLoss s (startParts ++ [.age, .lanes]) fun t => t.dev = devOff
      ∧ t.reqs = [] ∧ t.hbm.mem = [] ∧ t.bring.rom = false ∧ t.bring.firmware = false ∧ t.flash.svn = s.flash.svn
      ∧ t.age.units = s.age.units ∧ (s.flash.claim = none → t.flash.image = s.flash.image ∧ t.flash.cfg = s.flash.cfg)
      ∧ Entries [(0x2B00, 1)] { s with regs := [] } t := by
  have heq : s.standbyOff = s.cutFlash.emptied.setReg 0x2B00 1 (BitVec.ofNat 64 devOff) := if_neg (not_not.2 h)
  have hframe := (State.standbyOff_keeps (C := startParts ++ [.age, .lanes]) (by decide) (State.Keeps.refl _ s)).frame
  rw [heq] at hframe
  obtain ⟨hsvn, harea⟩ := s.cutFlash_spec
  refine ⟨_, congrArg Host.Outcome.next heq, hframe, ?_, rfl, rfl, rfl, rfl, hsvn, rfl, harea, ?_⟩
  · exact State.dev_setReg _ (n := devOff) (by decide)
  · exact Entries.write (List.mem_singleton_self _) ((Entries.refl _ { s with regs := [] }).of_regs rfl) _

/-! ### The input (R466) -/

/-- The input as noted on its return. -/
def State.inputNoted (s : State) : State :=
  { s with bring := { s.bring with hv := true }, power := { s.power with volts := [], outCnt := 0 } }

theorem State.inputNoted_keeps {C : List Part} (hc : [.bring, .power] ⊆ C) (s : State) :
    State.Keeps C s s.inputNoted := by
  apply State.Keeps.ofFields
  exact State.Keeps.setBring (hc (by decide)) (State.Keeps.setPower (hc (by decide)) (State.Keeps.refl _ s).toFields)

theorem State.inputBack_eq {s : State} (h : s.dev = devStandby) : s.inputBack =
    if s.bit 0x2B00 3 0 && !s.bring.modRst && !s.bring.hot then s.inputNoted.startNow true 1 else s.inputNoted :=
  if_neg (not_not.2 h)

theorem Frame.trans {C : List Part} {s t u : State} (h : State.Keeps C s t) (g : Frame C t u) : Frame C s u := by
  refine ⟨g.1.trans h.queue, fun p hp => ?_⟩
  have a := h.parts p hp
  have b := g.2 p hp
  cases p
  case latches => exact ⟨b.1.trans a.1, b.2.1.trans a.2.1, b.2.2.trans a.2.2⟩
  case reqs => exact ⟨b.1.trans a.1, b.2.trans a.2⟩
  all_goals exact Eq.trans b a

theorem inputReturn_starts {s : State} (h : s.dev = devStandby) (hauto : s.bit 0x2B00 3 0 = true)
    (hrst : s.bring.modRst = false) (hhot : s.bring.hot = false) :
    Runs .inputReturn s startParts fun t => Started s t true 1 := by
  have heq : s.inputBack = s.inputNoted.startNow true 1 := by
    rw [State.inputBack_eq h, hauto, hrst, hhot]
    rfl
  exact ⟨_, congrArg Host.Outcome.next heq, Frame.trans (s.inputNoted_keeps (by decide)) (State.startNow_frame _ _ _),
    s.inputNoted.startNow_started true (by decide)⟩

theorem inputReturn_noted {s : State} (h : s.dev = devStandby)
    (hno : s.bit 0x2B00 3 0 = false ∨ s.bring.modRst = true ∨ s.bring.hot = true) :
    Runs .inputReturn s [.bring, .power] fun t => t.bring = { s.bring with hv := true } := by
  have heq : s.inputBack = s.inputNoted := by
    rw [State.inputBack_eq h, if_neg]
    rcases hno with h | h | h <;> simp [h]
  exact ⟨_, congrArg Host.Outcome.next heq, (s.inputNoted_keeps (List.Subset.refl _)).frame, rfl⟩

/-! ### Where a start may begin (R455, R466, R467) -/

theorem State.mayStart_of_running {s : State} {cold : Bool} (h : devStandby < s.dev) : s.mayStart cold =
    (!s.bring.hot && !s.faultedNow && (cold || decide (devReady ≤ s.dev))) := by
  have hoff : s.dev ≠ devOff := by unfold devOff; omega
  have hstandby : s.dev ≠ devStandby := by omega
  unfold State.mayStart
  rw [if_neg hstandby]
  by_cases hready : s.dev < devReady
  · simp only [hready, if_true, Nat.not_le.2 hready, decide_false, Bool.or_false]
    cases s.bring.hot <;> cases s.faultedNow <;> simp [hoff]
  · simp only [hready, if_false, Nat.not_lt.1 hready, decide_true, Bool.or_true, Bool.and_true]
    cases s.bring.hot <;> cases s.faultedNow <;> simp [hoff]

theorem mayStart_cases (s : State) (cold : Bool) : (s.bring.hot = true → s.mayStart cold = false)
    ∧ (s.dev = devOff → s.mayStart cold = false) ∧ (s.faultedNow = true → s.mayStart cold = false)
    ∧ (s.dev < devReady → cold = false → s.mayStart cold = false)
    ∧ (devReady ≤ s.dev → s.bring.hot = false → s.faultedNow = false → s.mayStart cold = true) := by
  refine ⟨fun h => by simp [State.mayStart, h], fun h => by simp [State.mayStart, h], fun h => by simp [State.mayStart, h],
    fun h hc => ?_, fun h hhot hf => ?_⟩
  · subst hc
    by_cases hrun : devStandby < s.dev
    · rw [State.mayStart_of_running hrun, decide_eq_false (Nat.not_le.2 h)]
      simp
    · have hdev : s.dev = devOff ∨ s.dev = devStandby := by unfold devOff devStandby at *; omega
      rcases hdev with hdev | hdev <;> simp [State.mayStart, hdev]
  · rw [State.mayStart_of_running (lt_of_lt_of_le (by decide) h), hhot, hf, decide_eq_true h]
    simp

theorem State.mayStart_congr {s t : State} (hd : t.reg 0x2B00 1 = s.reg 0x2B00 1) (hv : t.reg 0x2100 8 = s.reg 0x2100 8)
    (hb : t.bring = s.bring) (ht : t.time = s.time) (hp : t.power = s.power) (cold : Bool) :
    t.mayStart cold = s.mayStart cold := by
  have hfault : t.faultedNow = s.faultedNow := by rw [State.faultedNow, State.dev_of_reg hd, hb, ht, State.faultedNow]
  have hgood : t.inputGood = s.inputGood := by
    rw [State.inputGood, State.fld, hv, hb, hp, State.inputGood, State.fld]
  rw [State.mayStart, State.dev_of_reg hd, hfault, hgood, hb, State.mayStart]

/-! ### Start commands (R466, R472) -/

theorem State.handed_keeps (s : State) (via : Via) (idx sub : Nat) : State.Keeps [.regs] s (s.handed via idx sub) := by
  unfold State.handed
  split
  · exact State.Keeps.ite (State.Keeps.setReg (List.Subset.refl _) (State.Keeps.refl _ s) _ _ _) (State.Keeps.refl _ s)
  · exact State.canAccept_keeps (List.Subset.refl _) (State.Keeps.refl _ s)
  · exact State.Keeps.refl _ s

theorem State.mayStart_handed (s : State) (via : Via) (cold : Bool) :
    (s.handed via 0x2B00 2).mayStart cold = s.mayStart cold := by
  have h := s.handed_keeps via 0x2B00 2
  exact State.mayStart_congr (s.reg_handed _ _ _ (by decide) (by decide)) (s.reg_handed _ _ _ (by decide) (by decide))
    (h.parts .bring (by decide)) (h.parts .time (by decide)) (h.parts .power (by decide)) cold

/-- RSTCTL. -/
def rstctlEntry : Entry := .wo32 (mask 1 0)

/-- What RSTCTL takes for a cold start and for a warm restart. -/
def startCmd (cold : Bool) : Word64 := if cold then 1 else 2

theorem entryOf_rstctl : entryOf 0x2B00 2 = some rstctlEntry := by decide +kernel

theorem cut_given_startCmd (s : State) (via : Via) (cold : Bool) :
    rstctlEntry.cut (s.given via (startCmd cold)) = startCmd cold := by
  have hword : startCmd cold = (if cold then 1 else 2 : Word32).setWidth 64 := by cases cold <;> rfl
  rw [hword]
  exact Entry.cut_given_word rfl s via _

theorem cut_startCmd (cold : Bool) : rstctlEntry.cut (startCmd cold) = startCmd cold := by
  cases cold <;> decide

theorem inRange_rstctl (v : Word64) : inRange 0x2B00 2 v = decide (1 ≤ fieldOf v 1 0 ∧ fieldOf v 1 0 ≤ 2) := by
  simp [inRange]

theorem State.fits_rstctl {s : State} {v : Word64} {cold : Bool} (h : rstctlEntry.cut v = startCmd cold) :
    s.fits 0x2B00 2 rstctlEntry v = true := by
  have hfield : ∀ w : Word64, fieldOf ((w &&& ~~~rstctlEntry.wo) ||| (startCmd cold &&& rstctlEntry.wo)) 1 0 =
      fieldOf (startCmd cold) 1 0 := fun w => fieldOf_congr fun i _ hi => by
    have hm : rstctlEntry.wo.getLsbD i = true := by
      rw [show rstctlEntry.wo = mask 1 0 from rfl, mask_getLsbD i (by decide) (by decide)]
      exact decide_eq_true ⟨Nat.zero_le i, hi⟩
    simp [hm]
  unfold Entry.cut at h
  simp only [State.fits, h, inRange_rstctl]
  rw [hfield]
  cases cold <;> decide

theorem State.writeEffect_rstctl (s : State) (via : Via) (cold : Bool) (nv : Word64) :
    s.writeEffect via 0x2B00 2 (startCmd cold) nv =
      s.unless (!s.mayStart cold) .state fun s => s.startCommand cold := by
  have hcmd : (fieldOf (startCmd cold) 1 0 == 1) = cold := by cases cold <;> rfl
  simp [State.writeEffect, State.writeBring, hcmd]

/-- A start command that a way carries where a start may begin is taken. -/
theorem Writes.start {c : Instr} {via : Via} {s u : State} {cold : Bool} {changed : List Part}
    {post : State → State → Prop} (hx : exec c s = .next (s.dictPut via 0x2B00 2 (startCmd cold)))
    (hc : s.carries via 0x2B00 2 = true) (hmay : s.mayStart cold = true) (hu : s.handed via 0x2B00 2 = u)
    (hf : Frame changed u (u.startCommand cold)) (hp : post u (u.startCommand cold)) :
    Writes c via 0x2B00 2 s changed post := by
  have hcut := cut_given_startCmd s via cold
  have hmay' : u.mayStart cold = true := hu ▸ (s.mayStart_handed via cold).trans hmay
  refine Writes.of_effect (t := u.startCommand cold) hx hc entryOf_rstctl (by decide) (State.fits_rstctl hcut) (by decide)
    (by decide) (by decide) ?_ ?_ ?_ <;> rw [hu]
  · rw [hcut, State.writeEffect_rstctl, hmay']
    rfl
  · rwa [State.noteClear_of_no_w1c _ _ _ _ rfl]
  · rwa [State.noteClear_of_no_w1c _ _ _ _ rfl]

section
variable {c : Instr} {via : Via} {s : State} {cold : Bool}

theorem startCommand_starts (hx : exec c s = .next (s.dictPut via 0x2B00 2 (startCmd cold)))
    (hc : s.carries via 0x2B00 2 = true) (hmay : s.mayStart cold = true) (h1 : s.flash.claim ≠ some .store)
    (h2 : s.flash.claim ≠ some .restore) :
    Writes c via 0x2B00 2 s startParts fun u t => Started u t cold (if cold then 2 else 3) := by
  have hflash : (s.handed via 0x2B00 2).flash = s.flash := (s.handed_keeps via 0x2B00 2).parts .flash (by decide)
  have heq : (s.handed via 0x2B00 2).startCommand cold =
      (s.handed via 0x2B00 2).startNow cold (if cold then 2 else 3) := by
    rw [State.startCommand, hflash, if_neg (not_or.2 ⟨h1, h2⟩)]
  refine Writes.start hx hc hmay rfl ?_ ?_ <;> rw [heq]
  · exact State.startNow_frame _ _ _
  · exact State.startNow_started _ _ (by cases cold <;> decide)

theorem startCommand_waits (hx : exec c s = .next (s.dictPut via 0x2B00 2 (startCmd cold)))
    (hc : s.carries via 0x2B00 2 = true) (hmay : s.mayStart cold = true)
    (hclaim : s.flash.claim = some .store ∨ s.flash.claim = some .restore) :
    Writes c via 0x2B00 2 s [.bring] fun u t =>
      t.bring = { u.bring with waiting := some (cold || u.bring.waiting.getD false) } := by
  have hflash : (s.handed via 0x2B00 2).flash = s.flash := (s.handed_keeps via 0x2B00 2).parts .flash (by decide)
  generalize hu : s.handed via 0x2B00 2 = u at hflash
  have heq : u.startCommand cold =
      { u with bring := { u.bring with waiting := some (cold || u.bring.waiting.getD false) } } := by
    rw [State.startCommand, hflash, if_pos hclaim]
  refine Writes.start hx hc hmay hu ?_ ?_ <;> rw [heq]
  exact (State.withBring_keeps (List.Subset.refl _) (State.Keeps.refl _ u) _).frame

theorem startCommand_refused (hc : s.carries via 0x2B00 2 = true) (hmay : s.mayStart cold = false) :
    s.entryWrite via 0x2B00 2 (startCmd cold) = (s, .state) := by
  have heffect : s.writeEffect via 0x2B00 2 (rstctlEntry.cut (startCmd cold))
      (rstctlEntry.merged (s.reg 0x2B00 2) (rstctlEntry.cut (startCmd cold))) = (s, .state) := by
    rw [cut_startCmd, State.writeEffect_rstctl, hmay]
    rfl
  exact State.entryWrite_effect entryOf_rstctl (by decide) (State.carries_right hc) (State.carries_domainOn hc)
    (State.fits_rstctl (cut_startCmd cold)) heffect

end

/-! ### The module reset input (R502) -/

theorem modRstAssert_off {s : State} (h : s.dev = devOff) :
    Runs .modRstAssert s [.bring] fun t => t.bring = { s.bring with modRst := true } :=
  ⟨_, congrArg Host.Outcome.next (if_pos h), (State.withBring_keeps (List.Subset.refl _) (State.Keeps.refl _ s) _).frame, rfl⟩

theorem State.dev_toStandby {s : State} (h : s.dev ≠ devOff) : s.toStandby.dev = devStandby := by
  unfold State.toStandby
  split
  · unfold devOff devStandby at *; omega
  · exact State.dev_enter _ (by decide)

/-- The management core is held in reset. -/
def State.heldInReset (s : State) : State :=
  { s with
    bring := { s.bring with modRst := true, firmware := false, rom := false, romWait := false, waiting := none }
    can := State.reset.can }

theorem modRstAssert_stops {s : State} (h : s.dev ≠ devOff) :
    Runs .modRstAssert s [.regs, .time, .clusters, .mcasts, .caddy, .hbm, .reqs, .arb, .seq, .fabric,
        .link, .can, .power, .bring, .flash, .lanes, .out] fun t =>
      t.dev = devStandby ∧ t.bring.modRst = true ∧ t.bring.firmware = false ∧ t.bring.rom = false ∧ t.can = State.reset.can := by
  have hdev : s.cutFlash.toStandby.dev = devStandby := State.dev_toStandby h
  have hframe := (State.modReset_keeps (List.Subset.refl _) (State.Keeps.refl _ s)).frame
  have heq : s.modReset = s.cutFlash.toStandby.heldInReset := if_neg h
  rw [heq] at hframe
  exact ⟨_, congrArg Host.Outcome.next heq, hframe, hdev, rfl, rfl, rfl, rfl⟩

section
variable {s : State}

/-- MOD_RST# is high again. -/
def State.released (s : State) : State := { s with bring := { s.bring with modRst := false } }

theorem State.released_keeps {C : List Part} (hc : [.bring] ⊆ C) (s : State) : State.Keeps C s s.released :=
  State.withBring_keeps hc (State.Keeps.refl _ s) _

theorem State.modRelease_eq (h : s.bring.modRst = true) : s.modRelease =
    if s.dev ≠ devStandby then s.released
    else if s.inputGood && !s.bring.hot then s.released.startNow true 4
    else { s with bring := { s.bring with modRst := false, rom := true } } := if_neg (by simp [h])

theorem modRstRelease_starts (h : s.bring.modRst = true) (hd : s.dev = devStandby) (hin : s.inputGood = true)
    (hhot : s.bring.hot = false) : Runs .modRstRelease s startParts fun t => Started s t true 4 := by
  have heq : s.modRelease = s.released.startNow true 4 := by
    rw [State.modRelease_eq h, if_neg (not_not.2 hd), hin, hhot]
    rfl
  exact ⟨_, congrArg Host.Outcome.next heq, Frame.trans (s.released_keeps (by decide)) (State.startNow_frame _ _ _),
    s.released.startNow_started true (by decide)⟩

theorem modRstRelease_verifies (h : s.bring.modRst = true) (hd : s.dev = devStandby)
    (hno : s.inputGood = false ∨ s.bring.hot = true) :
    Runs .modRstRelease s [.bring] fun t => t.bring = { s.bring with modRst := false, rom := true } := by
  have heq : s.modRelease = { s with bring := { s.bring with modRst := false, rom := true } } := by
    rw [State.modRelease_eq h, if_neg (not_not.2 hd), if_neg]
    rcases hno with h | h <;> simp [h]
  exact ⟨_, congrArg Host.Outcome.next heq, (State.withBring_keeps (List.Subset.refl _) (State.Keeps.refl _ s) _).frame, rfl⟩

theorem modRstRelease_elsewhere (h : s.bring.modRst = true) (hd : s.dev ≠ devStandby) :
    Runs .modRstRelease s [.bring] fun t => t.bring = { s.bring with modRst := false } :=
  ⟨_, congrArg Host.Outcome.next ((State.modRelease_eq h).trans (if_pos hd)),
    (s.released_keeps (List.Subset.refl _)).frame, rfl⟩

end

end Sys2Proof.Machine
end

section
/-! SUPPORT. The kill of every context, and entry to FAULTED. -/

namespace Sys2Proof.Machine

/-! ### What the kill of a context leaves of the dictionary (R267, R314) -/

/-- The entries from 2860h to 294Fh are the same. Beside CTXCTL's STATE and KILLCAUSE a kill writes none of them. -/
def KillSpares (s t : State) : Prop :=
  ∀ idx sub, 0x2860 ≤ idx → idx < 0x2950 → sub < 256 → t.reg idx sub = s.reg idx sub

namespace KillSpares

variable {u s t : State}

theorem refl (s : State) : KillSpares s s := fun _ _ _ _ _ => rfl

theorem of_regs (hr : t.regs = s.regs) (h : KillSpares u s) : KillSpares u t :=
  fun i j h1 h2 h3 => (State.reg_of_regs hr i j).trans (h i j h1 h2 h3)

/-- A step that leaves the whole dictionary alone. -/
theorem step {C : List Part} (h : KillSpares u s) (hk : State.Keeps C s t) (hr : Part.regs ∉ C) : KillSpares u t :=
  h.of_regs (hk.parts .regs hr)

/-- An entry outside the range. -/
def Outside (idx sub : Nat) : Prop := idx < 0x2860 ∧ sub < 256 ∨ 0x2950 ≤ idx

theorem write {idx sub : Nat} (h : KillSpares u s) (hk : Outside idx sub) (v : Word64) :
    KillSpares u (s.setReg idx sub v) := fun i j h1 h2 h3 =>
  (State.reg_setReg_ne s v (by unfold Outside at hk; unfold regKey; omega)).trans (h i j h1 h2 h3)

theorem writeFld {idx sub : Nat} (h : KillSpares u s) (hk : Outside idx sub) (hi lo v : Nat) :
    KillSpares u (s.setFld idx sub hi lo v) := h.write hk _

theorem count {idx sub : Nat} (h : KillSpares u s) (hk : Outside idx sub) (n : Nat) :
    KillSpares u (s.count idx sub n) := h.write hk _

theorem event {idx sub : Nat} (h : KillSpares u s) (hk : Outside idx sub) (n : Nat) :
    KillSpares u (s.event idx sub n) := fun i j h1 h2 h3 => by
  have he := State.event_entries (C := [(idx, sub), (0x3001, 0x0B)]) (List.mem_cons_self ..)
    (List.mem_cons_of_mem _ (List.mem_singleton_self _)) (Entries.refl _ s) n
  refine (he i j fun k hk' => ?_).trans (h i j h1 h2 h3)
  simp only [List.mem_cons, List.not_mem_nil, or_false] at hk'
  unfold Outside at hk
  obtain rfl | rfl := hk' <;> unfold regKey <;> omega

theorem ite {c : Prop} [Decidable c] (hs : KillSpares u s) (ht : KillSpares u t) : KillSpares u (if c then s else t) := by
  split <;> assumption

theorem foldl {α : Type} {f : State → α → State} (l : List α)
    (hf : ∀ s, ∀ a ∈ l, KillSpares u s → KillSpares u (f s a)) {s : State} (h : KillSpares u s) :
    KillSpares u (l.foldl f s) := by
  induction l generalizing s with
  | nil => exact h
  | cons a l ih => exact ih (fun s x hx => hf s x (List.mem_cons_of_mem _ hx)) (hf s a (List.mem_cons_self ..) h)

end KillSpares

section
variable {u s : State} (h : KillSpares u s)
include h

/-! #### Packets and requests -/

theorem State.countDiscard_spares (i m : Nat) : KillSpares u (s.countDiscard i m) :=
  KillSpares.ite h (h.count (.inr (by omega)) _)

theorem State.enqueue_spares (i : Nat) (q : EgItem) : KillSpares u (s.enqueue i q) :=
  KillSpares.ite (h.of_regs rfl) (State.countDiscard_spares h _ _)

theorem State.egressPacket_spares (f : MFrame) (a : Option Nat) (o : Nat) (b : Bool) :
    KillSpares u (s.egressPacket f a o b) := by
  unfold State.egressPacket
  extract_lets
  exact KillSpares.ite (State.countDiscard_spares h _ _)
    (State.enqueue_spares (KillSpares.ite (h.count (.inr (by omega)) _) h) _ _)

theorem State.noRoute_spares (a : Option Nat) : KillSpares u (s.noRoute a) := by
  unfold State.noRoute
  refine KillSpares.event ?_ (.inr (by decide)) _
  cases a with
  | none => exact h
  | some a => exact h.count (.inr (by omega)) _

theorem State.forward_spares (f : MFrame) (a : Option Nat) (b : Bool) : KillSpares u (s.forward f a b) := by
  unfold State.forward
  split
  · exact h.of_regs rfl
  · exact State.noRoute_spares h _
  · cases a with
    | some a => exact KillSpares.ite (h.count (.inr (by omega)) _) (State.egressPacket_spares h _ _ _ _)
    | none => exact KillSpares.ite h (State.egressPacket_spares h _ _ _ _)

omit h in
theorem State.pump_spares (fuel node cls : Nat) {s : State} (h : KillSpares u s) :
    KillSpares u (State.pump fuel node cls s) := by
  induction fuel generalizing s with
  | zero => exact h
  | succ fuel ih =>
    unfold State.pump
    extract_lets c
    split
    · exact h
    · refine KillSpares.ite h ?_
      extract_lets
      refine ih (State.forward_spares (KillSpares.count ?_ (.inr (by decide)) _) _ _ _)
      exact h.of_regs rfl

theorem State.send_spares (node : Nat) (f : MFrame) : KillSpares u (s.send node f) := by
  unfold State.send
  refine KillSpares.ite h (State.pump_spares _ _ _ ?_)
  exact h.of_regs rfl

theorem State.launch_spares (r : Req) : KillSpares u (s.launch r) := by
  unfold State.launch
  split
  · refine KillSpares.ite (h.of_regs rfl) ?_
    dsimp only
    split
    · exact h.step (State.hostAsk_keeps (List.Subset.refl _) (State.Keeps.refl _ s) r) (by decide)
    · exact h.of_regs rfl
    · exact h.of_regs rfl
  · exact KillSpares.ite (h.of_regs rfl) (State.send_spares h _ _)
  · exact KillSpares.ite (h.of_regs rfl) (h.of_regs rfl)
  · exact h

theorem State.request_spares (r : Req) : KillSpares u (s.request r) := by
  unfold State.request
  extract_lets kind route r' s'
  have hs : KillSpares u s' := h.of_regs rfl
  exact KillSpares.ite (State.launch_spares hs _) hs

/-! #### Completion records -/

theorem State.seqWrite_spares (pa : Nat) (bs : List Byte) (p : Purpose) (c : Option Ctx) :
    KillSpares u (s.seqWrite pa bs p c).1 := by
  unfold State.seqWrite
  split
  · exact State.request_spares h _
  · exact KillSpares.ite h (h.of_regs rfl)
  · exact h

theorem State.recWritten_spares (c : Nat) (irq : Bool) : KillSpares u (s.recWritten c irq) :=
  h.step (State.recWritten_keeps (List.Subset.refl _) (State.Keeps.refl _ s) c irq) (by decide)

theorem State.countRec_spares (r : Rec) : KillSpares u (s.countRec r) := by
  have hcount {t : State} (ht : KillSpares u t) (sub : Nat) : KillSpares u (t.count 0x3800 sub) :=
    ht.count (.inr (by decide)) _
  unfold State.countRec
  extract_lets s1 s2
  have h1 : KillSpares u s1 := hcount h _
  have h2 : KillSpares u s2 := KillSpares.ite (hcount h1 _) h1
  exact KillSpares.ite (hcount h2 _) h2

theorem State.writeRec_spares {c : Nat} (hc : c < 16) (r : Rec) : KillSpares u (s.writeRec c r) := by
  unfold State.writeRec
  extract_lets x size phase pa s1
  have h1 : KillSpares u s1 := State.countRec_spares (s := s.setCtx c { x with written := x.written + 1 }) (h.of_regs rfl) r
  have hw := State.seqWrite_spares h1 pa (wordBytes (r.words phase)) (.record (ctxFin c) r.irq) (some (ctxFin c))
  split <;> rename_i heq <;> rw [heq] at hw
  · exact hw
  · exact State.recWritten_spares hw _ _
  · exact State.recWritten_spares (hw.event (.inl ⟨by omega, by decide⟩) _) _ _

omit h in
theorem State.drainHeld_spares (fuel : Nat) {c : Nat} (hc : c < 16) {s : State} (h : KillSpares u s) :
    KillSpares u (State.drainHeld fuel c s) := by
  induction fuel generalizing s with
  | zero => exact h
  | succ fuel ih =>
    unfold State.drainHeld
    extract_lets x
    split
    · exact h
    · refine KillSpares.ite (ih (State.writeRec_spares ?_ hc _)) h
      exact h.of_regs rfl

theorem State.issueRec_spares (o : Owed) : KillSpares u (s.issueRec o) := by
  refine State.drainHeld_spares _ o.job.ctx.isLt ?_
  exact h.of_regs rfl

theorem State.removeJob_spares (j : Job) : KillSpares u (s.removeJob j) :=
  h.step (State.removeJob_keeps (List.Subset.refl _) (State.Keeps.refl _ s) j) (by decide)

theorem State.report_spares (j : Job) (e : JobEnd) (a b c : Nat) : KillSpares u (s.report j e a b c) := by
  unfold State.report
  extract_lets s1 o
  have h1 : KillSpares u s1 := State.removeJob_spares h j
  exact KillSpares.ite (h1.of_regs rfl) (State.issueRec_spares h1 _)

theorem State.endJobs_spares (c : Nat) (b : Blame) (records : Bool) : KillSpares u (s.endJobs c b records) :=
  KillSpares.foldl _ (fun _ j _ h => KillSpares.ite (State.report_spares h _ _ _ _ _) (State.removeJob_spares h j)) h

/-! #### Pinned ranges -/

theorem State.releaseTokens_spares (base len owner : Nat) : KillSpares u (s.releaseTokens base len owner) := by
  have hclaim : claimSub owner < 256 := by unfold claimSub; split <;> omega
  refine KillSpares.foldl _ (fun s c hc h => ?_) h
  have hsub : c + 1 < 256 := by simp only [List.mem_cons, List.not_mem_nil, or_false] at hc; omega
  exact (h.write (.inl ⟨by decide, hsub⟩) _).writeFld (.inl ⟨by decide, hclaim⟩) _ _ _

theorem State.clearSlot_spares {i : Nat} (hi : i < 64) : KillSpares u (s.clearSlot i) := by
  unfold State.clearSlot
  split
  · exact h
  · exact (State.releaseTokens_spares h _ _ _).write (.inl ⟨by decide, by omega⟩) _

theorem State.notePinBusy_spares : KillSpares u s.notePinBusy := by
  have hbit (b : Bool) : KillSpares u (s.setBit 0x2311 4 4 b) := h.writeFld (.inl ⟨by decide, by decide⟩) _ _ _
  exact KillSpares.ite (hbit _) ((hbit _).of_regs rfl)

omit h in
theorem State.lt_of_mem_pinSlots {p : Nat × Nat × Nat × Nat} (hp : p ∈ s.pinSlots) : p.1 < 64 := by
  obtain ⟨i, hi, hslot⟩ := List.mem_filterMap.1 hp
  obtain ⟨x, -, rfl⟩ := Option.map_eq_some_iff.1 hslot
  exact List.mem_range.1 hi

theorem State.killPins_spares (c : Nat) : KillSpares u (s.killPins c) := by
  unfold State.killPins
  extract_lets mine s1 gone old s2 s3 held s4
  have h1 : KillSpares u s1 := by
    unfold s1
    split
    · refine KillSpares.ite (KillSpares.writeFld ?_ (.inl ⟨by decide, by decide⟩) _ _ _) h
      exact h.of_regs rfl
    · exact h
  have h2 : KillSpares u s2 := KillSpares.of_regs (s := s1) rfl h1
  have h3 : KillSpares u s3 := KillSpares.foldl _ (fun _ p hp h =>
    State.clearSlot_spares h (State.lt_of_mem_pinSlots (List.mem_filter.1 hp).1)) h2
  have h4 : KillSpares u s4 := KillSpares.of_regs (s := s3) rfl h3
  exact State.notePinBusy_spares h4

end

/-! #### The kill of a context -/

theorem State.ringsKilled_frame (c : Nat) (l : List Nat) (s : State) :
    (l.foldl (fun s r => if (s.ring c r).entBusy then s.setRing c r { s.ring c r with killed := true } else s) s).seq.jobs
      = s.seq.jobs
    ∧ (l.foldl (fun s r => if (s.ring c r).entBusy then s.setRing c r { s.ring c r with killed := true } else s) s).regs
      = s.regs := by
  induction l generalizing s with
  | nil => exact ⟨rfl, rfl⟩
  | cons r l ih =>
    simp only [List.foldl_cons]
    split
    · exact ih _
    · exact ih _

/-- Beside STATE and KILLCAUSE a kill writes no entry from 2860h to 294Fh. -/
theorem State.killWork_spares (s : State) (c : Nat) (b : Blame) (records : Bool) :
    KillSpares s (s.killWork c b records) := by
  unfold State.killWork
  generalize List.range 8 = rings
  extract_lets cls s1 s2 s3 s4 s5 s6 s7 s8 x
  have h2 : KillSpares s s2 := (KillSpares.refl s).of_regs rfl
  have h4 : KillSpares s s4 := State.killPins_spares (State.endJobs_spares h2 c b records) c
  have h5 : s5.regs = s4.regs := rfl
  have h6 : s6.regs = s5.regs := (State.ringsKilled_frame c rings s5).2
  clear_value s4 s5 s6
  exact h4.of_regs (Eq.trans rfl (h6.trans h5))

/-! ### What the kill of a context leaves of the jobs -/

/-- Every job of the later state has the context of a job of the earlier one. -/
def CtxsWithin (s t : State) : Prop := ∀ j ∈ t.seq.jobs, ∃ k ∈ s.seq.jobs, k.ctx = j.ctx

theorem CtxsWithin.trans {s t u : State} (h : CtxsWithin s t) (g : CtxsWithin t u) : CtxsWithin s u := fun j hj => by
  obtain ⟨k, hk, he⟩ := g j hj
  obtain ⟨l, hl, hm⟩ := h k hk
  exact ⟨l, hl, hm.trans he⟩

theorem CtxsWithin.of_jobs {s t : State} (h : t.seq.jobs = s.seq.jobs) : CtxsWithin s t :=
  fun j hj => ⟨j, h ▸ hj, rfl⟩

theorem State.jobsOf_eq_nil {s : State} {c : Nat} : s.jobsOf c = [] ↔ ∀ j ∈ s.seq.jobs, j.ctx.val ≠ c := by
  simp [State.jobsOf, List.filter_eq_nil_iff]

theorem CtxsWithin.jobsOf_nil {s t : State} (h : CtxsWithin s t) {c : Nat} (hn : s.jobsOf c = []) : t.jobsOf c = [] := by
  rw [State.jobsOf_eq_nil] at hn ⊢
  intro j hj
  obtain ⟨k, hk, he⟩ := h j hj
  exact he ▸ hn k hk

theorem State.Keeps.jobs {C : List Part} {s t : State} (h : State.Keeps C s t) (hc : Part.seq ∉ C) :
    t.seq.jobs = s.seq.jobs := congrArg Seq.jobs (h.parts .seq hc)

theorem State.seqWrite_jobs (s : State) (pa : Nat) (bs : List Byte) (p : Purpose) (c : Option Ctx) :
    (s.seqWrite pa bs p c).1.seq.jobs = s.seq.jobs :=
  (State.seqWrite_keeps (List.Subset.refl _) (State.Keeps.refl _ s) pa bs p c).jobs (by decide)

theorem State.recWritten_jobs (s : State) (c : Nat) (irq : Bool) : (s.recWritten c irq).seq.jobs = s.seq.jobs := by
  have hint (t : State) : (t.cqInterrupt c).seq.jobs = t.seq.jobs := by
    unfold State.cqInterrupt
    exact (State.raise_keeps (List.Subset.refl _) (State.Keeps.refl _ _) c).jobs (by decide)
  unfold State.recWritten
  dsimp only
  split
  · exact hint _
  · rfl

theorem State.writeRec_jobs (s : State) (c : Nat) (r : Rec) : (s.writeRec c r).seq.jobs = s.seq.jobs := by
  unfold State.writeRec
  extract_lets x size phase pa s1
  have h1 : s1.seq.jobs = s.seq.jobs := (State.countRec_keeps (List.Subset.refl _)
    (State.Keeps.refl _ (s.setCtx c { x with written := x.written + 1 })) r).jobs (by decide)
  have hw := (s1.seqWrite_jobs pa (wordBytes (r.words phase)) (.record (ctxFin c) r.irq) (some (ctxFin c))).trans h1
  split <;> rename_i t heq <;> rw [heq] at hw
  · exact hw
  · exact (State.recWritten_jobs _ _ _).trans hw
  · exact (State.recWritten_jobs _ _ _).trans
      (((State.recLost_keeps (List.Subset.refl _) (State.Keeps.refl _ t) c).jobs (by decide)).trans hw)

theorem State.drainHeld_jobs (fuel c : Nat) (s : State) : (State.drainHeld fuel c s).seq.jobs = s.seq.jobs := by
  induction fuel generalizing s with
  | zero => rfl
  | succ fuel ih =>
    unfold State.drainHeld
    extract_lets x
    split
    · rfl
    · split
      · exact (ih _).trans (State.writeRec_jobs _ _ _)
      · rfl

theorem State.removeJob_jobs (s : State) (j : Job) :
    (s.removeJob j).seq.jobs = s.seq.jobs.filter fun k => k.id ≠ j.id := by
  have hfree (l : List Nat) (t : State) : (l.foldl (fun s c => s.setCluster c (s.cluster c).free) t).seq = t.seq :=
    State.foldl_preserves State.seq (f := fun s c => s.setCluster c (s.cluster c).free) (fun _ _ => rfl) l t
  unfold State.removeJob
  dsimp only
  rw [hfree]
  rfl

theorem State.report_jobs (s : State) (j : Job) (e : JobEnd) (a b c : Nat) :
    (s.report j e a b c).seq.jobs = s.seq.jobs.filter fun k => k.id ≠ j.id := by
  unfold State.report
  dsimp only
  split
  · exact s.removeJob_jobs j
  · exact (State.drainHeld_jobs _ _ _).trans (s.removeJob_jobs j)

theorem State.reports_jobs (b : Blame) (js : List Job) (s : State) :
    (js.foldl (fun s j => s.report j .fault (blameOf b j.id).1 (blameOf b j.id).2.1 (blameOf b j.id).2.2) s).seq.jobs =
      s.seq.jobs.filter fun k => k.id ∉ js.map Job.id := by
  induction js generalizing s with
  | nil => simp
  | cons j js ih =>
    rw [List.foldl_cons, ih, State.report_jobs, List.filter_filter]
    simp only [List.map_cons, List.mem_cons, not_or, Bool.decide_and, ne_eq, Bool.and_comm]

/-- A context whose jobs have all been ended has none, and the others have no more than they had. -/
theorem State.endJobs_spec (s : State) (c : Nat) (b : Blame) : (s.endJobs c b true).jobsOf c = []
    ∧ CtxsWithin s (s.endJobs c b true) := by
  have hjobs : (s.endJobs c b true).seq.jobs = s.seq.jobs.filter fun k => k.id ∉ (s.jobsOf c).map Job.id :=
    State.reports_jobs b (s.jobsOf c) s
  refine ⟨State.jobsOf_eq_nil.2 fun j hj hc => ?_, fun j hj => ?_⟩ <;> rw [hjobs] at hj <;>
    obtain ⟨hmem, hid⟩ := List.mem_filter.1 hj
  · exact of_decide_eq_true hid (List.mem_map_of_mem (List.mem_filter.2 ⟨hmem, by simp [hc]⟩))
  · exact ⟨j, hmem, rfl⟩

theorem State.notePinBusy_ctxs (s : State) : CtxsWithin s s.notePinBusy := by
  unfold State.notePinBusy
  dsimp only
  split
  · exact .of_jobs rfl
  · intro j hj
    obtain ⟨k, hk, rfl⟩ := List.mem_map.1 hj
    exact ⟨k, hk, by split <;> rfl⟩

theorem State.clearSlots_jobs (l : List (Nat × Nat × Nat × Nat)) (s : State) :
    (l.foldl (fun s p => s.clearSlot p.1) s).seq.jobs = s.seq.jobs := by
  induction l generalizing s with
  | nil => rfl
  | cons p l ih =>
    have hkeeps : State.Keeps [.regs] s (s.clearSlot p.1) :=
      State.clearSlot_keeps (List.Subset.refl _) (State.Keeps.refl _ s) p.1
    exact (ih _).trans (hkeeps.jobs (by decide))

theorem State.killPins_ctxs (s : State) (c : Nat) : CtxsWithin s (s.killPins c) := by
  unfold State.killPins
  extract_lets mine s1 gone old s2 s3 held s4
  have h1 : s1.seq.jobs = s.seq.jobs := by
    unfold s1
    split
    · split <;> rfl
    · rfl
  have h3 : s3.seq.jobs = s2.seq.jobs := State.clearSlots_jobs _ _
  clear_value s1
  have h4 : s4.seq.jobs = s.seq.jobs := h3.trans h1
  exact (CtxsWithin.of_jobs h4).trans s4.notePinBusy_ctxs

theorem State.killWork_spec (s : State) (c : Nat) (b : Blame) : (s.killWork c b true).jobsOf c = []
    ∧ CtxsWithin s (s.killWork c b true) := by
  unfold State.killWork
  generalize List.range 8 = rings
  extract_lets cls s1 s2 s3 s4 s5 s6 s7 s8 x
  have h2 : CtxsWithin s s2 := .of_jobs rfl
  obtain ⟨hnone, h3⟩ : s3.jobsOf c = [] ∧ CtxsWithin s2 s3 := s2.endJobs_spec c b
  have h4 : CtxsWithin s3 s4 := s3.killPins_ctxs c
  have h5 : s5.seq.jobs = s4.seq.jobs := rfl
  have h6 : s6.seq.jobs = s5.seq.jobs := (State.ringsKilled_frame c rings s5).1
  clear_value s2 s3 s4 s5 s6
  have hlast := h4.trans (.of_jobs (Eq.trans rfl (h6.trans h5)))
  exact ⟨hlast.jobsOf_nil hnone, (h2.trans h3).trans hlast⟩

/-! ### The kill of every context (R468) -/

/-- The context is HALTED and has no job. -/
def State.ctxDead (s : State) (c : Nat) : Prop := s.jobsOf c = [] ∧ s.ctxState c = ctxHalted

theorem State.killQuiet_eq (s : State) (c cause : Nat) (b : Blame) :
    s.killQuiet c cause b = ((s.killWork c b true).setFld 0x2860 (c + 1) 15 8 cause).setCtxState c ctxHalted := by
  unfold State.killQuiet
  rfl

/-- A context that is killed again with its jobs already ended is dead. -/
theorem State.ctxDead_setHalted {w : State} {c : Nat} (cause : Nat) (h : w.jobsOf c = []) :
    ((w.setFld 0x2860 (c + 1) 15 8 cause).setCtxState c ctxHalted).ctxDead c := by
  refine ⟨h, ?_⟩
  rw [State.ctxState, State.setCtxState, State.fld_setFld_self _ _ _ _ (by decide) (by decide)]
  rfl

/-- The kill of a context leaves it dead, and a dead one dead. -/
theorem State.killQuiet_dead (s : State) (c cause : Nat) (b : Blame) {k : Nat} (hk : k < 16)
    (h : k = c ∨ s.ctxDead k) : (s.killQuiet c cause b).ctxDead k := by
  obtain ⟨hnone, hwithin⟩ := s.killWork_spec c b
  have hspares := s.killWork_spares c b true
  rw [State.killQuiet_eq]
  generalize s.killWork c b true = w at hnone hwithin hspares ⊢
  by_cases hc : k = c
  · subst hc
    exact State.ctxDead_setHalted cause hnone
  · obtain ⟨hdead, hhalted⟩ := h.resolve_left hc
    refine ⟨hwithin.jobsOf_nil hdead, ?_⟩
    have hne : regKey 0x2860 (k + 1) ≠ regKey 0x2860 (c + 1) := by unfold regKey; omega
    rw [State.ctxState, State.fld, State.setCtxState, State.reg_setFld_ne _ _ _ _ hne,
      State.reg_setFld_ne _ _ _ _ hne, hspares 0x2860 (k + 1) (by decide) (by decide) (by omega)]
    exact hhalted

theorem State.killQuiets_dead (cs : List Nat) (s : State) {k : Nat} (hk : k < 16) (h : k ∈ cs ∨ s.ctxDead k) :
    (cs.foldl (fun s c => s.killQuiet c 0x2F []) s).ctxDead k := by
  induction cs generalizing s with
  | nil => exact h.resolve_left List.not_mem_nil
  | cons c cs ih =>
    rw [List.foldl_cons]
    rcases h with h | h
    · rcases List.mem_cons.1 h with rfl | h
      · exact ih _ (.inr (s.killQuiet_dead _ _ _ hk (.inl rfl)))
      · exact ih _ (.inl h)
    · exact ih _ (.inr (s.killQuiet_dead _ _ _ hk (.inr h)))

theorem State.killAll_dead (s : State) {k : Nat} (hk : k < 16) : s.killAll.ctxDead k := by
  unfold State.killAll
  exact State.killQuiets_dead _ s hk (.inl (List.mem_range.2 hk))

/-! ### Entry to FAULTED (R466, R468) -/

theorem State.enterFaulted_eq {s : State} (h1 : devStandby < s.dev) (h2 : s.dev ≠ devFaulted) :
    s.enterFaulted = s.snapFault.killAll.leavesOff.enterPhase' devFaulted :=
  if_neg (not_or.2 ⟨Nat.not_le.2 h1, h2⟩)

theorem State.enterFaulted_faulted {s : State} (h1 : devStandby < s.dev) (h2 : s.dev ≠ devFaulted) :
    Faulted s.enterFaulted := by
  rw [State.enterFaulted_eq h1 h2]
  generalize hw : s.snapFault.killAll = w
  have hdead (k : Nat) (hk : k < 16) : w.ctxDead k := hw ▸ State.killAll_dead _ hk
  obtain ⟨hdev, hbring⟩ := w.leavesOff.enterPhase'_spec (n := devFaulted) (by decide)
  have hkeeps : State.Keeps [.regs, .link, .can, .bring, .out] w.leavesOff (w.leavesOff.enterPhase' devFaulted) :=
    State.enterPhase'_keeps (by decide) (State.Keeps.refl _ _) _
  have hhbm : (w.leavesOff.enterPhase' devFaulted).hbm = w.leavesOff.hbm := hkeeps.parts .hbm (by decide)
  have hseq : (w.leavesOff.enterPhase' devFaulted).seq = w.seq := hkeeps.parts .seq (by decide)
  have hentries := State.enterPhase'_entries (C := [(0x2B00, 1), (0x3001, 0x0B)]) (by decide) (by decide)
    (Entries.refl _ w.leavesOff) devFaulted
  refine ⟨hdev, by rw [hbring]; rfl, by rw [hhbm]; rfl, fun c hc => ?_⟩
  obtain ⟨hjobs, hhalted⟩ := hdead c hc
  refine ⟨by rw [State.jobsOf, hseq]; exact hjobs, ?_⟩
  rw [State.ctxState, State.fld, hentries 0x2860 (c + 1) fun k hk => ?_]
  · exact hhalted
  · simp only [List.mem_cons, List.not_mem_nil, or_false] at hk
    obtain rfl | rfl := hk <;> exact regKey_ne_of_idx (by omega) (by decide) (by decide)

theorem converterFault_faults {s : State} (h1 : devStandby < s.dev) (h2 : s.dev ≠ devFaulted) :
    Runs .converterFault s [.regs, .clusters, .mcasts, .caddy, .hbm, .reqs, .seq, .fabric, .link, .can, .bring, .snap,
        .out] fun t => Faulted t ∧ t.bring.shut = true := by
  generalize hw : ({ s with bring := { s.bring with shut := true } } : State) = w
  have hdev : w.dev = s.dev := by subst hw; rfl
  have heq : s.converterFailed = w.enterFaulted := by
    subst hw
    exact if_neg (Nat.not_le.2 h1)
  have hexec : exec .converterFault s = .next s.converterFailed := rfl
  have hframe := (State.converterFailed_keeps (List.Subset.refl _) (State.Keeps.refl _ s)).frame
  rw [heq] at hframe
  have hfaulted := State.enterFaulted_faulted (hdev ▸ h1) (hdev ▸ h2)
  refine ⟨_, hexec.trans (congrArg _ heq), hframe, hfaulted, ?_⟩
  have hkills : State.Keeps killParts w w.snapFault.killAll :=
    State.killAll_keeps (by decide) (State.snapFault_keeps (by decide) (State.Keeps.refl _ w))
  have hbring : w.snapFault.killAll.bring = w.bring := hkills.parts .bring (by decide)
  rw [State.enterFaulted_eq (hdev ▸ h1) (hdev ▸ h2), (State.enterPhase'_spec _ (by decide)).2]
  simp only [State.leavesOff, hbring]
  subst hw
  rfl

end Sys2Proof.Machine
end

section
/-! SUPPORT. The image of the flash starts to run, and the phases BOOT and POWERING begin. -/

namespace Sys2Proof.Machine

/-! ### The verification of the flash image ends (R470, R473) -/

theorem verifyImage_lt (svn : Nat) (i : Image) (pois : Nat → Nat → Bool) : verifyImage svn i pois < 16 := by
  unfold verifyImage
  repeat' refine iteInduction (motive := (· < 16)) (fun _ => ?_) fun _ => ?_
  all_goals decide

theorem State.flashResult_lt (s : State) : s.flashResult < 16 := by
  unfold State.flashResult
  split
  · exact verifyImage_lt _ _ _
  · decide

theorem State.count_entries {C : List (Nat × Nat)} {u s : State} {idx sub : Nat} (hm : (idx, sub) ∈ C)
    (h : Entries C u s) : Entries C u (s.count idx sub) := h.write hm _

theorem State.canSend_entries {C : List (Nat × Nat)} {u s : State} (hm : (0x3001, 3) ∈ C) (h : Entries C u s)
    (base : Nat) (data : List Byte) : Entries C u (s.canSend base data) := by
  unfold State.canSend
  split
  · exact State.count_entries hm (h.of_regs rfl)
  · exact h

theorem State.bootUp_entries {C : List (Nat × Nat)} {u s : State} (h1 : (0x3001, 3) ∈ C) (h2 : (0x2012, 1) ∈ C)
    (h : Entries C u s) : Entries C u s.bootUp := by
  have hnmt : Entries C u ((s.canSend 0x700 [0]).setNmt nmtOperational) := (State.canSend_entries h1 h _ _).write h2 _
  exact hnmt.of_regs rfl

theorem State.startCan_entries {C : List (Nat × Nat)} {u s : State} (h1 : (0x3001, 3) ∈ C) (h2 : (0x2012, 1) ∈ C)
    (h : Entries C u s) : Entries C u s.startCan := by
  unfold State.startCan
  dsimp only
  split
  · exact State.bootUp_entries h1 h2 (h.of_regs rfl)
  · exact h.of_regs rfl

theorem State.nmt_bootUp (s : State) : s.bootUp.nmt = nmtOperational :=
  (s.canSend 0x700 [0]).fld_setFld_self 0x2012 1 nmtOperational (by decide) (by decide)

theorem State.nmt_startCan (s : State) (h : canNode ≠ 0) : s.startCan.nmt = nmtOperational := by
  unfold State.startCan
  rw [if_pos h]
  exact State.nmt_bootUp _

section
variable {s : State} (hrom : s.bring.rom = true) (hrst : s.bring.modRst = false) (hoff : s.dev ≠ devOff)
include hrom hrst hoff

theorem State.verifyDone_valid (h : s.flashResult = 1) : ∃ i, s.verifyDone = (s.setFld 0x2B00 4 3 0 1).runImage i false := by
  have hgo : ¬ ((!s.bring.rom || s.bring.modRst || s.dev = devOff) = true) := by simp [hrom, hrst, hoff]
  cases himg : s.flash.image with
  | none => simp [State.flashResult, himg] at h
  | some i =>
    refine ⟨i, ?_⟩
    unfold State.verifyDone
    rw [if_neg hgo, h]
    change (match s.flash.image with | some i => _ | none => _) = _
    rw [himg]
    rfl

theorem State.verifyDone_invalid (h : s.flashResult ≠ 1) : s.verifyDone =
    { s.setFld 0x2B00 4 3 0 s.flashResult with bring := { s.bring with rom := false, romWait := true } } := by
  have hgo : ¬ ((!s.bring.rom || s.bring.modRst || s.dev = devOff) = true) := by simp [hrom, hrst, hoff]
  unfold State.verifyDone
  rw [if_neg hgo]
  dsimp only
  split
  · exact if_neg h
  · rfl

theorem firmwareVerifyDone_runs (h : s.flashResult = 1) :
    Runs .firmwareVerifyDone s [.regs, .link, .can, .bring, .flash, .out] fun t =>
      t.bring = { s.bring with firmware := true, rom := false, romWait := false } ∧ t.fld 0x2B00 4 3 0 = 1
      ∧ t.flash.image = s.flash.image ∧ t.dev = s.dev ∧ (canNode ≠ 0 → t.nmt = nmtOperational) := by
  obtain ⟨i, heq⟩ := State.verifyDone_valid hrom hrst hoff h
  have hexec : exec .firmwareVerifyDone s = .next s.verifyDone := rfl
  have hframe := (State.verifyDone_keeps (List.Subset.refl _) (State.Keeps.refl _ s)).frame
  refine ⟨_, hexec, hframe, ?_⟩
  rw [heq]
  generalize hw : ({ s.setFld 0x2B00 4 3 0 1 with
    bring := { s.bring with firmware := true, rom := false, romWait := false }
    flash := { s.flash with running := i.header.take 0x800, evAt := s.time.now } } : State) = w
  have hrun : (s.setFld 0x2B00 4 3 0 1).runImage i false = w.startCan := by subst hw; rfl
  have hkeeps : State.Keeps [.regs, .can, .out] w w.startCan :=
    State.startCan_keeps (List.Subset.refl _) (State.Keeps.refl _ w)
  have hentries : Entries [(0x3001, 3), (0x2012, 1)] w w.startCan :=
    State.startCan_entries (by decide) (by decide) (Entries.refl _ w)
  have hbring : w.startCan.bring = w.bring := hkeeps.parts .bring (by decide)
  have hflash : w.startCan.flash = w.flash := hkeeps.parts .flash (by decide)
  have hword : w.startCan.reg 0x2B00 4 = (s.setFld 0x2B00 4 3 0 1).reg 0x2B00 4 :=
    (hentries _ _ (by decide)).trans (by subst hw; rfl)
  have hdev : w.startCan.reg 0x2B00 1 = s.reg 0x2B00 1 :=
    ((hentries _ _ (by decide)).trans (by subst hw; rfl)).trans (State.reg_setFld_ne s _ _ _ (by decide))
  rw [hrun]
  refine ⟨hbring.trans (by subst hw; rfl), ?_, by rw [hflash]; subst hw; rfl, State.dev_of_reg hdev, w.nmt_startCan⟩
  rw [State.fld, hword]
  exact s.fld_setFld_self 0x2B00 4 1 (by decide) (by decide)

theorem firmwareVerifyDone_waits (h : s.flashResult ≠ 1) : Runs .firmwareVerifyDone s [.regs, .bring] fun t =>
    t.bring = { s.bring with rom := false, romWait := true } ∧ t.fld 0x2B00 4 3 0 = s.flashResult
    ∧ Entries [(0x2B00, 4)] s t := by
  have hexec : exec .firmwareVerifyDone s = .next s.verifyDone := rfl
  have hkeeps : State.Keeps [.regs, .bring] s (s.setFld 0x2B00 4 3 0 s.flashResult) :=
    (State.Keeps.refl _ s).setReg (by decide) _ _ _
  refine ⟨_, hexec.trans (congrArg _ (State.verifyDone_invalid hrom hrst hoff h)),
    (State.withBring_keeps (by decide) hkeeps _).frame, rfl, ?_, (Entries.setReg s _ _ _).of_regs rfl⟩
  exact (s.fld_setFld_self 0x2B00 4 _ (by decide) (by decide)).trans (Nat.mod_eq_of_lt s.flashResult_lt)

end

end Sys2Proof.Machine
end

section
/-! SUPPORT. POWERING: the pots, the check of the leaves, the waves and the ports. -/

namespace Sys2Proof.Machine

/-! ### A pot in lead, and the tokens (R29, R30, R154) -/

/-- The three maps of the clusters: those that are present, that are missing, and that are parked. -/
def mapEntries : List (Nat × Nat) := [(0x2500, 1), (0x2500, 2), (0x2500, 3)]

/-- The entries that tell of the pots. -/
def potEntries : List (Nat × Nat) := (0x2300, 0x10) :: mapEntries

section
variable {C : List (Nat × Nat)} {u s : State}

theorem Entries.withBring (h : Entries C u s) (b : Bring) : Entries C u { s with bring := b } := h.of_regs rfl

theorem Entries.withLanes (h : Entries C u s) (l : Lanes) : Entries C u { s with lanes := l } := h.of_regs rfl

theorem State.fillTokens_entries (h1 : (0x2314, 1) ∈ C) (h2 : (0x2314, 2) ∈ C) (h : Entries C u s) :
    Entries C u s.fillTokens := (h.write h1 _).write h2 _

theorem State.parkLeaf_entries (hp : mapEntries ⊆ C) (h : Entries C u s) (leaf : Nat) : Entries C u (s.parkLeaf leaf) := by
  unfold State.parkLeaf
  extract_lets m s1 s2 s3
  have h1 : Entries C u s1 := h.write (hp (by decide)) _
  have h2 : Entries C u s2 := h1.write (hp (by decide)) _
  have h3 : Entries C u s3 := h2.write (hp (by decide)) _
  exact h3.withBring _

theorem State.lead_entries (hp : potEntries ⊆ C) (h : Entries C u s) (pot : Nat) : Entries C u (s.lead pot) := by
  have hmaps : mapEntries ⊆ C := List.Subset.trans (by decide) hp
  have hpark : Entries C u ((s.setFld 0x2300 0x10 (5 + 2 * pot) (4 + 2 * pot) 1).parkLeaf (2 * pot + 1)) :=
    State.parkLeaf_entries hmaps (h.write (hp (by decide)) _) _
  exact hpark.withLanes _

theorem State.applyPot_entries (hp : potEntries ⊆ C) (h : Entries C u s) (pot : Nat) : Entries C u (s.applyPot pot) := by
  have hm : (0x2300, 0x10) ∈ C := hp (by decide)
  unfold State.applyPot
  extract_lets mode s1
  have h1 : Entries C u s1 := h.write hm _
  split
  · exact State.lead_entries hp (h1.write hm _) pot
  · split
    · exact State.lead_entries hp h1 pot
    · exact h1.write hm _

end

theorem State.lead_bootPrev (s : State) (pot : Nat) : (s.lead pot).bring.bootPrev = s.bring.bootPrev := rfl

theorem State.applyPot_bootPrev (s : State) (pot : Nat) : (s.applyPot pot).bring.bootPrev = s.bring.bootPrev := by
  unfold State.applyPot
  extract_lets mode s1
  split
  · exact State.lead_bootPrev _ pot
  · split
    · exact State.lead_bootPrev s1 pot
    · rfl

/-- A parked leaf shows in the map of the parked clusters, and is off. -/
theorem State.parkLeaf_spec (s : State) {leaf : Nat} (hl : leaf < 4) : (s.parkLeaf leaf).leafParked leaf = true
    ∧ (s.parkLeaf leaf).bring = { s.bring with leafOn := s.bring.leafOn &&& ~~~((1 : BitVec 4) <<< leaf) } := by
  refine ⟨?_, rfl⟩
  have hword : (s.parkLeaf leaf).reg 0x2500 3 = _ := State.reg_setReg_self _ _ _ _
  rw [State.leafParked, hword, BitVec.getLsbD_or, leafMask, mask_getLsbD _ (by omega) (by omega)]
  simp

theorem State.bring_lead (s : State) (pot : Nat) : (s.lead pot).bring =
    { s.bring with leafOn := s.bring.leafOn &&& ~~~((1 : BitVec 4) <<< (2 * pot + 1)) } := rfl

/-- A pot forced into lead says so, and its upper leaf is parked and off. -/
theorem State.forceLead_spec (s : State) {pot : Nat} (hp : pot < 2) :
    (s.forceLead pot).bit 0x2300 0x10 (8 + pot) = true ∧ (s.forceLead pot).potCfg pot = 1
    ∧ (s.forceLead pot).leafParked (2 * pot + 1) = true
    ∧ (s.forceLead pot).bring = { s.bring with leafOn := s.bring.leafOn &&& ~~~((1 : BitVec 4) <<< (2 * pot + 1)) } := by
  generalize hu : s.setBit 0x2300 0x10 (8 + pot) true = u
  generalize hv : u.setFld 0x2300 0x10 (5 + 2 * pot) (4 + 2 * pot) 1 = v
  obtain ⟨hparked, hbring⟩ := v.parkLeaf_spec (leaf := 2 * pot + 1) (by omega)
  have hlead : s.forceLead pot = u.lead pot := by subst hu; rfl
  have hregs : (u.lead pot).regs = (v.parkLeaf (2 * pot + 1)).regs := by subst hv; rfl
  have hmaps := State.parkLeaf_entries (List.Subset.refl _) (Entries.refl _ v) (2 * pot + 1)
  have hpot : (u.lead pot).reg 0x2300 0x10 = v.reg 0x2300 0x10 :=
    (State.reg_of_regs hregs _ _).trans (hmaps _ _ (by decide))
  rw [hlead]
  refine ⟨?_, ?_, ?_, ?_⟩
  · have hforced : u.bit 0x2300 0x10 (8 + pot) = true := by
      subst hu
      exact s.bit_setBit_self _ _ true (by omega)
    rw [State.bit_of_reg hpot, State.bit]
    subst hv
    rw [u.fld_setFld_apart 0x2300 0x10 1 (by omega) (by omega) (by omega) (by omega)]
    exact hforced
  · rw [State.potCfg, State.fld, hpot]
    subst hv
    have hwidth : 5 + 2 * pot + 1 - (4 + 2 * pot) = 2 := by omega
    refine (u.fld_setFld_self 0x2300 0x10 1 (by omega) (by omega)).trans ?_
    rw [hwidth]
    rfl
  · rw [State.leafParked, State.reg_of_regs hregs]
    exact hparked
  · rw [State.bring_lead]
    subst hu
    rfl

/-! ### The check of the leaves (R473) -/

theorem getLsbD_one_shiftLeft {w i : Nat} (c : Nat) (hi : i < w) : ((1 : BitVec w) <<< c).getLsbD i = decide (i = c) := by
  rw [BitVec.getLsbD_shiftLeft, Bool.eq_iff_iff]
  simp only [hi, decide_true, Bool.true_and, BitVec.ofNat_eq_ofNat, BitVec.getLsbD_one, Bool.and_eq_true,
    Bool.not_eq_true', decide_eq_false_iff_not, decide_eq_true_eq]
  omega

/-- The bits of a map that is made one bit after another. -/
theorem getLsbD_foldl_bits {w i : Nat} (l : List Nat) (b : BitVec w) (hi : i < w) :
    (l.foldl (fun (b : BitVec w) c => b ||| ((1 : BitVec w) <<< c)) b).getLsbD i = (b.getLsbD i || decide (i ∈ l)) := by
  induction l generalizing b with
  | nil => simp
  | cons c l ih =>
    rw [List.foldl_cons, ih, BitVec.getLsbD_or, getLsbD_one_shiftLeft c hi, Bool.or_assoc]
    simp only [List.mem_cons, Bool.decide_or]

/-- The leaves that are not parked. -/
def State.leavesUp (s : State) : List Nat := (List.range 4).filter fun l => !s.leafParked l

/-- The leaves are checked, and those that are not parked are on. -/
def State.leavesLit (s : State) : State :=
  { s with bring := { s.bring with
    checked := true, leafOn := s.leavesUp.foldl (fun (b : BitVec 4) l => b ||| ((1 : BitVec 4) <<< l)) 0 } }

/-- The leaves that have not reached their set-point. -/
def State.leavesBad (s : State) (ok : List Bool) : List Nat :=
  [0, 2, 1, 3].filter fun l => decide (l ∈ s.leavesUp) && !ok.getD l false

theorem State.mem_leavesUp {s : State} {l : Nat} : l ∈ s.leavesUp ↔ l < 4 ∧ s.leafParked l = false := by
  simp [State.leavesUp]

theorem State.leavesLit_bit (s : State) {l : Nat} (hl : l < 4) : s.leavesLit.bring.leafOn.getLsbD l = !s.leafParked l := by
  have h := getLsbD_foldl_bits s.leavesUp (0 : BitVec 4) hl
  refine h.trans ?_
  simp [State.mem_leavesUp, hl]

theorem State.leavesBad_single {s : State} {ok : List Bool} {l : Nat} (hl : l = 1 ∨ l = 3) (hup : s.leafParked l = false)
    (hfail : ok.getD l false = false)
    (hrest : ∀ k, k < 4 → k ≠ l → s.leafParked k = true ∨ ok.getD k false = true) : s.leavesBad ok = [l] := by
  have hself : (decide (l ∈ s.leavesUp) && !ok.getD l false) = true := by
    rw [decide_eq_true (State.mem_leavesUp.2 ⟨by omega, hup⟩), hfail]
    rfl
  have hother (k : Nat) (hk : k < 4) (hne : k ≠ l) : (decide (k ∈ s.leavesUp) && !ok.getD k false) = false := by
    rcases hrest k hk hne with h | h
    · have hparked : k ∉ s.leavesUp := fun hmem => absurd (State.mem_leavesUp.1 hmem).2 (by simp [h])
      rw [decide_eq_false hparked]
      rfl
    · rw [h, Bool.not_true, Bool.and_false]
  unfold State.leavesBad
  rcases hl with rfl | rfl <;> simp only [List.filter_cons, List.filter_nil]
  · rw [hother 0, hother 2, hother 3, hself] <;> simp
  · rw [hother 0, hother 2, hother 1, hself] <;> simp

section
variable {s : State} {ok : List Bool} (hdev : s.dev = devPowering) (hchecked : s.bring.checked = false)
  (htime : s.passedNs s.bring.phaseAt 6000000 = true)
include hdev hchecked htime

theorem State.leafCheck_eq : s.leafCheck ok = ((s.leavesBad ok).foldl State.leafFailed s.leavesLit).fillTokens := by
  have hgo : ¬ ((s.dev ≠ devPowering || s.bring.checked || !s.passedNs s.bring.phaseAt 6000000) = true) := by
    simp [hdev, hchecked, htime]
  unfold State.leafCheck
  rw [if_neg hgo]
  rfl

theorem leafPowerupCheck_all (hok : ∀ l, l < 4 → s.leafParked l = false → ok.getD l false = true) :
    Runs (.leafPowerupCheck ok) s [.regs, .bring] fun t => t.bring.checked = true
      ∧ ∀ l, l < 4 → t.bring.leafOn.getLsbD l = !s.leafParked l := by
  have hbad : s.leavesBad ok = [] := by
    refine List.filter_eq_nil_iff.2 fun l _ => ?_
    rw [Bool.and_eq_true, decide_eq_true_eq, State.mem_leavesUp]
    rintro ⟨⟨hl, hup⟩, hfail⟩
    rw [hok l hl hup] at hfail
    exact absurd hfail (by decide)
  have heq : s.leafCheck ok = s.leavesLit.fillTokens := by
    rw [State.leafCheck_eq hdev hchecked htime, hbad]
    rfl
  have hexec : exec (.leafPowerupCheck ok) s = .next (s.leafCheck ok) := rfl
  have hkeeps : State.Keeps [.regs, .bring] s s.leavesLit.fillTokens :=
    State.fillTokens_keeps (by decide) (State.withBring_keeps (by decide) (State.Keeps.refl _ s) _)
  exact ⟨_, hexec.trans (congrArg _ heq), hkeeps.frame, rfl, fun l hl => s.leavesLit_bit hl⟩

theorem leafPowerupCheck_upper {l : Nat} (hl : l = 1 ∨ l = 3) (hgood : s.bring.leafBad.getLsbD l = false)
    (hup : s.leafParked l = false) (hfail : ok.getD l false = false)
    (hrest : ∀ k, k < 4 → k ≠ l → s.leafParked k = true ∨ ok.getD k false = true) :
    Runs (.leafPowerupCheck ok) s [.regs, .bring, .lanes] fun t => t.bring.checked = true
      ∧ t.bit 0x2300 0x10 (8 + l / 2) = true ∧ t.potCfg (l / 2) = 1 ∧ t.leafParked l = true
      ∧ t.bring.leafOn.getLsbD l = false := by
  have hodd : 2 * (l / 2) + 1 = l := by omega
  have hfailed : s.leavesLit.leafFailed l = s.leavesLit.forceLead (l / 2) := by
    have hlit : s.leavesLit.bring.leafBad.getLsbD l = false := hgood
    rw [State.leafFailed, if_neg (by omega), hlit]
    rfl
  have heq : s.leafCheck ok = (s.leavesLit.forceLead (l / 2)).fillTokens := by
    rw [State.leafCheck_eq hdev hchecked htime, State.leavesBad_single hl hup hfail hrest, List.foldl_cons,
      List.foldl_nil, hfailed]
  have hexec : exec (.leafPowerupCheck ok) s = .next (s.leafCheck ok) := rfl
  have hframe := (State.leafCheck_keeps (List.Subset.refl _) (State.Keeps.refl _ s) ok).frame
  refine ⟨_, hexec, hframe, ?_⟩
  obtain ⟨hforced, hcfg, hparked, hbring⟩ := s.leavesLit.forceLead_spec (pot := l / 2) (by omega)
  rw [hodd] at hparked hbring
  rw [heq]
  generalize s.leavesLit.forceLead (l / 2) = w at hforced hcfg hparked hbring ⊢
  have hentries : Entries [(0x2314, 1), (0x2314, 2)] w w.fillTokens :=
    State.fillTokens_entries (by decide) (by decide) (Entries.refl _ w)
  have hpots : w.fillTokens.reg 0x2300 0x10 = w.reg 0x2300 0x10 := hentries _ _ (by decide)
  have hmap : w.fillTokens.reg 0x2500 3 = w.reg 0x2500 3 := hentries _ _ (by decide)
  have hsame : w.fillTokens.bring = w.bring := rfl
  rw [hsame, hbring]
  refine ⟨rfl, (State.bit_of_reg hpots _).trans hforced, ?_, ?_, ?_⟩
  · rw [State.potCfg, State.fld, hpots]
    exact hcfg
  · rw [State.leafParked, hmap]
    exact hparked
  · rw [BitVec.getLsbD_and, BitVec.getLsbD_not, getLsbD_one_shiftLeft l (by omega)]
    simp

end

/-! ### The waves, and the ports that train (R473) -/

theorem powerWave_ramps {s : State} {w : Fin 8} (hdev : s.dev = devPowering) (hchecked : s.bring.checked = true)
    (hwaves : s.bring.waves = List.range w) (htime : s.passedNs s.bring.phaseAt (1000000 * (10 + 20 * w)) = true) :
    Runs (.powerWave w) s [.bring] fun t => t.bring = { s.bring with waves := s.bring.waves ++ [w.val] } := by
  have heq : s.wave w.val = { s with bring := { s.bring with waves := s.bring.waves ++ [w.val] } } :=
    if_pos ⟨hdev, hchecked, hwaves, htime⟩
  have hexec : exec (.powerWave w) s = .next (s.wave w.val) := rfl
  exact ⟨_, hexec.trans (congrArg _ heq), (State.withBring_keeps (by decide) (State.Keeps.refl _ s) _).frame, rfl⟩

/-- The entries that tell of the states of the ports. -/
def portEntries : List (Nat × Nat) := (List.range 16).map fun i => (0x2902, i + 1)

theorem mem_portEntries {i : Nat} (hi : i < 16) : (0x2902, i + 1) ∈ portEntries :=
  List.mem_map.2 ⟨i, List.mem_range.2 hi, rfl⟩

/-- A port that is neither up nor mismatched raises no event. -/
theorem State.setPortState_quiet {st : Nat} (h1 : st ≠ portUpSt) (h2 : st ≠ portMismatch) (s : State) (i : Nat) :
    (s.setPortState i st).regs = (if s.portState i = st then s else s.setFld 0x2902 (i + 1) 2 0 st).regs := by
  unfold State.setPortState
  by_cases hs : s.portState i = st
  · rw [if_pos hs, if_pos hs]
  · simp only [if_neg hs, if_neg h1, if_neg h2]

section
variable {st : Nat} (h1 : st ≠ portUpSt) (h2 : st ≠ portMismatch)
include h1 h2

theorem State.setPortState_entries {C : List (Nat × Nat)} {u s : State} {i : Nat} (hm : (0x2902, i + 1) ∈ C)
    (h : Entries C u s) : Entries C u (s.setPortState i st) := by
  refine Entries.of_regs (State.setPortState_quiet h1 h2 s i) ?_
  split
  · exact h
  · exact h.write hm _

theorem State.portState_setPortState_self (h8 : st < 8) (s : State) (i : Nat) : (s.setPortState i st).portState i = st := by
  rw [State.portState, State.fld, State.reg_of_regs (State.setPortState_quiet h1 h2 s i)]
  split
  · assumption
  · exact (s.fld_setFld_self 0x2902 (i + 1) st (by decide) (by decide)).trans (Nat.mod_eq_of_lt h8)

theorem State.portState_setPortState_ne (s : State) {i j : Nat} (hij : j ≠ i) :
    (s.setPortState i st).portState j = s.portState j := by
  have hne : regKey 0x2902 (j + 1) ≠ regKey 0x2902 (i + 1) := by unfold regKey; omega
  have h := State.setPortState_entries h1 h2 (C := [(0x2902, i + 1)]) (List.mem_singleton_self _) (Entries.refl _ s)
    0x2902 (j + 1) (by simpa using hne)
  rw [State.portState, State.fld, h]
  rfl

end

/-- What a port's state becomes as the ports begin to train. -/
def State.portStart (s : State) (i : Nat) : Nat := if s.portEn i then portTraining else portDisabled

/-- One port begins to train. -/
def State.portTrains (s : State) (i : Nat) : State := if s.portExists i then s.setPortState i (s.portStart i) else s

theorem State.portStart_quiet (s : State) (i : Nat) :
    s.portStart i ≠ portUpSt ∧ s.portStart i ≠ portMismatch ∧ s.portStart i < 8 := by
  unfold State.portStart
  split <;> decide

theorem State.portTrains_entries {C : List (Nat × Nat)} {u s : State} {i : Nat} (hm : (0x2902, i + 1) ∈ C)
    (h : Entries C u s) : Entries C u (s.portTrains i) := by
  obtain ⟨hup, hmis, -⟩ := s.portStart_quiet i
  unfold State.portTrains
  split
  · exact State.setPortState_entries hup hmis hm h
  · exact h

/-- The words that say which ports there are, and which are enabled, do not change. -/
theorem Entries.ports {s t : State} (h : Entries portEntries s t) (i : Nat) : t.portExists i = s.portExists i
    ∧ (i < 16 → t.portStart i = s.portStart i) := by
  have hsplit : t.split = s.split := State.bit_of_reg (h 0x2900 1 (by decide)) 3
  refine ⟨by rw [State.portExists, State.portExists, hsplit], fun hi => ?_⟩
  have hword : t.reg 0x2901 (i + 1) = s.reg 0x2901 (i + 1) := h _ _ fun k hk => by
    obtain ⟨j, hj, rfl⟩ := List.mem_map.1 hk
    have := List.mem_range.1 hj
    exact regKey_ne_of_idx (by omega) (by omega) (by simp)
  rw [State.portStart, State.portStart, State.portEn, State.portEn, State.bit_of_reg hword]

theorem State.portsTrain_spec {l : List Nat} (hl : ∀ i ∈ l, i < 16) (s : State) :
    Entries portEntries s (l.foldl State.portTrains s) ∧ ∀ i, s.portExists i = true →
      (l.foldl State.portTrains s).portState i = if i ∈ l then s.portStart i else s.portState i := by
  induction l generalizing s with
  | nil => exact ⟨Entries.refl _ _, fun i _ => by simp⟩
  | cons k l ih =>
    have hk : k < 16 := hl k (by simp)
    have hstep : Entries portEntries s (s.portTrains k) := State.portTrains_entries (mem_portEntries hk) (Entries.refl _ s)
    obtain ⟨hrest, hstates⟩ := ih (fun i hi => hl i (by simp [hi])) (s.portTrains k)
    refine ⟨fun i j h => (hrest i j h).trans (hstep i j h), fun i hi => ?_⟩
    obtain ⟨hexists, hstart⟩ := hstep.ports i
    obtain ⟨hup, hmis, h8⟩ := s.portStart_quiet k
    rw [List.foldl_cons, hstates i (hexists.trans hi)]
    by_cases hik : i = k
    · subst hik
      have hself : (s.portTrains i).portState i = s.portStart i := by
        rw [State.portTrains, if_pos hi, State.portState_setPortState_self hup hmis h8]
      rw [hself, hstart hk, if_pos List.mem_cons_self, ite_self]
    · have hother : (s.portTrains k).portState i = s.portState i := by
        unfold State.portTrains
        split
        · exact State.portState_setPortState_ne hup hmis s hik
        · rfl
      have hmem : i ∈ k :: l ↔ i ∈ l := by simp [hik]
      rw [hother, if_congr hmem rfl rfl]
      split
      · rename_i h
        exact hstart (hl i (by simp [h]))
      · rfl

theorem State.lt_of_portExists {s : State} {i : Nat} (h : s.portExists i = true) : i < 16 := by
  have := of_decide_eq_true h
  split at this <;> omega

theorem poweringPhaseEnd_trains {s : State} (hdev : s.dev = devPowering) (hwaves : s.bring.waves.length = 8)
    (htime : s.passedNs s.bring.phaseAt 155000000 = true) :
    Runs .poweringPhaseEnd s [.regs, .fabric, .link, .can, .bring, .out] fun t => t.dev = devTraining
      ∧ t.bring = { s.bring with phaseAt := s.time.now }
      ∧ ∀ i, s.portExists i = true → t.portState i = if s.portEn i then portTraining else portDisabled := by
  have heq : s.poweringEnd = s.portsTrain.enterPhase' devTraining := if_pos ⟨hdev, hwaves, htime⟩
  have hexec : exec .poweringPhaseEnd s = .next s.poweringEnd := rfl
  have hframe := (State.poweringEnd_keeps (List.Subset.refl _) (State.Keeps.refl _ s)).frame
  have hkeeps : State.Keeps [.regs, .fabric, .link, .can, .out] s s.portsTrain :=
    State.portsTrain_keeps (List.Subset.refl _) (State.Keeps.refl _ s)
  have hbring : s.portsTrain.bring = s.bring := hkeeps.parts .bring (by decide)
  have htime : s.portsTrain.time = s.time := hkeeps.parts .time (by decide)
  have hports : ∀ i, s.portExists i = true → s.portsTrain.portState i = s.portStart i := fun i hi => by
    have h := (State.portsTrain_spec (l := List.range 16) (fun i hi => List.mem_range.1 hi) s).2 i hi
    rwa [if_pos (List.mem_range.2 (State.lt_of_portExists hi))] at h
  obtain ⟨hphase, hnow⟩ := s.portsTrain.enterPhase'_spec (n := devTraining) (by decide)
  have hentries : Entries [(0x2B00, 1), (0x3001, 0x0B)] s.portsTrain (s.portsTrain.enterPhase' devTraining) :=
    State.enterPhase'_entries (by decide) (by decide) (Entries.refl _ _) _
  refine ⟨_, hexec.trans (congrArg _ heq), heq ▸ hframe, hphase, by rw [hnow, hbring, htime], fun i hi => ?_⟩
  have hword := hentries 0x2902 (i + 1) fun k hk => by
    have hi16 := State.lt_of_portExists hi
    simp only [List.mem_cons, List.not_mem_nil, or_false] at hk
    obtain rfl | rfl := hk <;> exact regKey_ne_of_idx (by omega) (by decide) (by decide)
  rw [State.portState, State.fld, hword]
  exact hports i hi

end Sys2Proof.Machine
end

section
/-! SUPPORT. BOOT ends: what firmware has applied, numbered and built. -/

namespace Sys2Proof.Machine

/-! ### The Boot ID (R379) -/

/-- A boot draws an ID that is neither 0 nor the one before. -/
theorem State.drawBootId_spec (s : State) : s.drawBootId.bootId ≠ 0 ∧ s.drawBootId.bootId ≠ s.bring.bootPrev
    ∧ s.drawBootId.bring.bootPrev = s.drawBootId.bootId := by
  generalize hprev : s.bring.bootPrev.toNat = prev
  generalize hk : 1 + s.freeWord.toNat % (if prev = 0 then 65535 else 65534) = k
  generalize hm : (if prev ≠ 0 ∧ prev ≤ k then k + 1 else k) = m
  have hbound : 0 < m ∧ m < 65536 ∧ m ≠ prev := by
    split at hk <;> split at hm <;> omega
  obtain ⟨hpos, hlt, hne⟩ := hbound
  have hid : s.drawBootId.bring.bootPrev = BitVec.ofNat 16 m := by subst hm hk hprev; rfl
  have hboot : s.drawBootId.bootId = s.drawBootId.bring.bootPrev := by
    have hword : s.drawBootId.reg 0x2970 3 = s.drawBootId.bring.bootPrev.setWidth 64 := State.reg_setReg_self _ _ _ _
    rw [State.bootId, hword, BitVec.setWidth_setWidth_of_le _ (by decide), BitVec.setWidth_eq]
  have hnat : s.drawBootId.bootId.toNat = m := by
    rw [hboot, hid, BitVec.toNat_ofNat]
    exact Nat.mod_eq_of_lt hlt
  refine ⟨fun h => ?_, fun h => ?_, hboot.symm⟩
  · rw [h] at hnat
    exact hpos.ne hnat
  · rw [h, hprev] at hnat
    exact hne hnat.symm

/-! ### The entries that a boot writes -/

theorem Entries.trans {C : List (Nat × Nat)} {s t u : State} (h : Entries C s t) (g : Entries C t u) : Entries C s u :=
  fun i j hk => (g i j hk).trans (h i j hk)

theorem Entries.mono {C D : List (Nat × Nat)} {s t : State} (h : Entries C s t) (hc : C ⊆ D) : Entries D s t :=
  fun i j hk => h i j fun k hm => hk k (hc hm)

theorem Entries.foldl {α : Type} {C : List (Nat × Nat)} {u : State} {f : State → α → State} (l : List α)
    (hf : ∀ s, ∀ a ∈ l, Entries C u s → Entries C u (f s a)) {s : State} (h : Entries C u s) :
    Entries C u (l.foldl f s) := by
  induction l generalizing s with
  | nil => exact h
  | cons a l ih => exact ih (fun s b hb => hf s b (List.mem_cons_of_mem _ hb)) (hf s a List.mem_cons_self h)

/-- The entries that tell of the torus and the ports, and the Boot ID. -/
def fabricEntries : List (Nat × Nat) :=
  (0x2900, 1) :: (0x2930, 3) :: (0x2970, 3) :: ((List.range 16).map fun i => (0x2901, i + 1)) ++ portEntries

theorem mem_fabricEntries_port {i : Nat} (hi : i < 16) : (0x2901, i + 1) ∈ fabricEntries
    ∧ (0x2902, i + 1) ∈ fabricEntries := by
  have h1 : (0x2901, i + 1) ∈ (List.range 16).map fun i => (0x2901, i + 1) := List.mem_map.2 ⟨i, List.mem_range.2 hi, rfl⟩
  exact ⟨List.mem_append_left _ (by simp [hi]), List.mem_append_right _ (mem_portEntries hi)⟩

/-- The entries that a boot writes after the Boot ID. -/
def settleEntries : List (Nat × Nat) := [(0x2881, 2), (0x3001, 0x0B), (0x2314, 1), (0x2314, 2), (0x2B00, 1)] ++ potEntries

/-- The entries that a boot writes after it has numbered its node. -/
def bootEntries : List (Nat × Nat) := settleEntries ++ fabricEntries

theorem State.setRoutes_regs (s : State) (rt : Tbl Word32) : (s.setRoutes rt).regs = s.regs := rfl

section
variable {C : List (Nat × Nat)} {u s : State}

theorem Entries.ite {t : State} {p : Prop} [Decidable p] (hs : Entries C u s) (ht : Entries C u t) :
    Entries C u (if p then s else t) := by
  split
  · exact hs
  · exact ht

theorem State.torusPort_entries {port : Nat} (hm : (0x2901, port + 1) ∈ C) (h : Entries C u s) (dim node : Nat) (b : Bool) :
    Entries C u (s.torusPort port dim node b) := h.write hm _

theorem State.buildTorus_entries (hc : fabricEntries ⊆ C) (h : Entries C u s) : Entries C u s.buildTorus := by
  have hport (i : Nat) (hi : i < 16) : (0x2901, i + 1) ∈ C := hc (mem_fabricEntries_port hi).1
  unfold State.buildTorus
  split
  · exact h
  · extract_lets n p at_ ports s1 ext s2
    have hports : ∀ t ∈ ports, t.1 < 16 := by simp [ports]
    have h1 : Entries C u s1 := Entries.foldl ports (fun s t ht h => State.torusPort_entries (hport _ (hports t ht)) h _ _ _) h
    have h2 : Entries C u s2 := h1.write (hc (by decide)) _
    exact h2.of_regs (s2.setRoutes_regs _)

theorem State.darkPorts_entries (hc : fabricEntries ⊆ C) (h : Entries C u s) : Entries C u s.darkPorts := by
  refine Entries.foldl _ (fun s i hi h => ?_) h
  split
  · exact State.setPortState_entries (by decide) (by decide) (hc (mem_fabricEntries_port (List.mem_range.1 hi)).2) h
  · exact h

theorem State.ftSourceSet_entries (h1 : (0x2881, 2) ∈ C) (h2 : (0x3001, 0x0B) ∈ C) (h : Entries C u s) (src : Nat) :
    Entries C u (s.ftSourceSet src) := by
  have hstate (n : Nat) : Entries C u (s.setFtState n) := by
    have hset : Entries C u (s.setFld 0x2881 2 1 0 n) := h.write h1 _
    unfold State.setFtState
    dsimp only
    split
    · exact State.event_entries h1 h2 hset _
    · exact hset
  exact (hstate _).of_regs rfl

theorem State.applyAge_entries (h1 : (0x2B00, 1) ∈ C) (h2 : (0x3001, 0x0B) ∈ C) (h : Entries C u s) :
    Entries C u s.applyAge := by
  have haged (a : Age) : Entries C u { s with age := a } := h.of_regs rfl
  have hmarked (a : Age) (w : Word64) : Entries C u (({ s with age := a } : State).setDevWord w) :=
    State.setDevWord_entries h1 h2 (haged a) w
  unfold State.applyAge
  split
  · exact Entries.ite (hmarked _ _) (haged _)
  · exact Entries.ite (Entries.ite (hmarked _ _) (haged _)) (haged _)

theorem State.numberNode_entries (hm : (0x2910, 1) ∈ C) (h : Entries C u s) (stored : Nat) :
    Entries C u (s.numberNode stored) := by
  have hnode (n src : Nat) : Entries C u ((s.setFld 0x2910 1 15 0 n).setFld 0x2910 1 20 19 src) :=
    (h.write hm _).write hm _
  exact (hnode _ _).write hm _

end

/-! ### What firmware applies, and the node it numbers (R46, R329, R484) -/

/-- A boot has applied the configuration area, the lane record and the ageing log. -/
def State.bootLoaded (s : State) : State := ((s.applyArea).applyLanes).applyAge

/-- It has numbered the node. -/
def State.bootNumbered (s : State) : State := s.bootLoaded.numberNode (s.bootLoaded.fld 0x2910 1 15 0)

/-- It has taken the topology, and built the torus. -/
def State.bootBuilt (s : State) : State :=
  let t := s.bootNumbered
  (((t.setFld 0x2900 1 2 2 (t.fld 0x2900 1 0 0)).setFld 0x2900 1 3 3 (t.fld 0x2900 1 1 1)).buildTorus).darkPorts

/-- The fabric time's source is set anew, but in holdover. -/
def State.ftAgain (s : State) (ft : Nat) : State := if ft = ftHoldover then s else s.ftSourceSet s.ftSrc

/-- It has set up the fabric time, the pots and the tokens. -/
def State.bootSettled (s : State) (ft : Nat) : State := ((((s.ftAgain ft).fillTokens).applyPot 0).applyPot 1).fillTokens

theorem State.bootWork_eq (s : State) : s.bootWork = (s.bootBuilt.drawBootId.ftAgain s.ftState).fillTokens := rfl

/-- The powers of the slots before it are dropped. -/
def State.slotsDropped (s : State) : State := { s with power := { s.power with slots := [] } }

theorem State.bootEnd_eq {s : State} (hdev : s.dev = devBoot) (hfw : s.bring.firmware = true) : s.bootEnd =
    ((s.bootBuilt.drawBootId.bootSettled s.ftState).enterPhase' devPowering).slotsDropped := by
  rw [State.bootEnd, if_pos ⟨hdev, hfw⟩, State.bootWork_eq]
  rfl

/-- The parts that a boot changes before it draws the Boot ID. -/
def builtParts : List Part := [.regs, .caddy, .fabric, .link, .can, .flash, .age, .lanes, .out]

theorem State.bootBuilt_keeps (s : State) : State.Keeps builtParts s s.bootBuilt := by
  have hloaded : State.Keeps builtParts s s.bootLoaded := State.applyAge_keeps (by decide)
    (State.applyLanes_keeps (by decide) (State.applyArea_keeps (by decide) (State.Keeps.refl _ s)))
  have hnumbered : State.Keeps builtParts s s.bootNumbered := State.numberNode_keeps (by decide) hloaded _
  exact State.darkPorts_keeps (by decide) (State.buildTorus_keeps (by decide)
    ((hnumbered.setReg (by decide) _ _ _).setReg (by decide) _ _ _))

theorem State.bootBuilt_entries (s : State) : Entries bootEntries s.bootNumbered s.bootBuilt := by
  have hc : fabricEntries ⊆ bootEntries := List.subset_append_right _ _
  have hm : (0x2900, 1) ∈ bootEntries := hc (by decide)
  exact State.darkPorts_entries hc (State.buildTorus_entries hc (((Entries.refl _ _).write hm _).write hm _))

/-! #### What a boot leaves alone after the Boot ID -/

theorem State.ftAgain_spec (s : State) (ft : Nat) : Entries settleEntries s (s.ftAgain ft)
    ∧ (s.ftAgain ft).time.now = s.time.now ∧ (s.ftAgain ft).bring = s.bring := by
  unfold State.ftAgain
  split
  · exact ⟨Entries.refl _ _, rfl, rfl⟩
  · have hstate (n : Nat) : State.Keeps [.regs, .link, .can, .out] s (s.setFtState n) :=
      State.setFtState_keeps (List.Subset.refl _) (State.Keeps.refl _ s) n
    have htime (n : Nat) : (s.setFtState n).time = s.time := (hstate n).parts .time (by decide)
    have hnow (n : Nat) : (s.setFtState n).time.now = s.time.now := congrArg Time.now (htime n)
    have hbring (n : Nat) : (s.setFtState n).bring = s.bring := (hstate n).parts .bring (by decide)
    exact ⟨State.ftSourceSet_entries (by decide) (by decide) (Entries.refl _ _) _, hnow _, hbring _⟩

theorem State.bootSettled_spec (s : State) (ft : Nat) : Entries settleEntries s (s.bootSettled ft)
    ∧ (s.bootSettled ft).time.now = s.time.now ∧ (s.bootSettled ft).bring.bootPrev = s.bring.bootPrev := by
  obtain ⟨hft, hnow, hbring⟩ := s.ftAgain_spec ft
  have hpots : potEntries ⊆ settleEntries := List.subset_append_right _ _
  generalize hv : s.ftAgain ft = v at hft hnow hbring
  have hentries := State.applyPot_entries hpots
    (State.applyPot_entries hpots (State.fillTokens_entries (by decide) (by decide) hft) 0) 1
  have hkeeps : State.Keeps [.regs, .bring, .lanes] v ((v.fillTokens.applyPot 0).applyPot 1) :=
    State.applyPot_keeps (by decide) (State.applyPot_keeps (by decide)
      (State.fillTokens_keeps (by decide) (State.Keeps.refl _ v)) 0) 1
  have htime : ((v.fillTokens.applyPot 0).applyPot 1).time = v.time := hkeeps.parts .time (by decide)
  have hprev : ((v.fillTokens.applyPot 0).applyPot 1).bring.bootPrev = v.bring.bootPrev :=
    (State.applyPot_bootPrev _ 1).trans (State.applyPot_bootPrev v.fillTokens 0)
  have heq : s.bootSettled ft = ((v.fillTokens.applyPot 0).applyPot 1).fillTokens := by rw [State.bootSettled, hv]
  generalize (v.fillTokens.applyPot 0).applyPot 1 = w at hentries htime hprev heq
  rw [heq]
  exact ⟨State.fillTokens_entries (by decide) (by decide) hentries, (congrArg Time.now htime).trans hnow,
    hprev.trans (congrArg Bring.bootPrev hbring)⟩

/-! #### The node, and a configuration area that is lost -/

theorem State.node_lt (s : State) : s.node < 65536 := Nat.mod_lt _ (by decide)

theorem State.node_numberNode (s : State) (stored : Nat) : (s.numberNode stored).node =
    (if s.fld 0x2910 1 17 16 = 1 then stored else if s.strapPlaced then nodeNumber s.torusSize s.strapXyz else 0xFFFF)
      % 65536 := by
  generalize hn : (if s.fld 0x2910 1 17 16 = 1 then stored else if s.strapPlaced then nodeNumber s.torusSize s.strapXyz
    else 0xFFFF) = n
  generalize hv : (s.setFld 0x2910 1 15 0 n).setFld 0x2910 1 20 19 (s.fld 0x2910 1 17 16) = v
  have heq : s.numberNode stored = v.setBit 0x2910 1 18 (decide (n ≠ 0xFFFF)) := by subst hv hn; rfl
  rw [heq, State.node, State.setBit, v.fld_setFld_apart _ _ _ (by decide) (by decide) (by decide) (by decide)]
  subst hv
  rw [State.fld_setFld_apart _ _ _ _ (by decide) (by decide) (by decide) (by decide)]
  exact s.fld_setFld_self _ _ _ (by decide) (by decide)

/-- The entries that a boot writes where the area is lost. -/
def lostEntries : List (Nat × Nat) := [(0x2010, 1), (0x2010, 3), (0x3001, 0x0B), (0x2B00, 1)]

theorem State.applyArea_lost {s : State} (h : s.flash.cfg.ok = false) : Entries lostEntries s s.applyArea
    ∧ (s.heldClear 0x2010 3 0 = false → s.applyArea.bit 0x2010 3 0 = true) := by
  have hlost : ¬ ((s.flash.cfg.ok && decide (s.flash.cfg.recs.length ≤ 3582)) = true) := by simp [h]
  obtain ⟨v, heq, hregs, hclear, htime⟩ : ∃ v : State, s.applyArea = (v.setReg 0x2010 1 0).event 0x2010 3 0
      ∧ v.regs = s.regs ∧ v.cleared = s.cleared ∧ v.time = s.time := by
    rw [State.applyArea]
    dsimp only
    rw [if_neg hlost]
    exact ⟨_, rfl, rfl, rfl, rfl⟩
  rw [heq]
  refine ⟨State.event_entries (by decide) (by decide) (((Entries.refl _ s).of_regs hregs).write (by decide) _) _,
    fun hheld => State.bit_event_self (by decide) (by decide) ?_⟩
  rw [State.heldClear_setReg, State.heldClear_congr hclear htime]
  exact hheld

theorem State.bootLoaded_lost {s : State} (h : s.flash.cfg.ok = false) : Entries lostEntries s s.bootLoaded
    ∧ (s.heldClear 0x2010 3 0 = false → s.bootLoaded.bit 0x2010 3 0 = true) := by
  obtain ⟨harea, hbit⟩ := State.applyArea_lost h
  have hage : Entries [(0x2B00, 1), (0x3001, 0x0B)] s.applyArea s.bootLoaded :=
    State.applyAge_entries (by decide) (by decide) ((Entries.refl _ s.applyArea).of_regs rfl)
  exact ⟨harea.trans (hage.mono (by decide)), fun hheld =>
    (State.bit_of_reg (hage 0x2010 3 (by decide)) 0).trans (hbit hheld)⟩

theorem State.bootNumbered_lost {s : State} (h : s.flash.cfg.ok = false) :
    (s.heldClear 0x2010 3 0 = false → s.bootNumbered.bit 0x2010 3 0 = true) ∧ s.bootNumbered.node =
      if s.fld 0x2910 1 17 16 = 1 then s.node else if s.strapPlaced then nodeNumber s.torusSize s.strapXyz % 65536
      else 0xFFFF := by
  obtain ⟨hloaded, hbit⟩ := State.bootLoaded_lost h
  have hnode : Entries [(0x2910, 1)] s.bootLoaded s.bootNumbered :=
    State.numberNode_entries (List.mem_singleton_self _) (Entries.refl _ _) _
  refine ⟨fun hheld => (State.bit_of_reg (hnode 0x2010 3 (by decide)) 0).trans (hbit hheld), ?_⟩
  have hword : s.bootLoaded.reg 0x2910 1 = s.reg 0x2910 1 := hloaded _ _ (by decide)
  have hstraps : s.bootLoaded.reg 0x2910 3 = s.reg 0x2910 3 := hloaded _ _ (by decide)
  have hsize : s.bootLoaded.torusSize = s.torusSize := by simp only [State.torusSize, State.fld, hstraps]
  have hxyz : s.bootLoaded.strapXyz = s.strapXyz := by simp only [State.strapXyz, State.fld, hstraps]
  have hplaced : s.bootLoaded.strapPlaced = s.strapPlaced := by
    simp only [State.strapPlaced, State.bit_of_reg hstraps, hsize, hxyz]
  have hfld (hi lo : Nat) : s.bootLoaded.fld 0x2910 1 hi lo = s.fld 0x2910 1 hi lo := by rw [State.fld, hword]; rfl
  rw [State.bootNumbered, State.node_numberNode, hfld, hfld, hplaced, hsize, hxyz]
  split
  · exact Nat.mod_eq_of_lt s.node_lt
  · split <;> rfl

/-! ### BOOT ends (R473) -/

theorem bootPhaseEnd_powers {s : State} (hdev : s.dev = devBoot) (hfw : s.bring.firmware = true) :
    Runs .bootPhaseEnd s [.regs, .time, .caddy, .fabric, .link, .can, .power, .bring, .flash, .age, .lanes, .out, .free]
      fun t => t.dev = devPowering ∧ t.bring.phaseAt = s.time.now
        ∧ t.bootId ≠ 0 ∧ t.bootId ≠ s.bring.bootPrev ∧ t.bring.bootPrev = t.bootId
        ∧ (s.flash.cfg.ok = false → (s.heldClear 0x2010 3 0 = false → t.bit 0x2010 3 0 = true) ∧ t.node =
            if s.fld 0x2910 1 17 16 = 1 then s.node else if s.strapPlaced then nodeNumber s.torusSize s.strapXyz % 65536
            else 0xFFFF) := by
  have heq := State.bootEnd_eq hdev hfw
  have hexec : exec .bootPhaseEnd s = .next s.bootEnd := rfl
  have hframe := (State.bootEnd_keeps (List.Subset.refl _) (State.Keeps.refl _ s)).frame
  have hbuilt := s.bootBuilt_entries
  have hkeeps := s.bootBuilt_keeps
  have hlost := State.bootNumbered_lost (s := s)
  have hnow : s.bootBuilt.time = s.time := hkeeps.parts .time (by decide)
  have hbring : s.bootBuilt.bring = s.bring := hkeeps.parts .bring (by decide)
  generalize s.bootBuilt = d at heq hbuilt hnow hbring
  obtain ⟨hne0, hnew, hprev⟩ := d.drawBootId_spec
  have hdraw : Entries bootEntries d d.drawBootId := ((Entries.refl _ d).write (by decide) _).of_regs rfl
  have hdrawn : d.drawBootId.time.now = d.time.now := rfl
  generalize d.drawBootId = e at heq hne0 hnew hprev hdraw hdrawn
  obtain ⟨hsettled, hclock, hkept⟩ := e.bootSettled_spec s.ftState
  generalize e.bootSettled s.ftState = w at heq hsettled hclock hkept
  obtain ⟨hpowering, hphase⟩ := w.enterPhase'_spec (n := devPowering) (by decide)
  have hfinal : Entries settleEntries e (w.enterPhase' devPowering) :=
    State.enterPhase'_entries (by decide) (by decide) hsettled _
  generalize w.enterPhase' devPowering = x at heq hpowering hphase hfinal
  have hid : x.bootId = e.bootId := by rw [State.bootId, hfinal 0x2970 3 (by decide)]; rfl
  have hall : Entries bootEntries s.bootNumbered x :=
    (hbuilt.trans hdraw).trans (hfinal.mono (List.subset_append_left _ _))
  refine ⟨_, hexec, hframe, ?_⟩
  rw [heq]
  change x.dev = devPowering ∧ x.bring.phaseAt = s.time.now ∧ x.bootId ≠ 0 ∧ x.bootId ≠ s.bring.bootPrev
    ∧ x.bring.bootPrev = x.bootId ∧ (_ → (_ → x.bit 0x2010 3 0 = true) ∧ x.node = _)
  refine ⟨hpowering, ?_, hid ▸ hne0, ?_, ?_, fun h => ⟨fun hheld => ?_, ?_⟩⟩
  · rw [hphase]
    exact (hclock.trans hdrawn).trans (congrArg Time.now hnow)
  · rw [hid, ← hbring]
    exact hnew
  · rw [hid, hphase, ← hprev]
    exact hkept
  · exact (State.bit_of_reg (hall 0x2010 3 (by decide)) 0).trans ((hlost h).1 hheld)
  · rw [State.node, State.fld, hall 0x2910 1 (by decide)]
    exact (hlost h).2

theorem bootPhaseEnd_waits {s : State} (hfw : s.bring.firmware = false) : exec .bootPhaseEnd s = .next s := by
  have heq : s.bootEnd = s := if_neg fun h => by simp [hfw] at h
  have hexec : exec .bootPhaseEnd s = .next s.bootEnd := rfl
  rw [hexec, heq]

end Sys2Proof.Machine
end

section
/-! SUPPORT. TRAINING and CHECKING: the stacks, the march tests, the known-answer tests and the state they lead to. -/

namespace Sys2Proof.Machine

/-! ### TRAINING ends (R190, R473) -/

/-- The stacks that have trained are there; a cold start has zeroed them. -/
def State.stacksTrained (s : State) (trained : BitVec 8) : State :=
  { s with hbm := if s.bring.cold then { s.hbm with mem := [], poison := [], absent := ~~~trained, selfRef := false }
    else { s.hbm with absent := s.hbm.absent ||| ~~~trained, selfRef := false } }

theorem State.stacksTrained_spec (s : State) (trained : BitVec 8) : (s.stacksTrained trained).hbm.selfRef = false
    ∧ (s.bring.cold = true → (s.stacksTrained trained).hbm.mem = [] ∧ (s.stacksTrained trained).hbm.poison = []
      ∧ (s.stacksTrained trained).hbm.absent = ~~~trained)
    ∧ (s.bring.cold = false → (s.stacksTrained trained).hbm.mem = s.hbm.mem
      ∧ (s.stacksTrained trained).hbm.poison = s.hbm.poison
      ∧ (s.stacksTrained trained).hbm.absent = s.hbm.absent ||| ~~~trained) := by
  unfold State.stacksTrained
  cases s.bring.cold
  · exact ⟨rfl, fun h => absurd h (by decide), fun _ => ⟨rfl, rfl, rfl⟩⟩
  · exact ⟨rfl, fun _ => ⟨rfl, rfl, rfl⟩, fun h => absurd h (by decide)⟩

theorem trainingPhaseEnd_checks {s : State} (hdev : s.dev = devTraining) (trained : BitVec 8) :
    Runs (.trainingPhaseEnd trained) s [.regs, .hbm, .link, .can, .bring, .out] fun t => t.dev = devChecking
      ∧ t.hbm.selfRef = false ∧ (s.bring.cold = true → t.hbm.mem = [] ∧ t.hbm.poison = [] ∧ t.hbm.absent = ~~~trained)
      ∧ (s.bring.cold = false → t.hbm.mem = s.hbm.mem ∧ t.hbm.poison = s.hbm.poison
          ∧ t.hbm.absent = s.hbm.absent ||| ~~~trained) := by
  have heq : s.trainingEnd trained = (s.stacksTrained trained).enterPhase' devChecking := if_neg (not_not.2 hdev)
  have hexec : exec (.trainingPhaseEnd trained) s = .next (s.trainingEnd trained) := rfl
  have hframe := (State.trainingEnd_keeps (List.Subset.refl _) (State.Keeps.refl _ s) trained).frame
  have hkeeps : State.Keeps [.regs, .link, .can, .bring, .out] (s.stacksTrained trained)
      ((s.stacksTrained trained).enterPhase' devChecking) := State.enterPhase'_keeps (by decide) (State.Keeps.refl _ _) _
  have hhbm : ((s.stacksTrained trained).enterPhase' devChecking).hbm = (s.stacksTrained trained).hbm :=
    hkeeps.parts .hbm (by decide)
  refine ⟨_, hexec.trans (congrArg _ heq), heq ▸ hframe, (State.enterPhase'_spec _ (by decide)).1, ?_⟩
  rw [hhbm]
  exact s.stacksTrained_spec trained

/-! ### The march test of a caddy (R470, R476) -/

/-- The march test of a caddy is over. -/
def State.marchNoted (s : State) (cad : Nat) : State :=
  { s with bring := { s.bring with marched := s.bring.marched ||| ((1 : BitVec 2) <<< cad) } }

section
variable {s : State} {cad : Cad} (hdev : s.dev = devChecking) (hcold : s.bring.cold = true)
  (hfirst : s.bring.marched.getLsbD cad = false)
include hdev hcold hfirst

theorem State.march_eq (responds : Bool) (failing : List (Nat × Nat × Nat)) : s.march cad.val responds failing =
    if !responds then s.enterFaulted else failing.foldl (fun s r => s.marchRow cad.val r) (s.marchNoted cad.val) := by
  have hgo : ¬ ((s.dev ≠ devChecking || !s.bring.cold || s.bring.marched.getLsbD cad) = true) := by
    simp [hdev, hcold, hfirst]
  rw [State.march, if_neg hgo]
  rfl

theorem marchTest_passes : Runs (.marchTest cad true []) s [.bring] fun t =>
    t.bring = { s.bring with marched := s.bring.marched ||| ((1 : BitVec 2) <<< cad.val) } := by
  have hexec : exec (.marchTest cad true []) s = .next (s.march cad.val true []) := rfl
  exact ⟨_, hexec.trans (congrArg _ (State.march_eq hdev hcold hfirst true [])),
    (State.withBring_keeps (by decide) (State.Keeps.refl _ s) _).frame, rfl⟩

theorem marchTest_repairs {sl : Fin 256} {set : Fin 2048} {way : Fin 24} (hret : s.sliceRetired cad sl = false)
    (hnew : (cad.val, sl.val, set.val, way.val) ∉ s.caddy.repairs) (hfree : (s.repairsOf cad sl).length < 4) :
    Runs (.marchTest cad true [(sl, set, way)]) s [.regs, .caddy, .hbm, .reqs, .bring, .link, .can, .snap, .out, .flash]
      fun t => (cad.val, sl.val, set.val, way.val) ∈ t.caddy.repairs ∧ t.bring.marched.getLsbD cad = true := by
  have hrow : (s.marchNoted cad.val).marchRow cad.val (sl.val, set.val, way.val)
      = (s.marchNoted cad.val).repairRow cad.val sl.val set.val way.val := by
    have hgo : ¬ ((s.marchNoted cad.val).sliceRetired cad.val sl.val
        ∨ (cad.val, sl.val, set.val, way.val) ∈ (s.marchNoted cad.val).caddy.repairs) :=
      not_or.2 ⟨fun h => Bool.false_ne_true (hret.symm.trans h), hnew⟩
    have hroom : ((s.marchNoted cad.val).repairsOf cad.val sl.val).length < softRows := hfree
    unfold State.marchRow
    simp only [if_neg hgo, if_pos hroom]
  have heq : s.march cad.val true [(sl.val, set.val, way.val)]
      = (s.marchNoted cad.val).repairRow cad.val sl.val set.val way.val :=
    (State.march_eq hdev hcold hfirst true _).trans hrow
  have hexec : exec (.marchTest cad true [(sl, set, way)]) s = .next (s.march cad.val true [(sl.val, set.val, way.val)]) := rfl
  have hkeeps : State.Keeps [.regs, .caddy, .hbm, .reqs] (s.marchNoted cad.val)
      ((s.marchNoted cad.val).repairRow cad.val sl.val set.val way.val) :=
    State.repairRow_keeps (by decide) (State.Keeps.refl _ _) _ _ _ _
  have hframe : State.Keeps [.regs, .caddy, .hbm, .reqs, .bring, .link, .can, .snap, .out, .flash] s
      ((s.marchNoted cad.val).repairRow cad.val sl.val set.val way.val) :=
    State.repairRow_keeps (by decide) (State.withBring_keeps (by decide) (State.Keeps.refl _ s) _) _ _ _ _
  have hbring : ((s.marchNoted cad.val).repairRow cad.val sl.val set.val way.val).bring = (s.marchNoted cad.val).bring :=
    hkeeps.parts .bring (by decide)
  refine ⟨_, hexec.trans (congrArg _ heq), hframe.frame, ?_, ?_⟩
  · rw [(State.repairRow_frame _ _ _ _ _).1]
    exact List.mem_append_right _ (List.mem_singleton_self _)
  · rw [hbring, State.marchNoted, BitVec.getLsbD_or, getLsbD_one_shiftLeft _ cad.isLt]
    simp

theorem marchTest_faults (failing : List (Fin 256 × Fin 2048 × Fin 24)) : Runs (.marchTest cad false failing) s
    [.regs, .clusters, .mcasts, .caddy, .hbm, .reqs, .seq, .fabric, .link, .can, .bring, .snap, .out] Faulted := by
  have hexec : exec (.marchTest cad false failing) s =
      .next (s.march cad.val false (failing.map fun r => (r.1.val, r.2.1.val, r.2.2.val))) := rfl
  have hrun : devStandby < s.dev ∧ s.dev ≠ devFaulted := by rw [hdev]; decide
  exact ⟨_, hexec.trans (congrArg _ (State.march_eq hdev hcold hfirst false _)),
    (State.enterFaulted_keeps (List.Subset.refl _) (State.Keeps.refl _ s)).frame,
    State.enterFaulted_faulted hrun.1 hrun.2⟩

end

/-! ### The known-answer tests of a cluster (R470) -/

/-- The word of a cluster's result. -/
def katWord (fail : Option (Fin 20)) : Word64 :=
  match fail with
  | some n => packWord [(1, 0), (1, 1), (n.val, 2)]
  | none => packWord [(1, 0)]

theorem katWord_fields : ∀ fail : Option (Fin 20), (katWord fail).getLsbD 0 = true
    ∧ (katWord fail).getLsbD 1 = fail.isSome ∧ ∀ n, fail = some n → fieldOf (katWord fail) 6 2 = n.val := by
  decide

theorem knownAnswerTest_tells {s : State} {cl : Cl} {fail : Option (Fin 20)} (hdev : s.dev = devChecking)
    (hover : s.marchOver = true) (hon : s.clusterPowered cl = true) (hfirst : s.bring.kat.getLsbD cl = false) :
    Runs (.knownAnswerTest cl fail) s [.regs, .bring] fun t =>
      t.bring = { s.bring with kat := s.bring.kat ||| ((1 : BitVec 64) <<< cl.val) }
      ∧ t.bit 0x2B10 (cl + 1) 0 = true ∧ t.bit 0x2B10 (cl + 1) 1 = fail.isSome
      ∧ (∀ n, fail = some n → t.fld 0x2B10 (cl + 1) 6 2 = n.val) ∧ Entries [(0x2B10, cl.val + 1)] s t := by
  have hgo : ¬ ((s.dev ≠ devChecking || !s.marchOver || !s.clusterPowered cl || s.bring.kat.getLsbD cl) = true) := by
    rw [hover, hon, hfirst]
    simp [hdev]
  generalize hw : ({ s with bring := { s.bring with kat := s.bring.kat ||| ((1 : BitVec 64) <<< cl.val) } } : State) = w
  have hregs : w.regs = s.regs := by subst hw; rfl
  have heq : s.katDone cl.val (fail.map (·.val)) = w.setReg 0x2B10 (cl.val + 1) (katWord fail) := by
    unfold State.katDone
    rw [if_neg hgo]
    cases fail <;> (subst hw; rfl)
  have hexec : exec (.knownAnswerTest cl fail) s = .next (s.katDone cl.val (fail.map (·.val))) := rfl
  have hkeeps : State.Keeps [.regs, .bring] s w := by
    subst hw
    exact State.withBring_keeps (by decide) (State.Keeps.refl _ s) _
  have hword : (w.setReg 0x2B10 (cl.val + 1) (katWord fail)).reg 0x2B10 (cl.val + 1) = katWord fail :=
    State.reg_setReg_self _ _ _ _
  obtain ⟨hdone, hfailed, hnumber⟩ := katWord_fields fail
  refine ⟨_, hexec.trans (congrArg _ heq), (hkeeps.setReg (by decide) _ _ _).frame, by subst hw; rfl, ?_, ?_, fun n hn => ?_,
    ((Entries.refl _ s).of_regs hregs).write (List.mem_singleton_self _) _⟩
  · rw [State.bit_eq_getLsbD, hword, hdone]
  · rw [State.bit_eq_getLsbD, hword, hfailed]
  · rw [State.fld, hword, hnumber n hn]

/-! ### CHECKING ends (R32, R469, R477) -/

theorem State.setPresence_spec (s : State) {c : Nat} (hc : c < 64) :
    (s.setPresence.reg 0x2500 1).getLsbD c = s.katPassed c
    ∧ (s.setPresence.reg 0x2500 2).getLsbD c = (!s.katPassed c && !s.parked c) := by
  have hbits (p : Nat → Bool) : (((List.range 64).filter p).foldl
      (fun (w : Word64) c => w ||| ((1 : Word64) <<< c)) 0).getLsbD c = p c := by
    rw [getLsbD_foldl_bits _ _ hc]
    simp [hc]
  constructor
  · have hword : s.setPresence.reg 0x2500 1 = _ :=
      (State.reg_setReg_ne _ _ (by decide)).trans (State.reg_setReg_self _ _ _ _)
    rw [hword]
    exact hbits _
  · have hword : s.setPresence.reg 0x2500 2 = _ := State.reg_setReg_self _ _ _ _
    rw [hword]
    exact hbits _

/-- The presence map is told, the lanes are seeded, and the duration of the start is noted. -/
def State.checkNoted (s : State) : State :=
  let t := (List.range 16).foldl State.seedLanes s.setPresence
  t.setFld 0x2B00 4 31 16 t.startMs

section
variable {s : State} (hdev : s.dev = devChecking) (hover : s.marchOver = true) (hdue : s.age.due = false)
  (htested : ∀ c, c < 64 → s.clusterPowered c = true → s.bring.kat.getLsbD c = true)
include hdev hover hdue htested

theorem State.checkingEnd_eq : s.checkingEnd = s.checkNoted.enterPhase' s.checkNoted.finalState := by
  have hall : ((List.range 64).all fun c => !s.clusterPowered c || s.bring.kat.getLsbD c) = true := by
    rw [List.all_eq_true]
    intro c hc
    cases hon : s.clusterPowered c
    · rfl
    · rw [htested c (List.mem_range.1 hc) hon]
      rfl
  have hgo : ¬ ((s.dev ≠ devChecking || !s.marchOver || !((List.range 64).all fun c =>
      !s.clusterPowered c || s.bring.kat.getLsbD c) || s.age.due) = true) := by
    rw [hall]
    simp [hdev, hover, hdue]
  unfold State.checkingEnd
  dsimp only
  rw [if_neg hgo]
  rfl

end

theorem State.checkNoted_spec (s : State) : State.Keeps [.regs, .seq] s s.checkNoted
    ∧ Entries [(0x2500, 1), (0x2500, 2), (0x2B00, 4)] s s.checkNoted
    ∧ s.checkNoted.reg 0x2500 1 = s.setPresence.reg 0x2500 1 ∧ s.checkNoted.reg 0x2500 2 = s.setPresence.reg 0x2500 2
    ∧ s.checkNoted.fld 0x2B00 4 31 16 = s.startMs := by
  have hset : State.Keeps [.regs, .seq] s s.setPresence := State.setPresence_keeps (by decide) (State.Keeps.refl _ s)
  have hseed : State.Keeps [.seq] s.setPresence ((List.range 16).foldl State.seedLanes s.setPresence) :=
    State.Keeps.foldl (fun _ c h => State.seedLanes_keeps (List.Subset.refl _) h c) _ (State.Keeps.refl _ _)
  have hboth : State.Keeps [.regs, .seq] s ((List.range 16).foldl State.seedLanes s.setPresence) :=
    State.Keeps.foldl (fun _ c h => State.seedLanes_keeps (by decide) h c) _ hset
  have hmaps : Entries [(0x2500, 1), (0x2500, 2), (0x2B00, 4)] s s.setPresence :=
    ((Entries.refl _ s).write (by decide) _).write (by decide) _
  have heq : s.checkNoted = (((List.range 16).foldl State.seedLanes s.setPresence).setFld 0x2B00 4 31 16
    ((List.range 16).foldl State.seedLanes s.setPresence).startMs) := rfl
  generalize s.setPresence = v at hseed hmaps heq hboth
  generalize (List.range 16).foldl State.seedLanes v = w at hseed heq hboth
  have hregs : w.regs = v.regs := hseed.parts .regs (by decide)
  have hms : w.startMs = s.startMs := by
    have htime : w.time = s.time := hboth.parts .time (by decide)
    have hbring : w.bring = s.bring := hboth.parts .bring (by decide)
    rw [State.startMs, State.startMs, htime, hbring]
  rw [heq]
  refine ⟨hboth.setReg (by decide) _ _ _, (hmaps.of_regs hregs).write (by decide) _, ?_, ?_, ?_⟩
  · rw [State.reg_setFld_ne _ _ _ _ (by decide), State.reg_of_regs hregs]
  · rw [State.reg_setFld_ne _ _ _ _ (by decide), State.reg_of_regs hregs]
  · rw [State.fld_setFld_self _ _ _ _ (by decide) (by decide), hms]
    exact Nat.mod_eq_of_lt (Nat.lt_of_le_of_lt (Nat.min_le_left _ _) (by decide))

/-! #### The state that CHECKING leads to -/

theorem State.finalState_lt (s : State) : s.finalState < 16 := by
  unfold State.finalState
  split_ifs <;> decide

theorem State.finalState_absent {s : State} (h : s.hbm.absent ≠ 0) : s.finalState = devService := by
  rw [State.finalState, if_pos]
  rw [decide_eq_true h]
  rfl

theorem State.finalState_noCluster {s : State} (h : s.reg 0x2500 1 = 0) : s.finalState = devService := by
  rw [State.finalState, if_pos (by simp [h])]

theorem State.finalState_whole {s : State} (habsent : s.hbm.absent = 0) (h0 : s.retCount 0 = 0) (h1 : s.retCount 1 = 0)
    (hhere : s.reg 0x2500 1 ≠ 0) (hgone : s.reg 0x2500 2 = 0) (hpots : s.fld 0x2300 0x10 11 8 = 0)
    (hservice : s.bit 0x2B00 3 1 = false) : s.finalState = devReady := by
  have hbits := (fieldOf_eq_zero_iff _ _ _).1 hpots
  have hforced : s.fld 0x2300 0x10 9 8 = 0 :=
    (fieldOf_eq_zero_iff _ _ _).2 fun i hlo hhi => hbits i hlo (by omega)
  have hreduced : s.fld 0x2300 0x10 11 10 = 0 :=
    (fieldOf_eq_zero_iff _ _ _).2 fun i hlo hhi => hbits i (by omega) hhi
  have hpresent : ¬ s.reg 0x2500 1 = 0#64 := hhere
  rw [State.finalState, if_neg (by simp [habsent, h0, h1, hpresent, hservice]),
    if_neg (by simp [hgone, hforced, hreduced, h0, h1])]

theorem State.retCount_congr {s t : State} (h : t.lanes = s.lanes) (cad : Nat) : t.retCount cad = s.retCount cad := by
  unfold State.retCount State.chan
  rw [h]

/-- A map of the clusters is 0 where no cluster is in it. -/
theorem clusterMap_eq_zero {w : Word64} (h : ∀ c, c < 64 → w.getLsbD c = false) : w = 0 :=
  BitVec.eq_of_getLsbD_eq fun c hc => (h c hc).trans BitVec.getLsbD_zero.symm

section
variable {s : State} (hdev : s.dev = devChecking) (hover : s.marchOver = true) (hdue : s.age.due = false)
  (htested : ∀ c, c < 64 → s.clusterPowered c = true → s.bring.kat.getLsbD c = true)
include hdev hover hdue htested

theorem checkingPhaseEnd_leads : Runs .checkingPhaseEnd s [.regs, .seq, .link, .can, .bring, .out] fun t =>
      (∀ c, c < 64 → (t.reg 0x2500 1).getLsbD c = s.katPassed c
        ∧ (t.reg 0x2500 2).getLsbD c = (!s.katPassed c && !s.parked c))
      ∧ t.bring = { s.bring with phaseAt := s.time.now } ∧ t.fld 0x2B00 4 31 16 = s.startMs
      ∧ (s.hbm.absent ≠ 0 → t.dev = devService) ∧ ((∀ c, c < 64 → s.katPassed c = false) → t.dev = devService)
      ∧ (s.hbm.absent = 0 → (∀ c, c < 64 → s.katPassed c = true) → s.fld 0x2300 0x10 11 8 = 0 → s.retCount 0 = 0 →
          s.retCount 1 = 0 → s.bit 0x2B00 3 1 = false → t.dev = devReady) := by
  have heq := State.checkingEnd_eq hdev hover hdue htested
  have hexec : exec .checkingPhaseEnd s = .next s.checkingEnd := rfl
  have hframe := (State.checkingEnd_keeps (List.Subset.refl _) (State.Keeps.refl _ s)).frame
  have hmaps (c : Nat) (hc : c < 64) := s.setPresence_spec hc
  obtain ⟨hkeeps, hsame, hhere, hgone, hms⟩ := s.checkNoted_spec
  rw [← hhere, ← hgone] at hmaps
  generalize s.checkNoted = w at heq hkeeps hsame hmaps hms
  have htime : w.time = s.time := hkeeps.parts .time (by decide)
  have hbring : w.bring = s.bring := hkeeps.parts .bring (by decide)
  have hhbm : w.hbm = s.hbm := hkeeps.parts .hbm (by decide)
  have hret := State.retCount_congr (hkeeps.parts .lanes (by decide) : w.lanes = s.lanes)
  have hpots : w.reg 0x2300 0x10 = s.reg 0x2300 0x10 := hsame _ _ (by decide)
  have hstart : w.reg 0x2B00 3 = s.reg 0x2B00 3 := hsame _ _ (by decide)
  obtain ⟨hphase, hnow⟩ := w.enterPhase'_spec w.finalState_lt
  have hentries : Entries [(0x2B00, 1), (0x3001, 0x0B)] w (w.enterPhase' w.finalState) :=
    State.enterPhase'_entries (by decide) (by decide) (Entries.refl _ w) _
  refine ⟨_, hexec.trans (congrArg _ heq), heq ▸ hframe, fun c hc => ?_, by rw [hnow, hbring, htime], ?_, fun habsent => ?_,
    fun hnone => ?_, fun habsent hall hlead h0 h1 hservice => ?_⟩
  · rw [hentries 0x2500 1 (by decide), hentries 0x2500 2 (by decide)]
    exact hmaps c hc
  · rw [State.fld, hentries 0x2B00 4 (by decide)]
    exact hms
  · exact hphase.trans (State.finalState_absent (hhbm ▸ habsent))
  · exact hphase.trans (State.finalState_noCluster (clusterMap_eq_zero fun c hc => (hmaps c hc).1.trans (hnone c hc)))
  · refine hphase.trans (State.finalState_whole (hhbm ▸ habsent) ((hret 0).trans h0) ((hret 1).trans h1) (fun hzero => ?_)
      (clusterMap_eq_zero fun c hc => ?_) ?_ ((State.bit_of_reg hstart 1).trans hservice))
    · have hbit := (hmaps 0 (by decide)).1.trans (hall 0 (by decide))
      rw [hzero] at hbit
      exact absurd hbit (by decide)
    · rw [(hmaps c hc).2, hall c hc]
      rfl
    · rw [State.fld, hpots]
      exact hlead

end

end Sys2Proof.Machine
end

section
/-! SUPPORT. The device starts, and faults: the statement from its clauses. -/

namespace Sys2Proof.Machine

/-- A start command, by any path: it starts the device, waits for the flash, or is refused. -/
theorem startCommands (s : State) (via : Via) (hc : s.carries via 0x2B00 2 = true) :
    (s.mayStart true = true → s.flash.claim ≠ some .store → s.flash.claim ≠ some .restore →
      Writes (.coldStartCommand via) via 0x2B00 2 s startParts fun u t => Started u t true 2)
    ∧ (s.mayStart true = true → (s.flash.claim = some .store ∨ s.flash.claim = some .restore) →
      Writes (.coldStartCommand via) via 0x2B00 2 s [.bring] fun u t =>
        t.bring = { u.bring with waiting := some true })
    ∧ (s.mayStart true = false → s.entryWrite via 0x2B00 2 1 = (s, .state))
    ∧ (s.mayStart false = true → s.flash.claim ≠ some .store → s.flash.claim ≠ some .restore →
      Writes (.warmRestartCommand via) via 0x2B00 2 s startParts fun u t => Started u t false 3)
    ∧ (s.mayStart false = true → (s.flash.claim = some .store ∨ s.flash.claim = some .restore) →
      Writes (.warmRestartCommand via) via 0x2B00 2 s [.bring] fun u t =>
        t.bring = { u.bring with waiting := some (u.bring.waiting.getD false) })
    ∧ (s.mayStart false = false → s.entryWrite via 0x2B00 2 2 = (s, .state)) :=
  ⟨startCommand_starts (cold := true) rfl hc, startCommand_waits (cold := true) rfl hc,
    startCommand_refused (cold := true) hc, startCommand_starts (cold := false) rfl hc,
    startCommand_waits (cold := false) rfl hc, startCommand_refused (cold := false) hc⟩

/-- Settles O59: each instruction of a start is followed from the branch that its premises choose, and FAULTED is entered by
the kill of every context. -/
theorem theDeviceStartsAndFaults : Obligations.TheDeviceStartsAndFaults := by
  refine ⟨fun _ => standbyPowerApply_wakes, fun _ => standbyPowerLoss_empties,
    fun _ hdev => ⟨inputReturn_starts hdev, inputReturn_noted hdev⟩, startCommands, mayStart_cases,
    fun _ hrom hrst hoff => ⟨firmwareVerifyDone_runs hrom hrst hoff, firmwareVerifyDone_waits hrom hrst hoff⟩,
    fun _ => ⟨bootPhaseEnd_powers, fun _ => bootPhaseEnd_waits⟩,
    fun _ _ hdev hchecked htime => ⟨leafPowerupCheck_all hdev hchecked htime,
      fun _ => leafPowerupCheck_upper hdev hchecked htime⟩,
    fun _ _ => powerWave_ramps, fun _ => poweringPhaseEnd_trains, fun _ trained hdev => trainingPhaseEnd_checks hdev trained,
    fun s cad failing hdev hcold hfirst => ⟨fun hnone => ?_, fun sl set way hone hret hnew hfree => ?_,
      marchTest_faults hdev hcold hfirst failing⟩,
    fun _ _ _ => knownAnswerTest_tells, fun _ => checkingPhaseEnd_leads, fun _ => converterFault_faults,
    fun _ => ⟨modRstAssert_off, modRstAssert_stops⟩,
    fun _ hrst => ⟨modRstRelease_starts hrst, modRstRelease_verifies hrst, modRstRelease_elsewhere hrst⟩⟩
  · subst hnone
    exact marchTest_passes hdev hcold hfirst
  · subst hone
    exact marchTest_repairs hdev hcold hfirst hret hnew hfree

end Sys2Proof.Machine
end

section
/-! SUPPORT. Threads of an issue set: what the work on some of its lanes leaves alone, and the run of an instruction
over every lane. -/

namespace Sys2Proof.Machine

/-! ### Finding in a table -/

theorem Tbl.find_del_self {α : Type} (t : Tbl α) (k : Nat) : Tbl.find (t.del k) k = none := by
  induction t with
  | nil => rfl
  | cons e t ih =>
    simp only [Tbl.del] at ih ⊢
    by_cases he : e.1 = k
    · simpa [List.filter, he] using ih
    · simpa [List.filter, he, Tbl.find] using ih

theorem Tbl.find_del_ne {α : Type} (t : Tbl α) {k j : Nat} (h : j ≠ k) : Tbl.find (t.del k) j = Tbl.find t j := by
  induction t with
  | nil => rfl
  | cons e t ih =>
    simp only [Tbl.del] at ih ⊢
    by_cases he : e.1 = k
    · simpa [List.filter, he, Tbl.find, Ne.symm h] using ih
    · simp only [List.filter, ne_eq, he, not_false_eq_true, decide_true, Tbl.find, ih]

theorem Tbl.find_set_ne {α : Type} (t : Tbl α) {k j : Nat} (v : α) (h : j ≠ k) :
    Tbl.find (t.set k v) j = Tbl.find t j := by
  have hinsert (u : Tbl α) : Tbl.find (Tbl.insert k v u) j = Tbl.find u j := by
    induction u with
    | nil => simp [Tbl.insert, Tbl.find, Ne.symm h]
    | cons e u ih =>
      by_cases hk : k < e.1
      · simp [Tbl.insert, hk, Tbl.find, Ne.symm h]
      · simp [Tbl.insert, hk, Tbl.find, ih]
  rw [Tbl.set, hinsert, Tbl.find_del_ne t h]

/-! ### One thread of a TG -/

namespace Tg

variable (t : Tg) (key l : Nat) (f : Thread → Thread)

theorem find_updThread (k : Nat) : Tbl.find (t.updThread key l f).groups k =
    (Tbl.find t.groups k).map fun g => if k = key then { g with threads := g.threads.modify l f } else g := by
  simp only [Tg.updThread]
  induction t.groups with
  | nil => rfl
  | cons e gs ih =>
    by_cases hk : e.1 = k
    · subst hk
      by_cases he : e.1 = key <;> simp [Tbl.find, he]
    · by_cases he : e.1 = key
      · simpa [Tbl.find, he, he ▸ hk] using ih
      · simpa [Tbl.find, he, hk] using ih

theorem thread?_updThread_self : (t.updThread key l f).thread? key l = (t.thread? key l).map f := by
  simp only [Tg.thread?, Tg.find_updThread, if_true]
  cases Tbl.find t.groups key with
  | none => rfl
  | some g => simp

theorem thread?_updThread_ne {k j : Nat} (h : k = key → j ≠ l) : (t.updThread key l f).thread? k j = t.thread? k j := by
  simp only [Tg.thread?, Tg.find_updThread]
  cases Tbl.find t.groups k with
  | none => rfl
  | some g =>
    by_cases hk : k = key
    · simp [hk, Ne.symm (h hk)]
    · simp [hk]

/-- From t to t' only threads of some lanes of one group have changed, and none has come or gone. -/
structure Touched (key : Nat) (ls : List Nat) (t t' : Tg) : Prop where
  rest : t' = { t with groups := t'.groups }
  ids : ∀ k, (Tbl.find t'.groups k).map (fun g => (g.blk, g.idx)) = (Tbl.find t.groups k).map fun g => (g.blk, g.idx)
  threads : ∀ k l, (k = key → l ∉ ls) → t'.thread? k l = t.thread? k l
  there : ∀ l, (t'.thread? key l).isSome = (t.thread? key l).isSome

namespace Touched

variable {key} {ls : List Nat} {t t' t'' : Tg}

theorem refl (key : Nat) (ls : List Nat) (t : Tg) : Touched key ls t t :=
  ⟨rfl, fun _ => rfl, fun _ _ _ => rfl, fun _ => rfl⟩

theorem trans (h : Touched key ls t t') (g : Touched key ls t' t'') : Touched key ls t t'' := by
  refine ⟨?_, fun k => (g.ids k).trans (h.ids k), fun k l hk => (g.threads k l hk).trans (h.threads k l hk),
    fun l => (g.there l).trans (h.there l)⟩
  rw [g.rest, h.rest]

theorem mono {ms : List Nat} (h : Touched key ls t t') (hs : ls ⊆ ms) : Touched key ms t t' :=
  ⟨h.rest, h.ids, fun k l hk => h.threads k l fun e hl => hk e (hs hl), h.there⟩

theorem updThread (t : Tg) (l : Nat) (f : Thread → Thread) : Touched key [l] t (t.updThread key l f) := by
  refine ⟨rfl, fun k => ?_, fun k j hk => t.thread?_updThread_ne key l f fun e => by simpa using hk e, fun j => ?_⟩
  · rw [Tg.find_updThread]
    by_cases hk : k = key <;> simp [hk, Function.comp_def]
  · by_cases hj : j = l
    · subst hj
      simp [Tg.thread?_updThread_self]
    · rw [t.thread?_updThread_ne key l f fun _ => hj]

theorem updThreads (ls : List Nat) (t : Tg) (f : Thread → Thread) :
    Touched key ls t (ls.foldl (fun t l => t.updThread key l f) t) := by
  induction ls generalizing t with
  | nil => exact refl _ _ _
  | cons l ls ih =>
    exact ((updThread t l f).mono (by simp)).trans ((ih _).mono (by simp))

end Touched

theorem thread?_updThreads {ls : List Nat} (hnd : ls.Nodup) {l : Nat} (hl : l ∈ ls) (t : Tg) :
    (ls.foldl (fun t l => t.updThread key l f) t).thread? key l = (t.thread? key l).map f := by
  induction ls generalizing t with
  | nil => simp at hl
  | cons m ls ih =>
    obtain ⟨hm, hnd⟩ := List.nodup_cons.1 hnd
    rcases List.mem_cons.1 hl with rfl | hl
    · exact ((Touched.updThreads ls _ f).threads key l fun _ => hm).trans (t.thread?_updThread_self key l f)
    · have hne : l ≠ m := fun e => hm (e ▸ hl)
      rw [List.foldl_cons, ih hnd hl, t.thread?_updThread_ne key m f fun _ => hne]

end Tg

end Sys2Proof.Machine
end

section
/-! SUPPORT. The lanes of an issue set: what the work on some of them leaves alone, and what a run over every lane
brings each of them. -/

namespace Sys2Proof.Machine

/-! ### Work on some lanes -/

/-- The state of a thread lane's generator (R272, R276). -/
def State.genOf (s : State) (x : Ex) (l : Nat) : Word64 := s.lane x.job.ctx.val x.cl.val (tgLane x.sched.val l)

theorem Flagged.refl (s : State) : Flagged s s 0 := fun i _ h => by simpa using h

theorem Flagged.trans {s t u : State} {e : Exc} (h : Flagged s t 0) (g : Flagged t u e) : Flagged s u e := by
  intro i hi hb
  refine g i hi ?_
  rcases Bool.or_eq_true_iff.1 hb with hb | hb
  · rw [h i hi (by simp [hb]), Bool.true_or]
  · rw [hb, Bool.or_true]

theorem Flagged.trans_right {s t u : State} {e : Exc} (h : Flagged s t e) (g : Flagged t u 0) : Flagged s u e :=
  fun i hi hb => g i hi (by rw [h i hi hb, Bool.true_or])

theorem Flagged.of_or {s t : State} {e e' : Exc} (h : Flagged s t (e ||| e')) : Flagged s t e := by
  intro i hi hb
  refine h i hi ?_
  rw [BitVec.setWidth_or, BitVec.getLsbD_or, ← Bool.or_assoc, hb, Bool.true_or]

theorem Flagged.of_regs {s t : State} (h : t.regs = s.regs) : Flagged s t 0 := by
  intro i hi hb
  simpa [State.reg_of_regs h] using hb

theorem State.reg_raiseExc (s : State) (job : Option Nat) (e : Exc) :
    (s.raiseExc job e).reg 0x2500 0x0C = s.reg 0x2500 0x0C ||| e.setWidth 64 := by
  have hset : (s.setReg 0x2500 0x0C (s.reg 0x2500 0x0C ||| e.setWidth 64)).reg 0x2500 0x0C
      = s.reg 0x2500 0x0C ||| e.setWidth 64 := State.reg_setReg_self _ _ _ _
  unfold State.raiseExc
  split
  · next h => simp [h]
  · cases job with
    | none => exact hset
    | some id => exact hset

theorem State.raiseExc_flagged (s : State) (job : Option Nat) (e : Exc) : Flagged s (s.raiseExc job e) e := by
  intro i _ hb
  rwa [State.reg_raiseExc, BitVec.getLsbD_or]

theorem State.raiseExc_entries {C : List (Nat × Nat)} {u s : State} (hm : (0x2500, 0x0C) ∈ C) (h : Entries C u s)
    (job : Option Nat) (e : Exc) : Entries C u (s.raiseExc job e) := by
  unfold State.raiseExc
  split
  · exact h
  · cases job with
    | none => exact h.write hm _
    | some id => exact (h.write hm _).of_regs rfl

/-- Flags change the jobs of the sequencer alone. -/
theorem State.raiseExc_seq (s : State) (job : Option Nat) (e : Exc) :
    (s.raiseExc job e).seq = { s.seq with jobs := (s.raiseExc job e).seq.jobs } := by
  unfold State.raiseExc
  split
  · rfl
  · cases job <;> rfl

/-- From s to t only the threads of some lanes of an issue set, their generators and the exception flags have changed of
what an instruction on a thread's own registers can reach. -/
structure OnLanes (x : Ex) (ls : List Nat) (s t : State) : Prop where
  time : t.time = s.time
  others : OtherClusters x.cl s t
  engine : t.engine x.cl = s.engine x.cl
  tg : Tg.Touched x.key ls (s.tg x.cl) (t.tg x.cl)
  gens : ∀ l, l ∉ ls → t.genOf x l = s.genOf x l
  entries : Entries [(0x2500, 0x0C)] s t
  flags : Flagged s t 0

/-- The thread of a lane is there. -/
def State.hasLane (s : State) (x : Ex) (l : Nat) : Prop := ((s.tg x.cl).thread? x.key l).isSome = true

namespace OnLanes

variable {x : Ex} {ls : List Nat} {s t u : State}

theorem refl (x : Ex) (ls : List Nat) (s : State) : OnLanes x ls s s :=
  ⟨rfl, fun _ _ => rfl, rfl, .refl _ _ _, fun _ _ => rfl, .refl _ _, .refl _⟩

theorem trans (h : OnLanes x ls s t) (g : OnLanes x ls t u) : OnLanes x ls s u :=
  ⟨g.time.trans h.time, fun k hk => (g.others k hk).trans (h.others k hk), g.engine.trans h.engine, h.tg.trans g.tg,
    fun l hl => (g.gens l hl).trans (h.gens l hl), h.entries.trans g.entries, h.flags.trans g.flags⟩

theorem mono {ms : List Nat} (h : OnLanes x ls s t) (hs : ls ⊆ ms) : OnLanes x ms s t :=
  ⟨h.time, h.others, h.engine, h.tg.mono hs, fun l hl => h.gens l fun m => hl (hs m), h.entries, h.flags⟩

theorem foldl {f : Nat → State → State} {ls : List Nat} (hf : ∀ l ∈ ls, ∀ u, OnLanes x [l] u (f l u)) (s : State) :
    OnLanes x ls s (ls.foldl (fun s l => f l s) s) := by
  induction ls generalizing s with
  | nil => exact refl _ _ _
  | cons l ls ih =>
    exact ((hf l (by simp) s).mono (by simp)).trans ((ih (fun m hm => hf m (by simp [hm])) _).mono (by simp))

theorem hasLane (h : OnLanes x ls s t) {l : Nat} (hl : s.hasLane x l) : t.hasLane x l := (h.tg.there l).trans hl

theorem thread (h : OnLanes x ls s t) {l : Nat} (hl : l ∉ ls) : t.thread x l = s.thread x l := by
  simp only [State.thread, h.tg.threads x.key l fun _ => hl]

/-- What the special registers show is not a lane's own. -/
theorem special (h : OnLanes x ls s t) (l : Nat) (r : SpecialReg) : t.special x l r = s.special x l r := by
  have hids := h.tg.ids x.key
  have hblocks : (t.tg x.cl).blocks = (s.tg x.cl).blocks := by rw [h.tg.rest]
  simp only [State.special, hblocks, h.time]
  cases hs : Tbl.find (s.tg x.cl).groups x.key with
  | none =>
    rw [hs, Option.map_none, Option.map_eq_none_iff] at hids
    rw [hids]
  | some g =>
    rw [hs, Option.map_some, Option.map_eq_some_iff] at hids
    obtain ⟨g', hg', he⟩ := hids
    obtain ⟨hblk, hidx⟩ := Prod.mk.inj he
    simp only [hg', Option.bind_some, hblk, hidx]

theorem src (h : OnLanes x ls s t) {l : Nat} (hr : (t.thread x l).regs = (s.thread x l).regs) (a : Src) :
    t.src x l a = s.src x l a := by
  cases a with
  | reg r => simp only [State.src, State.rd, hr]
  | imm v => rfl
  | special r => exact h.special l r

/-- A change of a TG's threads. -/
theorem setTg (s : State) {t : Tg} (h : Tg.Touched x.key ls (s.tg x.cl) t) : OnLanes x ls s (s.setTg x.cl t) where
  time := rfl
  others _ hk := State.cluster_setCluster_ne s _ hk
  engine := s.engine_setTg _ _ _
  tg := by rwa [State.tg_setTg_self]
  gens _ _ := rfl
  entries := (Entries.refl _ s).of_regs rfl
  flags := .of_regs rfl

theorem setThread (s : State) (x : Ex) (l : Nat) (f : Thread → Thread) : OnLanes x [l] s (s.setThread x l f) :=
  setTg s (.updThread _ l f)

theorem advance (s : State) (x : Ex) (size : Nat) : OnLanes x x.lanes s (s.advance x size) := setTg s (.updThreads _ _ _)

theorem wr (s : State) (x : Ex) (l r : Nat) (v : Word32) (lat : Nat) : OnLanes x [l] s (s.wr x l r v lat) := setThread s x l _

theorem wrote (s : State) (x : Ex) (l : Nat) (rs : List Nat) : OnLanes x [l] s (s.wrote x l rs) := setThread s x l _

theorem wr2 (s : State) (x : Ex) (l r : Nat) (v : Word64) (lat : Nat) : OnLanes x [l] s (s.wr2 x l r v lat) :=
  ((wr s x l _ _ _).trans (wr _ x l _ _ _)).trans (wrote _ x l _)

theorem of_clusters (hc : t.clusters = s.clusters) (ht : t.time = s.time) (hg : ∀ l, l ∉ ls → t.genOf x l = s.genOf x l)
    (he : Entries [(0x2500, 0x0C)] s t) (hf : Flagged s t 0) : OnLanes x ls s t where
  time := ht
  others k _ := by simp only [State.cluster, hc]
  engine := by simp only [State.engine, State.cluster, hc]
  tg := by
    simp only [State.tg, State.cluster, hc]
    exact .refl _ _ _
  gens := hg
  entries := he
  flags := hf

end OnLanes

theorem State.lane_of_seq {s t : State} (hl : t.seq.lanes = s.seq.lanes) (hc : t.seq.ctxs = s.seq.ctxs) (c cl lane : Nat) :
    t.lane c cl lane = s.lane c cl lane := by simp only [State.lane, State.ctx, hl, hc]

theorem State.raiseExc_genOf (s : State) (job : Option Nat) (e : Exc) (x : Ex) (l : Nat) :
    (s.raiseExc job e).genOf x l = s.genOf x l :=
  State.lane_of_seq (by rw [State.raiseExc_seq]) (by rw [State.raiseExc_seq]) _ _ _

theorem State.raiseExc_clusters (s : State) (job : Option Nat) (e : Exc) : (s.raiseExc job e).clusters = s.clusters :=
  (State.raiseExc_keeps (List.Subset.refl _) (State.Keeps.refl _ s) job e).parts .clusters (by decide)

theorem OnLanes.raiseExc (s : State) (x : Ex) (ls : List Nat) (job : Option Nat) (e : Exc) :
    OnLanes x ls s (s.raiseExc job e) :=
  .of_clusters (s.raiseExc_clusters job e)
    ((State.raiseExc_keeps (List.Subset.refl _) (State.Keeps.refl _ s) job e).parts .time (by decide))
    (fun l _ => s.raiseExc_genOf job e x l) (State.raiseExc_entries (by simp) (.refl _ s) job e)
    (Flagged.of_or (e := 0) (by simpa using s.raiseExc_flagged job e))

theorem OnLanes.drawFree (s : State) (x : Ex) (ls : List Nat) : OnLanes x ls s s.drawFree :=
  .of_clusters rfl rfl (fun _ _ => rfl) ((Entries.refl _ s).of_regs rfl) (.of_regs rfl)

theorem State.lane_setLane_self (s : State) (c cl lane : Nat) (v : Word64) : (s.setLane c cl lane v).lane c cl lane = v := by
  simp only [State.lane, State.setLane, Tbl.find_set_self]

/-- A thread lane has a generator of its own. -/
theorem State.genOf_setLane_ne (s : State) (x : Ex) {l m : Nat} (v : Word64) (h : m ≠ l) :
    (s.setLane x.job.ctx.val x.cl.val (tgLane x.sched.val l) v).genOf x m = s.genOf x m := by
  have hk : laneKey x.job.ctx.val x.cl.val (tgLane x.sched.val m) ≠ laneKey x.job.ctx.val x.cl.val (tgLane x.sched.val l) := by
    simp only [laneKey, tgLane]
    omega
  simp only [State.genOf, State.lane, State.setLane, Tbl.find_set_ne _ _ hk]
  rfl

theorem OnLanes.setLane (s : State) (x : Ex) (l : Nat) (v : Word64) :
    OnLanes x [l] s (s.setLane x.job.ctx.val x.cl.val (tgLane x.sched.val l) v) :=
  .of_clusters rfl rfl (fun m hm => s.genOf_setLane_ne x v (by simpa using hm)) ((Entries.refl _ s).of_regs rfl) (.of_regs rfl)

/-! ### A run over every lane -/

/-- The state a in which an instruction comes to one lane of its issue set, from the state s in which it was issued. -/
structure LaneReady (s : State) (x : Ex) (size l : Nat) (a : State) : Prop where
  thread : a.thread x l = { s.thread x l with pc := x.pc + size }
  running : (s.thread x l).run = .running
  there : a.hasLane x l
  time : a.time = s.time
  src : ∀ r, a.src x l r = s.src x l r
  gen : a.genOf x l = s.genOf x l
  flags : Flagged s a 0

/-- What an instruction has brought one lane of its issue set stands when it has been run. -/
structure LaneDone (b t : State) (x : Ex) (l : Nat) : Prop where
  thread : t.thread x l = b.thread x l
  gen : t.genOf x l = b.genOf x l
  flags : Flagged b t 0

theorem State.tg_issued (s : State) (x : Ex) (n : Nat) : (s.issued x n).tg x.cl = { s.tg x.cl with
    issue := (s.tg x.cl).issue.del x.sched.val
    freeAt := Tbl.put 0 (s.tg x.cl).freeAt x.sched.val (s.time.core + n) } := State.tg_setTg_self _ _ _

theorem State.issued_laneDone (s : State) (x : Ex) (n l : Nat) : LaneDone s (s.issued x n) x l where
  thread := by
    have ht : ((s.issued x n).tg x.cl).thread? x.key l = (s.tg x.cl).thread? x.key l := by rw [State.tg_issued]; rfl
    simp only [State.thread, ht]
  gen := rfl
  flags := .of_regs rfl

theorem LaneDone.of_onLanes {b t : State} {x : Ex} {ls : List Nat} {l : Nat} (h : OnLanes x ls b t) (hl : l ∉ ls) :
    LaneDone b t x l := ⟨h.thread hl, h.gens l hl, h.flags⟩

theorem LaneDone.trans {b t u : State} {x : Ex} {l : Nat} (h : LaneDone b t x l) (g : LaneDone t u x l) : LaneDone b u x l :=
  ⟨g.thread.trans h.thread, g.gen.trans h.gen, h.flags.trans g.flags⟩

theorem OnLanes.went {s t : State} {x : Ex} {ls : List Nat} (h : OnLanes x ls s t) (rate : Nat) :
    Went s (t.issued x rate) x ls rate := by
  refine ⟨fun k hk => (State.cluster_setCluster_ne t _ hk).trans (h.others k hk), ?_, ?_, fun k l hk => ?_, ?_⟩
  · rw [State.tg_issued, Tbl.find_del_self]
  · rw [State.tg_issued, Tbl.get_put_self, h.time]
  · rw [State.tg_issued]
    exact h.tg.threads k l hk
  · exact (t.engine_setTg _ _ _).trans h.engine

section
variable {s : State} {th : Th} {regs : List Nat} {bad : State → Ex → Nat → Option (Nat × Word64)} {x : Ex}

/-- The effect of an instruction on every lane of an issue set, and the scheduler busy for its clocks. -/
def State.ranLanes (s : State) (x : Ex) (size rate : Nat) (f : Nat → State → State) : State :=
  (x.lanes.foldl (fun s l => f l s) (s.advance x size)).issued x rate

theorem State.perLane_eq (h : s.inHand th regs bad x) (rate : Nat) (f : Ex → Nat → State → State) :
    s.perLane th regs rate bad f = s.ranLanes x th.size rate (f x) := by
  obtain ⟨hex, hregs, -, -, hlanes⟩ := h
  have hgood : firstFault x.lanes (bad s x) = none := by
    simp only [firstFault, List.findSome?_eq_none_iff, Option.map_eq_none_iff]
    exact fun l hl => (hlanes l hl).2.2
  simp only [State.perLane, hex, hregs, hgood, State.ranLanes, Bool.not_true, Bool.false_eq_true, if_false]

theorem State.ranLanes_keeps {C : List Part} (hc : [Part.clusters] ⊆ C) {size rate : Nat} {f : Nat → State → State}
    (hf : ∀ l u, State.Keeps C s u → State.Keeps C s (f l u)) : State.Keeps C s (s.ranLanes x size rate f) :=
  State.issued_keeps hc (State.Keeps.foldl (fun u l h => hf l u h) _ (State.advance_keeps hc (State.Keeps.refl _ s) x size)) x rate

variable {size rate : Nat} {f : Nat → State → State}

theorem State.ranLanes_onLanes (hf : ∀ l ∈ x.lanes, ∀ u, OnLanes x [l] u (f l u)) :
    OnLanes x x.lanes s (x.lanes.foldl (fun s l => f l s) (s.advance x size)) :=
  (OnLanes.advance s x size).trans (.foldl hf _)

theorem State.ranLanes_went (hf : ∀ l ∈ x.lanes, ∀ u, OnLanes x [l] u (f l u)) :
    Went s (s.ranLanes x size rate f) x x.lanes rate := (State.ranLanes_onLanes hf).went rate

theorem State.ranLanes_entries (hf : ∀ l ∈ x.lanes, ∀ u, OnLanes x [l] u (f l u)) :
    Entries [(0x2500, 0x0C)] s (s.ranLanes x size rate f) := (State.ranLanes_onLanes hf).entries.of_regs rfl

/-- Each lane is met once: its thread stands at the next instruction, and what the instruction does to it stays. -/
theorem State.ranLanes_lane (h : s.inHand th regs bad x) (htog : s.together x)
    (hf : ∀ l ∈ x.lanes, ∀ u, OnLanes x [l] u (f l u)) {l : Nat} (hl : l ∈ x.lanes) :
    ∃ a, LaneReady s x size l a ∧ LaneDone (f l a) (s.ranLanes x size rate f) x l := by
  obtain ⟨-, -, hnd, -, hlanes⟩ := h
  obtain ⟨-, hthere, -⟩ := hlanes l hl
  obtain ⟨hrun, hpc⟩ := htog l hl
  obtain ⟨pre, post, hsplit⟩ := List.append_of_mem hl
  have hnd' := hnd
  rw [hsplit, List.nodup_append, List.nodup_cons] at hnd'
  obtain ⟨-, ⟨hpost, -⟩, hdis⟩ := hnd'
  have hpre : l ∉ pre := fun hm => hdis l hm l (by simp) rfl
  have hadv : (s.advance x size).thread x l = { s.thread x l with pc := x.pc + size } := by
    rw [State.thread, State.advance, State.tg_setTg_self, Tg.thread?_updThreads _ _ hnd hl]
    obtain ⟨y, hy⟩ := Option.isSome_iff_exists.1 hthere
    simp only [State.thread, hy, Option.map_some, Option.getD_some] at hpc ⊢
    rw [hpc]
  have hfirst : OnLanes x pre (s.advance x size) (pre.foldl (fun s l => f l s) (s.advance x size)) :=
    .foldl (fun m hm => hf m (by simp [hsplit, hm])) _
  have hall := (OnLanes.advance s x size).trans (hfirst.mono (by simp [hsplit]))
  have hthread := (hfirst.thread hpre).trans hadv
  refine ⟨pre.foldl (fun s l => f l s) (s.advance x size), ⟨hthread, hrun, hall.hasLane hthere, hall.time,
    fun r => hall.src (by rw [hthread]) r, hfirst.gens l hpre, hall.flags⟩, ?_⟩
  have hlast : OnLanes x post _ (post.foldl (fun s l => f l s) (f l (pre.foldl (fun s l => f l s) (s.advance x size)))) :=
    .foldl (fun m hm => hf m (by simp [hsplit, hm])) _
  rw [State.ranLanes, hsplit, List.foldl_append, List.foldl_cons]
  exact (LaneDone.of_onLanes hlast hpost).trans (State.issued_laneDone _ x rate l)

end

end Sys2Proof.Machine
end

section
/-! SUPPORT. Registers of one lane: what a write leaves in them, and what an instruction brings its lane. -/

namespace Sys2Proof.Machine

/-! ### A write of registers (R211, R231, R265) -/

section
variable {s : State} {x : Ex} {l : Nat}

theorem State.thread_setThread (h : s.hasLane x l) (f : Thread → Thread) : (s.setThread x l f).thread x l = f (s.thread x l) := by
  obtain ⟨y, hy⟩ := Option.isSome_iff_exists.1 h
  simp only [State.thread, State.setThread, State.tg_setTg_self, Tg.thread?_updThread_self, hy, Option.map_some, Option.getD_some]

theorem State.thread_wr (h : s.hasLane x l) (r : Nat) (v : Word32) (lat : Nat) : (s.wr x l r v lat).thread x l =
    { s.thread x l with
      regs := Tbl.put 0 (s.thread x l).regs r v
      sb := (r, some (s.time.core + lat)) :: (s.thread x l).sb.filter fun b => b.1 ≠ r } := State.thread_setThread h _

theorem State.thread_wrote (h : s.hasLane x l) (rs : List Nat) : (s.wrote x l rs).thread x l =
    { s.thread x l with poison := poisonLeft (s.thread x l).poison rs } := State.thread_setThread h _

theorem State.hasLane_setThread (h : s.hasLane x l) (f : Thread → Thread) : (s.setThread x l f).hasLane x l :=
  (OnLanes.setThread s x l f).hasLane h

theorem State.hasLane_wr (h : s.hasLane x l) (r : Nat) (v : Word32) (lat : Nat) : (s.wr x l r v lat).hasLane x l :=
  State.hasLane_setThread h _

theorem State.rd_wr_self (h : s.hasLane x l) (r : Nat) (v : Word32) (lat : Nat) : (s.wr x l r v lat).rd x l r = v := by
  rw [State.rd, State.thread_wr h, Tbl.get_put_self]

theorem State.rd_wr_ne (h : s.hasLane x l) {r q : Nat} (v : Word32) (lat : Nat) (hq : q ≠ r) :
    (s.wr x l r v lat).rd x l q = s.rd x l q := by
  rw [State.rd, State.thread_wr h, Tbl.get_put_ne _ _ _ _ hq]
  rfl

theorem State.rd_wrote (h : s.hasLane x l) (rs : List Nat) (q : Nat) : (s.wrote x l rs).rd x l q = s.rd x l q := by
  rw [State.rd, State.thread_wrote h]
  rfl

theorem State.rd_of_thread {t : State} (h : (t.thread x l).regs = (s.thread x l).regs) (r : Nat) : t.rd x l r = s.rd x l r := by
  rw [State.rd, h]
  rfl

theorem State.rd2_of_rd {t : State} (h : ∀ r, t.rd x l r = s.rd x l r) (r : Nat) : t.rd2 x l r = s.rd2 x l r := by
  rw [State.rd2, h, h]
  rfl

/-- The low word of a pair stands in its lower register. -/
theorem State.rd_wr2 (h : s.hasLane x l) (r : Nat) (v : Word64) (lat : Nat) :
    (s.wr2 x l r v lat).rd x l r = v.setWidth 32 ∧ (s.wr2 x l r v lat).rd x l (r + 1) = (v >>> 32).setWidth 32 := by
  have h1 := State.hasLane_wr h r (v.setWidth 32) lat
  have h2 := State.hasLane_wr h1 (r + 1) ((v >>> 32).setWidth 32) lat
  rw [State.wr2, State.rd_wrote h2, State.rd_wrote h2, State.rd_wr_ne h1 _ _ (by omega), State.rd_wr_self h, State.rd_wr_self h1]
  exact ⟨rfl, rfl⟩

theorem State.rd_wr2_ne (h : s.hasLane x l) {r q : Nat} (v : Word64) (lat : Nat) (hq : q ≠ r) (hq' : q ≠ r + 1) :
    (s.wr2 x l r v lat).rd x l q = s.rd x l q := by
  have h1 := State.hasLane_wr h r (v.setWidth 32) lat
  rw [State.wr2, State.rd_wrote (State.hasLane_wr h1 _ _ _), State.rd_wr_ne h1 _ _ hq', State.rd_wr_ne h _ _ hq]

theorem State.rd2_wr2 (h : s.hasLane x l) (r : Nat) (v : Word64) (lat : Nat) : (s.wr2 x l r v lat).rd2 x l r = v := by
  obtain ⟨hlow, hhigh⟩ := State.rd_wr2 h r v lat
  rw [State.rd2, hlow, hhigh]
  refine BitVec.eq_of_getLsbD_eq fun i hi => ?_
  rw [BitVec.getLsbD_append]
  by_cases h32 : i < 32
  · simp [h32]
  · simp [h32, show i - 32 < 32 by omega, show 32 + (i - 32) = i by omega]

end

/-! ### What an instruction brings its lane -/

/-- A thread stands at the same instruction, and runs or not, as before. -/
def Stands (s t : State) (x : Ex) (l : Nat) : Prop :=
  (t.thread x l).pc = (s.thread x l).pc ∧ (t.thread x l).run = (s.thread x l).run

theorem Stands.trans {s t u : State} {x : Ex} {l : Nat} (h : Stands s t x l) (g : Stands t u x l) : Stands s u x l :=
  ⟨g.1.trans h.1, g.2.trans h.2⟩

theorem Stands.of_thread {s t : State} {x : Ex} {l : Nat} (h : t.thread x l = s.thread x l) : Stands s t x l := by
  rw [Stands, h]
  exact ⟨rfl, rfl⟩

/-- Writes of registers that leave the register file's poison alone. -/
theorem Wrote.of_rd {s t : State} {x : Ex} {l : Nat} {rs : List (Nat × Word32)} (hrd : ∀ p ∈ rs, t.rd x l p.1 = p.2)
    (hne : ∀ r, r ∉ rs.map (·.1) → t.rd x l r = s.rd x l r) (hp : (t.thread x l).poison = (s.thread x l).poison) :
    Wrote s t x l rs := ⟨hrd, hne, fun _ hw => hp ▸ hw, fun _ hw _ => hp ▸ hw⟩

theorem mem_poisonLeft {pois rs : List Nat} {w : Nat} :
    w ∈ poisonLeft pois rs ↔ w ∈ pois ∧ (2 * w ∉ rs ∨ 2 * w + 1 ∉ rs) := by
  simp [poisonLeft]

section
variable {s : State} {x : Ex} {l : Nat} (h : s.hasLane x l)
include h

theorem Stands.setThread {f : Thread → Thread} (hpc : (f (s.thread x l)).pc = (s.thread x l).pc)
    (hrun : (f (s.thread x l)).run = (s.thread x l).run) : Stands s (s.setThread x l f) x l := by
  rw [Stands, State.thread_setThread h]
  exact ⟨hpc, hrun⟩

theorem Stands.wr (r : Nat) (v : Word32) (lat : Nat) : Stands s (s.wr x l r v lat) x l := Stands.setThread h rfl rfl

theorem Stands.wrote (rs : List Nat) : Stands s (s.wrote x l rs) x l := Stands.setThread h rfl rfl

theorem Stands.wr2 (r : Nat) (v : Word64) (lat : Nat) : Stands s (s.wr2 x l r v lat) x l :=
  have h1 := State.hasLane_wr h r (v.setWidth 32) lat
  ((Stands.wr h _ _ _).trans (Stands.wr h1 _ _ _)).trans (Stands.wrote (State.hasLane_wr h1 _ _ _) _)

theorem Wrote.wr (r : Nat) (v : Word32) (lat : Nat) : Wrote s (s.wr x l r v lat) x l [(r, v)] := by
  refine .of_rd (fun p hp => ?_) (fun q hq => State.rd_wr_ne h v lat (by simpa using hq)) (by rw [State.thread_wr h])
  rw [List.mem_singleton.1 hp]
  exact State.rd_wr_self h r v lat

theorem Wrote.wr2 (r : Nat) (v : Word64) (lat : Nat) :
    Wrote s (s.wr2 x l r v lat) x l [(r, v.setWidth 32), (r + 1, (v >>> 32).setWidth 32)] := by
  have h1 := State.hasLane_wr h r (v.setWidth 32) lat
  have h2 := State.hasLane_wr h1 (r + 1) ((v >>> 32).setWidth 32) lat
  have hpois : ((s.wr2 x l r v lat).thread x l).poison = poisonLeft (s.thread x l).poison [r, r + 1] := by
    rw [State.wr2, State.thread_wrote h2, State.thread_wr h1, State.thread_wr h]
  obtain ⟨hlow, hhigh⟩ := State.rd_wr2 h r v lat
  refine ⟨?_, fun q hq => ?_, fun w hw => ?_, fun w hw hpart => ?_⟩
  · simp [hlow, hhigh]
  · simp only [List.map_cons, List.map_nil, List.mem_cons, List.not_mem_nil, or_false, not_or] at hq
    exact State.rd_wr2_ne h v lat hq.1 hq.2
  · rw [hpois, mem_poisonLeft] at hw
    exact hw.1
  · rw [hpois, mem_poisonLeft]
    exact ⟨hw, hpart⟩

theorem From.wr (r : Nat) (v : Word32) (lat : Nat) : From (s.wr x l r v lat) x l r (s.time.core + lat) := by
  rw [From, State.thread_wr h]
  exact List.mem_cons_self

theorem From.wr_ne {r q clk : Nat} (v : Word32) (lat : Nat) (hq : q ≠ r) (hf : From s x l q clk) :
    From (s.wr x l r v lat) x l q clk := by
  rw [From, State.thread_wr h]
  exact List.mem_cons_of_mem _ (List.mem_filter.2 ⟨hf, by simpa using hq⟩)

theorem From.wrote {q clk : Nat} (rs : List Nat) (hf : From s x l q clk) : From (s.wrote x l rs) x l q clk := by
  rw [From, State.thread_wrote h]
  exact hf

end

section
variable {s a b t : State} {x : Ex} {size l : Nat}

theorem From.done {r clk : Nat} (h : LaneDone b t x l) (hf : From b x l r clk) : From t x l r clk := by
  rw [From, h.thread]
  exact hf

theorem LaneReady.rd (h : LaneReady s x size l a) (r : Nat) : a.rd x l r = s.rd x l r := h.src (.reg r)

theorem LaneReady.rd2 (h : LaneReady s x size l a) (r : Nat) : a.rd2 x l r = s.rd2 x l r := State.rd2_of_rd h.rd r

theorem LaneReady.wrote {rs : List (Nat × Word32)} (h : LaneReady s x size l a) (hd : LaneDone b t x l)
    (hw : Wrote a b x l rs) : Wrote s t x l rs := by
  obtain ⟨hrd, hne, hgain, hlose⟩ := hw
  have ht (r : Nat) : t.rd x l r = b.rd x l r := State.rd_of_thread (by rw [hd.thread]) r
  have hp : (a.thread x l).poison = (s.thread x l).poison := by rw [h.thread]
  refine ⟨fun p hp => (ht _).trans (hrd p hp), fun r hr => (ht r).trans ((hne r hr).trans (h.rd r)), fun w hw => ?_,
    fun w hw => ?_⟩
  · rw [hd.thread] at hw
    exact hp ▸ hgain w hw
  · rw [hd.thread]
    exact hlose w (hp ▸ hw)

/-- A thread that has not left its place goes on at the next instruction. -/
theorem LaneReady.next (h : LaneReady s x size l a) (hd : LaneDone b t x l) (hs : Stands a b x l) : At t x l (x.pc + size) := by
  obtain ⟨hpc, hrun⟩ := hs
  rw [At, hd.thread, hpc, hrun, h.thread]
  exact ⟨rfl, h.running⟩

theorem LaneReady.flagged {e : Exc} (h : LaneReady s x size l a) (hd : LaneDone b t x l) (hf : Flagged a b e) : Flagged s t e :=
  (h.flags.trans hf).trans_right hd.flags

end

end Sys2Proof.Machine
end

section
/-! SUPPORT. Instructions on a thread's own registers: what each does to its lane, by the values it reads. -/

namespace Sys2Proof.Machine

/-! ### What an instruction does to its lane (R265) -/

/-- What an instruction does to its lane. -/
inductive AluAct
  | write (d : Nat) (v : Word32)
  | shift (d n : Nat) (v : Word32)
  | pair (d : Nat) (v : Word64)
  | float (d : Nat) (v : Word32 × Exc) (lat : Nat)
  | jump (target : Nat)
  | stay
  | call (d target : Nat)
  | nothing

/-- The action of an instruction, by the values that its lane reads. -/
def State.aluAct (s : State) (x : Ex) (l : Nat) : AluOp → AluAct
  | .add d a b => .write d (s.src x l a + s.src x l b)
  | .sub d a b => .write d (s.src x l a - s.src x l b)
  | .cmp c d a b => .write d (if cmpHolds c (s.src x l a) (s.src x l b) then 1 else 0)
  | .select d p a b => .write d (if s.src x l p ≠ 0 then s.src x l a else s.src x l b)
  | .shl d a b => .shift d (s.src x l b).toNat (s.src x l a <<< (s.src x l b).toNat)
  | .shrL d a b => .shift d (s.src x l b).toNat (s.src x l a >>> (s.src x l b).toNat)
  | .shrA d a b => .shift d (s.src x l b).toNat ((s.src x l a).sshiftRight (s.src x l b).toNat)
  | .mul32 d a b => .write d (s.src x l a * s.src x l b)
  | .mul64 d a b => .pair d (s.rd2 x l a * s.rd2 x l b)
  | .and d a b => .write d (s.src x l a &&& s.src x l b)
  | .or d a b => .write d (s.src x l a ||| s.src x l b)
  | .xor d a b => .write d (s.src x l a ^^^ s.src x l b)
  | .fadd d a b => .float d ((addRne (s.src x l a) (s.src x l b)).1,
      (addRne (s.src x l a) (s.src x l b)).2 ||| nanIn [ofWord (s.src x l a), ofWord (s.src x l b)]) 4
  | .fmul d a b => .float d ((mulRne (s.src x l a) (s.src x l b)).1,
      (mulRne (s.src x l a) (s.src x l b)).2 ||| nanIn [ofWord (s.src x l a), ofWord (s.src x l b)]) 4
  | .ffma d a b c => .float d ((fmaRne (s.src x l a) (s.src x l b) (s.src x l c)).1,
      (fmaRne (s.src x l a) (s.src x l b) (s.src x l c)).2
        ||| nanIn [ofWord (s.src x l a), ofWord (s.src x l b), ofWord (s.src x l c)]) 4
  | .bf16fma d a b c => .float d (packedFma (s.src x l a) (s.src x l b) (s.src x l c)) 4
  | .special f d a => .float d (specialFn f (s.src x l a)) 12
  | .branch target => .jump target
  | .branchIf p target => if s.src x l p ≠ 0 then .jump target else .stay
  | .call d target => .call d target
  | .ret a => .jump (s.rd x l a).toNat
  | .undefinedEncoding => .nothing

/-- The state after an action. -/
def AluAct.run (x : Ex) (l size : Nat) (s : State) : AluAct → State
  | .write d v => s.wr x l d v 4
  | .shift d n v => s.shift x l d n v
  | .pair d v => s.wr2 x l d v 8
  | .float d v lat => s.put x l d v lat
  | .jump target => s.jump x l target
  | .stay => s.hold2 x l
  | .call d target => (s.wr x l d (BitVec.ofNat 32 (x.pc + size)) 2).jump x l target
  | .nothing => s

theorem State.alu_eq (s : State) (x : Ex) (l size : Nat) (op : AluOp) :
    s.alu x l size op = (s.aluAct x l op).run x l size s := by
  cases op
  case branchIf p target =>
    simp only [State.alu, State.aluAct]
    split <;> rfl
  all_goals rfl

theorem LaneReady.aluAct {s a : State} {x : Ex} {size l : Nat} (h : LaneReady s x size l a) (op : AluOp) :
    a.aluAct x l op = s.aluAct x l op := by
  cases op <;> simp only [State.aluAct, h.src, h.rd, h.rd2]

theorem OnLanes.shift (s : State) (x : Ex) (l d n : Nat) (v : Word32) : OnLanes x [l] s (s.shift x l d n v) := by
  unfold State.shift
  split
  · exact .wr s x l d v 4
  · exact (OnLanes.drawFree s x [l]).trans (.wr _ x l d _ 4)

theorem OnLanes.put (s : State) (x : Ex) (l d : Nat) (v : Word32 × Exc) (lat : Nat) : OnLanes x [l] s (s.put x l d v lat) :=
  (OnLanes.wr s x l d v.1 lat).trans (.raiseExc _ x _ _ _)

theorem OnLanes.jump (s : State) (x : Ex) (l target : Nat) : OnLanes x [l] s (s.jump x l target) :=
  (OnLanes.setThread s x l _).trans (.setThread _ x l _)

theorem AluAct.run_onLanes (x : Ex) (l size : Nat) (s : State) (act : AluAct) : OnLanes x [l] s (act.run x l size s) := by
  cases act with
  | write d v => exact .wr s x l d v 4
  | shift d n v => exact .shift s x l d n v
  | pair d v => exact .wr2 s x l d v 8
  | float d v lat => exact .put s x l d v lat
  | jump target => exact .jump s x l target
  | stay => exact .setThread s x l _
  | call d target => exact (OnLanes.wr s x l d _ 2).trans (.jump _ x l target)
  | nothing => exact .refl x [l] s

/-! ### One action on a lane that is ready -/

section
variable {s a t : State} {x : Ex} {size l : Nat} (h : LaneReady s x size l a)
include h

theorem AluAct.write_done {d : Nat} {v : Word32} (hd : LaneDone ((AluAct.write d v).run x l size a) t x l) :
    Wrote s t x l [(d, v)] ∧ At t x l (x.pc + size) ∧ From t x l d (s.time.core + 4) :=
  ⟨h.wrote hd (.wr h.there d v 4), h.next hd (.wr h.there d v 4), h.time ▸ (From.wr h.there d v 4).done hd⟩

/-- A shift by 32 or more writes some value (log entry 44). -/
theorem AluAct.shift_done {d n : Nat} {v : Word32} (hd : LaneDone ((AluAct.shift d n v).run x l size a) t x l) :
    (∃ w, Wrote s t x l [(d, w)] ∧ (n < 32 → w = v)) ∧ At t x l (x.pc + size) ∧ From t x l d (s.time.core + 4) := by
  simp only [AluAct.run, State.shift] at hd
  split at hd
  · obtain ⟨hw, hat, hfrom⟩ := AluAct.write_done (v := v) h hd
    exact ⟨⟨v, hw, fun _ => rfl⟩, hat, hfrom⟩
  · next hn =>
    have hfree : LaneReady s x size l a.drawFree :=
      ⟨h.thread, h.running, h.there, h.time, fun r => ((OnLanes.drawFree a x [l]).src rfl r).trans (h.src r), h.gen, h.flags⟩
    obtain ⟨hw, hat, hfrom⟩ := AluAct.write_done (v := a.freeWord.setWidth 32) hfree hd
    exact ⟨⟨_, hw, fun hlt => absurd hlt hn⟩, hat, hfrom⟩

theorem AluAct.pair_done {d : Nat} {v : Word64} (hd : LaneDone ((AluAct.pair d v).run x l size a) t x l) :
    Wrote s t x l [(d, v.setWidth 32), (d + 1, (v >>> 32).setWidth 32)] ∧ At t x l (x.pc + size)
      ∧ From t x l d (s.time.core + 8) ∧ From t x l (d + 1) (s.time.core + 8) := by
  have h1 := State.hasLane_wr h.there d (v.setWidth 32) 8
  have h2 := State.hasLane_wr h1 (d + 1) ((v >>> 32).setWidth 32) 8
  have hlow : From (a.wr2 x l d v 8) x l d (a.time.core + 8) :=
    .wrote h2 _ (.wr_ne h1 _ _ (by omega) (.wr h.there d (v.setWidth 32) 8))
  have hhigh : From (a.wr2 x l d v 8) x l (d + 1) (a.time.core + 8) := .wrote h2 _ (.wr h1 (d + 1) _ 8)
  exact ⟨h.wrote hd (.wr2 h.there d v 8), h.next hd (.wr2 h.there d v 8), h.time ▸ hlow.done hd, h.time ▸ hhigh.done hd⟩

theorem AluAct.float_done {d lat : Nat} {v : Word32 × Exc} (hd : LaneDone ((AluAct.float d v lat).run x l size a) t x l) :
    Wrote s t x l [(d, v.1)] ∧ At t x l (x.pc + size) ∧ From t x l d (s.time.core + lat) ∧ Flagged s t v.2 := by
  have hraise : LaneDone (a.wr x l d v.1 lat) ((AluAct.float d v lat).run x l size a) x l :=
    .of_onLanes (OnLanes.raiseExc (a.wr x l d v.1 lat) x [] (some x.job.id) v.2) List.not_mem_nil
  have hflag : Flagged a ((AluAct.float d v lat).run x l size a) v.2 :=
    Flagged.trans (OnLanes.wr a x l d v.1 lat).flags (State.raiseExc_flagged _ _ _)
  have hwr := hraise.trans hd
  exact ⟨h.wrote hwr (.wr h.there d v.1 lat), h.next hwr (.wr h.there d v.1 lat),
    h.time ▸ (From.wr h.there d v.1 lat).done hwr, h.flagged hd hflag⟩

theorem AluAct.stay_done (hd : LaneDone (AluAct.stay.run x l size a) t x l) :
    Wrote s t x l [] ∧ At t x l (x.pc + size) ∧ From t x l pcReg (s.time.core + 2) := by
  have hthread := State.thread_setThread h.there fun t => { t with
    sb := (pcReg, some (a.time.core + 2)) :: t.sb.filter fun b => b.1 ≠ pcReg }
  refine ⟨h.wrote hd (.of_rd (by simp) (fun r _ => State.rd_of_thread ?_ r) ?_), h.next hd (.setThread h.there rfl rfl),
    h.time ▸ From.done hd ?_⟩
  · rw [AluAct.run, State.hold2, hthread]
  · rw [AluAct.run, State.hold2, hthread]
  · rw [From, AluAct.run, State.hold2, hthread]
    exact List.mem_cons_self

theorem AluAct.jump_done {target : Nat} (hd : LaneDone ((AluAct.jump target).run x l size a) t x l) :
    Wrote s t x l [] ∧ At t x l target ∧ From t x l pcReg (s.time.core + 2) := by
  have hthread : ((AluAct.jump target).run x l size a).thread x l = { a.thread x l with
      pc := target
      sb := (pcReg, some (a.time.core + 2)) :: (a.thread x l).sb.filter fun b => b.1 ≠ pcReg } := by
    rw [AluAct.run, State.jump, State.hold2, State.thread_setThread (State.hasLane_setThread h.there _),
      State.thread_setThread h.there]
    rfl
  refine ⟨h.wrote hd (.of_rd (by simp) (fun r _ => State.rd_of_thread ?_ r) ?_), ?_, h.time ▸ From.done hd ?_⟩
  · rw [hthread]
  · rw [hthread]
  · rw [At, hd.thread, hthread, h.thread]
    exact ⟨rfl, h.running⟩
  · rw [From, hthread]
    exact List.mem_cons_self

theorem AluAct.call_done {d target : Nat} (hd : LaneDone ((AluAct.call d target).run x l size a) t x l) :
    Wrote s t x l [(d, BitVec.ofNat 32 (x.pc + size))] ∧ At t x l target ∧ From t x l d (s.time.core + 2)
      ∧ From t x l pcReg (s.time.core + 2) := by
  have hthread : ((AluAct.call d target).run x l size a).thread x l =
      { (a.wr x l d (BitVec.ofNat 32 (x.pc + size)) 2).thread x l with
        pc := target
        sb := (pcReg, some (a.time.core + 2)) ::
          ((a.wr x l d (BitVec.ofNat 32 (x.pc + size)) 2).thread x l).sb.filter fun b => b.1 ≠ pcReg } := by
    have h1 := State.hasLane_wr h.there d (BitVec.ofNat 32 (x.pc + size)) 2
    rw [AluAct.run, State.jump, State.hold2, State.thread_setThread (State.hasLane_setThread h1 _), State.thread_setThread h1]
    rfl
  have hpc : From ((AluAct.call d target).run x l size a) x l pcReg (a.time.core + 2) := by
    rw [From, hthread]
    exact List.mem_cons_self
  have hlink : From ((AluAct.call d target).run x l size a) x l d (a.time.core + 2) := by
    by_cases hreg : d = pcReg
    · rwa [hreg] at hpc ⊢
    · rw [From, hthread]
      exact List.mem_cons_of_mem _ (List.mem_filter.2 ⟨From.wr h.there d _ 2, by simpa using hreg⟩)
  obtain ⟨hrd, hne, hgain, hlose⟩ := Wrote.wr h.there d (BitVec.ofNat 32 (x.pc + size)) 2
  have hrds (r : Nat) : ((AluAct.call d target).run x l size a).rd x l r
      = (a.wr x l d (BitVec.ofNat 32 (x.pc + size)) 2).rd x l r := State.rd_of_thread (by rw [hthread]) r
  have hw : Wrote a ((AluAct.call d target).run x l size a) x l [(d, BitVec.ofNat 32 (x.pc + size))] := by
    refine .of_rd (fun p hp => (hrds _).trans (hrd p hp)) (fun r hr => (hrds r).trans (hne r hr)) ?_
    rw [hthread, State.thread_wr h.there]
  refine ⟨h.wrote hd hw, ?_, h.time ▸ hlink.done hd, h.time ▸ hpc.done hd⟩
  rw [At, hd.thread, hthread, State.thread_wr h.there, h.thread]
  exact ⟨rfl, h.running⟩

/-- When what an instruction writes can be read (R265). -/
theorem alu_from {op : AluOp} (hd : LaneDone (a.alu x l size op) t x l) {r : Nat} (hr : r ∈ (aluUse op).2.1) :
    From t x l r (s.time.core + aluLatency op) := by
  rw [State.alu_eq, h.aluAct] at hd
  cases op
  case mul64 d p q =>
    obtain ⟨-, -, hlow, hhigh⟩ := AluAct.pair_done h hd
    rcases List.mem_cons.1 hr with rfl | hr
    · exact hlow
    · rwa [List.mem_singleton.1 hr]
  case branch => simp [aluUse] at hr
  case branchIf => simp [aluUse] at hr
  case ret => simp [aluUse] at hr
  case undefinedEncoding => simp [aluUse] at hr
  all_goals obtain rfl := List.mem_singleton.1 hr
  case call => exact (AluAct.call_done h hd).2.2.1
  case shl => exact (AluAct.shift_done h hd).2.2
  case shrL => exact (AluAct.shift_done h hd).2.2
  case shrA => exact (AluAct.shift_done h hd).2.2
  case fadd => exact (AluAct.float_done h hd).2.2.1
  case fmul => exact (AluAct.float_done h hd).2.2.1
  case ffma => exact (AluAct.float_done h hd).2.2.1
  case bf16fma => exact (AluAct.float_done h hd).2.2.1
  case special => exact (AluAct.float_done h hd).2.2.1
  all_goals exact (AluAct.write_done h hd).2.2

end

/-! ### The instruction over its issue set -/

/-- The instruction computes in floating point. -/
def aluFloats : AluOp → Bool
  | .fadd .. | .fmul .. | .ffma .. | .bf16fma .. | .special .. => true
  | _ => false

/-- What does not compute in floating point raises no flag. -/
theorem State.alu_regs (s : State) (x : Ex) (l size : Nat) {op : AluOp} (h : aluFloats op = false) :
    (s.alu x l size op).regs = s.regs := by
  have hshift (d n : Nat) (v : Word32) : (s.shift x l d n v).regs = s.regs := by
    unfold State.shift
    split <;> rfl
  cases op
  case fadd => cases h
  case fmul => cases h
  case ffma => cases h
  case bf16fma => cases h
  case special => cases h
  case shl => exact hshift _ _ _
  case shrL => exact hshift _ _ _
  case shrA => exact hshift _ _ _
  case branchIf =>
    simp only [State.alu]
    split <;> rfl
  all_goals rfl

/-- What no lane's work changes, and no change of a TG, stands after the run. -/
theorem State.ranLanes_same {α : Type} {g : State → α} {s : State} {x : Ex} {size rate : Nat} {f : Nat → State → State}
    (hg : ∀ u cl y, g (State.setTg u cl y) = g u) (hf : ∀ l u, g (f l u) = g u) : g (s.ranLanes x size rate f) = g s := by
  have hfold (ls : List Nat) (u : State) : g (ls.foldl (fun s l => f l s) u) = g u := by
    induction ls generalizing u with
    | nil => rfl
    | cons l ls ih => exact (ih _).trans (hf l u)
  exact (hg _ _ _).trans ((hfold x.lanes _).trans (hg _ _ _))

/-- Settles O30: on each lane an instruction does what its action says, by the registers before it. -/
theorem arithmeticWritesItsLane : Obligations.ArithmeticWritesItsLane := by
  intro s th op x hin htog
  have hlanes (l : Nat) (_ : l ∈ x.lanes) (u : State) : OnLanes x [l] u (u.alu x l th.size op) := by
    rw [State.alu_eq]
    exact AluAct.run_onLanes x l th.size u _
  have heq : exec (.aluInstruction th op) s =
      .next (s.ranLanes x th.size (aluUse op).2.2 fun l u => u.alu x l th.size op) :=
    congrArg Host.Outcome.next (State.perLane_eq hin _ _)
  have hregs (hf : aluFloats op = false) :
      (s.ranLanes x th.size (aluUse op).2.2 fun l u => u.alu x l th.size op).regs = s.regs :=
    State.ranLanes_same (g := State.regs) (fun _ _ _ => rfl) fun l u => u.alu_regs x l th.size hf
  refine ⟨_, heq, (State.ranLanes_keeps (by decide) fun l u h => State.alu_keeps (List.Subset.refl _) h x l th.size op).frame,
    State.ranLanes_went hlanes, State.ranLanes_entries hlanes, fun l hl r hr => ?_, fun l hl => ?_⟩
  · obtain ⟨a, ha, hd⟩ := State.ranLanes_lane hin htog hlanes hl
    exact alu_from ha hd hr
  obtain ⟨a, ha, hd⟩ := State.ranLanes_lane (rate := (aluUse op).2.2) hin htog hlanes hl
  rw [State.alu_eq, ha.aluAct] at hd
  cases op
  case undefinedEncoding =>
    obtain ⟨-, -, -, -, hgood⟩ := hin
    cases (hgood l hl).2.2
  case mul64 d p q =>
    obtain ⟨hw, hat, -⟩ := AluAct.pair_done ha hd
    exact ⟨hw, hat, hregs rfl⟩
  case branch p =>
    obtain ⟨hw, hat, hfrom⟩ := AluAct.jump_done ha hd
    exact ⟨hw, hfrom, hat, hregs rfl⟩
  case ret r =>
    obtain ⟨hw, hat, hfrom⟩ := AluAct.jump_done ha hd
    exact ⟨hw, hfrom, hat, hregs rfl⟩
  case call d p =>
    obtain ⟨hw, hat, -, hfrom⟩ := AluAct.call_done ha hd
    exact ⟨hw, hfrom, hat, hregs rfl⟩
  case branchIf r p =>
    by_cases hp : s.src x l r ≠ 0
    · rw [State.aluAct, if_pos hp] at hd
      obtain ⟨hw, hat, hfrom⟩ := AluAct.jump_done ha hd
      exact ⟨hw, hfrom, by rwa [if_pos hp], hregs rfl⟩
    · rw [State.aluAct, if_neg hp] at hd
      obtain ⟨hw, hat, hfrom⟩ := AluAct.stay_done ha hd
      exact ⟨hw, hfrom, by rwa [if_neg hp], hregs rfl⟩
  case fadd | fmul | ffma =>
    obtain ⟨hw, hat, -, hflag⟩ := AluAct.float_done ha hd
    exact ⟨hw, hat, hflag.of_or⟩
  case bf16fma | special =>
    obtain ⟨hw, hat, -, hflag⟩ := AluAct.float_done ha hd
    exact ⟨hw, hat, hflag⟩
  case shl | shrL | shrA =>
    obtain ⟨⟨v, hw, hv⟩, hat, -⟩ := AluAct.shift_done ha hd
    exact ⟨hat, hregs rfl, v, hw, hv⟩
  all_goals
    obtain ⟨hw, hat, -⟩ := AluAct.write_done ha hd
    exact ⟨hw, hat, hregs rfl⟩

end Sys2Proof.Machine
end

section
/-! SUPPORT. Random draws and conversions on one lane: where the bits come from, and the registers they are written to. -/

namespace Sys2Proof.Machine

/-! ### Draws (R272, R273, R283) -/

/-- The generator's mask and state that a draw of a lane takes its bits from. -/
def DrawFrom.mask (x : Ex) (l : Nat) : DrawFrom → Word64
  | .lane => polyMask (tgLane x.sched.val l)
  | .pair _ => polyMask 255

def State.drawState (s : State) (x : Ex) (l : Nat) : DrawFrom → Word64
  | .lane => s.genOf x l
  | .pair r => s.rd2 x l r

/-- A draw changes its own source alone: for a lane's generator no register of the thread, for a pair no other
register and no generator. -/
structure DrawKeeps (x : Ex) (l : Nat) (src : DrawFrom) (s t : State) : Prop where
  stands : Stands s t x l
  rd : ∀ r, r ∉ src.regs → t.rd x l r = s.rd x l r
  thread : src = .lane → t.thread x l = s.thread x l

theorem DrawKeeps.refl (x : Ex) (l : Nat) (src : DrawFrom) (s : State) : DrawKeeps x l src s s :=
  ⟨⟨rfl, rfl⟩, fun _ _ => rfl, fun _ => rfl⟩

theorem DrawKeeps.trans {x : Ex} {l : Nat} {src : DrawFrom} {s t u : State} (h : DrawKeeps x l src s t)
    (g : DrawKeeps x l src t u) : DrawKeeps x l src s u :=
  ⟨h.stands.trans g.stands, fun r hr => (g.rd r hr).trans (h.rd r hr),
    fun e => (g.thread e).trans (h.thread e)⟩

theorem State.drawBitsFrom_onLanes (s : State) (x : Ex) (l n lat : Nat) (src : DrawFrom) :
    OnLanes x [l] s (s.drawBitsFrom x l n lat src).1 := by
  cases src with
  | lane =>
    by_cases hn : n = 0
    · simpa [State.drawBitsFrom, hn] using OnLanes.refl x [l] s
    · simp only [State.drawBitsFrom, hn, if_false, State.tgDraw]
      exact .setLane s x l _
  | pair r =>
    by_cases hn : n = 0
    · simpa [State.drawBitsFrom, hn] using OnLanes.refl x [l] s
    · simp only [State.drawBitsFrom, hn, if_false, State.keyDraw]
      exact .wr2 s x l r _ lat

section
variable {s : State} {x : Ex} {l : Nat} (h : s.hasLane x l)

include h in
theorem State.drawBitsFrom_keepsLane (n lat : Nat) (src : DrawFrom) :
    DrawKeeps x l src s (s.drawBitsFrom x l n lat src).1 := by
  cases src with
  | lane =>
    by_cases hn : n = 0
    · simpa [State.drawBitsFrom, hn] using DrawKeeps.refl x l .lane s
    · simp only [State.drawBitsFrom, hn, if_false, State.tgDraw]
      exact ⟨⟨rfl, rfl⟩, fun _ _ => rfl, fun _ => rfl⟩
  | pair r =>
    by_cases hn : n = 0
    · simpa [State.drawBitsFrom, hn] using DrawKeeps.refl x l (.pair r) s
    · simp only [State.drawBitsFrom, hn, if_false, State.keyDraw]
      refine ⟨.wr2 h r _ lat, fun q hq => ?_, fun e => nomatch e⟩
      simp only [DrawFrom.regs, List.mem_cons, List.not_mem_nil, or_false, not_or] at hq
      exact State.rd_wr2_ne h _ lat hq.1 hq.2

/-- The bits are the generator's next, also where none are drawn. -/
theorem State.drawBitsFrom_bits (n lat : Nat) (src : DrawFrom) :
    (s.drawBitsFrom x l n lat src).2 = (rngDraw (src.mask x l) n (s.drawState x l src)).1 := by
  cases src <;> by_cases hn : n = 0 <;> simp only [State.drawBitsFrom, hn, if_true, if_false] <;> rfl

include h in
theorem State.drawBitsFrom_state (n lat : Nat) (src : DrawFrom) :
    (s.drawBitsFrom x l n lat src).1.drawState x l src = (rngDraw (src.mask x l) n (s.drawState x l src)).2 := by
  cases src with
  | lane =>
    by_cases hn : n = 0
    · simp only [State.drawBitsFrom, hn, if_true]
      rfl
    · simp only [State.drawBitsFrom, hn, if_false, State.tgDraw]
      exact State.lane_setLane_self s _ _ _ _
  | pair r =>
    by_cases hn : n = 0
    · simp only [State.drawBitsFrom, hn, if_true]
      rfl
    · simp only [State.drawBitsFrom, hn, if_false, State.keyDraw]
      exact State.rd2_wr2 h r _ lat

end

theorem LaneReady.drawState {s a : State} {x : Ex} {size l : Nat} (h : LaneReady s x size l a) (src : DrawFrom) :
    a.drawState x l src = s.drawState x l src := by
  cases src with
  | lane => exact h.gen
  | pair r => exact h.rd2 r

/-- What an instruction that draws and writes registers has brought its lane: the registers it names, the source of its
bits advanced, and nothing else. -/
structure DrewWrote (s t : State) (x : Ex) (size l : Nat) (src : DrawFrom) (ws : List (Nat × Word32)) (gen : Word64) : Prop where
  next : At t x l (x.pc + size)
  rd : ∀ p ∈ ws, t.rd x l p.1 = p.2
  other : ∀ r, r ∉ ws.map (·.1) → r ∉ src.regs → t.rd x l r = s.rd x l r
  source : (∀ r ∈ src.regs, r ∉ ws.map (·.1)) → t.drawState x l src = gen
  wrote : src = .lane → Wrote s t x l ws

theorem LaneReady.drewWrote {s a b c t : State} {x : Ex} {size l : Nat} {src : DrawFrom} {ws : List (Nat × Word32)}
    (h : LaneReady s x size l a) (hk : DrawKeeps x l src a b) (hw : Wrote b c x l ws) (hs : Stands b c x l)
    (hseq : c.seq = b.seq) (hd : LaneDone c t x l) : DrewWrote s t x size l src ws (b.drawState x l src) := by
  have ht (r : Nat) : t.rd x l r = c.rd x l r := State.rd_of_thread (by rw [hd.thread]) r
  have hlane : src = .lane → Wrote s t x l ws := by
    intro e
    have hthread := hk.thread e
    obtain ⟨hrd, hne, hgain, hlose⟩ := hw
    have hpois : (b.thread x l).poison = (a.thread x l).poison := by rw [hthread]
    exact h.wrote hd ⟨hrd, fun r hr => (hne r hr).trans (State.rd_of_thread (by rw [hthread]) r),
      fun w hp => hpois ▸ hgain w hp, fun w hp => hlose w (hpois ▸ hp)⟩
  refine ⟨h.next hd (hk.stands.trans hs), fun p hp => (ht _).trans (hw.1 p hp), fun r hr hr' => ?_, fun hfar => ?_, hlane⟩
  · rw [ht, hw.2.1 r hr, hk.rd r hr', h.rd]
  · cases src with
    | lane =>
      exact hd.gen.trans (State.lane_of_seq (by rw [hseq]) (by rw [hseq]) _ _ _)
    | pair st =>
      have hlow := (ht st).trans (hw.2.1 st (hfar st (by simp [DrawFrom.regs])))
      have hhigh := (ht (st + 1)).trans (hw.2.1 (st + 1) (hfar (st + 1) (by simp [DrawFrom.regs])))
      simp only [State.drawState, State.rd2, hlow, hhigh]

/-! ### A run of registers (R211) -/

theorem writes_onLanes (x : Ex) (l lat : Nat) (ws : List (Nat × Word32)) (s : State) :
    OnLanes x [l] s (ws.foldl (fun s q => s.wr x l q.1 q.2 lat) s) := by
  induction ws generalizing s with
  | nil => exact .refl x [l] s
  | cons w ws ih => exact (OnLanes.wr s x l w.1 w.2 lat).trans (ih _)

theorem writes_seq (x : Ex) (l lat : Nat) (ws : List (Nat × Word32)) (s : State) :
    (ws.foldl (fun s q => s.wr x l q.1 q.2 lat) s).seq = s.seq := by
  induction ws generalizing s with
  | nil => rfl
  | cons w ws ih => exact (ih _).trans rfl

theorem writes_stands {s : State} {x : Ex} {l : Nat} (h : s.hasLane x l) (lat : Nat) (ws : List (Nat × Word32)) :
    Stands s (ws.foldl (fun s q => s.wr x l q.1 q.2 lat) s) x l := by
  induction ws generalizing s with
  | nil => exact ⟨rfl, rfl⟩
  | cons w ws ih => exact (Stands.wr h w.1 w.2 lat).trans (ih (State.hasLane_wr h _ _ _))

theorem writes_poison {s : State} {x : Ex} {l : Nat} (h : s.hasLane x l) (lat : Nat) (ws : List (Nat × Word32)) :
    ((ws.foldl (fun s q => s.wr x l q.1 q.2 lat) s).thread x l).poison = (s.thread x l).poison := by
  induction ws generalizing s with
  | nil => rfl
  | cons w ws ih => exact (ih (State.hasLane_wr h _ _ _)).trans (by rw [State.thread_wr h])

theorem writes_rd_ne {s : State} {x : Ex} {l : Nat} (h : s.hasLane x l) (lat : Nat) {ws : List (Nat × Word32)} {r : Nat}
    (hr : r ∉ ws.map (·.1)) : (ws.foldl (fun s q => s.wr x l q.1 q.2 lat) s).rd x l r = s.rd x l r := by
  induction ws generalizing s with
  | nil => rfl
  | cons w ws ih =>
    simp only [List.map_cons, List.mem_cons, not_or] at hr
    exact (ih (State.hasLane_wr h _ _ _) hr.2).trans (State.rd_wr_ne h _ _ hr.1)

theorem writes_rd {s : State} {x : Ex} {l : Nat} (h : s.hasLane x l) (lat : Nat) {ws : List (Nat × Word32)}
    (hnd : (ws.map (·.1)).Nodup) : ∀ p ∈ ws, (ws.foldl (fun s q => s.wr x l q.1 q.2 lat) s).rd x l p.1 = p.2 := by
  induction ws generalizing s with
  | nil => simp
  | cons w ws ih =>
    rw [List.map_cons, List.nodup_cons] at hnd
    have h1 := State.hasLane_wr h w.1 w.2 lat
    intro p hp
    rcases List.mem_cons.1 hp with rfl | hp
    · exact (writes_rd_ne h1 lat hnd.1).trans (State.rd_wr_self h _ _ _)
    · exact ih h1 hnd.2 p hp

/-- An instruction writes distinct registers, and then takes the poison from the words it has written whole. -/
def State.putRegs (s : State) (x : Ex) (l lat : Nat) (rs : List Nat) (vs : List Word32) : State :=
  ((rs.zip vs).foldl (fun s q => s.wr x l q.1 q.2 lat) s).wrote x l rs

section
variable {s : State} {x : Ex} {l : Nat} (lat : Nat) {rs : List Nat} {vs : List Word32}

theorem State.putRegs_onLanes : OnLanes x [l] s (s.putRegs x l lat rs vs) :=
  (writes_onLanes x l lat _ s).trans (.wrote _ x l rs)

theorem State.putRegs_seq : (s.putRegs x l lat rs vs).seq = s.seq := writes_seq x l lat _ s

variable (h : s.hasLane x l)
include h

theorem State.putRegs_stands : Stands s (s.putRegs x l lat rs vs) x l :=
  (writes_stands h lat _).trans (.wrote ((writes_onLanes x l lat _ s).hasLane h) rs)

theorem State.putRegs_wrote (hlen : rs.length = vs.length) (hnd : rs.Nodup) : Wrote s (s.putRegs x l lat rs vs) x l (rs.zip vs) := by
  have hkeys : (rs.zip vs).map (·.1) = rs := List.map_fst_zip hlen.le
  have hw := (writes_onLanes x l lat (rs.zip vs) s).hasLane h
  have hpois : ((s.putRegs x l lat rs vs).thread x l).poison = poisonLeft (s.thread x l).poison rs := by
    rw [State.putRegs, State.thread_wrote hw, writes_poison h]
  refine ⟨fun p hp => ?_, fun r hr => ?_, fun w hp => ?_, fun w hp hpart => ?_⟩
  · rw [State.putRegs, State.rd_wrote hw]
    exact writes_rd h lat (by rwa [hkeys]) p hp
  · rw [State.putRegs, State.rd_wrote hw, writes_rd_ne h lat hr]
  · rw [hpois, mem_poisonLeft] at hp
    exact hp.1
  · rw [hpois, mem_poisonLeft]
    exact ⟨hp, by rwa [hkeys] at hpart⟩

end

/-! ### Elements in registers (R263) -/

theorem packedRegs_one (r : Nat) (f : Fmt) : packedRegs r f 1 = [r] := by
  unfold packedRegs
  split <;> simp [List.range_succ]

theorem packedRegs_nodup (r : Nat) (f : Fmt) (n : Nat) : (packedRegs r f n).Nodup := by
  unfold packedRegs
  split
  · exact List.nodup_range.map fun _ _ h => Nat.add_left_cancel h
  · exact List.nodup_singleton r

theorem packedOut_length (r : Nat) (f : Fmt) (vs : List Nat) : (packedRegs r f vs.length).length = (packedOut f vs).length := by
  unfold packedRegs packedOut
  split <;> simp

theorem packedRegs_keys (r : Nat) (f : Fmt) (v w : Nat) :
    ((packedRegs r f 2).zip (packedOut f [v, w])).map (·.1) = packedRegs r f 2 :=
  List.map_fst_zip (packedOut_length r f [v, w]).le

theorem packedOut_one (f : Fmt) (v : Nat) : packedOut f [v] = [(packedOut f [v]).headD 0] := by
  unfold packedOut
  split <;> simp

end Sys2Proof.Machine
end

section
/-! SUPPORT. Conversions and random draws over an issue set (R263, R278, R283, R285). -/

namespace Sys2Proof.Machine

/-! ### One element -/

section
variable {s : State} {x : Ex} {l : Nat} (c : CvtSpec) (f g : Fmt) (src : DrawFrom) (lat v : Nat)

theorem State.cvtElem_eq : s.cvtElem x l c f g src lat v =
    ((s.drawBitsFrom x l (cvtDraws c f g) lat src).1.raiseExc (some x.job.id)
      (cvtOne c f g (s.drawBitsFrom x l (cvtDraws c f g) lat src).2 v).2,
      (cvtOne c f g (s.drawBitsFrom x l (cvtDraws c f g) lat src).2 v).1) := rfl

theorem State.cvtElem_value : (s.cvtElem x l c f g src lat v).2 =
    (cvtOne c f g (rngDraw (src.mask x l) (cvtDraws c f g) (s.drawState x l src)).1 v).1 := by
  rw [State.cvtElem_eq, State.drawBitsFrom_bits]

theorem DrawKeeps.raiseExc (s : State) (x : Ex) (l : Nat) (src : DrawFrom) (job : Option Nat) (e : Exc) :
    DrawKeeps x l src s (s.raiseExc job e) := by
  have hthread : (s.raiseExc job e).thread x l = s.thread x l :=
    (OnLanes.raiseExc s x [] job e).thread List.not_mem_nil
  exact ⟨.of_thread hthread, fun r _ => State.rd_of_thread (by rw [hthread]) r, fun _ => hthread⟩

theorem State.drawState_raiseExc (s : State) (x : Ex) (l : Nat) (src : DrawFrom) (job : Option Nat) (e : Exc) :
    (s.raiseExc job e).drawState x l src = s.drawState x l src := by
  cases src with
  | lane => exact s.raiseExc_genOf job e x l
  | pair r =>
    have hthread := (OnLanes.raiseExc s x [] job e).thread (l := l) List.not_mem_nil
    exact State.rd2_of_rd (State.rd_of_thread (by rw [hthread])) r

theorem State.cvtElem_onLanes : OnLanes x [l] s (s.cvtElem x l c f g src lat v).1 := by
  rw [State.cvtElem_eq]
  exact (State.drawBitsFrom_onLanes s x l (cvtDraws c f g) lat src).trans (.raiseExc _ x [l] (some x.job.id) _)

theorem State.cvtElem_flagged : Flagged s (s.cvtElem x l c f g src lat v).1
    (cvtOne c f g (rngDraw (src.mask x l) (cvtDraws c f g) (s.drawState x l src)).1 v).2 := by
  rw [State.cvtElem_eq, State.drawBitsFrom_bits]
  exact (State.drawBitsFrom_onLanes s x l _ lat src).flags.trans (State.raiseExc_flagged _ _ _)

variable (h : s.hasLane x l)
include h

theorem State.cvtElem_keepsLane : DrawKeeps x l src s (s.cvtElem x l c f g src lat v).1 := by
  rw [State.cvtElem_eq]
  exact (State.drawBitsFrom_keepsLane h (cvtDraws c f g) lat src).trans (.raiseExc _ x l src (some x.job.id) _)

theorem State.cvtElem_state : (s.cvtElem x l c f g src lat v).1.drawState x l src =
    (rngDraw (src.mask x l) (cvtDraws c f g) (s.drawState x l src)).2 := by
  rw [State.cvtElem_eq, State.drawState_raiseExc, State.drawBitsFrom_state h]

end

/-- What changes no generator, where none is drawn from. -/
theorem State.drawBitsFrom_lanes (s : State) (x : Ex) (l n lat : Nat) {src : DrawFrom} (h : n = 0 ∨ src ≠ .lane) :
    (s.drawBitsFrom x l n lat src).1.seq = s.seq := by
  cases src with
  | lane =>
    obtain rfl : n = 0 := h.resolve_right (by simp)
    rfl
  | pair r =>
    by_cases hn : n = 0
    · simp only [State.drawBitsFrom, hn, if_true]
    · simp only [State.drawBitsFrom, hn, if_false]
      rfl

theorem State.cvtElem_lanes (s : State) (x : Ex) (l : Nat) (c : CvtSpec) (f g : Fmt) (lat v : Nat) {src : DrawFrom}
    (h : cvtDraws c f g = 0 ∨ src ≠ .lane) : (s.cvtElem x l c f g src lat v).1.seq.lanes = s.seq.lanes := by
  rw [State.cvtElem_eq, State.raiseExc_seq, State.drawBitsFrom_lanes s x l _ lat h]

/-! ### One lane of a conversion -/

/-- The state after the elements of a lane have been converted, the lowest first, and their patterns. -/
def State.cvtElems (s : State) (x : Ex) (l : Nat) (c : CvtSpec) (f g : Fmt) (src : DrawFrom) (lat : Nat) (vs : List Nat) :
    State × List Nat :=
  vs.foldl (fun p v => ((p.1.cvtElem x l c f g src lat v).1, p.2 ++ [(p.1.cvtElem x l c f g src lat v).2])) (s, [])

/-- What a conversion of n elements does to its lane. -/
def State.cvtLane (s : State) (x : Ex) (c : CvtSpec) (f g : Fmt) (d a n : Nat) (src : DrawFrom) (lat l : Nat) : State :=
  (s.cvtElems x l c f g src lat ((List.range n).map (s.packedRd x l a f))).1.putRegs x l lat (packedRegs d g n)
    (packedOut g (s.cvtElems x l c f g src lat ((List.range n).map (s.packedRd x l a f))).2)

/-- Clocks of a conversion beyond one: packed, and with more than 16 bits drawn for an element (R263). -/
def cvtSlow (wide : Bool) (draws : Nat) : Bool := wide && decide (16 < draws)

def cvtLat (wide : Bool) (draws : Nat) (src : DrawFrom) : Nat := (if cvtSlow wide draws then 7 else 6) + src.late

theorem inHand_congr {s : State} {th : Th} {regs regs' : List Nat} {bad bad' : State → Ex → Nat → Option (Nat × Word64)}
    {x : Ex} (h : s.inHand th regs bad x) (hr : regs = regs') (hb : ∀ l, bad s x l = bad' s x l) :
    s.inHand th regs' bad' x := by
  obtain ⟨hex, hregs, hnd, hne, hl⟩ := h
  exact ⟨hex, hr ▸ hregs, hnd, hne, fun l m => ⟨(hl l m).1, (hl l m).2.1, hb l ▸ (hl l m).2.2⟩⟩

section
variable {s : State} {th : Th} {x : Ex} {c : CvtSpec} {f g : Fmt} {d a n : Nat} {src : DrawFrom} {wide : Bool}

theorem State.cvtRun_eq (hfmt : cvtFmts c = some (f, g))
    (h : s.inHand th (packedRegs a f n ++ packedRegs d g n ++ src.regs) (fun s x l =>
      orElse (poisonBad (packedRegs a f n) s x l) (pairBad src (cvtDraws c f g != 0) s x l)) x) :
    s.cvtRun th c d a n src wide = s.ranLanes x th.size (if cvtSlow wide (cvtDraws c f g) then 2 else 1)
      fun l u => u.cvtLane x c f g d a n src (cvtLat wide (cvtDraws c f g) src) l := by
  unfold State.cvtRun
  rw [h.1, hfmt]
  exact State.perLane_eq h _ _

/-- What each element's conversion keeps stands after them all. -/
theorem State.cvtElems_induct {P : State → Prop} {l lat : Nat}
    (hP : ∀ u v, P u → P (State.cvtElem u x l c f g src lat v).1) {u : State} (hu : P u) (vs : List Nat) :
    P (u.cvtElems x l c f g src lat vs).1 := by
  have hfold (out : List Nat) (u : State) (hu : P u) : P (vs.foldl (fun p v =>
      ((State.cvtElem p.1 x l c f g src lat v).1, p.2 ++ [(State.cvtElem p.1 x l c f g src lat v).2])) (u, out)).1 := by
    induction vs generalizing out u with
    | nil => exact hu
    | cons v vs ih => exact ih _ _ (hP u v hu)
  exact hfold [] u hu

theorem State.cvtElems_onLanes (u : State) (l lat : Nat) (vs : List Nat) :
    OnLanes x [l] u (u.cvtElems x l c f g src lat vs).1 :=
  State.cvtElems_induct (fun _ v h => h.trans (State.cvtElem_onLanes c f g src lat v)) (.refl x [l] u) vs

theorem State.cvtElems_keepsLane {u : State} {l : Nat} (hu : u.hasLane x l) (lat : Nat) (vs : List Nat) :
    DrawKeeps x l src u (u.cvtElems x l c f g src lat vs).1 :=
  (State.cvtElems_induct (P := fun w => OnLanes x [l] u w ∧ DrawKeeps x l src u w) (fun _ v h =>
    ⟨h.1.trans (State.cvtElem_onLanes c f g src lat v), h.2.trans (State.cvtElem_keepsLane c f g src lat v (h.1.hasLane hu))⟩)
    ⟨.refl x [l] u, .refl x l src u⟩ vs).2

theorem State.cvtElems_lanes (u : State) (l lat : Nat) (vs : List Nat) (h : cvtDraws c f g = 0 ∨ src ≠ .lane) :
    (u.cvtElems x l c f g src lat vs).1.seq.lanes = u.seq.lanes :=
  State.cvtElems_induct (P := fun w => w.seq.lanes = u.seq.lanes)
    (fun w v hw => (State.cvtElem_lanes w x l c f g lat v h).trans hw) rfl vs

theorem State.cvtLane_onLanes (u : State) (l lat : Nat) : OnLanes x [l] u (u.cvtLane x c f g d a n src lat l) :=
  (State.cvtElems_onLanes u l lat _).trans (State.putRegs_onLanes lat)

theorem State.cvtLane_keeps {C : List Part} (hc : ([.regs, .clusters, .seq] : List Part) ⊆ C) {s₀ u : State}
    (h : State.Keeps C s₀ u) (l lat : Nat) : State.Keeps C s₀ (u.cvtLane x c f g d a n src lat l) := by
  have hcl : ([.clusters] : List Part) ⊆ C := List.Subset.trans (by decide) hc
  have helems (vs : List Nat) : State.Keeps C s₀ (u.cvtElems x l c f g src lat vs).1 :=
    State.cvtElems_induct (P := State.Keeps C s₀) (fun _ v hw => State.cvtElem_keeps hc hw x l c f g src lat v) h vs
  have hwrites (ws : List (Nat × Word32)) : ∀ w, State.Keeps C s₀ w →
      State.Keeps C s₀ (ws.foldl (fun s q => s.wr x l q.1 q.2 lat) w) := fun _ hw =>
    State.Keeps.foldl (fun _ (q : Nat × Word32) hw => State.wr_keeps hcl hw x l q.1 q.2 lat) ws hw
  exact State.wrote_keeps hcl (hwrites _ _ (helems _)) x l _

theorem State.cvtLane_lanes (u : State) (l lat : Nat) (h : cvtDraws c f g = 0 ∨ src ≠ .lane) :
    (u.cvtLane x c f g d a n src lat l).seq.lanes = u.seq.lanes := by
  rw [State.cvtLane, State.putRegs_seq, State.cvtElems_lanes u l lat _ h]

theorem State.cvtElems_length (u : State) (l lat : Nat) (vs : List Nat) :
    (u.cvtElems x l c f g src lat vs).2.length = vs.length := by
  have hfold (out : List Nat) (u : State) : (vs.foldl (fun p v => ((State.cvtElem p.1 x l c f g src lat v).1,
      p.2 ++ [(State.cvtElem p.1 x l c f g src lat v).2])) (u, out)).2.length = out.length + vs.length := by
    induction vs generalizing out u with
    | nil => rfl
    | cons v vs ih =>
      rw [List.foldl_cons, ih]
      simp only [List.length_append, List.length_cons, List.length_nil]
      omega
  exact (hfold [] u).trans (Nat.zero_add _)

/-- A lane has been converted: its bits are drawn element by element, and its registers written. -/
theorem LaneReady.converted {u t : State} {l lat : Nat} (h : LaneReady s x th.size l u)
    (hd : LaneDone (u.cvtLane x c f g d a n src lat l) t x l) :
    DrewWrote s t x th.size l src
      ((packedRegs d g n).zip (packedOut g (u.cvtElems x l c f g src lat ((List.range n).map (s.packedRd x l a f))).2))
      ((u.cvtElems x l c f g src lat ((List.range n).map (s.packedRd x l a f))).1.drawState x l src) := by
  have hins : (List.range n).map (u.packedRd x l a f) = (List.range n).map (s.packedRd x l a f) := by
    refine List.map_congr_left fun i _ => ?_
    simp only [State.packedRd, h.rd]
  rw [State.cvtLane, hins] at hd
  have hthere := (State.cvtElems_onLanes (c := c) (f := f) (g := g) (src := src) u l lat
    ((List.range n).map (s.packedRd x l a f))).hasLane h.there
  refine h.drewWrote (State.cvtElems_keepsLane h.there lat _) (State.putRegs_wrote lat hthere ?_ (packedRegs_nodup d g n))
    (State.putRegs_stands lat hthere) (State.putRegs_seq lat) hd
  have hlen := packedOut_length d g (u.cvtElems x l c f g src lat ((List.range n).map (s.packedRd x l a f))).2
  rwa [State.cvtElems_length, List.length_map, List.length_range] at hlen

end

end Sys2Proof.Machine
end

section
/-! SUPPORT. Conversions and draws write: the statement from its clauses. -/

namespace Sys2Proof.Machine

/-! ### Conversions (R67 to R73, R263, R278) -/

theorem orElse_none (o : Option (Nat × Word64)) : orElse o none = o := by cases o <;> rfl

/-- What makes a conversion fault: a poisoned element, or a state pair that is none. -/
def cvtBad (c : CvtSpec) (f g : Fmt) (a n : Nat) (src : DrawFrom) (s : State) (x : Ex) (l : Nat) : Option (Nat × Word64) :=
  orElse (poisonBad (packedRegs a f n) s x l) (pairBad src (cvtDraws c f g != 0) s x l)

theorem rngDraw_zero (m st : Word64) : rngDraw m 0 st = (0, st) := rfl

section
variable {s u t : State} {th : Th} {x : Ex} {c : CvtSpec} {f g : Fmt} {d a n l lat : Nat} {src : DrawFrom} {wide : Bool}

/-- A conversion runs on each lane of its issue set. -/
theorem cvt_runs {i : Instr} (hi : exec i s = .next (s.cvtRun th c d a n src wide)) (hfmt : cvtFmts c = some (f, g))
    (hin : s.inHand th (packedRegs a f n ++ packedRegs d g n ++ src.regs) (cvtBad c f g a n src) x) (htog : s.together x) :
    Runs i s [.regs, .clusters, .seq] fun t => Went s t x x.lanes (if cvtSlow wide (cvtDraws c f g) then 2 else 1)
      ∧ Entries [(0x2500, 0x0C)] s t ∧ ((cvtDraws c f g = 0 ∨ src ≠ .lane) → t.seq.lanes = s.seq.lanes)
      ∧ ∀ l ∈ x.lanes, ∃ u, LaneReady s x th.size l u
          ∧ LaneDone (u.cvtLane x c f g d a n src (cvtLat wide (cvtDraws c f g) src) l) t x l := by
  have hlanes (l : Nat) (_ : l ∈ x.lanes) (u : State) :
      OnLanes x [l] u (u.cvtLane x c f g d a n src (cvtLat wide (cvtDraws c f g) src) l) := State.cvtLane_onLanes u l _
  refine ⟨_, hi.trans (congrArg Host.Outcome.next (State.cvtRun_eq hfmt hin)),
    (State.ranLanes_keeps (by decide) fun l u h => State.cvtLane_keeps (List.Subset.refl _) h l _).frame,
    State.ranLanes_went hlanes, State.ranLanes_entries hlanes, fun hno => ?_,
    fun l hl => State.ranLanes_lane hin htog hlanes hl⟩
  exact State.ranLanes_same (g := fun u => u.seq.lanes) (fun _ _ _ => rfl) fun l u => State.cvtLane_lanes u l _ hno

section
variable (h : LaneReady s x th.size l u)
include h

/-- One element: its bits, its value, its flags. -/
theorem LaneReady.converted_one (hd : LaneDone (u.cvtLane x c f g d a 1 src lat l) t x l) {p : Nat × Word64}
    (hp : p = rngDraw (src.mask x l) (cvtDraws c f g) (s.drawState x l src)) :
    DrewWrote s t x th.size l src [(d, (packedOut g [(cvtOne c f g p.1 (s.packedRd x l a f 0)).1]).headD 0)] p.2
      ∧ Flagged s t (cvtOne c f g p.1 (s.packedRd x l a f 0)).2 := by
  have helem (v : Nat) : u.cvtElems x l c f g src lat [v] =
      ((u.cvtElem x l c f g src lat v).1, [(u.cvtElem x l c f g src lat v).2]) := rfl
  have hmap (q : Nat → Nat) : (List.range 1).map q = [q 0] := rfl
  have hw := h.converted hd
  rw [hmap, helem, State.cvtElem_value, State.cvtElem_state c f g src lat _ h.there, h.drawState, ← hp, packedRegs_one,
    packedOut_one, List.zip_cons_cons, List.zip_nil_right] at hw
  refine ⟨hw, h.flagged hd ?_⟩
  have hrd : u.packedRd x l a f 0 = s.packedRd x l a f 0 := by simp only [State.packedRd, h.rd]
  have hflag := State.cvtElem_flagged (s := u) (x := x) (l := l) c f g src lat (s.packedRd x l a f 0)
  rw [h.drawState, ← hp] at hflag
  rw [State.cvtLane, hmap, helem, hrd]
  exact hflag.trans_right (State.putRegs_onLanes (x := x) (l := l) lat).flags

/-- Two elements, the lower first. -/
theorem LaneReady.converted_two (hd : LaneDone (u.cvtLane x c f g d a 2 src lat l) t x l) {p q : Nat × Word64}
    (hp : p = rngDraw (src.mask x l) (cvtDraws c f g) (s.drawState x l src))
    (hq : q = rngDraw (src.mask x l) (cvtDraws c f g) p.2) :
    DrewWrote s t x th.size l src ((packedRegs d g 2).zip (packedOut g [(cvtOne c f g p.1 (s.packedRd x l a f 0)).1,
      (cvtOne c f g q.1 (s.packedRd x l a f 1)).1])) q.2 := by
  have helems (v w : Nat) : u.cvtElems x l c f g src lat [v, w] =
      (((u.cvtElem x l c f g src lat v).1.cvtElem x l c f g src lat w).1,
        [(u.cvtElem x l c f g src lat v).2, ((u.cvtElem x l c f g src lat v).1.cvtElem x l c f g src lat w).2]) := rfl
  have hmap (q : Nat → Nat) : (List.range 2).map q = [q 0, q 1] := rfl
  have hfirst (v : Nat) := State.cvtElem_state c f g src lat v h.there
  have hw := h.converted hd
  rw [hmap, helems, State.cvtElem_value, State.cvtElem_value,
    State.cvtElem_state c f g src lat _ ((State.cvtElem_onLanes c f g src lat _).hasLane h.there), hfirst, h.drawState,
    ← hp, ← hq] at hw
  exact hw

end
end

section
variable {s t : State} {x : Ex} {size l st : Nat} {ws : List (Nat × Word32)} {gen : Word64}

/-- A state pair apart from what is written holds the state that its draws have left. -/
theorem DrewWrote.state (h : DrewWrote s t x size l (.pair st) ws gen) (h1 : st ∉ ws.map (·.1)) (h2 : st + 1 ∉ ws.map (·.1)) :
    t.rd2 x l st = gen := by
  refine h.source fun r hr => ?_
  rcases List.mem_cons.1 hr with rfl | hr
  · exact h1
  · rwa [List.mem_singleton.1 hr]

/-- One register written with a draw from a pair. -/
theorem DrewWrote.keyed {d : Nat} {v : Word32} (h : DrewWrote s t x size l (.pair st) [(d, v)] gen) :
    At t x l (x.pc + size) ∧ t.rd x l d = v ∧ (d ≠ st → d ≠ st + 1 → t.rd2 x l st = gen)
      ∧ ∀ r, r ≠ d → r ≠ st → r ≠ st + 1 → t.rd x l r = s.rd x l r :=
  ⟨h.next, h.rd _ (List.mem_singleton_self _), fun h1 h2 => h.state (by simpa using h1.symm) (by simpa using h2.symm),
    fun r h1 h2 h3 => h.other r (by simpa using h1) (by simp [DrawFrom.regs, h2, h3])⟩

end

/-! ### Draws (R283, R285) -/

section
variable {s t : State} {th : Th} {d l : Nat} {x : Ex} {src : DrawFrom} {rate lat : Nat} {f : Nat → Word32}

/-- What a draw does to its lane. -/
def State.rngLane (s : State) (x : Ex) (d : Nat) (src : DrawFrom) (lat : Nat) (f : Nat → Word32) (l : Nat) : State :=
  (s.drawBitsFrom x l 32 lat src).1.wr x l d (f (s.drawBitsFrom x l 32 lat src).2) lat

theorem State.rngLane_onLanes (u : State) (l : Nat) : OnLanes x [l] u (u.rngLane x d src lat f l) :=
  (State.drawBitsFrom_onLanes u x l 32 lat src).trans (.wr _ x l d _ lat)

theorem State.rngRun_eq (hin : s.inHand th (d :: src.regs) (fun s x l => pairBad src true s x l) x) :
    s.rngRun th d src rate lat f = s.ranLanes x th.size rate fun l u => u.rngLane x d src (lat + src.late) f l :=
  State.perLane_eq hin _ _

/-- A draw runs on each lane of its issue set. -/
theorem rng_runs {i : Instr} {C : List Part} (hc : [Part.clusters] ⊆ C)
    (hk : ∀ u l, State.Keeps C s u → State.Keeps C s (u.drawBitsFrom x l 32 (lat + src.late) src).1)
    (hi : exec i s = .next (s.rngRun th d src rate lat f))
    (hin : s.inHand th (d :: src.regs) (fun s x l => pairBad src true s x l) x) (htog : s.together x) :
    Runs i s C fun t => Went s t x x.lanes rate ∧ t.seq = { s.seq with lanes := t.seq.lanes }
      ∧ ∀ l ∈ x.lanes, ∀ p, p = rngDraw (src.mask x l) 32 (s.drawState x l src) →
          DrewWrote s t x th.size l src [(d, f p.1)] p.2 := by
  have hlanes (l : Nat) (_ : l ∈ x.lanes) (u : State) :
      OnLanes x [l] u (u.rngLane x d src (lat + src.late) f l) := State.rngLane_onLanes u l
  have hseq (l : Nat) (u : State) : { (u.rngLane x d src (lat + src.late) f l).seq with lanes := [] } =
      { u.seq with lanes := [] } := by
    cases src <;> rfl
  refine ⟨_, hi.trans (congrArg Host.Outcome.next (State.rngRun_eq hin)),
    (State.ranLanes_keeps hc fun l u h => State.wr_keeps hc (hk u l h) x l d _ _).frame, State.ranLanes_went hlanes, ?_,
    fun l hl p hp => ?_⟩
  · have hall := State.ranLanes_same (s := s) (x := x) (size := th.size) (rate := rate)
      (g := fun u => { u.seq with lanes := [] }) (fun _ _ _ => rfl) hseq
    exact congrArg (fun q : Seq => { q with lanes := (s.ranLanes x th.size rate
      fun l u => u.rngLane x d src (lat + src.late) f l).seq.lanes }) hall
  · obtain ⟨u, hu, hd⟩ := State.ranLanes_lane (size := th.size) (rate := rate) hin htog hlanes hl
    have hthere := (State.drawBitsFrom_onLanes u x l 32 (lat + src.late) src).hasLane hu.there
    have hw := hu.drewWrote (State.drawBitsFrom_keepsLane hu.there 32 (lat + src.late) src)
      (Wrote.wr hthere d (f (u.drawBitsFrom x l 32 (lat + src.late) src).2) (lat + src.late)) (.wr hthere d _ _) rfl hd
    rwa [State.drawBitsFrom_bits, State.drawBitsFrom_state hu.there, hu.drawState, ← hp] at hw

theorem State.rd2_words (s : State) (x : Ex) (l r : Nat) :
    (s.rd2 x l r).setWidth 32 = s.rd x l r ∧ (s.rd2 x l r >>> 32).setWidth 32 = s.rd x l (r + 1) := by
  constructor
  · refine BitVec.eq_of_getLsbD_eq fun i hi => ?_
    rw [State.rd2, BitVec.getLsbD_setWidth, BitVec.getLsbD_append]
    simp [hi]
  · refine BitVec.eq_of_getLsbD_eq fun i hi => ?_
    rw [State.rd2, BitVec.getLsbD_setWidth, BitVec.getLsbD_ushiftRight, BitVec.getLsbD_append]
    simp [hi]

/-- A state made from a key and coordinates is written to an even pair (R275, R285). -/
theorem rngKseed_runs {key coord : Nat} (heven : d % 2 = 0)
    (hin : s.inHand th [d, d + 1, key, key + 1, coord, coord + 1] (poisonBad [key, key + 1, coord, coord + 1]) x)
    (htog : s.together x) : Runs (.rngKseed th d key coord) s [.clusters] fun t => Went s t x x.lanes 4 ∧ ∀ l ∈ x.lanes,
      At t x l (x.pc + th.size) ∧ t.rd2 x l d = kseed (s.rd2 x l key) (s.rd x l (coord + 1)) (s.rd x l coord) 0 0 2 0
        ∧ ∀ r, r ≠ d → r ≠ d + 1 → t.rd x l r = s.rd x l r := by
  have hin' := inHand_congr (bad' := fun s x l => if d % 2 = 1 then some (0x22, 0) else
    poisonBad [key, key + 1, coord, coord + 1] s x l) hin rfl fun l => (if_neg (by omega)).symm
  have hlanes (l : Nat) (_ : l ∈ x.lanes) (u : State) : OnLanes x [l] u (u.wr2 x l d (kseed (u.rd2 x l key)
      ((u.rd2 x l coord >>> 32).setWidth 32) ((u.rd2 x l coord).setWidth 32) 0 0 2 0) 12) := .wr2 u x l d _ 12
  refine ⟨_, congrArg Host.Outcome.next (State.perLane_eq hin' _ _),
    (State.ranLanes_keeps (List.Subset.refl _) fun l u h => State.wr2_keeps (List.Subset.refl _) h x l d _ 12).frame,
    State.ranLanes_went hlanes, fun l hl => ?_⟩
  obtain ⟨u, hu, hd⟩ := State.ranLanes_lane (size := th.size) (rate := 4) hin htog hlanes hl
  have hrd (r : Nat) := State.rd_of_thread (congrArg Thread.regs hd.thread) r
  obtain ⟨hlow, hhigh⟩ := s.rd2_words x l coord
  refine ⟨hu.next hd (.wr2 hu.there d _ 12), ?_, fun r h1 h2 => ?_⟩
  · rw [State.rd2_of_rd hrd, State.rd2_wr2 hu.there, hu.rd2, hu.rd2, hhigh, hlow]
  · rw [hrd, State.rd_wr2_ne hu.there _ _ h1 h2, hu.rd]

end

/-- Settles O37: each lane draws from its own source and writes what it makes of the bits. -/
theorem conversionsAndDrawsWrite : Obligations.ConversionsAndDrawsWrite := by
  refine ⟨fun s th c d a x f g n hfmt hn => ⟨fun hin htog => ?_, fun hin htog => ?_, fun st hin htog => ?_,
    fun st hin htog => ?_⟩, fun s th d x hin htog => ⟨?_, ?_⟩, fun s th d st x hin htog => ⟨?_, ?_⟩,
    fun s th d key coord x heven hin htog => rngKseed_runs heven hin htog, fun s x l st hbad => ?_⟩
  · subst hn
    have hin' := inHand_congr (regs' := packedRegs a f 1 ++ packedRegs d g 1 ++ DrawFrom.lane.regs)
      (bad' := cvtBad c f g a 1 .lane) hin (by simp [packedRegs_one, DrawFrom.regs])
      fun l => (orElse_none _).symm.trans (by rw [cvtBad, packedRegs_one]; rfl)
    obtain ⟨t, heq, hframe, hwent, hent, hgens, hl⟩ := cvt_runs (i := .cvt th c d a) (wide := false) rfl hfmt hin' htog
    refine ⟨t, heq, hframe, hwent, hent, fun h0 => hgens (.inl h0), fun l hm p hp => ?_⟩
    obtain ⟨u, hu, hd⟩ := hl l hm
    obtain ⟨hw, hflag⟩ := hu.converted_one hd hp
    exact ⟨hw.next, hflag, hw.wrote rfl, fun _ => hw.source (by simp [DrawFrom.regs])⟩
  · subst hn
    have hin' := inHand_congr (regs' := packedRegs a f 2 ++ packedRegs d g 2 ++ DrawFrom.lane.regs)
      (bad' := cvtBad c f g a 2 .lane) hin (List.append_nil _).symm fun l => (orElse_none _).symm
    obtain ⟨t, heq, hframe, hwent, hent, hgens, hl⟩ := cvt_runs (i := .cvtX2 th c d a) (wide := true) rfl hfmt hin' htog
    refine ⟨t, heq, hframe, by simpa [cvtSlow] using hwent, hent, fun h0 => hgens (.inl h0), fun l hm p q hp hq => ?_⟩
    obtain ⟨u, hu, hd⟩ := hl l hm
    have hw := hu.converted_two hd hp hq
    exact ⟨hw.next, hw.wrote rfl, fun _ => hw.source (by simp [DrawFrom.regs])⟩
  · subst hn
    have hin' := inHand_congr (regs' := packedRegs a f 1 ++ packedRegs d g 1 ++ (DrawFrom.pair st).regs)
      (bad' := cvtBad c f g a 1 (.pair st)) hin (by simp [packedRegs_one, DrawFrom.regs])
      fun l => by rw [cvtBad, packedRegs_one]
    obtain ⟨t, heq, hframe, hwent, hent, hgens, hl⟩ := cvt_runs (i := .cvtK th c d a st) (wide := false) rfl hfmt hin' htog
    refine ⟨t, heq, hframe, hwent, hgens (.inr (by simp)), hent, fun l hm p hp => ?_⟩
    obtain ⟨u, hu, hd⟩ := hl l hm
    obtain ⟨hw, -⟩ := hu.converted_one hd hp
    obtain ⟨hat, hrd, hstate, hother⟩ := hw.keyed
    refine ⟨hat, hrd, fun h1 h2 => ?_, hother⟩
    rw [hstate h1 h2]
    split
    · next h0 => rw [hp, h0, rngDraw_zero]
    · rfl
  · subst hn
    obtain ⟨t, heq, hframe, hwent, hent, hgens, hl⟩ := cvt_runs (i := .cvtX2K th c d a st) (wide := true)
      (src := .pair st) rfl hfmt hin htog
    refine ⟨t, heq, hframe, by simpa [cvtSlow] using hwent, hgens (.inr (by simp)), hent, fun l hm p q hp hq => ?_⟩
    obtain ⟨u, hu, hd⟩ := hl l hm
    have hw := hu.converted_two hd hp hq
    refine ⟨hw.next, hw.rd, fun h1 h2 => ?_, fun r h1 h2 h3 => hw.other r (by rwa [packedRegs_keys])
      (by simp [DrawFrom.regs, h2, h3])⟩
    rw [hw.state (by rwa [packedRegs_keys]) (by rwa [packedRegs_keys])]
    split
    · next h0 => rw [hq, hp, h0, rngDraw_zero, rngDraw_zero]
    · rfl
  · obtain ⟨t, heq, hframe, hwent, hseq, hl⟩ := rng_runs (i := .rngU32 th d) (src := .lane) (C := [.clusters, .seq]) (by decide)
      (fun u l h => State.tgDraw_keeps (by decide) h x l 32) rfl hin htog
    refine ⟨t, heq, hframe, hwent, hseq, fun l hm p hp => ?_⟩
    have hw := hl l hm p hp
    exact ⟨hw.next, hw.wrote rfl, hw.source (by simp [DrawFrom.regs])⟩
  · obtain ⟨t, heq, hframe, hwent, hseq, hl⟩ := rng_runs (i := .rngNorm th d) (src := .lane) (C := [.clusters, .seq]) (by decide)
      (fun u l h => State.tgDraw_keeps (by decide) h x l 32) rfl hin htog
    refine ⟨t, heq, hframe, hwent, hseq, fun l hm p hp => ?_⟩
    have hw := hl l hm p hp
    exact ⟨hw.next, hw.wrote rfl, hw.source (by simp [DrawFrom.regs])⟩
  · obtain ⟨t, heq, hframe, hwent, -, hl⟩ := rng_runs (i := .rngU32K th d st) (src := .pair st) (C := [.clusters]) (by decide)
      (fun u l h => State.keyDraw_keeps (by decide) h x l st 32 _) rfl hin htog
    exact ⟨t, heq, hframe, hwent, fun l hm => (hl l hm _ rfl).keyed⟩
  · obtain ⟨t, heq, hframe, hwent, -, hl⟩ := rng_runs (i := .rngNormK th d st) (src := .pair st) (C := [.clusters]) (by decide)
      (fun u l h => State.keyDraw_keeps (by decide) h x l st 32 _) rfl hin htog
    exact ⟨t, heq, hframe, hwent, fun l hm => (hl l hm _ rfl).keyed⟩
  · rw [pairBad, if_pos (hbad.imp_right fun h => ⟨rfl, h⟩)]

end Sys2Proof.Machine
end

section
/-! SUPPORT. What the operations of an engine leave alone of it, and of the state around it. -/

namespace Sys2Proof.Machine

/-! ### The places of an engine (R94 to R96) -/

namespace Engine

variable (e : Engine) (p pos now : Nat)

theorem acc_setAcc_self (t : Tbl Acc) : (e.setAcc p t).acc p = t := Tbl.get_put_self _ _ _ _

theorem acc_setAcc_ne {q : Nat} (t : Tbl Acc) (h : q ≠ p) : (e.setAcc p t).acc q = e.acc q := Tbl.get_put_ne _ _ _ _ h

theorem group_setGroup_self (g : Option GroupRun) : (e.setGroup p g).group p = g := by
  cases g with
  | none => exact Tbl.find_del_self _ _
  | some g => exact Tbl.find_set_self _ _ _

theorem group_setGroup_ne {q : Nat} (g : Option GroupRun) (h : q ≠ p) : (e.setGroup p g).group q = e.group q := by
  cases g with
  | none => exact Tbl.find_del_ne _ h
  | some g => exact Tbl.find_set_ne _ _ h

/-- The wait for tokens is noted in the descriptors alone. -/
theorem arm_rest : e.arm now = { e with descs := (e.arm now).descs } := by
  unfold Engine.arm
  split
  · split <;> rfl
  · rfl

theorem tidy_rest : e.tidy now = { e with descs := (e.tidy now).descs } := by
  rw [Engine.tidy, arm_rest]

theorem nextTile_rest (r : DescRun) : e.nextTile r now = { e with descs := (e.nextTile r now).descs } := by
  rw [Engine.nextTile, arm_rest]
  rfl

theorem groupFull_os {d : Desc} (hos : d.dmode = .os) {g : GroupRun} (hg : e.group (e.place d) = some g) :
    e.groupFull d = { e.setGroup (e.place d) (some { g with full := true }) with
      drainQ := e.drainQ ++ [e.place d]
      set := !e.set } := by
  simp only [Engine.groupFull, hg, hos, if_true]
  rfl

/-- The place in hand, for the first operands of a group emptied and taken. -/
def takePlace (r : DescRun) : Engine :=
  if (e.group (e.place r.d)).isNone then (e.setGroup (e.place r.d) (some r.group)).setAcc (e.place r.d) [] else e

theorem takePlace_rest (r : DescRun) :
    e.takePlace r = { e with groups := (e.takePlace r).groups, accs := (e.takePlace r).accs } := by
  unfold takePlace
  split <;> rfl

theorem takePlace_acc (r : DescRun) : (e.takePlace r).acc (e.place r.d) =
    if (e.group (e.place r.d)).isNone then [] else e.acc (e.place r.d) := by
  unfold takePlace
  split
  · exact acc_setAcc_self _ _ _
  · rfl

theorem takePlace_acc_ne (r : DescRun) {q : Nat} (h : q ≠ e.place r.d) : (e.takePlace r).acc q = e.acc q := by
  unfold takePlace
  split
  · exact acc_setAcc_ne _ _ _ h
  · rfl

theorem takePlace_group (r : DescRun) :
    (e.takePlace r).group (e.place r.d) = some ((e.group (e.place r.d)).getD r.group) := by
  unfold takePlace
  cases h : e.group (e.place r.d) with
  | none =>
    rw [Option.isNone_none, if_pos rfl]
    exact group_setGroup_self e _ (some r.group)
  | some g => exact h

/-- Operands of a descriptor have been issued into a place, and keep the engine and a port busy. -/
def issuedInto (t : Tbl Acc) (busy bank : Nat) : Engine :=
  { (e.setAcc p t).updDesc pos fun r => { r with issued := true } with busyClk := busy, bankClk := bank }

theorem issuedInto_acc (t : Tbl Acc) (busy bank : Nat) : (e.issuedInto p pos t busy bank).acc p = t :=
  acc_setAcc_self e p t

theorem issuedInto_acc_ne (t : Tbl Acc) (busy bank : Nat) {q : Nat} (h : q ≠ p) :
    (e.issuedInto p pos t busy bank).acc q = e.acc q := acc_setAcc_ne e p t h

end Engine

/-! ### The state around an engine's work -/

section
variable (s : State)

theorem State.consumed_clusters (die n : Nat) : (s.consumed die n).clusters = s.clusters := by
  unfold State.consumed
  split <;> rfl

theorem State.consumed_entries {C : List (Nat × Nat)} {u s : State} {die : Nat} (hm : (intCounter die, 7) ∈ C)
    (h : Entries C u s) (n : Nat) : Entries C u (s.consumed die n) :=
  Entries.ite h (h.write hm _)

theorem State.setEngine_others (cl : Nat) (e : Engine) : OtherClusters cl s (s.setEngine cl e) :=
  fun _ hk => State.cluster_setCluster_ne s _ hk

theorem State.cluster_setEngine (cl : Nat) (e : Engine) : (s.setEngine cl e).cluster cl = { s.cluster cl with me := e } :=
  State.cluster_setCluster_self _ _ _

theorem State.cluster_of_clusters {s t : State} (h : t.clusters = s.clusters) (k : Nat) : t.cluster k = s.cluster k := by
  rw [State.cluster, h]
  rfl

/-- A clock of an engine's work: flags are raised, poisoned operands counted, and the engine goes on. -/
def State.worked (s : State) (cl : Nat) (exc : Exc) (n : Nat) (e : Engine) : State :=
  ((s.raiseExc (s.cluster cl).job exc).consumed (leafDie cl) n).setEngine cl e

theorem State.worked_cluster (cl : Nat) (exc : Exc) (n : Nat) (e : Engine) :
    (s.worked cl exc n e).cluster cl = { s.cluster cl with me := e } := by
  rw [State.worked, State.cluster_setEngine,
    State.cluster_of_clusters ((State.consumed_clusters _ _ _).trans (s.raiseExc_clusters _ _))]

theorem State.worked_engine (cl : Nat) (exc : Exc) (n : Nat) (e : Engine) : (s.worked cl exc n e).engine cl = e := by
  rw [State.engine, State.worked_cluster]

theorem State.worked_cup (cl : Nat) (exc : Exc) (n : Nat) (e : Engine) :
    ((s.worked cl exc n e).cluster cl).cup = (s.cluster cl).cup := by rw [State.worked_cluster]

theorem State.worked_others (cl : Nat) (exc : Exc) (n : Nat) (e : Engine) : OtherClusters cl s (s.worked cl exc n e) :=
  fun k hk => (State.setEngine_others _ cl e k hk).trans
    (State.cluster_of_clusters ((State.consumed_clusters _ _ _).trans (s.raiseExc_clusters _ _)) k)

theorem State.worked_entries (cl : Nat) (exc : Exc) (n : Nat) (e : Engine) :
    Entries [(0x2500, 0x0C), (intCounter (leafDie cl), 7)] s (s.worked cl exc n e) :=
  (State.consumed_entries (by simp) (State.raiseExc_entries (by simp) (.refl _ s) _ _) n).of_regs rfl

theorem State.worked_quiet_entries (cl n : Nat) (e : Engine) :
    Entries [(intCounter (leafDie cl), 7)] s (s.worked cl 0 n e) :=
  (State.consumed_entries (List.mem_singleton_self _) (.refl _ s) n).of_regs rfl

theorem State.worked_flags (cl : Nat) (exc : Exc) (n : Nat) (e : Engine) :
    (s.worked cl exc n e).reg 0x2500 0x0C = s.reg 0x2500 0x0C ||| exc.setWidth 64 := by
  have hcount : Entries [(intCounter (leafDie cl), 7)] (s.raiseExc (s.cluster cl).job exc) (s.worked cl exc n e) :=
    (State.consumed_entries (List.mem_singleton_self _) (.refl _ _) n).of_regs rfl
  rw [hcount 0x2500 0x0C fun k hk => ?_, State.reg_raiseExc]
  rw [List.mem_singleton.1 hk, regKey, regKey]
  omega

theorem State.worked_keeps (cl : Nat) (exc : Exc) (n : Nat) (e : Engine) :
    State.Keeps [.regs, .clusters, .seq] s (s.worked cl exc n e) :=
  State.setEngine_keeps (by decide) (State.consumed_keeps (by decide)
    (State.raiseExc_keeps (by decide) (State.Keeps.refl _ s) _ _) _ _) _ _

theorem State.worked_quiet_keeps (cl n : Nat) (e : Engine) : State.Keeps [.regs, .clusters] s (s.worked cl 0 n e) :=
  State.setEngine_keeps (by decide) (State.consumed_keeps (by decide) (State.Keeps.refl _ s) _ _) _ _

theorem State.withDesc_of {s : State} {cl pos : Nat} {r : DescRun} (h : (s.engine cl).desc? pos = some r)
    (f : State → DescRun → State) : s.withDesc cl pos f = f s r := by
  rw [State.withDesc, h]

end

end Sys2Proof.Machine
end

section
/-! SUPPORT. Operands issue into the accumulators (R63, R64, R91 to R93, R96). -/

namespace Sys2Proof.Machine

section
variable {s : State} {cl : Cl} {r : DescRun}

/-! ### A stationary load (R91, R92) -/

theorem State.loadTile_eq (s : State) (cl : Cl) (r : DescRun) : ∃ n scl, s.loadTile cl r = s.worked cl 0 n
    (({ s.engine cl with
        stat := (List.range 32).map fun c => (s.cluster cl).statCol r.d r.tile c
        statScale := scl
        loadClk := 32 } : Engine).updDesc r.pos fun r => { r with loaded := true, vec := 0 }) := by
  unfold State.loadTile
  exact ⟨_, _, rfl⟩

theorem stationaryLoad_loads (hcur : (s.engine cl).current = some r) (hdesc : (s.engine cl).desc? r.pos = some r)
    (hruns : s.engineRuns cl r = true) (hos : r.d.dmode ≠ .os) (htaken : r.taken = true) (hload : r.loaded = false)
    (hports : (s.engine cl).portsFree = true) (hmiss : r.missing = []) (hchain : (s.engine cl).chainOk r r.d.ssrc = true)
    (hnext : (s.engine cl).nextRead r = true) :
    Runs (.stationaryLoad cl []) s [.regs, .clusters] fun t => OtherClusters cl s t
      ∧ (t.engine cl).loadClk = 32 ∧ (t.engine cl).portsFree = false
      ∧ (t.engine cl).stat = (List.range 32).map (fun c => (s.cluster cl).statCol r.d r.tile c)
      ∧ (t.engine cl).descs = (s.engine cl).descs.map (fun q =>
          if q.pos = r.pos then { q with loaded := true, vec := 0 } else q)
      ∧ (t.engine cl).accs = (s.engine cl).accs ∧ (t.engine cl).groups = (s.engine cl).groups
      ∧ (t.cluster cl).cup = (s.cluster cl).cup ∧ Entries [(intCounter (leafDie cl), 7)] s t := by
  have hgo : s.stationaryLoad cl [] = s.loadTile cl r := by
    simp only [State.stationaryLoad, hcur, hruns, bne_iff_ne.2 hos, htaken, hload, hports, hmiss, hchain, hnext, beq_self_eq_true,
      Bool.not_false, Bool.and_self, if_true]
    exact State.withDesc_of hdesc _
  obtain ⟨n, scl, heq⟩ := s.loadTile_eq cl r
  refine ⟨_, congrArg Host.Outcome.next (hgo.trans heq), (s.worked_quiet_keeps _ _ _).frame, s.worked_others _ _ _ _, ?_⟩
  rw [State.worked_engine, State.worked_cup]
  exact ⟨rfl, rfl, rfl, rfl, rfl, rfl, rfl, s.worked_quiet_entries _ _ _⟩

/-! ### A moving vector (R93) -/

/-- The engine with a vector's sums in the half in hand. -/
def Engine.vectorIssued (e : Engine) (r : DescRun) (t : Tbl Acc) : Engine :=
  (e.issuedInto (e.place r.d) r.pos t 1 e.bankClk).updDesc r.pos fun q => ({ q with vec := q.vec + 1 } : DescRun).sweep

theorem Engine.vectorIssued_acc (e : Engine) (r : DescRun) (t : Tbl Acc) : (e.vectorIssued r t).acc (e.place r.d) = t :=
  e.issuedInto_acc (e.place r.d) r.pos t 1 e.bankClk

theorem Engine.vectorIssued_acc_ne (e : Engine) (r : DescRun) (t : Tbl Acc) {q : Nat} (h : q ≠ e.place r.d) :
    (e.vectorIssued r t).acc q = e.acc q := e.issuedInto_acc_ne (e.place r.d) r.pos t 1 e.bankClk h

/-- A vector that is not its tile's last: its sums stand in the half in hand, and the walk goes to the next vector. -/
theorem State.issueVector_eq {g : GroupRun} {t : Tbl Acc} {exc : Exc}
    (hg : (s.engine cl).group ((s.engine cl).place r.d) = some g)
    (hsums : (s.engine cl).multiply (s.cluster cl) r = (t, exc)) (hmore : r.vec + 1 < r.d.vecsAt r.tile) :
    ∃ n, s.issueVector cl r = s.worked cl exc n ((s.engine cl).vectorIssued r t) := by
  refine ⟨(((s.raiseExc (s.cluster cl).job exc).cluster cl).vecPoison r).toNat, ?_⟩
  simp only [State.issueVector, hg, Option.isNone_some, Bool.false_eq_true, if_false, hsums, hmore, if_true]
  rfl

theorem movingVectorIssue_adds {g : GroupRun} (hcur : (s.engine cl).current = some r)
    (hdesc : (s.engine cl).desc? r.pos = some r) (hruns : s.engineRuns cl r = true) (hos : r.d.dmode ≠ .os)
    (hload : r.loaded = true) (hports : (s.engine cl).portsFree = true) (hmiss : r.missing = [])
    (hg : (s.engine cl).group ((s.engine cl).place r.d) = some g) (hfree : (s.engine cl).halfBusy r = false)
    (hchain : (s.engine cl).chainOk r r.d.msrc = true) (hmore : r.vec + 1 < r.d.vecsAt r.tile) :
    Runs (.movingVectorIssue cl []) s [.regs, .clusters, .seq] fun t => OtherClusters cl s t
      ∧ (t.engine cl).acc ((s.engine cl).place r.d) = ((s.engine cl).multiply (s.cluster cl) r).1
      ∧ (∀ p, p ≠ (s.engine cl).place r.d → (t.engine cl).acc p = (s.engine cl).acc p)
      ∧ (t.engine cl).busyClk = 1 ∧ (t.engine cl).half = (s.engine cl).half
      ∧ (∀ q ∈ (s.engine cl).descs, q.pos = r.pos → ∃ q' ∈ (t.engine cl).descs, q'.pos = r.pos ∧ q'.vec = q.vec + 1)
      ∧ (t.reg 0x2500 0x0C) = s.reg 0x2500 0x0C ||| ((s.engine cl).multiply (s.cluster cl) r).2.setWidth 64
      ∧ (t.cluster cl).cup = (s.cluster cl).cup ∧ Entries [(0x2500, 0x0C), (intCounter (leafDie cl), 7)] s t := by
  have hgo : s.movingVector cl [] = s.issueVector cl r := by
    simp only [State.movingVector, hcur, hruns, bne_iff_ne.2 hos, hload, hports, hmiss, hfree, hchain, beq_self_eq_true,
      Bool.not_false, Bool.and_self, if_true]
    exact State.withDesc_of hdesc _
  rcases hsums : (s.engine cl).multiply (s.cluster cl) r with ⟨t, exc⟩
  obtain ⟨n, heq⟩ := State.issueVector_eq hg hsums hmore
  refine ⟨_, congrArg Host.Outcome.next (hgo.trans heq), (s.worked_keeps _ _ _ _).frame, s.worked_others _ _ _ _, ?_⟩
  rw [State.worked_engine, State.worked_cup, State.worked_flags]
  refine ⟨Engine.vectorIssued_acc _ r t, fun p hp => Engine.vectorIssued_acc_ne _ r t hp, rfl, rfl, fun q hq hpos => ?_, rfl, rfl,
    s.worked_entries _ _ _ _⟩
  refine ⟨({ q with issued := true, vec := q.vec + 1 } : DescRun).sweep, ?_, hpos, rfl⟩
  have hissued : ({ q with issued := true } : DescRun) ∈ (s.engine cl).descs.map fun r' =>
      if r'.pos = r.pos then { r' with issued := true } else r' := List.mem_map.2 ⟨q, hq, if_pos hpos⟩
  exact List.mem_map.2 ⟨_, hissued, if_pos hpos⟩

/-! ### The K-steps of a tile of OS (R96) -/

/-- The engine with the K-steps whose slices are staged issued, and their sums in the set in hand. -/
def Engine.stepsIssued (e : Engine) (r : DescRun) (t : Tbl Acc) : Engine :=
  (e.takePlace r).issuedInto (e.place r.d) r.pos t r.osReady.length (r.osReady.filter (r.d.osConflict r.tile)).length

/-- The walk after them: at the next step of the tile, or, the set handed to the epilogue, at the next tile. -/
def Engine.stepsWalked (e : Engine) (r : DescRun) (t : Tbl Acc) (now : Nat) : Engine :=
  if r.vec + r.osReady.length < r.d.steps then
    (e.stepsIssued r t).updDesc r.pos fun q => ({ q with vec := q.vec + r.osReady.length } : DescRun).sweep
  else ((e.stepsIssued r t).groupFull r.d).nextTile r now

theorem State.issueTile_eq {t : Tbl Acc} {exc : Exc}
    (hsums : (s.cluster cl).osSteps r r.osReady (((s.engine cl).takePlace r).acc ((s.engine cl).place r.d)) = (t, exc)) :
    ∃ n now, s.issueTile cl r = s.worked cl exc n ((s.engine cl).stepsWalked r t now) := by
  refine ⟨(r.osReady.map (((s.raiseExc (s.cluster cl).job exc).cluster cl).osPoison r)).foldl (· + ·) 0,
    (s.worked cl exc ((r.osReady.map (((s.raiseExc (s.cluster cl).job exc).cluster cl).osPoison r)).foldl (· + ·) 0)
      (s.engine cl)).time.core, ?_⟩
  unfold Engine.takePlace at hsums
  simp only [State.issueTile, hsums, Engine.stepsWalked]
  split <;> rfl

/-! What the walk leaves in the engine. -/

section
variable (e : Engine) (t : Tbl Acc) (now : Nat)

theorem Engine.stepsIssued_acc : (e.stepsIssued r t).acc (e.place r.d) = t :=
  (e.takePlace r).issuedInto_acc _ r.pos t _ _

theorem Engine.stepsIssued_acc_ne {q : Nat} (h : q ≠ e.place r.d) : (e.stepsIssued r t).acc q = e.acc q :=
  ((e.takePlace r).issuedInto_acc_ne _ r.pos t _ _ h).trans (e.takePlace_acc_ne r h)

theorem Engine.stepsIssued_group : (e.stepsIssued r t).group (e.place r.d) = some ((e.group (e.place r.d)).getD r.group) :=
  e.takePlace_group r

theorem Engine.stepsIssued_place : (e.stepsIssued r t).place r.d = e.place r.d := by
  rw [Engine.stepsIssued, Engine.issuedInto, Engine.takePlace_rest]
  rfl

theorem Engine.stepsIssued_drainQ : (e.stepsIssued r t).drainQ = e.drainQ := by
  rw [Engine.stepsIssued, Engine.issuedInto, Engine.takePlace_rest]
  rfl

theorem Engine.stepsIssued_set : (e.stepsIssued r t).set = e.set := by
  rw [Engine.stepsIssued, Engine.issuedInto, Engine.takePlace_rest]
  rfl

/-- The last step of a tile hands the set over and goes on with the other. -/
theorem Engine.stepsWalked_full (hos : r.d.dmode = .os) (hlast : r.d.steps ≤ r.vec + r.osReady.length) :
    ∃ descs, e.stepsWalked r t now = { (e.stepsIssued r t).setGroup (e.place r.d)
        (some { (e.group (e.place r.d)).getD r.group with full := true }) with
      drainQ := e.drainQ ++ [e.place r.d]
      set := !e.set
      descs := descs } := by
  have hgroup : (e.stepsIssued r t).group ((e.stepsIssued r t).place r.d) = some ((e.group (e.place r.d)).getD r.group) := by
    rw [e.stepsIssued_place, e.stepsIssued_group]
  rw [Engine.stepsWalked, if_neg (Nat.not_lt.2 hlast), Engine.nextTile_rest, Engine.groupFull_os _ hos hgroup,
    e.stepsIssued_place, e.stepsIssued_drainQ, e.stepsIssued_set]
  exact ⟨_, rfl⟩

/-- Whether or not the tile ends, the sums stay where they were written. -/
theorem Engine.stepsWalked_sums (hos : r.d.dmode = .os) : (e.stepsWalked r t now).accs = (e.stepsIssued r t).accs
    ∧ (e.stepsWalked r t now).busyClk = (e.stepsIssued r t).busyClk := by
  by_cases hmore : r.vec + r.osReady.length < r.d.steps
  · rw [Engine.stepsWalked, if_pos hmore]
    exact ⟨rfl, rfl⟩
  · obtain ⟨descs, heq⟩ := e.stepsWalked_full t now hos (Nat.not_lt.1 hmore)
    rw [heq]
    exact ⟨rfl, rfl⟩

end

theorem osTileIssue_adds {p : Nat} (hcur : (s.engine cl).current = some r) (hdesc : (s.engine cl).desc? r.pos = some r)
    (hruns : s.engineRuns cl r = true) (hos : r.d.dmode = .os) (htaken : r.taken = true)
    (hports : (s.engine cl).portsFree = true) (hmiss : r.missing = []) (hfree : (s.engine cl).halfBusy r = false)
    (hp : p = (s.engine cl).place r.d) :
    Runs (.osTileIssue cl []) s [.regs, .clusters, .seq] fun t => OtherClusters cl s t
      ∧ (∀ acc, acc = (if ((s.engine cl).group p).isNone then [] else (s.engine cl).acc p) →
          (t.engine cl).acc p = ((s.cluster cl).osSteps r r.osReady acc).1
          ∧ (t.reg 0x2500 0x0C) = s.reg 0x2500 0x0C ||| ((s.cluster cl).osSteps r r.osReady acc).2.setWidth 64)
      ∧ (∀ q, q ≠ p → (t.engine cl).acc q = (s.engine cl).acc q)
      ∧ (t.engine cl).busyClk = r.osReady.length
      ∧ (r.vec + r.osReady.length < r.d.steps →
          (t.engine cl).drainQ = (s.engine cl).drainQ ∧ (t.engine cl).set = (s.engine cl).set)
      ∧ (r.d.steps ≤ r.vec + r.osReady.length →
          (t.engine cl).group p = some { ((s.engine cl).group p).getD r.group with full := true }
          ∧ (t.engine cl).drainQ = (s.engine cl).drainQ ++ [p] ∧ (t.engine cl).set = !(s.engine cl).set)
      ∧ Entries [(0x2500, 0x0C), (intCounter (leafDie cl), 7)] s t := by
  subst hp
  have hgo : s.osTileIssue cl [] = s.issueTile cl r := by
    simp only [State.osTileIssue, hcur, hruns, hos, htaken, hports, hmiss, hfree, beq_self_eq_true, Bool.not_false,
      Bool.and_self, if_true]
    exact State.withDesc_of hdesc _
  rcases hsums : (s.cluster cl).osSteps r r.osReady (((s.engine cl).takePlace r).acc ((s.engine cl).place r.d)) with ⟨t, exc⟩
  obtain ⟨n, now, heq⟩ := State.issueTile_eq hsums
  obtain ⟨haccs, hbusy⟩ := (s.engine cl).stepsWalked_sums t now hos
  have hacc : ∀ q, ((s.engine cl).stepsWalked r t now).acc q = ((s.engine cl).stepsIssued r t).acc q := fun q =>
    congrArg (Tbl.get [] · q) haccs
  refine ⟨_, congrArg Host.Outcome.next (hgo.trans heq), (s.worked_keeps _ _ _ _).frame, s.worked_others _ _ _ _, ?_⟩
  rw [State.worked_engine, State.worked_flags]
  refine ⟨fun acc hstart => ?_, fun q hq => ?_, hbusy, fun hmore => ?_, fun hlast => ?_, s.worked_entries _ _ _ _⟩
  · rw [hstart, ← Engine.takePlace_acc, hsums, hacc]
    exact ⟨Engine.stepsIssued_acc _ t, rfl⟩
  · rw [hacc]
    exact Engine.stepsIssued_acc_ne _ t hq
  · rw [Engine.stepsWalked, if_pos hmore]
    exact ⟨Engine.stepsIssued_drainQ _ t, Engine.stepsIssued_set _ t⟩
  · obtain ⟨descs, hfull⟩ := (s.engine cl).stepsWalked_full t now hos hlast
    rw [hfull]
    exact ⟨((s.engine cl).stepsIssued r t).group_setGroup_self _ (some _), rfl, rfl⟩

end

/-- Settles O24: an engine's operations run as one expression of the engine before them, and what the walk leaves alone
is stated of the places of the engine. -/
theorem operandsIssueIntoTheAccumulators : Obligations.OperandsIssueIntoTheAccumulators :=
  ⟨fun _ _ _ => stationaryLoad_loads, fun _ _ _ _ => movingVectorIssue_adds, fun _ _ _ _ => osTileIssue_adds⟩

end Sys2Proof.Machine
end

section
/-! SUPPORT. The epilogue drains in order (R66, R95, R99, R100, R102), and what is heard of finished requests. -/

namespace Sys2Proof.Machine

/-! ### Where nothing is to be heard, nothing changes -/

theorem State.packetsDone_of_idle {s : State} (h : ∀ e ∈ s.fabric.conns, e.2.exec = none) : s.packetsDone = s := by
  refine List.foldlRecOn (motive := (· = s)) s.fabric.conns _ rfl fun b hb e he => ?_
  simp only [h e he, Option.isSome_none, Bool.false_eq_true, if_false]
  exact hb

theorem State.settle_of_allHeard {s : State} (h : s.allHeard) : s.settle = s := by
  obtain ⟨hreqs, howed, hconns, hwaits⟩ := h
  have hnone : s.reqs.filter (fun r => r.finished && (r.kind == .write || s.unwanted r)) = [] :=
    List.filter_eq_nil_iff.2 fun r hr => by simp [hreqs r hr]
  have hpaid : s.payOwed = s := by rw [State.payOwed, howed, List.foldl_nil]
  have hbar : s.bar2sDone = s := by rw [State.bar2sDone, hwaits, List.foldl_nil]
  rw [State.settle, hnone, List.map_nil, List.foldl_nil, hpaid, State.packetsDone_of_idle hconns, hbar]

theorem State.allHeard_of {s u : State} (h : s.allHeard) (hreqs : ∀ r ∈ u.reqs, r.finished = false)
    (howed : u.seq.owed = s.seq.owed) (hfabric : u.fabric = s.fabric) (hlink : u.link = s.link) : u.allHeard :=
  ⟨hreqs, howed.trans h.2.1, hfabric ▸ h.2.2.1, hlink ▸ h.2.2.2⟩

/-! ### Requests to local HBM -/

theorem State.addrKind_of_reg {s t : State} (hnode : t.reg 0x2910 1 = s.reg 0x2910 1)
    (hhost : t.reg 0x2A20 1 = s.reg 0x2A20 1) (a : Word64) (n : Nat) : t.addrKind a n = s.addrKind a n := by
  unfold State.addrKind State.isLocal State.node State.fld State.hostAddr
  rw [hnode, hhost]

theorem State.routeTo_ne_nil (s : State) (m : Master) (k : ReqKind) (pa : Nat) : s.routeTo m k pa ≠ [] := by
  unfold State.routeTo
  cases m.cluster? <;> exact List.cons_ne_nil _ _

/-- A request as it enters the network towards its home slice. -/
def State.entering (s : State) (r : Req) : Req :=
  { r with id := s.nextReq, route := s.routeTo r.master r.kind (addrLocal r.addr), stage := .waiting }

/-- It stands last among the requests. -/
def State.entered (s : State) (r : Req) : State := { s with reqs := s.reqs ++ [s.entering r], nextReq := s.nextReq + 1 }

theorem State.entered_keeps {C : List Part} (hc : Part.reqs ∈ C) {s₀ s : State} (h : State.Keeps C s₀ s) (r : Req) :
    State.Keeps C s₀ (s.entered r) := by
  apply State.Keeps.ofFields
  exact State.Keeps.setNextReq hc (State.Keeps.setReqs hc h.toFields)

theorem State.entered_cluster (s : State) (r : Req) (k : Nat) : (s.entered r).cluster k = s.cluster k :=
  State.cluster_of_clusters rfl k

theorem State.request_of_hbm {s : State} {r : Req} (h : s.addrKind r.addr (max 1 r.len) = .hbm) :
    s.request r = s.entered r := by
  simp only [State.request, h, s.routeTo_ne_nil, if_false]
  rfl

/-! ### Writes of the epilogue to memory -/

section
variable {s : State} {cl : Cl} {pos : Nat} {bs : List (Byte × Bool)} {alloc : Bool} {ctx : Option Ctx}

/-- The write of one piece: it is counted at its descriptor, and issued. -/
def State.pieceWritten (s : State) (cl : Cl) (pos : Nat) (bs : List (Byte × Bool)) (alloc : Bool) (ctx : Option Ctx)
    (p : Nat × Word64 × Nat) : State :=
  (s.setEngine cl ((s.engine cl).updDesc pos fun d => { d with writes := d.writes + 1 })).request
    (mkReq (.engine cl) .write p.2.1 p.2.2 (((bs.drop p.1).take p.2.2).map (·.1)) (((bs.drop p.1).take p.2.2).any (·.2))
      alloc (.epilogue cl pos) ctx)

theorem State.epilogueMem_eq (s : State) (cl : Cl) (pos : Nat) (a : Word64) (bs : List (Byte × Bool)) (alloc : Bool)
    (ctx : Option Ctx) : s.epilogueMem cl pos a bs alloc ctx =
      (fillPieces a bs.length).foldl (fun s p => s.pieceWritten cl pos bs alloc ctx p) s := rfl

/-- Writes of the epilogue stand at the end of the network's requests, not yet accepted, and of the clusters only the
count of writes of a descriptor has changed. -/
structure EpilogueIssued (cl : Cl) (pos : Nat) (bs : List (Byte × Bool)) (ps : List (Nat × Word64 × Nat)) (s t : State) : Prop where
  keeps : State.Keeps [.clusters, .reqs] s t
  others : OtherClusters cl s t
  cup : (t.cluster cl).cup = (s.cluster cl).cup
  reqs : ∃ new : List Req, t.reqs = s.reqs ++ new ∧ (∀ q ∈ new, q.finished = false)
    ∧ new.map (fun q => (q.addr, q.data, q.poisoned, q.purpose)) =
      ps.map fun p => (p.2.1, ((bs.drop p.1).take p.2.2).map (·.1), ((bs.drop p.1).take p.2.2).any (·.2),
        Purpose.epilogue cl pos)

theorem State.pieceWritten_issued {p : Nat × Word64 × Nat} (h : s.addrKind p.2.1 (max 1 p.2.2) = .hbm) :
    EpilogueIssued cl pos bs [p] s (s.pieceWritten cl pos bs alloc ctx p) := by
  rw [State.pieceWritten, State.request_of_hbm (by exact h)]
  refine ⟨State.entered_keeps (by decide) (State.setEngine_keeps (by decide) (State.Keeps.refl _ s) _ _) _,
    fun k hk => (State.entered_cluster _ _ _).trans (s.setEngine_others cl _ k hk), ?_, _, rfl, fun q hq => ?_, rfl⟩
  · rw [State.entered_cluster, State.cluster_setEngine]
  · rw [List.mem_singleton.1 hq]
    rfl

theorem EpilogueIssued.nil (cl : Cl) (pos : Nat) (bs : List (Byte × Bool)) (s : State) : EpilogueIssued cl pos bs [] s s :=
  ⟨State.Keeps.refl _ s, fun _ _ => rfl, rfl, [], (List.append_nil _).symm, fun _ h => absurd h List.not_mem_nil, rfl⟩

theorem EpilogueIssued.append {ps qs : List (Nat × Word64 × Nat)} {t u : State} (hst : EpilogueIssued cl pos bs ps s t)
    (htu : EpilogueIssued cl pos bs qs t u) : EpilogueIssued cl pos bs (ps ++ qs) s u := by
  obtain ⟨keeps, others, cup, new, hreqs, hnew, hmap⟩ := hst
  obtain ⟨keeps', others', cup', new', hreqs', hnew', hmap'⟩ := htu
  refine ⟨keeps.trans keeps', fun k hk => (others' k hk).trans (others k hk), cup'.trans cup, new ++ new', ?_, ?_, ?_⟩
  · rw [hreqs', hreqs, List.append_assoc]
  · exact fun q hq => (List.mem_append.1 hq).elim (hnew q) (hnew' q)
  · rw [List.map_append, hmap, hmap', List.map_append]

theorem EpilogueIssued.addrKind {ps : List (Nat × Word64 × Nat)} {t : State} (h : EpilogueIssued cl pos bs ps s t)
    (a : Word64) (n : Nat) :
    t.addrKind a n = s.addrKind a n :=
  have hregs : t.regs = s.regs := h.keeps.parts .regs (by decide)
  State.addrKind_of_reg (State.reg_of_regs hregs _ _) (State.reg_of_regs hregs _ _) a n

theorem State.piecesWritten_issued : ∀ (ps : List (Nat × Word64 × Nat)) (s : State),
    (∀ p ∈ ps, s.addrKind p.2.1 (max 1 p.2.2) = .hbm) →
    EpilogueIssued cl pos bs ps s (ps.foldl (fun s p => s.pieceWritten cl pos bs alloc ctx p) s)
  | [], s, _ => .nil cl pos bs s
  | p :: ps, s, h => by
    have hfirst : EpilogueIssued cl pos bs [p] s (s.pieceWritten cl pos bs alloc ctx p) :=
      State.pieceWritten_issued (h p (List.mem_cons_self ..))
    exact hfirst.append (State.piecesWritten_issued ps _ fun q hq =>
      (hfirst.addrKind _ _).trans (h q (List.mem_cons_of_mem _ hq)))

end

end Sys2Proof.Machine
end

section
/-! SUPPORT. The drain of a group (R66, R95, R99, R100, R102). -/

namespace Sys2Proof.Machine

/-! ### The start of a drain (R95) -/

theorem epilogueDrainStart_drains {s : State} {cl : Cl} {h : Nat} {rest : List Nat} {g : GroupRun}
    (hq : (s.engine cl).drainQ = h :: rest) (hg : (s.engine cl).group h = some g) (hdrain : g.drain = false)
    (hcore : s.coreStopped = false) : Runs (.epilogueDrainStart cl) s [.clusters] fun t => OtherClusters cl s t
      ∧ (t.engine cl).group h = some { g with drain := true }
      ∧ (∀ p, p ≠ h → (t.engine cl).group p = (s.engine cl).group p)
      ∧ (t.engine cl).accs = (s.engine cl).accs ∧ (t.cluster cl).cup = (s.cluster cl).cup := by
  have hgo : ∃ keyed, s.drainStart cl = s.setEngine cl
      { (s.engine cl).setGroup h (some { g with drain := true }) with keyed := keyed } := by
    simp only [State.drainStart, hq, hg, hdrain, hcore, Bool.or_self, Bool.false_eq_true, if_false]
    exact ⟨_, rfl⟩
  obtain ⟨keyed, heq⟩ := hgo
  refine ⟨_, congrArg Host.Outcome.next heq, (State.setEngine_keeps (by decide) (State.Keeps.refl _ s) _ _).frame,
    s.setEngine_others _ _, ?_⟩
  rw [State.engine, State.cluster_setEngine]
  exact ⟨(s.engine cl).group_setGroup_self h (some _), fun p hp => (s.engine cl).group_setGroup_ne h (some _) hp, rfl, rfl⟩

/-! ### A chunk (R66, R99) -/

theorem State.drawModes_rne (cl : Cl) {d : Desc} (hrnd : d.rnd = 0) :
    ∀ (ns : List Nat) (s : State), State.drawModes cl d ns s = (s, ns.map fun _ => Rnd.rne)
  | [], _ => rfl
  | n :: ns, s => by
    have hne : ¬ (d.rnd = 1 ∧ drawBits (.flt fp32) d.eltC ≠ 0) := fun h => absurd (hrnd.symm.trans h.1) (by decide)
    simp only [State.drawModes, if_neg hne, State.drawModes_rne cl hrnd ns s, List.map_cons]

theorem convertChunk_noScale {d : Desc} (hmx : d.mxC = false) (ys : List (Word32 × Bool × Exc)) (ms : List Rnd) :
    (convertChunk d ys ms).2.1 = none := by
  simp only [convertChunk, hmx]

/-- The group in hand after a chunk of it has been read. -/
def Engine.chunkRead (e : Engine) (h : Nat) (g : GroupRun) (pos now : Nat) : Engine :=
  if g.h * g.w ≤ g.read + g.chunk.2.length then e.groupDone h pos now
  else e.setGroup h (some { g with read := g.read + g.chunk.2.length })

theorem Engine.groupDone_rest (e : Engine) (h pos now : Nat) :
    e.groupDone h pos now = { (e.setGroup h none).setAcc h [] with
      drainQ := e.drainQ.tail
      keyed := []
      descs := (e.groupDone h pos now).descs } := by
  rw [Engine.groupDone, Engine.tidy_rest]
  rfl

theorem Engine.chunkRead_done (e : Engine) {h : Nat} {g : GroupRun} (pos now : Nat)
    (hdone : g.h * g.w ≤ g.read + g.chunk.2.length) :
    (e.chunkRead h g pos now).group h = none ∧ (e.chunkRead h g pos now).drainQ = e.drainQ.tail
      ∧ (e.chunkRead h g pos now).acc h = [] := by
  rw [Engine.chunkRead, if_pos hdone, Engine.groupDone_rest]
  exact ⟨e.group_setGroup_self h none, rfl, (e.setGroup h none).acc_setAcc_self h []⟩

theorem Engine.chunkRead_more (e : Engine) {h : Nat} {g : GroupRun} (pos now : Nat)
    (hmore : g.read + g.chunk.2.length < g.h * g.w) :
    (e.chunkRead h g pos now).group h = some { g with read := g.read + g.chunk.2.length } := by
  rw [Engine.chunkRead, if_neg (Nat.not_le.2 hmore)]
  exact e.group_setGroup_self h (some _)

section
variable {s : State} {cl : Cl} {h : Nat} {g : GroupRun} {r : DescRun}

/-- Flags are raised and poisoned operands counted. -/
def State.noted (s : State) (cl : Nat) (exc : Exc) (n : Nat) : State :=
  (s.raiseExc (s.cluster cl).job exc).consumed (leafDie cl) n

theorem State.noted_keeps {C : List Part} (hc : ([.regs, .seq] : List Part) ⊆ C) {s₀ s : State} (h : State.Keeps C s₀ s)
    (cl : Nat) (exc : Exc) (n : Nat) : State.Keeps C s₀ (s.noted cl exc n) :=
  State.consumed_keeps (List.Subset.trans (by decide) hc) (State.raiseExc_keeps hc h _ _) _ _

theorem State.noted_cluster (s : State) (cl : Nat) (exc : Exc) (n k : Nat) : (s.noted cl exc n).cluster k = s.cluster k :=
  State.cluster_of_clusters ((State.consumed_clusters _ _ _).trans (s.raiseExc_clusters _ _)) k

theorem State.noted_owed (s : State) (cl : Nat) (exc : Exc) (n : Nat) : (s.noted cl exc n).seq.owed = s.seq.owed := by
  have hseq : (s.noted cl exc n).seq = (s.raiseExc (s.cluster cl).job exc).seq :=
    (State.consumed_keeps (C := [.regs]) (by decide) (State.Keeps.refl _ _) _ _).parts .seq (by decide)
  rw [hseq, State.raiseExc_seq]

theorem State.noted_addrKind (s : State) (cl : Nat) (exc : Exc) (n : Nat) (a : Word64) (len : Nat) :
    (s.noted cl exc n).addrKind a len = s.addrKind a len := by
  have hentries : Entries [(0x2500, 0x0C), (intCounter (leafDie cl), 7)] s (s.noted cl exc n) :=
    State.consumed_entries (by simp) (State.raiseExc_entries (by simp) (.refl _ s) _ _) n
  refine State.addrKind_of_reg (hentries _ _ fun k hk => ?_) (hentries _ _ fun k hk => ?_) a len <;>
  · simp only [List.mem_cons, List.not_mem_nil, or_false] at hk
    rcases hk with rfl | rfl <;> rw [regKey, regKey] <;> omega

theorem State.markPoison_clusters (s : State) (cl : Nat) (p : Bool) : (s.markPoison cl p).clusters = s.clusters :=
  (State.markPoison_keeps (List.Subset.refl _) (State.Keeps.refl _ s) cl p).parts .clusters (by decide)

theorem State.markPoison_owed (s : State) (cl : Nat) (p : Bool) : (s.markPoison cl p).seq.owed = s.seq.owed := by
  unfold State.markPoison
  split
  · rfl
  · split <;> rfl

/-- A chunk's bytes, with their poison, are written: the state around it. -/
def State.chunkStored (s : State) (cl : Cl) (g : GroupRun) (r : DescRun) (es : List (Nat × Bool)) (exc : Exc) (n : Nat)
    (ctx : Option Ctx) : State :=
  ((s.noted cl exc n).epilogueStore cl r.d r.pos g.chunk.1 (g.chunk.2.headD 0) (packPoison r.d.eltC.bits es) none
    ctx).markPoison cl (es.any (·.2))

/-- The same with the chunk read from the group in hand. -/
def State.chunkTaken (s : State) (cl : Cl) (h : Nat) (g : GroupRun) (pos : Nat) : State :=
  s.setEngine cl ((s.engine cl).chunkRead h g pos s.time.core)

theorem State.epilogueChunk_eq {es : List (Nat × Bool)} {exc : Exc} (hrnd : r.d.rnd = 0) (hpad : r.d.opaden = false)
    (hconv : convertChunk r.d (g.chunk.2.map (r.epilogueValue g ((s.engine cl).acc h) g.chunk.1))
      (g.chunk.2.map fun _ => Rnd.rne) = (es, none, exc)) :
    ∃ n ctx, s.epilogueChunk cl h g r = (s.chunkStored cl g r es exc n ctx).chunkTaken cl h g r.pos := by
  simp only [State.epilogueChunk, State.drawModes_rne cl hrnd, hconv, hpad, Bool.false_eq_true, false_and, if_false,
    List.append_nil, Option.map_none, ← apply_ite (State.setEngine _ _)]
  exact ⟨_, _, rfl⟩

end

end Sys2Proof.Machine
end

section
/-! SUPPORT. A chunk of the epilogue written, to the cup buffer or to memory (R99, R100, R102). -/

namespace Sys2Proof.Machine

section
variable {s : State} {cl : Cl} {h : Nat} {g : GroupRun} {r : DescRun} {es : List (Nat × Bool)} {exc : Exc} {n : Nat}
  {ctx : Option Ctx}

/-- The engine that no destination holds. -/
def State.unheld (s : State) (cl : Cl) : State := s.setEngine cl { s.engine cl with holding := false }

/-- The clock in which a chunk leaves the engine. -/
def State.chunkDone (s : State) (cl : Cl) (h : Nat) (g : GroupRun) (r : DescRun) (es : List (Nat × Bool)) (exc : Exc)
    (n : Nat) (ctx : Option Ctx) : State :=
  ((s.unheld cl).chunkStored cl g r es exc n ctx).chunkTaken cl h g r.pos

theorem State.unheld_cluster (s : State) (cl : Cl) :
    (s.unheld cl).cluster cl = { s.cluster cl with me := { s.engine cl with holding := false } } := s.cluster_setEngine cl _

theorem State.unheld_engine (s : State) (cl : Cl) : (s.unheld cl).engine cl = { s.engine cl with holding := false } := by
  rw [State.engine, State.unheld_cluster]

theorem Engine.desc?_pos {e : Engine} {pos : Nat} (hdesc : e.desc? pos = some r) : r.pos = pos :=
  beq_iff_eq.1 (List.find?_some (p := fun q : DescRun => q.pos == pos) hdesc)

/-- The destination of a chunk takes it. -/
theorem epilogueWrite_writes {rest : List Nat} (hq : (s.engine cl).drainQ = h :: rest) (hg : (s.engine cl).group h = some g)
    (hdesc : (s.engine cl).desc? g.pos = some r) (hdrain : g.drain = true) (hcore : s.coreStopped = false)
    (hready : vectorsReady r g = true) (hfree : s.epilogueBlocked cl r.d = false) (hrnd : r.d.rnd = 0)
    (hpad : r.d.opaden = false)
    (hconv : convertChunk r.d (g.chunk.2.map (r.epilogueValue g ((s.engine cl).acc h) g.chunk.1))
      (g.chunk.2.map fun _ => Rnd.rne) = (es, none, exc)) :
    ∃ n ctx, exec (.epilogueWrite cl []) s = .next (s.chunkDone cl h g r es exc n ctx).settle := by
  have hunheld : ((s.unheld cl).engine cl).desc? g.pos = some r := by
    rw [State.unheld_engine]
    exact hdesc
  have hgo : s.epilogueWrite cl [] = ((s.unheld cl).epilogueChunk cl h g r).settle := by
    simp only [State.epilogueWrite, hq, hg, hdesc, hdrain, hcore, hready, hfree, Bool.not_true, Bool.or_self,
      Bool.false_eq_true, if_false]
    rw [← hq]
    exact congrArg State.settle (State.withDesc_of hunheld _)
  obtain ⟨n, ctx, heq⟩ := State.epilogueChunk_eq (s := s.unheld cl) (cl := cl) (h := h) (es := es) (exc := exc) hrnd hpad (by
    rw [State.unheld_engine]
    exact hconv)
  exact ⟨n, ctx, congrArg Host.Outcome.next (hgo.trans (congrArg State.settle heq))⟩

/-- A destination that takes no write holds the engine (R102). -/
theorem epilogueWrite_holds {rest : List Nat} {errs : List MeErr} (hq : (s.engine cl).drainQ = h :: rest)
    (hg : (s.engine cl).group h = some g) (hdesc : (s.engine cl).desc? g.pos = some r) (hdrain : g.drain = true)
    (hcore : s.coreStopped = false) (hready : vectorsReady r g = true) (hheld : s.epilogueBlocked cl r.d = true) :
    Runs (.epilogueWrite cl errs) s [.clusters] fun t => OtherClusters cl s t
      ∧ t.cluster cl = { s.cluster cl with me := { s.engine cl with holding := true } } := by
  have hgo : s.epilogueWrite cl errs = s.setEngine cl { s.engine cl with holding := true } := by
    simp only [State.epilogueWrite, hq, hg, hdesc, hdrain, hcore, hready, hheld, Bool.not_true, Bool.or_self,
      Bool.false_eq_true, if_false, if_true]
  exact ⟨_, congrArg Host.Outcome.next hgo, (State.setEngine_keeps (by decide) (State.Keeps.refl _ s) _ _).frame,
    s.setEngine_others _ _, s.cluster_setEngine _ _⟩

/-! ### Around the write -/

/-- The state in which a chunk's bytes are written. -/
def State.chunkNoted (s : State) (cl : Cl) (exc : Exc) (n : Nat) : State := (s.unheld cl).noted cl exc n

theorem State.chunkNoted_keeps {C : List Part} (hc : ([.regs, .clusters, .seq] : List Part) ⊆ C) (s : State) (cl : Cl)
    (exc : Exc) (n : Nat) : State.Keeps C s (s.chunkNoted cl exc n) :=
  State.noted_keeps (List.Subset.trans (by decide) hc)
    (State.setEngine_keeps (List.Subset.trans (by decide) hc) (State.Keeps.refl _ s) _ _) _ _ _

theorem State.chunkNoted_cluster (s : State) (cl : Cl) (exc : Exc) (n : Nat) :
    (s.chunkNoted cl exc n).cluster cl = { s.cluster cl with me := { s.engine cl with holding := false } } := by
  rw [State.chunkNoted, State.noted_cluster, State.unheld_cluster]

theorem State.chunkNoted_others (s : State) (cl : Cl) (exc : Exc) (n : Nat) : OtherClusters cl s (s.chunkNoted cl exc n) :=
  fun k hk => (State.noted_cluster _ _ _ _ k).trans (s.setEngine_others cl _ k hk)

/-- What follows the write of a chunk: w is the state after it. -/
def State.chunkEnd (w : State) (cl : Cl) (h : Nat) (g : GroupRun) (pos : Nat) (p : Bool) : State :=
  (w.markPoison cl p).chunkTaken cl h g pos

theorem State.chunkDone_eq (s : State) (cl : Cl) (h : Nat) (g : GroupRun) (r : DescRun) (es : List (Nat × Bool)) (exc : Exc)
    (n : Nat) (ctx : Option Ctx) : s.chunkDone cl h g r es exc n ctx =
      ((s.chunkNoted cl exc n).epilogueStore cl r.d r.pos g.chunk.1 (g.chunk.2.headD 0) (packPoison r.d.eltC.bits es) none
        ctx).chunkEnd cl h g r.pos (es.any (·.2)) := rfl

section
variable (w : State) (cl : Cl) (h : Nat) (g : GroupRun) (pos : Nat) (p : Bool)

theorem State.chunkEnd_keeps {C : List Part} (hc : ([.clusters, .seq] : List Part) ⊆ C) {s₀ : State}
    (hw : State.Keeps C s₀ w) : State.Keeps C s₀ (w.chunkEnd cl h g pos p) :=
  State.setEngine_keeps (List.Subset.trans (by decide) hc)
    (State.markPoison_keeps (List.Subset.trans (by decide) hc) hw _ _) _ _

theorem State.chunkEnd_cluster : ∃ now, (w.chunkEnd cl h g pos p).cluster cl =
    { w.cluster cl with me := (w.engine cl).chunkRead h g pos now } := by
  refine ⟨(w.markPoison cl p).time.core, ?_⟩
  rw [State.chunkEnd, State.chunkTaken, State.cluster_setEngine, State.engine, State.engine,
    State.cluster_of_clusters (w.markPoison_clusters cl p)]

theorem State.chunkEnd_others : OtherClusters cl w (w.chunkEnd cl h g pos p) := fun k hk =>
  (State.setEngine_others _ cl _ k hk).trans (State.cluster_of_clusters (w.markPoison_clusters cl p) k)

theorem State.chunkEnd_reqs : (w.chunkEnd cl h g pos p).reqs = w.reqs :=
  ((State.chunkEnd_keeps w cl h g pos p (List.Subset.refl _) (State.Keeps.refl _ w)).parts .reqs (by decide)).1

theorem State.chunkEnd_owed : (w.chunkEnd cl h g pos p).seq.owed = w.seq.owed := w.markPoison_owed cl p

end

end

end Sys2Proof.Machine
end

section
/-! SUPPORT. What a chunk's write leaves behind, and O25. -/

namespace Sys2Proof.Machine

theorem State.Keeps.wider {C D : List Part} {s t : State} (h : State.Keeps C s t) (hc : C ⊆ D) : State.Keeps D s t :=
  ⟨h.queue, h.canon, fun p hp => h.parts p fun hm => hp (hc hm)⟩

section
variable {s : State} {cl : Cl} {h : Nat} {g : GroupRun} {r : DescRun} {es : List (Nat × Bool)} {exc : Exc} {n : Nat}
  {ctx : Option Ctx}

/-! ### To the cup buffer -/

/-- Where a chunk begins in its destination. -/
def chunkOff (r : DescRun) (g : GroupRun) : Nat := 128 * r.d.cstr * g.chunk.1 + g.chunk.2.headD 0 * r.d.eltC.bits / 8

theorem State.epilogueStore_cup {w : State} {bs : List (Byte × Bool)} (hcup : r.d.cdst = true) :
    w.epilogueStore cl r.d r.pos g.chunk.1 (g.chunk.2.headD 0) bs none ctx =
      w.setCluster cl ((w.cluster cl).cupWrite (Desc.locOff r.d.cloc + chunkOff r g) bs) := by
  simp only [State.epilogueStore, hcup, if_true]
  rfl

section
variable (s cl h g es exc n ctx)

theorem chunkDone_cup_cluster (hcup : r.d.cdst = true) : ∃ now, (s.chunkDone cl h g r es exc n ctx).cluster cl =
    { (s.cluster cl).cupWrite (Desc.locOff r.d.cloc + chunkOff r g) (packPoison r.d.eltC.bits es) with
      me := ({ s.engine cl with holding := false } : Engine).chunkRead h g r.pos now } := by
  rw [State.chunkDone_eq, State.epilogueStore_cup hcup]
  obtain ⟨now, hcluster⟩ := State.chunkEnd_cluster ((s.chunkNoted cl exc n).setCluster cl
    (((s.chunkNoted cl exc n).cluster cl).cupWrite (Desc.locOff r.d.cloc + chunkOff r g) (packPoison r.d.eltC.bits es)))
    cl h g r.pos (es.any (·.2))
  refine ⟨now, hcluster.trans ?_⟩
  rw [State.engine, State.cluster_setCluster_self, State.chunkNoted_cluster]
  rfl

theorem chunkDone_cup_keeps (hcup : r.d.cdst = true) :
    State.Keeps [.regs, .clusters, .seq] s (s.chunkDone cl h g r es exc n ctx) := by
  rw [State.chunkDone_eq, State.epilogueStore_cup hcup]
  exact State.chunkEnd_keeps _ _ _ _ _ _ (by decide)
    (State.setCluster_keeps (by decide) (State.chunkNoted_keeps (List.Subset.refl _) s cl exc n) _ _)

theorem chunkDone_cup_others (hcup : r.d.cdst = true) : OtherClusters cl s (s.chunkDone cl h g r es exc n ctx) := by
  rw [State.chunkDone_eq, State.epilogueStore_cup hcup]
  exact fun k hk => (State.chunkEnd_others _ cl h g r.pos _ k hk).trans
    ((State.cluster_setCluster_ne _ _ hk).trans (s.chunkNoted_others cl exc n k hk))

theorem chunkDone_cup_owed (hcup : r.d.cdst = true) : (s.chunkDone cl h g r es exc n ctx).seq.owed = s.seq.owed := by
  rw [State.chunkDone_eq, State.epilogueStore_cup hcup, State.chunkEnd_owed]
  exact State.noted_owed _ _ _ _

/-- Nothing is to be heard after the write that was not to be heard before it. -/
theorem chunkDone_cup_settle (hcup : r.d.cdst = true) (hheard : s.allHeard) :
    (s.chunkDone cl h g r es exc n ctx).settle = s.chunkDone cl h g r es exc n ctx := by
  have hkeeps := chunkDone_cup_keeps s cl h g es exc n ctx hcup
  obtain ⟨hreqs, -⟩ := hkeeps.parts .reqs (by decide)
  refine State.settle_of_allHeard (State.allHeard_of hheard (fun q hq => hheard.1 q (hreqs ▸ hq))
    (chunkDone_cup_owed s cl h g es exc n ctx hcup) (hkeeps.parts .fabric (by decide)) (hkeeps.parts .link (by decide)))

end

/-! ### To memory (R99) -/

theorem State.epilogueStore_mem {w : State} {bs : List (Byte × Bool)} (hmem : r.d.cdst = false) :
    w.epilogueStore cl r.d r.pos g.chunk.1 (g.chunk.2.headD 0) bs none ctx =
      w.epilogueMem cl r.pos (r.d.cloc + BitVec.ofNat 64 (chunkOff r g)) bs (r.d.calloc == 0) ctx := by
  simp only [State.epilogueStore, hmem, Bool.false_eq_true, if_false]
  rfl

/-- Every piece lies in local HBM. -/
def State.chunkInHbm (s : State) (r : DescRun) (g : GroupRun) (len : Nat) : Prop :=
  ∀ p ∈ fillPieces (r.d.cloc + BitVec.ofNat 64 (chunkOff r g)) len, s.addrKind p.2.1 (max 1 p.2.2) = .hbm

theorem chunkStore_issued (hmem : r.d.cdst = false) (hhbm : s.chunkInHbm r g (packPoison r.d.eltC.bits es).length) :
    EpilogueIssued cl r.pos (packPoison r.d.eltC.bits es)
      (fillPieces (r.d.cloc + BitVec.ofNat 64 (chunkOff r g)) (packPoison r.d.eltC.bits es).length) (s.chunkNoted cl exc n)
      ((s.chunkNoted cl exc n).epilogueStore cl r.d r.pos g.chunk.1 (g.chunk.2.headD 0) (packPoison r.d.eltC.bits es) none
        ctx) := by
  rw [State.epilogueStore_mem hmem, State.epilogueMem_eq]
  refine State.piecesWritten_issued _ _ fun p hp => ?_
  have hunheld : (s.unheld cl).addrKind p.2.1 (max 1 p.2.2) = s.addrKind p.2.1 (max 1 p.2.2) :=
    State.addrKind_of_reg rfl rfl _ _
  rw [State.chunkNoted, State.noted_addrKind, hunheld]
  exact hhbm p hp

theorem epilogueWrite_asks (hmem : r.d.cdst = false) (hhbm : s.chunkInHbm r g (packPoison r.d.eltC.bits es).length)
    (hheard : s.allHeard)
    (hexec : exec (.epilogueWrite cl []) s = .next (s.chunkDone cl h g r es exc n ctx).settle) :
    Runs (.epilogueWrite cl []) s [.regs, .clusters, .seq, .reqs] fun t => OtherClusters cl s t
      ∧ (t.cluster cl).cup = (s.cluster cl).cup
      ∧ ∃ new : List Req, t.reqs = s.reqs ++ new
          ∧ new.map (fun q => (q.addr, q.data, q.poisoned, q.purpose)) =
            (fillPieces (r.d.cloc + BitVec.ofNat 64 (chunkOff r g)) (packPoison r.d.eltC.bits es).length).map fun p =>
              (p.2.1, (((packPoison r.d.eltC.bits es).drop p.1).take p.2.2).map (·.1),
                (((packPoison r.d.eltC.bits es).drop p.1).take p.2.2).any (·.2), Purpose.epilogue cl r.pos) := by
  obtain ⟨hkeeps, hothers, hcup, new, hreqs, hnew, hmap⟩ := chunkStore_issued (cl := cl) (exc := exc) (n := n) (ctx := ctx)
    hmem hhbm
  rw [State.chunkDone_eq] at hexec
  generalize (s.chunkNoted cl exc n).epilogueStore cl r.d r.pos g.chunk.1 (g.chunk.2.headD 0) (packPoison r.d.eltC.bits es)
    none ctx = w at hexec hkeeps hothers hcup hreqs
  have hnoted : (s.chunkNoted cl exc n).reqs = s.reqs :=
    ((s.chunkNoted_keeps (List.Subset.refl _) cl exc n).parts .reqs (by decide)).1
  have hw : State.Keeps [.regs, .clusters, .seq, .reqs] s w :=
    (State.chunkNoted_keeps (by decide) s cl exc n).trans (hkeeps.wider (by decide))
  have howed : w.seq.owed = s.seq.owed :=
    (congrArg Seq.owed (hkeeps.parts .seq (by decide))).trans (State.noted_owed _ _ _ _)
  have hu := w.chunkEnd_keeps cl h g r.pos (es.any (·.2)) (by decide) hw
  have hureqs : (w.chunkEnd cl h g r.pos (es.any (·.2))).reqs = s.reqs ++ new := by
    rw [State.chunkEnd_reqs, hreqs, hnoted]
  have hsettle := State.settle_of_allHeard (State.allHeard_of hheard
    (fun q hq => (List.mem_append.1 (hureqs ▸ hq)).elim (hheard.1 q) (hnew q)) ((w.chunkEnd_owed _ _ _ _ _).trans howed)
    (hu.parts .fabric (by decide)) (hu.parts .link (by decide)))
  obtain ⟨now, hcluster⟩ := w.chunkEnd_cluster cl h g r.pos (es.any (·.2))
  refine ⟨_, hexec.trans (congrArg Host.Outcome.next hsettle), hu.frame, fun k hk => ?_, ?_, new, hureqs, hmap⟩
  · exact (w.chunkEnd_others cl h g r.pos _ k hk).trans ((hothers k hk).trans (s.chunkNoted_others cl exc n k hk))
  · rw [hcluster]
    exact hcup.trans (by rw [State.chunkNoted_cluster])

theorem epilogueWrite_places {rest : List Nat} (hq : (s.engine cl).drainQ = h :: rest) (hcup : r.d.cdst = true)
    (hexec : exec (.epilogueWrite cl []) s = .next (s.chunkDone cl h g r es exc n ctx).settle) :
    (∃ u, exec (.epilogueWrite cl []) s = .next u.settle ∧ Frame [.regs, .clusters, .seq] s u
      ∧ OtherClusters cl s u ∧ (s.allHeard → u.settle = u)
      ∧ (u.cluster cl).cup = Mem.write (s.cluster cl).cup (Desc.locOff r.d.cloc + chunkOff r g)
          ((packPoison r.d.eltC.bits es).map (·.1))
      ∧ (g.h * g.w ≤ g.read + g.chunk.2.length →
          (u.engine cl).group h = none ∧ (u.engine cl).drainQ = rest ∧ (u.engine cl).acc h = [])
      ∧ (g.read + g.chunk.2.length < g.h * g.w →
          (u.engine cl).group h = some { g with read := g.read + g.chunk.2.length }))
    ∧ (s.allHeard → Runs (.epilogueWrite cl []) s [.regs, .clusters, .seq] fun t => OtherClusters cl s t
        ∧ (t.cluster cl).cup = Mem.write (s.cluster cl).cup (Desc.locOff r.d.cloc + chunkOff r g)
            ((packPoison r.d.eltC.bits es).map (·.1))) := by
  obtain ⟨now, hcluster⟩ := chunkDone_cup_cluster s cl h g es exc n ctx hcup
  have hframe := (chunkDone_cup_keeps s cl h g es exc n ctx hcup).frame
  have hothers := chunkDone_cup_others s cl h g es exc n ctx hcup
  have hbytes := congrArg Cluster.cup hcluster
  have hengine := congrArg Cluster.me hcluster
  refine ⟨⟨_, hexec, hframe, hothers, chunkDone_cup_settle s cl h g es exc n ctx hcup, hbytes, fun hdone => ?_,
    fun hmore => ?_⟩, fun hheard => ?_⟩
  · rw [State.engine, hengine]
    obtain ⟨hgroup, hdrainQ, hacc⟩ := Engine.chunkRead_done { s.engine cl with holding := false } r.pos now hdone
    exact ⟨hgroup, hdrainQ.trans (congrArg List.tail hq), hacc⟩
  · rw [State.engine, hengine]
    exact Engine.chunkRead_more _ _ _ hmore
  · have hsettle := chunkDone_cup_settle s cl h g es exc n ctx hcup hheard
    exact ⟨_, hexec.trans (congrArg Host.Outcome.next hsettle), hframe, hothers, hbytes⟩

end

/-- Settles O25: a chunk is written between two steps of the engine, and nothing is heard of finished requests where
nothing was to be heard before it. -/
theorem epilogueDrainsInOrder : Obligations.EpilogueDrainsInOrder := by
  refine ⟨fun s cl h rest g => epilogueDrainStart_drains, fun s cl h rest g r hq hg hdesc hdrain hcore hready hmx hrnd hpad => ?_,
    fun s cl h rest g r errs => epilogueWrite_holds⟩
  have hpos : r.pos = g.pos := Engine.desc?_pos hdesc
  rcases hconv : convertChunk r.d (g.chunk.2.map (r.epilogueValue g ((s.engine cl).acc h) g.chunk.1))
    (g.chunk.2.map fun _ => Rnd.rne) with ⟨es, sc, exc⟩
  obtain rfl : sc = none := (congrArg (·.2.1) hconv).symm.trans (convertChunk_noScale hmx _ _)
  refine ⟨es, none, exc, rfl, fun hcup => ?_, fun hmem hfree hheard a ha hhbm => ?_⟩
  · have hfree : s.epilogueBlocked cl r.d = false := by rw [State.epilogueBlocked, hcup, Bool.not_true, Bool.false_and]
    obtain ⟨n, ctx, hexec⟩ := epilogueWrite_writes hq hg hdesc hdrain hcore hready hfree hrnd hpad hconv
    exact epilogueWrite_places hq hcup hexec
  · subst ha
    obtain ⟨n, ctx, hexec⟩ := epilogueWrite_writes hq hg hdesc hdrain hcore hready hfree hrnd hpad hconv
    rw [← hpos]
    exact epilogueWrite_asks hmem hhbm hheard hexec

end Sys2Proof.Machine
end

section
/-! SUPPORT. The write of CUPSPLIT, which is locked while a job runs. -/

namespace Sys2Proof.Machine

/-! ### CUPSPLIT (R87, R88) -/

/-- The size of the TG windows. -/
def cupsplitEntry : Entry := .pers32 (mask 3 0) 2

theorem entryOf_cupsplit : entryOf 0x2500 8 = some cupsplitEntry := by decide +kernel

/-- The entry takes the field of a value that is written to it. -/
theorem fieldOf_merged_cupsplit (old v : Word64) : fieldOf (cupsplitEntry.merged old (cupsplitEntry.cut v)) 3 0 = fieldOf v 3 0 :=
  fieldOf_congr fun i _ hi => by
    rw [Entry.merged_getLsbD _ _ _ (by omega), Entry.cut_getLsbD]
    simp [cupsplitEntry, Entry.pers32, mask_getLsbD i (hi := 3) (lo := 0) (by decide) (by decide), hi,
      show i < 32 by omega]

theorem State.fits_cupsplit (s : State) {v : Word64} (h : fieldOf v 3 0 ≤ 8) : s.fits 0x2500 8 cupsplitEntry v = true := by
  have hrange : ∀ w, inRange 0x2500 8 w = decide (0 ≤ fieldOf w 3 0 ∧ fieldOf w 3 0 ≤ 8) := fun w => by simp [inRange]
  have hwo : cupsplitEntry.wo = 0 := rfl
  have hfield := fieldOf_merged_cupsplit (s.reg 0x2500 8) v
  rw [Entry.cut_of_narrow rfl] at hfield
  have hnarrow : cupsplitEntry.wide = false := rfl
  simp only [State.fits, hrange, hwo, hnarrow, Bool.false_eq_true, if_false, BitVec.ofNat_eq_ofNat, BitVec.not_zero,
    BitVec.and_allOnes, BitVec.and_zero, BitVec.or_zero, hfield, Nat.zero_le, h, and_self, decide_true]

/-- What the entry makes of a value: nothing while a cluster runs a job. -/
theorem State.writeEffect_cupsplit (s : State) (via : Via) (v nv : Word64) :
    s.writeEffect via 0x2500 8 v nv = s.unless s.clustersRun .inUse fun s => s.setReg 0x2500 8 nv := by
  simp [State.writeEffect, State.writeCompute]

/-- Settles O11: past the checks that every entry has, the write turns on whether a cluster runs a job. -/
theorem cupsplitIsLockedWhileJobsRun : Obligations.CupsplitIsLockedWhileJobsRun := by
  intro s via v hright hdomain hfield
  have hwrites {t : State} {st : Status} :=
    State.entryWrite_effect (t := t) (st := st) entryOf_cupsplit rfl hright hdomain (s.fits_cupsplit hfield)
  refine ⟨fun hrun => ?_, fun hrun => ?_⟩
  · rw [hwrites (t := s) (st := .inUse) (by rw [State.writeEffect_cupsplit, hrun]; rfl), if_neg (by decide)]
  · refine ⟨_, (hwrites (by rw [State.writeEffect_cupsplit, hrun]; rfl)).trans (congrArg (·, Status.done) (if_pos rfl)), ?_⟩
    rw [State.noteClear_of_no_w1c _ _ _ _ rfl]
    refine ⟨?_, Frame.setReg _ _ _ _, Entries.setReg _ _ _ _⟩
    rw [State.fld, State.reg_setReg_self]
    exact fieldOf_merged_cupsplit _ v

end Sys2Proof.Machine
end

section
/-! SUPPORT. A fill asks for its piece by sectors. -/

namespace Sys2Proof.Machine

theorem Engine.desc?_updDesc {e : Engine} {pos : Nat} {r : DescRun} (h : e.desc? pos = some r) {f : DescRun → DescRun}
    (hf : ∀ q, (f q).pos = q.pos) : (e.updDesc pos f).desc? pos = some (f r) := by
  have hsame : ((fun q : DescRun => q.pos == pos) ∘ fun q => if q.pos = pos then f q else q) = fun q => q.pos == pos := by
    funext q
    by_cases hq : q.pos = pos <;> simp [hq, hf]
  have hpos : r.pos = pos := Engine.desc?_pos h
  unfold Engine.desc? at h
  rw [Engine.desc?, Engine.updDesc, List.find?_map, hsame, h, Option.map_some, if_pos hpos]

/-! ### A fill of one cluster (R103, R127, R130, R145) -/

theorem State.fillTargets_single (s : State) (cl : Cl) {d : Desc} {g : Seg} (h : d.multicast g = false) :
    s.fillTargets cl d g = [(cl.val, g.pos, g)] := by
  rw [State.fillTargets, h]
  rfl

/-- The request of a fill for one sector. -/
def fillReq (cl : Cl) (g : Seg) (ctx : Option Ctx) (p : Nat × Word64 × Nat) (mark : Bool) : Req :=
  { mkReq (.engine cl) .read p.2.1 p.2.2 [] false true (.fill cl g p.1) ctx with marked := mark }

/-- Sectors in local HBM are asked for one after another; nothing but the network's requests changes. -/
theorem State.fillReqs_asked (cl : Cl) (g : Seg) (ctx : Option Ctx) (mark : State → Nat × Word64 × Nat → Bool) :
    ∀ (ps : List (Nat × Word64 × Nat)) (s : State), (∀ p ∈ ps, s.addrKind p.2.1 (max 1 p.2.2) = .hbm) →
    ∃ t, ps.foldl (fun s p => s.request (fillReq cl g ctx p (mark s p))) s = t ∧ State.Keeps [.reqs] s t
      ∧ ∃ new : List Req, t.reqs = s.reqs ++ new
        ∧ new.map (fun q => (q.addr, q.len, q.purpose)) = ps.map fun p => (p.2.1, p.2.2, Purpose.fill cl g p.1)
  | [], s, _ => ⟨s, rfl, State.Keeps.refl _ s, [], (List.append_nil _).symm, rfl⟩
  | p :: ps, s, h => by
    have hfirst : s.request (fillReq cl g ctx p (mark s p)) = s.entered (fillReq cl g ctx p (mark s p)) :=
      State.request_of_hbm (h p (List.mem_cons_self ..))
    have hkeeps := State.entered_keeps (List.mem_singleton_self _) (State.Keeps.refl [.reqs] s) (fillReq cl g ctx p (mark s p))
    obtain ⟨t, heq, hrest, new, hreqs, hmap⟩ := State.fillReqs_asked cl g ctx mark ps _ fun q hq =>
      (State.addrKind_of_reg (State.reg_of_regs (hkeeps.parts .regs (by decide)) _ _)
        (State.reg_of_regs (hkeeps.parts .regs (by decide)) _ _) q.2.1 _).trans (h q (List.mem_cons_of_mem _ hq))
    refine ⟨t, by rw [List.foldl_cons, hfirst, heq], hkeeps.trans hrest,
      s.entering (fillReq cl g ctx p (mark s p)) :: new, ?_, ?_⟩
    · rw [hreqs]
      exact List.append_assoc s.reqs [_] new
    · rw [List.map_cons, hmap]
      rfl

section
variable {s : State} {cl : Cl} {g : Seg} {r : DescRun}

/-- The piece has been asked for, and none of its bytes have come. -/
def Engine.asks (e : Engine) (g : Seg) : Engine := e.updDesc g.pos fun q => { q with asked := (g, []) :: q.asked }

theorem Engine.asks_asked {e : Engine} (hdesc : e.desc? g.pos = some r) : (e.asks g).asked g = true := by
  have hasks : (e.asks g).desc? g.pos = some { r with asked := (g, []) :: r.asked } :=
    Engine.desc?_updDesc hdesc fun _ => rfl
  rw [Engine.asked, hasks]
  exact List.any_eq_true.2 ⟨_, List.mem_cons_self .., beq_self_eq_true g⟩

theorem State.fillIssue_eq (hsingle : r.d.multicast g = false) :
    ∃ (ctx : Option Ctx) (mark : State → Nat × Word64 × Nat → Bool), s.fillIssue cl r g =
    (fillPieces (r.d.segBytes g).1 (r.d.segBytes g).2).foldl (fun s p => s.request (fillReq cl g ctx p (mark s p)))
      (s.setEngine cl ((s.engine cl).asks g)) := by
  rw [State.fillIssue, s.fillTargets_single cl hsingle]
  exact ⟨_, _, rfl⟩

section
variable (hfill : (s.engine cl).fillable g = some r) (hdesc : (s.engine cl).desc? g.pos = some r)
  (hsingle : r.d.multicast g = false)
include hfill hdesc hsingle

theorem fillRequest_asks (hruns : s.engineRuns cl r = true) (hvalid : r.d.segValid g = true) (hcan : s.canTake cl r g = true)
    (hroom : s.fillsOut cl + (fillPieces (r.d.segBytes g).1 (r.d.segBytes g).2).length ≤ 512)
    (hhbm : ∀ p ∈ fillPieces (r.d.segBytes g).1 (r.d.segBytes g).2, s.addrKind p.2.1 (max 1 p.2.2) = .hbm) :
    Runs (.fillRequest cl g) s [.clusters, .reqs] fun t => OtherClusters cl s t
      ∧ (t.cluster cl).cup = (s.cluster cl).cup ∧ (t.engine cl).asked g = true
      ∧ ∃ new : List Req, t.reqs = s.reqs ++ new
          ∧ new.map (fun q => (q.addr, q.len, q.purpose)) =
            (fillPieces (r.d.segBytes g).1 (r.d.segBytes g).2).map fun p => (p.2.1, p.2.2, Purpose.fill cl g p.1) := by
  have hgo : s.fillRequest cl g = s.fillIssue cl r g := by
    simp only [State.fillRequest, hfill, hruns, hvalid, hsingle, s.fillTargets_single cl hsingle, List.all_cons, hdesc, hcan,
      List.all_nil, hroom, Bool.not_false, Bool.true_or, Bool.and_self, decide_true, if_true]
  obtain ⟨ctx, mark, hissue⟩ := State.fillIssue_eq (s := s) (cl := cl) hsingle
  obtain ⟨t, ht, hkeeps, new, hreqs, hmap⟩ := State.fillReqs_asked cl g ctx mark _ (s.setEngine cl ((s.engine cl).asks g)) hhbm
  have hclusters : t.clusters = (s.setEngine cl ((s.engine cl).asks g)).clusters := hkeeps.parts .clusters (by decide)
  have hcluster := (State.cluster_of_clusters hclusters cl).trans (s.cluster_setEngine cl _)
  refine ⟨t, congrArg Host.Outcome.next (hgo.trans (hissue.trans ht)),
    ((State.setEngine_keeps (by decide) (State.Keeps.refl _ s) _ _).trans (hkeeps.wider (by decide))).frame,
    fun k hk => (State.cluster_of_clusters hclusters k).trans (s.setEngine_others cl _ k hk), ?_, ?_, new, hreqs, hmap⟩
  · rw [hcluster]
  · rw [State.engine, hcluster]
    exact Engine.asks_asked hdesc

/-- A fill that its cluster cannot take waits. -/
theorem fillRequest_waits (hcan : s.canTake cl r g = false) : exec (.fillRequest cl g) s = .next s := by
  have hgo : s.fillRequest cl g = s := by
    simp only [State.fillRequest, hfill, s.fillTargets_single cl hsingle, List.all_cons, hdesc, hcan, Bool.false_and,
      Bool.and_false, Bool.false_eq_true, if_false]
  exact congrArg Host.Outcome.next hgo

end

end

end Sys2Proof.Machine
end

section
/-! SUPPORT. The bytes of a piece come and are placed in the cup buffer. -/

namespace Sys2Proof.Machine

/-! ### The bytes of a piece (R103) -/

/-- Bytes from an offset of a piece on, as they are held until all have come: each with its place. -/
def cameFrom (off : Nat) (bs : List (Byte × Bool)) : List (Nat × Byte × Bool) :=
  bs.zipIdx.map fun b => (off + b.2, b.1.1, b.1.2)

section
variable (off : Nat) (bs : List (Byte × Bool))

theorem cameFrom_length : (cameFrom off bs).length = bs.length := by simp [cameFrom]

theorem cameFrom_find? {i : Nat} (hi : i < bs.length) :
    (cameFrom off bs).find? (fun b => b.1 == off + i) = some (off + i, bs[i]) := by
  have hplace : ∀ (j : Nat) (hj : j < (cameFrom off bs).length), (cameFrom off bs)[j].1 = off + j :=
    fun j hj => by simp [cameFrom]
  refine List.find?_eq_some_iff_getElem.2 ⟨beq_self_eq_true _, i, by rwa [cameFrom_length], by simp [cameFrom],
    fun j hj => ?_⟩
  simp [hplace, hj.ne]

end

/-- The bytes of a piece, once all have come. -/
def pieceOf (n : Nat) (came : List (Nat × Byte × Bool)) : List (Byte × Bool) :=
  (List.range n).map fun i => match came.find? fun b => b.1 == i with
    | some b => b.2
    | none => ((0 : Byte), true)

theorem pieceOf_cameFrom (bs : List (Byte × Bool)) : pieceOf bs.length (cameFrom 0 bs) = bs := by
  refine List.ext_getElem (by simp [pieceOf]) fun i _ hi => ?_
  have hfind := cameFrom_find? 0 bs hi
  rw [Nat.zero_add] at hfind
  simp only [pieceOf, List.getElem_map, List.getElem_range, hfind]

/-! ### The piece is placed -/

section
variable {g : Seg} {r : DescRun} {o n : Nat} {bs : List (Byte × Bool)}

/-- A descriptor one of whose pieces is staged. -/
def DescRun.stage (r : DescRun) (g : Seg) : DescRun :=
  { r with staged := g :: r.staged, asked := r.asked.filter fun a => a.1 ≠ g }

/-- Elements of one run are written at their slot, and their piece is staged. -/
theorem Cluster.place_run {x : Cluster} {pos : Nat} (hdesc : x.me.desc? pos = some r) (helem : g.isElem = true)
    (hplace : r.d.places g = [(0, o, n)]) (hlen : bs.length = n) :
    x.place pos g bs = { x.cupWrite o bs with me := x.me.updDesc pos fun q => q.stage g } := by
  have hall : (bs.drop 0).take n = bs := by rw [List.drop_zero, ← hlen, List.take_length]
  simp only [Cluster.place, hdesc, helem, if_true, hplace, List.foldl_cons, List.foldl_nil, hall]
  rfl

/-- Bytes have been added to those of a piece that had come. -/
def DescRun.receive (r : DescRun) (g : Seg) (came : List (Nat × Byte × Bool)) : DescRun :=
  { r with asked := r.asked.map fun a => if a.1 = g then (g, a.2 ++ came) else a }

theorem DescRun.receive_asked (hasked : r.asked = [(g, [])]) (came : List (Nat × Byte × Bool)) :
    (r.receive g came).asked = [(g, came)] := by
  simp [DescRun.receive, hasked]

variable {s : State} {cl : Cl}

/-- The whole of a piece comes to the cluster that asked for it. -/
theorem State.fillArrive_run (hdesc : (s.engine cl).desc? g.pos = some r) (hasked : r.asked = [(g, [])])
    (helem : g.isElem = true) (hplace : r.d.places g = [(0, o, n)]) (hseg : (r.d.segBytes g).2 = n) (hlen : bs.length = n) :
    ∃ r' : DescRun, r'.has g = true ∧ r'.words = r.words ∧ ((s.fillArrive cl g.pos g 0 bs).engine cl).desc? g.pos = some r'
      ∧ ((s.fillArrive cl g.pos g 0 bs).cluster cl).cup = Mem.write (s.cluster cl).cup o (bs.map (·.1))
      ∧ OtherClusters cl s (s.fillArrive cl g.pos g 0 bs) := by
  generalize hq : r.receive g (cameFrom 0 bs) = q
  generalize he : (s.engine cl).updDesc g.pos (fun q => q.receive g (cameFrom 0 bs)) = e
  have hcame : e.desc? g.pos = some q := by
    rw [← he, ← hq]
    exact Engine.desc?_updDesc hdesc fun _ => rfl
  have hd : q.d = r.d := hq ▸ rfl
  have hwhole : q.asked.find? (fun a => a.1 == g && decide ((q.d.segBytes g).2 ≤ a.2.length)) = some (g, cameFrom 0 bs) := by
    rw [hd, hseg, ← hq, DescRun.receive_asked hasked]
    simp [cameFrom_length, hlen]
  have hbytes : pieceOf (q.d.segBytes g).2 (cameFrom 0 bs) = bs := by
    rw [hd, hseg, ← hlen, pieceOf_cameFrom]
  have harrive : s.fillArrive cl g.pos g 0 bs = (s.setEngine cl e).setCluster cl
      (((s.setEngine cl e).cluster cl).place g.pos g bs) := by
    unfold State.fillArrive
    extract_lets new w
    have hw : w = s.setEngine cl e := congrArg (s.setEngine cl) he
    rw [hw, State.engine_setEngine_self, hcame]
    dsimp only
    rw [hwhole]
    exact congrArg (fun b => (s.setEngine cl e).setCluster cl (((s.setEngine cl e).cluster cl).place g.pos g b)) hbytes
  rw [harrive, s.cluster_setEngine, Cluster.place_run hcame helem (hd ▸ hplace) hlen, State.engine, State.cluster_setCluster_self]
  exact ⟨q.stage g, decide_eq_true (List.mem_cons_self ..), hq ▸ rfl, Engine.desc?_updDesc hcame fun _ => rfl, rfl,
    fun k hk => (State.cluster_setCluster_ne _ _ hk).trans (s.setEngine_others cl e k hk)⟩

end

theorem fillDataReturn_places {s : State} {id : Nat} {q : Req} {cl : Cl} {g : Seg} {r : DescRun} {data : List Byte}
    {pois : Bool} {o n : Nat} (hreq : s.req? id = some q) (hfor : q.purpose = .fill cl g 0) (hroute : q.route = [])
    (hdone : q.stage = .done data pois) (hdesc : (s.engine cl).desc? g.pos = some r) (hasked : r.asked = [(g, [])])
    (hsingle : r.d.multicast g = false) (helem : g.isElem = true) (hplace : r.d.places g = [(0, o, n)])
    (hseg : (r.d.segBytes g).2 = n) (hlen : data.length = n) :
    Runs (.fillDataReturn id) s [.clusters, .reqs] fun t => OtherClusters cl s t
      ∧ (t.cluster cl).cup = Mem.write (s.cluster cl).cup o data
      ∧ (∃ r', (t.engine cl).desc? g.pos = some r' ∧ r'.has g = true ∧ r'.words = r.words)
      ∧ t.reqs = s.reqs.filter fun p => p.id ≠ id := by
  have hgo : s.fillReturn id = (s.dropReq id).fillArrive cl g.pos g 0 (data.map (·, pois)) := by
    have hfinished : q.finished = true := by rw [Req.finished, hdone, hroute]; rfl
    have hdesc' : ((s.dropReq id).engine cl).desc? g.pos = some r := hdesc
    simp only [State.fillReturn, hreq, hfor, hfinished, hdone, hdesc', State.fillTargets_single _ cl hsingle, Bool.not_true,
      Bool.false_eq_true, if_false, List.foldl_cons, List.foldl_nil]
  generalize hw : s.dropReq id = w at hgo
  have hdrop : State.Keeps [.reqs] s w := hw ▸ State.dropReq_keeps (List.Subset.refl _) (State.Keeps.refl _ s) id
  have hclusters : w.clusters = s.clusters := hdrop.parts .clusters (by decide)
  have hreqs : w.reqs = s.reqs.filter fun p => p.id ≠ id := hw ▸ rfl
  have hdesc' : (w.engine cl).desc? g.pos = some r := by rw [State.engine, State.cluster_of_clusters hclusters]; exact hdesc
  obtain ⟨r', hhas, hwords, hstaged, hcup, hothers⟩ := State.fillArrive_run (bs := data.map (·, pois)) hdesc' hasked helem
    hplace hseg (by rw [List.length_map, hlen])
  rw [List.map_map, Function.comp_def, List.map_id'] at hcup
  have harrive : State.Keeps [.clusters] w (w.fillArrive cl g.pos g 0 (data.map (·, pois))) :=
    State.fillArrive_keeps (List.Subset.refl _) (State.Keeps.refl _ w) _ _ _ _ _
  exact ⟨_, congrArg Host.Outcome.next hgo, ((hdrop.wider (by decide)).trans (harrive.wider (by decide))).frame,
    fun k hk => (hothers k hk).trans (State.cluster_of_clusters hclusters k),
    hcup.trans (by rw [State.cluster_of_clusters hclusters]), ⟨r', hstaged, hhas, hwords⟩,
    ((harrive.parts .reqs (by decide)).1).trans hreqs⟩

/-- Settles O26: a fill of one cluster asks for every sector of its piece where the cluster can take it, and else waits; the
bytes that come make the piece's run. -/
theorem fillsAskAndPlace : Obligations.FillsAskAndPlace :=
  ⟨fun _ _ _ _ hfill hdesc hruns hvalid hcan hsingle => fillRequest_asks hfill hdesc hsingle hruns hvalid hcan,
    fun _ _ _ _ hfill hdesc hsingle => fillRequest_waits hfill hdesc hsingle,
    fun _ _ _ _ _ _ _ _ _ _ hreq hfor hroute hdone hdesc hasked hsingle helem hplace hseg hlen _ =>
      fillDataReturn_places hreq hfor hroute hdone hdesc hasked hsingle helem hplace hseg hlen⟩

end Sys2Proof.Machine
end

section
/-! SUPPORT. The kill of a context leaves it killed. -/

namespace Sys2Proof.Machine

/-! ### The kill of a context (R267, R314) -/

/-- No fence tag of the context is counted after a kill. -/
theorem State.killWork_tags (s : State) (c : Nat) (b : Blame) (records : Bool) :
    ∀ e ∈ (s.killWork c b records).seq.tags, e.1 / 256 ≠ c := by
  unfold State.killWork
  generalize List.range 8 = rings
  extract_lets cls s1 s2 s3 s4 s5 s6
  clear_value s6
  exact fun e he => of_decide_eq_true (List.mem_filter.1 he).2

theorem State.tagBal_eq_zero {s : State} {c tag : Nat} (h : ∀ e ∈ s.seq.tags, e.1 / 256 ≠ c) (ht : tag < 256) :
    s.tagBal c tag = 0 :=
  Tbl.get_of_notMem 0 fun e he hkey => h e he (by rw [hkey, tagKey]; omega)

/-- The context is HALTED with the kill's cause, it has no jobs, and its fence tags are 0. -/
theorem State.killQuiet_killed (s : State) (c : Nat) {cause : Nat} (hcause : cause < 256) (b : Blame) :
    Killed c cause (s.killQuiet c cause b) := by
  obtain ⟨hnone, -⟩ := s.killWork_spec c b
  have htags := s.killWork_tags c b true
  rw [State.killQuiet_eq]
  generalize s.killWork c b true = w at hnone htags ⊢
  obtain ⟨hjobs, hhalted⟩ := State.ctxDead_setHalted cause hnone
  refine ⟨hhalted, ?_, hjobs, fun tag ht => State.tagBal_eq_zero (by exact htags) ht⟩
  rw [State.setCtxState, State.fld_setFld_apart _ _ _ _ (by decide) (by decide) (by decide) (by decide),
    State.fld_setFld_self _ _ _ _ (by decide) (by decide)]
  exact Nat.mod_eq_of_lt hcause

/-- A kill that work of a cluster raises kills the context of the cluster's job. -/
theorem killFrom_kills {s : State} {i : Instr} {cl cause pos : Nat} {j : Job} (hjob : s.jobOn cl = some j)
    (hcause : cause < 256) (hexec : exec i s = .next (s.killFrom cl cause pos)) :
    Runs i s killParts fun t => Killed j.ctx.val cause t := by
  refine ⟨_, hexec, (State.killFrom_keeps (by decide) (State.Keeps.refl _ s) cl cause pos).frame, ?_⟩
  rw [State.killFrom, hjob]
  exact State.killQuiet_killed _ _ hcause _

end Sys2Proof.Machine
end

section
/-! SUPPORT. A multicast set gathers its members, or kills. -/

namespace Sys2Proof.Machine

/-! ### The start of a multicast fill (R105) -/

/-- A descriptor of a multicast set has joined it. -/
def Engine.joined (e : Engine) (pos : Nat) : Engine := e.updDesc pos fun q => { q with joined := true }

/-- A cluster of a leaf joins the set of a tag, where it has come to the set's fill. -/
def State.mcJoin (leaf tag : Nat) (s : State) (i : Nat) : State :=
  match (s.engine (16 * leaf + i)).arriving with
  | some r =>
    if r.d.mctag = tag then s.setEngine (16 * leaf + i) ((s.engine (16 * leaf + i)).joined r.pos) else s
  | none => s

theorem State.mcStart_eq (s : State) (leaf tag : Nat) (mask : BitVec 16) :
    s.mcStart leaf tag mask = ((List.range 16).filter fun i => mask.getLsbD i).foldl (State.mcJoin leaf tag) s := rfl

section
variable {s : State} {leaf tag : Nat}

theorem State.mcJoin_of_arriving {i : Nat} {r : DescRun} (harr : (s.engine (16 * leaf + i)).arriving = some r)
    (htag : r.d.mctag = tag) :
    s.mcJoin leaf tag i = s.setEngine (16 * leaf + i) ((s.engine (16 * leaf + i)).joined r.pos) := by
  rw [State.mcJoin, harr]
  exact if_pos htag

theorem State.mcJoin_others (s : State) (leaf tag i : Nat) : OtherClusters (16 * leaf + i) s (s.mcJoin leaf tag i) := by
  intro k hk
  unfold State.mcJoin
  split
  · split
    · exact s.setEngine_others _ _ k hk
    · rfl
  · rfl

theorem State.mcJoins_cluster_ne (l : List Nat) (s : State) {k : Nat} (h : ∀ i ∈ l, k ≠ 16 * leaf + i) :
    (l.foldl (State.mcJoin leaf tag) s).cluster k = s.cluster k := by
  induction l generalizing s with
  | nil => rfl
  | cons i l ih =>
    exact (ih _ fun j hj => h j (List.mem_cons_of_mem _ hj)).trans
      (s.mcJoin_others leaf tag i k (h i (List.mem_cons_self ..)))

/-- Each member joins on its own cluster, whenever its turn is. -/
theorem State.mcJoins_engine {l : List Nat} (hl : l.Nodup) {i : Nat} (hi : i ∈ l) {r : DescRun} (s : State)
    (harr : (s.engine (16 * leaf + i)).arriving = some r) (htag : r.d.mctag = tag) :
    (l.foldl (State.mcJoin leaf tag) s).engine (16 * leaf + i) = (s.engine (16 * leaf + i)).joined r.pos := by
  induction l generalizing s with
  | nil => exact absurd hi List.not_mem_nil
  | cons j l ih =>
    obtain ⟨hj, hl⟩ := List.nodup_cons.1 hl
    rw [List.foldl_cons]
    by_cases hij : i = j
    · subst hij
      have hrest : ∀ k ∈ l, 16 * leaf + i ≠ 16 * leaf + k := fun k hk heq => hj (Nat.add_left_cancel heq ▸ hk)
      rw [State.engine, State.mcJoins_cluster_ne l _ hrest, State.mcJoin_of_arriving harr htag]
      exact State.engine_setEngine_self _ _ _
    · have hfirst : (s.mcJoin leaf tag j).engine (16 * leaf + i) = s.engine (16 * leaf + i) :=
        congrArg Cluster.me (s.mcJoin_others leaf tag j _ (by omega))
      exact (ih hl ((List.mem_cons.1 hi).resolve_left hij) _ (hfirst ▸ harr)).trans (by rw [hfirst])

end

/-! ### A cluster in the mask of a set -/

/-- The bit of a cluster among those of its leaf. -/
def memberBit (cl : Nat) : BitVec 16 := 1 <<< (cl % 16)

theorem memberBit_eq (cl : Nat) : memberBit cl = (1 : BitVec 16) <<< (cl % 16) :=
  BitVec.eq_of_toNat_eq (by simp [memberBit])

theorem memberBit_getLsbD (cl : Nat) {i : Nat} (hi : i < 16) : (memberBit cl).getLsbD i = decide (i = cl % 16) := by
  rw [memberBit_eq, getLsbD_one_shiftLeft _ hi]

theorem memberBit_getLsbD_self (cl : Nat) : (memberBit cl).getLsbD (cl % 16) = true := by
  rw [memberBit_getLsbD cl (Nat.mod_lt _ (by decide))]
  exact decide_eq_true rfl

theorem leafOf_add_mod (cl : Nat) : 16 * leafOf cl + cl % 16 = cl := Nat.div_add_mod cl 16

section
variable {s : State} {cl : Cl} {r : DescRun} {mask : BitVec 16}

/-- A member of the set that starts begins its fill. -/
theorem State.mcStart_engine (harr : (s.engine cl).arriving = some r) (hmem : mask.getLsbD (cl.val % 16) = true) :
    (s.mcStart (leafOf cl) r.d.mctag mask).engine cl = (s.engine cl).joined r.pos := by
  have hi : cl.val % 16 ∈ (List.range 16).filter fun i => mask.getLsbD i :=
    List.mem_filter.2 ⟨List.mem_range.2 (Nat.mod_lt _ (by decide)), hmem⟩
  have heng := State.mcJoins_engine (leaf := leafOf cl) (tag := r.d.mctag) (List.nodup_range.filter _) hi (r := r) s
  rw [leafOf_add_mod] at heng
  exact heng harr rfl

/-- A set of one cluster starts on that one alone. -/
theorem State.mcStart_single_others (s : State) (cl : Cl) (tag : Nat) :
    OtherClusters cl s (s.mcStart (leafOf cl) tag (memberBit cl)) := fun k hk =>
  State.mcJoins_cluster_ne _ s fun i hi heq => by
    obtain ⟨hlt, hbit⟩ := List.mem_filter.1 hi
    rw [memberBit_getLsbD _ (List.mem_range.1 hlt)] at hbit
    exact hk (by rw [heq, of_decide_eq_true hbit, leafOf_add_mod])

/-! ### A member comes (R104 to R106) -/

/-- The set with one more member come. -/
def Mcast.joinedBy (m : Mcast) (cl : Nat) : Mcast := { m with arrived := m.arrived ||| memberBit cl }

theorem State.setMcasts_keeps {C : List Part} (hc : Part.mcasts ∈ C) (s : State) (ms : List Mcast) :
    State.Keeps C s { s with mcasts := ms } :=
  State.Keeps.ofFields (State.Keeps.setMcasts hc (State.Keeps.refl C s).toFields)

variable {job : Nat} (harr : (s.engine cl).arriving = some r) (hjob : (s.cluster cl).job = some job)
  (hruns : s.engineRuns cl r = true) (hfree : s.fwaitFree cl r.d = true)
include harr hjob hruns hfree

/-- With no set of the tag, the member begins alone or founds one. -/
theorem State.mcArrive_first (hnone : s.mcasts.find? (fun m => m.is job (leafOf cl) r.d.mctag) = none) :
    s.mcArrive cl = if memberBit cl = r.d.mcmask then s.mcStart (leafOf cl) r.d.mctag r.d.mcmask
      else { s with mcasts := s.mcasts ++
        [⟨job, leafOf cl, r.d.mctag, r.d.mcmask, r.d.mcName, memberBit cl, s.time.core⟩] } := by
  simp only [State.mcArrive, harr, hjob, hruns, hfree, hnone, Bool.not_true, Bool.or_self, Bool.false_eq_true, if_false]
  rfl

section
variable {m : Mcast} (hfind : s.mcasts.find? (fun m => m.is job (leafOf cl) r.d.mctag) = some m)
include hfind

/-- A member that does not name its set alike kills. -/
theorem State.mcArrive_unlike (h : m.name ≠ r.d.mcName ∨ m.mask ≠ r.d.mcmask) :
    s.mcArrive cl = s.killFrom cl 0x13 r.pos := by
  simp only [State.mcArrive, harr, hjob, hruns, hfree, hfind, Bool.not_true, Bool.or_self, Bool.false_eq_true, if_false]
  exact if_pos h

/-- A member that names its set alike completes it or joins it. -/
theorem State.mcArrive_alike (hname : m.name = r.d.mcName) (hmask : m.mask = r.d.mcmask) :
    s.mcArrive cl = if (m.joinedBy cl).arrived = m.mask then
        ({ s with mcasts := s.mcasts.filter fun q => !q.is job (leafOf cl) r.d.mctag }).mcStart (leafOf cl) r.d.mctag m.mask
      else { s with mcasts := s.mcasts.map fun q => if q.is job (leafOf cl) r.d.mctag then m.joinedBy cl else q } := by
  have hlike : ¬ (m.name ≠ r.d.mcName ∨ m.mask ≠ r.d.mcmask) := fun h => h.elim (· hname) (· hmask)
  simp only [State.mcArrive, harr, hjob, hruns, hfree, hfind, Bool.not_true, Bool.or_self, Bool.false_eq_true, if_false]
  exact if_neg hlike

end

theorem multicastMemberArrive_founds (hnone : s.mcasts.find? (fun m => m.is job (leafOf cl) r.d.mctag) = none)
    (hmore : memberBit cl ≠ r.d.mcmask) :
    Runs (.multicastMemberArrive cl) s [.mcasts] fun t =>
      t.mcasts = s.mcasts ++ [⟨job, leafOf cl, r.d.mctag, r.d.mcmask, r.d.mcName, memberBit cl, s.time.core⟩] := by
  have heq := State.mcArrive_first harr hjob hruns hfree hnone
  rw [if_neg hmore] at heq
  exact ⟨_, congrArg Host.Outcome.next heq, (s.setMcasts_keeps (List.mem_singleton_self _) _).frame, rfl⟩

theorem multicastMemberArrive_alone (hnone : s.mcasts.find? (fun m => m.is job (leafOf cl) r.d.mctag) = none)
    (hall : memberBit cl = r.d.mcmask) :
    Runs (.multicastMemberArrive cl) s [.clusters] fun t => OtherClusters cl s t
      ∧ t.engine cl = (s.engine cl).joined r.pos := by
  have heq := State.mcArrive_first harr hjob hruns hfree hnone
  rw [if_pos hall, ← hall] at heq
  exact ⟨_, congrArg Host.Outcome.next heq, (State.mcStart_keeps (by decide) (State.Keeps.refl _ s) _ _ _).frame,
    s.mcStart_single_others cl _, State.mcStart_engine harr (memberBit_getLsbD_self cl)⟩

section
variable {m : Mcast} (hfind : s.mcasts.find? (fun m => m.is job (leafOf cl) r.d.mctag) = some m)
  (hname : m.name = r.d.mcName) (hmask : m.mask = r.d.mcmask)
include hfind hname hmask

theorem multicastMemberArrive_joins (hmore : m.arrived ||| memberBit cl ≠ m.mask) :
    Runs (.multicastMemberArrive cl) s [.mcasts] fun t =>
      ∃ m' ∈ t.mcasts, m'.is job (leafOf cl) r.d.mctag = true ∧ m'.arrived = m.arrived ||| memberBit cl := by
  have heq := State.mcArrive_alike harr hjob hruns hfree hfind hname hmask
  rw [if_neg (by exact hmore)] at heq
  have his : m.is job (leafOf cl) r.d.mctag = true :=
    List.find?_some (p := fun m : Mcast => m.is job (leafOf cl) r.d.mctag) hfind
  exact ⟨_, congrArg Host.Outcome.next heq, (s.setMcasts_keeps (List.mem_singleton_self _) _).frame, m.joinedBy cl,
    List.mem_map.2 ⟨m, List.mem_of_find?_eq_some hfind, if_pos his⟩, his, rfl⟩

theorem multicastMemberArrive_starts (hall : m.arrived ||| memberBit cl = m.mask) :
    Runs (.multicastMemberArrive cl) s [.mcasts, .clusters] fun t =>
      t.mcasts = (s.mcasts.filter fun q => !q.is job (leafOf cl) r.d.mctag)
      ∧ t.engine cl = (s.engine cl).joined r.pos := by
  have heq := State.mcArrive_alike harr hjob hruns hfree hfind hname hmask
  rw [if_pos (by exact hall)] at heq
  generalize hw : ({ s with mcasts := s.mcasts.filter fun q => !q.is job (leafOf cl) r.d.mctag } : State) = w at heq
  have hcome : m.mask.getLsbD (cl.val % 16) = true := by
    rw [← hall, BitVec.getLsbD_or, memberBit_getLsbD_self, Bool.or_true]
  have hstart : State.Keeps [.clusters] w (w.mcStart (leafOf cl) r.d.mctag m.mask) :=
    State.mcStart_keeps (by decide) (State.Keeps.refl _ w) _ _ _
  have hkeeps : State.Keeps [.mcasts, .clusters] s w := hw ▸ s.setMcasts_keeps (by decide) _
  have hsets : (w.mcStart (leafOf cl) r.d.mctag m.mask).mcasts = w.mcasts := hstart.parts .mcasts (by decide)
  subst hw
  exact ⟨_, congrArg Host.Outcome.next heq, (hkeeps.trans (hstart.wider (by decide))).frame, hsets, State.mcStart_engine harr hcome⟩

end

end

/-! ### A set has waited too long (R106) -/

theorem State.mcTimeout_kills {s : State} {cl : Cl} {m : Mcast}
    (hfind : s.mcasts.find? (fun m => some m.job == (s.cluster cl).job && m.leaf == leafOf cl
      && m.arrived.getLsbD (cl.val % 16) && s.passedClk m.since (2 ^ s.fld 0x2500 0x0A 4 0)) = some m) :
    ∃ pos, s.mcTimeout cl = s.killFrom cl 0x13 pos := by
  simp only [State.mcTimeout, hfind]
  exact ⟨_, rfl⟩

/-- Settles O27: whether a set of the tag stands, and names what the member names, decides between the arrivals; where the fill
begins, each member joins on its own cluster, whatever the others do. -/
theorem multicastSetsGatherOrKill : Obligations.MulticastSetsGatherOrKill := by
  refine ⟨fun s cl r job harr hjob hruns hfree => ⟨fun hnone => ⟨?_, ?_⟩, fun m hfind hname hmask => ⟨?_, ?_⟩,
    fun m j hfind hunlike hon => ?_⟩, fun s cl m j hon hfind => ?_⟩
  · rw [← memberBit_eq]
    exact multicastMemberArrive_founds harr hjob hruns hfree hnone
  · rw [← memberBit_eq]
    exact multicastMemberArrive_alone harr hjob hruns hfree hnone
  · exact multicastMemberArrive_joins harr hjob hruns hfree hfind hname hmask
  · exact multicastMemberArrive_starts harr hjob hruns hfree hfind hname hmask
  · exact killFrom_kills hon (by decide)
      (congrArg Host.Outcome.next (State.mcArrive_unlike harr hjob hruns hfree hfind hunlike.symm))
  · obtain ⟨pos, heq⟩ := State.mcTimeout_kills hfind
    exact killFrom_kills hon (by decide) (congrArg Host.Outcome.next heq)

end Sys2Proof.Machine
end

section
/-! SUPPORT. An engine reads its descriptors, checks them, and goes on, stops or kills. -/

namespace Sys2Proof.Machine

/-! ### The descriptors of an engine keep their words -/

namespace Engine

variable (e : Engine)

theorem updDesc_words (pos : Nat) {f : DescRun → DescRun} (hf : ∀ q, (f q).words = q.words) :
    (e.updDesc pos f).descs.map (·.words) = e.descs.map (·.words) := by
  rw [Engine.updDesc, List.map_map]
  refine List.map_congr_left fun q _ => ?_
  by_cases hq : q.pos = pos <;> simp [hq, hf]

theorem arm_words (now : Nat) : (e.arm now).descs.map (·.words) = e.descs.map (·.words) := by
  unfold Engine.arm
  split
  · split
    · rfl
    · exact e.updDesc_words _ fun _ => rfl
  · rfl

end Engine

/-! ### The read of a descriptor (R118) -/

/-- The read of its next descriptor is out. -/
def Engine.awaits (e : Engine) : Engine := { e with reading := true }

/-- The read of a cluster's descriptor at an address. -/
def descrReq (cl : Cl) (pa : Nat) (ctx : Option Ctx) : Req :=
  mkReq (.engine cl) .read (localAddr pa) 128 [] false true (.descr cl) ctx

section
variable {s : State} {cl : Cl}

theorem descriptorRead_asks (hfree : s.engineFree cl = true) (hjob : (s.cluster cl).job.isSome = true)
    (hended : (s.engine cl).ended = false) (hreading : (s.engine cl).reading = false)
    (hroom : ((s.engine cl).descs.filter fun r => !r.issueEnd).length < 2)
    (hhbm : s.addrKind (localAddr (s.engine cl).next) 128 = .hbm) :
    Runs (.descriptorRead cl) s [.clusters, .reqs] fun t => OtherClusters cl s t
      ∧ t.engine cl = { s.engine cl with reading := true }
      ∧ ∃ r, t.reqs = s.reqs ++ [r] ∧ r.purpose = .descr cl ∧ r.kind = .read
          ∧ r.addr = localAddr (s.engine cl).next ∧ r.len = 128 ∧ r.stage = .waiting := by
  have hmay : (s.engineFree cl && (s.cluster cl).job.isSome && !(s.engine cl).ended && !(s.engine cl).reading
      && decide (((s.engine cl).descs.filter fun r => !r.issueEnd).length < 2)) = true := by
    simp [hfree, hjob, hended, hreading, hroom]
  generalize hw : s.setEngine cl (s.engine cl).awaits = w
  have hask : s.descriptorRead cl = w.request (descrReq cl (s.engine cl).next ((w.jobOn cl).map (·.ctx))) :=
    hw ▸ if_pos hmay
  have henter : ∀ ctx, w.request (descrReq cl (s.engine cl).next ctx) = w.entered (descrReq cl (s.engine cl).next ctx) :=
    fun _ => hw ▸ State.request_of_hbm hhbm
  have hgo := hask.trans (henter _)
  subst hw
  refine ⟨_, congrArg Host.Outcome.next hgo,
    (State.entered_keeps (by decide) (State.setEngine_keeps (by decide) (State.Keeps.refl _ s) _ _) _).frame,
    fun k hk => (State.entered_cluster _ _ _).trans (s.setEngine_others cl _ k hk), ?_, _, rfl, rfl, rfl, rfl, rfl, rfl⟩
  rw [State.engine, State.entered_cluster, State.cluster_setEngine]
  rfl

/-! ### Its return (R119, R145, R146) -/

/-- The check of a descriptor does not see that its read has been dropped. -/
theorem State.checkDesc_dropReq (s : State) (id : Nat) (cl : Nat) (d : Desc) : (s.dropReq id).checkDesc cl d = s.checkDesc cl d :=
  rfl

/-- The checks that kill carry the causes of alignment and of size. -/
theorem State.checkDesc_kill_lt {c : Nat} {d : Desc} (h : s.checkDesc cl d = some (.kill c)) : c < 256 := by
  unfold State.checkDesc at h
  split_ifs at h <;> cases h <;> decide

variable {r : Req} (hcame : s.reqs.find? (fun r => r.purpose == .descr cl && r.finished) = some r)
include hcame

section
variable {data : List Byte} (hdone : r.stage = .done data false)
include hdone

theorem descriptorReadReturn_joins (hgood : s.checkDesc cl (Desc.ofWords (leWords data 16)) = none) :
    Runs (.descriptorReadReturn cl) s [.clusters, .reqs] fun t => OtherClusters cl s t
      ∧ (t.engine cl).descs.map (·.words) = (s.engine cl).descs.map (·.words) ++ [leWords data 16]
      ∧ (t.engine cl).nextPos = (s.engine cl).nextPos + 1 ∧ (t.engine cl).reading = false
      ∧ (t.engine cl).next = (s.engine cl).next + 128 * (Desc.ofWords (leWords data 16)).link
      ∧ (t.engine cl).ended = ((Desc.ofWords (leWords data 16)).link == 0)
      ∧ t.reqs = s.reqs.filter fun q => q.id ≠ r.id := by
  have hgo : s.descriptorReturn cl = (s.dropReq r.id).acceptDesc cl (leWords data 16) := by
    simp only [State.descriptorReturn, hcame, hdone, State.checkDesc_dropReq, hgood]
  refine ⟨_, congrArg Host.Outcome.next hgo, (State.acceptDesc_keeps (by decide)
      (State.dropReq_keeps (by decide) (State.Keeps.refl _ s) _) _ _).frame,
    fun k hk => (s.dropReq r.id).setEngine_others cl _ k hk, ?_⟩
  rw [State.acceptDesc, State.engine_setEngine_self, Engine.arm_words, Engine.arm_rest, List.map_append]
  exact ⟨rfl, rfl, rfl, rfl, rfl, rfl⟩

theorem descriptorReadReturn_kills {cause : Nat} {j : Job}
    (hbad : s.checkDesc cl (Desc.ofWords (leWords data 16)) = some (.kill cause)) (hjob : s.jobOn cl = some j) :
    Runs (.descriptorReadReturn cl) s killParts fun t => Killed j.ctx.val cause t := by
  have hgo : s.descriptorReturn cl = (s.dropReq r.id).killFrom cl cause (s.engine cl).nextPos := by
    simp only [State.descriptorReturn, hcame, hdone, State.checkDesc_dropReq, hbad]
  refine ⟨_, congrArg Host.Outcome.next hgo, (State.killFrom_keeps (by decide)
    (State.dropReq_keeps (by decide) (State.Keeps.refl _ s) _) _ _ _).frame, ?_⟩
  have hon : (s.dropReq r.id).jobOn cl = some j := hjob
  simp only [State.killFrom, hon]
  exact State.killQuiet_killed _ _ (State.checkDesc_kill_lt hbad) _

end

end

/-! ### A list that stops (R119, R214) -/

section
variable {s : State} {j : Job}

theorem State.job?_id {id : Nat} (h : s.job? id = some j) : j.id = id := by
  have hid := List.find?_some h
  exact eq_of_beq hid

theorem State.job?_of_jobOn {c : Nat} (h : s.jobOn c = some j) : s.job? j.id = some j := by
  obtain ⟨id, -, hid⟩ := Option.bind_eq_some_iff.1 h
  rw [State.job?_id hid, hid]

theorem State.job?_updJob {id : Nat} {f : Job → Job} (hf : ∀ k, (f k).id = k.id) (h : s.job? id = some j) :
    (s.updJob id f).job? id = some (f j) := by
  have hsame : ((fun k : Job => k.id == id) ∘ fun k => if k.id = id then f k else k) = fun k => k.id == id := by
    funext k
    by_cases hk : k.id = id <;> simp [hk, hf]
  have hid : j.id = id := State.job?_id h
  rw [State.job?] at h
  rw [State.job?, State.updJob, List.find?_map, hsame, h, Option.map_some, if_pos hid]

/-- The first fault of a job is kept with its time. -/
theorem State.job?_jobFault {id cause pos cl : Nat} (h : s.job? id = some j) (hfirst : j.fault = none) :
    (s.jobFault id cause pos cl).job? id =
      some { j with fault := some (BitVec.ofNat 8 cause, pos, cl), faultAt := s.time.now } := by
  rw [State.jobFault, State.job?_updJob _ h, hfirst]
  · rfl
  · intro k
    dsimp only
    split_ifs <;> rfl

section
variable {cl : Nat} (hjob : s.jobOn cl = some j) (cause pos : Nat)
include hjob

theorem State.stopAt_others : OtherClusters cl s (s.stopAt cl cause pos) := fun k hk => by
  rw [State.stopAt, State.setEngine_others _ cl _ k hk, State.stopList, hjob]
  exact State.setEngine_others _ cl _ k hk

theorem State.stopAt_ends : ((s.stopAt cl cause pos).engine cl).stopped = true
    ∧ ((s.stopAt cl cause pos).engine cl).ended = true := by
  have hlist : ((s.stopList cl cause pos).engine cl).stopped = true ∧ ((s.stopList cl cause pos).engine cl).ended = true := by
    rw [State.stopList, hjob]
    dsimp only
    rw [State.engine_setEngine_self]
    exact ⟨rfl, rfl⟩
  rw [State.stopAt, State.engine_setEngine_self, Engine.tidy_rest]
  exact hlist

theorem State.stopAt_job? (id : Nat) : (s.stopAt cl cause pos).job? id = (s.jobFault j.id cause pos cl).job? id := by
  rw [State.stopAt, State.stopList, hjob]
  rfl

end

theorem descriptorReadReturn_stops {cl : Cl} {r : Req} {data : List Byte}
    (hcame : s.reqs.find? (fun r => r.purpose == .descr cl && r.finished) = some r) (hpoison : r.stage = .done data true)
    (hjob : s.jobOn cl = some j) (hfirst : j.fault = none) :
    Runs (.descriptorReadReturn cl) s [.clusters, .reqs, .seq] fun t => OtherClusters cl s t
      ∧ (t.engine cl).stopped = true ∧ (t.engine cl).ended = true
      ∧ t.job? j.id = some { j with fault := some (0x06, (s.engine cl).nextPos, cl.val), faultAt := s.time.now } := by
  have hgo : s.descriptorReturn cl = (s.dropReq r.id).stopAt cl 0x06 (s.engine cl).nextPos := by
    simp only [State.descriptorReturn, hcame, hpoison]
  have hon : (s.dropReq r.id).jobOn cl = some j := hjob
  obtain ⟨hstopped, hended⟩ := State.stopAt_ends hon 0x06 (s.engine cl).nextPos
  refine ⟨_, congrArg Host.Outcome.next hgo, (State.stopAt_keeps (by decide)
      (State.dropReq_keeps (by decide) (State.Keeps.refl _ s) _) _ _ _).frame,
    State.stopAt_others hon _ _, hstopped, hended, ?_⟩
  rw [State.stopAt_job? hon]
  exact State.job?_jobFault (State.job?_of_jobOn hon) hfirst

end

/-- Settles O23: what the read of a descriptor brings is dropped from the network first, and the checks do not see that; their
answer, or the poison, says how the engine goes on. -/
theorem descriptorsAreReadAndChecked : Obligations.DescriptorsAreReadAndChecked :=
  ⟨fun _ _ hfree hjob hended hreading hroom hhbm => descriptorRead_asks hfree hjob hended hreading hroom hhbm,
    fun _ _ _ _ hcame hdone hgood => descriptorReadReturn_joins hcame hdone hgood,
    fun _ _ _ _ _ hcame hpoison hjob hfirst => descriptorReadReturn_stops hcame hpoison hjob hfirst,
    fun _ _ _ _ _ _ hcame hdone hbad hjob => descriptorReadReturn_kills hcame hdone hbad hjob⟩

end Sys2Proof.Machine
end

section
/-! SUPPORT. Cup tokens are taken and posted, and a drained descriptor signals its fence tag. -/

namespace Sys2Proof.Machine

/-! ### The counters of a cluster (R136) -/

section
variable (s : State) (cl n v : Nat)

theorem State.cluster_setTok :
    (s.setTok cl n v).cluster cl = { s.cluster cl with tok := Tbl.put 0 (s.cluster cl).tok n v } :=
  State.cluster_setCluster_self _ _ _

theorem State.engine_setTok : (s.setTok cl n v).engine cl = s.engine cl := by
  rw [State.engine, State.cluster_setTok, State.engine]

theorem State.tg_setTok : (s.setTok cl n v).tg cl = s.tg cl := by
  rw [State.tg, State.cluster_setTok, State.tg]

end

/-- Of the parts only the clusters may have changed, of them only one, and of its counters only one, which has a value. -/
structure TokSet (cl c v : Nat) (s t : State) : Prop where
  keeps : State.Keeps [.clusters] s t
  others : OtherClusters cl s t
  self : t.tok cl c = v
  rest : ∀ n, n ≠ c → t.tok cl n = s.tok cl n

namespace TokSet

variable {cl c v : Nat} {s t : State}

theorem setTok (s : State) (cl c v : Nat) : TokSet cl c v s (s.setTok cl c v) where
  keeps := State.setTok_keeps (List.Subset.refl _) (State.Keeps.refl _ s) _ _ _
  others := fun _ hk => State.cluster_setCluster_ne s _ hk
  self := by rw [State.tok, State.cluster_setTok, Tbl.get_put_self]
  rest := fun n hn => by rw [State.tok, State.cluster_setTok, Tbl.get_put_ne _ _ _ _ hn, State.tok]

/-- A change of the cluster that leaves its counters alone. -/
theorem setCluster (h : TokSet cl c v s t) {x : Cluster} (hx : x.tok = (t.cluster cl).tok) :
    TokSet cl c v s (t.setCluster cl x) := by
  have htok : ∀ n, (t.setCluster cl x).tok cl n = t.tok cl n := fun n => by
    rw [State.tok, State.cluster_setCluster_self, hx, State.tok]
  exact ⟨State.setCluster_keeps (List.Subset.refl _) h.keeps _ _,
    fun k hk => (State.cluster_setCluster_ne t x hk).trans (h.others k hk), (htok c).trans h.self,
    fun n hn => (htok n).trans (h.rest n hn)⟩

theorem setEngine (h : TokSet cl c v s t) (e : Engine) : TokSet cl c v s (t.setEngine cl e) := h.setCluster rfl

theorem setTg (h : TokSet cl c v s t) (g : Tg) : TokSet cl c v s (t.setTg cl g) := h.setCluster rfl

theorem postDone (h : TokSet cl c v s t) (pos : Nat) (x : Taker) : TokSet cl c v s (t.postDone cl pos x) := by
  cases x with
  | engine => exact h.setEngine _
  | sched x =>
    rw [State.postDone]
    split
    · exact h.setTg _
    · exact h

end TokSet

/-! ### Takes (R137 to R139, R256) -/

section
variable {s : State} {cl : Cl}

theorem State.takeGrant_of_takeOf {x : Taker} {c n : Nat} {rec : Option TakeRec} (htake : s.takeOf cl x = some (c, n, rec))
    (hfree : s.engineFree cl = true) :
    s.takeGrant cl x = (s.setTok cl c (s.tok cl c - n)).takeDone cl rec := by
  rw [State.takeGrant, htake]
  exact if_pos hfree

section
variable {r : DescRun} (hcur : (s.engine cl).current = some r)
include hcur

/-- No taker comes before the engine (R139). -/
theorem State.takeOf_engine (hwaits : r.taken = false) (hhas : r.d.takeN ≤ s.tok cl r.d.take) :
    s.takeOf cl .engine = some (r.d.take, r.d.takeN, none) := by
  have hpass : (decide (r.d.takeN ≤ s.tok cl r.d.take) && !s.outranked cl .engine r.d.take) = true := by
    simp [State.outranked, takersBefore, hhas]
  simp only [State.takeOf, State.takesOf, hcur, hwaits, Bool.false_eq_true, if_false, List.find?_cons, hpass]

theorem cupTokenTakeGrant_engine (hwaits : r.taken = false) (hfree : s.engineFree cl = true)
    (hhas : r.d.takeN ≤ s.tok cl r.d.take) :
    Runs (.cupTokenTakeGrant cl .engine) s [.clusters] fun t => OtherClusters cl s t
      ∧ t.tok cl r.d.take = s.tok cl r.d.take - r.d.takeN
      ∧ (∀ n, n ≠ r.d.take → t.tok cl n = s.tok cl n)
      ∧ t.engine cl = (s.engine cl).updDesc r.pos (fun q => { q with taken := true }) := by
  have hgrant := State.takeGrant_of_takeOf (State.takeOf_engine hcur hwaits hhas) hfree
  simp only [State.takeDone, State.engine_setTok, hcur] at hgrant
  have hset := (TokSet.setTok s cl r.d.take (s.tok cl r.d.take - r.d.takeN)).setEngine
    ((s.engine cl).updDesc r.pos fun q => { q with taken := true })
  exact ⟨_, congrArg Host.Outcome.next hgrant, hset.keeps.frame, hset.others, hset.self, hset.rest,
    State.engine_setEngine_self _ _ _⟩

end

/-- Every thread of the lanes is in the run state. -/
theorem Tg.thread?_setRun {t : Tg} {key l : Nat} {ls : List Nat} {st : RunSt} (hl : l ∈ ls) {th : Thread}
    (h : (t.setRun key ls st).thread? key l = some th) : th.run = st := by
  induction ls using List.reverseRecOn with
  | nil => exact absurd hl List.not_mem_nil
  | append_singleton ls m ih =>
    rw [Tg.setRun, List.foldl_append, List.foldl_cons, List.foldl_nil] at h
    by_cases hm : l = m
    · subst hm
      rw [Tg.thread?_updThread_self] at h
      obtain ⟨x, -, rfl⟩ := Option.map_eq_some_iff.1 h
      rfl
    · rw [Tg.thread?_updThread_ne _ _ _ _ fun _ => hm] at h
      exact ih ((List.mem_append.1 hl).resolve_right fun hlm => hm (List.mem_singleton.1 hlm)) h

theorem Tg.setRun_takes (t : Tg) (key : Nat) (ls : List Nat) (st : RunSt) : (t.setRun key ls st).takes = t.takes := by
  rw [Tg.setRun, (Tg.Touched.updThreads ls t _).rest]

section
variable {x : Sched} {k : TakeRec}
  (hfind : (s.tg cl).takes.find? (fun t => t.sched == x
    && (decide (t.n ≤ s.tok cl t.ctr) && !s.outranked cl (.sched x) t.ctr)) = some k)
include hfind

/-- The oldest take of the scheduler that can be satisfied, and that none before it can. -/
theorem State.takeOf_sched : s.takeOf cl (.sched x) = some (k.ctr, k.n, some k) := by
  rw [State.takeOf, State.takesOf, List.find?_map, List.find?_filter]
  simp only [Function.comp_def, Bool.decide_and, Bool.decide_eq_true, hfind, Option.map_some]

theorem cupTokenTakeGrant_sched (hfree : s.engineFree cl = true) :
    Runs (.cupTokenTakeGrant cl (.sched x)) s [.clusters] fun t => OtherClusters cl s t
      ∧ t.tok cl k.ctr = s.tok cl k.ctr - k.n ∧ (∀ n, n ≠ k.ctr → t.tok cl n = s.tok cl n)
      ∧ (t.tg cl).takes = (s.tg cl).takes.erase k ∧ t.engine cl = s.engine cl
      ∧ ∀ l ∈ k.lanes, ∀ th, (t.tg cl).thread? k.group l = some th → th.run = .running := by
  have hgrant := State.takeGrant_of_takeOf (State.takeOf_sched hfind) hfree
  simp only [State.takeDone, State.tg_setTok] at hgrant
  have hset := (TokSet.setTok s cl k.ctr (s.tok cl k.ctr - k.n)).setTg
    ({ s.tg cl with takes := (s.tg cl).takes.erase k }.setRun k.group k.lanes .running)
  refine ⟨_, congrArg Host.Outcome.next hgrant, hset.keeps.frame, hset.others, hset.self, hset.rest, ?_, ?_,
    fun l hl th hth => ?_⟩
  · rw [State.tg_setTg_self, Tg.setRun_takes]
  · rw [State.engine_setTg, State.engine_setTok]
  · rw [State.tg_setTg_self] at hth
    exact Tg.thread?_setRun hl hth

end

theorem State.tokenTimeout_kills {x : Taker} {since pos : Nat} (hsince : s.takeSince cl x = some (since, pos))
    (hfree : s.engineFree cl = true) (hlate : s.passedClk since (2 ^ s.fld 0x2500 0x0B 4 0 + 1) = true) :
    s.tokenTimeout cl x = s.killFrom cl 0x12 pos := by
  rw [State.tokenTimeout, hsince]
  exact if_pos (by rw [hfree, hlate, Bool.and_self])

/-! ### Posts (R140, R257, R258) -/

section
variable {x : Taker} {c n pos : Nat} (hpost : s.postOf cl x = some (c, n, pos)) (hcore : s.coreStopped = false)
include hpost hcore

theorem State.tokenPost_eq : s.tokenPost cl x = if 65535 < s.tok cl c + n then s.killFrom cl 0x14 pos
    else (s.setTok cl c (s.tok cl c + n)).postDone cl pos x := by
  simp only [State.tokenPost, hpost, hcore, Bool.false_eq_true, if_false]

theorem cupTokenPost_adds (hroom : s.tok cl c + n ≤ 65535) :
    Runs (.cupTokenPost cl x) s [.clusters] fun t => OtherClusters cl s t
      ∧ t.tok cl c = s.tok cl c + n ∧ ∀ m, m ≠ c → t.tok cl m = s.tok cl m := by
  have hadd := State.tokenPost_eq hpost hcore
  rw [if_neg (Nat.not_lt.2 hroom)] at hadd
  have hset := (TokSet.setTok s cl c (s.tok cl c + n)).postDone pos x
  exact ⟨_, congrArg Host.Outcome.next hadd, hset.keeps.frame, hset.others, hset.self, hset.rest⟩

theorem cupTokenPost_kills {j : Job} (hfull : 65535 < s.tok cl c + n) (hjob : s.jobOn cl = some j) :
    Runs (.cupTokenPost cl x) s killParts fun t => Killed j.ctx.val 0x14 t :=
  killFrom_kills hjob (by decide) (congrArg Host.Outcome.next ((State.tokenPost_eq hpost hcore).trans (if_pos hfull)))

end

/-! ### The signal of a descriptor (R305) -/

theorem State.signalTag_of_fits {j : Job} {t : Nat} (ht : t ≠ 0) (hfits : tagFits (s.tagBal j.ctx.val t - 1) = true) :
    s.signalTag j t = s.setTag j.ctx.val t (s.tagBal j.ctx.val t - 1) := by
  simp only [State.signalTag, ht, hfits, if_false, if_true]

theorem State.tagBal_setTag_ne {c t c' t' : Nat} (v : Int) (h : tagKey c' t' ≠ tagKey c t) :
    (s.setTag c t v).tagBal c' t' = s.tagBal c' t' := Tbl.get_put_ne _ _ _ _ h

theorem descriptorFsig_signals {pos : Nat} {r : DescRun} {j : Job} (hdesc : (s.engine cl).desc? pos = some r)
    (hjob : s.jobOn cl = some j) (hdrained : r.drained = true) (hdue : r.signalled = false) (hsig : r.d.fsig ≠ 0)
    (hfits : tagFits (s.tagBal j.ctx.val r.d.fsig - 1) = true) :
    Runs (.descriptorFsig cl pos) s [.clusters, .seq] fun t => OtherClusters cl s t
      ∧ t.tagBal j.ctx.val r.d.fsig = s.tagBal j.ctx.val r.d.fsig - 1
      ∧ ∀ c n, tagKey c n ≠ tagKey j.ctx.val r.d.fsig → t.tagBal c n = s.tagBal c n := by
  have hgo : s.descFsig cl pos = (s.setEngine cl (((s.engine cl).updDesc pos fun q =>
      { q with signalled := true }).tidy s.time.core)).setTag j.ctx.val r.d.fsig (s.tagBal j.ctx.val r.d.fsig - 1) := by
    simp only [State.descFsig, hdesc, hjob, hdrained, hdue, Bool.not_false, Bool.and_self, if_true]
    exact State.signalTag_of_fits hsig hfits
  exact ⟨_, congrArg Host.Outcome.next hgo, (State.setTag_keeps (by decide)
      (State.setEngine_keeps (by decide) (State.Keeps.refl _ s) _ _) _ _ _).frame,
    s.setEngine_others cl _, State.tagBal_setTag_self _ _ _ _, fun c n hne => State.tagBal_setTag_ne _ hne⟩

end

/-- Settles O28: the take or the post that is due decides its counter, and what follows it leaves the counters alone; an overflow
and a wait that is too long kill; a signal within range changes its tag alone. -/
theorem cupTokensAndDescriptorSignals : Obligations.CupTokensAndDescriptorSignals :=
  ⟨fun _ _ _ hcur hwaits hfree hhas => cupTokenTakeGrant_engine hcur hwaits hfree hhas,
    fun _ _ _ _ hfind hfree => cupTokenTakeGrant_sched hfind hfree,
    fun _ _ _ _ _ _ hpost hcore hroom => cupTokenPost_adds hpost hcore hroom,
    fun _ _ _ _ _ _ _ hpost hcore hfull hjob => cupTokenPost_kills hpost hcore hfull hjob,
    fun _ _ _ _ _ _ hsince hfree hlate hjob =>
      killFrom_kills hjob (by decide) (congrArg Host.Outcome.next (State.tokenTimeout_kills hsince hfree hlate)),
    fun _ _ _ _ _ hdesc hjob hdrained hdue hsig hfits => descriptorFsig_signals hdesc hjob hdrained hdue hsig hfits⟩

end Sys2Proof.Machine
end

section
/-! SUPPORT. The end of a COPY job whose refused read bears the number of the next request. -/

namespace Sys2Proof.Machine

/-! ### The number of a dropped read is given again (R39, R308) -/

/-- A COPY job of context 0 that has started and has not moved its data. -/
def copyJob : Job :=
  { id := 0, ctx := 0, ring := 0, entry := 0, words := [packWord [(1, 0), (2, 4)]], started := some 0, startLate := false
    ftUnlock := false, exc := 0, poison := false, fault := none, faultAt := 0, engine := some 0, moved := false, info := 0 }

/-- A refused read of that job, of number 0. -/
def refusedRead : Req :=
  { mkReq (.copy 0) .read (localAddr 0) 32 [] false true (.job 0) (some 0) with stage := .refused }

/-- The job's read has been refused, the completion ring of its context is enabled at address 0 of HBM, and the next request
will take number 0, which the read still bears. -/
def numberReused : State :=
  { State.reset with
    regs := [(regKey 0x2850 2, 1)]
    reqs := [refusedRead]
    seq := { State.reset.seq with jobs := [copyJob] } }

/-- The job ends and its read is dropped: the one request left is the write of its record, and it bears the read's number. -/
theorem copyStep_numberReused : (numberReused.copyStep 0).reqs.map (fun q => (q.id, q.purpose)) =
    [(refusedRead.id, .record 0 true)] := by decide +kernel

/-- Refutes O41: its clause on a refused COPY says that no request of the next state bears the number of a dropped read, and
asks nothing of the numbers at hand. Where the next request's number is that of the read, the write of the job's record
bears it. -/
theorem not_jobsEndAndAreReported : ¬ Obligations.JobsEndAndAreReported := by
  rintro ⟨-, hcopy, -⟩
  obtain ⟨-, hrefused, -⟩ := hcopy numberReused 0 copyJob [refusedRead] rfl (by decide +kernel) rfl (by decide +kernel)
  obtain ⟨t, hexec, -, -, hgone⟩ := hrefused rfl ⟨refusedRead, List.mem_singleton_self _, rfl⟩
  have ht : numberReused.copyStep 0 = t := Host.Outcome.next.inj hexec
  have hrecord : (refusedRead.id, Purpose.record 0 true) ∈ t.reqs.map fun q => (q.id, q.purpose) := by
    rw [← ht, copyStep_numberReused]
    exact List.mem_singleton_self _
  obtain ⟨q, hq, hsame⟩ := List.mem_map.1 hrecord
  exact hgone refusedRead (List.mem_singleton_self _) q hq (Prod.ext_iff.1 hsame).1

end Sys2Proof.Machine
end

section
/-! SUPPORT. What a home slice sees of a state: where lines live, what its ways hold, and the dregs guard. -/

namespace Sys2Proof.Machine

/-! ### Where lines live (R151, R152, R155) -/

/-- Lines live in the same ways in two states, and replies take the same channels: the configuration of the pots, the
placement of regions and the channels are the same. -/
structure SameHomes (s t : State) : Prop where
  lanes : t.lanes = s.lanes
  pots : t.reg 0x2300 0x10 = s.reg 0x2300 0x10
  regplace : ∀ sub, sub < 256 → t.reg 0x2320 sub = s.reg 0x2320 sub

namespace SameHomes

variable {s t : State} (h : SameHomes s t)
include h

theorem placement (pa : Nat) : t.placement (bitsOf pa 38 30) = s.placement (bitsOf pa 38 30) := by
  have hlt : bitsOf pa 38 30 < 2 ^ 9 := Nat.mod_lt _ (by decide)
  unfold State.placement State.fld
  rw [h.regplace _ (by omega)]

theorem homeOf (pa : Nat) : t.homeOf pa = s.homeOf pa := by rw [State.homeOf, h.placement, State.homeOf]

theorem chan (cad ch : Nat) : t.chan cad ch = s.chan cad ch := by rw [State.chan, h.lanes, State.chan]

theorem sliceOf (pa : Nat) : t.sliceOf pa = s.sliceOf pa := by
  simp only [State.sliceOf, State.sliceFor, State.sliceRetired, h.homeOf, h.chan]

theorem setBase (pa : Nat) : t.setBase pa = s.setBase pa := by rw [State.setBase, h.homeOf, h.sliceOf, State.setBase]

theorem findWay (hvalid : ∀ k, (t.line k).valid = (s.line k).valid) (htag : ∀ k, (t.line k).tag = (s.line k).tag) (pa : Nat) :
    t.findWay pa = s.findWay pa := by
  simp only [State.findWay, h.setBase, hvalid, htag]

theorem potCfg (pot : Nat) : t.potCfg pot = s.potCfg pot := by
  rw [State.potCfg, State.fld, h.pots, State.potCfg, State.fld]

theorem leafChannels (leaf : Nat) : t.leafChannels leaf = s.leafChannels leaf := by
  simp only [State.leafChannels, h.potCfg]

theorem channelFor (cl slice : Nat) : t.channelFor cl slice = s.channelFor cl slice := by
  simp only [State.channelFor, h.leafChannels, h.chan]

theorem routeBack (m : Master) (pa : Nat) : t.routeBack m pa = s.routeBack m pa := by
  unfold State.routeBack
  cases m.cluster? with
  | none => simp only [h.homeOf]
  | some c => simp only [h.homeOf, h.sliceOf, h.channelFor]

end SameHomes

/-! ### Ways (R149) -/

theorem State.line_setLine_self (s : State) (k : Nat) (l : Line) : (s.setLine k l).line k = l := by
  rw [State.line, State.setLine, Tbl.get_put_self]

theorem State.line_setLine_ne (s : State) {k j : Nat} (l : Line) (h : j ≠ k) : (s.setLine k l).line j = s.line j := by
  rw [State.line, State.setLine, Tbl.get_put_ne _ _ _ _ h, State.line]

theorem State.line_of_lines {s t : State} (h : t.caddy.lines = s.caddy.lines) (k : Nat) : t.line k = s.line k := by
  rw [State.line, h, State.line]

/-! ### The view of a slice (R149, R171) -/

/-- The entries that a slice goes by: the configuration of the pots, the guard's enable and the placement of regions. -/
def ViewKey (k : Nat) : Prop := k = regKey 0x2300 0x10 ∨ k = regKey 0x2310 8 ∨ regKey 0x2320 0 ≤ k ∧ k < regKey 0x2321 0

/-- A slice finds the same in two states: the same entries to go by, the same channels, the same guards, and the same lines
but for their ages. -/
structure SameView (s t : State) : Prop where
  entries : ∀ idx sub, ViewKey (regKey idx sub) → t.reg idx sub = s.reg idx sub
  lanes : t.lanes = s.lanes
  guard0 : t.caddy.guard0 = s.caddy.guard0
  guard1 : t.caddy.guard1 = s.caddy.guard1
  lines : ∀ k, { t.line k with age := 0 } = { s.line k with age := 0 }

theorem not_viewKey_of_le {idx : Nat} (h : 0x2321 ≤ idx) (sub : Nat) : ¬ ViewKey (regKey idx sub) := by
  simp only [ViewKey, regKey]
  omega

theorem viewKey_regplace {sub : Nat} (h : sub < 256) : ViewKey (regKey 0x2320 sub) := by
  simp only [ViewKey, regKey]
  omega

namespace SameView

section
variable {u s t : State}

theorem refl (s : State) : SameView s s := ⟨fun _ _ _ => rfl, rfl, rfl, rfl, fun _ => rfl⟩

theorem trans (h : SameView u s) (g : SameView s t) : SameView u t :=
  ⟨fun i j hk => (g.entries i j hk).trans (h.entries i j hk), g.lanes.trans h.lanes, g.guard0.trans h.guard0,
    g.guard1.trans h.guard1, fun k => (g.lines k).trans (h.lines k)⟩

/-! #### What leaves the view alone -/

/-- Nothing that a slice goes by lies in the parts or among the entries that have changed. -/
theorem of_keeps {C : List Part} {D : List (Nat × Nat)} (h : SameView u s) (hkeeps : State.Keeps C s t) (hentries : Entries D s t)
    (hD : ∀ k ∈ D, ¬ ViewKey (regKey k.1 k.2)) (hlanes : Part.lanes ∉ C) (hcaddy : Part.caddy ∉ C) : SameView u t := by
  have hsame : t.caddy = s.caddy := hkeeps.parts .caddy hcaddy
  refine h.trans ⟨fun i j hk => hentries i j fun k hm he => hD k hm (he ▸ hk), hkeeps.parts .lanes hlanes, ?_, ?_, fun k => ?_⟩
  · rw [hsame]
  · rw [hsame]
  · rw [State.line_of_lines (congrArg Caddy.lines hsame)]

theorem setReg (h : SameView u s) {idx sub : Nat} (hk : ¬ ViewKey (regKey idx sub)) (v : Word64) :
    SameView u (s.setReg idx sub v) :=
  h.of_keeps (C := [.regs]) (State.Keeps.setReg (List.Subset.refl _) (State.Keeps.refl _ s) _ _ _) (Entries.setReg s idx sub v)
    (by simpa using hk) (by decide) (by decide)

theorem count (h : SameView u s) {idx : Nat} (hi : 0x2321 ≤ idx) (sub n : Nat) : SameView u (s.count idx sub n) :=
  h.setReg (not_viewKey_of_le hi sub) _

theorem event (h : SameView u s) {idx sub : Nat} (hk : ¬ ViewKey (regKey idx sub)) (n : Nat) : SameView u (s.event idx sub n) := by
  refine h.of_keeps (D := [(idx, sub), (0x3001, 0x0B)]) (State.event_keeps (List.Subset.refl _) (State.Keeps.refl _ s) _ _ _)
    (State.event_entries (by simp) (by simp) (Entries.refl _ s) n) ?_ (by decide) (by decide)
  simpa using ⟨hk, not_viewKey_of_le (by decide) _⟩

theorem updReq (h : SameView u s) (id : Nat) (f : Req → Req) : SameView u (s.updReq id f) :=
  ⟨h.entries, h.lanes, h.guard0, h.guard1, h.lines⟩

theorem setPorts (h : SameView u s) (k : Nat) (p : SlicePort) : SameView u (s.setPorts k p) :=
  ⟨h.entries, h.lanes, h.guard0, h.guard1, h.lines⟩

/-- A way of which only the age changes. -/
theorem setLine (h : SameView u s) (k : Nat) {l : Line} (hl : { l with age := 0 } = { s.line k with age := 0 }) :
    SameView u (s.setLine k l) := by
  refine h.trans ⟨fun _ _ _ => rfl, rfl, rfl, rfl, fun j => ?_⟩
  by_cases hj : j = k
  · subst hj
    rw [State.line_setLine_self]
    exact hl
  · rw [State.line_setLine_ne _ _ hj]

theorem touch (h : SameView u s) (pa : Nat) : SameView u (s.touch pa) := by
  unfold State.touch
  split
  · exact h.setLine _ rfl
  · exact h

theorem noteSectors (h : SameView u s) (nc : Fin 7) (dl : Option (BitVec 24)) (secs : List Nat) :
    SameView u (s.noteSectors nc dl secs) := ⟨h.entries, h.lanes, h.guard0, h.guard1, h.lines⟩

theorem setDetector (h : SameView u s) (cad i : Nat) (d : Detector) : SameView u (s.setDetector cad i d) :=
  ⟨h.entries, h.lanes, h.guard0, h.guard1, h.lines⟩

theorem noteMiss (h : SameView u s) (nc : Fin 7) (line : Nat) : SameView u (s.noteMiss nc line) := by
  unfold State.noteMiss
  dsimp only
  split_ifs
  · exact h
  · split
    · split_ifs
      · exact (h.setDetector _ _ _).noteSectors _ _ _
      · exact h.setDetector _ _ _
    · split
      · exact h.setDetector _ _ _
      · split
        · split_ifs
          · exact (h.setDetector _ _ _).noteSectors _ _ _
          · exact h.setDetector _ _ _
        · split
          · exact h.setDetector _ _ _
          · exact h

theorem noteDemand (h : SameView u s) (r : Req) (miss : List Nat) : SameView u (s.noteDemand r miss) := by
  unfold State.noteDemand
  split
  · exact h
  · exact h.noteMiss _ _

theorem countConsumed (h : SameView u s) (cad n : Nat) : SameView u (s.countConsumed cad n) := by
  unfold State.countConsumed State.consumed
  split
  · exact h
  · exact h.count (by simp only [intCounter]; split <;> omega) _ _

theorem countRead (h : SameView u s) (r : Req) (miss : List Nat) : SameView u (s.countRead r miss) := by
  have hbytes := h.count (idx := 0x3420 + r.master.nc.val) (by omega) 1 r.len
  unfold State.countRead
  extract_lets pa cad n s1 s2
  have hhits : SameView u s2 := by
    unfold s2
    split
    · exact (hbytes.touch pa).count (by omega) _ _
    · exact hbytes
  split
  · exact hhits
  · exact hhits.count (by omega) _ _

theorem hbmRead (h : SameView u s) (nc : Fin 7) (sec : Nat) (dl : Option (BitVec 24)) (pre na : Bool) :
    SameView u (s.hbmRead nc sec dl pre na) := by
  unfold State.hbmRead
  split
  · exact h
  · have hc := h.count (idx := 0x3420 + nc.val) (by omega) 5 32
    exact ⟨hc.entries, hc.lanes, hc.guard0, hc.guard1, hc.lines⟩

end

/-! #### What is the same where the view is -/

section
variable {s t : State} (h : SameView s t)
include h

theorem homes : SameHomes s t := 
  ⟨h.lanes, h.entries _ _ (Or.inl rfl), fun _ hsub => h.entries _ _ (viewKey_regplace hsub)⟩

theorem homeOf (pa : Nat) : t.homeOf pa = s.homeOf pa := h.homes.homeOf pa

theorem sliceOf (pa : Nat) : t.sliceOf pa = s.sliceOf pa := h.homes.sliceOf pa

theorem portOf (pa : Nat) : t.portOf pa = s.portOf pa := by rw [State.portOf, h.homeOf, h.sliceOf, State.portOf]

theorem valid (k : Nat) : (t.line k).valid = (s.line k).valid := (Line.mk.inj (h.lines k)).2.1

theorem tag (k : Nat) : (t.line k).tag = (s.line k).tag := (Line.mk.inj (h.lines k)).1

theorem dirty (k : Nat) : (t.line k).dirty = (s.line k).dirty := (Line.mk.inj (h.lines k)).2.2.1

theorem poison (k : Nat) : (t.line k).poison = (s.line k).poison := (Line.mk.inj (h.lines k)).2.2.2.1

theorem pinned (k : Nat) : (t.line k).pinned = (s.line k).pinned := (Line.mk.inj (h.lines k)).2.2.2.2.1

theorem data (k : Nat) : (t.line k).data = (s.line k).data := (Line.mk.inj (h.lines k)).2.2.2.2.2.2

theorem findWay (pa : Nat) : t.findWay pa = s.findWay pa := h.homes.findWay h.valid h.tag pa

theorem sectorIn (sec : Nat) : t.sectorIn sec = s.sectorIn sec := by
  simp only [State.sectorIn, h.findWay, h.valid, h.poison, Line.sector, h.data]

theorem guardOn : t.guardOn = s.guardOn :=
  State.bit_of_reg (h.entries 0x2310 8 (Or.inr (Or.inl rfl))) 0

theorem guard (cad : Nat) : t.guard cad = s.guard cad := by rw [State.guard, h.guard0, h.guard1, State.guard]

theorem guarded (pa : Nat) : t.guarded pa = s.guarded pa := by
  rw [State.guarded, h.guardOn, h.homeOf, h.guard, State.guarded]

theorem needs (r : Req) : t.needs r = s.needs r := by
  cases hk : r.kind <;> simp only [State.needs, hk, h.sectorIn, h.findWay]

theorem readOf (r : Req) (sec : Nat) : t.readOf r sec = s.readOf r sec := by
  simp only [State.readOf, h.sectorIn]

theorem routeBack (m : Master) (pa : Nat) : t.routeBack m pa = s.routeBack m pa := h.homes.routeBack m pa

theorem prefetchSectors (base len : Nat) : t.prefetchSectors base len = s.prefetchSectors base len := by
  simp only [State.prefetchSectors, h.guarded, h.sectorIn]

end

end SameView

end Sys2Proof.Machine
end

section
/-! SUPPORT. Requests at a home slice: what is left of them, and a read of sectors that are at hand. -/

namespace Sys2Proof.Machine

/-! ### One request among the others -/

theorem State.req?_id {s : State} {id : Nat} {r : Req} (h : s.req? id = some r) : r.id = id :=
  eq_of_beq (List.find?_some (p := fun q : Req => q.id == id) h)

theorem State.mem_of_req? {s : State} {id : Nat} {r : Req} (h : s.req? id = some r) : r ∈ s.reqs := List.mem_of_find?_eq_some h

/-- The request of a number is found as given, and those of other numbers stand as before. -/
structure ReqIs (s t : State) (id : Nat) (r : Req) : Prop where
  found : t.req? id = some r
  others : ∀ q ∈ s.reqs, q.id ≠ id → q ∈ t.reqs

namespace ReqIs

variable {s t u : State} {id : Nat} {r : Req}

theorem refl (h : s.req? id = some r) : ReqIs s s id r := ⟨h, fun _ hq _ => hq⟩

theorem trans {q : Req} (h : ReqIs s t id q) (g : ReqIs t u id r) : ReqIs s u id r :=
  ⟨g.found, fun p hp hne => g.others p (h.others p hp hne) hne⟩

theorem of_reqs (h : ReqIs s t id r) (hr : u.reqs = t.reqs) : ReqIs s u id r := by
  refine ⟨?_, fun q hq hne => hr ▸ h.others q hq hne⟩
  rw [State.req?, hr]
  exact h.found

theorem updReq (h : ReqIs s t id r) {f : Req → Req} (hf : ∀ q, (f q).id = q.id) : ReqIs s (t.updReq id f) id (f r) := by
  have hkey (q : Req) : ((if q.id = id then f q else q).id == id) = (q.id == id) := by split <;> simp_all
  refine ⟨?_, fun q hq hne => List.mem_map.2 ⟨q, h.others q hq hne, if_neg hne⟩⟩
  have hfound : t.reqs.find? (fun q => q.id == id) = some r := h.found
  have hr : r.id = id := State.req?_id h.found
  simp only [State.req?, State.updReq, List.find?_map, Function.comp_def, hkey, hfound, Option.map_some, hr, if_true]

theorem reply (h : ReqIs s t id r) {q : Req} (hq : q.id = id) (data : List Byte) (pois : Bool) :
    ReqIs s (t.reply q data pois) id { r with
      stage := .done data pois, route := if r.kind = .write then [] else t.routeBack r.master (addrLocal r.addr) } := by
  subst hq
  exact h.updReq fun _ => rfl

theorem of_keeps {C : List Part} (h : ReqIs s t id r) (hkeeps : State.Keeps C t u) (hc : Part.reqs ∉ C) : ReqIs s u id r :=
  h.of_reqs (hkeeps.parts .reqs hc).1

end ReqIs

/-! ### An access without wrong bits -/

theorem State.lineErrors_nil (s : State) (pa : Nat) (nc : Fin 7) : s.lineErrors pa nc [] false = s := by
  unfold State.lineErrors
  cases s.findWay pa <;> rfl

/-! ### The sectors that a read takes (R159) -/

section
variable {s : State} {r : Req}

/-- What a read takes of a sector as it is served: what is there, where it has not been taken before. -/
def State.takes (s : State) (r : Req) (sec : Nat) : Option (Nat × BitVec 256 × Bool) :=
  if r.got.any fun g => g.1 == sec then none else (s.sectorIn sec).map (sec, ·)

theorem State.takeValid_got (s : State) (r : Req) :
    (s.takeValid r).got = r.got ++ (sectorsOf (addrLocal r.addr) r.len).filterMap (s.takes r) := rfl

/-- What is taken of a sector names it. -/
theorem State.takes_any (s : State) (r : Req) (sec a : Nat) :
    (s.takes r a).any (fun g => g.1 == sec) = (a == sec && (s.takes r a).isSome) := by
  unfold State.takes
  split
  · simp
  · cases s.sectorIn a <;> simp

/-- The sectors that a read takes in addition are not those it lacks. -/
theorem State.needs_takeValid (hkind : r.kind = .read) : s.needs (s.takeValid r) = s.needs r := by
  have hkind' : (s.takeValid r).kind = .read := hkind
  simp only [State.needs, hkind, hkind']
  refine List.filter_congr fun sec _ => ?_
  cases hsec : s.sectorIn sec with
  | some x => rfl
  | none =>
    have hnew : ((sectorsOf (addrLocal r.addr) r.len).filterMap (s.takes r)).any (fun g => g.1 == sec) = false := by
      rw [List.any_filterMap, List.any_eq_false]
      intro a _ ha
      obtain ⟨heq, htaken⟩ := (Bool.and_eq_true _ _).mp ((s.takes_any r sec a).symm.trans ha)
      rw [eq_of_beq heq, State.takes, hsec] at htaken
      simp at htaken
    rw [State.takeValid_got, List.any_append, hnew, Bool.or_false]

/-- Where a read lacks nothing, it takes what it reads. -/
theorem State.readOf_takeValid (hkind : r.kind = .read) (hneeds : s.needs r = []) {sec : Nat}
    (hsec : sec ∈ sectorsOf (addrLocal r.addr) r.len) : s.readOf (s.takeValid r) sec = s.readOf r sec := by
  simp only [State.readOf, State.takeValid_got, List.find?_append]
  cases hgot : r.got.find? fun g => g.1 == sec with
  | some g => rfl
  | none =>
    have hnone : (r.got.any fun g => g.1 == sec) = false := List.any_eq_false.2 (List.find?_eq_none.1 hgot)
    simp only [State.needs, hkind, List.filter_eq_nil_iff] at hneeds
    obtain ⟨x, hx⟩ : ∃ x, s.sectorIn sec = some x := by
      simpa [hnone, Option.isNone_iff_eq_none, ← Option.isSome_iff_ne_none, Option.isSome_iff_exists] using hneeds sec hsec
    have htakes : s.takes r sec = some (sec, x) := by simp [State.takes, hnone, hx]
    have hfind : (sectorsOf (addrLocal r.addr) r.len).find? (fun a => (s.takes r a).any fun g => g.1 == sec) = some sec := by
      obtain ⟨a, ha⟩ := Option.isSome_iff_exists.1 (List.find?_isSome.2
        (⟨sec, hsec, by rw [htakes]; exact beq_self_eq_true sec⟩ : ∃ a ∈ sectorsOf (addrLocal r.addr) r.len,
          ((s.takes r a).any fun g => g.1 == sec) = true))
      have hname := List.find?_some ha
      rw [State.takes_any, Bool.and_eq_true] at hname
      rw [ha, eq_of_beq hname.1]
    rw [List.find?_filterMap, hfind, Option.none_or, Option.bind_some, htakes, hx]
    rfl

end

end Sys2Proof.Machine
end

section
/-! SUPPORT. A read at its home slice: served from the caddy, waiting for HBM, or answered from the guard (R159, R171 to R177). -/

namespace Sys2Proof.Machine

/-! ### A read is taken (R159, R162, R188) -/

/-- The slice takes a read: its read port, the sectors at hand, and the counts of hits and misses. -/
def State.readTaken (s : State) (r : Req) : State :=
  ((s.takeRead (s.portOf (addrLocal r.addr))).updReq r.id fun q => { q with got := (s.takeValid r).got }).countRead
    (s.takeValid r) (s.needs r)

section
variable {s : State} {id : Nat} {r : Req}

theorem State.serveRead_eq (hfree : s.readFree (s.portOf (addrLocal r.addr)) (addrLocal r.addr / 128) = true)
    (hguard : s.guarded (addrLocal r.addr) = false) (hroom : s.missRoom (addrLocal r.addr) (s.needs r) = true) :
    s.serveRead r = ((s.readTaken r).noteDemand (s.takeValid r) (s.needs r)).resume (s.takeValid r) := by
  simp only [State.serveRead, hfree, hguard, hroom, Bool.not_true, Bool.false_eq_true, if_false]
  rfl

theorem State.readTaken_view (s : State) (r : Req) : SameView s (s.readTaken r) :=
  (((SameView.refl s).setPorts _ _).updReq _ _).countRead _ _

theorem State.readTaken_keeps (s : State) (r : Req) : State.Keeps [.regs, .caddy, .reqs] s (s.readTaken r) :=
  State.countRead_keeps (by decide) (State.updReq_keeps (by decide) (State.takeRead_keeps (by decide) (State.Keeps.refl _ s) _) _ _)
    _ _

theorem State.readTaken_req (hreq : s.req? id = some r) : ReqIs s (s.readTaken r) id (s.takeValid r) := by
  have hid : r.id = id := State.req?_id hreq
  have htaken : ReqIs s (s.takeRead (s.portOf (addrLocal r.addr))) id r := (ReqIs.refl hreq).of_reqs rfl
  have hgot := htaken.updReq (f := fun q => { q with got := (s.takeValid r).got }) fun _ => rfl
  rw [← hid] at hgot ⊢
  exact hgot.of_keeps (State.countRead_keeps (List.Subset.refl _) (State.Keeps.refl _ _) _ _) (by decide)

theorem State.touch_ports (s : State) (pa : Nat) : (s.touch pa).caddy.ports = s.caddy.ports := by
  unfold State.touch
  split <;> rfl

theorem State.countRead_ports (s : State) (r : Req) (miss : List Nat) : (s.countRead r miss).caddy.ports = s.caddy.ports := by
  unfold State.countRead
  extract_lets pa cad n s1 s2
  have hhits : s2.caddy.ports = s.caddy.ports := by
    unfold s2
    split
    · exact State.touch_ports _ _
    · rfl
  split
  · exact hhits
  · exact hhits

theorem State.countConsumed_ports (s : State) (cad n : Nat) : (s.countConsumed cad n).caddy.ports = s.caddy.ports := by
  unfold State.countConsumed State.consumed
  split <;> rfl

theorem State.slicePort_of_ports {s t : State} (h : t.caddy.ports = s.caddy.ports) (k : Nat) : t.slicePort k = s.slicePort k := by
  rw [State.slicePort, h, State.slicePort]

theorem State.slicePort_setPorts (s : State) (k : Nat) (p : SlicePort) : (s.setPorts k p).slicePort k = p := by
  rw [State.slicePort, State.setPorts, Tbl.get_put_self]

theorem State.readTaken_port (s : State) (r : Req) :
    ((s.readTaken r).slicePort (s.portOf (addrLocal r.addr))).readAt = some s.time.core := by
  have hupd (u : State) (f : Req → Req) : (u.updReq r.id f).caddy.ports = u.caddy.ports := rfl
  rw [State.readTaken, State.slicePort_of_ports ((State.countRead_ports _ _ _).trans (hupd _ _)), State.takeRead,
    State.slicePort_setPorts]

/-! ### A read is answered (R159, R171, R217) -/

/-- The poisoned sectors of a read are counted, and the line of a marked one leaves. -/
def State.readOut (s : State) (r : Req) : State :=
  let s := s.countConsumed (s.homeOf (addrLocal r.addr))
    (((sectorsOf (addrLocal r.addr) r.len).map (s.readOf r)).filter (·.2)).length
  if r.marked then s.dropLine (addrLocal r.addr) else s

/-- What a read brings, by the sectors that a state holds. -/
def State.readBrings (s : State) (r : Req) : ReqStage :=
  .done (cutBytes (addrLocal r.addr) r.len ((sectorsOf (addrLocal r.addr) r.len).map (s.readOf r)))
    (((sectorsOf (addrLocal r.addr) r.len).map (s.readOf r)).any (·.2))

/-- A read as it starts back. -/
def State.readAnswer (s : State) (r : Req) : Req :=
  { r with stage := s.readBrings r, route := s.routeBack r.master (addrLocal r.addr), got := [] }

theorem State.finishRead_eq (s : State) (r : Req) : s.finishRead r =
    ((s.readOut r).updReq r.id fun q => { q with got := [] }).reply r
      (cutBytes (addrLocal r.addr) r.len ((sectorsOf (addrLocal r.addr) r.len).map (s.readOf r)))
      (((sectorsOf (addrLocal r.addr) r.len).map (s.readOf r)).any (·.2)) := rfl

theorem State.readOut_keeps (s : State) (r : Req) : State.Keeps [.regs, .caddy] s (s.readOut r) := by
  have hcount (n : Nat) : State.Keeps [.regs, .caddy] s (s.countConsumed (s.homeOf (addrLocal r.addr)) n) :=
    State.countConsumed_keeps (by decide) (State.Keeps.refl _ s) _ _
  unfold State.readOut
  dsimp only
  split
  · exact State.dropLine_keeps (by decide) (hcount _) _
  · exact hcount _

theorem State.readOut_unmarked (hmark : r.marked = false) : s.readOut r = s.countConsumed (s.homeOf (addrLocal r.addr))
    (((sectorsOf (addrLocal r.addr) r.len).map (s.readOf r)).filter (·.2)).length := by
  rw [State.readOut, hmark]
  rfl

theorem State.readOut_marked (hmark : r.marked = true) : s.readOut r = (s.countConsumed (s.homeOf (addrLocal r.addr))
    (((sectorsOf (addrLocal r.addr) r.len).map (s.readOf r)).filter (·.2)).length).dropLine (addrLocal r.addr) := by
  rw [State.readOut, hmark]
  rfl

end

/-! #### The line of a marked read leaves -/

section
variable {u s : State}

theorem SameHomes.of_view (h : SameHomes u s) {t : State} (g : SameView s t) : SameHomes u t :=
  ⟨g.homes.lanes.trans h.lanes, g.homes.pots.trans h.pots, fun sub hsub => (g.homes.regplace sub hsub).trans (h.regplace sub hsub)⟩

theorem SameHomes.refl (s : State) : SameHomes s s := ⟨rfl, rfl, fun _ _ => rfl⟩

theorem SameHomes.withCaddy (h : SameHomes u s) (c : Caddy) : SameHomes u { s with caddy := c } := ⟨h.lanes, h.pots, h.regplace⟩

theorem SameHomes.count (h : SameHomes u s) {idx : Nat} (hi : 0x2321 ≤ idx) (sub n : Nat) : SameHomes u (s.count idx sub n) :=
  h.of_view ((SameView.refl s).count hi sub n)

theorem SameHomes.setLine (h : SameHomes u s) (k : Nat) (l : Line) : SameHomes u (s.setLine k l) := h.withCaddy _

theorem SameHomes.setGuard (h : SameHomes u s) (cad : Nat) (g : List Nat) : SameHomes u (s.setGuard cad g) := h.withCaddy _

theorem SameHomes.guardEnter (h : SameHomes u s) (pa : Nat) : SameHomes u (s.guardEnter pa) := by
  unfold State.guardEnter
  split
  · exact h.setGuard _ _
  · exact h

theorem SameHomes.dropLine (h : SameHomes u s) (pa : Nat) : SameHomes u (s.dropLine pa) := by
  unfold State.dropLine
  refine SameHomes.guardEnter ?_ pa
  split
  · exact (h.setLine _ _).count (by omega) _ _
  · exact h

end

theorem State.guardOn_of_regs {s t : State} (h : t.regs = s.regs) : t.guardOn = s.guardOn := by
  rw [State.guardOn, State.bit_of_reg (State.reg_of_regs h 0x2310 8), State.guardOn]

theorem State.setLine_regs (s : State) (k : Nat) (l : Line) : (s.setLine k l).regs = s.regs := rfl

theorem mem_guardAdd (g : List Nat) (line : Nat) : line ∈ guardAdd g line := by
  unfold guardAdd
  dsimp only
  rw [List.drop_append_of_le_length (by simp)]
  exact List.mem_append_right _ (List.mem_singleton_self _)

section
variable (s : State) (pa : Nat)

theorem State.guard_setGuard (cad : Nat) (g : List Nat) : (s.setGuard cad g).guard cad = g := by
  unfold State.setGuard State.guard
  by_cases h : cad = 0 <;> simp only [h, if_true, if_false]

theorem State.guardEnter_mem (hon : s.guardOn = true) : pa / 128 ∈ (s.guardEnter pa).guard (s.homeOf pa) := by
  rw [State.guardEnter, if_pos hon, State.guard_setGuard]
  exact mem_guardAdd _ _

theorem State.setGuard_lines (cad : Nat) (g : List Nat) : (s.setGuard cad g).caddy.lines = s.caddy.lines := by
  unfold State.setGuard
  split <;> rfl

theorem State.guardEnter_lines : (s.guardEnter pa).caddy.lines = s.caddy.lines := by
  unfold State.guardEnter
  split
  · exact s.setGuard_lines _ _
  · rfl

theorem State.count_lines (idx sub n : Nat) : (s.count idx sub n).caddy.lines = s.caddy.lines := rfl

/-- A dropped line is gone from its way. -/
theorem State.dropLine_line {k : Nat} (h : s.findWay pa = some k) : (s.dropLine pa).line k = Line.empty := by
  simp only [State.dropLine, h]
  rw [State.line_of_lines (State.guardEnter_lines _ _), State.line_of_lines (State.count_lines _ _ _ _), State.line_setLine_self]

/-- A dropped line enters the guard, where that is on. -/
theorem State.dropLine_guard (hon : s.guardOn = true) : pa / 128 ∈ (s.dropLine pa).guard (s.homeOf pa) := by
  cases hway : s.findWay pa with
  | none =>
    simp only [State.dropLine, hway]
    exact s.guardEnter_mem pa hon
  | some k =>
    simp only [State.dropLine, hway]
    have hdropped := ((SameHomes.refl s).setLine k Line.empty).count (idx := 0x3300 + s.homeOf pa) (by omega) 0x0D 1
    have hline : (s.setLine k Line.empty).guardOn = s.guardOn := State.guardOn_of_regs (s.setLine_regs k _)
    have hon' := ((SameView.refl (s.setLine k Line.empty)).count (idx := 0x3300 + s.homeOf pa) (by omega) 0x0D 1).guardOn
    rw [hline, hon] at hon'
    have hmem := State.guardEnter_mem _ pa hon'
    rwa [hdropped.homeOf] at hmem

end

end Sys2Proof.Machine
end

section
/-! SUPPORT. The read at its home slice, hit, missed, guarded and marked: the statement from its clauses. -/

namespace Sys2Proof.Machine

/-! ### Every sector is at hand (R159, R171, R217) -/

theorem State.missRoom_nil (s : State) (pa : Nat) : s.missRoom pa [] = true := by simp [State.missRoom]

section
variable {s v : State} {id : Nat} {r : Req}

theorem SameHomes.readOut (h : SameHomes s v) (q : Req) : SameHomes s (v.readOut q) := by
  have hcount (n : Nat) := h.of_view ((SameView.refl v).countConsumed (v.homeOf (addrLocal q.addr)) n)
  unfold State.readOut
  dsimp only
  split
  · exact (hcount _).dropLine _
  · exact hcount _

theorem SameView.readBrings_takeValid (h : SameView s v) (hkind : r.kind = .read) (hneeds : s.needs r = []) :
    v.readBrings (s.takeValid r) = s.readBrings r := by
  have hmap : (sectorsOf (addrLocal r.addr) r.len).map (v.readOf (s.takeValid r)) =
      (sectorsOf (addrLocal r.addr) r.len).map (s.readOf r) :=
    List.map_congr_left fun sec hsec => (h.readOf _ sec).trans (State.readOf_takeValid hkind hneeds hsec)
  unfold State.readBrings
  exact congrArg (fun xs => ReqStage.done (cutBytes (addrLocal r.addr) r.len xs) (xs.any (·.2))) hmap

/-- A read that lacks nothing starts back with what it reads. -/
theorem State.finishRead_answers (hview : SameView s v) (hreq : ReqIs s v id (s.takeValid r)) (hkind : r.kind = .read)
    (hneeds : s.needs r = []) : ReqIs s (v.finishRead (s.takeValid r)) id (s.readAnswer r) := by
  have hid : (s.takeValid r).id = id := State.req?_id hreq.found
  have hout : ReqIs s (v.readOut (s.takeValid r)) id (s.takeValid r) :=
    hreq.of_keeps (State.readOut_keeps v _) (by decide)
  have hgot := hout.updReq (f := fun q => { q with got := [] }) fun _ => rfl
  have hback : (v.readOut (s.takeValid r)).routeBack r.master (addrLocal r.addr) = s.routeBack r.master (addrLocal r.addr) :=
    (hview.homes.readOut _).routeBack _ _
  have hroute : (if r.kind = .write then [] else
      ((v.readOut (s.takeValid r)).updReq id fun q => { q with got := [] }).routeBack r.master (addrLocal r.addr)) =
        s.routeBack r.master (addrLocal r.addr) := by
    rw [hkind, if_neg (by decide)]
    exact hback
  have hanswer := hgot.reply hid
    (cutBytes (addrLocal r.addr) r.len ((sectorsOf (addrLocal r.addr) r.len).map (v.readOf (s.takeValid r))))
    (((sectorsOf (addrLocal r.addr) r.len).map (v.readOf (s.takeValid r))).any (·.2))
  rw [State.finishRead_eq, hid]
  have hbrings := hview.readBrings_takeValid hkind hneeds
  unfold State.readAnswer
  rw [← hbrings, ← hroute]
  exact hanswer

variable (hreq : s.req? id = some r) (hkind : r.kind = .read)
  (hfree : s.readFree (s.portOf (addrLocal r.addr)) (addrLocal r.addr / 128) = true)
  (hguard : s.guarded (addrLocal r.addr) = false) (hneeds : s.needs r = [])
include hkind hfree hguard hneeds

theorem State.serveRead_hit : s.serveRead r = (s.readTaken r).finishRead (s.takeValid r) := by
  have hneeds' : (s.readTaken r).needs (s.takeValid r) = [] :=
    ((s.readTaken_view r).needs _).trans ((State.needs_takeValid hkind).trans hneeds)
  have hkind' : (s.takeValid r).kind = .read := hkind
  rw [State.serveRead_eq hfree hguard (by rw [hneeds]; exact s.missRoom_nil _), hneeds, State.noteDemand, if_pos rfl,
    State.resume, hneeds']
  simp only [State.perform, hkind']

theorem State.serveRead_hit_keeps : State.Keeps [.regs, .caddy, .reqs] s (s.serveRead r) := by
  rw [State.serveRead_hit hkind hfree hguard hneeds]
  exact State.finishRead_keeps (List.Subset.refl _) (s.readTaken_keeps r) _

theorem State.serveRead_hit_caddy : (s.serveRead r).caddy = ((s.readTaken r).readOut (s.takeValid r)).caddy := by
  rw [State.serveRead_hit hkind hfree hguard hneeds]
  rfl

theorem State.serveRead_hit_view (hmark : r.marked = false) : SameView s (s.serveRead r) := by
  rw [State.serveRead_hit hkind hfree hguard hneeds, State.finishRead_eq, State.readOut_unmarked (r := s.takeValid r) hmark]
  exact (((s.readTaken_view r).countConsumed _ _).updReq _ _).updReq _ _

theorem State.serveRead_hit_port (hmark : r.marked = false) :
    ((s.serveRead r).slicePort (s.portOf (addrLocal r.addr))).readAt = some s.time.core := by
  rw [State.slicePort_of_ports (s := s.readTaken r), State.readTaken_port]
  rw [State.serveRead_hit_caddy hkind hfree hguard hneeds, State.readOut_unmarked (r := s.takeValid r) hmark]
  exact State.countConsumed_ports _ _ _

include hreq

theorem State.serveRead_hit_answers : ReqIs s (s.serveRead r) id (s.readAnswer r) := by
  rw [State.serveRead_hit hkind hfree hguard hneeds]
  exact State.finishRead_answers (s.readTaken_view r) (State.readTaken_req hreq) hkind hneeds

end

/-! ### A line in the guard (R174, R187) -/

theorem foldXor_lt (v lo n : Nat) {w : Nat} (hw : 0 < w) : foldXor v lo w n < 2 ^ w := by
  refine List.foldlRecOn (motive := (· < 2 ^ w)) (List.range n) _ (Nat.two_pow_pos w) fun a ha i _ => ?_
  have hbits : bitsOf v (lo + w * i + w - 1) (lo + w * i) < 2 ^ w := by
    have hwidth : lo + w * i + w - 1 + 1 - (lo + w * i) = w := by omega
    rw [bitsOf, hwidth]
    exact Nat.mod_lt _ (Nat.two_pow_pos w)
  exact Nat.xor_lt_two_pow ha hbits

/-- A home is a small number, whatever the placement of its region. -/
theorem State.homeOf_le (s : State) (pa : Nat) : s.homeOf pa ≤ 2 := by
  have hplace : s.placement (bitsOf pa 38 30) < 4 := by
    have hwidth (n : Nat) : 2 * n + 1 + 1 - 2 * n = 2 := by omega
    rw [State.placement, State.fld, fieldOf, hwidth]
    exact Nat.mod_lt _ (by decide)
  have hspread : stackAt 0 pa < 8 := foldXor_lt pa 12 9 (by decide)
  unfold State.homeOf homeAt
  split <;> omega

/-- A hit on the guard is logged, raises its event and is counted. -/
theorem State.guardHit_unmarked (s : State) (pa : Nat) (m : Master) : s.guardHit pa m false =
    (s.ralu (s.homeOf pa) pa (s.srcOf m)).count (0x3300 + s.homeOf pa) 0x0F := rfl

theorem SameView.ralu {u s : State} (h : SameView u s) (cad pa src : Nat) : SameView u (s.ralu cad pa src) := by
  have hlog : ¬ ViewKey (regKey 0x2310 0x0D) := by simp [ViewKey, regKey]
  have hevent : ¬ ViewKey (regKey 0x2310 0x0C) := by simp [ViewKey, regKey]
  unfold State.ralu
  refine SameView.event ?_ hevent _
  split
  · exact h.setReg hlog _
  · exact h

theorem State.ralu_bit {s : State} {cad : Nat} (hcad : cad < 64) (pa src : Nat) (h : s.heldClear 0x2310 0x0C cad = false) :
    (s.ralu cad pa src).bit 0x2310 0x0C cad = true := by
  unfold State.ralu
  refine State.bit_event_self (by decide) hcad ?_
  split
  · rwa [State.heldClear_setReg]
  · exact h

/-- A count does not touch the events of the caddies. -/
theorem State.bit_count_of_lt (s : State) {i j idx : Nat} (hj : j < 256) (hi : i < idx) (sub n k : Nat) :
    (s.count idx sub n).bit i j k = s.bit i j k :=
  State.bit_of_reg (State.reg_setReg_ne s _ (by simp only [regKey, ne_eq]; omega)) k

theorem State.bit_countConsumed (s : State) {i j : Nat} (hj : j < 256) (hi : i < 0x3400) (cad n k : Nat) :
    (s.countConsumed cad n).bit i j k = s.bit i j k := by
  unfold State.countConsumed State.consumed
  split
  · rfl
  · exact s.bit_count_of_lt hj (by simp only [intCounter]; split <;> omega) _ _ _

/-- A read takes its port, and its bytes are counted. -/
def State.readCounted (s : State) (r : Req) : State :=
  (s.takeRead (s.portOf (addrLocal r.addr))).count (0x3420 + r.master.nc.val) 1 r.len

/-- The line of a read is in the guard: the hit and the poison it brings are counted. -/
def State.readGuarded (s : State) (r : Req) : State :=
  (s.guardHit (addrLocal r.addr) r.master r.marked).countConsumed (s.homeOf (addrLocal r.addr))
    (sectorsOf (addrLocal r.addr) r.len).length

section
variable {s : State} {id : Nat} {r : Req}

theorem State.readCounted_view (s : State) (r : Req) : SameView s (s.readCounted r) :=
  ((SameView.refl s).setPorts _ _).count (by omega) _ _

theorem State.readCounted_keeps (s : State) (r : Req) : State.Keeps [.regs, .caddy] s (s.readCounted r) :=
  State.count_keeps (by decide) (State.takeRead_keeps (by decide) (State.Keeps.refl _ s) _) _ _ _

theorem State.readGuarded_eq (hmark : r.marked = false) : s.readGuarded r =
    ((s.ralu (s.homeOf (addrLocal r.addr)) (addrLocal r.addr) (s.srcOf r.master)).count (0x3300 + s.homeOf (addrLocal r.addr))
      0x0F).countConsumed (s.homeOf (addrLocal r.addr)) (sectorsOf (addrLocal r.addr) r.len).length := by
  rw [State.readGuarded, hmark, State.guardHit_unmarked]

theorem State.readGuarded_view (hmark : r.marked = false) : SameView s (s.readGuarded r) := by
  rw [State.readGuarded_eq hmark]
  exact (((SameView.refl s).ralu _ _ _).count (by omega) _ _).countConsumed _ _

theorem State.readGuarded_keeps (hmark : r.marked = false) : State.Keeps [.regs, .link, .can, .out] s (s.readGuarded r) := by
  rw [State.readGuarded_eq hmark]
  exact State.countConsumed_keeps (by decide) (State.count_keeps (by decide)
    (State.ralu_keeps (List.Subset.refl _) (State.Keeps.refl _ s) _ _ _) _ _ _) _ _

theorem State.readGuarded_bit (hmark : r.marked = false) (hheld : s.heldClear 0x2310 0x0C (s.homeOf (addrLocal r.addr)) = false) :
    (s.readGuarded r).bit 0x2310 0x0C (s.homeOf (addrLocal r.addr)) = true := by
  have hhome := s.homeOf_le (addrLocal r.addr)
  rw [State.readGuarded_eq hmark, State.bit_countConsumed _ (by decide) (by decide),
    State.bit_count_of_lt _ (by decide) (by omega)]
  exact State.ralu_bit (by omega) _ _ hheld

theorem State.serveRead_guarded (hfree : s.readFree (s.portOf (addrLocal r.addr)) (addrLocal r.addr / 128) = true)
    (hguard : s.guarded (addrLocal r.addr) = true) :
    s.serveRead r = ((s.readCounted r).readGuarded r).reply r (List.replicate r.len 0) true := by
  simp only [State.serveRead, hfree, hguard, Bool.not_true, Bool.false_eq_true, if_false, if_true]
  rfl

/-- A read of a guarded line is answered poisoned, and its caddy raises the event. -/
theorem State.serveRead_guarded_answers (hreq : s.req? id = some r) (hkind : r.kind = .read)
    (hfree : s.readFree (s.portOf (addrLocal r.addr)) (addrLocal r.addr / 128) = true)
    (hguard : s.guarded (addrLocal r.addr) = true) (hmark : r.marked = false) :
    State.Keeps [.regs, .caddy, .reqs, .link, .can, .out] s (s.serveRead r)
      ∧ (s.serveRead r).req? id = some { r with
          stage := .done (List.replicate r.len 0) true, route := s.routeBack r.master (addrLocal r.addr) }
      ∧ SameView s (s.serveRead r) ∧ (s.serveRead r).caddy.lines = s.caddy.lines
      ∧ (s.heldClear 0x2310 0x0C (s.homeOf (addrLocal r.addr)) = false →
          (s.serveRead r).bit 0x2310 0x0C (s.homeOf (addrLocal r.addr)) = true) := by
  have hview := s.readCounted_view r
  have hkeeps := s.readCounted_keeps r
  have hgkeeps : State.Keeps [.regs, .link, .can, .out] (s.readCounted r) _ := State.readGuarded_keeps hmark
  have hgview := hview.trans (State.readGuarded_view hmark)
  have hfound : ReqIs s ((s.readCounted r).readGuarded r) id r :=
    ((ReqIs.refl hreq).of_keeps hkeeps (by decide)).of_keeps hgkeeps (by decide)
  have hanswer := (hfound.reply (State.req?_id hreq) (List.replicate r.len 0) true).found
  rw [hkind, if_neg (by decide), hgview.routeBack, ← hkind] at hanswer
  have hlines : ((s.readCounted r).readGuarded r).caddy.lines = (s.readCounted r).caddy.lines :=
    congrArg Caddy.lines (hgkeeps.parts .caddy (by decide))
  rw [State.serveRead_guarded hfree hguard]
  refine ⟨State.reply_keeps (by decide) ((State.Keeps.wider hkeeps (by decide)).trans
    (State.Keeps.wider hgkeeps (by decide))) _ _ _, hanswer, hgview.updReq _ _,
    hlines, fun hheld => ?_⟩
  rw [← hview.homeOf]
  refine State.readGuarded_bit hmark ?_
  rw [hview.homeOf, State.heldClear_congr (hkeeps.parts .cleared (by decide)) (hkeeps.parts .time (by decide)), hheld]

end

/-! ### Some sectors are missing (R159) -/

section
variable {s : State}

theorem State.fetching_iff (sec : Nat) :
    s.fetching sec = true ↔ ∃ q ∈ s.hbm.queue, q.write = false ∧ q.scrub = false ∧ q.sector = sec := by
  simp [State.fetching, and_assoc]

/-- Reads of some sectors are outstanding, and all that a slice and the network see is as it was. -/
structure ReadsAsked (s t : State) (secs : List Nat) : Prop where
  mem : t.hbm.mem = s.hbm.mem
  poison : t.hbm.poison = s.hbm.poison
  reqs : t.reqs = s.reqs
  queue : ∀ q ∈ s.hbm.queue, q ∈ t.hbm.queue
  view : SameView s t
  fetching : ∀ sec ∈ secs, t.fetching sec = true

theorem State.hbmRead_asked (nc : Fin 7) (sec : Nat) (dl : Option (BitVec 24)) (pre na : Bool) :
    ReadsAsked s (s.hbmRead nc sec dl pre na) [sec] := by
  have hview := (SameView.refl s).hbmRead nc sec dl pre na
  by_cases hf : s.fetching sec = true
  · rw [State.hbmRead, if_pos hf] at hview ⊢
    exact ⟨rfl, rfl, rfl, fun _ hq => hq, hview, by simpa using hf⟩
  · rw [State.hbmRead, if_neg hf] at hview ⊢
    refine ⟨rfl, rfl, rfl, fun _ hq => List.mem_append_left _ hq, hview, ?_⟩
    simpa using (State.fetching_iff sec).2 ⟨_, List.mem_append_right _ (List.mem_singleton_self _), rfl, rfl, rfl⟩

theorem ReadsAsked.append {t u : State} {secs secs' : List Nat} (h : ReadsAsked s t secs) (g : ReadsAsked t u secs') :
    ReadsAsked s u (secs ++ secs') := by
  refine ⟨g.mem.trans h.mem, g.poison.trans h.poison, g.reqs.trans h.reqs, fun q hq => g.queue q (h.queue q hq),
    h.view.trans g.view, fun sec hsec => ?_⟩
  rcases List.mem_append.1 hsec with hsec | hsec
  · obtain ⟨q, hq, hread⟩ := (State.fetching_iff _).1 (h.fetching sec hsec)
    exact (State.fetching_iff _).2 ⟨q, g.queue q hq, hread⟩
  · exact g.fetching sec hsec

theorem State.hbmReads_asked (nc : Fin 7) (dl : Option (BitVec 24)) (pre na : Bool) : ∀ (secs : List Nat) (s : State),
    ReadsAsked s (secs.foldl (fun (s : State) sec => s.hbmRead nc sec dl pre na) s) secs
  | [], s => ⟨rfl, rfl, rfl, fun _ hq => hq, SameView.refl s, fun _ h => absurd h List.not_mem_nil⟩
  | sec :: secs, s => (s.hbmRead_asked nc sec dl pre na).append (State.hbmReads_asked nc dl pre na secs _)

end

section
variable {s : State} {id : Nat} {r : Req} (hreq : s.req? id = some r) (hkind : r.kind = .read)
  (hfree : s.readFree (s.portOf (addrLocal r.addr)) (addrLocal r.addr / 128) = true)
include hreq hkind hfree

theorem State.serveRead_miss (hguard : s.guarded (addrLocal r.addr) = false) (hneeds : s.needs r ≠ [])
    (hroom : s.missRoom (addrLocal r.addr) (s.needs r) = true) :
    State.Keeps [.regs, .caddy, .reqs, .hbm] s (s.serveRead r)
      ∧ (s.serveRead r).req? id = some { s.takeValid r with stage := .missing }
      ∧ (∀ sec ∈ s.needs r, (s.serveRead r).fetching sec = true)
      ∧ (s.serveRead r).hbm.mem = s.hbm.mem ∧ (s.serveRead r).hbm.poison = s.hbm.poison ∧ SameView s (s.serveRead r) := by
  let v := (s.readTaken r).noteDemand (s.takeValid r) (s.needs r)
  have hview : SameView s v := (s.readTaken_view r).noteDemand _ _
  have hkeeps : State.Keeps [.regs, .caddy, .reqs] s v := State.noteDemand_keeps (by decide) (s.readTaken_keeps r) _ _
  have hreqv : ReqIs s v id (s.takeValid r) := (State.readTaken_req hreq).of_keeps
    (State.noteDemand_keeps (List.Subset.refl _) (State.Keeps.refl _ _) _ _) (by decide)
  have hhbm : v.hbm = s.hbm := hkeeps.parts .hbm (by decide)
  have hid : (s.takeValid r).id = id := State.req?_id hreqv.found
  have hneedsv : v.needs (s.takeValid r) = s.needs r := (hview.needs _).trans (State.needs_takeValid hkind)
  have hfetch : s.serveRead r = v.fetchFor (s.takeValid r) (s.needs r) := by
    rw [State.serveRead_eq hfree hguard hroom, State.resume, hneedsv]
    split
    · contradiction
    · rfl
  have hasked : ReadsAsked v _ (s.needs r) := State.hbmReads_asked r.master.nc r.deadline false r.marked (s.needs r) v
  have hmissing := (hreqv.of_reqs hasked.reqs).updReq (f := fun q => { q with stage := .missing }) fun _ => rfl
  rw [hfetch, State.fetchFor, hid]
  exact ⟨State.updReq_keeps (by decide) (State.Keeps.foldl (fun _ _ h => State.hbmRead_keeps (by decide) h _ _ _ _ _) _
      (State.Keeps.wider hkeeps (by decide))) _ _, hmissing.found, hasked.fetching, hasked.mem.trans (congrArg Hbm.mem hhbm),
    hasked.poison.trans (congrArg Hbm.poison hhbm), (hview.trans hasked.view).updReq _ _⟩

end

/-! ### The commands -/

section
variable {s : State} {id : Nat} {r : Req} (hreq : s.req? id = some r) (hkind : r.kind = .read) (hslice : s.atSlice r = true)
include hreq hkind hslice

theorem State.sliceRead_busy (hmark : r.marked = false)
    (hbusy : s.readFree (s.portOf (addrLocal r.addr)) (addrLocal r.addr / 128) = false) (errs : List WordErr) (tagLost : Bool) :
    s.sliceRead id errs tagLost = s := by
  simp [State.sliceRead, hreq, hkind, hmark, hslice, hbusy]

theorem State.sliceRead_serves (hmark : r.marked = false)
    (hfree : s.readFree (s.portOf (addrLocal r.addr)) (addrLocal r.addr / 128) = true) :
    s.sliceRead id [] false = s.serveRead r := by
  simp [State.sliceRead, hreq, hkind, hmark, hslice, hfree, State.lineErrors_nil]

theorem State.markedRead_serves (hmark : r.marked = true)
    (hfree : s.readFree (s.portOf (addrLocal r.addr)) (addrLocal r.addr / 128) = true)
    (hguard : s.guarded (addrLocal r.addr) = false) :
    s.markedRead id [] false = if s.linePinned (addrLocal r.addr) then (s.ignoreMark r).serveRead { r with marked := false }
      else s.serveRead r := by
  simp [State.markedRead, hreq, hkind, hmark, hslice, hfree, State.lineErrors_nil, hguard]

end

section
variable {s : State} {id : Nat} {r : Req}

/-! ### A mark on a pinned line is ignored (R177) -/

theorem State.ignoreMark_view (s : State) (r : Req) : SameView s (s.ignoreMark r) :=
  (((SameView.refl s).event (by simp [ViewKey, regKey]) _).count (by omega) _ _).updReq _ _

theorem State.ignoreMark_bit (hheld : s.heldClear 0x2310 0x0C (6 + s.homeOf (addrLocal r.addr)) = false) :
    (s.ignoreMark r).bit 0x2310 0x0C (6 + s.homeOf (addrLocal r.addr)) = true := by
  have hhome := s.homeOf_le (addrLocal r.addr)
  have hcount := (s.event 0x2310 0x0C (6 + s.homeOf (addrLocal r.addr))).bit_count_of_lt (i := 0x2310) (j := 0x0C)
    (idx := 0x3300 + s.homeOf (addrLocal r.addr)) (by decide) (by omega) 0x11 1 (6 + s.homeOf (addrLocal r.addr))
  exact hcount.trans (State.bit_event_self (by decide) (by omega) hheld)

theorem State.bit_countRead (s : State) {i j : Nat} (hj : j < 256) (hi : i < 0x3300) (r : Req) (miss : List Nat) (k : Nat) :
    (s.countRead r miss).bit i j k = s.bit i j k := by
  have hbytes := s.bit_count_of_lt hj (show i < 0x3420 + r.master.nc.val by omega) 1 r.len k
  unfold State.countRead
  extract_lets pa cad n s1 s2
  have hhits : s2.bit i j k = s.bit i j k := by
    unfold s2
    split
    · have htouch : (s1.touch pa).regs = s1.regs :=
        (State.touch_keeps (List.Subset.refl _) (State.Keeps.refl _ s1) pa).parts .regs (by decide)
      rw [State.bit_count_of_lt _ hj (by omega), State.bit_of_reg (State.reg_of_regs htouch i j)]
      exact hbytes
    · exact hbytes
  split
  · exact hhits
  · rw [State.bit_count_of_lt _ hj (by omega)]
    exact hhits

theorem State.bit_serveRead_hit (hkind : r.kind = .read)
    (hfree : s.readFree (s.portOf (addrLocal r.addr)) (addrLocal r.addr / 128) = true)
    (hguard : s.guarded (addrLocal r.addr) = false) (hneeds : s.needs r = []) (hmark : r.marked = false)
    {i j : Nat} (hj : j < 256) (hi : i < 0x3300) (k : Nat) : (s.serveRead r).bit i j k = s.bit i j k := by
  have hreply (v : State) (f : Req → Req) (d : List Byte) (p : Bool) : ((v.updReq r.id f).reply (s.takeValid r) d p).bit i j k
      = v.bit i j k := rfl
  have htaken (f : Req → Req) : ((s.takeRead (s.portOf (addrLocal r.addr))).updReq r.id f).bit i j k = s.bit i j k := rfl
  rw [State.serveRead_hit hkind hfree hguard hneeds, State.finishRead_eq, State.readOut_unmarked (r := s.takeValid r) hmark]
  refine (hreply _ _ _ _).trans ?_
  rw [State.bit_countConsumed _ hj (by omega), State.readTaken, State.bit_countRead _ hj hi, htaken]

end

theorem State.guard_of_caddy {s t : State} (h : t.caddy = s.caddy) (cad : Nat) : t.guard cad = s.guard cad := by
  rw [State.guard, h, State.guard]

/-! ### The clauses -/

section
variable {s : State} {id : Nat} {r : Req} (hreq : s.req? id = some r) (hkind : r.kind = .read) (hslice : s.atSlice r = true)
  (hfree : s.readFree (s.portOf (addrLocal r.addr)) (addrLocal r.addr / 128) = true)
include hreq hkind hslice hfree

theorem sliceRead_hits (hmark : r.marked = false) (hguard : s.guarded (addrLocal r.addr) = false) (hneeds : s.needs r = []) :
    Runs (.sliceRead id [] false) s [.regs, .caddy, .reqs] fun t =>
      t.req? id = some (s.readAnswer r) ∧ (∀ q ∈ s.reqs, q.id ≠ id → q ∈ t.reqs)
      ∧ (t.slicePort (s.portOf (addrLocal r.addr))).readAt = some s.time.core
      ∧ ∀ k, (t.line k).data = (s.line k).data ∧ (t.line k).valid = (s.line k).valid
          ∧ (t.line k).dirty = (s.line k).dirty ∧ (t.line k).tag = (s.line k).tag := by
  have hexec : exec (.sliceRead id [] false) s = .next (s.serveRead r) :=
    congrArg Host.Outcome.next (State.sliceRead_serves hreq hkind hslice hmark hfree)
  have hview : SameView s (s.serveRead r) := State.serveRead_hit_view hkind hfree hguard hneeds hmark
  obtain ⟨hfound, hothers⟩ := State.serveRead_hit_answers hreq hkind hfree hguard hneeds
  exact ⟨_, hexec, (State.serveRead_hit_keeps hkind hfree hguard hneeds).frame, hfound, hothers,
    State.serveRead_hit_port hkind hfree hguard hneeds hmark,
    fun k => ⟨hview.data k, hview.valid k, hview.dirty k, hview.tag k⟩⟩

theorem sliceRead_misses (hmark : r.marked = false) (hguard : s.guarded (addrLocal r.addr) = false) (hneeds : s.needs r ≠ [])
    (hroom : s.missRoom (addrLocal r.addr) (s.needs r) = true) :
    Runs (.sliceRead id [] false) s [.regs, .caddy, .reqs, .hbm] fun t =>
      t.req? id = some { s.takeValid r with stage := .missing }
      ∧ (∀ sec ∈ s.needs r, ∃ q ∈ t.hbm.queue, q.write = false ∧ q.scrub = false ∧ q.sector = sec)
      ∧ t.hbm.mem = s.hbm.mem ∧ t.hbm.poison = s.hbm.poison ∧ ∀ k, (t.line k).data = (s.line k).data := by
  have hexec : exec (.sliceRead id [] false) s = .next (s.serveRead r) :=
    congrArg Host.Outcome.next (State.sliceRead_serves hreq hkind hslice hmark hfree)
  obtain ⟨hkeeps, hfound, hfetch, hmem, hpoison, hview⟩ := State.serveRead_miss hreq hkind hfree hguard hneeds hroom
  exact ⟨_, hexec, hkeeps.frame, hfound, fun sec hsec => (State.fetching_iff sec).1 (hfetch sec hsec), hmem, hpoison, hview.data⟩

theorem sliceRead_guarded (hmark : r.marked = false) (hguard : s.guarded (addrLocal r.addr) = true) :
    Runs (.sliceRead id [] false) s [.regs, .caddy, .reqs, .link, .can, .out] fun t =>
      t.req? id = some { r with
        stage := .done (List.replicate r.len 0) true, route := s.routeBack r.master (addrLocal r.addr) }
      ∧ t.caddy.lines = s.caddy.lines ∧ t.caddy.guard0 = s.caddy.guard0 ∧ t.caddy.guard1 = s.caddy.guard1
      ∧ (s.heldClear 0x2310 0x0C (s.homeOf (addrLocal r.addr)) = false →
          t.bit 0x2310 0x0C (s.homeOf (addrLocal r.addr)) = true) := by
  have hexec : exec (.sliceRead id [] false) s = .next (s.serveRead r) :=
    congrArg Host.Outcome.next (State.sliceRead_serves hreq hkind hslice hmark hfree)
  obtain ⟨hkeeps, hfound, hview, hlines, hbit⟩ := State.serveRead_guarded_answers hreq hkind hfree hguard hmark
  exact ⟨_, hexec, hkeeps.frame, hfound, hlines, hview.guard0, hview.guard1, hbit⟩

theorem markedRead_drops (hmark : r.marked = true) (hguard : s.guarded (addrLocal r.addr) = false) (hneeds : s.needs r = [])
    (hpin : s.linePinned (addrLocal r.addr) = false) :
    Runs (.markedRead id [] false) s [.regs, .caddy, .reqs] fun t =>
      t.req? id = some (s.readAnswer r)
      ∧ (∀ k, s.findWay (addrLocal r.addr) = some k → t.line k = Line.empty)
      ∧ (s.guardOn = true → addrLocal r.addr / 128 ∈ t.guard (s.homeOf (addrLocal r.addr))) := by
  have hexec : exec (.markedRead id [] false) s = .next (s.serveRead r) := by
    have hserves := State.markedRead_serves hreq hkind hslice hmark hfree hguard
    rw [hpin, if_neg (by decide)] at hserves
    exact congrArg Host.Outcome.next hserves
  have hcaddy := State.serveRead_hit_caddy hkind hfree hguard hneeds
  rw [State.readOut_marked (r := s.takeValid r) hmark] at hcaddy
  have hview := (s.readTaken_view r).countConsumed ((s.readTaken r).homeOf (addrLocal r.addr))
    (((sectorsOf (addrLocal r.addr) r.len).map ((s.readTaken r).readOf (s.takeValid r))).filter (·.2)).length
  refine ⟨_, hexec, (State.serveRead_hit_keeps hkind hfree hguard hneeds).frame,
    (State.serveRead_hit_answers hreq hkind hfree hguard hneeds).found, fun k hway => ?_, fun hon => ?_⟩
  · rw [State.line_of_lines (congrArg Caddy.lines hcaddy)]
    exact State.dropLine_line _ _ ((hview.findWay _).trans hway)
  · have hmem := State.dropLine_guard _ (addrLocal r.addr) (hview.guardOn.trans hon)
    rw [hview.homeOf] at hmem
    rw [State.guard_of_caddy hcaddy]
    exact hmem

theorem markedRead_ignores (hmark : r.marked = true) (hguard : s.guarded (addrLocal r.addr) = false) (hneeds : s.needs r = [])
    (hpin : s.linePinned (addrLocal r.addr) = true) :
    Runs (.markedRead id [] false) s [.regs, .caddy, .reqs, .link, .can, .out] fun t =>
      (s.heldClear 0x2310 0x0C (6 + s.homeOf (addrLocal r.addr)) = false →
        t.bit 0x2310 0x0C (6 + s.homeOf (addrLocal r.addr)) = true)
      ∧ t.caddy.guard0 = s.caddy.guard0 ∧ t.caddy.guard1 = s.caddy.guard1
      ∧ ∀ k, (t.line k).data = (s.line k).data ∧ (t.line k).valid = (s.line k).valid := by
  have hexec : exec (.markedRead id [] false) s = .next ((s.ignoreMark r).serveRead { r with marked := false }) := by
    have hserves := State.markedRead_serves hreq hkind hslice hmark hfree hguard
    rw [hpin, if_pos rfl] at hserves
    exact congrArg Host.Outcome.next hserves
  have hview := s.ignoreMark_view r
  have hkeeps : State.Keeps [.regs, .reqs, .link, .can, .out] s (s.ignoreMark r) :=
    State.ignoreMark_keeps (List.Subset.refl _) (State.Keeps.refl _ s) r
  have hcaddy : (s.ignoreMark r).caddy = s.caddy := hkeeps.parts .caddy (by decide)
  have htime : (s.ignoreMark r).time = s.time := hkeeps.parts .time (by decide)
  have hfree' : (s.ignoreMark r).readFree ((s.ignoreMark r).portOf (addrLocal r.addr)) (addrLocal r.addr / 128) = true := by
    rw [hview.portOf, State.readFree, State.slicePort, hcaddy, htime]
    exact hfree
  have hguard' : (s.ignoreMark r).guarded (addrLocal r.addr) = false := (hview.guarded _).trans hguard
  have hneeds' : (s.ignoreMark r).needs { r with marked := false } = [] := by
    rw [hview.needs, ← hneeds]
    simp only [State.needs, hkind]
  have hserved : SameView s ((s.ignoreMark r).serveRead { r with marked := false }) :=
    hview.trans (State.serveRead_hit_view (r := { r with marked := false }) hkind hfree' hguard' hneeds' rfl)
  refine ⟨_, hexec, ((State.Keeps.wider hkeeps (by decide)).trans (State.Keeps.wider
    (State.serveRead_hit_keeps (r := { r with marked := false }) hkind hfree' hguard' hneeds') (by decide))).frame,
    fun hheld => ?_, hserved.guard0, hserved.guard1, fun k => ⟨hserved.data k, hserved.valid k⟩⟩
  rw [State.bit_serveRead_hit (r := { r with marked := false }) hkind hfree' hguard' hneeds' rfl (by decide) (by decide)]
  exact State.ignoreMark_bit hheld

end

/-- Settles O12: a read lacks a sector, or its line is guarded, or it starts back with what it reads; only a mark drops its
line, and only where the line is not pinned. -/
theorem sliceReadsServeHitMissGuardAndMark : Obligations.SliceReadsServeHitMissGuardAndMark :=
  ⟨fun _ _ _ hreq hkind hmark hslice =>
    ⟨fun hbusy errs tagLost => congrArg Host.Outcome.next (State.sliceRead_busy hreq hkind hslice hmark hbusy errs tagLost),
      fun hfree => ⟨sliceRead_hits hreq hkind hslice hfree hmark, sliceRead_misses hreq hkind hslice hfree hmark,
        sliceRead_guarded hreq hkind hslice hfree hmark⟩⟩,
    fun _ _ _ hreq hkind hmark hslice hfree hguard hneeds =>
      ⟨markedRead_drops hreq hkind hslice hfree hmark hguard hneeds,
        markedRead_ignores hreq hkind hslice hfree hmark hguard hneeds⟩⟩

end Sys2Proof.Machine
end

section
/-! SUPPORT. A write of one sector of a line that the caddy holds (R160, R168, R211). -/

namespace Sys2Proof.Machine

/-! ### A line's way is that of each of its bytes (R149, R151, R152) -/

theorem bitsOf_of_line {pa pa' : Nat} (h : pa / 128 = pa' / 128) (hi : Nat) {lo : Nat} (hlo : 7 ≤ lo) :
    bitsOf pa hi lo = bitsOf pa' hi lo := by
  have hsplit (a : Nat) : a / 2 ^ lo = a / 128 / 2 ^ (lo - 7) := by
    rw [Nat.div_div_eq_div_mul, show (128 : Nat) = 2 ^ 7 by rfl, ← pow_add, show 7 + (lo - 7) = lo by omega]
  rw [bitsOf, hsplit, h, ← hsplit, bitsOf]

theorem foldXor_of_line {pa pa' : Nat} (h : pa / 128 = pa' / 128) (w n : Nat) {lo : Nat} (hlo : 7 ≤ lo) :
    foldXor pa lo w n = foldXor pa' lo w n := by
  have hterm (i : Nat) : bitsOf pa (lo + w * i + w - 1) (lo + w * i) = bitsOf pa' (lo + w * i + w - 1) (lo + w * i) :=
    bitsOf_of_line h _ (by omega)
  simp only [foldXor, hterm]

section
variable {s : State} {pa pa' : Nat} (h : pa / 128 = pa' / 128)
include h

theorem State.homeOf_of_line : s.homeOf pa = s.homeOf pa' := by
  simp only [State.homeOf, homeAt, stackAt, bitsOf_of_line h 38 (lo := 30) (by decide), if_true,
    foldXor_of_line h 3 9 (lo := 12) (by decide)]

theorem State.setBase_of_line : s.setBase pa = s.setBase pa' := by
  simp only [State.setBase, State.sliceOf, sliceFn, setFn, State.homeOf_of_line h, bitsOf_of_line h 14 (lo := 7) (by decide),
    bitsOf_of_line h 22 (lo := 15) (by decide), bitsOf_of_line h 30 (lo := 23) (by decide),
    bitsOf_of_line h 38 (lo := 31) (by decide), bitsOf_of_line h 25 (lo := 15) (by decide),
    bitsOf_of_line h 36 (lo := 26) (by decide), bitsOf_of_line h 38 (lo := 37) (by decide)]

theorem State.findWay_of_line : s.findWay pa = s.findWay pa' := by
  rw [State.findWay, State.setBase_of_line h, h, State.findWay]

end

/-- The way of a sector is that of its line. -/
theorem State.findWay_sector (s : State) (pa : Nat) : s.findWay (32 * (pa / 32)) = s.findWay pa :=
  State.findWay_of_line (by omega)

/-! ### One sector of a line -/

theorem Line.sector_putSector (l : Line) {j : Nat} (hj : j < 4) (v : BitVec 256) : (l.putSector j v).sector j = v := by
  refine BitVec.eq_of_getLsbD_eq fun i hi => ?_
  have hlt : 256 * j + i < 1024 := by omega
  simp only [Line.sector, Line.putSector, BitVec.getLsbD_setWidth, BitVec.getLsbD_ushiftRight, BitVec.getLsbD_or,
    BitVec.getLsbD_and, BitVec.getLsbD_not, BitVec.getLsbD_shiftLeft, BitVec.getLsbD_ofNat, Nat.testBit_two_pow_sub_one]
  simp [hlt, hi, show i < 1024 by omega]

/-- A sector of a line as a write leaves it: its bytes merged, valid and dirty. -/
def Line.written (l : Line) (j lo : Nat) (bs : List Byte) (pois : Bool) : Line :=
  let x := mergeSector (l.sector j) (l.poison.getLsbD j) lo bs pois
  (l.putSector j x.1).setBits j true true x.2

theorem Line.written_sector (l : Line) {j : Nat} (hj : j < 4) (lo : Nat) (bs : List Byte) (pois : Bool) :
    (l.written j lo bs pois).sector j = (mergeSector (l.sector j) (l.poison.getLsbD j) lo bs pois).1 :=
  l.sector_putSector hj _

theorem getLsbD_or_one_shiftLeft (v : BitVec 4) {j : Nat} (hj : j < 4) : (v ||| (1 : BitVec 4) <<< j).getLsbD j = true := by
  simp [hj]

theorem getLsbD_and_not_one_shiftLeft (v : BitVec 4) {j : Nat} (hj : j < 4) :
    (v &&& ~~~((1 : BitVec 4) <<< j)).getLsbD j = false := by
  simp [hj]

theorem Line.written_bits (l : Line) {j : Nat} (hj : j < 4) (lo : Nat) (bs : List Byte) (pois : Bool) :
    (l.written j lo bs pois).valid.getLsbD j = true ∧ (l.written j lo bs pois).dirty.getLsbD j = true
      ∧ (l.written j lo bs pois).poison.getLsbD j = (mergeSector (l.sector j) (l.poison.getLsbD j) lo bs pois).2 := by
  refine ⟨getLsbD_or_one_shiftLeft _ hj, getLsbD_or_one_shiftLeft _ hj, ?_⟩
  unfold Line.written Line.setBits
  dsimp only
  split
  · rename_i h
    rw [getLsbD_or_one_shiftLeft _ hj, h]
  · rename_i h
    rw [getLsbD_and_not_one_shiftLeft _ hj, Bool.eq_false_iff.2 h]

/-! ### The write -/

section
variable {s : State} {k : Nat}

theorem State.writeSectorIn_present {sec : Nat} (hway : s.findWay (32 * sec) = some k) (lo : Nat) (bs : List Byte) (pois : Bool)
    (nc : Fin 7) : s.writeSectorIn sec lo bs pois nc =
      (s.setLine k ((s.line k).written (sec % 4) lo bs pois)).count (0x3300 + s.homeOf (32 * sec)) 5 := by
  rw [State.writeSectorIn, State.wayOf, hway]
  rfl

theorem State.touch_present {pa : Nat} (hway : s.findWay pa = some k) : s.touch pa = s.setLine k { s.line k with age := 0 } := by
  rw [State.touch, hway]

/-- The sectors of a whole sector's bytes. -/
theorem sectorPieces_whole {pa : Nat} {bs : List Byte} (hpa : pa % 32 = 0) (hlen : bs.length = 32) :
    sectorPieces pa bs = [(pa / 32, 0, bs)] := by
  have hone : (pa + 31) / 32 - pa / 32 + 1 = 1 := by omega
  have hstart : 32 * (pa / 32) = pa := by omega
  simp [sectorPieces, sectorsOf, hlen, hone, hstart, hpa, List.take_of_length_le, List.range_one]

theorem leBytes_length (n v : Nat) : (leBytes n v).length = n := by
  induction n generalizing v with
  | zero => rfl
  | succ n ih => simp [leBytes, ih]

theorem mergeSector_whole (old : BitVec 256) (oldPois : Bool) {bs : List Byte} (hlen : bs.length = 32) (pois : Bool) :
    mergeSector old oldPois 0 bs pois = (bytesBv bs, pois) := by
  have hold : (bvBytes old).length = 32 := leBytes_length 32 _
  simp [mergeSector, hlen, List.drop_eq_nil_of_le hold.le]

end

end Sys2Proof.Machine
end

section
/-! SUPPORT. The write and the atomic at their home slice: the statement from its clauses. -/

namespace Sys2Proof.Machine

/-! ### What hears of a finished write (R39, R165) -/

theorem State.settleTail_of_idle {s : State} (howed : s.seq.owed = []) (hconns : ∀ e ∈ s.fabric.conns, e.2.exec = none)
    (hwaits : s.link.waits = []) : s.payOwed.packetsDone.bar2sDone = s := by
  have hpaid : s.payOwed = s := by rw [State.payOwed, howed, List.foldl_nil]
  rw [hpaid, State.packetsDone_of_idle hconns, State.bar2sDone, hwaits, List.foldl_nil]

/-- A finished write whose master does nothing more leaves the network. -/
theorem State.settleReq_of_quiet {s : State} {r : Req} (hquiet : r.quiet) (hstage : r.stage ≠ .refused) :
    s.settleReq r = s.dropReq r.id := by
  obtain ⟨hepilogue, hrecord⟩ := hquiet
  unfold State.settleReq
  dsimp only
  split
  · exact absurd ‹_› (hepilogue _ _)
  · simp [hstage]
  · split <;> simp [hstage]
  · split <;> simp [hstage]
  · exact absurd ‹_› (hrecord _ _)
  · rfl

theorem State.req?_dropReq (s : State) (id : Nat) : (s.dropReq id).req? id = none := by
  simp [State.req?, State.dropReq]

/-- The finished writes of one number leave the network together. -/
theorem State.settleOnes {s : State} {id : Nat} {r : Req} (hreq : s.req? id = some r) (hquiet : r.quiet)
    (hstage : r.stage ≠ .refused) {ids : List Nat} (hne : ids ≠ []) (hids : ∀ i ∈ ids, i = id) :
    ids.foldl State.settleOne s = s.dropReq id := by
  have hid : r.id = id := State.req?_id hreq
  obtain ⟨i, ids, rfl⟩ := List.exists_cons_of_ne_nil hne
  obtain rfl : i = id := hids i (List.mem_cons_self ..)
  have hfirst : s.settleOne i = s.dropReq i := by
    rw [State.settleOne, hreq]
    exact (State.settleReq_of_quiet hquiet hstage).trans (by rw [hid])
  rw [List.foldl_cons, hfirst]
  refine List.foldlRecOn (motive := (· = s.dropReq i)) ids _ rfl fun b hb j hj => ?_
  rw [hb, hids j (List.mem_cons_of_mem _ hj), State.settleOne, State.req?_dropReq]

/-- Where nothing else is to be heard of, what follows a finished write is that the requests of its number leave. -/
theorem State.settle_of_oneWrite {s : State} {id : Nat} {r : Req} (hreq : s.req? id = some r) (hquiet : r.quiet)
    (hstage : r.stage ≠ .refused) (hwrite : r.kind = .write) (hfin : r.finished = true)
    (hothers : ∀ q ∈ s.reqs, q.finished = true → q.id = id)
    (howed : s.seq.owed = []) (hconns : ∀ e ∈ s.fabric.conns, e.2.exec = none) (hwaits : s.link.waits = []) :
    s.settle = s.dropReq id := by
  have hmem : r ∈ s.reqs.filter fun r => r.finished && (r.kind == .write || s.unwanted r) :=
    List.mem_filter.2 ⟨State.mem_of_req? hreq, by simp [hfin, hwrite]⟩
  rw [State.settle, State.settleOnes hreq hquiet hstage (List.ne_nil_of_mem (List.mem_map_of_mem hmem)) fun i hi => ?_]
  · exact State.settleTail_of_idle (s := s.dropReq id) howed hconns hwaits
  · obtain ⟨q, hq, rfl⟩ := List.mem_map.1 hi
    obtain ⟨hq, hsel⟩ := List.mem_filter.1 hq
    exact hothers q hq (Bool.and_eq_true_iff.1 hsel).1

/-! ### The write port (R161, R162) -/

section
variable {s : State} {id : Nat} {r : Req}

theorem State.portErrors_busy (hbusy : s.writeFree (s.portOf (addrLocal r.addr)) = false) (errs : List WordErr) (tagLost : Bool)
    (serve : State → Req → State) : s.portErrors r errs tagLost serve = s := by
  simp [State.portErrors, hbusy]

theorem State.portErrors_free (hfree : s.writeFree (s.portOf (addrLocal r.addr)) = true) (serve : State → Req → State) :
    s.portErrors r [] false serve = (serve s r).settle := by
  simp [State.portErrors, hfree, State.lineErrors_nil]

/-- The write port is taken for a request. -/
def State.portTaken (s : State) (r : Req) (clocks : Nat) : State :=
  s.takeWrite (s.portOf (addrLocal r.addr)) (addrLocal r.addr / 128) clocks

theorem State.portTaken_view (s : State) (r : Req) (clocks : Nat) : SameView s (s.portTaken r clocks) :=
  (SameView.refl s).setPorts _ _

/-- A request that lacks nothing is performed as it takes the port. -/
theorem State.onWritePort_hit (hfree : s.writeFree (s.portOf (addrLocal r.addr)) = true) (hneeds : s.needs r = []) (clocks : Nat) :
    s.onWritePort r clocks = (s.portTaken r clocks).perform r := by
  have hneeds' : (s.portTaken r clocks).needs r = [] := ((s.portTaken_view r clocks).needs r).trans hneeds
  simp only [State.onWritePort, hneeds, hfree, State.missRoom_nil, Bool.not_true, Bool.or_self, Bool.false_eq_true, if_false,
    State.noteDemand, if_true]
  rw [← State.portTaken, State.resume, hneeds']

end

/-! ### The sector as it is written (R160, R211) -/

/-- Of the lines, one has been written in one sector, and the others are as they were. -/
structure SectorWritten (s t : State) (k j lo : Nat) (bs : List Byte) (pois : Bool) : Prop where
  sector : (t.line k).sector j = (mergeSector ((s.line k).sector j) ((s.line k).poison.getLsbD j) lo bs pois).1
  valid : (t.line k).valid.getLsbD j = true
  dirty : (t.line k).dirty.getLsbD j = true
  poison : (t.line k).poison.getLsbD j = (mergeSector ((s.line k).sector j) ((s.line k).poison.getLsbD j) lo bs pois).2
  others : ∀ i, i ≠ k → t.line i = s.line i

/-- Of the lines, at most one has changed, and of that the age alone. -/
structure TouchedAt (k : Nat) (s t : State) : Prop where
  touched : { t.line k with age := 0 } = { s.line k with age := 0 }
  others : ∀ i, i ≠ k → t.line i = s.line i

section
variable {s t u : State} {k : Nat}

theorem TouchedAt.of_lines (h : t.caddy.lines = s.caddy.lines) : TouchedAt k s t :=
  ⟨by rw [State.line_of_lines h], fun i _ => State.line_of_lines h i⟩

theorem TouchedAt.trans (h : TouchedAt k s t) (g : TouchedAt k t u) : TouchedAt k s u :=
  ⟨g.touched.trans h.touched, fun i hi => (g.others i hi).trans (h.others i hi)⟩

theorem State.touch_touchedAt {pa : Nat} (hway : s.findWay pa = some k) : TouchedAt k s (s.touch pa) := by
  rw [State.touch_present hway]
  exact ⟨by rw [State.line_setLine_self], fun i hi => State.line_setLine_ne _ _ hi⟩

theorem TouchedAt.writeSectorIn (h : TouchedAt k s t) {sec : Nat} (hway : t.findWay (32 * sec) = some k) (lo : Nat)
    (bs : List Byte) (pois : Bool) (nc : Fin 7) :
    SectorWritten s (t.writeSectorIn sec lo bs pois nc) k (sec % 4) lo bs pois := by
  have hj : sec % 4 < 4 := Nat.mod_lt _ (by decide)
  have hdata : (t.line k).data = (s.line k).data := (Line.mk.inj h.touched).2.2.2.2.2.2
  have hpoison : (t.line k).poison = (s.line k).poison := (Line.mk.inj h.touched).2.2.2.1
  have hsector : (t.line k).sector (sec % 4) = (s.line k).sector (sec % 4) := by rw [Line.sector, hdata, Line.sector]
  obtain ⟨hvalid, hdirty, hpois⟩ := (t.line k).written_bits hj lo bs pois
  rw [State.writeSectorIn_present hway]
  have hline (i : Nat) := State.line_of_lines (State.count_lines (t.setLine k ((t.line k).written (sec % 4) lo bs pois))
    (0x3300 + t.homeOf (32 * sec)) 5 1) i
  refine ⟨?_, ?_, ?_, ?_, fun i hi => ?_⟩
  · rw [hline, State.line_setLine_self, Line.written_sector _ hj, hsector, hpoison]
  · rw [hline, State.line_setLine_self, hvalid]
  · rw [hline, State.line_setLine_self, hdirty]
  · rw [hline, State.line_setLine_self, hpois, hsector, hpoison]
  · rw [hline, State.line_setLine_ne _ _ hi, h.others i hi]

theorem State.writeSectorIn_present_keeps {sec : Nat} (hway : s.findWay (32 * sec) = some k) (lo : Nat) (bs : List Byte)
    (pois : Bool) (nc : Fin 7) : State.Keeps [.regs, .caddy] s (s.writeSectorIn sec lo bs pois nc) := by
  rw [State.writeSectorIn_present hway]
  exact State.count_keeps (by decide) (State.setLine_keeps (by decide) (State.Keeps.refl _ s) _ _) _ _ _

theorem SectorWritten.of_lines {j lo : Nat} {bs : List Byte} {pois : Bool} (h : SectorWritten s t k j lo bs pois)
    (hl : u.caddy.lines = t.caddy.lines) : SectorWritten s u k j lo bs pois := by
  have hline (i : Nat) := State.line_of_lines hl i
  refine ⟨?_, ?_, ?_, ?_, fun i hi => ?_⟩
  · rw [hline, h.sector]
  · rw [hline, h.valid]
  · rw [hline, h.dirty]
  · rw [hline, h.poison]
  · rw [hline, h.others i hi]

end

theorem SectorWritten.of_source {s s' t : State} {k j lo : Nat} {bs : List Byte} {pois : Bool}
    (h : SectorWritten s' t k j lo bs pois)
    (hl : s'.caddy.lines = s.caddy.lines) : SectorWritten s t k j lo bs pois := by
  obtain ⟨hsector, hvalid, hdirty, hpoison, hothers⟩ := h
  rw [State.line_of_lines hl] at hsector hpoison
  exact ⟨hsector, hvalid, hdirty, hpoison, fun i hi => (hothers i hi).trans (State.line_of_lines hl i)⟩

/-! ### A write of a whole sector -/

section
variable {s : State} {k pa : Nat}

theorem State.guardLeave_lines (s : State) (pa : Nat) : (s.guardLeave pa).caddy.lines = s.caddy.lines := s.setGuard_lines _ _

theorem State.guardLeave_findWay (s : State) (pa pa' : Nat) : (s.guardLeave pa).findWay pa' = s.findWay pa' :=
  have hhomes : SameHomes s (s.guardLeave pa) := (SameHomes.refl s).setGuard _ _
  hhomes.findWay (fun k => by rw [State.line_of_lines (s.guardLeave_lines pa)])
    (fun k => by rw [State.line_of_lines (s.guardLeave_lines pa)]) pa'

/-- The line that a write updates, before its bytes change. -/
def State.lineTaken (s : State) (pa n : Nat) (m : Master) : State :=
  ((s.count (0x3420 + m.nc.val) 3 n).guardLeave pa).touch pa

theorem State.lineTaken_facts (hway : s.findWay pa = some k) (n : Nat) (m : Master) :
    TouchedAt k s (s.lineTaken pa n m) ∧ (s.lineTaken pa n m).findWay pa = some k
      ∧ State.Keeps [.regs, .caddy] s (s.lineTaken pa n m) := by
  have hcount := (SameView.refl s).count (idx := 0x3420 + m.nc.val) (by omega) 3 n
  have hleft : ((s.count (0x3420 + m.nc.val) 3 n).guardLeave pa).findWay pa = some k :=
    (State.guardLeave_findWay _ pa pa).trans ((hcount.findWay pa).trans hway)
  have hlines : ((s.count (0x3420 + m.nc.val) 3 n).guardLeave pa).caddy.lines = s.caddy.lines :=
    (State.guardLeave_lines _ pa).trans (s.count_lines _ _ _)
  exact ⟨(TouchedAt.of_lines hlines).trans (State.touch_touchedAt hleft),
    (((SameView.refl _).touch pa).findWay pa).trans hleft,
    State.touch_keeps (by decide) (State.guardLeave_keeps (by decide) (State.count_keeps (by decide) (State.Keeps.refl _ s) _ _ _) _)
      _⟩

theorem State.writeLine_whole {bs : List Byte} (hway : s.findWay pa = some k) (hpa : pa % 32 = 0) (hlen : bs.length = 32)
    (pois : Nat → Bool) (alloc : Bool) (m : Master) :
    s.writeLine pa bs pois alloc m = (s.lineTaken pa bs.length m).writeSectorIn (pa / 32) 0 bs (pois (pa / 32)) m.nc := by
  have hleft : ((s.count (0x3420 + m.nc.val) 3 bs.length).guardLeave pa).findWay pa = some k :=
    (State.guardLeave_findWay _ pa pa).trans (((SameView.refl s).count (by omega) _ _).findWay pa |>.trans hway)
  simp only [State.writeLine, hleft, Option.isSome_some, if_true, Bool.true_or, sectorPieces_whole hpa hlen, List.foldl_cons,
    List.foldl_nil]
  rfl

end

/-! ### The write -/

/-- Requests that leave the network are gone, whatever has been done to them. -/
theorem State.dropReq_updReq_reqs (s : State) (id : Nat) {f : Req → Req} (hf : ∀ q, (f q).id = q.id) :
    ((s.updReq id f).dropReq id).reqs = s.reqs.filter fun q => q.id ≠ id := by
  have hkey (q : Req) : (if q.id = id then f q else q).id = q.id := by split <;> simp [hf]
  simp only [State.dropReq, State.updReq, List.filter_map, Function.comp_def, hkey]
  refine (List.map_congr_left fun q hq => ?_).trans (List.map_id _)
  exact if_neg (of_decide_eq_true (List.mem_filter.1 hq).2)

section
variable {s : State} {id : Nat} {r : Req} {k : Nat} (hreq : s.req? id = some r) (hslice : s.atSlice r = true)
  (hway : s.findWay (addrLocal r.addr) = some k)

include hreq in
theorem sliceWrite_busy (hbusy : s.writeFree (s.portOf (addrLocal r.addr)) = false)
    (errs : List WordErr) (tagLost : Bool) : exec (.sliceWrite id errs tagLost) s = .next s := by
  refine congrArg Host.Outcome.next ?_
  rw [State.sliceWrite, hreq]
  dsimp only
  split
  · exact State.portErrors_busy hbusy errs tagLost _
  · rfl

include hreq in
theorem atomicAtHomeSlice_busy (hbusy : s.writeFree (s.portOf (addrLocal r.addr)) = false)
    (errs : List WordErr) (tagLost : Bool) : exec (.atomicAtHomeSlice id errs tagLost) s = .next s := by
  refine congrArg Host.Outcome.next ?_
  rw [State.atomicAtHome, hreq]
  dsimp only
  split
  · exact State.portErrors_busy hbusy errs tagLost _
  · rfl

/-- The sector of a line as a whole write leaves it. -/
def State.sectorStored (s : State) (r : Req) : State :=
  ((s.portTaken r (writeClocks (addrLocal r.addr) r.data.length)).lineTaken (addrLocal r.addr) r.data.length r.master).writeSectorIn
    (addrLocal r.addr / 32) 0 r.data r.poisoned r.master.nc

include hway in
theorem State.sectorStored_facts (hpa : addrLocal r.addr % 32 = 0) :
    State.Keeps [.regs, .caddy] s (s.sectorStored r)
      ∧ SectorWritten s (s.sectorStored r) k (addrLocal r.addr / 32 % 4) 0 r.data r.poisoned := by
  have hport := s.portTaken_view r (writeClocks (addrLocal r.addr) r.data.length)
  obtain ⟨htouched, hline, hkeeps⟩ := State.lineTaken_facts ((hport.findWay _).trans hway) r.data.length r.master
  have hsec : 32 * (addrLocal r.addr / 32) = addrLocal r.addr := by omega
  have hline' := (congrArg _ hsec).trans hline
  have htaken : State.Keeps [.regs, .caddy] s (s.portTaken r (writeClocks (addrLocal r.addr) r.data.length)) :=
    State.takeWrite_keeps (by decide) (State.Keeps.refl _ s) _ _ _
  have hlines : (s.portTaken r (writeClocks (addrLocal r.addr) r.data.length)).caddy.lines = s.caddy.lines := rfl
  exact ⟨(htaken.trans hkeeps).trans (State.writeSectorIn_present_keeps hline' _ _ _ _),
    ((TouchedAt.of_lines hlines).trans htouched).writeSectorIn hline' _ _ _ _⟩

include hway in
theorem State.needs_wholeWrite (hkind : r.kind = .write) (hpa : addrLocal r.addr % 32 = 0) (hlen : r.data.length = 32) :
    s.needs r = [] := by
  simp [State.needs, hkind, hway, sectorPieces_whole hpa hlen, hlen]

include hreq hslice hway in
theorem State.sliceWrite_whole (hfree : s.writeFree (s.portOf (addrLocal r.addr)) = true) (hkind : r.kind = .write)
    (hpa : addrLocal r.addr % 32 = 0) (hlen : r.data.length = 32) :
    s.sliceWrite id [] false = ((s.sectorStored r).reply r [] false).settle := by
  have hneeds := State.needs_wholeWrite hway hkind hpa hlen
  have hport := s.portTaken_view r (writeClocks (addrLocal r.addr) r.data.length)
  have hstored := State.writeLine_whole ((hport.findWay _).trans hway) hpa hlen (fun _ => r.poisoned) r.alloc r.master
  rw [State.sliceWrite, hreq]
  dsimp only
  rw [if_pos ⟨hkind, hslice⟩, State.portErrors_free hfree, State.serveWrite, State.onWritePort_hit hfree hneeds]
  simp only [State.perform, hkind]
  rw [hstored, State.sectorStored]

/-- A whole write, before its master hears of it: the sector has been written, and the request has ended. -/
theorem State.sliceWrite_stored (hreq : s.req? id = some r) (hslice : s.atSlice r = true)
    (hway : s.findWay (addrLocal r.addr) = some k) (hfree : s.writeFree (s.portOf (addrLocal r.addr)) = true)
    (hkind : r.kind = .write) (hpa : addrLocal r.addr % 32 = 0) (hlen : r.data.length = 32) :
    ∃ v, s.sliceWrite id [] false = (v.reply r [] false).settle ∧ State.Keeps [.regs, .caddy] s v
      ∧ SectorWritten s v k (addrLocal r.addr / 32 % 4) 0 r.data r.poisoned :=
  ⟨_, State.sliceWrite_whole hreq hslice hway hfree hkind hpa hlen, State.sectorStored_facts hway hpa⟩

end

/-- The sector that a whole write leaves. -/
structure HoldsWrite (s t : State) (r : Req) (k : Nat) : Prop where
  sector : (t.line k).sector (addrLocal r.addr / 32 % 4) = bytesBv r.data
  valid : (t.line k).valid.getLsbD (addrLocal r.addr / 32 % 4) = true
  dirty : (t.line k).dirty.getLsbD (addrLocal r.addr / 32 % 4) = true
  poison : (t.line k).poison.getLsbD (addrLocal r.addr / 32 % 4) = r.poisoned
  others : ∀ j, j ≠ k → t.line j = s.line j

section
variable {s v t : State} {id : Nat} {r : Req} {k : Nat}

theorem SectorWritten.holdsWrite (h : SectorWritten s v k (addrLocal r.addr / 32 % 4) 0 r.data r.poisoned)
    (hlen : r.data.length = 32) (hl : t.caddy.lines = v.caddy.lines) : HoldsWrite s t r k := by
  obtain ⟨hsector, hvalid, hdirty, hpoison, hothers⟩ := h.of_lines hl
  rw [mergeSector_whole _ _ hlen] at hsector hpoison
  exact ⟨hsector, hvalid, hdirty, hpoison, hothers⟩

theorem State.reply_lines (v : State) (r : Req) (data : List Byte) (pois : Bool) :
    (v.reply r data pois).caddy.lines = v.caddy.lines := rfl

theorem State.reply_dropReq_reqs (v : State) (r : Req) (data : List Byte) (pois : Bool) :
    ((v.reply r data pois).dropReq r.id).reqs = v.reqs.filter fun q => q.id ≠ r.id :=
  State.dropReq_updReq_reqs v r.id fun _ => rfl

/-- The request of a write that has ended. -/
theorem State.reply_write (hreq : s.req? id = some r) (hkeeps : State.Keeps [.regs, .caddy] s v) (hkind : r.kind = .write) :
    ReqIs s (v.reply r [] false) id { r with stage := .done [] false, route := [] } := by
  have hanswer := ((ReqIs.refl hreq).of_keeps hkeeps (by decide)).reply (State.req?_id hreq) [] false
  rwa [hkind, if_pos rfl, ← hkind] at hanswer

/-- Where nothing else is to be heard of, what follows a write is that it leaves. -/
theorem State.reply_write_settle (hreq : s.req? id = some r) (hkeeps : State.Keeps [.regs, .caddy] s v)
    (hkind : r.kind = .write) (hheard : s.allHeard) (hquiet : r.quiet) :
    (v.reply r [] false).settle = (v.reply r [] false).dropReq id := by
  have hid : r.id = id := State.req?_id hreq
  have hreqs : v.reqs = s.reqs := (hkeeps.parts .reqs (by decide)).1
  have hseq : v.seq = s.seq := hkeeps.parts .seq (by decide)
  have hfabric : v.fabric = s.fabric := hkeeps.parts .fabric (by decide)
  have hlink : v.link = s.link := hkeeps.parts .link (by decide)
  obtain ⟨hnone, howed, hconns, hwaits⟩ := hheard
  have hothers : ∀ q ∈ (v.reply r [] false).reqs, q.finished = true → q.id = id := by
    intro q hq hfin
    obtain ⟨p, hp, rfl⟩ := List.mem_map.1 hq
    by_cases hne : p.id = r.id
    · rw [if_pos hne]
      exact hne.trans hid
    · rw [if_neg hne, hnone p (hreqs ▸ hp)] at hfin
      cases hfin
  exact State.settle_of_oneWrite (State.reply_write hreq hkeeps hkind).found hquiet ReqStage.noConfusion hkind rfl hothers
    ((congrArg Seq.owed hseq).trans howed) (fun e he => hconns e (hfabric ▸ he)) ((congrArg Link.waits hlink).trans hwaits)

end

section
variable {s : State} {id : Nat} {r : Req} {k : Nat} (hreq : s.req? id = some r) (hslice : s.atSlice r = true)
  (hway : s.findWay (addrLocal r.addr) = some k) (hfree : s.writeFree (s.portOf (addrLocal r.addr)) = true)
  (hkind : r.kind = .write) (hpa : addrLocal r.addr % 32 = 0) (hlen : r.data.length = 32)
include hreq hslice hway hfree hkind hpa hlen

theorem sliceWrite_stores :
    ∃ u, exec (.sliceWrite id [] false) s = .next u.settle ∧ Frame [.regs, .caddy, .reqs] s u
      ∧ u.req? id = some { r with stage := .done [] false, route := [] } ∧ HoldsWrite s u r k := by
  obtain ⟨v, hrun, hkeeps, hwritten⟩ := State.sliceWrite_stored hreq hslice hway hfree hkind hpa hlen
  exact ⟨v.reply r [] false, congrArg Host.Outcome.next hrun,
    (State.reply_keeps (by decide) (State.Keeps.wider hkeeps (by decide)) _ _ _).frame,
    (State.reply_write hreq hkeeps hkind).found, hwritten.holdsWrite hlen (v.reply_lines r [] false)⟩

theorem sliceWrite_leaves (hheard : s.allHeard) (hquiet : r.quiet) :
    Runs (.sliceWrite id [] false) s [.regs, .caddy, .reqs] fun t =>
      t.reqs = s.reqs.filter (fun q => q.id ≠ id) ∧ HoldsWrite s t r k := by
  obtain ⟨v, hrun, hkeeps, hwritten⟩ := State.sliceWrite_stored hreq hslice hway hfree hkind hpa hlen
  obtain rfl : r.id = id := State.req?_id hreq
  have hreqs : v.reqs = s.reqs := (hkeeps.parts .reqs (by decide)).1
  have hsettle := State.reply_write_settle hreq hkeeps hkind hheard hquiet
  exact ⟨(v.reply r [] false).dropReq r.id, congrArg Host.Outcome.next (hrun.trans hsettle),
    (State.dropReq_keeps (by decide) (State.reply_keeps (by decide) (State.Keeps.wider hkeeps (by decide)) _ _ _) _).frame,
    (v.reply_dropReq_reqs r [] false).trans (by rw [hreqs]), hwritten.holdsWrite hlen (v.reply_lines r [] false)⟩

end

/-! ### The atomic -/

theorem atomAll_single (op : AtomOp) (ty : AtomTy) (old : Word64) (x : Word64 × Word64) :
    (atomAll op ty old [x]).2 = [old] := by
  unfold atomAll
  split
  · simp
  · rfl

/-- A count leaves the entries of lower indices alone. -/
theorem State.reg_count_of_lt (s : State) {i j idx : Nat} (hj : j < 256) (hi : i < idx) (sub n : Nat) :
    (s.count idx sub n).reg i j = s.reg i j :=
  State.reg_setReg_ne s _ (by simp only [regKey, ne_eq]; omega)

/-- Every reply passes a point on its way back. -/
theorem State.routeBack_ne_nil (s : State) (m : Master) (pa : Nat) : s.routeBack m pa ≠ [] := by
  unfold State.routeBack
  dsimp only
  split
  · exact List.append_ne_nil_of_right_ne_nil _ (List.cons_ne_nil _ _)
  · exact List.cons_ne_nil _ _

section
variable {s : State} {id : Nat} {r : Req} {k : Nat} {op : AtomOp} {ty : AtomTy}

theorem atomWidth_pos (ty : AtomTy) : 0 < atomWidth ty := by
  cases ty <;> decide

/-- An aligned operand lies in one sector. -/
theorem sectorsOf_atomWidth {pa : Nat} (halign : pa % atomWidth ty = 0) : sectorsOf pa (atomWidth ty) = [pa / 32] := by
  have hone : (pa + atomWidth ty - 1) / 32 - pa / 32 + 1 = 1 := by
    have hwidth : atomWidth ty = 4 ∨ atomWidth ty = 8 := by cases ty <;> simp [atomWidth]
    rcases hwidth with h | h <;> rw [h] at halign ⊢ <;> omega
  rw [sectorsOf, if_neg (atomWidth_pos ty).ne', hone]
  simp


/-- The sector after an atomic, before the request ends. -/
def State.sectorUpdated (s : State) (pa : Nat) (op : AtomOp) (ty : AtomTy) (x : Word64 × Word64) (old : Word64)
    (nc : Fin 7) : State :=
  (((s.touch pa).count (0x3420 + nc.val) 1 (atomWidth ty)).count (0x3420 + nc.val) 3 (atomWidth ty)).writeSectorIn
    (pa / 32) (pa % 32) (leBytes (atomWidth ty) (atomAll op ty old [x]).1.toNat) false nc

/-- An atomic on a clean sector that is at hand, not guarded (R168, R260). -/
theorem State.hbmAtomic_clean {pa : Nat} {sector : BitVec 256} (hguard : s.guarded pa = false)
    (hsec : s.sectorIn (pa / 32) = some (sector, false)) (x : Word64 × Word64) (m : Master)
    {old : Word64} (hold : old = BitVec.ofNat 64 (leNat (cutBytes pa (atomWidth ty) [(sector, false)]))) :
    s.hbmAtomic pa op ty [x] m false = ⟨s.sectorUpdated pa op ty x old m.nc, [old], false, atomExc op ty old [x]⟩ := by
  subst hold
  simp only [State.hbmAtomic, hguard, hsec, Option.getD_some, Bool.false_eq_true, if_false, atomAll_single, State.sectorUpdated]

theorem State.sectorUpdated_facts {pa : Nat} (hway : s.findWay pa = some k) (x : Word64 × Word64) (old : Word64) (nc : Fin 7) :
    State.Keeps [.regs, .caddy] s (s.sectorUpdated pa op ty x old nc)
      ∧ SectorWritten s (s.sectorUpdated pa op ty x old nc) k (pa / 32 % 4) (pa % 32)
          (leBytes (atomWidth ty) (atomAll op ty old [x]).1.toNat) false
      ∧ SameHomes s (s.sectorUpdated pa op ty x old nc)
      ∧ (s.sectorUpdated pa op ty x old nc).reg 0x2500 0x0C = s.reg 0x2500 0x0C := by
  have htouch := (SameView.refl s).touch pa
  have hcounted := (htouch.count (idx := 0x3420 + nc.val) (by omega) 1 (atomWidth ty)).count (idx := 0x3420 + nc.val) (by omega) 3
    (atomWidth ty)
  have hline : (((s.touch pa).count (0x3420 + nc.val) 1 (atomWidth ty)).count (0x3420 + nc.val) 3 (atomWidth ty)).findWay
      (32 * (pa / 32)) = some k := by rw [State.findWay_sector, hcounted.findWay, hway]
  have hkeeps : State.Keeps [.regs, .caddy] s
      (((s.touch pa).count (0x3420 + nc.val) 1 (atomWidth ty)).count (0x3420 + nc.val) 3 (atomWidth ty)) :=
    State.count_keeps (by decide) (State.count_keeps (by decide) (State.touch_keeps (by decide) (State.Keeps.refl _ s) _) _ _ _) _ _ _
  have htouched := State.touch_touchedAt hway
  have hmexc : (s.touch pa).reg 0x2500 0x0C = s.reg 0x2500 0x0C := by
    rw [State.touch_present hway]
    rfl
  refine ⟨hkeeps.trans (State.writeSectorIn_present_keeps hline _ _ _ _),
    (htouched.trans (TouchedAt.of_lines (by rw [State.count_lines, State.count_lines]))).writeSectorIn hline _ _ _ _, ?_, ?_⟩
  · rw [State.sectorUpdated, State.writeSectorIn_present hline]
    exact ((hcounted.homes).setLine _ _).count (by omega) _ _
  · rw [State.sectorUpdated, State.writeSectorIn_present hline, State.reg_count_of_lt _ (by decide) (by omega),
      State.reg_of_regs (State.setLine_regs ..), State.reg_count_of_lt _ (by decide) (by omega),
      State.reg_count_of_lt _ (by decide) (by omega), hmexc]

theorem SameHomes.trans {u v w : State} (h : SameHomes u v) (g : SameHomes v w) : SameHomes u w :=
  ⟨g.lanes.trans h.lanes, g.pots.trans h.pots, fun sub hsub => (g.regplace sub hsub).trans (h.regplace sub hsub)⟩

/-- The flags of an atomic do not move the lines' homes. -/
theorem SameHomes.raiseExc {u v : State} (h : SameHomes u v) (job : Option Nat) (e : Exc) : SameHomes u (v.raiseExc job e) := by
  have hentries : Entries [(0x2500, 0x0C)] v (v.raiseExc job e) := State.raiseExc_entries (by simp) (.refl _ v) job e
  exact h.of_view ((SameView.refl v).of_keeps (State.raiseExc_keeps (C := [.regs, .seq]) (by decide) (State.Keeps.refl _ v) job e)
    hentries (by simpa using not_viewKey_of_le (by decide) 0x0C) (by decide) (by decide))

/-- What an atomic leaves before its flags are raised and its request ends. -/
structure AtomicStored (s v : State) (r : Req) (k : Nat) (op : AtomOp) (ty : AtomTy) (x : Word64 × Word64)
    (old : Word64) : Prop where
  keeps : State.Keeps [.regs, .caddy] s v
  written : SectorWritten s v k (addrLocal r.addr / 32 % 4) (addrLocal r.addr % 32)
    (leBytes (atomWidth ty) (atomAll op ty old [x]).1.toNat) false
  homes : SameHomes s v
  mexc : v.reg 0x2500 0x0C = s.reg 0x2500 0x0C

variable {x : Word64 × Word64} {old : Word64}

/-- An atomic, before its master hears of it (R168). -/
theorem State.atomicAtHome_stored (hreq : s.req? id = some r) (hslice : s.atSlice r = true)
    (hway : s.findWay (addrLocal r.addr) = some k) (hfree : s.writeFree (s.portOf (addrLocal r.addr)) = true)
    (hkind : r.kind = .atomic op ty) (hoperands : r.operands = [x]) (hpois : r.poisoned = false)
    (hguard : s.guarded (addrLocal r.addr) = false) (halign : addrLocal r.addr % atomWidth ty = 0) (hlen : r.len = atomWidth ty)
    {sector : BitVec 256} (hsec : s.sectorIn (addrLocal r.addr / 32) = some (sector, false))
    (hold : old = BitVec.ofNat 64 (leNat (cutBytes (addrLocal r.addr) (atomWidth ty) [(sector, false)]))) :
    ∃ v job, s.atomicAtHome id [] false = ((v.raiseExc job (atomExc op ty old [x])).reply r (oldBytes [old]) false).settle
      ∧ AtomicStored s v r k op ty x old := by
  have hneeds : s.needs r = [] := by simp [State.needs, hkind, hlen, sectorsOf_atomWidth halign, hsec]
  have hport := s.portTaken_view r 1
  have hatomic : (s.portTaken r 1).hbmAtomic (addrLocal r.addr) op ty r.operands r.master r.poisoned
      = ⟨(s.portTaken r 1).sectorUpdated (addrLocal r.addr) op ty x old r.master.nc, [old], false, atomExc op ty old [x]⟩ := by
    rw [hoperands, hpois]
    exact State.hbmAtomic_clean ((hport.guarded _).trans hguard) ((hport.sectorIn _).trans hsec) x r.master hold
  have hrun : s.atomicAtHome id [] false = (s.serveAtomic r).settle := by
    rw [State.atomicAtHome, hreq]
    dsimp only
    rw [if_pos ⟨by rw [hkind]; rfl, hslice⟩, State.portErrors_free hfree]
  have hserve : s.serveAtomic r = (s.portTaken r 1).perform r := by
    simp only [State.serveAtomic, hguard, Bool.false_eq_true, if_false, State.onWritePort_hit hfree hneeds]
  obtain ⟨hkeeps, hwritten, hhomes, hmexc⟩ := State.sectorUpdated_facts (op := op) (ty := ty) ((hport.findWay _).trans hway) x old
    r.master.nc
  have htaken : State.Keeps [.regs, .caddy] s (s.portTaken r 1) := State.takeWrite_keeps (by decide) (State.Keeps.refl _ s) _ _ _
  refine ⟨_, ((s.portTaken r 1).jobOfReq r).map (·.id), ?_,
    htaken.trans hkeeps, ?_, ?_, ?_⟩
  · rw [hrun, hserve, State.perform]
    simp only [hkind]
    rw [hatomic]
  · exact hwritten.of_source (k := k) rfl
  · exact ((SameHomes.refl s).of_view hport).trans hhomes
  · exact hmexc.trans (State.reg_of_regs rfl 0x2500 0x0C)

theorem AtomicStored.done {v : State} (h : AtomicStored s v r k op ty x old) (hreq : s.req? id = some r)
    (hkind : r.kind = .atomic op ty) (job : Option Nat) :
    AtomicDone s ((v.raiseExc job (atomExc op ty old [x])).reply r (oldBytes [old]) false) r id k op ty x old := by
  have hraised : State.Keeps [.regs, .seq] v (v.raiseExc job (atomExc op ty old [x])) :=
    State.raiseExc_keeps (by decide) (State.Keeps.refl _ v) _ _
  have hlines : (v.raiseExc job (atomExc op ty old [x])).caddy.lines = v.caddy.lines := by rw [hraised.parts .caddy (by decide)]
  have hflags : Flagged s (v.raiseExc job (atomExc op ty old [x])) (atomExc op ty old [x]) :=
    Flagged.trans (fun i _ hb => by simpa [h.mexc] using hb) (v.raiseExc_flagged _ _)
  have hback : (v.raiseExc job (atomExc op ty old [x])).routeBack r.master (addrLocal r.addr)
      = s.routeBack r.master (addrLocal r.addr) := (h.homes.raiseExc job _).routeBack _ _
  have hanswer := (((ReqIs.refl hreq).of_keeps h.keeps (by decide)).of_keeps hraised (by decide)).reply (State.req?_id hreq)
    (oldBytes [old]) false
  rw [hback, hkind, if_neg ReqKind.noConfusion, ← hkind] at hanswer
  generalize v.raiseExc job (atomExc op ty old [x]) = w at *
  obtain ⟨hsector, hvalid, hdirty, -, hothers⟩ := h.written.of_lines ((w.reply_lines r (oldBytes [old]) false).trans hlines)
  exact ⟨hanswer.found, hsector, hvalid, hdirty, hflags.trans_right (.of_regs rfl), hothers⟩

theorem AtomicStored.reply_keeps {v : State} (h : AtomicStored s v r k op ty x old) (job : Option Nat) (e : Exc)
    (data : List Byte) : State.Keeps [.regs, .caddy, .reqs, .seq] s ((v.raiseExc job e).reply r data false) :=
  State.reply_keeps (by decide) (State.raiseExc_keeps (by decide) (State.Keeps.wider h.keeps (by decide)) _ _) _ _ _

/-- An atomic's reply is on its way, so that nothing has ended that is to be heard of. -/
theorem AtomicStored.allHeard {v : State} (h : AtomicStored s v r k op ty x old) (hreq : s.req? id = some r)
    (hkind : r.kind = .atomic op ty) (hheard : s.allHeard) (hone : ∀ q ∈ s.reqs, q.id = id → q = r)
    (job : Option Nat) (e : Exc) (data : List Byte) : ((v.raiseExc job e).reply r data false).allHeard := by
  have hkeeps := h.reply_keeps job e data
  have hraised : State.Keeps [.regs, .caddy, .seq] s (v.raiseExc job e) :=
    State.raiseExc_keeps (by decide) (State.Keeps.wider h.keeps (by decide)) _ _
  have hreqs : (v.raiseExc job e).reqs = s.reqs := (hraised.parts .reqs (by decide)).1
  have hvseq : v.seq = s.seq := h.keeps.parts .seq (by decide)
  have howed : (v.raiseExc job e).seq.owed = s.seq.owed := by rw [State.raiseExc_seq, hvseq]
  generalize v.raiseExc job e = w at *
  refine State.allHeard_of hheard ?_ howed (hkeeps.parts .fabric (by decide)) (hkeeps.parts .link (by decide))
  intro q hq
  obtain ⟨p, hp, rfl⟩ := List.mem_map.1 hq
  rw [hreqs] at hp
  by_cases hid : p.id = r.id
  · obtain rfl := hone p hp (hid.trans (State.req?_id hreq))
    rw [if_pos rfl]
    simp only [Req.finished, hkind, reduceCtorEq, if_false]
    exact List.isEmpty_eq_false_iff.2 (w.routeBack_ne_nil _ _)
  · rw [if_neg hid]
    exact hheard.1 p hp

end

/-- Settles O13: a request that lacks nothing is performed as it takes the port, and only the one line changes. -/
theorem sliceWriteAndAtomicUpdateTheSector : Obligations.SliceWriteAndAtomicUpdateTheSector := by
  unfold Obligations.SliceWriteAndAtomicUpdateTheSector
  intro s id r k hreq hslice hway
  refine ⟨fun hbusy errs tagLost => ⟨fun _ => sliceWrite_busy hreq hbusy errs tagLost,
    fun _ => atomicAtHomeSlice_busy hreq hbusy errs tagLost⟩, fun hfree => ⟨fun hkind hpa hlen => ⟨?_, fun hheard hquiet => ?_⟩, ?_⟩⟩
  · obtain ⟨u, hrun, hframe, hfound, hsector, hvalid, hdirty, hpoison, hothers⟩ :=
      sliceWrite_stores hreq hslice hway hfree hkind hpa hlen
    exact ⟨u, hrun, hframe, hfound, hsector, hvalid, hdirty, hpoison, hothers⟩
  · obtain ⟨t, hrun, hframe, hreqs, hsector, hvalid, hdirty, hpoison, hothers⟩ :=
      sliceWrite_leaves hreq hslice hway hfree hkind hpa hlen hheard hquiet
    exact ⟨t, hrun, hframe, hreqs, hsector, hvalid, hdirty, hpoison, hothers⟩
  · intro op ty x hkind hoperands hpois hguard halign hlen hsec old hold
    obtain ⟨v, job, hrun, hstored⟩ :=
      State.atomicAtHome_stored hreq hslice hway hfree hkind hoperands hpois hguard halign hlen hsec hold
    have hframe := (hstored.reply_keeps job (atomExc op ty old [x]) (oldBytes [old])).frame
    refine ⟨⟨_, congrArg Host.Outcome.next hrun, hframe, hstored.done hreq hkind job⟩, fun hheard hone => ?_⟩
    have hsettle := State.settle_of_allHeard (hstored.allHeard hreq hkind hheard hone job (atomExc op ty old [x]) (oldBytes [old]))
    exact ⟨_, congrArg Host.Outcome.next (hrun.trans hsettle), hframe, hstored.done hreq hkind job⟩

end Sys2Proof.Machine
end

section
/-! SUPPORT. The pin engine's entries (R180): PINSTAT, the slots and the tokens, and a write of PINCTL. -/

namespace Sys2Proof.Machine

/-! ### PINSTAT -/

section
variable {s : State}

/-- BUSY follows the work at hand and the walks that kills left. -/
theorem State.notePinBusy_regs (s : State) :
    s.notePinBusy.regs = (s.setBit 0x2311 4 4 (s.caddy.pin.isSome || !s.caddy.killQ.isEmpty)).regs := by
  unfold State.notePinBusy
  dsimp only
  split
  · next hbusy => rw [hbusy]
  · next hbusy => rw [Bool.eq_false_iff.2 hbusy]

theorem State.notePinBusy_caddy (s : State) : s.notePinBusy.caddy = s.caddy :=
  (State.notePinBusy_keeps (List.Subset.refl _) (State.Keeps.refl _ s)).parts .caddy (by decide)

theorem State.notePinBusy_entries (s : State) : Entries [(0x2311, 4)] s s.notePinBusy :=
  (Entries.setReg s 0x2311 4 _).of_regs s.notePinBusy_regs

theorem State.notePinBusy_pinBusy (s : State) : s.notePinBusy.pinBusy = (s.caddy.pin.isSome || !s.caddy.killQ.isEmpty) :=
  (State.bit_of_reg (State.reg_of_regs s.notePinBusy_regs 0x2311 4) 4).trans (State.bit_setBit_self _ _ _ _ (by decide))

theorem State.notePinBusy_bit (s : State) {i : Nat} (hi : i < 64) (hne : i ≠ 4) :
    s.notePinBusy.bit 0x2311 4 i = s.bit 0x2311 4 i :=
  (State.bit_of_reg (State.reg_of_regs s.notePinBusy_regs 0x2311 4) i).trans
    ((State.bit_setBit _ _ _ _ (by decide) hi).trans (if_neg hne))

theorem State.notePinBusy_fld (s : State) {a b : Nat} (ha : a < 64) (hab : a < 4 ∨ 4 < b) :
    s.notePinBusy.fld 0x2311 4 a b = s.fld 0x2311 4 a b := by
  rw [State.fld, State.reg_of_regs s.notePinBusy_regs]
  exact State.fld_setFld_apart s 0x2311 4 _ (by decide) (by decide) ha hab

/-! ### The end of a request -/

theorem State.pinEnd_caddy (s : State) (n : Nat) : (s.pinEnd n).caddy = { s.caddy with pin := none } :=
  State.notePinBusy_caddy _

theorem State.pinEnd_status (s : State) {n : Nat} (hn : n < 16) : (s.pinEnd n).fld 0x2311 4 3 0 = n :=
  (State.notePinBusy_fld _ (by decide) (by decide)).trans
    ((State.fld_setFld_self _ _ _ _ (by decide) (by decide)).trans (Nat.mod_eq_of_lt hn))

theorem State.pinEnd_slot (s : State) (n : Nat) : (s.pinEnd n).fld 0x2311 4 11 6 = s.fld 0x2311 4 11 6 :=
  (State.notePinBusy_fld _ (by decide) (by decide)).trans
    (State.fld_setFld_apart (s.setPin none) 0x2311 4 n (by decide) (by decide) (by decide) (by decide))

theorem State.pinEnd_pinBusy (s : State) (n : Nat) : (s.pinEnd n).pinBusy = !s.caddy.killQ.isEmpty :=
  State.notePinBusy_pinBusy _

theorem State.pinEnd_entries (s : State) (n : Nat) : Entries [(0x2311, 4)] s (s.pinEnd n) :=
  Entries.trans (Entries.setReg s 0x2311 4 _) (State.notePinBusy_entries ((s.setPin none).setPinStatus n))

/-! ### Slots (R180) -/

theorem State.pinSlot_of_reg {s t : State} {i : Nat} (h : t.reg 0x2312 (i + 1) = s.reg 0x2312 (i + 1)) :
    t.pinSlot i = s.pinSlot i := by rw [State.pinSlot, h, State.pinSlot]

theorem State.pinSlot_setSlot_zero (s : State) (i : Nat) : (s.setSlot i 0).pinSlot i = none := by
  simp [State.pinSlot, State.setSlot, fieldOf]

theorem slotWord_eq (base len owner : Nat) :
    slotWord base len owner = BitVec.ofNat 64 (base * 2 ^ 0 + len * 2 ^ 27 + owner * 2 ^ 54 + 1 * 2 ^ 59) := by
  rw [slotWord, packWord, List.foldl_cons, List.foldl_cons, List.foldl_cons, List.foldl_cons, List.foldl_nil, Nat.zero_add]

theorem toNat_slotWord {base len owner : Nat} (hbase : base < 2 ^ 27) (hlen : len < 2 ^ 27) (howner : owner < 32) :
    (slotWord base len owner).toNat = base + len * 2 ^ 27 + owner * 2 ^ 54 + 2 ^ 59 := by
  rw [slotWord_eq, BitVec.toNat_ofNat]
  omega

theorem fieldOf_slotWord {base len owner : Nat} (hbase : base < 2 ^ 27) (hlen : len < 2 ^ 27) (howner : owner < 32) :
    fieldOf (slotWord base len owner) 59 59 = 1 ∧ fieldOf (slotWord base len owner) 26 0 = base
      ∧ fieldOf (slotWord base len owner) 53 27 = len ∧ fieldOf (slotWord base len owner) 58 54 = owner := by
  simp only [fieldOf, toNat_slotWord hbase hlen howner]
  norm_num at hbase hlen ⊢
  omega

theorem State.pinSlot_setSlot (s : State) (i : Nat) {base len owner : Nat} (hbase : base < 2 ^ 27) (hlen : len < 2 ^ 27)
    (howner : owner < 32) : (s.setSlot i (slotWord base len owner)).pinSlot i = some (base, len, owner) := by
  obtain ⟨hvalid, hb, hl, ho⟩ := fieldOf_slotWord hbase hlen howner
  rw [State.pinSlot, State.setSlot, State.reg_setReg_self, if_pos hvalid, hb, hl, ho]

theorem State.pinSlot_setSlot_ne (s : State) {i j : Nat} (h : j ≠ i) (w : Word64) : (s.setSlot i w).pinSlot j = s.pinSlot j :=
  State.pinSlot_of_reg (State.reg_setReg_ne s w (by simp only [regKey, ne_eq]; omega))

/-! ### Tokens (R184) -/

/-- Tokens and claims lie in entries of their own. -/
def TokenEntry (idx : Nat) : Prop := idx = 0x2314 ∨ idx = 0x2315

/-- From s to t only entries of the token ledger have changed. -/
def LedgerMoved (s t : State) : Prop := ∀ idx sub, sub < 256 → ¬ TokenEntry idx → t.reg idx sub = s.reg idx sub

theorem LedgerMoved.refl (s : State) : LedgerMoved s s := fun _ _ _ _ => rfl

theorem claimSub_lt (owner : Nat) : claimSub owner < 256 := by
  unfold claimSub
  split <;> omega

theorem LedgerMoved.setTokFree {s t : State} (h : LedgerMoved s t) {c : Nat} (hc : c < 2) (v : Int) :
    LedgerMoved s (t.setTokFree c v) := fun i j hj hi =>
  (State.reg_setReg_ne t _ (regKey_ne_of_idx hj (by omega) fun he => hi (.inl he))).trans (h i j hj hi)

theorem LedgerMoved.setTokClaim {s t : State} (h : LedgerMoved s t) (owner c n : Nat) :
    LedgerMoved s (t.setTokClaim owner c n) := fun i j hj hi =>
  (State.reg_setFld_ne t _ _ _ (regKey_ne_of_idx hj (claimSub_lt owner) fun he => hi (.inr he))).trans (h i j hj hi)

theorem LedgerMoved.claimTokens (s : State) (base len owner : Nat) : LedgerMoved s (s.claimTokens base len owner) :=
  List.foldlRecOn (motive := LedgerMoved s) _ _ (.refl s) fun _ h _ hc =>
    (h.setTokFree (by simp at hc; omega) _).setTokClaim owner _ _

theorem LedgerMoved.releaseTokens (s : State) (base len owner : Nat) : LedgerMoved s (s.releaseTokens base len owner) :=
  List.foldlRecOn (motive := LedgerMoved s) _ _ (.refl s) fun _ h _ hc =>
    (h.setTokFree (by simp at hc; omega) _).setTokClaim owner _ _

theorem LedgerMoved.pinSlot {s t : State} (h : LedgerMoved s t) {i : Nat} (hlt : i < 64) : t.pinSlot i = s.pinSlot i :=
  State.pinSlot_of_reg (h _ _ (by omega) (by simp [TokenEntry]))

/-- A slot is cleared, and the others stay. -/
theorem State.clearSlot_slots (s : State) (i : Nat) :
    (s.clearSlot i).pinSlot i = none ∧ ∀ j, j < 64 → j ≠ i → (s.clearSlot i).pinSlot j = s.pinSlot j := by
  unfold State.clearSlot
  split
  · next hnone => exact ⟨hnone, fun _ _ _ => rfl⟩
  · next base len owner _ => exact ⟨State.pinSlot_setSlot_zero _ i, fun j hj hne =>
      (State.pinSlot_setSlot_ne _ hne 0).trans ((LedgerMoved.releaseTokens s base len owner).pinSlot hj)⟩

end

/-! ### A write of PINCTL (R180) -/

/-- PINCTL. -/
def pinctlEntry : Entry := .wo32 (mask 7 0)

theorem fieldOf_pinctl (old v : Word64) {hi lo : Nat} (hhi : hi ≤ 7) :
    fieldOf ((old &&& ~~~pinctlEntry.wo) ||| (v &&& pinctlEntry.wo)) hi lo = fieldOf v hi lo :=
  fieldOf_congr fun i _ hi' => by
    have hm : pinctlEntry.wo.getLsbD i = true := by
      rw [show pinctlEntry.wo = mask 7 0 from rfl, mask_getLsbD i (by decide) (by decide)]
      exact decide_eq_true ⟨Nat.zero_le i, by omega⟩
    simp [hm]

theorem inRange_pinctl (v : Word64) : inRange 0x2311 3 v =
    (fieldOf v 1 0 == 2 || (fieldOf v 1 0 == 1 && (decide (fieldOf v 7 3 ≤ 15) || fieldOf v 7 3 == 0x1F))) := by
  simp [inRange]

theorem State.fits_pinctl (s : State) {low : Word32} (hin : inRange 0x2311 3 (low.setWidth 64) = true) (via : Via) :
    s.fits 0x2311 3 pinctlEntry (s.given via (low.setWidth 64)) = true := by
  have hcut := Entry.cut_given_word (e := pinctlEntry) rfl s via low
  unfold Entry.cut at hcut
  simp only [State.fits, hcut, inRange_pinctl, fieldOf_pinctl _ _ (by decide : 1 ≤ 7), fieldOf_pinctl _ _ (le_refl 7)]
  rwa [← inRange_pinctl]

theorem State.fld_handed (s : State) (via : Via) {i j : Nat} (h1 : regKey i j ≠ regKey 0x2A01 3)
    (h2 : regKey i j ≠ regKey 0x3001 1) (idx sub hi lo : Nat) : (s.handed via idx sub).fld i j hi lo = s.fld i j hi lo := by
  rw [State.fld, s.reg_handed via idx sub h1 h2, State.fld]

/-- A request that a way carries while the engine is not busy is begun. -/
theorem Writes.pinctl {c : Instr} {via : Via} {s : State} {low : Word32} {post : State → State → Prop}
    (hx : exec c s = .next (s.dictPut via 0x2311 3 (low.setWidth 64))) (hc : s.carries via 0x2311 3 = true)
    (hin : inRange 0x2311 3 (low.setWidth 64) = true) (hfree : (s.handed via 0x2311 3).pinBusy = false)
    (hp : post (s.handed via 0x2311 3) ((s.handed via 0x2311 3).pinCommand (low.setWidth 64))) :
    Writes c via 0x2311 3 s [.regs, .caddy, .seq] post := by
  have hcut := Entry.cut_given_word (e := pinctlEntry) rfl s via low
  refine Writes.of_effect hx hc (e := pinctlEntry) (by decide +kernel) (by decide) (s.fits_pinctl hin via) (by decide) (by decide)
    (by decide) (t := (s.handed via 0x2311 3).pinCommand (low.setWidth 64)) ?_ ?_ ?_
  · rw [hcut]
    simp [State.writeEffect, State.writeCaddy, hfree, State.unless]
  · rw [State.noteClear_of_no_w1c _ _ _ _ rfl]
    exact (State.pinCommand_keeps (List.Subset.refl _) (State.Keeps.refl _ _) _).frame
  · rwa [State.noteClear_of_no_w1c _ _ _ _ rfl]

/-! ### The pinned bits of a range (R183) -/

/-- A line loses its pinned bit where it is present. -/
def State.unpinLine (s : State) (pa : Nat) : State :=
  match s.findWay pa with
  | some k => s.setLine k { s.line k with pinned := false }
  | none => s

theorem State.markPinned_false (s : State) (base len : Nat) :
    s.markPinned base len false = (rangeLines base len).foldl State.unpinLine s := by
  refine congrArg (fun f => (rangeLines base len).foldl f s) ?_
  funext s pa
  rw [State.unpinLine]
  cases s.findWay pa <;> rfl

/-- Of two states only pinned bits of lines differ, and no line is pinned in the second alone. -/
structure Unpinned (s t : State) : Prop where
  caddy : t.caddy = { s.caddy with lines := t.caddy.lines }
  keeps : State.Keeps [.caddy] s t
  lines : ∀ k, { t.line k with pinned := false } = { s.line k with pinned := false }
  pinned : ∀ k, (s.line k).pinned = false → (t.line k).pinned = false

theorem Unpinned.refl (s : State) : Unpinned s s := ⟨rfl, State.Keeps.refl _ s, fun _ => rfl, fun _ => id⟩

theorem Unpinned.trans {s t u : State} (h : Unpinned s t) (g : Unpinned t u) : Unpinned s u :=
  ⟨by rw [g.caddy, h.caddy], h.keeps.trans g.keeps, fun k => (g.lines k).trans (h.lines k), fun k hk => g.pinned k (h.pinned k hk)⟩

theorem Unpinned.findWay {s t : State} (h : Unpinned s t) (pa : Nat) : t.findWay pa = s.findWay pa := by
  have hregs : t.regs = s.regs := h.keeps.parts .regs (by decide)
  have hhomes : SameHomes s t := ⟨h.keeps.parts .lanes (by decide), State.reg_of_regs hregs _ _,
    fun _ _ => State.reg_of_regs hregs _ _⟩
  exact hhomes.findWay (fun k => (Line.mk.inj (h.lines k)).2.1) (fun k => (Line.mk.inj (h.lines k)).1) pa

theorem State.unpinLine_unpinned (s : State) (pa : Nat) : Unpinned s (s.unpinLine pa) := by
  unfold State.unpinLine
  split
  · next k _ =>
    refine ⟨rfl, State.setLine_keeps (by decide) (State.Keeps.refl _ s) _ _, fun j => ?_, fun j hj => ?_⟩
    · by_cases hk : j = k
      · rw [hk, State.line_setLine_self]
      · rw [State.line_setLine_ne _ _ hk]
    · by_cases hk : j = k
      · rw [hk, State.line_setLine_self]
      · rwa [State.line_setLine_ne _ _ hk]
  · exact .refl s

theorem State.unpinLine_clears {s : State} {pa k : Nat} (hway : s.findWay pa = some k) :
    ((s.unpinLine pa).line k).pinned = false := by
  rw [State.unpinLine, hway]
  exact congrArg Line.pinned (State.line_setLine_self ..)

theorem State.unpinLines (l : List Nat) (s : State) : Unpinned s (l.foldl State.unpinLine s)
    ∧ ∀ pa ∈ l, ∀ k, s.findWay pa = some k → ((l.foldl State.unpinLine s).line k).pinned = false := by
  induction l generalizing s with
  | nil => exact ⟨.refl s, fun _ h => absurd h List.not_mem_nil⟩
  | cons pa l ih =>
    obtain ⟨hrest, hcleared⟩ := ih (s.unpinLine pa)
    have hfirst := s.unpinLine_unpinned pa
    refine ⟨hfirst.trans hrest, fun p hp k hway => ?_⟩
    rcases List.mem_cons.1 hp with rfl | hp
    · exact hrest.pinned k (State.unpinLine_clears hway)
    · exact hcleared p hp k ((hfirst.findWay p).trans hway)

end Sys2Proof.Machine
end

section
/-! SUPPORT. Unpins, the walks of kills and PINSHARE: the statement from its clauses. -/

namespace Sys2Proof.Machine

/-! ### An unpin request (R183) -/

section
variable {s : State} {via : Via} {base len i : Nat} {job : Option Nat}

theorem State.slotMatch_lt (h : s.slotMatch base len = some i) : i < 64 := by
  unfold State.slotMatch at h
  split at h
  · obtain ⟨p, hfind, rfl⟩ := Option.map_eq_some_iff.1 h
    exact State.lt_of_mem_pinSlots (List.mem_of_find?_eq_some hfind)
  · cases h

theorem State.pinCommand_unpin (s : State) :
    s.pinCommand ((2 : Word32).setWidth 64) = s.unpinBegin (s.fld 0x2311 1 47 0) (s.fld 0x2311 2 47 0) none := by
  have hop : fieldOf ((2 : Word32).setWidth 64) 1 0 ≠ 1 := by decide
  rw [State.pinCommand, if_neg hop]

/-- An unpin clears its slot and shows it, and the engine has the walk to do. -/
theorem State.unpinBegin_of_match (h : s.slotMatch base len = some i) : s.unpinBegin base len job =
    (((s.clearSlot i).setFld 0x2311 4 11 6 i).setPin (some (.unpin (base / 4096) (len / 4096) job))).notePinBusy := by
  rw [State.unpinBegin, h]

theorem State.unpinBegin_clears (h : s.slotMatch base len = some i) :
    (s.unpinBegin base len job).pinSlot i = none ∧ (s.unpinBegin base len job).pinBusy = true
      ∧ (s.unpinBegin base len job).caddy.lines = s.caddy.lines
      ∧ (s.unpinBegin base len job).caddy.pin = some (.unpin (base / 4096) (len / 4096) job)
      ∧ ∀ j, j < 64 → j ≠ i → (s.unpinBegin base len job).pinSlot j = s.pinSlot j := by
  rw [State.unpinBegin_of_match h]
  obtain ⟨hcleared, hothers⟩ := s.clearSlot_slots i
  have hslots (v : State) (j : Nat) (hj : j < 64) :
      ((v.setFld 0x2311 4 11 6 i).setPin (some (.unpin (base / 4096) (len / 4096) job))).notePinBusy.pinSlot j = v.pinSlot j :=
    (State.pinSlot_of_reg (State.notePinBusy_entries _ _ _ (by simp [regKey]; omega))).trans
      (State.pinSlot_of_reg (State.reg_setFld_ne v _ _ _ (by simp [regKey]; omega)))
  have hlines : (s.clearSlot i).caddy = s.caddy :=
    (State.clearSlot_keeps (C := [.regs]) (by decide) (State.Keeps.refl _ s) i).parts .caddy (by decide)
  generalize s.clearSlot i = v at *
  refine ⟨(hslots v i (State.slotMatch_lt h)).trans hcleared, State.notePinBusy_pinBusy _, ?_, ?_,
    fun j hj hne => (hslots v j hj).trans (hothers j hj hne)⟩
  · rw [State.notePinBusy_caddy]
    exact congrArg Caddy.lines (a₁ := v.caddy) hlines
  · rw [State.notePinBusy_caddy]
    rfl

/-- PINBASE and PINLEN are as written, over whatever way PINCTL is. -/
theorem State.fld_pinRange_handed (s : State) (via : Via) {sub : Nat} (hsub : sub = 1 ∨ sub = 2) :
    (s.handed via 0x2311 3).fld 0x2311 sub 47 0 = s.fld 0x2311 sub 47 0 := by
  rcases hsub with rfl | rfl <;> exact s.fld_handed via (by decide) (by decide) _ _ _ _

theorem Writes.unpin {post : State → State → Prop} (hc : s.carries via 0x2311 3 = true)
    (hfree : (s.handed via 0x2311 3).pinBusy = false)
    (hp : post (s.handed via 0x2311 3)
      ((s.handed via 0x2311 3).unpinBegin (s.fld 0x2311 1 47 0) (s.fld 0x2311 2 47 0) none)) :
    Writes (.unpinRequest via) via 0x2311 3 s [.regs, .caddy, .seq] post := by
  refine Writes.pinctl (low := 2) rfl hc (by decide) hfree ?_
  rwa [State.pinCommand_unpin, s.fld_pinRange_handed via (.inl rfl), s.fld_pinRange_handed via (.inr rfl)]

end

/-! ### The walks (R183, R185) -/

section
variable {s : State} {base len : Nat} {job : Option Nat} {rest : List (Nat × Nat)}

theorem unpinWalkDone_clears (hpin : s.caddy.pin = some (.unpin base len job)) (hkill : s.caddy.killQ = []) :
    Runs .unpinWalkDone s [.regs, .caddy, .seq] fun t =>
      t.caddy.pin = none ∧ t.fld 0x2311 4 3 0 = 0 ∧ t.pinBusy = false
      ∧ ∀ pa ∈ rangeLines base len, ∀ k, s.findWay pa = some k → (t.line k).pinned = false
          ∧ (t.line k).data = (s.line k).data ∧ (t.line k).dirty = (s.line k).dirty := by
  have hrun : s.unpinDone = (s.markPinned base len false).pinEnd 0 := by rw [State.unpinDone, hpin]
  obtain ⟨hunpinned, hcleared⟩ := s.unpinLines (rangeLines base len)
  rw [← State.markPinned_false] at hunpinned hcleared
  refine ⟨_, congrArg Host.Outcome.next hrun, ?_⟩
  generalize s.markPinned base len false = v at *
  have hline (k : Nat) : (v.pinEnd 0).line k = v.line k := State.line_of_lines (by rw [State.pinEnd_caddy]) k
  refine ⟨(State.pinEnd_keeps (by decide) (State.Keeps.wider hunpinned.keeps (by decide)) 0).frame,
    by rw [State.pinEnd_caddy], v.pinEnd_status (by decide), ?_, fun pa hpa k hway => ?_⟩
  · rw [State.pinEnd_pinBusy, hunpinned.caddy, hkill]
    rfl
  · rw [hline]
    exact ⟨hcleared pa hpa k hway, (Line.mk.inj (hunpinned.lines k)).2.2.2.2.2.2, (Line.mk.inj (hunpinned.lines k)).2.2.1⟩

theorem killUnpinWalk_clears (hpin : s.caddy.pin = none) (hkill : s.caddy.killQ = (base, len) :: rest) :
    Runs .killUnpinWalk s [.regs, .caddy, .seq] fun t =>
      t.caddy.killQ = rest ∧ t.pinBusy = !rest.isEmpty
      ∧ ∀ pa ∈ rangeLines base len, ∀ k, s.findWay pa = some k → (t.line k).pinned = false := by
  obtain ⟨hunpinned, hcleared⟩ := s.unpinLines (rangeLines base len)
  rw [← State.markPinned_false] at hunpinned hcleared
  have hrun : s.killWalk = ({ s.markPinned base len false with
      caddy := { (s.markPinned base len false).caddy with killQ := rest } } : State).notePinBusy := by
    rw [State.killWalk, hpin, hkill]
  refine ⟨_, congrArg Host.Outcome.next hrun, ?_⟩
  generalize s.markPinned base len false = v at *
  have hpin' : v.caddy.pin = none := by rw [hunpinned.caddy, hpin]
  have hkeeps : State.Keeps [.regs, .caddy, .seq] s { v with caddy := { v.caddy with killQ := rest } } :=
    State.Keeps.ofFields (State.Keeps.setCaddy (by decide) (State.Keeps.wider hunpinned.keeps (by decide)).toFields)
  refine ⟨(State.notePinBusy_keeps (by decide) hkeeps).frame, by rw [State.notePinBusy_caddy], ?_, fun pa hpa k hway => ?_⟩
  · rw [State.notePinBusy_pinBusy, hpin']
    rfl
  · rw [State.line_of_lines (t := State.notePinBusy _) (s := v) (by rw [State.notePinBusy_caddy])]
    exact hcleared pa hpa k hway

end

/-! ### PINSHARE (R179) -/

/-- PINSHARE. -/
def pinshareEntry : Entry := .pers32 (mask 4 0) 0x0C

theorem fieldOf_merged_pinshare (old v : Word64) : fieldOf (pinshareEntry.merged old v) 4 0 = fieldOf v 4 0 :=
  fieldOf_congr fun i _ hi => by
    rw [Entry.merged_getLsbD _ _ _ (by omega)]
    simp [pinshareEntry, Entry.pers32, mask_getLsbD i (hi := 4) (lo := 0) (by decide) (by decide), hi]

theorem State.fits_pinshare (s : State) (via : Via) {value : Word32} (h : fieldOf (value.setWidth 64) 4 0 ≤ 18) :
    s.fits 0x2310 4 pinshareEntry (s.given via (value.setWidth 64)) = true := by
  have hcut := Entry.cut_given_word (e := pinshareEntry) rfl s via value
  have hrange (w : Word64) : inRange 0x2310 4 w = decide (fieldOf w 4 0 ≤ 18) := by simp [inRange]
  have hwo : pinshareEntry.wo = 0 := rfl
  unfold Entry.cut at hcut
  simp only [State.fits, hcut, hrange, hwo, BitVec.ofNat_eq_ofNat, BitVec.not_zero, BitVec.and_allOnes, BitVec.and_zero,
    BitVec.or_zero, fieldOf_merged_pinshare, h, decide_true]

theorem State.setWays_entries (s : State) (ways : Nat) : Entries [(0x2310, 4), (0x2314, 1), (0x2314, 2)] s (s.setWays ways) :=
  Entries.write (by simp) (Entries.foldl _ (fun _ c hc h => Entries.write
    (by simp at hc; rcases hc with rfl | rfl <;> simp) h _) (.refl _ s)) _

theorem State.setWays_pinWays (s : State) {ways : Nat} (h : ways ≤ 18) : (s.setWays ways).pinWays = ways :=
  (State.fld_setFld_self _ _ _ _ (by decide) (by decide)).trans (Nat.mod_eq_of_lt (by omega))

theorem pinshareWrite_sets {s : State} {via : Via} {value : Word32} (hc : s.carries via 0x2310 4 = true)
    (hin : fieldOf (value.setWidth 64) 4 0 ≤ 18) (hfree : (s.handed via 0x2310 4).pinBusy = false)
    (hfit : (s.handed via 0x2310 4).setsFit (s.handed via 0x2310 4).pinRanges (fieldOf (value.setWidth 64) 4 0) = true) :
    Writes (.pinshareWrite via value) via 0x2310 4 s [.regs] fun u t =>
      t.pinWays = fieldOf (value.setWidth 64) 4 0 ∧ Entries [(0x2310, 4), (0x2314, 1), (0x2314, 2)] u t := by
  have hcut := Entry.cut_given_word (e := pinshareEntry) rfl s via value
  generalize hu : s.handed via 0x2310 4 = u at *
  refine Writes.of_effect rfl hc (e := pinshareEntry) (by decide +kernel) (by decide) (s.fits_pinshare via hin) (by decide)
    (by decide) (by decide) (t := u.setWays (fieldOf (value.setWidth 64) 4 0)) ?_ ?_ ?_ <;> rw [hu]
  · rw [hcut]
    simp [State.writeEffect, State.writeCaddy, State.writeWays, fieldOf_merged_pinshare, hfree, hfit, State.unless]
  all_goals
    rw [State.noteClear_of_no_w1c _ _ _ _ rfl]
  · exact (State.setWays_keeps (List.Subset.refl _) (State.Keeps.refl _ u) _).frame
  · exact ⟨u.setWays_pinWays hin, u.setWays_entries _⟩

/-- Settles O17: the slot goes as the request begins, and a walk changes nothing of a line but its pinned bit. -/
theorem unpinClearsSlotAndBits : Obligations.UnpinClearsSlotAndBits :=
  ⟨fun _ _ _ hc hfree hmatch => Writes.unpin hc hfree (State.unpinBegin_clears hmatch),
    fun s via hc hfree hnone => Writes.unpin hc hfree (by
      rw [State.unpinBegin, hnone]
      exact ⟨State.pinEnd_status _ (by decide), State.pinEnd_entries _ 5⟩),
    fun _ _ _ _ => unpinWalkDone_clears, fun _ _ _ _ => killUnpinWalk_clears, fun _ _ _ => pinshareWrite_sets⟩

end Sys2Proof.Machine
end

section
/-! SUPPORT. Pin requests and their walks: the statement from its clauses. -/

namespace Sys2Proof.Machine

/-! ### A pin request (R180, R181) -/

/-- What PINCTL takes for a pin. -/
def pinWord (pref : Bool) (owner : BitVec 5) : Word32 := BitVec.ofNat 32 (1 + 4 * pref.toNat + 8 * owner.toNat)

theorem packWord_pin (pref : Bool) (owner : BitVec 5) :
    packWord [(1, 0), (pref.toNat, 2), (owner.toNat, 3)] = (pinWord pref owner).setWidth 64 := by
  revert pref owner
  decide +kernel

theorem pinWord_fields (pref : Bool) (owner : BitVec 5) : fieldOf ((pinWord pref owner).setWidth 64) 1 0 = 1
    ∧ fieldOf ((pinWord pref owner).setWidth 64) 7 3 = owner.toNat ∧ ((pinWord pref owner).setWidth 64).getLsbD 2 = pref := by
  revert pref owner
  decide +kernel

section
variable {s : State} {via : Via} {pref : Bool} {owner : BitVec 5} {base len : Nat} {job : Option Nat}

theorem Writes.pin {post : State → State → Prop} (hc : s.carries via 0x2311 3 = true)
    (howner : owner.toNat < 16 ∨ owner.toNat = 0x1F) (hfree : (s.handed via 0x2311 3).pinBusy = false)
    (hp : post (s.handed via 0x2311 3)
      ((s.handed via 0x2311 3).pinBegin (s.fld 0x2311 1 47 0) (s.fld 0x2311 2 47 0) owner.toNat pref none)) :
    Writes (.pinRequest via pref owner) via 0x2311 3 s [.regs, .caddy, .seq] post := by
  obtain ⟨hop, hof, hpref⟩ := pinWord_fields pref owner
  have hin : inRange 0x2311 3 ((pinWord pref owner).setWidth 64) = true := by
    rw [inRange_pinctl, hop, hof]
    rcases howner with h | h
    · simp [Nat.le_of_lt_succ h]
    · simp [h]
  refine Writes.pinctl (congrArg (fun v => Host.Outcome.next (s.dictPut via 0x2311 3 v)) (packWord_pin pref owner)) hc hin hfree ?_
  rwa [State.pinCommand, if_pos hop, hof, hpref, s.fld_pinRange_handed via (.inl rfl), s.fld_pinRange_handed via (.inr rfl)]

theorem State.pinRefusal_lt (s : State) (base len : Nat) : s.pinRefusal base len < 16 := by
  unfold State.pinRefusal
  repeat' split
  all_goals decide

theorem State.pinBegin_refused (h : s.pinRefusal base len ≠ 0) (owner : Nat) :
    (s.pinBegin base len owner pref job).caddy.pin = none
      ∧ (s.pinBegin base len owner pref job).fld 0x2311 4 3 0 = s.pinRefusal base len
      ∧ Entries [(0x2311, 4)] s (s.pinBegin base len owner pref job) := by
  rw [State.pinBegin, if_pos h]
  exact ⟨by rw [State.pinEnd_caddy], State.pinEnd_status _ (s.pinRefusal_lt base len), State.pinEnd_entries _ _⟩

theorem State.pinBegin_accepted (h : s.pinRefusal base len = 0) (owner : Nat) :
    (s.pinBegin base len owner pref job).caddy.pin = some (.pin (base / 4096) (len / 4096) owner pref .first 0 job)
      ∧ (s.pinBegin base len owner pref job).pinBusy = true
      ∧ (s.pinBegin base len owner pref job).bit 0x2311 4 5 = false
      ∧ (s.pinBegin base len owner pref job).caddy.lines = s.caddy.lines
      ∧ Entries [(0x2311, 4)] s (s.pinBegin base len owner pref job) := by
  rw [State.pinBegin, if_neg (not_not.2 h)]
  refine ⟨by rw [State.notePinBusy_caddy]; rfl, State.notePinBusy_pinBusy _, ?_, by rw [State.notePinBusy_caddy]; rfl, ?_⟩
  · rw [State.notePinBusy_bit _ (by decide) (by decide)]
    exact State.bit_setBit_self s 0x2311 4 false (by decide)
  · exact Entries.trans (Entries.setReg s 0x2311 4 _) (State.notePinBusy_entries _)

end

theorem State.pinRefusal_of_not_granules {s : State} {base len : Nat} (h : granuleRange base len = false) :
    s.pinRefusal base len = 1 := by
  rw [State.pinRefusal, h]
  rfl

theorem State.pinRefusal_of_overlap {s : State} {base len : Nat} (h : granuleRange base len = true)
    (hover : (s.pinRanges.any fun r => overlaps (base / 4096) (len / 4096) r.1 r.2) = true) : s.pinRefusal base len = 2 := by
  rw [State.pinRefusal, h, if_neg (by decide), if_pos hover]

/-! ### The counting walk's end (R181, R182, R184) -/

section
variable {s t : State} {c : Nat}

theorem State.tokFree_of_reg (h : t.reg 0x2314 (c + 1) = s.reg 0x2314 (c + 1)) : t.tokFree c = s.tokFree c := by
  rw [State.tokFree, h, State.tokFree]

theorem State.tokFree_le (s : State) (c : Nat) : s.tokFree c < 2 ^ 31 := BitVec.toInt_lt

theorem State.tokFree_setTokFree (s : State) (c : Nat) {v : Int} (h0 : 0 ≤ v) (hlt : v < 2 ^ 31) :
    (s.setTokFree c v).tokFree c = v := by
  rw [State.tokFree, State.setTokFree, State.reg_setReg_self, BitVec.setWidth_setWidth_of_le _ (by decide), BitVec.setWidth_eq,
    BitVec.toInt_ofInt, Int.bmod_eq_of_le (by norm_num; omega) (by norm_num; omega)]

theorem State.tokFree_setTokFree_ne (s : State) {d : Nat} (h : d ≠ c) (v : Int) : (s.setTokFree c v).tokFree d = s.tokFree d :=
  State.tokFree_of_reg (State.reg_setReg_ne s _ (by simp only [regKey, ne_eq]; omega))

theorem State.tokFree_setTokClaim (s : State) (owner d n : Nat) (hc : c < 2) :
    (s.setTokClaim owner d n).tokFree c = s.tokFree c :=
  State.tokFree_of_reg (State.reg_setFld_ne s _ _ _ (regKey_ne_of_idx (by omega) (claimSub_lt owner) (by decide)))

theorem LedgerMoved.homedLines (h : LedgerMoved s t) (hlanes : t.lanes = s.lanes) (base len : Nat) (c : Nat) :
    t.homedLines base len c = s.homedLines base len c := by
  have hhomes : SameHomes s t := ⟨hlanes, h _ _ (by decide) (by simp [TokenEntry]), fun _ hsub => h _ _ hsub (by simp [TokenEntry])⟩
  simp only [State.homedLines, hhomes.homeOf]

/-- Tokens of a range move from the free pool of one caddy to the owner. -/
def State.claimOne (s : State) (base len owner c : Nat) : State :=
  (s.setTokFree c (s.tokFree c - s.homedLines base len c)).setTokClaim owner c (s.tokClaim owner c + s.homedLines base len c)

theorem State.claimTokens_eq (s : State) (base len owner : Nat) :
    s.claimTokens base len owner = (s.claimOne base len owner 0).claimOne base len owner 1 := rfl

section
variable {base len : Nat} (owner : Nat)

theorem State.tokFree_claimOne (hc : c < 2) (hfree : 0 ≤ s.tokFree c ∧ (s.homedLines base len c : Int) ≤ s.tokFree c) :
    (s.claimOne base len owner c).tokFree c = s.tokFree c - s.homedLines base len c := by
  have hle := s.tokFree_le c
  obtain ⟨h0, hn⟩ := hfree
  exact (State.tokFree_setTokClaim _ owner c _ hc).trans (State.tokFree_setTokFree s c (by omega) (by omega))

theorem State.tokFree_claimOne_ne {d : Nat} (hd : d < 2) (h : d ≠ c) : (s.claimOne base len owner c).tokFree d = s.tokFree d :=
  (State.tokFree_setTokClaim _ owner c _ hd).trans (State.tokFree_setTokFree_ne s h _)

theorem State.homedLines_claimOne (hc : c < 2) (d : Nat) :
    (s.claimOne base len owner c).homedLines base len d = s.homedLines base len d :=
  LedgerMoved.homedLines (((LedgerMoved.refl s).setTokFree hc _).setTokClaim owner c _) rfl base len d

/-- Tokens of a range move from the free pool to the owner, in both caddies. -/
theorem State.tokFree_claimTokens (hfree : ∀ c, c < 2 → 0 ≤ s.tokFree c ∧ (s.homedLines base len c : Int) ≤ s.tokFree c)
    (hc : c < 2) : (s.claimTokens base len owner).tokFree c = s.tokFree c - s.homedLines base len c := by
  rw [State.claimTokens_eq]
  have hfirst := State.tokFree_claimOne owner (by decide) (hfree 0 (by decide))
  have hlater := State.tokFree_claimOne_ne (s := s) (base := base) (len := len) owner (c := 0) (by decide : 1 < 2) (by decide)
  have hlines := State.homedLines_claimOne (s := s) (base := base) (len := len) owner (by decide : 0 < 2) 1
  obtain rfl | rfl : c = 0 ∨ c = 1 := by omega
  · rw [State.tokFree_claimOne_ne owner (by decide) (by decide), hfirst]
  · rw [State.tokFree_claimOne owner (by decide) (by rw [hlater, hlines]; exact hfree 1 (by decide)), hlater, hlines]

end

end

section
variable {s : State} {base len owner i slot : Nat} {pref : Bool} {job : Option Nat}

/-- A slot of PINRANGE does not touch the ledger. -/
theorem State.setSlot_ledger (s : State) (hi : i < 64) (w : Word64) :
    (∀ c, c < 2 → (s.setSlot i w).tokFree c = s.tokFree c)
      ∧ ∀ c, (s.setSlot i w).homedLines base len c = s.homedLines base len c := by
  have hreg (idx sub : Nat) (hidx : idx ≠ 0x2312) (hsub : sub < 256) : (s.setSlot i w).reg idx sub = s.reg idx sub :=
    State.reg_setReg_ne s w (regKey_ne_of_idx hsub (by omega) hidx)
  have hhomes : SameHomes s (s.setSlot i w) := ⟨rfl, hreg _ _ (by decide) (by decide), fun _ h => hreg _ _ (by decide) h⟩
  exact ⟨fun c hc => State.tokFree_of_reg (hreg _ _ (by decide) (by omega)),
    fun c => by simp only [State.homedLines, hhomes.homeOf]⟩

theorem State.pinSlot_setPin (s : State) (p : Option PinWork) (i : Nat) : (s.setPin p).pinSlot i = s.pinSlot i := rfl

theorem State.tokFree_setPin (s : State) (p : Option PinWork) (c : Nat) : (s.setPin p).tokFree c = s.tokFree c := rfl

theorem pinFirstWalkDone_commits (hpin : s.caddy.pin = some (.pin base len owner pref .first slot job))
    (hfit : s.setsFit ((base, len) :: s.pinRanges) s.pinWays = true)
    (hfree : ∀ c, c < 2 → 0 ≤ s.tokFree c ∧ (s.homedLines base len c : Int) ≤ s.tokFree c)
    (hslot : (List.range 64).find? (fun i => (s.pinSlot i).isNone) = some i)
    (hbase : base < 2 ^ 27) (hlen : len < 2 ^ 27) (howner : owner < 32) :
    Runs .pinFirstWalkDone s [.regs, .caddy] fun t =>
      t.caddy.pin = some (.pin base len owner pref .second i job) ∧ t.pinSlot i = some (base, len, owner)
      ∧ (∀ c, c < 2 → t.tokFree c = s.tokFree c - s.homedLines base len c)
      ∧ ∀ j, j < 64 → j ≠ i → t.pinSlot j = s.pinSlot j := by
  have hi : i < 64 := List.mem_range.1 (List.mem_of_find?_eq_some hslot)
  have hall : ([0, 1].all fun c => decide (0 ≤ s.tokFree c ∧ (s.homedLines base len c : Int) ≤ s.tokFree c)) = true := by
    simpa using ⟨hfree 0 (by decide), hfree 1 (by decide)⟩
  have hrun : s.firstWalkDone = ((s.setSlot i (slotWord base len owner)).claimTokens base len owner).setPin
      (some (.pin base len owner pref .second i job)) := by
    simp only [State.firstWalkDone, hpin, State.pinCommit, hfit, hall, hslot, Bool.and_self, Bool.not_true, Bool.false_eq_true,
      if_false]
  obtain ⟨htok, hlines⟩ := s.setSlot_ledger hi (slotWord base len owner) (base := base) (len := len)
  have hmoved := LedgerMoved.claimTokens (s.setSlot i (slotWord base len owner)) base len owner
  have hset := s.pinSlot_setSlot i hbase hlen howner
  have hothers (j : Nat) (hne : j ≠ i) := s.pinSlot_setSlot_ne hne (slotWord base len owner)
  have hkeeps : State.Keeps [.regs, .caddy] s (s.setSlot i (slotWord base len owner)) :=
    State.setSlot_keeps (by decide) (State.Keeps.refl _ s) _ _
  refine ⟨_, congrArg Host.Outcome.next hrun, ?_⟩
  generalize s.setSlot i (slotWord base len owner) = v at *
  refine ⟨(State.setPin_keeps (by decide) (State.claimTokens_keeps (by decide) hkeeps _ _ _) _).frame, rfl, ?_, fun c hc => ?_,
    fun j hj hne => ?_⟩
  · rw [State.pinSlot_setPin, hmoved.pinSlot hi, hset]
  · rw [State.tokFree_setPin, State.tokFree_claimTokens owner (fun d hd => by rw [htok d hd, hlines]; exact hfree d hd) hc,
      htok c hc, hlines]
  · rw [State.pinSlot_setPin, hmoved.pinSlot hj, hothers j hne]

/-! ### The second walk's end (R182) -/

theorem State.markPinned_killQ (s : State) (base len : Nat) (b : Bool) :
    (s.markPinned base len b).caddy.killQ = s.caddy.killQ := by
  unfold State.markPinned
  refine State.foldl_preserves (fun s : State => s.caddy.killQ) (fun s pa => ?_) _ s
  split
  · dsimp only
    split
    · rw [(State.event_keeps (C := [.regs, .link, .can, .out]) (by decide) (State.Keeps.refl _ s) _ _ _).parts .caddy (by decide)]
    · rfl
  · rfl

theorem pinSecondWalkDone_ends (hpin : s.caddy.pin = some (.pin base len owner false .second slot job))
    (hkill : s.caddy.killQ = []) (hslot : slot < 64) :
    Runs .pinSecondWalkDone s [.regs, .caddy, .seq, .link, .can, .out] fun t =>
      t.caddy.pin = none ∧ t.fld 0x2311 4 3 0 = 0 ∧ t.fld 0x2311 4 11 6 = slot ∧ t.pinBusy = false := by
  have hrun : s.secondWalkDone = (s.markPinned base len true).pinDone slot := by
    simp only [State.secondWalkDone, hpin, Bool.false_and, Bool.false_eq_true, if_false]
  have hkeeps : State.Keeps [.regs, .caddy, .seq, .link, .can, .out] s (s.markPinned base len true) :=
    State.markPinned_keeps (by decide) (State.Keeps.refl _ s) _ _ _
  have hqueue := s.markPinned_killQ base len true
  refine ⟨_, congrArg Host.Outcome.next hrun, ?_⟩
  generalize s.markPinned base len true = v at *
  refine ⟨(State.pinDone_keeps (by decide) hkeeps slot).frame, by rw [State.pinDone, State.pinEnd_caddy],
    State.pinEnd_status _ (by decide), (State.pinEnd_slot _ _).trans ?_, (State.pinEnd_pinBusy _ _).trans ?_⟩
  · exact (State.fld_setFld_self v _ _ _ (by decide) (by decide)).trans (Nat.mod_eq_of_lt hslot)
  · exact congrArg (fun q => !List.isEmpty q) (hqueue.trans hkill)

/-! ### The fetch of a pinned range (R164, R182) -/

theorem pinPrefetchDone_ends {last : Bool} (hpref : (base, len, owner, last) ∈ s.caddy.pref)
    (hdone : s.prefetchSectors base len = []) :
    Runs .pinPrefetchDone s [.regs, .caddy] fun t =>
      (last = true → t.bit 0x2311 4 5 = true) ∧ Entries [(0x2311, 4)] s t
      ∧ t.caddy = { s.caddy with pref := s.caddy.pref.filter fun p => s.prefetchSectors p.1 p.2.1 != [] } := by
  refine ⟨s.prefDone, rfl, (State.prefDone_keeps (List.Subset.refl _) (State.Keeps.refl _ s)).frame, ?_⟩
  unfold State.prefDone
  dsimp only
  split
  · exact ⟨fun _ => State.bit_setBit_self _ 0x2311 4 true (by decide), Entries.setReg s 0x2311 4 _, rfl⟩
  · next hgone =>
    refine ⟨fun hlast => absurd ?_ hgone, (Entries.refl _ s).of_regs rfl, rfl⟩
    exact List.any_eq_true.2 ⟨_, List.mem_filter.2 ⟨hpref, by simp [hdone]⟩, hlast⟩

end

/-- Settles O16: a request is refused or walks; its walk's end takes a free slot and tokens that both caddies have. -/
theorem pinRequestCountsCommitsAndEnds : Obligations.PinRequestCountsCommitsAndEnds :=
  ⟨fun _ _ _ _ hc howner hfree h0 => Writes.pin hc howner hfree (State.pinBegin_accepted h0 _),
    fun _ _ _ _ _ hc howner hfree hn h0 => Writes.pin hc howner hfree (hn ▸ State.pinBegin_refused (hn ▸ h0) _),
    fun _ _ _ => ⟨State.pinRefusal_of_not_granules, State.pinRefusal_of_overlap⟩,
    fun _ _ _ _ _ _ _ _ => pinFirstWalkDone_commits, fun _ _ _ _ _ _ => pinSecondWalkDone_ends,
    fun _ _ _ _ _ => pinPrefetchDone_ends⟩

end Sys2Proof.Machine
end

section
/-! SUPPORT. Issue sets that an instruction holds (R253 to R258): their threads, and the fences and tokens they wait for. -/

namespace Sys2Proof.Machine

/-! ### The threads of a run state -/

section
variable {t t' : Tg} {key : Nat} {ls : List Nat} {r : RunSt}

theorem Tg.Touched.setRun (t : Tg) (key : Nat) (ls : List Nat) (r : RunSt) : Tg.Touched key ls t (t.setRun key ls r) :=
  .updThreads ls t _

theorem Tg.Touched.issue (h : Tg.Touched key ls t t') : t'.issue = t.issue := by rw [h.rest]

theorem Tg.Touched.freeAt (h : Tg.Touched key ls t t') : t'.freeAt = t.freeAt := by rw [h.rest]

theorem Tg.thread?_setRun_of_nodup (hnd : ls.Nodup) {l : Nat} (hl : l ∈ ls) (t : Tg) :
    (t.setRun key ls r).thread? key l = (t.thread? key l).map fun y => { y with run := r } :=
  Tg.thread?_updThreads key _ hnd hl t

theorem Tg.thread?_of_groups (h : t'.groups = t.groups) (k l : Nat) : t'.thread? k l = t.thread? k l := by
  rw [Tg.thread?, h, Tg.thread?]

end

/-! ### An issue set that goes on, and is held (R253 to R257) -/

section
variable {s t : State} {x : Ex} {th : Th} {regs : List Nat} {bad : State → Ex → Nat → Option (Nat × Word64)} {rate : Nat}

/-- A change of what an issue set waits for leaves what the instruction has done. -/
theorem Went.setTg {lanes : List Nat} (h : Went s t x lanes rate) {tg : Tg} (hissue : tg.issue = (t.tg x.cl).issue)
    (hfree : tg.freeAt = (t.tg x.cl).freeAt)
    (hthreads : ∀ k l, (k = x.key → l ∉ lanes) → tg.thread? k l = (t.tg x.cl).thread? k l) :
    Went s (t.setTg x.cl tg) x lanes rate := by
  obtain ⟨hothers, hno, hbusy, hrest, hengine⟩ := h
  refine ⟨fun k hk => (State.cluster_setCluster_ne t _ hk).trans (hothers k hk), ?_, ?_, fun k l hk => ?_,
    (t.engine_setTg _ _ _).trans hengine⟩
  · rw [State.tg_setTg_self, hissue, hno]
  · rw [State.tg_setTg_self, hfree, hbusy]
  · rw [State.tg_setTg_self, hthreads k l hk, hrest k l hk]

/-- The issue set has gone on to the next instruction, and its scheduler is done with it. -/
def State.wentOn (s : State) (x : Ex) (size : Nat) : State := (s.advance x size).issued x 1

theorem State.wentOn_went (s : State) (x : Ex) (size : Nat) : Went s (s.wentOn x size) x x.lanes 1 :=
  (OnLanes.advance s x size).went 1

theorem State.wentOn_keeps (s : State) (x : Ex) (size : Nat) : State.Keeps [.clusters] s (s.wentOn x size) :=
  State.issued_keeps (List.Subset.refl _) (State.advance_keeps (List.Subset.refl _) (State.Keeps.refl _ s) x size) x 1

section
variable (hin : s.inHand th regs bad x) (htog : s.together x)
include hin

theorem State.inHand_hasLane {l : Nat} (hl : l ∈ x.lanes) : s.hasLane x l := (hin.2.2.2.2 l hl).2.1

theorem State.wentOn_hasLane (size : Nat) {l : Nat} (hl : l ∈ x.lanes) : (s.wentOn x size).hasLane x l := by
  have h := (OnLanes.advance s x size).hasLane (State.inHand_hasLane hin hl)
  rwa [State.hasLane, State.wentOn, State.tg_issued]

include htog in
theorem State.wentOn_thread (size : Nat) {l : Nat} (hl : l ∈ x.lanes) :
    (s.wentOn x size).thread x l = { s.thread x l with pc := x.pc + size } := by
  obtain ⟨a, hready, hdone⟩ := State.ranLanes_lane (size := size) (rate := 1) (f := fun _ u => u) hin htog
    (fun m _ u => OnLanes.refl x [m] u) hl
  have hran : s.ranLanes x size 1 (fun _ u => u) = s.wentOn x size := by rw [State.ranLanes, List.foldl_fixed, State.wentOn]
  rw [← hran, hdone.thread, hready.thread]

end

/-- The threads of an issue set are in a run state. -/
theorem State.thread_setRun (hnd : x.lanes.Nodup) {l : Nat} (hl : l ∈ x.lanes) (hlane : s.hasLane x l) {r : RunSt} {tg : Tg}
    (hgroups : tg.groups = ((s.tg x.cl).setRun x.key x.lanes r).groups) :
    (s.setTg x.cl tg).thread x l = { s.thread x l with run := r } := by
  obtain ⟨y, hy⟩ := Option.isSome_iff_exists.1 hlane
  rw [State.thread, State.tg_setTg_self, Tg.thread?_of_groups hgroups, Tg.thread?_setRun_of_nodup hnd hl, State.thread, hy]
  rfl

/-- The issue set has gone on, and waits for something. -/
def State.heldAt (s : State) (x : Ex) (size : Nat) (r : RunSt) : Tg := ((s.wentOn x size).tg x.cl).setRun x.key x.lanes r

/-- What an instruction that holds its issue set leaves (R253, R256). -/
theorem State.heldAt_facts (hin : s.inHand th regs bad x) (htog : s.together x) (size : Nat) (r : RunSt) {tg : Tg}
    (htouched : tg.groups = (s.heldAt x size r).groups) (hissue : tg.issue = (s.heldAt x size r).issue)
    (hfree : tg.freeAt = (s.heldAt x size r).freeAt) :
    State.Keeps [.clusters] s ((s.wentOn x size).setTg x.cl tg) ∧ Went s ((s.wentOn x size).setTg x.cl tg) x x.lanes 1
      ∧ ∀ l ∈ x.lanes, ((s.wentOn x size).setTg x.cl tg).thread x l = { s.thread x l with pc := x.pc + size, run := r } := by
  have hrun : Tg.Touched x.key x.lanes ((s.wentOn x size).tg x.cl) (s.heldAt x size r) := .setRun _ _ _ _
  refine ⟨State.setTg_keeps (List.Subset.refl _) (s.wentOn_keeps x size) _ _, (s.wentOn_went x size).setTg ?_ ?_ fun k l hk => ?_,
    fun l hl => ?_⟩
  · rw [hissue, hrun.issue]
  · rw [hfree, hrun.freeAt]
  · rw [Tg.thread?_of_groups htouched, hrun.threads k l hk]
  · rw [State.thread_setRun hin.2.2.1 hl (State.wentOn_hasLane hin size hl) htouched, State.wentOn_thread hin htog size hl]

end

/-! ### Fences (R253) -/

section
variable {s : State} {th : Th} {x : Ex}

theorem State.fence_holds {regs : List Nat} {bad : State → Ex → Nat → Option (Nat × Word64)} (hin : s.inHand th regs bad x)
    (htog : s.together x) (k : FenceKind) {c : Instr} (hc : exec c s = .next (s.fence th k)) :
    Runs c s [.clusters] fun t => Went s t x x.lanes 1 ∧ ∀ l ∈ x.lanes,
      (t.thread x l).run = .atFence k s.time.core ∧ (t.thread x l).pc = x.pc + th.size ∧ Wrote s t x l [] := by
  have hrun : s.fence th k = (s.wentOn x th.size).setTg x.cl (s.heldAt x th.size (.atFence k s.time.core)) := by
    rw [State.fence, hin.1]
    rfl
  obtain ⟨hkeeps, hwent, hthread⟩ := State.heldAt_facts hin htog th.size (.atFence k s.time.core) rfl rfl rfl
  refine ⟨_, hc.trans (congrArg _ hrun), hkeeps.frame, hwent, fun l hl => ?_⟩
  have hl' := hthread l hl
  refine ⟨by rw [hl'], by rw [hl'], .of_rd (fun p hp => absurd hp List.not_mem_nil) (fun r _ => ?_) (by rw [hl'])⟩
  exact State.rd_of_thread (by rw [hl']) r

end

section
variable {s : State} {cl : Cl} {sched : Sched} {slot : Nat}

/-- A thread that a fence holds is there. -/
theorem Tg.thread?_of_mem_fencing {t : Tg} {key : Nat} {q : (FenceKind × Nat) × Nat} (h : q ∈ t.fencing key) :
    (t.thread? key q.2).isSome = true := by
  obtain ⟨l, -, hl⟩ := List.mem_filterMap.1 h
  split at hl
  · next y hy =>
    split at hl
    · obtain rfl := Option.some.inj hl
      exact Option.isSome_iff_exists.2 ⟨y, hy⟩
    · cases hl
  · cases hl

/-- The lanes of a group slot that one fence holds. -/
def State.heldBy (s : State) (cl : Cl) (key : Nat) (q : FenceKind × Nat) : List Nat :=
  (((s.tg cl).fencing key).filter fun h => h.1 == q).map (·.2)

theorem State.mem_heldBy {key l : Nat} {q : FenceKind × Nat} : l ∈ s.heldBy cl key q ↔ (q, l) ∈ (s.tg cl).fencing key := by
  simp only [State.heldBy, List.mem_map, List.mem_filter, beq_iff_eq]
  constructor
  · rintro ⟨⟨p, m⟩, ⟨hmem, rfl⟩, rfl⟩
    exact hmem
  · exact fun h => ⟨_, ⟨h, rfl⟩, rfl⟩

/-- The fences of a group slot, with the lanes that each holds. -/
theorem State.fenced_eq (s : State) (cl : Cl) (sched : Sched) (slot : Nat) : s.fenced cl sched slot =
    (((((s.tg cl).fencing (slotKey sched slot)).map (·.1)).eraseDups.map
      fun q => (q.1, s.heldBy cl (slotKey sched slot) q)).find? fun q => q.2.all fun l => s.fenceMet cl sched slot l q.1) := rfl

theorem State.fenced_eq_none (h : ∀ q ∈ (s.tg cl).fencing (slotKey sched slot), ∃ p ∈ (s.tg cl).fencing (slotKey sched slot),
    p.1 = q.1 ∧ s.fenceMet cl sched slot p.2 p.1.1 = false) : s.fenced cl sched slot = none := by
  rw [State.fenced_eq]
  refine List.find?_eq_none.2 fun w hw => ?_
  obtain ⟨v, hv, rfl⟩ := List.mem_map.1 hw
  obtain ⟨q, hq, rfl⟩ := List.mem_map.1 (List.mem_eraseDups.1 hv)
  obtain ⟨p, hp, heq, hnot⟩ := h q hq
  rw [List.all_eq_true]
  intro hall
  have hmet := hall p.2 (State.mem_heldBy.2 (heq ▸ hp))
  rw [← heq, hnot] at hmet
  exact Bool.noConfusion hmet

/-- A fence that is complete is found, with the lanes it holds. -/
theorem State.fenced_eq_some (h : ∃ q ∈ (s.tg cl).fencing (slotKey sched slot), ∀ p ∈ (s.tg cl).fencing (slotKey sched slot),
    p.1 = q.1 → s.fenceMet cl sched slot p.2 p.1.1 = true) :
    ∃ k set, s.fenced cl sched slot = some (k, s.heldBy cl (slotKey sched slot) (k, set))
      ∧ s.heldBy cl (slotKey sched slot) (k, set) ≠ []
      ∧ ∀ l ∈ s.heldBy cl (slotKey sched slot) (k, set), s.fenceMet cl sched slot l k = true := by
  obtain ⟨q, hq, hmet⟩ := h
  have hsome : (s.fenced cl sched slot).isSome = true := by
    rw [State.fenced_eq, List.find?_isSome]
    exact ⟨_, List.mem_map_of_mem (List.mem_eraseDups.2 (List.mem_map_of_mem hq)),
      List.all_eq_true.2 fun l hl => hmet _ (State.mem_heldBy.1 hl) rfl⟩
  obtain ⟨w, hw⟩ := Option.isSome_iff_exists.1 hsome
  have hfound := hw
  rw [State.fenced_eq] at hfound
  obtain ⟨⟨k, set⟩, hv, rfl⟩ := List.mem_map.1 (List.mem_of_find?_eq_some hfound)
  obtain ⟨p, hp, hpv⟩ := List.mem_map.1 (List.mem_eraseDups.1 hv)
  have hlane : p.2 ∈ s.heldBy cl (slotKey sched slot) (k, set) := State.mem_heldBy.2 (hpv ▸ hp)
  have hall := List.find?_some (p := fun q : FenceKind × List Nat => q.2.all fun l => s.fenceMet cl sched slot l q.1) hfound
  exact ⟨k, set, hw, List.ne_nil_of_mem hlane, List.all_eq_true.1 hall⟩

theorem fenceComplete_waits (h : s.fenced cl sched slot = none) : s.fenceDone cl sched slot = s := by rw [State.fenceDone, h]

/-- The lanes of a fence go on. -/
theorem Tg.thread?_setRun_there {t : Tg} {key : Nat} {ls : List Nat} (r : RunSt) {l : Nat} (hl : l ∈ ls)
    (hthere : (t.thread? key l).isSome = true) : ∃ y, (t.setRun key ls r).thread? key l = some y ∧ y.run = r := by
  rw [← (Tg.Touched.setRun t key ls r).there l] at hthere
  obtain ⟨y, hy⟩ := Option.isSome_iff_exists.1 hthere
  exact ⟨y, hy, Tg.thread?_setRun hl hy⟩

theorem State.dropFirst_tg (s : State) (cl : Cl) : (s.dropFirst cl).tg cl = { s.tg cl with l1 := [], rcache := [] } :=
  State.tg_setTg_self (s := s) cl { s.tg cl with l1 := [], rcache := [] }

end

theorem fenceComplete_releases {s : State} {cl : Cl} {sched : Sched} {slot : Fin 12}
    (h : ∃ q ∈ (s.tg cl).fencing (slotKey sched slot.val), ∀ p ∈ (s.tg cl).fencing (slotKey sched slot.val), p.1 = q.1 →
      s.fenceMet cl sched slot.val p.2 p.1.1 = true) :
    Runs (.fenceComplete cl sched slot) s [.clusters, .reqs] fun t => OtherClusters cl s t
      ∧ ∃ k set lanes, lanes ≠ []
        ∧ (∀ l, l ∈ lanes ↔ ((k, set), l) ∈ (s.tg cl).fencing (slotKey sched slot.val))
        ∧ (∀ l ∈ lanes, s.fenceMet cl sched slot.val l k = true
            ∧ ∃ y, (t.tg cl).thread? (slotKey sched slot.val) l = some y ∧ y.run = .running)
        ∧ (k = .block → t.reqs = s.reqs ∧ (t.tg cl).l1 = (s.tg cl).l1)
        ∧ (k ≠ .block → (t.tg cl).l1 = [] ∧ (t.tg cl).rcache = []) := by
  obtain ⟨k, set, hfenced, hne, hmet⟩ := State.fenced_eq_some h
  have hmem (l : Nat) : l ∈ s.heldBy cl (slotKey sched slot.val) (k, set) ↔ _ := State.mem_heldBy
  generalize s.heldBy cl (slotKey sched slot.val) (k, set) = lanes at hfenced hne hmet hmem
  generalize hv : s.setTg cl ((s.tg cl).setRun (slotKey sched slot.val) lanes .running) = v
  have htg : v.tg cl = (s.tg cl).setRun (slotKey sched slot.val) lanes .running := by rw [← hv, State.tg_setTg_self]
  have hothers : OtherClusters cl s v := fun c hc => by rw [← hv]; exact State.cluster_setCluster_ne s _ hc
  have hruns (l : Nat) (hl : l ∈ lanes) : ∃ y, (v.tg cl).thread? (slotKey sched slot.val) l = some y ∧ y.run = .running := by
    rw [htg]
    exact Tg.thread?_setRun_there .running hl (Tg.thread?_of_mem_fencing ((hmem l).1 hl))
  have hdone : s.fenceDone cl sched slot.val = if k = .block then v else v.dropFirst cl := by
    rw [State.fenceDone, hfenced, ← hv]
  refine ⟨_, rfl, (State.fenceDone_keeps (List.Subset.refl _) (State.Keeps.refl _ s) cl sched slot.val).frame, ?_⟩
  rw [hdone]
  by_cases hk : k = .block
  · rw [if_pos hk]
    refine ⟨hothers, k, set, lanes, hne, hmem, fun l hl => ⟨hmet l hl, hruns l hl⟩, fun _ => ⟨by rw [← hv]; rfl, ?_⟩,
      fun hnot => absurd hk hnot⟩
    rw [htg, (Tg.Touched.setRun _ _ _ _).rest]
  · rw [if_neg hk]
    refine ⟨fun c hc => (State.cluster_setCluster_ne v _ hc).trans (hothers c hc), k, set, lanes, hne, hmem,
      fun l hl => ⟨hmet l hl, ?_⟩, fun hblock => absurd hblock hk, fun _ => ?_⟩
    · rw [State.dropFirst_tg]
      exact hruns l hl
    · rw [State.dropFirst_tg]
      exact ⟨rfl, rfl⟩

end Sys2Proof.Machine
end

section
/-! SUPPORT. Tokens and barriers (R254 to R257): the statement of what holds issue sets, from its clauses. -/

namespace Sys2Proof.Machine

/-! ### Tokens (R256, R257) -/

section
variable {s : State} {th : Th} {ctr n : Src} {x : Ex} {c k : Nat}

/-- A token instruction without a fault does its work for the issue set, which has gone on. -/
theorem State.tokenInstr_eq (hin : s.inHand th (srcRegs ctr ++ srcRegs n) (fun _ _ _ => none) x)
    (hpois : s.regPoison x (x.lanes.headD 0) (srcRegs ctr ++ srcRegs n) = false) (hargs : s.tokenArgs x ctr n = some (c, k))
    (f : Ex → Nat → Nat → State → State) : s.tokenInstr th ctr n f = f x c k (s.wentOn x th.size) := by
  obtain ⟨hex, hregs, -⟩ := hin
  simp only [State.tokenInstr, hex, hregs, hpois, hargs, Bool.not_true, Bool.false_eq_true, if_false, State.wentOn]

/-- Counters and their tokens are not the TG's. -/
theorem State.tok_setTg (s : State) (cl : Nat) (t : Tg) (d m : Nat) : (s.setTg cl t).tok d m = s.tok d m := by
  by_cases h : d = cl
  · subst h
    simp only [State.tok, State.setTg, State.cluster_setCluster_self]
  · simp only [State.tok, State.setTg, State.cluster_setCluster_ne _ _ h]

theorem State.tok_wentOn (s : State) (x : Ex) (size d m : Nat) : (s.wentOn x size).tok d m = s.tok d m :=
  (State.tok_setTg _ _ _ _ _).trans (State.tok_setTg _ _ _ _ _)

theorem State.wentOn_records (s : State) (x : Ex) (size : Nat) :
    ((s.wentOn x size).tg x.cl).takes = (s.tg x.cl).takes ∧ ((s.wentOn x size).tg x.cl).posts = (s.tg x.cl).posts := by
  have h := (OnLanes.advance s x size).tg.rest
  rw [State.wentOn, State.tg_issued, h]
  exact ⟨rfl, rfl⟩

theorem State.heldAt_takes (s : State) (x : Ex) (size : Nat) (r : RunSt) : (s.heldAt x size r).takes = (s.tg x.cl).takes :=
  (Tg.setRun_takes _ _ _ _).trans (s.wentOn_records x size).1

theorem ctTake_records (hin : s.inHand th (srcRegs ctr ++ srcRegs n) (fun _ _ _ => none) x) (htog : s.together x)
    (hpois : s.regPoison x (x.lanes.headD 0) (srcRegs ctr ++ srcRegs n) = false) (hargs : s.tokenArgs x ctr n = some (c, k)) :
    Runs (.ctTake th ctr n) s [.clusters] fun t => Went s t x x.lanes 1
      ∧ (t.tg x.cl).takes = (s.tg x.cl).takes ++ [⟨x.sched, x.key, x.lanes, c, k, s.time.core⟩]
      ∧ (∀ m, t.tok x.cl m = s.tok x.cl m)
      ∧ ∀ l ∈ x.lanes, (t.thread x l).run = .atTake ∧ (t.thread x l).pc = x.pc + th.size := by
  obtain ⟨hkeeps, hwent, hthread⟩ := State.heldAt_facts hin htog th.size .atTake
    (tg := { s.heldAt x th.size .atTake with
      takes := (s.heldAt x th.size .atTake).takes ++ [⟨x.sched, x.key, x.lanes, c, k, s.time.core⟩] }) rfl rfl rfl
  refine ⟨_, congrArg Host.Outcome.next (State.tokenInstr_eq hin hpois hargs _), hkeeps.frame, hwent, ?_, fun m => ?_,
    fun l hl => ?_⟩
  · rw [State.tg_setTg_self, ← s.heldAt_takes x th.size .atTake]
    rfl
  · exact (State.tok_setTg _ _ _ _ _).trans (s.tok_wentOn x _ _ _)
  · have hl' := hthread l hl
    exact ⟨congrArg Thread.run hl', congrArg Thread.pc hl'⟩

theorem State.openWrites_of {s t : State} (hreqs : t.reqs = s.reqs) (hregs : t.regs = s.regs) (x : Ex) :
    t.openWrites x = s.openWrites x := by
  have hkind := State.addrKind_of_reg (State.reg_of_regs hregs 0x2910 1) (State.reg_of_regs hregs 0x2A20 1)
  simp only [State.openWrites, hreqs, hkind]

theorem ctPost_records (hin : s.inHand th (srcRegs ctr ++ srcRegs n) (fun _ _ _ => none) x) (htog : s.together x)
    (hpois : s.regPoison x (x.lanes.headD 0) (srcRegs ctr ++ srcRegs n) = false) (hargs : s.tokenArgs x ctr n = some (c, k)) :
    Runs (.ctPost th ctr n) s [.clusters] fun t => Went s t x x.lanes 1
      ∧ (t.tg x.cl).posts = (s.tg x.cl).posts ++ [⟨x.sched, c, k, s.openWrites x⟩]
      ∧ (∀ m, t.tok x.cl m = s.tok x.cl m) ∧ ∀ l ∈ x.lanes, At t x l (x.pc + th.size) := by
  have hwrites := State.openWrites_of (s := s) (t := s.wentOn x th.size) rfl rfl x
  refine ⟨_, congrArg Host.Outcome.next (State.tokenInstr_eq hin hpois hargs _),
    (State.setTg_keeps (List.Subset.refl _) (s.wentOn_keeps x th.size) _ _).frame,
    (s.wentOn_went x th.size).setTg rfl rfl fun _ _ _ => rfl, ?_, fun m => ?_, fun l hl => ?_⟩
  · rw [State.tg_setTg_self, hwrites, (s.wentOn_records x th.size).2]
  · exact (State.tok_setTg _ _ _ _ _).trans (s.tok_wentOn x _ _ _)
  · have hthread : ((s.wentOn x th.size).setTg x.cl { (s.wentOn x th.size).tg x.cl with
        posts := ((s.wentOn x th.size).tg x.cl).posts ++ [⟨x.sched, c, k, (s.wentOn x th.size).openWrites x⟩] }).thread x l
        = (s.wentOn x th.size).thread x l := by
      rw [State.thread, State.tg_setTg_self, State.thread]
      rfl
    rw [At, hthread, State.wentOn_thread hin htog th.size hl]
    exact ⟨rfl, (htog l hl).1⟩

end

/-! ### Faults -/

theorem State.withSeq_keeps (s : State) (q : Seq) : State.Keeps [.seq] s { s with seq := q } := by
  apply State.Keeps.ofFields
  exact State.Keeps.setSeq (List.mem_singleton_self _) (State.Keeps.refl _ s).toFields

/-- A fault of a cluster that runs a job is noted; only poisoned data is counted. -/
theorem State.tgFault_noted {s : State} {cl : Nat} {j : Job} (hjob : s.jobOn cl = some j) {cause : Nat} (hcause : cause ≠ 0x25)
    (sched slot lane pc : Nat) (addr : Word64) :
    s.tgFault cl sched slot lane cause pc addr =
      { s with seq := { s.seq with faults := s.seq.faults ++ [⟨cl, sched, slot, lane, cause, pc, addr, j.id⟩] } } := by
  rw [State.tgFault, hjob]
  dsimp only
  rw [if_neg hcause]

theorem barrierTimeout_faults {s : State} {cl : Cl} {blk : Fin 16} {b : Block} {w k l pc : Nat} {j : Job}
    (hjob : s.jobOn cl = some j) (hblock : Tbl.find (s.tg cl).blocks blk.val = some b) (hwait : b.barWait = some w)
    (hlate : 2 ^ s.fld 0x2620 4 4 0 < w) (hholder : (s.tg cl).barHolder b = some (k, l, pc)) :
    Runs (.barrierTimeout cl blk) s [.seq] fun t => Noted s t ⟨cl, k / 12 % 4, k % 12, l, 0x24, pc, 0, j.id⟩ := by
  have hexpired : b.barWait.any s.expired = true := by
    rw [hwait]
    exact decide_eq_true hlate
  have hrun : s.barTimeout cl blk.val = { s with seq := { s.seq with
      faults := s.seq.faults ++ [⟨cl, k / 12 % 4, k % 12, l, 0x24, pc, 0, j.id⟩] } } := by
    rw [State.barTimeout, hblock]
    dsimp only
    rw [if_pos hexpired, hholder]
    exact State.tgFault_noted hjob (by decide) _ _ _ _ _
  refine ⟨_, congrArg Host.Outcome.next hrun, (s.withSeq_keeps _).frame, rfl, (Entries.refl _ s).of_regs rfl,
     fun h => absurd (show 0x24 = 0x25 from h) (by decide)⟩

/-! ### The barrier (R254) -/

/-- A thread that its barrier has released. -/
def Thread.released (y : Thread) : Thread :=
  match y.run with
  | .atBar n => { y with run := .running, pc := y.pc + n }
  | _ => y

theorem Thread.released_atBar {y : Thread} {n : Nat} (h : y.run = .atBar n) :
    y.released = { y with run := .running, pc := y.pc + n } := by rw [Thread.released, h]

section
variable {t : Tg} {b : Block} {blk : Nat}

theorem Tg.mem_blockThreads {y : Thread} : y ∈ t.blockThreads b ↔ ∃ k ∈ b.groups, ∃ l, t.thread? k l = some y := by
  simp only [Tg.blockThreads, List.mem_flatten, List.mem_map]
  constructor
  · rintro ⟨_, ⟨k, hk, rfl⟩, hy⟩
    cases hg : Tbl.find t.groups k with
    | none => simp [hg] at hy
    | some g =>
      rw [hg] at hy
      obtain ⟨l, hl⟩ := List.mem_iff_getElem?.1 hy
      exact ⟨k, hk, l, by rw [Tg.thread?, hg]; exact hl⟩
  · rintro ⟨k, hk, l, hl⟩
    obtain ⟨g, hg, hl⟩ := Option.bind_eq_some_iff.1 hl
    exact ⟨_, ⟨k, hk, rfl⟩, by rw [hg]; exact List.mem_of_getElem? hl⟩

/-- A thread is still to come to the barrier. -/
theorem Tg.barrier_waits (hb : Tbl.find t.blocks blk = some b) {k l : Nat} {y : Thread} (hk : k ∈ b.groups)
    (hy : t.thread? k l = some y) (hexit : y.run ≠ .exited) (hbar : y.run.barred = false) : t.barrier blk = t := by
  have hall : ((t.blockThreads b).all fun x => x.run.barred || x.run == .exited) = false :=
    List.all_eq_false.2 ⟨y, Tg.mem_blockThreads.2 ⟨k, hk, l, hy⟩, by simp [hbar, hexit]⟩
  rw [Tg.barrier, hb]
  simp only [hall, Bool.and_false, Bool.false_eq_true, if_false]

/-- The threads of some groups are released. -/
def Tg.release (t : Tg) (ks : List Nat) : Tbl Group :=
  t.groups.map fun g => if g.1 ∈ ks then (g.1, { g.2 with threads := g.2.threads.map Thread.released }) else g

/-- The last thread has come. -/
theorem Tg.barrier_releases (hb : Tbl.find t.blocks blk = some b) {k l : Nat} {y : Thread} (hk : k ∈ b.groups)
    (hy : t.thread? k l = some y) (hbar : y.run.barred = true)
    (hall : ∀ k ∈ b.groups, ∀ l y, t.thread? k l = some y → y.run = .exited ∨ y.run.barred = true) :
    t.barrier blk = { t with blocks := Tbl.set t.blocks blk { b with barWait := none }, groups := t.release b.groups } := by
  have hany : ((t.blockThreads b).any fun x => x.run.barred) = true :=
    List.any_eq_true.2 ⟨y, Tg.mem_blockThreads.2 ⟨k, hk, l, hy⟩, hbar⟩
  have hall' : ((t.blockThreads b).all fun x => x.run.barred || x.run == .exited) = true := by
    refine List.all_eq_true.2 fun z hz => ?_
    obtain ⟨k, hk, l, hz⟩ := Tg.mem_blockThreads.1 hz
    rcases hall k hk l z hz with h | h <;> simp [h]
  rw [Tg.barrier, hb]
  simp only [hany, hall', Bool.and_self, if_true]
  rfl

theorem Tg.find_release (t : Tg) (ks : List Nat) (k : Nat) : Tbl.find (t.release ks) k = (Tbl.find t.groups k).map fun g =>
    if k ∈ ks then { g with threads := g.threads.map Thread.released } else g := by
  rw [Tg.release]
  induction t.groups with
  | nil => rfl
  | cons e gs ih =>
    rw [List.map_cons]
    by_cases hk : e.1 = k
    · subst hk
      by_cases he : e.1 ∈ ks <;> simp [Tbl.find, he]
    · by_cases he : e.1 ∈ ks
      · simpa only [he, if_true, Tbl.find, if_neg hk] using ih
      · simpa only [he, if_false, Tbl.find, if_neg hk] using ih

theorem Tg.thread?_released {t' : Tg} {ks : List Nat} (h : t'.groups = t.release ks) {k : Nat} (hk : k ∈ ks) (l : Nat) :
    t'.thread? k l = (t.thread? k l).map Thread.released := by
  rw [Tg.thread?, h, Tg.find_release, Tg.thread?]
  cases Tbl.find t.groups k with
  | none => rfl
  | some g => simp [hk]

end

/-- The TG with an issue set at its barrier. -/
def State.atBarrier (s : State) (x : Ex) (size : Nat) : Tg := ((s.issued x 1).tg x.cl).setRun x.key x.lanes (.atBar size)

/-- A block's barrier counts its wait from the first thread that comes. -/
def Block.counting (b : Block) : Block := { b with barWait := b.barWait.or (some 0) }

/-- The TG with an issue set at its barrier, which counts its wait. -/
def State.barCounting (s : State) (x : Ex) (size : Nat) (b : Block) : Tg :=
  { s.atBarrier x size with
    blocks := Tbl.set (s.atBarrier x size).blocks ((s.tg x.cl).blockOf x.key) b.counting }

section
variable {s : State} {th : Th} {x : Ex} {b : Block} {size : Nat}

theorem State.atBarrier_touched (s : State) (x : Ex) (size : Nat) :
    Tg.Touched x.key x.lanes ((s.issued x 1).tg x.cl) (s.atBarrier x size) := .setRun _ _ _ _

theorem State.atBarrier_blocks (s : State) (x : Ex) (size : Nat) : (s.atBarrier x size).blocks = (s.tg x.cl).blocks := by
  rw [(s.atBarrier_touched x size).rest, State.tg_issued]

theorem Tg.blockOf_eq (t : Tg) (key : Nat) : t.blockOf key = ((Tbl.find t.groups key).map (·.blk)).getD 0 := by
  rw [Tg.blockOf]
  cases Tbl.find t.groups key <;> rfl

theorem State.atBarrier_blockOf (s : State) (x : Ex) (size : Nat) :
    (s.atBarrier x size).blockOf x.key = (s.tg x.cl).blockOf x.key := by
  have hids := congrArg (Option.map Prod.fst) ((s.atBarrier_touched x size).ids x.key)
  rw [Option.map_map, Option.map_map] at hids
  rw [Tg.blockOf_eq, Tg.blockOf_eq]
  refine congrArg (Option.getD · 0) (hids.trans ?_)
  rw [State.tg_issued]
  rfl

theorem State.issued_thread? (s : State) (x : Ex) (n k l : Nat) :
    ((s.issued x n).tg x.cl).thread? k l = (s.tg x.cl).thread? k l := by
  rw [State.tg_issued]
  rfl

/-- The threads that are not in the issue set are as they were. -/
theorem State.barCounting_thread?_ne {k l : Nat} (h : k = x.key → l ∉ x.lanes) :
    (s.barCounting x size b).thread? k l = (s.tg x.cl).thread? k l :=
  ((s.atBarrier_touched x size).threads k l h).trans (s.issued_thread? x 1 k l)

theorem State.barCounting_thread?_self (hnd : x.lanes.Nodup) {l : Nat} (hl : l ∈ x.lanes) :
    (s.barCounting x size b).thread? x.key l = ((s.tg x.cl).thread? x.key l).map fun y => { y with run := .atBar size } := by
  rw [← s.issued_thread? x 1]
  exact Tg.thread?_setRun_of_nodup hnd hl _

theorem State.barCounting_block : Tbl.find (s.barCounting x size b).blocks ((s.tg x.cl).blockOf x.key) = some b.counting :=
  Tbl.find_set_self _ _ _

/-- A barrier that no wait has expired at takes the issue set. -/
theorem State.barBlock_eq {regs : List Nat} {bad : State → Ex → Nat → Option (Nat × Word64)} (hin : s.inHand th regs bad x)
    (hblock : Tbl.find (s.tg x.cl).blocks ((s.tg x.cl).blockOf x.key) = some b) (hwait : b.barWait.any s.expired = false) :
    s.barBlock th = (s.issued x 1).setTg x.cl ((s.barCounting x th.size b).barrier ((s.tg x.cl).blockOf x.key)) := by
  have hblockOf : s.blockOf x = b := by rw [State.blockOf, hblock]
  have hcount : s.barBlock th = (s.issued x 1).setTg x.cl
      (Tg.barrier (match Tbl.find (s.atBarrier x th.size).blocks ((s.atBarrier x th.size).blockOf x.key) with
        | some b => { s.atBarrier x th.size with
            blocks := Tbl.set (s.atBarrier x th.size).blocks ((s.atBarrier x th.size).blockOf x.key) b.counting }
        | none => s.atBarrier x th.size) ((s.atBarrier x th.size).blockOf x.key)) := by
    rw [State.barBlock, hin.1]
    dsimp only
    rw [hblockOf, hwait]
    rfl
  rw [hcount, s.atBarrier_blockOf, s.atBarrier_blocks, hblock, State.barCounting, s.atBarrier_blocks]

theorem State.issued_thread (s : State) (x : Ex) (n l : Nat) : (s.issued x n).thread x l = s.thread x l :=
  (State.issued_laneDone s x n l).thread

end

section
variable {s : State} {th : Th} {x : Ex} {b : Block} (hin : s.inHand th [] (fun _ _ _ => none) x) (htog : s.together x)
  (hblock : Tbl.find (s.tg x.cl).blocks ((s.tg x.cl).blockOf x.key) = some b) (hwait : b.barWait.any s.expired = false)
include hin htog hblock hwait

/-- A thread is still to come: the issue set waits. -/
theorem barBlock_waits {k l : Nat} {y : Thread} (hk : k ∈ b.groups) (hout : k = x.key → l ∉ x.lanes)
    (hy : (s.tg x.cl).thread? k l = some y) (hexit : y.run ≠ .exited) (hbar : y.run.barred = false) :
    Runs (.barBlock th) s [.clusters] fun t => Went s t x x.lanes 1
      ∧ ∀ l ∈ x.lanes, (t.thread x l).run = .atBar th.size ∧ (t.thread x l).pc = x.pc := by
  have hrun : s.barBlock th = (s.issued x 1).setTg x.cl (s.barCounting x th.size b) := by
    rw [State.barBlock_eq hin hblock hwait, Tg.barrier_waits State.barCounting_block hk
      ((State.barCounting_thread?_ne hout).trans hy) hexit hbar]
  refine ⟨_, congrArg Host.Outcome.next hrun,
    (State.setTg_keeps (List.Subset.refl _) (State.issued_keeps (List.Subset.refl _) (State.Keeps.refl _ s) x 1) _ _).frame,
    ((OnLanes.refl x x.lanes s).went 1).setTg ?_ ?_ fun k l hk => ?_, fun l hl => ?_⟩
  · exact (s.atBarrier_touched x th.size).issue
  · exact (s.atBarrier_touched x th.size).freeAt
  · exact (s.atBarrier_touched x th.size).threads k l hk
  · have hlane : (s.issued x 1).hasLane x l := by
      rw [State.hasLane, s.issued_thread?]
      exact State.inHand_hasLane hin hl
    rw [State.thread_setRun hin.2.2.1 hl hlane (r := .atBar th.size) (tg := s.barCounting x th.size b) rfl, s.issued_thread]
    exact ⟨rfl, (htog l hl).2⟩

/-- The last has come: all go on. -/
theorem barBlock_releases (hmine : x.key ∈ b.groups)
    (hall : ∀ k ∈ b.groups, ∀ l y, (s.tg x.cl).thread? k l = some y → (k = x.key ∧ l ∈ x.lanes) ∨ y.run = .exited
      ∨ y.run.barred = true) :
    Runs (.barBlock th) s [.clusters] fun t => OtherClusters x.cl s t
      ∧ (∀ l ∈ x.lanes, At t x l (x.pc + th.size))
      ∧ (∀ k ∈ b.groups, ∀ l n y, (k = x.key → l ∉ x.lanes) → (s.tg x.cl).thread? k l = some y → y.run = .atBar n →
          ∃ y', (t.tg x.cl).thread? k l = some y' ∧ y'.run = .running ∧ y'.pc = y.pc + n)
      ∧ ∃ b', Tbl.find (t.tg x.cl).blocks ((s.tg x.cl).blockOf x.key) = some b' ∧ b'.barWait = none := by
  have hmet (l : Nat) (hl : l ∈ x.lanes) : ∃ y, (s.tg x.cl).thread? x.key l = some y ∧ s.thread x l = y
      ∧ (s.barCounting x th.size b).thread? x.key l = some { y with run := .atBar th.size } := by
    obtain ⟨y, hy⟩ := Option.isSome_iff_exists.1 (State.inHand_hasLane hin hl)
    exact ⟨y, hy, by rw [State.thread, hy]; rfl, by rw [State.barCounting_thread?_self hin.2.2.1 hl, hy]; rfl⟩
  obtain ⟨m, hm⟩ := List.exists_mem_of_ne_nil _ hin.2.2.2.1
  obtain ⟨y₀, -, -, hy₀⟩ := hmet m hm
  have hready : ∀ k ∈ b.groups, ∀ l y, (s.barCounting x th.size b).thread? k l = some y →
      y.run = .exited ∨ y.run.barred = true := by
    intro k hk l y hy
    by_cases hset : k = x.key ∧ l ∈ x.lanes
    · obtain ⟨rfl, hl⟩ := hset
      obtain ⟨z, -, -, hz⟩ := hmet l hl
      obtain rfl := Option.some.inj (hz.symm.trans hy)
      exact .inr rfl
    · rw [State.barCounting_thread?_ne (not_and.1 hset)] at hy
      exact (hall k hk l y hy).resolve_left hset
  have hrun : s.barBlock th = (s.issued x 1).setTg x.cl { s.barCounting x th.size b with
      blocks := Tbl.set (s.barCounting x th.size b).blocks ((s.tg x.cl).blockOf x.key) { b.counting with barWait := none }
      groups := (s.barCounting x th.size b).release b.groups } := by
    rw [State.barBlock_eq hin hblock hwait]
    exact congrArg _ (Tg.barrier_releases (b := b.counting) State.barCounting_block hmine hy₀ rfl hready)
  have hthread (k : Nat) (hk : k ∈ b.groups) (l : Nat) := Tg.thread?_released (t := s.barCounting x th.size b)
    (t' := { s.barCounting x th.size b with
      blocks := Tbl.set (s.barCounting x th.size b).blocks ((s.tg x.cl).blockOf x.key) { b.counting with barWait := none }
      groups := (s.barCounting x th.size b).release b.groups }) rfl hk l
  refine ⟨_, congrArg Host.Outcome.next hrun,
    (State.setTg_keeps (List.Subset.refl _) (State.issued_keeps (List.Subset.refl _) (State.Keeps.refl _ s) x 1) _ _).frame,
    fun k hk => (State.cluster_setCluster_ne _ _ hk).trans (State.cluster_setCluster_ne s _ hk), fun l hl => ?_,
    fun k hk l n y hout hy hn => ?_, { b.counting with barWait := none }, ?_, rfl⟩
  · obtain ⟨y, -, hy, hz⟩ := hmet l hl
    rw [At, State.thread, State.tg_setTg_self, hthread _ hmine, hz, ← (htog l hl).2, hy]
    exact ⟨rfl, rfl⟩
  · rw [State.tg_setTg_self, hthread k hk, State.barCounting_thread?_ne hout, hy]
    exact ⟨_, rfl, by rw [Thread.released_atBar hn], by rw [Thread.released_atBar hn]⟩
  · rw [State.tg_setTg_self]
    exact Tbl.find_set_self _ _ _

end

/-- Settles O36: what an issue set waits for is its run state, which the last arrival or the accepted writes change. -/
theorem fencesBarriersAndTokensHold : Obligations.FencesBarriersAndTokensHold := by
  refine ⟨fun s th x hin htog => ⟨State.fence_holds hin htog .block rfl, State.fence_holds hin htog .device rfl,
    State.fence_holds hin htog .fabric rfl⟩, fun s cl sched slot => ⟨fun h => ?_, fenceComplete_releases⟩,
    fun s th x b hin htog hblock hmine hwait => ⟨?_, barBlock_releases hin htog hblock hwait hmine⟩,
    fun _ _ _ _ _ _ _ _ _ => barrierTimeout_faults,
    fun _ _ _ _ _ _ _ hin htog hpois hargs => ⟨ctTake_records hin htog hpois hargs, ctPost_records hin htog hpois hargs⟩,
    fun _ _ _ _ => rfl⟩
  · exact congrArg Host.Outcome.next (fenceComplete_waits (State.fenced_eq_none h))
  · rintro ⟨k, l, y, hk, hout, hy, hexit, hbar⟩
    exact barBlock_waits hin htog hblock hwait hk hout hy hexit hbar

end Sys2Proof.Machine
end

section
/-! SUPPORT. Loaded bytes: what they leave in a thread's registers and in the L1 (R213, R248, R249). -/

namespace Sys2Proof.Machine

/-! ### Registers -/

/-- Writes of a run of registers, each with a value of its own. -/
theorem Tbl.get_foldl_put (v : Nat → Word32) (rs : List Nat) (g : Tbl Word32) (q : Nat) :
    Tbl.get 0 (rs.foldl (fun g q => Tbl.put 0 g q (v q)) g) q = if q ∈ rs then v q else Tbl.get 0 g q := by
  induction rs generalizing g with
  | nil => simp
  | cons r rs ih =>
    rw [List.foldl_cons, ih]
    by_cases hmem : q ∈ rs
    · simp [hmem]
    · by_cases hq : q = r
      · subst hq
        simp [hmem]
      · rw [Tbl.get_put_ne _ _ _ _ hq]
        simp [hmem, hq]

/-- The word of loaded bytes that a register takes, zero-extended. -/
def loadedWord (bs : List Byte) (d q : Nat) : Word32 := BitVec.ofNat 32 (leNat ((bs.drop (4 * (q - d))).take 4))

section
variable (y : Thread) (d n : Nat) (bs : List Byte) (ready : Nat)

theorem Thread.load_regs (q : Nat) :
    Tbl.get 0 (y.load d n bs ready).regs q = if q ∈ regsFor d n then loadedWord bs d q else Tbl.get 0 y.regs q :=
  Tbl.get_foldl_put (loadedWord bs d) (regsFor d n) y.regs q

theorem Thread.load_sb {q : Nat} (hq : q ∈ regsFor d n) : (q, some ready) ∈ (y.load d n bs ready).sb :=
  List.mem_append_left _ (List.mem_map.2 ⟨q, hq, rfl⟩)

end

/-- What a load brings one lane's registers. -/
theorem Wrote.load {s : State} {x : Ex} {l : Nat} (h : s.hasLane x l) (d n : Nat) (bs : List Byte) (ready : Nat) :
    Wrote s (s.setThread x l fun y => y.load d n bs ready) x l
      ((regsFor d n).map fun q => (q, loadedWord bs d q)) := by
  have hthread := State.thread_setThread h fun y => y.load d n bs ready
  have hregs (q : Nat) : (s.setThread x l fun y => y.load d n bs ready).rd x l q =
      if q ∈ regsFor d n then loadedWord bs d q else s.rd x l q := by
    rw [State.rd, hthread, Thread.load_regs, State.rd]
  have hnames : ((regsFor d n).map fun q => (q, loadedWord bs d q)).map (·.1) = regsFor d n := by
    rw [List.map_map]
    exact List.map_id _
  rw [Wrote, hnames, hthread]
  refine ⟨fun p hp => ?_, fun q hq => ?_, fun w hw => (mem_poisonLeft.1 hw).1, fun w hw hpart => mem_poisonLeft.2 ⟨hw, hpart⟩⟩
  · obtain ⟨q, hq, rfl⟩ := List.mem_map.1 hp
    exact (hregs q).trans (if_pos hq)
  · exact (hregs q).trans (if_neg hq)

/-! ### The L1 (R249) -/

section
variable (t : Tg) (line sec : Nat) (bs : List Byte)

/-- A fetched sector stands in the L1. -/
theorem Tg.l1Fill_holds (hsec : sec < 4) :
    ∃ e ∈ (t.l1Fill line sec bs).l1, e.line = line ∧ e.valid.getLsbD sec = true := by
  refine ⟨_, List.mem_take_iff_getElem.2 ⟨0, by simp [l1Lines], rfl⟩, ?_, ?_⟩
  · show ((t.l1.find? fun e => e.line == line).getD ⟨line, 0, 0⟩).line = line
    cases hfind : t.l1.find? fun e => e.line == line with
    | none => rfl
    | some e => exact eq_of_beq (List.find?_some (p := fun e : L1Line => e.line == line) hfind)
  · exact getLsbD_or_one_shiftLeft _ hsec

end

/-! ### The return of a load (R213, R249) -/

/-- What is noted of a fault, and what is counted of it. -/
theorem State.tgFault_notes {s : State} {cl : Nat} {j : Job} (hjob : s.jobOn cl = some j) (sched slot lane cause pc : Nat)
    (addr : Word64) : Noted s (s.tgFault cl sched slot lane cause pc addr) ⟨cl, sched, slot, lane, cause, pc, addr, j.id⟩ := by
  by_cases hcause : cause = 0x25
  · subst hcause
    have hrun : s.tgFault cl sched slot lane 0x25 pc addr = { s.count (intCounter (leafDie cl)) 7 1 with
        seq := { s.seq with faults := s.seq.faults ++ [⟨cl, sched, slot, lane, 0x25, pc, addr, j.id⟩] } } := by
      rw [State.tgFault, hjob]
      rfl
    rw [hrun]
    exact ⟨rfl, (Entries.setReg s _ 7 _).of_regs rfl, fun _ => State.reg_setReg_self s _ _ _⟩
  · rw [State.tgFault_noted hjob hcause]
    refine ⟨rfl, ?_, fun h => absurd h hcause⟩
    rw [if_neg (show ¬ (⟨cl, sched, slot, lane, cause, pc, addr, j.id⟩ : TgNote).cause = 0x25 from hcause)]
    exact (Entries.refl _ s).of_regs rfl

section
variable {s : State} {id : Nat} {r : Req} {cl : Cl} {sched : Sched} {slot lane d pc off n : Nat} {keep : Bool} {data : List Byte}
  (hreq : s.req? id = some r) (hpurpose : r.purpose = .load cl sched slot lane d keep pc off n) (hroute : r.route = [])
include hreq hpurpose

theorem State.loadReturn_eq (hfin : r.finished = true) :
    s.loadReturn id = (s.dropReq id).loadDone r cl sched slot lane d keep pc off n := by
  simp only [State.loadReturn, hreq, hfin, hpurpose, Bool.not_true, Bool.false_eq_true, if_false]

theorem loadReturn_refused {j : Job} (hjob : s.jobOn cl = some j) (hstage : r.stage = .refused) :
    Runs (.loadReturn id) s [.reqs, .seq] fun t => t.reqs = s.reqs.filter (fun q => q.id ≠ id)
      ∧ Noted s t ⟨cl, sched, slot, lane, 0x20, pc, r.addr + BitVec.ofNat 64 off, j.id⟩ := by
  have hfin : r.finished = true := by rw [Req.finished, hstage]
  have hrun : s.loadReturn id = (s.dropReq id).tgFault cl sched slot lane 0x20 pc (r.addr + BitVec.ofNat 64 off) := by
    rw [State.loadReturn_eq hreq hpurpose hfin, State.loadDone, hstage]
  have hkeeps : State.Keeps [.reqs] s (s.dropReq id) := State.dropReq_keeps (by decide) (State.Keeps.refl _ s) id
  have hfault : State.Keeps [.seq] (s.dropReq id)
      ((s.dropReq id).tgFault cl sched slot lane 0x20 pc (r.addr + BitVec.ofNat 64 off)) := by
    rw [State.tgFault_noted (s := s.dropReq id) hjob (by decide)]
    exact State.withSeq_keeps _ _
  exact ⟨_, congrArg Host.Outcome.next hrun,
    ((State.Keeps.wider hkeeps (by decide)).trans (State.Keeps.wider hfault (by decide))).frame,
    (hfault.parts .reqs (by decide)).1, State.tgFault_notes (s := s.dropReq id) hjob _ _ _ _ _ _⟩

include hroute

theorem loadReturn_writes (hstage : r.stage = .done data false) {y : Thread}
    (hthread : (s.tg cl).thread? (slotKey sched slot) lane = some y) :
    Runs (.loadReturn id) s [.clusters, .reqs] fun t => OtherClusters cl s t ∧ t.reqs = s.reqs.filter (fun q => q.id ≠ id)
      ∧ (∃ y', (t.tg cl).thread? (slotKey sched slot) lane = some y' ∧ y'.pc = y.pc ∧ y'.run = y.run
          ∧ (∀ q ∈ regsFor d n, Tbl.get 0 y'.regs q =
              BitVec.ofNat 32 (leNat ((((data.drop off).take n).drop (4 * (q - d))).take 4))
              ∧ (q, some (s.time.core + 16)) ∈ y'.sb)
          ∧ ∀ q, q ∉ regsFor d n → Tbl.get 0 y'.regs q = Tbl.get 0 y.regs q)
      ∧ (keep = false → (t.tg cl).l1 = (s.tg cl).l1)
      ∧ (keep = true → ∃ e ∈ (t.tg cl).l1, e.line = s.l1Line r.addr
          ∧ e.valid.getLsbD (r.addr.toNat % 128 / 32) = true) := by
  have hfin : r.finished = true := by rw [Req.finished, hstage, hroute]; rfl
  generalize hloaded : (s.tg cl).updThread (slotKey sched slot) lane
    (fun y => y.load d n ((data.drop off).take n) (s.time.core + 16)) = loaded
  have hrun : s.loadReturn id = (s.dropReq id).setTg cl
      (if keep then loaded.l1Fill (s.l1Line r.addr) (r.addr.toNat % 128 / 32) data else loaded) := by
    rw [State.loadReturn_eq hreq hpurpose hfin, State.loadDone, hstage, ← hloaded]
    rfl
  have hmine : loaded.thread? (slotKey sched slot) lane = some (y.load d n ((data.drop off).take n) (s.time.core + 16)) := by
    rw [← hloaded, Tg.thread?_updThread_self, hthread]
    rfl
  have hregs (q : Nat) := y.load_regs d n ((data.drop off).take n) (s.time.core + 16) q
  have hmine' : (((s.dropReq id).setTg cl (if keep then loaded.l1Fill (s.l1Line r.addr) (r.addr.toNat % 128 / 32) data
      else loaded)).tg cl).thread? (slotKey sched slot) lane
      = some (y.load d n ((data.drop off).take n) (s.time.core + 16)) := by
    rw [State.tg_setTg_self]
    cases keep <;> exact hmine
  refine ⟨_, congrArg Host.Outcome.next hrun, (State.setTg_keeps (by decide) (State.dropReq_keeps (by decide)
    (State.Keeps.refl _ s) id) _ _).frame, fun k hk => State.cluster_setCluster_ne (s.dropReq id) _ hk, rfl,
    ⟨_, hmine', rfl, rfl, fun q hq => ⟨(hregs q).trans (if_pos hq), y.load_sb _ _ _ _ hq⟩,
      fun q hq => (hregs q).trans (if_neg hq)⟩, ?_, ?_⟩
  · intro hkeep
    rw [State.tg_setTg_self, hkeep, ← hloaded]
    rfl
  · intro hkeep
    rw [State.tg_setTg_self, if_pos hkeep]
    exact loaded.l1Fill_holds _ _ _ (by omega)

theorem loadReturn_poisoned {j : Job} (hjob : s.jobOn cl = some j) (hstage : r.stage = .done data true) :
    Runs (.loadReturn id) s [.regs, .reqs, .seq] fun t => t.reqs = s.reqs.filter (fun q => q.id ≠ id)
      ∧ Noted s t ⟨cl, sched, slot, lane, 0x25, pc, r.addr + BitVec.ofNat 64 off, j.id⟩ := by
  have hfin : r.finished = true := by rw [Req.finished, hstage, hroute]; rfl
  have hrun : s.loadReturn id = (s.dropReq id).tgFault cl sched slot lane 0x25 pc (r.addr + BitVec.ofNat 64 off) := by
    rw [State.loadReturn_eq hreq hpurpose hfin, State.loadDone, hstage]
    rfl
  have hkeeps : State.Keeps [.reqs] s (s.dropReq id) := State.dropReq_keeps (by decide) (State.Keeps.refl _ s) id
  have hfault : State.Keeps [.regs, .seq] (s.dropReq id)
      ((s.dropReq id).tgFault cl sched slot lane 0x25 pc (r.addr + BitVec.ofNat 64 off)) :=
    State.tgFault_keeps (by decide) (State.Keeps.refl _ _) _ _ _ _ _ _ _
  exact ⟨_, congrArg Host.Outcome.next hrun,
    ((State.Keeps.wider hkeeps (by decide)).trans (State.Keeps.wider hfault (by decide))).frame,
    (hfault.parts .reqs (by decide)).1, State.tgFault_notes (s := s.dropReq id) hjob _ _ _ _ _ _⟩

end

end Sys2Proof.Machine
end

section
/-! SUPPORT. Loads that ask memory (R171, R248, R249): the requests of an issue set, and the registers that wait for them. -/

namespace Sys2Proof.Machine

/-! ### A request to an address that is mapped -/

/-- The points a request passes on its way out of its master. -/
def State.outWay (s : State) (r : Req) : List ArbPoint :=
  match s.addrKind r.addr (max 1 r.len) with
  | .hbm => s.routeTo r.master r.kind (addrLocal r.addr)
  | .host | .remote => s.routeOut r.master (addrLocal r.addr)
  | .unmapped => if s.romRead r then s.routeOut r.master (addrLocal r.addr) else []

/-- The request as it enters the network. -/
def State.sending (s : State) (r : Req) : Req := { r with id := s.nextReq, route := s.outWay r, stage := .waiting }

theorem State.routeOut_ne_nil (s : State) {m : Master} (pa : Nat) (h : m.cluster?.isSome = true) : s.routeOut m pa ≠ [] := by
  obtain ⟨c, hc⟩ := Option.isSome_iff_exists.1 h
  rw [State.routeOut, hc]
  exact List.cons_ne_nil _ _

theorem State.outWay_ne_nil (s : State) {r : Req} (hmaster : r.master.cluster?.isSome = true)
    (hmapped : s.addrKind r.addr (max 1 r.len) ≠ .unmapped) : s.outWay r ≠ [] := by
  unfold State.outWay
  split
  · exact s.routeTo_ne_nil _ _ _
  · exact s.routeOut_ne_nil _ hmaster
  · exact s.routeOut_ne_nil _ hmaster
  · exact absurd ‹_› hmapped

/-- A request stands last among the requests. -/
def State.sent (s : State) (r : Req) : State := { s with reqs := s.reqs ++ [s.sending r], nextReq := s.nextReq + 1 }

theorem State.sent_keeps {C : List Part} (hc : Part.reqs ∈ C) {s₀ s : State} (h : State.Keeps C s₀ s) (r : Req) :
    State.Keeps C s₀ (s.sent r) := by
  apply State.Keeps.ofFields
  exact State.Keeps.setNextReq hc (State.Keeps.setReqs hc h.toFields)

theorem State.request_of_mapped {s : State} {r : Req} (hmaster : r.master.cluster?.isSome = true)
    (hmapped : s.addrKind r.addr (max 1 r.len) ≠ .unmapped) :
    s.request r = s.sent r :=
  if_neg (s.outWay_ne_nil hmaster hmapped)

/-! ### What an issue set has asked for -/

/-- What a master asks a memory for. -/
def Req.asks (q : Req) : ReqKind × Word64 × Nat × Bool × Purpose := (q.kind, q.addr, q.len, q.marked, q.purpose)

/-- The request's sector enters the L1 when it comes. -/
def Req.fills (q : Req) : Bool :=
  match q.purpose with
  | .load _ _ _ _ _ true _ _ _ => true
  | _ => false

/-- Requests may lose their fill of the L1, and nothing else. -/
structure Unfilling (g : Req → Req) : Prop where
  rest : ∀ q, { g q with purpose := .head 0 } = { q with purpose := .head 0 }
  spares : ∀ q, q.fills = false → g q = q

theorem Unfilling.id : Unfilling id := ⟨fun _ => rfl, fun _ _ => rfl⟩

theorem Unfilling.comp {g g' : Req → Req} (h : Unfilling g) (h' : Unfilling g') : Unfilling (g' ∘ g) :=
  ⟨fun q => (h'.rest (g q)).trans (h.rest q), fun q hq => (congrArg g' (h.spares q hq)).trans (h'.spares q hq)⟩

/-- From s to t lanes have asked memory, and their registers wait; lines have left the L1, and their fills enter it no more. -/
structure LanesAsked (x : Ex) (rs : List Nat) (keep : Bool) (lines : List Nat)
    (asks : List (ReqKind × Word64 × Nat × Bool × Purpose)) (ls : List Nat) (s t : State) : Prop where
  keeps : State.Keeps [.clusters, .reqs] s t
  others : OtherClusters x.cl s t
  engine : t.engine x.cl = s.engine x.cl
  threads : ∀ k l, (k = x.key → l ∉ ls) → (t.tg x.cl).thread? k l = (s.tg x.cl).thread? k l
  waits : ∀ l ∈ ls, ∀ y, (s.tg x.cl).thread? x.key l = some y → ∃ y', (t.tg x.cl).thread? x.key l = some y'
    ∧ y'.pc = y.pc ∧ y'.run = y.run ∧ ∀ q ∈ rs, (q, none) ∈ y'.sb
  l1 : (t.tg x.cl).l1 = (s.tg x.cl).l1.filter fun e => e.line ∉ lines
  reqs : ∃ g new, Unfilling g ∧ (lines = [] → g = id) ∧ t.reqs = s.reqs.map g ++ new ∧ (∀ q ∈ new, q.fills = keep)
    ∧ new.map Req.asks = asks

namespace LanesAsked

variable {x : Ex} {rs : List Nat} {keep : Bool} {lines lines' : List Nat}
  {asks asks' : List (ReqKind × Word64 × Nat × Bool × Purpose)} {ls ls' : List Nat} {s t u : State}

theorem nil (x : Ex) (rs : List Nat) (keep : Bool) (s : State) : LanesAsked x rs keep [] [] [] s s :=
  ⟨State.Keeps.refl _ s, fun _ _ => rfl, rfl, fun _ _ _ => rfl, fun _ h => absurd h List.not_mem_nil,
    (List.filter_eq_self.2 fun _ _ => by simp).symm, id, [], .id, fun _ => rfl, by simp, fun _ h => absurd h List.not_mem_nil, rfl⟩

theorem trans (h : LanesAsked x rs keep lines asks ls s t) (g : LanesAsked x rs keep lines' asks' ls' t u)
    (hapart : ∀ l ∈ ls, l ∉ ls') (hkeep : keep = true → lines' = []) :
    LanesAsked x rs keep (lines ++ lines') (asks ++ asks') (ls ++ ls') s u := by
  obtain ⟨f, new, hf, hfid, hreqs, hnew, hasks⟩ := h.reqs
  obtain ⟨f', new', hf', hfid', hreqs', hnew', hasks'⟩ := g.reqs
  have hstays : new.map f' = new := by
    cases hk : keep with
    | true => rw [hfid' (hkeep hk), List.map_id]
    | false => exact (List.map_congr_left fun q hq => hf'.spares q ((hnew q hq).trans hk)).trans (List.map_id _)
  refine ⟨h.keeps.trans g.keeps, fun k hk => (g.others k hk).trans (h.others k hk), g.engine.trans h.engine, fun k l hl => ?_,
    fun l hl y hy => ?_, ?_, f' ∘ f, new ++ new', hf.comp hf', fun hnil => ?_, ?_, fun q hq => ?_, ?_⟩
  · rw [g.threads k l fun hk hm => hl hk (List.mem_append_right _ hm), h.threads k l fun hk hm => hl hk (List.mem_append_left _ hm)]
  · rcases List.mem_append.1 hl with hl | hl
    · obtain ⟨y', hy', hrest⟩ := h.waits l hl y hy
      exact ⟨y', (g.threads x.key l fun _ => hapart l hl).trans hy', hrest⟩
    · by_cases hmem : l ∈ ls
      · exact absurd hl (hapart l hmem)
      · exact g.waits l hl y ((h.threads x.key l fun _ => hmem).trans hy)
  · rw [g.l1, h.l1, List.filter_filter]
    exact List.filter_congr fun e _ => by simp [not_or, Bool.and_comm]
  · obtain ⟨h1, h2⟩ := List.append_eq_nil_iff.1 hnil
    rw [hfid h1, hfid' h2]
    rfl
  · rw [hreqs', hreqs, List.map_append, List.map_map, hstays, List.append_assoc]
  · exact (List.mem_append.1 hq).elim (hnew q) (hnew' q)
  · rw [List.map_append, hasks, hasks']

theorem thread (h : LanesAsked x rs keep lines asks ls s t) {l : Nat} (hl : l ∉ ls) : t.thread x l = s.thread x l := by
  rw [State.thread, h.threads x.key l fun _ => hl, State.thread]

theorem hasLane (h : LanesAsked x rs keep lines asks ls s t) {l : Nat} (hl : l ∉ ls) (hlane : s.hasLane x l) : t.hasLane x l := by
  rwa [State.hasLane, h.threads x.key l fun _ => hl]

theorem l1_of_keep (h : LanesAsked x rs keep lines asks ls s t) (hnil : lines = []) : (t.tg x.cl).l1 = (s.tg x.cl).l1 := by
  rw [h.l1, hnil]
  exact List.filter_eq_self.2 fun _ _ => by simp

/-- Lanes ask one after another, each as it would alone. -/
theorem foldl {f : Nat → State → State} {line : Nat → List Nat} {ask : Nat → ReqKind × Word64 × Nat × Bool × Purpose}
    (hkeep : keep = true → ∀ l, line l = []) {ls : List Nat} (hnd : ls.Nodup) {s : State} (hlanes : ∀ l ∈ ls, s.hasLane x l)
    (hf : ∀ l ∈ ls, ∀ u, u.regs = s.regs → u.hasLane x l → u.thread x l = s.thread x l →
      (keep = true → (u.tg x.cl).l1 = (s.tg x.cl).l1) → LanesAsked x rs keep (line l) [ask l] [l] u (f l u)) :
    LanesAsked x rs keep (ls.flatMap line) (ls.map ask) ls s (ls.foldl (fun s l => f l s) s) := by
  induction ls generalizing s with
  | nil => exact nil x rs keep s
  | cons l ls ih =>
    obtain ⟨hl, hnd⟩ := List.nodup_cons.1 hnd
    have hfirst := hf l (List.mem_cons_self ..) s rfl (hlanes l (List.mem_cons_self ..)) rfl fun _ => rfl
    have hout (m : Nat) (hm : m ∈ ls) : m ∉ [l] := fun h => hl (List.mem_singleton.1 h ▸ hm)
    refine hfirst.trans (ih hnd (fun m hm => hfirst.hasLane (hout m hm) (hlanes m (List.mem_cons_of_mem _ hm)))
      fun m hm u hregs hlane hthread hl1 => ?_) (fun m hm => List.mem_singleton.1 hm ▸ hl)
      fun hk => List.flatMap_eq_nil_iff.2 fun m _ => hkeep hk m
    exact hf m (List.mem_cons_of_mem _ hm) u (hregs.trans (hfirst.keeps.parts .regs (by decide))) hlane
      (hthread.trans (hfirst.thread (hout m hm))) fun hk => (hl1 hk).trans (hfirst.l1_of_keep (hkeep hk l))

end LanesAsked

/-! ### One lane -/

section
variable {s : State} {x : Ex} {l d n : Nat} {a : Word64}

/-- The request of a lane's load. -/
def Ex.loadReq (x : Ex) (l d n : Nat) (a : Word64) (keep marked : Bool) : Req :=
  { mkReq (.tg x.cl) .read (a - BitVec.ofNat 64 (if keep then a.toNat % 32 else 0)) (if keep then 32 else n) [] false true
      (.load x.cl x.sched x.slot l d keep x.pc (if keep then a.toNat % 32 else 0) n) (some x.job.ctx) with marked := marked }

theorem State.loadReq_asked (hlane : s.hasLane x l) {keep marked : Bool}
    (hmapped : s.addrKind (x.loadReq l d n a keep marked).addr (max 1 (x.loadReq l d n a keep marked).len) ≠ .unmapped) :
    LanesAsked x (regsFor d n) keep [] [(x.loadReq l d n a keep marked).asks] [l] s (s.loadReq x l d n a keep marked) := by
  have hon : OnLanes x [l] s (s.await x l (regsFor d n)) := .setThread s x l _
  have hkeeps : State.Keeps [.clusters, .reqs] s (s.await x l (regsFor d n)) :=
    State.await_keeps (by decide) (State.Keeps.refl _ s) _ _ _
  have hwaits (y : Thread) (hy : (s.tg x.cl).thread? x.key l = some y) : ((s.await x l (regsFor d n)).tg x.cl).thread? x.key l =
      some { y with sb := (regsFor d n).map (·, none) ++ y.sb.filter fun b => b.1 ∉ regsFor d n } := by
    rw [State.await, State.setThread, State.tg_setTg_self, Tg.thread?_updThread_self, hy]
    rfl
  have hregs : (s.await x l (regsFor d n)).regs = s.regs := rfl
  have hreqs : (s.await x l (regsFor d n)).reqs = s.reqs := rfl
  have hrun : s.loadReq x l d n a keep marked = (s.await x l (regsFor d n)).request (x.loadReq l d n a keep marked) := rfl
  rw [hrun]
  generalize s.await x l (regsFor d n) = v at *
  rw [State.request_of_mapped rfl (by
    rw [State.addrKind_of_reg (State.reg_of_regs hregs _ _) (State.reg_of_regs hregs _ _)]
    exact hmapped)]
  refine ⟨State.sent_keeps (by decide) hkeeps _, hon.others, hon.engine, hon.tg.threads, fun m hm y hy => ?_, ?_,
    id, [v.sending (x.loadReq l d n a keep marked)], .id, fun _ => rfl, ?_, fun q hq => ?_, rfl⟩
  · obtain rfl := List.mem_singleton.1 hm
    exact ⟨_, hwaits y hy, rfl, rfl, fun q hq => List.mem_append_left _ (List.mem_map.2 ⟨q, hq, rfl⟩)⟩
  · have hl1 : (v.tg x.cl).l1 = (s.tg x.cl).l1 := by rw [hon.tg.rest]
    exact hl1.trans (List.filter_eq_self.2 fun _ _ => by simp).symm
  · rw [List.map_id, ← hreqs]
    rfl
  · rw [List.mem_singleton.1 hq]
    cases keep <;> rfl

/-- A line leaves the L1, and its fills on their way enter it no more. -/
def State.lineLost (s : State) (x : Ex) (line : Nat) : State :=
  (s.setTg x.cl ((s.tg x.cl).l1Drop line)).dropFills x.cl line

/-- A request that fills a line loses its fill. -/
def State.unfill (s : State) (cl : Cl) (line : Nat) (r : Req) : Req :=
  match r.purpose with
  | .load c sc slot lane d true pc off n =>
    if c = cl ∧ s.l1Line r.addr = line then { r with purpose := .load c sc slot lane d false pc off n } else r
  | _ => r

theorem State.unfill_unfilling (s : State) (cl : Cl) (line : Nat) : Unfilling (s.unfill cl line) := by
  refine ⟨fun q => ?_, fun q hq => ?_⟩
  · unfold State.unfill
    split
    · split <;> rfl
    · rfl
  · unfold State.unfill
    split
    · next h => simp [Req.fills, h] at hq
    · rfl

theorem State.lineLost_asked (s : State) (x : Ex) (rs : List Nat) (line : Nat) :
    LanesAsked x rs false [line] [] [] s (s.lineLost x line) := by
  have hkeeps : State.Keeps [.clusters, .reqs] s (s.lineLost x line) :=
    State.dropFills_keeps (by decide) (State.setTg_keeps (by decide) (State.Keeps.refl _ s) _ _) _ _
  have htg : (s.lineLost x line).tg x.cl = (s.tg x.cl).l1Drop line := State.tg_setTg_self (s := s) _ _
  refine ⟨hkeeps, fun k hk => State.cluster_setCluster_ne s _ hk, s.engine_setTg _ _ _, fun k l _ => by rw [htg]; rfl,
    fun _ h => absurd h List.not_mem_nil, ?_, (s.setTg x.cl ((s.tg x.cl).l1Drop line)).unfill x.cl line, [],
    State.unfill_unfilling _ _ _, fun h => absurd h (List.cons_ne_nil _ _), ?_, fun _ h => absurd h List.not_mem_nil, rfl⟩
  · rw [htg]
    exact List.filter_congr fun e _ => by simp
  · rw [List.append_nil]
    rfl

end

end Sys2Proof.Machine
end

section
/-! SUPPORT. Loads over an issue set, and prefetches: the statement from its clauses. -/

namespace Sys2Proof.Machine

/-! ### Addresses that are mapped (R36, R39, R248) -/

section
variable {s : State} {a : Word64} {n : Nat}

theorem accessBad_eq_none {srcs : List Nat} {r : Nat} {atomic : Bool} {x : Ex} {l : Nat}
    (h : accessBad srcs r n atomic s x l = none) :
    1 ≤ n ∧ n ≤ 16 ∧ s.addrKind (s.rd2 x l r) n ≠ .unmapped := by
  unfold accessBad at h
  split at h
  · cases h
  · next hsize =>
    have hn : n ∈ [1, 2, 4, 8, 16] := by_contra fun hno => hsize (by rw [sizeBad, decide_eq_false hno]; rfl)
    have hmem : s.memBad (s.rd2 x l r) n atomic = none := by
      unfold orElse at h
      split at h
      · cases h
      · exact h
    refine ⟨?_, ?_, fun hkind => ?_⟩
    · simp only [List.mem_cons, List.not_mem_nil, or_false] at hn
      omega
    · simp only [List.mem_cons, List.not_mem_nil, or_false] at hn
      omega
    · unfold State.memBad at hmem
      rw [hkind] at hmem
      split at hmem <;> cases hmem

/-- The sector of an address. -/
def sectorAddr (a : Word64) : Word64 := a - BitVec.ofNat 64 (a.toNat % 32)

theorem sectorAddr_toNat (a : Word64) : (sectorAddr a).toNat = a.toNat - a.toNat % 32 := by
  have hlt := a.isLt
  rw [sectorAddr, BitVec.toNat_sub, BitVec.toNat_ofNat]
  omega

theorem addrNode_sectorAddr (a : Word64) : addrNode (sectorAddr a) = addrNode a := by
  simp only [addrNode, fieldOf, sectorAddr_toNat]
  omega

theorem addrLocal_sectorAddr (a : Word64) : addrLocal (sectorAddr a) = 32 * (addrLocal a / 32) := by
  simp only [addrLocal, fieldOf, sectorAddr_toNat]
  omega

/-- Where an access is mapped that the L1 may hold, so is its sector. -/
theorem State.addrKind_sector (hn : 1 ≤ n) (hmapped : s.addrKind a n ≠ .unmapped) (hable : s.l1Able a n = true) :
    s.addrKind (sectorAddr a) 32 ≠ .unmapped := by
  have hlocal : s.isLocal (sectorAddr a) = s.isLocal a := by simp only [State.isLocal, addrNode_sectorAddr]
  have hhost : s.addrKind a n ≠ .host := by simpa [State.l1Able] using hable
  unfold State.addrKind at hmapped hhost ⊢
  rw [hlocal, addrLocal_sectorAddr]
  cases hl : s.isLocal a with
  | true =>
    have hhbm : addrLocal a + n ≤ hbmBytes := by
      by_contra hno
      simp only [hl, if_true, localKind, if_neg hno] at hmapped hhost
      split at hmapped <;> simp_all
    have hfits : 32 * (addrLocal a / 32) + 32 ≤ hbmBytes := by
      simp only [hbmBytes] at hhbm ⊢
      omega
    simp [localKind, hfits]
  | false =>
    rw [hl, if_neg Bool.false_ne_true] at hmapped
    have hremote : addrLocal a + n ≤ 2 ^ 48 := by_contra fun hno => hmapped (if_neg hno)
    rw [if_neg Bool.false_ne_true, if_pos (by omega)]
    decide

end

/-! ### An issue set that asks -/

section
variable {s : State} {x : Ex} {th : Th} {regs : List Nat} {bad : State → Ex → Nat → Option (Nat × Word64)}

/-- An instruction has been run where no other cluster, thread and engine has changed. -/
theorem Went.of_issued {u : State} {lanes : List Nat} (htime : u.time = s.time) (hothers : OtherClusters x.cl s u)
    (hthreads : ∀ k l, (k = x.key → l ∉ lanes) → (u.tg x.cl).thread? k l = (s.tg x.cl).thread? k l)
    (hengine : u.engine x.cl = s.engine x.cl) (rate : Nat) : Went s (u.issued x rate) x lanes rate := by
  refine ⟨fun k hk => (State.cluster_setCluster_ne u _ hk).trans (hothers k hk), ?_, ?_, fun k l hk => ?_,
    (u.engine_setTg _ _ _).trans hengine⟩
  · rw [State.tg_issued, Tbl.find_del_self]
  · rw [State.tg_issued, Tbl.get_put_self, htime]
  · exact (u.issued_thread? x rate k l).trans (hthreads k l hk)

theorem State.advance_thread (hin : s.inHand th regs bad x) (htog : s.together x) (size : Nat) {l : Nat} (hl : l ∈ x.lanes) :
    (s.advance x size).thread x l = { s.thread x l with pc := x.pc + size } :=
  ((s.advance x size).issued_thread x 1 l).symm.trans (State.wentOn_thread hin htog size hl)

theorem State.rd2_of_advanced (hin : s.inHand th regs bad x) (htog : s.together x) {size : Nat} {l : Nat} (hl : l ∈ x.lanes)
    {u : State} (hthread : u.thread x l = (s.advance x size).thread x l) (a : Nat) : u.rd2 x l a = s.rd2 x l a :=
  State.rd2_of_rd (State.rd_of_thread (by rw [hthread, State.advance_thread hin htog size hl])) a

/-- What an instruction that asks memory leaves. -/
structure SetAsked (s t : State) (x : Ex) (size : Nat) (rs : List Nat) (lines : List Nat)
    (asks : List (ReqKind × Word64 × Nat × Bool × Purpose)) : Prop where
  went : Went s t x x.lanes 1
  waits : ∀ l ∈ x.lanes, At t x l (x.pc + size) ∧ ∀ q ∈ rs, (q, none) ∈ (t.thread x l).sb
  l1 : (t.tg x.cl).l1 = (s.tg x.cl).l1.filter fun e => e.line ∉ lines
  reqs : ∃ g new, Unfilling g ∧ (lines = [] → g = id) ∧ t.reqs = s.reqs.map g ++ new ∧ new.map Req.asks = asks

theorem LanesAsked.issued {rs : List Nat} {keep : Bool} {lines : List Nat} {asks : List (ReqKind × Word64 × Nat × Bool × Purpose)}
    {u : State} {size : Nat} (hin : s.inHand th regs bad x) (htog : s.together x)
    (h : LanesAsked x rs keep lines asks x.lanes (s.advance x size) u) :
    State.Keeps [.clusters, .reqs] s (u.issued x 1) ∧ SetAsked s (u.issued x 1) x size rs lines asks := by
  have hadv := OnLanes.advance s x size
  have hkeeps : State.Keeps [.clusters, .reqs] s (s.advance x size) := State.advance_keeps (by decide) (State.Keeps.refl _ s) _ _
  have hl1 : ((s.advance x size).tg x.cl).l1 = (s.tg x.cl).l1 := by rw [hadv.tg.rest]
  obtain ⟨g, new, hg, hid, hreqs, -, hasks⟩ := h.reqs
  refine ⟨State.issued_keeps (by decide) (hkeeps.trans h.keeps) _ _, .of_issued ((hkeeps.trans h.keeps).parts .time (by decide))
    (fun k hk => (h.others k hk).trans (hadv.others k hk)) (fun k l hk => (h.threads k l hk).trans (hadv.tg.threads k l hk))
    (h.engine.trans hadv.engine) 1, fun l hl => ?_, ?_, g, new, hg, hid, ?_, hasks⟩
  · obtain ⟨y, hy⟩ := Option.isSome_iff_exists.1 (hadv.hasLane (State.inHand_hasLane hin hl))
    obtain ⟨y', hy', hpc, hrun, hsb⟩ := h.waits l hl y hy
    have hbefore : y = { s.thread x l with pc := x.pc + size } := by
      rw [← State.advance_thread hin htog size hl, State.thread, hy]
      rfl
    have hafter : (u.issued x 1).thread x l = y' := by
      rw [State.issued_thread, State.thread, hy']
      rfl
    rw [At, hafter, hpc, hrun, hbefore]
    exact ⟨⟨rfl, (htog l hl).1⟩, hsb⟩
  · rw [State.tg_issued, ← hl1]
    exact h.l1
  · exact hreqs

/-- An instruction that asks memory for each of its lanes. -/
theorem runs_asking {c : Instr} {f : Ex → Nat → State → State} {rs : List Nat} {keep : Bool} {line : Nat → List Nat} {a : Nat}
    {ask : Nat → ReqKind × Word64 × Nat × Bool × Purpose} (hin : s.inHand th regs bad x) (htog : s.together x)
    (hexec : exec c s = .next (s.perLane th regs 1 bad f)) (hkeep : keep = true → ∀ l, line l = [])
    (hf : ∀ l ∈ x.lanes, ∀ u, u.regs = s.regs → u.hasLane x l → u.rd2 x l a = s.rd2 x l a →
      (keep = true → (u.tg x.cl).l1 = (s.tg x.cl).l1) → LanesAsked x rs keep (line l) [ask l] [l] u (f x l u)) :
    Runs c s [.clusters, .reqs] fun t => SetAsked s t x th.size rs (x.lanes.flatMap line) (x.lanes.map ask) := by
  have hadv := OnLanes.advance s x th.size
  have hl1 : ((s.advance x th.size).tg x.cl).l1 = (s.tg x.cl).l1 := by rw [hadv.tg.rest]
  have hasked := LanesAsked.foldl (f := f x) (rs := rs) hkeep hin.2.2.1 (s := s.advance x th.size)
    (fun l hl => hadv.hasLane (State.inHand_hasLane hin hl)) fun l hl u hregs hlane hthread hu =>
      hf l hl u hregs hlane (State.rd2_of_advanced hin htog hl hthread a) fun hk => (hu hk).trans hl1
  obtain ⟨hkeeps, hset⟩ := hasked.issued hin htog
  exact ⟨_, hexec.trans (congrArg _ (State.perLane_eq hin 1 f)), hkeeps.frame, hset⟩

end

end Sys2Proof.Machine
end

section
/-! SUPPORT. The loads (R165, R171, R248, R249) from the requests of their issue sets. -/

namespace Sys2Proof.Machine

section
variable {s : State} {x : Ex} {th : Th} {d a n : Nat}

/-! ### Loads that ask for their own bytes -/

theorem Ex.asks_loadReq (x : Ex) (l d n : Nat) (a : Word64) (marked : Bool) : (x.loadReq l d n a false marked).asks =
    (.read, a, n, marked, .load x.cl x.sched x.slot l d false x.pc 0 n) := by
  simp [Ex.loadReq, Req.asks, mkReq]

/-- The address of a lane's access is mapped, in whatever state the lane comes to it. -/
theorem State.loadReq_mapped {regs srcs : List Nat} {atomic : Bool} (hin : s.inHand th regs (accessBad srcs a n atomic) x) {l : Nat}
    (hl : l ∈ x.lanes) {u : State} (hregs : u.regs = s.regs) (marked : Bool) :
    u.addrKind (x.loadReq l d n (s.rd2 x l a) false marked).addr (max 1 (x.loadReq l d n (s.rd2 x l a) false marked).len)
      ≠ .unmapped := by
  obtain ⟨h1, -, hmapped⟩ := accessBad_eq_none (hin.2.2.2.2 l hl).2.2
  have haddr : (x.loadReq l d n (s.rd2 x l a) false marked).addr = s.rd2 x l a := by simp [Ex.loadReq, mkReq]
  have hlen : max 1 (x.loadReq l d n (s.rd2 x l a) false marked).len = n := Nat.max_eq_right h1
  rw [State.addrKind_of_reg (State.reg_of_regs hregs _ _) (State.reg_of_regs hregs _ _), haddr, hlen]
  exact hmapped

theorem SetAsked.reqs_nil {t : State} {size : Nat} {rs : List Nat} {asks : List (ReqKind × Word64 × Nat × Bool × Purpose)}
    (h : SetAsked s t x size rs (x.lanes.flatMap fun _ => []) asks) :
    ∃ new : List Req, t.reqs = s.reqs ++ new ∧ new.map Req.asks = asks := by
  obtain ⟨g, new, -, hid, hreqs, hasks⟩ := h.reqs
  refine ⟨new, ?_, hasks⟩
  rw [hreqs, hid (List.flatMap_eq_nil_iff.2 fun _ _ => rfl), List.map_id]

theorem SetAsked.l1_nil {t : State} {size : Nat} {rs : List Nat} {asks : List (ReqKind × Word64 × Nat × Bool × Purpose)}
    (h : SetAsked s t x size rs (x.lanes.flatMap fun _ => []) asks) : (t.tg x.cl).l1 = (s.tg x.cl).l1 := by
  rw [h.l1, List.flatMap_eq_nil_iff.2 fun _ _ => rfl]
  exact List.filter_eq_self.2 fun _ _ => by simp

theorem ldByp_asks (hin : s.inHand th (a :: (a + 1) :: regsFor d n) (accessBad [] a n false) x) (htog : s.together x) :
    Runs (.ldByp th d a n) s [.clusters, .reqs] fun t => Went s t x x.lanes 1
      ∧ (∀ l ∈ x.lanes, At t x l (x.pc + th.size) ∧ ∀ q ∈ regsFor d n, (q, none) ∈ (t.thread x l).sb)
      ∧ (t.tg x.cl).l1 = (s.tg x.cl).l1
      ∧ ∃ new : List Req, t.reqs = s.reqs ++ new
          ∧ new.map (fun q => (q.kind, q.addr, q.len, q.marked, q.purpose)) = x.lanes.map fun l =>
            (.read, s.rd2 x l a, n, false, .load x.cl x.sched x.slot l d false x.pc 0 n) := by
  obtain ⟨t, hrun, hframe, hset⟩ := runs_asking (c := .ldByp th d a n) (rs := regsFor d n) (keep := false)
    (line := fun _ => []) (a := a)
    (ask := fun l => (x.loadReq l d n (s.rd2 x l a) false false).asks) hin htog rfl (fun h => absurd h Bool.false_ne_true)
    fun l hl u hregs hlane haddr _ => by
      rw [haddr]
      exact State.loadReq_asked hlane (State.loadReq_mapped hin hl hregs false)
  obtain ⟨new, hreqs, hasks⟩ := hset.reqs_nil
  refine ⟨t, hrun, hframe, hset.went, hset.waits, hset.l1_nil, new, hreqs, hasks.trans ?_⟩
  exact List.map_congr_left fun l _ => x.asks_loadReq l d n _ false

theorem State.l1Line_of_reg {u : State} (h : u.reg 0x2910 1 = s.reg 0x2910 1) (a : Word64) : u.l1Line a = s.l1Line a := by
  have hlocal : u.isLocal a = s.isLocal a := by
    rw [State.isLocal, State.node, State.fld, h]
    rfl
  rw [State.l1Line, hlocal, State.l1Line]

theorem ldDregs_asks (hin : s.inHand th (a :: (a + 1) :: regsFor d n) (accessBad [] a n false) x) (htog : s.together x) :
    Runs (.ldDregs th d a n) s [.clusters, .reqs] fun t => Went s t x x.lanes 1
      ∧ (∀ l ∈ x.lanes, At t x l (x.pc + th.size) ∧ (∀ q ∈ regsFor d n, (q, none) ∈ (t.thread x l).sb)
        ∧ ∀ e ∈ (t.tg x.cl).l1, e ∈ (s.tg x.cl).l1 ∧ e.line ≠ s.l1Line (s.rd2 x l a))
      ∧ ∃ old new : List Req, t.reqs = old ++ new
          ∧ old.map (fun q => { q with purpose := .head 0 }) = s.reqs.map (fun q => { q with purpose := .head 0 })
          ∧ new.map (fun q => (q.kind, q.addr, q.len, q.marked, q.purpose)) = x.lanes.map fun l =>
            (.read, s.rd2 x l a, n, true, .load x.cl x.sched x.slot l d false x.pc 0 n) := by
  obtain ⟨t, hrun, hframe, hset⟩ := runs_asking (c := .ldDregs th d a n) (rs := regsFor d n) (keep := false)
    (line := fun l => [s.l1Line (s.rd2 x l a)]) (a := a)
    (ask := fun l => (x.loadReq l d n (s.rd2 x l a) false true).asks) hin htog rfl (fun h => absurd h Bool.false_ne_true)
    fun l hl u hregs hlane haddr _ => by
      have hline : u.l1Line (s.rd2 x l a) = s.l1Line (s.rd2 x l a) := State.l1Line_of_reg (State.reg_of_regs hregs _ _) _
      have hlost := u.lineLost_asked x (regsFor d n) (s.l1Line (s.rd2 x l a))
      rw [haddr]
      dsimp only
      rw [hline]
      exact hlost.trans (State.loadReq_asked (hlost.hasLane List.not_mem_nil hlane) (State.loadReq_mapped hin hl hregs true))
        (fun _ h => absurd h List.not_mem_nil) fun h => absurd h Bool.false_ne_true
  obtain ⟨g, new, hg, -, hreqs, hasks⟩ := hset.reqs
  refine ⟨t, hrun, hframe, hset.went, fun l hl => ?_, s.reqs.map g, new, hreqs, ?_, hasks.trans ?_⟩
  · obtain ⟨hat, hsb⟩ := hset.waits l hl
    refine ⟨hat, hsb, fun e he => ?_⟩
    rw [hset.l1, List.mem_filter] at he
    obtain ⟨hmem, hline⟩ := he
    exact ⟨hmem, fun heq => of_decide_eq_true hline (List.mem_flatMap.2 ⟨l, hl, List.mem_singleton.2 heq⟩)⟩
  · rw [List.map_map]
    exact List.map_congr_left fun q _ => hg.rest q
  · exact List.map_congr_left fun l _ => x.asks_loadReq l d n _ true

/-! ### LD (R249) -/

theorem State.l1Parity_good (s : State) (x : Ex) (a : Word64) : s.l1Parity x a false = s := by
  simp [State.l1Parity]

theorem Tg.l1Get_of_l1 {t t' : Tg} (h : t'.l1 = t.l1) (line off n : Nat) : t'.l1Get line off n = t.l1Get line off n := by
  rw [Tg.l1Get, h, Tg.l1Get]

theorem ld_misses (hin : s.inHand th (a :: (a + 1) :: regsFor d n) (accessBad [] a n false) x) (htog : s.together x)
    (hmiss : ∀ l ∈ x.lanes, (s.tg x.cl).l1Get (s.l1Line (s.rd2 x l a)) ((s.rd2 x l a).toNat % 128) n = none
      ∧ s.l1Able (s.rd2 x l a) n = true) :
    Runs (.ld th d a n false) s [.clusters, .reqs] fun t => Went s t x x.lanes 1
      ∧ (∀ l ∈ x.lanes, At t x l (x.pc + th.size) ∧ ∀ q ∈ regsFor d n, (q, none) ∈ (t.thread x l).sb)
      ∧ ∃ new : List Req, t.reqs = s.reqs ++ new
          ∧ new.map (fun q => (q.kind, q.addr, q.len, q.marked, q.purpose)) = x.lanes.map fun l =>
            (.read, s.rd2 x l a - BitVec.ofNat 64 ((s.rd2 x l a).toNat % 32), 32, false,
              .load x.cl x.sched x.slot l d true x.pc ((s.rd2 x l a).toNat % 32) n) := by
  obtain ⟨t, hrun, hframe, hset⟩ := runs_asking (c := .ld th d a n false) (rs := regsFor d n) (keep := true) (line := fun _ => [])
    (a := a) (ask := fun l => (x.loadReq l d n (s.rd2 x l a) true false).asks) hin htog rfl (fun _ _ => rfl)
    fun l hl u hregs hlane haddr hl1 => by
      obtain ⟨hnone, hable⟩ := hmiss l hl
      obtain ⟨h1, -, hmapped⟩ := accessBad_eq_none (hin.2.2.2.2 l hl).2.2
      have hreg (i j : Nat) : u.reg i j = s.reg i j := State.reg_of_regs hregs i j
      have hkind (b : Word64) (m : Nat) : u.addrKind b m = s.addrKind b m := State.addrKind_of_reg (hreg _ _) (hreg _ _) b m
      have hget : (u.tg x.cl).l1Get (u.l1Line (s.rd2 x l a)) ((s.rd2 x l a).toNat % 128) n = none := by
        rw [State.l1Line_of_reg (hreg _ _), Tg.l1Get_of_l1 (hl1 rfl), hnone]
      have hable' : u.l1Able (s.rd2 x l a) n = true := by rwa [State.l1Able, hkind]
      rw [haddr]
      dsimp only
      rw [State.l1Parity_good, State.ldLane, hget, hable']
      refine State.loadReq_asked hlane ?_
      rw [hkind]
      exact State.addrKind_sector h1 hmapped hable
  obtain ⟨new, hreqs, hasks⟩ := hset.reqs_nil
  exact ⟨t, hrun, hframe, hset.went, hset.waits, new, hreqs, hasks⟩

/-- Two instructions do the same where they do so to each lane that comes to them as it was issued. -/
theorem State.ranLanes_congr {size rate : Nat} {f f' : Nat → State → State} (hnd : x.lanes.Nodup)
    (hf' : ∀ l ∈ x.lanes, ∀ u, OnLanes x [l] u (f' l u))
    (heq : ∀ l ∈ x.lanes, ∀ u, OnLanes x x.lanes (s.advance x size) u → u.thread x l = (s.advance x size).thread x l →
      f l u = f' l u) : s.ranLanes x size rate f = s.ranLanes x size rate f' := by
  have hgen : ∀ ls : List Nat, ls ⊆ x.lanes → ls.Nodup → ∀ u, OnLanes x x.lanes (s.advance x size) u →
      (∀ l ∈ ls, u.thread x l = (s.advance x size).thread x l) →
      ls.foldl (fun s l => f l s) u = ls.foldl (fun s l => f' l s) u := by
    intro ls
    induction ls with
    | nil => exact fun _ _ _ _ _ => rfl
    | cons l ls ih =>
      intro hsub hnd u hu hthread
      obtain ⟨hl, hnd⟩ := List.nodup_cons.1 hnd
      have hmem : l ∈ x.lanes := hsub (List.mem_cons_self ..)
      rw [List.foldl_cons, List.foldl_cons, heq l hmem u hu (hthread l (List.mem_cons_self ..))]
      refine ih (fun m hm => hsub (List.mem_cons_of_mem _ hm)) hnd _ (hu.trans ((hf' l hmem u).mono (by simpa using hmem)))
        fun m hm => ?_
      exact ((hf' l hmem u).thread fun h => hl (List.mem_singleton.1 h ▸ hm)).trans (hthread m (List.mem_cons_of_mem _ hm))
  rw [State.ranLanes, hgen x.lanes (List.Subset.refl _) hnd _ (.refl _ _ _) fun _ _ => rfl, State.ranLanes]

/-- The bytes that the L1 holds for a lane. -/
def State.l1Bytes (s : State) (x : Ex) (a n l : Nat) : List Byte :=
  ((s.tg x.cl).l1Get (s.l1Line (s.rd2 x l a)) ((s.rd2 x l a).toNat % 128) n).getD []

/-- One lane of an LD that the L1 held as it was issued. -/
def State.hitLane (s : State) (x : Ex) (d a n l : Nat) (u : State) : State :=
  u.setThread x l fun y => y.load d n (s.l1Bytes x a n l) (u.time.core + 28)

theorem ld_hits (hin : s.inHand th (a :: (a + 1) :: regsFor d n) (accessBad [] a n false) x) (htog : s.together x)
    (hhit : ∀ l ∈ x.lanes, ((s.tg x.cl).l1Get (s.l1Line (s.rd2 x l a)) ((s.rd2 x l a).toNat % 128) n).isSome = true) :
    Runs (.ld th d a n false) s [.clusters] fun t => Went s t x x.lanes 1 ∧ ∀ l ∈ x.lanes, At t x l (x.pc + th.size)
      ∧ ∃ bs, (s.tg x.cl).l1Get (s.l1Line (s.rd2 x l a)) ((s.rd2 x l a).toNat % 128) n = some bs
        ∧ Wrote s t x l ((regsFor d n).map fun q => (q, BitVec.ofNat 32 (leNat ((bs.drop (4 * (q - d))).take 4)))) := by
  have hbytes (l : Nat) (hl : l ∈ x.lanes) : (s.tg x.cl).l1Get (s.l1Line (s.rd2 x l a)) ((s.rd2 x l a).toNat % 128) n
      = some (s.l1Bytes x a n l) := by
    obtain ⟨bs, hbs⟩ := Option.isSome_iff_exists.1 (hhit l hl)
    rw [State.l1Bytes, hbs]
    rfl
  have hon : ∀ l ∈ x.lanes, ∀ u, OnLanes x [l] u (s.hitLane x d a n l u) := fun l _ u => .setThread u x l _
  have hsame : s.perLane th (a :: (a + 1) :: regsFor d n) 1 (accessBad [] a n false) (fun x l s =>
      (s.l1Parity x (s.rd2 x l a) false).ldLane x l d n (s.rd2 x l a)) = s.ranLanes x th.size 1 (s.hitLane x d a n) := by
    rw [State.perLane_eq hin]
    refine State.ranLanes_congr hin.2.2.1 hon fun l hl u hu hthread => ?_
    have hall := (OnLanes.advance s x th.size).trans hu
    have hl1 : (u.tg x.cl).l1 = (s.tg x.cl).l1 := by rw [hall.tg.rest]
    have hget : (u.tg x.cl).l1Get (u.l1Line (s.rd2 x l a)) ((s.rd2 x l a).toNat % 128) n = some (s.l1Bytes x a n l) := by
      rw [State.l1Line_of_reg (hall.entries _ _ (by decide)), Tg.l1Get_of_l1 hl1, hbytes l hl]
    rw [State.rd2_of_advanced hin htog hl hthread, State.l1Parity_good, State.ldLane, hget]
    rfl
  refine ⟨_, congrArg Host.Outcome.next hsame, (State.ranLanes_keeps (List.Subset.refl _) fun l u hu =>
    State.setThread_keeps (List.Subset.refl _) hu _ _ _).frame, State.ranLanes_went hon, fun l hl => ?_⟩
  obtain ⟨b, hready, hdone⟩ := State.ranLanes_lane (rate := 1) (size := th.size) hin htog hon hl
  exact ⟨hready.next hdone (Stands.setThread hready.there rfl rfl), _, hbytes l hl,
    hready.wrote hdone (Wrote.load hready.there d n _ _)⟩

end

end Sys2Proof.Machine
end

section
/-! SUPPORT. Prefetches of an issue set (R164, R250), and the statement of the loads from its clauses. -/

namespace Sys2Proof.Machine

/-! ### What a prefetch notes -/

/-- From s to t only the prefetches noted and a count of a caddy's crossings have changed. -/
structure Noting (c : Nat) (s t : State) : Prop where
  keeps : State.Keeps [.regs, .caddy] s t
  entries : Entries [(0x3300 + c, 0x13)] s t
  caddy : t.caddy = { s.caddy with notes := t.caddy.notes }
  notes : ∀ y ∈ s.caddy.notes, y ∈ t.caddy.notes
  view : SameView s t

section
variable {c : Nat} {s t u : State}

theorem Noting.refl (c : Nat) (s : State) : Noting c s s :=
  ⟨State.Keeps.refl _ s, .refl _ s, rfl, fun _ h => h, .refl s⟩

theorem Noting.trans (h : Noting c s t) (g : Noting c t u) : Noting c s u :=
  ⟨h.keeps.trans g.keeps, h.entries.trans g.entries, by rw [g.caddy, h.caddy], fun y hy => g.notes y (h.notes y hy),
    h.view.trans g.view⟩

theorem Noting.count (s : State) (n : Nat) : Noting c s (s.count (0x3300 + c) 0x13 n) :=
  ⟨State.count_keeps (by decide) (State.Keeps.refl _ s) _ _ _, Entries.setReg s _ _ _, rfl, fun _ h => h,
    (SameView.refl s).count (by omega) _ _⟩

theorem Noting.noteSectors (s : State) (nc : Fin 7) (dl : Option (BitVec 24)) (secs : List Nat) :
    Noting c s (s.noteSectors nc dl secs) :=
  ⟨State.noteSectors_keeps (by decide) (State.Keeps.refl _ s) _ _ _, (Entries.refl _ s).of_regs rfl, rfl,
    fun _ h => List.mem_append_left _ h, (SameView.refl s).noteSectors _ _ _⟩

/-- The note of a sector, at its home slice. -/
def State.noteOf (s : State) (nc : Fin 7) (sec : Nat) : Nat × Nat × Fin 7 × Option (BitVec 24) :=
  (256 * s.homeOf (32 * sec) + s.sliceOf (32 * sec), sec, nc, none)

theorem State.mem_noteSectors {nc : Fin 7} {secs : List Nat} {sec : Nat} (h : sec ∈ secs) :
    s.noteOf nc sec ∈ (s.noteSectors nc none secs).caddy.notes := by
  have hnew : s.noteOf nc sec ∈ secs.map (s.noteOf nc) := List.mem_map_of_mem h
  refine List.mem_append.2 ?_
  by_cases hold : s.noteOf nc sec ∈ s.caddy.notes
  · exact .inl hold
  · exact .inr (List.mem_filter.2 ⟨hnew, decide_eq_true hold⟩)

theorem SameView.noteOf (h : SameView s t) (nc : Fin 7) (sec : Nat) : t.noteOf nc sec = s.noteOf nc sec := by
  rw [State.noteOf, h.homeOf, h.sliceOf, State.noteOf]

/-- The sectors of a byte range of HBM that a prefetch fetches. -/
def State.rangeSectors (s : State) (base len : Nat) : List Nat :=
  s.prefetchSectors (base / 4096) (min ((base + len + 4095) / 4096) (hbmBytes / 4096) - base / 4096)

theorem SameView.rangeSectors (h : SameView s t) (base len : Nat) : t.rangeSectors base len = s.rangeSectors base len :=
  h.prefetchSectors _ _

theorem State.prefetchBy_notes (s : State) (cl base len : Nat) : Noting (caddyOf cl) s (s.prefetchBy cl base len)
    ∧ (len ≠ 0 → ∀ sec ∈ s.rangeSectors base len, s.noteOf 1 sec ∈ (s.prefetchBy cl base len).caddy.notes) := by
  unfold State.prefetchBy
  dsimp only
  generalize hv : (if s.farGranules cl base len = 0 then s else s.count (0x3300 + caddyOf cl) 0x13 (s.farGranules cl base len)) = v
  have hcounted : Noting (caddyOf cl) s v := by
    rw [← hv]
    split
    · exact .refl _ s
    · exact .count s _
  rw [State.prefetchBytes]
  split
  · next hzero => exact ⟨hcounted, fun h => absurd hzero h⟩
  · refine ⟨hcounted.trans (.noteSectors v _ _ _), fun _ sec hsec => ?_⟩
    rw [← hcounted.view.noteOf]
    rw [← hcounted.view.rangeSectors] at hsec
    exact State.mem_noteSectors hsec

end

/-! ### Prefetches of an issue set -/

section
variable {s t : State} {x : Ex} {th : Th} {a : Nat} {len : Src}

/-- One lane of PREFETCH. -/
def Ex.prefetchLane (x : Ex) (a : Nat) (len : Src) (l : Nat) (s : State) : State :=
  s.when (s.isLocal (s.rd2 x l a)) fun s' => s'.prefetchBy x.cl (addrLocal (s.rd2 x l a)) (s'.src x l len).toNat

/-- What a lane's prefetch is to note, as the lane stands in a state. -/
def State.toPrefetch (s : State) (x : Ex) (a : Nat) (len : Src) (l : Nat) : List Nat :=
  if s.isLocal (s.rd2 x l a) = true ∧ s.src x l len ≠ 0 then s.rangeSectors (addrLocal (s.rd2 x l a)) (s.src x l len).toNat else []

theorem Ex.prefetchLane_notes (x : Ex) (a : Nat) (len : Src) (l : Nat) (s : State) :
    Noting (caddyOf x.cl) s (x.prefetchLane a len l s)
      ∧ ∀ sec ∈ s.toPrefetch x a len l, s.noteOf 1 sec ∈ (x.prefetchLane a len l s).caddy.notes := by
  unfold State.toPrefetch Ex.prefetchLane
  cases hlocal : s.isLocal (s.rd2 x l a) with
  | false => exact ⟨.refl _ s, fun sec hsec => by simp at hsec⟩
  | true =>
    obtain ⟨hnoting, hnotes⟩ := s.prefetchBy_notes x.cl (addrLocal (s.rd2 x l a)) (s.src x l len).toNat
    refine ⟨hnoting, fun sec hsec => ?_⟩
    split at hsec
    · next h =>
      refine hnotes (fun hzero => h.2 ?_) sec hsec
      exact BitVec.eq_of_toNat_eq hzero
    · cases hsec

theorem State.thread_of_clusters (hc : t.clusters = s.clusters) (x : Ex) (l : Nat) : t.thread x l = s.thread x l := by
  simp only [State.thread, State.tg, State.cluster, hc]

/-- A lane reads the same where neither threads nor time have moved. -/
theorem State.src_of_clusters (hc : t.clusters = s.clusters) (ht : t.time = s.time) (x : Ex) (l : Nat) (r : Src) :
    t.src x l r = s.src x l r := by
  cases r <;> simp only [State.src, State.rd, State.thread, State.special, State.tg, State.cluster, hc, ht]

theorem Noting.toPrefetch (h : Noting (caddyOf x.cl) s t) (l : Nat) : t.toPrefetch x a len l = s.toPrefetch x a len l := by
  have hc : t.clusters = s.clusters := h.keeps.parts .clusters (by decide)
  have hsrc (r : Src) : t.src x l r = s.src x l r := State.src_of_clusters hc (h.keeps.parts .time (by decide)) x l r
  have hrd2 : t.rd2 x l a = s.rd2 x l a := State.rd2_of_rd (fun r => hsrc (.reg r)) a
  have hreg : t.reg 0x2910 1 = s.reg 0x2910 1 := h.entries _ _ (by simp [regKey]; omega)
  have hlocal : t.isLocal (s.rd2 x l a) = s.isLocal (s.rd2 x l a) := by
    rw [State.isLocal, State.node, State.fld, hreg]
    rfl
  rw [State.toPrefetch, hrd2, hlocal, hsrc, h.view.rangeSectors, State.toPrefetch]

theorem Ex.prefetchLanes_note (x : Ex) (a : Nat) (len : Src) (ls : List Nat) (s : State) :
    Noting (caddyOf x.cl) s (ls.foldl (fun s l => x.prefetchLane a len l s) s)
      ∧ ∀ l ∈ ls, ∀ sec ∈ s.toPrefetch x a len l,
          s.noteOf 1 sec ∈ (ls.foldl (fun s l => x.prefetchLane a len l s) s).caddy.notes := by
  induction ls generalizing s with
  | nil => exact ⟨.refl _ s, fun _ h => absurd h List.not_mem_nil⟩
  | cons l ls ih =>
    obtain ⟨hfirst, hmine⟩ := x.prefetchLane_notes a len l s
    obtain ⟨hrest, hothers⟩ := ih (x.prefetchLane a len l s)
    refine ⟨hfirst.trans hrest, fun m hm sec hsec => ?_⟩
    rcases List.mem_cons.1 hm with rfl | hm
    · exact hrest.notes _ (hmine sec hsec)
    · rw [← hfirst.view.noteOf]
      rw [← hfirst.toPrefetch (a := a) (len := len)] at hsec
      exact hothers m hm sec hsec

theorem prefetch_notes (hin : s.inHand th (a :: (a + 1) :: srcRegs len) (poisonBad (a :: (a + 1) :: srcRegs len)) x)
    (htog : s.together x) :
    Runs (.prefetch th a len) s [.regs, .clusters, .caddy] fun t => Went s t x x.lanes 1
      ∧ Entries [(0x3300 + caddyOf x.cl, 0x13)] s t
      ∧ t.caddy = { s.caddy with notes := t.caddy.notes } ∧ (∀ y ∈ s.caddy.notes, y ∈ t.caddy.notes)
      ∧ ∀ l ∈ x.lanes, At t x l (x.pc + th.size) ∧ Wrote s t x l []
        ∧ (s.isLocal (s.rd2 x l a) = true → s.src x l len ≠ 0 →
          ∀ sec ∈ s.rangeSectors (addrLocal (s.rd2 x l a)) (s.src x l len).toNat, s.noteOf 1 sec ∈ t.caddy.notes) := by
  have hadv := OnLanes.advance s x th.size
  have hadvkeeps : State.Keeps [.regs, .clusters, .caddy] s (s.advance x th.size) :=
    State.advance_keeps (by decide) (State.Keeps.refl _ s) _ _
  have hadvview : SameView s (s.advance x th.size) := ⟨fun _ _ _ => rfl, rfl, rfl, rfl, fun _ => rfl⟩
  have hprefetch (l : Nat) (hl : l ∈ x.lanes) (hlocal : s.isLocal (s.rd2 x l a) = true) (hlen : s.src x l len ≠ 0) :
      (s.advance x th.size).toPrefetch x a len l = s.rangeSectors (addrLocal (s.rd2 x l a)) (s.src x l len).toNat := by
    have hregs : ((s.advance x th.size).thread x l).regs = (s.thread x l).regs := by rw [State.advance_thread hin htog th.size hl]
    have hlocal' : (s.advance x th.size).isLocal (s.rd2 x l a) = true := hlocal
    rw [State.toPrefetch, State.rd2_of_advanced hin htog hl rfl, hadv.src hregs, if_pos ⟨hlocal', hlen⟩, hadvview.rangeSectors]
  obtain ⟨hnoting, hnotes⟩ := x.prefetchLanes_note a len x.lanes (s.advance x th.size)
  have hrun : exec (.prefetch th a len) s =
      .next ((x.lanes.foldl (fun s l => x.prefetchLane a len l s) (s.advance x th.size)).issued x 1) :=
    congrArg Host.Outcome.next (State.perLane_eq hin 1 fun x l s => x.prefetchLane a len l s)
  generalize x.lanes.foldl (fun s l => x.prefetchLane a len l s) (s.advance x th.size) = u at *
  have hclusters : u.clusters = (s.advance x th.size).clusters := hnoting.keeps.parts .clusters (by decide)
  have htg : u.tg x.cl = (s.advance x th.size).tg x.cl := by rw [State.tg, State.cluster_of_clusters hclusters, State.tg]
  have hthread (l : Nat) (hl : l ∈ x.lanes) : (u.issued x 1).thread x l = { s.thread x l with pc := x.pc + th.size } :=
    (u.issued_thread x 1 l).trans ((State.thread_of_clusters hclusters x l).trans (State.advance_thread hin htog th.size hl))
  refine ⟨_, hrun, (State.issued_keeps (by decide) (hadvkeeps.trans (State.Keeps.wider hnoting.keeps (by decide))) x 1).frame,
    .of_issued ((hnoting.keeps.parts .time (by decide)).trans hadv.time)
      (fun k hk => ?_) (fun k l hk => ?_) ?_ 1, ?_, hnoting.caddy, hnoting.notes,
    fun l hl => ⟨?_, ?_, fun hlocal hlen sec hsec => ?_⟩⟩
  · exact (State.cluster_of_clusters hclusters k).trans (hadv.others k hk)
  · rw [htg]
    exact hadv.tg.threads k l hk
  · rw [State.engine, State.cluster_of_clusters hclusters]
    exact hadv.engine
  · exact hnoting.entries
  · rw [At, hthread l hl]
    exact ⟨rfl, (htog l hl).1⟩
  · exact .of_rd (fun p hp => absurd hp List.not_mem_nil) (fun r _ => State.rd_of_thread (by rw [hthread l hl]) r)
      (by rw [hthread l hl])
  · rw [← hadvview.noteOf]
    exact hnotes l hl sec (by rwa [hprefetch l hl hlocal hlen])

end

/-- Settles O33: each lane comes to the instruction once and finds what it was issued with, so that the requests, the notes and
the registers are those of its lanes one by one. -/
theorem loadsAskAndReturn : Obligations.LoadsAskAndReturn :=
  ⟨fun _ _ _ _ _ _ hin htog => ⟨ld_hits hin htog, ld_misses hin htog⟩,
    fun _ _ _ _ _ _ => ldByp_asks, fun _ _ _ _ _ _ => ldDregs_asks,
    fun _ _ _ _ _ _ _ _ _ _ _ _ _ _ hreq hroute hstage hpurpose => loadReturn_writes hreq hpurpose hroute hstage,
    fun _ _ _ _ _ _ _ _ _ _ _ _ _ _ hreq hroute hstage hpurpose hjob => loadReturn_poisoned hreq hpurpose hroute hjob hstage,
    fun _ _ _ _ _ _ _ _ _ _ _ _ _ hreq _ hstage hpurpose hjob => loadReturn_refused hreq hpurpose hjob hstage,
    fun _ _ _ _ _ => prefetch_notes⟩

end Sys2Proof.Machine
end

section
/-! SUPPORT. Sectors of HBM: what a stack gives after a write, and what is decoded without wrong bits (R192, R195, R211). -/

namespace Sys2Proof.Machine

/-! ### The bytes of a sector -/

theorem leNat_leBytes (n v : Nat) : leNat (leBytes n v) = v % 256 ^ n := by
  induction n generalizing v with
  | zero => simp [leBytes, leNat, Nat.mod_one]
  | succ n ih =>
    rw [leBytes, leNat, ih, BitVec.toNat_ofNat, Nat.pow_succ' (n := n), Nat.mod_mul]

theorem bytesBv_bvBytes (v : BitVec 256) : bytesBv (bvBytes v) = v := by
  rw [bytesBv, bvBytes, leNat_leBytes, Nat.mod_eq_of_lt (v.isLt.trans_eq (by norm_num)), BitVec.ofNat_toNat, BitVec.setWidth_eq]

/-- A whole mask takes every byte. -/
theorem mergeBytes_allOnes (old new : BitVec 256) : mergeBytes old new (BitVec.allOnes 32) = new := by
  have hlen : (bvBytes old).length = 32 ∧ (bvBytes new).length = 32 := ⟨leBytes_length 32 _, leBytes_length 32 _⟩
  have htake : ((List.range 32).zip ((bvBytes old).zip (bvBytes new))).map
      (fun p => if (BitVec.allOnes 32).getLsbD p.1 then p.2.2 else p.2.1) = bvBytes new := by
    calc _ = ((List.range 32).zip ((bvBytes old).zip (bvBytes new))).map fun p => p.2.2 :=
          List.map_congr_left fun p hp => if_pos (by
            simp only [BitVec.getLsbD_allOnes, List.mem_range.1 (List.of_mem_zip hp).1, decide_true])
      _ = (((List.range 32).zip ((bvBytes old).zip (bvBytes new))).map Prod.snd).map Prod.snd := by rw [List.map_map]; rfl
      _ = bvBytes new := by rw [List.map_snd_zip (by simp [hlen]), List.map_snd_zip (by simp [hlen])]
  rw [mergeBytes, htake, bytesBv_bvBytes]

theorem Mem.read_write (m : Mem) (a : Nat) (bs : List Byte) : Mem.read (Mem.write m a bs) a bs.length = bs := by
  refine List.ext_getElem (by simp [Mem.read]) fun i _ hi => ?_
  simp [Mem.read, Mem.byte_write_in m a bs hi]

theorem mem_insertNat_iff {n : Nat} {l : List Nat} {x : Nat} : x ∈ insertNat n l ↔ x = n ∨ x ∈ l := by
  refine ⟨mem_insertNat, fun h => ?_⟩
  induction l with
  | nil => simpa [insertNat] using h
  | cons m l ih =>
    unfold insertNat
    split
    · simpa using h
    · simp only [List.mem_cons] at h ⊢
      tauto

/-! ### A sector in its stack (R192, R470) -/

section
variable {s : State} {sec : Nat}

theorem State.hbmPut_of_present (h : s.stackAbsent (s.stackOf (32 * sec)) = false) (v : BitVec 256) (p : Bool) :
    s.hbmPut sec v p = { s with hbm := { s.hbm with
      mem := Mem.write s.hbm.mem (s.cellOf sec) (bvBytes v)
      poison := if p then insertNat (s.cellOf sec / 32) (s.hbm.poison.filter (· ≠ s.cellOf sec / 32))
                else s.hbm.poison.filter (· ≠ s.cellOf sec / 32) } } := by
  simp only [State.hbmPut, h, Bool.false_eq_true, if_false]

/-- A sector reads as it was stored. -/
theorem State.hbmGet_hbmPut (h : s.stackAbsent (s.stackOf (32 * sec)) = false) (v : BitVec 256) (p : Bool) :
    (s.hbmPut sec v p).hbmGet sec = (v, p) := by
  rw [State.hbmPut_of_present h]
  generalize hu : ({ s with hbm := _ } : State) = u
  have habsent : u.stackAbsent (u.stackOf (32 * sec)) = false := by subst hu; exact h
  have hcell : u.cellOf sec = s.cellOf sec := by subst hu; rfl
  rw [State.hbmGet, habsent, hcell]
  subst hu
  refine Prod.ext ?_ ?_
  · have hread := Mem.read_write s.hbm.mem (s.cellOf sec) (bvBytes v)
    rw [show (bvBytes v).length = 32 from leBytes_length 32 _] at hread
    exact (congrArg bytesBv hread).trans (bytesBv_bvBytes v)
  · cases p <;> simp [mem_insertNat_iff]

/-- No other cell and no other mark of poison has changed. -/
theorem State.hbmPut_stored (v : BitVec 256) (p : Bool) : Stored [sec] s (s.hbmPut sec v p) := by
  intro a ha
  have hcell : a / 32 ≠ s.cellOf sec / 32 := ha sec (List.mem_singleton_self _)
  unfold State.hbmPut
  split
  · exact ⟨rfl, Iff.rfl⟩
  · refine ⟨Mem.byte_write_out _ _ _ ?_, ?_⟩
    · rw [bvBytes, leBytes_length]
      unfold State.cellOf at hcell ⊢
      omega
    · cases p <;> simp [mem_insertNat_iff, hcell]

theorem State.hbmPut_queue (v : BitVec 256) (p : Bool) : (s.hbmPut sec v p).hbm.queue = s.hbm.queue := by
  unfold State.hbmPut
  split <;> rfl

/-! ### Decoding without wrong bits (R194, R195) -/

theorem decodeSector_clean (v : BitVec 256) : decodeSector v false 0 .none = (.good, v) := by
  have hzero : syndrome 0 = (0, 0) := by decide +kernel
  simp only [decodeSector, Bool.false_eq_true, if_false, hzero, and_self, if_true]
  simp

theorem decodeSector_poison (v : BitVec 256) : decodeSector v true 0 .none = (.poison, v) := by
  have hflip : (0 : BitVec 288) ^^^ poisonFlip = poisonFlip := BitVec.zero_xor
  have hne : ¬ ((syndrome poisonFlip).1 = 0 ∧ (syndrome poisonFlip).2 = 0) := by decide +kernel
  simp only [decodeSector, if_true, hflip, if_neg hne]
  simp

end

end Sys2Proof.Machine
end

section
/-! SUPPORT. Reads that come back from a stack and writes that reach it (R192, R195, R211). -/

namespace Sys2Proof.Machine

/-! ### A fetched sector in its line (R159) -/

theorem Line.setBits_getLsbD (l : Line) {j : Nat} (hj : j < 4) (valid dirty poison : Bool) :
    (l.setBits j valid dirty poison).valid.getLsbD j = valid ∧ (l.setBits j valid dirty poison).dirty.getLsbD j = dirty
      ∧ (l.setBits j valid dirty poison).poison.getLsbD j = poison := by
  have hbit (x : BitVec 4) (v : Bool) :
      (if v then x ||| ((1 : BitVec 4) <<< j) else x &&& ~~~((1 : BitVec 4) <<< j)).getLsbD j = v := by
    cases v
    · exact getLsbD_and_not_one_shiftLeft x hj
    · exact getLsbD_or_one_shiftLeft x hj
  exact ⟨hbit _ _, hbit _ _, hbit _ _⟩

section
variable {s : State} {id : Nat} {q : HbmReq} {k : Nat}

/-- A line that the caddy holds takes a sector that it lacks. -/
theorem State.fillSector_present {sec : Nat} (hway : s.findWay (32 * sec) = some k)
    (hlacks : (s.line k).valid.getLsbD (sec % 4) = false) (v : BitVec 256) (p : Bool) (nc : Fin 7) :
    s.fillSector sec v p nc = s.setLine k (((s.line k).putSector (sec % 4) v).setBits (sec % 4) true false p) := by
  simp only [State.fillSector, State.wayOf, hway, hlacks, Bool.false_eq_true, if_false]

theorem State.sectorStays_keepSector (sec : Nat) (v : BitVec 256) (p : Bool) :
    (s.keepSector sec v p).sectorStays q = s.sectorStays q := by
  simp only [State.sectorStays, State.keepSector, List.any_map, Function.comp_def]
  congr 2
  funext r
  split <;> rfl

theorem State.keepSector_of_noneMissing (h : ∀ r ∈ s.reqs, r.stage ≠ .missing) (sec : Nat) (v : BitVec 256) (p : Bool) :
    s.keepSector sec v p = s := by
  have hmap : s.reqs.map (fun r =>
      if r.stage = .missing ∧ r.kind = .read ∧ sec ∈ s.needs r then { r with got := (sec, v, p) :: r.got } else r) = s.reqs :=
    (List.map_congr_left fun r hr => if_neg fun hm => h r hr hm.1).trans (List.map_id _)
  rw [State.keepSector, hmap]

theorem State.wake_of_noneMissing (h : ∀ r ∈ s.reqs, r.stage ≠ .missing) (sec : Nat) : s.wake sec = s := by
  have hnone : (s.reqs.filter fun r => r.stage == .missing
      && decide (sec ∈ sectorsOf (addrLocal r.addr) (max r.len r.data.length))) = [] :=
    List.filter_eq_nil_iff.2 fun r hr => by simp [h r hr]
  rw [State.wake, hnone, List.map_nil, List.foldl_nil]

/-! ### A read comes back -/

/-- What a returned read brings: the sector under the writes accepted since. -/
def State.fetched (s : State) (id : Nat) (q : HbmReq) : BitVec 256 × Bool :=
  (s.dropHbm id).overlay q.sector (s.hbmGet q.sector)

/-- The read has left the queue, and its sector stands at those that wait on it and in its way. -/
def State.sectorFilled (s : State) (id : Nat) (q : HbmReq) (k : Nat) : State :=
  ((s.dropHbm id).keepSector q.sector (s.fetched id q).1 (s.fetched id q).2).setLine k
    (((s.line k).putSector (q.sector % 4) (s.fetched id q).1).setBits (q.sector % 4) true false (s.fetched id q).2)

theorem State.sectorFilled_keeps (s : State) (id : Nat) (q : HbmReq) (k : Nat) :
    State.Keeps [.hbm, .caddy, .reqs] s (s.sectorFilled id q k) :=
  State.setLine_keeps (by decide)
    (State.keepSector_keeps (by decide) (State.dropHbm_keeps (by decide) (State.Keeps.refl _ s) _) _ _ _) _ _

/-- A read that may come back, without wrong bits, to a line that lacks its sector. -/
theorem State.sectorReturn_fills (hreq : s.hbmReq? id = some q) (hread : q.write = false) (hgrant : q.granted = true)
    (hscrub : q.scrub = false) (hfirst : s.hbmFirst q = true) (hself : s.hbm.selfRef = false)
    (hclean : (s.hbmGet q.sector).2 = false) (hstays : s.sectorStays q = true) (hway : s.findWay (32 * q.sector) = some k)
    (hlacks : (s.line k).valid.getLsbD (q.sector % 4) = false) :
    s.sectorReturn id 0 .none = ((s.sectorFilled id q k).wake q.sector).settle := by
  have hget : (s.dropHbm id).hbmGet q.sector = ((s.hbmGet q.sector).1, false) := Prod.ext rfl hclean
  have hdecode : (s.dropHbm id).decodeAt q.sector 0 .none = (s.dropHbm id, (s.hbmGet q.sector).1, false) := by
    rw [State.decodeAt, hget, decodeSector_clean]
    rfl
  have hfetched : (s.dropHbm id).overlay q.sector ((s.hbmGet q.sector).1, false) = s.fetched id q := by
    rw [← hclean, State.fetched]
  have hstays' : (s.dropHbm id).sectorStays q = true := hstays
  have hfill := State.fillSector_present (s := (s.dropHbm id).keepSector q.sector (s.fetched id q).1 (s.fetched id q).2)
    hway hlacks (s.fetched id q).1 (s.fetched id q).2 q.nc
  simp only [State.sectorReturn, hreq, hread, hgrant, hscrub, hfirst, hself, Bool.not_false, Bool.and_self, if_true,
    Bool.false_eq_true, if_false, hdecode, State.deliver, hfetched, State.sectorStays_keepSector, hstays', hfill]
  rfl

/-- What the line and the queue hold then. -/
theorem State.sectorFilled_facts (s : State) (id : Nat) (q : HbmReq) (k : Nat) :
    ((s.sectorFilled id q k).line k).sector (q.sector % 4) = (s.fetched id q).1
      ∧ ((s.sectorFilled id q k).line k).valid.getLsbD (q.sector % 4) = true
      ∧ ((s.sectorFilled id q k).line k).dirty.getLsbD (q.sector % 4) = false
      ∧ ((s.sectorFilled id q k).line k).poison.getLsbD (q.sector % 4) = (s.fetched id q).2
      ∧ (∀ j, j ≠ k → (s.sectorFilled id q k).line j = s.line j)
      ∧ (s.sectorFilled id q k).hbm = { s.hbm with queue := s.hbm.queue.filter fun p => p.id ≠ id } := by
  have hj : q.sector % 4 < 4 := Nat.mod_lt _ (by decide)
  have hbits := Line.setBits_getLsbD ((s.line k).putSector (q.sector % 4) (s.fetched id q).1) hj true false (s.fetched id q).2
  rw [State.sectorFilled, State.line_setLine_self]
  exact ⟨Line.sector_putSector _ hj _, hbits.1, hbits.2.1, hbits.2.2, fun j hne => State.line_setLine_ne _ _ hne, rfl⟩

/-- Where no request waits for a fetch, none is changed. -/
theorem State.sectorFilled_reqs (h : ∀ r ∈ s.reqs, r.stage ≠ .missing) (k : Nat) :
    (s.sectorFilled id q k).reqs = s.reqs := by
  rw [State.sectorFilled, State.keepSector_of_noneMissing (s := s.dropHbm id) h]
  rfl

theorem State.sectorFilled_keeps_of_noneMissing (h : ∀ r ∈ s.reqs, r.stage ≠ .missing) (k : Nat) :
    State.Keeps [.hbm, .caddy] s (s.sectorFilled id q k) := by
  rw [State.sectorFilled, State.keepSector_of_noneMissing (s := s.dropHbm id) h]
  exact State.setLine_keeps (by decide) (State.dropHbm_keeps (by decide) (State.Keeps.refl _ s) _) _ _

/-- Where besides nothing is to be heard of, the return changes nothing more. -/
theorem State.sectorFilled_settles (h : ∀ r ∈ s.reqs, r.stage ≠ .missing) (hheard : s.allHeard) (k : Nat) :
    ((s.sectorFilled id q k).wake q.sector).settle = s.sectorFilled id q k := by
  have hreqs := State.sectorFilled_reqs (id := id) (q := q) h k
  have hheard' : (s.sectorFilled id q k).allHeard :=
    State.allHeard_of hheard (hreqs ▸ hheard.1) rfl rfl rfl
  rw [State.wake_of_noneMissing (hreqs ▸ h), State.settle_of_allHeard hheard']

theorem hbmSectorReadReturn_fills (hreq : s.hbmReq? id = some q) (hread : q.write = false) (hgrant : q.granted = true)
    (hscrub : q.scrub = false) (hfirst : s.hbmFirst q = true) (hself : s.hbm.selfRef = false)
    (hclean : (s.hbmGet q.sector).2 = false) (hstays : s.sectorStays q = true) (hway : s.findWay (32 * q.sector) = some k)
    (hlacks : (s.line k).valid.getLsbD (q.sector % 4) = false) :
    (∃ u, exec (.hbmSectorReadReturn id 0 .none) s = .next (u.wake q.sector).settle ∧ Frame [.hbm, .caddy, .reqs] s u
      ∧ (u.line k).sector (q.sector % 4) = ((s.dropHbm id).overlay q.sector (s.hbmGet q.sector)).1
      ∧ (u.line k).valid.getLsbD (q.sector % 4) = true ∧ (u.line k).dirty.getLsbD (q.sector % 4) = false
      ∧ (u.line k).poison.getLsbD (q.sector % 4) = ((s.dropHbm id).overlay q.sector (s.hbmGet q.sector)).2
      ∧ (∀ j, j ≠ k → u.line j = s.line j)
      ∧ u.hbm = { s.hbm with queue := s.hbm.queue.filter fun p => p.id ≠ id })
    ∧ ((∀ r ∈ s.reqs, r.stage ≠ .missing) → s.allHeard →
      Runs (.hbmSectorReadReturn id 0 .none) s [.hbm, .caddy] fun t =>
        (t.line k).sector (q.sector % 4) = ((s.dropHbm id).overlay q.sector (s.hbmGet q.sector)).1
        ∧ (t.line k).valid.getLsbD (q.sector % 4) = true ∧ (t.line k).dirty.getLsbD (q.sector % 4) = false
        ∧ (∀ j, j ≠ k → t.line j = s.line j)
        ∧ t.hbm = { s.hbm with queue := s.hbm.queue.filter fun p => p.id ≠ id }) := by
  have hrun : exec (.hbmSectorReadReturn id 0 .none) s = .next ((s.sectorFilled id q k).wake q.sector).settle :=
    congrArg Host.Outcome.next
      (State.sectorReturn_fills hreq hread hgrant hscrub hfirst hself hclean hstays hway hlacks)
  obtain ⟨hsector, hvalid, hdirty, hpoison, hothers, hhbm⟩ := s.sectorFilled_facts id q k
  refine ⟨⟨_, hrun, (s.sectorFilled_keeps id q k).frame, hsector, hvalid, hdirty, hpoison, hothers, hhbm⟩,
    fun hnone hheard => ?_⟩
  rw [State.sectorFilled_settles hnone hheard] at hrun
  exact ⟨_, hrun, (State.sectorFilled_keeps_of_noneMissing hnone k).frame, hsector, hvalid, hdirty, hothers, hhbm⟩

/-! ### A write reaches its stack -/

/-- A sector as a write without wrong bits leaves it: of part of a poisoned one, poisoned. -/
def State.written (s : State) (q : HbmReq) : BitVec 256 × Bool :=
  (mergeBytes (s.hbmGet q.sector).1 q.data q.mask, q.poisoned || ((s.hbmGet q.sector).2 && q.mask != BitVec.allOnes 32))

theorem State.writeIssue_puts (hreq : s.hbmReq? id = some q) (hwrite : q.write = true) (hgrant : q.granted = true)
    (hfirst : s.hbmFirst q = true) (hself : s.hbm.selfRef = false) :
    s.writeIssue id 0 .none = (s.dropHbm id).hbmPut q.sector (s.written q).1 (s.written q).2 := by
  simp only [State.writeIssue, hreq, hwrite, hgrant, hfirst, hself, Bool.not_false, Bool.and_self, if_true, State.written]
  by_cases hmask : q.mask = BitVec.allOnes 32
  · rw [if_pos hmask, hmask, mergeBytes_allOnes]
    simp
  · have hpart : (q.mask != BitVec.allOnes 32) = true := bne_iff_ne.2 hmask
    rw [if_neg hmask, hpart]
    cases (s.hbmGet q.sector).2
    · rw [decodeSector_clean]
      rfl
    · rw [decodeSector_poison]
      rfl

theorem hbmWriteIssue_writes (hreq : s.hbmReq? id = some q) (hwrite : q.write = true) (hgrant : q.granted = true)
    (hfirst : s.hbmFirst q = true) (hself : s.hbm.selfRef = false)
    (hpresent : s.stackAbsent (s.stackOf (32 * q.sector)) = false) :
    Runs (.hbmWriteIssue id 0 .none) s [.hbm] fun t =>
      t.hbmGet q.sector = (mergeBytes (s.hbmGet q.sector).1 q.data q.mask,
        q.poisoned || ((s.hbmGet q.sector).2 && q.mask != BitVec.allOnes 32))
      ∧ Stored [q.sector] s t ∧ t.hbm.queue = s.hbm.queue.filter fun p => p.id ≠ id := by
  refine ⟨_, congrArg Host.Outcome.next (State.writeIssue_puts hreq hwrite hgrant hfirst hself), ?_, ?_, ?_, ?_⟩
  · exact (State.hbmPut_keeps (by decide) (State.dropHbm_keeps (by decide) (State.Keeps.refl _ s) _) _ _ _).frame
  · exact State.hbmGet_hbmPut (s := s.dropHbm id) hpresent _ _
  · exact State.hbmPut_stored (s := s.dropHbm id) _ _
  · exact State.hbmPut_queue _ _

end

/-- Settles O18: a read that comes back is its sector under the queued writes, and a write that reaches its stack stores the
sector under its mask; neither finds wrong bits. -/
theorem hbmReadReturnsAndWriteIssues : Obligations.HbmReadReturnsAndWriteIssues :=
  ⟨fun _ _ _ _ => hbmSectorReadReturn_fills, fun _ _ _ => hbmWriteIssue_writes⟩

end Sys2Proof.Machine
end

section
/-! SUPPORT. Temperature reports of the stacks, refresh, and detectors that are freed (R193, R196, R197, R457). -/

namespace Sys2Proof.Machine

/-! ### Bands (R196) -/

theorem nextBand_lt (band : Nat) (t : Int) : nextBand band t < 4 := by
  have hfound {l : List Nat} {p : Nat → Bool} (hl : ∀ b ∈ l, b < 4) : (l.find? p).getD 0 < 4 := by
    cases hf : l.find? p with
    | none => decide
    | some b => exact hl b (List.mem_of_find?_eq_some hf)
  unfold nextBand
  extract_lets up up'
  split
  · exact hfound (by decide)
  · exact hfound fun b hb => by
      have hall : ∀ b ∈ [3, 2, 1], b < 4 := by decide
      exact hall b (List.mem_filter.1 hb).1

section
variable (s : State) (st : Nat) (temp : Int)

/-- The stack with the band that ends, where the report changes it. -/
def State.bandNoted : State :=
  if nextBand (s.band st) temp = s.band st then s else { s with hbm := { s.hbm with
    bands := Tbl.put [] s.hbm.bands st ((s.band st, s.time.now) :: Tbl.get [] s.hbm.bands st) } }

theorem State.hbmTemp_eq : s.hbmTemp st temp = ((s.bandNoted st temp).setFld 0x2401 (st + 1) 11 4
    (BitVec.ofInt 8 temp).toNat).setFld 0x2401 (st + 1) 1 0 (nextBand (s.band st) temp) := rfl

theorem State.bandNoted_regs : (s.bandNoted st temp).regs = s.regs := by
  unfold State.bandNoted
  split <;> rfl

theorem State.bandNoted_hbm : (s.bandNoted st temp).hbm = { s.hbm with bands := (s.bandNoted st temp).hbm.bands } := by
  unfold State.bandNoted
  split <;> rfl

theorem State.bandNoted_bands (h : nextBand (s.band st) temp ≠ s.band st) :
    Tbl.get [] (s.bandNoted st temp).hbm.bands st = (s.band st, s.time.now) :: Tbl.get [] s.hbm.bands st := by
  rw [State.bandNoted, if_neg h]
  exact Tbl.get_put_self [] s.hbm.bands st ((s.band st, s.time.now) :: Tbl.get [] s.hbm.bands st)

/-- What a report shows. -/
theorem State.hbmTemp_shows : (s.hbmTemp st temp).fld 0x2401 (st + 1) 11 4 = (BitVec.ofInt 8 temp).toNat
    ∧ (s.hbmTemp st temp).fld 0x2401 (st + 1) 1 0 = nextBand (s.band st) temp
    ∧ Entries [(0x2401, st + 1)] s (s.hbmTemp st temp) := by
  rw [State.hbmTemp_eq]
  refine ⟨?_, ?_, ?_⟩
  · rw [State.fld_setFld_apart _ _ _ _ (by decide) (by decide) (by decide) (by decide),
      State.fld_setFld_self _ _ _ _ (by decide) (by decide)]
    exact Nat.mod_eq_of_lt (BitVec.isLt _)
  · rw [State.fld_setFld_self _ _ _ _ (by decide) (by decide)]
    exact Nat.mod_eq_of_lt (nextBand_lt _ _)
  · exact (((Entries.refl _ s).of_regs (s.bandNoted_regs st temp)).write (List.mem_singleton_self _) _).write
      (List.mem_singleton_self _) _

theorem State.hbmTemp_hbm : (s.hbmTemp st temp).hbm = { s.hbm with bands := (s.hbmTemp st temp).hbm.bands } :=
  s.bandNoted_hbm st temp

/-! ### The limit on a hot stack's bandwidth (R457) -/

/-- A stack held to half bandwidth. -/
def State.slowed : State := { s with hbm := { s.hbm with slow := s.hbm.slow ||| (1 <<< st) } }

theorem State.slowed_slow (hst : st < 8) : (s.slowed st).hbm.slow.getLsbD st = true := by
  have hslow : (s.slowed st).hbm.slow = s.hbm.slow ||| BitVec.ofNat 8 (1 <<< st) := rfl
  rw [hslow, BitVec.getLsbD_or, BitVec.getLsbD_ofNat, Nat.one_shiftLeft, Nat.testBit_two_pow_self]
  simp [hst]

theorem State.hbmThrottle_eq : s.hbmThrottle st temp = if 95 ≤ temp ∧ s.hbm.slow.getLsbD st = false then
      (s.slowed st).event 0x2220 1 1
    else if temp < 90 then { s with hbm := { s.hbm with slow := s.hbm.slow &&& ~~~((1 : BitVec 8) <<< st) } }
    else s := rfl

theorem State.slowed_event_hbm : ((s.slowed st).event 0x2220 1 1).hbm = (s.slowed st).hbm :=
  (State.event_keeps (List.Subset.refl _) (State.Keeps.refl _ (s.slowed st)) _ _ _).parts .hbm (by decide)

theorem State.hbmThrottle_entries : Entries [(0x2220, 1), (0x3001, 0x0B)] s (s.hbmThrottle st temp) := by
  have hrefl := Entries.refl [(0x2220, 1), (0x3001, 0x0B)] s
  rw [State.hbmThrottle_eq]
  split
  · have hslowed : Entries [(0x2220, 1), (0x3001, 0x0B)] s (s.slowed st) := hrefl.of_regs rfl
    exact State.event_entries (List.mem_cons_self ..) (by decide) hslowed _
  · split
    · exact hrefl.of_regs rfl
    · exact hrefl

/-- Of HBM a report changes which stacks are held, beside the band. -/
theorem State.hbmThrottle_hbm : (s.hbmThrottle st temp).hbm = { s.hbm with slow := (s.hbmThrottle st temp).hbm.slow } := by
  rw [State.hbmThrottle_eq]
  split
  · rw [State.slowed_event_hbm]
    rfl
  · split <;> rfl

variable {s st temp}

theorem State.hbmThrottle_start (h95 : 95 ≤ temp) (hslow : s.hbm.slow.getLsbD st = false) :
    s.hbmThrottle st temp = (s.slowed st).event 0x2220 1 1 :=
  if_pos ⟨h95, hslow⟩

theorem State.hbmThrottle_slow_hot (hst : st < 8) (h95 : 95 ≤ temp) : (s.hbmThrottle st temp).hbm.slow.getLsbD st = true := by
  cases hslow : s.hbm.slow.getLsbD st with
  | false =>
    rw [State.hbmThrottle_start h95 hslow, State.slowed_event_hbm, State.slowed_slow _ _ hst]
  | true =>
    rw [State.hbmThrottle, if_neg (by simp [hslow]), if_neg (by omega), hslow]

theorem State.hbmThrottle_slow_cool (hst : st < 8) (h90 : temp < 90) : (s.hbmThrottle st temp).hbm.slow.getLsbD st = false := by
  rw [State.hbmThrottle, if_neg (by omega), if_pos h90]
  simp [hst]

theorem State.hbmThrottle_between (h90 : 90 ≤ temp) (h95 : temp < 95) : s.hbmThrottle st temp = s := by
  rw [State.hbmThrottle, if_neg (by omega), if_neg (by omega)]

theorem State.hbmThrottle_event (h95 : 95 ≤ temp) (hslow : s.hbm.slow.getLsbD st = false)
    (hheld : s.heldClear 0x2220 1 1 = false) : (s.hbmThrottle st temp).bit 0x2220 1 1 = true := by
  rw [State.hbmThrottle_start h95 hslow]
  exact State.bit_event_self (by decide) (by decide) hheld

end

theorem hbmTemperatureReport_shows (s : State) (st : Stack) (temp : Int) :
    Runs (.hbmTemperatureReport st temp) s [.regs, .hbm, .link, .can, .out] fun t =>
      t.fld 0x2401 (st.val + 1) 11 4 = (BitVec.ofInt 8 temp).toNat
      ∧ t.fld 0x2401 (st.val + 1) 1 0 = nextBand (s.fld 0x2401 (st.val + 1) 1 0) temp
      ∧ (nextBand (s.band st.val) temp ≠ s.band st.val →
          Tbl.get [] t.hbm.bands st.val = (s.band st.val, s.time.now) :: Tbl.get [] s.hbm.bands st.val)
      ∧ (95 ≤ temp → t.hbm.slow.getLsbD st.val = true)
      ∧ (95 ≤ temp → s.hbm.slow.getLsbD st.val = false → s.heldClear 0x2220 1 1 = false → t.bit 0x2220 1 1 = true)
      ∧ (temp < 90 → t.hbm.slow.getLsbD st.val = false)
      ∧ (90 ≤ temp → temp < 95 → t.hbm.slow = s.hbm.slow)
      ∧ t.hbm = { s.hbm with slow := t.hbm.slow, bands := t.hbm.bands }
      ∧ Entries [(0x2401, st.val + 1), (0x2220, 1), (0x3001, 0x0B)] s t := by
  have hst := st.isLt
  have hshown : State.Keeps [.regs, .hbm] s (s.hbmTemp st.val temp) :=
    State.hbmTemp_keeps (List.Subset.refl _) (State.Keeps.refl _ s) _ _
  have hkeeps := State.hbmThrottle_keeps (C := [.regs, .hbm, .link, .can, .out]) (by decide)
    (State.hbmTemp_keeps (by decide) (State.Keeps.refl _ s) st.val temp) st.val temp
  obtain ⟨htemp, hband, hentries⟩ := s.hbmTemp_shows st.val temp
  have hbands : (nextBand (s.band st.val) temp ≠ s.band st.val →
      Tbl.get [] (s.hbmTemp st.val temp).hbm.bands st.val = (s.band st.val, s.time.now) :: Tbl.get [] s.hbm.bands st.val) :=
    s.bandNoted_bands st.val temp
  have hhbm := s.hbmTemp_hbm st.val temp
  have hheld := State.heldClear_congr (hshown.parts .cleared (by decide)) (hshown.parts .time (by decide)) 0x2220 1 1
  have hrun : exec (.hbmTemperatureReport st temp) s = .next ((s.hbmTemp st.val temp).hbmThrottle st.val temp) := rfl
  generalize s.hbmTemp st.val temp = u at *
  have hslow : u.hbm.slow = s.hbm.slow := by rw [hhbm]
  have hthrottled := u.hbmThrottle_hbm st.val temp
  have hthrottle := u.hbmThrottle_entries st.val temp
  have hkey : ∀ k ∈ [(0x2220, 1), (0x3001, 0x0B)], regKey 0x2401 (st.val + 1) ≠ regKey k.1 k.2 := by
    intro k hk
    simp only [List.mem_cons, List.not_mem_nil, or_false] at hk
    obtain rfl | rfl := hk <;> exact regKey_ne_of_idx (by omega) (by decide) (by decide)
  have hreg := hthrottle _ _ hkey
  refine ⟨_, hrun, hkeeps.frame, ?_, ?_, fun hne => ?_, State.hbmThrottle_slow_hot hst, fun h95 hs hh => ?_,
    State.hbmThrottle_slow_cool hst, fun h90 h95 => ?_, ?_, fun i j hk => ?_⟩
  · rw [State.fld, hreg]
    exact htemp
  · rw [State.fld, hreg]
    exact hband
  · rw [hthrottled]
    exact hbands hne
  · exact State.hbmThrottle_event h95 (hslow ▸ hs) (hheld.trans hh)
  · rw [State.hbmThrottle_between h90 h95, hslow]
  · rw [hthrottled, hhbm]
  · exact (hthrottle i j fun k hm => hk k (List.mem_cons_of_mem _ hm)).trans
      (hentries i j fun k hm => hk k (List.mem_cons.2 (.inl (List.mem_singleton.1 hm))))

/-! ### Refresh (R196, R197) -/

theorem hbmRefresh_refreshes {s : State} {st : Stack} {ch : Fin 32} {pc : Fin 2} {bank : Nat} (hself : s.hbm.selfRef = false)
    (hpresent : s.stackAbsent st.val = false)
    (hdue : s.passedNs (Tbl.get 0 s.hbm.refresh (bankKey st.val ch.val pc.val bank))
        (bandNs (s.fld 0x2401 (st.val + 1) 1 0)) = true
      ∨ ∃ b ∈ Tbl.get [] s.hbm.bands st.val,
          Tbl.get 0 s.hbm.refresh (bankKey st.val ch.val pc.val bank) + bandNs b.1 * nsUnits ≤ b.2) :
    Runs (.hbmRefresh st ch pc bank) s [.hbm] fun t =>
      Tbl.get 0 t.hbm.refresh (bankKey st.val ch.val pc.val bank) = s.time.now
      ∧ t.hbm = { s.hbm with refresh := t.hbm.refresh }
      ∧ ∀ k, k ≠ bankKey st.val ch.val pc.val bank → Tbl.get 0 t.hbm.refresh k = Tbl.get 0 s.hbm.refresh k := by
  have hrefresh : s.refreshDue st.val (Tbl.get 0 s.hbm.refresh (bankKey st.val ch.val pc.val bank)) = true := by
    rw [State.refreshDue, State.wasDue, Bool.or_eq_true, List.any_eq_true]
    exact hdue.imp id fun ⟨b, hb, hle⟩ => ⟨b, hb, decide_eq_true hle⟩
  have hrun : s.refresh st.val ch.val pc.val bank = { s with hbm := { s.hbm with
      refresh := Tbl.put 0 s.hbm.refresh (bankKey st.val ch.val pc.val bank) s.time.now } } := by
    simp only [State.refresh, State.when, hrefresh, hself, hpresent, Bool.not_false, Bool.and_self, if_true]
  have hframe := (State.refresh_keeps (List.Subset.refl _) (State.Keeps.refl _ s) st.val ch.val pc.val bank).frame
  rw [hrun] at hframe
  exact ⟨_, congrArg Host.Outcome.next hrun, hframe, Tbl.get_put_self _ _ _ _, rfl, fun k hk => Tbl.get_put_ne _ _ _ _ hk⟩

/-! ### Detectors (R193) -/

theorem streamDetectorFree_frees {s : State} {cad : Cad} {det : Fin 64} {d : Detector}
    (hdet : s.detector cad.val det.val = some d) :
    (d.lastHit + 4096 ≤ s.time.core →
      Runs (.streamDetectorFree cad det) s [.caddy] fun t =>
        t.detector cad.val det.val = none ∧ t.caddy.lines = s.caddy.lines
        ∧ ∀ i, i ≠ det.val → i < 64 → t.detector cad.val i = s.detector cad.val i)
    ∧ (s.time.core < d.lastHit + 4096 → exec (.streamDetectorFree cad det) s = .next s) := by
  have hframe := (State.freeDetector_keeps (List.Subset.refl _) (State.Keeps.refl _ s) cad.val det.val).frame
  refine ⟨fun hpast => ?_, fun hwithin => congrArg Host.Outcome.next ?_⟩
  · have hrun : s.freeDetector cad.val det.val =
        { s with caddy := { s.caddy with detect := s.caddy.detect.del (64 * cad.val + det.val) } } := by
      simp only [State.freeDetector, hdet, State.passedClk, hpast, decide_true, if_true]
    rw [hrun] at hframe
    exact ⟨_, congrArg Host.Outcome.next hrun, hframe, Tbl.find_del_self _ _, rfl,
      fun i hi _ => Tbl.find_del_ne _ (by omega)⟩
  · simp only [State.freeDetector, hdet, State.passedClk, decide_eq_false (Nat.not_le.2 hwithin), Bool.false_eq_true, if_false]

/-- Settles O19: a report is shown and then throttles or releases its stack, each in entries of its own. -/
theorem hbmTemperatureRefreshAndDetectors : Obligations.HbmTemperatureRefreshAndDetectors :=
  ⟨hbmTemperatureReport_shows, fun _ _ _ _ _ => hbmRefresh_refreshes, fun _ _ _ _ => streamDetectorFree_frees⟩

end Sys2Proof.Machine
end

section
/-! SUPPORT. Whom an arbitration point grants (R28, R199, R200, R202). -/

namespace Sys2Proof.Machine

/-! ### The first of a list -/

section
variable {α : Type} {before : α → α → Bool}

theorem firstBy_mem {l : List α} {x : α} (h : firstBy before l = some x) : x ∈ l := by
  induction l generalizing x with
  | nil => cases h
  | cons y ys ih =>
    unfold firstBy at h
    split at h
    · cases h
      exact List.mem_cons_self ..
    · next z hz =>
      split at h <;> cases h
      · exact List.mem_cons_of_mem _ (ih hz)
      · exact List.mem_cons_self ..

theorem firstBy_isSome {l : List α} (h : l ≠ []) : (firstBy before l).isSome = true := by
  cases l with
  | nil => exact absurd rfl h
  | cons y ys =>
    unfold firstBy
    split
    · rfl
    · split <;> rfl

end

/-! ### The weighted branch (R201, R202) -/

theorem mem_classesOf {ws : List Waiter} {c : Fin 7} : c ∈ classesOf ws ↔ ∃ w ∈ ws, w.nc = c := by
  simp [classesOf]

/-- The classes that may be granted: those of nonzero weight, or all where no other waits. -/
def State.ableClasses (s : State) (cs : List (Fin 7)) : List (Fin 7) :=
  if cs.any fun c => decide ((s.ncWeight c.val : Int) ≠ 0) then cs.filter fun c => decide ((s.ncWeight c.val : Int) ≠ 0) else cs

theorem State.ableClasses_ne_nil (s : State) {cs : List (Fin 7)} (h : cs ≠ []) : s.ableClasses cs ≠ [] := by
  unfold State.ableClasses
  split
  · next hany =>
    obtain ⟨c, hc, hweight⟩ := List.any_eq_true.1 hany
    exact List.ne_nil_of_mem (List.mem_filter.2 ⟨hc, hweight⟩)
  · exact h

theorem State.mem_of_mem_ableClasses {s : State} {cs : List (Fin 7)} {c : Fin 7} (h : c ∈ s.ableClasses cs) : c ∈ cs := by
  unfold State.ableClasses at h
  split at h
  · exact (List.mem_filter.1 h).1
  · exact h

/-- A class of weight 0 may be granted only where no weighted class waits. -/
theorem State.ncWeight_of_able_zero {s : State} {cs : List (Fin 7)} {c : Fin 7} (h : c ∈ s.ableClasses cs)
    (hzero : s.ncWeight c.val = 0) : ∀ d ∈ cs, s.ncWeight d.val = 0 := by
  unfold State.ableClasses at h
  split at h
  · simp [hzero] at h
  · next hnone =>
    intro d hd
    by_contra hne
    exact hnone (List.any_eq_true.2 ⟨d, hd, by simp [hne]⟩)

/-- The weighted branch takes the first of the classes that may be granted, by some order. -/
theorem State.weighted_eq (s : State) (credit : List Int) (ws : List Waiter) : ∃ before f,
    s.weighted credit ws = (firstBy before (s.ableClasses (classesOf ws))).map f ∧ ∀ c, (f c).1 = c :=
  ⟨_, _, rfl, fun _ => rfl⟩

theorem State.weighted_isSome (s : State) (credit : List Int) {ws : List Waiter} (h : ws ≠ []) :
    (s.weighted credit ws).isSome = true := by
  obtain ⟨before, f, heq, -⟩ := s.weighted_eq credit ws
  obtain ⟨w, hw⟩ := List.exists_mem_of_ne_nil ws h
  have hclasses : classesOf ws ≠ [] := List.ne_nil_of_mem (mem_classesOf.2 ⟨w, hw, rfl⟩)
  rw [heq, Option.isSome_map]
  exact firstBy_isSome (s.ableClasses_ne_nil hclasses)

theorem State.weighted_able {s : State} {credit credit' : List Int} {ws : List Waiter} {c : Fin 7}
    (h : s.weighted credit ws = some (c, credit')) : c ∈ s.ableClasses (classesOf ws) := by
  obtain ⟨before, f, heq, hf⟩ := s.weighted_eq credit ws
  rw [heq] at h
  obtain ⟨d, hd, hfd⟩ := Option.map_eq_some_iff.1 h
  have hdc : d = c := (hf d).symm.trans (congrArg Prod.fst hfd)
  exact hdc ▸ firstBy_mem hd

/-! ### One grant (R199, R200) -/

section
variable {s : State} {a a' : ArbState} {ws : List Waiter} {w : Waiter} {dl : Bool}

theorem State.grant_isSome (h : ws ≠ []) : (s.grant a ws).isSome = true := by
  unfold State.grant
  extract_lets recent dls
  split
  · next hbranch =>
    rw [Option.isSome_map]
    exact firstBy_isSome hbranch.1
  · obtain ⟨⟨c, credit⟩, hweighted⟩ := Option.isSome_iff_exists.1 (s.weighted_isSome a.credit h)
    obtain ⟨x, hx, hclass⟩ := mem_classesOf.1 (State.mem_of_mem_ableClasses (State.weighted_able hweighted))
    have hmine : ws.filter (fun w => w.nc == c) ≠ [] :=
      List.ne_nil_of_mem (List.mem_filter.2 ⟨hx, beq_iff_eq.2 hclass⟩)
    simp only [hweighted, Option.bind_some, Option.isSome_map]
    exact firstBy_isSome hmine

/-- A grant is of a waiter, by its deadline or by the weight of its class, and is remembered. -/
theorem State.grant_spec (h : s.grant a ws = some (w, dl, a')) :
    w ∈ ws ∧ (dl = true → w.deadline.isSome = true) ∧ a'.last = (dl :: a.last).take 64
      ∧ (dl = false → s.ncWeight w.nc.val = 0 → ∀ x ∈ ws, s.ncWeight x.nc.val = 0) := by
  unfold State.grant at h
  extract_lets recent dls at h
  split at h
  · obtain ⟨x, hx, heq⟩ := Option.map_eq_some_iff.1 h
    obtain ⟨rfl, rfl, rfl⟩ : x = w ∧ true = dl ∧ { a with last := (true :: a.last).take 64 } = a' := by simpa using heq
    obtain ⟨hmem, hdeadline⟩ := List.mem_filter.1 (firstBy_mem hx)
    exact ⟨hmem, fun _ => hdeadline, rfl, fun hfalse => absurd hfalse (by decide)⟩
  · obtain ⟨⟨c, credit⟩, hweighted, hgrant⟩ := Option.bind_eq_some_iff.1 h
    obtain ⟨x, hx, heq⟩ := Option.map_eq_some_iff.1 hgrant
    obtain ⟨rfl, rfl, rfl⟩ :
        x = w ∧ false = dl ∧ { a with credit := credit, last := (false :: a.last).take 64 } = a' := by simpa using heq
    obtain ⟨hmem, hclass⟩ := List.mem_filter.1 (firstBy_mem hx)
    have hable := State.weighted_able hweighted
    rw [← eq_of_beq hclass] at hable
    exact ⟨hmem, fun htrue => absurd htrue (by decide), rfl,
      fun _ hzero y hy => State.ncWeight_of_able_zero hable hzero _ (mem_classesOf.2 ⟨y, hy, rfl⟩)⟩

/-! ### A channel of two leaves (R28) -/

/-- Where a channel is contested, both leaves wait there. -/
theorem State.contested_waits {p : ArbPoint} (h : s.contested p ws = true) (upper : Bool) :
    ws.filter (fun w => s.fromUpper w == upper) ≠ [] := by
  obtain ⟨cad, ch, rfl⟩ : ∃ cad ch, p = .channel cad ch true := by
    unfold State.contested at h
    split at h
    · exact ⟨_, _, rfl⟩
    · cases h
  simp only [State.contested, Bool.and_eq_true, List.any_eq_true] at h
  obtain ⟨⟨-, x, hx, hup⟩, y, hy, hlow⟩ := h
  cases upper
  · exact List.ne_nil_of_mem (List.mem_filter.2 ⟨hy, by simpa using hlow⟩)
  · exact List.ne_nil_of_mem (List.mem_filter.2 ⟨hx, by simpa using hup⟩)

theorem State.grantAt_isSome (p : ArbPoint) (h : ws ≠ []) : (s.grantAt p a ws).isSome = true := by
  unfold State.grantAt
  split
  · next hcontested =>
    rw [Option.isSome_map]
    exact State.grant_isSome (State.contested_waits hcontested _)
  · exact State.grant_isSome h

theorem State.grantAt_spec {p : ArbPoint} (h : s.grantAt p a ws = some (w, dl, a')) : w ∈ ws
    ∧ (s.contested p ws = true → s.fromUpper w = a.upper ∧ a'.upper = !a.upper)
    ∧ (s.contested p ws = false → s.grant a ws = some (w, dl, a')) := by
  unfold State.grantAt at h
  split at h
  · next hcontested =>
    obtain ⟨⟨x, dl', b⟩, hg, heq⟩ := Option.map_eq_some_iff.1 h
    obtain ⟨rfl, rfl, rfl⟩ : x = w ∧ dl' = dl ∧ { b with upper := !a.upper } = a' := by simpa using heq
    obtain ⟨hmem, hleaf⟩ := List.mem_filter.1 (State.grant_spec hg).1
    exact ⟨hmem, fun _ => ⟨eq_of_beq hleaf, rfl⟩, fun hfalse => absurd hcontested (by simp [hfalse])⟩
  · next hcontested => exact ⟨(State.grant_spec h).1, fun htrue => absurd htrue hcontested, fun _ => h⟩

end

end Sys2Proof.Machine
end

section
/-! SUPPORT. What a grant does with its request, and the entries of the weights (R199, R201, R203). -/

namespace Sys2Proof.Machine

/-! ### What a grant counts (R200, R203) -/

/-- An event sends an interrupt or holds it pending; the accesses that wait at the link stand. -/
theorem State.waits_event (s : State) (idx sub n : Nat) : (s.event idx sub n).link.waits = s.link.waits := by
  have hraise (u : State) (vec : Nat) : (u.raise vec).link.waits = u.link.waits := by
    unfold State.raise
    split
    · rfl
    · split <;> rfl
  have hnoted (u : State) : u.noteErr.link = u.link :=
    (State.noteErr_keeps (List.Subset.refl _) (State.Keeps.refl _ u)).parts .link (by decide)
  have hemergency (u : State) (code : Nat) : (u.emergency code idx sub n).link = u.link :=
    (State.emergency_keeps (List.Subset.refl _) (State.Keeps.refl _ u) _ _ _ _).parts .link (by decide)
  rw [State.event_eq]
  split
  · rfl
  · unfold State.eventTold
    rw [hnoted]
    cases emergencyOf idx sub n <;> cases vectorOf idx sub <;> simp only [hemergency, hraise, State.setBit_link]

theorem State.waits_intEvent (s : State) (n : Nat) : (s.intEvent n).link.waits = s.link.waits := by
  have hsnap (u : State) : u.snapFault.link = u.link :=
    (State.snapFault_keeps (List.Subset.refl _) (State.Keeps.refl _ u)).parts .link (by decide)
  rw [State.intEvent, hsnap, State.waits_event]

theorem State.waits_noteGrant (s : State) (w : Waiter) (dl : Bool) : (s.noteGrant w dl).link.waits = s.link.waits := by
  unfold State.noteGrant
  extract_lets v
  have hv : v.link = s.link := by
    unfold v
    split <;> rfl
  split
  · split
    · rw [State.waits_intEvent, State.count_link, hv]
    · rw [hv]
  · rw [hv]

/-! ### The granted request goes on (R199) -/

/-- The point after its grant, with what the grant counts. -/
def State.grantNoted (s : State) (p : ArbPoint) (w : Waiter) (dl : Bool) (a : ArbState) : State :=
  (s.setArb (pointKey p) a).noteGrant w dl

/-- Past a point that is no pseudo-channel. -/
def State.pastPoint (s : State) (p : ArbPoint) (id : Nat) : State :=
  (s.noteCrossing p id).updReq id fun r => { r with route := r.route.tail }

section
variable {s : State} {p : ArbPoint} {w : Waiter} {dl : Bool} {a : ArbState}

theorem State.grantNoted_keeps (s : State) (p : ArbPoint) (w : Waiter) (dl : Bool) (a : ArbState) :
    State.Keeps [.regs, .arb, .link, .can, .snap, .out] s (s.grantNoted p w dl a) :=
  State.noteGrant_keeps (by decide) (State.setArb_keeps (by decide) (State.Keeps.refl _ s) _ _) _ _

theorem State.grantNoted_arb (s : State) (p : ArbPoint) (w : Waiter) (dl : Bool) (a : ArbState) :
    (s.grantNoted p w dl a).arb = (s.setArb (pointKey p) a).arb :=
  (State.noteGrant_keeps (List.Subset.refl _) (State.Keeps.refl _ _) _ _).parts .arb (by decide)

theorem State.arbitrate_eq (hheld : s.pointHeld p = false)
    (hgrant : s.grantAt p (s.arbState (pointKey p)) (s.waiters p) = some (w, dl, a)) :
    s.arbitrate p = (s.grantNoted p w dl a).passPoint p w.id := by
  simp only [State.arbitrate, hheld, Bool.false_eq_true, if_false, hgrant, State.grantNoted]

theorem State.arbState_setArb_self (s : State) (k : Nat) (a : ArbState) : (s.setArb k a).arbState k = a :=
  Tbl.get_put_self _ _ _ _

theorem State.arbState_setArb_ne (s : State) {k j : Nat} (a : ArbState) (h : j ≠ k) :
    (s.setArb k a).arbState j = s.arbState j := Tbl.get_put_ne _ _ _ _ h

theorem State.arbState_of_arb {s t : State} (h : t.arb = s.arb) (k : Nat) : t.arbState k = s.arbState k := by
  rw [State.arbState, h, State.arbState]

theorem State.noteCrossing_reqs (s : State) (p : ArbPoint) (id : Nat) : (s.noteCrossing p id).reqs = s.reqs :=
  ((State.noteCrossing_keeps (List.Subset.refl _) (State.Keeps.refl _ s) p id).parts .reqs (by decide)).1

/-- Past the point the request stands at its next one. -/
theorem State.pastPoint_req {id : Nat} {r : Req} (hreq : s.req? id = some r) :
    ReqIs s (s.pastPoint p id) id { r with route := r.route.tail } :=
  ((ReqIs.refl hreq).of_reqs (s.noteCrossing_reqs p id)).updReq fun _ => rfl

theorem State.passPoint_goesOn {id : Nat} {r : Req} {p2 : ArbPoint} {rest : List ArbPoint}
    (hp : ∀ st ch pc, p ≠ .pseudo st ch pc) (hreq : s.req? id = some r) (hroute : r.route = p :: p2 :: rest) :
    s.passPoint p id = s.pastPoint p id := by
  have hfound : (s.pastPoint p id).req? id = some { r with route := p2 :: rest } := by
    rw [(State.pastPoint_req (p := p) hreq).found, hroute, List.tail_cons]
  unfold State.passPoint
  split
  · exact absurd rfl (hp _ _ _)
  · extract_lets v
    have hv : v = s.pastPoint p id := rfl
    rw [hv, hfound]
    exact if_neg fun h => absurd h.1 (List.cons_ne_nil _ _)

/-- While a point is ahead of it, a request that has not been refused is unfinished. -/
theorem Req.unfinished_of_route {q r : Req} (hstage : q.stage = r.stage) (hroute : q.route ≠ [])
    (h : r.finished = false) : q.finished = false := by
  unfold Req.finished at h ⊢
  rw [hstage]
  split
  · exact List.isEmpty_eq_false_iff.2 hroute
  · next hrefused => simp [hrefused] at h
  · rfl

/-- Nothing is to be heard of that was not before, where the link may have sent or held an interrupt. -/
theorem State.allHeard_of_waits {u : State} (h : s.allHeard) (hreqs : ∀ r ∈ u.reqs, r.finished = false)
    (hseq : u.seq = s.seq) (hfabric : u.fabric = s.fabric) (hwaits : u.link.waits = s.link.waits) : u.allHeard :=
  ⟨hreqs, hseq ▸ h.2.1, hfabric ▸ h.2.2.1, hwaits.trans h.2.2.2⟩

/-- The point after its grant, and its request past it. -/
def State.grantedOn (s : State) (p : ArbPoint) (w : Waiter) (dl : Bool) (a : ArbState) : State :=
  (s.grantNoted p w dl a).pastPoint p w.id

theorem State.pastPoint_keeps (s : State) (p : ArbPoint) (id : Nat) : State.Keeps [.regs, .reqs] s (s.pastPoint p id) :=
  State.updReq_keeps (by decide) (State.noteCrossing_keeps (by decide) (State.Keeps.refl _ _) _ _) _ _

theorem State.grantedOn_keeps (s : State) (p : ArbPoint) (w : Waiter) (dl : Bool) (a : ArbState) :
    State.Keeps [.regs, .arb, .reqs, .link, .can, .snap, .out] s (s.grantedOn p w dl a) :=
  (State.Keeps.wider (s.grantNoted_keeps p w dl a) (by decide)).trans
    (State.Keeps.wider (State.pastPoint_keeps _ p w.id) (by decide))

theorem State.grantedOn_arb (s : State) (p : ArbPoint) (w : Waiter) (dl : Bool) (a : ArbState) :
    (s.grantedOn p w dl a).arb = (s.setArb (pointKey p) a).arb :=
  ((State.pastPoint_keeps _ p w.id).parts .arb (by decide)).trans (s.grantNoted_arb p w dl a)

theorem State.grantNoted_reqs (s : State) (p : ArbPoint) (w : Waiter) (dl : Bool) (a : ArbState) :
    (s.grantNoted p w dl a).reqs = s.reqs := ((s.grantNoted_keeps p w dl a).parts .reqs (by decide)).1

section
variable {p2 : ArbPoint} {rest : List ArbPoint} {r : Req} (hreq : s.req? w.id = some r) (hroute : r.route = p :: p2 :: rest)
include hreq hroute

theorem State.grantedOn_req : ReqIs s (s.grantedOn p w dl a) w.id { r with route := p2 :: rest } := by
  have hnoted : ReqIs s (s.grantNoted p w dl a) w.id r := (ReqIs.refl hreq).of_reqs (s.grantNoted_reqs p w dl a)
  have hon := hnoted.trans (State.pastPoint_req (p := p) hnoted.found)
  rwa [hroute, List.tail_cons] at hon

/-- The request is still under way, and the others stand as before. -/
theorem State.grantedOn_allHeard (hheard : s.allHeard) (hone : ∀ q ∈ s.reqs, q.id = w.id → q = r) :
    (s.grantedOn p w dl a).allHeard := by
  have hkeeps := s.grantedOn_keeps p w dl a
  have hlink : (s.grantedOn p w dl a).link = (s.grantNoted p w dl a).link :=
    (State.pastPoint_keeps _ p w.id).parts .link (by decide)
  refine State.allHeard_of_waits hheard (fun q hq => ?_) (hkeeps.parts .seq (by decide)) (hkeeps.parts .fabric (by decide))
    ((congrArg Link.waits hlink).trans (State.waits_noteGrant _ _ _))
  obtain ⟨x, hx, rfl⟩ := List.mem_map.1 hq
  rw [State.noteCrossing_reqs, State.grantNoted_reqs] at hx
  split
  · next hid =>
    obtain rfl := hone x hx hid
    have hnext : x.route.tail ≠ [] := by
      rw [hroute]
      exact List.cons_ne_nil _ _
    exact Req.unfinished_of_route (r := x) rfl hnext (hheard.1 x hx)
  · exact hheard.1 x hx

theorem arbitrationGrant_goesOn (hp : ∀ st ch pc, p ≠ .pseudo st ch pc) (hheld : s.pointHeld p = false)
    (hgrant : s.grantAt p (s.arbState (pointKey p)) (s.waiters p) = some (w, dl, a)) :
    (∃ u, exec (.arbitrationGrant p) s = .next u.settle ∧ Frame [.regs, .arb, .reqs, .link, .can, .snap, .out] s u
      ∧ u.req? w.id = some { r with route := p2 :: rest } ∧ u.arbState (pointKey p) = a
      ∧ ∀ q ∈ s.reqs, q.id ≠ w.id → q ∈ u.reqs)
    ∧ (s.allHeard → (∀ q ∈ s.reqs, q.id = w.id → q = r) →
      Runs (.arbitrationGrant p) s [.regs, .arb, .reqs, .link, .can, .snap, .out] fun t =>
        t.req? w.id = some { r with route := p2 :: rest } ∧ t.arbState (pointKey p) = a
        ∧ (∀ q ∈ s.reqs, q.id ≠ w.id → q ∈ t.reqs)
        ∧ ∀ k, k ≠ pointKey p → t.arbState k = s.arbState k) := by
  have hnoted : (s.grantNoted p w dl a).req? w.id = some r :=
    ((ReqIs.refl hreq).of_reqs (s.grantNoted_reqs p w dl a)).found
  have hrun : exec (.arbitrationGrant p) s = .next (s.grantedOn p w dl a).settle :=
    congrArg (fun u : State => Host.Outcome.next u.settle)
      ((State.arbitrate_eq hheld hgrant).trans (State.passPoint_goesOn hp hnoted hroute))
  have hgone := State.grantedOn_req (dl := dl) (a := a) hreq hroute
  have hframe := (s.grantedOn_keeps p w dl a).frame
  have harb := State.arbState_of_arb (s.grantedOn_arb p w dl a)
  have hself := (harb (pointKey p)).trans (s.arbState_setArb_self _ _)
  refine ⟨⟨_, hrun, hframe, hgone.found, hself, hgone.others⟩, fun hheard hone => ?_⟩
  rw [State.settle_of_allHeard (State.grantedOn_allHeard hreq hroute hheard hone)] at hrun
  exact ⟨_, hrun, hframe, hgone.found, hself, hgone.others, fun k hk => (harb k).trans (s.arbState_setArb_ne _ hk)⟩

end

/-- The granted request of a pseudo-channel is marked so. -/
theorem arbitrationGrant_marks {st : Stack} {ch : Fin 32} {pc : Fin 2}
    (hgrant : s.grantAt (.pseudo st ch pc) (s.arbState (pointKey (.pseudo st ch pc))) (s.waiters (.pseudo st ch pc))
      = some (w, dl, a)) (hheard : s.allHeard) :
    Runs (.arbitrationGrant (.pseudo st ch pc)) s [.regs, .arb, .hbm, .link, .can, .snap, .out] fun t =>
      t.hbm = { s.hbm with queue := s.hbm.queue.map fun q => if q.id = w.id then { q with granted := true } else q }
      ∧ t.arbState (pointKey (.pseudo st ch pc)) = a := by
  have hnoted := s.grantNoted_keeps (.pseudo st ch pc) w dl a
  have harb := s.grantNoted_arb (.pseudo st ch pc) w dl a
  have hwaits : (s.grantNoted (.pseudo st ch pc) w dl a).link.waits = s.link.waits := State.waits_noteGrant _ _ _
  have hrun : exec (.arbitrationGrant (.pseudo st ch pc)) s =
      .next ((s.grantNoted (.pseudo st ch pc) w dl a).passPoint (.pseudo st ch pc) w.id).settle :=
    congrArg (fun u : State => Host.Outcome.next u.settle) (State.arbitrate_eq rfl hgrant)
  generalize s.grantNoted (.pseudo st ch pc) w dl a = u at *
  have hhbm : u.hbm = s.hbm := hnoted.parts .hbm (by decide)
  have hmarked : State.Keeps [.hbm] u (u.passPoint (.pseudo st ch pc) w.id) := by
    apply State.Keeps.ofFields
    exact State.Keeps.setHbm (by decide) (State.Keeps.refl _ u).toFields rfl rfl
  have hkeeps : State.Keeps [.regs, .arb, .hbm, .link, .can, .snap, .out] s (u.passPoint (.pseudo st ch pc) w.id) :=
    (State.Keeps.wider hnoted (by decide)).trans (State.Keeps.wider hmarked (by decide))
  have hreqs : (u.passPoint (.pseudo st ch pc) w.id).reqs = s.reqs := (hkeeps.parts .reqs (by decide)).1
  have hheard' : (u.passPoint (.pseudo st ch pc) w.id).allHeard :=
    State.allHeard_of_waits hheard (hreqs ▸ hheard.1) (hkeeps.parts .seq (by decide)) (hkeeps.parts .fabric (by decide)) hwaits
  rw [State.settle_of_allHeard hheard'] at hrun
  refine ⟨_, hrun, hkeeps.frame, ?_, ?_⟩
  · rw [← hhbm]
    rfl
  · exact (State.arbState_of_arb harb _).trans (s.arbState_setArb_self _ _)

end

/-! ### The entries of the weights and of DLSHARE (R201) -/

/-- NCWEIGHT of a class, and after them DLSHARE. -/
def weightEntry (sub : Fin 8) : Entry :=
  if sub.val < 7 then .pers32 (mask 7 0) (ncWeightReset sub.val) else .pers32 (mask 6 0) 0x20

theorem entryOf_weight (sub : Fin 8) : entryOf 0x2410 (sub.val + 1) = some (weightEntry sub) := by
  revert sub
  decide +kernel

theorem weightEntry_facts (sub : Fin 8) : (weightEntry sub).wide = false ∧ (weightEntry sub).w1c = 0
    ∧ (weightEntry sub).wo = 0 ∧ (weightEntry sub).writable = true := by
  revert sub
  decide

/-- A field of RW bits takes what is written. -/
theorem Entry.fieldOf_merged (e : Entry) (old v : Word64) {hi lo : Nat} (h64 : hi < 64) (hw1c : e.w1c = 0)
    (hrw : ∀ i, lo ≤ i → i ≤ hi → e.rw.getLsbD i = true) : fieldOf (e.merged old v) hi lo = fieldOf v hi lo :=
  fieldOf_congr fun i hlo hhi => by
    rw [Entry.merged_getLsbD _ _ _ (by omega), hrw i hlo hhi, hw1c]
    simp

theorem weightEntry_rw (sub : Fin 8) {i : Nat} (hi : i ≤ 7) (h : sub.val < 7 ∨ i ≤ 6) :
    (weightEntry sub).rw.getLsbD i = true := by
  unfold weightEntry
  split
  · simp [Entry.pers32, mask_getLsbD i (hi := 7) (lo := 0) (by decide) (by decide), hi]
  · simp [Entry.pers32, mask_getLsbD i (hi := 6) (lo := 0) (by decide) (by decide), h.resolve_left ‹_›]

theorem fieldOf_merged_weight (sub : Fin 8) (old v : Word64) : fieldOf ((weightEntry sub).merged old v) 6 0 = fieldOf v 6 0
    ∧ (sub.val < 7 → fieldOf ((weightEntry sub).merged old v) 7 0 = fieldOf v 7 0) :=
  ⟨Entry.fieldOf_merged _ _ _ (by decide) (weightEntry_facts sub).2.1 fun i _ hi => weightEntry_rw sub (by omega) (.inr hi),
    fun hsub => Entry.fieldOf_merged _ _ _ (by decide) (weightEntry_facts sub).2.1 fun i _ hi =>
      weightEntry_rw sub hi (.inl hsub)⟩

theorem State.fits_weight (s : State) (via : Via) (sub : Fin 8) {value : Word32}
    (h : sub.val = 7 → fieldOf (value.setWidth 64) 6 0 ≤ 64) :
    s.fits 0x2410 (sub.val + 1) (weightEntry sub) (s.given via (value.setWidth 64)) = true := by
  obtain ⟨hwide, -, hwo, -⟩ := weightEntry_facts sub
  have hcut := Entry.cut_given_word hwide s via value
  unfold Entry.cut at hcut
  simp only [State.fits, hcut, hwo, BitVec.ofNat_eq_ofNat, BitVec.not_zero, BitVec.and_allOnes, BitVec.and_zero, BitVec.or_zero]
  by_cases hsub : sub.val = 7
  · simp [inRange, hsub, (fieldOf_merged_weight sub _ _).1, h hsub]
  · simp [inRange, hsub]

/-- Whatever a point's credits were, none is left. -/
theorem State.clearCredits_credit (s : State) (k : Nat) : (s.clearCredits.arbState k).credit = [0, 0, 0, 0, 0, 0, 0] := by
  refine Tbl.get_of_forall (P := fun a : ArbState => a.credit = [0, 0, 0, 0, 0, 0, 0]) rfl (fun e he => ?_) k
  obtain ⟨x, -, rfl⟩ := List.mem_map.1 (List.mem_filter.1 he).1
  rfl

theorem ncweightDlshareWrite_sets {s : State} {via : Via} {sub : Fin 8} {value : Word32}
    (hc : s.carries via 0x2410 (sub.val + 1) = true) (hin : sub.val = 7 → fieldOf (value.setWidth 64) 6 0 ≤ 64) :
    Writes (.ncweightDlshareWrite via sub value) via 0x2410 (sub.val + 1) s [.regs, .arb] fun u t =>
      t.fld 0x2410 (sub.val + 1) 6 0 = fieldOf (value.setWidth 64) 6 0
      ∧ (sub.val < 7 → t.ncWeight sub.val = fieldOf (value.setWidth 64) 7 0)
      ∧ (∀ k, (t.arbState k).credit = [0, 0, 0, 0, 0, 0, 0]) ∧ Entries [(0x2410, sub.val + 1)] u t := by
  obtain ⟨hwide, hw1c, -, hwritable⟩ := weightEntry_facts sub
  have hcut := Entry.cut_given_word hwide s via value
  have hsub := sub.isLt
  generalize hu : s.handed via 0x2410 (sub.val + 1) = u at *
  generalize hnv : (weightEntry sub).merged (u.reg 0x2410 (sub.val + 1)) (value.setWidth 64) = nv
  have hset : (u.setReg 0x2410 (sub.val + 1) nv).clearCredits.reg 0x2410 (sub.val + 1) = nv :=
    State.reg_setReg_self u 0x2410 (sub.val + 1) nv
  obtain ⟨hshare, hweight⟩ := hnv ▸ fieldOf_merged_weight sub (u.reg 0x2410 (sub.val + 1)) (value.setWidth 64)
  refine Writes.of_effect rfl hc (entryOf_weight sub) hwritable (s.fits_weight via sub hin) (by decide)
    (regKey_ne_of_idx (by omega) (by decide) (by decide)) (regKey_ne_of_idx (by omega) (by decide) (by decide))
    (t := (u.setReg 0x2410 (sub.val + 1) nv).clearCredits) ?_ ?_ ?_ <;> rw [hu]
  · rw [hcut, hnv]
    simp [State.writeEffect, State.writeCaddy]
  all_goals
    rw [State.noteClear_of_no_w1c _ _ _ _ hw1c]
  · exact (State.clearCredits_keeps (by decide) (State.Keeps.setReg (by decide) (State.Keeps.refl _ u) _ _ _)).frame
  · refine ⟨?_, fun h7 => ?_, State.clearCredits_credit _, (Entries.setReg u _ _ _).of_regs rfl⟩
    · rw [State.fld, hset]
      exact hshare
    · rw [State.ncWeight, State.fld, hset]
      exact hweight h7

/-- Settles O20: the deadline branch and the weighted branch both choose among those that wait, and past its point the request
is followed as it goes on. -/
theorem arbitrationGrantsOneWaiter : Obligations.ArbitrationGrantsOneWaiter :=
  ⟨fun _ _ _ => ⟨State.grant_isSome, fun _ _ _ => State.grant_spec,
      fun p => ⟨State.grantAt_isSome p, fun _ _ _ => State.grantAt_spec⟩⟩,
    rfl, fun _ _ _ _ _ _ _ _ hp hheld hgrant hreq hroute => arbitrationGrant_goesOn hreq hroute hp hheld hgrant,
    fun _ _ _ _ _ _ _ => arbitrationGrant_marks, fun _ _ _ _ => ncweightDlshareWrite_sets⟩

end Sys2Proof.Machine
end

section
/-! SUPPORT. The scrubber's enables, and its walk of a pseudo-channel (R222 to R224). -/

namespace Sys2Proof.Machine

/-! ### The enables (R222) -/

/-- SCRUBIDLE, or SCRUBNAT. -/
def scrubIdx (idle : Bool) : Nat := if idle then 0x2461 else 0x2460

/-- SCRUBNAT or SCRUBIDLE: EN alone can be written. -/
def scrubEntry (idle : Bool) : Entry := .pers32 1 (if idle then 0 else 1)

theorem entryOf_scrub (idle : Bool) : entryOf (scrubIdx idle) 1 = some (scrubEntry idle) := by
  revert idle
  decide +kernel

theorem scrubEntry_facts (idle : Bool) :
    (scrubEntry idle).writable = true ∧ (scrubEntry idle).wide = false ∧ (scrubEntry idle).w1c = 0 := by
  revert idle
  decide

theorem scrubIdx_keys (idle : Bool) : 1 < scrubIdx idle ∧ regKey (scrubIdx idle) 1 ≠ regKey 0x2A01 3
    ∧ regKey (scrubIdx idle) 1 ≠ regKey 0x3001 1 := by
  revert idle
  decide

theorem State.fits_scrub (s : State) (idle : Bool) (v : Word64) : s.fits (scrubIdx idle) 1 (scrubEntry idle) v = true := by
  cases idle <;> simp [State.fits, scrubIdx, inRange]

theorem Entry.merged_scrub_getLsbD_zero (idle : Bool) (old v : Word64) :
    ((scrubEntry idle).merged old v).getLsbD 0 = v.getLsbD 0 := by
  rw [Entry.merged_getLsbD _ _ _ (by decide)]
  simp [scrubEntry, Entry.pers32]

/-- One enable is set only while the other is 0. -/
theorem State.writeEffect_scrub (s : State) (via : Via) (idle : Bool) (v nv : Word64) :
    s.writeEffect via (scrubIdx idle) 1 v nv =
      s.unless (nv.getLsbD 0 && s.bit (scrubIdx !idle) 1 0) .inUse fun s => s.setReg (scrubIdx idle) 1 nv := by
  cases idle <;> simp [State.writeEffect, State.writeCaddy, scrubIdx]

theorem State.domainOn_scrub (s : State) (idle : Bool) : s.domainOn (scrubIdx idle) = s.domainOn 0x2460 := by
  cases idle <;> rfl

theorem rightsOf_scrub (idle : Bool) : rightsOf (scrubIdx idle) 1 = [.pcie] := by
  cases idle <;> rfl

theorem scrubEnableWrite_sets {s : State} {via : Via} {idle : Bool} {value : Word32}
    (hc : s.carries via (scrubIdx idle) 1 = true)
    (hfree : (s.handed via (scrubIdx idle) 1).bit (scrubIdx !idle) 1 0 = false ∨ value.getLsbD 0 = false) :
    Writes (.scrubEnableWrite via idle value) via (scrubIdx idle) 1 s [.regs] fun u t =>
      t.bit (scrubIdx idle) 1 0 = value.getLsbD 0 ∧ Entries [(scrubIdx idle, 1)] u t := by
  obtain ⟨hwritable, hwide, hw1c⟩ := scrubEntry_facts idle
  obtain ⟨h1, hwhi, hcan⟩ := scrubIdx_keys idle
  have hcut := Entry.cut_given_word hwide s via value
  generalize hu : s.handed via (scrubIdx idle) 1 = u at *
  generalize hnv : (scrubEntry idle).merged (u.reg (scrubIdx idle) 1) (value.setWidth 64) = nv
  have hbit : nv.getLsbD 0 = value.getLsbD 0 := by
    rw [← hnv, Entry.merged_scrub_getLsbD_zero, BitVec.getLsbD_setWidth]
    simp
  have hmay : (nv.getLsbD 0 && u.bit (scrubIdx !idle) 1 0) = false := by
    rw [hbit, Bool.and_eq_false_iff]
    exact hfree.symm
  refine Writes.of_effect rfl hc (entryOf_scrub idle) hwritable (s.fits_scrub idle _) h1 hwhi hcan
    (t := u.setReg (scrubIdx idle) 1 nv) ?_ ?_ ?_ <;> rw [hu]
  · rw [hcut, hnv, State.writeEffect_scrub, hmay]
    rfl
  all_goals
    rw [State.noteClear_of_no_w1c _ _ _ _ hw1c]
  · exact Frame.setReg _ _ _ _
  · refine ⟨?_, Entries.setReg _ _ _ _⟩
    rw [State.bit_eq_getLsbD, State.reg_setReg_self, hbit]

theorem scrubEnable_refused {s : State} {via : Via} {idle : Bool} {v : Word64} (hp : Path.of via = .pcie)
    (hd : s.domainOn 0x2460 = true) (hother : s.bit (scrubIdx !idle) 1 0 = true) (hset : v.getLsbD 0 = true) :
    s.entryWrite via (scrubIdx idle) 1 v = (s, .inUse) := by
  have hright : Path.of via ∈ rightsOf (scrubIdx idle) 1 := by simp [rightsOf_scrub, hp]
  have hnew (old : Word64) : ((scrubEntry idle).merged old ((scrubEntry idle).cut v)).getLsbD 0 = true := by
    rw [Entry.merged_scrub_getLsbD_zero, Entry.cut_getLsbD, hset]
    simp
  have heffect : s.writeEffect via (scrubIdx idle) 1 ((scrubEntry idle).cut v)
      ((scrubEntry idle).merged (s.reg (scrubIdx idle) 1) ((scrubEntry idle).cut v)) = (s, .inUse) := by
    rw [State.writeEffect_scrub, hnew, hother]
    rfl
  exact State.entryWrite_effect (entryOf_scrub idle) (scrubEntry_facts idle).1 hright ((s.domainOn_scrub idle).trans hd)
    (s.fits_scrub idle v) heffect

/-! ### The walk of a pseudo-channel (R223, R224) -/

section
variable {s : State} {st : Stack} {ch : Fin 32} {pc : Fin 2} {flip : BitVec 288} {sev : Severity}

theorem State.scrubHbm_of_out {q : HbmReq} (h : s.scrubOut st ch pc = some q) :
    s.scrubHbm st.val ch.val pc.val flip sev = s.sectorReturn q.id flip sev := by
  simp only [State.scrubHbm, h]

/-- Where no read is out and none is due, the walk stands. -/
theorem State.scrubHbm_of_not_due (hout : s.scrubOut st ch pc = none)
    (h : s.scrubHbmDue st.val ch.val pc.val (Tbl.get 0 s.hbm.scrubH (pseudoKey st.val ch.val pc.val)) = false) :
    s.scrubHbm st.val ch.val pc.val flip sev = s := by
  simp only [State.scrubHbm, hout, h, Bool.not_false, Bool.true_or, if_true]

theorem State.scrubHbmDue_off (hnative : s.scrubNative = false) (hidle : s.scrubIdle = false) (a b c pos : Nat) :
    s.scrubHbmDue a b c pos = false := by
  simp only [State.scrubHbmDue, hnative, hidle, Bool.false_eq_true, if_false, Bool.false_and]

/-- In idle-cycle mode a request at the pseudo-channel holds the scrubber back. -/
theorem State.scrubHbmDue_busy (hnative : s.scrubNative = false) {a b c : Nat}
    (hbusy : (s.hbm.queue.any fun q => s.pseudoOf q.sector == (a, b, c)) = true) (pos : Nat) :
    s.scrubHbmDue a b c pos = false := by
  simp only [State.scrubHbmDue, hnative, Bool.false_eq_true, if_false, hbusy, Bool.not_true, Bool.and_false, Bool.false_and]

/-- The walk has asked for a sector, and stands past it. -/
def State.scrubAsked (s : State) (k sec : Nat) : State :=
  ({ s.noteScrub k s.time.now with
    hbm := { (s.noteScrub k s.time.now).hbm with scrubH := Tbl.put 0 s.hbm.scrubH k (sec + 1) } } : State).hbmEnqueue
      ⟨0, sec, false, 0, 0, false, 6, none, false, false, true, true⟩

theorem State.scrubAsked_keeps (s : State) (k sec : Nat) : State.Keeps [.hbm, .reqs] s (s.scrubAsked k sec) := by
  refine State.hbmEnqueue_keeps (List.Subset.refl _) ?_ _
  apply State.Keeps.ofFields
  exact State.Keeps.setHbm (by decide) (State.Keeps.refl _ s).toFields rfl rfl

theorem scrubHbmSector_asks {sec : Nat} (hout : s.scrubOut st ch pc = none)
    (hdue : s.scrubHbmDue st.val ch.val pc.val (Tbl.get 0 s.hbm.scrubH (pseudoKey st.val ch.val pc.val)) = true)
    (hself : s.hbm.selfRef = false) (hpresent : s.stackAbsent st.val = false)
    (hnext : s.nextIn (st.val, ch.val, pc.val) hbmSectors (Tbl.get 0 s.hbm.scrubH (pseudoKey st.val ch.val pc.val)) = some sec) :
    Runs (.scrubHbmSector st ch pc flip sev) s [.hbm, .reqs] fun t =>
      t.hbm.queue = s.hbm.queue ++ [⟨s.nextReq, sec, false, 0, 0, false, 6, none, false, false, true, true⟩]
      ∧ Tbl.get 0 t.hbm.scrubH (pseudoKey st.val ch.val pc.val) = sec + 1
      ∧ t.scrubbed (pseudoKey st.val ch.val pc.val) = some s.time.now
      ∧ t.hbm.mem = s.hbm.mem ∧ t.hbm.poison = s.hbm.poison ∧ t.reqs = s.reqs := by
  have hrun : s.scrubHbm st.val ch.val pc.val flip sev = s.scrubAsked (pseudoKey st.val ch.val pc.val) sec := by
    simp only [State.scrubHbm, hout, hdue, hself, hpresent, Bool.not_true, Bool.or_self, Bool.false_eq_true, if_false, hnext]
    rfl
  exact ⟨_, congrArg Host.Outcome.next hrun, (s.scrubAsked_keeps _ _).frame, rfl,
    Tbl.get_put_self 0 s.hbm.scrubH _ (sec + 1), Tbl.find_set_self _ _ _, rfl, rfl, rfl⟩

end

end Sys2Proof.Machine
end

section
/-! SUPPORT. What the scrubber does with a sector and with a line that it has read, and the statement (R223 to R225). -/

namespace Sys2Proof.Machine

/-! ### An uncorrectable error, as a slice sees it (R218) -/

theorem viewKey_lt {k : Nat} (h : ViewKey k) : k < regKey 0x2C00 0 := by
  simp only [ViewKey, regKey] at h ⊢
  omega

namespace SameView

variable {u s : State}

theorem snapFault (h : SameView u s) : SameView u s.snapFault := by
  have hkeeps : State.Keeps [.regs, .snap, .out] s s.snapFault :=
    State.snapFault_keeps (List.Subset.refl _) (State.Keeps.refl _ s)
  have hcaddy : s.snapFault.caddy = s.caddy := hkeeps.parts .caddy (by decide)
  refine h.trans ⟨fun i j hk => State.snapFault_sameBelow (le_refl _) (SameBelow.refl _ s) i j (viewKey_lt hk),
    hkeeps.parts .lanes (by decide), congrArg Caddy.guard0 hcaddy, congrArg Caddy.guard1 hcaddy, fun k => ?_⟩
  rw [State.line_of_lines (congrArg Caddy.lines hcaddy)]

theorem logUe (h : SameView u s) (die loc bit : Nat) : SameView u (s.logUe die loc bit) := by
  unfold State.logUe State.intEvent
  refine (SameView.event ?_ (not_viewKey_of_le (by decide) _) _).snapFault
  split
  · exact h.setReg (not_viewKey_of_le (by decide) _) _
  · exact h

end SameView

theorem State.logUe_bit {s : State} {n : Nat} (hn : n < 64) (die loc : Nat) (h : s.heldClear 0x2420 1 n = false) :
    (s.logUe die loc n).bit 0x2420 1 n = true := by
  unfold State.logUe
  refine State.intEvent_bit hn ?_
  split
  · exact (State.heldClear_setReg _ _ _ _ _ _ _).trans h
  · exact h

/-- What is recorded of a sector that no code can put right. -/
theorem State.noteSector_bad (s : State) (sec : Nat) : SameView s (s.noteSector sec .bad)
    ∧ (s.heldClear 0x2420 1 0 = false → (s.noteSector sec .bad).bit 0x2420 1 0 = true) :=
  ⟨((SameView.refl s).count (by omega) 3 1).logUe _ _ _, fun h => State.logUe_bit (by decide) _ _ h⟩

/-! ### What comes of a sector (R225) -/

section
variable {s : State} {id : Nat} {q : HbmReq}

theorem State.sectorReturn_scrub (hreq : s.hbmReq? id = some q) (hread : q.write = false) (hgrant : q.granted = true)
    (hscrub : q.scrub = true) (hfirst : s.hbmFirst q = true) (hself : s.hbm.selfRef = false) (flip : BitVec 288)
    (sev : Severity) : s.sectorReturn id flip sev = s.scrubReturn q flip sev := by
  simp only [State.sectorReturn, hreq, hread, hgrant, hscrub, hfirst, hself, Bool.not_false, Bool.and_self, if_true]

theorem State.scrubReturn_clean (h : (s.hbmGet q.sector).2 = false) : s.scrubReturn q 0 .none = s.dropHbm q.id := by
  simp only [State.scrubReturn, h, decodeSector_clean]
  rfl

theorem State.scrubReturn_lost {flip : BitVec 288} {sev : Severity} {v : BitVec 256}
    (hbad : decodeSector (s.hbmGet q.sector).1 (s.hbmGet q.sector).2 flip sev = (.bad, v)) (hin : s.sectorIn q.sector = none) :
    s.scrubReturn q flip sev = ((s.noteSector q.sector .bad).scrubWrite q v true).count
      (0x3400 + ((s.noteSector q.sector .bad).scrubWrite q v true).stackOf (32 * q.sector)) 5 := by
  have hin' : ((s.noteSector q.sector .bad).sectorIn q.sector).isSome = false := by
    rw [(s.noteSector_bad q.sector).1.sectorIn, hin]
    rfl
  simp only [State.scrubReturn, hbad, hin', Bool.false_eq_true, if_false]
  rfl

theorem State.scrubReturn_held {flip : BitVec 288} {sev : Severity} {v : BitVec 256}
    (hbad : decodeSector (s.hbmGet q.sector).1 (s.hbmGet q.sector).2 flip sev = (.bad, v))
    (hin : (s.sectorIn q.sector).isSome = true) :
    s.scrubReturn q flip sev = ((s.noteSector q.sector .bad).markDirty q.sector).dropHbm q.id := by
  have hin' : ((s.noteSector q.sector .bad).sectorIn q.sector).isSome = true := by
    rw [(s.noteSector_bad q.sector).1.sectorIn, hin]
  simp only [State.scrubReturn, hbad, hin', if_true]

theorem State.markDirty_present {sec k : Nat} (h : s.findWay (32 * sec) = some k) : s.markDirty sec =
    s.setLine k { s.line k with dirty := (s.line k).dirty ||| ((1 : BitVec 4) <<< (sec % 4)) } := by
  rw [State.markDirty, h]

section
variable (hreq : s.hbmReq? id = some q) (hread : q.write = false) (hgrant : q.granted = true) (hscrub : q.scrub = true)
  (hfirst : s.hbmFirst q = true) (hself : s.hbm.selfRef = false)
include hreq hread hgrant hscrub hfirst hself

theorem scrubRead_clean (hclean : (s.hbmGet q.sector).2 = false) : Runs (.hbmSectorReadReturn id 0 .none) s [.hbm] fun t =>
    t.hbm = { s.hbm with queue := s.hbm.queue.filter fun p => p.id ≠ q.id } :=
  ⟨s.dropHbm q.id, congrArg Host.Outcome.next ((State.sectorReturn_scrub hreq hread hgrant hscrub hfirst hself 0 .none).trans
      (State.scrubReturn_clean hclean)),
    (State.dropHbm_keeps (List.Subset.refl _) (State.Keeps.refl _ s) _).frame, rfl⟩

theorem scrubRead_lost (flip : BitVec 288) (sev : Severity) (v : BitVec 256)
    (hbad : decodeSector (s.hbmGet q.sector).1 (s.hbmGet q.sector).2 flip sev = (.bad, v)) (hin : s.sectorIn q.sector = none) :
    Runs (.hbmSectorReadReturn id flip sev) s [.regs, .hbm, .link, .can, .snap, .out] fun t =>
      t.hbm = { s.hbm with queue := s.hbm.queue.map fun x => if x.id = q.id then { q with
        write := true, data := v, mask := BitVec.allOnes 32, poisoned := true, granted := false } else x }
      ∧ (s.heldClear 0x2420 1 0 = false → t.bit 0x2420 1 0 = true) := by
  have hrun := (State.sectorReturn_scrub hreq hread hgrant hscrub hfirst hself flip sev).trans (State.scrubReturn_lost hbad hin)
  have hnoted : State.Keeps [.regs, .link, .can, .snap, .out] s (s.noteSector q.sector .bad) :=
    State.noteSector_keeps (List.Subset.refl _) (State.Keeps.refl _ s) _ _
  have hbit := (s.noteSector_bad q.sector).2
  generalize s.noteSector q.sector .bad = w at *
  have hhbm : w.hbm = s.hbm := hnoted.parts .hbm (by decide)
  refine ⟨_, congrArg Host.Outcome.next hrun, ?_, ?_, fun hheld => ?_⟩
  · exact (State.count_keeps (by decide)
      (State.scrubWrite_keeps (by decide) (State.Keeps.wider hnoted (by decide)) q v true) _ _ _).frame
  · rw [State.count_hbm, ← hhbm]
    rfl
  · rw [State.bit_count_of_lt _ (by decide) (by omega)]
    exact hbit hheld

theorem scrubRead_held (flip : BitVec 288) (sev : Severity) (v : BitVec 256) (k : Nat)
    (hbad : decodeSector (s.hbmGet q.sector).1 (s.hbmGet q.sector).2 flip sev = (.bad, v))
    (hway : s.findWay (32 * q.sector) = some k) (hvalid : (s.line k).valid.getLsbD (q.sector % 4) = true) :
    Runs (.hbmSectorReadReturn id flip sev) s [.regs, .caddy, .hbm, .link, .can, .snap, .out] fun t =>
      (t.line k).dirty.getLsbD (q.sector % 4) = true ∧ (t.line k).data = (s.line k).data
      ∧ t.hbm = { s.hbm with queue := s.hbm.queue.filter fun p => p.id ≠ q.id } := by
  have hin : (s.sectorIn q.sector).isSome = true := by
    simp only [State.sectorIn, hway, hvalid, if_true, Option.isSome_some]
  have hrun := (State.sectorReturn_scrub hreq hread hgrant hscrub hfirst hself flip sev).trans (State.scrubReturn_held hbad hin)
  have hnoted : State.Keeps [.regs, .link, .can, .snap, .out] s (s.noteSector q.sector .bad) :=
    State.noteSector_keeps (List.Subset.refl _) (State.Keeps.refl _ s) _ _
  have hview := (s.noteSector_bad q.sector).1
  generalize s.noteSector q.sector .bad = w at *
  have hhbm : w.hbm = s.hbm := hnoted.parts .hbm (by decide)
  have hmarked := State.markDirty_present ((hview.findWay _).trans hway)
  have hline : ((w.markDirty q.sector).dropHbm q.id).line k =
      { w.line k with dirty := (w.line k).dirty ||| ((1 : BitVec 4) <<< (q.sector % 4)) } := by
    rw [hmarked]
    exact State.line_setLine_self _ _ _
  refine ⟨_, congrArg Host.Outcome.next hrun, ?_, ?_, ?_, ?_⟩
  · exact (State.dropHbm_keeps (by decide)
      (State.markDirty_keeps (by decide) (State.Keeps.wider hnoted (by decide)) _) _).frame
  · rw [hline]
    exact getLsbD_or_one_shiftLeft _ (Nat.mod_lt _ (by decide))
  · rw [hline]
    exact hview.data k
  · rw [hmarked, ← hhbm]
    rfl

end

end

/-! ### The walk of a slice (R223, R224) -/

section
variable {s : State} {cad : Cad} {sl : Fin 256} {pos : Nat} {errs : List WordErr} {lost : Bool}

theorem State.scrubRequest_none (h : ∀ r ∈ s.reqs, r.purpose ≠ .scrubRow cad sl) :
    (s.reqs.find? fun r => r.purpose == .scrubRow cad sl) = none :=
  List.find?_eq_none.2 fun r hr => by simp [h r hr]

/-- With both enables 0 the walk of a slice asks for nothing. -/
theorem State.scrubLine_off (hnative : s.scrubNative = false) (hidle : s.scrubIdle = false)
    (hnone : ∀ r ∈ s.reqs, r.purpose ≠ .scrubRow cad sl) : s.scrubLine cad sl errs lost = s := by
  simp only [State.scrubLine, State.scrubRequest_none hnone, hnative, hidle, Bool.not_false, Bool.and_self, if_true, ite_self]

/-- A line is due only where an enable is 1. -/
theorem State.enabled_of_scrubLineDue {a b : Nat} (h : s.scrubLineDue a b pos = true) :
    (!s.scrubNative && !s.scrubIdle) = false := by
  unfold State.scrubLineDue at h
  cases hnative : s.scrubNative
  · cases hidle : s.scrubIdle
    · simp [hnative, hidle] at h
    · rfl
  · rfl

/-- The walk of a slice has asked for its next line. -/
def State.lineAsked (s : State) (cad : Cad) (sl : Fin 256) (pos : Nat) : State :=
  { (s.noteScrub (512 + (256 * cad.val + sl.val)) s.time.core).noteScrub (1024 + (256 * cad.val + sl.val)) s.time.now with
    reqs := s.reqs ++ [{ scrubReq cad sl pos with id := s.nextReq }], nextReq := s.nextReq + 1 }

theorem State.lineAsked_keeps (s : State) (cad : Cad) (sl : Fin 256) (pos : Nat) :
    State.Keeps [.hbm, .reqs] s (s.lineAsked cad sl pos) := by
  have hnoted : State.Keeps [.hbm, .reqs] s
      ((s.noteScrub (512 + (256 * cad.val + sl.val)) s.time.core).noteScrub (1024 + (256 * cad.val + sl.val)) s.time.now) :=
    State.noteScrub_keeps (by decide) (State.noteScrub_keeps (by decide) (State.Keeps.refl _ s) _ _) _ _
  apply State.Keeps.ofFields
  exact State.Keeps.setNextReq (by decide) (State.Keeps.setReqs (by decide) hnoted.toFields)

theorem scrubCaddyLine_asks (hrun : s.coreStopped = false) (hused : s.sliceRetired cad.val sl.val = false)
    (hnone : ∀ r ∈ s.reqs, r.purpose ≠ .scrubRow cad sl) (hpos : Tbl.get 0 s.hbm.scrubC (256 * cad.val + sl.val) = pos)
    (hwithin : pos < 2048 * 24) (hdue : s.scrubLineDue cad.val sl.val pos = true) :
    Runs (.scrubCaddyLine cad sl errs lost) s [.hbm, .reqs] fun t =>
      t.reqs = s.reqs ++ [{ scrubReq cad sl pos with id := s.nextReq }] ∧ t.nextReq = s.nextReq + 1
      ∧ t.hbm = { s.hbm with scrubAt := t.hbm.scrubAt } := by
  have hrow : ¬ sliceRows ≤ pos := Nat.not_le.2 hwithin
  have hstep : s.scrubLine cad sl errs lost = s.lineAsked cad sl pos := by
    simp only [State.scrubLine, hpos, hrun, hused, Bool.or_self, Bool.false_eq_true, if_false, State.scrubRequest_none hnone,
      State.enabled_of_scrubLineDue hdue, if_neg hrow, hdue, Bool.not_true]
    rfl
  exact ⟨_, congrArg Host.Outcome.next hstep, (s.lineAsked_keeps cad sl pos).frame, rfl, rfl, rfl⟩

/-- The walk of a slice has read its line without wrong bits, and stands past it. -/
def State.lineScrubbed (s : State) (cad sl id pos : Nat) : State := (s.dropReq id).scrubRow cad sl pos [] false

theorem State.lineScrubbed_keeps (s : State) (cad sl id pos : Nat) :
    State.Keeps [.caddy, .hbm, .reqs] s (s.lineScrubbed cad sl id pos) := by
  have hread : State.Keeps [.caddy, .hbm, .reqs] s ((s.dropReq id).takeRead (256 * cad + sl)) :=
    State.takeRead_keeps (by decide) (State.dropReq_keeps (by decide) (State.Keeps.refl _ s) _) _
  apply State.Keeps.ofFields
  exact State.Keeps.setHbm (by decide) hread.toFields rfl rfl

theorem scrubCaddyLine_reads {r : Req} (hrun : s.coreStopped = false) (hused : s.sliceRetired cad.val sl.val = false)
    (hasked : (s.reqs.find? fun r => r.purpose == .scrubRow cad sl) = some r) (harrived : r.arrived = true)
    (hport : (s.slicePort (256 * cad.val + sl.val)).readAt ≠ some s.time.core)
    (hpos : Tbl.get 0 s.hbm.scrubC (256 * cad.val + sl.val) = pos) :
    Runs (.scrubCaddyLine cad sl [] false) s [.caddy, .hbm, .reqs] fun t =>
      t.reqs = s.reqs.filter (fun q => q.id ≠ r.id) ∧ t.hbm = { s.hbm with scrubC := t.hbm.scrubC }
      ∧ Tbl.get 0 t.hbm.scrubC (256 * cad.val + sl.val) = pos + 1 ∧ t.caddy.lines = s.caddy.lines
      ∧ (t.slicePort (256 * cad.val + sl.val)).readAt = some s.time.core := by
  have hstep : s.scrubLine cad sl [] false = s.lineScrubbed cad.val sl.val r.id pos := by
    simp only [State.scrubLine, hpos, hrun, hused, Bool.or_self, Bool.false_eq_true, if_false, hasked, harrived,
      bne_iff_ne.2 hport, Bool.and_self, if_true, State.lineScrubbed]
  refine ⟨_, congrArg Host.Outcome.next hstep, (s.lineScrubbed_keeps _ _ _ _).frame, rfl, rfl,
    Tbl.get_put_self 0 s.hbm.scrubC _ (pos + 1), rfl, ?_⟩
  exact congrArg SlicePort.readAt (State.slicePort_setPorts (s.dropReq r.id) (256 * cad.val + sl.val) _)

end

/-- Settles O22: the two enables are one entry each, of which a write looks at the other; the walks ask where they are due,
and what a read finds decides whether its sector is left, written back as poison or taken from its line. -/
theorem scrubberRunsInOneMode : Obligations.ScrubberRunsInOneMode := by
  refine ⟨⟨fun _ _ idle _ hc hfree => ?_, fun _ _ idle _ hp hd hother hset => ?_,
      fun s st ch pc cad sl errs lost hnative hidle =>
      ⟨fun flip sev hout => congrArg _ (State.scrubHbm_of_not_due hout (State.scrubHbmDue_off hnative hidle _ _ _ _)),
        fun hnone => congrArg _ (State.scrubLine_off hnative hidle hnone)⟩⟩,
    ⟨fun _ _ _ _ _ _ _ => scrubHbmSector_asks,
      fun _ _ _ _ _ _ => ⟨fun hnative hout hbusy =>
          congrArg _ (State.scrubHbm_of_not_due hout (State.scrubHbmDue_busy hnative hbusy _)),
        fun _ hout => congrArg _ (State.scrubHbm_of_out hout)⟩,
      fun _ _ _ hreq hread hgrant hscrub hfirst hself =>
        ⟨scrubRead_clean hreq hread hgrant hscrub hfirst hself, scrubRead_lost hreq hread hgrant hscrub hfirst hself,
          scrubRead_held hreq hread hgrant hscrub hfirst hself⟩⟩,
    fun _ _ _ _ _ _ => scrubCaddyLine_asks, fun _ _ _ _ _ => scrubCaddyLine_reads⟩
  · cases idle <;> exact scrubEnableWrite_sets hc hfree
  · cases idle <;> exact scrubEnable_refused hp hd hother hset

end Sys2Proof.Machine
end

section
/-! SUPPORT. What the kill of a context leaves of the faults that wait for the end of the clock: TGFAULT, the device state,
the faults noted and the fence tags of other contexts. -/

namespace Sys2Proof.Machine

/-! ### What a kill leaves (R266 to R269, R314) -/

/-- TGFAULT, DEVSTATE and the noted faults are the same, and no fence tag is counted that was not. -/
structure KillLeaves (s t : State) : Prop where
  regs : ∀ idx sub, idx = 0x2620 ∨ idx = 0x2B00 → sub < 256 → t.reg idx sub = s.reg idx sub
  faults : t.seq.faults = s.seq.faults
  tags : t.seq.tags ⊆ s.seq.tags

namespace KillLeaves

variable {u s t : State}

theorem refl (s : State) : KillLeaves s s := ⟨fun _ _ _ _ => rfl, rfl, List.Subset.refl _⟩

theorem trans (h : KillLeaves u s) (g : KillLeaves s t) : KillLeaves u t :=
  ⟨fun i j hi hj => (g.regs i j hi hj).trans (h.regs i j hi hj), g.faults.trans h.faults,
    List.Subset.trans g.tags h.tags⟩

/-- A change of neither the dictionary nor these parts of the sequencer. -/
theorem of_same (h : KillLeaves u s) (hr : t.regs = s.regs) (hf : t.seq.faults = s.seq.faults)
    (ht : t.seq.tags = s.seq.tags) : KillLeaves u t :=
  ⟨fun i j hi hj => (State.reg_of_regs hr i j).trans (h.regs i j hi hj), hf.trans h.faults, ht ▸ h.tags⟩

/-- A step that leaves the dictionary and the sequencer alone. -/
theorem step {C : List Part} (h : KillLeaves u s) (hk : State.Keeps C s t) (hr : Part.regs ∉ C) (hs : Part.seq ∉ C) :
    KillLeaves u t :=
  h.of_same (hk.parts .regs hr) (congrArg Seq.faults (hk.parts .seq hs)) (congrArg Seq.tags (hk.parts .seq hs))

/-- An entry beside TGFAULT and DEVSTATE. -/
def Apart (idx sub : Nat) : Prop := idx < 0x2B00 ∧ idx ≠ 0x2620 ∧ sub < 256 ∨ 0x2B00 < idx

theorem write {idx sub : Nat} (h : KillLeaves u s) (hk : Apart idx sub) (v : Word64) : KillLeaves u (s.setReg idx sub v) where
  regs i j hi hj := by
    refine (State.reg_setReg_ne s v ?_).trans (h.regs i j hi hj)
    unfold Apart at hk
    unfold regKey
    omega
  faults := h.faults
  tags := h.tags

theorem writeFld {idx sub : Nat} (h : KillLeaves u s) (hk : Apart idx sub) (hi lo v : Nat) :
    KillLeaves u (s.setFld idx sub hi lo v) := h.write hk _

theorem count {idx sub : Nat} (h : KillLeaves u s) (hk : Apart idx sub) (n : Nat) : KillLeaves u (s.count idx sub n) :=
  h.write hk _

theorem event {idx sub : Nat} (h : KillLeaves u s) (hk : Apart idx sub) (n : Nat) : KillLeaves u (s.event idx sub n) := by
  have hseq : (s.event idx sub n).seq = s.seq :=
    (State.event_keeps (List.Subset.refl _) (State.Keeps.refl _ s) idx sub n).parts .seq (by decide)
  have he := State.event_entries (C := [(idx, sub), (0x3001, 0x0B)]) (List.mem_cons_self ..)
    (List.mem_cons_of_mem _ (List.mem_singleton_self _)) (Entries.refl _ s) n
  refine ⟨fun i j hi hj => (he i j fun k hk' => ?_).trans (h.regs i j hi hj), hseq ▸ h.faults, hseq ▸ h.tags⟩
  simp only [List.mem_cons, List.not_mem_nil, or_false] at hk'
  unfold Apart at hk
  obtain rfl | rfl := hk' <;> unfold regKey <;> omega

theorem ite {c : Prop} [Decidable c] (hs : KillLeaves u s) (ht : KillLeaves u t) : KillLeaves u (if c then s else t) := by
  split <;> assumption

theorem foldl {α : Type} {f : State → α → State} (l : List α) (hf : ∀ s, ∀ a ∈ l, KillLeaves u s → KillLeaves u (f s a))
    {s : State} (h : KillLeaves u s) : KillLeaves u (l.foldl f s) := by
  induction l generalizing s with
  | nil => exact h
  | cons a l ih => exact ih (fun s x hx => hf s x (List.mem_cons_of_mem _ hx)) (hf s a (List.mem_cons_self ..) h)

/-! #### Packets and requests -/

section
variable (h : KillLeaves u s)
include h

theorem countDiscard (i m : Nat) : KillLeaves u (s.countDiscard i m) := ite h (h.count (.inr (by omega)) _)

theorem enqueue (i : Nat) (q : EgItem) : KillLeaves u (s.enqueue i q) := ite (h.of_same rfl rfl rfl) (h.countDiscard _ _)

theorem egressPacket (f : MFrame) (a : Option Nat) (o : Nat) (b : Bool) : KillLeaves u (s.egressPacket f a o b) :=
  ite (h.countDiscard _ _) ((ite (h.count (.inr (by omega)) _) h).enqueue _ _)

theorem noRoute (a : Option Nat) : KillLeaves u (s.noRoute a) := by
  cases a with
  | none => exact h.event (.inl (by decide)) _
  | some a => exact (h.count (.inr (by omega)) _).event (.inl (by decide)) _

theorem forward (f : MFrame) (a : Option Nat) (b : Bool) : KillLeaves u (s.forward f a b) := by
  unfold State.forward
  split
  · exact h.of_same rfl rfl rfl
  · exact h.noRoute _
  · cases a with
    | some a => exact ite (h.count (.inr (by omega)) _) (h.egressPacket _ _ _ _)
    | none => exact ite h (h.egressPacket _ _ _ _)

omit h in
theorem pump (fuel node cls : Nat) {s : State} (h : KillLeaves u s) : KillLeaves u (State.pump fuel node cls s) := by
  induction fuel generalizing s with
  | zero => exact h
  | succ fuel ih =>
    unfold State.pump
    extract_lets c
    split
    · exact h
    · refine ite h (ih (forward (count ?_ (.inr (by decide)) _) _ _ _))
      exact h.of_same rfl rfl rfl

theorem send (node : Nat) (f : MFrame) : KillLeaves u (s.send node f) := by
  refine ite h (pump _ _ _ ?_)
  exact h.of_same rfl rfl rfl

theorem launch (r : Req) : KillLeaves u (s.launch r) := by
  unfold State.launch
  split
  · refine ite (h.of_same rfl rfl rfl) ?_
    dsimp only
    split
    · exact h.step (State.hostAsk_keeps (List.Subset.refl _) (State.Keeps.refl _ s) r) (by decide) (by decide)
    · exact h.of_same rfl rfl rfl
    · exact h.of_same rfl rfl rfl
  · exact ite (h.of_same rfl rfl rfl) (h.send _ _)
  · exact ite (h.of_same rfl rfl rfl) (h.of_same rfl rfl rfl)
  · exact h

theorem request (r : Req) : KillLeaves u (s.request r) := by
  unfold State.request
  extract_lets kind route r' s'
  have hs : KillLeaves u s' := h.of_same rfl rfl rfl
  exact ite (hs.launch _) hs

/-! #### Completion records -/

theorem seqWrite (pa : Nat) (bs : List Byte) (p : Purpose) (c : Option Ctx) : KillLeaves u (s.seqWrite pa bs p c).1 := by
  unfold State.seqWrite
  split
  · exact h.request _
  · exact ite h (h.of_same rfl rfl rfl)
  · exact h

theorem raise (vec : Nat) : KillLeaves u (s.raise vec) :=
  h.step (State.raise_keeps (List.Subset.refl _) (State.Keeps.refl _ s) vec) (by decide) (by decide)

theorem setCtx (c : Nat) (x : CtxRun) : KillLeaves u (s.setCtx c x) := h.of_same rfl rfl rfl

theorem recWritten (c : Nat) (irq : Bool) : KillLeaves u (s.recWritten c irq) :=
  ite (((h.setCtx _ _).setCtx _ _).raise _) (h.setCtx _ _)

theorem countRec (r : Rec) : KillLeaves u (s.countRec r) := by
  have hcount {t : State} (ht : KillLeaves u t) (sub : Nat) : KillLeaves u (t.count 0x3800 sub) := ht.count (.inr (by decide)) _
  unfold State.countRec
  extract_lets s1 s2
  have h2 : KillLeaves u s2 := ite (hcount (hcount h _) _) (hcount h _)
  exact ite (hcount h2 _) h2

theorem writeRec {c : Nat} (hc : c < 16) (r : Rec) : KillLeaves u (s.writeRec c r) := by
  unfold State.writeRec
  extract_lets x size phase pa s1
  have hw := seqWrite ((h.setCtx c { x with written := x.written + 1 }).countRec r) pa (wordBytes (r.words phase))
    (.record (ctxFin c) r.irq) (some (ctxFin c))
  split <;> rename_i heq <;> rw [heq] at hw
  · exact hw
  · exact hw.recWritten _ _
  · exact (hw.event (.inl ⟨by omega, by omega, by decide⟩) _).recWritten _ _

omit h in
theorem drainHeld (fuel : Nat) {c : Nat} (hc : c < 16) {s : State} (h : KillLeaves u s) :
    KillLeaves u (State.drainHeld fuel c s) := by
  induction fuel generalizing s with
  | zero => exact h
  | succ fuel ih =>
    unfold State.drainHeld
    extract_lets x
    split
    · exact h
    · exact ite (ih ((h.setCtx _ _).writeRec hc _)) h

theorem removeJob (j : Job) : KillLeaves u (s.removeJob j) := by
  have hfree (l : List Nat) (t : State) : (l.foldl (fun s c => s.setCluster c (s.cluster c).free) t).seq = t.seq :=
    State.foldl_preserves State.seq (f := fun s c => s.setCluster c (s.cluster c).free) (fun _ _ => rfl) l t
  have hregs : (s.removeJob j).regs = s.regs :=
    (State.removeJob_keeps (List.Subset.refl _) (State.Keeps.refl _ s) j).parts .regs (by decide)
  refine h.of_same hregs ?_ ?_
  · unfold State.removeJob
    dsimp only
    rw [hfree]
    rfl
  · unfold State.removeJob
    dsimp only
    rw [hfree]
    rfl

theorem report (j : Job) (e : JobEnd) (a b c : Nat) : KillLeaves u (s.report j e a b c) :=
  ite ((h.removeJob j).of_same rfl rfl rfl) (drainHeld _ j.ctx.isLt ((h.removeJob j).setCtx _ _))

theorem endJobs (c : Nat) (b : Blame) (records : Bool) : KillLeaves u (s.endJobs c b records) :=
  foldl _ (fun _ j _ h => ite (h.report _ _ _ _ _) (h.removeJob j)) h

/-! #### The kill of a context -/

theorem releaseTokens (base len owner : Nat) : KillLeaves u (s.releaseTokens base len owner) := by
  have hclaim : claimSub owner < 256 := by unfold claimSub; split <;> omega
  refine foldl _ (fun s c hc h => ?_) h
  have hsub : c + 1 < 256 := by simp only [List.mem_cons, List.not_mem_nil, or_false] at hc; omega
  exact (h.write (.inl ⟨by decide, by decide, hsub⟩) _).writeFld (.inl ⟨by decide, by decide, hclaim⟩) _ _ _

theorem clearSlot {i : Nat} (hi : i < 64) : KillLeaves u (s.clearSlot i) := by
  unfold State.clearSlot
  split
  · exact h
  · exact (h.releaseTokens _ _ _).write (.inl ⟨by decide, by decide, by omega⟩) _

theorem notePinBusy : KillLeaves u s.notePinBusy := by
  have hbit (b : Bool) : KillLeaves u (s.setBit 0x2311 4 4 b) := h.writeFld (.inl (by decide)) _ _ _
  exact ite (hbit _) ((hbit _).of_same rfl rfl rfl)

theorem killPins (c : Nat) : KillLeaves u (s.killPins c) := by
  unfold State.killPins
  extract_lets mine s1 gone old s2 s3 held s4
  have h1 : KillLeaves u s1 := by
    unfold s1
    split
    · refine ite (writeFld ?_ (.inl (by decide)) _ _ _) h
      exact h.of_same rfl rfl rfl
    · exact h
  have h2 : KillLeaves u s2 := h1.of_same rfl rfl rfl
  have h3 : KillLeaves u s3 := foldl _ (fun _ p hp h =>
    h.clearSlot (State.lt_of_mem_pinSlots (List.mem_filter.1 hp).1)) h2
  have h4 : KillLeaves u s4 := h3.of_same rfl rfl rfl
  exact h4.notePinBusy

end

end KillLeaves

theorem State.killWork_leaves (s : State) (c : Nat) (b : Blame) (records : Bool) : KillLeaves s (s.killWork c b records) := by
  unfold State.killWork
  generalize List.range 8 = rings
  extract_lets cls s1 s2 s3 s4 s5 s6 q s7 s8 x
  have h2 : KillLeaves s s2 := (KillLeaves.refl s).of_same rfl rfl rfl
  have h4 : KillLeaves s s4 := (h2.endJobs c b records).killPins c
  have h5 : KillLeaves s s5 := h4.of_same rfl rfl rfl
  have hring (t : State) (r : Nat) (ht : KillLeaves s t) : KillLeaves s
      (if (t.ring c r).entBusy then t.setRing c r { t.ring c r with killed := true } else t) :=
    KillLeaves.ite (ht.of_same rfl rfl rfl) ht
  have h6 : KillLeaves s s6 := KillLeaves.foldl rings (fun t r _ ht => hring t r ht) h5
  clear_value s6
  have h7 : KillLeaves s s7 := 
    ⟨h6.regs, h6.faults, List.Subset.trans (List.filter_subset_self _) h6.tags⟩
  exact h7.of_same rfl rfl rfl

end Sys2Proof.Machine
end

section
/-! SUPPORT. The faults that a clock ends with: the first is logged in TGFAULT and kills its context (R267 to R269). -/

namespace Sys2Proof.Machine

/-! ### A context stays killed -/

theorem State.snapFault_leaves (s : State) : KillLeaves s s.snapFault := by
  have hkeeps : State.Keeps [.regs, .snap, .out] s s.snapFault := State.snapFault_keeps (List.Subset.refl _) (State.Keeps.refl _ s)
  have hseq : s.snapFault.seq = s.seq := hkeeps.parts .seq (by decide)
  refine ⟨fun i j hi hj => State.snapFault_sameBelow (le_refl _) (SameBelow.refl _ s) i j ?_, congrArg Seq.faults hseq,
    fun _ he => congrArg Seq.tags hseq ▸ he⟩
  unfold regKey
  omega

theorem State.killContext_leaves (s : State) {c : Nat} (hc : c < 16) (cause : Nat) (b : Blame) :
    KillLeaves s (s.killContext c cause b) := by
  rw [State.killContext, State.killQuiet_eq]
  have hsub : KillLeaves.Apart 0x2860 (c + 1) := .inl ⟨by decide, by decide, by omega⟩
  exact ((s.snapFault_leaves.trans (s.snapFault.killWork_leaves c b true)).writeFld hsub _ _ _).writeFld hsub _ _ _

/-- The context is HALTED with the cause of its kill, and the sequencer lists nothing of it. -/
structure Gone (c cause : Nat) (t : State) : Prop where
  halted : t.ctxState c = ctxHalted
  cause : t.fld 0x2860 (c + 1) 15 8 = cause
  jobs : t.jobsOf c = []
  tags : ∀ e ∈ t.seq.tags, e.1 / 256 ≠ c

namespace Gone

variable {c cause : Nat} {s : State}

theorem killed (h : Gone c cause s) : Killed c cause s :=
  ⟨h.halted, h.cause, h.jobs, fun _ ht => State.tagBal_eq_zero h.tags ht⟩

theorem of_killContext (s : State) (hcause : cause < 256) (b : Blame) : Gone c cause (s.killContext c cause b) := by
  obtain ⟨hhalted, hkillcause, hjobs, -⟩ := s.snapFault.killQuiet_killed c hcause b
  exact ⟨hhalted, hkillcause, hjobs, s.snapFault.killWork_tags c b true⟩

/-- What touches neither the context's entry nor the sequencer leaves it killed. -/
theorem of_same (h : Gone c cause s) {t : State} (hreg : t.reg 0x2860 (c + 1) = s.reg 0x2860 (c + 1)) (hseq : t.seq = s.seq) :
    Gone c cause t where
  halted := by
    rw [State.ctxState, State.fld, hreg]
    exact h.halted
  cause := by
    rw [State.fld, hreg]
    exact h.cause
  jobs := by
    rw [State.jobsOf, hseq]
    exact h.jobs
  tags := hseq ▸ h.tags

/-- The kill of another context leaves it killed. -/
theorem killContext (h : Gone c cause s) (hc : c < 16) {d : Nat} (hne : c ≠ d) (cause' : Nat) (b : Blame) :
    Gone c cause (s.killContext d cause' b) := by
  have hkeeps : State.Keeps [.regs, .snap, .out] s s.snapFault := State.snapFault_keeps (List.Subset.refl _) (State.Keeps.refl _ s)
  have hbelow : regKey 0x2860 (c + 1) < regKey 0x2C00 0 := by unfold regKey; omega
  have hsnap : Gone c cause s.snapFault := h.of_same (State.snapFault_sameBelow (le_refl _) (SameBelow.refl _ s) _ _ hbelow)
    (hkeeps.parts .seq (by decide))
  obtain ⟨-, hwithin⟩ := s.snapFault.killWork_spec d b
  have hspares := s.snapFault.killWork_spares d b true 0x2860 (c + 1) (by decide) (by decide) (by omega)
  have htags := (s.snapFault.killWork_leaves d b true).tags
  rw [State.killContext, State.killQuiet_eq]
  generalize s.snapFault.killWork d b true = w at hwithin hspares htags ⊢
  have hapart : regKey 0x2860 (c + 1) ≠ regKey 0x2860 (d + 1) := by unfold regKey; omega
  have hreg : ((w.setFld 0x2860 (d + 1) 15 8 cause').setCtxState d ctxHalted).reg 0x2860 (c + 1)
      = s.snapFault.reg 0x2860 (c + 1) := by
    rw [State.setCtxState, State.reg_setFld_ne _ _ _ _ hapart, State.reg_setFld_ne _ _ _ _ hapart, hspares]
  exact ⟨by rw [State.ctxState, State.fld, hreg]; exact hsnap.halted, by rw [State.fld, hreg]; exact hsnap.cause,
    hwithin.jobsOf_nil hsnap.jobs, fun e he => hsnap.tags e (htags he)⟩

end Gone

/-! ### TGFAULT (R268, R269) -/

/-- TGFAULT's word of a fault, without VALID. -/
def faultWord (f : TgNote) (ctx : Nat) : Word64 :=
  packWord [(f.cause, 0), (ctx, 8), (f.cl, 12), (f.sched, 18), (f.slot, 20), (f.lane, 24), (f.pc % 2 ^ 32, 32)]

/-- The sum of numbers at bit positions. -/
def packSum (v : Nat) : List (Nat × Nat) → Nat
  | [] => v
  | x :: xs => packSum (v + x.1 * 2 ^ x.2) xs

theorem packSum_cons (v a b : Nat) (xs : List (Nat × Nat)) : packSum v ((a, b) :: xs) = packSum (v + a * 2 ^ b) xs := rfl

theorem packSum_nil (v : Nat) : packSum v [] = v := rfl

theorem packWord_eq_packSum (xs : List (Nat × Nat)) : packWord xs = BitVec.ofNat 64 (packSum 0 xs) := by
  have hfold (v : Nat) : xs.foldl (fun v x => v + x.1 * 2 ^ x.2) v = packSum v xs := by
    induction xs generalizing v with
    | nil => rfl
    | cons x xs ih => exact ih _
  rw [packWord, hfold]

/-- A field of a word that is the sum of its parts. -/
theorem fieldOf_of_parts {w : Word64} {hi lo low x rest : Nat} (hlow : low < 2 ^ lo) (hx : x < 2 ^ (hi + 1 - lo))
    (hw : w.toNat = low + 2 ^ lo * (x + 2 ^ (hi + 1 - lo) * rest)) : fieldOf w hi lo = x := by
  rw [fieldOf, hw, Nat.add_mul_div_left _ _ (by positivity), Nat.div_eq_of_lt hlow, Nat.zero_add, Nat.add_mul_mod_self_left,
    Nat.mod_eq_of_lt hx]

section
variable {cause ctx cl sched slot lane pc : Nat} (hcause : cause < 2 ^ 8) (hctx : ctx < 2 ^ 4) (hcl : cl < 2 ^ 6)
  (hsched : sched < 2 ^ 2) (hslot : slot < 2 ^ 4) (hlane : lane < 2 ^ 5) (hpc : pc < 2 ^ 32)
include hcause hctx hcl hsched hslot hlane hpc

theorem packFault_toNat : (packWord [(cause, 0), (ctx, 8), (cl, 12), (sched, 18), (slot, 20), (lane, 24), (pc, 32)]).toNat =
    cause + 2 ^ 8 * ctx + 2 ^ 12 * cl + 2 ^ 18 * sched + 2 ^ 20 * slot + 2 ^ 24 * lane + 2 ^ 32 * pc := by
  have hsum : packSum 0 [(cause, 0), (ctx, 8), (cl, 12), (sched, 18), (slot, 20), (lane, 24), (pc, 32)] =
      cause + 2 ^ 8 * ctx + 2 ^ 12 * cl + 2 ^ 18 * sched + 2 ^ 20 * slot + 2 ^ 24 * lane + 2 ^ 32 * pc := by
    rw [packSum_cons, packSum_cons, packSum_cons, packSum_cons, packSum_cons, packSum_cons, packSum_cons, packSum_nil]
    ring
  rw [packWord_eq_packSum, BitVec.toNat_ofNat, hsum, Nat.mod_eq_of_lt]
  linarith

theorem packFault_fields {w : Word64}
    (hw : w = packWord [(cause, 0), (ctx, 8), (cl, 12), (sched, 18), (slot, 20), (lane, 24), (pc, 32)]) :
    fieldOf w 7 0 = cause ∧ fieldOf w 11 8 = ctx ∧ fieldOf w 17 12 = cl ∧ fieldOf w 19 18 = sched ∧ fieldOf w 23 20 = slot
      ∧ fieldOf w 28 24 = lane ∧ fieldOf w 29 29 = 0 ∧ fieldOf w 63 32 = pc := by
  have hnat := packFault_toNat hcause hctx hcl hsched hslot hlane hpc
  rw [← hw] at hnat
  refine ⟨fieldOf_of_parts (low := 0)
      (rest := ctx + 2 ^ 4 * cl + 2 ^ 10 * sched + 2 ^ 12 * slot + 2 ^ 16 * lane + 2 ^ 24 * pc) ?_ hcause ?_,
    fieldOf_of_parts (low := cause) (rest := cl + 2 ^ 6 * sched + 2 ^ 8 * slot + 2 ^ 12 * lane + 2 ^ 20 * pc) hcause hctx ?_,
    fieldOf_of_parts (low := cause + 2 ^ 8 * ctx) (rest := sched + 2 ^ 2 * slot + 2 ^ 6 * lane + 2 ^ 14 * pc) ?_ hcl ?_,
    fieldOf_of_parts (low := cause + 2 ^ 8 * ctx + 2 ^ 12 * cl) (rest := slot + 2 ^ 4 * lane + 2 ^ 12 * pc) ?_ hsched ?_,
    fieldOf_of_parts (low := cause + 2 ^ 8 * ctx + 2 ^ 12 * cl + 2 ^ 18 * sched) (rest := lane + 2 ^ 8 * pc) ?_ hslot ?_,
    fieldOf_of_parts (low := cause + 2 ^ 8 * ctx + 2 ^ 12 * cl + 2 ^ 18 * sched + 2 ^ 20 * slot) (rest := 2 ^ 3 * pc) ?_ hlane ?_,
    fieldOf_of_parts (low := cause + 2 ^ 8 * ctx + 2 ^ 12 * cl + 2 ^ 18 * sched + 2 ^ 20 * slot + 2 ^ 24 * lane)
      (rest := 2 ^ 2 * pc) ?_ (Nat.two_pow_pos _) ?_,
    fieldOf_of_parts (low := cause + 2 ^ 8 * ctx + 2 ^ 12 * cl + 2 ^ 18 * sched + 2 ^ 20 * slot + 2 ^ 24 * lane)
      (rest := 0) ?_ hpc ?_⟩
  all_goals norm_num
  all_goals linarith

end

/-- A fault as it is logged where TGFAULT is free. -/
def State.tgLogged (s : State) (w addr : Word64) : State :=
  if s.bit 0x2620 8 29 || s.heldClear 0x2620 8 29 then s
  else ((s.setReg 0x2620 8 w).setReg 0x2620 9 addr).event 0x2620 8 29

section
variable {s : State} {f : TgNote} {j : Job}

theorem State.tgKill_eq (hjob : s.jobOn f.cl = some j) (hid : j.id = f.job) :
    s.tgKill f =
      (s.tgLogged (faultWord f j.ctx.val) f.addr).killContext j.ctx.val f.cause [(j.id, f.cause, 0, f.cl)] := by
  rw [State.tgKill, hjob]
  dsimp only
  rw [if_neg (not_not.2 hid)]
  rfl

theorem State.tgKill_ended (h : ∀ j, s.jobOn f.cl = some j → j.id ≠ f.job) : s.tgKill f = s := by
  rw [State.tgKill]
  cases hjob : s.jobOn f.cl with
  | none => rfl
  | some j => exact if_pos (h j hjob)

theorem State.tgLogged_entries (s : State) (w addr : Word64) :
    Entries [(0x2620, 8), (0x2620, 9), (0x3001, 0x0B)] s (s.tgLogged w addr) := by
  unfold State.tgLogged
  split
  · exact .refl _ s
  · exact State.event_entries (by decide) (by decide) (((Entries.refl _ s).write (by decide) _).write (by decide) _) _

theorem State.tgLogged_seq (s : State) (w addr : Word64) : (s.tgLogged w addr).seq = s.seq := by
  have hkeeps : State.Keeps [.regs, .link, .can, .out] s (s.tgLogged w addr) :=
    State.Keeps.ite (State.Keeps.refl _ s) (State.event_keeps (List.Subset.refl _) (State.Keeps.setReg (by decide)
      (State.Keeps.setReg (by decide) (State.Keeps.refl _ s) _ _ _) _ _ _) _ _ _)
  exact hkeeps.parts .seq (by decide)

theorem State.tgLogged_held (w addr : Word64) (h : s.bit 0x2620 8 29 = true) : s.tgLogged w addr = s := by
  simp [State.tgLogged, h]

/-- A free TGFAULT takes the fault. -/
theorem State.tgLogged_free {w : Word64} (addr : Word64) (hword : fieldOf w 29 29 = 0) (hfree : s.bit 0x2620 8 29 = false)
    (hheld : s.heldClear 0x2620 8 29 = false) :
    (s.tgLogged w addr).reg 0x2620 8 = withField w 29 29 1 ∧ (s.tgLogged w addr).reg 0x2620 9 = addr := by
  generalize hu : (s.setReg 0x2620 8 w).setReg 0x2620 9 addr = u
  have hlow : u.reg 0x2620 8 = w := by rw [← hu, State.reg_setReg_ne _ _ (by decide), State.reg_setReg_self]
  have hhigh : u.reg 0x2620 9 = addr := by rw [← hu, State.reg_setReg_self]
  have hbit : u.bit 0x2620 8 29 = false := by simp [State.bit, State.fld, hlow, hword]
  have hheld' : u.heldClear 0x2620 8 29 = false := by rw [← hu, State.heldClear_setReg, State.heldClear_setReg, hheld]
  have hlog : s.tgLogged w addr = (u.setBit 0x2620 8 29 true).eventTold 0x2620 8 29 := by
    rw [State.tgLogged, hfree, hheld, hu, Bool.or_self, if_neg Bool.false_ne_true, State.event_eq, hbit, hheld', Bool.or_self,
      if_neg Bool.false_ne_true]
  have htold := State.eventTold_entries (C := [(0x3001, 0x0B)]) (by decide) (Entries.refl _ (u.setBit 0x2620 8 29 true)) 0x2620 8 29
  rw [hlog]
  refine ⟨(htold _ _ (by decide)).trans ?_, (htold _ _ (by decide)).trans ?_⟩
  · rw [State.setBit, State.setFld, State.reg_setReg_self, hlow, Bool.toNat_true]
  · rw [State.setBit, State.reg_setFld_ne _ _ _ _ (by decide), hhigh]

/-! ### The faults of a clock -/

theorem State.tgKill_cases (s : State) (f : TgNote) : s.tgKill f = s
    ∨ ∃ j, s.jobOn f.cl = some j ∧ s.tgKill f =
      (s.tgLogged (faultWord f j.ctx.val) f.addr).killContext j.ctx.val f.cause [(j.id, f.cause, 0, f.cl)] := by
  by_cases h : ∃ j, s.jobOn f.cl = some j ∧ j.id = f.job
  · obtain ⟨j, hjob, hid⟩ := h
    exact .inr ⟨j, hjob, State.tgKill_eq hjob hid⟩
  · exact .inl (State.tgKill_ended fun j hjob hid => h ⟨j, hjob, hid⟩)

/-- A fault that is not logged leaves TGFAULT, and every fault leaves the device state and the faults still to come. -/
theorem State.tgKill_leaves (s : State) (f : TgNote) : (s.bit 0x2620 8 29 = true → KillLeaves s (s.tgKill f))
    ∧ (s.tgKill f).reg 0x2B00 1 = s.reg 0x2B00 1 ∧ (s.tgKill f).seq.faults = s.seq.faults := by
  rcases s.tgKill_cases f with h | ⟨j, -, h⟩
  · rw [h]
    exact ⟨fun _ => .refl s, rfl, rfl⟩
  · have hkill := (s.tgLogged (faultWord f j.ctx.val) f.addr).killContext_leaves j.ctx.isLt f.cause [(j.id, f.cause, 0, f.cl)]
    rw [h]
    refine ⟨fun hbit => ?_, ?_, ?_⟩
    · rwa [State.tgLogged_held _ _ hbit] at hkill ⊢
    · exact (hkill.regs _ _ (.inr rfl) (by decide)).trans (s.tgLogged_entries _ _ _ _ (by decide))
    · rw [hkill.faults, State.tgLogged_seq]

theorem State.tgKills_leave (fs : List TgNote) (s : State) : (s.bit 0x2620 8 29 = true → KillLeaves s (fs.foldl State.tgKill s))
    ∧ (fs.foldl State.tgKill s).reg 0x2B00 1 = s.reg 0x2B00 1 ∧ (fs.foldl State.tgKill s).seq.faults = s.seq.faults := by
  induction fs generalizing s with
  | nil => exact ⟨fun _ => .refl s, rfl, rfl⟩
  | cons f fs ih =>
    obtain ⟨hlog, hdev, hfaults⟩ := s.tgKill_leaves f
    obtain ⟨hlog', hdev', hfaults'⟩ := ih (s.tgKill f)
    refine ⟨fun hbit => (hlog hbit).trans (hlog' ?_), hdev'.trans hdev, hfaults'.trans hfaults⟩
    rwa [State.bit_of_reg ((hlog hbit).regs _ _ (.inl rfl) (by decide))]

theorem State.mem_jobs_of_jobOn {cl : Nat} (h : s.jobOn cl = some j) : j ∈ s.seq.jobs := by
  obtain ⟨id, -, hid⟩ := Option.bind_eq_some_iff.1 h
  exact List.mem_of_find?_eq_some hid

/-- A context with no job left is not killed again. -/
theorem Gone.tgKill {c cause : Nat} (h : Gone c cause s) (hc : c < 16) (f : TgNote) : Gone c cause (s.tgKill f) := by
  rcases s.tgKill_cases f with heq | ⟨j, hjob, heq⟩
  · rwa [heq]
  · have hne : c ≠ j.ctx.val := (State.jobsOf_eq_nil.1 h.jobs j (State.mem_jobs_of_jobOn hjob)).symm
    have hkeys : ∀ k ∈ [(0x2620, 8), (0x2620, 9), (0x3001, 0x0B)], regKey 0x2860 (c + 1) ≠ regKey k.1 k.2 := by
      simp only [List.forall_mem_cons, regKey]
      refine ⟨by omega, by omega, by omega, by simp⟩
    rw [heq]
    exact Gone.killContext (h.of_same (s.tgLogged_entries _ _ _ _ hkeys) (s.tgLogged_seq _ _)) hc hne _ _

theorem Gone.tgKills {c cause : Nat} (hc : c < 16) (fs : List TgNote) {s : State} (h : Gone c cause s) :
    Gone c cause (fs.foldl State.tgKill s) := by
  induction fs generalizing s with
  | nil => exact h
  | cons f fs ih => exact ih (h.tgKill hc f)

end

theorem orderFaults_of_first {fs : List TgNote} {n : TgNote} (h : firstBy TgNote.before fs = some n) :
    ∃ rest, orderFaults fs.length fs = n :: rest := by
  cases fs with
  | nil => cases h
  | cons f fs => exact ⟨_, by rw [List.length_cons, orderFaults, h]⟩

theorem orderFaults_subset (k : Nat) (fs : List TgNote) : orderFaults k fs ⊆ fs := by
  induction k generalizing fs with
  | zero => exact List.nil_subset _
  | succ k ih =>
    rw [orderFaults]
    split
    · next f hf => exact List.cons_subset.2 ⟨firstBy_mem hf, List.Subset.trans (ih _) (List.filter_subset_self _)⟩
    · exact List.nil_subset _

/-- The noted faults are taken up, and none is noted. -/
def State.faultsTaken (s : State) : State := { s with seq := { s.seq with faults := [] } }

theorem State.faultsTaken_of_nil {s : State} (h : s.seq.faults = []) : s.faultsTaken = s := by
  rw [State.faultsTaken, ← h]

theorem State.killFaulted_eq (s : State) :
    s.killFaulted = (orderFaults s.seq.faults.length s.seq.faults).foldl State.tgKill s.faultsTaken := rfl

theorem State.killFaulted_faults (s : State) : s.killFaulted.seq.faults = [] := (State.tgKills_leave _ s.faultsTaken).2.2

/-- Faults of jobs that have ended bring nothing. -/
theorem State.killFaulted_ended {s : State} (h : ∀ n ∈ s.seq.faults, ∀ j, s.jobOn n.cl = some j → j.id ≠ n.job) :
    s.killFaulted = s.faultsTaken := by
  have hgen : ∀ fs ⊆ s.seq.faults, fs.foldl State.tgKill s.faultsTaken = s.faultsTaken := by
    intro fs hfs
    induction fs with
    | nil => rfl
    | cons f fs ih =>
      obtain ⟨hf, hfs⟩ := List.cons_subset.1 hfs
      rw [List.foldl_cons, State.tgKill_ended (s := s.faultsTaken) (h f hf), ih hfs]
  exact (s.killFaulted_eq).trans (hgen _ (orderFaults_subset _ _))

/-- Faults that have been taken up are not taken up again. -/
theorem State.killFaulted_killFaulted (s : State) : s.killFaulted.killFaulted = s.killFaulted := by
  have hnone := s.killFaulted_faults
  rw [State.killFaulted_ended (s := s.killFaulted) (by simp [hnone]), State.faultsTaken_of_nil hnone]

theorem step_killFaulted {s : State} (hidle : s.pending = []) (hon : s.dev ≠ devOff) : step s = step s.killFaulted := by
  have hkeeps := State.killFaulted_keeps (List.Subset.refl _) (State.Keeps.refl _ s)
  have hdev : s.killFaulted.dev = s.dev := by
    rw [State.dev, State.fld, s.killFaulted_eq, (State.tgKills_leave _ _).2.1]
    rfl
  have hspout : s.killFaulted.time = s.time := hkeeps.parts .time (by decide)
  have htick : s.tick = s.killFaulted.tick := by
    rw [State.tick_eq hon, State.tick_eq (hdev ▸ hon), s.killFaulted_killFaulted, State.passed, State.passed,
      s.coreStopped_killFaulted, s.tickPeriod_killFaulted, hspout]
  rw [step, hidle, step, hkeeps.queue.trans hidle, htick]

end Sys2Proof.Machine
end

section
/-! SUPPORT. Faults of threads are noted, and the first of a clock kills (R266 to R269): the statement from its clauses. -/

namespace Sys2Proof.Machine

/-! ### The first fault of a clock -/

section
variable {s : State} {n : TgNote} {j : Job} (hfirst : firstBy TgNote.before s.seq.faults = some n) (hjob : s.jobOn n.cl = some j)
  (hid : j.id = n.job)
include hfirst hjob hid

/-- The first fault kills its context, and the others come after it. -/
theorem State.killFaulted_first : ∃ rest : List TgNote, s.killFaulted = rest.foldl State.tgKill
    ((s.faultsTaken.tgLogged (faultWord n j.ctx.val) n.addr).killContext j.ctx.val n.cause [(j.id, n.cause, 0, n.cl)]) := by
  obtain ⟨rest, hrest⟩ := orderFaults_of_first hfirst
  refine ⟨rest, ?_⟩
  rw [s.killFaulted_eq, hrest, List.foldl_cons, State.tgKill_eq (s := s.faultsTaken) hjob hid]

theorem State.killFaulted_killed (hcause : n.cause < 256) : Killed j.ctx.val n.cause s.killFaulted := by
  obtain ⟨rest, heq⟩ := State.killFaulted_first hfirst hjob hid
  rw [heq]
  exact (Gone.tgKills j.ctx.isLt rest (Gone.of_killContext _ hcause _)).killed

/-- What TGFAULT holds once the first fault has killed its context stays. -/
theorem State.killFaulted_log (hbit : (s.faultsTaken.tgLogged (faultWord n j.ctx.val) n.addr).bit 0x2620 8 29 = true) {sub : Nat}
    (hsub : sub < 256) :
    s.killFaulted.reg 0x2620 sub = (s.faultsTaken.tgLogged (faultWord n j.ctx.val) n.addr).reg 0x2620 sub := by
  obtain ⟨rest, heq⟩ := State.killFaulted_first hfirst hjob hid
  have hkill := (s.faultsTaken.tgLogged (faultWord n j.ctx.val) n.addr).killContext_leaves j.ctx.isLt n.cause
    [(j.id, n.cause, 0, n.cl)]
  have hrest := (State.tgKills_leave rest _).1 ((State.bit_of_reg (hkill.regs _ _ (.inl rfl) (by decide)) _).trans hbit)
  rw [heq]
  exact (hkill.trans hrest).regs _ _ (.inl rfl) hsub

theorem State.killFaulted_kept (hbit : s.bit 0x2620 8 29 = true) : s.killFaulted.reg 0x2620 8 = s.reg 0x2620 8
    ∧ s.killFaulted.reg 0x2620 9 = s.reg 0x2620 9 := by
  have hheld : s.faultsTaken.tgLogged (faultWord n j.ctx.val) n.addr = s.faultsTaken := State.tgLogged_held _ _ hbit
  have hlog (sub : Nat) (hsub : sub < 256) := State.killFaulted_log hfirst hjob hid (by rw [hheld]; exact hbit) hsub
  rw [hheld] at hlog
  exact ⟨hlog 8 (by decide), hlog 9 (by decide)⟩

theorem State.killFaulted_logged (hcl : n.cl < 64) (hsched : n.sched < 4) (hslot : n.slot < 12) (hlane : n.lane < 32)
    (hcause : n.cause < 256) (hfree : s.bit 0x2620 8 29 = false) (hheld : s.heldClear 0x2620 8 29 = false) :
    s.killFaulted.bit 0x2620 8 29 = true ∧ s.killFaulted.fld 0x2620 8 7 0 = n.cause
      ∧ s.killFaulted.fld 0x2620 8 11 8 = j.ctx.val ∧ s.killFaulted.fld 0x2620 8 17 12 = n.cl
      ∧ s.killFaulted.fld 0x2620 8 19 18 = n.sched ∧ s.killFaulted.fld 0x2620 8 23 20 = n.slot
      ∧ s.killFaulted.fld 0x2620 8 28 24 = n.lane
      ∧ s.killFaulted.fld 0x2620 8 63 32 = n.pc % 2 ^ 32 ∧ s.killFaulted.reg 0x2620 9 = n.addr := by
  obtain ⟨hc, hx, hl, hs, ht, hn, hvalid, hp⟩ := packFault_fields hcause j.ctx.isLt hcl hsched (hslot.trans (by decide)) hlane
    (Nat.mod_lt n.pc (Nat.two_pow_pos 32)) (w := faultWord n j.ctx.val) rfl
  obtain ⟨hlow, hhigh⟩ := State.tgLogged_free (s := s.faultsTaken) n.addr hvalid hfree hheld
  have hset : fieldOf (withField (faultWord n j.ctx.val) 29 29 1) 29 29 = 1 := fieldOf_withField _ 1 (by decide) (by decide)
  have hbit : (s.faultsTaken.tgLogged (faultWord n j.ctx.val) n.addr).bit 0x2620 8 29 = true := by
    rw [State.bit, State.fld, hlow, hset, decide_eq_true rfl]
  have hlog := (State.killFaulted_log hfirst hjob hid hbit (by decide)).trans hlow
  have hfld {hi lo : Nat} (hi64 : hi < 64) (hapart : hi < 29 ∨ 29 < lo) :
      s.killFaulted.fld 0x2620 8 hi lo = fieldOf (faultWord n j.ctx.val) hi lo := by
    rw [State.fld, hlog, fieldOf_withField_ne _ _ (by decide) (by decide) hi64 hapart]
  refine ⟨?_, (hfld (by decide) (by decide)).trans hc, (hfld (by decide) (by decide)).trans hx,
    (hfld (by decide) (by decide)).trans hl, (hfld (by decide) (by decide)).trans hs, (hfld (by decide) (by decide)).trans ht,
    (hfld (by decide) (by decide)).trans hn, (hfld (by decide) (by decide)).trans hp,
    (State.killFaulted_log hfirst hjob hid hbit (by decide)).trans hhigh⟩
  rw [State.bit, State.fld, hlog, hset, decide_eq_true rfl]

end

/-! ### The faults of an issue set -/

section
variable {s : State} {x : Ex} {f : TgF}

/-- What a scheduler has in hand belongs to the job of its cluster. -/
theorem State.exOf_job {cl : Cl} {sched : Sched} (h : s.exOf cl sched = some x) :
    s.jobOn x.cl = some x.job ∧ x.cl = cl ∧ x.sched = sched := by
  unfold State.exOf at h
  split at h
  · next i j hissue hjob =>
    split at h
    · obtain rfl := Option.some.inj h
      exact ⟨hjob, rfl, rfl⟩
    · cases h
  · cases h

theorem State.fail_notes (hjob : s.jobOn x.cl = some x.job) (f : TgF) : Noted s (s.fail x f) (x.note f) :=
  State.tgFault_notes hjob _ _ _ _ _ _

/-- What comes before the effect of an instruction on its lanes. -/
theorem State.perLane_fails {th : Th} {regs : List Nat} {bad : State → Ex → Nat → Option (Nat × Word64)}
    (hex : s.exOf th.cl th.sched = some x)
    (h : (x.regsOk regs = false ∧ f = ⟨0x22, x.lanes.headD 0, 0⟩)
      ∨ (x.regsOk regs = true ∧ firstFault x.lanes (bad s x) = some f)) (rate : Nat) (g : Ex → Nat → State → State) :
    s.perLane th regs rate bad g = s.fail x f := by
  rcases h with ⟨hregs, rfl⟩ | ⟨hregs, hfault⟩
  · simp only [State.perLane, hex, hregs, Bool.not_false, if_true]
  · simp only [State.perLane, hex, hregs, hfault, Bool.not_true, Bool.false_eq_true, if_false]

theorem aluInstruction_faults {th : Th} {op : AluOp} (hex : s.exOf th.cl th.sched = some x)
    (h : (x.regsOk ((aluUse op).1 ++ (aluUse op).2.1) = false ∧ f = ⟨0x22, x.lanes.headD 0, 0⟩)
      ∨ (x.regsOk ((aluUse op).1 ++ (aluUse op).2.1) = true ∧ firstFault x.lanes (aluBad op s x) = some f)) :
    Runs (.aluInstruction th op) s [.regs, .seq] fun t => Noted s t (x.note f) :=
  ⟨_, congrArg Host.Outcome.next (State.perLane_fails hex h _ _),
    (State.tgFault_keeps (List.Subset.refl _) (State.Keeps.refl _ s) _ _ _ _ _ _ _).frame,
    State.fail_notes (State.exOf_job hex).1 f⟩

theorem aluBad_of_poison {l : Nat} {op : AluOp} (hop : op ≠ .undefinedEncoding) (h : s.regPoison x l (aluUse op).1 = true) :
    aluBad op s x l = some (0x25, 0) := by
  have hbad : aluBad op s x l = poisonBad (aluUse op).1 s x l := by
    cases op
    case undefinedEncoding => exact absurd rfl hop
    all_goals rfl
  rw [hbad, poisonBad, if_pos h]

end

/-! ### TGFAULT is freed (R13, R269) -/

theorem tgfaultClear_frees {s : State} {via : Via} {value : Word64} (hc : s.carries via 0x2620 8 = true)
    (hv : (s.given via value).getLsbD 29 = true) :
    Writes (.tgfaultClear via value) via 0x2620 8 s [.regs, .cleared] fun u t =>
      t.bit 0x2620 8 29 = false ∧ t.heldClear 0x2620 8 29 = true ∧ Entries [(0x2620, 8), (0x2620, 9)] u t := by
  have hentry : entryOf 0x2620 8 = some ⟨true, 6, 0, mask 29 29, 0, 0, 0, 0⟩ := by decide +kernel
  have heffect (u : State) (nv : Word64) : u.writeEffect via 0x2620 8 (s.given via value) nv =
      ((u.setReg 0x2620 8 0).setReg 0x2620 9 0, .done) := by
    simp [State.writeEffect, State.writeCompute, hv]
  have hfit : s.fits 0x2620 8 ⟨true, 6, 0, mask 29 29, 0, 0, 0, 0⟩ (s.given via value) = true := by simp [State.fits, inRange]
  refine Writes.of_effect rfl hc hentry (by decide) hfit (by decide) (by decide) (by decide) (heffect _ _) ?_ ⟨?_, ?_, ?_⟩
  · exact (State.noteClear_keeps (by decide) (State.Keeps.setReg (by decide)
      (State.Keeps.setReg (by decide) (State.Keeps.refl _ _) _ _ _) _ _ _) _ _ _).frame
  · rw [State.bit_of_reg (State.reg_of_regs (State.noteClear_regs _ _ _ _) _ _), State.bit_eq_getLsbD,
      State.reg_setReg_ne _ _ (by decide), State.reg_setReg_self]
    rfl
  · exact State.heldClear_noteClear _ _ _ (by
      rw [BitVec.getLsbD_and]
      exact Bool.and_eq_true_iff.2 ⟨hv, by decide⟩)
  · exact (((Entries.refl _ _).write (by decide) _).write (by decide) _).of_regs (State.noteClear_regs _ _ _ _)

/-- Settles O31: the first fault of the clock is the first to kill, and the kills after it touch neither its context nor
TGFAULT. -/
theorem threadFaultsAreLoggedAndKill : Obligations.ThreadFaultsAreLoggedAndKill := by
  refine ⟨fun _ _ _ _ _ hex h => aluInstruction_faults hex h, fun _ _ _ _ hop h => aluBad_of_poison hop h, fun _ _ _ => rfl,
    fun s n j hfirst hjob hid hcl hsched hslot hlane hcause => ?_, fun _ h => State.killFaulted_ended h,
    fun _ hidle hon => step_killFaulted hidle hon, fun _ _ _ hc hv => tgfaultClear_frees hc hv⟩
  exact ⟨((State.killFaulted_keeps (List.Subset.refl _) (State.Keeps.refl _ s)).wider (by decide)).frame,
    State.killFaulted_killed hfirst hjob hid hcause, s.killFaulted_faults,
    State.killFaulted_logged hfirst hjob hid hcl hsched hslot hlane hcause, State.killFaulted_kept hfirst hjob hid⟩

end Sys2Proof.Machine
end

section
/-! SUPPORT. Lanes that meet at a collective (R240 to R242): those that wait, and those that go on together. -/

namespace Sys2Proof.Machine

/-! ### The lanes of a mask -/

theorem maskLanes_nodup (m : Word32) : (maskLanes m).Nodup := List.nodup_range.filter _

theorem lt_of_mem_maskLanes {m : Word32} {l : Nat} (h : l ∈ maskLanes m) : l < 32 := List.mem_range.1 (List.mem_filter.1 h).1

theorem firstFault_eq_none {ls : List Nat} {f : Nat → Option (Nat × Word64)} :
    firstFault ls f = none ↔ ∀ l ∈ ls, f l = none := by
  simp only [firstFault, List.findSome?_eq_none_iff, Option.map_eq_none_iff]

/-- The run state of threads does not depend on what else the TG holds. -/
theorem Tg.setRun_groups {t t' : Tg} (h : t'.groups = t.groups) (key : Nat) (ls : List Nat) (r : RunSt) :
    (t'.setRun key ls r).groups = (t.setRun key ls r).groups := by
  unfold Tg.setRun
  induction ls generalizing t t' with
  | nil => exact h
  | cons l ls ih =>
    refine ih ?_
    simp only [Tg.updThread, h]

section
variable {s : State} {th : Th} {regs : List Nat} {bad : State → Ex → Nat → Option (Nat × Word64)} {x : Ex}
  (h : s.inHand th regs bad x)
include h

theorem State.inHand_exOf : s.exOf th.cl th.sched = some x := h.1

theorem State.inHand_nodup : x.lanes.Nodup := h.2.2.1

theorem State.inHand_good {l : Nat} (hl : l ∈ x.lanes) : bad s x l = none := (h.2.2.2.2 l hl).2.2

theorem State.inHand_noFault : firstFault x.lanes (bad s x) = none :=
  firstFault_eq_none.2 fun _ hl => State.inHand_good h hl

end

section
variable {s : State} {th : Th} {mask : Src} {regs : List Nat} {x : Ex}

/-- The collective that an issue set comes to. -/
def State.collOf (s : State) (x : Ex) : Option Coll := (s.tg x.cl).colls.find? fun c => c.group == x.key && c.pc == x.pc

/-- The other collectives of the TG. -/
def State.otherColls (s : State) (x : Ex) : List Coll :=
  (s.tg x.cl).colls.filter fun c => !(c.group == x.key && c.pc == x.pc)

/-- The collective with the lanes that have come. -/
def State.collNow (s : State) (x : Ex) (m : Word32) : Coll :=
  { (s.collOf x).getD ⟨x.key, x.pc, m, 0, 0⟩ with arrived := s.come x }

theorem State.collNow_names (s : State) (x : Ex) (m : Word32) : (s.collNow x m).group = x.key ∧ (s.collNow x m).pc = x.pc := by
  unfold State.collNow
  cases h : s.collOf x with
  | none => exact ⟨rfl, rfl⟩
  | some c =>
    have hc := List.find?_some (p := fun c : Coll => c.group == x.key && c.pc == x.pc) h
    simpa using hc

/-- The TG with an issue set held at its collective. -/
def State.collHeld (s : State) (x : Ex) (m : Word32) : Tg :=
  { s.tg x.cl with colls := s.otherColls x ++ [s.collNow x m] }.setRun x.key x.lanes .atColl

/-- The lanes of a complete mask run again, and the group matrix unit is the scheduler's where the collective takes it. -/
def State.collMet (s : State) (x : Ex) (all : List Nat) (unit : Bool) : State :=
  let u := s.setTg x.cl ({ s.tg x.cl with colls := s.otherColls x }.setRun x.key all .running)
  if unit then u.gmuGrant x.cl x.sched.val else u

section
variable (h : s.meets th mask regs x)
include h

theorem State.meets_mask {l : Nat} (hl : l ∈ s.maskOf x mask) :
    ∃ y, (s.tg x.cl).thread? x.key l = some y ∧ y.run ≠ .exited := by
  obtain ⟨⟨-, -, -, hne, -⟩, -, hgood, -⟩ := h
  have hhead : x.lanes.headD 0 ∈ x.lanes := by
    cases hlanes : x.lanes with
    | nil => exact absurd hlanes hne
    | cons m ms => exact List.mem_cons_self ..
  unfold State.convergeBad at hgood
  dsimp only at hgood
  split at hgood
  · cases hgood
  · next hsame =>
    have hmask := List.find?_eq_none.1 hsame _ hhead
    simp only [Bool.or_eq_true, not_or, bne_iff_ne, ne_eq, not_not] at hmask
    split at hgood
    · cases hgood
    · next hthere =>
      have hexited := List.find?_eq_none.1 hthere l (hmask.2 ▸ hl)
      unfold Tg.exited at hexited
      split at hexited
      · next y hy => exact ⟨y, hy, by simpa using hexited⟩
      · exact absurd rfl hexited

theorem State.meets_exOf : s.exOf th.cl th.sched = some x := State.inHand_exOf h.1

theorem State.meets_hasLane {l : Nat} (hl : l ∈ s.maskOf x mask) : s.hasLane x l := by
  obtain ⟨y, hy, -⟩ := State.meets_mask h hl
  rw [State.hasLane, hy]
  rfl

end

/-- What an issue set that comes without a fault does. -/
theorem State.collective_eq {srcs dsts : List Nat} (h : s.meets th mask (srcs ++ dsts) x) (rate : Nat) (unit : Bool)
    (f : Ex → List Nat → State → State) : s.collective th mask srcs dsts rate unit f =
      if s.come x = s.src x (x.lanes.headD 0) mask then
        match firstFault (s.maskOf x mask) (poisonBad srcs s x) with
        | some e => s.fail x e
        | none =>
          if unit && !s.gmuTakes x.cl x.sched.val then s.gmuAsk x.cl x.sched.val
          else ((f x (s.maskOf x mask) (s.collMet x (s.maskOf x mask) unit)).advance { x with lanes := s.maskOf x mask }
            th.size).issued x (rate + 1)
      else (s.setTg x.cl (s.collHeld x (s.src x (x.lanes.headD 0) mask))).issued x 1 := by
  obtain ⟨hin, -, hconv, hlate⟩ := h
  have hpois := State.inHand_noFault hin
  obtain ⟨hex, hregs, -⟩ := hin
  have hcome : x.lanes.foldl (fun a l => a ||| ((1 : Word32) <<< l))
      ((s.collOf x).getD ⟨x.key, x.pc, s.src x (x.lanes.headD 0) mask, 0, 0⟩).arrived = s.come x := by
    rw [State.come, ← State.collOf]
    cases s.collOf x <;> rfl
  rw [← State.collOf] at hconv hlate
  unfold State.collective
  rw [hex]
  dsimp only
  rw [← State.collOf, ← State.otherColls, hcome]
  simp only [List.append_assoc, hregs, hpois, hconv, hlate, Bool.not_true, Bool.false_eq_true, if_false]
  rfl

end

end Sys2Proof.Machine
end

section
/-! SUPPORT. A collective that waits, and one that completes on its lanes (R240 to R242). -/

namespace Sys2Proof.Machine

/-! ### Waiting for the mask -/

section
variable {s : State} {th : Th} {mask : Src} {regs : List Nat} {x : Ex}

theorem State.collHeld_touched (s : State) (x : Ex) (m : Word32) : Tg.Touched x.key x.lanes
    { s.tg x.cl with colls := s.otherColls x ++ [s.collNow x m] } (s.collHeld x m) := .setRun _ _ _ _

theorem State.collHeld_groups (s : State) (x : Ex) (m : Word32) :
    (s.collHeld x m).groups = ((s.tg x.cl).setRun x.key x.lanes .atColl).groups :=
  Tg.setRun_groups (t := s.tg x.cl) (t' := { s.tg x.cl with colls := s.otherColls x ++ [s.collNow x m] }) rfl _ _ _

/-- The issue set has come, and its lanes wait. -/
theorem State.collHeld_facts (hin : s.inHand th regs (poisonBad (srcRegs mask)) x) (htog : s.together x) (m : Word32) :
    Went s ((s.setTg x.cl (s.collHeld x m)).issued x 1) x x.lanes 1
      ∧ (∀ l ∈ x.lanes, (((s.setTg x.cl (s.collHeld x m)).issued x 1).thread x l).run = .atColl
          ∧ (((s.setTg x.cl (s.collHeld x m)).issued x 1).thread x l).pc = x.pc
          ∧ Wrote s ((s.setTg x.cl (s.collHeld x m)).issued x 1) x l [])
      ∧ ∃ c ∈ (((s.setTg x.cl (s.collHeld x m)).issued x 1).tg x.cl).colls, c.group = x.key ∧ c.pc = x.pc
          ∧ c.arrived = s.come x := by
  have htouched := s.collHeld_touched x m
  refine ⟨.of_issued (s := s) (x := x) (lanes := x.lanes) (u := s.setTg x.cl (s.collHeld x m)) rfl
      (fun k hk => State.cluster_setCluster_ne s _ hk) (fun k l hk => ?_) (s.engine_setTg _ _ _) 1,
    fun l hl => ?_, s.collNow x m, ?_, (s.collNow_names x m).1, (s.collNow_names x m).2, rfl⟩
  · rw [State.tg_setTg_self, htouched.threads k l hk]
    exact Tg.thread?_of_groups rfl k l
  · have hthread : ((s.setTg x.cl (s.collHeld x m)).issued x 1).thread x l = { s.thread x l with run := .atColl } := by
      rw [State.issued_thread, State.thread_setRun (State.inHand_nodup hin) hl (State.inHand_hasLane hin hl) (s.collHeld_groups x m)]
    rw [hthread]
    exact ⟨rfl, (htog l hl).2, .of_rd (fun p hp => absurd hp List.not_mem_nil)
      (fun r _ => State.rd_of_thread (by rw [hthread]) r) (by rw [hthread])⟩
  · rw [State.tg_issued, State.tg_setTg_self, htouched.rest]
    exact List.mem_append_right _ (List.mem_singleton_self _)

/-- Some lane of the mask is still to come: the issue set waits. -/
theorem State.collective_waits {srcs dsts : List Nat} (h : s.meets th mask (srcs ++ dsts) x)
    (hcome : s.come x ≠ s.src x (x.lanes.headD 0) mask) (rate : Nat) (unit : Bool) (f : Ex → List Nat → State → State) {c : Instr}
    (hc : exec c s = .next (s.collective th mask srcs dsts rate unit f)) :
    Runs c s [.clusters] fun t => Went s t x x.lanes 1
      ∧ (∀ l ∈ x.lanes, (t.thread x l).run = .atColl ∧ (t.thread x l).pc = x.pc ∧ Wrote s t x l [])
      ∧ ∃ c ∈ (t.tg x.cl).colls, c.group = x.key ∧ c.pc = x.pc ∧ c.arrived = s.come x := by
  have hrun := State.collective_eq h rate unit f
  rw [if_neg hcome] at hrun
  obtain ⟨hin, htog, -⟩ := h
  exact ⟨_, hc.trans (congrArg _ hrun), (State.issued_keeps (List.Subset.refl _) (State.setTg_keeps (List.Subset.refl _)
    (State.Keeps.refl _ s) _ _) _ _).frame, State.collHeld_facts hin htog _⟩

end

/-! ### Going on together -/

theorem OnLanes.advanceAll (s : State) (x : Ex) (all : List Nat) (size : Nat) :
    OnLanes x all s (s.advance { x with lanes := all } size) := .setTg s (.updThreads all _ _)

/-- From s to u the lanes of a complete mask run again, and their collective is gone. -/
structure Joined (s u : State) (x : Ex) (all : List Nat) : Prop where
  keeps : State.Keeps [.clusters] s u
  others : OtherClusters x.cl s u
  engine : u.engine x.cl = s.engine x.cl
  groups : (u.tg x.cl).groups = ((s.tg x.cl).setRun x.key all .running).groups
  blocks : (u.tg x.cl).blocks = (s.tg x.cl).blocks
  colls : (u.tg x.cl).colls = s.otherColls x

/-- A lane goes on by its instruction's size. -/
theorem State.thread_advance {s : State} {x : Ex} {all : List Nat} (hnd : all.Nodup) {l : Nat} (hl : l ∈ all) (hlane : s.hasLane x l)
    {size : Nat} : (s.advance { x with lanes := all } size).thread x l = { s.thread x l with pc := (s.thread x l).pc + size } := by
  obtain ⟨y, hy⟩ := Option.isSome_iff_exists.1 hlane
  have hstep : s.advance { x with lanes := all } size
      = s.setTg x.cl (all.foldl (fun t l => t.updThread x.key l fun y => { y with pc := y.pc + size }) (s.tg x.cl)) := rfl
  rw [State.thread, hstep, State.tg_setTg_self, Tg.thread?_updThreads _ _ hnd hl, State.thread, hy]
  rfl

namespace Joined

variable {s u v : State} {x : Ex} {all : List Nat}

theorem collMet (s : State) (x : Ex) (all : List Nat) (unit : Bool) : Joined s (s.collMet x all unit) x all := by
  have htouched : Tg.Touched x.key all { s.tg x.cl with colls := s.otherColls x }
      ({ s.tg x.cl with colls := s.otherColls x }.setRun x.key all .running) := .setRun _ _ _ _
  have hfirst : Joined s (s.setTg x.cl ({ s.tg x.cl with colls := s.otherColls x }.setRun x.key all .running)) x all := by
    refine ⟨State.setTg_keeps (List.Subset.refl _) (State.Keeps.refl _ s) _ _, fun k hk => State.cluster_setCluster_ne s _ hk,
      s.engine_setTg _ _ _, ?_, ?_, ?_⟩
    · rw [State.tg_setTg_self]
      exact Tg.setRun_groups (t' := { s.tg x.cl with colls := s.otherColls x }) (t := s.tg x.cl) rfl _ _ _
    · rw [State.tg_setTg_self, htouched.rest]
    · rw [State.tg_setTg_self, htouched.rest]
  unfold State.collMet
  cases unit with
  | false => exact hfirst
  | true =>
    generalize s.setTg x.cl ({ s.tg x.cl with colls := s.otherColls x }.setRun x.key all .running) = w at hfirst ⊢
    obtain ⟨hkeeps, hothers, hengine, hgroups, hblocks, hcolls⟩ := hfirst
    have htg : (w.gmuGrant x.cl x.sched.val).tg x.cl = { w.tg x.cl with
        gmuAt := w.time.core + 9, gmuLast := x.sched.val, gmuWait := (w.tg x.cl).gmuAsking.filter (· ≠ x.sched.val) } :=
      State.tg_setTg_self _ _ _
    exact ⟨State.gmuGrant_keeps (List.Subset.refl _) hkeeps _ _,
      fun k hk => (State.cluster_setCluster_ne w _ hk).trans (hothers k hk), (w.engine_setTg _ _ _).trans hengine,
      htg ▸ hgroups, htg ▸ hblocks, htg ▸ hcolls⟩

section
variable (h : Joined s u x all)
include h

theorem time : u.time = s.time := h.keeps.parts .time (by decide)

theorem threads (k l : Nat) (hk : k = x.key → l ∉ all) : (u.tg x.cl).thread? k l = (s.tg x.cl).thread? k l :=
  (Tg.thread?_of_groups h.groups k l).trans ((Tg.Touched.setRun _ _ _ _).threads k l hk)

theorem hasLane {l : Nat} (hl : s.hasLane x l) : u.hasLane x l := by
  rw [State.hasLane, Tg.thread?_of_groups h.groups, (Tg.Touched.setRun _ _ _ _).there]
  exact hl

theorem thread (hnd : all.Nodup) {l : Nat} (hl : l ∈ all) (hlane : s.hasLane x l) :
    u.thread x l = { s.thread x l with run := .running } := by
  obtain ⟨y, hy⟩ := Option.isSome_iff_exists.1 hlane
  rw [State.thread, Tg.thread?_of_groups h.groups, Tg.thread?_setRun_of_nodup hnd hl, State.thread, hy]
  rfl

theorem special (l : Nat) (r : SpecialReg) : u.special x l r = s.special x l r := by
  have hids := (Tg.Touched.setRun (s.tg x.cl) x.key all .running).ids x.key
  rw [← h.groups] at hids
  simp only [State.special, h.blocks, h.time]
  cases hs : Tbl.find (s.tg x.cl).groups x.key with
  | none =>
    rw [hs, Option.map_none, Option.map_eq_none_iff] at hids
    rw [hids]
  | some g =>
    rw [hs, Option.map_some, Option.map_eq_some_iff] at hids
    obtain ⟨g', hg', he⟩ := hids
    obtain ⟨hblk, hidx⟩ := Prod.mk.inj he
    simp only [hg', Option.bind_some, hblk, hidx]

theorem rd (hnd : all.Nodup) {l : Nat} (hl : l ∈ all) (hlane : s.hasLane x l) (r : Nat) : u.rd x l r = s.rd x l r :=
  State.rd_of_thread (by rw [h.thread hnd hl hlane]) r

theorem src (hnd : all.Nodup) {l : Nat} (hl : l ∈ all) (hlane : s.hasLane x l) (a : Src) : u.src x l a = s.src x l a := by
  cases a with
  | reg r => exact h.rd hnd hl hlane r
  | imm v => rfl
  | special r => exact h.special l r

/-- What the lanes do together is done, and they go on. -/
theorem goesOn (hnd : all.Nodup) (hlanes : ∀ l ∈ all, s.hasLane x l) (hv : OnLanes x all u v) (hstands : ∀ l ∈ all, Stands u v x l)
    (size rate : Nat) : Met s ((v.advance { x with lanes := all } size).issued x (rate + 1)) x all size rate
      ∧ ∀ l ∈ all, ∀ ws, Wrote u v x l ws → Wrote s ((v.advance { x with lanes := all } size).issued x (rate + 1)) x l ws := by
  have hall := hv.trans (OnLanes.advanceAll v x all size)
  have hthread (l : Nat) (hl : l ∈ all) : ((v.advance { x with lanes := all } size).issued x (rate + 1)).thread x l
      = { v.thread x l with pc := (v.thread x l).pc + size } := by
    rw [State.issued_thread, State.thread_advance hnd hl (hv.hasLane (h.hasLane (hlanes l hl)))]
  refine ⟨⟨.of_issued (hall.time.trans h.time) (fun k hk => (hall.others k hk).trans (h.others k hk))
    (fun k l hk => (hall.tg.threads k l hk).trans (h.threads k l hk)) (hall.engine.trans h.engine) _, ?_, fun l hl => ?_⟩,
    fun l hl ws hw => ?_⟩
  · rw [State.tg_issued, hall.tg.rest]
    exact h.colls
  · obtain ⟨hpc, hrun⟩ := hstands l hl
    have hmet := h.thread hnd hl (hlanes l hl)
    rw [At, hthread l hl, hpc, hrun, hmet]
    exact ⟨rfl, rfl⟩
  · obtain ⟨hrd, hne, hgain, hlose⟩ := hw
    have hregs (r : Nat) : ((v.advance { x with lanes := all } size).issued x (rate + 1)).rd x l r = v.rd x l r :=
      State.rd_of_thread (by rw [hthread l hl]) r
    have hmet := h.thread hnd hl (hlanes l hl)
    rw [hmet] at hgain hlose
    rw [Wrote, hthread l hl]
    exact ⟨fun p hp => (hregs _).trans (hrd p hp), fun r hr => (hregs r).trans ((hne r hr).trans (h.rd hnd hl (hlanes l hl) r)),
      hgain, hlose⟩

end

end Joined

/-! ### Work on the lanes, one after another -/

theorem OnLanes.foldl_of {α : Type} {x : Ex} {ls : List Nat} {f : State → α → State} (as : List α)
    (hf : ∀ a ∈ as, ∀ u, OnLanes x ls u (f u a)) (s : State) : OnLanes x ls s (as.foldl f s) := by
  induction as generalizing s with
  | nil => exact .refl x ls s
  | cons a as ih =>
    exact (hf a (List.mem_cons_self ..) s).trans (ih (fun b hb => hf b (List.mem_cons_of_mem _ hb)) _)

/-- Each lane is met once, as it was, and what is done to it stays. -/
theorem OnLanes.foldl_lane {x : Ex} {f : Nat → State → State} {ls : List Nat} (hf : ∀ l ∈ ls, ∀ u, OnLanes x [l] u (f l u))
    (hnd : ls.Nodup) {l : Nat} (hl : l ∈ ls) (s : State) : ∃ a, a.thread x l = s.thread x l ∧ (s.hasLane x l → a.hasLane x l)
      ∧ (ls.foldl (fun s l => f l s) s).thread x l = (f l a).thread x l := by
  obtain ⟨pre, post, rfl⟩ := List.append_of_mem hl
  rw [List.nodup_append, List.nodup_cons] at hnd
  obtain ⟨-, ⟨hpost, -⟩, hdis⟩ := hnd
  have hfirst : OnLanes x pre s (pre.foldl (fun s l => f l s) s) := .foldl (fun m hm => hf m (by simp [hm])) _
  have hlast : OnLanes x post _ (post.foldl (fun s l => f l s) (f l (pre.foldl (fun s l => f l s) s))) :=
    .foldl (fun m hm => hf m (by simp [hm])) _
  refine ⟨_, hfirst.thread fun hm => hdis l hm l (by simp) rfl, hfirst.hasLane, ?_⟩
  rw [List.foldl_append, List.foldl_cons]
  exact hlast.thread hpost

/-- What a lane's registers and its stand are depends on its thread alone. -/
theorem Wrote.of_threads {s s' t t' : State} {x : Ex} {l : Nat} {ws : List (Nat × Word32)} (h : Wrote s t x l ws)
    (hs : s.thread x l = s'.thread x l) (ht : t'.thread x l = t.thread x l) : Wrote s' t' x l ws := by
  unfold Wrote State.rd at *
  rwa [ht, ← hs]

theorem Stands.of_threads {s s' t t' : State} {x : Ex} {l : Nat} (h : Stands s t x l)
    (hs : s.thread x l = s'.thread x l) (ht : t'.thread x l = t.thread x l) : Stands s' t' x l := by
  unfold Stands at *
  rwa [ht, ← hs]

end Sys2Proof.Machine
end

section
/-! SUPPORT. What the lanes of a mask exchange (R243, R244). -/

namespace Sys2Proof.Machine

/-! ### Writing one register of every lane -/

section
variable {s : State} {x : Ex}

theorem State.spread_lanes (s : State) (x : Ex) (d : Nat) (g : Nat → Word32) (ls : List Nat) :
    s.spread x d (ls.map fun l => (l, g l)) = ls.foldl (fun s l => s.wr x l d (g l) 7) s := List.foldl_map ..

theorem OnLanes.spread (s : State) (x : Ex) (d : Nat) (g : Nat → Word32) (ls : List Nat) :
    OnLanes x ls s (s.spread x d (ls.map fun l => (l, g l))) := by
  rw [State.spread_lanes]
  exact .foldl (fun l _ u => .wr u x l d (g l) 7) s

/-- Each lane gets its value, and stands where it stood. -/
theorem State.spread_wrote {ls : List Nat} (hnd : ls.Nodup) (hlanes : ∀ l ∈ ls, s.hasLane x l) (d : Nat) (g : Nat → Word32) {l : Nat}
    (hl : l ∈ ls) : Stands s (s.spread x d (ls.map fun l => (l, g l))) x l
      ∧ Wrote s (s.spread x d (ls.map fun l => (l, g l))) x l [(d, g l)] := by
  rw [State.spread_lanes]
  obtain ⟨a, hbefore, hthere, hafter⟩ := OnLanes.foldl_lane (f := fun l s => s.wr x l d (g l) 7) (fun l _ u => .wr u x l d (g l) 7)
    hnd hl s
  have hlane := hthere (hlanes l hl)
  exact ⟨(Stands.wr hlane d (g l) 7).of_threads hbefore hafter, (Wrote.wr hlane d (g l) 7).of_threads hbefore hafter⟩

end

section
variable {s : State} {th : Th} {mask : Src} {x : Ex}

/-- A complete mask whose lanes each get a value of their own. -/
theorem State.collective_spread {srcs : List Nat} {d : Nat} (h : s.meets th mask (srcs ++ [d]) x)
    (hcome : s.come x = s.src x (x.lanes.headD 0) mask) (hgood : firstFault (s.maskOf x mask) (poisonBad srcs s x) = none)
    (g : Ex → List Nat → State → Nat → Word32) {rate : Nat} {c : Instr} (hc : exec c s = .next (s.collective th mask srcs [d] rate
      false fun x all s => s.spread x d (all.map fun l => (l, g x all s l)))) :
    Runs c s [.clusters] fun t => Met s t x (s.maskOf x mask) th.size rate ∧ ∀ l ∈ s.maskOf x mask,
      Wrote s t x l [(d, g x (s.maskOf x mask) (s.collMet x (s.maskOf x mask) false) l)] := by
  have hmet := Joined.collMet s x (s.maskOf x mask) false
  have hnd : (s.maskOf x mask).Nodup := maskLanes_nodup _
  have hlanes (l : Nat) (hl : l ∈ s.maskOf x mask) : s.hasLane x l := State.meets_hasLane h hl
  have hrun := State.collective_eq h rate false fun x all s => s.spread x d (all.map fun l => (l, g x all s l))
  rw [if_pos hcome, hgood] at hrun
  generalize s.collMet x (s.maskOf x mask) false = u at hmet hrun ⊢
  have heach {l : Nat} (hl : l ∈ s.maskOf x mask) := State.spread_wrote hnd (fun l hl => hmet.hasLane (hlanes l hl)) d
    (g x (s.maskOf x mask) u) hl
  obtain ⟨hgo, hwrote⟩ := hmet.goesOn hnd hlanes (OnLanes.spread u x d (g x (s.maskOf x mask) u) (s.maskOf x mask))
    (fun l hl => (heach hl).1) th.size rate
  exact ⟨_, hc.trans (congrArg _ hrun), (State.issued_keeps (List.Subset.refl _) (State.advance_keeps (List.Subset.refl _)
    (State.spread_keeps (List.Subset.refl _) hmet.keeps _ _ _) _ _) _ _).frame, hgo, fun l hl => hwrote l hl _ (heach hl).2⟩

end

/-! ### Reports of the lanes' predicates -/

theorem pollValue_anyOf (ls : List Nat) (p : Nat → Bool) :
    pollValue .anyOf (ls.map fun l => (l, p l)) = if ∃ l ∈ ls, p l = true then 1 else 0 := by
  simp only [pollValue, List.any_map, List.any_eq_true, Function.comp_apply]

theorem pollValue_every (ls : List Nat) (p : Nat → Bool) :
    pollValue .every (ls.map fun l => (l, p l)) = if ∀ l ∈ ls, p l = true then 1 else 0 := by
  simp only [pollValue, List.all_map, List.all_eq_true, Function.comp_apply]

theorem pollValue_bitmap_getLsbD {ls : List Nat} (hlt : ∀ l ∈ ls, l < 32) (p : Nat → Bool) (k : Nat) :
    (pollValue .bitmap (ls.map fun l => (l, p l))).getLsbD k = (decide (k ∈ ls) && p k) := by
  have hstep (ls : List Nat) (hlt : ∀ l ∈ ls, l < 32) (w : Word32) :
      (ls.foldl (fun w l => if p l then w ||| ((1 : Word32) <<< l) else w) w).getLsbD k = (w.getLsbD k || (decide (k ∈ ls) && p k)) := by
    induction ls generalizing w with
    | nil => simp
    | cons m ms ih =>
      obtain ⟨hm, hms⟩ := List.forall_mem_cons.1 hlt
      have hbit : ((1 : Word32) <<< m).getLsbD k = decide (k = m) := by
        rw [Bool.eq_iff_iff]
        simp only [BitVec.getLsbD_shiftLeft, BitVec.ofNat_eq_ofNat, BitVec.getLsbD_one, Bool.and_eq_true, decide_eq_true_eq,
          Bool.not_eq_true', decide_eq_false_iff_not]
        omega
      have hnew : (if p m then w ||| ((1 : Word32) <<< m) else w).getLsbD k = (w.getLsbD k || (decide (k = m) && p k)) := by
        by_cases hp : p m = true
        · rw [if_pos hp, BitVec.getLsbD_or, hbit]
          by_cases hk : k = m <;> simp [hk, hp]
        · rw [if_neg hp]
          by_cases hk : k = m <;> simp [hk, hp]
      rw [List.foldl_cons, ih hms, hnew]
      cases p k <;> simp [Bool.or_assoc]
  rw [pollValue, List.foldl_map, hstep ls hlt]
  simp

theorem foldValue_sum (signed : Bool) (vs : List Word32) : foldValue .sum signed vs = vs.foldl (· + ·) 0 := by
  cases vs with
  | nil => rfl
  | cons v vs =>
    rw [List.foldl_cons, zero_add]
    rfl

/-! ### XLANE -/

section
variable {s : State} {th : Th} {mask : Src} {x : Ex}

theorem State.xlaneGet_meets {d a : Nat} {lane : Src} (h : s.meets th mask (a :: srcRegs lane ++ [d]) x)
    (hcome : s.come x = s.src x (x.lanes.headD 0) mask)
    (hgood : firstFault (s.maskOf x mask) (poisonBad (a :: srcRegs lane) s x) = none) :
    Runs (.xlaneGet th mask d a lane) s [.clusters] fun t => Met s t x (s.maskOf x mask) th.size 2
      ∧ ∀ l ∈ s.maskOf x mask, Wrote s t x l
          [(d, if (s.src x l lane).toNat % 32 ∈ s.maskOf x mask then s.rd x ((s.src x l lane).toNat % 32) a else 0)] := by
  have hmet := Joined.collMet s x (s.maskOf x mask) false
  have hnd : (s.maskOf x mask).Nodup := maskLanes_nodup _
  obtain ⟨t, hrun, hframe, hgo, hwrote⟩ := State.collective_spread h hcome hgood (fun x all s l =>
    if (s.src x l lane).toNat % 32 ∈ all then s.rd x ((s.src x l lane).toNat % 32) a else 0) (c := .xlaneGet th mask d a lane) rfl
  refine ⟨t, hrun, hframe, hgo, fun l hl => ?_⟩
  have hlane := hwrote l hl
  rw [hmet.src hnd hl (State.meets_hasLane h hl)] at hlane
  by_cases hin : (s.src x l lane).toNat % 32 ∈ s.maskOf x mask
  · rw [if_pos hin, hmet.rd hnd hin (State.meets_hasLane h hin)] at hlane
    rwa [if_pos hin]
  · rw [if_neg hin] at hlane ⊢
    exact hlane

theorem State.xlanePoll_meets {kind : PollKind} {d : Nat} {p : Src} (h : s.meets th mask (srcRegs p ++ [d]) x)
    (hcome : s.come x = s.src x (x.lanes.headD 0) mask)
    (hgood : firstFault (s.maskOf x mask) (poisonBad (srcRegs p) s x) = none) :
    Runs (.xlanePoll th mask kind d p) s [.clusters] fun t => Met s t x (s.maskOf x mask) th.size 2
      ∧ ∀ l ∈ s.maskOf x mask, Wrote s t x l [(d, pollValue kind ((s.maskOf x mask).map fun k => (k, s.src x k p != 0)))] := by
  have hmet := Joined.collMet s x (s.maskOf x mask) false
  obtain ⟨t, hrun, hframe, hgo, hwrote⟩ := State.collective_spread h hcome hgood (fun x all s _ =>
    pollValue kind (all.map fun k => (k, s.src x k p != 0))) (c := .xlanePoll th mask kind d p) rfl
  have hvals : ((s.maskOf x mask).map fun k => (k, (s.collMet x (s.maskOf x mask) false).src x k p != 0))
      = (s.maskOf x mask).map fun k => (k, s.src x k p != 0) :=
    List.map_congr_left fun k hk => by rw [hmet.src (maskLanes_nodup _) hk (State.meets_hasLane h hk)]
  refine ⟨t, hrun, hframe, hgo, fun l hl => ?_⟩
  rw [← hvals]
  exact hwrote l hl

theorem State.xlaneFold_meets {kind : FoldKind} {signed : Bool} {d : Nat} {a : Src} (h : s.meets th mask (srcRegs a ++ [d]) x)
    (hcome : s.come x = s.src x (x.lanes.headD 0) mask)
    (hgood : firstFault (s.maskOf x mask) (poisonBad (srcRegs a) s x) = none) :
    Runs (.xlaneFold th mask kind signed d a) s [.clusters] fun t => Met s t x (s.maskOf x mask) th.size 2
      ∧ ∀ l ∈ s.maskOf x mask, Wrote s t x l [(d, foldValue kind signed ((s.maskOf x mask).map fun k => s.src x k a))] := by
  have hmet := Joined.collMet s x (s.maskOf x mask) false
  obtain ⟨t, hrun, hframe, hgo, hwrote⟩ := State.collective_spread h hcome hgood (fun x all s _ =>
    foldValue kind signed (all.map fun k => s.src x k a)) (c := .xlaneFold th mask kind signed d a) rfl
  have hvals : ((s.maskOf x mask).map fun k => (s.collMet x (s.maskOf x mask) false).src x k a)
      = (s.maskOf x mask).map fun k => s.src x k a :=
    List.map_congr_left fun k hk => by rw [hmet.src (maskLanes_nodup _) hk (State.meets_hasLane h hk)]
  refine ⟨t, hrun, hframe, hgo, fun l hl => ?_⟩
  rw [← hvals]
  exact hwrote l hl

end

end Sys2Proof.Machine
end

section
/-! SUPPORT. GMAT on its group matrix unit (R244 to R246). -/

namespace Sys2Proof.Machine

/-! ### The rows of C -/

/-- The registers of a lane's fragment of C. -/
def fragRegs (c : Nat) : List Nat := (List.range 8).map (c + ·)

theorem fragRegs_nodup (c : Nat) : (fragRegs c).Nodup := List.nodup_range.map fun _ _ h => Nat.add_left_cancel h

/-- One lane's row of results. -/
def State.putRow (s : State) (x : Ex) (c : Nat) (out : Nat → Nat → Word32 × Exc) (l : Nat) : State :=
  (List.range 8).foldl (fun s j => s.put x l (c + j) (out l j) 21) s

/-- All rows, with what the written words keep of their poison. -/
def State.putRows (s : State) (x : Ex) (c : Nat) (out : Nat → Nat → Word32 × Exc) (ls : List Nat) : State :=
  ls.foldl (fun s l => s.wrote x l (fragRegs c)) (ls.foldl (fun s l => s.putRow x c out l) s)

theorem State.gmatAll_rows (s : State) (x : Ex) (mask : List Nat) (f g : Fmt) (a b c : Nat) :
    s.gmatAll x mask f g a b c = s.putRows x c (s.gmatOut x mask f g a b c) mask := by
  simp only [State.gmatAll, State.putRows, State.putRow, List.foldl_flatten, List.foldl_map, fragRegs]

section
variable {s : State} {x : Ex} (c : Nat) (out : Nat → Nat → Word32 × Exc)

theorem State.thread_put (s : State) (x : Ex) (l d : Nat) (v : Word32 × Exc) (lat : Nat) :
    (s.put x l d v lat).thread x l = (s.wr x l d v.1 lat).thread x l :=
  (OnLanes.raiseExc (s.wr x l d v.1 lat) x [] (some x.job.id) v.2).thread List.not_mem_nil

/-- Flags aside, a row of results is a run of register writes. -/
theorem State.puts_thread {l : Nat} (js : List Nat) : ∀ {s s' : State}, s.hasLane x l → s'.hasLane x l →
    s.thread x l = s'.thread x l → s.time = s'.time →
    (js.foldl (fun s j => s.put x l (c + j) (out l j) 21) s).thread x l
      = ((js.map fun j => (c + j, (out l j).1)).foldl (fun s q => s.wr x l q.1 q.2 21) s').thread x l := by
  induction js with
  | nil => exact fun _ _ h _ => h
  | cons j js ih =>
    intro s s' h h' hthread htime
    have hput := OnLanes.put s x l (c + j) (out l j) 21
    refine ih (hput.hasLane h) (State.hasLane_wr h' (c + j) (out l j).1 21) ?_ (hput.time.trans htime)
    rw [State.thread_put, State.thread_wr h, State.thread_wr h', hthread, htime]

theorem OnLanes.putRow (s : State) (l : Nat) : OnLanes x [l] s (s.putRow x c out l) :=
  .foldl_of _ (fun j _ u => .put u x l (c + j) (out l j) 21) s

theorem OnLanes.putRows (ls : List Nat) (s : State) : OnLanes x ls s (s.putRows x c out ls) :=
  (OnLanes.foldl (fun l _ u => OnLanes.putRow c out u l) s).trans (.foldl (fun l _ u => .wrote u x l (fragRegs c)) _)

/-- Each lane gets its row, and stands where it stood. -/
theorem State.putRows_wrote {ls : List Nat} (hnd : ls.Nodup) (hlanes : ∀ l ∈ ls, s.hasLane x l) {l : Nat} (hl : l ∈ ls) :
    Stands s (s.putRows x c out ls) x l
      ∧ Wrote s (s.putRows x c out ls) x l ((List.range 8).map fun j => (c + j, (out l j).1)) := by
  have hrows : OnLanes x ls s (ls.foldl (fun s l => s.putRow x c out l) s) := .foldl (fun l _ u => OnLanes.putRow c out u l) s
  obtain ⟨a, hbefore, hthere, hrow⟩ := OnLanes.foldl_lane (f := fun l s => s.putRow x c out l)
    (fun l _ u => OnLanes.putRow c out u l) hnd hl s
  obtain ⟨b, hmid, hthere', hafter⟩ := OnLanes.foldl_lane (f := fun l s => s.wrote x l (fragRegs c))
    (fun l _ u => .wrote u x l (fragRegs c)) hnd hl (ls.foldl (fun s l => s.putRow x c out l) s)
  have ha := hthere (hlanes l hl)
  have hb := hthere' (hrows.hasLane (hlanes l hl))
  have hpairs : (fragRegs c).zip ((List.range 8).map fun j => (out l j).1) = (List.range 8).map fun j => (c + j, (out l j).1) :=
    List.zip_map' ..
  have hsame : (s.putRows x c out ls).thread x l
      = (a.putRegs x l 21 (fragRegs c) ((List.range 8).map fun j => (out l j).1)).thread x l := by
    have hwrites := (writes_onLanes x l 21 ((List.range 8).map fun j => (c + j, (out l j).1)) a).hasLane ha
    rw [State.putRegs, hpairs, State.thread_wrote hwrites, ← State.puts_thread c out (List.range 8) ha ha rfl rfl]
    exact hafter.trans ((State.thread_wrote hb _).trans (by rw [hmid, hrow]; rfl))
  have hwrote := State.putRegs_wrote (vs := (List.range 8).map fun j => (out l j).1) 21 ha (by simp [fragRegs]) (fragRegs_nodup c)
  rw [hpairs] at hwrote
  exact ⟨(State.putRegs_stands 21 ha).of_threads hbefore hsame, hwrote.of_threads hbefore hsame⟩

end

/-- The products of an output are of the masked lanes' registers. -/
theorem State.gmatTerms_of_rd {s u : State} {x : Ex} {mask : List Nat} (h : ∀ l ∈ mask, ∀ r, u.rd x l r = s.rd x l r)
    (f g : Fmt) (a b i j : Nat) : u.gmatTerms x mask f g a b i j = s.gmatTerms x mask f g a b i j := by
  have hfrag (l r w n : Nat) : u.fragment x mask l r w n = s.fragment x mask l r w n := by
    unfold State.fragment
    split
    · next hl => rw [h l hl]
    · rfl
  simp only [State.gmatTerms, hfrag]

theorem State.gmatOut_of_rd {s u : State} {x : Ex} {mask : List Nat} (h : ∀ l ∈ mask, ∀ r, u.rd x l r = s.rd x l r)
    (f g : Fmt) (a b c j : Nat) {i : Nat} (hi : i ∈ mask) :
    u.gmatOut x mask f g a b c i j = s.gmatOut x mask f g a b c i j := by
  simp only [State.gmatOut, State.gmatTerms_of_rd h, h i hi]

theorem State.gmatOut_int (s : State) (x : Ex) (mask : List Nat) (n : Nat) (g : Fmt) (a b c i j : Nat) :
    (s.gmatOut x mask (.int n) g a b c i j).1 = s.rd x i (c + j) + BitVec.ofInt 32 (intSum (s.gmatTerms x mask (.int n) g a b i j)) := rfl

/-! ### GMAT -/

section
variable {s : State} {th : Th} {mask : Src} {fa fb : GFmt} {f g : Fmt} {a b c : Nat} {x : Ex}

/-- The registers GMAT reads. -/
def gmatSrcs (a b c : Nat) : List Nat := (List.range 8).map (a + ·) ++ [b, b + 1] ++ fragRegs c

theorem State.gmat_collective (hform : gmatForm fa fb = some (f, g)) (hex : s.exOf th.cl th.sched = some x) :
    s.gmat th mask fa fb a b c = s.collective th mask (gmatSrcs a b c) (fragRegs c) 1 true
      fun x all s => s.gmatAll x all f g a b c := by
  simp only [State.gmat, hform, hex]
  rfl

theorem State.collMet_unit (s : State) (x : Ex) (all : List Nat) : ((s.collMet x all true).tg x.cl).gmuAt = s.time.core + 9
    ∧ ((s.collMet x all true).tg x.cl).gmuLast = x.sched.val := by
  rw [State.collMet, if_pos rfl, State.gmuGrant, State.tg_setTg_self]
  exact ⟨rfl, rfl⟩

variable (hform : gmatForm fa fb = some (f, g)) (h : s.meets th mask (gmatSrcs a b c ++ fragRegs c) x)
include hform h

theorem State.gmat_waits (hcome : s.come x ≠ s.src x (x.lanes.headD 0) mask) :
    Runs (.gmat th mask fa fb a b c) s [.clusters] fun t => Went s t x x.lanes 1
      ∧ ∀ l ∈ x.lanes, (t.thread x l).run = .atColl ∧ (t.thread x l).pc = x.pc ∧ Wrote s t x l [] := by
  obtain ⟨t, hrun, hframe, hwent, hlanes, -⟩ := State.collective_waits h hcome 1 true (fun x all s => s.gmatAll x all f g a b c)
    (c := .gmat th mask fa fb a b c) (congrArg _ (State.gmat_collective hform (State.meets_exOf h)))
  exact ⟨t, hrun, hframe, hwent, hlanes⟩

variable (hcome : s.come x = s.src x (x.lanes.headD 0) mask)
  (hgood : firstFault (s.maskOf x mask) (poisonBad (gmatSrcs a b c) s x) = none)
include hcome hgood

/-- The unit is not to be had: the scheduler asks for it, and keeps its instruction. -/
theorem State.gmat_asks (htakes : s.gmuTakes x.cl x.sched.val = false) :
    Runs (.gmat th mask fa fb a b c) s [.clusters] fun t => OtherClusters x.cl s t
      ∧ (t.tg x.cl).issue = (s.tg x.cl).issue ∧ (t.tg x.cl).groups = (s.tg x.cl).groups ∧ x.sched.val ∈ (t.tg x.cl).gmuWait := by
  have hrun : s.gmat th mask fa fb a b c = s.gmuAsk x.cl x.sched.val := by
    rw [State.gmat_collective hform (State.meets_exOf h), State.collective_eq h, if_pos hcome, hgood]
    dsimp only
    rw [htakes]
    rfl
  have htg : (s.gmuAsk x.cl x.sched.val).tg x.cl = { s.tg x.cl with
      gmuWait := (s.tg x.cl).gmuAsking.filter (· ≠ x.sched.val) ++ [x.sched.val] } := State.tg_setTg_self _ _ _
  refine ⟨_, congrArg Host.Outcome.next hrun, (State.gmuAsk_keeps (List.Subset.refl _) (State.Keeps.refl _ s) _ _).frame,
    fun k hk => State.cluster_setCluster_ne s _ hk, ?_⟩
  rw [htg]
  exact ⟨rfl, rfl, List.mem_append_right _ (List.mem_singleton_self _)⟩

theorem State.gmat_meets (htakes : s.gmuTakes x.cl x.sched.val = true) :
    Runs (.gmat th mask fa fb a b c) s [.regs, .clusters, .seq] fun t => Met s t x (s.maskOf x mask) th.size 1
      ∧ (t.tg x.cl).gmuAt = s.time.core + 9 ∧ (t.tg x.cl).gmuLast = x.sched.val ∧ Entries [(0x2500, 0x0C)] s t
      ∧ ∀ l ∈ s.maskOf x mask,
        Wrote s t x l ((List.range 8).map fun j => (c + j, (s.gmatOut x (s.maskOf x mask) f g a b c l j).1)) := by
  have hnd : (s.maskOf x mask).Nodup := maskLanes_nodup _
  have hlanes (l : Nat) (hl : l ∈ s.maskOf x mask) : s.hasLane x l := State.meets_hasLane h hl
  have hmet := Joined.collMet s x (s.maskOf x mask) true
  have hunit := s.collMet_unit x (s.maskOf x mask)
  have hrun := State.collective_eq h 1 true fun x all s => s.gmatAll x all f g a b c
  rw [if_pos hcome, hgood] at hrun
  dsimp only at hrun
  rw [htakes, Bool.not_true, Bool.and_false, if_neg Bool.false_ne_true, ← State.gmat_collective hform (State.meets_exOf h)] at hrun
  generalize s.collMet x (s.maskOf x mask) true = u at hmet hunit hrun
  obtain ⟨hat, hlast⟩ := hunit
  have hframe : State.Keeps [.regs, .clusters, .seq] s
      (((u.gmatAll x (s.maskOf x mask) f g a b c).advance { x with lanes := s.maskOf x mask } th.size).issued x 2) :=
    State.issued_keeps (by decide) (State.advance_keeps (by decide) (State.gmatAll_keeps (List.Subset.refl _)
      (hmet.keeps.wider (by decide)) _ _ _ _ _ _ _) _ _) _ _
  rw [State.gmatAll_rows] at hrun hframe
  have hrows : OnLanes x (s.maskOf x mask) u _ := OnLanes.putRows c (u.gmatOut x (s.maskOf x mask) f g a b c) _ u
  have heach {l : Nat} (hl : l ∈ s.maskOf x mask) := State.putRows_wrote c (u.gmatOut x (s.maskOf x mask) f g a b c) hnd
    (fun l hl => hmet.hasLane (hlanes l hl)) hl
  obtain ⟨hgo, hwrote⟩ := hmet.goesOn hnd hlanes hrows (fun l hl => (heach hl).1) th.size 1
  have hadv := hrows.trans (OnLanes.advanceAll _ x (s.maskOf x mask) th.size)
  have hentries : Entries [(0x2500, 0x0C)] s u := (Entries.refl _ s).of_regs (hmet.keeps.parts .regs (by decide))
  refine ⟨_, congrArg Host.Outcome.next hrun, hframe.frame, hgo, ?_, ?_, (hentries.trans hadv.entries).of_regs rfl, fun l hl => ?_⟩
  · rw [State.tg_issued, hadv.tg.rest]
    exact hat
  · rw [State.tg_issued, hadv.tg.rest]
    exact hlast
  · have hout : ((List.range 8).map fun j => (c + j, (u.gmatOut x (s.maskOf x mask) f g a b c l j).1))
        = (List.range 8).map fun j => (c + j, (s.gmatOut x (s.maskOf x mask) f g a b c l j).1) :=
      List.map_congr_left fun j _ => by
        rw [State.gmatOut_of_rd (fun k hk r => hmet.rd hnd hk (hlanes k hk) r) f g a b c j hl]
    rw [← hout]
    exact hwrote l hl _ (heach hl).2

end

/-! ### The convergence timeout (R265) -/

theorem convergenceTimeout_faults {s : State} {cl : Cl} {sched : Sched} {slot : Fin 12} {k : Coll} {j : Job}
    (hjob : s.jobOn cl = some j)
    (hlate : (s.tg cl).colls.find? (fun c => c.group == slotKey sched slot.val && decide (2 ^ s.fld 0x2620 4 4 0 < c.waited)) =
      some k) :
    Runs (.convergenceTimeout cl sched slot) s [.seq] fun t =>
      Noted s t ⟨cl, sched, slot, (maskLanes k.arrived).headD 0, 0x24, k.pc, 0, j.id⟩ := by
  have hfault : s.convTimeout cl sched slot = s.tgFault cl sched slot ((maskLanes k.arrived).headD 0) 0x24 k.pc 0 := by
    have hfind : ((s.tg cl).colls.find? fun c => c.group == slotKey sched slot && s.expired c.waited) = some k := hlate
    rw [State.convTimeout, hfind]
  refine ⟨_, congrArg Host.Outcome.next hfault, ?_, State.tgFault_notes hjob _ _ _ _ _ _⟩
  rw [State.tgFault_noted hjob (by decide)]
  exact (s.withSeq_keeps _).frame

/-- Settles O32: a collective's issue set waits or completes the mask, in one equation (`State.collective_eq`); what
the lanes of a complete mask do together is done to each of them once (`OnLanes.foldl_lane`). -/
theorem collectivesWaitForTheirMask : Obligations.CollectivesWaitForTheirMask := by
  refine ⟨fun s th mask d a lane x h => ⟨fun hcome => State.collective_waits h hcome _ _ _ rfl, State.xlaneGet_meets h⟩,
    fun s th mask kind d p x h hcome hgood => ?_, fun s th mask kind signed d a x h hcome hgood => ?_,
    fun s th mask fa fb f g a b c x hform h => ⟨State.gmat_waits hform h, State.gmat_asks hform h, fun hcome hgood htakes => ?_⟩,
    fun s cl sched => rfl, fun s cl sched slot k j => convergenceTimeout_faults⟩
  · obtain ⟨t, hrun, hframe, hmet, hwrote⟩ := State.xlanePoll_meets (kind := kind) h hcome hgood
    refine ⟨t, hrun, hframe, hmet, fun l hl => ⟨_, hwrote l hl, ?_⟩⟩
    cases kind with
    | anyOf =>
      rw [pollValue_anyOf]
      simp only [bne_iff_ne]
    | every =>
      rw [pollValue_every]
      simp only [bne_iff_ne]
    | bitmap => exact pollValue_bitmap_getLsbD (fun l hl => lt_of_mem_maskLanes hl) fun k => s.src x k p != 0
  · obtain ⟨t, hrun, hframe, hmet, hwrote⟩ := State.xlaneFold_meets (kind := kind) (signed := signed) h hcome hgood
    exact ⟨t, hrun, hframe, hmet, _, rfl, fun hsum => by rw [hsum, foldValue_sum], hwrote⟩
  · obtain ⟨t, hrun, hframe, hmet, hat, hlast, hentries, hwrote⟩ := State.gmat_meets hform h hcome hgood htakes
    refine ⟨t, hrun, hframe, hmet, hat, hlast, hentries, fun l hl => ⟨hwrote l hl, ?_⟩⟩
    rintro rfl j hj
    rw [← State.gmatOut_int]
    exact (hwrote l hl).1 _ (List.mem_map_of_mem (List.mem_range.2 hj))

end Sys2Proof.Machine
end

section
/-! SUPPORT. Requests that an issue set sends on their way, as a store's and an atomic's (R249, R259, R260). -/

namespace Sys2Proof.Machine

/-! ### Sending -/

/-- The request as its master has made it. -/
def Req.plain (q : Req) : Req := { q with id := 0, route := [], stage := .waiting }

/-- Where addresses lie and what registers hold is as it was. -/
structure Reads (x : Ex) (s t : State) : Prop where
  kinds : ∀ a n, t.addrKind a n = s.addrKind a n
  lanes : ∀ l, s.hasLane x l → t.hasLane x l ∧ ∀ r, t.rd x l r = s.rd x l r

theorem Reads.refl (x : Ex) (s : State) : Reads x s s := ⟨fun _ _ => rfl, fun _ h => ⟨h, fun _ => rfl⟩⟩

theorem Reads.trans {x : Ex} {s t u : State} (h : Reads x s t) (g : Reads x t u) : Reads x s u := by
  refine ⟨fun a n => (g.kinds a n).trans (h.kinds a n), fun l hl => ?_⟩
  obtain ⟨hthere, hrd⟩ := h.lanes l hl
  obtain ⟨hthere', hrd'⟩ := g.lanes l hthere
  exact ⟨hthere', fun r => (hrd' r).trans (hrd r)⟩

/-- From s to t requests have been sent, the registers `rs` of the lanes `ls` wait, and fills of the L1 may have been lost. -/
structure Sends (C : List Part) (x : Ex) (rs ls : List Nat) (out : List Req) (s t : State) : Prop where
  keeps : State.Keeps C s t
  time : t.time = s.time
  others : OtherClusters x.cl s t
  engine : t.engine x.cl = s.engine x.cl
  kinds : ∀ a n, t.addrKind a n = s.addrKind a n
  threads : ∀ k l, (k = x.key → l ∉ ls) → (t.tg x.cl).thread? k l = (s.tg x.cl).thread? k l
  waits : ∀ l ∈ ls, ∀ y, (s.tg x.cl).thread? x.key l = some y →
    ∃ sb, (t.tg x.cl).thread? x.key l = some { y with sb := sb } ∧ ∀ q ∈ rs, (q, none) ∈ sb
  reqs : ∃ g new, Unfilling g ∧ t.reqs = s.reqs.map g ++ new ∧ (∀ q ∈ new, q.fills = false) ∧ new.map Req.plain = out

namespace Sends

variable {C : List Part} {x : Ex} {rs ls ls' : List Nat} {out out' : List Req} {s t u : State}

theorem refl (C : List Part) (x : Ex) (rs : List Nat) (s : State) : Sends C x rs [] [] s s :=
  ⟨State.Keeps.refl _ s, rfl, fun _ _ => rfl, rfl, fun _ _ => rfl, fun _ _ _ => rfl, fun _ h => absurd h List.not_mem_nil,
    id, [], .id, by simp, fun _ h => absurd h List.not_mem_nil, rfl⟩

theorem trans (h : Sends C x rs ls out s t) (g : Sends C x rs ls' out' t u) : Sends C x rs (ls ++ ls') (out ++ out') s u := by
  obtain ⟨f, new, hf, hreqs, hnew, hout⟩ := h.reqs
  obtain ⟨f', new', hf', hreqs', hnew', hout'⟩ := g.reqs
  have hstays : new.map f' = new := (List.map_congr_left fun q hq => hf'.spares q (hnew q hq)).trans (List.map_id _)
  refine ⟨h.keeps.trans g.keeps, g.time.trans h.time, fun k hk => (g.others k hk).trans (h.others k hk), g.engine.trans h.engine,
    fun a n => (g.kinds a n).trans (h.kinds a n), fun k l hl => ?_, fun l hl y hy => ?_, f' ∘ f, new ++ new', hf.comp hf', ?_,
    fun q hq => (List.mem_append.1 hq).elim (hnew q) (hnew' q), by rw [List.map_append, hout, hout']⟩
  · rw [g.threads k l fun hk hm => hl hk (List.mem_append_right _ hm), h.threads k l fun hk hm => hl hk (List.mem_append_left _ hm)]
  · by_cases hmem : l ∈ ls
    · obtain ⟨sb, hsb, hwait⟩ := h.waits l hmem y hy
      by_cases hmem' : l ∈ ls'
      · obtain ⟨sb', hsb', hwait'⟩ := g.waits l hmem' _ hsb
        exact ⟨sb', hsb', hwait'⟩
      · exact ⟨sb, (g.threads x.key l fun _ => hmem').trans hsb, hwait⟩
    · have hmem' : l ∈ ls' := (List.mem_append.1 hl).resolve_left hmem
      exact g.waits l hmem' y ((h.threads x.key l fun _ => hmem).trans hy)
  · rw [hreqs', hreqs, List.map_append, List.map_map, hstays, List.append_assoc]

theorem wider {D : List Part} (h : Sends C x rs ls out s t) (hc : C ⊆ D) : Sends D x rs ls out s t :=
  { h with keeps := h.keeps.wider hc }

/-- A lane is as it was, but for the registers it waits for. -/
theorem lane (h : Sends C x rs ls out s t) {l : Nat} (hl : s.hasLane x l) : t.hasLane x l
    ∧ ∃ sb, t.thread x l = { s.thread x l with sb := sb } ∧ (l ∈ ls → ∀ q ∈ rs, (q, none) ∈ sb) := by
  obtain ⟨y, hy⟩ := Option.isSome_iff_exists.1 hl
  by_cases hmem : l ∈ ls
  · obtain ⟨sb, hsb, hwait⟩ := h.waits l hmem y hy
    rw [State.hasLane, State.thread, State.thread, hsb, hy]
    exact ⟨rfl, sb, rfl, fun _ => hwait⟩
  · have hsame := h.threads x.key l fun _ => hmem
    rw [State.hasLane, State.thread, State.thread, hsame, hy]
    exact ⟨rfl, y.sb, rfl, fun hm => absurd hm hmem⟩

theorem reads (h : Sends C x rs ls out s t) : Reads x s t := by
  refine ⟨h.kinds, fun l hl => ?_⟩
  obtain ⟨hthere, sb, hthread, -⟩ := h.lane hl
  exact ⟨hthere, State.rd_of_thread (by rw [hthread])⟩

/-- Senders one after another, each as it would alone. -/
theorem foldl {α : Type} {f : State → α → State} {lanes : α → List Nat} {out : α → List Req} (as : List α)
    (hf : ∀ a ∈ as, ∀ u, Reads x s u → Sends C x rs (lanes a) (out a) u (f u a)) :
    Sends C x rs (as.flatMap lanes) (as.flatMap out) s (as.foldl f s) := by
  induction as generalizing s with
  | nil => exact refl C x rs s
  | cons a as ih =>
    have hfirst := hf a (List.mem_cons_self ..) s (.refl x s)
    exact hfirst.trans (ih fun b hb u hu => hf b (List.mem_cons_of_mem _ hb) u (hfirst.reads.trans hu))

/-! ### The steps of a sender -/

theorem await (hc : [Part.clusters] ⊆ C) (s : State) (x : Ex) (l : Nat) (rs : List Nat) :
    Sends C x rs [l] [] s (s.await x l rs) := by
  have hon : OnLanes x [l] s (s.await x l rs) := .setThread s x l _
  refine ⟨State.await_keeps hc (State.Keeps.refl _ s) _ _ _, hon.time, hon.others, hon.engine, fun _ _ => rfl, hon.tg.threads,
    fun m hm y hy => ?_, id, [], .id, by rw [List.map_id, List.append_nil]; rfl, fun _ h => absurd h List.not_mem_nil, rfl⟩
  obtain rfl := List.mem_singleton.1 hm
  refine ⟨rs.map (·, none) ++ y.sb.filter fun b => b.1 ∉ rs, ?_, fun q hq => List.mem_append_left _ (List.mem_map_of_mem hq)⟩
  rw [State.await, State.setThread, State.tg_setTg_self, Tg.thread?_updThread_self, hy]
  rfl

theorem awaits (hc : [Part.clusters] ⊆ C) (s : State) (x : Ex) (ls rs : List Nat) :
    Sends C x rs ls [] s (ls.foldl (fun s l => s.await x l rs) s) := by
  have h := foldl (s := s) ls fun l _ u _ => await hc u x l rs
  rwa [List.flatMap_singleton', List.flatMap_eq_nil_iff.2 fun _ _ => rfl] at h

/-- Lines of the L1 change, and fills of them on their way are lost. -/
theorem lines (hc : [Part.clusters, .reqs] ⊆ C) (s : State) (x : Ex) (rs : List Nat) {t : Tg} (ht : t.groups = (s.tg x.cl).groups)
    (line : Nat) : Sends C x rs [] [] s ((s.setTg x.cl t).dropFills x.cl line) :=
  ⟨State.dropFills_keeps (List.Subset.trans (by decide) hc) (State.setTg_keeps (List.Subset.trans (by decide) hc)
      (State.Keeps.refl _ s) _ _) _ _,
    rfl, fun k hk => State.cluster_setCluster_ne s _ hk, s.engine_setTg _ _ _, fun _ _ => rfl,
    fun k l _ => (congrArg (·.thread? k l) (State.tg_setTg_self (s := s) _ _)).trans (Tg.thread?_of_groups ht k l),
    fun _ h => absurd h List.not_mem_nil, (s.setTg x.cl t).unfill x.cl line, [], State.unfill_unfilling _ _ _,
    (List.append_nil _).symm, fun _ h => absurd h List.not_mem_nil, rfl⟩

theorem request (hc : [Part.reqs] ⊆ C) (x : Ex) (rs : List Nat) {r : Req} (hmaster : r.master.cluster?.isSome = true)
    (hmapped : s.addrKind r.addr (max 1 r.len) ≠ .unmapped) (hfills : r.fills = false) (hplain : r.plain = r) :
    Sends C x rs [] [r] s (s.request r) := by
  rw [State.request_of_mapped hmaster hmapped]
  refine ⟨State.sent_keeps (hc (List.mem_singleton_self _)) (State.Keeps.refl _ s) r, rfl, fun _ _ => rfl, rfl, fun _ _ => rfl,
    fun _ _ _ => rfl, fun _ h => absurd h List.not_mem_nil, id, [s.sending r], .id, by rw [List.map_id]; rfl, fun q hq => ?_, ?_⟩
  · rw [List.mem_singleton.1 hq]
    exact hfills
  · exact congrArg (fun q => [q]) hplain

theorem requests (hc : [Part.reqs] ⊆ C) (x : Ex) (rs : List Nat) {out : List Req} (hmaster : ∀ r ∈ out, r.master.cluster?.isSome = true)
    (hmapped : ∀ r ∈ out, s.addrKind r.addr (max 1 r.len) ≠ .unmapped) (hfills : ∀ r ∈ out, r.fills = false)
    (hplain : ∀ r ∈ out, r.plain = r) : Sends C x rs [] out s (s.requests out) := by
  have h := foldl (s := s) (C := C) (rs := rs) (lanes := fun _ => []) (out := fun r => [r]) out fun r hr u hu =>
    request hc x rs (hmaster r hr) (by rw [hu.kinds]; exact hmapped r hr) (hfills r hr) (hplain r hr)
  rwa [List.flatMap_singleton', List.flatMap_eq_nil_iff.2 fun _ _ => rfl] at h

theorem count (hc : [Part.regs] ⊆ C) (s : State) (x : Ex) (rs : List Nat) {sub : Nat} (hsub : sub < 256) (n : Nat) :
    Sends C x rs [] [] s (s.count (0x3600 + x.cl.val) sub n) := by
  have hcl := x.cl.isLt
  have hkept {i j : Nat} (hi : i ≠ 0x3600 + x.cl.val) (hj : j < 256) : (s.count (0x3600 + x.cl.val) sub n).reg i j = s.reg i j :=
    State.reg_setReg_ne s _ (regKey_ne_of_idx hj hsub hi)
  exact ⟨State.count_keeps hc (State.Keeps.refl _ s) _ _ _, rfl, fun _ _ => rfl, rfl,
    State.addrKind_of_reg (hkept (by omega) (by decide)) (hkept (by omega) (by decide)), fun _ _ _ => rfl,
    fun _ h => absurd h List.not_mem_nil, id, [], .id, by rw [List.map_id, List.append_nil]; rfl,
    fun _ h => absurd h List.not_mem_nil, rfl⟩

/-! ### What has been sent -/

theorem out_eq {α : Type} (h : Sends C x rs ls out s t) (F : Req → α) (hF : ∀ q, F q.plain = F q) :
    ∃ old new : List Req, t.reqs = old ++ new
      ∧ old.map (fun q => { q with purpose := .head 0 }) = s.reqs.map (fun q => { q with purpose := .head 0 })
      ∧ new.map F = out.map F ∧ new.length = out.length := by
  obtain ⟨g, new, hg, hreqs, -, hout⟩ := h.reqs
  refine ⟨s.reqs.map g, new, hreqs, ?_, ?_, by rw [← hout, List.length_map]⟩
  · rw [List.map_map]
    exact List.map_congr_left fun q _ => hg.rest q
  · rw [← hout, List.map_map]
    exact List.map_congr_left fun q _ => (hF q).symm

end Sends

/-- A lane that has gone on, and waits for registers. -/
theorem gone_on_of_thread {s t : State} {x : Ex} {l pc : Nat} {sb : List (Nat × Option Nat)}
    (h : t.thread x l = { s.thread x l with pc := pc, sb := sb }) (hrun : (s.thread x l).run = .running) :
    At t x l pc ∧ Wrote s t x l [] := by
  refine ⟨?_, .of_rd (fun p hp => absurd hp List.not_mem_nil) (fun r _ => State.rd_of_thread (by rw [h]) r) (by rw [h])⟩
  rw [At, h]
  exact ⟨rfl, hrun⟩

end Sys2Proof.Machine
end

section
/-! SUPPORT. Stores and atomics on memory (R249, R259, R260). -/

namespace Sys2Proof.Machine

/-! ### Stores (R249) -/

section
variable {s : State} {th : Th} {a v n : Nat} {x : Ex}

/-- The write of a lane's store. -/
def Ex.storeReq (x : Ex) (l n : Nat) (a : Word64) (bs : List Byte) : Req :=
  mkReq (.tg x.cl) .write a n bs false true (.store x.cl x.sched x.slot l x.pc) (some x.job.ctx)

theorem State.regBytes_of_rd {u : State} {l : Nat} (h : ∀ r, u.rd x l r = s.rd x l r) (r n : Nat) :
    u.regBytes x l r n = s.regBytes x l r n := by
  simp only [State.regBytes, h]

theorem State.stLane_sends {l : Nat} {addr : Word64} (h1 : 1 ≤ n) (hmapped : s.addrKind addr n ≠ .unmapped) :
    Sends [.clusters, .reqs] x [] [] [x.storeReq l n addr (s.regBytes x l v n)] s (s.stLane x l v n addr) := by
  have hlines := Sends.lines (C := [.clusters, .reqs]) (List.Subset.refl _) s x []
    (t := (s.tg x.cl).l1Store (s.l1Line addr) (addr.toNat % 128) (s.regBytes x l v n)) rfl (s.l1Line addr)
  have hlen : max 1 (x.storeReq l n addr (s.regBytes x l v n)).len = n := Nat.max_eq_right h1
  exact hlines.trans (Sends.request (by decide) x [] rfl (by rw [hlen, hlines.kinds]; exact hmapped) rfl rfl)

/-- A store changes bytes of the L1, not which sectors it holds. -/
theorem State.stLane_l1 (s : State) (x : Ex) (l v n : Nat) (addr : Word64) :
    ((s.stLane x l v n addr).tg x.cl).l1.map (fun e => (e.line, e.valid)) = (s.tg x.cl).l1.map fun e => (e.line, e.valid) := by
  have hclusters (u : State) (r : Req) : (u.request r).tg x.cl = u.tg x.cl := by
    have hparts : (u.request r).clusters = u.clusters :=
      (State.request_keeps (List.Subset.refl _) (State.Keeps.refl _ u) r).parts .clusters (by decide)
    simp only [State.tg, State.cluster, hparts]
  have hstored : ((s.stLane x l v n addr).tg x.cl)
      = (s.tg x.cl).l1Store (s.l1Line addr) (addr.toNat % 128) (s.regBytes x l v n) :=
    (hclusters _ _).trans (State.tg_setTg_self (s := s) _ _)
  rw [hstored, Tg.l1Store, List.map_map]
  refine List.map_congr_left fun e _ => ?_
  dsimp only [Function.comp_apply]
  split <;> rfl

theorem st_sends (hin : s.inHand th (a :: (a + 1) :: regsFor v n) (accessBad (regsFor v n) a n false) x) (htog : s.together x) :
    Runs (.st th a v n) s [.clusters, .reqs] fun t => Went s t x x.lanes 1
      ∧ (∀ l ∈ x.lanes, At t x l (x.pc + th.size) ∧ Wrote s t x l [])
      ∧ (t.tg x.cl).l1.map (fun e => (e.line, e.valid)) = (s.tg x.cl).l1.map (fun e => (e.line, e.valid))
      ∧ ∃ old new : List Req, t.reqs = old ++ new
          ∧ old.map (fun q => { q with purpose := .head 0 }) = s.reqs.map (fun q => { q with purpose := .head 0 })
          ∧ new.map (fun q => (q.kind, q.addr, q.data, q.poisoned, q.purpose)) = x.lanes.map fun l =>
            (.write, s.rd2 x l a, s.regBytes x l v n, false, .store x.cl x.sched x.slot l x.pc) := by
  have hadv := OnLanes.advance s x th.size
  have hlane {l : Nat} (hl : l ∈ x.lanes) := hadv.hasLane (State.inHand_hasLane hin hl)
  have hthread {l : Nat} (hl : l ∈ x.lanes) := State.advance_thread hin htog th.size hl
  have hl1 : ((s.advance x th.size).tg x.cl).l1 = (s.tg x.cl).l1 := by rw [hadv.tg.rest]
  have hkeeps : State.Keeps [.clusters, .reqs] s (s.advance x th.size) := State.advance_keeps (by decide) (State.Keeps.refl _ s) _ _
  have hsends : Sends [.clusters, .reqs] x [] (x.lanes.flatMap fun _ => [])
      (x.lanes.flatMap fun l => [x.storeReq l n (s.rd2 x l a) (s.regBytes x l v n)]) (s.advance x th.size)
      (x.lanes.foldl (fun s l => s.stLane x l v n (s.rd2 x l a)) (s.advance x th.size)) := by
    refine Sends.foldl _ fun l hl u hu => ?_
    obtain ⟨h1, -, hmapped⟩ := accessBad_eq_none (State.inHand_good hin hl)
    have hrd (r : Nat) : u.rd x l r = s.rd x l r :=
      ((hu.lanes l (hlane hl)).2 r).trans (State.rd_of_thread (by rw [hthread hl]) r)
    rw [State.rd2_of_rd hrd, ← State.regBytes_of_rd hrd]
    refine State.stLane_sends h1 ?_
    rw [hu.kinds]
    exact hmapped
  have hheld := (State.foldl_preserves (fun t => (t.tg x.cl).l1.map fun e => (e.line, e.valid))
    (fun u l => u.stLane_l1 x l v n (u.rd2 x l a)) x.lanes (s.advance x th.size)).trans (congrArg _ hl1)
  obtain ⟨old, new, hreqs, hold, hnew, -⟩ := hsends.out_eq (fun q => (q.kind, q.addr, q.data, q.poisoned, q.purpose)) fun _ => rfl
  have hrun : s.perLane th (a :: (a + 1) :: regsFor v n) 1 (accessBad (regsFor v n) a n false) (fun x l s =>
      s.stLane x l v n (s.rd2 x l a)) = State.issued (x.lanes.foldl (fun s l => s.stLane x l v n (s.rd2 x l a))
        (s.advance x th.size)) x 1 := State.perLane_eq hin 1 _
  generalize x.lanes.foldl (fun s l => s.stLane x l v n (s.rd2 x l a)) (s.advance x th.size) = u at *
  refine ⟨_, congrArg Host.Outcome.next hrun, (State.issued_keeps (by decide) (hkeeps.trans hsends.keeps) _ _).frame,
    .of_issued (hsends.time.trans hadv.time) (fun k hk => (hsends.others k hk).trans (hadv.others k hk))
      (fun k l hk => (hsends.threads k l fun _ => by simp).trans (hadv.tg.threads k l hk)) (hsends.engine.trans hadv.engine) 1,
    fun l hl => ?_, ?_, old, new, hreqs, hold, hnew.trans ?_⟩
  · obtain ⟨-, sb, hsb, -⟩ := hsends.lane (hlane hl)
    refine gone_on_of_thread (sb := sb) ?_ (htog l hl).1
    rw [State.issued_thread, hsb, hthread hl]
  · rw [State.tg_issued]
    exact hheld
  · rw [← List.map_eq_flatMap, List.map_map]
    rfl

end

end Sys2Proof.Machine
end

section
/-! SUPPORT. Atomics on memory, and what they bring back (R259, R260, R262): the statement from its clauses. -/

namespace Sys2Proof.Machine

/-! ### The lanes of each address (R260) -/

theorem nodup_eraseDups {α : Type} [BEq α] [LawfulBEq α] : ∀ as : List α, as.eraseDups.Nodup
  | [] => List.nodup_nil
  | a :: as => by
    rw [List.eraseDups_cons, List.nodup_cons, List.mem_eraseDups]
    exact ⟨by simp, nodup_eraseDups _⟩
termination_by as => as.length
decreasing_by exact Nat.lt_succ_of_le (List.length_filter_le _ _)

section
variable (ls : List Nat) (addr : Nat → Word64)

theorem mem_of_mem_byAddr {p : Word64 × List Nat} (hp : p ∈ byAddr (ls.map fun l => (l, addr l))) {l : Nat} (hl : l ∈ p.2) :
    l ∈ ls ∧ addr l = p.1 := by
  obtain ⟨a, -, rfl⟩ := List.mem_map.1 hp
  obtain ⟨q, hq, rfl⟩ := List.mem_map.1 hl
  obtain ⟨hmem, haddr⟩ := List.mem_filter.1 hq
  obtain ⟨m, hm, rfl⟩ := List.mem_map.1 hmem
  exact ⟨hm, eq_of_beq haddr⟩

/-- Every address is some lane's. -/
theorem exists_lane_of_mem_byAddr {p : Word64 × List Nat} (hp : p ∈ byAddr (ls.map fun l => (l, addr l))) :
    ∃ l ∈ ls, addr l = p.1 := by
  obtain ⟨a, ha, rfl⟩ := List.mem_map.1 hp
  obtain ⟨q, hq, rfl⟩ := List.mem_map.1 (List.mem_eraseDups.1 ha)
  obtain ⟨l, hl, rfl⟩ := List.mem_map.1 hq
  exact ⟨l, hl, rfl⟩

theorem mem_flatMap_byAddr {l : Nat} : l ∈ (byAddr (ls.map fun l => (l, addr l))).flatMap (·.2) ↔ l ∈ ls := by
  refine ⟨fun h => ?_, fun h => List.mem_flatMap.2 ⟨_, List.mem_map_of_mem (a := addr l) ?_, ?_⟩⟩
  · obtain ⟨p, hp, hl⟩ := List.mem_flatMap.1 h
    exact (mem_of_mem_byAddr ls addr hp hl).1
  · rw [List.mem_eraseDups, List.map_map]
    exact List.mem_map_of_mem h
  · exact List.mem_map.2 ⟨(l, addr l), List.mem_filter.2 ⟨List.mem_map_of_mem h, beq_self_eq_true _⟩, rfl⟩

/-- Each lane is with one address. -/
theorem length_flatMap_byAddr : ((byAddr (ls.map fun l => (l, addr l))).flatMap (·.2)).length = ls.length := by
  have hperm : (ls.map addr).eraseDups.Perm (ls.map addr).dedup :=
    (List.perm_ext_iff_of_nodup (nodup_eraseDups _) (List.nodup_dedup _)).2 fun a => by rw [List.mem_eraseDups, List.mem_dedup]
  have hcount (a : Word64) : (((ls.map fun l => (l, addr l)).filter fun p => p.2 == a).map (·.1)).length = (ls.map addr).count a := by
    rw [List.length_map, List.filter_map, List.length_map, List.count, List.countP_map, List.countP_eq_length_filter]
    rfl
  rw [byAddr, List.length_flatMap, List.map_map, List.map_map]
  calc _ = ((ls.map addr).eraseDups.map fun a => (ls.map addr).count a).sum := by
        refine congrArg List.sum (List.map_congr_left fun a _ => hcount a)
    _ = ((ls.map addr).dedup.map fun a => (ls.map addr).count a).sum := (hperm.map _).sum_eq
    _ = ls.length := by rw [List.sum_map_count_dedup_eq_length, List.length_map]

end

/-! ### Counting (R271) -/

/-- Two subentries of a counter entry have been counted up, and nothing else has changed. -/
structure Counted (idx a b n m : Nat) (s t : State) : Prop where
  fst : t.reg idx a = s.reg idx a + BitVec.ofNat 64 n
  snd : t.reg idx b = s.reg idx b + BitVec.ofNat 64 m
  entries : Entries [(idx, a), (idx, b)] s t

namespace Counted

variable {idx a b n m n' m' : Nat} {s t u : State}

theorem of_regs (h : t.regs = s.regs) : Counted idx a b 0 0 s t :=
  ⟨(State.reg_of_regs h _ _).trans (BitVec.add_zero _).symm, (State.reg_of_regs h _ _).trans (BitVec.add_zero _).symm,
    (Entries.refl _ s).of_regs h⟩

theorem trans (h : Counted idx a b n m s t) (g : Counted idx a b n' m' t u) : Counted idx a b (n + n') (m + m') s u := by
  refine ⟨?_, ?_, h.entries.trans g.entries⟩
  · rw [g.fst, h.fst, BitVec.add_assoc, BitVec.ofNat_add]
  · rw [g.snd, h.snd, BitVec.add_assoc, BitVec.ofNat_add]

theorem counts (hab : a ≠ b) (s : State) (idx n m : Nat) : Counted idx a b n m s ((s.count idx a n).count idx b m) := by
  have hkeys : regKey idx a ≠ regKey idx b := by
    unfold regKey
    omega
  refine ⟨?_, ?_, ((Entries.refl _ s).write (by simp) _).write (by simp) _⟩
  · rw [State.count, State.reg_setReg_ne _ _ hkeys, State.reg_count_self]
  · rw [State.reg_count_self, State.count, State.reg_setReg_ne _ _ hkeys.symm]

end Counted

/-! ### The requests of an atomic -/

section
variable {s : State} {x : Ex} {op : AtomOp} {ty : AtomTy} {d v : Nat}

theorem one_le_atomWidth (ty : AtomTy) : 1 ≤ atomWidth ty := by
  cases ty <;> decide

/-- The lanes that one request carries together, of those that name an address (log entry 41). -/
def State.atomSets (s : State) (op : AtomOp) (ty : AtomTy) (p : Word64 × List Nat) : List (List Nat) :=
  if s.addrKind p.1 (atomWidth ty) = .remote ∧ atomJoins op ty = false then p.2.map fun l => [l] else [p.2]

/-- The request that carries them. -/
def State.atomAsk (s : State) (x : Ex) (op : AtomOp) (ty : AtomTy) (d v : Nat) (a : Word64) (ls : List Nat) : Req :=
  { mkReq (.tg x.cl) (.atomic op ty) a (atomWidth ty) [] false true (.atomicOf x.cl x.sched x.slot d ls x.pc) (some x.job.ctx) with
    operands := ls.map fun l => s.atomArgs x l v (atomWidth ty) op }

/-- The requests of one address. -/
def State.atomAsks (s : State) (x : Ex) (op : AtomOp) (ty : AtomTy) (d v : Nat) (p : Word64 × List Nat) : List Req :=
  (s.atomSets op ty p).map (s.atomAsk x op ty d v p.1)

theorem mem_of_mem_atomSets {p : Word64 × List Nat} {ls : List Nat} (h : ls ∈ s.atomSets op ty p) {l : Nat} (hl : l ∈ ls) :
    l ∈ p.2 := by
  unfold State.atomSets at h
  split at h
  · obtain ⟨m, hm, rfl⟩ := List.mem_map.1 h
    rwa [List.mem_singleton.1 hl]
  · rwa [← List.mem_singleton.1 h]

/-- What an atomic sends depends on what its lanes read. -/
theorem Reads.atomAsks {t : State} (h : Reads x s t) {p : Word64 × List Nat} (hlanes : ∀ l ∈ p.2, s.hasLane x l) :
    t.atomAsks x op ty d v p = s.atomAsks x op ty d v p := by
  have hsets : t.atomSets op ty p = s.atomSets op ty p := by rw [State.atomSets, h.kinds, State.atomSets]
  rw [State.atomAsks, hsets, State.atomAsks]
  refine List.map_congr_left fun ls hls => ?_
  have hargs : (ls.map fun l => t.atomArgs x l v (atomWidth ty) op) = ls.map fun l => s.atomArgs x l v (atomWidth ty) op :=
    List.map_congr_left fun l hl => by
      have hrd := (h.lanes l (hlanes l (mem_of_mem_atomSets hls hl))).2
      simp only [State.atomArgs, State.rd2_of_rd hrd, hrd]
  rw [State.atomAsk, hargs, State.atomAsk]

theorem State.atomReq_eq (s : State) (x : Ex) (op : AtomOp) (ty : AtomTy) (d v : Nat) (p : Word64 × List Nat) :
    s.atomReq x op ty d v p.1 p.2 =
      (((State.lineLost (p.2.foldl (fun s l => s.await x l (regsFor d (atomWidth ty))) s) x
          ((p.2.foldl (fun s l => s.await x l (regsFor d (atomWidth ty))) s).l1Line p.1)).count (0x3600 + x.cl.val) 9
        (s.atomSets op ty p).length).count (0x3600 + x.cl.val) 0x0B p.2.length).requests (s.atomAsks x op ty d v p) := by
  have hasks : (if s.addrKind p.1 (atomWidth ty) = .remote ∧ (!atomJoins op ty) = true then
      p.2.map fun l => s.atomAsk x op ty d v p.1 [l] else [s.atomAsk x op ty d v p.1 p.2]) = s.atomAsks x op ty d v p := by
    simp only [State.atomAsks, State.atomSets, Bool.not_eq_true']
    split
    · rw [List.map_map]
      rfl
    · rfl
  have hlen : (s.atomAsks x op ty d v p).length = (s.atomSets op ty p).length := List.length_map ..
  rw [← hlen, ← hasks]
  rfl

theorem State.atomReq_sends {p : Word64 × List Nat} (hmapped : s.addrKind p.1 (atomWidth ty) ≠ .unmapped) :
    Sends [.regs, .clusters, .reqs] x (regsFor d (atomWidth ty)) p.2 (s.atomAsks x op ty d v p) s (s.atomReq x op ty d v p.1 p.2)
      ∧ Counted (0x3600 + x.cl.val) 9 0x0B (s.atomSets op ty p).length p.2.length s (s.atomReq x op ty d v p.1 p.2) := by
  rw [State.atomReq_eq]
  have hwaits := Sends.awaits (C := [.clusters, .reqs]) (by decide) s x p.2 (regsFor d (atomWidth ty))
  generalize p.2.foldl (fun s l => s.await x l (regsFor d (atomWidth ty))) s = w at hwaits ⊢
  have hlost : Sends [.clusters, .reqs] x (regsFor d (atomWidth ty)) p.2 [] s (w.lineLost x (w.l1Line p.1)) := by
    have h := hwaits.trans (Sends.lines (C := [.clusters, .reqs]) (List.Subset.refl _) w x (regsFor d (atomWidth ty))
      (t := (w.tg x.cl).l1Drop (w.l1Line p.1)) rfl (w.l1Line p.1))
    rwa [List.append_nil, List.append_nil] at h
  generalize w.lineLost x (w.l1Line p.1) = u at hlost ⊢
  have hcounted := Counted.counts (a := 9) (b := 0x0B) (by decide) u (0x3600 + x.cl.val) (s.atomSets op ty p).length p.2.length
  have hcount : Sends [.regs, .clusters, .reqs] x (regsFor d (atomWidth ty)) [] [] u
      ((u.count (0x3600 + x.cl.val) 9 (s.atomSets op ty p).length).count (0x3600 + x.cl.val) 0x0B p.2.length) :=
    (Sends.count (by decide) u x _ (by decide) _).trans (Sends.count (by decide) _ x _ (by decide) _)
  generalize (u.count (0x3600 + x.cl.val) 9 (s.atomSets op ty p).length).count (0x3600 + x.cl.val) 0x0B p.2.length = c
    at hcounted hcount ⊢
  have hbefore := (hlost.wider (D := [.regs, .clusters, .reqs]) (by decide)).trans hcount
  have hasks {P : Req → Prop} (hP : ∀ ls, P (s.atomAsk x op ty d v p.1 ls)) (r : Req) (hr : r ∈ s.atomAsks x op ty d v p) : P r := by
    obtain ⟨ls, -, rfl⟩ := List.mem_map.1 hr
    exact hP ls
  have hsent := Sends.requests (s := c) (C := [.reqs]) (List.Subset.refl _) x (regsFor d (atomWidth ty))
    (hasks (P := fun r => r.master.cluster?.isSome = true) fun _ => rfl)
    (hasks (P := fun r => c.addrKind r.addr (max 1 r.len) ≠ .unmapped) fun _ => by
      rw [hbefore.kinds]
      exact (Nat.max_eq_right (one_le_atomWidth ty)).symm ▸ hmapped)
    (hasks (P := fun r => r.fills = false) fun _ => rfl) (hasks (P := fun r => r.plain = r) fun _ => rfl)
  have hall := hbefore.trans (hsent.wider (D := [.regs, .clusters, .reqs]) (by decide))
  have hregs := (Counted.of_regs (idx := 0x3600 + x.cl.val) (a := 9) (b := 0x0B) (hlost.keeps.parts .regs (by decide))).trans (hcounted.trans
    (Counted.of_regs (hsent.keeps.parts .regs (by decide))))
  rw [Nat.zero_add, Nat.zero_add] at hregs
  refine ⟨?_, hregs⟩
  simpa only [List.append_nil, List.nil_append] using hall

/-- The requests of all addresses, one address after another. -/
theorem State.atomReqs_send (sets : List (Word64 × List Nat)) : ∀ {s : State},
    (∀ p ∈ sets, s.addrKind p.1 (atomWidth ty) ≠ .unmapped) → (∀ p ∈ sets, ∀ l ∈ p.2, s.hasLane x l) →
    Sends [.regs, .clusters, .reqs] x (regsFor d (atomWidth ty)) (sets.flatMap (·.2)) (sets.flatMap (s.atomAsks x op ty d v)) s
        (sets.foldl (fun s p => s.atomReq x op ty d v p.1 p.2) s)
      ∧ Counted (0x3600 + x.cl.val) 9 0x0B (sets.flatMap (s.atomAsks x op ty d v)).length (sets.flatMap (·.2)).length s
        (sets.foldl (fun s p => s.atomReq x op ty d v p.1 p.2) s) := by
  induction sets with
  | nil => exact fun _ _ => ⟨.refl _ x _ _, .of_regs rfl⟩
  | cons p sets ih =>
    intro s hmapped hlanes
    obtain ⟨hmine, hmapped⟩ := List.forall_mem_cons.1 hmapped
    obtain ⟨-, hlanes⟩ := List.forall_mem_cons.1 hlanes
    obtain ⟨hfirst, hcounted⟩ := State.atomReq_sends (d := d) (v := v) (x := x) (op := op) hmine
    have hlen : (s.atomAsks x op ty d v p).length = (s.atomSets op ty p).length := List.length_map ..
    rw [← hlen] at hcounted
    generalize hu : s.atomReq x op ty d v p.1 p.2 = u at hfirst hcounted
    have hreads := hfirst.reads
    obtain ⟨hrest, hcounted'⟩ := ih (s := u) (fun q hq => (hreads.kinds _ _).symm ▸ hmapped q hq)
      fun q hq l hl => (hreads.lanes l (hlanes q hq l hl)).1
    have hsame : sets.flatMap (u.atomAsks x op ty d v) = sets.flatMap (s.atomAsks x op ty d v) := by
      simp only [List.flatMap]
      exact congrArg List.flatten (List.map_congr_left fun q hq => hreads.atomAsks (hlanes q hq))
    rw [hsame] at hrest hcounted'
    rw [List.foldl_cons, hu, List.flatMap_cons, List.flatMap_cons, List.length_append, List.length_append]
    exact ⟨hfirst.trans hrest, hcounted.trans hcounted'⟩

end

/-! ### Atomics (R259, R260, R271) -/

section
variable {s : State} {th : Th} {op : AtomOp} {ty : AtomTy} {d a v : Nat} {x : Ex}

theorem State.memAtomic_eq (hform : atomForm op ty = true) (hin : s.inHand th ([a, a + 1] ++ regsFor d (atomWidth ty) ++ atomRegs op ty v)
    (accessBad (atomRegs op ty v) a (atomWidth ty) true) x) : s.memAtomic th op ty d a v =
      State.issued (State.advance ((byAddr (x.lanes.map fun l => (l, s.rd2 x l a))).foldl (fun s p => s.atomReq x op ty d v p.1 p.2) s)
        x th.size) x 1 := by
  have hgood := State.inHand_noFault hin
  obtain ⟨hex, hregs, -⟩ := hin
  simp only [State.memAtomic, hex, hform, hregs, hgood, Bool.not_true, Bool.or_self, Bool.false_eq_true, if_false]

theorem atomic_sends (hform : atomForm op ty = true) (hin : s.inHand th ([a, a + 1] ++ regsFor d (atomWidth ty) ++ atomRegs op ty v)
    (accessBad (atomRegs op ty v) a (atomWidth ty) true) x) (htog : s.together x) :
    Runs (.memoryAtomic th op ty d a v) s [.regs, .clusters, .reqs] fun t => Went s t x x.lanes 1
      ∧ (∀ l ∈ x.lanes, At t x l (x.pc + th.size) ∧ Wrote s t x l []
          ∧ ∀ q ∈ regsFor d (atomWidth ty), (q, none) ∈ (t.thread x l).sb)
      ∧ ∃ old new : List Req, t.reqs = old ++ new
          ∧ old.map (fun q => { q with purpose := .head 0 }) = s.reqs.map (fun q => { q with purpose := .head 0 })
          ∧ new.map (fun q => (q.kind, q.addr, q.operands, q.purpose)) =
            ((byAddr (x.lanes.map fun l => (l, s.rd2 x l a))).map fun p =>
              (if s.addrKind p.1 (atomWidth ty) = .remote ∧ atomJoins op ty = false then p.2.map (fun l => [l])
                else [p.2]).map fun ls =>
                (.atomic op ty, p.1, ls.map fun l => s.atomArgs x l v (atomWidth ty) op,
                  .atomicOf x.cl x.sched x.slot d ls x.pc)).flatten
          ∧ t.reg (0x3600 + x.cl.val) 9 = s.reg (0x3600 + x.cl.val) 9 + BitVec.ofNat 64 new.length
          ∧ t.reg (0x3600 + x.cl.val) 0x0B = s.reg (0x3600 + x.cl.val) 0x0B + BitVec.ofNat 64 x.lanes.length
          ∧ Entries [(0x3600 + x.cl.val, 9), (0x3600 + x.cl.val, 0x0B)] s t := by
  have hthere (l : Nat) (hl : l ∈ x.lanes) := State.inHand_hasLane hin hl
  have hmem {l : Nat} := mem_flatMap_byAddr x.lanes (fun l => s.rd2 x l a) (l := l)
  have hcovered := length_flatMap_byAddr x.lanes fun l => s.rd2 x l a
  have hrun := State.memAtomic_eq hform hin
  obtain ⟨hsends, hcounted⟩ := State.atomReqs_send (s := s) (x := x) (op := op) (ty := ty) (d := d) (v := v)
    (byAddr (x.lanes.map fun l => (l, s.rd2 x l a))) (fun p hp => by
      obtain ⟨l, hl, haddr⟩ := exists_lane_of_mem_byAddr _ _ hp
      rw [← haddr]
      obtain ⟨-, -, hmapped⟩ := accessBad_eq_none (State.inHand_good hin hl)
      exact hmapped)
    fun p hp l hl => hthere l (mem_of_mem_byAddr _ _ hp hl).1
  generalize (byAddr (x.lanes.map fun l => (l, s.rd2 x l a))).foldl (fun s p => s.atomReq x op ty d v p.1 p.2) s = u at *
  have hadv := OnLanes.advance u x th.size
  obtain ⟨hreqs9, hlanes11, hentries⟩ := hcounted
  obtain ⟨old, new, hreqs, hold, hnew, hlen⟩ := hsends.out_eq (fun q => (q.kind, q.addr, q.operands, q.purpose)) fun _ => rfl
  refine ⟨_, congrArg Host.Outcome.next hrun, (State.issued_keeps (by decide) (State.advance_keeps (by decide) hsends.keeps _ _) _ _).frame,
    .of_issued (hadv.time.trans hsends.time) (fun k hk => (hadv.others k hk).trans (hsends.others k hk))
      (fun k l hk => (hadv.tg.threads k l hk).trans (hsends.threads k l fun h hm => hk h (hmem.1 hm)))
      (hadv.engine.trans hsends.engine) 1,
    fun l hl => ?_, old, new, hreqs, hold, hnew.trans ?_, hlen ▸ hreqs9, hcovered ▸ hlanes11, hentries.of_regs rfl⟩
  · obtain ⟨hlane, sb, hsb, hwait⟩ := hsends.lane (hthere l hl)
    have hthread : ((u.advance x th.size).issued x 1).thread x l = { s.thread x l with pc := x.pc + th.size, sb := sb } := by
      rw [State.issued_thread, State.thread_advance (State.inHand_nodup hin) hl hlane, hsb, ← (htog l hl).2]
    obtain ⟨hat, hwrote⟩ := gone_on_of_thread hthread (htog l hl).1
    refine ⟨hat, hwrote, fun q hq => ?_⟩
    rw [hthread]
    exact hwait (hmem.2 hl) q hq
  · rw [List.map_flatMap, List.flatMap]
    refine congrArg List.flatten (List.map_congr_left fun p _ => ?_)
    rw [State.atomAsks, List.map_map]
    rfl

end

/-! ### The return of an atomic (R262) -/

theorem atomicReturn_writes {s : State} {id : Nat} {r : Req} {cl : Cl} {sched : Sched} {slot lane d pc : Nat} {op : AtomOp}
    {ty : AtomTy} {data : List Byte} {y : Thread} (hreq : s.req? id = some r) (hroute : r.route = [])
    (hstage : r.stage = .done data false) (hkind : r.kind = .atomic op ty)
    (hpurpose : r.purpose = .atomicOf cl sched slot d [lane] pc)
    (hthread : (s.tg cl).thread? (slotKey sched slot) lane = some y) :
    Runs (.loadReturn id) s [.clusters, .reqs] fun t => OtherClusters cl s t ∧ t.reqs = s.reqs.filter (fun q => q.id ≠ id)
      ∧ ∃ y', (t.tg cl).thread? (slotKey sched slot) lane = some y'
          ∧ ∀ q ∈ regsFor d (atomWidth ty), Tbl.get 0 y'.regs q =
              BitVec.ofNat 32 (leNat (((data.take (atomWidth ty)).drop (4 * (q - d))).take 4)) := by
  have hfin : r.finished = true := by rw [Req.finished, hstage, hroute]; rfl
  have hrun : s.loadReturn id = (s.dropReq id).setTg cl ((s.tg cl).updThread (slotKey sched slot) lane fun y =>
      y.load d (atomWidth ty) (data.take (atomWidth ty)) (s.time.core + 20)) := by
    simp only [State.loadReturn, hreq, hfin, hpurpose, Bool.not_true, Bool.false_eq_true, if_false, State.atomicDone, hstage, hkind]
    rfl
  refine ⟨_, congrArg Host.Outcome.next hrun, (State.setTg_keeps (by decide) (State.dropReq_keeps (by decide)
    (State.Keeps.refl _ s) id) _ _).frame, fun k hk => State.cluster_setCluster_ne (s.dropReq id) _ hk, rfl,
    y.load d (atomWidth ty) (data.take (atomWidth ty)) (s.time.core + 20), ?_, fun q hq => (y.load_regs _ _ _ _ q).trans (if_pos hq)⟩
  rw [State.tg_setTg_self, Tg.thread?_updThread_self, hthread]
  rfl

/-- Settles O34: what an issue set sends is kept in one relation (`Sends`), which its lanes' stores and its addresses'
atomics compose. -/
theorem storesAndAtomicsLeave : Obligations.StoresAndAtomicsLeave :=
  ⟨fun _ _ _ _ _ _ hin htog => st_sends hin htog, fun _ _ _ _ _ _ _ _ hform hin htog => atomic_sends hform hin htog,
    fun _ _ _ _ _ _ _ _ _ _ _ _ _ hreq hroute hstage hkind hpurpose hthread =>
      atomicReturn_writes hreq hroute hstage hkind hpurpose hthread⟩

end Sys2Proof.Machine
end

section
/-! SUPPORT. Threads that exit, and the end of their block (R231, R232, R241). -/

namespace Sys2Proof.Machine

/-! ### The threads of a block that ends -/

section
variable {t : Tg} {b : Block} {blk : Nat}

/-- The run state of the threads of some lanes, one of them perhaps named twice. -/
theorem Tg.thread?_setRun_mem (key : Nat) {l : Nat} {ls : List Nat} (hl : l ∈ ls) (r : RunSt) : ∀ t : Tg,
    (t.setRun key ls r).thread? key l = (t.thread? key l).map fun y => { y with run := r } := by
  induction ls with
  | nil => exact absurd hl List.not_mem_nil
  | cons m ls ih =>
    intro t
    have hstep : t.setRun key (m :: ls) r = (t.updThread key m fun y => { y with run := r }).setRun key ls r := rfl
    rw [hstep]
    by_cases hmem : l ∈ ls
    · rw [ih hmem]
      by_cases hm : l = m
      · rw [hm, Tg.thread?_updThread_self, Option.map_map]
        rfl
      · rw [Tg.thread?_updThread_ne (h := fun _ => hm)]
    · obtain rfl := (List.mem_cons.1 hl).resolve_right hmem
      rw [(Tg.Touched.setRun _ key ls r).threads key l fun _ => hmem, Tg.thread?_updThread_self]

/-- No thread of the block is left. -/
def Tg.over (t : Tg) (b : Block) : Prop := ∀ k ∈ b.groups, ∀ l y, t.thread? k l = some y → y.run = .exited

theorem Tg.over.run (h : t.over b) {y : Thread} (hy : y ∈ t.blockThreads b) : y.run = .exited := by
  obtain ⟨k, hk, l, hl⟩ := Tg.mem_blockThreads.1 hy
  exact h k hk l y hl

theorem Tg.barrier_over (hb : Tbl.find t.blocks blk = some b) (h : t.over b) : t.barrier blk = t := by
  have hnone : ((t.blockThreads b).any fun y => y.run.barred) = false :=
    List.any_eq_false.2 fun y hy => by rw [h.run hy]; exact Bool.false_ne_true
  rw [Tg.barrier, hb]
  simp only [hnone, Bool.false_and, Bool.false_eq_true, if_false]

theorem Tg.reap_over (hb : Tbl.find t.blocks blk = some b) (h : t.over b) : t.reap blk =
    { t with blocks := t.blocks.del blk
             groups := t.groups.filter fun g => g.1 ∉ b.groups
             rcache := t.rcache.filter fun c => c.2.1 ∉ b.groups
             colls := t.colls.filter fun c => c.group ∉ b.groups } := by
  have hall : ((t.blockThreads b).all fun y => y.run == .exited) = true :=
    List.all_eq_true.2 fun y hy => by rw [h.run hy]; rfl
  rw [Tg.reap, hb]
  simp only [hall, if_true]

theorem Tg.reap_waits (hb : Tbl.find t.blocks blk = some b) {k l : Nat} {y : Thread} (hk : k ∈ b.groups)
    (hy : t.thread? k l = some y) (hrun : y.run ≠ .exited) : t.reap blk = t := by
  have hall : ((t.blockThreads b).all fun y => y.run == .exited) = false :=
    List.all_eq_false.2 ⟨y, Tg.mem_blockThreads.2 ⟨k, hk, l, hy⟩, by simp [hrun]⟩
  rw [Tg.reap, hb]
  simp only [hall, Bool.false_eq_true, if_false]

theorem Tbl.find_filter_notMem {α : Type} (t : Tbl α) {ks : List Nat} {k : Nat} (hk : k ∈ ks) :
    Tbl.find (t.filter fun e => e.1 ∉ ks) k = none := by
  induction t with
  | nil => rfl
  | cons e t ih =>
    rw [List.filter_cons]
    split
    · next he =>
      have hne : e.1 ≠ k := fun h => of_decide_eq_true he (h ▸ hk)
      rw [Tbl.find, if_neg hne, ih]
    · exact ih

end

/-! ### Exit -/

section
variable {s : State} {th : Th} {x : Ex}

/-- The loads of threads that exit bring them nothing. -/
theorem State.dropLoads_spares (s : State) (x : Ex) {r : Req} (hr : r ∈ (s.dropLoads x).reqs) {l : Nat} (hl : l ∈ x.lanes)
    (d : Nat) (keep : Bool) (pc off n : Nat) : r.purpose ≠ .load x.cl x.sched x.slot l d keep pc off n := by
  intro hp
  obtain ⟨q, -, hq⟩ := List.mem_filterMap.1 hr
  split at hq
  · next c sc sl m _ _ _ _ _ hload =>
    split at hq
    · cases hq
    · next hno =>
      obtain rfl := Option.some.inj hq
      obtain ⟨rfl, rfl, rfl, rfl, -⟩ := Purpose.load.inj (hload.symm.trans hp)
      exact hno ⟨rfl, rfl, rfl, hl⟩
  · split at hq
    · obtain rfl := Option.some.inj hq
      cases hp
    · obtain rfl := Option.some.inj hq
      next hatom _ => exact nomatch hatom.symm.trans hp
  · next hother _ =>
    obtain rfl := Option.some.inj hq
    exact hother _ _ _ _ _ _ _ _ _ hp

/-- The TG with the threads of an issue set ended. -/
def State.ended (s : State) (x : Ex) : Tg := (((s.dropLoads x).issued x 1).tg x.cl).setRun x.key x.lanes .exited

theorem State.ended_touched (s : State) (x : Ex) :
    Tg.Touched x.key x.lanes (((s.dropLoads x).issued x 1).tg x.cl) (s.ended x) := .setRun _ _ _ _

theorem State.ended_thread_ne (s : State) (x : Ex) {k l : Nat} (h : k = x.key → l ∉ x.lanes) :
    (s.ended x).thread? k l = (s.tg x.cl).thread? k l :=
  ((s.ended_touched x).threads k l h).trans ((s.dropLoads x).issued_thread? x 1 k l)

theorem State.ended_thread_mem (s : State) (x : Ex) {l : Nat} (hl : l ∈ x.lanes) :
    (s.ended x).thread? x.key l = ((s.tg x.cl).thread? x.key l).map fun y => { y with run := .exited } := by
  rw [State.ended, Tg.thread?_setRun_mem x.key hl]
  exact congrArg _ ((s.dropLoads x).issued_thread? x 1 x.key l)

theorem State.ended_rest (s : State) (x : Ex) : (s.ended x).blocks = (s.tg x.cl).blocks ∧ (s.ended x).lmem = (s.tg x.cl).lmem
    ∧ (s.ended x).issue = (((s.dropLoads x).issued x 1).tg x.cl).issue
    ∧ (s.ended x).freeAt = (((s.dropLoads x).issued x 1).tg x.cl).freeAt := by
  rw [(s.ended_touched x).rest, State.tg_issued]
  exact ⟨rfl, rfl, rfl, rfl⟩

theorem State.exitThreads_eq (hex : s.exOf th.cl th.sched = some x) (hgood : s.exitBad x = none) :
    s.exitThreads th = ((s.dropLoads x).issued x 1).setTg x.cl
      (((s.ended x).barrier ((s.tg x.cl).blockOf x.key)).reap ((s.tg x.cl).blockOf x.key)) := by
  have hblk : (((s.dropLoads x).issued x 1).tg x.cl).blockOf x.key = (s.tg x.cl).blockOf x.key := by
    rw [State.tg_issued]
    rfl
  rw [State.exitThreads, hex]
  dsimp only
  rw [hgood]
  dsimp only
  rw [hblk]
  rfl

theorem State.exited_keeps (s : State) (x : Ex) (t : Tg) :
    State.Keeps [.clusters, .reqs] s (((s.dropLoads x).issued x 1).setTg x.cl t) :=
  State.setTg_keeps (by decide) (State.issued_keeps (by decide) (State.dropLoads_keeps (by decide) (State.Keeps.refl _ s) x) _ _) _ _

/-- The scheduler is done with an exit. -/
theorem State.dropLoads_went (s : State) (x : Ex) : Went s ((s.dropLoads x).issued x 1) x x.lanes 1 :=
  .of_issued (u := s.dropLoads x) rfl (fun _ _ => rfl) (fun _ _ _ => rfl) rfl 1

section
variable {b : Block} (hex : s.exOf th.cl th.sched = some x) (hgood : s.exitBad x = none)
  (hb : Tbl.find (s.tg x.cl).blocks ((s.tg x.cl).blockOf x.key) = some b)
include hex hgood hb

/-- The last threads of a block end it. -/
theorem exit_frees
    (hlast : ∀ k ∈ b.groups, ∀ l y, (s.tg x.cl).thread? k l = some y → y.run = .exited ∨ (k = x.key ∧ l ∈ x.lanes)) :
    Runs (.exit th) s [.clusters, .reqs] fun t => OtherClusters x.cl s t
      ∧ Tbl.find (t.tg x.cl).blocks ((s.tg x.cl).blockOf x.key) = none
      ∧ (∀ k ∈ b.groups, Tbl.find (t.tg x.cl).groups k = none) ∧ (t.tg x.cl).lmem = (s.tg x.cl).lmem
      ∧ Tbl.find (t.tg x.cl).issue x.sched.val = none ∧ t.reqs = (s.dropLoads x).reqs := by
  obtain ⟨hblocks, hlmem, hissue, -⟩ := s.ended_rest x
  obtain ⟨hothers, hno, -, -, -⟩ := s.dropLoads_went x
  have hb' : Tbl.find (s.ended x).blocks ((s.tg x.cl).blockOf x.key) = some b := hblocks.symm ▸ hb
  have hover : (s.ended x).over b := by
    intro k hk l y hy
    by_cases hmine : k = x.key ∧ l ∈ x.lanes
    · obtain ⟨rfl, hl⟩ := hmine
      rw [s.ended_thread_mem x hl] at hy
      obtain ⟨y', -, rfl⟩ := Option.map_eq_some_iff.1 hy
      rfl
    · rw [s.ended_thread_ne x fun hkey hl => hmine ⟨hkey, hl⟩] at hy
      exact (hlast k hk l y hy).resolve_right hmine
  have hrun := State.exitThreads_eq hex hgood
  rw [Tg.barrier_over hb' hover, Tg.reap_over hb' hover] at hrun
  refine ⟨_, congrArg Host.Outcome.next hrun, (s.exited_keeps x _).frame,
    fun k hk => (State.cluster_setCluster_ne _ _ hk).trans (hothers k hk), ?_⟩
  rw [State.tg_setTg_self]
  exact ⟨Tbl.find_del_self _ _, fun k hk => Tbl.find_filter_notMem _ hk, hlmem, (congrArg (Tbl.find · _) hissue).trans hno, rfl⟩

/-- While a thread of the block still runs, nothing is freed. -/
theorem exit_leaves {k l : Nat} {y : Thread} (hk : k ∈ b.groups) (hout : k = x.key → l ∉ x.lanes)
    (hy : (s.tg x.cl).thread? k l = some y) (hruns : y.run = .running) :
    Runs (.exit th) s [.clusters, .reqs] fun t => Went s t x x.lanes 1 ∧ t.reqs = (s.dropLoads x).reqs
      ∧ (∀ l ∈ x.lanes, (t.thread x l).run = .exited) ∧ (t.tg x.cl).blocks = (s.tg x.cl).blocks := by
  obtain ⟨hblocks, -, hissue, hfree⟩ := s.ended_rest x
  have hb' : Tbl.find (s.ended x).blocks ((s.tg x.cl).blockOf x.key) = some b := hblocks.symm ▸ hb
  have hy' : (s.ended x).thread? k l = some y := (s.ended_thread_ne x hout).trans hy
  have hrun := State.exitThreads_eq hex hgood
  rw [Tg.barrier_waits hb' hk hy' (by rw [hruns]; decide) (by rw [hruns]; rfl),
    Tg.reap_waits hb' hk hy' (by rw [hruns]; decide)] at hrun
  refine ⟨_, congrArg Host.Outcome.next hrun, (s.exited_keeps x _).frame,
    (s.dropLoads_went x).setTg hissue hfree (s.ended_touched x).threads, rfl, fun m hm => ?_, ?_⟩
  · rw [State.thread, State.tg_setTg_self, s.ended_thread_mem x hm]
    cases (s.tg x.cl).thread? x.key m <;> rfl
  · rw [State.tg_setTg_self]
    exact hblocks

end

/-- An open collective names a thread that exits. -/
theorem exit_faults {c lane : Nat} (hex : s.exOf th.cl th.sched = some x) (hbad : s.exitBad x = some (lane, c)) :
    Runs (.exit th) s [.seq] fun t => Noted s t ⟨x.cl, x.sched, x.slot, lane, 0x23, c, 0, x.job.id⟩ := by
  have hjob := (State.exOf_job hex).1
  have hrun : s.exitThreads th = s.tgFault x.cl x.sched x.slot lane 0x23 c 0 := by
    rw [State.exitThreads, hex]
    dsimp only
    rw [hbad]
  refine ⟨_, congrArg Host.Outcome.next hrun, ?_, State.tgFault_notes hjob _ _ _ _ _ _⟩
  rw [State.tgFault_noted hjob (by decide)]
  exact (s.withSeq_keeps _).frame

end

end Sys2Proof.Machine
end

section
/-! SUPPORT. The placement of the next block (R228, R232). -/

namespace Sys2Proof.Machine

/-! ### Slots for the groups of a block -/

/-- The group slots of a scheduler. -/
def schedKeys (i : Nat) : List Nat := (List.range 12).map (12 * i + ·)

theorem schedKeys_nodup (i : Nat) : (schedKeys i).Nodup := List.nodup_range.map fun _ _ h => Nat.add_left_cancel h

theorem div_of_mem_schedKeys {i k : Nat} (h : k ∈ schedKeys i) : k / 12 = i := by
  obtain ⟨m, hm, rfl⟩ := List.mem_map.1 h
  have := List.mem_range.1 hm
  omega

theorem Tbl.mem_keys_of_find {α : Type} {t : Tbl α} {k : Nat} (h : (Tbl.find t k).isNone = false) : k ∈ t.map (·.1) := by
  induction t with
  | nil => cases h
  | cons e t ih =>
    by_cases he : e.1 = k
    · exact List.mem_cons.2 (.inl he.symm)
    · rw [Tbl.find, if_neg he] at h
      exact List.mem_cons_of_mem _ (ih h)

/-- The slots of a scheduler among some slots. -/
def slotsIn (ks : List Nat) (i : Nat) : Nat := (ks.filter fun k => k / 12 == i).length

theorem slotsIn_cons (k : Nat) (ks : List Nat) (i : Nat) : slotsIn (k :: ks) i = (if k / 12 = i then 1 else 0) + slotsIn ks i := by
  unfold slotsIn
  rw [List.filter_cons]
  by_cases h : k / 12 = i
  · simp [h, Nat.add_comm]
  · simp [h]

section
variable {t : Tg} {i : Nat} {taken : List Nat}

/-- A scheduler with fewer than twelve slots in use or taken has a free one. -/
theorem Tg.exists_freeSlot (h : t.groupsOf i + slotsIn taken i < 12) : ∃ k ∈ t.freeSlots i, k ∉ taken := by
  by_contra hno
  have hin : schedKeys i ⊆ (t.groups.filter fun g => g.1 / 12 == i).map (·.1) ++ taken.filter fun k => k / 12 == i := by
    intro k hk
    have hdiv := div_of_mem_schedKeys hk
    by_cases hfree : (Tbl.find t.groups k).isNone = true
    · have hmem : k ∈ taken := by_contra fun hk' => hno ⟨k, List.mem_filter.2 ⟨hk, hfree⟩, hk'⟩
      exact List.mem_append_right _ (List.mem_filter.2 ⟨hmem, by simp [hdiv]⟩)
    · obtain ⟨g, hg, rfl⟩ := List.mem_map.1 (Tbl.mem_keys_of_find (Bool.not_eq_true _ ▸ hfree))
      exact List.mem_append_left _ (List.mem_map_of_mem (List.mem_filter.2 ⟨hg, by simp [hdiv]⟩))
  have hle := ((schedKeys_nodup i).subperm hin).length_le
  rw [List.length_append, List.length_map, schedKeys, List.length_map, List.length_range] at hle
  exact absurd hle (Nat.not_le.2 h)

theorem Tg.takes_freeSlot (h : t.groupsOf i + slotsIn taken i < 12) :
    ∃ k, (t.freeSlots i).find? (· ∉ taken) = some k ∧ k / 12 = i ∧ Tbl.find t.groups k = none := by
  obtain ⟨k, hk, hfree⟩ := Tg.exists_freeSlot h
  cases hfind : (t.freeSlots i).find? (· ∉ taken) with
  | none => exact absurd hfree (by simpa using List.find?_eq_none.1 hfind k hk)
  | some k =>
    obtain ⟨hkey, hnone⟩ := List.mem_filter.1 (List.mem_of_find?_eq_some hfind)
    exact ⟨k, rfl, div_of_mem_schedKeys hkey, Option.isNone_iff_eq_none.1 hnone⟩

end

theorem pickSched_lt {used : List Nat} {r i : Nat} (h : pickSched used r = some i) : i < 4 ∧ used.getD i 0 < 12 := by
  unfold pickSched at h
  dsimp only at h
  split at h
  · next j hj =>
    split at h
    · next hfits =>
      obtain rfl := Option.some.inj h
      have hmem := firstBy_mem hj
      exact ⟨by simp at hmem; omega, (of_decide_eq_true hfits).1⟩
    · cases h
  · cases h

theorem assign_succ {r n : Nat} {used scheds : List Nat} (h : assign r (n + 1) used = some scheds) :
    ∃ i rest, pickSched used r = some i ∧ assign r n (used.modify i (· + 1)) = some rest ∧ scheds = i :: rest := by
  obtain ⟨i, hi, hrest⟩ := Option.bind_eq_some_iff.1 h
  obtain ⟨rest, hassign, rfl⟩ := Option.map_eq_some_iff.1 hrest
  exact ⟨i, rest, hi, hassign, rfl⟩

theorem getD_modify_succ {used : List Nat} {i : Nat} (hi : i < used.length) (k : Nat) :
    (used.modify i (· + 1)).getD k 0 = used.getD k 0 + if i = k then 1 else 0 := by
  rw [List.getD_eq_getElem?_getD, List.getD_eq_getElem?_getD, List.getElem?_modify]
  by_cases h : i = k
  · subst h
    simp [hi]
  · simp [h]

/-- Slots are found for all groups, and no group stood in them. -/
theorem takeSlots_free (t : Tg) (r : Nat) : ∀ {n : Nat} {used scheds taken : List Nat}, assign r n used = some scheds →
    used.length = 4 → (∀ i < 4, t.groupsOf i + slotsIn taken i ≤ used.getD i 0) →
    (takeSlots t scheds taken).length = n ∧ ∀ k ∈ takeSlots t scheds taken, Tbl.find t.groups k = none := by
  intro n
  induction n with
  | zero =>
    intro used scheds taken h _ _
    obtain rfl := Option.some.inj h
    exact ⟨rfl, fun _ h => absurd h List.not_mem_nil⟩
  | succ n ih =>
    intro used scheds taken h hlen hused
    obtain ⟨i, rest, hpick, hassign, rfl⟩ := assign_succ h
    obtain ⟨hi, hroom⟩ := pickSched_lt hpick
    obtain ⟨k, hk, hdiv, hnone⟩ := Tg.takes_freeSlot (Nat.lt_of_le_of_lt (hused i hi) hroom)
    have hstep : takeSlots t (i :: rest) taken = k :: takeSlots t rest (k :: taken) := by
      simp only [takeSlots, hk, Option.getD_some]
    obtain ⟨hcount, hfree⟩ := ih (taken := k :: taken) hassign (by rw [List.length_modify, hlen]) fun m hm => by
      have hbefore := hused m hm
      rw [getD_modify_succ (hlen.symm ▸ hi), slotsIn_cons, hdiv]
      omega
    rw [hstep, List.length_cons, hcount]
    exact ⟨rfl, fun m hm => (List.mem_cons.1 hm).elim (fun h => h ▸ hnone) (hfree m)⟩

theorem Tbl.find_foldl_set_ne {α β : Type} (key : β → Nat) (val : β → α) {bs : List β} {k : Nat} (h : ∀ b ∈ bs, key b ≠ k) :
    ∀ t : Tbl α, Tbl.find (bs.foldl (fun t b => Tbl.set t (key b) (val b)) t) k = Tbl.find t k := by
  induction bs with
  | nil => exact fun _ => rfl
  | cons b bs ih =>
    intro t
    obtain ⟨hb, hbs⟩ := List.forall_mem_cons.1 h
    exact (ih hbs _).trans (Tbl.find_set_ne t _ hb.symm)

/-! ### The next block -/

section
variable {s : State} {cl : Cl} {j : Job} {b : Nat} {scheds : List Nat}

/-- A group of a block's threads as it is placed. -/
def Job.newGroup (j : Job) (b idx : Nat) : Group :=
  ⟨b, idx, (List.range 32).map fun l => newThread (decide (32 * idx + l < j.threads))⟩

/-- The groups of a TG with those of a block at some slots. -/
def Tg.withGroups (t : Tg) (j : Job) (b : Nat) (keys : List Nat) : Tbl Group :=
  keys.zipIdx.foldl (fun gs k => Tbl.set gs k.1 (j.newGroup b k.2)) t.groups

theorem Tg.withGroups_kept {t : Tg} {keys : List Nat} (hfree : ∀ k ∈ keys, Tbl.find t.groups k = none) (j : Job) (b : Nat) {k : Nat}
    {g : Group} (hg : Tbl.find t.groups k = some g) : Tbl.find (t.withGroups j b keys) k = some g := by
  refine (Tbl.find_foldl_set_ne (fun p : Nat × Nat => p.1) (fun p => j.newGroup b p.2) (fun p hp heq => ?_) t.groups).trans hg
  have hnone := hfree p.1 (List.fst_mem_of_mem_zipIdx hp)
  rw [heq, hg] at hnone
  cases hnone

theorem Tg.place_eq {t : Tg} (hgrid : t.nextBlk < j.grid) (hroom : j.lmem ≤ t.freeGranules.length)
    (hslot : (List.range 16).find? (fun b => (Tbl.find t.blocks b).isNone) = some b)
    (hassign : assign j.regsN ((j.threads + 31) / 32) ((List.range 4).map t.groupsOf) = some scheds) :
    t.place j = some { t with
      nextBlk := t.nextBlk + 1
      groups := t.withGroups j b (takeSlots t scheds [])
      blocks := Tbl.set t.blocks b ⟨t.nextBlk, takeSlots t scheds [], t.freeGranules.take j.lmem, none⟩ } := by
  have hgo : ¬ (j.grid ≤ t.nextBlk ∨ t.freeGranules.length < j.lmem) := by omega
  simp only [Tg.place, hslot, hassign, hgo, if_false]
  rfl

theorem blockPlace_places (hjob : s.jobOn cl = some j) (htgj : j.tgj = true) (hactive : s.ctxState j.ctx.val = ctxActive)
    (hcore : s.coreStopped = false) (hgrid : (s.tg cl).nextBlk < j.grid) (hroom : j.lmem ≤ (s.tg cl).freeGranules.length)
    (hslot : (List.range 16).find? (fun b => (Tbl.find (s.tg cl).blocks b).isNone) = some b)
    (hassign : assign j.regsN ((j.threads + 31) / 32) ((List.range 4).map (s.tg cl).groupsOf) = some scheds) :
    Runs (.blockPlace cl) s [.clusters] fun t => OtherClusters cl s t
      ∧ (t.tg cl).nextBlk = (s.tg cl).nextBlk + 1 ∧ (t.tg cl).lmem = (s.tg cl).lmem ∧ t.engine cl = s.engine cl
      ∧ (∃ blk, Tbl.find (t.tg cl).blocks b = some blk ∧ blk.num = (s.tg cl).nextBlk ∧ blk.barWait = none
          ∧ blk.groups.length = (j.threads + 31) / 32 ∧ blk.granules = (s.tg cl).freeGranules.take j.lmem)
      ∧ (∀ k, k ≠ b → Tbl.find (t.tg cl).blocks k = Tbl.find (s.tg cl).blocks k)
      ∧ ∀ k g, Tbl.find (s.tg cl).groups k = some g → Tbl.find (t.tg cl).groups k = some g := by
  have hplace := Tg.place_eq hgrid hroom hslot hassign
  obtain ⟨hcount, hfree⟩ := takeSlots_free (s.tg cl) j.regsN (taken := []) hassign (by simp) fun i hi => by
    simp [slotsIn, hi]
  generalize htg : ({ s.tg cl with
      nextBlk := (s.tg cl).nextBlk + 1
      groups := (s.tg cl).withGroups j b (takeSlots (s.tg cl) scheds [])
      blocks := Tbl.set (s.tg cl).blocks b ⟨(s.tg cl).nextBlk, takeSlots (s.tg cl) scheds [],
        (s.tg cl).freeGranules.take j.lmem, none⟩ } : Tg) = t at hplace
  have hrun : s.blockPlace cl = s.setTg cl t := by
    simp only [State.blockPlace, hjob, htgj, hactive, hcore, hplace, beq_self_eq_true, Bool.not_false, Bool.and_self, if_true]
  refine ⟨_, congrArg Host.Outcome.next hrun, (State.setTg_keeps (List.Subset.refl _) (State.Keeps.refl _ s) _ _).frame,
    fun k hk => State.cluster_setCluster_ne s _ hk, ?_⟩
  rw [State.tg_setTg_self, ← htg]
  exact ⟨rfl, rfl, s.engine_setTg _ _ _, ⟨_, Tbl.find_set_self _ _ _, rfl, rfl, hcount, rfl⟩,
    fun k hk => Tbl.find_set_ne _ _ hk, fun k g hg => Tg.withGroups_kept hfree j b hg⟩

end

end Sys2Proof.Machine
end

section
/-! SUPPORT. The choice of an issue set and its fetch (R227, R237, R238). -/

namespace Sys2Proof.Machine

/-! ### The lanes of an issue set (R238) -/

section
variable {g : Group} {ready : List Nat} {uses : List (Nat × List Nat)} {now : Nat}

theorem Group.exists_thread_of_ready {l : Nat} (h : l ∈ g.readyLanes uses now) : ∃ y, g.threads[l]? = some y := by
  have hready := (List.mem_filter.1 h).2
  split at hready
  · next y hy => exact ⟨y, hy⟩
  · cases hready

/-- Where a lane stands, and how often it has been passed over. -/
def Group.stand (g : Group) (l : Nat) : Nat × Nat :=
  match g.threads[l]? with
  | some y => (y.pc, y.passed)
  | none => (0, 0)

theorem Group.choose_snd (g : Group) (ready : List Nat) :
    (g.choose ready).2 = ready.filter fun l => (g.stand l).1 == (g.choose ready).1 := rfl

/-- The program counter chosen is a ready lane's. -/
theorem Group.exists_lane_choose (g : Group) (h : ready ≠ []) : ∃ l ∈ ready, (g.stand l).1 = (g.choose ready).1 := by
  have hpc : (g.choose ready).1 =
      match firstBy (fun a b => decide ((g.stand b).2 < (g.stand a).2)) (ready.filter fun l => decide (64 ≤ (g.stand l).2)) with
      | some l => (g.stand l).1
      | none => match firstBy (fun a b => decide ((g.stand a).1 < (g.stand b).1)) ready with
        | some l => (g.stand l).1
        | none => 0 := rfl
  rw [hpc]
  split
  · next l hl => exact ⟨l, (List.mem_filter.1 (firstBy_mem hl)).1, rfl⟩
  · split
    · next l hl => exact ⟨l, firstBy_mem hl, rfl⟩
    · next hno => exact absurd (firstBy_isSome h) (by rw [hno]; exact Bool.false_ne_true)

theorem Group.choose_ne_nil (g : Group) (h : ready ≠ []) : (g.choose ready).2 ≠ [] := by
  obtain ⟨l, hl, hpc⟩ := g.exists_lane_choose h
  exact List.ne_nil_of_mem (List.mem_filter.2 ⟨hl, beq_iff_eq.2 hpc⟩)

theorem Group.mem_choose {l : Nat} (hl : l ∈ (g.choose (g.readyLanes uses now)).2) : l ∈ g.readyLanes uses now
    ∧ ∃ y, g.threads[l]? = some y ∧ y.pc = (g.choose (g.readyLanes uses now)).1 := by
  rw [Group.choose_snd] at hl
  obtain ⟨hmem, hpc⟩ := List.mem_filter.1 hl
  obtain ⟨y, hy⟩ := Group.exists_thread_of_ready hmem
  have hstand : g.stand l = (y.pc, y.passed) := by rw [Group.stand, hy]
  exact ⟨hmem, y, hy, by rw [hstand] at hpc; exact eq_of_beq hpc⟩

end

/-! ### The next group (R237) -/

theorem mem_slotOrder {last sl : Nat} : sl ∈ slotOrder last ↔ sl < 12 := by
  simp only [slotOrder, List.mem_map, List.mem_range]
  constructor
  · rintro ⟨i, -, rfl⟩
    exact Nat.mod_lt _ (by decide)
  · intro h
    exact ⟨(sl + 11 * (last + 1)) % 12, Nat.mod_lt _ (by decide), by omega⟩

section
variable {s : State} {cl : Cl} {sched : Sched} {uses : List (Nat × List Nat)} {sl : Nat} {g : Group} {ready : List Nat}

/-- The scheduler's next group with a ready thread. -/
def State.nextGroup (s : State) (cl : Cl) (sched : Sched) (uses : List (Nat × List Nat)) : Option (Nat × Group × List Nat) :=
  (slotOrder (Tbl.get 11 (s.tg cl).last sched.val)).findSome? fun sl =>
    (Tbl.find (s.tg cl).groups (slotKey sched sl)).bind fun g =>
      if g.readyLanes uses s.time.core = [] then none else some (sl, g, g.readyLanes uses s.time.core)

theorem State.nextGroup_spec (h : s.nextGroup cl sched uses = some (sl, g, ready)) : sl < 12
    ∧ Tbl.find (s.tg cl).groups (slotKey sched sl) = some g ∧ ready = g.readyLanes uses s.time.core ∧ ready ≠ [] := by
  obtain ⟨sl', hmem, hsl⟩ := List.exists_of_findSome?_eq_some h
  obtain ⟨g', hg, hready⟩ := Option.bind_eq_some_iff.1 hsl
  split at hready
  · cases hready
  · next hne =>
    obtain ⟨rfl, rfl, rfl⟩ : sl' = sl ∧ g' = g ∧ g'.readyLanes uses s.time.core = ready := by simpa using hready
    exact ⟨mem_slotOrder.1 hmem, hg, rfl, hne⟩

theorem State.exists_nextGroup (hsl : sl < 12) (hg : Tbl.find (s.tg cl).groups (slotKey sched sl) = some g)
    (hready : g.readyLanes uses s.time.core ≠ []) : ∃ sl g ready, s.nextGroup cl sched uses = some (sl, g, ready) := by
  have hsome : (s.nextGroup cl sched uses).isSome = true := by
    rw [State.nextGroup, List.findSome?_isSome_iff]
    exact ⟨sl, mem_slotOrder.2 hsl, by rw [hg, Option.bind_some, if_neg hready]; rfl⟩
  obtain ⟨⟨sl, g, ready⟩, h⟩ := Option.isSome_iff_exists.1 hsome
  exact ⟨sl, g, ready, h⟩

end

/-! ### The fetch (R208, R227, R266) -/

/-- An integrity error of a cluster is counted with its leaf. -/
theorem State.corrected_leaf (s : State) (cl : Cl) (loc : Nat) (twoBit : Bool) :
    s.corrected (leafDie cl) loc twoBit = s.count (intCounter (leafDie cl)) 1 := by
  have hdie : ¬ leafDie cl < 10 := by
    rw [leafDie]
    omega
  rw [State.corrected, if_neg hdie]

/-- What a fetch goes by is the same in two states. -/
structure SameFetch (s t : State) : Prop where
  kinds : ∀ a n, t.addrKind a n = s.addrKind a n
  sectors : ∀ sec, t.sectorIn sec = s.sectorIn sec
  cells : ∀ sec, t.hbmView sec = s.hbmView sec

theorem SameFetch.trans {s t u : State} (h : SameFetch s t) (g : SameFetch t u) : SameFetch s u :=
  ⟨fun a n => (g.kinds a n).trans (h.kinds a n), fun i => (g.sectors i).trans (h.sectors i), fun i => (g.cells i).trans (h.cells i)⟩

theorem SameFetch.symm {s t : State} (h : SameFetch s t) : SameFetch t s :=
  ⟨fun a n => (h.kinds a n).symm, fun i => (h.sectors i).symm, fun i => (h.cells i).symm⟩

theorem SameFetch.of_view {s t : State} (h : SameView s t) (hhbm : t.hbm = s.hbm) (hkinds : ∀ a n, t.addrKind a n = s.addrKind a n) :
    SameFetch s t := by
  refine ⟨hkinds, h.sectorIn, fun sec => ?_⟩
  have hstack (pa : Nat) : t.stackOf pa = s.stackOf pa := by rw [State.stackOf, h.homes.placement, State.stackOf]
  simp only [State.hbmView, State.overlay, State.hbmGet, State.stackAbsent, State.cellOf, hstack, hhbm]
  rfl

theorem SameFetch.setTg (s : State) (cl : Nat) (t : Tg) : SameFetch s (s.setTg cl t) :=
  .of_view ⟨fun _ _ _ => rfl, rfl, rfl, rfl, fun _ => rfl⟩ rfl fun _ _ => rfl

theorem SameFetch.corrected (s : State) (cl : Cl) (loc : Nat) (twoBit : Bool) :
    SameFetch s (s.corrected (leafDie cl) loc twoBit) := by
  have hidx : 0x3400 ≤ intCounter (leafDie cl) := by
    rw [intCounter]
    split <;> omega
  have hkept {i j : Nat} (hi : i < 0x3400) (hj : j < 256) : (s.count (intCounter (leafDie cl)) 1).reg i j = s.reg i j :=
    State.reg_setReg_ne s _ (regKey_ne_of_idx hj (by decide) (by omega))
  rw [State.corrected_leaf]
  exact .of_view ((SameView.refl s).count (by omega) _ _) rfl
    (State.addrKind_of_reg (hkept (by decide) (by decide)) (hkept (by decide) (by decide)))

section
variable (s : State) (cl : Cl) (j : Job) (pc : Nat) (found : IssueErrs)

/-- A parity error in the line's copy has been heard. -/
def State.parityHeard : State :=
  if decide ((j.prog + pc) / 128 ∈ (s.tg cl).icache) && found.icache then s.corrected (leafDie cl) 0 false else s

/-- What becomes of a fetch. -/
def State.fetchBad : Option (Nat × Word64) :=
  if pc ∈ found.outside then some (0x20, localAddr (j.prog + pc))
  else if decide ((j.prog + pc) / 128 ∈ (s.tg cl).icache) && !found.icache then none
  else match s.addrKind (localAddr (j.prog + pc)) 1 with
    | .unmapped => some (0x20, localAddr (j.prog + pc))
    | .hbm =>
      if ((s.sectorIn ((j.prog + pc) / 32)).getD (s.hbmView ((j.prog + pc) / 32))).2 then
        some (0x25, localAddr (j.prog + pc)) else none
    | _ => none

/-- The lines of the instruction cache after a fetch. -/
def State.fetchLines : List Nat :=
  if (s.fetchBad cl j pc found).isNone then
    ((j.prog + pc) / 128 :: (s.tg cl).icache.filter (· ≠ (j.prog + pc) / 128)).take icLines
  else (s.tg cl).icache.filter (· ≠ (j.prog + pc) / 128)

theorem State.mem_fetchLines (h : s.fetchBad cl j pc found = none) : (j.prog + pc) / 128 ∈ s.fetchLines cl j pc found := by
  rw [State.fetchLines, h, Option.isNone_none, if_pos rfl, icLines, List.take_succ_cons]
  exact List.mem_cons_self ..

theorem State.parityHeard_sameFetch : SameFetch s (s.parityHeard cl j pc found) := by
  unfold State.parityHeard
  split
  · exact .corrected s cl 0 false
  · exact ⟨fun _ _ => rfl, fun _ => rfl, fun _ => rfl⟩

theorem State.fetch_eq : s.fetch cl j pc found =
    ((s.parityHeard cl j pc found).setTg cl { s.tg cl with icache := s.fetchLines cl j pc found }, s.fetchBad cl j pc found) := by
  have hsame := s.parityHeard_sameFetch cl j pc found
  have hkinds := hsame.kinds
  have hsectors := hsame.sectors
  have hcells := hsame.cells
  unfold State.parityHeard at hkinds hsectors hcells
  unfold State.fetch State.fetchLines State.fetchBad State.parityHeard
  dsimp only
  simp only [hkinds, hsectors, hcells]
  by_cases hout : pc ∈ found.outside
  · simp only [if_pos hout, Option.isNone_some, Bool.false_eq_true, if_false]
  · simp only [if_neg hout]
    split
    · rfl
    · cases s.addrKind (localAddr (j.prog + pc)) 1 with
      | hbm =>
        dsimp only
        split <;> rfl
      | host => rfl
      | remote => rfl
      | unmapped => rfl

/-- A fetch goes by its own cluster's instruction cache, and not by what else its TG holds. -/
theorem State.fetchBad_of_same {t : State} (hsame : SameFetch s t) (hlines : (t.tg cl).icache = (s.tg cl).icache) :
    t.fetchBad cl j pc found = s.fetchBad cl j pc found := by
  simp only [State.fetchBad, hlines, hsame.kinds, hsame.sectors, hsame.cells]

end

end Sys2Proof.Machine
end

section
/-! SUPPORT. The issue of a group (R207, R235 to R239, R271): the statement from its clauses. -/

namespace Sys2Proof.Machine

/-! ### One cluster's TG -/

/-- From s to t the TG of one cluster has become another, and no other cluster has changed. -/
structure OnTg (cl : Nat) (s t : State) (g : Tg) : Prop where
  others : OtherClusters cl s t
  tg : t.tg cl = g

namespace OnTg

variable {cl : Nat} {s t t' : State} {g : Tg}

theorem refl (cl : Nat) (s : State) : OnTg cl s s (s.tg cl) := ⟨fun _ _ => rfl, rfl⟩

theorem setTg (h : OtherClusters cl s t) (g : Tg) : OnTg cl s (t.setTg cl g) g :=
  ⟨fun k hk => (State.cluster_setCluster_ne t _ hk).trans (h k hk), State.tg_setTg_self _ _ _⟩

theorem of_clusters (h : OnTg cl s t g) (hc : t'.clusters = t.clusters) : OnTg cl s t' g :=
  ⟨fun k hk => (State.cluster_of_clusters hc k).trans (h.others k hk),
    (congrArg Cluster.tg (State.cluster_of_clusters hc cl)).trans h.tg⟩

end OnTg

/-! ### Wrong bits in the register file (R207, R211) -/

section
variable {s : State} {cl : Cl} {key : Nat} {e : RegErr}

theorem State.sramWord_clusters (die word : Nat) {bits : Nat} {lose : State → State} : (s.sramWord die word bits lose).clusters =
    if 2 < bits then (lose s).clusters else s.clusters := by
  unfold State.sramWord
  by_cases hnone : bits = 0
  · simp only [hnone, if_true, Nat.not_lt_zero, if_false]
  · rw [if_neg hnone]
    by_cases hright : bits ≤ 2
    · rw [if_pos hright, if_neg (Nat.not_lt.2 hright)]
      exact (State.corrected_keeps (List.Subset.refl _) (State.Keeps.refl _ s) die word (bits == 2)).parts .clusters (by decide)
    · rw [if_neg hright, if_pos (Nat.not_le.1 hright)]
      exact (State.logUe_keeps (List.Subset.refl _) (State.Keeps.refl _ (((lose s).count (intCounter die) 3).count
        (intCounter die) 5)) die word 2).parts .clusters (by decide)

/-- The TG with a word of the register file poisoned. -/
def Tg.soak (t : Tg) (key : Nat) (e : RegErr) : Tg :=
  t.updThread key e.lane fun y => { y with poison := e.reg / 2 :: y.poison }

/-- A word read with wrong bits: its thread's TG is as it was, or has the word poisoned. -/
theorem State.regError_cases (s : State) (cl : Cl) (key : Nat) (e : RegErr) :
    ((s.regError cl key e).clusters = s.clusters
        ∧ (2 < e.bits → ∀ y, (s.tg cl).thread? key e.lane = some y → e.reg / 2 ∈ y.poison))
      ∨ (s.regError cl key e).clusters = (s.setTg cl ((s.tg cl).soak key e)).clusters := by
  unfold State.regError
  split
  · next hno => exact .inl ⟨rfl, fun _ y hy => nomatch hno.symm.trans hy⟩
  · next y hy =>
    dsimp only
    by_cases hpois : e.reg / 2 ∈ y.poison
    · rw [if_pos hpois]
      exact .inl ⟨rfl, fun _ y' hy' => Option.some.inj (hy.symm.trans hy') ▸ hpois⟩
    · rw [if_neg hpois, State.sramWord_clusters]
      by_cases hbits : 2 < e.bits
      · rw [if_pos hbits]
        exact .inr rfl
      · rw [if_neg hbits]
        exact .inl ⟨rfl, fun h => absurd h hbits⟩

theorem State.regError_onTg (s : State) (cl : Cl) (key : Nat) (e : RegErr) : OtherClusters cl s (s.regError cl key e)
    ∧ ((s.regError cl key e).tg cl = s.tg cl ∨ (s.regError cl key e).tg cl = (s.tg cl).soak key e) := by
  rcases s.regError_cases cl key e with ⟨hsame, -⟩ | hsoak
  · obtain ⟨hothers, htg⟩ := (OnTg.refl cl s).of_clusters hsame
    exact ⟨hothers, .inl htg⟩
  · obtain ⟨hothers, htg⟩ := (OnTg.setTg (fun _ _ => rfl : OtherClusters cl s s) ((s.tg cl).soak key e)).of_clusters hsoak
    exact ⟨hothers, .inr htg⟩

theorem Tg.soak_thread? (t : Tg) (key : Nat) (e : RegErr) {l : Nat} {y : Thread} (hy : t.thread? key l = some y) :
    ∃ y', (t.soak key e).thread? key l = some y' ∧ ∀ w ∈ y.poison, w ∈ y'.poison := by
  by_cases hl : l = e.lane
  · subst hl
    exact ⟨_, by rw [Tg.soak, Tg.thread?_updThread_self, hy]; rfl, fun w hw => List.mem_cons_of_mem _ hw⟩
  · exact ⟨y, by rw [Tg.soak, Tg.thread?_updThread_ne (h := fun _ => hl), hy], fun _ hw => hw⟩

/-- A word of a thread that is there is poisoned. -/
def State.soaked (s : State) (cl key l w : Nat) : Prop := ∃ y, (s.tg cl).thread? key l = some y ∧ w ∈ y.poison

theorem State.regError_thread? (e : RegErr) {l : Nat} {y : Thread} (hy : (s.tg cl).thread? key l = some y) :
    ∃ y', ((s.regError cl key e).tg cl).thread? key l = some y' ∧ ∀ w ∈ y.poison, w ∈ y'.poison := by
  rcases (s.regError_onTg cl key e).2 with hsame | hsoak
  · exact ⟨y, by rw [hsame, hy], fun _ hw => hw⟩
  · rw [hsoak]
    exact Tg.soak_thread? _ key e hy

/-- Beyond two wrong bits the word is lost. -/
theorem State.regError_soaks (hbits : 2 < e.bits) (hthere : ((s.tg cl).thread? key e.lane).isSome = true) :
    (s.regError cl key e).soaked cl key e.lane (e.reg / 2) := by
  obtain ⟨y, hy⟩ := Option.isSome_iff_exists.1 hthere
  rcases s.regError_cases cl key e with ⟨hsame, hpois⟩ | hsoak
  · exact ⟨y, by rw [((OnTg.refl cl s).of_clusters hsame).tg, hy], hpois hbits y hy⟩
  · refine ⟨{ y with poison := e.reg / 2 :: y.poison }, ?_, List.mem_cons_self ..⟩
    rw [((OnTg.setTg (fun _ _ => rfl : OtherClusters cl s s) ((s.tg cl).soak key e)).of_clusters hsoak).tg, Tg.soak,
      Tg.thread?_updThread_self, hy]
    rfl

/-- The words that an issue set reads, one after another. -/
def State.regErrors (s : State) (cl : Cl) (key : Nat) (errs : List RegErr) : State :=
  errs.foldl (fun s e => s.regError cl key e) s

theorem State.regErrors_others (cl : Cl) (key : Nat) (errs : List RegErr) : ∀ s : State, OtherClusters cl s (s.regErrors cl key errs) := by
  induction errs with
  | nil => exact fun _ _ _ => rfl
  | cons e errs ih => exact fun s k hk => (ih _ k hk).trans ((s.regError_onTg cl key e).1 k hk)

theorem State.regErrors_thread? {l : Nat} (errs : List RegErr) : ∀ {s : State} {y : Thread}, (s.tg cl).thread? key l = some y →
    ∃ y', ((s.regErrors cl key errs).tg cl).thread? key l = some y' ∧ ∀ w ∈ y.poison, w ∈ y'.poison := by
  induction errs with
  | nil => exact fun h => ⟨_, h, fun _ hw => hw⟩
  | cons e errs ih =>
    intro s y hy
    obtain ⟨y', hy', hkept⟩ := State.regError_thread? e hy
    obtain ⟨y'', hy'', hkept'⟩ := ih hy'
    exact ⟨y'', hy'', fun w hw => hkept' w (hkept w hw)⟩

theorem State.regErrors_soak {errs : List RegErr} (he : e ∈ errs) (hbits : 2 < e.bits) : ∀ {s : State},
    ((s.tg cl).thread? key e.lane).isSome = true → (s.regErrors cl key errs).soaked cl key e.lane (e.reg / 2) := by
  induction errs with
  | nil => exact absurd he List.not_mem_nil
  | cons d errs ih =>
    intro s hthere
    rcases List.mem_cons.1 he with rfl | he
    · obtain ⟨y, hy, hpois⟩ := State.regError_soaks hbits hthere
      obtain ⟨y', hy', hkept⟩ := State.regErrors_thread? errs hy
      exact ⟨y', hy', hkept _ hpois⟩
    · obtain ⟨y, hy⟩ := Option.isSome_iff_exists.1 hthere
      obtain ⟨y', hy', -⟩ := State.regError_thread? d hy
      exact ih he (Option.isSome_iff_exists.2 ⟨y', hy'⟩)

end

/-! ### Handing an issue set to its scheduler (R235, R271) -/

section
variable (s : State) (cl : Cl) (sched : Sched) (uses : List (Nat × List Nat)) (reuse : List Nat) (sl pc : Nat) (ready set : List Nat)

/-- The TG with an issue set in a scheduler's hand. -/
def State.handedTg : Tg :=
  { s.tg cl with
    groups := (s.tg cl).groups.map fun q => if q.1 = slotKey sched sl then (slotKey sched sl, q.2.pass ready set) else q
    last := Tbl.put 11 (s.tg cl).last sched.val sl
    issue := Tbl.set (s.tg cl).issue sched.val ⟨sl, set, pc⟩
    rcache := cacheUse (s.tg cl).rcache sched.val (slotKey sched sl) (usesAt uses pc) reuse }

def State.handedOut : State :=
  ((s.setTg cl (s.handedTg cl sched uses reuse sl pc ready set)).count (0x3600 + cl.val) 1).count (0x3600 + cl.val) 3 set.length

/-- The registers that an issue set reads, with the errors found in them: those of the register file for what the register cache
does not hold. -/
def State.operandsRead (key : Nat) (found : IssueErrs) : State :=
  let w := s.cacheParity cl sched.val key found.rcache
  w.regErrors cl key (found.regs.filter fun e =>
    decide (e.lane ∈ set ∧ e.reg ∈ usesAt uses pc ∧ (sched.val, key, e.reg) ∉ (w.tg cl).rcache))

theorem State.handedOut_onTg : OnTg cl s (s.handedOut cl sched uses reuse sl pc ready set) (s.handedTg cl sched uses reuse sl pc ready set) :=
  (OnTg.setTg (fun _ _ => rfl) _).of_clusters rfl

theorem State.handedOut_counted :
    Counted (0x3600 + cl.val) 1 3 1 set.length s (s.handedOut cl sched uses reuse sl pc ready set) := by
  obtain ⟨hfst, hsnd, hentries⟩ := Counted.counts (a := 1) (b := 3) (by decide)
    (s.setTg cl (s.handedTg cl sched uses reuse sl pc ready set)) (0x3600 + cl.val) 1 set.length
  exact ⟨hfst, hsnd, hentries⟩

theorem State.handedOut_issue {t : State} (h : OnTg cl s t (s.handedTg cl sched uses reuse sl pc ready set)) :
    Tbl.find (t.tg cl).issue sched.val = some ⟨sl, set, pc⟩ ∧ Tbl.get 11 (t.tg cl).last sched.val = sl := by
  rw [h.tg]
  exact ⟨Tbl.find_set_self _ _ _, Tbl.get_put_self _ _ _ _⟩

theorem Tbl.find_map_at {α : Type} (f : α → α) (k : Nat) (t : Tbl α) :
    Tbl.find (t.map fun q => if q.1 = k then (k, f q.2) else q) k = (Tbl.find t k).map f := by
  induction t with
  | nil => rfl
  | cons e t ih =>
    rw [List.map_cons]
    by_cases he : e.1 = k
    · rw [if_pos he, Tbl.find, if_pos rfl, Tbl.find, if_pos he]
      rfl
    · rw [if_neg he, Tbl.find, if_neg he, ih, Tbl.find, if_neg he]

/-- The threads of an issue set keep what their registers hold. -/
theorem State.handedTg_thread? {l : Nat} {y : Thread} (hy : (s.tg cl).thread? (slotKey sched sl) l = some y) :
    ∃ n, (s.handedTg cl sched uses reuse sl pc ready set).thread? (slotKey sched sl) l = some { y with passed := n } := by
  obtain ⟨g, hg, hl⟩ := Option.bind_eq_some_iff.1 hy
  have hpass : (g.pass ready set).threads[l]? = some (if l ∈ set then { y with passed := 0 }
      else if l ∈ ready then { y with passed := y.passed + 1 } else y) := by
    rw [Group.pass, List.getElem?_map, List.getElem?_zipIdx, hl]
    simp
  have hfind : Tbl.find (s.handedTg cl sched uses reuse sl pc ready set).groups (slotKey sched sl) = some (g.pass ready set) :=
    (Tbl.find_map_at (fun q : Group => q.pass ready set) _ _).trans (by rw [hg]; rfl)
  rw [Tg.thread?, hfind, Option.bind_some, hpass]
  split
  · exact ⟨0, rfl⟩
  · split
    · exact ⟨y.passed + 1, rfl⟩
    · exact ⟨y.passed, rfl⟩

theorem State.handedOut_keeps {C : List Part} (hc : [Part.regs, .clusters] ⊆ C) {s₀ : State} (h : State.Keeps C s₀ s) :
    State.Keeps C s₀ (s.handedOut cl sched uses reuse sl pc ready set) :=
  State.count_keeps (List.Subset.trans (by decide) hc) (State.count_keeps (List.Subset.trans (by decide) hc)
    (State.setTg_keeps (List.Subset.trans (by decide) hc) h _ _) _ _ _) _ _ _

/-! ### Parity in the register cache (R208, R236) -/

/-- The TG without the entries of the register cache that fail parity. -/
def Tg.parityLost (t : Tg) (sched key : Nat) (rs : List Nat) : Tg :=
  { t with rcache := t.rcache.filter fun e => !(e.1 == sched && e.2.1 == key
      && decide (e.2.2 ∈ rs.filter fun r => decide ((sched, key, r) ∈ t.rcache))) }

theorem State.cacheParity_onTg (key : Nat) (rs : List Nat) :
    OnTg cl s (s.cacheParity cl sched.val key rs) ((s.tg cl).parityLost sched.val key rs) := by
  refine (OnTg.setTg (t := s) (fun _ _ => rfl) ((s.tg cl).parityLost sched.val key rs)).of_clusters ?_
  exact State.foldl_preserves State.clusters (fun u _ => by rw [State.corrected_leaf]; rfl) _ _

end

/-! ### The issue of a group -/

section
variable {s : State} {cl : Cl} {sched : Sched} {j : Job} {uses : List (Nat × List Nat)} {reuse : List Nat} {found : IssueErrs}
  {sl : Nat} {g : Group} {ready : List Nat}

/-- The state after a fetch. -/
def State.fetchDone (s : State) (cl : Cl) (j : Job) (pc : Nat) (found : IssueErrs) : State :=
  (s.parityHeard cl j pc found).setTg cl { s.tg cl with icache := s.fetchLines cl j pc found }

theorem State.parityHeard_keeps (s : State) (cl : Cl) (j : Job) (pc : Nat) (found : IssueErrs) :
    State.Keeps [.regs] s (s.parityHeard cl j pc found) := by
  unfold State.parityHeard
  split
  · exact State.corrected_keeps (List.Subset.refl _) (State.Keeps.refl _ s) _ _ _
  · exact State.Keeps.refl _ s

theorem State.fetchDone_keeps (s : State) (cl : Cl) (j : Job) (pc : Nat) (found : IssueErrs) :
    State.Keeps [.regs, .clusters] s (s.fetchDone cl j pc found) :=
  State.setTg_keeps (by decide) ((s.parityHeard_keeps cl j pc found).wider (by decide)) _ _

theorem State.fetchDone_onTg (s : State) (cl : Cl) (j : Job) (pc : Nat) (found : IssueErrs) :
    OnTg cl s (s.fetchDone cl j pc found) { s.tg cl with icache := s.fetchLines cl j pc found } :=
  .setTg (fun k _ => State.cluster_of_clusters ((s.parityHeard_keeps cl j pc found).parts .clusters (by decide)) k) _

theorem State.fetchDone_clean (hicache : found.icache = false) (s : State) (cl : Cl) (j : Job) (pc : Nat) :
    s.fetchDone cl j pc found = s.setTg cl { s.tg cl with icache := s.fetchLines cl j pc found } := by
  rw [State.fetchDone, State.parityHeard, hicache, Bool.and_false, if_neg Bool.false_ne_true]

theorem State.jobOn_setTg (s : State) (cl : Nat) (t : Tg) : (s.setTg cl t).jobOn cl = s.jobOn cl := by
  rw [State.jobOn, State.setTg, State.cluster_setCluster_self]
  rfl

theorem State.issueGroup_eq (h : s.nextGroup cl sched uses = some (sl, g, ready)) : s.issueGroup cl sched j uses reuse found =
    match s.fetchBad cl j (g.choose ready).1 found with
    | some (c, a) => (s.fetchDone cl j (g.choose ready).1 found).tgFault cl sched sl ((g.choose ready).2.headD 0) c (g.choose ready).1 a
    | none => ((s.fetchDone cl j (g.choose ready).1 found).operandsRead cl sched uses (g.choose ready).1 (g.choose ready).2
        (slotKey sched sl) found).handedOut cl sched uses reuse sl (g.choose ready).1 ready (g.choose ready).2 := by
  unfold State.nextGroup at h
  unfold State.issueGroup
  dsimp only
  rw [h]
  dsimp only
  rw [State.fetch_eq]
  dsimp only
  cases s.fetchBad cl j (g.choose ready).1 found <;> rfl

/-- A scheduler's uses of registers are noted. -/
def State.withUses (s : State) (cl : Cl) (sched : Sched) (uses : List (Nat × List Nat)) : State :=
  s.setTg cl { s.tg cl with uses := Tbl.put [] (s.tg cl).uses sched.val uses }

theorem State.withUses_onTg (s : State) (cl : Cl) (sched : Sched) (uses : List (Nat × List Nat)) :
    OnTg cl s (s.withUses cl sched uses) { s.tg cl with uses := Tbl.put [] (s.tg cl).uses sched.val uses } :=
  .setTg (fun _ _ => rfl) _

theorem State.withUses_fetchBad (s : State) (cl : Cl) (sched : Sched) (uses : List (Nat × List Nat)) (j : Job) (pc : Nat)
    (found : IssueErrs) : (s.withUses cl sched uses).fetchBad cl j pc found = (s.fetch cl j pc found).2 := by
  rw [State.fetch_eq]
  refine State.fetchBad_of_same s cl j pc found (.setTg s cl _) ?_
  rw [(s.withUses_onTg cl sched uses).tg]

/-- What is issued: the next group of the scheduler, its lanes chosen, their instruction fetched. -/
structure Issues (s : State) (cl : Cl) (sched : Sched) (j : Job) (uses : List (Nat × List Nat)) (reuse : List Nat)
    (found : IssueErrs) (bad : Option (Nat × Word64)) (sl : Nat) (g : Group) (pc : Nat) (set : List Nat) : Prop where
  slot : sl < 12
  group : Tbl.find (s.tg cl).groups (slotKey sched sl) = some g
  ready : g.readyLanes uses s.time.core ≠ []
  chosen : g.choose (g.readyLanes uses s.time.core) = (pc, set)
  fetch : (s.withUses cl sched uses).fetchBad cl j pc found = bad
  next : s.groupIssue cl sched uses reuse found = (s.withUses cl sched uses).issueGroup cl sched j uses reuse found
  picked : (s.withUses cl sched uses).nextGroup cl sched uses = some (sl, g, g.readyLanes uses s.time.core)

theorem State.exists_issues {bad : Option (Nat × Word64)} (hjob : s.jobOn cl = some j) (hactive : s.ctxState j.ctx.val = ctxActive)
    (hcore : s.coreStopped = false) (hfree : Tbl.find (s.tg cl).issue sched.val = none)
    (hbusy : Tbl.get 0 (s.tg cl).freeAt sched.val ≤ s.time.core)
    (hsome : ∃ sl g, sl < 12 ∧ Tbl.find (s.tg cl).groups (slotKey sched sl) = some g ∧ g.readyLanes uses s.time.core ≠ [])
    (hfetch : ∀ sl g, sl < 12 → Tbl.find (s.tg cl).groups (slotKey sched sl) = some g → g.readyLanes uses s.time.core ≠ [] →
      (s.fetch cl j (g.choose (g.readyLanes uses s.time.core)).1 found).2 = bad) :
    ∃ sl g pc set, Issues s cl sched j uses reuse found bad sl g pc set := by
  have hgroups : ((s.withUses cl sched uses).tg cl).groups = (s.tg cl).groups := by rw [(s.withUses_onTg cl sched uses).tg]
  obtain ⟨sl₀, g₀, hsl₀, hg₀, hready₀⟩ := hsome
  obtain ⟨sl, g, ready, hpick⟩ := State.exists_nextGroup (s := s.withUses cl sched uses) hsl₀ (hgroups.symm ▸ hg₀) hready₀
  obtain ⟨hsl, hg, rfl, hready⟩ := State.nextGroup_spec hpick
  rw [hgroups] at hg
  refine ⟨sl, g, _, _, hsl, hg, hready, rfl, ?_, ?_, hpick⟩
  · rw [State.withUses_fetchBad]
    exact hfetch sl g hsl hg hready
  · simp only [State.groupIssue, hjob, hactive, hcore, hfree, hbusy, beq_self_eq_true, Bool.not_false, Option.isNone_none,
      decide_true, Bool.and_self, if_true]
    rfl

/-- The state in which the instruction of an issue set has been fetched. -/
def State.issueFetched (s : State) (cl : Cl) (sched : Sched) (uses : List (Nat × List Nat)) (j : Job) (pc : Nat) (found : IssueErrs) :
    State := (s.withUses cl sched uses).fetchDone cl j pc found

theorem State.issueFetched_onTg (s : State) (cl : Cl) (sched : Sched) (uses : List (Nat × List Nat)) (j : Job) (pc : Nat)
    (found : IssueErrs) : OnTg cl s (s.issueFetched cl sched uses j pc found)
      { s.tg cl with
        uses := Tbl.put [] (s.tg cl).uses sched.val uses
        icache := (s.withUses cl sched uses).fetchLines cl j pc found } := by
  have huses := s.withUses_onTg cl sched uses
  obtain ⟨hothers, htg⟩ := (s.withUses cl sched uses).fetchDone_onTg cl j pc found
  exact ⟨fun k hk => (hothers k hk).trans (huses.others k hk), by rw [State.issueFetched, htg, huses.tg]⟩

theorem State.issueFetched_keeps (s : State) (cl : Cl) (sched : Sched) (uses : List (Nat × List Nat)) (j : Job) (pc : Nat)
    (found : IssueErrs) : State.Keeps [.regs, .clusters] s (s.issueFetched cl sched uses j pc found) :=
  (State.setTg_keeps (by decide) (State.Keeps.refl _ s) _ _).trans (State.fetchDone_keeps _ cl j pc found)

theorem State.issueFetched_regs (hicache : found.icache = false) (s : State) (cl : Cl) (sched : Sched) (uses : List (Nat × List Nat))
    (j : Job) (pc : Nat) : (s.issueFetched cl sched uses j pc found).regs = s.regs := by
  rw [State.issueFetched, State.fetchDone_clean hicache]
  rfl

theorem State.operandsRead_keeps {C : List Part} (hc : [Part.regs, .clusters, .caddy, .link, .can, .snap, .out] ⊆ C) {s₀ w : State}
    (h : State.Keeps C s₀ w) (pc : Nat) (set : List Nat) (key : Nat) :
    State.Keeps C s₀ (w.operandsRead cl sched uses pc set key found) :=
  State.Keeps.foldl (fun _ e hu => State.regError_keeps hc hu cl key e) _
    (State.cacheParity_keeps (List.Subset.trans (by decide) hc) h cl sched.val key found.rcache)

/-- A note is one of any state with the same faults and counts. -/
theorem Noted.of_same {s w t : State} {n : TgNote} (h : Noted w t n) (hseq : w.seq = s.seq) (hregs : w.regs = s.regs) :
    Noted s t n := by
  obtain ⟨hfaults, hentries, hcount⟩ := h
  exact ⟨hseq ▸ hfaults, ((Entries.refl _ s).of_regs hregs).trans hentries,
    fun hc => (hcount hc).trans (congrArg (· + 1) (State.reg_of_regs hregs _ _))⟩

namespace Issues

variable {pc : Nat} {set : List Nat} {bad : Option (Nat × Word64)} (h : Issues s cl sched j uses reuse found bad sl g pc set)
include h

theorem set_ne_nil : set ≠ [] := by
  have hne := g.choose_ne_nil h.ready
  rwa [h.chosen] at hne

theorem mem_set {l : Nat} (hl : l ∈ set) : l ∈ g.readyLanes uses s.time.core ∧ ∃ y, g.threads[l]? = some y ∧ y.pc = pc := by
  have hset : set = (g.choose (g.readyLanes uses s.time.core)).2 := by rw [h.chosen]
  have hpc : (g.choose (g.readyLanes uses s.time.core)).1 = pc := by rw [h.chosen]
  obtain ⟨hmem, y, hy, hypc⟩ := Group.mem_choose (hset ▸ hl)
  exact ⟨hmem, y, hy, hypc.trans hpc⟩

theorem runs_of_good (hbad : bad = none) : s.groupIssue cl sched uses reuse found =
    ((s.issueFetched cl sched uses j pc found).operandsRead cl sched uses pc set (slotKey sched sl) found).handedOut cl sched
      uses reuse sl pc (g.readyLanes uses s.time.core) set := by
  rw [h.next, State.issueGroup_eq h.picked, h.chosen, h.fetch, hbad]
  rfl

theorem runs_of_bad {c : Nat} {a : Word64} (hbad : bad = some (c, a)) : s.groupIssue cl sched uses reuse found =
    (s.issueFetched cl sched uses j pc found).tgFault cl sched sl (set.headD 0) c pc a := by
  rw [h.next, State.issueGroup_eq h.picked, h.chosen, h.fetch, hbad]
  rfl

/-- An issue that finds nothing wrong. -/
theorem issues_cleanly (hbad : bad = none) (hicache : found.icache = false) (hrcache : found.rcache = []) (hregs : found.regs = []) :
    Runs (.groupIssue cl sched uses reuse found) s [.regs, .clusters] fun t => OtherClusters cl s t
      ∧ ∃ sl g i, sl < 12 ∧ Tbl.find (s.tg cl).groups (slotKey sched sl) = some g
          ∧ Tbl.find (t.tg cl).issue sched.val = some i ∧ i.group = sl ∧ Tbl.get 11 (t.tg cl).last sched.val = sl
          ∧ i.lanes ≠ [] ∧ (∀ l ∈ i.lanes, l ∈ g.readyLanes uses s.time.core
              ∧ ∃ th, g.threads[l]? = some th ∧ th.pc = i.pc)
          ∧ (j.prog + i.pc) / 128 ∈ (t.tg cl).icache
          ∧ t.reg (0x3600 + cl.val) 1 = s.reg (0x3600 + cl.val) 1 + 1
          ∧ t.reg (0x3600 + cl.val) 3 = s.reg (0x3600 + cl.val) 3 + BitVec.ofNat 64 i.lanes.length
          ∧ Entries [(0x3600 + cl.val, 1), (0x3600 + cl.val, 3)] s t := by
  have hfetched := s.issueFetched_onTg cl sched uses j pc found
  have hfregs := State.issueFetched_regs hicache s cl sched uses j pc
  have hkeeps := s.issueFetched_keeps cl sched uses j pc found
  have hlines := (s.withUses cl sched uses).mem_fetchLines cl j pc found (h.fetch.trans hbad)
  have hrun := h.runs_of_good hbad
  generalize s.issueFetched cl sched uses j pc found = w at hfetched hfregs hkeeps hrun
  have hread : w.operandsRead cl sched uses pc set (slotKey sched sl) found = w.cacheParity cl sched.val (slotKey sched sl) [] := by
    rw [State.operandsRead, hrcache, hregs]
    rfl
  have hparity := w.cacheParity_onTg cl sched (slotKey sched sl) []
  have hparityRegs : (w.cacheParity cl sched.val (slotKey sched sl) []).regs = w.regs := rfl
  have hparityKeeps := State.cacheParity_keeps (List.Subset.refl _) hkeeps cl sched.val (slotKey sched sl) []
  rw [hread] at hrun
  generalize w.cacheParity cl sched.val (slotKey sched sl) [] = v at hparity hparityRegs hparityKeeps hrun
  have hhanded := v.handedOut_onTg cl sched uses reuse sl pc (g.readyLanes uses s.time.core) set
  have hcounted := (Counted.of_regs (hparityRegs.trans hfregs)).trans
    (v.handedOut_counted cl sched uses reuse sl pc (g.readyLanes uses s.time.core) set)
  rw [Nat.zero_add, Nat.zero_add] at hcounted
  obtain ⟨hissue, hlast⟩ := v.handedOut_issue cl sched uses reuse sl pc (g.readyLanes uses s.time.core) set hhanded
  refine ⟨_, congrArg Host.Outcome.next hrun, (State.handedOut_keeps v cl sched uses reuse sl pc _ set (List.Subset.refl _)
      hparityKeeps).frame,
    fun k hk => (hhanded.others k hk).trans ((hparity.others k hk).trans (hfetched.others k hk)), sl, g, ⟨sl, set, pc⟩, h.slot,
    h.group, hissue, rfl, hlast, h.set_ne_nil, fun l hl => h.mem_set hl, ?_, hcounted.fst, hcounted.snd, hcounted.entries⟩
  have hicacheEq : (v.handedTg cl sched uses reuse sl pc (g.readyLanes uses s.time.core) set).icache
      = (s.withUses cl sched uses).fetchLines cl j pc found := by
    rw [State.handedTg, hparity.tg, Tg.parityLost, hfetched.tg]
  rw [hhanded.tg, hicacheEq]
  exact hlines

/-- A word read with more than two wrong bits is poisoned. -/
theorem issues_poisoning (hbad : bad = none) :
    Runs (.groupIssue cl sched uses reuse found) s [.regs, .clusters, .caddy, .link, .can, .snap, .out] fun t =>
      OtherClusters cl s t ∧ ∃ i, Tbl.find (t.tg cl).issue sched.val = some i
        ∧ ∀ e ∈ found.regs, 2 < e.bits → e.lane ∈ i.lanes → e.reg ∈ usesAt uses i.pc →
            (sched.val, slotKey sched i.group, e.reg) ∉ (s.tg cl).rcache →
          ∃ th, (t.tg cl).thread? (slotKey sched i.group) e.lane = some th ∧ e.reg / 2 ∈ th.poison := by
  have hfetched := s.issueFetched_onTg cl sched uses j pc found
  have hkeeps := s.issueFetched_keeps cl sched uses j pc found
  have hrun := h.runs_of_good hbad
  generalize s.issueFetched cl sched uses j pc found = w at hfetched hkeeps hrun
  have hparity := w.cacheParity_onTg cl sched (slotKey sched sl) found.rcache
  have hreadKeeps := State.operandsRead_keeps (cl := cl) (sched := sched) (uses := uses) (found := found)
    (List.Subset.refl _) (hkeeps.wider (by decide)) pc set (slotKey sched sl)
  have hreadOthers : OtherClusters cl (w.cacheParity cl sched.val (slotKey sched sl) found.rcache)
      (w.operandsRead cl sched uses pc set (slotKey sched sl) found) := State.regErrors_others cl (slotKey sched sl) _ _
  have hhanded := (w.operandsRead cl sched uses pc set (slotKey sched sl) found).handedOut_onTg cl sched uses reuse sl pc
    (g.readyLanes uses s.time.core) set
  refine ⟨_, congrArg Host.Outcome.next hrun,
    (State.handedOut_keeps _ cl sched uses reuse sl pc _ set (by decide) hreadKeeps).frame,
    fun k hk => (hhanded.others k hk).trans ((hreadOthers k hk).trans ((hparity.others k hk).trans (hfetched.others k hk))),
    ⟨sl, set, pc⟩, (State.handedOut_issue _ cl sched uses reuse sl pc _ set hhanded).1, fun e he hbits hlane huse hcache => ?_⟩
  have hthere : (((w.cacheParity cl sched.val (slotKey sched sl) found.rcache).tg cl).thread? (slotKey sched sl) e.lane).isSome
      = true := by
    obtain ⟨-, y, hy, -⟩ := h.mem_set hlane
    have hgroups : ((w.cacheParity cl sched.val (slotKey sched sl) found.rcache).tg cl).groups = (s.tg cl).groups := by
      rw [hparity.tg, Tg.parityLost, hfetched.tg]
    rw [Tg.thread?, hgroups, h.group, Option.bind_some, hy]
    rfl
  have hcached : (sched.val, slotKey sched sl, e.reg) ∉ ((w.cacheParity cl sched.val (slotKey sched sl) found.rcache).tg cl).rcache := by
    rw [hparity.tg, Tg.parityLost, hfetched.tg]
    exact fun hmem => hcache (List.mem_filter.1 hmem).1
  have hread : e ∈ found.regs.filter fun e => decide (e.lane ∈ set ∧ e.reg ∈ usesAt uses pc
      ∧ (sched.val, slotKey sched sl, e.reg) ∉ ((w.cacheParity cl sched.val (slotKey sched sl) found.rcache).tg cl).rcache) :=
    List.mem_filter.2 ⟨he, decide_eq_true ⟨hlane, huse, hcached⟩⟩
  obtain ⟨y, hy, hpois⟩ := State.regErrors_soak hread hbits hthere
  obtain ⟨n, hn⟩ := State.handedTg_thread? (w.operandsRead cl sched uses pc set (slotKey sched sl) found) cl sched uses reuse sl pc
    (g.readyLanes uses s.time.core) set hy
  rw [hhanded.tg]
  exact ⟨_, hn, hpois⟩

/-- An instruction that cannot be fetched. -/
theorem issues_fault {c : Nat} {a : Word64} (hjob : s.jobOn cl = some j) (hfree : Tbl.find (s.tg cl).issue sched.val = none)
    (hbad : bad = some (c, a)) (hicache : found.icache = false) :
    Runs (.groupIssue cl sched uses reuse found) s [.regs, .clusters, .seq] fun t => OtherClusters cl s t
      ∧ Tbl.find (t.tg cl).issue sched.val = none
      ∧ ∃ sl g, sl < 12 ∧ Tbl.find (s.tg cl).groups (slotKey sched sl) = some g
        ∧ Noted s t ⟨cl, sched, sl, (g.choose (g.readyLanes uses s.time.core)).2.headD 0, c,
            (g.choose (g.readyLanes uses s.time.core)).1, a, j.id⟩ := by
  have hfetched := s.issueFetched_onTg cl sched uses j pc found
  have hfregs := State.issueFetched_regs hicache s cl sched uses j pc
  have hkeeps := s.issueFetched_keeps cl sched uses j pc found
  have hwjob : (s.issueFetched cl sched uses j pc found).jobOn cl = some j := by
    rw [State.issueFetched, State.fetchDone_clean hicache, State.jobOn_setTg, State.withUses, State.jobOn_setTg, hjob]
  have hrun := h.runs_of_bad hbad
  generalize s.issueFetched cl sched uses j pc found = w at hfetched hfregs hkeeps hrun hwjob
  have hnotes := State.tgFault_notes hwjob sched sl (set.headD 0) c pc a
  have hclusters : (w.tgFault cl sched sl (set.headD 0) c pc a).clusters = w.clusters :=
    (State.tgFault_keeps (List.Subset.refl _) (State.Keeps.refl _ w) _ _ _ _ _ _ _).parts .clusters (by decide)
  have hon := hfetched.of_clusters hclusters
  refine ⟨_, congrArg Host.Outcome.next hrun, (State.tgFault_keeps (by decide) (hkeeps.wider (by decide)) _ _ _ _ _ _ _).frame,
    hon.others, ?_, sl, g, h.slot, h.group, ?_⟩
  · rw [hon.tg]
    exact hfree
  · rw [h.chosen]
    exact hnotes.of_same (hkeeps.parts .seq (by decide)) hfregs

end Issues

end

/-- Settles O29: blocks take slots that were free (`takeSlots_free`), an issue takes the chosen lanes of the scheduler's next
group (`Issues`), and an exit ends the block whose threads have all ended (`Tg.over`). -/
theorem blocksArePlacedIssuedAndEnd : Obligations.BlocksArePlacedIssuedAndEnd := by
  refine ⟨fun s cl j b scheds hjob htgj hactive hcore hgrid hroom hslot hassign =>
      blockPlace_places hjob htgj hactive hcore hgrid hroom hslot hassign,
    fun s cl sched j uses reuse found bad hjob hactive hcore hfree hbusy hsome hfetch => ?_,
    fun s th x b hex hgood hb => ⟨exit_frees hex hgood hb, fun ⟨k, l, y, hk, hout, hy, hruns⟩ =>
      exit_leaves hex hgood hb hk hout hy hruns⟩,
    fun s x r hr l hl d keep pc off n => s.dropLoads_spares x hr hl d keep pc off n,
    fun s th x c lane hex hbad => exit_faults hex hbad⟩
  obtain ⟨sl, g, pc, set, h⟩ := State.exists_issues (reuse := reuse) hjob hactive hcore hfree hbusy hsome hfetch
  exact ⟨h.issues_cleanly, h.issues_poisoning, fun c a => h.issues_fault hjob hfree⟩

end Sys2Proof.Machine
end
